-- ==== Sys2Proof/Word.lean ====
section
/-! DEFINITION. The word types of the device: bytes, 32-bit lanes and instruction words, 64-bit scalars, and the identifiers that index its units. -/
namespace Sys2Proof

/-- One byte. -/
abbrev Byte := BitVec 8
/-- A 32-bit lane of a token, an instruction word, or a word of scratchpad (R35, R88). -/
abbrev Lane := BitVec 32
/-- A 64-bit scalar (R46). -/
abbrev DWord := BitVec 64
/-- An 80-bit virtual address: window [79:64], bits [63:48], offset [47:0] (R69). -/
abbrev VAddr := BitVec 80
/-- Partition id 0 to 63; 0 is unowned (R337). -/
abbrev PartId := BitVec 6
/-- A physical task slot of a tile, 0 to 15 (R9). -/
abbrev SlotId := BitVec 4

end Sys2Proof
end

