-- ==== Sys2Proof/Syntax.lean ====
section
/-! DEFINITION. The instruction type: one constructor for each row of the spec's table of operations and events, with the operand types they carry. -/
namespace Sys2Proof

/-! ## Operand types of instruction words -/

/-- Width of `sext` and `zext`: mod 0, 1, 2 (R66). -/
inductive ExtWidth where
  | w8 | w16 | w32
  deriving DecidableEq, Repr

/-- Unit named by `fork` (R75 table): 0 matrix, 1 stream. -/
inductive ForkUnit where
  | matrix | stream
  deriving DecidableEq, Repr

/-- Register file named by `pushm` and `popm`, mod[1:0] (R74). -/
inductive RFile where
  | g | b | m | w
  deriving DecidableEq, Repr

/-- System registers by name (R54). -/
inductive SReg where
  | tileid | taskid | acr | ssp | cyc | fltq | ntile | nlane | nfmt | npc | tcause | tpc | tval
  deriving DecidableEq, Repr

/-- Kind of a fence, imm7[3:2] (R44). -/
inductive FenceKind where
  | full | acq | rel
  deriving DecidableEq, Repr

/-- Ordering of an atomic, mod[3:2] (R130). -/
inductive AtOrder where
  | relaxed | acq | rel | acqrel
  deriving DecidableEq, Repr

/-- Scopes, narrowest first (R133). -/
inductive Scope where
  | tile | region | device | system
  deriving DecidableEq, Repr

/-- Element types of format T (R42), the reserved codes left out. -/
inductive EType where
  | f32 | bf16 | f16 | e4m3 | e5m2 | i8 | i16 | i32 | i64 | e8m0 | cb2 | untyped
  deriving DecidableEq, Repr

/-- Mode of `v.setv` and `v.setp`, [5:4]: 0 replace, 1 and (setv) or or (setp), 2 andn (R194). -/
inductive BitMode where
  | replace | combine | andn
  deriving DecidableEq, Repr

/-- Kinds of a token (R88). -/
inductive TokKind where
  | data | control | marker | eos
  deriving DecidableEq, Repr

/-- Colour plane of `v.deq` (R236). -/
inductive Plane where
  | y | cb | cr
  deriving DecidableEq, Repr

/-- Fields that `v.bfx` reads (R237). -/
inductive RecField where
  | x | y | log2w | log2h | mode | bi | cbf | reason | qp | count | ref0 | ref1 | mvx0 | mvy0 | mvx1 | mvy1
  deriving DecidableEq, Repr

/-- Operand formats of a matrix product, A × B (R43), the reserved code left out. -/
inductive MatFmt where
  | e4m3 | e4m3e5m2 | e5m2e4m3 | e5m2 | bf16 | e4m3cb2 | e5m2cb2
  deriving DecidableEq, Repr

/-- Formats that `m.ld` accepts (R208). -/
inductive StatFmt where
  | e4m3 | e5m2 | bf16 | cb2
  deriving DecidableEq, Repr

/-- A g register source with its wait bit, or an input port (aux of `m.drain` and `m.ld`, R198). -/
inductive GOrPort where
  | g (r : BitVec 4) (w : Bool)
  | port (p : BitVec 3)
  deriving DecidableEq, Repr

/-- Destination of `rl.thr` (R221): a token code, a g register for one row, or a g register for the flags.
The row field is carried in every form, since R198 lists it for the instruction. -/
inductive ThrDest where
  | tok (d row : BitVec 4)
  | g (d row : BitVec 4)
  | flags (d row : BitVec 4)
  deriving DecidableEq, Repr

/-- Endpoint of a read-class stream command: output port or ring (R45, R103). -/
inductive StreamDest where
  | port (p : BitVec 3)
  | ring (r : BitVec 2)
  deriving DecidableEq, Repr

/-- Transform codes of a stream command (R105), the illegal codes left out. -/
inductive Xform where
  | move | zext | sext | low | bcast
  deriving DecidableEq, Repr

/-! ## Operand types of events -/

/-- A stream engine of a tile, or one of the recompute contexts of slot 15 (R9, R303). -/
inductive EngineId where
  | eng (e : BitVec 3)
  | rcRead
  | rcWrite
  deriving DecidableEq, Repr

/-- A frame: partition, window and offset divided by 4,096 (R120, R121). -/
structure FrameKey where
  part : PartId
  win  : BitVec 16
  fr   : BitVec 36
  deriving DecidableEq, Repr

/-- What another rank brings to a collective (R140): its parameters and its elements, each byte with its poison. -/
structure RankInput where
  rank  : Nat
  dev   : BitVec 18                 -- device and partition that its flits are stamped with (R350)
  part  : PartId
  group : BitVec 16
  id    : BitVec 16
  op    : BitVec 4
  etype : BitVec 4
  count : BitVec 32
  size  : BitVec 32
  peer  : BitVec 32
  data  : List (Byte × Bool)
  refused : Bool := false           -- its inbound table refuses this device's part (R350)
  deriving DecidableEq, Repr

/-- A task as TASKCMD names it (R363). -/
structure TaskRef where
  region : BitVec 16
  lx : BitVec 8
  ly : BitVec 8
  slot : BitVec 4
  deriving DecidableEq, Repr

/-- An ownership command (R345). -/
structure OwnRect where
  owner : PartId
  px0 : BitVec 6
  py0 : BitVec 5
  px1 : BitVec 6
  py1 : BitVec 5
  deriving DecidableEq, Repr

/-- The debug path of a Shutter readout (R369). -/
inductive ReadoutAgent where
  | systemBus | jtag
  deriving DecidableEq, Repr

/-- Power and temperature as they stand: watts and the hottest die in units of 1/8 °C (R381). -/
structure ThermalInput where
  watts : Nat
  temp  : BitVec 16
  deriving DecidableEq, Repr

/-- Who pushes a launch descriptor through LQPUSH (R374). -/
inductive Requester where
  | hart | host
  deriving DecidableEq, Repr

/-- A register page of the control space (R338). -/
inductive RegPage where
  | monitor
  | part (p : PartId)
  deriving DecidableEq, Repr

/-- A PCIe function of the device (R371). -/
inductive HostFn where
  | pf0
  | vf (k : BitVec 3)
  deriving DecidableEq, Repr

/-- A host request through a BAR (R372): bytes written, or none for a read of `len` bytes. -/
structure HostReq where
  fn  : HostFn
  bar : Nat
  off : Nat
  len : Nat
  wr  : Option (List Byte)
  deriving DecidableEq, Repr

/-- Privilege modes of a hart (R337). -/
inductive HartMode where
  | m | hs | vs | vu
  deriving DecidableEq, Repr

/-- A hart's load (no data) or store of `size` bytes at a hart physical address (R266, R338). -/
structure HartReq where
  hart : BitVec 3
  mode : HartMode
  addr : Nat
  size : Nat
  wr   : Option DWord
  deriving DecidableEq, Repr

/-- What the outside supplies at reset (R376): whether HBM training and the flash read succeed. -/
structure BootInput where
  hbmOk   : Bool
  flashOk : Bool
  deriving DecidableEq, Repr

/-- What a Wildom flit carries (R350, R365): a peer's request, or the answer to one of ours. A byte that a write leaves as it is
is absent. -/
inductive FlitBody where
  | read (win : BitVec 16) (off : BitVec 48) (len : Nat)
  | write (win : BitVec 16) (off : BitVec 48) (data : List (Option (Byte × Bool)))
  | atomic (win : BitVec 16) (off : BitVec 48) (op : Nat) (x cmp : DWord)
  | readVersion (win : BitVec 16) (off : BitVec 48) (v : BitVec 32) (len : Nat)
  | writeVersion (win : BitVec 16) (off : BitVec 48) (v : BitVec 32) (data : List (Option (Byte × Bool)))
  | endVersion (win : BitVec 16) (off : BitVec 48) (v : BitVec 32)
  | dropVersion (win : BitVec 16) (off : BitVec 48) (v : BitVec 32)
  | frameOp (win : BitVec 16) (off : BitVec 48) (op : Nat) (v : BitVec 32) (block : List DWord)
  | reply (id : Nat) (ok : Bool) (data : List (Byte × Bool))
  | ack (n : Nat)
  | nak
  deriving DecidableEq, Repr

/-- A Wildom flit: CRC result, the source stamped by the sender's hardware, the partition addressed (R350, R365). -/
structure Flit where
  crcOk   : Bool
  srcDev  : BitVec 18
  srcPart : PartId
  dstPart : PartId
  id      : Nat                     -- the number its sender gave the request
  body    : FlitBody
  deriving DecidableEq, Repr

/-- Where an uncorrectable error falls (R364). -/
inductive SoftError where
  | spWord (t a : Nat)
  | istore (t ix : Nat)
  | inFifo (t : Nat) (ph : BitVec 2) (p : BitVec 3) (n : Nat) (k : BitVec 4)
  | outFifo (t : Nat) (ph : BitVec 2) (p : BitVec 3) (n : Nat) (k : BitVec 4)
  | junction (t : Nat) (ph : BitVec 2) (j : BitVec 3) (side n : Nat) (k : BitVec 4)
  | accum (t : Nat) (ph : BitVec 2) (acc : BitVec 4) (n : BitVec 8)
  | stationary (t : Nat) (ph : BitVec 2) (active : Bool) (n : Nat)
  | rcFifo (t : Nat) (p : BitVec 3) (n : Nat) (k : BitVec 4)
  | rcAccum (t : Nat) (n : BitVec 8)
  | rcStat (t : Nat) (active : Bool) (n : Nat)
  | hop (rkey : Nat) (c : BitVec 16) (n : Nat) (k : BitVec 4)   -- a token on a circuit, nearest the destination first
  | hbm (pa : Nat)
  | tlb (t : Nat) (n : Nat)         -- a tile's first-level TLB; beyond the tiles, a die's second-level one
  | control (rg : Nat)
  | directory (p : PartId)
  | corrected (inHbm : Bool)
  deriving DecidableEq, Repr

/-! ## The instructions

One constructor for each row. Register fields carry the register's number in its file: g and token codes 4 bits,
b and w and ports 3, m 2 (R46). `w` and `v` are the wait bits of the first and second g source, `k` a mask, `e` an
element type. Events name the unit that acts. -/

inductive Instr where
  /-- ADD (R66). Writes g[s1] + g[s2] modulo 2^64 to g[d]. -/
  | add (d : BitVec 4) (a : BitVec 4) (b : BitVec 4) (w : Bool) (v : Bool)
  /-- SUB (R66). Writes g[s1] - g[s2] modulo 2^64 to g[d]. -/
  | sub (d : BitVec 4) (a : BitVec 4) (b : BitVec 4) (w : Bool) (v : Bool)
  /-- MUL (R66). Writes the low 64 bits of g[s1] times g[s2] to g[d]. -/
  | mul (d : BitVec 4) (a : BitVec 4) (b : BitVec 4) (w : Bool) (v : Bool)
  /-- MULH (R66). Writes the high 64 bits of the signed 128-bit product to g[d]. -/
  | mulh (d : BitVec 4) (a : BitVec 4) (b : BitVec 4) (w : Bool) (v : Bool)
  /-- MULHU (R66). Writes the high 64 bits of the unsigned 128-bit product to g[d]. -/
  | mulhu (d : BitVec 4) (a : BitVec 4) (b : BitVec 4) (w : Bool) (v : Bool)
  /-- DIV (R66). Writes the signed quotient truncated toward zero, with fixed results for zero divisor and overflow. -/
  | div (d : BitVec 4) (a : BitVec 4) (b : BitVec 4) (w : Bool) (v : Bool)
  /-- DIVU (R66). Writes the unsigned quotient, all ones for a zero divisor. -/
  | divu (d : BitVec 4) (a : BitVec 4) (b : BitVec 4) (w : Bool) (v : Bool)
  /-- REM (R66). Writes the signed remainder with the sign of the dividend. -/
  | rem (d : BitVec 4) (a : BitVec 4) (b : BitVec 4) (w : Bool) (v : Bool)
  /-- REMU (R66). Writes the unsigned remainder. -/
  | remu (d : BitVec 4) (a : BitVec 4) (b : BitVec 4) (w : Bool) (v : Bool)
  /-- AND (R66). Writes the bitwise AND of g[s1] and g[s2]. -/
  | and (d : BitVec 4) (a : BitVec 4) (b : BitVec 4) (w : Bool) (v : Bool)
  /-- OR (R66). Writes the bitwise OR of g[s1] and g[s2]. -/
  | or (d : BitVec 4) (a : BitVec 4) (b : BitVec 4) (w : Bool) (v : Bool)
  /-- XOR (R66). Writes the bitwise XOR of g[s1] and g[s2]. -/
  | xor (d : BitVec 4) (a : BitVec 4) (b : BitVec 4) (w : Bool) (v : Bool)
  /-- ANDN (R66). Writes g[s1] AND NOT g[s2]. -/
  | andn (d : BitVec 4) (a : BitVec 4) (b : BitVec 4) (w : Bool) (v : Bool)
  /-- SLL (R66). Shifts g[s1] left by g[s2][5:0]. -/
  | sll (d : BitVec 4) (a : BitVec 4) (b : BitVec 4) (w : Bool) (v : Bool)
  /-- SRL (R66). Shifts g[s1] logically right by g[s2][5:0]. -/
  | srl (d : BitVec 4) (a : BitVec 4) (b : BitVec 4) (w : Bool) (v : Bool)
  /-- SRA (R66). Shifts g[s1] arithmetically right by g[s2][5:0]. -/
  | sra (d : BitVec 4) (a : BitVec 4) (b : BitVec 4) (w : Bool) (v : Bool)
  /-- SLT (R66). Writes 1 if g[s1] is less than g[s2] signed, else 0. -/
  | slt (d : BitVec 4) (a : BitVec 4) (b : BitVec 4) (w : Bool) (v : Bool)
  /-- SLTU (R66). Writes 1 if g[s1] is less than g[s2] unsigned, else 0. -/
  | sltu (d : BitVec 4) (a : BitVec 4) (b : BitVec 4) (w : Bool) (v : Bool)
  /-- MIN (R66). Writes the signed minimum. -/
  | min (d : BitVec 4) (a : BitVec 4) (b : BitVec 4) (w : Bool) (v : Bool)
  /-- MAX (R66). Writes the signed maximum. -/
  | max (d : BitVec 4) (a : BitVec 4) (b : BitVec 4) (w : Bool) (v : Bool)
  /-- MINU (R66). Writes the unsigned minimum. -/
  | minu (d : BitVec 4) (a : BitVec 4) (b : BitVec 4) (w : Bool) (v : Bool)
  /-- MAXU (R66). Writes the unsigned maximum. -/
  | maxu (d : BitVec 4) (a : BitVec 4) (b : BitVec 4) (w : Bool) (v : Bool)
  /-- CLZ (R66). Writes the count of leading zeros of g[s1]. -/
  | clz (d : BitVec 4) (a : BitVec 4) (w : Bool)
  /-- CTZ (R66). Writes the count of trailing zeros of g[s1]. -/
  | ctz (d : BitVec 4) (a : BitVec 4) (w : Bool)
  /-- POPC (R66). Writes the count of ones in g[s1]. -/
  | popc (d : BitVec 4) (a : BitVec 4) (w : Bool)
  /-- MOV (R66). Copies g[s1] to g[d]. -/
  | mov (d : BitVec 4) (a : BitVec 4) (w : Bool)
  /-- SEXT (R66). Sign-extends the low 8, 16 or 32 bits of g[s1] as mod selects. -/
  | sext (d : BitVec 4) (a : BitVec 4) (w : Bool) (n : ExtWidth)
  /-- ZEXT (R66). Zero-extends the low 8, 16 or 32 bits of g[s1] as mod selects. -/
  | zext (d : BitVec 4) (a : BitVec 4) (w : Bool) (n : ExtWidth)
  /-- ADDI (R67). Writes g[s1] plus the sign-extended immediate modulo 2^64. -/
  | addi (d : BitVec 4) (a : BitVec 4) (w : Bool) (i : BitVec 15)
  /-- ANDI (R67). Writes g[s1] AND the sign-extended immediate. -/
  | andi (d : BitVec 4) (a : BitVec 4) (w : Bool) (i : BitVec 15)
  /-- ORI (R67). Writes g[s1] OR the sign-extended immediate. -/
  | ori (d : BitVec 4) (a : BitVec 4) (w : Bool) (i : BitVec 15)
  /-- XORI (R67). Writes g[s1] XOR the sign-extended immediate. -/
  | xori (d : BitVec 4) (a : BitVec 4) (w : Bool) (i : BitVec 15)
  /-- SLLI (R67). Shifts g[s1] left by imm15[5:0]. -/
  | slli (d : BitVec 4) (a : BitVec 4) (w : Bool) (i : BitVec 6)
  /-- SRLI (R67). Shifts g[s1] logically right by imm15[5:0]. -/
  | srli (d : BitVec 4) (a : BitVec 4) (w : Bool) (i : BitVec 6)
  /-- SRAI (R67). Shifts g[s1] arithmetically right by imm15[5:0]. -/
  | srai (d : BitVec 4) (a : BitVec 4) (w : Bool) (i : BitVec 6)
  /-- SLTI (R67). Writes 1 if g[s1] is less than the sign-extended immediate, else 0. -/
  | slti (d : BitVec 4) (a : BitVec 4) (w : Bool) (i : BitVec 15)
  /-- LI (R68). Sets g[d] to the sign-extended 15-bit immediate. -/
  | li (d : BitVec 4) (i : BitVec 15)
  /-- LI_S15 (R68). Replaces bits 29:15 of g[d] with the immediate. -/
  | liS15 (d : BitVec 4) (w : Bool) (i : BitVec 15)
  /-- LI_S30 (R68). Replaces bits 44:30 of g[d] with the immediate. -/
  | liS30 (d : BitVec 4) (w : Bool) (i : BitVec 15)
  /-- LI_S45 (R68). Replaces bits 59:45 of g[d] with the immediate. -/
  | liS45 (d : BitVec 4) (w : Bool) (i : BitVec 15)
  /-- LI_S60 (R68). Replaces bits 63:60 of g[d] with the low four immediate bits. -/
  | liS60 (d : BitVec 4) (w : Bool) (i : BitVec 4)
  /-- B_MOV (R69). Copies one base register to another. -/
  | bMov (d : BitVec 3) (a : BitVec 3)
  /-- B_ADD (R69). Adds g[s2] to the 48-bit offset of a base register, keeping the window. -/
  | bAdd (d : BitVec 3) (a : BitVec 3) (b : BitVec 4) (v : Bool)
  /-- B_ADDI (R69). Adds a signed multiple of 64 from mod to the offset of a base register. -/
  | bAddi (d : BitVec 3) (a : BitVec 3) (n : BitVec 8)
  /-- B_WIN (R69). Builds a base register from a window in g[s1] and an offset in g[s2]. -/
  | bWin (d : BitVec 3) (a : BitVec 4) (b : BitVec 4) (w : Bool) (v : Bool)
  /-- B_GET (R69). Copies bits 63:0 of a base register to g[d]. -/
  | bGet (d : BitVec 4) (a : BitVec 3)
  /-- B_GWIN (R69). Copies the window of a base register to g[d]. -/
  | bGwin (d : BitVec 4) (a : BitVec 3)
  /-- B_CPY (R69). Copies a base register's offset into the window named by g[s2]. -/
  | bCpy (d : BitVec 3) (a : BitVec 3) (b : BitVec 4) (v : Bool)
  /-- LD_B (R70). Loads a sign-extended byte from scratchpad. -/
  | ldB (d : BitVec 4) (a : BitVec 4) (w : Bool) (i : BitVec 15)
  /-- LD_H (R70). Loads a sign-extended halfword from scratchpad. -/
  | ldH (d : BitVec 4) (a : BitVec 4) (w : Bool) (i : BitVec 15)
  /-- LD_W (R70). Loads a sign-extended word from scratchpad. -/
  | ldW (d : BitVec 4) (a : BitVec 4) (w : Bool) (i : BitVec 15)
  /-- LD_D (R70). Loads a doubleword from scratchpad. -/
  | ldD (d : BitVec 4) (a : BitVec 4) (w : Bool) (i : BitVec 15)
  /-- LD_BZ (R70). Loads a zero-extended byte from scratchpad. -/
  | ldBz (d : BitVec 4) (a : BitVec 4) (w : Bool) (i : BitVec 15)
  /-- LD_HZ (R70). Loads a zero-extended halfword from scratchpad. -/
  | ldHz (d : BitVec 4) (a : BitVec 4) (w : Bool) (i : BitVec 15)
  /-- LD_WZ (R70). Loads a zero-extended word from scratchpad. -/
  | ldWz (d : BitVec 4) (a : BitVec 4) (w : Bool) (i : BitVec 15)
  /-- LD_T (R70). Loads 64 bytes of scratchpad into a token register, copying word poison marks into lane poison bits. -/
  | ldT (d : BitVec 3) (a : BitVec 4) (w : Bool) (i : BitVec 15)
  /-- ST_B (R70). Stores the low byte of g[d] to scratchpad. -/
  | stB (d : BitVec 4) (a : BitVec 4) (w : Bool) (i : BitVec 15)
  /-- ST_H (R70). Stores the low halfword of g[d] to scratchpad. -/
  | stH (d : BitVec 4) (a : BitVec 4) (w : Bool) (i : BitVec 15)
  /-- ST_W (R70). Stores the low word of g[d] and clears its poison mark. -/
  | stW (d : BitVec 4) (a : BitVec 4) (w : Bool) (i : BitVec 15)
  /-- ST_D (R70). Stores g[d] as a doubleword and clears its poison marks. -/
  | stD (d : BitVec 4) (a : BitVec 4) (w : Bool) (i : BitVec 15)
  /-- ST_T (R70). Stores the valid lanes of a token register with their poison marks. -/
  | stT (d : BitVec 3) (a : BitVec 4) (w : Bool) (i : BitVec 15)
  /-- BEQZ (R71). Branches if g[s1] equals zero. -/
  | beqz (a : BitVec 4) (w : Bool) (o : BitVec 18)
  /-- BNEZ (R71). Branches if g[s1] is not zero. -/
  | bnez (a : BitVec 4) (w : Bool) (o : BitVec 18)
  /-- BLTZ (R71). Branches if g[s1] is negative. -/
  | bltz (a : BitVec 4) (w : Bool) (o : BitVec 18)
  /-- BGEZ (R71). Branches if g[s1] is zero or positive. -/
  | bgez (a : BitVec 4) (w : Bool) (o : BitVec 18)
  /-- BGTZ (R71). Branches if g[s1] is positive. -/
  | bgtz (a : BitVec 4) (w : Bool) (o : BitVec 18)
  /-- BLEZ (R71). Branches if g[s1] is zero or negative. -/
  | blez (a : BitVec 4) (w : Bool) (o : BitVec 18)
  /-- BFULL (R71). Branches if g[s1] is full, without parking or trapping. -/
  | bfull (a : BitVec 4) (o : BitVec 18)
  /-- BEMPTY (R71). Branches if g[s1] is pending or empty. -/
  | bempty (a : BitVec 4) (o : BitVec 18)
  /-- BMANY (R71). Branches if mask register m[s1] is nonzero. -/
  | bmany (a : BitVec 2) (o : BitVec 18)
  /-- BMNONE (R71). Branches if mask register m[s1] is zero. -/
  | bmnone (a : BitVec 2) (o : BitVec 18)
  /-- J (R72). Jumps by a word offset. -/
  | j (o : BitVec 18)
  /-- CALL (R72). Writes the return index to the link register and jumps by an offset. -/
  | call (l : BitVec 4) (o : BitVec 18)
  /-- JR (R72). Jumps to the word index held in g[s1]. -/
  | jr (a : BitVec 4) (w : Bool)
  /-- CALLR (R72). Jumps to the index in g[s1] and writes the return index to a link register. -/
  | callr (a : BitVec 4) (w : Bool) (l : BitVec 4)
  /-- LOOP (R72). Decrements a counter above 1 and branches, else zeroes it and falls through. -/
  | loop (a : BitVec 4) (w : Bool) (o : BitVec 18)
  /-- GETW (R75). Marks g[d] pending to receive one or two lanes of the next head of an input port. -/
  | getw (d : BitVec 4) (p : BitVec 3) (x : Bool) (l : BitVec 4)
  /-- PUTW (R76). Pushes a data token holding g[s1] in lanes 0 and 1 with a tag onto an output port. -/
  | putw (p : BitVec 3) (a : BitVec 4) (w : Bool) (t : BitVec 6)
  /-- WAITP (R77). Parks until an input port has a head or an output port has a free slot. -/
  | waitp (p : BitVec 3) (o : Bool)
  /-- YIELD (R77). Moves the task to the back of the ready tasks of its class. -/
  | yield
  /-- END (R77). Parks until no register is pending and no forked run is unfinished, then retires the task. -/
  | endTask
  /-- FORK (R78). Queues a run of instructions on the matrix or stream unit. -/
  | fork (u : ForkUnit) (a : BitVec 4) (w : Bool) (c : BitVec 8)
  /-- RDV (R79). Parks until the task's runs and inline instructions on the named units complete, trapping FORK_TRAP if one was abandoned. -/
  | rdv (st : Bool) (mx : Bool)
  /-- TRIG (R80). Copies a launch descriptor from scratchpad into a launch queue as a device-scope release. -/
  | trig (a : BitVec 4) (w : Bool) (p : BitVec 2)
  /-- PUTC (R76). Pushes a control token holding g[s1] onto an output port. -/
  | putc (p : BitVec 3) (a : BitVec 4) (w : Bool) (t : BitVec 6)
  /-- FEW (R73). Parks until g[s1] is full. -/
  | few (a : BitVec 4)
  /-- FEC (R73). Parks while g[d] is pending, then marks it empty. -/
  | fec (d : BitVec 4)
  /-- PUSHM (R74). Pushes a range of registers of one file onto the spill stack. -/
  | pushm (d : BitVec 4) (a : BitVec 4) (w : Bool) (f : RFile)
  /-- POPM (R74). Pops a range of registers of one file from the spill stack. -/
  | popm (d : BitVec 4) (a : BitVec 4) (f : RFile)
  /-- SYSR (R81). Copies a system register to g[d]. -/
  | sysr (g : BitVec 4) (s : SReg)
  /-- SYSW (R81). Writes g to the RW fields of a system register. -/
  | sysw (g : BitVec 4) (w : Bool) (s : SReg)
  /-- TRAP (R83). Traps with cause SOFT and TVAL equal to the code. -/
  | trap (c : BitVec 7)
  /-- BKPT (R83). Traps with cause BKPT. -/
  | bkpt
  /-- ERET (R83). Returns from a handled trap to TPC, optionally skipping the trapped instruction, and clears TCAUSE. -/
  | eret (k : Bool)
  /-- FENCE_T (R86). Full, acquire or release fence at tile scope, ordering loads and stores against the task's stream engines. -/
  | fenceT (k : FenceKind)
  /-- FENCE_R (R86). Full, acquire or release fence at region scope. -/
  | fenceR (k : FenceKind)
  /-- FENCE_D (R86). Full, acquire or release fence at device scope. -/
  | fenceD (k : FenceKind)
  /-- FENCE_S (R86). Full, acquire or release fence at system scope. -/
  | fenceS (k : FenceKind)
  /-- FR_INIT (R126). Retires every version of n frames and recreates version 0 of zeros. -/
  | frInit (a : BitVec 3) (n : BitVec 8)
  /-- FR_WAIT (R126). Marks g[d] pending until version v of a frame exists, as an acquire. -/
  | frWait (d : BitVec 4) (a : BitVec 3) (b : BitVec 4) (v : Bool)
  /-- FR_RECL (R126). Raises a frame's reclaim point and retires unheld versions below it. -/
  | frRecl (a : BitVec 3) (b : BitVec 4) (v : Bool)
  /-- FR_RECIPE (R295). Checks a recipe block and attaches it to a version of a frame at its directory. -/
  | frRecipe (a : BitVec 3) (b : BitVec 4) (v : Bool)
  /-- FR_PIN (R126). Increments the pin count of a version. -/
  | frPin (a : BitVec 3) (b : BitVec 4) (v : Bool)
  /-- FR_UNPIN (R126). Decrements the pin count of a version and retires it if deferred and unheld. -/
  | frUnpin (a : BitVec 3) (b : BitVec 4) (v : Bool)
  /-- FR_STAT (R128). Delivers a frame summary or the state of one version to g[d]. -/
  | frStat (d : BitVec 4) (a : BitVec 3) (q : Option (BitVec 4 × Bool))
  /-- AT_ADD (R131). Atomically adds g[s2] to eight bytes of global memory, returning the old value. -/
  | atAdd (d : BitVec 4) (a : BitVec 3) (b : BitVec 4) (v : Bool) (o : AtOrder) (c : Scope)
  /-- AT_MIN (R131). Atomically stores the signed or unsigned minimum, returning the old value. -/
  | atMin (d : BitVec 4) (a : BitVec 3) (b : BitVec 4) (v : Bool) (u : Bool) (o : AtOrder) (c : Scope)
  /-- AT_MAX (R131). Atomically stores the signed or unsigned maximum, returning the old value. -/
  | atMax (d : BitVec 4) (a : BitVec 3) (b : BitVec 4) (v : Bool) (u : Bool) (o : AtOrder) (c : Scope)
  /-- AT_AND (R131). Atomically ANDs g[s2] into memory, returning the old value. -/
  | atAnd (d : BitVec 4) (a : BitVec 3) (b : BitVec 4) (v : Bool) (o : AtOrder) (c : Scope)
  /-- AT_OR (R131). Atomically ORs g[s2] into memory, returning the old value. -/
  | atOr (d : BitVec 4) (a : BitVec 3) (b : BitVec 4) (v : Bool) (o : AtOrder) (c : Scope)
  /-- AT_XCHG (R131). Atomically exchanges g[s2] with memory. -/
  | atXchg (d : BitVec 4) (a : BitVec 3) (b : BitVec 4) (v : Bool) (o : AtOrder) (c : Scope)
  /-- AT_CAS (R131). Atomically stores g[s2] if memory equals the comparand in g[d], returning the old value. -/
  | atCas (d : BitVec 4) (a : BitVec 3) (b : BitVec 4) (v : Bool) (o : AtOrder) (c : Scope)
  /-- CP_JOB (R135). Checks and enqueues a copy job card for a copy engine. -/
  | cpJob (a : BitVec 4) (w : Bool)
  /-- CP_WAIT (R137). Marks g[d] pending until the task's earlier cards and collectives with an ID complete. -/
  | cpWait (d : BitVec 4) (a : BitVec 4) (w : Bool)
  /-- CL_GATHER (R140). Enqueues a gather collective described in scratchpad. -/
  | clGather (a : BitVec 4) (w : Bool)
  /-- CL_SCATTER (R140). Enqueues a scatter collective. -/
  | clScatter (a : BitVec 4) (w : Bool)
  /-- CL_REDUCE (R140). Enqueues a rank-ordered reduction collective. -/
  | clReduce (a : BitVec 4) (w : Bool)
  /-- CL_SEND (R140). Enqueues a send of n elements to a partner rank. -/
  | clSend (a : BitVec 4) (w : Bool)
  /-- CL_RECV (R140). Enqueues a receive of n elements from a partner rank. -/
  | clRecv (a : BitVec 4) (w : Bool)
  /-- V_ADD (R176). Adds tokens element by element with one rounding. -/
  | vAdd (d : BitVec 4) (a : BitVec 4) (b : BitVec 4) (k : Option (BitVec 2)) (e : EType)
  /-- V_SUB (R176). Subtracts tokens element by element with one rounding. -/
  | vSub (d : BitVec 4) (a : BitVec 4) (b : BitVec 4) (k : Option (BitVec 2)) (e : EType)
  /-- V_MUL (R176). Multiplies tokens element by element with one rounding. -/
  | vMul (d : BitVec 4) (a : BitVec 4) (b : BitVec 4) (k : Option (BitVec 2)) (e : EType)
  /-- V_FMA (R176). Computes a times b plus c with one rounding. -/
  | vFma (d : BitVec 4) (a : BitVec 4) (b : BitVec 4) (c : BitVec 4) (e : EType)
  /-- V_FMS (R176). Computes a times b minus c with one rounding. -/
  | vFms (d : BitVec 4) (a : BitVec 4) (b : BitVec 4) (c : BitVec 4) (e : EType)
  /-- V_FNMA (R176). Computes minus a times b plus c with one rounding. -/
  | vFnma (d : BitVec 4) (a : BitVec 4) (b : BitVec 4) (c : BitVec 4) (e : EType)
  /-- V_ABS (R176). Clears the sign bit of each element. -/
  | vAbs (d : BitVec 4) (a : BitVec 4) (k : Option (BitVec 2)) (e : EType)
  /-- V_NEG (R176). Inverts the sign bit of each element. -/
  | vNeg (d : BitVec 4) (a : BitVec 4) (k : Option (BitVec 2)) (e : EType)
  /-- V_SCL (R176). Scales each element by 2 to the INT32 power in the lane of tb with one rounding. -/
  | vScl (d : BitVec 4) (a : BitVec 4) (b : BitVec 4) (k : Option (BitVec 2)) (e : EType)
  /-- V_CEQ (R178). Compares elements for equality, writing all ones or zero. -/
  | vCeq (d : BitVec 4) (a : BitVec 4) (b : BitVec 4) (k : Option (BitVec 2)) (e : EType)
  /-- V_CNE (R178). Compares elements for inequality. -/
  | vCne (d : BitVec 4) (a : BitVec 4) (b : BitVec 4) (k : Option (BitVec 2)) (e : EType)
  /-- V_CLT (R178). Compares elements for less than. -/
  | vClt (d : BitVec 4) (a : BitVec 4) (b : BitVec 4) (k : Option (BitVec 2)) (e : EType)
  /-- V_CLE (R178). Compares elements for less than or equal. -/
  | vCle (d : BitVec 4) (a : BitVec 4) (b : BitVec 4) (k : Option (BitVec 2)) (e : EType)
  /-- V_CUN (R178). Tests whether either element is NaN. -/
  | vCun (d : BitVec 4) (a : BitVec 4) (b : BitVec 4) (k : Option (BitVec 2)) (e : EType)
  /-- V_SEL (R178). Selects element of ta or tb by the bits of element c. -/
  | vSel (d : BitVec 4) (a : BitVec 4) (b : BitVec 4) (c : BitVec 4) (e : EType)
  /-- V_MIN (R178). Writes the IEEE 754 minimum of elements. -/
  | vMin (d : BitVec 4) (a : BitVec 4) (b : BitVec 4) (k : Option (BitVec 2)) (e : EType)
  /-- V_MAX (R178). Writes the IEEE 754 maximum of elements. -/
  | vMax (d : BitVec 4) (a : BitVec 4) (b : BitVec 4) (k : Option (BitVec 2)) (e : EType)
  /-- V_CLAMP (R178). Clamps each element between two bounds. -/
  | vClamp (d : BitVec 4) (a : BitVec 4) (b : BitVec 4) (c : BitVec 4) (e : EType)
  /-- V_IADD (R180). Adds integer elements modulo 2^W. -/
  | vIadd (d : BitVec 4) (a : BitVec 4) (b : BitVec 4) (k : Option (BitVec 2)) (e : EType)
  /-- V_ISUB (R180). Subtracts integer elements modulo 2^W. -/
  | vIsub (d : BitVec 4) (a : BitVec 4) (b : BitVec 4) (k : Option (BitVec 2)) (e : EType)
  /-- V_IMUL (R180). Multiplies integer elements keeping the low W bits. -/
  | vImul (d : BitVec 4) (a : BitVec 4) (b : BitVec 4) (k : Option (BitVec 2)) (e : EType)
  /-- V_AND (R180). Bitwise AND of tokens. -/
  | vAnd (d : BitVec 4) (a : BitVec 4) (b : BitVec 4) (k : Option (BitVec 2)) (e : EType)
  /-- V_OR (R180). Bitwise OR of tokens. -/
  | vOr (d : BitVec 4) (a : BitVec 4) (b : BitVec 4) (k : Option (BitVec 2)) (e : EType)
  /-- V_XOR (R180). Bitwise XOR of tokens. -/
  | vXor (d : BitVec 4) (a : BitVec 4) (b : BitVec 4) (k : Option (BitVec 2)) (e : EType)
  /-- V_SHL (R180). Shifts integer elements left by b mod W. -/
  | vShl (d : BitVec 4) (a : BitVec 4) (b : BitVec 4) (k : Option (BitVec 2)) (e : EType)
  /-- V_SHR (R180). Shifts integer elements logically right. -/
  | vShr (d : BitVec 4) (a : BitVec 4) (b : BitVec 4) (k : Option (BitVec 2)) (e : EType)
  /-- V_SRA (R180). Shifts integer elements arithmetically right. -/
  | vSra (d : BitVec 4) (a : BitVec 4) (b : BitVec 4) (k : Option (BitVec 2)) (e : EType)
  /-- V_IMIN (R180). Signed minimum of integer elements. -/
  | vImin (d : BitVec 4) (a : BitVec 4) (b : BitVec 4) (k : Option (BitVec 2)) (e : EType)
  /-- V_IMAX (R180). Signed maximum of integer elements. -/
  | vImax (d : BitVec 4) (a : BitVec 4) (b : BitVec 4) (k : Option (BitVec 2)) (e : EType)
  /-- V_ADDS (R180). Saturating integer addition. -/
  | vAdds (d : BitVec 4) (a : BitVec 4) (b : BitVec 4) (k : Option (BitVec 2)) (e : EType)
  /-- V_SUBS (R180). Saturating integer subtraction. -/
  | vSubs (d : BitVec 4) (a : BitVec 4) (b : BitVec 4) (k : Option (BitVec 2)) (e : EType)
  /-- V_IEQ (R180). Integer equality compare. -/
  | vIeq (d : BitVec 4) (a : BitVec 4) (b : BitVec 4) (k : Option (BitVec 2)) (e : EType)
  /-- V_ILT (R180). Signed integer less-than compare. -/
  | vIlt (d : BitVec 4) (a : BitVec 4) (b : BitVec 4) (k : Option (BitVec 2)) (e : EType)
  /-- V_ILTU (R180). Unsigned integer less-than compare. -/
  | vIltu (d : BitVec 4) (a : BitVec 4) (b : BitVec 4) (k : Option (BitVec 2)) (e : EType)
  /-- V_CVT (R182). Converts the elements of a token between formats in a mode, or a part of them for widening. -/
  | vCvt (d : BitVec 4) (a : BitVec 4) (f : EType) (s : Bool) (m : BitVec 3) (e : EType)
  /-- V_CVT_SR (R183). Converts a value token with stochastic rounding using a paired random token. -/
  | vCvtSr (d : BitVec 4) (a : BitVec 4) (b : BitVec 4) (s : Bool) (f : EType) (e : EType)
  /-- V_PACK (R184). Packs the narrow parts of two tokens of wide elements into one token. -/
  | vPack (d : BitVec 4) (a : BitVec 4) (b : BitVec 4) (k : Option (BitVec 2)) (e : EType)
  /-- V_UNPK_LO (R184). Widens the low half of the narrow elements of a token. -/
  | vUnpkLo (d : BitVec 4) (a : BitVec 4) (k : Option (BitVec 2)) (e : EType)
  /-- V_UNPK_HI (R184). Widens the high half of the narrow elements of a token. -/
  | vUnpkHi (d : BitVec 4) (a : BitVec 4) (k : Option (BitVec 2)) (e : EType)
  /-- V_QBLK (R185). Quantises a block of 32 elements to an E8M0 scale and 32 elements. -/
  | vQblk (d : BitVec 4) (a : BitVec 4) (b : Option (BitVec 4)) (m : BitVec 3) (e : EType)
  /-- V_DQBLK (R186). Dequantises a block token to FP32 or BF16. -/
  | vDqblk (d : BitVec 4) (a : BitVec 4) (p : Bool) (q : EType) (e : EType)
  /-- V_RCP (R188). Reciprocal truncated to 12 significant bits. -/
  | vRcp (d : BitVec 4) (a : BitVec 4) (k : Option (BitVec 2)) (e : EType)
  /-- V_RSQ (R188). Reciprocal square root truncated to 12 significant bits. -/
  | vRsq (d : BitVec 4) (a : BitVec 4) (k : Option (BitVec 2)) (e : EType)
  /-- V_EXP2 (R188). Correctly rounded 2 to the x. -/
  | vExp2 (d : BitVec 4) (a : BitVec 4) (k : Option (BitVec 2)) (e : EType)
  /-- V_LOG2 (R188). Correctly rounded base-2 logarithm. -/
  | vLog2 (d : BitVec 4) (a : BitVec 4) (k : Option (BitVec 2)) (e : EType)
  /-- V_TANH (R188). Correctly rounded hyperbolic tangent. -/
  | vTanh (d : BitVec 4) (a : BitVec 4) (k : Option (BitVec 2)) (e : EType)
  /-- V_ERF (R188). Correctly rounded error function. -/
  | vErf (d : BitVec 4) (a : BitVec 4) (k : Option (BitVec 2)) (e : EType)
  /-- V_RSUM (R190). Sums live elements by the fixed pairwise tree into lane 0. -/
  | vRsum (d : BitVec 4) (a : BitVec 4) (k : Option (BitVec 2)) (e : EType)
  /-- V_RMAX (R190). Maximum of live elements by the fixed tree into lane 0. -/
  | vRmax (d : BitVec 4) (a : BitVec 4) (k : Option (BitVec 2)) (e : EType)
  /-- V_RMIN (R190). Minimum of live elements by the fixed tree into lane 0. -/
  | vRmin (d : BitVec 4) (a : BitVec 4) (k : Option (BitVec 2)) (e : EType)
  /-- V_RSUM_G (R190). Sums live elements by the fixed tree and delivers the root to a g register later. -/
  | vRsumG (d : BitVec 4) (a : BitVec 4) (k : Option (BitVec 2)) (e : EType)
  /-- V_PERM (R192). Permutes lanes by an index token. -/
  | vPerm (d : BitVec 4) (a : BitVec 4) (b : BitVec 4) (k : Option (BitVec 2))
  /-- V_BCAST (R192). Broadcasts one lane to all lanes. -/
  | vBcast (d : BitVec 4) (a : BitVec 4) (l : BitVec 4)
  /-- V_ROT (R192). Rotates lanes by an amount. -/
  | vRot (d : BitVec 4) (a : BitVec 4) (n : BitVec 4)
  /-- V_SCAN (R191). Writes the inclusive prefix sum of elements. -/
  | vScan (d : BitVec 4) (a : BitVec 4) (k : Option (BitVec 2)) (e : EType)
  /-- V_PEEK (R194). Copies the head of an input port without consuming it. -/
  | vPeek (d : BitVec 3) (a : BitVec 3)
  /-- V_MOV (R194). Copies a token with its sideband, invalidating masked-off lanes. -/
  | vMov (d : BitVec 4) (a : BitVec 4) (k : Option (BitVec 2))
  /-- V_SETV (R194). Replaces, ANDs or clears valid bits from a mask register. -/
  | vSetv (d : BitVec 4) (a : BitVec 4) (b : BitVec 2) (m : BitMode)
  /-- V_GETV (R194). Writes valid bits, or valid-and-nonzero bits, to a mask register. -/
  | vGetv (d : BitVec 2) (a : BitVec 4) (n : Bool)
  /-- V_SETP (R194). Replaces, ORs or clears poison bits from a mask register. -/
  | vSetp (d : BitVec 4) (a : BitVec 4) (b : BitVec 2) (m : BitMode)
  /-- V_GETP (R194). Writes poison bits to a mask register. -/
  | vGetp (d : BitVec 2) (a : BitVec 4)
  /-- V_SETTAG (R194). Sets a token's tag from a g register. -/
  | vSettag (d : BitVec 4) (a : BitVec 4) (b : BitVec 4)
  /-- V_GETTAG (R194). Delivers a token's sideband to a g register later. -/
  | vGettag (d : BitVec 4) (a : BitVec 4)
  /-- V_INS (R194). Inserts a g register value into one lane. -/
  | vIns (d : BitVec 4) (a : BitVec 4) (b : BitVec 4) (l : BitVec 4)
  /-- V_EXT (R194). Delivers one lane to a g register later. -/
  | vExt (d : BitVec 4) (a : BitVec 4) (l : BitVec 4)
  /-- V_SPLAT (R194). Builds a data token with a g register value in every lane. -/
  | vSplat (d : BitVec 4) (a : BitVec 4)
  /-- V_MKC (R194). Sets a token's kind to data, control or end of stream. -/
  | vMkc (d : BitVec 4) (a : BitVec 4) (k : TokKind)
  /-- V_DEQ (R238). Dequantises sixteen coefficient levels with the step code of a plane from a block record. -/
  | vDeq (d : BitVec 4) (a : BitVec 4) (b : BitVec 4) (c : Bool) (p : Plane)
  /-- V_WARP (R240). Computes gather indices of the reference cells of a predicted block. -/
  | vWarp (d : BitVec 4) (a : BitVec 4) (b : BitVec 4) (s : Bool)
  /-- V_ERRACC (R241). Accumulates a block's residual or finishes its error estimate, forcing refresh past the bound. -/
  | vErracc (d : BitVec 4) (a : BitVec 4) (b : BitVec 4) (f : Bool)
  /-- V_REFR (R242). Forces an inter or skip block record to refresh-required with reason 7. -/
  | vRefr (d : BitVec 4) (a : BitVec 4)
  /-- V_BFX (R237). Extracts a block-record field into every lane. -/
  | vBfx (d : BitVec 4) (a : BitVec 4) (f : RecField)
  /-- M_MMA (R211). Multiplies a ring entry by s.active and adds into an accumulator tile. -/
  | mMma (c : BitVec 4) (r : BitVec 2) (f : MatFmt) (k : Option (BitVec 2))
  /-- M_MMAZ (R211). Multiplies a ring entry by s.active into a zeroed accumulator tile. -/
  | mMmaz (c : BitVec 4) (r : BitVec 2) (f : MatFmt) (k : Option (BitVec 2))
  /-- M_RUN (R212). Executes a counted sequence of entries into one accumulator. -/
  | mRun (c : BitVec 4) (r : BitVec 2) (f : MatFmt) (k : Option (BitVec 2)) (x : BitVec 4) (w : Bool) (z : Bool)
  /-- M_GRP (R213). Runs grouped products with one B operand per group, draining each result by a route. -/
  | mGrp (c : BitVec 4) (r : BitVec 2) (f : MatFmt) (k : Option (BitVec 2)) (x : BitVec 4) (w : Bool) (t : BitVec 3) (p : BitVec 3)
  /-- M_DRAIN (R215). Pushes a sum tile as FP32 or BF16 tokens to the output port of a route entry. -/
  | mDrain (c : BitVec 4) (x : GOrPort) (l : Bool) (f : Bool)
  /-- M_COPY (R216). Copies one accumulator tile to another whole. -/
  | mCopy (c : BitVec 4) (x : BitVec 4)
  /-- M_COPY_ST (R216). Stores a sum tile to 1,024 bytes of scratchpad. -/
  | mCopySt (c : BitVec 4) (x : BitVec 4) (w : Bool)
  /-- M_COPY_LD (R216). Loads a sum tile from 1,024 bytes of scratchpad. -/
  | mCopyLd (c : BitVec 4) (x : BitVec 4) (w : Bool)
  /-- M_LD (R208). Loads s.load from an input port or scratchpad and sets its type. -/
  | mLd (f : StatFmt) (x : GOrPort)
  /-- M_SWAP (R209). Exchanges s.active and s.load whole. -/
  | mSwap
  /-- M_CLR (R216). Makes an accumulator tile a sum tile of +0. -/
  | mClr (c : BitVec 4)
  /-- RL_DECL (R218). Makes an accumulator tile an empty ranked list with k entries per row. -/
  | rlDecl (c : BitVec 4) (k : BitVec 5)
  /-- RL_INS (R219). Inserts up to sixteen value-index candidates into ranked-list rows. -/
  | rlIns (c : BitVec 4) (x : BitVec 4) (f : Bool) (i : BitVec 4)
  /-- RL_MERGE (R220). Inserts every entry of a source list into the destination list row by row. -/
  | rlMerge (c : BitVec 4) (x : BitVec 4)
  /-- RL_THR (R221). Delivers row thresholds as a token, or one threshold or the flags to a g register. -/
  | rlThr (c : BitVec 4) (x : ThrDest)
  /-- RL_OUT (R222). Pushes a ranked list row by row as value and index tokens, optionally weighted and renormalised. -/
  | rlOut (c : BitVec 4) (x : BitVec 3) (n : Bool) (u : Bool) (i : Option (BitVec 3))
  /-- RL_CLR (R223). Empties every row of a list or marks one entry dropped. -/
  | rlClr (c : BitVec 4) (x : Option (BitVec 4 × Bool))
  /-- RING_SET (R206). Resets a ring's pointers and marks, optionally setting its geometry. -/
  | ringSet (r : BitVec 2) (x : Option (BitVec 4 × Bool))
  /-- RING_HEAD (R206). Writes a ring's HEAD count to a g register. -/
  | ringHead (r : BitVec 2) (x : BitVec 4)
  /-- RING_TAIL (R206). Writes a ring's TAIL count to a g register. -/
  | ringTail (r : BitVec 2) (x : BitVec 4)
  /-- RING_POP (R206). Pops a counted number of ring entries, performing their marks. -/
  | ringPop (r : BitVec 2) (x : BitVec 4) (w : Bool)
  /-- S_READ (R104). Queues a stream read of a pattern into an output port or ring. -/
  | sRead (e : BitVec 2) (ep : StreamDest) (pcb : BitVec 13) (b : BitVec 3) (v : Option (BitVec 4 × Bool)) (pr : Option (BitVec 3)) (xf : Xform) (disp : BitVec 32) (tag : BitVec 6) (eos : Bool)
  /-- S_WRITE (R104). Queues a stream write of a pattern from an input port. -/
  | sWrite (e : BitVec 2) (p : BitVec 3) (pcb : BitVec 13) (b : BitVec 3) (v : Option (BitVec 4 × Bool)) (pr : Option (BitVec 3)) (xf : Xform) (disp : BitVec 32)
  /-- S_IND (R99). Queues an indirect stream read whose indexed dimension takes its indices from an index port. -/
  | sInd (e : BitVec 2) (ep : StreamDest) (pcb : BitVec 13) (b : BitVec 3) (ix : BitVec 3) (v : Option (BitVec 4 × Bool)) (pr : Option (BitVec 3)) (xf : Xform) (disp : BitVec 32) (tag : BitVec 6) (eos : Bool)
  /-- S_PRISM (R290). Loads a Prism configuration block into a program slot of every serving MIT. -/
  | sPrism (e : BitVec 2) (b : BitVec 3) (pid : BitVec 3) (disp : BitVec 32)
  /-- S_SYNTAX (R229). Starts a syntax job parsing a bitstream pattern into tokens on an output port. -/
  | sSyntax (e : BitVec 2) (p : BitVec 3) (pcb : BitVec 13) (b : BitVec 3) (v : Option (BitVec 4 × Bool)) (disp : BitVec 32) (tag : BitVec 6) (eos : Bool)
  /-- S_BAR (R109). Parks until every earlier stream command of the tile has completed. -/
  | sBar
  /-- S_STOP (R110). Cancels the running and waiting commands of an engine. -/
  | sStop (e : BitVec 3)
  /-- S_STAT (R111). Writes an engine's status to a g register. -/
  | sStat (e : BitVec 3) (gv : BitVec 4)
  /-- ISSUE_SLOT (R314). Chooses the task that issues in an issue slot by rotation and class round-robin. -/
  | issueSlot (t : Nat)
  /-- PARK_CLEAR (R313). A parked task's reason clears and it becomes ready to re-issue the word. -/
  | parkClear (t : Nat) (k : SlotId)
  /-- TOKEN_OP_COMPLETE (R171). A token instruction completes after its latency, writing or pushing its result into its reserved slot. -/
  | tokenOpComplete (t : Nat)
  /-- LONG_LATENCY_DELIVER (R174). A v.rsum.g, v.gettag or v.ext result is delivered to its pending g register. -/
  | longLatencyDeliver (t : Nat) (n : Nat)
  /-- GETW_DELIVER (R75). A head reaches a port with a pending getw and its lanes are delivered to the register. -/
  | getwDeliver (t : Nat) (ph : BitVec 2) (p : BitVec 3)
  /-- TOKEN_HOP (R11). A token moves one hop along a circuit or drains from an output port onto its circuit. -/
  | tokenHop (rg : Nat) (c : Nat) (n : Nat)
  /-- TOKEN_ARRIVE (R91). A token reaches the end of a circuit at an input port or junction side. -/
  | tokenArrive (rg : Nat) (c : Nat)
  /-- LATE_TOKEN_BURST_END (R326). After 1,024 cycles without a discard a LATE_TOKEN event is posted for the burst. -/
  | lateTokenBurstEnd (t : Nat) (ph : BitVec 2) (p : BitVec 3)
  /-- LATE_TOKEN_LONG_BURST (R326). A burst still running 2^20 cycles after its last report posts a LATE_TOKEN event. -/
  | lateTokenLongBurst (t : Nat) (ph : BitVec 2) (p : BitVec 3)
  /-- JUNCTION_PASS (R117). A pass junction forwards a head from side 0 to side 1. -/
  | junctionPass (t : Nat) (ph : BitVec 2) (j : BitVec 3)
  /-- JUNCTION_FORK (R117). A fork junction pushes a copy of its head to every output side in its mask. -/
  | junctionFork (t : Nat) (ph : BitVec 2) (j : BitVec 3)
  /-- JUNCTION_JOIN (R117). A join junction forwards a head in alternate, block, tag or arrival order, handling end of stream. -/
  | junctionJoin (t : Nat) (ph : BitVec 2) (j : BitVec 3)
  /-- JUNCTION_STEER (R117). A steer junction sends a data head to side 1 or 2 by its predicate. -/
  | junctionSteer (t : Nat) (ph : BitVec 2) (j : BitVec 3)
  /-- JUNCTION_MERGE (R117). A merge junction consumes a SELECT head and forwards tokens from the named side. -/
  | junctionMerge (t : Nat) (ph : BitVec 2) (j : BitVec 3)
  /-- JUNCTION_LOOPGEN (R117). A loop generator emits the index tokens of a bound and an optional END_GROUP. -/
  | junctionLoopgen (t : Nat) (ph : BitVec 2) (j : BitVec 3)
  /-- JUNCTION_RANDOM (R117). A random junction emits the next Philox token. -/
  | junctionRandom (t : Nat) (ph : BitVec 2) (j : BitVec 3)
  /-- JUNCTION_CONVERT (R117). A convert junction converts a data token or accepts a CVTSYNC with a CVTMODE. -/
  | junctionConvert (t : Nat) (ph : BitVec 2) (j : BitVec 3)
  /-- JUNCTION_GATE (R117). A gate consumes a release, forwards recirculation or admits an entry below its limit. -/
  | junctionGate (t : Nat) (ph : BitVec 2) (j : BitVec 3)
  /-- JUNCTION_TAGCHK (R117). A tag check forwards a head with the expected tag. -/
  | junctionTagchk (t : Nat) (ph : BitVec 2) (j : BitVec 3)
  /-- RING_FEED (R204). A ring takes a head of its feed port, appending data or placing a swap mark. -/
  | ringFeed (t : Nat) (ph : BitVec 2) (r : BitVec 2)
  /-- STREAM_CMD_START (R101). A queued stream command starts on its engine and its PCB is checked. -/
  | streamCmdStart (t : Nat) (e : EngineId)
  /-- STREAM_ELEMENT_ACCESS (R97). A stream engine issues the memory access of one element. -/
  | streamElementAccess (t : Nat) (e : EngineId)
  /-- STREAM_READ_PUSH (R106). A completed token at HEAD of a read window is pushed to its endpoint. -/
  | streamReadPush (t : Nat) (e : EngineId)
  /-- STREAM_WRITE_TAKE (R104). A write engine takes the next head of its input port. -/
  | streamWriteTake (t : Nat) (e : EngineId)
  /-- STREAM_CMD_COMPLETE (R108). A stream command completes, releasing its bindings and making its versions visible. -/
  | streamCmdComplete (t : Nat) (e : EngineId)
  /-- SYNTAX_TOKEN_PUSH (R232). A syntax engine pushes its next record or coefficient token to the issuing tile's port. -/
  | syntaxTokenPush (y : BitVec 3)
  /-- SYNTAX_JOB_END (R231). A syntax job ends after PICS pictures or at the end of its pattern. -/
  | syntaxJobEnd (y : BitVec 3)
  /-- MEMOP_FORWARD (R119). The memory-operation port forwards the next queued operation toward its home. -/
  | memopForward (t : Nat)
  /-- VERSIONED_WRITE_ARRIVE (R123). A versioned write's first access reaches the directory, which opens, delays or faults it. -/
  | versionedWriteArrive (id : Nat)
  /-- VERSIONED_WRITE_RESUME (R123). A waiting versioned write proceeds when its predecessor completes, a version retires or a slot frees. -/
  | versionedWriteResume (id : Nat)
  /-- VERSIONED_READ_ARRIVE (R124). A versioned read reaches the directory and is served, waits, misses or faults. -/
  | versionedReadArrive (id : Nat)
  /-- VERSION_WAIT_SATISFIED (R124). A read or fr.wait waiting for a version proceeds once the version exists. -/
  | versionWaitSatisfied (id : Nat)
  /-- DIRECTORY_FRAME_OP (R126). The directory performs an arriving frame operation. -/
  | directoryFrameOp (id : Nat)
  /-- ATOMIC_PERFORM (R131). An MIT performs an atomic on the decoded block and returns the old value. -/
  | atomicPerform (id : Nat)
  /-- MIT_BLOCK_ACCESS (R280). An MIT performs an access to one 256-byte block, decoding and re-encoding it. -/
  | mitBlockAccess (id : Nat)
  /-- CARD_RELEASE (R136). The region scheduler releases a card to a copy engine once its footprint edges allow. -/
  | cardRelease (id : Nat)
  /-- CARD_COMPLETE (R135). A copy engine completes a card. -/
  | cardComplete (id : Nat)
  /-- CP_WAIT_DELIVER (R137). A pending cp.wait receives its count once its matching operations complete. -/
  | cpWaitDeliver (id : Nat)
  /-- COLLECTIVE_EXCHANGE (R140). A collective proceeds once all its ranks have issued, reducing in rank order. -/
  | collectiveExchange (id : Nat) (ranks : List RankInput)
  /-- COLLECTIVE_COMPLETE (R142). A collective completes, creating its result versions. -/
  | collectiveComplete (id : Nat)
  /-- PRISM_LOAD_COMPLETE (R290). A checked Prism block replaces a program slot at every serving MIT at once. -/
  | prismLoadComplete (t : Nat) (e : EngineId)
  /-- EVICT_DROP (R300). A directory drops a droppable version, freeing its pool slot. -/
  | evictDrop (f : FrameKey) (v : Nat)
  /-- EVICT_SPILL (R300). A directory starts copying a version to a spill slot on a neighbour device. -/
  | evictSpill (f : FrameKey) (v : Nat)
  /-- SPILL_ACK (R300). The neighbour acknowledges a spill copy and the version becomes spilled. -/
  | spillAck (f : FrameKey) (v : Nat)
  /-- RECOMPUTE_START (R302). A miss starts a recipe as the recompute task in slot 15 once its sources are held. -/
  | recomputeStart (id : Nat)
  /-- RECOMPUTE_END (R304). A recompute ends and its refill is accepted or faulted. -/
  | recomputeEnd (t : Nat)
  /-- PROGRESS_TIMEOUT (R316). After 2^20 own cycles with pending work and no progress a PROGRESS event is posted. -/
  | progressTimeout (rg : Nat)
  /-- GRAPH_COMPLETE (R318). A graph completes, its region is released and its completion version created. -/
  | graphComplete (rg : Nat)
  /-- COMMIT_REQUEST (R346). A write to COMMIT checks a commit request and runs phase 1 of fetch into shadow planes. -/
  | commitRequest (p : PartId) (ipa : BitVec 64)
  /-- FETCH_PHASE_2 (R346). Once the target tiles are free, image data is written and the region commits. -/
  | fetchPhase2 (rg : Nat)
  /-- PREEMPT_REQUEST (R322). A pre-emption freezes the region and pushes markers on every circuit. -/
  | preemptRequest (rg : Nat)
  /-- QUANTUM_EXPIRE (R322). The region's quantum of own cycles expires and starts a pre-emption. -/
  | quantumExpire (rg : Nat)
  /-- MARKER_ARRIVE (R322). A marker reaches a destination end, and a tile whose markers have all arrived is saved. -/
  | markerArrive (rg : Nat) (c : Nat)
  /-- CHECKPOINT (R366). A region is snapshotted in place, its provisional versions become final and the undo log is emptied. -/
  | checkpoint (rg : Nat)
  /-- CHECKPOINT_INTERVAL (R366). The checkpoint interval of own cycles expires and starts a checkpoint. -/
  | checkpointInterval (rg : Nat)
  /-- ROLLBACK (R367). A region is frozen, its provisional versions abandoned, its undo log applied and its checkpoint restored. -/
  | rollback (rg : Nat)
  /-- FQ_RING_WRITE (R361). A queued fault record is written to the ring when room appears, advancing PROD. -/
  | fqRingWrite (p : PartId)
  /-- MCSTAT_CLEAR (R361). Writing 1 to MCSTAT.VALID unfreezes the regions. -/
  | mcstatClear
  /-- FQRES_RETRY (R362). Resolves a stopped fault by performing the faulting element or operation again. -/
  | fqresRetry (p : PartId) (seq : BitVec 32)
  /-- FQRES_CANCEL (R362). Resolves a stopped fault by cancelling the unit's work or ending the issuing task. -/
  | fqresCancel (p : PartId) (seq : BitVec 32)
  /-- FQRES_ALT (R362). Resolves a stopped fault by the unit's alternative action. -/
  | fqresAlt (p : PartId) (seq : BitVec 32)
  /-- FQRES_END (R362). Resolves a stopped fault by ending the whole region. -/
  | fqresEnd (p : PartId) (seq : BitVec 32)
  /-- TASKCMD_RESUME_TPC (R363). Resumes a trapped task at TPC, clearing TCAUSE. -/
  | taskcmdResumeTpc (p : PartId) (c : TaskRef)
  /-- TASKCMD_RESUME_PC (R363). Resumes a trapped task at a handler with TCAUSE kept. -/
  | taskcmdResumePc (p : PartId) (c : TaskRef) (pc : BitVec 13)
  /-- TASKCMD_END (R363). Ends a trapped task, retiring it. -/
  | taskcmdEnd (p : PartId) (c : TaskRef)
  /-- CKCMD_CHECKPOINT (R366). Requests a checkpoint of a region. -/
  | ckcmdCheckpoint (p : PartId) (rg : BitVec 16)
  /-- CKCMD_ROLLBACK (R367). Requests a rollback of a region. -/
  | ckcmdRollback (p : PartId) (rg : BitVec 16)
  /-- TLBINV_PARTITION (R342). Invalidates every translation of the partition. -/
  | tlbinvPartition (p : PartId)
  /-- TLBINV_WINDOW (R342). Invalidates every translation of one window. -/
  | tlbinvWindow (p : PartId) (w : BitVec 16)
  /-- TLBINV_PAGE (R342). Invalidates the mappings of one window that contain one page. -/
  | tlbinvPage (p : PartId) (w : BitVec 16) (pg : BitVec 32)
  /-- TLBINV_COMPLETE (R342). BUSY clears once matching entries are gone and accesses using them are performed. -/
  | tlbinvComplete (p : PartId)
  /-- S2INV_PARTITION (R342). Invalidates the whole stage 2 of one partition. -/
  | s2invPartition (p : PartId)
  /-- S2INV_PAGE (R342). Invalidates one IPA page of a partition's stage 2. -/
  | s2invPage (p : PartId) (pg : BitVec 32)
  /-- S2INV_COMPLETE (R342). S2STAT.BUSY clears when the stage-2 invalidation has taken effect. -/
  | s2invComplete
  /-- SCRUB (R338). Starts zeroing a range of HBM granules at their homes. -/
  | scrub (g : BitVec 28) (n : BitVec 24)
  /-- SCRUB_COMPLETE (R338). SCRUBSTAT.BUSY clears when every zero is performed. -/
  | scrubComplete
  /-- OWNCMD (R345). Requests a change of owner for a rectangle of tiles. -/
  | owncmd (c : OwnRect)
  /-- OWNCMD_COMPLETE (R345). After draining and resetting the tiles OWNTAB is written and OWNSTAT reads done. -/
  | owncmdComplete
  /-- REGDEL (R351). Removes a registered versioned region, retiring its versions. -/
  | regdel (p : PartId) (w : BitVec 16) (b : BitVec 36)
  /-- SLICEDEL (R351). Removes a registered recipe slice. -/
  | slicedel (p : PartId) (n : BitVec 16)
  /-- PARTITION_LIVE (R337). Writing PARTCTL with LIVE makes a partition live after clearing its page, queues and TLB entries. -/
  | partitionLive (p : PartId) (h : BitVec 3)
  /-- PARTITION_NOT_LIVE (R351). A partition stops being live and its regions, slices, tiles, engines and Prism slots are released. -/
  | partitionNotLive (p : PartId)
  /-- SYNASSIGN_CHANGE (R349). A write that changes a syntax engine's owner sets its pending bit. -/
  | synassignChange (y : BitVec 3) (p : PartId)
  /-- SYNASSIGN_TAKE_EFFECT (R349). When the engine is idle the owner change takes effect, cancelling old jobs and clearing contexts. -/
  | synassignTakeEffect (y : BitVec 3)
  /-- PRISMMAP_CHANGE (R348). A write changing a Prism slot's owner clears its program once running streams finish. -/
  | prismmapChange (n : BitVec 3) (x : BitVec 16)
  /-- VFMAP_CHANGE (R372). A write to VFMAP reassigns a virtual function once its accepted requests complete. -/
  | vfmapChange (x : BitVec 64)
  /-- DEVID_WRITE (R379). Sets the device id while every Wildom port is down. -/
  | devidWrite (x : BitVec 18)
  /-- WPORT_ENABLE (R379). Setting WPORT.EN enables a Wildom port and starts training. -/
  | wportEnable (q : Nat)
  /-- WPORT_DISABLE (R379). Clearing WPORT.EN takes a Wildom port down. -/
  | wportDisable (q : Nat)
  /-- SHUTCTL_FIRE (R368). Writing 1 to SHUTCTL.FIRE raises the Shutter. -/
  | shutctlFire
  /-- SHUTTER_PIN (R368). The shutter ball or pin raises the Shutter. -/
  | shutterPin
  /-- SHUTTER_JTAG (R368). The IEEE 1149.1 instruction SHUTTER raises the Shutter. -/
  | shutterJtag
  /-- SHUTTER_READOUT (R369). A debug-module or IEEE 1149.1 access reads frozen state by readout address. -/
  | shutterReadout (ra : BitVec 48) (acc : ReadoutAgent)
  /-- PWRCAP_WRITE (R381). Sets the power cap, clamped to its range. -/
  | pwrcapWrite (x : BitVec 16)
  /-- THERMAL_THROTTLE (R381). The package clock is lowered when power passes the cap or a die reaches 105 C. -/
  | thermalThrottle (x : ThermalInput)
  /-- THERMTRIP (R381). A die reaching 115 C asserts THERMTRIP and power is removed. -/
  | thermtrip (x : ThermalInput)
  /-- LQPUSH (R374). Appends the requester's staged launch descriptor to a launch queue. -/
  | lqpush (p : PartId) (who : Requester) (pr : BitVec 2)
  /-- REGISTER_WRITE (R338). A write to a control register that has no behaviour of its own stores its RW fields. -/
  | registerWrite (pg : RegPage) (off : BitVec 16) (x : BitVec 64)
  /-- HOST_REQUEST (R372). A host PCIe request through a function's BAR is served or completed as Unsupported Request. -/
  | hostRequest (h : HostReq)
  /-- FUNCTION_LEVEL_RESET (R373). A function-level reset of a VF resets its configuration and MSI-X table only. -/
  | functionLevelReset (vf : BitVec 3)
  /-- HART_MEMORY_ACCESS (R266). A control-core load or store reaches device memory. -/
  | hartMemoryAccess (h : HartReq)
  /-- DEVICE_RESET (R376). At reset the boot ROM trains HBM, verifies the flash image and enters the monitor or waits for recovery. -/
  | deviceReset (i : BootInput)
  /-- RECOVERY_IMAGE_WRITE (R378). Writing the length to the recovery mailbox verifies a new image and writes it to flash. -/
  | recoveryImageWrite (n : BitVec 64)
  /-- FLIT_RECEIVE (R365). A Wildom flit arrives and is checked by CRC, acknowledged or retried. -/
  | flitReceive (q : Nat) (fl : Flit)
  /-- PORT_RETRAIN (R365). After eight failed flits in a row a port retrains, or goes down and faults LINK_LOST. -/
  | portRetrain (q : Nat) (lanes : BitVec 4)
  /-- PEER_ACCESS_INBOUND (R350). An inbound peer access is authorized and translated through the target window. -/
  | peerAccessInbound (fl : Flit)
  /-- SOFT_ERROR (R364). An uncorrectable memory error poisons data, discards a TLB entry, rolls back or machine-checks. -/
  | softError (x : SoftError)
  /-- REGDEL_DONE (R351). A region or slice removal that DELSTAT shows busy finishes, retiring versions, releasing recipes and freeing slots, and DELSTAT reads done. -/
  | regdelDone (p : PartId)
  /-- PORT_TRAINING_DONE (R379). A Wildom port's training ends and STATE moves from training to up, to degraded on four lanes, or to down. -/
  | portTrainingDone (q : Nat) (lanes : BitVec 4)
  /-- HOST_READ_COMPLETION (R373). A PCIe completion for a device read of host memory arrives and returns its bytes, poisoned when the EP bit is set. -/
  | hostReadCompletion (id : Nat) (d : List (BitVec 8)) (ep : Bool)
  deriving DecidableEq, Repr

end Sys2Proof
end

