-- ==== Sys2Proof/Config.lean ====
section
/-! DEFINITION. What an implementation fixes and the free values: constants with no body, of which nothing can be proved. -/
namespace Sys2Proof.Config

/-- A free bit for each draw: a choice the spec leaves to timing, such as which cached translation an access uses (R341). -/
opaque freeBit : Nat → Bool
/-- A free 64-bit value for each draw, for a value the spec does not state. -/
opaque freeWord : Nat → BitVec 64
/-- A free choice for each draw and address: 0 reads memory, n + 1 the n-th copy that the translation caches hold (R341). -/
opaque pick : Nat → Nat → Nat
/-- The kind that a popped slot's kind byte stands for where no program can have made it: 0 data, 1 control, 2 and more end of stream
(R74, R90, log 57). -/
opaque poppedKind : BitVec 8 → Nat
/-- The tag of a token that leaves a convert junction (R144, log 3): the junction's word, the token's number, its payload. -/
opaque junctionTag : BitVec 64 → Nat → BitVec 512 → BitVec 6
/-- What stochastic rounding of an element leaves open: its bits and the random word it takes (R144, log 3). -/
opaque srFree : Nat → Nat → BitVec 64
/-- Marks of the fused defect map, by tile number 48·py + px; it marks no more than 48 tiles disabled. -/
opaque defect : Nat → Bool
/-- A tile is disabled (R7): at least 1,488 of the 1,536 are enabled, so no more marks than 48 count. -/
def disabled (t : Nat) : Bool := defect t && decide (((List.range t).filter defect).length < 48)
/-- The ordering code is the module UM-C9M (R2). -/
opaque isModule : Bool
/-- The fused minimum security version (R376). -/
opaque fusedVersion : Nat
/-- The fused hash of the public key, SHA-384 (R376). -/
opaque keyHash : BitVec 384

/-- Rated power in watts of the ordering code (R2, R380). -/
def ratedPower : Nat := if isModule then 2900 else 2700

/-- Profiles that a bitstream may declare (R227). -/
inductive SynProfile where
  | hevcMain | hevcMain10 | hevcStill | av1Main | other
  deriving DecidableEq, Repr

/-- Chroma formats that a bitstream may declare (R227). -/
inductive SynChroma where
  | mono | c420 | other
  deriving DecidableEq, Repr

/-- Coding tools that cannot be expressed as motion on the feature grid (R228). -/
inductive SynTool where
  | globalMotion | localWarp | obmc | pcm | weightedPred | scalingList | spanningTransform | missingRef | intraBlockCopy | palette
  | interIntra | wedge | diffWeighted | quantMatrix | scaledRef
  deriving DecidableEq, Repr

/-- Prediction of a block (R233). -/
inductive SynMode where
  | intra | inter | skip
  deriving DecidableEq, Repr

/-- What a plane's dequantisation factor is made of (R235): HEVC's qP; AV1's dc_q, ac_q and dequantisation shift. -/
inductive SynQuant where
  | hevc (qp : Nat)
  | av1 (dc ac : BitVec 16) (shift : Nat)
  deriving DecidableEq, Repr

/-- A plane of a block: log2 of its transform blocks' width and height in samples, its quantisation, and in raster order the levels of
each transform block, sixteen to a 4 × 4 subblock; none for an uncoded block. -/
structure SynPlane where
  tlw : Nat
  tlh : Nat
  quant : SynQuant
  tbs : List (Option (List (Vector (BitVec 16) 16)))

/-- A prediction block as the codec's syntax gives it, vectors in the codec's own units (R232, R233). -/
structure SynBlock where
  x : BitVec 16
  y : BitVec 16
  qp : BitVec 8
  mode : SynMode
  tools : List SynTool
  bi : Bool
  log2w : Nat
  log2h : Nat
  luma : SynPlane
  cb : SynPlane
  cr : SynPlane
  mv : Vector Int 4
  ref0 : BitVec 3
  ref1 : BitVec 3

/-- A picture of a bitstream, in decoding order: whether decoding may start at it, whether it is an HEVC RASL picture, its size in luma
samples, what the stream declares for it (the level in tenths), the bytes of the pattern it takes up, its blocks in coding order, and
where it is cut off or breaks its codec's syntax: truncated or not, and the byte index (R227, R230, R231). -/
structure SynPic where
  rap : Bool
  rasl : Bool
  width : Nat
  height : Nat
  profile : SynProfile
  level : Nat
  depth : Nat
  chroma : SynChroma
  start : Nat
  ends : Nat
  blocks : List SynBlock
  stop : Option (Bool × Nat)

/-- The pictures of a pattern: codec (AV1 or HEVC), the bitstreams that the context slot has seen since NEWSEQ, and the bytes. The
codecs' own syntax is the published HEVC and AV1 specifications', and is left free. -/
opaque synParse : Bool → List (List Byte) → List Byte → List SynPic

end Sys2Proof.Config
end

