-- ==== Sys2Proof/WellFormed.lean ====
section
/-! DEFINITION. The numeric codes of the operand types, and when an instruction is well-formed: what the spec forbids a legal word to hold beyond the ranges of its fields. -/
namespace Sys2Proof

/-! ## Codes -/

/-- Code of an ExtWidth (R66). -/
def ExtWidth.code : ExtWidth → Nat
  | .w8 => 0
  | .w16 => 1
  | .w32 => 2
/-- The ExtWidth a code names; a code outside the table, which the decoder refuses first, reads as the last. -/
def ExtWidth.dec : Nat → ExtWidth
  | 0 => .w8
  | 1 => .w16
  | _ => .w32

/-- Code of a ForkUnit (R75). -/
def ForkUnit.code : ForkUnit → Nat
  | .matrix => 0
  | .stream => 1
/-- The ForkUnit a code names; a code outside the table, which the decoder refuses first, reads as the last. -/
def ForkUnit.dec : Nat → ForkUnit
  | 0 => .matrix
  | _ => .stream

/-- Code of a RFile (R74). -/
def RFile.code : RFile → Nat
  | .g => 0
  | .b => 1
  | .m => 2
  | .w => 3
/-- The RFile a code names; a code outside the table, which the decoder refuses first, reads as the last. -/
def RFile.dec : Nat → RFile
  | 0 => .g
  | 1 => .b
  | 2 => .m
  | _ => .w

/-- Code of a FenceKind (R44). -/
def FenceKind.code : FenceKind → Nat
  | .full => 0
  | .acq => 1
  | .rel => 2
/-- The FenceKind a code names; a code outside the table, which the decoder refuses first, reads as the last. -/
def FenceKind.dec : Nat → FenceKind
  | 0 => .full
  | 1 => .acq
  | _ => .rel

/-- Code of an AtOrder (R130). -/
def AtOrder.code : AtOrder → Nat
  | .relaxed => 0
  | .acq => 1
  | .rel => 2
  | .acqrel => 3
/-- The AtOrder a code names; a code outside the table, which the decoder refuses first, reads as the last. -/
def AtOrder.dec : Nat → AtOrder
  | 0 => .relaxed
  | 1 => .acq
  | 2 => .rel
  | _ => .acqrel

/-- Code of a Scope (R44). -/
def Scope.code : Scope → Nat
  | .tile => 0
  | .region => 1
  | .device => 2
  | .system => 3
/-- The Scope a code names; a code outside the table, which the decoder refuses first, reads as the last. -/
def Scope.dec : Nat → Scope
  | 0 => .tile
  | 1 => .region
  | 2 => .device
  | _ => .system

/-- Code of a BitMode (R194). -/
def BitMode.code : BitMode → Nat
  | .replace => 0
  | .combine => 1
  | .andn => 2
/-- The BitMode a code names; a code outside the table, which the decoder refuses first, reads as the last. -/
def BitMode.dec : Nat → BitMode
  | 0 => .replace
  | 1 => .combine
  | _ => .andn

/-- Code of a TokKind (R88). -/
def TokKind.code : TokKind → Nat
  | .data => 0
  | .control => 1
  | .marker => 2
  | .eos => 3
/-- The TokKind a code names; a code outside the table, which the decoder refuses first, reads as the last. -/
def TokKind.dec : Nat → TokKind
  | 0 => .data
  | 1 => .control
  | 2 => .marker
  | _ => .eos

/-- Code of a Plane (R236). -/
def Plane.code : Plane → Nat
  | .y => 0
  | .cb => 1
  | .cr => 2
/-- The Plane a code names; a code outside the table, which the decoder refuses first, reads as the last. -/
def Plane.dec : Nat → Plane
  | 0 => .y
  | 1 => .cb
  | _ => .cr

/-- Code of a RecField (R237). -/
def RecField.code : RecField → Nat
  | .x => 0
  | .y => 1
  | .log2w => 2
  | .log2h => 3
  | .mode => 4
  | .bi => 5
  | .cbf => 6
  | .reason => 7
  | .qp => 8
  | .count => 9
  | .ref0 => 10
  | .ref1 => 11
  | .mvx0 => 12
  | .mvy0 => 13
  | .mvx1 => 14
  | .mvy1 => 15
/-- The RecField a code names; a code outside the table, which the decoder refuses first, reads as the last. -/
def RecField.dec : Nat → RecField
  | 0 => .x
  | 1 => .y
  | 2 => .log2w
  | 3 => .log2h
  | 4 => .mode
  | 5 => .bi
  | 6 => .cbf
  | 7 => .reason
  | 8 => .qp
  | 9 => .count
  | 10 => .ref0
  | 11 => .ref1
  | 12 => .mvx0
  | 13 => .mvy0
  | 14 => .mvx1
  | _ => .mvy1

/-- Code of a MatFmt (R43). -/
def MatFmt.code : MatFmt → Nat
  | .e4m3 => 0
  | .e4m3e5m2 => 1
  | .e5m2e4m3 => 2
  | .e5m2 => 3
  | .bf16 => 4
  | .e4m3cb2 => 5
  | .e5m2cb2 => 6
/-- The MatFmt a code names; a code outside the table, which the decoder refuses first, reads as the last. -/
def MatFmt.dec : Nat → MatFmt
  | 0 => .e4m3
  | 1 => .e4m3e5m2
  | 2 => .e5m2e4m3
  | 3 => .e5m2
  | 4 => .bf16
  | 5 => .e4m3cb2
  | _ => .e5m2cb2

/-- Code of a Xform (R105). -/
def Xform.code : Xform → Nat
  | .move => 0
  | .zext => 1
  | .sext => 2
  | .low => 3
  | .bcast => 4
/-- The Xform a code names; a code outside the table, which the decoder refuses first, reads as the last. -/
def Xform.dec : Nat → Xform
  | 0 => .move
  | 1 => .zext
  | 2 => .sext
  | 3 => .low
  | _ => .bcast

/-- Code of an element type (R42). -/
def EType.code : EType → Nat
  | .f32 => 0
  | .bf16 => 1
  | .f16 => 2
  | .e4m3 => 3
  | .e5m2 => 4
  | .i8 => 5
  | .i16 => 6
  | .i32 => 7
  | .i64 => 8
  | .e8m0 => 9
  | .cb2 => 10
  | .untyped => 15
/-- The element type a code names; the reserved codes, which the decoder refuses first, read as untyped. -/
def EType.dec : Nat → EType
  | 0 => .f32
  | 1 => .bf16
  | 2 => .f16
  | 3 => .e4m3
  | 4 => .e5m2
  | 5 => .i8
  | 6 => .i16
  | 7 => .i32
  | 8 => .i64
  | 9 => .e8m0
  | 10 => .cb2
  | _ => .untyped

/-- Code of a format of `m.ld` (R208). -/
def StatFmt.code : StatFmt → Nat
  | .e4m3 => 0
  | .e5m2 => 3
  | .bf16 => 4
  | .cb2 => 5
/-- The format of `m.ld` a code names. -/
def StatFmt.dec : Nat → StatFmt
  | 0 => .e4m3
  | 3 => .e5m2
  | 4 => .bf16
  | _ => .cb2

/-- Number of a system register (R54). -/
def SReg.code : SReg → Nat
  | .tileid => 0
  | .taskid => 1
  | .acr => 2
  | .ssp => 3
  | .cyc => 4
  | .fltq => 5
  | .ntile => 16
  | .nlane => 17
  | .nfmt => 18
  | .npc => 19
  | .tcause => 20
  | .tpc => 21
  | .tval => 22
/-- The system register a number names; an unknown number, which the decoder refuses first, reads as TVAL. -/
def SReg.dec : Nat → SReg
  | 0 => .tileid
  | 1 => .taskid
  | 2 => .acr
  | 3 => .ssp
  | 4 => .cyc
  | 5 => .fltq
  | 16 => .ntile
  | 17 => .nlane
  | 18 => .nfmt
  | 19 => .npc
  | 20 => .tcause
  | 21 => .tpc
  | _ => .tval
/-- The numbers that R54 assigns. -/
def SReg.known (n : Nat) : Bool := n < 6 || (0x10 ≤ n && n < 0x17)
/-- The registers that have a field software may write: ACR, SSP and TPC (R54, R82). -/
def SReg.writable (n : Nat) : Bool := n = 2 || n = 3 || n = 0x15

/-- Registers in a file that `pushm` and `popm` move (R46, R74). -/
def rfLim : Nat → Nat
  | 0 => 16
  | 1 => 8
  | 2 => 4
  | _ => 8

/-! ## Conversions (R157, R181, R183) -/

/-- Elements of a format in one token (R181); 0 for the formats that have none. -/
def EType.perToken : Nat → Nat
  | 0 => 16 | 7 => 16 | 1 => 32 | 2 => 32 | 6 => 32
  | 3 => 64 | 4 => 64 | 5 => 64 | 9 => 64 | 8 => 8
  | _ => 0

/-- A format that `v.cvt` knows: not reserved, CB2 or untyped (R187). -/
def EType.cvtOk (c : Nat) : Bool := c < 10

/-- A pair of known formats that R181 accepts: any pair that does not lose elements, or an exact widening. -/
def cvtPairOk (f t : Nat) : Bool :=
  EType.perToken f ≤ EType.perToken t ||
  (f < 5 && t < 5) || (5 ≤ f && f < 9 && 5 ≤ t && t < 9) || (f = 5 && t < 3) || (f = 6 && t = 0) || (f = 9 && t < 2)

/-- Mode or part and saturation bit of `v.cvt` (R181, R187). -/
def cvtModeOk (f t s m : Nat) : Bool :=
  if !(EType.cvtOk f && EType.cvtOk t) then true
  else if EType.perToken f ≤ EType.perToken t then m < 4
  else s = 0 && m < EType.perToken f / EType.perToken t

/-- Destination of `v.cvt.sr` (R183). -/
def cvtSrOk (f t : Nat) : Bool :=
  3 ≤ f || (1 ≤ t && t < 8 && t != f && EType.perToken f ≤ EType.perToken t)

/-! ## Well-formed instructions -/

/-- What a legal instruction satisfies beyond the ranges of its operands (R49, R66 to R83, R103, R175 to R243); an event always is. -/
def Instr.wellFormed (i : Instr) : Bool :=
  match i with
  | .add _ _ _ _ _ => true
  | .sub _ _ _ _ _ => true
  | .mul _ _ _ _ _ => true
  | .mulh _ _ _ _ _ => true
  | .mulhu _ _ _ _ _ => true
  | .div _ _ _ _ _ => true
  | .divu _ _ _ _ _ => true
  | .rem _ _ _ _ _ => true
  | .remu _ _ _ _ _ => true
  | .and _ _ _ _ _ => true
  | .or _ _ _ _ _ => true
  | .xor _ _ _ _ _ => true
  | .andn _ _ _ _ _ => true
  | .sll _ _ _ _ _ => true
  | .srl _ _ _ _ _ => true
  | .sra _ _ _ _ _ => true
  | .slt _ _ _ _ _ => true
  | .sltu _ _ _ _ _ => true
  | .min _ _ _ _ _ => true
  | .max _ _ _ _ _ => true
  | .minu _ _ _ _ _ => true
  | .maxu _ _ _ _ _ => true
  | .clz _ _ _ => true
  | .ctz _ _ _ => true
  | .popc _ _ _ => true
  | .mov _ _ _ => true
  | .sext _ _ _ _ => true
  | .zext _ _ _ _ => true
  | .addi _ _ _ _ => true
  | .andi _ _ _ _ => true
  | .ori _ _ _ _ => true
  | .xori _ _ _ _ => true
  | .slli _ _ _ _ => true
  | .srli _ _ _ _ => true
  | .srai _ _ _ _ => true
  | .slti _ _ _ _ => true
  | .li _ _ => true
  | .liS15 _ _ _ => true
  | .liS30 _ _ _ => true
  | .liS45 _ _ _ => true
  | .liS60 _ _ _ => true
  | .bMov _ _ => true
  | .bAdd _ _ _ _ => true
  | .bAddi _ _ _ => true
  | .bWin _ _ _ _ _ => true
  | .bGet _ _ => true
  | .bGwin _ _ => true
  | .bCpy _ _ _ _ => true
  | .ldB _ _ _ _ => true
  | .ldH _ _ _ _ => true
  | .ldW _ _ _ _ => true
  | .ldD _ _ _ _ => true
  | .ldBz _ _ _ _ => true
  | .ldHz _ _ _ _ => true
  | .ldWz _ _ _ _ => true
  | .ldT _ _ _ _ => true
  | .stB _ _ _ _ => true
  | .stH _ _ _ _ => true
  | .stW _ _ _ _ => true
  | .stD _ _ _ _ => true
  | .stT _ _ _ _ => true
  | .beqz _ _ _ => true
  | .bnez _ _ _ => true
  | .bltz _ _ _ => true
  | .bgez _ _ _ => true
  | .bgtz _ _ _ => true
  | .blez _ _ _ => true
  | .bfull _ _ => true
  | .bempty _ _ => true
  | .bmany _ _ => true
  | .bmnone _ _ => true
  | .j _ => true
  | .call _ _ => true
  | .jr _ _ => true
  | .callr _ _ _ => true
  | .loop _ _ _ => true
  | .getw _ _ x l => (!x || l.toNat % 2 == 0)
  | .putw _ _ _ _ => true
  | .waitp _ _ => true
  | .yield => true
  | .endTask => true
  | .fork _ _ _ c => c != 0
  | .rdv st mx => (st || mx)
  | .trig _ _ _ => true
  | .putc _ _ _ _ => true
  | .few _ => true
  | .fec _ => true
  | .pushm d a w f => decide (d.toNat < rfLim f.code) && decide (a.toNat < rfLim f.code) && decide (d.toNat ≤ a.toNat) && (!w || f == .g)
  | .popm d a f => decide (d.toNat < rfLim f.code) && decide (a.toNat < rfLim f.code) && decide (d.toNat ≤ a.toNat)
  | .sysr _ _ => true
  | .sysw _ _ s => SReg.writable s.code
  | .trap _ => true
  | .bkpt => true
  | .eret _ => true
  | .fenceT _ => true
  | .fenceR _ => true
  | .fenceD _ => true
  | .fenceS _ => true
  | .frInit _ _ => true
  | .frWait _ _ _ _ => true
  | .frRecl _ _ _ => true
  | .frRecipe _ _ _ => true
  | .frPin _ _ _ => true
  | .frUnpin _ _ _ => true
  | .frStat _ _ _ => true
  | .atAdd _ _ _ _ _ _ => true
  | .atMin _ _ _ _ _ _ _ => true
  | .atMax _ _ _ _ _ _ _ => true
  | .atAnd _ _ _ _ _ _ => true
  | .atOr _ _ _ _ _ _ => true
  | .atXchg _ _ _ _ _ _ => true
  | .atCas _ _ _ _ _ _ => true
  | .cpJob _ _ => true
  | .cpWait _ _ _ => true
  | .clGather _ _ => true
  | .clScatter _ _ => true
  | .clReduce _ _ => true
  | .clSend _ _ => true
  | .clRecv _ _ => true
  | .vAdd _ _ _ _ e => ([.f32, .bf16, .f16] : List EType).contains e
  | .vSub _ _ _ _ e => ([.f32, .bf16, .f16] : List EType).contains e
  | .vMul _ _ _ _ e => ([.f32, .bf16, .f16] : List EType).contains e
  | .vFma _ _ _ _ e => ([.f32, .bf16, .f16] : List EType).contains e
  | .vFms _ _ _ _ e => ([.f32, .bf16, .f16] : List EType).contains e
  | .vFnma _ _ _ _ e => ([.f32, .bf16, .f16] : List EType).contains e
  | .vAbs _ _ _ e => ([.f32, .bf16, .f16] : List EType).contains e
  | .vNeg _ _ _ e => ([.f32, .bf16, .f16] : List EType).contains e
  | .vScl _ _ _ _ e => ([.f32, .bf16, .f16] : List EType).contains e
  | .vCeq _ _ _ _ e => ([.f32, .bf16, .f16] : List EType).contains e
  | .vCne _ _ _ _ e => ([.f32, .bf16, .f16] : List EType).contains e
  | .vClt _ _ _ _ e => ([.f32, .bf16, .f16] : List EType).contains e
  | .vCle _ _ _ _ e => ([.f32, .bf16, .f16] : List EType).contains e
  | .vCun _ _ _ _ e => ([.f32, .bf16, .f16] : List EType).contains e
  | .vSel _ _ _ _ e => ([.f32, .bf16, .f16, .e4m3, .e5m2, .i8, .i16, .i32, .i64, .e8m0, .untyped] : List EType).contains e
  | .vMin _ _ _ _ e => ([.f32, .bf16, .f16] : List EType).contains e
  | .vMax _ _ _ _ e => ([.f32, .bf16, .f16] : List EType).contains e
  | .vClamp _ _ _ _ e => ([.f32, .bf16, .f16] : List EType).contains e
  | .vIadd _ _ _ _ e => ([.i8, .i16, .i32, .i64] : List EType).contains e
  | .vIsub _ _ _ _ e => ([.i8, .i16, .i32, .i64] : List EType).contains e
  | .vImul _ _ _ _ e => ([.i8, .i16, .i32] : List EType).contains e
  | .vAnd _ _ _ _ e => ([.i8, .i16, .i32, .i64, .untyped] : List EType).contains e
  | .vOr _ _ _ _ e => ([.i8, .i16, .i32, .i64, .untyped] : List EType).contains e
  | .vXor _ _ _ _ e => ([.i8, .i16, .i32, .i64, .untyped] : List EType).contains e
  | .vShl _ _ _ _ e => ([.i8, .i16, .i32, .i64] : List EType).contains e
  | .vShr _ _ _ _ e => ([.i8, .i16, .i32, .i64] : List EType).contains e
  | .vSra _ _ _ _ e => ([.i8, .i16, .i32, .i64] : List EType).contains e
  | .vImin _ _ _ _ e => ([.i8, .i16, .i32, .i64] : List EType).contains e
  | .vImax _ _ _ _ e => ([.i8, .i16, .i32, .i64] : List EType).contains e
  | .vAdds _ _ _ _ e => ([.i8, .i16, .i32] : List EType).contains e
  | .vSubs _ _ _ _ e => ([.i8, .i16, .i32] : List EType).contains e
  | .vIeq _ _ _ _ e => ([.i8, .i16, .i32, .i64] : List EType).contains e
  | .vIlt _ _ _ _ e => ([.i8, .i16, .i32, .i64] : List EType).contains e
  | .vIltu _ _ _ _ e => ([.i8, .i16, .i32, .i64] : List EType).contains e
  | .vCvt _ _ f s m e => EType.cvtOk f.code && EType.cvtOk e.code && cvtPairOk f.code e.code && cvtModeOk f.code e.code s.toNat m.toNat
  | .vCvtSr _ _ _ _ f e => decide (f.code < 3) && cvtSrOk f.code e.code
  | .vPack _ _ _ _ e => ([.i8, .i16, .bf16, .e5m2] : List EType).contains e
  | .vUnpkLo _ _ _ e => ([.i8, .i16, .bf16, .e5m2] : List EType).contains e
  | .vUnpkHi _ _ _ e => ([.i8, .i16, .bf16, .e5m2] : List EType).contains e
  | .vQblk _ _ _ m e => ([.e4m3, .e5m2, .i8] : List EType).contains e && decide (m.toNat < 4)
  | .vDqblk _ _ p q e => ([.f32, .bf16] : List EType).contains e && decide (3 ≤ q.code ∧ q.code < 6) && (!p || e == .f32)
  | .vRcp _ _ _ e => ([.f32, .bf16, .f16] : List EType).contains e
  | .vRsq _ _ _ e => ([.f32, .bf16, .f16] : List EType).contains e
  | .vExp2 _ _ _ e => ([.f32, .bf16, .f16] : List EType).contains e
  | .vLog2 _ _ _ e => ([.f32, .bf16, .f16] : List EType).contains e
  | .vTanh _ _ _ e => ([.f32, .bf16, .f16] : List EType).contains e
  | .vErf _ _ _ e => ([.f32, .bf16, .f16] : List EType).contains e
  | .vRsum _ _ _ e => ([.f32, .bf16, .f16, .i8, .i16, .i32] : List EType).contains e
  | .vRmax _ _ _ e => ([.f32, .bf16, .f16, .i8, .i16, .i32] : List EType).contains e
  | .vRmin _ _ _ e => ([.f32, .bf16, .f16, .i8, .i16, .i32] : List EType).contains e
  | .vRsumG _ _ _ e => ([.f32, .bf16, .f16, .i8, .i16, .i32] : List EType).contains e
  | .vPerm _ _ _ _ => true
  | .vBcast _ _ _ => true
  | .vRot _ _ _ => true
  | .vScan _ _ _ e => ([.f32, .i32] : List EType).contains e
  | .vPeek _ _ => true
  | .vMov _ _ _ => true
  | .vSetv _ _ _ _ => true
  | .vGetv _ _ _ => true
  | .vSetp _ _ _ _ => true
  | .vGetp _ _ => true
  | .vSettag _ _ _ => true
  | .vGettag _ _ => true
  | .vIns _ _ _ _ => true
  | .vExt _ _ _ => true
  | .vSplat _ _ => true
  | .vMkc _ _ k => k != .marker
  | .vDeq _ _ _ _ _ => true
  | .vWarp _ _ _ _ => true
  | .vErracc _ _ _ _ => true
  | .vRefr _ _ => true
  | .vBfx _ _ _ => true
  | .mMma _ _ _ _ => true
  | .mMmaz _ _ _ _ => true
  | .mRun _ _ _ _ _ _ _ => true
  | .mGrp _ _ _ _ _ _ _ _ => true
  | .mDrain _ _ _ _ => true
  | .mCopy _ _ => true
  | .mCopySt _ _ _ => true
  | .mCopyLd _ _ _ => true
  | .mLd _ _ => true
  | .mSwap => true
  | .mClr _ => true
  | .rlDecl _ _ => true
  | .rlIns _ _ _ _ => true
  | .rlMerge c x => x != c
  | .rlThr _ _ => true
  | .rlOut _ _ n u _ => (!n || u)
  | .rlClr _ _ => true
  | .ringSet _ _ => true
  | .ringHead _ _ => true
  | .ringTail _ _ => true
  | .ringPop _ _ _ => true
  | .sRead _ ep _ _ _ _ _ _ tag eos => (match ep with | .port _ => true | .ring _ => tag == 0 && !eos)
  | .sWrite _ _ _ _ _ _ _ _ => true
  | .sInd _ ep _ _ _ _ _ _ _ tag eos => (match ep with | .port _ => true | .ring _ => tag == 0 && !eos)
  | .sPrism _ _ _ _ => true
  | .sSyntax _ _ _ _ _ _ _ _ => true
  | .sBar => true
  | .sStop _ => true
  | .sStat _ _ => true
  | .issueSlot _ => true
  | .parkClear _ _ => true
  | .tokenOpComplete _ => true
  | .longLatencyDeliver _ _ => true
  | .getwDeliver _ _ _ => true
  | .tokenHop _ _ _ => true
  | .tokenArrive _ _ => true
  | .lateTokenBurstEnd _ _ _ => true
  | .lateTokenLongBurst _ _ _ => true
  | .junctionPass _ _ _ => true
  | .junctionFork _ _ _ => true
  | .junctionJoin _ _ _ => true
  | .junctionSteer _ _ _ => true
  | .junctionMerge _ _ _ => true
  | .junctionLoopgen _ _ _ => true
  | .junctionRandom _ _ _ => true
  | .junctionConvert _ _ _ => true
  | .junctionGate _ _ _ => true
  | .junctionTagchk _ _ _ => true
  | .ringFeed _ _ _ => true
  | .streamCmdStart _ _ => true
  | .streamElementAccess _ _ => true
  | .streamReadPush _ _ => true
  | .streamWriteTake _ _ => true
  | .streamCmdComplete _ _ => true
  | .syntaxTokenPush _ => true
  | .syntaxJobEnd _ => true
  | .memopForward _ => true
  | .versionedWriteArrive _ => true
  | .versionedWriteResume _ => true
  | .versionedReadArrive _ => true
  | .versionWaitSatisfied _ => true
  | .directoryFrameOp _ => true
  | .atomicPerform _ => true
  | .mitBlockAccess _ => true
  | .cardRelease _ => true
  | .cardComplete _ => true
  | .cpWaitDeliver _ => true
  | .collectiveExchange _ _ => true
  | .collectiveComplete _ => true
  | .prismLoadComplete _ _ => true
  | .evictDrop _ _ => true
  | .evictSpill _ _ => true
  | .spillAck _ _ => true
  | .recomputeStart _ => true
  | .recomputeEnd _ => true
  | .progressTimeout _ => true
  | .graphComplete _ => true
  | .commitRequest _ _ => true
  | .fetchPhase2 _ => true
  | .preemptRequest _ => true
  | .quantumExpire _ => true
  | .markerArrive _ _ => true
  | .checkpoint _ => true
  | .checkpointInterval _ => true
  | .rollback _ => true
  | .fqRingWrite _ => true
  | .mcstatClear => true
  | .fqresRetry _ _ => true
  | .fqresCancel _ _ => true
  | .fqresAlt _ _ => true
  | .fqresEnd _ _ => true
  | .taskcmdResumeTpc _ _ => true
  | .taskcmdResumePc _ _ _ => true
  | .taskcmdEnd _ _ => true
  | .ckcmdCheckpoint _ _ => true
  | .ckcmdRollback _ _ => true
  | .tlbinvPartition _ => true
  | .tlbinvWindow _ _ => true
  | .tlbinvPage _ _ _ => true
  | .tlbinvComplete _ => true
  | .s2invPartition _ => true
  | .s2invPage _ _ => true
  | .s2invComplete => true
  | .scrub _ _ => true
  | .scrubComplete => true
  | .owncmd _ => true
  | .owncmdComplete => true
  | .regdel _ _ _ => true
  | .slicedel _ _ => true
  | .partitionLive _ _ => true
  | .partitionNotLive _ => true
  | .synassignChange _ _ => true
  | .synassignTakeEffect _ => true
  | .prismmapChange _ _ => true
  | .vfmapChange _ => true
  | .devidWrite _ => true
  | .wportEnable _ => true
  | .wportDisable _ => true
  | .shutctlFire => true
  | .shutterPin => true
  | .shutterJtag => true
  | .shutterReadout _ _ => true
  | .pwrcapWrite _ => true
  | .thermalThrottle _ => true
  | .thermtrip _ => true
  | .lqpush _ _ _ => true
  | .registerWrite _ _ _ => true
  | .hostRequest _ => true
  | .functionLevelReset _ => true
  | .hartMemoryAccess _ => true
  | .deviceReset _ => true
  | .recoveryImageWrite _ => true
  | .flitReceive _ _ => true
  | .portRetrain _ _ => true
  | .peerAccessInbound _ => true
  | .softError _ => true
  | .regdelDone _ => true
  | .portTrainingDone _ _ => true
  | .hostReadCompletion _ _ _ => true

/-- An instruction word or stream command, as against an event. -/
def Instr.isWord (i : Instr) : Bool :=
  match i with
  | .add .. => true
  | .sub .. => true
  | .mul .. => true
  | .mulh .. => true
  | .mulhu .. => true
  | .div .. => true
  | .divu .. => true
  | .rem .. => true
  | .remu .. => true
  | .and .. => true
  | .or .. => true
  | .xor .. => true
  | .andn .. => true
  | .sll .. => true
  | .srl .. => true
  | .sra .. => true
  | .slt .. => true
  | .sltu .. => true
  | .min .. => true
  | .max .. => true
  | .minu .. => true
  | .maxu .. => true
  | .clz .. => true
  | .ctz .. => true
  | .popc .. => true
  | .mov .. => true
  | .sext .. => true
  | .zext .. => true
  | .addi .. => true
  | .andi .. => true
  | .ori .. => true
  | .xori .. => true
  | .slli .. => true
  | .srli .. => true
  | .srai .. => true
  | .slti .. => true
  | .li .. => true
  | .liS15 .. => true
  | .liS30 .. => true
  | .liS45 .. => true
  | .liS60 .. => true
  | .bMov .. => true
  | .bAdd .. => true
  | .bAddi .. => true
  | .bWin .. => true
  | .bGet .. => true
  | .bGwin .. => true
  | .bCpy .. => true
  | .ldB .. => true
  | .ldH .. => true
  | .ldW .. => true
  | .ldD .. => true
  | .ldBz .. => true
  | .ldHz .. => true
  | .ldWz .. => true
  | .ldT .. => true
  | .stB .. => true
  | .stH .. => true
  | .stW .. => true
  | .stD .. => true
  | .stT .. => true
  | .beqz .. => true
  | .bnez .. => true
  | .bltz .. => true
  | .bgez .. => true
  | .bgtz .. => true
  | .blez .. => true
  | .bfull .. => true
  | .bempty .. => true
  | .bmany .. => true
  | .bmnone .. => true
  | .j .. => true
  | .call .. => true
  | .jr .. => true
  | .callr .. => true
  | .loop .. => true
  | .getw .. => true
  | .putw .. => true
  | .waitp .. => true
  | .yield => true
  | .endTask => true
  | .fork .. => true
  | .rdv .. => true
  | .trig .. => true
  | .putc .. => true
  | .few .. => true
  | .fec .. => true
  | .pushm .. => true
  | .popm .. => true
  | .sysr .. => true
  | .sysw .. => true
  | .trap .. => true
  | .bkpt => true
  | .eret .. => true
  | .fenceT .. => true
  | .fenceR .. => true
  | .fenceD .. => true
  | .fenceS .. => true
  | .frInit .. => true
  | .frWait .. => true
  | .frRecl .. => true
  | .frRecipe .. => true
  | .frPin .. => true
  | .frUnpin .. => true
  | .frStat .. => true
  | .atAdd .. => true
  | .atMin .. => true
  | .atMax .. => true
  | .atAnd .. => true
  | .atOr .. => true
  | .atXchg .. => true
  | .atCas .. => true
  | .cpJob .. => true
  | .cpWait .. => true
  | .clGather .. => true
  | .clScatter .. => true
  | .clReduce .. => true
  | .clSend .. => true
  | .clRecv .. => true
  | .vAdd .. => true
  | .vSub .. => true
  | .vMul .. => true
  | .vFma .. => true
  | .vFms .. => true
  | .vFnma .. => true
  | .vAbs .. => true
  | .vNeg .. => true
  | .vScl .. => true
  | .vCeq .. => true
  | .vCne .. => true
  | .vClt .. => true
  | .vCle .. => true
  | .vCun .. => true
  | .vSel .. => true
  | .vMin .. => true
  | .vMax .. => true
  | .vClamp .. => true
  | .vIadd .. => true
  | .vIsub .. => true
  | .vImul .. => true
  | .vAnd .. => true
  | .vOr .. => true
  | .vXor .. => true
  | .vShl .. => true
  | .vShr .. => true
  | .vSra .. => true
  | .vImin .. => true
  | .vImax .. => true
  | .vAdds .. => true
  | .vSubs .. => true
  | .vIeq .. => true
  | .vIlt .. => true
  | .vIltu .. => true
  | .vCvt .. => true
  | .vCvtSr .. => true
  | .vPack .. => true
  | .vUnpkLo .. => true
  | .vUnpkHi .. => true
  | .vQblk .. => true
  | .vDqblk .. => true
  | .vRcp .. => true
  | .vRsq .. => true
  | .vExp2 .. => true
  | .vLog2 .. => true
  | .vTanh .. => true
  | .vErf .. => true
  | .vRsum .. => true
  | .vRmax .. => true
  | .vRmin .. => true
  | .vRsumG .. => true
  | .vPerm .. => true
  | .vBcast .. => true
  | .vRot .. => true
  | .vScan .. => true
  | .vPeek .. => true
  | .vMov .. => true
  | .vSetv .. => true
  | .vGetv .. => true
  | .vSetp .. => true
  | .vGetp .. => true
  | .vSettag .. => true
  | .vGettag .. => true
  | .vIns .. => true
  | .vExt .. => true
  | .vSplat .. => true
  | .vMkc .. => true
  | .vDeq .. => true
  | .vWarp .. => true
  | .vErracc .. => true
  | .vRefr .. => true
  | .vBfx .. => true
  | .mMma .. => true
  | .mMmaz .. => true
  | .mRun .. => true
  | .mGrp .. => true
  | .mDrain .. => true
  | .mCopy .. => true
  | .mCopySt .. => true
  | .mCopyLd .. => true
  | .mLd .. => true
  | .mSwap => true
  | .mClr .. => true
  | .rlDecl .. => true
  | .rlIns .. => true
  | .rlMerge .. => true
  | .rlThr .. => true
  | .rlOut .. => true
  | .rlClr .. => true
  | .ringSet .. => true
  | .ringHead .. => true
  | .ringTail .. => true
  | .ringPop .. => true
  | .sRead .. => true
  | .sWrite .. => true
  | .sInd .. => true
  | .sPrism .. => true
  | .sSyntax .. => true
  | .sBar => true
  | .sStop .. => true
  | .sStat .. => true
  | .issueSlot .. => false
  | .parkClear .. => false
  | .tokenOpComplete .. => false
  | .longLatencyDeliver .. => false
  | .getwDeliver .. => false
  | .tokenHop .. => false
  | .tokenArrive .. => false
  | .lateTokenBurstEnd .. => false
  | .lateTokenLongBurst .. => false
  | .junctionPass .. => false
  | .junctionFork .. => false
  | .junctionJoin .. => false
  | .junctionSteer .. => false
  | .junctionMerge .. => false
  | .junctionLoopgen .. => false
  | .junctionRandom .. => false
  | .junctionConvert .. => false
  | .junctionGate .. => false
  | .junctionTagchk .. => false
  | .ringFeed .. => false
  | .streamCmdStart .. => false
  | .streamElementAccess .. => false
  | .streamReadPush .. => false
  | .streamWriteTake .. => false
  | .streamCmdComplete .. => false
  | .syntaxTokenPush .. => false
  | .syntaxJobEnd .. => false
  | .memopForward .. => false
  | .versionedWriteArrive .. => false
  | .versionedWriteResume .. => false
  | .versionedReadArrive .. => false
  | .versionWaitSatisfied .. => false
  | .directoryFrameOp .. => false
  | .atomicPerform .. => false
  | .mitBlockAccess .. => false
  | .cardRelease .. => false
  | .cardComplete .. => false
  | .cpWaitDeliver .. => false
  | .collectiveExchange .. => false
  | .collectiveComplete .. => false
  | .prismLoadComplete .. => false
  | .evictDrop .. => false
  | .evictSpill .. => false
  | .spillAck .. => false
  | .recomputeStart .. => false
  | .recomputeEnd .. => false
  | .progressTimeout .. => false
  | .graphComplete .. => false
  | .commitRequest .. => false
  | .fetchPhase2 .. => false
  | .preemptRequest .. => false
  | .quantumExpire .. => false
  | .markerArrive .. => false
  | .checkpoint .. => false
  | .checkpointInterval .. => false
  | .rollback .. => false
  | .fqRingWrite .. => false
  | .mcstatClear => false
  | .fqresRetry .. => false
  | .fqresCancel .. => false
  | .fqresAlt .. => false
  | .fqresEnd .. => false
  | .taskcmdResumeTpc .. => false
  | .taskcmdResumePc .. => false
  | .taskcmdEnd .. => false
  | .ckcmdCheckpoint .. => false
  | .ckcmdRollback .. => false
  | .tlbinvPartition .. => false
  | .tlbinvWindow .. => false
  | .tlbinvPage .. => false
  | .tlbinvComplete .. => false
  | .s2invPartition .. => false
  | .s2invPage .. => false
  | .s2invComplete => false
  | .scrub .. => false
  | .scrubComplete => false
  | .owncmd .. => false
  | .owncmdComplete => false
  | .regdel .. => false
  | .slicedel .. => false
  | .partitionLive .. => false
  | .partitionNotLive .. => false
  | .synassignChange .. => false
  | .synassignTakeEffect .. => false
  | .prismmapChange .. => false
  | .vfmapChange .. => false
  | .devidWrite .. => false
  | .wportEnable .. => false
  | .wportDisable .. => false
  | .shutctlFire => false
  | .shutterPin => false
  | .shutterJtag => false
  | .shutterReadout .. => false
  | .pwrcapWrite .. => false
  | .thermalThrottle .. => false
  | .thermtrip .. => false
  | .lqpush .. => false
  | .registerWrite .. => false
  | .hostRequest .. => false
  | .functionLevelReset .. => false
  | .hartMemoryAccess .. => false
  | .deviceReset .. => false
  | .recoveryImageWrite .. => false
  | .flitReceive .. => false
  | .portRetrain .. => false
  | .peerAccessInbound .. => false
  | .softError .. => false
  | .regdelDone .. => false
  | .portTrainingDone .. => false
  | .hostReadCompletion .. => false

end Sys2Proof
end

