-- ==== Sys2Proof/Decode.lean ====
section
/-! DEFINITION. The decoder, total on any words and bytes, naming the illegal field it finds first (R55 to R57), and after it the encoder. -/
namespace Sys2Proof

/-! ## Bits and bytes -/

/-- Bits [hi:lo] of a number (R28). -/
def fld (w hi lo : Nat) : Nat := w / 2 ^ lo % 2 ^ (hi + 1 - lo)

/-- A 4-bit field. -/
def b4 (n : Nat) : BitVec 4 := .ofNat 4 n
/-- A 3-bit field. -/
def b3 (n : Nat) : BitVec 3 := .ofNat 3 n
/-- A one-bit field as a flag. -/
def bit (n : Nat) : Bool := n % 2 == 1

/-- The little-endian value of a list of bytes (R28). -/
def leNat : List Byte → Nat
  | [] => 0
  | b :: bs => b.toNat + 256 * leNat bs

/-- The n low bytes of a number, little-endian (R28). -/
def leBytes : Nat → Nat → List Byte
  | 0, _ => []
  | n + 1, x => .ofNat 8 x :: leBytes n (x / 256)

/-- An illegal word: the field named by R56 and, for a stream command, the word W0 to W3 that holds it. -/
structure DecErr where
  field : Nat
  word  : Nat
  deriving DecidableEq, Repr

/-- The first check that fails decides the field. -/
def chk : List (Bool × Nat) → Instr → Except Nat Instr
  | [], i => .ok i
  | (c, f) :: r, i => if c then chk r i else .error f

/-- As `chk` over the four words of a stream command. -/
def chkL : List (Bool × Nat × Nat) → Instr → Except DecErr Instr
  | [], i => .ok i
  | (c, f, k) :: r, i => if c then chkL r i else .error ⟨f, k⟩

/-- A mask field is legal: enabled with bit 6 zero, or all zero (R40, R175). -/
def maskOk (c : Nat) : Bool := (fld c 2 2 = 0) && ((fld c 3 3 = 1) || (c = 0))
/-- The mask named by a mask field (R40). -/
def maskDec (c : Nat) : Option (BitVec 2) := if fld c 3 3 = 1 then some (.ofNat 2 (fld c 1 0)) else none

/-! ## The groups -/

/-- Group 0x01: the minor code chooses the instruction, its fields are checked from the highest bit down (R36, R51 to R53, R56). -/
def decG01 (w : Nat) : Except Nat Instr :=
  match fld w 26 22 with
  | 0 => chk [(fld w 7 0 = 0, 8)] (.add (b4 (fld w 21 18)) (b4 (fld w 17 14)) (b4 (fld w 13 10)) (bit (fld w 9 9)) (bit (fld w 8 8)))
  | 1 => chk [(fld w 7 0 = 0, 8)] (.sub (b4 (fld w 21 18)) (b4 (fld w 17 14)) (b4 (fld w 13 10)) (bit (fld w 9 9)) (bit (fld w 8 8)))
  | 2 => chk [(fld w 7 0 = 0, 8)] (.mul (b4 (fld w 21 18)) (b4 (fld w 17 14)) (b4 (fld w 13 10)) (bit (fld w 9 9)) (bit (fld w 8 8)))
  | 3 => chk [(fld w 7 0 = 0, 8)] (.mulh (b4 (fld w 21 18)) (b4 (fld w 17 14)) (b4 (fld w 13 10)) (bit (fld w 9 9)) (bit (fld w 8 8)))
  | 4 => chk [(fld w 7 0 = 0, 8)] (.mulhu (b4 (fld w 21 18)) (b4 (fld w 17 14)) (b4 (fld w 13 10)) (bit (fld w 9 9)) (bit (fld w 8 8)))
  | 5 => chk [(fld w 7 0 = 0, 8)] (.div (b4 (fld w 21 18)) (b4 (fld w 17 14)) (b4 (fld w 13 10)) (bit (fld w 9 9)) (bit (fld w 8 8)))
  | 6 => chk [(fld w 7 0 = 0, 8)] (.divu (b4 (fld w 21 18)) (b4 (fld w 17 14)) (b4 (fld w 13 10)) (bit (fld w 9 9)) (bit (fld w 8 8)))
  | 7 => chk [(fld w 7 0 = 0, 8)] (.rem (b4 (fld w 21 18)) (b4 (fld w 17 14)) (b4 (fld w 13 10)) (bit (fld w 9 9)) (bit (fld w 8 8)))
  | 8 => chk [(fld w 7 0 = 0, 8)] (.remu (b4 (fld w 21 18)) (b4 (fld w 17 14)) (b4 (fld w 13 10)) (bit (fld w 9 9)) (bit (fld w 8 8)))
  | 9 => chk [(fld w 7 0 = 0, 8)] (.and (b4 (fld w 21 18)) (b4 (fld w 17 14)) (b4 (fld w 13 10)) (bit (fld w 9 9)) (bit (fld w 8 8)))
  | 10 => chk [(fld w 7 0 = 0, 8)] (.or (b4 (fld w 21 18)) (b4 (fld w 17 14)) (b4 (fld w 13 10)) (bit (fld w 9 9)) (bit (fld w 8 8)))
  | 11 => chk [(fld w 7 0 = 0, 8)] (.xor (b4 (fld w 21 18)) (b4 (fld w 17 14)) (b4 (fld w 13 10)) (bit (fld w 9 9)) (bit (fld w 8 8)))
  | 12 => chk [(fld w 7 0 = 0, 8)] (.andn (b4 (fld w 21 18)) (b4 (fld w 17 14)) (b4 (fld w 13 10)) (bit (fld w 9 9)) (bit (fld w 8 8)))
  | 13 => chk [(fld w 7 0 = 0, 8)] (.sll (b4 (fld w 21 18)) (b4 (fld w 17 14)) (b4 (fld w 13 10)) (bit (fld w 9 9)) (bit (fld w 8 8)))
  | 14 => chk [(fld w 7 0 = 0, 8)] (.srl (b4 (fld w 21 18)) (b4 (fld w 17 14)) (b4 (fld w 13 10)) (bit (fld w 9 9)) (bit (fld w 8 8)))
  | 15 => chk [(fld w 7 0 = 0, 8)] (.sra (b4 (fld w 21 18)) (b4 (fld w 17 14)) (b4 (fld w 13 10)) (bit (fld w 9 9)) (bit (fld w 8 8)))
  | 16 => chk [(fld w 7 0 = 0, 8)] (.slt (b4 (fld w 21 18)) (b4 (fld w 17 14)) (b4 (fld w 13 10)) (bit (fld w 9 9)) (bit (fld w 8 8)))
  | 17 => chk [(fld w 7 0 = 0, 8)] (.sltu (b4 (fld w 21 18)) (b4 (fld w 17 14)) (b4 (fld w 13 10)) (bit (fld w 9 9)) (bit (fld w 8 8)))
  | 18 => chk [(fld w 7 0 = 0, 8)] (.min (b4 (fld w 21 18)) (b4 (fld w 17 14)) (b4 (fld w 13 10)) (bit (fld w 9 9)) (bit (fld w 8 8)))
  | 19 => chk [(fld w 7 0 = 0, 8)] (.max (b4 (fld w 21 18)) (b4 (fld w 17 14)) (b4 (fld w 13 10)) (bit (fld w 9 9)) (bit (fld w 8 8)))
  | 20 => chk [(fld w 7 0 = 0, 8)] (.minu (b4 (fld w 21 18)) (b4 (fld w 17 14)) (b4 (fld w 13 10)) (bit (fld w 9 9)) (bit (fld w 8 8)))
  | 21 => chk [(fld w 7 0 = 0, 8)] (.maxu (b4 (fld w 21 18)) (b4 (fld w 17 14)) (b4 (fld w 13 10)) (bit (fld w 9 9)) (bit (fld w 8 8)))
  | 22 => chk [(fld w 13 10 = 0, 5), (fld w 8 8 = 0, 7), (fld w 7 0 = 0, 8)] (.clz (b4 (fld w 21 18)) (b4 (fld w 17 14)) (bit (fld w 9 9)))
  | 23 => chk [(fld w 13 10 = 0, 5), (fld w 8 8 = 0, 7), (fld w 7 0 = 0, 8)] (.ctz (b4 (fld w 21 18)) (b4 (fld w 17 14)) (bit (fld w 9 9)))
  | 24 => chk [(fld w 13 10 = 0, 5), (fld w 8 8 = 0, 7), (fld w 7 0 = 0, 8)] (.popc (b4 (fld w 21 18)) (b4 (fld w 17 14)) (bit (fld w 9 9)))
  | 25 => chk [(fld w 13 10 = 0, 5), (fld w 8 8 = 0, 7), (fld w 7 0 = 0, 8)] (.mov (b4 (fld w 21 18)) (b4 (fld w 17 14)) (bit (fld w 9 9)))
  | 26 => chk [(fld w 13 10 = 0, 5), (fld w 8 8 = 0, 7), ((fld w 7 0 < 3), 8)] (.sext (b4 (fld w 21 18)) (b4 (fld w 17 14)) (bit (fld w 9 9)) (ExtWidth.dec (fld w 7 0)))
  | 27 => chk [(fld w 13 10 = 0, 5), (fld w 8 8 = 0, 7), ((fld w 7 0 < 3), 8)] (.zext (b4 (fld w 21 18)) (b4 (fld w 17 14)) (bit (fld w 9 9)) (ExtWidth.dec (fld w 7 0)))
  | _ => .error 1

/-- Group 0x02: the minor code chooses the instruction, its fields are checked from the highest bit down (R36, R51 to R53, R56). -/
def decG02 (w : Nat) : Except Nat Instr :=
  match fld w 26 24 with
  | 0 => .ok (.addi (b4 (fld w 23 20)) (b4 (fld w 19 16)) (bit (fld w 15 15)) (.ofNat 15 (fld w 14 0)))
  | 1 => .ok (.andi (b4 (fld w 23 20)) (b4 (fld w 19 16)) (bit (fld w 15 15)) (.ofNat 15 (fld w 14 0)))
  | 2 => .ok (.ori (b4 (fld w 23 20)) (b4 (fld w 19 16)) (bit (fld w 15 15)) (.ofNat 15 (fld w 14 0)))
  | 3 => .ok (.xori (b4 (fld w 23 20)) (b4 (fld w 19 16)) (bit (fld w 15 15)) (.ofNat 15 (fld w 14 0)))
  | 4 => chk [((fld w 14 0 < 64), 9)] (.slli (b4 (fld w 23 20)) (b4 (fld w 19 16)) (bit (fld w 15 15)) (.ofNat 6 (fld w 14 0)))
  | 5 => chk [((fld w 14 0 < 64), 9)] (.srli (b4 (fld w 23 20)) (b4 (fld w 19 16)) (bit (fld w 15 15)) (.ofNat 6 (fld w 14 0)))
  | 6 => chk [((fld w 14 0 < 64), 9)] (.srai (b4 (fld w 23 20)) (b4 (fld w 19 16)) (bit (fld w 15 15)) (.ofNat 6 (fld w 14 0)))
  | 7 => .ok (.slti (b4 (fld w 23 20)) (b4 (fld w 19 16)) (bit (fld w 15 15)) (.ofNat 15 (fld w 14 0)))
  | _ => .error 1

/-- Group 0x03: the minor code chooses the instruction, its fields are checked from the highest bit down (R36, R51 to R53, R56). -/
def decG03 (w : Nat) : Except Nat Instr :=
  match fld w 26 24 with
  | 0 => chk [(fld w 19 16 = 0, 4), (fld w 15 15 = 0, 7)] (.li (b4 (fld w 23 20)) (.ofNat 15 (fld w 14 0)))
  | 1 => chk [(fld w 19 16 = 0, 4)] (.liS15 (b4 (fld w 23 20)) (bit (fld w 15 15)) (.ofNat 15 (fld w 14 0)))
  | 2 => chk [(fld w 19 16 = 0, 4)] (.liS30 (b4 (fld w 23 20)) (bit (fld w 15 15)) (.ofNat 15 (fld w 14 0)))
  | 3 => chk [(fld w 19 16 = 0, 4)] (.liS45 (b4 (fld w 23 20)) (bit (fld w 15 15)) (.ofNat 15 (fld w 14 0)))
  | 4 => chk [(fld w 19 16 = 0, 4), ((fld w 14 0 < 16), 9)] (.liS60 (b4 (fld w 23 20)) (bit (fld w 15 15)) (.ofNat 4 (fld w 14 0)))
  | _ => .error 1

/-- Group 0x04: the minor code chooses the instruction, its fields are checked from the highest bit down (R36, R51 to R53, R56). -/
def decG04 (w : Nat) : Except Nat Instr :=
  match fld w 26 22 with
  | 0 => chk [((fld w 21 18 < 8), 3), ((fld w 17 14 < 8), 4), (fld w 13 10 = 0, 5), (fld w 9 9 = 0, 7), (fld w 8 8 = 0, 7), (fld w 7 0 = 0, 8)] (.bMov (b3 (fld w 21 18)) (b3 (fld w 17 14)))
  | 1 => chk [((fld w 21 18 < 8), 3), ((fld w 17 14 < 8), 4), (fld w 9 9 = 0, 7), (fld w 7 0 = 0, 8)] (.bAdd (b3 (fld w 21 18)) (b3 (fld w 17 14)) (b4 (fld w 13 10)) (bit (fld w 8 8)))
  | 2 => chk [((fld w 21 18 < 8), 3), ((fld w 17 14 < 8), 4), (fld w 13 10 = 0, 5), (fld w 9 9 = 0, 7), (fld w 8 8 = 0, 7)] (.bAddi (b3 (fld w 21 18)) (b3 (fld w 17 14)) (.ofNat 8 (fld w 7 0)))
  | 3 => chk [((fld w 21 18 < 8), 3), (fld w 7 0 = 0, 8)] (.bWin (b3 (fld w 21 18)) (b4 (fld w 17 14)) (b4 (fld w 13 10)) (bit (fld w 9 9)) (bit (fld w 8 8)))
  | 4 => chk [((fld w 17 14 < 8), 4), (fld w 13 10 = 0, 5), (fld w 9 9 = 0, 7), (fld w 8 8 = 0, 7), (fld w 7 0 = 0, 8)] (.bGet (b4 (fld w 21 18)) (b3 (fld w 17 14)))
  | 5 => chk [((fld w 17 14 < 8), 4), (fld w 13 10 = 0, 5), (fld w 9 9 = 0, 7), (fld w 8 8 = 0, 7), (fld w 7 0 = 0, 8)] (.bGwin (b4 (fld w 21 18)) (b3 (fld w 17 14)))
  | 6 => chk [((fld w 21 18 < 8), 3), ((fld w 17 14 < 8), 4), (fld w 9 9 = 0, 7), (fld w 7 0 = 0, 8)] (.bCpy (b3 (fld w 21 18)) (b3 (fld w 17 14)) (b4 (fld w 13 10)) (bit (fld w 8 8)))
  | _ => .error 1

/-- Group 0x05: the minor code chooses the instruction, its fields are checked from the highest bit down (R36, R51 to R53, R56). -/
def decG05 (w : Nat) : Except Nat Instr :=
  match fld w 26 24 with
  | 0 => .ok (.ldB (b4 (fld w 23 20)) (b4 (fld w 19 16)) (bit (fld w 15 15)) (.ofNat 15 (fld w 14 0)))
  | 1 => .ok (.ldH (b4 (fld w 23 20)) (b4 (fld w 19 16)) (bit (fld w 15 15)) (.ofNat 15 (fld w 14 0)))
  | 2 => .ok (.ldW (b4 (fld w 23 20)) (b4 (fld w 19 16)) (bit (fld w 15 15)) (.ofNat 15 (fld w 14 0)))
  | 3 => .ok (.ldD (b4 (fld w 23 20)) (b4 (fld w 19 16)) (bit (fld w 15 15)) (.ofNat 15 (fld w 14 0)))
  | 4 => .ok (.ldBz (b4 (fld w 23 20)) (b4 (fld w 19 16)) (bit (fld w 15 15)) (.ofNat 15 (fld w 14 0)))
  | 5 => .ok (.ldHz (b4 (fld w 23 20)) (b4 (fld w 19 16)) (bit (fld w 15 15)) (.ofNat 15 (fld w 14 0)))
  | 6 => .ok (.ldWz (b4 (fld w 23 20)) (b4 (fld w 19 16)) (bit (fld w 15 15)) (.ofNat 15 (fld w 14 0)))
  | 7 => chk [((fld w 23 20 < 8), 3)] (.ldT (b3 (fld w 23 20)) (b4 (fld w 19 16)) (bit (fld w 15 15)) (.ofNat 15 (fld w 14 0)))
  | _ => .error 1

/-- Group 0x06: the minor code chooses the instruction, its fields are checked from the highest bit down (R36, R51 to R53, R56). -/
def decG06 (w : Nat) : Except Nat Instr :=
  match fld w 26 24 with
  | 0 => .ok (.stB (b4 (fld w 23 20)) (b4 (fld w 19 16)) (bit (fld w 15 15)) (.ofNat 15 (fld w 14 0)))
  | 1 => .ok (.stH (b4 (fld w 23 20)) (b4 (fld w 19 16)) (bit (fld w 15 15)) (.ofNat 15 (fld w 14 0)))
  | 2 => .ok (.stW (b4 (fld w 23 20)) (b4 (fld w 19 16)) (bit (fld w 15 15)) (.ofNat 15 (fld w 14 0)))
  | 3 => .ok (.stD (b4 (fld w 23 20)) (b4 (fld w 19 16)) (bit (fld w 15 15)) (.ofNat 15 (fld w 14 0)))
  | 4 => chk [((fld w 23 20 < 8), 3)] (.stT (b3 (fld w 23 20)) (b4 (fld w 19 16)) (bit (fld w 15 15)) (.ofNat 15 (fld w 14 0)))
  | _ => .error 1

/-- Group 0x07: the minor code chooses the instruction, its fields are checked from the highest bit down (R36, R51 to R53, R56). -/
def decG07 (w : Nat) : Except Nat Instr :=
  match fld w 26 23 with
  | 0 => .ok (.beqz (b4 (fld w 22 19)) (bit (fld w 18 18)) (.ofNat 18 (fld w 17 0)))
  | 1 => .ok (.bnez (b4 (fld w 22 19)) (bit (fld w 18 18)) (.ofNat 18 (fld w 17 0)))
  | 2 => .ok (.bltz (b4 (fld w 22 19)) (bit (fld w 18 18)) (.ofNat 18 (fld w 17 0)))
  | 3 => .ok (.bgez (b4 (fld w 22 19)) (bit (fld w 18 18)) (.ofNat 18 (fld w 17 0)))
  | 4 => .ok (.bgtz (b4 (fld w 22 19)) (bit (fld w 18 18)) (.ofNat 18 (fld w 17 0)))
  | 5 => .ok (.blez (b4 (fld w 22 19)) (bit (fld w 18 18)) (.ofNat 18 (fld w 17 0)))
  | 6 => chk [(fld w 18 18 = 0, 7)] (.bfull (b4 (fld w 22 19)) (.ofNat 18 (fld w 17 0)))
  | 7 => chk [(fld w 18 18 = 0, 7)] (.bempty (b4 (fld w 22 19)) (.ofNat 18 (fld w 17 0)))
  | 8 => chk [((fld w 22 19 < 4), 4), (fld w 18 18 = 0, 7)] (.bmany (.ofNat 2 (fld w 22 19)) (.ofNat 18 (fld w 17 0)))
  | 9 => chk [((fld w 22 19 < 4), 4), (fld w 18 18 = 0, 7)] (.bmnone (.ofNat 2 (fld w 22 19)) (.ofNat 18 (fld w 17 0)))
  | _ => .error 2

/-- Group 0x08: the minor code chooses the instruction, its fields are checked from the highest bit down (R36, R51 to R53, R56). -/
def decG08 (w : Nat) : Except Nat Instr :=
  match fld w 26 23 with
  | 0 => chk [(fld w 22 19 = 0, 4), (fld w 18 18 = 0, 7)] (.j (.ofNat 18 (fld w 17 0)))
  | 1 => chk [(fld w 18 18 = 0, 7)] (.call (b4 (fld w 22 19)) (.ofNat 18 (fld w 17 0)))
  | 2 => chk [(fld w 17 0 = 0, 9)] (.jr (b4 (fld w 22 19)) (bit (fld w 18 18)))
  | 3 => chk [((fld w 17 0 < 16), 9)] (.callr (b4 (fld w 22 19)) (bit (fld w 18 18)) (b4 (fld w 3 0)))
  | 4 => .ok (.loop (b4 (fld w 22 19)) (bit (fld w 18 18)) (.ofNat 18 (fld w 17 0)))
  | _ => .error 1

/-- Group 0x09: the minor code chooses the instruction, its fields are checked from the highest bit down (R36, R51 to R53, R56). -/
def decG09 (w : Nat) : Except Nat Instr :=
  match fld w 26 22 with
  | 0 => chk [((8 ≤ fld w 17 14), 4), (fld w 13 10 = 0, 5), (fld w 9 9 = 0, 7), (fld w 8 8 = 0, 7), (((fld w 7 5 = 0) && ((fld w 4 4 = 0) || (fld w 0 0 = 0))), 8)] (.getw (b4 (fld w 21 18)) (b3 (fld w 17 14 - 8)) (bit (fld w 4 4)) (b4 (fld w 3 0)))
  | 1 => chk [((8 ≤ fld w 21 18), 3), (fld w 13 10 = 0, 5), (fld w 8 8 = 0, 7), ((fld w 7 0 < 64), 8)] (.putw (b3 (fld w 21 18 - 8)) (b4 (fld w 17 14)) (bit (fld w 9 9)) (.ofNat 6 (fld w 7 0)))
  | 2 => chk [(fld w 21 18 = 0, 3), ((8 ≤ fld w 17 14), 4), (fld w 13 10 = 0, 5), (fld w 9 9 = 0, 7), (fld w 8 8 = 0, 7), ((fld w 7 0 < 2), 8)] (.waitp (b3 (fld w 17 14 - 8)) (bit (fld w 0 0)))
  | 3 => chk [(fld w 21 18 = 0, 3), (fld w 17 14 = 0, 4), (fld w 13 10 = 0, 5), (fld w 9 9 = 0, 7), (fld w 8 8 = 0, 7), (fld w 7 0 = 0, 8)] (.yield)
  | 4 => chk [(fld w 21 18 = 0, 3), (fld w 17 14 = 0, 4), (fld w 13 10 = 0, 5), (fld w 9 9 = 0, 7), (fld w 8 8 = 0, 7), (fld w 7 0 = 0, 8)] (.endTask)
  | 5 => chk [((fld w 21 18 < 2), 3), (fld w 13 10 = 0, 5), (fld w 8 8 = 0, 7), ((fld w 7 0 ≠ 0), 8)] (.fork (ForkUnit.dec (fld w 21 18)) (b4 (fld w 17 14)) (bit (fld w 9 9)) (.ofNat 8 (fld w 7 0)))
  | 6 => chk [(fld w 21 18 = 0, 3), (fld w 17 14 = 0, 4), (fld w 13 10 = 0, 5), (fld w 9 9 = 0, 7), (fld w 8 8 = 0, 7), (((fld w 7 0 ≠ 0) && (fld w 7 0 < 4)), 8)] (.rdv (bit (fld w 1 1)) (bit (fld w 0 0)))
  | 7 => chk [(fld w 21 18 = 0, 3), (fld w 13 10 = 0, 5), (fld w 8 8 = 0, 7), ((fld w 7 0 < 4), 8)] (.trig (b4 (fld w 17 14)) (bit (fld w 9 9)) (.ofNat 2 (fld w 7 0)))
  | 8 => chk [((8 ≤ fld w 21 18), 3), (fld w 13 10 = 0, 5), (fld w 8 8 = 0, 7), ((fld w 7 0 < 64), 8)] (.putc (b3 (fld w 21 18 - 8)) (b4 (fld w 17 14)) (bit (fld w 9 9)) (.ofNat 6 (fld w 7 0)))
  | _ => .error 1

/-- Group 0x0A: the minor code chooses the instruction, its fields are checked from the highest bit down (R36, R51 to R53, R56). Of a
`pushm` with wait1 set, only mod[1:0] must be 0 for field 7; a nonzero mod[7:2] is field 8's fault (log 57). -/
def decG0A (w : Nat) : Except Nat Instr :=
  match fld w 26 22 with
  | 0 => chk [(fld w 21 18 = 0, 3), (fld w 13 10 = 0, 5), (fld w 9 9 = 0, 7), (fld w 8 8 = 0, 7), (fld w 7 0 = 0, 8)] (.few (b4 (fld w 17 14)))
  | 1 => chk [(fld w 17 14 = 0, 4), (fld w 13 10 = 0, 5), (fld w 9 9 = 0, 7), (fld w 8 8 = 0, 7), (fld w 7 0 = 0, 8)] (.fec (b4 (fld w 21 18)))
  | 2 => chk [((fld w 21 18 < rfLim (fld w 1 0)), 3), (((fld w 17 14 < rfLim (fld w 1 0)) && (fld w 21 18 ≤ fld w 17 14)), 4), (fld w 13 10 = 0, 5), (((fld w 9 9 = 0) || (fld w 1 0 = 0)), 7), (fld w 8 8 = 0, 7), ((fld w 7 0 < 4), 8)] (.pushm (b4 (fld w 21 18)) (b4 (fld w 17 14)) (bit (fld w 9 9)) (RFile.dec (fld w 1 0)))
  | 3 => chk [((fld w 21 18 < rfLim (fld w 1 0)), 3), (((fld w 17 14 < rfLim (fld w 1 0)) && (fld w 21 18 ≤ fld w 17 14)), 4), (fld w 13 10 = 0, 5), (fld w 9 9 = 0, 7), (fld w 8 8 = 0, 7), ((fld w 7 0 < 4), 8)] (.popm (b4 (fld w 21 18)) (b4 (fld w 17 14)) (RFile.dec (fld w 1 0)))
  | _ => .error 1

/-- Group 0x0B: the minor code chooses the instruction, its fields are checked from the highest bit down (R36, R51 to R53, R56). -/
def decG0B (w : Nat) : Except Nat Instr :=
  match fld w 26 22 with
  | 0 => chk [(fld w 17 17 = 0, 7), ((SReg.known (fld w 16 7)), 15), (fld w 6 0 = 0, 9)] (.sysr (b4 (fld w 21 18)) (SReg.dec (fld w 16 7)))
  | 1 => chk [((SReg.writable (fld w 16 7)), 15), (fld w 6 0 = 0, 9)] (.sysw (b4 (fld w 21 18)) (bit (fld w 17 17)) (SReg.dec (fld w 16 7)))
  | 2 => chk [(fld w 21 18 = 0, 3), (fld w 17 17 = 0, 7), (fld w 16 7 = 0, 15)] (.trap (.ofNat 7 (fld w 6 0)))
  | 3 => chk [(fld w 21 18 = 0, 3), (fld w 17 17 = 0, 7), (fld w 16 7 = 0, 15), (fld w 6 0 = 0, 9)] (.bkpt)
  | 4 => chk [(fld w 21 18 = 0, 3), (fld w 17 17 = 0, 7), (fld w 16 7 = 0, 15), ((fld w 6 0 < 2), 9)] (.eret (bit (fld w 0 0)))
  | 5 => chk [(fld w 21 18 = 0, 3), (fld w 17 17 = 0, 7), (fld w 16 7 = 0, 15), (((fld w 6 0 < 16) && (fld w 3 2 ≠ 3)), 9)] (match fld w 1 0 with | 0 => .fenceT (FenceKind.dec (fld w 3 2)) | 1 => .fenceR (FenceKind.dec (fld w 3 2)) | 2 => .fenceD (FenceKind.dec (fld w 3 2)) | _ => .fenceS (FenceKind.dec (fld w 3 2)))
  | _ => .error 1

/-- Group 0x0C: the minor code chooses the instruction, its fields are checked from the highest bit down (R36, R51 to R53, R56). -/
def decG0C (w : Nat) : Except Nat Instr :=
  match fld w 26 22 with
  | 0 => chk [(fld w 21 18 = 0, 3), ((fld w 17 14 < 8), 4), (fld w 13 10 = 0, 5), (fld w 9 9 = 0, 7), (fld w 8 8 = 0, 7)] (.frInit (b3 (fld w 17 14)) (.ofNat 8 (fld w 7 0)))
  | 1 => chk [((fld w 17 14 < 8), 4), (fld w 9 9 = 0, 7), (fld w 7 0 = 0, 8)] (.frWait (b4 (fld w 21 18)) (b3 (fld w 17 14)) (b4 (fld w 13 10)) (bit (fld w 8 8)))
  | 2 => chk [(fld w 21 18 = 0, 3), ((fld w 17 14 < 8), 4), (fld w 9 9 = 0, 7), (fld w 7 0 = 0, 8)] (.frRecl (b3 (fld w 17 14)) (b4 (fld w 13 10)) (bit (fld w 8 8)))
  | 3 => chk [(fld w 21 18 = 0, 3), ((fld w 17 14 < 8), 4), (fld w 9 9 = 0, 7), (fld w 7 0 = 0, 8)] (.frRecipe (b3 (fld w 17 14)) (b4 (fld w 13 10)) (bit (fld w 8 8)))
  | 4 => chk [(fld w 21 18 = 0, 3), ((fld w 17 14 < 8), 4), (fld w 9 9 = 0, 7), (fld w 7 0 = 0, 8)] (.frPin (b3 (fld w 17 14)) (b4 (fld w 13 10)) (bit (fld w 8 8)))
  | 5 => chk [(fld w 21 18 = 0, 3), ((fld w 17 14 < 8), 4), (fld w 9 9 = 0, 7), (fld w 7 0 = 0, 8)] (.frUnpin (b3 (fld w 17 14)) (b4 (fld w 13 10)) (bit (fld w 8 8)))
  | 6 => chk [((fld w 17 14 < 8), 4), (((fld w 7 0 = 1) || (fld w 13 10 = 0)), 5), (fld w 9 9 = 0, 7), (((fld w 7 0 = 1) || (fld w 8 8 = 0)), 7), ((fld w 7 0 < 2), 8)] (.frStat (b4 (fld w 21 18)) (b3 (fld w 17 14)) (if fld w 7 0 = 1 then some (b4 (fld w 13 10), bit (fld w 8 8)) else none))
  | _ => .error 1

/-- Group 0x0D: the minor code chooses the instruction, its fields are checked from the highest bit down (R36, R51 to R53, R56). -/
def decG0D (w : Nat) : Except Nat Instr :=
  match fld w 26 22 with
  | 0 => chk [((fld w 17 14 < 8), 4), (fld w 9 9 = 0, 7), ((fld w 7 0 < 16), 8)] (.atAdd (b4 (fld w 21 18)) (b3 (fld w 17 14)) (b4 (fld w 13 10)) (bit (fld w 8 8)) (AtOrder.dec (fld w 3 2)) (Scope.dec (fld w 1 0)))
  | 1 => chk [((fld w 17 14 < 8), 4), (fld w 9 9 = 0, 7), ((fld w 7 0 < 32), 8)] (.atMin (b4 (fld w 21 18)) (b3 (fld w 17 14)) (b4 (fld w 13 10)) (bit (fld w 8 8)) (bit (fld w 4 4)) (AtOrder.dec (fld w 3 2)) (Scope.dec (fld w 1 0)))
  | 2 => chk [((fld w 17 14 < 8), 4), (fld w 9 9 = 0, 7), ((fld w 7 0 < 32), 8)] (.atMax (b4 (fld w 21 18)) (b3 (fld w 17 14)) (b4 (fld w 13 10)) (bit (fld w 8 8)) (bit (fld w 4 4)) (AtOrder.dec (fld w 3 2)) (Scope.dec (fld w 1 0)))
  | 3 => chk [((fld w 17 14 < 8), 4), (fld w 9 9 = 0, 7), ((fld w 7 0 < 16), 8)] (.atAnd (b4 (fld w 21 18)) (b3 (fld w 17 14)) (b4 (fld w 13 10)) (bit (fld w 8 8)) (AtOrder.dec (fld w 3 2)) (Scope.dec (fld w 1 0)))
  | 4 => chk [((fld w 17 14 < 8), 4), (fld w 9 9 = 0, 7), ((fld w 7 0 < 16), 8)] (.atOr (b4 (fld w 21 18)) (b3 (fld w 17 14)) (b4 (fld w 13 10)) (bit (fld w 8 8)) (AtOrder.dec (fld w 3 2)) (Scope.dec (fld w 1 0)))
  | 5 => chk [((fld w 17 14 < 8), 4), (fld w 9 9 = 0, 7), ((fld w 7 0 < 16), 8)] (.atXchg (b4 (fld w 21 18)) (b3 (fld w 17 14)) (b4 (fld w 13 10)) (bit (fld w 8 8)) (AtOrder.dec (fld w 3 2)) (Scope.dec (fld w 1 0)))
  | 6 => chk [((fld w 17 14 < 8), 4), (fld w 9 9 = 0, 7), ((fld w 7 0 < 16), 8)] (.atCas (b4 (fld w 21 18)) (b3 (fld w 17 14)) (b4 (fld w 13 10)) (bit (fld w 8 8)) (AtOrder.dec (fld w 3 2)) (Scope.dec (fld w 1 0)))
  | _ => .error 1

/-- Group 0x0E: the minor code chooses the instruction, its fields are checked from the highest bit down (R36, R51 to R53, R56). -/
def decG0E (w : Nat) : Except Nat Instr :=
  match fld w 26 22 with
  | 0 => chk [(fld w 21 18 = 0, 3), (fld w 13 10 = 0, 5), (fld w 8 8 = 0, 7), (fld w 7 0 = 0, 8)] (.cpJob (b4 (fld w 17 14)) (bit (fld w 9 9)))
  | 1 => chk [(fld w 13 10 = 0, 5), (fld w 8 8 = 0, 7), (fld w 7 0 = 0, 8)] (.cpWait (b4 (fld w 21 18)) (b4 (fld w 17 14)) (bit (fld w 9 9)))
  | 2 => chk [(fld w 21 18 = 0, 3), (fld w 13 10 = 0, 5), (fld w 8 8 = 0, 7), (fld w 7 0 = 0, 8)] (.clGather (b4 (fld w 17 14)) (bit (fld w 9 9)))
  | 3 => chk [(fld w 21 18 = 0, 3), (fld w 13 10 = 0, 5), (fld w 8 8 = 0, 7), (fld w 7 0 = 0, 8)] (.clScatter (b4 (fld w 17 14)) (bit (fld w 9 9)))
  | 4 => chk [(fld w 21 18 = 0, 3), (fld w 13 10 = 0, 5), (fld w 8 8 = 0, 7), (fld w 7 0 = 0, 8)] (.clReduce (b4 (fld w 17 14)) (bit (fld w 9 9)))
  | 5 => chk [(fld w 21 18 = 0, 3), (fld w 13 10 = 0, 5), (fld w 8 8 = 0, 7), (fld w 7 0 = 0, 8)] (.clSend (b4 (fld w 17 14)) (bit (fld w 9 9)))
  | 6 => chk [(fld w 21 18 = 0, 3), (fld w 13 10 = 0, 5), (fld w 8 8 = 0, 7), (fld w 7 0 = 0, 8)] (.clRecv (b4 (fld w 17 14)) (bit (fld w 9 9)))
  | _ => .error 1

/-- Group 0x10: the minor code chooses the instruction, its fields are checked from the highest bit down (R36, R51 to R53, R56). -/
def decG10 (w : Nat) : Except Nat Instr :=
  match fld w 26 20 with
  | 0 => chk [((maskOk (fld w 7 4)), 6), ((([.f32, .bf16, .f16] : List EType).any (fun e => e.code = fld w 3 0)), 10)] (.vAdd (b4 (fld w 19 16)) (b4 (fld w 15 12)) (b4 (fld w 11 8)) (maskDec (fld w 7 4)) (EType.dec (fld w 3 0)))
  | 1 => chk [((maskOk (fld w 7 4)), 6), ((([.f32, .bf16, .f16] : List EType).any (fun e => e.code = fld w 3 0)), 10)] (.vSub (b4 (fld w 19 16)) (b4 (fld w 15 12)) (b4 (fld w 11 8)) (maskDec (fld w 7 4)) (EType.dec (fld w 3 0)))
  | 2 => chk [((maskOk (fld w 7 4)), 6), ((([.f32, .bf16, .f16] : List EType).any (fun e => e.code = fld w 3 0)), 10)] (.vMul (b4 (fld w 19 16)) (b4 (fld w 15 12)) (b4 (fld w 11 8)) (maskDec (fld w 7 4)) (EType.dec (fld w 3 0)))
  | 3 => chk [((([.f32, .bf16, .f16] : List EType).any (fun e => e.code = fld w 3 0)), 10)] (.vFma (b4 (fld w 19 16)) (b4 (fld w 15 12)) (b4 (fld w 11 8)) (b4 (fld w 7 4)) (EType.dec (fld w 3 0)))
  | 4 => chk [((([.f32, .bf16, .f16] : List EType).any (fun e => e.code = fld w 3 0)), 10)] (.vFms (b4 (fld w 19 16)) (b4 (fld w 15 12)) (b4 (fld w 11 8)) (b4 (fld w 7 4)) (EType.dec (fld w 3 0)))
  | 5 => chk [((([.f32, .bf16, .f16] : List EType).any (fun e => e.code = fld w 3 0)), 10)] (.vFnma (b4 (fld w 19 16)) (b4 (fld w 15 12)) (b4 (fld w 11 8)) (b4 (fld w 7 4)) (EType.dec (fld w 3 0)))
  | 6 => chk [(fld w 11 8 = 0, 5), ((maskOk (fld w 7 4)), 6), ((([.f32, .bf16, .f16] : List EType).any (fun e => e.code = fld w 3 0)), 10)] (.vAbs (b4 (fld w 19 16)) (b4 (fld w 15 12)) (maskDec (fld w 7 4)) (EType.dec (fld w 3 0)))
  | 7 => chk [(fld w 11 8 = 0, 5), ((maskOk (fld w 7 4)), 6), ((([.f32, .bf16, .f16] : List EType).any (fun e => e.code = fld w 3 0)), 10)] (.vNeg (b4 (fld w 19 16)) (b4 (fld w 15 12)) (maskDec (fld w 7 4)) (EType.dec (fld w 3 0)))
  | 8 => chk [((maskOk (fld w 7 4)), 6), ((([.f32, .bf16, .f16] : List EType).any (fun e => e.code = fld w 3 0)), 10)] (.vScl (b4 (fld w 19 16)) (b4 (fld w 15 12)) (b4 (fld w 11 8)) (maskDec (fld w 7 4)) (EType.dec (fld w 3 0)))
  | _ => .error 1

/-- Group 0x11: the minor code chooses the instruction, its fields are checked from the highest bit down (R36, R51 to R53, R56). -/
def decG11 (w : Nat) : Except Nat Instr :=
  match fld w 26 20 with
  | 0 => chk [((maskOk (fld w 7 4)), 6), ((([.f32, .bf16, .f16] : List EType).any (fun e => e.code = fld w 3 0)), 10)] (.vCeq (b4 (fld w 19 16)) (b4 (fld w 15 12)) (b4 (fld w 11 8)) (maskDec (fld w 7 4)) (EType.dec (fld w 3 0)))
  | 1 => chk [((maskOk (fld w 7 4)), 6), ((([.f32, .bf16, .f16] : List EType).any (fun e => e.code = fld w 3 0)), 10)] (.vCne (b4 (fld w 19 16)) (b4 (fld w 15 12)) (b4 (fld w 11 8)) (maskDec (fld w 7 4)) (EType.dec (fld w 3 0)))
  | 2 => chk [((maskOk (fld w 7 4)), 6), ((([.f32, .bf16, .f16] : List EType).any (fun e => e.code = fld w 3 0)), 10)] (.vClt (b4 (fld w 19 16)) (b4 (fld w 15 12)) (b4 (fld w 11 8)) (maskDec (fld w 7 4)) (EType.dec (fld w 3 0)))
  | 3 => chk [((maskOk (fld w 7 4)), 6), ((([.f32, .bf16, .f16] : List EType).any (fun e => e.code = fld w 3 0)), 10)] (.vCle (b4 (fld w 19 16)) (b4 (fld w 15 12)) (b4 (fld w 11 8)) (maskDec (fld w 7 4)) (EType.dec (fld w 3 0)))
  | 4 => chk [((maskOk (fld w 7 4)), 6), ((([.f32, .bf16, .f16] : List EType).any (fun e => e.code = fld w 3 0)), 10)] (.vCun (b4 (fld w 19 16)) (b4 (fld w 15 12)) (b4 (fld w 11 8)) (maskDec (fld w 7 4)) (EType.dec (fld w 3 0)))
  | 5 => chk [((([.f32, .bf16, .f16, .e4m3, .e5m2, .i8, .i16, .i32, .i64, .e8m0, .untyped] : List EType).any (fun e => e.code = fld w 3 0)), 10)] (.vSel (b4 (fld w 19 16)) (b4 (fld w 15 12)) (b4 (fld w 11 8)) (b4 (fld w 7 4)) (EType.dec (fld w 3 0)))
  | 6 => chk [((maskOk (fld w 7 4)), 6), ((([.f32, .bf16, .f16] : List EType).any (fun e => e.code = fld w 3 0)), 10)] (.vMin (b4 (fld w 19 16)) (b4 (fld w 15 12)) (b4 (fld w 11 8)) (maskDec (fld w 7 4)) (EType.dec (fld w 3 0)))
  | 7 => chk [((maskOk (fld w 7 4)), 6), ((([.f32, .bf16, .f16] : List EType).any (fun e => e.code = fld w 3 0)), 10)] (.vMax (b4 (fld w 19 16)) (b4 (fld w 15 12)) (b4 (fld w 11 8)) (maskDec (fld w 7 4)) (EType.dec (fld w 3 0)))
  | 8 => chk [((([.f32, .bf16, .f16] : List EType).any (fun e => e.code = fld w 3 0)), 10)] (.vClamp (b4 (fld w 19 16)) (b4 (fld w 15 12)) (b4 (fld w 11 8)) (b4 (fld w 7 4)) (EType.dec (fld w 3 0)))
  | _ => .error 1

/-- Group 0x12: the minor code chooses the instruction, its fields are checked from the highest bit down (R36, R51 to R53, R56). -/
def decG12 (w : Nat) : Except Nat Instr :=
  match fld w 26 20 with
  | 0 => chk [((maskOk (fld w 7 4)), 6), ((([.i8, .i16, .i32, .i64] : List EType).any (fun e => e.code = fld w 3 0)), 10)] (.vIadd (b4 (fld w 19 16)) (b4 (fld w 15 12)) (b4 (fld w 11 8)) (maskDec (fld w 7 4)) (EType.dec (fld w 3 0)))
  | 1 => chk [((maskOk (fld w 7 4)), 6), ((([.i8, .i16, .i32, .i64] : List EType).any (fun e => e.code = fld w 3 0)), 10)] (.vIsub (b4 (fld w 19 16)) (b4 (fld w 15 12)) (b4 (fld w 11 8)) (maskDec (fld w 7 4)) (EType.dec (fld w 3 0)))
  | 2 => chk [((maskOk (fld w 7 4)), 6), ((([.i8, .i16, .i32] : List EType).any (fun e => e.code = fld w 3 0)), 10)] (.vImul (b4 (fld w 19 16)) (b4 (fld w 15 12)) (b4 (fld w 11 8)) (maskDec (fld w 7 4)) (EType.dec (fld w 3 0)))
  | 3 => chk [((maskOk (fld w 7 4)), 6), ((([.i8, .i16, .i32, .i64, .untyped] : List EType).any (fun e => e.code = fld w 3 0)), 10)] (.vAnd (b4 (fld w 19 16)) (b4 (fld w 15 12)) (b4 (fld w 11 8)) (maskDec (fld w 7 4)) (EType.dec (fld w 3 0)))
  | 4 => chk [((maskOk (fld w 7 4)), 6), ((([.i8, .i16, .i32, .i64, .untyped] : List EType).any (fun e => e.code = fld w 3 0)), 10)] (.vOr (b4 (fld w 19 16)) (b4 (fld w 15 12)) (b4 (fld w 11 8)) (maskDec (fld w 7 4)) (EType.dec (fld w 3 0)))
  | 5 => chk [((maskOk (fld w 7 4)), 6), ((([.i8, .i16, .i32, .i64, .untyped] : List EType).any (fun e => e.code = fld w 3 0)), 10)] (.vXor (b4 (fld w 19 16)) (b4 (fld w 15 12)) (b4 (fld w 11 8)) (maskDec (fld w 7 4)) (EType.dec (fld w 3 0)))
  | 6 => chk [((maskOk (fld w 7 4)), 6), ((([.i8, .i16, .i32, .i64] : List EType).any (fun e => e.code = fld w 3 0)), 10)] (.vShl (b4 (fld w 19 16)) (b4 (fld w 15 12)) (b4 (fld w 11 8)) (maskDec (fld w 7 4)) (EType.dec (fld w 3 0)))
  | 7 => chk [((maskOk (fld w 7 4)), 6), ((([.i8, .i16, .i32, .i64] : List EType).any (fun e => e.code = fld w 3 0)), 10)] (.vShr (b4 (fld w 19 16)) (b4 (fld w 15 12)) (b4 (fld w 11 8)) (maskDec (fld w 7 4)) (EType.dec (fld w 3 0)))
  | 8 => chk [((maskOk (fld w 7 4)), 6), ((([.i8, .i16, .i32, .i64] : List EType).any (fun e => e.code = fld w 3 0)), 10)] (.vSra (b4 (fld w 19 16)) (b4 (fld w 15 12)) (b4 (fld w 11 8)) (maskDec (fld w 7 4)) (EType.dec (fld w 3 0)))
  | 9 => chk [((maskOk (fld w 7 4)), 6), ((([.i8, .i16, .i32, .i64] : List EType).any (fun e => e.code = fld w 3 0)), 10)] (.vImin (b4 (fld w 19 16)) (b4 (fld w 15 12)) (b4 (fld w 11 8)) (maskDec (fld w 7 4)) (EType.dec (fld w 3 0)))
  | 10 => chk [((maskOk (fld w 7 4)), 6), ((([.i8, .i16, .i32, .i64] : List EType).any (fun e => e.code = fld w 3 0)), 10)] (.vImax (b4 (fld w 19 16)) (b4 (fld w 15 12)) (b4 (fld w 11 8)) (maskDec (fld w 7 4)) (EType.dec (fld w 3 0)))
  | 11 => chk [((maskOk (fld w 7 4)), 6), ((([.i8, .i16, .i32] : List EType).any (fun e => e.code = fld w 3 0)), 10)] (.vAdds (b4 (fld w 19 16)) (b4 (fld w 15 12)) (b4 (fld w 11 8)) (maskDec (fld w 7 4)) (EType.dec (fld w 3 0)))
  | 12 => chk [((maskOk (fld w 7 4)), 6), ((([.i8, .i16, .i32] : List EType).any (fun e => e.code = fld w 3 0)), 10)] (.vSubs (b4 (fld w 19 16)) (b4 (fld w 15 12)) (b4 (fld w 11 8)) (maskDec (fld w 7 4)) (EType.dec (fld w 3 0)))
  | 13 => chk [((maskOk (fld w 7 4)), 6), ((([.i8, .i16, .i32, .i64] : List EType).any (fun e => e.code = fld w 3 0)), 10)] (.vIeq (b4 (fld w 19 16)) (b4 (fld w 15 12)) (b4 (fld w 11 8)) (maskDec (fld w 7 4)) (EType.dec (fld w 3 0)))
  | 14 => chk [((maskOk (fld w 7 4)), 6), ((([.i8, .i16, .i32, .i64] : List EType).any (fun e => e.code = fld w 3 0)), 10)] (.vIlt (b4 (fld w 19 16)) (b4 (fld w 15 12)) (b4 (fld w 11 8)) (maskDec (fld w 7 4)) (EType.dec (fld w 3 0)))
  | 15 => chk [((maskOk (fld w 7 4)), 6), ((([.i8, .i16, .i32, .i64] : List EType).any (fun e => e.code = fld w 3 0)), 10)] (.vIltu (b4 (fld w 19 16)) (b4 (fld w 15 12)) (b4 (fld w 11 8)) (maskDec (fld w 7 4)) (EType.dec (fld w 3 0)))
  | _ => .error 1

/-- Group 0x13: the minor code chooses the instruction, its fields are checked from the highest bit down (R36, R51 to R53, R56). -/
def decG13 (w : Nat) : Except Nat Instr :=
  match fld w 26 20 with
  | 0 => chk [(((EType.cvtOk (fld w 11 8))), 5), ((cvtModeOk (fld w 11 8) (fld w 3 0) (fld w 7 7) (fld w 6 4)), 6), (((EType.cvtOk (fld w 3 0)) && (cvtPairOk (fld w 11 8) (fld w 3 0))), 10)] (.vCvt (b4 (fld w 19 16)) (b4 (fld w 15 12)) (EType.dec (fld w 11 8)) (bit (fld w 7 7)) (b3 (fld w 6 4)) (EType.dec (fld w 3 0)))
  | 1 => chk [((fld w 6 4 < 3), 6), ((cvtSrOk (fld w 6 4) (fld w 3 0)), 10)] (.vCvtSr (b4 (fld w 19 16)) (b4 (fld w 15 12)) (b4 (fld w 11 8)) (bit (fld w 7 7)) (EType.dec (fld w 6 4)) (EType.dec (fld w 3 0)))
  | 2 => chk [((maskOk (fld w 7 4)), 6), ((([.i8, .i16, .bf16, .e5m2] : List EType).any (fun e => e.code = fld w 3 0)), 10)] (.vPack (b4 (fld w 19 16)) (b4 (fld w 15 12)) (b4 (fld w 11 8)) (maskDec (fld w 7 4)) (EType.dec (fld w 3 0)))
  | 3 => chk [(fld w 11 8 = 0, 5), ((maskOk (fld w 7 4)), 6), ((([.i8, .i16, .bf16, .e5m2] : List EType).any (fun e => e.code = fld w 3 0)), 10)] (.vUnpkLo (b4 (fld w 19 16)) (b4 (fld w 15 12)) (maskDec (fld w 7 4)) (EType.dec (fld w 3 0)))
  | 4 => chk [(fld w 11 8 = 0, 5), ((maskOk (fld w 7 4)), 6), ((([.i8, .i16, .bf16, .e5m2] : List EType).any (fun e => e.code = fld w 3 0)), 10)] (.vUnpkHi (b4 (fld w 19 16)) (b4 (fld w 15 12)) (maskDec (fld w 7 4)) (EType.dec (fld w 3 0)))
  | 5 => chk [(((fld w 7 7 = 0) || (fld w 11 8 = 0)), 5), ((fld w 6 4 < 4), 6), ((([.e4m3, .e5m2, .i8] : List EType).any (fun e => e.code = fld w 3 0)), 10)] (.vQblk (b4 (fld w 19 16)) (b4 (fld w 15 12)) (if fld w 7 7 = 1 then none else some (b4 (fld w 11 8))) (b3 (fld w 6 4)) (EType.dec (fld w 3 0)))
  | 6 => chk [(fld w 11 8 = 0, 5), (((3 ≤ fld w 6 4) && (fld w 6 4 < 6) && ((fld w 7 7 = 0) || (fld w 3 0 ≠ 1))), 6), ((([.f32, .bf16] : List EType).any (fun e => e.code = fld w 3 0)), 10)] (.vDqblk (b4 (fld w 19 16)) (b4 (fld w 15 12)) (bit (fld w 7 7)) (EType.dec (fld w 6 4)) (EType.dec (fld w 3 0)))
  | _ => .error 1

/-- Group 0x14: the minor code chooses the instruction, its fields are checked from the highest bit down (R36, R51 to R53, R56). -/
def decG14 (w : Nat) : Except Nat Instr :=
  match fld w 26 20 with
  | 0 => chk [(fld w 11 8 = 0, 5), ((maskOk (fld w 7 4)), 6), ((([.f32, .bf16, .f16] : List EType).any (fun e => e.code = fld w 3 0)), 10)] (.vRcp (b4 (fld w 19 16)) (b4 (fld w 15 12)) (maskDec (fld w 7 4)) (EType.dec (fld w 3 0)))
  | 1 => chk [(fld w 11 8 = 0, 5), ((maskOk (fld w 7 4)), 6), ((([.f32, .bf16, .f16] : List EType).any (fun e => e.code = fld w 3 0)), 10)] (.vRsq (b4 (fld w 19 16)) (b4 (fld w 15 12)) (maskDec (fld w 7 4)) (EType.dec (fld w 3 0)))
  | 2 => chk [(fld w 11 8 = 0, 5), ((maskOk (fld w 7 4)), 6), ((([.f32, .bf16, .f16] : List EType).any (fun e => e.code = fld w 3 0)), 10)] (.vExp2 (b4 (fld w 19 16)) (b4 (fld w 15 12)) (maskDec (fld w 7 4)) (EType.dec (fld w 3 0)))
  | 3 => chk [(fld w 11 8 = 0, 5), ((maskOk (fld w 7 4)), 6), ((([.f32, .bf16, .f16] : List EType).any (fun e => e.code = fld w 3 0)), 10)] (.vLog2 (b4 (fld w 19 16)) (b4 (fld w 15 12)) (maskDec (fld w 7 4)) (EType.dec (fld w 3 0)))
  | 4 => chk [(fld w 11 8 = 0, 5), ((maskOk (fld w 7 4)), 6), ((([.f32, .bf16, .f16] : List EType).any (fun e => e.code = fld w 3 0)), 10)] (.vTanh (b4 (fld w 19 16)) (b4 (fld w 15 12)) (maskDec (fld w 7 4)) (EType.dec (fld w 3 0)))
  | 5 => chk [(fld w 11 8 = 0, 5), ((maskOk (fld w 7 4)), 6), ((([.f32, .bf16, .f16] : List EType).any (fun e => e.code = fld w 3 0)), 10)] (.vErf (b4 (fld w 19 16)) (b4 (fld w 15 12)) (maskDec (fld w 7 4)) (EType.dec (fld w 3 0)))
  | _ => .error 1

/-- Group 0x15: the minor code chooses the instruction, its fields are checked from the highest bit down (R36, R51 to R53, R56). -/
def decG15 (w : Nat) : Except Nat Instr :=
  match fld w 26 20 with
  | 0 => chk [(fld w 11 8 = 0, 5), ((maskOk (fld w 7 4)), 6), ((([.f32, .bf16, .f16, .i8, .i16, .i32] : List EType).any (fun e => e.code = fld w 3 0)), 10)] (.vRsum (b4 (fld w 19 16)) (b4 (fld w 15 12)) (maskDec (fld w 7 4)) (EType.dec (fld w 3 0)))
  | 1 => chk [(fld w 11 8 = 0, 5), ((maskOk (fld w 7 4)), 6), ((([.f32, .bf16, .f16, .i8, .i16, .i32] : List EType).any (fun e => e.code = fld w 3 0)), 10)] (.vRmax (b4 (fld w 19 16)) (b4 (fld w 15 12)) (maskDec (fld w 7 4)) (EType.dec (fld w 3 0)))
  | 2 => chk [(fld w 11 8 = 0, 5), ((maskOk (fld w 7 4)), 6), ((([.f32, .bf16, .f16, .i8, .i16, .i32] : List EType).any (fun e => e.code = fld w 3 0)), 10)] (.vRmin (b4 (fld w 19 16)) (b4 (fld w 15 12)) (maskDec (fld w 7 4)) (EType.dec (fld w 3 0)))
  | 3 => chk [(fld w 11 8 = 0, 5), ((maskOk (fld w 7 4)), 6), ((([.f32, .bf16, .f16, .i8, .i16, .i32] : List EType).any (fun e => e.code = fld w 3 0)), 10)] (.vRsumG (b4 (fld w 19 16)) (b4 (fld w 15 12)) (maskDec (fld w 7 4)) (EType.dec (fld w 3 0)))
  | 4 => chk [((maskOk (fld w 7 4)), 6), ((fld w 3 0 = 15), 10)] (.vPerm (b4 (fld w 19 16)) (b4 (fld w 15 12)) (b4 (fld w 11 8)) (maskDec (fld w 7 4)))
  | 5 => chk [(fld w 11 8 = 0, 5), ((fld w 3 0 = 15), 10)] (.vBcast (b4 (fld w 19 16)) (b4 (fld w 15 12)) (b4 (fld w 7 4)))
  | 6 => chk [(fld w 11 8 = 0, 5), ((fld w 3 0 = 15), 10)] (.vRot (b4 (fld w 19 16)) (b4 (fld w 15 12)) (b4 (fld w 7 4)))
  | 7 => chk [(fld w 11 8 = 0, 5), ((maskOk (fld w 7 4)), 6), ((([.f32, .i32] : List EType).any (fun e => e.code = fld w 3 0)), 10)] (.vScan (b4 (fld w 19 16)) (b4 (fld w 15 12)) (maskDec (fld w 7 4)) (EType.dec (fld w 3 0)))
  | _ => .error 1

/-- Group 0x16: the minor code chooses the instruction, its fields are checked from the highest bit down (R36, R51 to R53, R56). -/
def decG16 (w : Nat) : Except Nat Instr :=
  match fld w 26 20 with
  | 0 => chk [((fld w 19 16 < 8), 3), ((8 ≤ fld w 15 12), 4), (fld w 11 8 = 0, 5), (fld w 7 4 = 0, 6), ((fld w 3 0 = 15), 10)] (.vPeek (b3 (fld w 19 16)) (b3 (fld w 15 12 - 8)))
  | 1 => chk [(fld w 11 8 = 0, 5), ((maskOk (fld w 7 4)), 6), ((fld w 3 0 = 15), 10)] (.vMov (b4 (fld w 19 16)) (b4 (fld w 15 12)) (maskDec (fld w 7 4)))
  | 2 => chk [((fld w 11 8 < 4), 5), ((fld w 7 4 < 3), 6), ((fld w 3 0 = 15), 10)] (.vSetv (b4 (fld w 19 16)) (b4 (fld w 15 12)) (.ofNat 2 (fld w 11 8)) (BitMode.dec (fld w 7 4)))
  | 3 => chk [((fld w 19 16 < 4), 3), (fld w 11 8 = 0, 5), ((fld w 7 4 < 2), 6), ((fld w 3 0 = 15), 10)] (.vGetv (.ofNat 2 (fld w 19 16)) (b4 (fld w 15 12)) (bit (fld w 4 4)))
  | 4 => chk [((fld w 11 8 < 4), 5), ((fld w 7 4 < 3), 6), ((fld w 3 0 = 15), 10)] (.vSetp (b4 (fld w 19 16)) (b4 (fld w 15 12)) (.ofNat 2 (fld w 11 8)) (BitMode.dec (fld w 7 4)))
  | 5 => chk [((fld w 19 16 < 4), 3), (fld w 11 8 = 0, 5), (fld w 7 4 = 0, 6), ((fld w 3 0 = 15), 10)] (.vGetp (.ofNat 2 (fld w 19 16)) (b4 (fld w 15 12)))
  | 6 => chk [(fld w 7 4 = 0, 6), ((fld w 3 0 = 15), 10)] (.vSettag (b4 (fld w 19 16)) (b4 (fld w 15 12)) (b4 (fld w 11 8)))
  | 7 => chk [(fld w 11 8 = 0, 5), (fld w 7 4 = 0, 6), ((fld w 3 0 = 15), 10)] (.vGettag (b4 (fld w 19 16)) (b4 (fld w 15 12)))
  | 8 => chk [((fld w 3 0 = 15), 10)] (.vIns (b4 (fld w 19 16)) (b4 (fld w 15 12)) (b4 (fld w 11 8)) (b4 (fld w 7 4)))
  | 9 => chk [(fld w 11 8 = 0, 5), ((fld w 3 0 = 15), 10)] (.vExt (b4 (fld w 19 16)) (b4 (fld w 15 12)) (b4 (fld w 7 4)))
  | 10 => chk [(fld w 11 8 = 0, 5), (fld w 7 4 = 0, 6), ((fld w 3 0 = 15), 10)] (.vSplat (b4 (fld w 19 16)) (b4 (fld w 15 12)))
  | 11 => chk [(fld w 11 8 = 0, 5), (((fld w 7 4 < 4) && (fld w 7 4 ≠ 2)), 6), ((fld w 3 0 = 15), 10)] (.vMkc (b4 (fld w 19 16)) (b4 (fld w 15 12)) (TokKind.dec (fld w 7 4)))
  | _ => .error 1

/-- Group 0x17: the minor code chooses the instruction, its fields are checked from the highest bit down (R36, R51 to R53, R56). -/
def decG17 (w : Nat) : Except Nat Instr :=
  match fld w 26 20 with
  | 0 => chk [(((fld w 7 7 = 0) && (fld w 5 4 ≠ 3)), 6), ((fld w 3 0 = 0), 10)] (.vDeq (b4 (fld w 19 16)) (b4 (fld w 15 12)) (b4 (fld w 11 8)) (bit (fld w 6 6)) (Plane.dec (fld w 5 4)))
  | 1 => chk [((fld w 7 4 < 2), 6), ((fld w 3 0 = 7), 10)] (.vWarp (b4 (fld w 19 16)) (b4 (fld w 15 12)) (b4 (fld w 11 8)) (bit (fld w 4 4)))
  | 2 => chk [((fld w 7 4 < 2), 6), ((fld w 3 0 = 0), 10)] (.vErracc (b4 (fld w 19 16)) (b4 (fld w 15 12)) (b4 (fld w 11 8)) (bit (fld w 4 4)))
  | 3 => chk [(fld w 11 8 = 0, 5), (fld w 7 4 = 0, 6), ((fld w 3 0 = 15), 10)] (.vRefr (b4 (fld w 19 16)) (b4 (fld w 15 12)))
  | 4 => chk [(fld w 11 8 = 0, 5), ((fld w 3 0 = 7), 10)] (.vBfx (b4 (fld w 19 16)) (b4 (fld w 15 12)) (RecField.dec (fld w 7 4)))
  | _ => .error 1

/-- Group 0x18: the minor code chooses the instruction, its fields are checked from the highest bit down (R36, R51 to R53, R56). -/
def decG18 (w : Nat) : Except Nat Instr :=
  match fld w 26 23 with
  | 0 => chk [((fld w 16 14 ≠ 7), 11), (((fld w 13 13 = 1) || (fld w 12 11 = 0)), 6), (fld w 10 7 = 0, 14), (fld w 6 6 = 0, 7), (fld w 5 0 = 0, 8)] (.mMma (b4 (fld w 22 19)) (.ofNat 2 (fld w 18 17)) (MatFmt.dec (fld w 16 14)) (if fld w 13 13 = 1 then some (.ofNat 2 (fld w 12 11)) else none))
  | 1 => chk [((fld w 16 14 ≠ 7), 11), (((fld w 13 13 = 1) || (fld w 12 11 = 0)), 6), (fld w 10 7 = 0, 14), (fld w 6 6 = 0, 7), (fld w 5 0 = 0, 8)] (.mMmaz (b4 (fld w 22 19)) (.ofNat 2 (fld w 18 17)) (MatFmt.dec (fld w 16 14)) (if fld w 13 13 = 1 then some (.ofNat 2 (fld w 12 11)) else none))
  | 2 => chk [((fld w 16 14 ≠ 7), 11), (((fld w 13 13 = 1) || (fld w 12 11 = 0)), 6), ((fld w 5 0 < 2), 8)] (.mRun (b4 (fld w 22 19)) (.ofNat 2 (fld w 18 17)) (MatFmt.dec (fld w 16 14)) (if fld w 13 13 = 1 then some (.ofNat 2 (fld w 12 11)) else none) (b4 (fld w 10 7)) (bit (fld w 6 6)) (bit (fld w 0 0)))
  | 3 => chk [((fld w 16 14 ≠ 7), 11), (((fld w 13 13 = 1) || (fld w 12 11 = 0)), 6)] (.mGrp (b4 (fld w 22 19)) (.ofNat 2 (fld w 18 17)) (MatFmt.dec (fld w 16 14)) (if fld w 13 13 = 1 then some (.ofNat 2 (fld w 12 11)) else none) (b4 (fld w 10 7)) (bit (fld w 6 6)) (b3 (fld w 5 3)) (b3 (fld w 2 0)))
  | _ => .error 1

/-- Group 0x19: the minor code chooses the instruction, its fields are checked from the highest bit down (R36, R51 to R53, R56). -/
def decG19 (w : Nat) : Except Nat Instr :=
  match fld w 26 23 with
  | 0 => chk [(fld w 18 17 = 0, 13), (fld w 16 14 = 0, 11), (fld w 13 13 = 0, 6), (fld w 12 11 = 0, 6), (((fld w 0 0 = 0) || (8 ≤ fld w 10 7)), 14), (((fld w 0 0 = 0) || (fld w 6 6 = 0)), 7), (((fld w 5 4 = 0) && (fld w 2 2 = 0)), 8)] (.mDrain (b4 (fld w 22 19)) (if fld w 0 0 = 1 then .port (b3 (fld w 10 7 - 8)) else .g (b4 (fld w 10 7)) (bit (fld w 6 6))) (bit (fld w 3 3)) (bit (fld w 1 1)))
  | 1 => (match fld w 5 0 with
    | 0 => chk [(fld w 18 17 = 0, 13), (fld w 16 14 = 0, 11), (fld w 13 13 = 0, 6), (fld w 12 11 = 0, 6), (fld w 6 6 = 0, 7)] (.mCopy (b4 (fld w 22 19)) (b4 (fld w 10 7)))
    | 1 => chk [(fld w 18 17 = 0, 13), (fld w 16 14 = 0, 11), (fld w 13 13 = 0, 6), (fld w 12 11 = 0, 6)] (.mCopySt (b4 (fld w 22 19)) (b4 (fld w 10 7)) (bit (fld w 6 6)))
    | 2 => chk [(fld w 18 17 = 0, 13), (fld w 16 14 = 0, 11), (fld w 13 13 = 0, 6), (fld w 12 11 = 0, 6)] (.mCopyLd (b4 (fld w 22 19)) (b4 (fld w 10 7)) (bit (fld w 6 6)))
    | _ => chk [(fld w 18 17 = 0, 13), (fld w 16 14 = 0, 11), (fld w 13 13 = 0, 6), (fld w 12 11 = 0, 6), ((fld w 1 0 = 1) || (fld w 1 0 = 2) || (fld w 6 6 = 0), 7), (false, 8)] .mSwap)
  | 2 => chk [(fld w 22 19 = 0, 12), (fld w 18 17 = 0, 13), (((fld w 16 14 = 0) || (fld w 16 14 = 3) || (fld w 16 14 = 4) || (fld w 16 14 = 5)), 11), (fld w 13 13 = 0, 6), (fld w 12 11 = 0, 6), (((fld w 0 0 = 1) || (8 ≤ fld w 10 7)), 14), (((fld w 0 0 = 1) || (fld w 6 6 = 0)), 7), ((fld w 5 0 < 2), 8)] (.mLd (StatFmt.dec (fld w 16 14)) (if fld w 0 0 = 1 then .g (b4 (fld w 10 7)) (bit (fld w 6 6)) else .port (b3 (fld w 10 7 - 8))))
  | 3 => chk [(fld w 22 19 = 0, 12), (fld w 18 17 = 0, 13), (fld w 16 14 = 0, 11), (fld w 13 13 = 0, 6), (fld w 12 11 = 0, 6), (fld w 10 7 = 0, 14), (fld w 6 6 = 0, 7), (fld w 5 0 = 0, 8)] (.mSwap)
  | 4 => chk [(fld w 18 17 = 0, 13), (fld w 16 14 = 0, 11), (fld w 13 13 = 0, 6), (fld w 12 11 = 0, 6), (fld w 10 7 = 0, 14), (fld w 6 6 = 0, 7), (fld w 5 0 = 0, 8)] (.mClr (b4 (fld w 22 19)))
  | _ => .error 1

/-- Group 0x1A: the minor code chooses the instruction, its fields are checked from the highest bit down (R36, R51 to R53, R56). `rl.thr` with
GFORM 0 or FLAGS 1 uses no row bits, and takes any value there (the model's choice, log 58). -/
def decG1A (w : Nat) : Except Nat Instr :=
  match fld w 26 23 with
  | 0 => chk [(fld w 18 17 = 0, 13), (fld w 16 14 = 0, 11), (fld w 13 13 = 0, 6), (fld w 12 11 = 0, 6), (fld w 10 7 = 0, 14), (fld w 6 6 = 0, 7), ((fld w 5 0 < 32), 8)] (.rlDecl (b4 (fld w 22 19)) (.ofNat 5 (fld w 4 0)))
  | 1 => chk [(fld w 18 17 = 0, 13), (fld w 16 14 = 0, 11), (fld w 13 13 = 0, 6), (fld w 12 11 = 0, 6), (fld w 6 6 = 0, 7), ((fld w 5 0 < 32), 8)] (.rlIns (b4 (fld w 22 19)) (b4 (fld w 10 7)) (bit (fld w 4 4)) (b4 (fld w 3 0)))
  | 2 => chk [(fld w 18 17 = 0, 13), (fld w 16 14 = 0, 11), (fld w 13 13 = 0, 6), (fld w 12 11 = 0, 6), ((fld w 10 7 ≠ fld w 22 19), 14), (fld w 6 6 = 0, 7), (fld w 5 0 = 0, 8)] (.rlMerge (b4 (fld w 22 19)) (b4 (fld w 10 7)))
  | 3 => chk [(fld w 18 17 = 0, 13), (fld w 16 14 = 0, 11), (fld w 13 13 = 0, 6), (fld w 12 11 = 0, 6), (fld w 6 6 = 0, 7), (((fld w 5 5 = 0) || (fld w 4 4 = 1)), 8)] (.rlThr (b4 (fld w 22 19)) (if fld w 4 4 = 0 then .tok (b4 (fld w 10 7)) (b4 (fld w 3 0)) else if fld w 5 5 = 0 then .g (b4 (fld w 10 7)) (b4 (fld w 3 0)) else .flags (b4 (fld w 10 7)) (b4 (fld w 3 0))))
  | 4 => chk [(fld w 18 17 = 0, 13), (fld w 16 14 = 0, 11), (fld w 13 13 = 0, 6), (fld w 12 11 = 0, 6), ((8 ≤ fld w 10 7), 14), (fld w 6 6 = 0, 7), ((((fld w 3 0 = 0) || (8 ≤ fld w 3 0)) && ((fld w 5 5 = 0) || (fld w 4 4 = 1))), 8)] (.rlOut (b4 (fld w 22 19)) (b3 (fld w 10 7 - 8)) (bit (fld w 5 5)) (bit (fld w 4 4)) (if fld w 3 0 = 0 then none else some (b3 (fld w 3 0 - 8))))
  | 5 => chk [(fld w 18 17 = 0, 13), (fld w 16 14 = 0, 11), (fld w 13 13 = 0, 6), (fld w 12 11 = 0, 6), (((fld w 0 0 = 1) || (fld w 10 7 = 0)), 14), (((fld w 0 0 = 1) || (fld w 6 6 = 0)), 7), ((fld w 5 0 < 2), 8)] (.rlClr (b4 (fld w 22 19)) (if fld w 0 0 = 1 then some (b4 (fld w 10 7), bit (fld w 6 6)) else none))
  | _ => .error 1

/-- Group 0x1B: the minor code chooses the instruction, its fields are checked from the highest bit down (R36, R51 to R53, R56). -/
def decG1B (w : Nat) : Except Nat Instr :=
  match fld w 26 23 with
  | 0 => chk [(fld w 22 19 = 0, 12), (fld w 16 14 = 0, 11), (fld w 13 13 = 0, 6), (fld w 12 11 = 0, 6), (((fld w 0 0 = 1) || (fld w 10 7 = 0)), 14), (((fld w 0 0 = 1) || (fld w 6 6 = 0)), 7), ((fld w 5 0 < 2), 8)] (.ringSet (.ofNat 2 (fld w 18 17)) (if fld w 0 0 = 1 then some (b4 (fld w 10 7), bit (fld w 6 6)) else none))
  | 1 => chk [(fld w 22 19 = 0, 12), (fld w 16 14 = 0, 11), (fld w 13 13 = 0, 6), (fld w 12 11 = 0, 6), (fld w 6 6 = 0, 7), (fld w 5 0 = 0, 8)] (.ringHead (.ofNat 2 (fld w 18 17)) (b4 (fld w 10 7)))
  | 2 => chk [(fld w 22 19 = 0, 12), (fld w 16 14 = 0, 11), (fld w 13 13 = 0, 6), (fld w 12 11 = 0, 6), (fld w 6 6 = 0, 7), (fld w 5 0 = 0, 8)] (.ringTail (.ofNat 2 (fld w 18 17)) (b4 (fld w 10 7)))
  | 3 => chk [(fld w 22 19 = 0, 12), (fld w 16 14 = 0, 11), (fld w 13 13 = 0, 6), (fld w 12 11 = 0, 6), (fld w 5 0 = 0, 8)] (.ringPop (.ofNat 2 (fld w 18 17)) (b4 (fld w 10 7)) (bit (fld w 6 6)))
  | _ => .error 1

/-- One check of a stream command: the condition, the field id and the word that holds the field. -/
def ck (c : Bool) (f k : Nat) : Bool × Nat × Nat := (c, f, k)

/-- A stream command, checked in the order of its words and from the highest bit down (R45, R56, R103, R105, R112). -/
def decStream (w0 w1 w2 w3 : Nat) : Except DecErr Instr :=
  let eng := fld w0 22 20
  let cls := fld w0 19 18
  let ix := fld w0 17 15
  let tl := [ck (fld w0 1 0 = 0) 19 0]
  let ver := fld w1 23 23
  let verOk := [ck ((ver = 1) || (fld w1 28 25 = 0)) 5 1, ck ((ver = 1) || (fld w1 24 24 = 0)) 7 1]
  let pe := fld w1 22 22
  let pidOk := [ck ((pe = 1) || (fld w1 21 19 = 0)) 14 1]
  let xfOk := [ck (fld w1 18 15 < 5) 8 1]
  let r1 := [ck (fld w1 10 0 = 0) 19 1]
  let r3 := [ck (fld w3 24 0 = 0) 19 3]
  let noTag := [ck (fld w3 31 26 = 0) 8 3, ck (fld w3 25 25 = 0) 8 3]
  let noVer := [ck (fld w1 28 25 = 0) 5 1, ck (fld w1 24 24 = 0) 7 1, ck (ver = 0) 8 1]
  let noPe := [ck (pe = 0) 8 1, ck (fld w1 21 19 = 0) 14 1]
  let noXf := [ck (fld w1 18 15 = 0) 8 1]
  let noIx := [ck (fld w1 14 11 = 0) 6 1]
  let noEp := [ck (fld w0 19 15 = 0) 17 0]
  let noPcb := [ck (fld w0 14 2 = 0) 9 0]
  let noB := [ck (fld w1 31 29 = 0) 4 1]
  let noDisp := [ck (w2 = 0) 9 2]
  let rdEp := [ck ((cls = 0) || ((cls = 1) && (ix < 4))) 17 0]
  let dest : StreamDest := if cls = 0 then .port (b3 ix) else .ring (.ofNat 2 ix)
  let pcb : BitVec 13 := .ofNat 13 (fld w0 14 2)
  let b := b3 (fld w1 31 29)
  let v := if ver = 1 then some (b4 (fld w1 28 25), bit (fld w1 24 24)) else none
  let pr := if pe = 1 then some (b3 (fld w1 21 19)) else none
  let xf := Xform.dec (fld w1 18 15)
  let disp : BitVec 32 := .ofNat 32 w2
  let tag : BitVec 6 := .ofNat 6 (fld w3 31 26)
  let eos := bit (fld w3 25 25)
  let tagRd := [ck ((cls = 0) || (fld w3 31 26 = 0)) 8 3, ck ((cls = 0) || (fld w3 25 25 = 0)) 8 3]
  let e2 : BitVec 2 := .ofNat 2 eng
  match fld w0 26 23 with
  | 0 => chkL ([ck (eng < 4) 16 0] ++ rdEp ++ tl ++ verOk ++ pidOk ++ xfOk ++ noIx ++ r1 ++ tagRd ++ r3)
      (.sRead e2 dest pcb b v pr xf disp tag eos)
  | 1 => chkL ([ck (4 ≤ eng) 16 0, ck (cls = 0) 17 0] ++ tl ++ verOk ++ pidOk ++ xfOk ++ noIx ++ r1 ++ noTag ++ r3)
      (.sWrite e2 (b3 ix) pcb b v pr xf disp)
  | 2 => chkL ([ck (eng < 4) 16 0] ++ rdEp ++ tl ++ verOk ++ pidOk ++ xfOk ++ [ck (8 ≤ fld w1 14 11) 6 1] ++ r1 ++ tagRd ++ r3)
      (.sInd e2 dest pcb b (b3 (fld w1 14 11 - 8)) v pr xf disp tag eos)
  | 3 => chkL ([ck (eng < 4) 16 0] ++ noEp ++ noPcb ++ tl ++ noVer ++ [ck (pe = 1) 8 1] ++ noXf ++ noIx ++ r1 ++ noTag ++ r3)
      (.sPrism e2 b (b3 (fld w1 21 19)) disp)
  | 4 => chkL ([ck (eng < 4) 16 0, ck (cls = 2) 17 0] ++ tl ++ verOk ++ noPe ++ noXf ++ noIx ++ r1 ++ r3)
      (.sSyntax e2 (b3 ix) pcb b v disp tag eos)
  | 5 => chkL ([ck (eng = 0) 16 0] ++ noEp ++ noPcb ++ tl ++ noB ++ noVer ++ noPe ++ noXf ++ noIx ++ r1 ++ noDisp ++ noTag ++ r3) .sBar
  | 6 => chkL (noEp ++ noPcb ++ tl ++ noB ++ noVer ++ noPe ++ noXf ++ noIx ++ r1 ++ noDisp ++ noTag ++ r3) (.sStop (b3 eng))
  | 7 => chkL (noEp ++ noPcb ++ tl ++ noB ++ [ck (fld w1 24 24 = 0) 7 1, ck (ver = 0) 8 1] ++ noPe ++ noXf ++ noIx ++ r1 ++ noDisp ++ noTag ++ r3)
      (.sStat (b3 eng) (b4 (fld w1 28 25)))
  | _ => .error ⟨1, 0⟩

/-- A 32-bit word outside group 0x1F by its major group (R36, R57). -/
def decWord (w : Nat) : Except Nat Instr :=
  match fld w 31 27 with
  | 0x01 => decG01 w
  | 0x02 => decG02 w
  | 0x03 => decG03 w
  | 0x04 => decG04 w
  | 0x05 => decG05 w
  | 0x06 => decG06 w
  | 0x07 => decG07 w
  | 0x08 => decG08 w
  | 0x09 => decG09 w
  | 0x0A => decG0A w
  | 0x0B => decG0B w
  | 0x0C => decG0C w
  | 0x0D => decG0D w
  | 0x0E => decG0E w
  | 0x10 => decG10 w
  | 0x11 => decG11 w
  | 0x12 => decG12 w
  | 0x13 => decG13 w
  | 0x14 => decG14 w
  | 0x15 => decG15 w
  | 0x16 => decG16 w
  | 0x17 => decG17 w
  | 0x18 => decG18 w
  | 0x19 => decG19 w
  | 0x1A => decG1A w
  | 0x1B => decG1B w
  | _ => .error 0

/-- The decoder over words: one word, or four of a stream command (R35, R45, R57). Words beyond the list read as zero. -/
def decode (ws : List Nat) : Except DecErr Instr :=
  let w := fun k => ws.getD k 0 % 2 ^ 32
  if fld (w 0) 31 27 = 0x1F then decStream (w 0) (w 1) (w 2) (w 3)
  else match decWord (w 0) with
    | .ok i => .ok i
    | .error f => .error ⟨f, 0⟩

/-- How many words an instruction takes (R35). -/
def Instr.len (i : Instr) : Nat :=
  match i with
  | .sRead .. | .sWrite .. | .sInd .. | .sPrism .. | .sSyntax .. | .sBar | .sStop _ | .sStat .. => 4
  | _ => 1

/-- Words from bytes, each little-endian (R35); a last word that is cut short is filled with zero bytes. -/
def wordsOf : List Byte → List Nat
  | a :: b :: c :: d :: r => leNat [a, b, c, d] :: wordsOf r
  | [] => []
  | [a] => [leNat [a]]
  | [a, b] => [leNat [a, b]]
  | [a, b, c] => [leNat [a, b, c]]

/-- The decoder over bytes: the instruction and the bytes after it. -/
def decodeBytes (bs : List Byte) : Except DecErr (Instr × List Byte) :=
  match decode (wordsOf bs) with
  | .ok i => .ok (i, bs.drop (4 * i.len))
  | .error e => .error e

/-- The instruction read from the opcode table's numbering: word k at bits [32k+31:32k], bits at and above `nbits` zero. -/
def decodeTableWord (nbits w : Nat) : Option Instr :=
  match decodeBytes (leBytes 16 (w % 2 ^ nbits)) with
  | .ok (i, _) => some i
  | .error _ => none

/-! ## The encoder -/

/-- A mask field (R40). -/
def maskCode : Option (BitVec 2) → Nat
  | none => 0
  | some m => 8 + m.toNat
/-- kskip and m of a product, from bit 11 up (R43). -/
def skipCode : Option (BitVec 2) → Nat
  | none => 0
  | some m => 4 + m.toNat
/-- s2, wait2 and mod of `fr.stat` (R125). -/
def statCode : Option (BitVec 4 × Bool) → Nat
  | none => 0
  | some (b, v) => b.toNat * 2 ^ 10 + v.toNat * 2 ^ 8 + 1
/-- tb and bit 7 of `v.qblk` (R185). -/
def qblkCode : Option (BitVec 4) → Nat
  | none => 2 ^ 7
  | some b => b.toNat * 2 ^ 8
/-- aux, wait and SRC of `m.drain` (R198). -/
def gOrPortCode : GOrPort → Nat
  | .g r w => r.toNat * 2 ^ 7 + w.toNat * 2 ^ 6
  | .port p => (p.toNat + 8) * 2 ^ 7 + 1
/-- aux, wait and SRC of `m.ld` (R198). -/
def ldSrcCode : GOrPort → Nat
  | .g r w => r.toNat * 2 ^ 7 + w.toNat * 2 ^ 6 + 1
  | .port p => (p.toNat + 8) * 2 ^ 7
/-- aux and mod of `rl.thr` (R198). -/
def thrCode : ThrDest → Nat
  | .tok d r => d.toNat * 2 ^ 7 + r.toNat
  | .g d r => d.toNat * 2 ^ 7 + 16 + r.toNat
  | .flags d r => d.toNat * 2 ^ 7 + 48 + r.toNat
/-- The index output of `rl.out` (R198). -/
def optOutCode : Option (BitVec 3) → Nat
  | none => 0
  | some p => p.toNat + 8
/-- aux, wait and mod[0] of `rl.clr` and `ring.set` (R198). -/
def optGCode : Option (BitVec 4 × Bool) → Nat
  | none => 0
  | some (g, w) => g.toNat * 2 ^ 7 + w.toNat * 2 ^ 6 + 1
/-- Class and index of a read-class endpoint (R45). -/
def destCode : StreamDest → Nat
  | .port p => p.toNat
  | .ring r => 8 + r.toNat
/-- gv, wait and ver of W1, from bit 23 up (R45). -/
def verCode : Option (BitVec 4 × Bool) → Nat
  | none => 0
  | some (g, w) => g.toNat * 4 + w.toNat * 2 + 1
/-- pe and pid of W1, from bit 19 up (R45). -/
def prCode : Option (BitVec 3) → Nat
  | none => 0
  | some p => 8 + p.toNat

/-- Format A (R37). -/
def wordA (g c d s1 s2 w1 w2 mod : Nat) : Nat :=
  g * 2 ^ 27 + c * 2 ^ 22 + d * 2 ^ 18 + s1 * 2 ^ 14 + s2 * 2 ^ 10 + w1 * 2 ^ 9 + w2 * 2 ^ 8 + mod
/-- Format I (R38). -/
def wordI (g c d s1 w imm : Nat) : Nat := g * 2 ^ 27 + c * 2 ^ 24 + d * 2 ^ 20 + s1 * 2 ^ 16 + w * 2 ^ 15 + imm
/-- Format B (R39). -/
def wordB (g c s1 w off : Nat) : Nat := g * 2 ^ 27 + c * 2 ^ 23 + s1 * 2 ^ 19 + w * 2 ^ 18 + off
/-- Format X (R44). -/
def wordX (g c r w sreg imm : Nat) : Nat := g * 2 ^ 27 + c * 2 ^ 22 + r * 2 ^ 18 + w * 2 ^ 17 + sreg * 2 ^ 7 + imm
/-- Format T (R40). -/
def wordT (g c dst ta tb tc et : Nat) : Nat :=
  g * 2 ^ 27 + c * 2 ^ 20 + dst * 2 ^ 16 + ta * 2 ^ 12 + tb * 2 ^ 8 + tc * 2 ^ 4 + et
/-- Format M (R43): kskip and m together from bit 11 up. -/
def wordM (g c acc ring fmt skip aux w mod : Nat) : Nat :=
  g * 2 ^ 27 + c * 2 ^ 23 + acc * 2 ^ 19 + ring * 2 ^ 17 + fmt * 2 ^ 14 + skip * 2 ^ 11 + aux * 2 ^ 7 + w * 2 ^ 6 + mod

/-- The words of an instruction, from the encoding tables (R36 to R45); an event has none. -/
def encode (i : Instr) : List Nat :=
  match i with
  | .add d a b w v => [wordA 0x01 0 d.toNat a.toNat b.toNat w.toNat v.toNat 0]
  | .sub d a b w v => [wordA 0x01 1 d.toNat a.toNat b.toNat w.toNat v.toNat 0]
  | .mul d a b w v => [wordA 0x01 2 d.toNat a.toNat b.toNat w.toNat v.toNat 0]
  | .mulh d a b w v => [wordA 0x01 3 d.toNat a.toNat b.toNat w.toNat v.toNat 0]
  | .mulhu d a b w v => [wordA 0x01 4 d.toNat a.toNat b.toNat w.toNat v.toNat 0]
  | .div d a b w v => [wordA 0x01 5 d.toNat a.toNat b.toNat w.toNat v.toNat 0]
  | .divu d a b w v => [wordA 0x01 6 d.toNat a.toNat b.toNat w.toNat v.toNat 0]
  | .rem d a b w v => [wordA 0x01 7 d.toNat a.toNat b.toNat w.toNat v.toNat 0]
  | .remu d a b w v => [wordA 0x01 8 d.toNat a.toNat b.toNat w.toNat v.toNat 0]
  | .and d a b w v => [wordA 0x01 9 d.toNat a.toNat b.toNat w.toNat v.toNat 0]
  | .or d a b w v => [wordA 0x01 10 d.toNat a.toNat b.toNat w.toNat v.toNat 0]
  | .xor d a b w v => [wordA 0x01 11 d.toNat a.toNat b.toNat w.toNat v.toNat 0]
  | .andn d a b w v => [wordA 0x01 12 d.toNat a.toNat b.toNat w.toNat v.toNat 0]
  | .sll d a b w v => [wordA 0x01 13 d.toNat a.toNat b.toNat w.toNat v.toNat 0]
  | .srl d a b w v => [wordA 0x01 14 d.toNat a.toNat b.toNat w.toNat v.toNat 0]
  | .sra d a b w v => [wordA 0x01 15 d.toNat a.toNat b.toNat w.toNat v.toNat 0]
  | .slt d a b w v => [wordA 0x01 16 d.toNat a.toNat b.toNat w.toNat v.toNat 0]
  | .sltu d a b w v => [wordA 0x01 17 d.toNat a.toNat b.toNat w.toNat v.toNat 0]
  | .min d a b w v => [wordA 0x01 18 d.toNat a.toNat b.toNat w.toNat v.toNat 0]
  | .max d a b w v => [wordA 0x01 19 d.toNat a.toNat b.toNat w.toNat v.toNat 0]
  | .minu d a b w v => [wordA 0x01 20 d.toNat a.toNat b.toNat w.toNat v.toNat 0]
  | .maxu d a b w v => [wordA 0x01 21 d.toNat a.toNat b.toNat w.toNat v.toNat 0]
  | .clz d a w => [wordA 0x01 22 d.toNat a.toNat 0 w.toNat 0 0]
  | .ctz d a w => [wordA 0x01 23 d.toNat a.toNat 0 w.toNat 0 0]
  | .popc d a w => [wordA 0x01 24 d.toNat a.toNat 0 w.toNat 0 0]
  | .mov d a w => [wordA 0x01 25 d.toNat a.toNat 0 w.toNat 0 0]
  | .sext d a w n => [wordA 0x01 26 d.toNat a.toNat 0 w.toNat 0 n.code]
  | .zext d a w n => [wordA 0x01 27 d.toNat a.toNat 0 w.toNat 0 n.code]
  | .addi d a w i => [wordI 0x02 0 d.toNat a.toNat w.toNat i.toNat]
  | .andi d a w i => [wordI 0x02 1 d.toNat a.toNat w.toNat i.toNat]
  | .ori d a w i => [wordI 0x02 2 d.toNat a.toNat w.toNat i.toNat]
  | .xori d a w i => [wordI 0x02 3 d.toNat a.toNat w.toNat i.toNat]
  | .slli d a w i => [wordI 0x02 4 d.toNat a.toNat w.toNat i.toNat]
  | .srli d a w i => [wordI 0x02 5 d.toNat a.toNat w.toNat i.toNat]
  | .srai d a w i => [wordI 0x02 6 d.toNat a.toNat w.toNat i.toNat]
  | .slti d a w i => [wordI 0x02 7 d.toNat a.toNat w.toNat i.toNat]
  | .li d i => [wordI 0x03 0 d.toNat 0 0 i.toNat]
  | .liS15 d w i => [wordI 0x03 1 d.toNat 0 w.toNat i.toNat]
  | .liS30 d w i => [wordI 0x03 2 d.toNat 0 w.toNat i.toNat]
  | .liS45 d w i => [wordI 0x03 3 d.toNat 0 w.toNat i.toNat]
  | .liS60 d w i => [wordI 0x03 4 d.toNat 0 w.toNat i.toNat]
  | .bMov d a => [wordA 0x04 0 d.toNat a.toNat 0 0 0 0]
  | .bAdd d a b v => [wordA 0x04 1 d.toNat a.toNat b.toNat 0 v.toNat 0]
  | .bAddi d a n => [wordA 0x04 2 d.toNat a.toNat 0 0 0 n.toNat]
  | .bWin d a b w v => [wordA 0x04 3 d.toNat a.toNat b.toNat w.toNat v.toNat 0]
  | .bGet d a => [wordA 0x04 4 d.toNat a.toNat 0 0 0 0]
  | .bGwin d a => [wordA 0x04 5 d.toNat a.toNat 0 0 0 0]
  | .bCpy d a b v => [wordA 0x04 6 d.toNat a.toNat b.toNat 0 v.toNat 0]
  | .ldB d a w i => [wordI 0x05 0 d.toNat a.toNat w.toNat i.toNat]
  | .ldH d a w i => [wordI 0x05 1 d.toNat a.toNat w.toNat i.toNat]
  | .ldW d a w i => [wordI 0x05 2 d.toNat a.toNat w.toNat i.toNat]
  | .ldD d a w i => [wordI 0x05 3 d.toNat a.toNat w.toNat i.toNat]
  | .ldBz d a w i => [wordI 0x05 4 d.toNat a.toNat w.toNat i.toNat]
  | .ldHz d a w i => [wordI 0x05 5 d.toNat a.toNat w.toNat i.toNat]
  | .ldWz d a w i => [wordI 0x05 6 d.toNat a.toNat w.toNat i.toNat]
  | .ldT d a w i => [wordI 0x05 7 d.toNat a.toNat w.toNat i.toNat]
  | .stB d a w i => [wordI 0x06 0 d.toNat a.toNat w.toNat i.toNat]
  | .stH d a w i => [wordI 0x06 1 d.toNat a.toNat w.toNat i.toNat]
  | .stW d a w i => [wordI 0x06 2 d.toNat a.toNat w.toNat i.toNat]
  | .stD d a w i => [wordI 0x06 3 d.toNat a.toNat w.toNat i.toNat]
  | .stT d a w i => [wordI 0x06 4 d.toNat a.toNat w.toNat i.toNat]
  | .beqz a w o => [wordB 0x07 0 a.toNat w.toNat o.toNat]
  | .bnez a w o => [wordB 0x07 1 a.toNat w.toNat o.toNat]
  | .bltz a w o => [wordB 0x07 2 a.toNat w.toNat o.toNat]
  | .bgez a w o => [wordB 0x07 3 a.toNat w.toNat o.toNat]
  | .bgtz a w o => [wordB 0x07 4 a.toNat w.toNat o.toNat]
  | .blez a w o => [wordB 0x07 5 a.toNat w.toNat o.toNat]
  | .bfull a o => [wordB 0x07 6 a.toNat 0 o.toNat]
  | .bempty a o => [wordB 0x07 7 a.toNat 0 o.toNat]
  | .bmany a o => [wordB 0x07 8 a.toNat 0 o.toNat]
  | .bmnone a o => [wordB 0x07 9 a.toNat 0 o.toNat]
  | .j o => [wordB 0x08 0 0 0 o.toNat]
  | .call l o => [wordB 0x08 1 l.toNat 0 o.toNat]
  | .jr a w => [wordB 0x08 2 a.toNat w.toNat 0]
  | .callr a w l => [wordB 0x08 3 a.toNat w.toNat l.toNat]
  | .loop a w o => [wordB 0x08 4 a.toNat w.toNat o.toNat]
  | .getw d p x l => [wordA 0x09 0 d.toNat (p.toNat + 8) 0 0 0 (x.toNat * 2^4 + l.toNat)]
  | .putw p a w t => [wordA 0x09 1 (p.toNat + 8) a.toNat 0 w.toNat 0 t.toNat]
  | .waitp p o => [wordA 0x09 2 0 (p.toNat + 8) 0 0 0 o.toNat]
  | .yield => [wordA 0x09 3 0 0 0 0 0 0]
  | .endTask => [wordA 0x09 4 0 0 0 0 0 0]
  | .fork u a w c => [wordA 0x09 5 u.code a.toNat 0 w.toNat 0 c.toNat]
  | .rdv st mx => [wordA 0x09 6 0 0 0 0 0 (st.toNat * 2^1 + mx.toNat)]
  | .trig a w p => [wordA 0x09 7 0 a.toNat 0 w.toNat 0 p.toNat]
  | .putc p a w t => [wordA 0x09 8 (p.toNat + 8) a.toNat 0 w.toNat 0 t.toNat]
  | .few a => [wordA 0x0A 0 0 a.toNat 0 0 0 0]
  | .fec d => [wordA 0x0A 1 d.toNat 0 0 0 0 0]
  | .pushm d a w f => [wordA 0x0A 2 d.toNat a.toNat 0 w.toNat 0 f.code]
  | .popm d a f => [wordA 0x0A 3 d.toNat a.toNat 0 0 0 f.code]
  | .sysr g s => [wordX 0x0B 0 g.toNat 0 s.code 0]
  | .sysw g w s => [wordX 0x0B 1 g.toNat w.toNat s.code 0]
  | .trap c => [wordX 0x0B 2 0 0 0 c.toNat]
  | .bkpt => [wordX 0x0B 3 0 0 0 0]
  | .eret k => [wordX 0x0B 4 0 0 0 k.toNat]
  | .fenceT k => [wordX 0x0B 5 0 0 0 (k.code * 2^2)]
  | .fenceR k => [wordX 0x0B 5 0 0 0 (k.code * 2^2 + 1)]
  | .fenceD k => [wordX 0x0B 5 0 0 0 (k.code * 2^2 + 2)]
  | .fenceS k => [wordX 0x0B 5 0 0 0 (k.code * 2^2 + 3)]
  | .frInit a n => [wordA 0x0C 0 0 a.toNat 0 0 0 n.toNat]
  | .frWait d a b v => [wordA 0x0C 1 d.toNat a.toNat b.toNat 0 v.toNat 0]
  | .frRecl a b v => [wordA 0x0C 2 0 a.toNat b.toNat 0 v.toNat 0]
  | .frRecipe a b v => [wordA 0x0C 3 0 a.toNat b.toNat 0 v.toNat 0]
  | .frPin a b v => [wordA 0x0C 4 0 a.toNat b.toNat 0 v.toNat 0]
  | .frUnpin a b v => [wordA 0x0C 5 0 a.toNat b.toNat 0 v.toNat 0]
  | .frStat d a q => [wordA 0x0C 6 d.toNat a.toNat 0 0 0 (statCode q)]
  | .atAdd d a b v o c => [wordA 0x0D 0 d.toNat a.toNat b.toNat 0 v.toNat (o.code * 2^2 + c.code)]
  | .atMin d a b v u o c => [wordA 0x0D 1 d.toNat a.toNat b.toNat 0 v.toNat (u.toNat * 2^4 + o.code * 2^2 + c.code)]
  | .atMax d a b v u o c => [wordA 0x0D 2 d.toNat a.toNat b.toNat 0 v.toNat (u.toNat * 2^4 + o.code * 2^2 + c.code)]
  | .atAnd d a b v o c => [wordA 0x0D 3 d.toNat a.toNat b.toNat 0 v.toNat (o.code * 2^2 + c.code)]
  | .atOr d a b v o c => [wordA 0x0D 4 d.toNat a.toNat b.toNat 0 v.toNat (o.code * 2^2 + c.code)]
  | .atXchg d a b v o c => [wordA 0x0D 5 d.toNat a.toNat b.toNat 0 v.toNat (o.code * 2^2 + c.code)]
  | .atCas d a b v o c => [wordA 0x0D 6 d.toNat a.toNat b.toNat 0 v.toNat (o.code * 2^2 + c.code)]
  | .cpJob a w => [wordA 0x0E 0 0 a.toNat 0 w.toNat 0 0]
  | .cpWait d a w => [wordA 0x0E 1 d.toNat a.toNat 0 w.toNat 0 0]
  | .clGather a w => [wordA 0x0E 2 0 a.toNat 0 w.toNat 0 0]
  | .clScatter a w => [wordA 0x0E 3 0 a.toNat 0 w.toNat 0 0]
  | .clReduce a w => [wordA 0x0E 4 0 a.toNat 0 w.toNat 0 0]
  | .clSend a w => [wordA 0x0E 5 0 a.toNat 0 w.toNat 0 0]
  | .clRecv a w => [wordA 0x0E 6 0 a.toNat 0 w.toNat 0 0]
  | .vAdd d a b k e => [wordT 0x10 0 d.toNat a.toNat b.toNat (maskCode k) e.code]
  | .vSub d a b k e => [wordT 0x10 1 d.toNat a.toNat b.toNat (maskCode k) e.code]
  | .vMul d a b k e => [wordT 0x10 2 d.toNat a.toNat b.toNat (maskCode k) e.code]
  | .vFma d a b c e => [wordT 0x10 3 d.toNat a.toNat b.toNat c.toNat e.code]
  | .vFms d a b c e => [wordT 0x10 4 d.toNat a.toNat b.toNat c.toNat e.code]
  | .vFnma d a b c e => [wordT 0x10 5 d.toNat a.toNat b.toNat c.toNat e.code]
  | .vAbs d a k e => [wordT 0x10 6 d.toNat a.toNat 0 (maskCode k) e.code]
  | .vNeg d a k e => [wordT 0x10 7 d.toNat a.toNat 0 (maskCode k) e.code]
  | .vScl d a b k e => [wordT 0x10 8 d.toNat a.toNat b.toNat (maskCode k) e.code]
  | .vCeq d a b k e => [wordT 0x11 0 d.toNat a.toNat b.toNat (maskCode k) e.code]
  | .vCne d a b k e => [wordT 0x11 1 d.toNat a.toNat b.toNat (maskCode k) e.code]
  | .vClt d a b k e => [wordT 0x11 2 d.toNat a.toNat b.toNat (maskCode k) e.code]
  | .vCle d a b k e => [wordT 0x11 3 d.toNat a.toNat b.toNat (maskCode k) e.code]
  | .vCun d a b k e => [wordT 0x11 4 d.toNat a.toNat b.toNat (maskCode k) e.code]
  | .vSel d a b c e => [wordT 0x11 5 d.toNat a.toNat b.toNat c.toNat e.code]
  | .vMin d a b k e => [wordT 0x11 6 d.toNat a.toNat b.toNat (maskCode k) e.code]
  | .vMax d a b k e => [wordT 0x11 7 d.toNat a.toNat b.toNat (maskCode k) e.code]
  | .vClamp d a b c e => [wordT 0x11 8 d.toNat a.toNat b.toNat c.toNat e.code]
  | .vIadd d a b k e => [wordT 0x12 0 d.toNat a.toNat b.toNat (maskCode k) e.code]
  | .vIsub d a b k e => [wordT 0x12 1 d.toNat a.toNat b.toNat (maskCode k) e.code]
  | .vImul d a b k e => [wordT 0x12 2 d.toNat a.toNat b.toNat (maskCode k) e.code]
  | .vAnd d a b k e => [wordT 0x12 3 d.toNat a.toNat b.toNat (maskCode k) e.code]
  | .vOr d a b k e => [wordT 0x12 4 d.toNat a.toNat b.toNat (maskCode k) e.code]
  | .vXor d a b k e => [wordT 0x12 5 d.toNat a.toNat b.toNat (maskCode k) e.code]
  | .vShl d a b k e => [wordT 0x12 6 d.toNat a.toNat b.toNat (maskCode k) e.code]
  | .vShr d a b k e => [wordT 0x12 7 d.toNat a.toNat b.toNat (maskCode k) e.code]
  | .vSra d a b k e => [wordT 0x12 8 d.toNat a.toNat b.toNat (maskCode k) e.code]
  | .vImin d a b k e => [wordT 0x12 9 d.toNat a.toNat b.toNat (maskCode k) e.code]
  | .vImax d a b k e => [wordT 0x12 10 d.toNat a.toNat b.toNat (maskCode k) e.code]
  | .vAdds d a b k e => [wordT 0x12 11 d.toNat a.toNat b.toNat (maskCode k) e.code]
  | .vSubs d a b k e => [wordT 0x12 12 d.toNat a.toNat b.toNat (maskCode k) e.code]
  | .vIeq d a b k e => [wordT 0x12 13 d.toNat a.toNat b.toNat (maskCode k) e.code]
  | .vIlt d a b k e => [wordT 0x12 14 d.toNat a.toNat b.toNat (maskCode k) e.code]
  | .vIltu d a b k e => [wordT 0x12 15 d.toNat a.toNat b.toNat (maskCode k) e.code]
  | .vCvt d a f s m e => [wordT 0x13 0 d.toNat a.toNat f.code m.toNat (s.toNat * 2^7 + e.code)]
  | .vCvtSr d a b s f e => [wordT 0x13 1 d.toNat a.toNat b.toNat f.code (s.toNat * 2^7 + e.code)]
  | .vPack d a b k e => [wordT 0x13 2 d.toNat a.toNat b.toNat (maskCode k) e.code]
  | .vUnpkLo d a k e => [wordT 0x13 3 d.toNat a.toNat 0 (maskCode k) e.code]
  | .vUnpkHi d a k e => [wordT 0x13 4 d.toNat a.toNat 0 (maskCode k) e.code]
  | .vQblk d a b m e => [wordT 0x13 5 d.toNat a.toNat 0 m.toNat (qblkCode b + e.code)]
  | .vDqblk d a p q e => [wordT 0x13 6 d.toNat a.toNat 0 q.code (p.toNat * 2^7 + e.code)]
  | .vRcp d a k e => [wordT 0x14 0 d.toNat a.toNat 0 (maskCode k) e.code]
  | .vRsq d a k e => [wordT 0x14 1 d.toNat a.toNat 0 (maskCode k) e.code]
  | .vExp2 d a k e => [wordT 0x14 2 d.toNat a.toNat 0 (maskCode k) e.code]
  | .vLog2 d a k e => [wordT 0x14 3 d.toNat a.toNat 0 (maskCode k) e.code]
  | .vTanh d a k e => [wordT 0x14 4 d.toNat a.toNat 0 (maskCode k) e.code]
  | .vErf d a k e => [wordT 0x14 5 d.toNat a.toNat 0 (maskCode k) e.code]
  | .vRsum d a k e => [wordT 0x15 0 d.toNat a.toNat 0 (maskCode k) e.code]
  | .vRmax d a k e => [wordT 0x15 1 d.toNat a.toNat 0 (maskCode k) e.code]
  | .vRmin d a k e => [wordT 0x15 2 d.toNat a.toNat 0 (maskCode k) e.code]
  | .vRsumG d a k e => [wordT 0x15 3 d.toNat a.toNat 0 (maskCode k) e.code]
  | .vPerm d a b k => [wordT 0x15 4 d.toNat a.toNat b.toNat (maskCode k) 15]
  | .vBcast d a l => [wordT 0x15 5 d.toNat a.toNat 0 l.toNat 15]
  | .vRot d a n => [wordT 0x15 6 d.toNat a.toNat 0 n.toNat 15]
  | .vScan d a k e => [wordT 0x15 7 d.toNat a.toNat 0 (maskCode k) e.code]
  | .vPeek d a => [wordT 0x16 0 d.toNat (a.toNat + 8) 0 0 15]
  | .vMov d a k => [wordT 0x16 1 d.toNat a.toNat 0 (maskCode k) 15]
  | .vSetv d a b m => [wordT 0x16 2 d.toNat a.toNat b.toNat m.code 15]
  | .vGetv d a n => [wordT 0x16 3 d.toNat a.toNat 0 n.toNat 15]
  | .vSetp d a b m => [wordT 0x16 4 d.toNat a.toNat b.toNat m.code 15]
  | .vGetp d a => [wordT 0x16 5 d.toNat a.toNat 0 0 15]
  | .vSettag d a b => [wordT 0x16 6 d.toNat a.toNat b.toNat 0 15]
  | .vGettag d a => [wordT 0x16 7 d.toNat a.toNat 0 0 15]
  | .vIns d a b l => [wordT 0x16 8 d.toNat a.toNat b.toNat l.toNat 15]
  | .vExt d a l => [wordT 0x16 9 d.toNat a.toNat 0 l.toNat 15]
  | .vSplat d a => [wordT 0x16 10 d.toNat a.toNat 0 0 15]
  | .vMkc d a k => [wordT 0x16 11 d.toNat a.toNat 0 k.code 15]
  | .vDeq d a b c p => [wordT 0x17 0 d.toNat a.toNat b.toNat p.code (c.toNat * 2^6)]
  | .vWarp d a b s => [wordT 0x17 1 d.toNat a.toNat b.toNat s.toNat 7]
  | .vErracc d a b f => [wordT 0x17 2 d.toNat a.toNat b.toNat f.toNat 0]
  | .vRefr d a => [wordT 0x17 3 d.toNat a.toNat 0 0 15]
  | .vBfx d a f => [wordT 0x17 4 d.toNat a.toNat 0 f.code 7]
  | .mMma c r f k => [wordM 0x18 0 c.toNat r.toNat f.code (skipCode k) 0 0 0]
  | .mMmaz c r f k => [wordM 0x18 1 c.toNat r.toNat f.code (skipCode k) 0 0 0]
  | .mRun c r f k x w z => [wordM 0x18 2 c.toNat r.toNat f.code (skipCode k) x.toNat w.toNat z.toNat]
  | .mGrp c r f k x w t p => [wordM 0x18 3 c.toNat r.toNat f.code (skipCode k) x.toNat w.toNat (t.toNat * 2^3 + p.toNat)]
  | .mDrain c x l f => [wordM 0x19 0 c.toNat 0 0 0 0 0 (gOrPortCode x + l.toNat * 2^3 + f.toNat * 2^1)]
  | .mCopy c x => [wordM 0x19 1 c.toNat 0 0 0 x.toNat 0 0]
  | .mCopySt c x w => [wordM 0x19 1 c.toNat 0 0 0 x.toNat w.toNat 1]
  | .mCopyLd c x w => [wordM 0x19 1 c.toNat 0 0 0 x.toNat w.toNat 2]
  | .mLd f x => [wordM 0x19 2 0 0 f.code 0 0 0 (ldSrcCode x)]
  | .mSwap => [wordM 0x19 3 0 0 0 0 0 0 0]
  | .mClr c => [wordM 0x19 4 c.toNat 0 0 0 0 0 0]
  | .rlDecl c k => [wordM 0x1A 0 c.toNat 0 0 0 0 0 k.toNat]
  | .rlIns c x f i => [wordM 0x1A 1 c.toNat 0 0 0 x.toNat 0 (f.toNat * 2^4 + i.toNat)]
  | .rlMerge c x => [wordM 0x1A 2 c.toNat 0 0 0 x.toNat 0 0]
  | .rlThr c x => [wordM 0x1A 3 c.toNat 0 0 0 0 0 (thrCode x)]
  | .rlOut c x n u i => [wordM 0x1A 4 c.toNat 0 0 0 (x.toNat + 8) 0 (n.toNat * 2^5 + u.toNat * 2^4 + optOutCode i)]
  | .rlClr c x => [wordM 0x1A 5 c.toNat 0 0 0 0 0 (optGCode x)]
  | .ringSet r x => [wordM 0x1B 0 0 r.toNat 0 0 0 0 (optGCode x)]
  | .ringHead r x => [wordM 0x1B 1 0 r.toNat 0 0 x.toNat 0 0]
  | .ringTail r x => [wordM 0x1B 2 0 r.toNat 0 0 x.toNat 0 0]
  | .ringPop r x w => [wordM 0x1B 3 0 r.toNat 0 0 x.toNat w.toNat 0]
  | .sRead e ep pcb b v pr xf disp tag eos => [0xF8000000 + e.toNat * 2 ^ 20 + destCode ep * 2 ^ 15 + pcb.toNat * 2 ^ 2,
      b.toNat * 2 ^ 29 + verCode v * 2 ^ 23 + prCode pr * 2 ^ 19 + xf.code * 2 ^ 15, disp.toNat, tag.toNat * 2 ^ 26 + eos.toNat * 2 ^ 25]
  | .sWrite e p pcb b v pr xf disp => [0xF8C00000 + e.toNat * 2 ^ 20 + p.toNat * 2 ^ 15 + pcb.toNat * 2 ^ 2,
      b.toNat * 2 ^ 29 + verCode v * 2 ^ 23 + prCode pr * 2 ^ 19 + xf.code * 2 ^ 15, disp.toNat, 0]
  | .sInd e ep pcb b ix v pr xf disp tag eos => [0xF9000000 + e.toNat * 2 ^ 20 + destCode ep * 2 ^ 15 + pcb.toNat * 2 ^ 2,
      b.toNat * 2 ^ 29 + verCode v * 2 ^ 23 + prCode pr * 2 ^ 19 + xf.code * 2 ^ 15 + (ix.toNat + 8) * 2 ^ 11, disp.toNat,
      tag.toNat * 2 ^ 26 + eos.toNat * 2 ^ 25]
  | .sPrism e b pid disp => [0xF9800000 + e.toNat * 2 ^ 20, b.toNat * 2 ^ 29 + 2 ^ 22 + pid.toNat * 2 ^ 19, disp.toNat, 0]
  | .sSyntax e p pcb b v disp tag eos => [0xFA080000 + e.toNat * 2 ^ 20 + p.toNat * 2 ^ 15 + pcb.toNat * 2 ^ 2,
      b.toNat * 2 ^ 29 + verCode v * 2 ^ 23, disp.toNat, tag.toNat * 2 ^ 26 + eos.toNat * 2 ^ 25]
  | .sBar => [0xFA800000, 0, 0, 0]
  | .sStop e => [0xFB000000 + e.toNat * 2 ^ 20, 0, 0, 0]
  | .sStat e gv => [0xFB800000 + e.toNat * 2 ^ 20, gv.toNat * 2 ^ 25, 0, 0]
  | .issueSlot _ => []
  | .parkClear _ _ => []
  | .tokenOpComplete _ => []
  | .longLatencyDeliver _ _ => []
  | .getwDeliver _ _ _ => []
  | .tokenHop _ _ _ => []
  | .tokenArrive _ _ => []
  | .lateTokenBurstEnd _ _ _ => []
  | .lateTokenLongBurst _ _ _ => []
  | .junctionPass _ _ _ => []
  | .junctionFork _ _ _ => []
  | .junctionJoin _ _ _ => []
  | .junctionSteer _ _ _ => []
  | .junctionMerge _ _ _ => []
  | .junctionLoopgen _ _ _ => []
  | .junctionRandom _ _ _ => []
  | .junctionConvert _ _ _ => []
  | .junctionGate _ _ _ => []
  | .junctionTagchk _ _ _ => []
  | .ringFeed _ _ _ => []
  | .streamCmdStart _ _ => []
  | .streamElementAccess _ _ => []
  | .streamReadPush _ _ => []
  | .streamWriteTake _ _ => []
  | .streamCmdComplete _ _ => []
  | .syntaxTokenPush _ => []
  | .syntaxJobEnd _ => []
  | .memopForward _ => []
  | .versionedWriteArrive _ => []
  | .versionedWriteResume _ => []
  | .versionedReadArrive _ => []
  | .versionWaitSatisfied _ => []
  | .directoryFrameOp _ => []
  | .atomicPerform _ => []
  | .mitBlockAccess _ => []
  | .cardRelease _ => []
  | .cardComplete _ => []
  | .cpWaitDeliver _ => []
  | .collectiveExchange _ _ => []
  | .collectiveComplete _ => []
  | .prismLoadComplete _ _ => []
  | .evictDrop _ _ => []
  | .evictSpill _ _ => []
  | .spillAck _ _ => []
  | .recomputeStart _ => []
  | .recomputeEnd _ => []
  | .progressTimeout _ => []
  | .graphComplete _ => []
  | .commitRequest _ _ => []
  | .fetchPhase2 _ => []
  | .preemptRequest _ => []
  | .quantumExpire _ => []
  | .markerArrive _ _ => []
  | .checkpoint _ => []
  | .checkpointInterval _ => []
  | .rollback _ => []
  | .fqRingWrite _ => []
  | .mcstatClear => []
  | .fqresRetry _ _ => []
  | .fqresCancel _ _ => []
  | .fqresAlt _ _ => []
  | .fqresEnd _ _ => []
  | .taskcmdResumeTpc _ _ => []
  | .taskcmdResumePc _ _ _ => []
  | .taskcmdEnd _ _ => []
  | .ckcmdCheckpoint _ _ => []
  | .ckcmdRollback _ _ => []
  | .tlbinvPartition _ => []
  | .tlbinvWindow _ _ => []
  | .tlbinvPage _ _ _ => []
  | .tlbinvComplete _ => []
  | .s2invPartition _ => []
  | .s2invPage _ _ => []
  | .s2invComplete => []
  | .scrub _ _ => []
  | .scrubComplete => []
  | .owncmd _ => []
  | .owncmdComplete => []
  | .regdel _ _ _ => []
  | .slicedel _ _ => []
  | .partitionLive _ _ => []
  | .partitionNotLive _ => []
  | .synassignChange _ _ => []
  | .synassignTakeEffect _ => []
  | .prismmapChange _ _ => []
  | .vfmapChange _ => []
  | .devidWrite _ => []
  | .wportEnable _ => []
  | .wportDisable _ => []
  | .shutctlFire => []
  | .shutterPin => []
  | .shutterJtag => []
  | .shutterReadout _ _ => []
  | .pwrcapWrite _ => []
  | .thermalThrottle _ => []
  | .thermtrip _ => []
  | .lqpush _ _ _ => []
  | .registerWrite _ _ _ => []
  | .hostRequest _ => []
  | .functionLevelReset _ => []
  | .hartMemoryAccess _ => []
  | .deviceReset _ => []
  | .recoveryImageWrite _ => []
  | .flitReceive _ _ => []
  | .portRetrain _ _ => []
  | .peerAccessInbound _ => []
  | .softError _ => []
  | .regdelDone _ => []
  | .portTrainingDone _ _ => []
  | .hostReadCompletion _ _ _ => []

end Sys2Proof
end

