-- ==== Sys2Proof/Machine/State.lean ====
section
/-! DEFINITION. The state of the device as plain data: every register, store, queue, unit and outside line the spec gives it, and its value right after reset. -/
namespace Sys2Proof.Machine

/-- Memory: bytes by address in canonical form, addresses rising and no byte that equals what an unlisted address reads as. -/
abbrev Mem := List Host.Cell

/-! ## Task state (R46 to R48, R74, R82, R312, R313) -/

/-- The three states of a g register's full/empty bit (R48). -/
inductive FE where
  | full | pending | empty
  deriving DecidableEq, Repr

/-- A g register: value and full/empty state (R46, R48). -/
structure GReg where
  val : DWord := 0
  st  : FE := .full
  deriving DecidableEq, Repr

/-- A token: 512-bit payload and 40-bit sideband (R88). -/
structure Token where
  data   : BitVec 512 := 0
  valid  : BitVec 16 := 0
  poison : BitVec 16 := 0
  tag    : BitVec 6 := 0
  kind   : TokKind := .data
  deriving DecidableEq, Repr

/-- Park reasons (R313). -/
inductive Park where
  | emptyReg | destPending | port | queue | wreg | matrix | rdv | endWait | fence
  deriving DecidableEq, Repr

/-- States of a task (R312); `absent` is the table's "none". -/
inductive TaskSt where
  | absent | idle | ready | running | parked (r : Park) | trapped | retired
  deriving DecidableEq, Repr

/-- A trap that a task takes before its next word issues: GETW_POISON, TOKEN_POISON, NAN_FIRST (R75, R160, R174). -/
structure PTrap where
  cause : Nat
  pc    : Option Nat
  tval  : DWord
  deriving DecidableEq, Repr

/-- A forked run that was abandoned: unit, word index, the word's cause and field (R78). -/
structure Aband where
  unit  : ForkUnit
  word  : Nat
  cause : Nat
  field : Nat
  deriving DecidableEq, Repr

/-- A task slot (R9, R46, R47, R82). -/
structure Task where
  st     : TaskSt := .absent
  img    : SlotId := 0              -- slot as the image names it (TASKID.SLOT)
  high   : Bool := false            -- TASKID.CLASS
  trigP  : BitVec 3 := 0
  trigVc : BitVec 2 := 0
  phase  : BitVec 2 := 0
  pc     : Nat := 0
  g      : Vector GReg 16 := Vector.replicate 16 {}
  b      : Vector VAddr 8 := Vector.replicate 8 0
  m      : Vector (BitVec 16) 4 := Vector.replicate 4 0xFFFF
  w      : Vector Token 8 := Vector.replicate 8 ⟨0, 0xFFFF, 0, 0, .data⟩
  ssp    : DWord := 0
  tcause : DWord := 0
  tpc    : DWord := 0
  tval   : DWord := 0
  ptraps : List PTrap := []
  aband  : List Aband := []
  cps    : List (Nat × Nat) := []   -- cards and collectives issued, by completion identifier (R137)
  mark   : Option Nat := none       -- order number taken when a word first waits on earlier commands or runs
  deriving DecidableEq, Repr

/-! ## Ports and junctions (R91, R114 to R117, R326) -/

/-- A getw that awaits a head (R75). -/
structure Getw where
  slot : SlotId
  d    : BitVec 4
  lane : BitVec 4
  wide : Bool
  pc   : Nat
  id   : Nat := 0                   -- its place among the operations of its task (R253)
  deriving DecidableEq, Repr

/-- A running burst of discarded tokens at an endpoint (R326). -/
structure Burst where
  kind  : TokKind
  tag   : BitVec 6
  count : Nat                       -- discards since the last event
  first : Nat                       -- cycle of the first discard, or of the last event
  last  : Nat                       -- cycle of the latest discard
  deriving DecidableEq, Repr

/-- An input port: FIFO of four tokens, channel, carried type (R60, R91). -/
structure InPort where
  fifo  : List Token := []
  vc    : BitVec 2 := 0
  ctype : BitVec 2 := 0
  getws : List Getw := []
  late  : Option Burst := none
  deriving DecidableEq, Repr

/-- A place of an output FIFO: reserved at issue, or filled (R171). -/
inductive OSlot where
  | reserved
  | tok (t : Token)
  deriving DecidableEq, Repr

/-- An output port: FIFO of four places, channel, carried type (R60, R91). -/
structure OutPort where
  fifo  : List OSlot := []
  vc    : BitVec 2 := 0
  ctype : BitVec 2 := 0
  deriving DecidableEq, Repr

/-- A converted element that waits for its token to fill (R117, convert). -/
structure CElem where
  bits   : Nat
  poison : Bool
  deriving DecidableEq, Repr

/-- A loop generator's sequence in progress (R117). -/
structure LoopSt where
  start : Lane
  step  : Lane
  count : Nat
  done  : Nat
  deriving DecidableEq, Repr

/-- A merge's selection: side, tokens left, or until end of stream (R89, R117). -/
structure MergeSel where
  side  : Bool
  left  : Nat
  toEos : Bool
  deriving DecidableEq, Repr

/-- A junction slot: its word, the two-token buffers of its four input sides, and its state (R114 to R117). -/
structure Junc where
  word    : DWord := 0
  buf     : Vector (List Token) 4 := Vector.replicate 4 []
  turn    : Nat := 0                -- join: position in the round; alternate: 0 or 1
  expect  : BitVec 6 := 0           -- join tag and tagchk: expected tag; loopgen: next tag
  closed  : Option Bool := none     -- join: the side that end of stream closed
  sel     : Option MergeSel := none
  loop    : Option LoopSt := none
  endgrp  : Bool := false           -- loopgen: END_GROUP of the current bound still to emit
  group   : Lane := 0               -- loopgen: bounds counted
  rnd     : Nat := 0                -- random: token number n; convert: tokens it has sent
  occ     : Nat := 0                -- gate: OCC
  rmode   : BitVec 3 := 0           -- convert: mode and saturation in force
  sat     : Bool := false
  cbuf    : List CElem := []        -- convert: elements awaiting a full token
  held    : Option (BitVec 32) := none   -- sequence number of the record that stopped it
  pass    : Bool := false           -- tagchk: the held head is to be forwarded (R362)
  deriving DecidableEq, Repr

/-! ## Matrix unit (R201 to R209) -/

/-- An entry of a ranked list (R201). -/
structure REnt where
  v    : Lane
  i    : Lane
  drop : Bool
  deriving DecidableEq, Repr

/-- A row of a ranked list, entries in rank order (R201, R217). -/
structure RRow where
  ents : List REnt := []
  nan  : Bool := false
  pois : Bool := false
  deriving DecidableEq, Repr

/-- An accumulator tile: a sum tile of 256 FP32 elements, (r, c) at element 16r + c, or a ranked list (R201). -/
inductive Acc where
  | sum (el : BitVec 8192) (pois : BitVec 256)
  | ranked (k : Nat) (rows : Vector RRow 16)
  deriving DecidableEq, Repr

/-- An operand ring's control state (R202, R203). -/
structure Ring where
  base   : Nat := 0                 -- BASE, in units of 64 bytes
  size   : Nat := 0                 -- SIZE, entries
  head   : BitVec 32 := 0
  tail   : BitVec 32 := 0
  vbits  : List (BitVec 16) := []   -- valid bits of the tokens held, oldest first
  marks  : List (BitVec 32) := []   -- positions of pending swap marks, oldest first
  feed   : Option (BitVec 3) := none
  swapeg : Bool := false
  deriving DecidableEq, Repr

/-- Type of a stationary register (R207). -/
inductive StatTy where
  | none | e4m3 | e5m2 | bf16 | cb2
  deriving DecidableEq, Repr

/-- A stationary register: operand bytes, scale area, word poison marks of both, type (R207). -/
structure Stat where
  bytes : BitVec 12288 := 0
  scale : BitVec 512 := 0
  marks : BitVec 400 := 0           -- bits 0 to 383 the operand's words, 384 to 399 the scale area's
  ty    : StatTy := .none
  deriving DecidableEq, Repr

/-- One set of matrix state: accumulators, rings, s.active, s.load (R46, R321). -/
structure MatState where
  acc   : Vector Acc 16 := Vector.replicate 16 (.sum 0 0)
  rings : Vector Ring 4 := Vector.replicate 4 {}
  act   : Stat := {}
  load  : Stat := {}
  deriving DecidableEq, Repr

/-- Progress inside a matrix instruction that takes or gives tokens over several turns (R200, R212, R213). -/
structure MProg where
  n     : Nat := 0                  -- tokens, rows or entries done in the current stage
  grp   : Nat := 0                  -- group of m.grp
  stage : Nat := 0                  -- 1 once begun; m.grp: 1 group check, 2 load, 3 product, 4 drain, 5 tail pops
  count : Nat := 0                  -- count read at the start; m.grp: entries of the group still to come
  total : Nat := 0                  -- G of m.grp, or the port of m.drain
  off   : Nat := 0                  -- entries passed so far in m.grp
  ea    : Nat := 0                  -- m.grp: address of the offset vector
  top   : Int := 0                  -- m.grp: T
  busy  : Bool := false             -- m.grp: the port of its route was bound when it began
  held  : List Token := []          -- m.grp: B tokens taken for the group, until its operand is complete
  nan   : Option Nat := none        -- lowest NLANE index of a NaN originated so far (R160)
  deriving DecidableEq, Repr

/-- What the matrix unit executes: a forked run or an inline instruction (R78, R199). -/
structure MItem where
  slot  : SlotId
  seq   : Nat
  run   : Bool
  pc    : Nat                       -- first word of the run, or the inline word's index
  count : Nat
  pos   : Nat
  instr : Option Instr              -- the inline instruction
  acr   : Option (BitVec 4) := none -- ACR that the instruction issued with (R81)
  prog  : MProg := {}
  deriving DecidableEq, Repr

/-! ## Stream engines (R96 to R111, R285 to R289) -/

/-- Kind of a data command (R103). -/
inductive CmdKind where
  | read | write | ind | prism | syn
  deriving DecidableEq, Repr

/-- A stream command as queued: every g and b operand copied at issue (R104). -/
structure Cmd where
  kind  : CmdKind
  seq   : Nat
  slot  : SlotId
  phase : BitVec 2
  run   : Option Nat                -- order number of the forked run it belongs to
  pc    : Nat
  dest  : StreamDest                -- output port or ring of a read class, input port of a write
  ix    : Option (BitVec 3)
  pcb   : Nat
  base  : VAddr
  ver   : Option (BitVec 32)
  pid   : Option (BitVec 3)
  xf    : Xform
  disp  : BitVec 32
  tag   : BitVec 6
  eos   : Bool
  deriving DecidableEq, Repr

/-- An element in a window or write buffer (R106). -/
structure WElem where
  pad    : Bool                     -- a padded tap
  ix     : Lane := 0                -- index in force, and whether its lane was poisoned
  ixPois : Bool := false
  c4     : Nat := 0                 -- index lanes consumed up to it
  id     : Option Nat := none       -- the access it waits for
  done   : Bool := false            -- read: its bytes have returned; write: they are performed
  data   : List Byte := []
  poison : Bool := false
  live   : List Bool := []          -- write: which bytes lie in valid lanes
  deriving DecidableEq, Repr

/-- A syntax engine's context slot: the bitstreams it has parsed since NEWSEQ, oldest first, with their codec, the pictures it has given
since then, whether it skips RASL pictures (R230, R233), and the region whose job used it last. -/
structure SynCtx where
  used  : Bool := false
  av1   : Bool := false
  hist  : List (List Byte) := []
  pics  : Nat := 0
  rasl  : Bool := false
  rkey  : Nat := 0
  deriving DecidableEq, Repr

/-- A syntax job (R229). -/
structure SynJob where
  tile  : Nat
  e     : EngineId
  phase : BitVec 2
  port  : BitVec 3
  part  : PartId
  rkey  : Nat
  av1   : Bool
  chroma : Bool
  newseq : Bool
  ctx   : BitVec 2
  pics  : Nat
  bytes : List Byte
  tag   : BitVec 6
  eos   : Bool
  seek  : Bool                      -- it starts at the first random-access picture (R230)
  begun : Bool := false             -- an engine has taken it
  sent  : Nat := 0                  -- tokens pushed
  passed : List Nat := []           -- pictures of its parse whose fault an ALT has passed (R231)
  saved : Option SynCtx := none     -- its context slot as a snapshot holds it (R231)
  deriving DecidableEq, Repr

/-- A running command (R101, R104, R106). -/
structure CmdRun where
  cmd    : Cmd
  pcb    : Vector DWord 8           -- D0 to D7, read once at the start
  next   : Nat := 0                 -- elements that have entered the window
  head   : Nat := 0                 -- HEAD: tokens pushed or consumed
  win    : List WElem := []         -- the elements not pushed or written yet, the last of them number next − 1
  ix     : Lane := 0                -- index in force
  ixLane : Nat := 0                 -- lane of the index port's head to look at next
  c4     : Nat := 0                 -- index lanes consumed
  ixPois : Bool := false            -- the index in force is poisoned
  ixAt   : Option Nat := none       -- the element that took it
  ended  : Bool := false            -- an end-of-stream ended the pattern early
  units  : Nat := 0                 -- Prism units done
  prog   : List Byte := []          -- Prism program taken at the start; of `s.syntax` the bitstream read so far
  ps     : Vector Lane 8 := Vector.replicate 8 0
  pspois : BitVec 8 := 0
  tailOut : Bool := false           -- the TAIL token is pushed
  eosOut : Bool := false            -- the end-of-stream token is pushed
  opened : List (FrameKey × Nat) := []   -- versions its writes have opened
  job    : Option SynJob := none    -- a syntax job that a restore gives back to its engine (R231, R324)
  deriving DecidableEq, Repr

/-- A stream engine or recompute context: running and waiting command, and the record it is stopped by (R104, R107). -/
structure Engine where
  cur  : Option CmdRun := none
  wait : List Cmd := []
  back : List CmdRun := []          -- commands of other fold phases that a restore gave it, begun before (R324)
  stop : Option (BitVec 32) := none
  flt  : Bool := false              -- FLTQ.STOPPED as a restore gave it, until the engine performs an element again (R323)
  deriving DecidableEq, Repr

/-- A forked run of stream commands (R78). -/
structure SRun where
  slot  : SlotId
  seq   : Nat
  pc    : Nat
  count : Nat
  pos   : Nat
  mark  : Option Nat := none
  deriving DecidableEq, Repr

/-! ## Vector pipeline (R160, R171, R174) -/

/-- Where a token instruction's result goes (R40, R194). -/
inductive VDst where
  | w (r : BitVec 3)
  | o (p : BitVec 3)
  | m (r : BitVec 2)
  deriving DecidableEq, Repr

/-- A token instruction in flight: its result was computed at issue and is written at completion (R171). -/
structure VOp where
  slot  : SlotId
  dst   : VDst
  tok   : Token
  mval  : BitVec 16
  deriving DecidableEq, Repr

/-- A long-latency delivery to a g register (R174). -/
structure LLOp where
  slot : SlotId
  d    : BitVec 4
  val  : DWord
  pois : Option (BitVec 4)          -- lowest poisoned lane that contributed
  pc   : Nat
  deriving DecidableEq, Repr

/-! ## Translation caches (R341) -/

/-- A completed translation in a TLB, tagged by partition (R341): a 64 KiB page of a window, and how many bits of page number the
mapping has below it at each stage: 0 for a page, 10 or 21 for a block. Through a peer window the pages are 0. -/
structure TlbEnt where
  part : PartId
  win  : BitVec 16
  vpn  : Nat
  vlog : Nat
  ipn  : Nat
  ilog : Nat
  ppn  : Nat
  wr   : Bool
  limit : Nat
  peer : Option (Byte × BitVec 16)  -- a peer window: authorization entry and window
  deriving DecidableEq, Repr

/-- A window entry in a TLB (R339, R341). -/
structure WinEnt where
  part : PartId
  win  : BitVec 16
  ent  : Nat
  deriving DecidableEq, Repr

/-- A table entry in a TLB (R340, R341): of a window's stage 1, or of stage 2, where it was read and the pages it maps. -/
structure TabEnt where
  part : PartId
  win  : Option (BitVec 16)
  addr : Nat                        -- its IPA, at stage 2 its PA
  page : Nat                        -- a page below it: of the window, at stage 2 of IPA
  log  : Nat                        -- bits of page number below it
  desc : Nat
  deriving DecidableEq, Repr

/-- An entry of a TLB (R341). -/
inductive TlbItem where
  | done (e : TlbEnt)
  | win (e : WinEnt)
  | tab (e : TabEnt)
  deriving DecidableEq, Repr

/-! ## Tiles (R9, R321) -/

/-- A logical tile as one fold phase of a physical tile holds it (R321). -/
structure LTile where
  placed : Bool := false
  key    : Nat := 0                 -- region table key
  lx     : BitVec 8 := 0
  ly     : BitVec 8 := 0
  contig : Bool := false            -- bank mode (R10)
  inP    : Vector InPort 8 := Vector.replicate 8 {}
  outP   : Vector OutPort 8 := Vector.replicate 8 {}
  junc   : Vector Junc 8 := Vector.replicate 8 {}
  route  : Vector (Option (BitVec 3)) 8 := Vector.replicate 8 none
  mat    : MatState := {}
  acr    : BitVec 4 := 0
  ntile  : DWord := 0
  nlane  : DWord := 0
  nfmt   : DWord := 0
  npc    : DWord := 0
  nanBy  : List (Nat × Nat) := []   -- where a token instruction set NANHIT: the matrix words that had issued before it and go on (R160)
  born   : Nat := 0                 -- cycle of the tile's commit, from which CYC counts
  deriving DecidableEq, Repr

/-- A recompute in slot 15 (R302 to R304). -/
structure Recomp where
  frame : FrameKey
  v     : Nat
  part  : PartId
  slot  : Option Nat := none        -- the pool slot the refill takes, from its first byte on
  data  : Mem                       -- refilled bytes
  pois  : List Nat := []            -- poisoned quarters among them
  cover : List Nat                  -- offsets refilled, rising
  deriving DecidableEq, Repr

/-- A physical tile (R9). -/
structure Tile where
  tasks  : Vector Task 16 := Vector.replicate 16 {}
  istore : List (Nat × Lane) := []
  ipois  : List Nat := []           -- words with an uncorrectable error (R364)
  spad   : Mem := []
  marks  : List Nat := []           -- poison-marked words, rising word addresses (R65)
  fold   : BitVec 2 := 0            -- 0 factor 1, 1 factor 2, 2 factor 4
  ph     : Vector LTile 4 := Vector.replicate 4 {}
  matPh  : BitVec 2 := 0            -- the phase whose set the matrix unit holds (R321)
  eng    : Vector Engine 8 := Vector.replicate 8 {}
  rcRead : Engine := {}
  rcWrite : Engine := {}
  memq   : List Nat := []           -- operations queued at the memory-operation port, oldest first
  memStop : Option (BitVec 32) := none
  mq     : List MItem := []
  sq     : List SRun := []
  seq    : Nat := 0                 -- order numbers given to commands and runs
  rot    : BitVec 4 := 0            -- rotation position q (R314)
  lastHi : SlotId := 15
  lastNo : SlotId := 15
  vpipe  : List VOp := []           -- oldest first
  ll     : List LLOp := []
  rc     : Option Recomp := none
  rcMat  : MatState := {}
  rc6    : List OSlot := []         -- the FIFO from o6 to i6 of slot 15
  rc7    : List OSlot := []
  rcGetw6 : List Getw := []         -- getws of slot 15 that await a head at i6, i7
  rcGetw7 : List Getw := []
  tlb    : List TlbItem := []       -- first-level TLB, newest first, 512 entries (R9, R341)
  deriving DecidableEq, Repr

/-! ## Circuits, regions, snapshots (R12, R318 to R325, R346, R366) -/

/-- An end of a circuit: logical tile and endpoint byte with junction side, and where it is placed (R60). -/
structure CEnd where
  lx   : BitVec 8
  ly   : BitVec 8
  ep   : BitVec 8
  side : BitVec 2
  tile : Nat                        -- physical tile 48·py + px
  ph   : BitVec 2
  deriving DecidableEq, Repr

/-- A circuit: its ends, hops, and the tokens on it (R12, R344). -/
structure Circuit where
  id     : BitVec 16
  src    : CEnd
  dst    : CEnd
  hops   : List Byte
  entry  : List Token := []         -- at the source end, not yet on the first hop
  flight : List (Nat × Token) := [] -- position and token, nearest the destination first
  caught : List Token := []         -- caught ahead of the marker (R322)
  marked : Bool := false            -- the marker has arrived
  deriving DecidableEq, Repr

/-- Why a region is frozen with markers on its way (R322, R366, R367). -/
inductive FreezeFor where
  | preempt | checkpoint
  deriving DecidableEq, Repr

/-- State of a region (R320, R322, R346). -/
inductive RegSt where
  | fetched                         -- phase 1 has passed; phase 2 waits for the target tiles
  | live
  | freezing (r : FreezeFor)        -- markers pushed
  deriving DecidableEq, Repr

/-- A bind record as dispatch holds it (R319). -/
structure Bind where
  tile  : Nat
  ph    : BitVec 2
  lx    : BitVec 8
  ly    : BitVec 8
  tmask : BitVec 16
  deriving DecidableEq, Repr

/-- A configuration image record (R59). -/
structure ImgRec where
  ty   : Byte
  fold : BitVec 3
  lx0  : BitVec 8
  ly0  : BitVec 8
  lx1  : BitVec 8
  ly1  : BitVec 8
  off  : Nat
  data : List Byte
  deriving DecidableEq, Repr

/-! ## The Penumbra and the version directories (R120 to R128, R293 to R305) -/

/-- A registered versioned region (R120). -/
structure VRegion where
  part  : PartId
  win   : BitVec 16
  base  : Nat                       -- first frame, offset divided by 4,096
  count : Nat
  recomp : Bool
  init  : Bool
  nospill : Bool
  deriving DecidableEq, Repr

/-- A recipe block (R294). -/
structure Recipe where
  v     : Nat
  slice : BitVec 16
  cost  : Nat
  params : Vector DWord 4
  srcs  : List (FrameKey × Nat)
  gens  : List Nat := []            -- histories of the sources' frames in which it holds its references (R126, R305)
  deriving DecidableEq, Repr

/-- A registered code slice (R297). -/
structure Slice where
  part  : PartId
  id    : BitVec 16
  start : Nat
  words : List Lane
  deriving DecidableEq, Repr

/-- States of a version (R122), `retired` being every other version at or below the newest. -/
inductive VSt where
  | absent | opened | resident | spilled | dropped
  deriving DecidableEq, Repr

/-- A version of a frame: its state, holds, recipe and bits (R122, R126, R293 to R298). -/
structure Ver where
  v     : Nat
  st    : VSt
  pins  : Nat := 0
  rref  : Nat := 0
  reads : Nat := 0                  -- accepted reads not yet returned
  refill : Nat := 0                 -- recomputes that hold it
  depth : Nat := 0
  dropOk : Bool := false            -- DROPPABLE
  recipe : Option Recipe := none
  slot  : Option Nat := none        -- the pool slot it occupies
  spill : Option (BitVec 16 × Nat) := none   -- window and offset of the spill slot it is copied to, or being copied to (R299)
  spillIds : List Nat := []         -- numbers of the copy's flits not acknowledged yet
  spillVia : Nat := 0               -- Wildom port that the copy left by
  data  : Mem := []                 -- its 4,096 bytes
  pois  : List Nat := []            -- poisoned 64-byte quarters, rising
  cover : List Nat := []            -- while open: offsets the creating write has written, rising
  badWr : Bool := false             -- while open: a poisoned byte was written
  deriving DecidableEq, Repr

/-- A frame of a registered region (R121 to R126). -/
structure Frame where
  key    : FrameKey
  newest : Option Nat := none       -- none stands for −1
  gen    : Nat := 0                 -- which history of the frame it is: `fr.init` starts a new one (R126)
  recl   : Nat := 0                 -- reclaim point
  vers   : List Ver := []           -- versions known, rising
  deriving DecidableEq, Repr

/-- A recompute request: the version missed, and the tile whose read missed it (R302). -/
structure RcReq where
  id    : Nat
  frame : FrameKey
  v     : Nat
  tile  : Nat
  on    : Option Nat := none        -- the tile it was last started on
  phase : BitVec 2 := 0             -- the fold phase of the read that missed
  held  : Option (BitVec 32) := none
  running : Bool := false
  holds : List (FrameKey × Nat) := []   -- the sources it holds until it ends, its chain's among them
  deriving DecidableEq, Repr

/-- An entry of a region's undo log: a block's old bytes and descriptor (R366, R367). -/
structure Undo where
  block : Nat
  bytes : List Byte
  pq    : BitVec 4
  mine  : BitVec 256                -- the bytes of the block that the region has written
  deriving DecidableEq, Repr

/-- A reclaim whose retirements are deferred to the next checkpoint (R366, R367), with the history of the frame that it acts on. -/
inductive Reclaim where
  | recl (f : FrameKey) (v gen : Nat)
  | unpin (f : FrameKey) (v gen : Nat)
  | pin (f : FrameKey) (v gen : Nat)
  | init (old : Frame)
  deriving DecidableEq, Repr

/-! ## Operations on their way (R119, R131, R135, R140, R280) -/

/-- Atomic operations (R131). -/
inductive AtOp where
  | add | min (u : Bool) | max (u : Bool) | and | or | xchg | cas
  deriving DecidableEq, Repr

/-- Frame operations (R126, R127, R128). -/
inductive FrOp where
  | init (n : Nat)
  | wait (v : Nat)
  | recl (v : Nat)
  | recipe (r : Recipe)
  | pin (v : Nat)
  | unpin (v : Nat)
  | stat (v : Option Nat)
  deriving DecidableEq, Repr

/-- A job card (R134). -/
structure Card where
  swin : BitVec 16
  soff : BitVec 48
  c0   : DWord                      -- the pattern under fill
  dwin : BitVec 16
  doff : BitVec 48
  rows : Nat
  rbytes : Nat
  sstr : BitVec 40
  dstr : BitVec 40
  dvern : BitVec 32
  svern : BitVec 32
  id   : BitVec 16
  fill : Bool
  pside : Bool
  pid  : BitVec 3
  pe   : Bool
  dver : Bool
  sver : Bool
  deriving DecidableEq, Repr

/-- Collective operations (R140). -/
inductive ClOp where
  | gather | scatter | reduce | send | recv
  deriving DecidableEq, Repr

/-- A collective descriptor (R139). -/
structure Coll where
  op   : ClOp
  swin : BitVec 16
  soff : BitVec 48
  dwin : BitVec 16
  doff : BitVec 48
  id   : BitVec 16
  rop  : BitVec 4
  ety  : BitVec 4
  count : BitVec 32
  size : BitVec 32
  rank : BitVec 32
  peer : BitVec 32
  group : BitVec 16
  dvern : BitVec 32
  svern : BitVec 32
  rs   : Bool
  dver : Bool
  sver : Bool
  deriving DecidableEq, Repr

/-- The access of one element of a stream command (R97, R123, R124, R280). -/
structure ElemAcc where
  e     : EngineId
  n     : Nat                       -- element number
  len   : Nat
  ver   : Option Nat                -- the version it names
  wr    : Option (List (Option (Byte × Bool)))   -- bytes to write with their poison; none leaves a byte
  waits : Bool := false             -- accepted at the directory, and waiting
  fixed : Option Nat := none        -- the place in HBM it has been translated to, once a later write of its command is performed (R107)
  deriving DecidableEq, Repr

/-- Kinds of operation on their way. A card holds the bytes written and the source bytes read ahead of them, and its Prism program once
it has started; a collective the source bytes read, its result, and the result's bytes written. -/
inductive OpKind where
  | elem (a : ElemAcc)
  | frame (o : FrOp) (waits : Bool)
  | atomic (o : AtOp) (x cmp : DWord)
  | card (c : Card) (released : Bool) (done : Nat) (buf : List (Byte × Bool)) (prog : List Byte)
  | coll (c : Coll) (src : List (Byte × Bool)) (result : Option (List (Byte × Bool))) (done : Nat)
  | cpWait (id : BitVec 16) (ops : List Nat) (count : Nat)
  | peer (f : Flit)
  deriving DecidableEq, Repr

/-- An operation on its way. -/
structure Op where
  id    : Nat
  tile  : Nat
  slot  : SlotId
  phase : BitVec 2
  part  : PartId
  rkey  : Nat
  va    : VAddr                     -- the address it names
  d     : Option (BitVec 4)         -- destination g register
  word  : Nat
  mark  : Nat                       -- the tile's order number at issue: earlier commands and runs have smaller ones
  acq   : Bool := false             -- an acquire: later events of the task wait for it (R253)
  rel   : Bool := false             -- a release: it waits for the task's earlier operations (R253)
  kind  : OpKind
  sent  : Bool := false             -- forwarded by the memory-operation port
  stop  : Option (BitVec 32) := none
  out   : Bool := false             -- a request stands with the host or a peer
  via   : Option Nat := none        -- the Wildom port it left by
  opened : List (FrameKey × Nat) := []   -- versions its writes have opened
  held  : List (FrameKey × Nat) := []    -- versions its accepted reads hold
  told  : Bool := false             -- its stall on the pool has been signalled
  waits : Bool := false             -- its next access has arrived at a directory and waits there
  met   : Bool := false             -- the version that a `fr.wait` waits for has been created
  spill : Option Bool := none       -- a request stands with the spill slot of the version it reads; true: the bytes have come (R301)
  spilt : List (FrameKey × Nat) := []    -- versions whose spill slots it has asked for its next access
  bytes : Nat := 0                  -- bytes that its request asks for
  lost  : Option Byte := none       -- what it waits for is gone, and its next access faults with this kind (R362, R365)
  deriving DecidableEq, Repr

/-! ## Snapshots (R323) -/

/-- What a snapshot holds of one logical tile (R323). -/
structure TileSnap where
  lx     : BitVec 8
  ly     : BitVec 8
  tasks  : List Task                -- slots as the image names them, here and in every slot field
  spad   : Mem                      -- addresses relative to the share
  marks  : List Nat
  lt     : LTile
  eng    : List (Nat × Engine)      -- commands of this logical tile, by engine
  mq     : List MItem
  sq     : List SRun
  ops    : List Op                  -- operations not yet performed, in program order
  deriving DecidableEq, Repr

/-- A snapshot of a region: its tiles, its circuits' caught tokens, the versions its writes hold open, each with its frame's history, and
the context slots of its syntax jobs, by engine and slot (R231, R323). -/
structure Snapshot where
  graph  : BitVec 32
  desc   : BitVec 512
  opens  : List (FrameKey × Nat × Ver)
  tiles  : List TileSnap
  caught : List (BitVec 16 × List Token)
  ctxs   : List (Nat × Nat × SynCtx)
  deriving DecidableEq, Repr

/-! ## Regions -/

/-- A region: the placed graph, its constants, circuits, counters and recovery state (R60, R316, R318, R366). -/
structure Region where
  key    : Nat
  id     : BitVec 16
  part   : PartId
  gen    : BitVec 32
  st     : RegSt
  graph  : BitVec 32
  gw     : Nat                      -- logical width and height
  gh     : Nat
  fold   : BitVec 2
  seed   : DWord                    -- Philox key
  alpha  : Lane
  beta   : Lane
  bound  : Lane
  desc   : BitVec 512               -- launch descriptor
  prio   : BitVec 2 := 0            -- launch queue it came from
  ctxIpa : DWord                    -- context area
  binds  : List Bind
  circs  : List Circuit
  image  : List ImgRec              -- the shadow planes: the records that apply
  born   : Nat := 0                 -- cycle of the commit, or of the last restore
  own    : Nat := 0                 -- own cycles up to `ownAt` (R316)
  ownAt  : Nat := 0
  quant0 : Nat := 0                 -- own-cycle count at which the quantum began
  prog0  : Nat := 0                 -- own-cycle count of the last progress
  told   : Bool := false            -- a PROGRESS event is out for the present stop
  ck0    : Nat := 0                 -- own-cycle count at the last checkpoint
  ckpt   : Option Snapshot := none
  prov   : List (FrameKey × Nat × Nat) := []  -- versions it has created provisionally or left open with poison, each with its frame's history
  defer  : List Reclaim := []
  undo   : List Undo := []          -- newest first
  ext    : Bool := false            -- an external act stands in the interval
  plain  : Bool := false            -- a plain write stands in the interval
  rolled : Bool := false            -- a rollback since the last checkpoint
  ckReq  : Bool := false            -- a checkpoint is due
  rbReq  : Bool := false            -- a rollback cause stands
  preReq : Bool := false            -- a pre-emption waits
  marks  : Bool := false            -- the markers of the freeze under way are sent (R322)
  outer  : List (Nat × Nat) := []   -- runs of HBM bytes that other parties have written in the interval: first byte and count (R357)
  deriving DecidableEq, Repr

/-! ## Partitions, faults, control space (R317, R337 to R351, R359 to R363, R374) -/

/-- A fault record or event (R359). -/
structure FaultRec where
  kind   : Byte
  gen    : BitVec 4 := 15
  sub    : BitVec 4 := 0
  part   : PartId := 0
  ly     : BitVec 8 := 0xFF
  lx     : BitVec 8 := 0xFF
  region : BitVec 16 := 0
  va     : DWord := 0
  ver    : BitVec 32 := 0
  vwin   : BitVec 16 := 0
  index  : BitVec 32 := 0
  aux    : BitVec 32 := 0
  c0     : BitVec 32 := 0
  c1     : BitVec 32 := 0
  c2     : BitVec 32 := 0
  c3     : BitVec 32 := 0
  c4     : BitVec 32 := 0
  word   : BitVec 32 := 0
  seq    : BitVec 32 := 0
  deriving DecidableEq, Repr

/-- What a record leaves stopped (R358, R362). -/
inductive Stopped where
  | engine (t : Nat) (e : EngineId)
  | memop (t : Nat) (id : Nat)
  | junction (t : Nat) (ph : BitVec 2) (j : BitVec 3)
  | syn (y : BitVec 3)
  | copy (id : Nat)
  | recompute (id : Nat)
  | spill (p : PartId)
  deriving DecidableEq, Repr

/-- A record that still stands stopped. -/
structure StopRec where
  seq  : BitVec 32
  kind : Byte
  what : Stopped
  rkey : Nat
  deriving DecidableEq, Repr

/-- A queued invalidation (R342). -/
inductive InvReq where
  | all
  | window (w : BitVec 16)
  | page (w : BitVec 16) (pg : BitVec 32)
  deriving DecidableEq, Repr

/-- A queued stage-2 invalidation (R338, R342). -/
structure S2Inv where
  part : PartId
  page : Option (BitVec 32)
  deriving DecidableEq, Repr

/-- A removal that DELSTAT shows busy (R351). -/
inductive DelReq where
  | region (w : BitVec 16) (b : Nat) (n : Nat)
  | slice (id : BitVec 16)
  deriving DecidableEq, Repr

/-- A partition: its page registers, queues and tables (R317, R337, R338, R361, R374). -/
structure Part where
  live   : Bool := false
  hart   : BitVec 3 := 0
  wtbase : DWord := 0
  slottab : DWord := 0
  pool   : DWord := 0
  pooln  : DWord := 0
  grptab : DWord := 0
  penctl : DWord := 0
  penspill : DWord := 0
  regcnt : DWord := 0
  delstat : BitVec 2 := 0
  del    : Option DelReq := none
  invq   : List InvReq := []        -- TLBSTAT.BUSY while not empty
  tlbErr : Bool := false
  fqbase : DWord := 0
  fqprod : BitVec 32 := 0
  fqcons : BitVec 32 := 0
  fqIE   : Bool := false
  refused : Bool := false           -- FQCTL.REFUSED
  ckctl  : DWord := 0
  stageHart : BitVec 512 := 0
  stageHost : BitVec 512 := 0
  lq     : Vector (List (BitVec 512)) 4 := Vector.replicate 4 []
  resume : Vector (List (BitVec 512)) 4 := Vector.replicate 4 []
  lqHeld : List (BitVec 2 × BitVec 512) := []   -- appends that wait for space
  commits : List DWord := []        -- commit requests that wait while an MIT's share is zero (R292)
  bar2   : List HostReq := []       -- host accesses through BAR2 that wait while an MIT's share is zero (R292)
  fq     : List FaultRec := []      -- the fault queue on the device, 64 entries at most (R361)
  fqHeld : List FaultRec := []      -- entries that wait for a place in it, oldest first
  seq    : BitVec 32 := 0           -- records numbered so far
  stops  : List StopRec := []
  frozen : Bool := false            -- frozen by a full fault queue (R361)
  s2root : DWord := 0
  authOut : DWord := 0
  authIn : DWord := 0
  deriving DecidableEq, Repr

/-! ## Edge units (R227 to R232, R348, R365, R371 to R381) -/

/-- A syntax engine (R229, R230, R349). -/
structure SynEng where
  owner : PartId := 0
  pend  : Option PartId := none     -- SYNPEND: the owner that waits for idle
  job   : Option SynJob := none
  queue : List SynJob := []
  ctx   : Vector SynCtx 4 := Vector.replicate 4 {}
  stop  : Option (BitVec 32) := none
  deriving DecidableEq, Repr

/-- States of a Wildom port (R379). -/
inductive PortSt where
  | down | training | up | degraded
  deriving DecidableEq, Repr

/-- What the device sends on a Wildom port (R350, R365). -/
structure OutFlit where
  id   : Nat
  srcDev : BitVec 18                -- this device's id, which the device stamps (R350)
  dev  : BitVec 18
  srcPart : PartId
  part : PartId
  body : FlitBody
  deriving DecidableEq, Repr

/-- A Wildom port (R365, R379). -/
structure WPort where
  en    : Bool := false
  st    : PortSt := .down
  lanes : BitVec 4 := 0
  retrain : BitVec 16 := 0
  retry : BitVec 32 := 0
  fails : Nat := 0                  -- failures in a row
  replay : List OutFlit := []       -- sent and not acknowledged, oldest first
  deriving DecidableEq, Repr

/-- What the device has sent to the host (R373). -/
inductive HostOut where
  | write (fn : HostFn) (pa : Nat) (data : List (Option Byte)) (ep : Bool)
  | read (fn : HostFn) (id pa len : Nat)
  | reply (h : HostReq) (data : List Byte)
  | unsupported (h : HostReq)
  | msix (fn : HostFn) (vec : BitVec 2)
  deriving DecidableEq, Repr

/-- What a hart has been given: data, an access fault, a stall, or a machine check (R338, R361, R374). -/
inductive HartOut where
  | data (hart : BitVec 3) (x : DWord)
  | accessFault (hart : BitVec 3)
  | stall (h : HartReq)
  | machineCheck (hart : BitVec 3)
  | resetHart0 (entry : DWord)
  | interrupt (hart : BitVec 3) (on : Bool)
  deriving DecidableEq, Repr

/-- What the device holds of a control core: whether it runs, the address it was started at, its virtual-supervisor external interrupt
(R361), and a machine check it is to take (R16, R361, R376; log 42). -/
structure Hart where
  runs  : Bool := false
  entry : DWord := 0
  vsei  : Bool := false
  mcheck : Bool := false
  deriving DecidableEq, Repr

/-! ## The device -/

/-- The unit that issues a word: a task, a matrix run or inline instruction, a stream run (R78, R199). -/
inductive UnitKind where
  | task | mrun | minl | srun
  deriving DecidableEq, Repr

/-- The issuer of the word in hand. -/
structure Ctx where
  tile : Nat := 0
  slot : SlotId := 0
  unit : UnitKind := .task
  deriving DecidableEq, Repr

/-- What happens at one turn: an event with its operands, or a unit of a tile executing its next word. -/
inductive Act where
  | event (i : Instr)
  | matrix (t : Nat)
  | stream (t : Nat)
  | tick
  | load (t : Nat) (p : PartId) (win : BitVec 16) (off : Nat)   -- the device loads translation entries by itself (R341)
  deriving DecidableEq, Repr

/-- A turn: fabric cycles that pass, then an act. -/
structure Turn where
  dt  : Nat
  act : Act
  deriving DecidableEq, Repr

/-- The device. -/
structure State where
  powered : Bool
  shut    : Bool                    -- the Shutter is raised (R368)
  cycle   : Nat                     -- fabric cycles since reset
  ctx     : Ctx
  live    : Bool                    -- a word is to be fetched and executed for `ctx`
  agenda  : List Turn               -- the turns to come, chosen outside the device
  freeCtr : Nat                     -- free values drawn (the model's own)
  newId   : Nat                     -- operation and access numbers given (the model's own)
  tiles   : List (Nat × Tile)
  regions : List Region
  vregs   : List VRegion
  slices  : List Slice
  frames  : List Frame
  rcReqs  : List RcReq
  ops     : List Op
  snaps   : List (PartId × DWord × Snapshot)   -- snapshots in context areas (R322)
  parts   : List (Nat × Part)
  tlb     : Vector (List TlbItem) 4 -- second-level TLB of each die (R341)
  hbm     : Mem                     -- contents of HBM by PA
  pq      : List (Nat × BitVec 4)   -- descriptors' PQ by block number, nonzero only, rising
  badBlk  : List Nat                -- blocks whose stored image fails its check (R283)
  prism   : Vector (Option (List Byte)) 8      -- programs of the physical Prism slots (R290, R348)
  prismMap : Vector (BitVec 16) 8
  prismPend : Vector (Option (BitVec 16)) 8     -- a change of a slot's owner that waits for its streams to finish (R348)
  syn     : Vector SynEng 8
  ownTab  : List (Nat × PartId)     -- owner of each tile, unowned tiles left out
  ownCmd  : Option OwnRect
  ownStat : BitVec 2
  s2q     : List S2Inv              -- S2STAT.BUSY while not empty
  scrub   : Option (Nat × Nat)      -- first granule and count; SCRUBSTAT.BUSY
  share   : List (Nat × DWord)      -- SHARE registers written, by offset
  mcValid : Bool                    -- MCSTAT
  mcPart  : PartId
  mcReason : Byte
  hbmce   : BitVec 32               -- CECNT
  sramce  : BitVec 32
  shutAuto : Bool                   -- SHUTCTL.AUTO
  stage   : BitVec 4                -- BOOTSTAT
  cause   : Byte
  monCode : BitVec 4
  devid   : BitVec 18
  vfmap   : DWord
  pwrcap  : Option (BitVec 16)      -- none: the rated power of the ordering code
  temp    : BitVec 16               -- THERM
  throt   : Bool
  wport   : Vector WPort 18
  peerIn  : List Flit               -- peers' requests that have come and are not authorized yet
  peerOpen : List (BitVec 18 × PartId × FrameKey × Nat)   -- versions that peers' writes hold open, by device and partition
  mfqbase : DWord                   -- monitor fault ring (R361)
  mfqprod : BitVec 32
  mfqcons : BitVec 32
  mfq     : List FaultRec           -- 64 entries at most
  mfqHeld : List FaultRec           -- entries that wait for a place in it
  mseq    : BitVec 32
  mstops  : List StopRec
  mfull   : Bool                    -- every partition is frozen by a full monitor ring
  flash   : Mem                     -- boot flash (R375)
  recov   : Option Mem              -- the image that the boot ROM is writing to flash at STAGE 7 (R378)
  harts   : Vector Hart 8
  readout : Option (BitVec 32 × Bool)   -- last word a Shutter readout gave, with its poison bit (R369)
  hostOut : List HostOut            -- sent to the host, oldest first
  hartOut : List HartOut            -- given to the harts, oldest first
  deriving DecidableEq, Repr

/-- The device right after reset (R7, R29, R281, R338, R361, R376 to R381): no tile holds a task or data, no partition is
live, HBM reads as zeros and every register holds its reset value. -/
def State.reset : State where
  powered := true
  shut := false
  cycle := 0
  ctx := {}
  live := false
  agenda := []
  freeCtr := 0
  newId := 0
  tiles := []
  regions := []
  vregs := []
  slices := []
  frames := []
  rcReqs := []
  ops := []
  snaps := []
  parts := []
  tlb := Vector.replicate 4 []
  hbm := []
  pq := []
  badBlk := []
  prism := Vector.replicate 8 none
  prismMap := Vector.replicate 8 0
  prismPend := Vector.replicate 8 none
  syn := Vector.replicate 8 {}
  ownTab := []
  ownCmd := none
  ownStat := 0
  s2q := []
  scrub := none
  share := []
  mcValid := false
  mcPart := 0
  mcReason := 0
  hbmce := 0
  sramce := 0
  shutAuto := false
  stage := 0
  cause := 0
  monCode := 0
  devid := 0
  vfmap := 0
  pwrcap := none
  temp := 0
  throt := false
  wport := Vector.replicate 18 {}
  peerIn := []
  peerOpen := []
  mfqbase := 0
  mfqprod := 0
  mfqcons := 0
  mfq := []
  mfqHeld := []
  mseq := 0
  mstops := []
  mfull := false
  flash := []
  recov := none
  harts := Vector.replicate 8 {}
  readout := none
  hostOut := []
  hartOut := []

/-- Why a step stops. -/
inductive Fault where
  /-- Raised by `step` when power has been removed after THERMTRIP (R381) and the next turn is no reset: nothing runs.
  Safe: the device does nothing then. -/
  | powerRemoved
  /-- Raised by `step` when the Shutter has stopped every functional clock (R368) and no turn is left: nothing runs.
  Safe: the device does nothing then. -/
  | clocksStopped
  deriving DecidableEq, Repr

/-- Why an instruction is refused. -/
inductive Refusal where
  /-- Raised by an arm of `exec` whose instruction has no meaning yet. Safe: no claim about it can be proved. -/
  | notModelled (mnemonic : String)
  deriving DecidableEq, Repr

end Sys2Proof.Machine
end

