-- ==== Sys2Proof/Machine/Mem.lean ====
section
/-! DEFINITION. Byte stores in canonical form, sorted sets of numbers, association lists, and the bit-field helpers of the meanings. -/
namespace Sys2Proof.Machine

/-! ## Byte stores

An unlisted address reads as 0: HBM reads as zeros after device reset (R281), and bytes that no record writes hold zero at
commit (R61). For the scratchpad before any commit this is a DESIGN CHOICE (log 9). -/

/-- What an unlisted address reads as. -/
def emptyByte : Byte := 0

/-- The byte at an address. -/
def memGet : Mem → Nat → Byte
  | [], _ => emptyByte
  | (b, y) :: r, a => if a = b then y else memGet r a

/-- Writes a byte, keeping the canonical form. -/
def memSet : Mem → Nat → Byte → Mem
  | [], a, x => if x = emptyByte then [] else [(a, x)]
  | (b, y) :: r, a, x =>
    if a < b then (if x = emptyByte then (b, y) :: r else (a, x) :: (b, y) :: r)
    else if a = b then (if x = emptyByte then r else (a, x) :: r)
    else (b, y) :: memSet r a x

/-- The canonical form holds from a lower bound on: addresses rise and no byte is the one an unlisted address reads as. -/
def memWfFrom : Nat → Mem → Bool
  | _, [] => true
  | lo, (a, x) :: r => decide (lo ≤ a) && x != emptyByte && memWfFrom (a + 1) r

/-- The canonical form. -/
def memWf (m : Mem) : Bool := memWfFrom 0 m

/-- n bytes from an address. -/
def memRead (m : Mem) (a : Nat) : Nat → List Byte
  | 0 => []
  | n + 1 => memGet m a :: memRead m (a + 1) n

/-- Writes bytes from an address up. -/
def memWrite (m : Mem) (a : Nat) : List Byte → Mem
  | [] => m
  | x :: xs => memWrite (memSet m a x) (a + 1) xs

/-- Writes those bytes that are present; an absent one keeps its place's contents. -/
def memWriteOpt (m : Mem) (a : Nat) : List (Option Byte) → Mem
  | [] => m
  | none :: xs => memWriteOpt m (a + 1) xs
  | some x :: xs => memWriteOpt (memSet m a x) (a + 1) xs

/-- The bytes of a range, at addresses relative to its start. -/
def memSlice (m : Mem) (lo hi : Nat) : Mem :=
  match m with
  | [] => []
  | (a, x) :: r => if lo ≤ a ∧ a < hi then (a - lo, x) :: memSlice r lo hi else memSlice r lo hi

/-- A store with a range cleared. -/
def memClear (m : Mem) (lo hi : Nat) : Mem :=
  match m with
  | [] => []
  | (a, x) :: r => if lo ≤ a ∧ a < hi then memClear r lo hi else (a, x) :: memClear r lo hi

/-- Writes every byte of a store at an offset. -/
def memMerge (m : Mem) (off : Nat) : Mem → Mem
  | [] => m
  | (a, x) :: r => memMerge (memSet m (off + a) x) off r

/-! ## Sorted sets of numbers and association lists -/

/-- Inserts into a rising list. -/
def setIns : List Nat → Nat → List Nat
  | [], a => [a]
  | b :: r, a => if a < b then a :: b :: r else if a = b then b :: r else b :: setIns r a

/-- Removes from a list. -/
def setDel : List Nat → Nat → List Nat
  | [], _ => []
  | b :: r, a => if a = b then r else b :: setDel r a

/-- Puts a number in or out of a rising list. -/
def setPut (l : List Nat) (a : Nat) (on : Bool) : List Nat := if on then setIns l a else setDel l a

/-- Puts n numbers from `a` on in or out. -/
def setPutN (l : List Nat) (a : Nat) : Nat → Bool → List Nat
  | 0, _ => l
  | n + 1, on => setPutN (setPut l a on) (a + 1) n on

/-- Membership in a list of numbers. -/
def setHas : List Nat → Nat → Bool
  | [], _ => false
  | b :: r, a => a == b || setHas r a

/-- The rising list holds no number of a range, or some. -/
def setAny (l : List Nat) (a n : Nat) : Bool := l.any fun x => decide (a ≤ x ∧ x < a + n)

/-- Looks a key up. -/
def alGet {α : Type} : List (Nat × α) → Nat → Option α
  | [], _ => none
  | (k, v) :: r, a => if a = k then some v else alGet r a

/-- Sets a key, in place where it is listed. -/
def alSet {α : Type} : List (Nat × α) → Nat → α → List (Nat × α)
  | [], a, x => [(a, x)]
  | (k, v) :: r, a, x => if a = k then (k, x) :: r else (k, v) :: alSet r a x

/-- Removes a key. -/
def alDel {α : Type} : List (Nat × α) → Nat → List (Nat × α)
  | [], _ => []
  | (k, v) :: r, a => if a = k then alDel r a else (k, v) :: alDel r a

/-! ## Instruction stores: words by index, rising, the zero word left out (R61) -/

/-- The word at an index. -/
def istGet : List (Nat × Lane) → Nat → Lane
  | [], _ => 0
  | (b, y) :: r, a => if a = b then y else istGet r a

/-- Writes a word. -/
def istSet : List (Nat × Lane) → Nat → Lane → List (Nat × Lane)
  | [], a, x => if x = 0 then [] else [(a, x)]
  | (b, y) :: r, a, x =>
    if a < b then (if x = 0 then (b, y) :: r else (a, x) :: (b, y) :: r)
    else if a = b then (if x = 0 then r else (a, x) :: r)
    else (b, y) :: istSet r a x

/-- Writes words from an index up. -/
def istWrite (m : List (Nat × Lane)) (a : Nat) : List Lane → List (Nat × Lane)
  | [] => m
  | x :: xs => istWrite (istSet m a x) (a + 1) xs

/-! ## Numbers and bit fields -/

/-- Numbers from `a` up, n of them. -/
def upFrom (a : Nat) : Nat → List Nat
  | 0 => []
  | n + 1 => a :: upFrom (a + 1) n

/-- Numbers 0 to n − 1. -/
def upTo (n : Nat) : List Nat := upFrom 0 n

/-- A field of a bit vector as a number (R28). -/
def bfld {n : Nat} (x : BitVec n) (hi lo : Nat) : Nat := fld x.toNat hi lo

/-- A bit of a bit vector. -/
def tbit {n : Nat} (x : BitVec n) (k : Nat) : Bool := x.toNat.testBit k

/-- A W-bit pattern read as two's complement (R149). -/
def sgn (w x : Nat) : Int := if x % 2 ^ w < 2 ^ (w - 1) then (x % 2 ^ w : Nat) else ((x % 2 ^ w : Nat) : Int) - (2 ^ w : Nat)

/-- The W-bit two's complement pattern of an integer. -/
def unsgn (w : Nat) (x : Int) : Nat := (x % ((2 ^ w : Nat) : Int)).toNat

/-- The n × 8-bit chunks of a number, low first. -/
def chunks (w : Nat) : Nat → Nat → List Nat
  | 0, _ => []
  | n + 1, x => x % 2 ^ w :: chunks w n (x / 2 ^ w)

/-- Chunks of w bits joined, low first. -/
def unchunk (w : Nat) : List Nat → Nat
  | [] => 0
  | x :: r => x % 2 ^ w + 2 ^ w * unchunk w r

/-- Number of ones among the low n bits. -/
def popN : Nat → Nat → Nat
  | 0, _ => 0
  | n + 1, x => x % 2 + popN n (x / 2)

/-- Position of the highest one plus one; 0 for zero. -/
def bitLen (x : Nat) : Nat := if x = 0 then 0 else x.log2 + 1

/-- A list cut to a length and filled up with a value. -/
def fit {α : Type} (d : α) : Nat → List α → List α
  | 0, _ => []
  | n + 1, [] => d :: fit d n []
  | n + 1, x :: r => x :: fit d n r

/-- A bit vector whose bit k is the k-th of a list of flags. -/
def packBits (n : Nat) (l : List Bool) : BitVec n := .ofNat n (unchunk 1 (l.map Bool.toNat))

/-- Groups of n from a list, the last maybe short; the fuel is the list's length. -/
def groupsOf {α : Type} (n : Nat) : Nat → List α → List (List α)
  | 0, _ => []
  | f + 1, l => if l.isEmpty then [] else l.take n :: groupsOf n f (l.drop n)

/-! ## Vectors -/

/-- An element of a vector by number, the default where there is none. -/
def vget {α : Type} {n : Nat} (v : Vector α n) (i : Nat) (d : α) : α := v.toList.getD i d

/-- A vector with an element replaced; unchanged where there is none. -/
def vset {α : Type} {n : Nat} (v : Vector α n) (i : Nat) (x : α) : Vector α n := v.setIfInBounds i x

end Sys2Proof.Machine
end

