-- ==== Sys2Proof/Machine/Frames.lean ====
section
/-! DEFINITION. Versioned regions, frames and their versions, the holds on a version and its retirement, and operations by number (R120 to R126, R298, R305). -/
namespace Sys2Proof.Machine

/-! ## Versioned regions (R120, R121) -/

/-- The registered region that holds a window offset, if any. -/
def State.vregOf (s : State) (p : PartId) (win : BitVec 16) (off : Nat) : Option VRegion :=
  s.vregs.find? fun r => r.part == p && r.win == win && decide (r.base * 4096 ≤ off ∧ off < (r.base + r.count) * 4096)
/-- A frame's key from a global address. -/
def frameOf (p : PartId) (va : VAddr) : FrameKey := ⟨p, .ofNat 16 (bfld va 79 64), .ofNat 36 (bfld va 47 12)⟩

/-! ## Frames and versions -/

/-- Version 0 as `fr.init` and INIT leave it: zeros, in no slot (R122). -/
def zeroVer : Ver := { v := 0, st := .resident }
/-- A frame as registration leaves it: at version 0 under INIT, else with no version (R120). -/
def State.newFrame (s : State) (k : FrameKey) : Frame :=
  if ((s.vregOf k.part k.win (k.fr.toNat * 4096)).map (·.init)).getD false then { key := k, newest := some 0, vers := [zeroVer] }
  else { key := k }
/-- A frame; one that nothing has named yet stands as registration leaves it. -/
def State.frame (s : State) (k : FrameKey) : Frame := (s.frames.find? fun f => f.key == k).getD (s.newFrame k)
/-- Replaces a frame. -/
def State.setFrame (s : State) (f : Frame) : State :=
  if s.frames.any fun g => g.key == f.key then { s with frames := s.frames.map fun g => if g.key = f.key then f else g }
  else { s with frames := s.frames ++ [f] }
/-- A version that a frame knows. -/
def Frame.ver (f : Frame) (v : Nat) : Option Ver := f.vers.find? fun x => x.v == v
/-- Puts a version into a rising list. -/
def putVer : List Ver → Ver → List Ver
  | [], x => [x]
  | y :: r, x => if x.v < y.v then x :: y :: r else if x.v = y.v then x :: r else y :: putVer r x
/-- Replaces a version of a frame. -/
def Frame.setVer (f : Frame) (x : Ver) : Frame := { f with vers := putVer f.vers x }
/-- Changes a version, an absent one where the frame knows none. -/
def Frame.modVer (f : Frame) (v : Nat) (g : Ver → Ver) : Frame := f.setVer (g ((f.ver v).getD { v := v, st := .absent }))
/-- Changes a version of a frame of the device. -/
def State.modVer (s : State) (k : FrameKey) (v : Nat) (g : Ver → Ver) : State := s.setFrame ((s.frame k).modVer v g)
/-- The open version of a frame. -/
def Frame.open_ (f : Frame) : Option Ver := f.vers.find? fun x => x.st == .opened
/-- The version that the next write names. -/
def Frame.next (f : Frame) : Nat := match f.newest with | none => 0 | some n => n + 1
/-- A live version: one in state 1 to 5 (R122). -/
def Ver.live (x : Ver) : Bool := x.st != .absent
/-- A version holds the one below it while it is open (R123). -/
def Frame.openAbove (f : Frame) (v : Nat) : Bool := match f.open_ with | some o => o.v == v + 1 | none => false
/-- State code of a version (R122): 5 below the reclaim point or under an open write, 6 for one that is gone. -/
def Frame.code (f : Frame) (v : Nat) : Nat :=
  match (f.ver v).map fun (x : Ver) => x.st with
  | some .opened => 1
  | some .resident => if v < f.recl || f.openAbove v then 5 else 2
  | some .spilled => if v < f.recl || f.openAbove v then 5 else 3
  | some .dropped => if v < f.recl || f.openAbove v then 5 else 4
  | _ => if v < f.next then 6 else 0

/-! ## Holds and retirement (R126, R298, R305) -/

/-- A deferred unpin of a region still keeps the version (R367). -/
def State.deferHeld (s : State) (k : FrameKey) (v : Nat) : Bool :=
  s.regions.any fun r => r.defer.any fun d => match d with | .unpin f u g => f == k && u == v && g == (s.frame k).gen | _ => false
/-- Something holds a version against retirement (R298): a recompute of the version itself does too (R305). -/
def State.heldVer (s : State) (f : Frame) (x : Ver) : Bool :=
  x.pins != 0 || x.rref != 0 || x.reads != 0 || x.refill != 0 || f.openAbove x.v || s.deferHeld f.key x.v ||
  s.rcReqs.any fun q => q.frame == f.key && q.v == x.v
/-- Changes a history of a frame that a deferred `fr.init` keeps (R367). -/
def State.modKept (s : State) (k : FrameKey) (gen : Nat) (h : Frame → Frame) : State :=
  { s with regions := s.regions.map fun (r : Region) => { r with defer := r.defer.map fun d =>
      match d with
      | .init f => if f.key = k ∧ f.gen = gen then .init (h f) else d
      | _ => d } }
/-- Changes a history of a frame, the one that stands or one that is kept. -/
def State.modHist (s : State) (k : FrameKey) (gen : Nat) (h : Frame → Frame) : State :=
  if (s.frame k).gen = gen then s.setFrame (h (s.frame k)) else s.modKept k gen h
/-- Lowers a recipe reference to a version of a history that is kept. -/
def State.lowerKept (s : State) (k : FrameKey) (v gen : Nat) : State :=
  s.modKept k gen fun f => { f with vers := f.vers.map fun (x : Ver) => if x.v = v then { x with rref := x.rref - 1 } else x }
/-- The references that an attached recipe holds: each source with the history of its frame. -/
def Recipe.refs (r : Recipe) : List ((FrameKey × Nat) × Nat) := r.srcs.zip r.gens
mutual
/-- Retires a version where it lies below the reclaim point and nothing holds it (R126). -/
def State.tryRetire : Nat → State → FrameKey → Nat → State
  | 0, s, _, _ => s
  | n + 1, s, k, v =>
    let f := s.frame k
    match f.ver v with
    | none => s
    | some x => if x.live && x.st != .opened && decide (v < f.recl) && !s.heldVer f x then State.retire n s k x else s
/-- Retires a version: it is gone, and its recipe releases its sources, which may retire in turn (R305). -/
def State.retire : Nat → State → FrameKey → Ver → State
  | 0, s, _, _ => s
  | n + 1, s, k, x =>
    let s1 := s.setFrame { s.frame k with vers := (s.frame k).vers.filter fun y => y.v != x.v }
    match x.recipe with
    | none => s1
    | some r => State.releaseSrcs n s1 r.refs
/-- Releases the recipe references of sources (R296, R305): a history that `fr.init` has ended since holds them only
where a checkpoint may bring it back (R126, R367). -/
def State.releaseSrcs : Nat → State → List ((FrameKey × Nat) × Nat) → State
  | 0, s, _ => s
  | _, s, [] => s
  | n + 1, s, ((k, v), gen) :: r =>
    if (s.frame k).gen ≠ gen then State.releaseSrcs n (s.lowerKept k v gen) r
    else if ((s.frame k).ver v).isNone then State.releaseSrcs n s r
    else State.releaseSrcs n (State.tryRetire n (s.modVer k v fun y => { y with rref := y.rref - 1 }) k v) r
end
/-- Bound on the chain of retirements that one may cause. -/
def retireFuel : Nat := 64
/-- Retires versions of a frame below its reclaim point, as far as nothing holds them. -/
def State.retireBelow (s : State) (k : FrameKey) : State :=
  ((s.frame k).vers.map (·.v)).foldl (fun s v => State.tryRetire retireFuel s k v) s
/-- Releases a recipe's references. -/
def State.releaseRecipe (s : State) (r : Option Recipe) : State :=
  match r with | none => s | some r => State.releaseSrcs retireFuel s r.refs

/-- Counts an accepted read (R124); the version may be absent or open yet. -/
def State.acceptRead (s : State) (k : FrameKey) (v : Nat) : State := s.modVer k v fun x => { x with reads := x.reads + 1 }
/-- An accepted read returns. -/
def State.returnRead (s : State) (k : FrameKey) (v : Nat) : State :=
  if ((s.frame k).ver v).isNone then s
  else State.tryRetire retireFuel (s.modVer k v fun x => { x with reads := x.reads - 1 }) k v

/-! ## Operations by number -/

/-- An operation by number. -/
def State.op (s : State) (id : Nat) : Option Op := s.ops.find? fun o => o.id == id
/-- Changes an operation. -/
def State.modOp (s : State) (id : Nat) (f : Op → Op) : State := { s with ops := s.ops.map fun o => if o.id = id then f o else o }
/-- Removes an operation. -/
def State.delOp (s : State) (id : Nat) : State := { s with ops := s.ops.filter fun o => o.id != id }
/-- Releases the versions that an operation's accepted reads hold, and removes it. -/
def State.endOp (s : State) (o : Op) : State :=
  (((s.op o.id).elim [] (·.held)).foldl (fun s (k, v) => s.returnRead k v) s).delOp o.id

end Sys2Proof.Machine
end

