-- ==== Sys2Proof/Machine/Ops.lean ====
section
/-! DEFINITION. The shared operations of the meanings: access to tiles, tasks, regions and partitions, fault records and events, parking, trapping and advancing, the scratchpad, the ports, and operations on their way. -/
namespace Sys2Proof.Machine

/-- The outcomes of a step of this machine. -/
abbrev Out := Host.Outcome State Fault Refusal

/-! ## Access by number -/

/-- A physical tile; one that nothing has written holds the default (R9). -/
def State.tile (s : State) (t : Nat) : Tile := (alGet s.tiles t).getD {}
/-- Replaces a tile. -/
def State.setTile (s : State) (t : Nat) (x : Tile) : State := { s with tiles := alSet s.tiles t x }
/-- Changes a tile. -/
def State.modTile (s : State) (t : Nat) (f : Tile → Tile) : State := s.setTile t (f (s.tile t))

/-- A task slot of a tile. -/
def State.task (s : State) (t : Nat) (k : SlotId) : Task := vget (s.tile t).tasks k.toNat {}
/-- Replaces a task. -/
def State.setTask (s : State) (t : Nat) (k : SlotId) (x : Task) : State :=
  s.modTile t fun y => { y with tasks := vset y.tasks k.toNat x }
/-- Changes a task. -/
def State.modTask (s : State) (t : Nat) (k : SlotId) (f : Task → Task) : State := s.setTask t k (f (s.task t k))

/-- The logical tile that a fold phase of a tile holds. -/
def State.lt (s : State) (t : Nat) (ph : BitVec 2) : LTile := vget (s.tile t).ph ph.toNat {}
/-- Replaces a logical tile. -/
def State.setLt (s : State) (t : Nat) (ph : BitVec 2) (x : LTile) : State :=
  s.modTile t fun y => { y with ph := vset y.ph ph.toNat x }
/-- Changes a logical tile. -/
def State.modLt (s : State) (t : Nat) (ph : BitVec 2) (f : LTile → LTile) : State := s.setLt t ph (f (s.lt t ph))

/-- A stream engine or recompute context of a tile. -/
def Tile.engine (x : Tile) : EngineId → Engine
  | .eng e => vget x.eng e.toNat {}
  | .rcRead => x.rcRead
  | .rcWrite => x.rcWrite
/-- Replaces a stream engine. -/
def Tile.setEngine (x : Tile) (e : EngineId) (v : Engine) : Tile :=
  match e with
  | .eng i => { x with eng := vset x.eng i.toNat v }
  | .rcRead => { x with rcRead := v }
  | .rcWrite => { x with rcWrite := v }
/-- A stream engine. -/
def State.engine (s : State) (t : Nat) (e : EngineId) : Engine := (s.tile t).engine e
/-- Replaces a stream engine. -/
def State.setEngine (s : State) (t : Nat) (e : EngineId) (v : Engine) : State := s.modTile t fun x => x.setEngine e v
/-- The engines of a tile, the recompute contexts last. -/
def allEngines : List EngineId :=
  [.eng 0, .eng 1, .eng 2, .eng 3, .eng 4, .eng 5, .eng 6, .eng 7, .rcRead, .rcWrite]

/-- A partition's page, queues and tables. -/
def State.part (s : State) (p : PartId) : Part := (alGet s.parts p.toNat).getD {}
/-- Replaces a partition. -/
def State.setPart (s : State) (p : PartId) (x : Part) : State := { s with parts := alSet s.parts p.toNat x }
/-- Changes a partition. -/
def State.modPart (s : State) (p : PartId) (f : Part → Part) : State := s.setPart p (f (s.part p))

/-- A region by its table key. -/
def State.region (s : State) (key : Nat) : Option Region := s.regions.find? fun r => r.key == key
/-- Changes a region. -/
def State.modRegion (s : State) (key : Nat) (f : Region → Region) : State :=
  { s with regions := s.regions.map fun r => if r.key = key then f r else r }

/-- The tile number of a physical column and row (R5). -/
def tileNo (px py : Nat) : Nat := 48 * py + px

/-! ## The issuer -/

/-- The task on whose behalf the word in hand runs. -/
def State.cur (s : State) : Task := s.task s.ctx.tile s.ctx.slot
/-- Changes that task. -/
def State.modCur (s : State) (f : Task → Task) : State := s.modTask s.ctx.tile s.ctx.slot f
/-- The logical tile it runs on. -/
def State.curLt (s : State) : LTile := s.lt s.ctx.tile s.cur.phase
/-- Changes that logical tile. -/
def State.modCurLt (s : State) (f : LTile → LTile) : State := s.modLt s.ctx.tile s.cur.phase f
/-- The issuer is the recompute task (R303). -/
def State.rcTask (s : State) : Bool := s.ctx.slot == 15

/-- A g register of the issuer. -/
def State.g (s : State) (r : BitVec 4) : GReg := vget s.cur.g r.toNat {}
/-- Writes a value to a g register: it becomes full (R48). -/
def State.setG (s : State) (r : BitVec 4) (x : DWord) : State :=
  s.modCur fun k => { k with g := vset k.g r.toNat { val := x, st := .full } }
/-- Marks a g register pending or empty (R48). -/
def State.markG (s : State) (r : BitVec 4) (st : FE) : State :=
  s.modCur fun k => { k with g := vset k.g r.toNat { val := (vget k.g r.toNat {}).val, st := st } }
/-- A b register. -/
def State.b (s : State) (r : BitVec 3) : VAddr := vget s.cur.b r.toNat 0
/-- Writes a b register. -/
def State.setB (s : State) (r : BitVec 3) (x : VAddr) : State := s.modCur fun k => { k with b := vset k.b r.toNat x }
/-- An m register. -/
def State.m (s : State) (r : BitVec 2) : BitVec 16 := vget s.cur.m r.toNat 0
/-- Writes an m register. -/
def State.setM (s : State) (r : BitVec 2) (x : BitVec 16) : State := s.modCur fun k => { k with m := vset k.m r.toNat x }
/-- A w register. -/
def State.w (s : State) (r : BitVec 3) : Token := vget s.cur.w r.toNat {}
/-- Writes a w register. -/
def State.setW (s : State) (r : BitVec 3) (x : Token) : State := s.modCur fun k => { k with w := vset k.w r.toNat x }

/-! ## Numbers and free values -/

/-- Draws a free value (log 3). -/
def State.draw (s : State) : DWord × State := (Config.freeWord s.freeCtr, { s with freeCtr := s.freeCtr + 1 })
/-- Draws free bytes (log 3). -/
def State.drawBytes (s : State) : Nat → List Byte × State
  | 0 => ([], s)
  | n + 1 => let (x, s1) := s.draw; let (l, s2) := s1.drawBytes n; (x.setWidth 8 :: l, s2)
/-- Draws a free choice (log 3). -/
def State.drawBit (s : State) : Bool × State := (Config.freeBit s.freeCtr, { s with freeCtr := s.freeCtr + 1 })
/-- A number for an operation or access. -/
def State.fresh (s : State) : Nat × State := (s.newId, { s with newId := s.newId + 1 })

/-! ## Shares of a fold phase (R321) -/

/-- Bytes of scratchpad of one phase. -/
def shareBytes (fold : BitVec 2) : Nat := 0x7_8000 / 2 ^ fold.toNat
/-- Words of instruction store of one phase. -/
def shareWords (fold : BitVec 2) : Nat := 8192 / 2 ^ fold.toNat
/-- Instruction limit L of a task (R35, R303). -/
def instrLimit (fold : BitVec 2) (rc : Bool) : Nat := if rc then 2048 else shareWords fold
/-- L of the issuer. -/
def State.limit (s : State) : Nat := instrLimit (s.tile s.ctx.tile).fold s.rcTask

/-! ## Regions: own cycles and progress (R316) -/

/-- A region's sequencers, engines and junctions run: it is live and its partition is not frozen (R322, R361). -/
def State.regionRuns (s : State) (key : Nat) : Bool :=
  match s.region key with
  | none => false
  | some r => (match r.st with | .live => true | _ => false) && !(s.part r.part).frozen && !s.mfull

/-- Own cycles of a region. -/
def Region.ownNow (r : Region) (runs : Bool) (cycle : Nat) : Nat := if runs then r.own + (cycle - r.ownAt) else r.own
/-- Own cycles of a region as it stands. -/
def State.ownNow (s : State) (r : Region) : Nat := r.ownNow (s.regionRuns r.key) s.cycle
/-- Brings a region's own-cycle count up to date, before it starts or stops running. -/
def State.settle (s : State) (key : Nat) : State :=
  match s.region key with
  | none => s
  | some r => let n := s.ownNow r; s.modRegion key fun r => { r with own := n, ownAt := s.cycle }
/-- Settles every region of a partition, or of all. -/
def State.settleAll (s : State) : State := (s.regions.map (·.key)).foldl (fun s k => s.settle k) s
/-- Records progress of a region (R316). -/
def State.progress (s : State) (key : Nat) : State :=
  match s.region key with
  | none => s
  | some r => let n := s.ownNow r; s.modRegion key fun r => { r with prog0 := n, told := false }
/-- Records progress of the region on a fold phase. -/
def State.progressAt (s : State) (t : Nat) (ph : BitVec 2) : State := s.progress (s.lt t ph).key

/-! ## Fault records and events (R359 to R361) -/

/-- A number as a 32-bit field. -/
def w32 (n : Nat) : BitVec 32 := .ofNat 32 n
/-- A number as a 64-bit value. -/
def w64 (n : Nat) : DWord := .ofNat 64 n

/-- Raises a machine check on a partition (R361): it is held in MCSTAT, the partition's hart takes it, and under SHUTCTL.AUTO
the Shutter rises (R368). -/
def State.machineCheck (s : State) (p : PartId) (reason : Nat) : State :=
  let h := (s.part p).hart
  { s with mcValid := true, mcPart := p, mcReason := .ofNat 8 reason,
           harts := vset s.harts h.toNat { vget s.harts h.toNat {} with mcheck := true },
           hartOut := s.hartOut ++ [.machineCheck h],
           shut := s.shut || s.shutAuto }
/-- A ring of entries is full: PROD − CONS = 2^LOG2N (R361). -/
def ringFull (base : DWord) (prod cons : BitVec 32) : Bool := decide ((prod - cons).toNat = 2 ^ bfld base 4 0)
/-- LOG2N is in range (R361). -/
def ringOk (base : DWord) : Bool := decide (6 ≤ bfld base 4 0 ∧ bfld base 4 0 ≤ 20)
/-- Freezes every region of a partition (R361). -/
def State.freezePart (s : State) (p : PartId) : State := s.settleAll.modPart p fun x => { x with frozen := true }
/-- A queue of 64 entries, and the entries that wait for a place in it: an entry arrives (R361). -/
def fqPush (l : List FaultRec × List FaultRec) (r : FaultRec) : List FaultRec × List FaultRec :=
  if l.1.length < 64 then (l.1 ++ [r], l.2) else (l.1, l.2 ++ [r])
/-- The oldest entry leaves, and the first that waits takes its place. -/
def fqPop (l : List FaultRec × List FaultRec) : List FaultRec × List FaultRec := (l.1.tail ++ l.2.take 1, l.2.drop 1)
/-- Posts a record or event to a partition's fault queue with the next sequence number, which it answers (R359, R361). -/
def State.post (s : State) (p : PartId) (r : FaultRec) : BitVec 32 × State :=
  let x := s.part p
  let n := x.seq + 1
  let q := fqPush (x.fq, x.fqHeld) { r with part := p, seq := n }
  let s1 := s.setPart p { x with fq := q.1, fqHeld := q.2, seq := n }
  if 64 ≤ x.fq.length ∧ ringFull x.fqbase x.fqprod x.fqcons then (n, (s1.freezePart p).machineCheck p 1) else (n, s1)
/-- Posts a STAGE2 record to the monitor's queue (R340, R361). -/
def State.postMon (s : State) (p : PartId) (r : FaultRec) : BitVec 32 × State :=
  let n := s.mseq + 1
  let q := fqPush (s.mfq, s.mfqHeld) { r with part := p, seq := n }
  let s1 := { s with mfq := q.1, mfqHeld := q.2, mseq := n }
  if 64 ≤ s.mfq.length ∧ ringFull s.mfqbase s.mfqprod s.mfqcons then
    (n, ({ s1.settleAll with mfull := true }).machineCheck p 4)
  else (n, s1)
/-- Posts a record of any kind where it belongs: a STAGE2 fault to the monitor, every other to the partition (R358). -/
def State.postAny (s : State) (p : PartId) (r : FaultRec) : BitVec 32 × State :=
  if r.kind = 0x09 then s.postMon p r else s.post p r
/-- Notes that a record leaves a unit stopped (R362). -/
def State.addStop (s : State) (p : PartId) (r : StopRec) : State :=
  if r.kind = 0x09 then { s with mstops := s.mstops ++ [r] } else s.modPart p fun x => { x with stops := x.stops ++ [r] }
/-- The record fields that name a logical tile and its region (R359). -/
def State.recAt (s : State) (t : Nat) (ph : BitVec 2) (r : FaultRec) : FaultRec :=
  let x := s.lt t ph
  if x.placed then
    { r with ly := x.ly, lx := x.lx, region := ((s.region x.key).map (·.id)).getD 0 }
  else r
/-- The partition that a logical tile works for. -/
def State.partAt (s : State) (t : Nat) (ph : BitVec 2) : PartId :=
  ((s.region (s.lt t ph).key).map (·.part)).getD 0
/-- The partition of the issuer: of the recompute it runs, or of its region (R302, R382). -/
def State.curPart (s : State) : PartId :=
  if s.rcTask then ((s.tile s.ctx.tile).rc.map (·.part)).getD 0 else s.partAt s.ctx.tile s.cur.phase

/-! ## The recompute task's end by a fault (R304) -/

/-- Clears slot 15 of a tile and every resource private to it (R303, R304). -/
def Tile.clearRc (x : Tile) : Tile :=
  { x with tasks := vset x.tasks 15 {}, rc := none, rcRead := {}, rcWrite := {}, rc6 := [], rc7 := [], rcGetw6 := [], rcGetw7 := [], rcMat := {},
           vpipe := x.vpipe.filter fun o => o.slot != 15, ll := x.ll.filter fun o => o.slot != 15,
           mq := x.mq.filter fun o => o.slot != 15, sq := x.sq.filter fun o => o.slot != 15 }
/-- Drops the operations of a task that are on their way: the holds of their accepted reads end (R124, R304). -/
def State.dropOps (s : State) (t : Nat) (k : SlotId) : State :=
  let mine := s.ops.filter fun o => o.tile == t && o.slot == k
  (mine.foldl State.endOp s).modTile t fun x => { x with memq := x.memq.filter fun i => !setHas (mine.map (·.id)) i }
/-- Drops the syntax jobs that slot 15 of a tile has issued (R304, R351). -/
def State.dropRcJobs (s : State) (t : Nat) : State :=
  let keep := fun (j : SynJob) => !(j.tile == t && j.e == .rcRead)
  { s with syn := s.syn.map fun (g : SynEng) => { g with job := g.job.filter keep, queue := g.queue.filter keep, stop := if (g.job.filter keep).isSome then g.stop else none } }
/-- Ends slot 15's work on a tile: its operations and syntax jobs are cancelled, and its state is cleared (R304). -/
def State.endRc (s : State) (t : Nat) : State := ((s.dropOps t 15).dropRcJobs t).modTile t Tile.clearRc
/-- Ends the recompute of a tile with one record, RECOMP_TRAP or RECOMP_WRITE (R304): its request is held until the record is resolved. -/
def State.rcFault (s : State) (t : Nat) (kind : Byte) (cause fkind : Nat) : State :=
  match (s.tile t).rc with
  | none => s.endRc t
  | some c =>
    let (n, s1) := s.post c.part (s.recAt t (s.task t 15).phase {
      kind := kind, gen := 14, sub := 15, ver := w32 c.v, vwin := c.frame.win,
      va := w64 (c.frame.fr.toNat * 4096), aux := if kind = 0x1E then w32 (cause + 256 * fkind) else 0 })
    let s2 := s1.endRc t
    match s2.rcReqs.find? fun q => q.running && q.on == some t with
    | none => s2
    | some q =>
      let s3 : State := { s2 with rcReqs := s2.rcReqs.map fun (z : RcReq) => if z.id = q.id then { z with running := false, held := some n } else z }
      s3.addStop c.part { seq := n, kind := kind, what := .recompute q.id, rkey := 0 }

/-! ## Parking, trapping and advancing (R32, R85, R312, R313) -/

/-- Takes a trap in a task: TCAUSE, TPC and TVAL are set unless a trap is held already, the task is trapped, and a TRAP event is
posted (R85, R360); in slot 15 the recompute ends instead (R304). -/
def State.trapTask (s : State) (t : Nat) (k : SlotId) (cause field : Nat) (pc : Nat) (tval : DWord) (c0 c1 : BitVec 32) : State :=
  if k = 15 then s.rcFault t 0x1E cause 0
  else
    let x := s.task t k
    let held := bfld x.tcause 7 0 != 0
    let y := if held then { x with st := .trapped, mark := none }
      else { x with st := .trapped, mark := none, tcause := w64 (cause + 256 * field), tpc := w64 (pc % 8192), tval := tval }
    let s1 := s.setTask t k y
    (s1.post (s.partAt t x.phase) (s.recAt t x.phase
      { kind := 0x80, gen := 15, sub := x.img, va := y.tval, word := w32 (bfld y.tpc 12 0), c0 := c0, c1 := c1,
        aux := w32 (bfld y.tcause 12 0 + if held then 65536 * cause else 0) })).2

/-- Abandons the run in hand of a unit and records it with its task (R78). -/
def abandon (a : Aband) (x : Task) : Task := { x with aband := x.aband ++ [a] }

/-- The word in hand parks: a task parks with the reason; a unit waits and tries again (R78, R313). -/
def park (s : State) (r : Park) : State :=
  match s.ctx.unit with
  | .task => s.modCur fun k => { k with st := .parked r }
  | _ => s
/-- The word in hand traps (R85): a task traps, an inline matrix instruction traps its task (R199), a run is abandoned (R78). -/
def trapC (s : State) (cause field : Nat) (tval : DWord) (c0 c1 : BitVec 32) : State :=
  let t := s.ctx.tile
  match s.ctx.unit with
  | .task => s.trapTask t s.ctx.slot cause field s.cur.pc tval c0 c1
  | .minl => (s.modTile t fun x => { x with mq := x.mq.tail }).trapTask t s.ctx.slot cause field s.cur.pc tval c0 c1
  | .mrun =>
    match (s.tile t).mq with
    | [] => s
    | i :: r => (s.modTile t fun x => { x with mq := r }).modCur (abandon ⟨.matrix, i.pc + i.pos, cause, field⟩)
  | .srun =>
    match (s.tile t).sq with
    | [] => s
    | i :: r => (s.modTile t fun x => { x with sq := r }).modCur (abandon ⟨.stream, i.pc + 4 * i.pos, cause, field⟩)
/-- The word in hand traps with no counters. -/
def trap (s : State) (cause field : Nat) (tval : DWord) : State := trapC s cause field tval 0 0

/-- Moves the matrix unit past the word of its run, ending the run after its last word. -/
def MItem.past (i : MItem) : Option MItem := if i.pos + 1 < i.count then some { i with pos := i.pos + 1, acr := none, prog := {} } else none
/-- Moves the stream unit past the command of its run. -/
def SRun.past (i : SRun) : Option SRun := if i.pos + 1 < i.count then some { i with pos := i.pos + 1, mark := none } else none

/-- The word in hand issues and completes: the program counter moves by n words and the task is ready again (R35, R312); an inline
matrix instruction completes and readies its task; a run moves on to its next word. -/
def advance (s : State) (n : Nat) : State :=
  let t := s.ctx.tile
  match s.ctx.unit with
  | .task => s.modCur fun k => { k with st := .ready, pc := k.pc + n, mark := none }
  | .minl => (s.modTile t fun x => { x with mq := x.mq.tail }).modCur fun k => { k with st := .ready, pc := k.pc + 1, mark := none }
  | .mrun => s.modTile t fun x => { x with mq := match x.mq with | [] => [] | i :: r => i.past.toList ++ r }
  | .srun => s.modTile t fun x => { x with sq := match x.sq with | [] => [] | i :: r => i.past.toList ++ r }
/-- The task goes on at a word index, or traps BAD_TARGET where it lies outside 0 to L − 1 (R35, R39). -/
def jump (s : State) (target : Int) : State :=
  if 0 ≤ target ∧ target < s.limit then s.modCur fun k => { k with st := .ready, pc := target.toNat, mark := none }
  else trap s 4 0 (.ofInt 64 target)

/-! ## The scratchpad (R63, R65, R321) -/

/-- Byte range a to a + n − 1 lies in the legal range of a task; the recompute area is slot 15's alone (R63). -/
def spOk (fold : BitVec 2) (rc : Bool) (a n : Nat) : Bool :=
  decide (a + n ≤ shareBytes fold) || (rc && (decide (0x7_8000 ≤ a ∧ a + n ≤ 0x8_0000) || (fold == 0 && decide (a + n ≤ 0x8_0000))))
/-- Byte range that slot 15 may store to (R303); every legal byte for the others. -/
def spStOk (fold : BitVec 2) (rc : Bool) (a n : Nat) : Bool :=
  if rc then decide (0x7_A000 ≤ a ∧ a + n ≤ 0x8_0000) else spOk fold rc a n
/-- The physical byte address of a task's address (R321). -/
def spAddr (fold ph : BitVec 2) (a : Nat) : Nat := if 0x7_8000 ≤ a then a else ph.toNat * shareBytes fold + a

/-- The physical address of an address of the issuer. -/
def State.spa (s : State) (a : Nat) : Nat := spAddr (s.tile s.ctx.tile).fold s.cur.phase a
/-- The issuer may load n bytes from an address. -/
def State.spLd (s : State) (a n : Nat) : Bool := spOk (s.tile s.ctx.tile).fold s.rcTask a n
/-- The issuer may store n bytes to an address. -/
def State.spSt (s : State) (a n : Nat) : Bool := spStOk (s.tile s.ctx.tile).fold s.rcTask a n
/-- n bytes of the issuer's scratchpad. -/
def State.sp (s : State) (a n : Nat) : List Byte := memRead (s.tile s.ctx.tile).spad (s.spa a) n
/-- n bytes as a little-endian number (R28). -/
def State.spN (s : State) (a n : Nat) : Nat := leNat (s.sp a n)
/-- A word of n bytes from an address bears a poison mark; marks are kept at the word's byte address (R65). -/
def State.spMarked (s : State) (a n : Nat) : Bool :=
  let p := s.spa a
  setAny (s.tile s.ctx.tile).marks (p / 4 * 4) (p % 4 + n)
/-- The mark of one word. -/
def State.spMark (s : State) (a : Nat) : Bool := setHas (s.tile s.ctx.tile).marks (s.spa a / 4 * 4)
/-- Stores bytes to the issuer's scratchpad. -/
def State.spPut (s : State) (a : Nat) (d : List Byte) : State :=
  let p := s.spa a
  s.modTile s.ctx.tile fun x => { x with spad := memWrite x.spad p d }
/-- Sets or clears the mark of one word. -/
def State.spSetMark (s : State) (a : Nat) (on : Bool) : State :=
  let p := s.spa a / 4 * 4
  s.modTile s.ctx.tile fun x => { x with marks := setPut x.marks p on }
/-- Stores n bytes of a number and clears the marks of the words it writes, where it writes whole words (R65). -/
def State.spStore (s : State) (a n : Nat) (v : Nat) : State :=
  let s1 := s.spPut a (leBytes n v)
  if n = 4 then s1.spSetMark a false else if n = 8 then (s1.spSetMark a false).spSetMark (a + 4) false else s1

/-! ## Ports (R91, R92, R95, R303) -/

/-- A port of slot 15 by number: o6 delivers to i6 and o7 to i7 (R303). -/
def rcPort (p : BitVec 3) : Bool := p == 6 || p == 7
/-- The head of an input port as an instruction or engine of a task sees it: none while a getw waits for it (R75, R91). -/
def State.headOf (s : State) (t : Nat) (k : SlotId) (ph : BitVec 2) (p : BitVec 3) : Option Token :=
  if k = 15 then
    if (if p = 6 then (s.tile t).rcGetw6 else (s.tile t).rcGetw7).isEmpty then
      match if p = 6 then (s.tile t).rc6 else (s.tile t).rc7 with
      | .tok x :: _ => some x
      | _ => none
    else none
  else
    let q := vget (s.lt t ph).inP p.toNat {}
    if q.getws.isEmpty then q.fifo.head? else none
/-- Removes that head. -/
def State.popOf (s : State) (t : Nat) (k : SlotId) (ph : BitVec 2) (p : BitVec 3) : State :=
  if k = 15 then s.modTile t fun x => if p = 6 then { x with rc6 := x.rc6.tail } else { x with rc7 := x.rc7.tail }
  else s.modLt t ph fun x =>
    let q := vget x.inP p.toNat {}
    { x with inP := vset x.inP p.toNat { q with fifo := q.fifo.tail } }
/-- Puts tokens back at the head of an input port, in their order (R213). -/
def State.unpopOf (s : State) (t : Nat) (k : SlotId) (ph : BitVec 2) (p : BitVec 3) (l : List Token) : State :=
  if k = 15 then s.modTile t fun x => if p = 6 then { x with rc6 := l.map .tok ++ x.rc6 } else { x with rc7 := l.map .tok ++ x.rc7 }
  else s.modLt t ph fun x =>
    let q := vget x.inP p.toNat {}
    { x with inP := vset x.inP p.toNat { q with fifo := l ++ q.fifo } }
/-- Places of an output port that are reserved or filled. -/
def State.outLen (s : State) (t : Nat) (k : SlotId) (ph : BitVec 2) (p : BitVec 3) : Nat :=
  if k = 15 then (if p = 6 then (s.tile t).rc6 else (s.tile t).rc7).length
  else (vget (s.lt t ph).outP p.toNat {}).fifo.length
/-- An output port has a free slot (R91). -/
def State.spaceOf (s : State) (t : Nat) (k : SlotId) (ph : BitVec 2) (p : BitVec 3) : Bool := decide (s.outLen t k ph p < 4)
/-- Appends a place to an output port: a pushed token, or a slot reserved at issue (R171). -/
def State.pushOf (s : State) (t : Nat) (k : SlotId) (ph : BitVec 2) (p : BitVec 3) (x : OSlot) : State :=
  if k = 15 then s.modTile t fun y => if p = 6 then { y with rc6 := y.rc6 ++ [x] } else { y with rc7 := y.rc7 ++ [x] }
  else s.modLt t ph fun y =>
    let q := vget y.outP p.toNat {}
    { y with outP := vset y.outP p.toNat { q with fifo := q.fifo ++ [x] } }
/-- Fills the first reserved place of a FIFO. -/
def fillFirst (x : Token) : List OSlot → List OSlot
  | [] => []
  | .reserved :: r => .tok x :: r
  | y :: r => y :: fillFirst x r
/-- Fills the first reserved slot of an output port (R171). -/
def State.fillOf (s : State) (t : Nat) (k : SlotId) (ph : BitVec 2) (p : BitVec 3) (x : Token) : State :=
  if k = 15 then s.modTile t fun y => if p = 6 then { y with rc6 := fillFirst x y.rc6 } else { y with rc7 := fillFirst x y.rc7 }
  else s.modLt t ph fun y =>
    let q := vget y.outP p.toNat {}
    { y with outP := vset y.outP p.toNat { q with fifo := fillFirst x q.fifo } }

/-- Head, removal, free slot and push, for the issuer. -/
def State.head (s : State) (p : BitVec 3) : Option Token := s.headOf s.ctx.tile s.ctx.slot s.cur.phase p
/-- Removes the head. -/
def State.pop (s : State) (p : BitVec 3) : State := s.popOf s.ctx.tile s.ctx.slot s.cur.phase p
/-- Puts heads back. -/
def State.unpopAll (s : State) (p : BitVec 3) (l : List Token) : State := s.unpopOf s.ctx.tile s.ctx.slot s.cur.phase p l
/-- A free slot. -/
def State.space (s : State) (p : BitVec 3) : Bool := s.spaceOf s.ctx.tile s.ctx.slot s.cur.phase p
/-- Pushes a token. -/
def State.push (s : State) (p : BitVec 3) (x : Token) : State := s.pushOf s.ctx.tile s.ctx.slot s.cur.phase p (.tok x)
/-- Reserves a slot. -/
def State.reserve (s : State) (p : BitVec 3) : State := s.pushOf s.ctx.tile s.ctx.slot s.cur.phase p .reserved

/-- A doubleword of the PCB. -/
def CmdRun.dw (r : CmdRun) (k : Nat) : Nat := (vget r.pcb k 0).toNat
/-- Iterations of dimension k; an absent one counts as 1 (R97). -/
def CmdRun.cnt (r : CmdRun) (k : Nat) : Nat := max 1 (fld (r.dw k) 59 40)
/-- Elements of the whole pattern. -/
def CmdRun.area (r : CmdRun) : Nat := r.cnt 0 * r.cnt 1 * r.cnt 2 * r.cnt 3
/-- Elements of the command: fewer where an end of stream ended it early. -/
def CmdRun.total (r : CmdRun) : Nat := if r.ended then r.next else r.area
/-- The commands of an engine, the running one first. -/
def Engine.cmds (e : Engine) : List Cmd := (e.cur.map (·.cmd)).toList ++ e.back.map (·.cmd) ++ e.wait
/-- A command feeds an output port, or takes from an input port or index port, of a fold phase (R95). -/
def Cmd.binds (c : Cmd) (ph : BitVec 2) (output : Bool) (p : BitVec 3) : Bool :=
  c.phase == ph && c.slot != 15 &&
    (if output then (match c.kind, c.dest with | .write, _ => false | _, .port q => q == p | _, .ring _ => false)
     else (match c.kind, c.dest with | .write, .port q => q == p | _, _ => false) || c.ix == some p)
/-- The commands queued or running on a tile's engines. -/
def Tile.cmds (x : Tile) : List Cmd := (allEngines.map fun e => (x.engine e).cmds).flatten
/-- The issuer may not name a port: a stream command binds it or a ring feeds from it (R95, R204), or slot 15 has no such port (R303). -/
def State.bound (s : State) (output : Bool) (p : BitVec 3) : Bool :=
  if s.rcTask then !rcPort p
  else (s.tile s.ctx.tile).cmds.any (fun c => c.binds s.cur.phase output p) ||
    (!output && s.curLt.mat.rings.toList.any fun r => r.feed == some p)

/-! ## Operations on their way (R86, R119, R253) -/

/-- An operation of the task in hand that the word in hand follows: under a forked run, one issued before the fork (R78). -/
def State.ahead (s : State) (o : Op) : Bool :=
  o.tile == s.ctx.tile && o.slot == s.ctx.slot &&
  match s.ctx.unit, (s.tile s.ctx.tile).sq, (s.tile s.ctx.tile).mq with
  | .srun, r :: _, _ => decide (o.mark ≤ r.seq)
  | .mrun, _, i :: _ => decide (o.mark ≤ i.seq)
  | _, _, _ => true
/-- The task has an earlier acquiring operation outstanding, so its next event waits (R253). -/
def State.acqOut (s : State) : Bool := s.ops.any fun o => o.acq && s.ahead o
/-- An operation reads memory or a version. -/
def Op.reads (o : Op) : Bool :=
  match o.kind with
  | .frame f _ => match f with | .wait _ => true | .stat _ => true | _ => false
  | _ => true
/-- Some command of an engine has still to read memory or to take a token: a write command takes from its port, and from its index port,
until its last element has entered the window (R102, R248). -/
def Engine.reads (e : Engine) (f : Cmd → Bool) : Bool :=
  e.wait.any f || (e.cur.toList ++ e.back).any fun r => f r.cmd && (r.cmd.kind != .write || decide (r.next < r.total))
/-- A task's stream commands and stream runs with order numbers below a mark; those that read or take alone if asked. -/
def Tile.cmdsBefore (x : Tile) (k : SlotId) (mark : Nat) (reading : Bool) : Bool :=
  let mine := fun (c : Cmd) => c.slot == k && decide (c.seq < mark)
  (if reading then allEngines.any fun e => (x.engine e).reads mine else x.cmds.any mine) ||
  (x.sq.any fun r => r.slot == k && decide (r.seq < mark))
/-- The getws of a task that still wait for a head: for the fences a take is a read (R75, R248). -/
def State.getwsOf (s : State) (t : Nat) (k : SlotId) : List Getw :=
  (if k = 15 then (s.tile t).rcGetw6 ++ (s.tile t).rcGetw7
   else ((s.lt t (s.task t k).phase).inP.toList.map (·.getws)).flatten).filter fun q => q.slot == k
/-- A token instruction of a task has still to push its result: for the fences a push is a write (R171, R248). -/
def Tile.pushing (x : Tile) (k : SlotId) : Bool :=
  x.vpipe.any fun o => o.slot == k && (match o.dst with | .o _ => true | _ => false)
/-- Some memory operation, take or push of the issuer has not been performed yet (R86, R248); the reading ones alone if asked. -/
def State.opsOut (s : State) (reading : Bool) : Bool :=
  (s.tile s.ctx.tile).cmdsBefore s.ctx.slot (s.tile s.ctx.tile).seq reading ||
  (s.ops.any fun o => o.tile == s.ctx.tile && o.slot == s.ctx.slot && (!reading || o.reads)) ||
  !(s.getwsOf s.ctx.tile s.ctx.slot).isEmpty || (!reading && (s.tile s.ctx.tile).pushing s.ctx.slot)
/-- Some earlier memory operation, take or push of an operation's task has not been performed yet (R131, R142, R253). -/
def State.earlierOut (s : State) (o : Op) : Bool :=
  (s.tile o.tile).cmdsBefore o.slot o.mark false ||
  (s.ops.any fun p => p.tile == o.tile && p.slot == o.slot && decide (p.id < o.id)) ||
  ((s.getwsOf o.tile o.slot).any fun q => decide (q.id < o.id)) || (s.tile o.tile).pushing o.slot
/-- An earlier releasing operation of the task still awaits what precedes it, so the task's next write waits too (R247, R253). -/
def State.relOut (s : State) : Bool := s.ops.any fun o => o.rel && s.ahead o && s.earlierOut o
/-- Operations in the memory-operation port that it has not forwarded yet (R119). -/
def State.memqFull (s : State) : Bool := decide (16 ≤ (s.tile s.ctx.tile).memq.length)
/-- Hands an operation of the word in hand to the memory-operation port (R119); the recompute's belong to no region (R382). -/
def State.issueOp (s : State) (va : VAddr) (d : Option (BitVec 4)) (acq rel : Bool) (kind : OpKind) : State :=
  let t := s.ctx.tile
  let o : Op := {
    id := s.newId, tile := t, slot := s.ctx.slot, phase := s.cur.phase, part := s.curPart, rkey := if s.rcTask then 0 else s.curLt.key,
    va := va, d := d, word := s.cur.pc, mark := (s.tile t).seq, acq := acq, rel := rel, kind := kind }
  { s with ops := s.ops ++ [o], newId := s.newId + 1 }.modTile t fun x => { x with memq := x.memq ++ [s.newId] }
/-- Delivers a value to a pending g register of a task (R48). -/
def State.deliver (s : State) (t : Nat) (k : SlotId) (d : BitVec 4) (x : DWord) : State :=
  s.modTask t k fun y => { y with g := vset y.g d.toNat { val := x, st := .full } }

end Sys2Proof.Machine
end

