-- ==== Sys2Proof/Machine/Operands.lean ====
section
/-! DEFINITION. The operand forms of the meanings: register and port sources and destinations with their checks in the order of R85, and the lanes and elements of tokens. -/
namespace Sys2Proof.Machine

/-! ## Register operands

Each check passes on to `k`, or ends in the park or trap that R85 names. -/

/-- A g source with its wait bit: parks EMPTY_REG or traps EMPTY_SRC naming its field (R48, R84). -/
def needG (s : State) (r : BitVec 4) (wait : Bool) (field : Nat) (k : DWord → State) : State :=
  match (s.g r).st with
  | .full => k (s.g r).val
  | _ => if wait then park s .emptyReg else trap s 2 field (w64 r.toNat)

/-- A g source of a format T or M instruction, which has no wait bit and always parks (R50). -/
def needGT (s : State) (r : BitVec 4) (k : DWord → State) : State :=
  match (s.g r).st with
  | .full => k (s.g r).val
  | _ => park s .emptyReg

/-- A g destination: parks while it is pending (R48). -/
def needD (s : State) (d : BitVec 4) (k : State) : State :=
  match (s.g d).st with
  | .pending => park s .destPending
  | _ => k

/-- A task's instruction in flight has still to write a w register (R171). -/
def State.wBusy (s : State) (r : BitVec 3) : Bool :=
  (s.tile s.ctx.tile).vpipe.any fun o => o.slot == s.ctx.slot && o.dst == .w r
/-- A task's instruction in flight has still to write an m register (R171). -/
def State.mBusy (s : State) (r : BitVec 2) : Bool :=
  (s.tile s.ctx.tile).vpipe.any fun o => o.slot == s.ctx.slot && o.dst == .m r
/-- A w register that is read or written: parks WREG while an earlier instruction has not written it (R171). -/
def needW (s : State) (r : BitVec 3) (k : State) : State := if s.wBusy r then park s .wreg else k
/-- An m register that is read or written (R171). -/
def needM (s : State) (r : BitVec 2) (k : State) : State := if s.mBusy r then park s .wreg else k
/-- The task's earlier acquire has been performed; until then its next event waits (R253, log 17). R85's five steps do not place this wait:
a word parks once its registers are checked, before its range, alignment, target and port checks (the model's choice, log 58). -/
def gate (s : State) (k : State) : State := if s.acqOut then park s .fence else k
/-- The same for a word that writes: an earlier release has let it go, too (R247, R253, log 17). -/
def gateW (s : State) (k : State) : State := gate s (if s.relOut then park s .fence else k)

/-! ## Scratchpad operands (R63, R70) -/

/-- Sign extension of an immediate, as an exact number (R31). -/
def sx {n : Nat} (i : BitVec n) : Int := i.toInt
/-- The exact effective address g[s1] + sext(imm15)·n, g[s1] taken as a signed number (R70, log 44). -/
def effAddr (g : DWord) (i : BitVec 15) (n : Nat) : Int := g.toInt + sx i * n
/-- Range and alignment of a load of n bytes at an exact address (R70, R85 step 4). -/
def needLd (s : State) (ea : Int) (n : Nat) (k : Nat → State) : State :=
  if ea < 0 ∨ !s.spLd ea.toNat n then trap s 5 0 (.ofInt 64 ea)
  else if ea % n ≠ 0 then trap s 6 0 (.ofInt 64 ea)
  else k ea.toNat
/-- Range and alignment of a store (R70, R303). -/
def needSt (s : State) (ea : Int) (n : Nat) (k : Nat → State) : State :=
  if ea < 0 ∨ !s.spLd ea.toNat n ∨ !s.spSt ea.toNat n then trap s 5 0 (.ofInt 64 ea)
  else if ea % n ≠ 0 then trap s 6 0 (.ofInt 64 ea)
  else k ea.toNat

/-! ## Token operands (R40, R41, R92, R93, R95) -/

/-- A token code names a port. -/
def isPort (c : BitVec 4) : Bool := decide (8 ≤ c.toNat)
/-- The register or port that a token code names. -/
def codeNo (c : BitVec 4) : BitVec 3 := c.setWidth 3
/-- The code of a port. -/
def portCode (p : BitVec 3) : Nat := p.toNat + 8
/-- The ports among token codes. -/
def portsOf (l : List (BitVec 4)) : List (BitVec 3) := ((l.filter isPort).map codeNo).dedup
/-- The w registers among token codes. -/
def wregsOf (l : List (BitVec 4)) : List (BitVec 3) := (l.filter fun c => !isPort c).map codeNo
/-- The token a source code names: a register, or the head of a port (R41). -/
def State.tok (s : State) (c : BitVec 4) : Token :=
  if isPort c then (s.head (codeNo c)).getD {} else s.w (codeNo c)
/-- Consumes each named head once (R41). -/
def State.popAll (s : State) (l : List (BitVec 3)) : State := l.foldl (fun s p => s.pop p) s

/-- The lowest-numbered port of a list. -/
def lowPort (l : List (BitVec 3)) : Option (BitVec 3) :=
  l.foldl (fun a p => match a with | none => some p | some q => some (if p.toNat < q.toNat then p else q)) none
/-- The firing rule: no named port is bound, every input has a head and every output a free slot (R92, R95). -/
def needPorts (s : State) (ins outs : List (BitVec 3)) (k : State) : State :=
  match ins.find? (s.bound false), outs.find? (s.bound true) with
  | some p, _ => trap s 16 0 (w64 (portCode p))
  | none, some p => trap s 16 0 (w64 (portCode p))
  | none, none =>
    if ins.all (fun p => (s.head p).isSome) && outs.all s.space then k
    else park s .port
/-- Every named head is a data token, or KIND names the lowest such port (R93). -/
def needData (s : State) (ins : List (BitVec 3)) (k : State) : State :=
  match lowPort (ins.filter fun p => ((s.head p).getD {}).kind != .data) with
  | some p => trap s 15 0 (w64 (portCode p))
  | none => k
/-- Checks of a token instruction's codes, in the order of R85: interlocks of the w and m registers, then the ports. -/
def needT (s : State) (srcs : List (BitVec 4)) (dst : Option (BitVec 4)) (mregs : List (BitVec 2)) (dataOnly : Bool)
    (k : State) : State :=
  if (wregsOf (srcs ++ dst.toList)).any s.wBusy || mregs.any s.mBusy then park s .wreg
  else
    let ins := portsOf srcs
    let outs := portsOf dst.toList
    if ((!ins.isEmpty || !outs.isEmpty) && s.acqOut) || (!outs.isEmpty && s.relOut) then park s .fence
    else needPorts s ins outs (if dataOnly then needData s ins k else k)

/-! ## Lanes and elements of tokens (R88, R42) -/

/-- Payload of lane k. -/
def Token.lane (x : Token) (k : Nat) : Nat := fld x.data.toNat (32 * k + 31) (32 * k)
/-- Lane k holds an element. -/
def Token.val (x : Token) (k : Nat) : Bool := x.valid.toNat.testBit k
/-- Lane k is poisoned. -/
def Token.pois (x : Token) (k : Nat) : Bool := x.poison.toNat.testBit k
/-- A payload from sixteen lanes. -/
def laneData (l : List Nat) : BitVec 512 := .ofNat 512 (unchunk 32 l)
/-- A payload from a function of the lane. -/
def laneFn (f : Nat → Nat) : BitVec 512 := laneData ((upTo 16).map f)
/-- Sixteen flags from a function of the lane. -/
def bits16 (f : Nat → Bool) : BitVec 16 := packBits 16 ((upTo 16).map f)

/-- Bits of one element (R42). -/
def etWidth : EType → Nat
  | .f32 => 32 | .bf16 => 16 | .f16 => 16 | .e4m3 => 8 | .e5m2 => 8 | .i8 => 8 | .i16 => 16 | .i32 => 32 | .i64 => 64
  | .e8m0 => 8 | .cb2 => 16 | .untyped => 32
/-- Elements of a payload, element 0 in the lowest bits (R42, R149). -/
def elems (w : Nat) (x : BitVec 512) : List Nat := chunks w (512 / w) x.toNat
/-- A payload from its elements. -/
def ofElems (w : Nat) (l : List Nat) : BitVec 512 := .ofNat 512 (unchunk w l)
/-- The first lane of element j and how many lanes it spans. -/
def elemLanes (w j : Nat) : List Nat := if w = 64 then [2 * j, 2 * j + 1] else [j * w / 32]

/-! ## Payload and sideband as bytes (R74) -/

/-- Code of a kind (R88). -/
def kindCode : TokKind → Nat
  | .data => 0 | .control => 1 | .marker => 2 | .eos => 3
/-- Sideband as a number (R88). -/
def Token.side (x : Token) : Nat := x.valid.toNat + 65536 * x.poison.toNat + 2 ^ 32 * x.tag.toNat + 2 ^ 38 * kindCode x.kind

/-- A data token with every lane valid. -/
def dataTok (d : BitVec 512) (tag : BitVec 6) : Token := ⟨d, 0xFFFF, 0, tag, .data⟩
/-- An end-of-stream token (R90). -/
def eosTok (tag : BitVec 6) : Token := ⟨0, 0, 0, tag, .eos⟩

end Sys2Proof.Machine
end

