-- ==== Sys2Proof/Machine/Branch.lean ====
section
/-! DEFINITION. Branches, jumps and loops (groups 0x07 and 0x08, R71, R72). -/
namespace Sys2Proof.Machine

/-! ## Shared forms -/

/-- The target of an offset from the word's own index (R39). -/
def State.target (s : State) (o : BitVec 18) : Int := (s.cur.pc : Int) + sx o
/-- A branch: to its target if the test holds, else to the next word (R71). -/
def branch (s : State) (c : Bool) (o : BitVec 18) : State := if c then jump s (s.target o) else advance s 1
/-- A branch on a g register against zero (R71). -/
def branchG (s : State) (a : BitVec 4) (w : Bool) (o : BitVec 18) (p : Int → Bool) : State :=
  needG s a w 4 fun x => branch s (p x.toInt) o
/-- A target that can be taken, or BAD_TARGET with nothing written (R72). -/
def needTarget (s : State) (t : Int) (k : State) : State :=
  if 0 ≤ t ∧ t < s.limit then k else trap s 4 0 (.ofInt 64 t)

/-! ## Branches (group 0x07, R71) -/

/-- `beqz` (R71): g[s1] = 0. -/
def execBeqz (a : BitVec 4) (w : Bool) (o : BitVec 18) (s : State) : Out :=
  .next (branchG s a w o fun x => x == 0)
/-- `bnez` (R71): g[s1] ≠ 0. -/
def execBnez (a : BitVec 4) (w : Bool) (o : BitVec 18) (s : State) : Out :=
  .next (branchG s a w o fun x => x != 0)
/-- `bltz` (R71): g[s1] < 0. -/
def execBltz (a : BitVec 4) (w : Bool) (o : BitVec 18) (s : State) : Out :=
  .next (branchG s a w o fun x => decide (x < 0))
/-- `bgez` (R71): g[s1] ≥ 0. -/
def execBgez (a : BitVec 4) (w : Bool) (o : BitVec 18) (s : State) : Out :=
  .next (branchG s a w o fun x => decide (0 ≤ x))
/-- `bgtz` (R71): g[s1] > 0. -/
def execBgtz (a : BitVec 4) (w : Bool) (o : BitVec 18) (s : State) : Out :=
  .next (branchG s a w o fun x => decide (0 < x))
/-- `blez` (R71): g[s1] ≤ 0. -/
def execBlez (a : BitVec 4) (w : Bool) (o : BitVec 18) (s : State) : Out :=
  .next (branchG s a w o fun x => decide (x ≤ 0))
/-- `bfull` (R71): neither parks nor traps on the bit. -/
def execBfull (a : BitVec 4) (o : BitVec 18) (s : State) : Out :=
  .next (branch s ((s.g a).st == .full) o)
/-- `bempty` (R71): pending or empty. -/
def execBempty (a : BitVec 4) (o : BitVec 18) (s : State) : Out :=
  .next (branch s ((s.g a).st != .full) o)
/-- `bmany` (R71). -/
def execBmany (a : BitVec 2) (o : BitVec 18) (s : State) : Out :=
  .next (needM s a (branch s (s.m a != 0) o))
/-- `bmnone` (R71). -/
def execBmnone (a : BitVec 2) (o : BitVec 18) (s : State) : Out :=
  .next (needM s a (branch s (s.m a == 0) o))

/-! ## Jumps and loops (group 0x08, R72) -/

/-- `j` (R72). -/
def execJ (o : BitVec 18) (s : State) : Out := .next (jump s (s.target o))
/-- `call` (R72): the link is the next word's index. -/
def execCall (l : BitVec 4) (o : BitVec 18) (s : State) : Out :=
  .next (needD s l (needTarget s (s.target o) (jump (s.setG l (w64 (s.cur.pc + 1))) (s.target o))))
/-- `jr` (R72). -/
def execJr (a : BitVec 4) (w : Bool) (s : State) : Out :=
  .next (needG s a w 4 fun x => jump s (x.toNat : Int))
/-- `callr` (R72): the target is read before the link is written. -/
def execCallr (a : BitVec 4) (w : Bool) (l : BitVec 4) (s : State) : Out :=
  .next (needG s a w 4 fun x => needD s l (needTarget s (x.toNat : Int)
    (jump (s.setG l (w64 (s.cur.pc + 1))) (x.toNat : Int))))
/-- `loop` (R72): a counter above 1 is decremented and the branch taken, else it becomes 0. -/
def execLoop (a : BitVec 4) (w : Bool) (o : BitVec 18) (s : State) : Out :=
  .next (needG s a w 4 fun x =>
    if 1 < x.toNat then needTarget s (s.target o) (jump (s.setG a (x - 1)) (s.target o))
    else advance (s.setG a 0) 1)

end Sys2Proof.Machine
end

