-- ==== Sys2Proof/Machine/Fetch.lean ====
section
/-! DEFINITION. Fetching instruction words: where the words of a task lie, the words of a run, the traps of a fetch, and decoding at a word index. -/
namespace Sys2Proof.Machine

/-- Word i of a task: in its phase's share of the instruction store (R35, R321), for slot 15 in scratchpad from 0x7_8000 (R303). -/
def State.wordAt (s : State) (t : Nat) (k : SlotId) (ph : BitVec 2) (i : Nat) : Lane :=
  let x := s.tile t
  if k = 15 then .ofNat 32 (leNat (memRead x.spad (0x7_8000 + 4 * i) 4))
  else istGet x.istore (ph.toNat * shareWords x.fold + i)
/-- Word i of a task bears an uncorrectable error (R364). -/
def State.wordBad (s : State) (t : Nat) (k : SlotId) (ph : BitVec 2) (i : Nat) : Bool :=
  let x := s.tile t
  if k = 15 then setHas x.marks (0x7_8000 + 4 * i) else setHas x.ipois (ph.toNat * shareWords x.fold + i)
/-- Word i of the issuer. -/
def State.word (s : State) (i : Nat) : Lane := s.wordAt s.ctx.tile s.ctx.slot s.cur.phase i
/-- Some of n words from i bears an error. -/
def State.wordsBad (s : State) (i n : Nat) : Bool :=
  (upFrom i n).any (s.wordBad s.ctx.tile s.ctx.slot s.cur.phase)
/-- Major group of a word (R36). -/
def major (x : Lane) : Nat := bfld x 31 27

/-- What a fetch gives: an instruction, or a trap's cause, field and TVAL. -/
inductive Fetched where
  | instr (i : Instr)
  | bad (cause field : Nat) (tval : DWord)

/-- Fetches and decodes the word at an index of the issuer's program: PC_RANGE past the limit (R35), FETCH_POISON on an error,
TVAL the index of the word that bears it (R364), ILLEGAL naming a field, TVAL the word that holds it (R55 to R57, R84). -/
def State.fetchAt (s : State) (pc : Nat) : Fetched :=
  let l := s.limit
  if l ≤ pc then .bad 3 0 (w64 l)
  else
    let w0 := s.word pc
    if s.wordsBad pc 1 then .bad 30 0 (w64 pc)
    else if major w0 = 0x1F then
      if l ≤ pc + 3 then .bad 1 18 (w64 w0.toNat)
      else match (upFrom pc 4).find? (s.wordBad s.ctx.tile s.ctx.slot s.cur.phase) with
        | some i => .bad 30 0 (w64 i)
        | none =>
          let ws := (upFrom pc 4).map fun i => (s.word i).toNat
          match decode ws with
          | .ok i => .instr i
          | .error e => .bad 1 e.field (w64 (ws.getD e.word 0))
    else
      match decode [w0.toNat] with
      | .ok i => .instr i
      | .error e => .bad 1 e.field (w64 w0.toNat)

/-- Fetches the next word of a matrix run, which accepts groups 0x18 to 0x1B alone (R78). -/
def State.fetchMat (s : State) (pc : Nat) : Fetched :=
  let g := major (s.word pc)
  if s.limit ≤ pc ∨ s.wordsBad pc 1 then s.fetchAt pc
  else if 0x18 ≤ g ∧ g ≤ 0x1B then s.fetchAt pc
  else .bad 1 0 (w64 (s.word pc).toNat)
/-- Fetches the next command of a stream run, which accepts group 0x1F alone (R78). -/
def State.fetchStr (s : State) (pc : Nat) : Fetched :=
  if s.limit ≤ pc ∨ s.wordsBad pc 1 then s.fetchAt pc
  else if major (s.word pc) = 0x1F then s.fetchAt pc
  else .bad 1 0 (w64 (s.word pc).toNat)

/-- A task takes a trap that stands from earlier (R75, R160, R174). -/
def takePending (s : State) (p : PTrap) (r : List PTrap) : State :=
  (s.modCur fun k => { k with ptraps := r }).trapTask s.ctx.tile s.ctx.slot p.cause 0 (p.pc.getD s.cur.pc) p.tval 0 0

end Sys2Proof.Machine
end

