-- ==== Sys2Proof/Machine/Tasks.lean ====
section
/-! DEFINITION. Tasks and ports, full/empty control and the spill stack (groups 0x09 and 0x0A, R73 to R80). -/
namespace Sys2Proof.Machine

/-! ## getw (R75) -/

/-- The value a getw delivers, and whether a delivered lane is poisoned (R75). -/
def getwVal (x : Token) (lane : BitVec 4) (wide : Bool) : DWord × Bool :=
  let l := lane.toNat
  if wide then (w64 (x.lane l + 2 ^ 32 * x.lane (l + 1)), x.pois l || x.pois (l + 1)) else (w64 (x.lane l), x.pois l)
/-- Delivers a head to the register of a getw; a poisoned lane delivers zero and the task traps GETW_POISON at its next issue (R75). -/
def State.getwGive (s : State) (t : Nat) (k : SlotId) (p : BitVec 3) (q : Getw) (x : Token) : State :=
  let (v, bad) := getwVal x q.lane q.wide
  if bad then (s.deliver t k q.d 0).modTask t k fun y => { y with ptraps := y.ptraps ++ [⟨9, some q.pc, w64 (portCode p)⟩] }
  else s.deliver t k q.d v
/-- Queues a getw behind those already waiting at the port. -/
def State.getwWait (s : State) (p : BitVec 3) (q : Getw) : State :=
  if s.rcTask then s.modTile s.ctx.tile fun x =>
    if p = 6 then { x with rcGetw6 := x.rcGetw6 ++ [q] } else { x with rcGetw7 := x.rcGetw7 ++ [q] }
  else s.modCurLt fun x =>
    let y := vget x.inP p.toNat {}
    { x with inP := vset x.inP p.toNat { y with getws := y.getws ++ [q] } }
/-- `getw` (R75): takes the head that stands, or leaves its destination pending for the next. -/
def execGetw (d : BitVec 4) (p : BitVec 3) (x : Bool) (l : BitVec 4) (s : State) : Out :=
  .next (needD s d (gate s (
    if s.bound false p then trap s 16 0 (w64 (portCode p))
    else
      let q : Getw := ⟨s.ctx.slot, d, l, x, s.cur.pc, s.newId⟩
      match s.head p with
      | some tok => advance ((s.pop p).getwGive s.ctx.tile s.ctx.slot p q tok) 1
      | none => advance { (s.markG d .pending).getwWait p q with newId := s.newId + 1 } 1)))

/-! ## putw, putc, waitp, yield, end (R76, R77) -/

/-- The token that `putw` and `putc` push (R76). -/
def putTok (x : DWord) (tag : BitVec 6) (kind : TokKind) : Token := ⟨x.setWidth 512, 0xFFFF, 0, tag, kind⟩
/-- Pushes a word as a token of a kind (R76). -/
def putWord (s : State) (p : BitVec 3) (a : BitVec 4) (w : Bool) (t : BitVec 6) (kind : TokKind) : State :=
  needG s a w 4 fun x => gateW s (needPorts s [] [p] (advance (s.push p (putTok x t kind)) 1))
/-- `putw` (R76). -/
def execPutw (p : BitVec 3) (a : BitVec 4) (w : Bool) (t : BitVec 6) (s : State) : Out := .next (putWord s p a w t .data)
/-- `putc` (R76). -/
def execPutc (p : BitVec 3) (a : BitVec 4) (w : Bool) (t : BitVec 6) (s : State) : Out := .next (putWord s p a w t .control)
/-- `waitp` (R77): parks until the input has a head, or the output a free slot. -/
def execWaitp (p : BitVec 3) (o : Bool) (s : State) : Out :=
  .next (needPorts s (if o then [] else [p]) (if o then [p] else []) (advance s 1))
/-- `yield` (R77): the task is ready again; the round-robin of R314 serves it after the others of its class. -/
def execYield (s : State) : Out := .next (advance s 1)
/-- A task has a pending g register. -/
def Task.pendingG (k : Task) : Bool := k.g.toList.any fun x => x.st == .pending
/-- A task has an unfinished forked run: queued or running on the matrix unit, or a stream run with words to issue or commands to
complete (R78, R79). -/
def Tile.runsOf (x : Tile) (k : SlotId) (u : ForkUnit) : Bool :=
  match u with
  | .matrix => x.mq.any fun i => i.run && i.slot == k
  | .stream => (x.sq.any fun r => r.slot == k) || x.cmds.any fun c => c.run.isSome && c.slot == k
/-- `end` (R77): parks until nothing of the task is pending or unfinished, then retires it. -/
def execEndTask (s : State) : Out :=
  .next (
    let x := s.tile s.ctx.tile
    if s.cur.pendingG || x.runsOf s.ctx.slot .matrix || x.runsOf s.ctx.slot .stream then park s .endWait
    else s.modCur fun k => { k with st := .retired, mark := none })

/-! ## fork, rdv (R78, R79) -/

/-- `fork` (R78): queues a run, of which a unit holds up to four, the one in execution among them; a stream run is held until its last
command has issued. TVAL of BAD_TARGET is the value of g[s1] (log 57). -/
def execFork (u : ForkUnit) (a : BitVec 4) (w : Bool) (c : BitVec 8) (s : State) : Out :=
  .next (needG s a w 4 fun x => gate s (
    let t := s.ctx.tile
    let y := s.tile t
    let n := c.toNat * (match u with | .matrix => 1 | .stream => 4)
    if s.limit < x.toNat + n then trap s 4 0 x
    else
      match u with
      | .matrix =>
        if 4 ≤ (y.mq.filter (·.run)).length then park s .queue
        else advance (s.modTile t fun y =>
          { y with seq := y.seq + 1, mq := y.mq ++ [{ slot := s.ctx.slot, seq := y.seq, run := true, pc := x.toNat, count := c.toNat, pos := 0, instr := none }] }) 1
      | .stream =>
        if 4 ≤ y.sq.length then park s .queue
        else advance (s.modTile t fun y =>
          { y with seq := y.seq + 1, sq := y.sq ++ [⟨s.ctx.slot, y.seq, x.toNat, c.toNat, 0, none⟩] }) 1))

/-- The abandoned run with the lowest word index (R79). -/
def lowAband : List Aband → Option Aband
  | [] => none
  | a :: r =>
    match lowAband r with
    | none => some a
    | some b => some (if b.word < a.word then b else a)
/-- A unit is named by the operands of `rdv`. -/
def named (st mx : Bool) (u : ForkUnit) : Bool := match u with | .matrix => mx | .stream => st
/-- `rdv` (R79): parks until the task's runs and inline instructions on the named units complete, then traps FORK_TRAP if one of
those runs was abandoned, which clears their record. -/
def execRdv (st mx : Bool) (s : State) : Out :=
  .next (
    let x := s.tile s.ctx.tile
    let k := s.ctx.slot
    if (mx && x.mq.any fun i => i.slot == k) || (st && ((x.sq.any fun r => r.slot == k) || x.cmds.any fun c => c.slot == k)) then
      park s .rdv
    else
      match lowAband (s.cur.aband.filter fun a => named st mx a.unit) with
      | none => advance s 1
      | some a => trapC (s.modCur fun y => { y with aband := y.aband.filter fun b => !named st mx b.unit })
          10 0 (w64 a.word) (w32 (a.cause + 256 * a.field)) (w32 a.word))

/-! ## trig (R80) -/

/-- An external act of a region (R357): a rollback over it fails, and under CKEXT a checkpoint follows it (R366). -/
def State.extAct (s : State) (key : Nat) : State :=
  s.modRegion key fun r => { r with ext := true, ckReq := r.ckReq || (s.part r.part).ckctl.getLsbD 1 }
/-- `trig` (R80): a release, then the descriptor enters the launch queue; in slot 15 it ends the recompute (R303). -/
def execTrig (a : BitVec 4) (w : Bool) (p : BitVec 2) (s : State) : Out :=
  .next (needG s a w 4 fun x => gate s (needLd s (x.toNat : Int) 64 fun ea =>
    if s.rcTask then s.rcFault s.ctx.tile 0x1F 0 0
    else if s.opsOut false then park s .fence
    else
      let y := s.part s.curPart
      let q := vget y.lq p.toNat []
      if 256 ≤ q.length then park s .queue
      else advance ((s.setPart s.curPart { y with lq := vset y.lq p.toNat (q ++ [.ofNat 512 (s.spN ea 64)]) }).extAct
        s.curLt.key) 1))

/-! ## few, fec (R73) -/

/-- `few` (R73): parks until the register is full. -/
def execFew (a : BitVec 4) (s : State) : Out := .next (needG s a true 4 fun _ => advance s 1)
/-- `fec` (R73): empties a register that is not pending. -/
def execFec (d : BitVec 4) (s : State) : Out := .next (needD s d (advance (s.markG d .empty) 1))

/-! ## The spill stack (R74) -/

/-- SSP.LIMIT in bytes. -/
def sspLimit (x : DWord) : Nat := bfld x 50 35 * 8
/-- SSP.PTR in bytes. -/
def sspPtr (x : DWord) : Nat := bfld x 18 3 * 8
/-- SSP with another pointer, of which PTR holds 16 bits: a pop that ends at byte 0x8_0000 leaves 0 (log 57). -/
def sspWith (x : DWord) (p : Nat) : DWord := (x &&& ~~~(0x7_FFF8 : DWord)) ||| .ofNat 64 (p / 8 % 65536 * 8)
/-- Bytes of a slot of a file. -/
def slotBytes : RFile → Nat
  | .g => 8 | .b => 16 | .m => 8 | .w => 128
/-- The content of a register's slot. -/
def State.slotOf (s : State) (f : RFile) (r : Nat) : List Byte :=
  match f with
  | .g => leBytes 8 (s.g (.ofNat 4 r)).val.toNat
  | .b => leBytes 16 (s.b (.ofNat 3 r)).toNat
  | .m => leBytes 8 (s.m (.ofNat 2 r)).toNat
  | .w =>
    let x := s.w (.ofNat 3 r)
    leBytes 64 x.data.toNat ++ leBytes 2 x.valid.toNat ++ leBytes 2 x.poison.toNat ++ leBytes 1 x.tag.toNat ++
      leBytes 1 (kindCode x.kind) ++ List.replicate 58 0
/-- The kind that a popped w slot's kind byte names. Only the pre-emption machinery makes a marker (R90): a byte that names one, or no
kind, gives a kind that the spec leaves open among the other three (log 57). -/
def slotKind (b : BitVec 8) : TokKind :=
  if b = 0 then .data else if b = 1 then .control else if b = 3 then .eos
  else match Config.poppedKind b with | 0 => .data | 1 => .control | _ => .eos
/-- Writes a register from its slot at an address. Marks of a w slot's sideband words count for nothing, and the upper bits of its tag
byte are dropped (log 57). -/
def State.unslot (s : State) (f : RFile) (r : Nat) (ea : Nat) : State :=
  match f with
  | .g => s.setG (.ofNat 4 r) (w64 (s.spN ea 8))
  | .b => s.setB (.ofNat 3 r) (.ofNat 80 (s.spN ea 16))
  | .m => s.setM (.ofNat 2 r) (.ofNat 16 (s.spN ea 8))
  | .w => s.setW (.ofNat 3 r) ⟨.ofNat 512 (s.spN ea 64), .ofNat 16 (s.spN (ea + 64) 2),
      .ofNat 16 (s.spN (ea + 66) 2) ||| bits16 fun k => s.spMark (ea + 4 * k), .ofNat 6 (s.spN (ea + 68) 1),
      slotKind (.ofNat 8 (s.spN (ea + 69) 1))⟩
/-- Checks g registers in ascending order; the first is field 3 and the later ones field 4 (R74). -/
def needGs (s : State) (w : Bool) (field : Nat) (k : State) : List Nat → State
  | [] => k
  | r :: rs => needG s (.ofNat 4 r) w field fun _ => needGs s w 4 k rs
/-- Waits for the w or m registers of a range (R171). -/
def needFile (s : State) (f : RFile) (l : List Nat) (k : State) : State :=
  if l.any (fun r => match f with | .w => s.wBusy (.ofNat 3 r) | .m => s.mBusy (.ofNat 2 r) | _ => false) then park s .wreg else k
/-- Clears the marks of n words. -/
def State.unmark (s : State) (a n : Nat) : State :=
  let p := s.spa a / 4 * 4
  s.modTile s.ctx.tile fun x => { x with marks := x.marks.filter fun b => !decide (p ≤ b ∧ b < p + 4 * n) }
/-- `pushm` (R74). -/
def execPushm (d a : BitVec 4) (w : Bool) (f : RFile) (s : State) : Out :=
  .next (
    let n := a.toNat - d.toNat + 1
    let regs := upFrom d.toNat n
    let k := needFile s f regs (gateW s (
      let size := n * slotBytes f
      let new : Int := (sspPtr s.cur.ssp : Int) - size
      if new < sspLimit s.cur.ssp then trap s 8 0 (.ofInt 64 new)
      else if !s.spLd new.toNat size || !s.spSt new.toNat size then trap s 5 0 (.ofInt 64 new)
      else if f = .w ∧ new.toNat % 64 ≠ 0 then trap s 6 0 (.ofInt 64 new)
      else
        let s1 := (s.spPut new.toNat (regs.map (s.slotOf f)).flatten).unmark new.toNat (size / 4)
        advance (s1.modCur fun x => { x with ssp := sspWith x.ssp new.toNat }) 1))
    match f with
    | .g => needGs s w 3 k regs
    | _ => k)
/-- Loads registers from ascending slots. -/
def State.popRegs (s : State) (f : RFile) (ea : Nat) : List Nat → State
  | [] => s
  | r :: rs => (s.unslot f r ea).popRegs f (ea + slotBytes f) rs
/-- The lowest slot that bears a mark: the TVAL of `popm`'s POISON_LD (log 57). -/
def State.badSlot (s : State) (f : RFile) (ea : Nat) : Nat → Option Nat
  | 0 => none
  | n + 1 => if s.spMarked ea (slotBytes f) then some ea else s.badSlot f (ea + slotBytes f) n
/-- `popm` (R74). TVAL of its SPILL_RANGE is the address of the pop, SSP.PTR × 8 (log 57). -/
def execPopm (d a : BitVec 4) (f : RFile) (s : State) : Out :=
  .next (
    let n := a.toNat - d.toNat + 1
    let regs := upFrom d.toNat n
    let size := n * slotBytes f
    let p := sspPtr s.cur.ssp
    if f = .g ∧ regs.any (fun r => (s.g (.ofNat 4 r)).st == .pending) then park s .destPending
    else needFile s f regs (gate s (
      if !s.spLd p size then trap s 8 0 (w64 p)
      else if f = .w ∧ p % 64 ≠ 0 then trap s 6 0 (w64 p)
      else
        match if f = .w then none else s.badSlot f p n with
        | some ea => trap s 7 0 (w64 ea)
        | none => advance ((s.popRegs f p regs).modCur fun x => { x with ssp := sspWith x.ssp (p + size) }) 1)))

end Sys2Proof.Machine
end

