-- ==== Sys2Proof/Machine/Fp.lean ====
section
/-! DEFINITION. Floating-point formats, exact values, rounding, arithmetic, comparison and conversion (R147 to R157). -/
namespace Sys2Proof.Machine

/-! ## Formats (R147, R148) -/

/-- A floating-point format: widths of the whole, of the exponent and of the mantissa, and bias; E4M3 has no infinity. -/
structure Fmt where
  w : Nat
  eb : Nat
  mb : Nat
  bias : Nat
  e4m3 : Bool := false
  deriving DecidableEq, Repr

/-- FP32. -/
def fF32 : Fmt := ⟨32, 8, 23, 127, false⟩
/-- BF16. -/
def fBF16 : Fmt := ⟨16, 8, 7, 127, false⟩
/-- FP16. -/
def fF16 : Fmt := ⟨16, 5, 10, 15, false⟩
/-- E4M3. -/
def fE4M3 : Fmt := ⟨8, 4, 3, 7, true⟩
/-- E5M2. -/
def fE5M2 : Fmt := ⟨8, 5, 2, 15, false⟩

/-- The floating-point format of an element type, if it is one. -/
def etFmt : EType → Option Fmt
  | .f32 => some fF32 | .bf16 => some fBF16 | .f16 => some fF16 | .e4m3 => some fE4M3 | .e5m2 => some fE5M2
  | _ => none
/-- The width of an integer element type, if it is one. -/
def etInt : EType → Option Nat
  | .i8 => some 8 | .i16 => some 16 | .i32 => some 32 | .i64 => some 64
  | _ => none

/-- Least exponent of a normal value. -/
def Fmt.emin (f : Fmt) : Int := 1 - (f.bias : Int)
/-- The sign bit of a negative value. -/
def Fmt.sign (f : Fmt) (neg : Bool) : Nat := if neg then 2 ^ (f.w - 1) else 0
/-- Encoding of the largest finite magnitude. -/
def Fmt.maxMag (f : Fmt) : Nat := if f.e4m3 then 0x7E else (2 ^ f.eb - 2) * 2 ^ f.mb + (2 ^ f.mb - 1)
/-- Encoding of the magnitude of infinity; E4M3's NaN stands in its place (R154). -/
def Fmt.infMag (f : Fmt) : Nat := if f.e4m3 then 0x7F else (2 ^ f.eb - 1) * 2 ^ f.mb
/-- The canonical NaN (R148). -/
def Fmt.nan (f : Fmt) : Nat := if f.e4m3 then 0x7F else (2 ^ f.eb - 1) * 2 ^ f.mb + 2 ^ (f.mb - 1)

/-- An exact value: NaN, an infinity, or (−1)^neg · n · 2^e. -/
inductive FVal where
  | nan
  | inf (neg : Bool)
  | fin (neg : Bool) (n : Nat) (e : Int)
  deriving DecidableEq, Repr

/-- Exponent field, mantissa field and sign of a pattern. -/
def Fmt.exp (f : Fmt) (x : Nat) : Nat := x / 2 ^ f.mb % 2 ^ f.eb
/-- Mantissa field. -/
def Fmt.man (f : Fmt) (x : Nat) : Nat := x % 2 ^ f.mb
/-- Sign. -/
def Fmt.neg (f : Fmt) (x : Nat) : Bool := x.testBit (f.w - 1)
/-- The pattern is a NaN (R147). -/
def Fmt.isNan (f : Fmt) (x : Nat) : Bool :=
  if f.e4m3 then x % 128 == 127 else f.exp x == 2 ^ f.eb - 1 && f.man x != 0
/-- The pattern is subnormal. -/
def Fmt.isSub (f : Fmt) (x : Nat) : Bool := f.exp x == 0 && f.man x != 0
/-- A subnormal pattern replaced by the zero of its sign, if asked (R158). -/
def Fmt.flush (f : Fmt) (on : Bool) (x : Nat) : Nat := if on && f.isSub x then f.sign (f.neg x) else x
/-- The exact value of a pattern (R147). -/
def Fmt.val (f : Fmt) (x : Nat) : FVal :=
  if f.isNan x then .nan
  else if !f.e4m3 && f.exp x == 2 ^ f.eb - 1 then .inf (f.neg x)
  else if f.exp x = 0 then .fin (f.neg x) (f.man x) (f.emin - f.mb)
  else .fin (f.neg x) (f.man x + 2 ^ f.mb) ((f.exp x : Int) - f.bias - f.mb)

/-! ## Rounding (R153 to R155) -/

/-- A magnitude n · 2^e in units of 2^q, rounded to an integer in a mode: 0 RNE, 1 RZ, 2 RU, 3 RD, 4 stochastic with the word `rnd`. -/
def roundUnits (mode rnd : Nat) (neg : Bool) (n : Nat) (e q : Int) : Nat :=
  if q ≤ e then n * 2 ^ (e - q).toNat
  else
    let r := min (q - e).toNat (bitLen n + 34)
    let t := n / 2 ^ r
    let rem := n % 2 ^ r
    let up := match mode with
      | 0 => decide (2 ^ r < 2 * rem) || (2 * rem == 2 ^ r && t % 2 == 1)
      | 1 => false
      | 2 => rem != 0 && !neg
      | 3 => rem != 0 && neg
      | _ => decide (2 ^ 32 ≤ rem * 2 ^ 32 / 2 ^ r + rnd)
    if up then t + 1 else t

/-- Magnitude of an overflow: the maximum under saturation and where the mode rounds toward zero, else infinity (R154). -/
def Fmt.over (f : Fmt) (mode : Nat) (sat neg : Bool) : Nat :=
  if sat || mode == 1 || (mode == 2 && neg) || (mode == 3 && !neg) then f.maxMag else f.infMag

/-- Rounds (−1)^neg · n · 2^e to p mantissa bits of a format (p = mb for R154; fewer for R188), emin bounding the exponent. -/
def Fmt.roundFin (f : Fmt) (p mode rnd : Nat) (sat neg : Bool) (n : Nat) (e : Int) : Nat :=
  if n = 0 then f.sign neg
  else
    let top : Int := (bitLen n : Int) - 1 + e
    let q : Int := (if f.emin ≤ top then top else f.emin) - p
    let m := roundUnits mode rnd neg n e q * 2 ^ (f.mb - p)
    -- a carry into the next binade leaves the same value one exponent up
    let (m, q) := if 2 ^ (f.mb + 1) ≤ m then (m / 2, q + 1) else (m, q)
    let mag := if m < 2 ^ f.mb then m else ((q + p + f.bias).toNat) * 2 ^ f.mb + (m - 2 ^ f.mb)
    f.sign neg + if f.maxMag < mag then f.over mode sat neg else mag

/-- `round` and `roundsat` of an exact value (R154, R155). -/
def Fmt.round (f : Fmt) (mode rnd : Nat) (sat : Bool) : FVal → Nat
  | .nan => f.nan
  | .inf neg => f.sign neg + if sat then f.maxMag else f.infMag
  | .fin neg n e => f.roundFin f.mb mode rnd sat neg n e

/-! ## Arithmetic on exact values (R163, R176) -/

/-- The value with the opposite sign. -/
def FVal.flip : FVal → FVal
  | .nan => .nan
  | .inf s => .inf !s
  | .fin s n e => .fin (!s) n e
/-- A signed integer in units of 2^q, for q at or below the value's exponent. -/
def unitsOf (neg : Bool) (n : Nat) (e q : Int) : Int := (if neg then -1 else 1) * (n * 2 ^ (e - q).toNat : Nat)
/-- The sum; an exact zero is +0 unless both operands are negative. -/
def FVal.add : FVal → FVal → FVal
  | .nan, _ => .nan
  | _, .nan => .nan
  | .inf s, .inf t => if s = t then .inf s else .nan
  | .inf s, _ => .inf s
  | _, .inf t => .inf t
  | .fin s n e, .fin t m f =>
    let q := if e ≤ f then e else f
    let x := unitsOf s n e q + unitsOf t m f q
    if x = 0 then .fin (s && t) 0 0 else .fin (decide (x < 0)) x.natAbs q
/-- The product. -/
def FVal.mul : FVal → FVal → FVal
  | .nan, _ => .nan
  | _, .nan => .nan
  | .inf s, .inf t => .inf (s != t)
  | .inf s, .fin t m _ => if m = 0 then .nan else .inf (s != t)
  | .fin s n _, .inf t => if n = 0 then .nan else .inf (s != t)
  | .fin s n e, .fin t m f => .fin (s != t) (n * m) (e + f)
/-- The value times 2^k (R176). -/
def FVal.scale (k : Int) : FVal → FVal
  | .fin s n e => .fin s n (e + k)
  | x => x

/-! ## Comparison (R178, R179) -/

/-- The value is NaN. -/
def FVal.isNan : FVal → Bool
  | .nan => true
  | _ => false
/-- a < b for values that are no NaN; −0 = +0. -/
def FVal.lt : FVal → FVal → Bool
  | .nan, _ => false
  | _, .nan => false
  | .inf s, .inf t => s && !t
  | .inf s, .fin _ _ _ => s
  | .fin _ _ _, .inf t => !t
  | .fin s n e, .fin t m f =>
    let q := if e ≤ f then e else f
    decide (unitsOf s n e q < unitsOf t m f q)
/-- a = b for values that are no NaN. -/
def FVal.eq (a b : FVal) : Bool := !a.isNan && !b.isNan && !a.lt b && !b.lt a
/-- The sign is negative. -/
def FVal.isNeg : FVal → Bool
  | .nan => false
  | .inf s => s
  | .fin s _ _ => s
/-- IEEE 754-2019 minimum, −0 below +0. -/
def FVal.minv (a b : FVal) : FVal :=
  if a.isNan || b.isNan then .nan
  else if a.lt b then a else if b.lt a then b else if a.isNeg then a else b
/-- IEEE 754-2019 maximum. -/
def FVal.maxv (a b : FVal) : FVal :=
  if a.isNan || b.isNan then .nan
  else if a.lt b then b else if b.lt a then a else if a.isNeg then b else a

/-! ## Conversions (R150, R157) -/

/-- The exact value of an integer pattern of width w. -/
def intVal (w x : Nat) : FVal := let v := sgn w x; .fin (decide (v < 0)) v.natAbs 0
/-- The exact value of an E8M0 code (R150). -/
def e8Val (c : Nat) : FVal := if c % 256 = 255 then .nan else .fin false 1 ((c % 256 : Nat) - 127 : Int)
/-- The exact value of an element, subnormals read as zero under `fi` where the element is FP (R158). -/
def etVal (t : EType) (fi : Bool) (x : Nat) : FVal :=
  match etFmt t, etInt t with
  | some f, _ => f.val (f.flush fi x)
  | none, some w => intVal w x
  | none, none => e8Val x
/-- Exact value to an integer of width w (R157). -/
def toInt (w mode rnd : Nat) (sat : Bool) : FVal → Nat
  | .nan => if sat then 0 else 2 ^ (w - 1)
  | .inf neg => if sat && !neg then 2 ^ (w - 1) - 1 else 2 ^ (w - 1)
  | .fin neg n e =>
    let m := if 128 ≤ (bitLen n : Int) + e then 2 ^ 128 else roundUnits mode rnd neg n e 0
    if m < 2 ^ (w - 1) || (neg && m == 2 ^ (w - 1)) then (if neg then (2 ^ w - m) % 2 ^ w else m)
    else if sat && !neg then 2 ^ (w - 1) - 1 else 2 ^ (w - 1)
/-- Exact value to an E8M0 code (R157). -/
def toE8 (mode : Nat) : FVal → Nat
  | .nan => 255
  | .inf _ => 255
  | .fin _ n e =>
    if n = 0 then 0
    else
      let fl : Int := (bitLen n : Int) - 1 + e
      let p := 2 ^ (bitLen n - 1)
      let c : Int := match mode with
        | 2 => if n = p then fl else fl + 1
        | 0 => if 2 * n < 3 * p then fl
               else if 3 * p < 2 * n then fl + 1
               else if (fl + 127) % 2 = 0 then fl else fl + 1
        | _ => fl
      let k := c + 127
      if k < 0 then 0 else if 254 < k then 254 else k.toNat
/-- A conversion that is exact and never saturates, whatever the saturation bit: to a wider FP format, or from E8M0 (R157). -/
def noSat (a b : EType) : Bool := a == .e8m0 || ((etFmt a).isSome && (etFmt b).isSome && decide (etWidth a < etWidth b))
/-- A conversion (R157): result pattern. `fi` and `fo` are the tile's flush bits, false for a junction (R158). -/
def convert (a b : EType) (mode rnd : Nat) (sat fi fo : Bool) (x : Nat) : Nat :=
  match etFmt b, etInt b with
  | some f, _ =>
    if a = b then (let y := f.flush fi x; f.flush fo (if f.isNan y then f.nan else y))
    else f.flush fo (f.round mode rnd (sat && !noSat a b) (etVal a fi x))
  | none, some w =>
    match etInt a with
    | some v => if sat then toInt w 0 0 true (intVal v x) else unsgn w (sgn v x)
    | none => toInt w mode rnd sat (etVal a fi x)
  | none, none => if a = b then x % 256 else toE8 mode (etVal a fi x)
/-- A conversion that does not accept stochastic rounding (R157). -/
def srRefused (a b : EType) : Bool := b == .e8m0 && a != .e8m0
/-- A conversion originates a NaN: its result is a NaN of an FP or E8M0 format and its input was none (R160). -/
def convertNan (a b : EType) (x r : Nat) : Bool :=
  !(etVal a false x).isNan && (etInt b).isNone && (etVal b false r).isNan

end Sys2Proof.Machine
end

