-- ==== Sys2Proof/Machine/Flags.lean ====
section
/-! DEFINITION. The flags of the machine: valid and poison bits of result lanes (R170), the first-NaN record of a tile (R160), and the emission of a token instruction's result (R171). -/
namespace Sys2Proof.Machine

/-! ## First NaN (R160) -/

/-- ACR.FLUSHIN, FLUSHOUT, NANTRAP and NANHIT (R82). -/
def acrFi (a : BitVec 4) : Bool := a.getLsbD 0
/-- FLUSHOUT. -/
def acrFo (a : BitVec 4) : Bool := a.getLsbD 1
/-- The oldest token instruction of a tile's pipeline completes: its result is written, or pushed into the slot it reserved (R171). -/
def State.tokDone (s : State) (t : Nat) : State :=
  match (s.tile t).vpipe with
  | [] => s
  | o :: r =>
    let s1 := s.modTile t fun x => { x with vpipe := r }
    let ph := (s.task t o.slot).phase
    match o.dst with
    | .w d => s1.modTask t o.slot fun k => { k with w := vset k.w d.toNat o.tok }
    | .m d => s1.modTask t o.slot fun k => { k with m := vset k.m d.toNat o.mval }
    | .o p => (s1.fillOf t o.slot ph p o.tok).progressAt t ph
/-- The n-th delivery of a tile reaches its register; a poisoned one delivers zero and the task traps TOKEN_POISON at its next issue
(R174). -/
def State.llDone (s : State) (t n : Nat) : State :=
  match (s.tile t).ll[n]? with
  | none => s
  | some o =>
    let s1 := s.modTile t fun x => { x with ll := x.ll.eraseIdx n }
    match o.pois with
    | none => s1.deliver t o.slot o.d o.val
    | some l => (s1.deliver t o.slot o.d 0).modTask t o.slot fun k => { k with ptraps := k.ptraps ++ [⟨22, some o.pc, w64 l.toNat⟩] }
/-- The first n token instructions of a tile complete. -/
def State.tokDoneN : Nat → State → Nat → State
  | 0, s, _ => s
  | n + 1, s, t => State.tokDoneN n (s.tokDone t) t
/-- Matrix words that have issued on the issuer's logical tile and are not done (R81). -/
def State.matIssued (s : State) : List MItem :=
  (s.tile s.ctx.tile).mq.filter fun i => i.acr.isSome && (s.task s.ctx.tile i.slot).phase == s.cur.phase
/-- The first-NaN registers are loaded for an instruction of the issuer at a word index, with NLANE and NFMT, and its task traps NAN_FIRST
before its next word (R82, R160); `by_` names the matrix words that issued before it and go on. -/
def State.nanLoad (s : State) (nlane nfmt pc : Nat) (by_ : List (Nat × Nat)) : State :=
  (s.modCurLt fun x => { x with
    acr := x.acr ||| 8, ntile := w64 (x.lx.toNat + 256 * x.ly.toNat), nlane := w64 nlane, nfmt := w64 nfmt,
    npc := w64 (pc % 8192 + 8192 * s.cur.img.toNat), nanBy := by_ }).modCur fun k => { k with ptraps := k.ptraps ++ [⟨14, none, 0⟩] }
/-- The token instruction in hand, at a word index, may originate a NaN. Under NANTRAP and with NANHIT clear it completes with all that the
tile has in its pipeline and with its own delivery, and then NANHIT is set and the registers are loaded (R81, R160, log 5); not where a
matrix word that issued before it has originated one already. -/
def State.nanOpt (s : State) (o : Option Nat) (nfmt pc : Nat) : State :=
  match o with
  | none => s
  | some l =>
    let x := s.curLt
    if !x.acr.getLsbD 2 || x.acr.getLsbD 3 || s.matIssued.any (fun i => i.prog.nan.isSome) then s
    else
      let t := s.ctx.tile
      let s1 := State.tokDoneN (s.tile t).vpipe.length s t
      let s2 := match (s1.tile t).ll.getLast? with
        | some d => if d.slot = s.ctx.slot ∧ d.pc = pc then s1.llDone t ((s1.tile t).ll.length - 1) else s1
        | none => s1
      s2.nanLoad l nfmt pc (s.matIssued.map fun i => (i.seq, i.pos))
/-- NFMT of a token instruction: etype written and source etype (R82). -/
def nfmtOf (dst src : EType) : Nat := 16 * dst.code + src.code

/-! ## Lanes (R170) -/

/-- A mask operand, all lanes where there is none (R40). -/
def State.maskOf (s : State) (k : Option (BitVec 2)) : BitVec 16 := match k with | none => 0xFFFF | some m => s.m m
/-- Lane k is live: valid in every source and selected by the mask. -/
def liveAt (srcs : List Token) (mask : BitVec 16) (k : Nat) : Bool := srcs.all (fun x => x.val k) && mask.toNat.testBit k
/-- An element: its bits, whether its lane or lanes are live, whether one of them is poisoned, and whether it originates a NaN. -/
structure El where
  bits : Nat := 0
  live : Bool := false
  pois : Bool := false
  nan  : Bool := false
/-- The elements of width w of a token under a mask; an INT64 element is live if both its lanes are (R170). -/
def elsOf (w : Nat) (mask : BitVec 16) (x : Token) : List El :=
  (elems w x.data).zipIdx.map fun (b, j) =>
    let ls := elemLanes w j
    { bits := b, live := ls.all (liveAt [x] mask), pois := ls.any x.pois }
/-- Element j of a list, a dead one where there is none. -/
def elAt (l : List El) (j : Nat) : El := l.getD j {}
/-- The lowest NLANE index of an origin: 4 × lane + element (R82, R160). The element is live and its result lane is valid and unpoisoned. -/
def originOf (w : Nat) (els : List El) (valid poison : BitVec 16) : Option Nat :=
  (els.zipIdx.findSome? fun (e, j) =>
    let k := j * w / 32
    if e.nan && e.live && valid.toNat.testBit k && !poison.toNat.testBit k then some (4 * k + (j - k * 32 / w)) else none)
/-- A token from result elements of width w, whose lanes are valid where some element is live and poisoned where some live element
is; elements that are not live are zero bits (R170). -/
def assemble (w : Nat) (els : List El) (tag : BitVec 6) : Token × Option Nat :=
  let els := fit {} (512 / w) els
  let inLane (k : Nat) : List El := if w = 64 then [elAt els (k / 2)] else (els.drop (k * (32 / w))).take (32 / w)
  let valid := bits16 fun k => (inLane k).any (·.live)
  let poison := bits16 fun k => (inLane k).any fun e => e.live && e.pois
  (⟨ofElems w (els.map fun e => if e.live then e.bits else 0), valid, poison, tag, .data⟩, originOf w els valid poison)
/-- The element-by-element form: element j of every source to element j of the result (R170, first rows). -/
def elementwise (w : Nat) (srcs : List Token) (mask : BitVec 16) (f : Nat → List Nat → Nat × Bool) : Token × Option Nat :=
  let ls := srcs.map (elsOf w mask)
  assemble w ((upTo (512 / w)).map fun j =>
    let es := ls.map (elAt · j)
    let (r, o) := f j (es.map (·.bits))
    { bits := r, live := es.all (·.live), pois := es.any (·.pois), nan := o })
    (srcs.headD {}).tag

/-! ## Results of token instructions (R40, R171) -/

/-- Puts a result into the pipeline, reserving its output slot (R171). -/
def State.emit (s : State) (dst : BitVec 4) (x : Token) : State :=
  if isPort dst then
    (s.reserve (codeNo dst)).modTile s.ctx.tile fun y => { y with vpipe := y.vpipe ++ [⟨s.ctx.slot, .o (codeNo dst), x, 0⟩] }
  else s.modTile s.ctx.tile fun y => { y with vpipe := y.vpipe ++ [⟨s.ctx.slot, .w (codeNo dst), x, 0⟩] }
/-- Puts a result for an m register into the pipeline. -/
def State.emitM (s : State) (d : BitVec 2) (x : BitVec 16) : State :=
  s.modTile s.ctx.tile fun y => { y with vpipe := y.vpipe ++ [⟨s.ctx.slot, .m d, {}, x⟩] }
/-- Marks g[d] pending and delivers to it later (R174). -/
def State.emitG (s : State) (d : BitVec 4) (x : DWord) (pois : Option (BitVec 4)) : State :=
  (s.markG d .pending).modTile s.ctx.tile fun y => { y with ll := y.ll ++ [⟨s.ctx.slot, d, x, pois, s.cur.pc⟩] }
/-- The mask registers that a mask operand reads. -/
def maskRegs (k : Option (BitVec 2)) : List (BitVec 2) := k.toList
/-- A token instruction of groups 0x10 to 0x15 and 0x17: checks, heads consumed, the result emitted, a NaN recorded (R170 to R173). -/
def tokenOp (s : State) (srcs : List (BitVec 4)) (dst : BitVec 4) (k : Option (BitVec 2)) (nfmt : Nat)
    (f : List Token → BitVec 16 → Token × Option Nat) : State :=
  needT s srcs (some dst) (maskRegs k) true (
    let (r, o) := f (srcs.map s.tok) (s.maskOf k)
    advance (((s.popAll (portsOf srcs)).emit dst r).nanOpt o nfmt s.cur.pc) 1)

end Sys2Proof.Machine
end

