-- ==== Sys2Proof/Machine/FpFun.lean ====
section
/-! DEFINITION. The special functions of group 0x14 (R188, R189): exact reciprocals, and elementary functions computed in fixed point far beyond the result's precision before the one rounding (log 12). -/
namespace Sys2Proof.Machine

/-! ## Fixed-point arithmetic with 400 fraction bits -/

/-- One. -/
def fxOne : Nat := 2 ^ 400
/-- A product. -/
def fxMul (a b : Nat) : Nat := a * b / fxOne
/-- A quotient. -/
def fxDiv (a b : Nat) : Nat := a * fxOne / b
/-- Terms y^i/i! from a term on. -/
def expGo (y : Nat) : Nat → Nat → Nat → Nat → Nat
  | 0, _, _, acc => acc
  | k + 1, i, t, acc => let u := fxMul t y / i; expGo y k (i + 1) u (acc + u)
/-- e^y for 0 ≤ y < 1. -/
def fxExp (y : Nat) : Nat := expGo y 110 1 fxOne fxOne
/-- Terms z^(2i+1)/(2i+1). -/
def atanhGo (z2 : Nat) : Nat → Nat → Nat → Nat → Nat
  | 0, _, _, acc => acc
  | k + 1, i, p, acc => atanhGo z2 k (i + 2) (fxMul p z2) (acc + p / i)
/-- ln m for 1 ≤ m ≤ 2. -/
def fxLn (m : Nat) : Nat :=
  let z := fxDiv (m - fxOne) (m + fxOne)
  2 * atanhGo (fxMul z z) 130 1 z 0
/-- ln 2. -/
def fxLn2 : Nat := fxLn (2 * fxOne)
/-- Alternating terms of atan(1/q). -/
def atanGo (q : Nat) : Nat → Nat → Nat → Bool → Int → Int
  | 0, _, _, _, acc => acc
  | k + 1, i, p, s, acc => atanGo q k (i + 2) (p / (q * q)) (!s) (if s then acc - (p / i : Nat) else acc + (p / i : Nat))
/-- π. -/
def fxPi : Nat := (16 * atanGo 5 95 1 (fxOne / 5) false 0 - 4 * atanGo 239 40 1 (fxOne / 239) false 0).toNat
/-- Bits of an integer square root, from bit k − 1 down. -/
def isqrtGo (n : Nat) : Nat → Nat → Nat
  | 0, acc => acc
  | k + 1, acc => isqrtGo n k (if (acc + 2 ^ k) * (acc + 2 ^ k) ≤ n then acc + 2 ^ k else acc)
/-- ⌊√n⌋. -/
def isqrt (n : Nat) : Nat := isqrtGo n (bitLen n / 2 + 1) 0
/-- 2/√π. -/
def fxErfC : Nat := fxDiv (2 * fxOne) (isqrt (fxPi * fxOne))
/-- e^(−y) for y ≥ 0. -/
def fxExpNeg (y : Nat) : Nat :=
  let t := fxDiv y fxLn2
  fxDiv fxOne (fxExp (fxMul (t % fxOne) fxLn2)) / 2 ^ (t / fxOne)
/-- Terms x·(2x²)^n/(1·3···(2n+1)). -/
def erfGo (y : Nat) : Nat → Nat → Nat → Nat → Nat
  | 0, _, _, acc => acc
  | k + 1, i, t, acc => let u := fxMul t y / i; erfGo y k (i + 2) u (acc + u)

/-! ## The functions on finite nonzero values -/

/-- |x| ≥ 2^k for the magnitude n · 2^e. -/
def atLeast (k : Int) (n : Nat) (e : Int) : Bool := decide (k ≤ (bitLen n : Int) - 1 + e)
/-- n · 2^e in fixed point, for e ≥ −400. -/
def toFx (n : Nat) (e : Int) : Nat := n * 2 ^ (e + 400).toNat
/-- 1/x with more bits than any result keeps. -/
def rcpFin (neg : Bool) (n : Nat) (e : Int) : FVal := .fin neg (2 ^ (bitLen n + 64) / n) (-e - (bitLen n + 64 : Nat))
/-- 1/√x for x > 0. -/
def rsqFin (n : Nat) (e : Int) : FVal :=
  -- x = n' · 2^(2h) with n' = n or 2n; √ of 2^M / n' to at least 64 bits, M even
  let n' := if e % 2 = 0 then n else 2 * n
  let h := (if e % 2 = 0 then e else e - 1) / 2
  let k := bitLen n' + 64
  .fin false (isqrt (2 ^ (2 * k) / n')) (-h - (k : Nat))
/-- 2^x. -/
def exp2Fin (neg : Bool) (n : Nat) (e : Int) : FVal :=
  if atLeast 12 n e then .fin false 1 (if neg then -5000 else 5000)
  else
    let v : Int := if neg then -(toFx n e : Int) else (toFx n e : Int)
    let k := v / (fxOne : Int)
    let f := (v % (fxOne : Int)).toNat
    if f = 0 then .fin false 1 k else .fin false (fxExp (fxMul f fxLn2)) (k - 400)
/-- log2 x for x > 0. -/
def log2Fin (n : Nat) (e : Int) : FVal :=
  let l := bitLen n - 1
  let m := n * 2 ^ (400 - l)
  let i : Int := e + l
  let t : Int := i * (fxOne : Int) + if m = fxOne then 0 else (fxDiv (fxLn m) fxLn2 : Int)
  .fin (decide (t < 0)) t.natAbs (-400)
/-- tanh x. -/
def tanhFin (neg : Bool) (n : Nat) (e : Int) : FVal :=
  if atLeast 6 n e then .fin neg (fxOne - 1) (-400)
  else
    let y := fxExpNeg (2 * toFx n e)
    .fin neg (fxDiv (fxOne - y) (fxOne + y)) (-400)
/-- erf x. -/
def erfFin (neg : Bool) (n : Nat) (e : Int) : FVal :=
  if atLeast 3 n e then .fin neg (fxOne - 1) (-400)
  else
    let x := toFx n e
    let x2 := fxMul x x
    .fin neg (fxMul fxErfC (fxMul (fxExpNeg x2) (erfGo (2 * x2) 520 3 x x))) (-400)

/-! ## Special inputs and rounding -/

/-- The ops of group 0x14. -/
inductive SpecFn where
  | rcp | rsq | exp2 | log2 | tanh | erf
  deriving DecidableEq, Repr

/-- Exact value, or one beyond the result's precision, of a function (R188, R189); NaN for a NaN or where R189 gives one. -/
def SpecFn.eval (o : SpecFn) (x : FVal) : FVal :=
  match o, x with
  | _, .nan => .nan
  | .rcp, .inf s => .fin s 0 0
  | .rcp, .fin s n e => if n = 0 then .inf s else rcpFin s n e
  | .rsq, .inf s => if s then .nan else .fin false 0 0
  | .rsq, .fin s n e => if n = 0 then .inf s else if s then .nan else rsqFin n e
  | .exp2, .inf s => if s then .fin false 0 0 else .inf false
  | .exp2, .fin s n e => if n = 0 then .fin false 1 0 else exp2Fin s n e
  | .log2, .inf s => if s then .nan else .inf false
  | .log2, .fin s n e => if n = 0 then .inf true else if s then .nan else log2Fin n e
  | .tanh, .inf s => .fin s 1 0
  | .tanh, .fin s n e => if n = 0 then .fin s 0 0 else tanhFin s n e
  | .erf, .inf s => .fin s 1 0
  | .erf, .fin s n e => if n = 0 then .fin s 0 0 else erfFin s n e

/-- The rounded result: estimates are truncated to p = min(12, precision) bits and overflow to infinity, the others are rounded RNE
(R188). Truncation is stochastic rounding with the word 0 (R155). -/
def SpecFn.result (o : SpecFn) (f : Fmt) (x : FVal) : Nat :=
  match o.eval x with
  | .fin s n e =>
    match o with
    | .rcp => f.roundFin (min 11 f.mb) 4 0 false s n e
    | .rsq => f.roundFin (min 11 f.mb) 4 0 false s n e
    | _ => f.roundFin f.mb 0 0 false s n e
  | v => f.round 0 0 false v

end Sys2Proof.Machine
end

