-- ==== Sys2Proof/Machine/TokenFp.lean ====
section
/-! DEFINITION. Token instructions of groups 0x10, 0x11 and 0x14: FP arithmetic, compare and select, special functions (R176 to R179, R188, R189). -/
namespace Sys2Proof.Machine

/-! ## Shared forms -/

/-- The format of an FP element type; the ops that use it accept no other. -/
def fpOf (e : EType) : Fmt := (etFmt e).getD fF32
/-- One FP element: exact values after FLUSHIN, one rounding RNE, FLUSHOUT, canonical NaN and its origin (R163, R177). -/
def fpEl (f : Fmt) (acr : BitVec 4) (g : List FVal → FVal) (xs : List Nat) : Nat × Bool :=
  let vs := xs.map fun x => f.val (f.flush (acrFi acr) x)
  let r := f.flush (acrFo acr) (f.round 0 0 false (g vs))
  (r, f.isNan r && !vs.any (·.isNan))
/-- The FP form of one result element for each element index (R177). -/
def fpOp (s : State) (srcs : List (BitVec 4)) (d : BitVec 4) (k : Option (BitVec 2)) (e : EType) (g : List FVal → FVal) : State :=
  let acr := s.curLt.acr
  tokenOp s srcs d k (nfmtOf e e) fun ts m => elementwise (etWidth e) ts m fun _ xs => fpEl (fpOf e) acr g xs
/-- The form that only moves or tests bits: no ACR, no origin (R173, R180). -/
def bitOp (s : State) (srcs : List (BitVec 4)) (d : BitVec 4) (k : Option (BitVec 2)) (e : EType) (g : List Nat → Nat) : State :=
  tokenOp s srcs d k 0 fun ts m => elementwise (etWidth e) ts m fun _ xs => (g xs, false)
/-- A compare: all ones or zero of the element's width, on exact values after FLUSHIN (R179). -/
def cmpOp (s : State) (a b d : BitVec 4) (k : Option (BitVec 2)) (e : EType) (g : FVal → FVal → Bool) : State :=
  let f := fpOf e
  let fi := acrFi s.curLt.acr
  bitOp s [a, b] d k e fun xs =>
    if g (f.val (f.flush fi (xs.getD 0 0))) (f.val (f.flush fi (xs.getD 1 0))) then 2 ^ etWidth e - 1 else 0
/-- Values of a list by place. -/
def v0 (l : List FVal) : FVal := l.getD 0 .nan
/-- The second value. -/
def v1 (l : List FVal) : FVal := l.getD 1 .nan
/-- The third value. -/
def v2 (l : List FVal) : FVal := l.getD 2 .nan

/-! ## FP arithmetic (group 0x10, R176) -/

/-- `v.add` (R176). -/
def execVAdd (d a b : BitVec 4) (k : Option (BitVec 2)) (e : EType) (s : State) : Out :=
  .next (fpOp s [a, b] d k e fun l => (v0 l).add (v1 l))
/-- `v.sub` (R176). -/
def execVSub (d a b : BitVec 4) (k : Option (BitVec 2)) (e : EType) (s : State) : Out :=
  .next (fpOp s [a, b] d k e fun l => (v0 l).add (v1 l).flip)
/-- `v.mul` (R176). -/
def execVMul (d a b : BitVec 4) (k : Option (BitVec 2)) (e : EType) (s : State) : Out :=
  .next (fpOp s [a, b] d k e fun l => (v0 l).mul (v1 l))
/-- `v.fma` (R176): one rounding. -/
def execVFma (d a b c : BitVec 4) (e : EType) (s : State) : Out :=
  .next (fpOp s [a, b, c] d none e fun l => ((v0 l).mul (v1 l)).add (v2 l))
/-- `v.fms` (R176): one rounding. -/
def execVFms (d a b c : BitVec 4) (e : EType) (s : State) : Out :=
  .next (fpOp s [a, b, c] d none e fun l => ((v0 l).mul (v1 l)).add (v2 l).flip)
/-- `v.fnma` (R176): one rounding. -/
def execVFnma (d a b c : BitVec 4) (e : EType) (s : State) : Out :=
  .next (fpOp s [a, b, c] d none e fun l => ((v0 l).mul (v1 l)).flip.add (v2 l))
/-- `v.abs` (R176): the sign bit cleared, NaNs included (R177). -/
def execVAbs (d a : BitVec 4) (k : Option (BitVec 2)) (e : EType) (s : State) : Out :=
  .next (bitOp s [a] d k e fun xs => xs.getD 0 0 % 2 ^ (etWidth e - 1))
/-- `v.neg` (R176): the sign bit inverted. -/
def execVNeg (d a : BitVec 4) (k : Option (BitVec 2)) (e : EType) (s : State) : Out :=
  .next (bitOp s [a] d k e fun xs => xs.getD 0 0 ^^^ 2 ^ (etWidth e - 1))
/-- `v.scl` (R176): lane k of tb is an INT32 whatever the etype; tb supplies lane k for every element of lane k. -/
def execVScl (d a b : BitVec 4) (k : Option (BitVec 2)) (e : EType) (s : State) : Out :=
  let acr := s.curLt.acr
  let f := fpOf e
  .next (tokenOp s [a, b] d k (nfmtOf e e) fun ts m =>
    elementwise (etWidth e) ts m fun j xs =>
      fpEl f acr (fun l => (v0 l).scale (sgn 32 ((ts.getD 1 {}).lane (j * etWidth e / 32)))) (xs.take 1))

/-! ## Compare, select, minimum and maximum (group 0x11, R178) -/

/-- `v.ceq` (R178). -/
def execVCeq (d a b : BitVec 4) (k : Option (BitVec 2)) (e : EType) (s : State) : Out :=
  .next (cmpOp s a b d k e fun x y => x.eq y)
/-- `v.cne` (R178): true for a NaN. -/
def execVCne (d a b : BitVec 4) (k : Option (BitVec 2)) (e : EType) (s : State) : Out :=
  .next (cmpOp s a b d k e fun x y => !x.eq y)
/-- `v.clt` (R178). -/
def execVClt (d a b : BitVec 4) (k : Option (BitVec 2)) (e : EType) (s : State) : Out :=
  .next (cmpOp s a b d k e fun x y => x.lt y)
/-- `v.cle` (R178). -/
def execVCle (d a b : BitVec 4) (k : Option (BitVec 2)) (e : EType) (s : State) : Out :=
  .next (cmpOp s a b d k e fun x y => x.lt y || x.eq y)
/-- `v.cun` (R178). -/
def execVCun (d a b : BitVec 4) (k : Option (BitVec 2)) (e : EType) (s : State) : Out :=
  .next (cmpOp s a b d k e fun x y => x.isNan || y.isNan)
/-- `v.sel` (R178, R179): chosen by the bits of element c. -/
def execVSel (d a b c : BitVec 4) (e : EType) (s : State) : Out :=
  .next (bitOp s [a, b, c] d none e fun xs => if xs.getD 2 0 = 0 then xs.getD 1 0 else xs.getD 0 0)
/-- `v.min` (R178). -/
def execVMin (d a b : BitVec 4) (k : Option (BitVec 2)) (e : EType) (s : State) : Out :=
  .next (fpOp s [a, b] d k e fun l => (v0 l).minv (v1 l))
/-- `v.max` (R178). -/
def execVMax (d a b : BitVec 4) (k : Option (BitVec 2)) (e : EType) (s : State) : Out :=
  .next (fpOp s [a, b] d k e fun l => (v0 l).maxv (v1 l))
/-- `v.clamp` (R178). -/
def execVClamp (d a b c : BitVec 4) (e : EType) (s : State) : Out :=
  .next (fpOp s [a, b, c] d none e fun l => ((v0 l).maxv (v1 l)).minv (v2 l))

/-! ## Special functions (group 0x14, R188) -/

/-- The form of group 0x14. -/
def specOp (s : State) (d a : BitVec 4) (k : Option (BitVec 2)) (e : EType) (o : SpecFn) : State :=
  let acr := s.curLt.acr
  let f := fpOf e
  tokenOp s [a] d k (nfmtOf e e) fun ts m => elementwise (etWidth e) ts m fun _ xs =>
    let v := f.val (f.flush (acrFi acr) (xs.getD 0 0))
    let r := f.flush (acrFo acr) (o.result f v)
    (r, f.isNan r && !v.isNan)
/-- `v.rcp` (R188, R189). -/
def execVRcp (d a : BitVec 4) (k : Option (BitVec 2)) (e : EType) (s : State) : Out :=
  .next (specOp s d a k e .rcp)
/-- `v.rsq` (R188, R189). -/
def execVRsq (d a : BitVec 4) (k : Option (BitVec 2)) (e : EType) (s : State) : Out :=
  .next (specOp s d a k e .rsq)
/-- `v.exp2` (R188, R189). -/
def execVExp2 (d a : BitVec 4) (k : Option (BitVec 2)) (e : EType) (s : State) : Out :=
  .next (specOp s d a k e .exp2)
/-- `v.log2` (R188, R189). -/
def execVLog2 (d a : BitVec 4) (k : Option (BitVec 2)) (e : EType) (s : State) : Out :=
  .next (specOp s d a k e .log2)
/-- `v.tanh` (R188, R189). -/
def execVTanh (d a : BitVec 4) (k : Option (BitVec 2)) (e : EType) (s : State) : Out :=
  .next (specOp s d a k e .tanh)
/-- `v.erf` (R188, R189). -/
def execVErf (d a : BitVec 4) (k : Option (BitVec 2)) (e : EType) (s : State) : Out :=
  .next (specOp s d a k e .erf)

end Sys2Proof.Machine
end

