-- ==== Sys2Proof/Machine/TokenCvt.lean ====
section
/-! DEFINITION. Token instructions of group 0x13: convert, pack and quantise (R161, R162, R181 to R187). -/
namespace Sys2Proof.Machine

/-! ## Convert (R181 to R183) -/

/-- Elements of a format in one token (R181). -/
def perTok (e : EType) : Nat := 512 / etWidth e
/-- A conversion of `count` elements from element `first` on (R182), the random word of each given by `rnd` (R156). -/
def cvtToken (fr tt : EType) (mode : Nat) (sat : Bool) (acr : BitVec 4) (first count : Nat) (rnd : Nat → Nat) (x : Token) : Token × Option Nat :=
  let src := elsOf (etWidth fr) 0xFFFF x
  assemble (etWidth tt) ((upTo count).map fun e =>
    let y := elAt src (first + e)
    let r := convert fr tt mode (rnd e) sat (acrFi acr) (acrFo acr) y.bits
    { y with bits := r, nan := convertNan fr tt y.bits r }) x.tag
/-- The random word of an element: lane e mod 16 of the random token, rotated left by 8·⌊e/16⌋ bits (R156). -/
def rndWord (x : Token) (e : Nat) : Nat :=
  let r := 8 * (e / 16) % 32
  let l := x.lane (e % 16)
  (l * 2 ^ r + l / 2 ^ (32 - r)) % 2 ^ 32
/-- `v.cvt` (R182): `m` is the mode, or the part where TO has fewer elements than FROM. -/
def execVCvt (d a : BitVec 4) (f : EType) (sat : Bool) (m : BitVec 3) (e : EType) (s : State) : Out :=
  let acr := s.curLt.acr
  .next (tokenOp s [a] d none (nfmtOf e f) fun ts _ =>
    let x := ts.headD {}
    if perTok f ≤ perTok e then cvtToken f e m.toNat sat acr 0 (perTok f) (fun _ => 0) x
    else cvtToken f e 0 false acr (m.toNat * perTok e) (perTok e) (fun _ => 0) x)
/-- `v.cvt.sr` (R183): stochastic, the random words from tb, whose sideband is not read. -/
def execVCvtSr (d a b : BitVec 4) (sat : Bool) (f : EType) (e : EType) (s : State) : Out :=
  let acr := s.curLt.acr
  .next (tokenOp s [a, b] d none (nfmtOf e f) fun ts _ =>
    cvtToken f e 4 sat acr 0 (perTok f) (rndWord (ts.getD 1 {})) (ts.headD {}))

/-! ## Pack and unpack (R184) -/

/-- The narrow part is the high half for the FP pairs. -/
def highHalf (e : EType) : Bool := e == .bf16 || e == .e5m2
/-- Masks result lanes (R170). -/
def maskLanes (m : BitVec 16) (x : Token) : Token :=
  { x with data := laneFn fun k => if m.toNat.testBit k && x.val k then x.lane k else 0, valid := x.valid &&& m, poison := x.poison &&& m }
/-- `v.pack` (R184). -/
def execVPack (d a b : BitVec 4) (k : Option (BitVec 2)) (e : EType) (s : State) : Out :=
  .next (tokenOp s [a, b] d k 0 fun ts m =>
    let w := etWidth e
    let src := (elsOf (2 * w) 0xFFFF (ts.getD 0 {})) ++ (elsOf (2 * w) 0xFFFF (ts.getD 1 {}))
    let r := (assemble w (src.map fun x => { x with bits := if highHalf e then x.bits / 2 ^ w else x.bits % 2 ^ w }) (ts.headD {}).tag).1
    (maskLanes m r, none))
/-- Widens half of the narrow elements of a token (R184). -/
def unpack (s : State) (d a : BitVec 4) (k : Option (BitVec 2)) (e : EType) (hi : Bool) : State :=
  tokenOp s [a] d k 0 fun ts m =>
    let w := etWidth e
    let n := 256 / w
    let src := ((elsOf w 0xFFFF (ts.headD {})).drop (if hi then n else 0)).take n
    let r := (assemble (2 * w) (src.map fun x =>
      { x with bits := if highHalf e then x.bits * 2 ^ w else unsgn (2 * w) (sgn w x.bits) }) (ts.headD {}).tag).1
    (maskLanes m r, none)
/-- `v.unpk.lo` (R184). -/
def execVUnpkLo (d a : BitVec 4) (k : Option (BitVec 2)) (e : EType) (s : State) : Out := .next (unpack s d a k e false)
/-- `v.unpk.hi` (R184). -/
def execVUnpkHi (d a : BitVec 4) (k : Option (BitVec 2)) (e : EType) (s : State) : Out := .next (unpack s d a k e true)

/-! ## Block quantisation (R161, R162, R185, R186) -/

/-- ⌊log2⌋ of a nonzero magnitude. -/
def FVal.log2 : FVal → Int
  | .fin _ n e => (bitLen n : Int) - 1 + e
  | _ => 0
/-- The magnitude is zero. -/
def FVal.isZero : FVal → Bool
  | .fin _ n _ => n == 0
  | _ => false
/-- The value is infinite. -/
def FVal.isInf : FVal → Bool
  | .inf _ => true
  | _ => false
/-- emax of a quantised format (R161). -/
def emaxQ : EType → Int
  | .e4m3 => 8 | .e5m2 => 15 | _ => 6
/-- Quantises the present values of a block: the scale code and a function of each value (R161). -/
def quantBlock (q : EType) (mode : Nat) (fo : Bool) (vs : List FVal) : Nat × (FVal → Nat × Bool) :=
  if vs.any fun v => v.isNan || v.isInf then
    (255, fun _ => match etFmt q with
      | some f => (f.nan, !vs.any (·.isNan))
      | none => (0, false))
  else
    let nz := vs.filter fun v => !v.isZero
    match nz with
    | [] => (0, fun _ => (0, false))
    | v :: r =>
      let top := r.foldl (fun a b => if a < b.log2 then b.log2 else a) v.log2
      let c := top - emaxQ q + 127
      let code : Nat := if c < 0 then 0 else if 254 < c then 254 else c.toNat
      (code, fun v =>
        let y := v.scale (127 - (code : Int))
        match etFmt q with
        | some f => (f.flush fo (f.round mode 0 true y), false)
        | none =>
          let i := sgn 16 (toInt 16 mode 0 true y)
          (unsgn 8 (if i < -127 then -127 else if 127 < i then 127 else i), false))
/-- `v.qblk` (R185): 32 FP32 elements of ta and tb, or 32 BF16 elements of ta where there is no tb. -/
def execVQblk (d a : BitVec 4) (b : Option (BitVec 4)) (m : BitVec 3) (e : EType) (s : State) : Out :=
  let acr := s.curLt.acr
  let st : EType := match b with | some _ => .f32 | none => .bf16
  .next (tokenOp s (a :: b.toList) d none (nfmtOf e st) fun ts _ =>
    let src := (ts.map (elsOf (etWidth st) 0xFFFF)).flatten
    let vals := src.map fun x => etVal st (acrFi acr) x.bits
    let present := (src.zip vals).filter fun p => p.1.live
    let tag := (ts.headD {}).tag
    if present.isEmpty then (⟨0, 0, 0, tag, .data⟩, none)
    else
      let (code, f) := quantBlock e m.toNat (acrFo acr) (present.map (·.2))
      let els := (src.zip vals).map fun p => if p.1.live then f p.2 else (0, false)
      let pois := present.any fun p => p.1.pois
      let data := ofElems 8 (els.map (·.1) ++ [code])
      let o := if pois then none else els.zipIdx.findSome? fun (x, j) => if x.2 then some j else none
      (⟨data, 0x1FF, if pois then 0x1FF else 0, tag, .data⟩, o))
/-- Dequantises an element under a scale code (R162). -/
def dequant (q e : EType) (fi fo : Bool) (code x : Nat) : Nat :=
  let f := fpOf e
  if code = 255 then f.nan else f.flush fo (f.round 0 0 false ((etVal q fi x).scale ((code : Int) - 127)))
/-- `v.dqblk` (R186): a result lane draws on the lanes of its elements and on lane 8. -/
def execVDqblk (d a : BitVec 4) (p : Bool) (q : EType) (e : EType) (s : State) : Out :=
  let acr := s.curLt.acr
  .next (tokenOp s [a] d none (nfmtOf e q) fun ts _ =>
    let x := ts.headD {}
    let code := x.lane 8 % 256
    if !x.val 8 then (⟨0, 0, 0, x.tag, .data⟩, none)
    else
      let src := (elsOf 8 0xFFFF x).take 32
      let n := perTok e
      let els := ((src.drop (if p then 16 else 0)).take n).map fun y =>
        { y with bits := if y.live then dequant q e (acrFi acr) (acrFo acr) code y.bits else 0,
                 live := true, pois := (y.live && y.pois) || x.pois 8 : El }
      ((assemble (etWidth e) els x.tag).1, none))

end Sys2Proof.Machine
end

