-- ==== Sys2Proof/Machine/Fabric.lean ====
section
/-! DEFINITION. The fabric: circuits and their hops, arrival, late tokens, getw deliveries and the junctions (R11, R12, R75, R91, R114 to R117, R156, R168, R322, R326). -/
namespace Sys2Proof.Machine

/-! ## Circuits (R11, R12) -/

/-- Stages that a token passes between the source end and the destination end (log 6). -/
def Circuit.stages (c : Circuit) : Nat := max 1 c.hops.length
/-- Tokens that stand at a stage. -/
def Circuit.at_ (c : Circuit) (pos : Nat) : Nat := (c.flight.filter fun x => x.1 == pos).length
/-- Changes a circuit of a region. -/
def State.modCirc (s : State) (rg i : Nat) (f : Circuit → Circuit) : State :=
  s.modRegion rg fun r => { r with circs := r.circs.zipIdx.map fun (c, k) => if k = i then f c else c }
/-- A circuit of a region by place. -/
def State.circ (s : State) (rg i : Nat) : Option Circuit := (s.region rg).bind fun r => r.circs[i]?
/-- Takes the next token of a circuit's source end: one pushed there before, or the head of its output port (R91). -/
def State.srcTake (s : State) (rg i : Nat) (c : Circuit) : Option (Token × State) :=
  match c.entry with
  | x :: l => some (x, s.modCirc rg i fun c => { c with entry := l })
  | [] =>
    if 8 ≤ c.src.ep.toNat ∧ c.src.ep.toNat < 16 then
      let p : BitVec 3 := .ofNat 3 c.src.ep.toNat
      match (vget (s.lt c.src.tile c.src.ph).outP p.toNat {}).fifo with
      | .tok x :: l => some (x, s.modLt c.src.tile c.src.ph fun y =>
          { y with outP := vset y.outP p.toNat { vget y.outP p.toNat {} with fifo := l } })
      | _ => none
    else none
/-- Moves a list's element k one stage on, if the one ahead leaves it room. -/
def hopAt (stages : Nat) (l : List (Nat × Token)) (k : Nat) : List (Nat × Token) :=
  match l[k]? with
  | none => l
  | some (pos, x) =>
    let room := (l.filter fun y => y.1 == pos + 1).length < 2
    let ahead := match k with | 0 => true | j + 1 => (match l[j]? with | some (q, _) => decide (pos < q) | none => true)
    if pos + 1 < stages ∧ room ∧ ahead = true then l.set k (pos + 1, x) else l
/-- TOKEN_HOP (R11): the source's next token moves onto the circuit (n = 0), or token n − 1 on it moves one hop. Circuits exist only once
their region is committed (R12, R346). -/
def execTokenHop (rg c n : Nat) (s : State) : Out :=
  .next (
    match s.region rg, s.circ rg c with
    | some r, some q =>
      if r.st = .fetched then s
      else match n with
      | 0 =>
        if 2 ≤ q.at_ 0 then s
        else match s.srcTake rg c q with
          | none => s
          | some (x, s1) => (s1.modCirc rg c fun q => { q with flight := q.flight ++ [(0, x)] }).progress rg
      | k + 1 => s.modCirc rg c fun q => { q with flight := hopAt q.stages q.flight k }
    | _, _ => s)

/-! ## Arrival and late tokens (R91, R114, R312, R326) -/

/-- Tasks of a logical tile that a commit placed. -/
def State.placedTasks (s : State) (t : Nat) (ph : BitVec 2) : List Task :=
  ((s.tile t).tasks.toList.take 15).filter fun k => k.st != .absent && k.phase == ph
/-- A token that arrives at an input port has no live consumer: every task that the port triggers has retired, or every task of the
tile has, and no stream command or ring takes from it (R326). -/
def State.isLate (s : State) (t : Nat) (ph : BitVec 2) (p : BitVec 3) : Bool :=
  let ks := s.placedTasks t ph
  let own := ks.filter fun k => k.trigP == p
  let gone := fun (l : List Task) => !l.isEmpty && l.all fun k => k.st == .retired
  (gone ks || gone own) &&
    !((s.tile t).cmds.any (fun c => c.binds ph false p) || (s.lt t ph).mat.rings.toList.any fun r => r.feed == some p)
/-- A discard joins the running burst of its endpoint (R326). -/
def burstAdd (cycle : Nat) (x : Token) : Option Burst → Burst
  | none => ⟨x.kind, x.tag, 1, cycle, cycle⟩
  | some b => { b with count := b.count + 1, last := cycle }
/-- Idle tasks whose trigger endpoint has a head become ready (R312). -/
def State.wake (s : State) (t : Nat) (ph : BitVec 2) (p : BitVec 3) : State :=
  s.modTile t fun x => { x with tasks := x.tasks.map fun k => if k.st = .idle ∧ k.phase = ph ∧ k.trigP = p then { k with st := .ready } else k }
/-- Changes an input port. -/
def State.modIn (s : State) (t : Nat) (ph : BitVec 2) (p : BitVec 3) (f : InPort → InPort) : State :=
  s.modLt t ph fun x => { x with inP := vset x.inP p.toNat (f (vget x.inP p.toNat {})) }
/-- Changes a junction slot. -/
def State.modJunc (s : State) (t : Nat) (ph : BitVec 2) (j : BitVec 3) (f : Junc → Junc) : State :=
  s.modLt t ph fun x => { x with junc := vset x.junc j.toNat (f (vget x.junc j.toNat {})) }
/-- TOKEN_ARRIVE (R91): the token at the circuit's end enters its FIFO or input side; it is caught under a freeze (R322) and discarded
where it is late (R326). A marker stays for MARKER_ARRIVE. -/
def execTokenArrive (rg c : Nat) (s : State) : Out :=
  .next (
    match s.region rg, s.circ rg c with
    | some r, some q =>
      match q.flight with
      | (pos, x) :: l =>
        if pos + 1 < q.stages ∨ x.kind = .marker then s
        else
          let s1 := s.modCirc rg c fun q => { q with flight := l }
          let t := q.dst.tile
          let ph := q.dst.ph
          match r.st with
          | .freezing _ => s1.modCirc rg c fun q => { q with caught := q.caught ++ [x] }
          | _ =>
            if q.dst.ep.toNat < 8 then
              let p : BitVec 3 := .ofNat 3 q.dst.ep.toNat
              if s.isLate t ph p then (s1.modIn t ph p fun i => { i with late := some (burstAdd s.cycle x i.late) }).progress rg
              else if 4 ≤ (vget (s.lt t ph).inP p.toNat {}).fifo.length then s
              else ((s1.modIn t ph p fun i => { i with fifo := i.fifo ++ [x] }).wake t ph p).progress rg
            else
              let j : BitVec 3 := .ofNat 3 q.dst.ep.toNat
              let side := q.dst.side.toNat
              if 2 ≤ (vget (vget (s.lt t ph).junc j.toNat {}).buf side []).length then s
              else (s1.modJunc t ph j fun y => { y with buf := vset y.buf side (vget y.buf side [] ++ [x]) }).progress rg
      | [] => s
    | _, _ => s)
/-- Posts the LATE_TOKEN event of a burst (R326, R360). -/
def State.latePost (s : State) (t : Nat) (ph : BitVec 2) (p : BitVec 3) (b : Burst) : State :=
  let vc := (vget (s.lt t ph).inP p.toNat {}).vc
  (s.post (s.partAt t ph) (s.recAt t ph
    { kind := 0x82, va := w64 b.count, aux := w32 (p.toNat + 256 * vc.toNat + 1024 * kindCode b.kind + 4096 * b.tag.toNat) })).2
/-- LATE_TOKEN_BURST_END (R326): 1,024 cycles have passed with no discard. -/
def execLateTokenBurstEnd (t : Nat) (ph : BitVec 2) (p : BitVec 3) (s : State) : Out :=
  .next (match (vget (s.lt t ph).inP p.toNat {}).late with
    | none => s
    | some b => if s.cycle < b.last + 1024 then s else (s.latePost t ph p b).modIn t ph p fun i => { i with late := none })
/-- LATE_TOKEN_LONG_BURST (R326): 2^20 cycles have passed since the burst began, or was last reported, and it goes on. -/
def execLateTokenLongBurst (t : Nat) (ph : BitVec 2) (p : BitVec 3) (s : State) : Out :=
  .next (match (vget (s.lt t ph).inP p.toNat {}).late with
    | none => s
    | some b =>
      if s.cycle < b.first + 2 ^ 20 ∨ b.last + 1024 ≤ s.cycle then s
      else (s.latePost t ph p b).modIn t ph p fun i => { i with late := some { b with count := 0, first := s.cycle } })
/-- GETW_DELIVER (R75): a head reaches a port where a getw waits, the oldest first. -/
def execGetwDeliver (t : Nat) (ph : BitVec 2) (p : BitVec 3) (s : State) : Out :=
  .next (
    let i := vget (s.lt t ph).inP p.toNat {}
    match i.getws, i.fifo with
    | q :: l, x :: r =>
      if !s.regionRuns (s.lt t ph).key then s
      else ((s.modIn t ph p fun i => { i with getws := l, fifo := r }).getwGive t q.slot p q x).progressAt t ph
    | _, _ =>
      let y := s.tile t
      match if p = 6 then y.rcGetw6 else if p = 7 then y.rcGetw7 else [], if p = 6 then y.rc6 else y.rc7 with
      | q :: l, .tok x :: r =>
        (s.modTile t fun y => if p = 6 then { y with rcGetw6 := l, rc6 := r } else { y with rcGetw7 := l, rc7 := r }).getwGive t 15 p q x
      | _, _ => s)

/-! ## Junctions (R114 to R117) -/

/-- A junction as it fires: where it stands, and the state of the device. -/
structure JAt where
  t  : Nat
  ph : BitVec 2
  j  : BitVec 3

/-- The junction. -/
def JAt.get (a : JAt) (s : State) : Junc := vget (s.lt a.t a.ph).junc a.j.toNat {}
/-- A field of its word. -/
def JAt.fld (a : JAt) (s : State) (hi lo : Nat) : Nat := bfld (a.get s).word hi lo
/-- Changes it. -/
def JAt.mod (a : JAt) (s : State) (f : Junc → Junc) : State := s.modJunc a.t a.ph a.j f
/-- The head of an input side. -/
def JAt.head (a : JAt) (s : State) (side : Nat) : Option Token := (vget (a.get s).buf side []).head?
/-- Takes it. -/
def JAt.pop (a : JAt) (s : State) (side : Nat) : State := a.mod s fun y => { y with buf := vset y.buf side (vget y.buf side []).tail }
/-- The circuit at an output side: its place in the region. -/
def JAt.out (a : JAt) (s : State) (side : Nat) : Option (Nat × Circuit) :=
  (s.region (s.lt a.t a.ph).key).bind fun r =>
    (r.circs.zipIdx.find? fun (c, _) => c.src.tile == a.t && c.src.ph == a.ph && c.src.ep.toNat == 16 + a.j.toNat && c.src.side.toNat == side).map
      fun (c, i) => (i, c)
/-- An output side has a free slot: a circuit is there and its source end is empty (R114, log 6). -/
def JAt.room (a : JAt) (s : State) (side : Nat) : Bool := match a.out s side with | some (_, c) => c.entry.isEmpty | none => false
/-- Pushes a token on an output side. -/
def JAt.push (a : JAt) (s : State) (side : Nat) (x : Token) : State :=
  match a.out s side with
  | some (i, _) => s.modCirc (s.lt a.t a.ph).key i fun c => { c with entry := c.entry ++ [x] }
  | none => s
/-- Forwards a head from one side to another. -/
def JAt.move (a : JAt) (s : State) (x : Token) (from_ to_ : Nat) : State := a.push (a.pop s from_) to_ x
/-- A junction of one of some kinds fires, if its region runs and no record holds it; what it does is progress (R316). -/
def junction (s : State) (t : Nat) (ph : BitVec 2) (j : BitVec 3) (kinds : List Nat) (f : JAt → State → State) : State :=
  let a : JAt := ⟨t, ph, j⟩
  if !s.regionRuns (s.lt t ph).key || (a.get s).held.isSome || !setHas kinds (a.fld s 63 60) then s
  else let s1 := f a s; if { a.get s1 with held := none } = { a.get s with held := none } then s1 else s1.progressAt t ph
/-- Stops a junction by a record (R117, R168). -/
def JAt.stop (a : JAt) (s : State) (kind : Byte) (aux : Nat) : State :=
  let p := s.partAt a.t a.ph
  let (seq, s1) := s.post p (s.recAt a.t a.ph { kind := kind, gen := 9, sub := .ofNat 4 a.j.toNat, aux := w32 aux })
  (a.mod s1 fun y => { y with held := some seq }).addStop p { seq := seq, kind := kind, what := .junction a.t a.ph a.j, rkey := (s.lt a.t a.ph).key }
/-- Code of a control token (R89). -/
def ctlCode (x : Token) : Option Nat := if x.kind = .control then some (x.lane 0 % 256) else none

/-- Pass, and prime after commit. -/
def jPass (a : JAt) (s : State) : State :=
  match a.head s 0 with
  | some x => if a.room s 1 then a.move s x 0 1 else s
  | none => s
/-- JUNCTION_PASS (R117). -/
def execJunctionPass (t : Nat) (ph : BitVec 2) (j : BitVec 3) (s : State) : Out := .next (junction s t ph j [0x0, 0x8] jPass)
/-- Fork: a copy to every side of MASK. -/
def jFork (a : JAt) (s : State) : State :=
  let sides := [1, 2, 3].filter fun k => (a.fld s 59 57).testBit (k - 1)
  match a.head s 0 with
  | some x => if sides.all (a.room s) then sides.foldl (fun s k => a.push s k x) (a.pop s 0) else s
  | none => s
/-- JUNCTION_FORK (R117). -/
def execJunctionFork (t : Nat) (ph : BitVec 2) (j : BitVec 3) (s : State) : Out := .next (junction s t ph j [0x1] jFork)

/-- An end of stream at a join's side closes it; the second is forwarded and opens both sides again (R117). -/
def jEos (a : JAt) (s : State) (side : Nat) (x : Token) : State :=
  match (a.get s).closed with
  | none => a.mod (a.pop s side) fun y => { y with closed := some (side == 1) }
  | some _ =>
    if a.room s 2 then a.mod (a.move s x side 2) fun y => { y with closed := none, turn := 0, expect := .ofNat 6 (a.fld s 41 36) } else s
/-- A side of a join is closed. -/
def Junc.shut (y : Junc) (side : Nat) : Bool := y.closed == some (side == 1)
/-- A join in turn: `n0` tokens from side 0, then `n1` from side 1. -/
def jTurn (a : JAt) (s : State) (n0 n1 : Nat) : State :=
  let y := a.get s
  let want := if y.turn < n0 then 0 else 1
  let side := if y.shut want then 1 - want else want
  match a.head s side with
  | none => s
  | some x =>
    if x.kind = .eos then jEos a s side x
    else if a.room s 2 then a.mod (a.move s x side 2) fun y => { y with turn := if y.closed.isSome then y.turn else (y.turn + 1) % (n0 + n1) }
    else s
/-- A join by tag: the head that carries the expected tag, side 0 first (log 40). -/
def jTag (a : JAt) (s : State) : State :=
  let y := a.get s
  let heads := [0, 1].filterMap fun k => if y.shut k then none else (a.head s k).map fun x => (k, x)
  match heads.find? fun (_, x) => x.kind == .eos with
  | some (k, x) => jEos a s k x
  | none =>
    match heads.find? fun (_, x) => x.tag == y.expect with
    | none => s
    | some (k, x) => if a.room s 2 then a.mod (a.move s x k 2) fun y => { y with expect := y.expect + 1 } else s
/-- Join in the mode of its word. -/
def jJoin (a : JAt) (s : State) : State :=
  match a.fld s 59 58 with
  | 0 => jTurn a s 1 1
  | 1 => jTag a s
  | 2 => jTurn a s (a.fld s 57 50) (a.fld s 49 42)
  | _ =>
    match a.head s 0, a.head s 1 with
    | some x, _ => if a.room s 2 then a.move s x 0 2 else s
    | none, some x => if a.room s 2 then a.move s x 1 2 else s
    | none, none => s
/-- JUNCTION_JOIN (R117). -/
def execJunctionJoin (t : Nat) (ph : BitVec 2) (j : BitVec 3) (s : State) : Out := .next (junction s t ph j [0x2] jJoin)

/-- Steer. A predicate head of another kind is consumed and dropped, the one head taken from its side then (R114). The predicate lane's
32 bits steer whatever its valid and poison bits (log 41). -/
def jSteer (a : JAt) (s : State) : State :=
  let self := (a.fld s 59 59) == 1
  let lane := a.fld s 57 54
  let (q, s) : Option Token × State := if self then (none, s) else match a.head s 3 with
    | some q => if q.kind = .data then (some q, s) else (none, a.pop s 3)
    | none => (none, s)
  match a.head s 0 with
  | none => s
  | some x =>
    if x.kind ≠ .data then (if a.room s 1 ∧ a.room s 2 then a.push (a.move s x 0 1) 2 x else s)
    else
      match if self then some x else q with
      | none => s
      | some q =>
        let d := if (q.lane lane != 0) != ((a.fld s 58 58) == 1) then 2 else 1
        if !a.room s d then s
        else a.move (if self then s else a.pop s 3) x 0 d
/-- JUNCTION_STEER (R117). -/
def execJunctionSteer (t : Nat) (ph : BitVec 2) (j : BitVec 3) (s : State) : Out := .next (junction s t ph j [0x3] jSteer)

/-- Merge: a SELECT, then the tokens it states. Another token on side 3 is consumed and dropped (log 41). -/
def jMerge (a : JAt) (s : State) : State :=
  match (a.get s).sel with
  | none =>
    match a.head s 3 with
    | none => s
    | some x =>
      if ctlCode x = some 5 then a.mod (a.pop s 3) fun y => { y with sel := some ⟨x.lane 1 % 2 == 1, x.lane 2, x.lane 2 == 0⟩ }
      else a.pop s 3
  | some m =>
    let side := m.side.toNat
    match a.head s side with
    | none => s
    | some x =>
      if !a.room s 2 then s
      else a.mod (a.move s x side 2) fun y =>
        { y with sel := if m.toEos then (if x.kind = .eos then none else some m) else if m.left ≤ 1 then none else some { m with left := m.left - 1 } }
/-- JUNCTION_MERGE (R117). -/
def execJunctionMerge (t : Nat) (ph : BitVec 2) (j : BitVec 3) (s : State) : Out := .next (junction s t ph j [0x4] jMerge)

/-- One index token of a loop generator: up to sixteen elements from one on. -/
def loopTok (l : LoopSt) (tag : BitVec 6) : Token :=
  let live := fun (k : Nat) => decide (l.done + k < l.count)
  ⟨laneFn fun k => if live k then (l.start.toNat + (l.done + k) * l.step.toNat) % 2 ^ 32 else 0, bits16 live, 0, tag, .data⟩
/-- An END_GROUP token (R89); its lanes are all valid (log 41). -/
def endGroup (group : Lane) (tag : BitVec 6) : Token := ⟨laneData [2, group.toNat], 0xFFFF, 0, tag, .control⟩
/-- Loop generator: the sequence of a bound, its END_GROUP, then the next head. The lanes of a bound are read whatever their valid and
poison bits, and its tokens carry no poison (log 41). -/
def jLoopgen (a : JAt) (s : State) : State :=
  let y := a.get s
  match y.loop with
  | some l =>
    if l.done < l.count then
      if !a.room s 1 then s
      else a.mod (a.push s 1 (loopTok l y.expect)) fun y => { y with expect := y.expect + 1, loop := some { l with done := l.done + 16 } }
    else if y.endgrp then
      if !a.room s 1 then s
      else a.mod (a.push s 1 (endGroup y.group y.expect)) fun y => { y with expect := y.expect + 1, loop := none, endgrp := false, group := y.group + 1 }
    else a.mod s fun y => { y with loop := none, group := y.group + 1 }
  | none =>
    match a.head s 0 with
    | none => s
    | some x =>
      if x.kind = .data then a.mod (a.pop s 0) fun y =>
        { y with loop := some ⟨.ofNat 32 (x.lane 0), .ofNat 32 (x.lane 2), x.lane 1, 0⟩, endgrp := (a.fld s 59 59) == 1 }
      else if a.room s 1 then a.move s x 0 1 else s
/-- JUNCTION_LOOPGEN (R117). -/
def execJunctionLoopgen (t : Nat) (ph : BitVec 2) (j : BitVec 3) (s : State) : Out := .next (junction s t ph j [0x5] jLoopgen)

/-- Counter and key of Philox-4x32 (log 13). -/
structure Philox where
  c : Nat × Nat × Nat × Nat
  k : Nat × Nat
/-- One round, and the key of the next. -/
def philoxStep (x : Philox) : Philox :=
  let p0 := 0xD2511F53 * x.c.1
  let p1 := 0xCD9E8D57 * x.c.2.2.1
  { c := (p1 / 2 ^ 32 ^^^ x.c.2.1 ^^^ x.k.1, p1 % 2 ^ 32, p0 / 2 ^ 32 ^^^ x.c.2.2.2 ^^^ x.k.2, p0 % 2 ^ 32)
    k := ((x.k.1 + 0x9E3779B9) % 2 ^ 32, (x.k.2 + 0xBB67AE85) % 2 ^ 32) }
/-- n rounds. -/
def philoxGo : Nat → Philox → Philox
  | 0, x => x
  | n + 1, x => philoxGo n (philoxStep x)
/-- Philox-4x32-10: the four words of a counter under a key. -/
def philox (key : DWord) (c0 c1 c2 c3 : Nat) : List Nat :=
  let x := (philoxGo 10 { c := (c0, c1, c2, c3), k := (bfld key 31 0, bfld key 63 32) }).c
  [x.1, x.2.1, x.2.2.1, x.2.2.2]
/-- Lanes of random token n of a stream (R117). -/
def randomLanes (key : DWord) (stream n : Nat) : List Nat :=
  ((upTo 4).map fun q => philox key ((4 * n + q) % 2 ^ 32) ((4 * n + q) / 2 ^ 32 % 2 ^ 32) stream 0).flatten
/-- Random: the next token of its sequence. The spec states no tag: it is a free value of the junction's word, the token's number and its
payload, so that it is the same on every run (R144, log 3). -/
def jRandom (a : JAt) (s : State) : State :=
  if !a.room s 1 then s
  else
    let key := ((s.region (s.lt a.t a.ph).key).map (·.seed)).getD 0
    let y := a.get s
    let d := laneData (randomLanes key (a.fld s 59 28) y.rnd)
    a.mod (a.push s 1 (dataTok d (Config.junctionTag y.word y.rnd d))) fun y => { y with rnd := y.rnd + 1 }
/-- JUNCTION_RANDOM (R117). -/
def execJunctionRandom (t : Nat) (ph : BitVec 2) (j : BitVec 3) (s : State) : Out := .next (junction s t ph j [0x6] jRandom)

/-- Packs converted elements of width w into a token (R100). -/
def packElems (w : Nat) (l : List CElem) (tag : BitVec 6) : Token :=
  let lanes := (l.zipIdx.map fun (x, k) => (elemLanes w k).map fun j => (j, x.poison)).flatten
  ⟨ofElems w (l.map (·.bits)), bits16 (fun k => lanes.any fun x => x.1 == k), bits16 (fun k => lanes.any fun x => x.1 == k && x.2), tag, .data⟩
/-- Convert: full tokens go out one by one; then the next head is taken (R117, R156, R168). In stochastic mode no head is taken without
a random token at side 2, which a data head takes with it (log 41). The tag of an output token is a free value as `jRandom`'s is (log 3).
A control token that passes goes out ahead of the converted elements that still wait for a full token (log 58). -/
def jConvert (a : JAt) (s : State) : State :=
  let y := a.get s
  let f := EType.dec (a.fld s 59 56)
  let e := EType.dec (a.fld s 55 52)
  let n := 512 / etWidth e
  let emit := fun (s : State) =>
    let x := packElems (etWidth e) (y.cbuf.take n) 0
    a.mod (a.push s 1 { x with tag := Config.junctionTag y.word y.rnd x.data }) fun y => { y with cbuf := y.cbuf.drop n, rnd := y.rnd + 1 }
  if n ≤ y.cbuf.length then (if a.room s 1 then emit s else s)
  else
    let sr := y.rmode == 4
    match if sr && (a.head s 2).isNone then none else a.head s 0 with
    | none => s
    | some x =>
      match x.kind with
      | .data =>
        match if sr then a.head s 2 else some {} with
        | none => s
        | some r =>
          let els := (elems (etWidth f) x.data).zipIdx.filterMap fun (b, k) =>
            let v := if sr && srRefused f e then (Config.srFree b (rndWord r k)).toNat % 2 ^ etWidth e
              else convert f e y.rmode.toNat (if sr then rndWord r k else 0) y.sat false false b
            if (elemLanes (etWidth f) k).all x.val then some (⟨v, (elemLanes (etWidth f) k).any x.pois⟩ : CElem) else none
          a.mod (if sr then a.pop (a.pop s 0) 2 else a.pop s 0) fun y => { y with cbuf := y.cbuf ++ els }
      | .eos =>
        if !a.room s 1 then s
        else if y.cbuf.isEmpty then a.move s x 0 1 else emit s
      | _ =>
        if ctlCode x = some 3 then
          match a.head s 3 with
          | none => s
          | some m =>
            if ctlCode m ≠ some 4 then s
            else if 4 < m.lane 1 % 8 then a.stop s 0x21 (m.lane 1 % 8)
            else a.mod (a.pop (a.pop s 0) 3) fun y => { y with rmode := .ofNat 3 (m.lane 1), sat := (m.lane 1).testBit 3 }
        else if a.room s 1 then a.move s x 0 1 else s
/-- JUNCTION_CONVERT (R117). -/
def execJunctionConvert (t : Nat) (ph : BitVec 2) (j : BitVec 3) (s : State) : Out := .next (junction s t ph j [0x7] jConvert)

/-- Gate: a release, then recirculation, else an admission below LIMIT. -/
def jGate (a : JAt) (s : State) : State :=
  let s := match a.head s 3 with | some _ => a.mod (a.pop s 3) fun y => { y with occ := y.occ - 1 } | none => s
  match a.head s 2, a.head s 0 with
  | some x, _ => if a.room s 1 then a.move s x 2 1 else s
  | none, some x =>
    if (a.get s).occ < a.fld s 59 52 ∧ a.room s 1 then a.mod (a.move s x 0 1) fun y => { y with occ := y.occ + 1 } else s
  | none, none => s
/-- JUNCTION_GATE (R117). -/
def execJunctionGate (t : Nat) (ph : BitVec 2) (j : BitVec 3) (s : State) : Out := .next (junction s t ph j [0x9] jGate)

/-- Tag check: a head with another tag than the expected is held under a TAG_SEQ record (R117, R362). -/
def jTagchk (a : JAt) (s : State) : State :=
  let y := a.get s
  let step : BitVec 6 := .ofNat 6 (a.fld s 53 48)
  match a.head s 0 with
  | none => s
  | some x =>
    if y.pass then
      if a.room s 1 then a.mod (a.move s x 0 1) fun y => { y with pass := false, expect := x.tag + step } else s
    else if x.kind = .control then (if a.room s 1 then a.move s x 0 1 else s)
    else if x.tag ≠ y.expect then a.stop s 0x20 (y.expect.toNat + 256 * x.tag.toNat)
    else if a.room s 1 then
      a.mod (a.move s x 0 1) fun y => { y with expect := if x.kind = .eos then .ofNat 6 (a.fld s 59 54) else y.expect + step }
    else s
/-- JUNCTION_TAGCHK (R117). -/
def execJunctionTagchk (t : Nat) (ph : BitVec 2) (j : BitVec 3) (s : State) : Out := .next (junction s t ph j [0xA] jTagchk)

end Sys2Proof.Machine
end

