-- ==== Sys2Proof/Machine/Compress.lean ====
section
/-! DEFINITION. The block compressor: the stored image of a 256-byte block and its decoding (R281 to R283). -/
namespace Sys2Proof.Machine

/-- The modes of a block (R281). -/
inductive BlkMode where
  | zero | sparse | delta32 | delta16 | escape
  deriving DecidableEq, Repr

/-- MODE code (R281). -/
def BlkMode.code : BlkMode → Nat
  | .zero => 0 | .sparse => 1 | .delta32 => 2 | .delta16 => 3 | .escape => 4
/-- The mode a code names; 5 to 7 are reserved. -/
def blkModeOf : Nat → Option BlkMode
  | 0 => some .zero | 1 => some .sparse | 2 => some .delta32 | 3 => some .delta16 | 4 => some .escape | _ => none

/-- Least width of at most `most` bits that holds every value as two's complement. -/
def leastWidth (vs : List Int) : Nat → Nat → Option Nat
  | _, 0 => none
  | w, n + 1 => if vs.all (fun v => decide (-(2 ^ (w - 1) : Nat) ≤ v ∧ v < (2 ^ (w - 1) : Nat))) then some w else leastWidth vs (w + 1) n
/-- Differences of neighbours modulo 2^b, read as signed. -/
def deltas (b : Nat) : List Nat → List Int
  | x :: y :: r => sgn b (y + 2 ^ b - x) :: deltas b (y :: r)
  | _ => []
/-- Little-endian groups of n bytes as numbers. -/
def groupNums (n : Nat) (l : List Byte) : List Nat := (groupsOf n l.length l).map leNat
/-- Deltas of a block in units of n bytes. -/
def blkDeltas (n : Nat) (b : List Byte) : List Int := deltas (8 * n) (groupNums n b)
/-- Number of nonzero bytes. -/
def nnz (b : List Byte) : Nat := (b.filter (· ≠ 0)).length
/-- Modes that fit a block, with their encoded sizes, in the order of their codes (R282). -/
def blkFits (b : List Byte) : List (BlkMode × Nat) :=
  (if nnz b = 0 then [(BlkMode.zero, 0)] else []) ++
  (if nnz b ≤ 128 then [(BlkMode.sparse, 32 + nnz b)] else []) ++
  (match leastWidth (blkDeltas 4 b) 1 19 with | some w => [(BlkMode.delta32, 5 + (63 * w + 7) / 8)] | none => []) ++
  (match leastWidth (blkDeltas 2 b) 1 9 with | some w => [(BlkMode.delta16, 3 + (127 * w + 7) / 8)] | none => [])
/-- The mode of least size, the lower code on a tie; ESCAPE where none fits (R282). -/
def chooseMode (b : List Byte) : BlkMode :=
  ((blkFits b).foldl (fun a x => match a with
    | none => some x
    | some y => if x.2 < y.2 then some x else some y) none).elim .escape (·.1)
/-- A delta body: the width less one, the first unit of n bytes, and the packed differences. -/
def deltaBody (n w : Nat) (b : List Byte) : List Byte :=
  let ds := blkDeltas n b
  leBytes 1 (w - 1) ++ b.take n ++ leBytes ((ds.length * w + 7) / 8) (unchunk w (ds.map (unsgn w)))
/-- The stored image of a block: 160 bytes, or 256 under ESCAPE (R282). -/
def encodeBlock (b : List Byte) : BlkMode × List Byte :=
  let pad := fit (0 : Byte) 160
  match chooseMode b with
  | .zero => (.zero, pad [])
  | .sparse => (.sparse, pad (leBytes 32 (unchunk 1 (b.map fun x => if x = 0 then 0 else 1)) ++ b.filter (· ≠ 0)))
  | .delta32 => (.delta32, pad (deltaBody 4 ((leastWidth (blkDeltas 4 b) 1 19).getD 19) b))
  | .delta16 => (.delta16, pad (deltaBody 2 ((leastWidth (blkDeltas 2 b) 1 9).getD 9) b))
  | .escape => (.escape, b)
/-- Puts the nonzero bytes back where a bitmap says. -/
def scatterBytes : List Nat → List Byte → List Byte
  | [], _ => []
  | 0 :: r, l => 0 :: scatterBytes r l
  | _ :: r, x :: l => x :: scatterBytes r l
  | _ :: r, [] => 0 :: scatterBytes r []
/-- Running sums from a first unit. -/
def undelta (b : Nat) : Nat → List Nat → List Nat
  | x, [] => [x % 2 ^ b]
  | x, d :: r => x % 2 ^ b :: undelta b (x % 2 ^ b + d) r
/-- Decodes a delta body of `count` differences in units of n bytes. -/
def undeltaBody (n count : Nat) (img : List Byte) : List Byte :=
  let w := leNat (img.take 1) + 1
  let ds := chunks w count (leNat (img.drop (1 + n)))
  ((undelta (8 * n) (leNat ((img.drop 1).take n)) (ds.map fun d => unsgn (8 * n) (sgn w d))).map (leBytes n)).flatten
/-- Decodes a stored image, or fails one of the checks of R283. -/
def decodeBlock (mode : Nat) (img : List Byte) : Option (List Byte) :=
  let rest := fun n => ((img.take 160).drop n).all (· = 0)
  match blkModeOf mode with
  | none => none
  | some .zero => if rest 0 then some (List.replicate 256 0) else none
  | some .sparse =>
    let map := leNat (img.take 32)
    let k := popN 256 map
    if k ≤ 128 && rest (32 + k) then some (scatterBytes (chunks 1 256 map) ((img.drop 32).take k)) else none
  | some .delta32 =>
    let w := leNat (img.take 1) + 1
    if w ≤ 19 && rest (5 + (63 * w + 7) / 8) then some (undeltaBody 4 63 img) else none
  | some .delta16 =>
    let w := leNat (img.take 1) + 1
    if w ≤ 9 && rest (3 + (127 * w + 7) / 8) then some (undeltaBody 2 127 img) else none
  | some .escape => some (img.take 256)

/-- A block's descriptor: PQ and MODE (R281). -/
def descriptor (pq : BitVec 4) (b : List Byte) : Byte := .ofNat 8 (16 * pq.toNat + (chooseMode b).code)

end Sys2Proof.Machine
end

