-- ==== Sys2Proof/Machine/Translate.lean ====
section
/-! DEFINITION. HBM behind its homes, and the translation of global addresses: windows, walks, authorization and the translation caches (R279 to R284, R338 to R342, R350). -/
namespace Sys2Proof.Machine

/-! ## HBM (R279 to R284) -/

/-- End of local HBM: 768 GiB. -/
def hbmTop : Nat := 0xC0_0000_0000
/-- Home MIT of a device physical address (R279). -/
def homeMit (pa : Nat) : Nat := pa / 4096 % 24
/-- Local address of a device physical address within its MIT (R279). -/
def homeLocal (pa : Nat) : Nat := pa / 4096 / 24 * 4096 + pa % 4096
/-- PQ of a block. -/
def State.pqOf (s : State) (blk : Nat) : BitVec 4 := (alGet s.pq blk).getD 0
/-- Sets a block's PQ; zero entries are left out, block numbers rise. -/
def pqSet : List (Nat × BitVec 4) → Nat → BitVec 4 → List (Nat × BitVec 4)
  | [], a, x => if x = 0 then [] else [(a, x)]
  | (b, y) :: r, a, x =>
    if a < b then (if x = 0 then (b, y) :: r else (a, x) :: (b, y) :: r)
    else if a = b then (if x = 0 then r else (a, x) :: r)
    else (b, y) :: pqSet r a x
/-- The quarter that a byte lies in is poisoned (R284). -/
def State.hbmPois (s : State) (pa : Nat) : Bool := (s.pqOf (pa / 256)).toNat.testBit (pa / 64 % 4)
/-- Reads bytes with the poison of their quarters. -/
def State.hbmRead (s : State) (pa n : Nat) : List (Byte × Bool) :=
  (memRead s.hbm pa n).zipIdx.map fun (x, i) => (x, s.hbmPois (pa + i))
/-- A little-endian number in HBM. -/
def State.hbmNum (s : State) (pa n : Nat) : Nat := leNat (memRead s.hbm pa n)
/-- Blocks that a range touches. -/
def blocksIn (pa n : Nat) : List Nat := if n = 0 then [] else upFrom (pa / 256) ((pa + n - 1) / 256 - pa / 256 + 1)
/-- A range touches a block whose stored image fails its check; a write that covers the whole block does not read it (R283). -/
def State.hbmBad (s : State) (pa n : Nat) (wr : Bool) : Bool :=
  (blocksIn pa n).any fun b => setHas s.badBlk b && !(wr && decide (pa ≤ 256 * b ∧ 256 * b + 256 ≤ pa + n))
/-- A quarter's PQ bit after a write of bytes from `pa` on: set by a poisoned byte, cleared where all 64 bytes are written clean (R284). -/
def quarterAfter (pa : Nat) (d : List (Option (Byte × Bool))) (q : Nat) (old : Bool) : Bool :=
  let at_ := fun a => if pa ≤ a then (d.getD (a - pa) none) else none
  let bytes := (upFrom (64 * q) 64).map at_
  if bytes.any (fun x => match x with | some (_, p) => p | none => false) then true
  else if bytes.all Option.isSome then false else old
/-- Writes bytes into HBM, each block decoded, changed and encoded again as one step (R280, R284). -/
def State.hbmWrite (s : State) (pa : Nat) (d : List (Option (Byte × Bool))) : State :=
  let bs := blocksIn pa d.length
  { s with
    hbm := memWriteOpt s.hbm pa (d.map fun x => x.map (·.1))
    pq := bs.foldl (fun l b =>
      pqSet l b (packBits 4 ((upTo 4).map fun k => quarterAfter pa d (4 * b + k) (((alGet l b).getD 0).toNat.testBit k)))) s.pq
    badBlk := s.badBlk.filter fun b => !decide (pa ≤ 256 * b ∧ 256 * b + 256 ≤ pa + d.length) }

/-- The runs of bytes that a write from an address has: first byte and count. -/
def putRuns : Nat → List (Option (Byte × Bool)) → List (Nat × Nat)
  | _, [] => []
  | pa, none :: l => putRuns (pa + 1) l
  | pa, some _ :: l =>
    match putRuns (pa + 1) l with
    | (a, n) :: r => if a = pa + 1 then (pa, n + 1) :: r else (pa, 1) :: (a, n) :: r
    | [] => [(pa, 1)]
/-- Runs that another party has written, added to those of a region's interval. -/
def Region.outside (r : Region) (l : List (Nat × Nat)) : Region := { r with outer := (l.filter fun x => !r.outer.contains x) ++ r.outer }
/-- Another party has written a byte in the interval that the region's plain writes have written in it (R357). -/
def Region.struck (r : Region) : Bool :=
  r.undo.any fun u => (upTo 256).any fun i => u.mine.getLsbD i && r.outer.any fun (a, n) => decide (a ≤ 256 * u.block + i ∧ 256 * u.block + i < a + n)
/-- A write into HBM, by a region or, with key 0, another party: the intervals of every other region note it (R357). -/
def State.hbmPut (s : State) (rkey : Nat) (pa : Nat) (d : List (Option (Byte × Bool))) : State :=
  { s.hbmWrite pa d with regions := s.regions.map fun r => if r.key = rkey then r else r.outside (putRuns pa d) }

/-- Weight of a partition at an MIT: SHARE.WEIGHT, 0 after reset (R292, R338). -/
def State.weight (s : State) (p : PartId) (mit : Nat) : Nat := bfld ((alGet s.share (0x4000 + 0x200 * mit + 8 * p.toNat)).getD 0) 39 32
/-- The MIT of a PA serves a partition's requests: with WEIGHT 0 they wait there (R292). -/
def State.served (s : State) (p : PartId) (pa : Nat) : Bool := s.weight p (homeMit pa) != 0
/-- The MITs of a range serve a partition's requests. -/
def State.servedAll (s : State) (p : PartId) (pa n : Nat) : Bool :=
  (upTo (n / 4096 + 2)).all fun i => decide (pa + n ≤ (pa / 4096 + i) * 4096) || s.served p ((pa / 4096 + i) * 4096)

/-- A region's checkpoint controls (R366). -/
def State.ckctl (s : State) (r : Region) : DWord := (s.part r.part).ckctl
/-- A region keeps an undo log: rollback is enabled and the log has entries (R366). -/
def ckEn (c : DWord) : Bool := c.getLsbD 0
/-- A region keeps an undo log of blocks: LOG2UNDO is not 0 (R366). -/
def undoOn (c : DWord) : Bool := ckEn c && bfld c 39 32 != 0
/-- Blocks of a range that a region's log does not hold yet. -/
def Region.newBlocks (r : Region) (pa n : Nat) : List Nat := (blocksIn pa n).filter fun b => !r.undo.any fun u => u.block == b
/-- The undo log of a region has no room for the blocks that a plain write reaches first: the write waits for the checkpoint that a full
log starts. While a freeze is under way, what has begun is performed (R323), and the log takes it (log 23). -/
def State.undoFull (s : State) (rkey : Nat) (pa n : Nat) : Bool :=
  match s.region rkey with
  | none => false
  | some r => undoOn (s.ckctl r) && r.st == .live && decide (2 ^ bfld (s.ckctl r) 39 32 < r.undo.length + (r.newBlocks pa n).length) && !r.undo.isEmpty
/-- A checkpoint is due. -/
def State.ckDue (s : State) (rkey : Nat) : State := s.modRegion rkey fun r => { r with ckReq := true }
/-- Notes the old contents of the blocks a region is about to write for the first time in its interval, and the bytes it writes; a full
log makes a checkpoint due (R366, R367). -/
def State.undoNote (s : State) (rkey : Nat) (pa : Nat) (d : List (Option (Byte × Bool))) : State :=
  match s.region rkey with
  | none => s
  | some r =>
    let c := s.ckctl r
    if !undoOn c then s.modRegion rkey fun r => { r with plain := true }
    else
      let log := ((r.newBlocks pa d.length).map fun b => (⟨b, memRead s.hbm (256 * b) 256, s.pqOf b, 0⟩ : Undo)).reverse ++ r.undo
      let put := fun (u : Undo) => BitVec.ofNat 256 (unchunk 1 ((upTo 256).map fun i =>
        (decide (pa ≤ 256 * u.block + i) && (d.getD (256 * u.block + i - pa) none).isSome).toNat))
      s.modRegion rkey fun r => { r with
        undo := log.map fun u => if (blocksIn pa d.length).contains u.block then { u with mine := u.mine ||| put u } else u
        ckReq := r.ckReq || decide (2 ^ bfld c 39 32 ≤ log.length) }
/-- A plain write of a region: its undo log first; a poisoned byte starts a rollback (R367). -/
def State.plainWrite (s : State) (rkey : Nat) (pa : Nat) (d : List (Option (Byte × Bool))) : State :=
  let s1 := (s.undoNote rkey pa d).hbmPut rkey pa d
  if d.any (fun x => match x with | some (_, p) => p | none => false) then s1.modRegion rkey fun r => { r with rbReq := true } else s1

/-! ## Walks (R340) -/

/-- A fault: its kind and AUX. -/
structure Flt where
  kind : Byte
  aux  : BitVec 32 := 0
  deriving DecidableEq, Repr
/-- A descriptor is malformed at a level: a nonzero reserved field, T clear at level 3, a misaligned block (R340). -/
def descBad (lvl d : Nat) : Bool :=
  fld d 63 48 != 0 || fld d 15 3 != 0 || (lvl == 3 && !d.testBit 1) ||
    (lvl == 1 && !d.testBit 1 && fld d 36 16 != 0) || (lvl == 2 && !d.testBit 1 && fld d 25 16 != 0)
/-- First index bit of a level. -/
def lvlLo : Nat → Nat
  | 1 => 37 | 2 => 26 | _ => 16
/-- Last index bit of a level. -/
def lvlHi : Nat → Nat
  | 1 => 47 | 2 => 36 | _ => 25
/-- Address of the descriptor of an input in a table of a level. -/
def descAt (lvl table x : Nat) : Nat := table + 8 * fld x (lvlHi lvl) (lvlLo lvl)
/-- A walk from a table over at most n levels: the output and the W of every entry, or the fault of a descriptor at its level:
`inv` for V clear, `bad` for a malformed one. Tables are read through `rd`. -/
def walk (rd : Nat → Except Flt Nat) (inv bad : Nat → Flt) : Nat → Nat → Nat → Nat → Bool → Except Flt (Nat × Bool)
  | 0, lvl, _, _, _ => .error (bad lvl)
  | n + 1, lvl, table, x, w =>
    match rd (descAt lvl table x) with
    | .error f => .error f
    | .ok d =>
      if !d.testBit 0 then .error (inv lvl)
      else if descBad lvl d then .error (bad lvl)
      else
        let out := fld d 47 16 * 65536
        let w := w && d.testBit 2
        if lvl != 3 && d.testBit 1 then walk rd inv bad n (lvl + 1) out x w
        else .ok (out + x % 2 ^ lvlLo lvl, w)
/-- The table entries that a walk without fault reads, as a TLB holds them (R341), for a window's stage 1 or for stage 2. -/
def walkTabs (rd : Nat → Except Flt Nat) (p : PartId) (win : Option (BitVec 16)) : Nat → Nat → Nat → Nat → List TabEnt
  | 0, _, _, _ => []
  | n + 1, lvl, table, x =>
    match rd (descAt lvl table x) with
    | .error _ => []
    | .ok d =>
      ⟨p, win, descAt lvl table x, x / 65536, lvlLo lvl - 16, d⟩ ::
        (if lvl != 3 && d.testBit 1 then walkTabs rd p win n (lvl + 1) (fld d 47 16 * 65536) x else [])
/-- Bits of page number below the mapping that a walk has found: those of its last entry. -/
def mapLog (l : List TabEnt) : Nat := ((l.getLast?).map (·.log)).getD 0

/-! ## The translation caches (R341) -/

/-- The die of a tile (R5). -/
def dieOf (t : Nat) : Nat := (t % 48 / 24 + 2 * (t / 48 / 16)) % 4
/-- The TLB entries that an access of a tile can meet: those of its first-level TLB and of its die's second-level one. -/
def State.tlbOf (s : State) (t : Nat) : List TlbItem := (s.tile t).tlb ++ vget s.tlb (dieOf t) []
/-- How an access is translated: by the tables in memory alone, or through the TLBs that a tile meets, with the free choices of a draw. -/
abbrev Via := Option (Nat × Nat)
/-- One of the copies that the caches hold, or none: a free choice of the draw, by the key of what is read (log 7). -/
def pickOf {α : Type} (n key : Nat) (l : List α) : Option α :=
  match Config.pick n key with
  | 0 => none
  | i + 1 => l[i % l.length]?
/-- Reads a table entry: a cached copy, or memory. -/
def State.tabVia (s : State) (via : Via) (p : PartId) (win : Option (BitVec 16)) (rd : Nat → Except Flt Nat) (addr : Nat) : Except Flt Nat :=
  match via with
  | none => rd addr
  | some (t, n) =>
    match pickOf n (2 * addr + win.isSome.toNat) ((s.tlbOf t).filterMap fun x => match x with
        | .tab e => if e.part = p ∧ e.win = win ∧ e.addr = addr then some e.desc else none | _ => none) with
    | some d => .ok d
    | none => rd addr
/-- A doubleword of a table in local HBM: a block that fails its check faults (R283). -/
def State.tableWord (s : State) (pa : Nat) : Except Flt Nat :=
  if hbmTop < pa + 8 then .error ⟨0x09, 4⟩ else if s.hbmBad pa 8 false then .error ⟨0x0E, 0⟩ else .ok (s.hbmNum pa 8)
/-- Root of a partition's stage 2. -/
def State.s2top (s : State) (p : PartId) : Nat := fld (s.part p).s2root.toNat 47 16 * 65536
/-- How the tables of a partition's stage 2 are read. -/
def State.rd2 (s : State) (via : Via) (p : PartId) : Nat → Except Flt Nat := s.tabVia via p none s.tableWord
/-- A walk of stage 2 through a reader of its tables. -/
def walk2 (rd : Nat → Except Flt Nat) (top ipa : Nat) : Except Flt (Nat × Bool) :=
  let f := fun (l : Nat) => (⟨0x09, w32 (l + 4)⟩ : Flt)
  walk rd f f 3 1 top ipa true
/-- Stage 2: an IPA of a partition to its PA and W (R340). -/
def State.stage2V (s : State) (via : Via) (p : PartId) (ipa : Nat) : Except Flt (Nat × Bool) := walk2 (s.rd2 via p) (s.s2top p) ipa
/-- Stage 2 by the tables in memory. -/
def State.stage2 (s : State) (p : PartId) (ipa : Nat) : Except Flt (Nat × Bool) := s.stage2V none p ipa
/-- n bytes at an IPA within one page, as a number (R338, R340). -/
def State.ipaPart (s : State) (via : Via) (p : PartId) (ipa n : Nat) : Except Flt Nat :=
  match s.stage2V via p ipa with
  | .error f => .error f
  | .ok (pa, _) =>
    if hbmTop < pa + n then .error ⟨0x09, 4⟩ else if s.hbmBad pa n false then .error ⟨0x0E, 0⟩ else .ok (s.hbmNum pa n)
/-- n bytes at an IPA in local memory, as a number; every page that they reach into is translated (R4, R338, R340). -/
def State.ipaNumV (s : State) (via : Via) (p : PartId) (ipa n : Nat) : Except Flt Nat :=
  let a := min n (65536 - ipa % 65536)
  match s.ipaPart via p ipa a with
  | .error f => .error f
  | .ok x =>
    if a = n then .ok x
    else match s.ipaPart via p (ipa + a) (n - a) with
      | .error f => .error f
      | .ok y => .ok (x + y * 256 ^ a)
/-- The same by the tables in memory. -/
def State.ipaNum (s : State) (p : PartId) (ipa n : Nat) : Except Flt Nat := s.ipaNumV none p ipa n
/-- How the tables of a window's stage 1 are read. -/
def State.rd1 (s : State) (via : Via) (p : PartId) (win : BitVec 16) : Nat → Except Flt Nat :=
  s.tabVia via p (some win) fun a => s.ipaNumV via p a 8
/-- A walk of stage 1 of a memory window through a reader of its tables (R340). -/
def walk1 (rd : Nat → Except Flt Nat) (root x : Nat) : Except Flt (Nat × Bool) :=
  walk rd (fun l => ⟨0x06, w32 l⟩) (fun l => ⟨0x07, w32 l⟩) 3 1 root x true

/-! ## Windows (R339, R340) -/

/-- IPA of a window entry. -/
def State.winAt (s : State) (p : PartId) (win : BitVec 16) : Nat := fld (s.part p).wtbase.toNat 47 20 * 2 ^ 20 + 16 * win.toNat
/-- A window entry of a partition, 128 bits: a cached copy, or memory. -/
def State.windowV (s : State) (via : Via) (p : PartId) (win : BitVec 16) : Except Flt Nat :=
  let mem := s.ipaNumV via p (s.winAt p win) 16
  match via with
  | none => mem
  | some (t, n) =>
    match pickOf n 2 ((s.tlbOf t).filterMap fun x => match x with
        | .win e => if e.part = p ∧ e.win = win then some e.ent else none | _ => none) with
    | some e => .ok e
    | none => mem
/-- A window entry as memory holds it. -/
def State.windowEnt (s : State) (p : PartId) (win : BitVec 16) : Except Flt Nat := s.windowV none p win
/-- KIND 0 or a malformed entry (R339): KIND 3, a nonzero reserved field, or a ROOT in a peer window. -/
def windowBad (e : Nat) : Bool :=
  let k := e % 4
  k == 0 || k == 3 || e.testBit 2 || fld e 15 4 != 0 || fld e 63 48 != 0 || fld e 103 96 != 0 || (k == 2 && fld e 47 16 != 0)
/-- Where an access goes. -/
inductive Target where
  | hbm (pa : Nat)
  | host (pa : Nat)
  | peer (auth : Byte) (win : BitVec 16) (off : Nat)
  deriving DecidableEq, Repr
/-- The target of a PA (R340). -/
def targetOf (pa : Nat) : Except Flt Target :=
  if pa < hbmTop then .ok (.hbm pa)
  else if 0x8000_0000_0000 ≤ pa ∧ pa ≤ 0xFFFF_FFFF_FFFF then .ok (.host (pa - 2 ^ 47))
  else .error ⟨0x09, 4⟩
/-- Rights that a peer access asks of an authorization entry (R350). -/
inductive Right where
  | rd | wr | atv | col
  deriving DecidableEq, Repr
/-- An authorization entry allows a right (R350). -/
def authAllows (e : Nat) (r : Right) : Bool :=
  e.testBit 63 && e.testBit (match r with | .rd => 62 | .wr => 61 | .atv => 60 | .col => 59)
/-- Address of an outbound authorization entry of a partition (R350). -/
def State.authAt (s : State) (p : PartId) (a : Byte) : Nat := fld (s.part p).authOut.toNat 47 16 * 65536 + 8 * a.toNat
/-- The outbound authorization entry of a partition (R350). -/
def State.authEnt (s : State) (p : PartId) (a : Byte) : Nat := s.hbmNum (s.authAt p a) 8
/-- Sends a translated access on, a peer one only if the outbound entry reads well (R283) and allows it (R350). -/
def State.toPeer (s : State) (p : PartId) (r : Right) (auth : Byte) (win : BitVec 16) (off : Nat) : Except Flt Target :=
  if s.hbmBad (s.authAt p auth) 8 false then .error ⟨0x0E, 0⟩
  else if authAllows (s.authEnt p auth) r then .ok (.peer auth win off) else .error ⟨0x0A, 0⟩
/-- A walk through a window entry and readers of the tables (R340), with the completed translation that a cache may keep. -/
def State.walkBy (s : State) (p : PartId) (win : BitVec 16) (off : Nat) (wr : Bool) (r : Right) (ent : Except Flt Nat)
    (rd1 rd2 : Nat → Except Flt Nat) : Except Flt (Target × TlbEnt) :=
  match ent with
  | .error f => .error f
  | .ok e =>
    if windowBad e then .error ⟨0x04, 0⟩
    else if fld e 95 64 * 65536 ≤ off then .error ⟨0x05, 0⟩
    else if e % 4 = 2 then
      match s.toPeer p r (.ofNat 8 (fld e 111 104)) (.ofNat 16 (fld e 127 112)) off with
      | .error f => .error f
      | .ok t => .ok (t, ⟨p, win, 0, 0, 0, 0, 0, e.testBit 3, fld e 95 64, some (.ofNat 8 (fld e 111 104), .ofNat 16 (fld e 127 112))⟩)
    else
      match walk1 rd1 (fld e 47 16 * 65536) off with
      | .error f => .error f
      | .ok (ipa, w1) =>
        match walk2 rd2 (s.s2top p) ipa with
        | .error f => .error f
        | .ok (pa, w2) =>
          let w := e.testBit 3 && w1 && w2
          if wr && !w then .error ⟨0x08, 0⟩
          else match targetOf pa with
            | .error f => .error f
            | .ok t => .ok (t, ⟨p, win, off / 65536,
                mapLog (walkTabs rd1 p (some win) 3 1 (fld e 47 16 * 65536) off), ipa / 65536,
                mapLog (walkTabs rd2 p none 3 1 (s.s2top p) ipa), pa / 65536, w, fld e 95 64, none⟩)
/-- Translation by a walk. -/
def State.walkVA (s : State) (via : Via) (p : PartId) (win : BitVec 16) (off : Nat) (wr : Bool) (r : Right) : Except Flt (Target × TlbEnt) :=
  s.walkBy p win off wr r (s.windowV via p win) (s.rd1 via p win) (s.rd2 via p)
/-- What a walk without fault may leave in the caches (R341): the window entry, every table entry it has read at both stages, and the
completed translation. -/
def State.itemsBy (s : State) (p : PartId) (win : BitVec 16) (off : Nat) (e : TlbEnt) (ent : Except Flt Nat)
    (rd1 rd2 : Nat → Except Flt Nat) : List TlbItem :=
  match ent with
  | .error _ => []
  | .ok w =>
    let one := walkTabs rd1 p (some win) 3 1 (fld w 47 16 * 65536) off
    let ipas := s.winAt p win :: (if w % 4 = 2 then [] else one.map (·.addr) ++ [e.ipn * 65536])
    let two := (ipas.map fun a => walkTabs rd2 p none 3 1 (s.s2top p) a).flatten
    .done e :: .win ⟨p, win, w⟩ :: ((if w % 4 = 2 then [] else one) ++ two).map .tab
/-- What the walk by a way of reading may leave in the caches. -/
def State.walkItems (s : State) (via : Via) (p : PartId) (win : BitVec 16) (off : Nat) (e : TlbEnt) : List TlbItem :=
  s.itemsBy p win off e (s.windowV via p win) (s.rd1 via p win) (s.rd2 via p)
/-- Adds entries to the first-level TLB of a tile, which holds 512, and to the second-level one of its die (R9, R341). -/
def State.tlbAdd (s : State) (t : Nat) (l : List TlbItem) : State :=
  let add := fun (old : List TlbItem) => (l.filter fun x => !old.contains x) ++ old
  let d := dieOf t
  let s1 : State := { s with tlb := vset s.tlb d (add (vget s.tlb d [])) }
  if t < 1536 then s1.modTile t fun x => { x with tlb := (add x.tlb).take 512 } else s1
/-- Removes entries of a partition from every TLB of the device. -/
def State.tlbDrop (s : State) (hit : TlbItem → Bool) : State :=
  { s with tlb := s.tlb.map fun l => l.filter fun x => !hit x
           tiles := s.tiles.map fun (t, (x : Tile)) => (t, { x with tlb := x.tlb.filter fun y => !hit y }) }
/-- The partition of an entry. -/
def TlbItem.part : TlbItem → PartId
  | .done e => e.part | .win e => e.part | .tab e => e.part
/-- The completed translations that an access of a tile can meet for an address (R341). -/
def State.cached (s : State) (t : Nat) (p : PartId) (win : BitVec 16) (off : Nat) : List TlbEnt :=
  (s.tlbOf t).filterMap fun x => match x with
    | .done e => if e.part = p ∧ e.win = win ∧ (e.peer.isSome ∨ e.vpn = off / 65536) then some e else none
    | _ => none
/-- Translation by a cached entry. -/
def State.useTlb (s : State) (p : PartId) (off : Nat) (wr : Bool) (r : Right) (x : TlbEnt) : Except Flt Target :=
  if x.limit * 65536 ≤ off then .error ⟨0x05, 0⟩
  else match x.peer with
    | some (a, w) => s.toPeer p r a w off
    | none => if wr && !x.wr then .error ⟨0x08, 0⟩ else targetOf (x.ppn * 65536 + off % 65536)
/-- Translation of a global address without any effect. -/
def State.lookVA (s : State) (via : Via) (p : PartId) (va : VAddr) (wr : Bool) (r : Right) : Except Flt Target :=
  let win : BitVec 16 := .ofNat 16 (bfld va 79 64)
  let off := bfld va 47 0
  if bfld va 63 48 ≠ 0 then .error ⟨0x03, 0⟩
  else
    match via.bind fun (t, n) => pickOf n 4 (s.cached t p win off) with
    | some x => s.useTlb p off wr r x
    | none => match s.walkVA via p win off wr r with | .ok (t, _) => .ok t | .error f => .error f
/-- Translates a global address for an access of a tile (R340, R341): each cached copy of what it needs may be used in place of memory,
a free choice (log 7). What a walk without fault reads is cached. -/
def State.translate (s : State) (t : Nat) (p : PartId) (va : VAddr) (wr : Bool) (r : Right) : Except Flt Target × State :=
  let win : BitVec 16 := .ofNat 16 (bfld va 79 64)
  let off := bfld va 47 0
  if bfld va 63 48 ≠ 0 then (.error ⟨0x03, 0⟩, s)
  else
    let n := s.freeCtr
    let s1 : State := { s with freeCtr := n + 1 }
    match pickOf n 4 (s.cached t p win off) with
    | some x => (s.useTlb p off wr r x, s1)
    | none =>
      match s.walkVA (some (t, n)) p win off wr r with
      | .error f => (.error f, s1)
      | .ok (g, e) => (.ok g, s1.tlbAdd t (s.walkItems (some (t, n)) p win off e))
/-- The address that a walk has found. -/
def walkOut {α : Type} : Except Flt (Nat × α) → Option Nat
  | .ok (a, _) => some a
  | .error _ => none
/-- Addresses in HBM that a read at an IPA reads: the tables of stage 2, and where it leads to (R340). -/
def State.ipaPas (s : State) (p : PartId) (ipa : Nat) : List Nat :=
  (walkTabs s.tableWord p none 3 1 (s.s2top p) ipa).map (·.addr) ++ (walkOut (s.stage2 p ipa)).toList
/-- Addresses in HBM that finding a window's target reads: its entry, and for a peer window its authorization entry (R339, R350). -/
def State.winPas (s : State) (p : PartId) (win : BitVec 16) : List Nat :=
  s.ipaPas p (s.winAt p win) ++ (s.windowEnt p win).toOption.elim [] fun w => if w % 4 = 2 then [s.authAt p (.ofNat 8 (fld w 111 104))] else []
/-- Addresses in HBM that a walk by the tables in memory reads: what the window's target takes, and the tables of both stages (R340). -/
def State.walkPas (s : State) (p : PartId) (win : BitVec 16) (off : Nat) : List Nat :=
  s.winPas p win ++ (s.windowEnt p win).toOption.elim [] fun w =>
    if w % 4 = 2 then []
    else
      ((walkTabs (s.rd1 none p win) p (some win) 3 1 (fld w 47 16 * 65536) off).map fun e => s.ipaPas p e.addr).flatten ++
      (walkOut (walk1 (s.rd1 none p win) (fld w 47 16 * 65536) off)).elim [] fun a => (walkTabs s.tableWord p none 3 1 (s.s2top p) a).map (·.addr)
/-- Every MIT serves a partition's requests. -/
def State.allServed (s : State) (p : PartId) : Bool := (upTo 24).all fun m => s.weight p m != 0
/-- Every MIT that a translation has to read from serves the partition, or no walk is needed (R292). -/
def State.walkServed (s : State) (t : Nat) (p : PartId) (va : VAddr) : Bool :=
  s.allServed p ||
    (let c := s.cached t p (.ofNat 16 (bfld va 79 64)) (bfld va 47 0)
     if c.isEmpty then (s.walkPas p (.ofNat 16 (bfld va 79 64)) (bfld va 47 0)).all (s.served p)
     else c.all fun e => e.peer.all fun (a, _) => s.served p (s.authAt p a))
/-- Every MIT that a read of n bytes at an IPA has to read from serves the partition (R292). -/
def State.ipaServed (s : State) (p : PartId) (ipa n : Nat) : Bool :=
  s.allServed p || (upTo (n / 4096 + 2)).all fun i => (let a := if i = 0 then ipa else (ipa / 4096 + i) * 4096; decide (ipa + n ≤ a) || (s.ipaPas p a).all (s.served p))
/-- Every MIT that finding a window's target has to read from serves the partition (R292); a malformed address reads nothing. -/
def State.winServed (s : State) (p : PartId) (va : VAddr) : Bool :=
  s.allServed p || bfld va 63 48 != 0 || (s.winPas p (.ofNat 16 (bfld va 79 64))).all (s.served p)
/-- The address in HBM of a target that is there. -/
def Target.pa : Target → Option Nat
  | .hbm pa => some pa
  | _ => none
/-- The home MIT of a frame: of the place where its address lies, or by its number where it lies nowhere on this device (R279, log 15). -/
def State.frameMit (s : State) (k : FrameKey) : Nat :=
  ((s.lookVA none k.part (.ofNat 80 (k.win.toNat * 2 ^ 64 + k.fr.toNat * 4096)) false .rd).toOption.bind Target.pa).elim (k.fr.toNat % 24) homeMit
/-- The directory of a frame serves its partition (R292). -/
def State.frameServed (s : State) (k : FrameKey) : Bool := s.allServed k.part || s.weight k.part (s.frameMit k) != 0
/-- The device loads the entries for a page of a window, whether or not an access needs them (R341); a walk that faults loads none, and so does
one that an MIT holds (R292). -/
def State.tlbLoad (s : State) (t : Nat) (p : PartId) (win : BitVec 16) (off : Nat) : State :=
  if !s.allServed p ∧ (s.walkPas p win off).any (fun a => !s.served p a) then s
  else (s.walkVA none p win off false .rd).toOption.elim s fun x => s.tlbAdd t (s.walkItems none p win off x.2)
/-- What was read is a value. -/
def readIs (x : Except Flt Nat) (v : Nat) : Bool := match x with | .ok w => w == v | .error _ => false
/-- An entry of a partition, but for a completed translation, holds what memory holds. -/
def TlbItem.fresh (s : State) (p : PartId) : TlbItem → Bool
  | .done _ => true
  | .win e => readIs (s.windowEnt p e.win) e.ent
  | .tab e => if e.win.isNone then readIs (s.tableWord e.addr) e.desc else readIs (s.ipaNum p e.addr 8) e.desc
/-- Every entry of a partition that an access of a tile can meet, but for completed translations, holds what memory holds. -/
def State.tlbFresh (s : State) (t : Nat) (p : PartId) : Bool := (s.tlbOf t).all fun x => x.part != p || x.fresh s p
/-- The place in HBM of a slot of a partition's version pool (R122, R338). -/
def State.slotPa (s : State) (p : PartId) (i : Nat) : Option Nat :=
  match s.stage2 p (bfld (s.part p).pool 47 16 * 65536 + 4096 * i) with
  | .ok (pa, _) => if pa < hbmTop then some pa else none
  | .error _ => none
/-- What occupies a pool slot: a version of a frame, a version of a history that a deferred `fr.init` keeps (R367), or the refill of a
tile's recompute (R304). -/
inductive SlotUse where
  | ver (k : FrameKey) (v : Nat)
  | kept (k : FrameKey) (gen v : Nat)
  | refill (t : Nat)
  deriving DecidableEq, Repr
/-- What a pool slot holds: its bytes and its poisoned quarters. -/
structure SlotHolds where
  part : PartId
  slot : Nat
  who  : SlotUse
  data : Mem
  pois : List Nat
/-- The pool slots in use, each with what it holds (R122, R304, R367). -/
def State.slotsHeld (s : State) : List SlotHolds :=
  let of_ := fun (f : Frame) (who : Nat → SlotUse) => f.vers.filterMap fun x => x.slot.map fun i => (⟨f.key.part, i, who x.v, x.data, x.pois⟩ : SlotHolds)
  (s.frames.map fun f => of_ f (.ver f.key)).flatten ++
    (s.regions.map fun r => (r.defer.map fun d => match d with | .init f => of_ f (.kept f.key f.gen) | _ => []).flatten).flatten ++
    s.tiles.filterMap fun (t, (x : Tile)) => x.rc.bind fun c => c.slot.map fun i => ⟨c.part, i, .refill t, c.data, c.pois⟩
/-- What the pool slot at an address of HBM holds, with the byte's place in it. -/
def State.slotAt (s : State) (pa : Nat) : Option (SlotHolds × Nat) :=
  s.slotsHeld.findSome? fun h => (s.slotPa h.part h.slot).bind fun q => if q ≤ pa ∧ pa < q + 4096 then some (h, pa - q) else none
/-- Changes the bytes and poisoned quarters of a slot's contents. -/
def State.putSlot (s : State) (w : SlotUse) (data : Mem) (pois : List Nat) : State :=
  match w with
  | .ver k v => s.modVer k v fun y => { y with data := data, pois := pois }
  | .kept k gen v => s.modKept k gen fun f => f.modVer v fun y => { y with data := data, pois := pois }
  | .refill t => s.modTile t fun x => { x with rc := x.rc.map fun c => { c with data := data, pois := pois } }
/-- A byte of HBM with its poison, a slot's where it lies in one (R122, R369). -/
def State.hbmByte (s : State) (pa : Nat) : Byte × Bool :=
  match s.slotAt pa with
  | some (h, i) => (memGet h.data i, setHas h.pois (i / 64))
  | none => (memGet s.hbm pa, s.hbmPois pa)
/-- Blocks of HBM that a pool slot takes up. -/
def State.slotBlocks (s : State) (p : PartId) (i : Nat) : List Nat := (s.slotPa p i).elim [] fun q => blocksIn q 4096
/-- Bytes of a pool slot reach a block whose stored image fails its check (R283). -/
def State.slotBad (s : State) (p : PartId) (slot : Option Nat) (off n : Nat) (wr : Bool) : Bool :=
  (slot.bind (s.slotPa p)).any fun q => s.hbmBad (q + off) n wr
/-- A pool slot is written whole: its blocks are encoded again. -/
def State.slotFresh (s : State) (p : PartId) (i : Nat) : State := { s with badBlk := s.badBlk.filter fun b => !(s.slotBlocks p i).contains b }

/-- The places that an access may go to, whatever choices its translation makes; none where some choice may fault or is not foreseen. -/
def State.reaches (s : State) (t : Nat) (p : PartId) (va : VAddr) (wr : Bool) (r : Right) : Option (List Target) :=
  if !s.tlbFresh t p then none
  else
    ((s.lookVA none p va wr r :: (s.cached t p (.ofNat 16 (bfld va 79 64)) (bfld va 47 0)).map (s.useTlb p (bfld va 47 0) wr r)).map
      Except.toOption).foldr (fun x l => match x, l with | some x, some l => some (x :: l) | _, _ => none) (some [])

/-! ## Peers (R350, R365) -/

/-- Address of a partition's inbound table (R350). -/
def State.authInAt (s : State) (p : PartId) : Nat := fld (s.part p).authIn.toNat 47 16 * 65536
/-- What the inbound table of a partition makes of a right of a peer's device and partition (R350): none where an entry that reads well
allows it, else a fault (R283, log 39). -/
def State.inbound (s : State) (p : PartId) (dev : BitVec 18) (part : PartId) (r : Right) : Option Flt :=
  let bad := fun (i : Nat) => s.hbmBad (s.authInAt p + 8 * i) 8 false
  if !(s.part p).live then some ⟨0x0A, 0⟩
  else if (upTo 256).any (fun i =>
    let e := s.hbmNum (s.authInAt p + 8 * i) 8
    !bad i && authAllows e r && fld e 41 24 == dev.toNat && fld e 21 16 == part.toNat) then none
  else if (upTo 256).any bad then some ⟨0x0E, 0⟩ else some ⟨0x0A, 0⟩
/-- It allows the right. -/
def State.inboundOk (s : State) (p : PartId) (dev : BitVec 18) (part : PartId) (r : Right) : Bool := (s.inbound p dev part r).isNone
/-- A partition's inbound table can be read (R292). -/
def State.inboundServed (s : State) (p : PartId) : Bool := s.servedAll p (s.authInAt p) 2048

/-- The Wildom port that an operation leaves by: the first that is up (log 10). -/
def State.upPort (s : State) : Option Nat :=
  (s.wport.toList.zipIdx.find? fun (x, _) => x.st == .up || x.st == .degraded).map (·.2)
/-- Sends a flit to the peer of an outbound entry, stamped with the device and partition (R350); none where every port is down. -/
def State.sendPeer (s : State) (p : PartId) (auth : Byte) (body : FlitBody) (id : Nat) : Option State :=
  let e := s.authEnt p auth
  match s.upPort with
  | none => none
  | some q =>
    let f : OutFlit := { id := id, dev := .ofNat 18 (fld e 41 24), srcDev := s.devid, srcPart := p, part := .ofNat 6 (fld e 21 16), body := body }
    let x := vget s.wport q {}
    some { s with wport := vset s.wport q { x with replay := x.replay ++ [f] } }

/-- Cuts bytes into parts of at most 256, one at least (R15). -/
def cut256 {α : Type} : Nat → List α → List (List α)
  | 0, d => [d]
  | n + 1, d => if d.length ≤ 256 then [d] else d.take 256 :: cut256 n (d.drop 256)
/-- Answers a peer's request: its data, 256 bytes a flit (R15), or the kind of its fault (R350). -/
def State.reply (s : State) (fl : Flit) (ok : Bool) (d : List (Byte × Bool)) : State :=
  match s.upPort with
  | none => s
  | some q =>
    let f := fun (b : List (Byte × Bool)) => ({
      id := fl.id, dev := fl.srcDev, srcDev := s.devid, srcPart := fl.dstPart, part := fl.srcPart, body := .reply fl.id ok b } : OutFlit)
    let x := vget s.wport q {}
    { s with wport := vset s.wport q { x with replay := x.replay ++ (cut256 (d.length / 256) d).map f } }

/-- The host function that a partition's host traffic goes through (R372): the virtual function that VFMAP gives it. -/
def State.hostFn (s : State) (p : PartId) : HostFn :=
  match (upTo 8).find? fun k => fld s.vfmap.toNat (8 * k + 5) (8 * k) == p.toNat with
  | some k => .vf (.ofNat 3 k)
  | none => .pf0

end Sys2Proof.Machine
end

