-- ==== Sys2Proof/Machine/Directory.lean ====
section
/-! DEFINITION. The version directories: frames, the states and holds of versions, their creation and retirement, and the requests that recompute them (R121 to R128, R293 to R305). -/
namespace Sys2Proof.Machine

/-! ## Addresses of versioned accesses (R121) -/

/-- Window of a global address. -/
def winOf (va : VAddr) : BitVec 16 := .ofNat 16 (bfld va 79 64)
/-- Offset of a global address. -/
def offOf (va : VAddr) : Nat := bfld va 47 0
/-- The window and offset as fields of a flit. -/
def off48 (n : Nat) : BitVec 48 := .ofNat 48 n
/-- A global address from a window and an offset. -/
def vaOf (win : BitVec 16) (off : BitVec 48) : VAddr := .ofNat 80 (win.toNat * 2 ^ 64 + off.toNat)
/-- The global address of a frame. -/
def frameVa (k : FrameKey) : VAddr := .ofNat 80 (k.win.toNat * 2 ^ 64 + k.fr.toNat * 4096)
/-- Where a versioned access goes: to a directory of this device (none), or to a peer's (R121, R350). Frames are not translated
(R351): the window is checked, and one that maps host memory serves no versions. -/
def State.frameTarget (s : State) (p : PartId) (va : VAddr) : Except Flt (Option (Byte × BitVec 16 × Nat)) :=
  if bfld va 63 48 ≠ 0 then .error ⟨0x03, 0⟩
  else match s.windowEnt p (winOf va) with
    | .error f => .error f
    | .ok e =>
      if windowBad e then .error ⟨0x04, 0⟩
      else if fld e 95 64 * 65536 ≤ offOf va then .error ⟨0x05, 0⟩
      else if e % 4 = 2 then
        match s.toPeer p .atv (.ofNat 8 (fld e 111 104)) (.ofNat 16 (fld e 127 112)) (offOf va) with
        | .ok (.peer a w off) => .ok (some (a, w, off))
        | .ok _ => .ok none
        | .error f => .error f
      else match s.lookVA none p va false .rd with
        | .ok (.host _) => .error ⟨0x10, 0⟩
        | _ => .ok none

/-! ## The pool (R123, R299, R300, R383) -/

/-- The frames whose versions occupy slots: the live ones, and those a deferred `fr.init` keeps (R367). -/
def State.slotFrames (s : State) : List Frame :=
  s.frames ++ (s.regions.map fun r => r.defer.filterMap fun d => match d with | .init f => some f | _ => none).flatten
/-- SPILLN (R299). -/
def State.spillN (s : State) (p : PartId) : Nat := bfld (s.part p).penctl 47 24
/-- Window and offset of spill slot i, as PENSPILL stands (R299). -/
def State.spillPlace (s : State) (p : PartId) (i : Nat) : BitVec 16 × Nat :=
  let c := (s.part p).penspill
  (.ofNat 16 (bfld c 63 48), (bfld c 47 12 + i) * 4096)
/-- Places of spill slots that stand in use. -/
def State.spillUsed (s : State) (p : PartId) : List (BitVec 16 × Nat) :=
  ((s.slotFrames.filter fun f => f.key.part == p).map fun f => f.vers.filterMap (·.spill)).flatten
/-- The pool slots of a partition that are in use: its versions', and those that running recomputes refill (R304). -/
def State.poolSlots (s : State) (p : PartId) : List Nat :=
  ((s.slotFrames.filter fun f => f.key.part == p).map fun f => f.vers.filterMap (·.slot)).flatten ++
  s.tiles.filterMap fun x => match x.2.rc with | some c => if c.part = p then c.slot else none | none => none
/-- The lowest free pool slot (log 52). -/
def State.poolNext (s : State) (p : PartId) : Option Nat :=
  (upTo (bfld (s.part p).pooln 23 0)).find? fun i => !(s.poolSlots p).contains i
/-- Free pool slots: POOLN less those occupied (R383). -/
def State.poolFree (s : State) (p : PartId) : Nat := bfld (s.part p).pooln 23 0 - (s.poolSlots p).length
/-- The first free spill slot. -/
def State.spillFree (s : State) (p : PartId) : Option Nat :=
  let used := s.spillUsed p
  (upTo (s.spillN p)).find? fun i => !used.contains (s.spillPlace p i)
/-- The region of a frame. -/
def State.vregFor (s : State) (k : FrameKey) : Option VRegion := s.vregOf k.part k.win (k.fr.toNat * 4096)
/-- A version that eviction may touch: resident in a slot, not deferred, held by no read and no recompute, not on its way out (R298). -/
def evictable (f : Frame) (x : Ver) : Bool :=
  x.st == .resident && x.slot.isSome && f.code x.v == 2 && x.reads == 0 && x.refill == 0 && x.spill.isNone
/-- A version that may be dropped (R293, R298). -/
def droppableNow (f : Frame) (x : Ver) : Bool := evictable f x && x.dropOk && x.pins == 0
/-- A version that may be spilled (R299, R300). -/
def State.spillableNow (s : State) (f : Frame) (x : Ver) : Bool :=
  evictable f x && (s.spillFree f.key.part).isSome && !((s.vregFor f.key).map (·.nospill)).getD true
/-- DROPMAC lets a version be dropped rather than spilled (R300). -/
def State.cheap (s : State) (p : PartId) (x : Ver) : Bool :=
  decide (((x.recipe.map (·.cost)).getD 0) ≤ bfld (s.part p).penctl 23 8 * 2 ^ 20)
/-- Eviction would drop a version. -/
def State.wouldDrop (s : State) (f : Frame) (x : Ver) : Bool := droppableNow f x && (s.cheap f.key.part x || !s.spillableNow f x)
/-- Eviction would spill a version. -/
def State.wouldSpill (s : State) (f : Frame) (x : Ver) : Bool := !s.wouldDrop f x && s.spillableNow f x
/-- A candidate remains in a partition, or an eviction is in progress (R300). -/
def State.canEvict (s : State) (p : PartId) : Bool :=
  s.frames.any fun f => f.key.part == p && f.vers.any fun x => s.wouldDrop f x || s.wouldSpill f x || (x.st == .resident && x.spill.isSome)

/-- An offset of a window's entry gives a peer that grants a right. -/
def State.spillIn (s : State) (p : PartId) (off : Nat) (r : Right) : Except Flt Nat → Except Flt (Byte × BitVec 16 × Nat)
  | .error f => .error f
  | .ok e =>
    if windowBad e then .error ⟨0x04, 0⟩
    else if fld e 95 64 * 65536 ≤ off ∨ 2 ^ 48 ≤ off then .error ⟨0x05, 0⟩
    else if e % 4 ≠ 2 then .error ⟨0x0A, 0⟩
    else match s.toPeer p r (.ofNat 8 (fld e 111 104)) (.ofNat 16 (fld e 127 112)) off with
      | .ok (.peer a w o) => .ok (a, w, o)
      | .ok _ => .error ⟨0x0A, 0⟩
      | .error f => .error f
/-- The window of a spill slot's place gives a peer that grants a right (R299, R301, R350). -/
def State.spillTarget (s : State) (p : PartId) (at_ : BitVec 16 × Nat) (r : Right) : Except Flt (Byte × BitVec 16 × Nat) :=
  s.spillIn p at_.2 r (s.windowEnt p at_.1)

/-! ## Recompute requests (R302) -/

/-- Counts a recompute's hold on versions. -/
def State.holdAll (s : State) (l : List (FrameKey × Nat)) : State := l.foldl (fun s (k, v) => s.modVer k v fun x => { x with refill := x.refill + 1 }) s
/-- Releases those holds. -/
def State.unholdAll (s : State) (l : List (FrameKey × Nat)) : State :=
  l.foldl (fun s (k, v) =>
    if ((s.frame k).ver v).isNone then s
    else State.tryRetire retireFuel (s.modVer k v fun x => { x with refill := x.refill - 1 }) k v) s
/-- Sources of a version's recipe. -/
def State.srcsOf (s : State) (k : FrameKey) (v : Nat) : List (FrameKey × Nat) :=
  (((s.frame k).ver v).bind (·.recipe)).elim [] (·.srcs)
/-- A version is dropped. -/
def State.dropped (s : State) (k : FrameKey) (v : Nat) : Bool := (match (s.frame k).ver v with | some x => x.st == .dropped | none => false)
/-- The sources of a version, and through its dropped ones those of the whole chain (R302, R307). -/
def State.chainOf : Nat → State → FrameKey → Nat → List (FrameKey × Nat)
  | 0, _, _, _ => []
  | n + 1, s, k, v =>
    let l := s.srcsOf k v
    (l ++ (l.map fun (g, u) => if s.dropped g u then State.chainOf n s g u else []).flatten).eraseDups
/-- Requests the recompute of a dropped version for a read of a tile, its dropped sources first; every source is held from then on, those of the
chain until the whole of it has ended (R302, R307). -/
def State.request : Nat → State → FrameKey → Nat → Nat → BitVec 2 → State
  | 0, s, _, _, _, _ => s
  | n + 1, s, k, v, t, ph =>
    if s.rcReqs.any fun q => q.frame == k && q.v == v then s
    else
      let held := State.chainOf (n + 1) s k v
      let s1 := (s.srcsOf k v).foldl (fun s (g, u) => if s.dropped g u then State.request n s g u t ph else s) s
      let (id, s2) := (s1.holdAll held).fresh
      { s2 with rcReqs := s2.rcReqs ++ [{ id := id, frame := k, v := v, tile := t, phase := ph, holds := held }] }
/-- The designated recompute tile of a partition (R299, R302): 1536, no tile, where its column does not exist. -/
def State.penTile (s : State) (p : PartId) : Nat :=
  let px := bfld (s.part p).penctl 63 58
  if px < 48 then tileNo px (bfld (s.part p).penctl 57 53) else 1536
/-- The owner of a tile (R343). -/
def State.owner (s : State) (t : Nat) : PartId := (alGet s.ownTab t).getD 0
/-- A tile is named by an ownership command that is busy (R345). -/
def State.owning (s : State) (t : Nat) : Bool :=
  match s.ownCmd with
  | none => false
  | some c => decide (c.px0.toNat ≤ t % 48 ∧ t % 48 ≤ c.px1.toNat ∧ c.py0.toNat ≤ t / 48 ∧ t / 48 ≤ c.py1.toNat)
/-- The tile that serves a miss of a tile's read: that tile, or the designated one where it no longer holds a graph of the partition (R302). -/
def State.missTile (s : State) (p : PartId) (t : Nat) : Nat :=
  if ((s.tile t).ph.toList.any (·.placed)) ∧ s.owner t = p then t else s.penTile p

/-! ## Reading and writing versions (R108, R123, R124) -/

/-- What becomes of a read of a version. -/
inductive ReadRes where
  | data (d : List (Byte × Bool))
  | wait
  | miss
  | fault (kind : Byte)
/-- A read of bytes of a version (R124). -/
def State.readVer (s : State) (k : FrameKey) (v off len : Nat) : ReadRes :=
  let f := s.frame k
  match f.code v with
  | 0 => .wait
  | 1 => .wait
  | 6 => .fault 0x14
  | _ =>
    match f.ver v with
    | none => .wait
    | some x =>
      if x.st == .dropped then .miss
      else .data ((memRead x.data off len).zipIdx.map fun (b, i) => (b, setHas x.pois ((off + i) / 64)))
/-- What becomes of a write that names a version (R123). -/
inductive OpenRes where
  | go | opens | wait | stall | miss
  | fault (kind : Byte)
  deriving DecidableEq, Repr
/-- The directory's decision on a versioned write (R123); `mine` where the command has opened the version, `again` where the write
waits already: it then goes on waiting for the version below its own, though that one has been abandoned (R262). -/
def State.openRes (s : State) (mine again : Bool) (k : FrameKey) (v : Nat) : OpenRes :=
  let f := s.frame k
  if mine then .go
  else if again ∧ v = f.next + 1 then .wait
  else if f.newest = some 0xFFFF_FFFF then .fault 0x13
  else match f.open_ with
    | some o => if v = o.v + 1 then .wait else .fault 0x13
    | none =>
      if v ≠ f.next then .fault 0x13
      else if 8 ≤ (f.vers.filter Ver.live).length then .wait
      else if s.poolFree k.part = 0 then .stall
      else match f.newest with
        | none => .opens
        | some n => if s.dropped k n then .miss else .opens
/-- Opens a version over the bits of the newest (R123): a retired or missing one reads as zero. -/
def State.openVer (s : State) (k : FrameKey) (v : Nat) : State :=
  let base := (s.frame k).newest.bind (s.frame k).ver
  ((s.poolNext k.part).elim s (s.slotFresh k.part)).modVer k v fun x => { x with
    st := .opened, slot := s.poolNext k.part, cover := [], badWr := false, spill := none
    data := (base.map (·.data)).getD [], pois := (base.map (·.pois)).getD [] }
/-- Quarters of a version after a write. -/
def poisAfter (off : Nat) (d : List (Option (Byte × Bool))) (l : List Nat) : List Nat :=
  if d.isEmpty then l
  else (upFrom (off / 64) ((off + d.length - 1) / 64 - off / 64 + 1)).foldl (fun l q => setPut l q (quarterAfter off d q (setHas l q))) l
/-- Offsets that a write covers, added to a rising list. -/
def coverAfter (off : Nat) (d : List (Option (Byte × Bool))) (l : List Nat) : List Nat :=
  (d.zipIdx.filterMap fun (x, i) => x.map fun _ => off + i).foldl setIns l
/-- Writes bytes of an open version. -/
def State.writeVer (s : State) (k : FrameKey) (v off : Nat) (d : List (Option (Byte × Bool))) : State :=
  s.modVer k v fun x => { x with
    data := memWriteOpt x.data off (d.map fun y => y.map (·.1)), pois := poisAfter off d x.pois, cover := coverAfter off d x.cover
    badWr := x.badWr || d.any fun y => match y with | some (_, p) => p | none => false }
/-- Blocks of a version's pool slot that a write covers whole are encoded again, whatever they held (R283). -/
def State.slotPut (s : State) (k : FrameKey) (v off n : Nat) : State :=
  match ((s.frame k).ver v).bind fun x => x.slot.bind (s.slotPa k.part) with
  | some q => { s with badBlk := s.badBlk.filter fun b => !decide (q + off ≤ 256 * b ∧ 256 * b + 256 ≤ q + off + n) }
  | none => s
/-- An access reaches a block of a version's pool slot that fails its check (R283). -/
def State.verBad (s : State) (k : FrameKey) (v off n : Nat) (wr : Bool) : Bool :=
  match (s.frame k).ver v with | some x => s.slotBad k.part x.slot off n wr | none => false
/-- Depth of a version from its recipe's sources (R296). -/
def State.depthOf (s : State) (srcs : List (FrameKey × Nat)) : Nat :=
  1 + (srcs.map fun (k, v) => match (s.frame k).ver v with | some x => if x.dropOk then x.depth else 0 | none => 0).foldl max 0
/-- A `fr.wait` of an operation that waits at this device's directory for a version of a frame. -/
def Op.awaits (o : Op) (k : FrameKey) (v : Nat) : Bool :=
  frameOf o.part o.va == k &&
  match o.kind with
  | .frame (.wait u) true => u == v
  | .peer fl => (match fl.body with | .frameOp _ _ 1 u _ => u.toNat == v | _ => false)
  | _ => false
/-- A version exists now: every `fr.wait` that waits for it is satisfied, whatever becomes of the version later (R126). -/
def State.meetWaits (s : State) (k : FrameKey) (v : Nat) : State :=
  { s with ops := s.ops.map fun o => if o.awaits k v then { o with met := true } else o }
/-- The creation C(F, v): the version becomes visible whole; its depth and droppability are fixed (R123, R293, R296), and the hold on
the version below ends. -/
def State.createVer (s : State) (k : FrameKey) (v : Nat) : State :=
  let f := s.frame k
  match f.ver v with
  | none => s
  | some x =>
    let d := (x.recipe.map fun r => s.depthOf r.srcs).getD 0
    let recomp := ((s.vregFor k).map (·.recomp)).getD false
    let ok := x.recipe.isSome && recomp && decide (d ≤ 4 ∧ x.cover.length = 4096)
    let y : Ver := { x with st := .resident, depth := min d 4, dropOk := ok, cover := [], recipe := if ok then x.recipe else none }
    let s1 := (s.setFrame { f.setVer y with newest := some v }).meetWaits k v
    let s2 := if ok then s1 else s1.releaseRecipe x.recipe
    if v = 0 then s2 else State.tryRetire retireFuel s2 k (v - 1)
/-- A version that a region's rollback abandons. -/
def State.provNote (s : State) (rkey : Nat) (k : FrameKey) (v : Nat) : State :=
  s.modRegion rkey fun r => { r with prov := r.prov ++ [(k, v, (s.frame k).gen)] }
/-- Completion of a version that a region's write created: under checkpoints it is provisional; a poisoned one stays open and a
rollback follows (R366, R367). -/
def State.finishVer (s : State) (rkey : Nat) (k : FrameKey) (v : Nat) : State :=
  match (s.frame k).ver v, s.region rkey with
  | some x, some r =>
    if x.badWr then (s.provNote rkey k v).modRegion rkey fun r => { r with rbReq := true }
    else if ckEn (s.ckctl r) then (s.createVer k v).provNote rkey k v else s.createVer k v
  | _, _ => s.createVer k v
/-- A version as an abandoned one is: absent, in no slot. -/
def Ver.gone (x : Ver) : Ver :=
  { x with st := .absent, slot := none, spill := none, data := [], pois := [], cover := [], badWr := false, depth := 0, dropOk := false }
/-- An open version is abandoned: absent again, its slot freed, its hold on newest released (R262). -/
def State.abandonVer (s : State) (k : FrameKey) (v : Nat) : State :=
  let s1 := s.modVer k v Ver.gone
  if v = 0 then s1 else State.tryRetire retireFuel s1 k (v - 1)
/-- A writer of a region stalls on the pool: the controller is signalled, and under checkpoints with deferred reclaims a checkpoint is
due (R300, R360, R366). -/
def State.stallNote (s : State) (rkey : Nat) (r : FaultRec) (p : PartId) : State :=
  let s1 := (s.post p { r with kind := 0x85 }).2
  s1.modRegion rkey fun r => { r with ckReq := r.ckReq || !r.defer.isEmpty }
/-- A stalled writer faults POOL_EMPTY: nothing is left to free a slot (R300). -/
def State.poolEmpty (s : State) (p : PartId) (rkey : Nat) : Bool :=
  let deferred := ((s.region rkey).map fun r => !r.defer.isEmpty).getD false
  !deferred && (!(s.part p).penctl.getLsbD 0 || !s.canEvict p)

end Sys2Proof.Machine
end

