-- ==== Sys2Proof/Machine/Prism.lean ====
section
/-! DEFINITION. The Prism: programs, their checks, and what they make of a stream's units (R285 to R291, R348). -/
namespace Sys2Proof.Machine

/-- A byte of a program. -/
def pbyte (p : List Byte) (i : Nat) : Nat := (p.getD i 0).toNat
/-- A word of a program. -/
def pword (p : List Byte) (i : Nat) : Nat := leNat ((p.drop i).take 4)
/-- The word of cell (s, r) (R288). -/
def cellWord (p : List Byte) (c : Nat) : Nat := pword p (128 + 4 * c)
/-- A source code is not reserved (R286). -/
def srcOk (c : Nat) : Bool := decide (c ≤ 24 ∨ (32 ≤ c ∧ c ≤ 95))
/-- A cell's source names no cell of its own or a later stage (R286). -/
def cellSrcOk (stage c : Nat) : Bool := srcOk c && (decide (c < 32) || decide ((c - 32) / 8 < stage))
/-- A configuration block passes the checks of R290. -/
def prismOk (p : List Byte) : Bool :=
  pbyte p 0 == 1 && decide (pbyte p 1 < 8) && ((p.drop 2).take 14).all (· = 0) && ((p.drop 72).take 56).all (· = 0) &&
  ((upTo 16).all fun k => decide (pbyte p (48 + k) < 128) && srcOk (pbyte p (48 + k))) &&
  ((upTo 8).all fun j => srcOk (pbyte p (64 + j) % 128)) &&
  ((upTo 64).all fun c =>
    let w := cellWord p c
    decide (fld w 31 27 ≤ 22) && cellSrcOk (c / 8) (fld w 26 20) && cellSrcOk (c / 8) (fld w 19 13) && w % 32 == 0)
/-- Flags TAIL, READ and WRITE (R288). -/
def prismTail (p : List Byte) : Bool := (pbyte p 1).testBit 0
/-- The program's flags allow a direction. -/
def prismDir (p : List Byte) (wr : Bool) : Bool := (pbyte p 1).testBit (if wr then 2 else 1)

/-- One bit of the CRC-32C register (R287). -/
def crcBit (x : Nat) : Nat := if x % 2 = 1 then (x / 2) ^^^ 0x82F63B78 else x / 2
/-- The CRC-32C register updated with one byte. -/
def crcByte (a b : Nat) : Nat := (upTo 8).foldl (fun x _ => crcBit x) (a ^^^ b)
/-- The CRC-32C register updated with four bytes, low byte first. -/
def crcWord (a b : Nat) : Nat := (upTo 4).foldl (fun x k => crcByte x (b / 2 ^ (8 * k) % 256)) a
/-- An FP32 result: one rounding RNE (R287). -/
def prnd (v : FVal) : Nat := fF32.round 0 0 false v
/-- The E8M0 code of an FP32 value under RZ (R157). -/
def e8Code (x : Nat) : Nat := toE8 1 (fF32.val x)
/-- What a cell computes from its operands (R287). -/
def cellOp (op imm a b : Nat) : Nat :=
  let byte := a / 2 ^ (8 * (imm % 4)) % 256
  match op with
  | 0 => a
  | 1 => (a + b) % 2 ^ 32
  | 2 => unsgn 32 ((a : Int) - b)
  | 3 => a &&& b
  | 4 => a ||| b
  | 5 => a ^^^ b
  | 6 => a * 2 ^ (b % 32) % 2 ^ 32
  | 7 => a / 2 ^ (b % 32)
  | 8 => unsgn 32 (sgn 32 a / ((2 ^ (b % 32) : Nat) : Int))
  | 9 => a * b % 2 ^ 32
  | 10 => prnd ((fF32.val a).mul (fF32.val b))
  | 11 => prnd ((fF32.val a).add (fF32.val b))
  | 12 => prnd (fE4M3.val byte)
  | 13 => prnd (fE5M2.val byte)
  | 14 => prnd (fBF16.val (a / 2 ^ (16 * (imm % 2)) % 2 ^ 16))
  | 15 => byte
  | 16 => a % 2 ^ 16 + b % 2 ^ 16 * 2 ^ 16
  | 17 => a - byte * 2 ^ (8 * (imm % 4)) + b % 256 * 2 ^ (8 * (imm % 4))
  | 18 => max a b
  | 19 => min a b
  | 20 => crcWord a b
  | 21 => if b % 256 = 255 then fF32.nan else prnd ((fF32.val a).scale ((b % 256 : Nat) - 127 : Int))
  | _ => e8Code a
/-- The value that a source code names, from the inputs, the state words and the cells done so far. -/
def srcVal (xs ss cells : List Nat) (imm c : Nat) : Nat :=
  if c < 16 then xs.getD c 0 else if c < 24 then ss.getD (c - 16) 0 else if c = 24 then unsgn 32 (sgn 8 imm)
  else cells.getD (c - 32) 0
/-- Computes the cells in order, stage by stage. -/
def runCells (p : List Byte) (xs ss : List Nat) : List Nat → List Nat → List Nat
  | [], done => done
  | c :: r, done =>
    let w := cellWord p c
    let imm := fld w 12 5
    runCells p xs ss r (done ++ [cellOp (fld w 31 27) imm (srcVal xs ss done imm (fld w 26 20)) (srcVal xs ss done imm (fld w 19 13))])
/-- State words at the start of a stream. -/
def prismInit (p : List Byte) : Vector Lane 8 := Vector.ofFn fun j => .ofNat 32 (pword p (16 + 4 * j.val))
/-- What a program makes of one unit of 64 bytes: the output bytes and the state words after it (R286). -/
def prismUnit (p : List Byte) (ss : Vector Lane 8) (u : List Byte) : List Byte × Vector Lane 8 :=
  let xs := (upTo 16).map fun k => leNat ((u.drop (4 * k)).take 4)
  let sl := ss.toList.map (·.toNat)
  let cells := runCells p xs sl (upTo 64) []
  let v := srcVal xs sl cells 0
  (((upTo 16).map fun k => leBytes 4 (v (pbyte p (48 + k)))).flatten,
   Vector.ofFn fun j =>
     let c := pbyte p (64 + j.val)
     if 128 ≤ c then .ofNat 32 (v (c % 128)) else vget ss j.val 0)
/-- State words poisoned by a poisoned unit (R289): those it updates. -/
def prismPois (p : List Byte) (bad : Bool) (old : BitVec 8) : BitVec 8 :=
  packBits 8 ((upTo 8).map fun j => if 128 ≤ pbyte p (64 + j) then bad || old.toNat.testBit j else old.toNat.testBit j)

/-- The physical slot that a partition's program number names: the lowest valid entry (R348). -/
def State.prismSlot (s : State) (p : PartId) (pid : BitVec 3) : Option Nat :=
  (upTo 8).find? fun k =>
    let e := (vget s.prismMap k 0).toNat
    e.testBit 15 && fld e 13 8 == p.toNat && e % 8 == pid.toNat
/-- The program that a stream takes at its start, or the fault of R291. -/
def State.prismProg (s : State) (p : PartId) (pid : BitVec 3) (wr : Bool) : Except Flt (List Byte) :=
  match s.prismSlot p pid with
  | none => .error ⟨0x24, 0⟩
  | some k =>
    match vget s.prism k none with
    | none => .error ⟨0x25, 0⟩
    | some pr => if prismDir pr wr then .ok pr else .error ⟨0x26, 0⟩

end Sys2Proof.Machine
end

