-- ==== Sys2Proof/Machine/TokenMove.lean ====
section
/-! DEFINITION. Token instructions of groups 0x15 and 0x16: reductions, scan, permutes, and lane, tag and valid control (R165, R166, R190 to R195). -/
namespace Sys2Proof.Machine

/-! ## Reductions (R165, R190) -/

/-- One level of the pairwise tree: absent children pass the other on (R165). -/
def treeLevel (f : Nat → Nat → Nat) : List (Option Nat) → List (Option Nat)
  | a :: b :: r => (match a, b with
      | none, y => y
      | x, none => x
      | some x, some y => some (f x y)) :: treeLevel f r
  | l => l
/-- The root of the tree over 2^k leaves. -/
def tree (f : Nat → Nat → Nat) : Nat → List (Option Nat) → Option Nat
  | 0, l => l.headD none
  | k + 1, l => tree f k (treeLevel f l)
/-- A reduction's node (R190). -/
inductive RedFn where
  | sum | max | min
  deriving DecidableEq, Repr
/-- The node function: FP32 with ACR at each node, or INT32. -/
def RedFn.node (o : RedFn) (fp : Bool) (acr : BitVec 4) (x y : Nat) : Nat :=
  if fp then (fpEl fF32 acr (fun l => match o with
    | .sum => (v0 l).add (v1 l) | .max => (v0 l).maxv (v1 l) | .min => (v0 l).minv (v1 l)) [x, y]).1
  else match o with
    | .sum => (x + y) % 2 ^ 32
    | .max => if sgn 32 x < sgn 32 y then y else x
    | .min => if sgn 32 y < sgn 32 x then y else x
/-- A leaf: widened to FP32 after FLUSHIN, or sign-extended to INT32 (R190). -/
def leafOf (e : EType) (acr : BitVec 4) (x : Nat) : Nat :=
  if (etFmt e).isSome then convert e .f32 0 0 false (acrFi acr) false x else unsgn 32 (sgn (etWidth e) x)
/-- The root over the live elements, the lowest live poisoned lane, and whether the root originates a NaN (R160, R190). -/
def reduce (o : RedFn) (e : EType) (acr : BitVec 4) (m : BitVec 16) (x : Token) : Option Nat × Option Nat × Bool :=
  let els := elsOf (etWidth e) m x
  let fp := (etFmt e).isSome
  let leaves := els.map fun y => if y.live then some (leafOf e acr y.bits) else none
  let root := tree (o.node fp acr) 6 (fit none 64 leaves)
  let pl := (upTo 16).find? fun k => liveAt [x] m k && x.pois k
  (root, pl, fp && (match root with | some r => fF32.isNan r | none => false) && !leaves.any fun l => fF32.isNan (l.getD 0))
/-- The result etype of a reduction (R82, R190). -/
def redType (e : EType) : EType := if (etFmt e).isSome then .f32 else .i32
/-- A reduction to lane 0 of a token. -/
def redOp (s : State) (d a : BitVec 4) (k : Option (BitVec 2)) (e : EType) (o : RedFn) : State :=
  let acr := s.curLt.acr
  tokenOp s [a] d k (nfmtOf (redType e) e) fun ts m =>
    let x := ts.headD {}
    let (root, pl, nan) := reduce o e acr m x
    match root with
    | none => (⟨0, 0, 0, x.tag, .data⟩, none)
    | some r => (⟨.ofNat 512 r, 1, if pl.isSome then 1 else 0, x.tag, .data⟩, if nan && pl.isNone then some 0 else none)
/-- `v.rsum` (R190). -/
def execVRsum (d a : BitVec 4) (k : Option (BitVec 2)) (e : EType) (s : State) : Out := .next (redOp s d a k e .sum)
/-- `v.rmax` (R190). -/
def execVRmax (d a : BitVec 4) (k : Option (BitVec 2)) (e : EType) (s : State) : Out := .next (redOp s d a k e .max)
/-- `v.rmin` (R190). -/
def execVRmin (d a : BitVec 4) (k : Option (BitVec 2)) (e : EType) (s : State) : Out := .next (redOp s d a k e .min)
/-- `v.rsum.g` (R190): delivered to a g register later. -/
def execVRsumG (d a : BitVec 4) (k : Option (BitVec 2)) (e : EType) (s : State) : Out :=
  let acr := s.curLt.acr
  .next (needD s d (needT s [a] none (maskRegs k) true (
    let (root, pl, nan) := reduce .sum e acr (s.maskOf k) (s.tok a)
    let v : DWord := match root with
      | none => 0
      | some r => if (etFmt e).isSome then w64 r else .ofInt 64 (sgn 32 r)
    advance (((s.popAll (portsOf [a])).emitG d v (pl.map (BitVec.ofNat 4))).nanOpt
      (if nan && pl.isNone then some 0 else none) (nfmtOf (redType e) e) s.cur.pc) 1)))

/-! ## Scan (R166, R191) -/

/-- The prefix from an element on: running value, whether a live element so far is poisoned. -/
def scanGo (fp : Bool) (acr : BitVec 4) : List El → Option Nat → Bool → List El
  | [], _, _ => []
  | x :: r, run, pz =>
    if !x.live then {} :: scanGo fp acr r run pz
    else
      let pz' := pz || x.pois
      let (v, o) : Nat × Bool := match run with
        | none => if fp then (convert .f32 .f32 0 0 false (acrFi acr) (acrFo acr) x.bits, false) else (x.bits, false)
        | some y => if fp then fpEl fF32 acr (fun l => (v0 l).add (v1 l)) [y, x.bits] else ((y + x.bits) % 2 ^ 32, false)
      { bits := v, live := true, pois := pz', nan := o } :: scanGo fp acr r (some v) pz'
/-- `v.scan` (R191). -/
def execVScan (d a : BitVec 4) (k : Option (BitVec 2)) (e : EType) (s : State) : Out :=
  let acr := s.curLt.acr
  .next (tokenOp s [a] d k (nfmtOf e e) fun ts m =>
    let x := ts.headD {}
    assemble 32 (scanGo (e == .f32) acr (elsOf 32 m x) none false) x.tag)

/-! ## Permutes (R192) -/

/-- Lane k of the result is lane f(k) of a token, valid if that lane is and `ok k`, poisoned by that lane's bit or `pz k`. -/
def moveLanes (x : Token) (f : Nat → Nat) (ok pz : Nat → Bool) : Token :=
  let live := fun k => x.val (f k) && ok k
  ⟨laneFn fun k => if live k then x.lane (f k) else 0, bits16 live, bits16 fun k => live k && (x.pois (f k) || pz k), x.tag, .data⟩
/-- `v.perm` (R192): the mask applies to result lanes (R170). -/
def execVPerm (d a b : BitVec 4) (k : Option (BitVec 2)) (s : State) : Out :=
  .next (tokenOp s [a, b] d k 0 fun ts m =>
    let x := ts.getD 0 {}
    let y := ts.getD 1 {}
    (moveLanes x (fun k => y.lane k % 16) (fun k => y.val k && m.toNat.testBit k) y.pois, none))
/-- `v.bcast` (R192). -/
def execVBcast (d a l : BitVec 4) (s : State) : Out :=
  .next (tokenOp s [a] d none 0 fun ts _ => (moveLanes (ts.headD {}) (fun _ => l.toNat) (fun _ => true) (fun _ => false), none))
/-- `v.rot` (R192). -/
def execVRot (d a n : BitVec 4) (s : State) : Out :=
  .next (tokenOp s [a] d none 0 fun ts _ =>
    (moveLanes (ts.headD {}) (fun k => (k + n.toNat) % 16) (fun _ => true) (fun _ => false), none))

/-! ## Lane, tag and valid control (group 0x16, R194) -/

/-- An instruction of group 0x16 with a token destination: heads of every kind are accepted and the kind is kept (R93). -/
def ctlOp (s : State) (a d : BitVec 4) (mregs : List (BitVec 2)) (f : Token → Token) : State :=
  needT s [a] (some d) mregs false (advance ((s.popAll (portsOf [a])).emit d (f (s.tok a))) 1)
/-- `v.peek` (R194): the head is not consumed. -/
def execVPeek (d a : BitVec 3) (s : State) : Out :=
  let c : BitVec 4 := a.setWidth 4 + 8
  .next (needT s [c] (some (d.setWidth 4)) [] false (advance (s.emit (d.setWidth 4) (s.tok c)) 1))
/-- `v.mov` (R194): lanes that the mask leaves out are invalid, zero and unpoisoned. -/
def execVMov (d a : BitVec 4) (k : Option (BitVec 2)) (s : State) : Out :=
  .next (ctlOp s a d (maskRegs k) fun x =>
    match k with
    | none => x
    | some m => { x with
      data := laneFn fun j => if (s.m m).toNat.testBit j then x.lane j else 0, valid := x.valid &&& s.m m, poison := x.poison &&& s.m m })
/-- `v.setv` (R194). -/
def execVSetv (d a : BitVec 4) (b : BitVec 2) (m : BitMode) (s : State) : Out :=
  .next (ctlOp s a d [b] fun x => { x with
    valid := match m with | .replace => s.m b | .combine => x.valid &&& s.m b | .andn => x.valid &&& ~~~(s.m b) })
/-- `v.setp` (R194). -/
def execVSetp (d a : BitVec 4) (b : BitVec 2) (m : BitMode) (s : State) : Out :=
  .next (ctlOp s a d [b] fun x => { x with
    poison := match m with | .replace => s.m b | .combine => x.poison ||| s.m b | .andn => x.poison &&& ~~~(s.m b) })
/-- An instruction of group 0x16 with an m destination. -/
def ctlM (s : State) (a : BitVec 4) (d : BitVec 2) (f : Token → BitVec 16) : State :=
  needT s [a] none [d] false (advance ((s.popAll (portsOf [a])).emitM d (f (s.tok a))) 1)
/-- `v.getv` (R194). -/
def execVGetv (d : BitVec 2) (a : BitVec 4) (n : Bool) (s : State) : Out :=
  .next (ctlM s a d fun x => if n then bits16 fun k => x.val k && x.lane k != 0 else x.valid)
/-- `v.getp` (R194). -/
def execVGetp (d : BitVec 2) (a : BitVec 4) (s : State) : Out := .next (ctlM s a d fun x => x.poison)
/-- `v.settag` (R194). -/
def execVSettag (d a b : BitVec 4) (s : State) : Out :=
  .next (needGT s b fun y => ctlOp s a d [] fun x => { x with tag := y.setWidth 6 })
/-- `v.gettag` (R194): the sideband, delivered later, without a trap. -/
def execVGettag (d a : BitVec 4) (s : State) : Out :=
  .next (needD s d (needT s [a] none [] false (
    advance ((s.popAll (portsOf [a])).emitG d (w64 (s.tok a).side) none) 1)))
/-- `v.ins` (R194). -/
def execVIns (d a b l : BitVec 4) (s : State) : Out :=
  .next (needGT s b fun y => ctlOp s a d [] fun x =>
    let bit : BitVec 16 := 1 <<< l.toNat
    { x with data := laneFn fun k => if k = l.toNat then y.toNat % 2 ^ 32 else x.lane k, valid := x.valid ||| bit, poison := x.poison &&& ~~~bit })
/-- `v.ext` (R194): 0 for an invalid lane. -/
def execVExt (d a l : BitVec 4) (s : State) : Out :=
  .next (needD s d (needT s [a] none [] false (
    let x := s.tok a
    let ok := x.val l.toNat
    advance ((s.popAll (portsOf [a])).emitG d (if ok then w64 (x.lane l.toNat) else 0)
      (if ok && x.pois l.toNat then some l else none)) 1)))
/-- `v.splat` (R194). -/
def execVSplat (d a : BitVec 4) (s : State) : Out :=
  .next (needGT s a fun y => needT s [] (some d) [] false (
    advance (s.emit d (dataTok (laneFn fun _ => y.toNat % 2 ^ 32) 0)) 1))
/-- `v.mkc` (R194). -/
def execVMkc (d a : BitVec 4) (k : TokKind) (s : State) : Out := .next (ctlOp s a d [] fun x => { x with kind := k })

/-! ## Completion and delivery (R171, R174) -/

/-- TOKEN_OP_COMPLETE (R171): the oldest token instruction of a tile's pipeline completes, and its result is written, or pushed into
the slot it reserved. -/
def execTokenOpComplete (t : Nat) (s : State) : Out :=
  .next (
    match (s.tile t).vpipe with
    | [] => s
    | o :: r =>
      let s1 := s.modTile t fun x => { x with vpipe := r }
      let ph := (s.task t o.slot).phase
      match o.dst with
      | .w d => s1.modTask t o.slot fun k => { k with w := vset k.w d.toNat o.tok }
      | .m d => s1.modTask t o.slot fun k => { k with m := vset k.m d.toNat o.mval }
      | .o p => (s1.fillOf t o.slot ph p o.tok).progressAt t ph)
/-- LONG_LATENCY_DELIVER (R174): the n-th delivery of a tile reaches its register; a poisoned one delivers zero and the task traps
TOKEN_POISON at its next issue. -/
def execLongLatencyDeliver (t n : Nat) (s : State) : Out :=
  .next (
    match (s.tile t).ll[n]? with
    | none => s
    | some o =>
      let s1 := s.modTile t fun x => { x with ll := x.ll.eraseIdx n }
      match o.pois with
      | none => s1.deliver t o.slot o.d o.val
      | some l => (s1.deliver t o.slot o.d 0).modTask t o.slot fun k =>
          { k with ptraps := k.ptraps ++ [⟨22, some o.pc, w64 l.toNat⟩] })

end Sys2Proof.Machine
end

