-- ==== Sys2Proof/Machine/Matrix.lean ====
section
/-! DEFINITION. The matrix unit: its queue, operand rings, stationary registers, products and drains (groups 0x18 and 0x19, R164, R198 to R216). -/
namespace Sys2Proof.Machine

/-! ## The unit (R78, R199, R303) -/

/-- The matrix state that the issuer sees: its logical tile's, or the copies private to slot 15 (R303). -/
def State.mat (s : State) : MatState := if s.rcTask then (s.tile s.ctx.tile).rcMat else s.curLt.mat
/-- Changes it. -/
def State.modMat (s : State) (f : MatState → MatState) : State :=
  if s.rcTask then s.modTile s.ctx.tile fun x => { x with rcMat := f x.rcMat }
  else s.modCurLt fun x => { x with mat := f x.mat }
/-- The item in hand. -/
def State.mitem (s : State) : MItem := (s.tile s.ctx.tile).mq.headD { slot := 0, seq := 0, run := false, pc := 0, count := 0, pos := 0, instr := none }
/-- Its progress. -/
def State.mprog (s : State) : MProg := s.mitem.prog
/-- Sets the progress of the item in hand. -/
def State.setProg (s : State) (p : MProg) : State :=
  s.modTile s.ctx.tile fun x => { x with mq := match x.mq with | [] => [] | i :: r => { i with prog := p } :: r }
/-- Word index of the matrix instruction in hand. -/
def State.matPc (s : State) : Nat := s.mitem.pc + s.mitem.pos
/-- ACR as the matrix instruction in hand issued with it (R81). -/
def State.macr (s : State) : BitVec 4 := s.mitem.acr.getD s.curLt.acr
/-- Notes a NaN that the instruction in hand originates; the lowest index counts (R160). -/
def State.noteNan (s : State) (o : Option Nat) : State :=
  match o with
  | none => s
  | some l => s.setProg { s.mprog with nan := some (match s.mprog.nan with | none => l | some k => min k l) }
/-- The NAN_FIRST that the instruction named by NPC has left to its task is withdrawn, if the task has not taken it yet. -/
def State.nanDrop (s : State) : State :=
  let x := s.curLt
  match (upTo 16).find? fun k => let y := vget (s.tile s.ctx.tile).tasks k {}; y.img.toNat == bfld x.npc 16 13 && y.phase == s.cur.phase &&
      y.ptraps.contains ⟨14, none, 0⟩ with
  | none => s
  | some k => s.modTask s.ctx.tile (.ofNat 4 k) fun y => { y with ptraps := (y.ptraps.reverse.erase ⟨14, none, 0⟩).reverse }
/-- Records the NaN that the matrix instruction in hand has originated, as it completes or traps (R160). Where a later-issued token
instruction has been recorded meanwhile, this one, which issued first, takes its place (log 5). -/
def State.tellNan (s : State) (nfmt : Nat) : State :=
  match s.mprog.nan with
  | none => s
  | some l =>
    let i := s.mitem
    let x := s.curLt
    let first := fun (y : Nat × Nat) => decide (y.1 < i.seq ∨ (y.1 = i.seq ∧ y.2 < i.pos))
    if !s.macr.getLsbD 2 then s
    else if !x.acr.getLsbD 3 then s.nanLoad l nfmt s.matPc ((s.matIssued.map fun j => (j.seq, j.pos)).filter first)
    else if x.nanBy.contains (i.seq, i.pos) then s.nanDrop.nanLoad l nfmt s.matPc (x.nanBy.filter first)
    else s
/-- The instruction in hand has passed its checks: from now on it holds its ports (R95, R215). -/
def State.begun (s : State) : State := if s.mprog = {} then s.setProg { stage := 1 } else s
/-- An instruction of groups 0x18 to 0x1B (R199). A task's sequencer checks its registers (`pre`, R198), queues it on the unit
and parks the task; an idle unit takes it up at once. The unit checks them too before it starts the instruction, then runs one
turn of `body`. -/
def matOp (s : State) (i : Instr) (pre : State → State → State) (body : State → State) : State :=
  match s.ctx.unit with
  | .task => gate s (pre s (
      let y := s.tile s.ctx.tile
      let it : MItem := { slot := s.ctx.slot, seq := y.seq, run := false, pc := s.cur.pc, count := 1, pos := 0, instr := some i, acr := some s.curLt.acr }
      let s1 := park (s.modTile s.ctx.tile fun y => { y with seq := y.seq + 1, mq := y.mq ++ [it], matPh := if y.mq.isEmpty then s.cur.phase else y.matPh }) .matrix
      if y.mq.isEmpty then { body { s1 with ctx := { s.ctx with unit := .minl } } with ctx := s.ctx } else s1))
  | _ => if s.mprog = {} then pre s (body s) else body s
/-- No register check. -/
def noPre (_ : State) (k : State) : State := k
/-- The g source of aux (R198). -/
def preG (r : BitVec 4) (s k : State) : State := needGT s r fun _ => k
/-- The g destination of aux (R198). -/
def preD (r : BitVec 4) (s k : State) : State := needD s r k
/-- The mask of kskip (R171). -/
def preM (m : Option (BitVec 2)) (s k : State) : State := match m with | none => k | some r => needM s r k
/-- w registers named by token codes (R171). -/
def preW (l : List (BitVec 4)) (s k : State) : State := if (wregsOf l).any s.wBusy then park s .wreg else k
/-- An accumulator that slot 15 does not own traps ACC_KIND (R303). -/
def needAcc (s : State) (c : BitVec 4) (k : State) : State := if s.rcTask && c != 15 then trap s 23 0 (w64 c.toNat) else k
/-- A ring of SIZE 0, or one that slot 15 does not own, traps RING_BAD (R203, R303). -/
def needRing (s : State) (r : BitVec 2) (k : State) : State :=
  if (s.rcTask && r != 3) || (vget s.mat.rings r.toNat {}).size == 0 then trap s 29 0 (w64 r.toNat) else k
/-- Trap ACC_KIND naming a tile (R225). -/
def accKind (s : State) (c : BitVec 4) : State := trap s 23 0 (w64 c.toNat)

/-! ## Accumulator tiles (R201) -/

/-- An accumulator tile. -/
def State.acc (s : State) (c : BitVec 4) : Acc := vget s.mat.acc c.toNat (.sum 0 0)
/-- Replaces an accumulator tile. -/
def State.setAcc (s : State) (c : BitVec 4) (a : Acc) : State := s.modMat fun x => { x with acc := vset x.acc c.toNat a }
/-- Element i = 16r + c of a sum tile; 0 of a ranked list. -/
def Acc.el (a : Acc) (i : Nat) : Nat := match a with | .sum e _ => fld e.toNat (32 * i + 31) (32 * i) | .ranked _ _ => 0
/-- Poison bit of an element. -/
def Acc.pz (a : Acc) (i : Nat) : Bool := match a with | .sum _ p => p.toNat.testBit i | .ranked _ _ => false
/-- The tile is a sum tile. -/
def Acc.isSum (a : Acc) : Bool := match a with | .sum _ _ => true | .ranked _ _ => false

/-! ## Rings (R202, R205) -/

/-- A ring of the issuer. -/
def State.ring (s : State) (r : BitVec 2) : Ring := vget s.mat.rings r.toNat {}
/-- Changes a ring. -/
def State.modRing (s : State) (r : BitVec 2) (f : Ring → Ring) : State :=
  s.modMat fun x => { x with rings := vset x.rings r.toNat (f (vget x.rings r.toNat {})) }
/-- Exchanges s.active and s.load (R209). -/
def MatState.swap (x : MatState) : MatState := { x with act := x.load, load := x.act }
/-- A position of a ring is at most another, on 32-bit counts. -/
def atMost (a b : BitVec 32) : Bool := decide ((b - a).toNat < 2 ^ 31)
/-- Performs the swap marks at or before HEAD, in order (R205). -/
def MatState.marks (x : MatState) (r : BitVec 2) : MatState :=
  let q := vget x.rings r.toNat {}
  let due := q.marks.takeWhile fun m => atMost m q.head
  let x := if due.length % 2 = 1 then x.swap else x
  { x with rings := vset x.rings r.toNat { q with marks := q.marks.drop due.length } }
/-- Waits for a complete entry, then performs the marks (R205). -/
def withEntry (s : State) (r : BitVec 2) (k : State → State) : State :=
  let q := s.ring r
  if (q.tail - q.head).toNat < 24 then park s .matrix else k (s.modMat (·.marks r))
/-- Byte address of token t of a ring (R202). -/
def Ring.addr (q : Ring) (t : Nat) : Nat := q.base * 64 + 64 * (t % (24 * q.size))
/-- Pops the entry at HEAD (R205). -/
def Ring.popEntry (q : Ring) : Ring := { q with head := q.head + 24, vbits := q.vbits.drop 24 }
/-- ROWV of row r of the entry at HEAD (R202). -/
def Ring.rowv (q : Ring) (r : Nat) : Bool :=
  let v := fun t => q.vbits.getD t 0
  if r % 2 = 0 then v (3 * r / 2) == 0xFFFF && v (3 * r / 2 + 1) &&& 0xFF == 0xFF
  else v ((3 * r - 1) / 2) &&& 0xFF00 == 0xFF00 && v ((3 * r - 1) / 2 + 1) == 0xFFFF

/-! ## Operands (R207, R210) -/

/-- Format of A (R43). -/
def aFmt : MatFmt → Fmt
  | .e4m3 => fE4M3 | .e4m3e5m2 => fE4M3 | .e5m2e4m3 => fE5M2 | .e5m2 => fE5M2 | .bf16 => fBF16 | .e4m3cb2 => fE4M3 | .e5m2cb2 => fE5M2
/-- Type of B (R43). -/
def bType : MatFmt → StatTy
  | .e4m3 => .e4m3 | .e4m3e5m2 => .e5m2 | .e5m2e4m3 => .e4m3 | .e5m2 => .e5m2 | .bf16 => .bf16 | .e4m3cb2 => .cb2 | .e5m2cb2 => .cb2
/-- Code of a stationary type in the TVAL of MAT_BTYPE (R225). -/
def statCode : StatTy → Nat
  | .none => 0 | .e4m3 => 3 | .e5m2 => 4 | .bf16 => 1 | .cb2 => 10
/-- The type an `m.ld` gives (R208). -/
def ldType : StatFmt → StatTy
  | .e4m3 => .e4m3 | .e5m2 => .e5m2 | .bf16 => .bf16 | .cb2 => .cb2
/-- A format code (R43). -/
def matCode (f : MatFmt) : Nat := f.code
/-- Elements in a K block and in a row. -/
def kBlk (f : MatFmt) : Nat := if f = .bf16 then 4 else 8
/-- A field of n bits at a bit position. -/
def bitsAt (x lo n : Nat) : Nat := x / 2 ^ lo % 2 ^ n
/-- A element k of a row, given as a number (R210). -/
def aVal (f : MatFmt) (fi : Bool) (row k : Nat) : FVal :=
  let g := aFmt f
  g.val (g.flush fi (bitsAt row (g.w * k) g.w))
/-- Weight i of a CB2 codeword under a scale code (R151). -/
def cb2 (c i scale : Nat) : FVal :=
  let m := if c.testBit 15 then (if c.testBit i then 2 else 1) else (if c.testBit i then 3 else 1)
  let neg := if i = 7 then popN 7 (c / 256) % 2 == 1 else c.testBit (8 + i)
  if scale = 255 then .nan else .fin neg m ((scale : Int) - 127 - if c.testBit 15 then 0 else 1)
/-- B element (k, c) (R207). -/
def bVal (f : MatFmt) (fi : Bool) (b : Stat) (k c : Nat) : FVal :=
  match bType f with
  | .cb2 => let j := k / 8; cb2 (bitsAt b.bytes.toNat (8 * (24 * c + 2 * j)) 16) (k % 8) (bitsAt b.scale.toNat (8 * ((12 * c + j) / 4)) 8)
  | .bf16 => fBF16.val (fBF16.flush fi (bitsAt b.bytes.toNat (8 * (96 * c + 2 * k)) 16))
  | .e5m2 => fE5M2.val (fE5M2.flush fi (bitsAt b.bytes.toNat (8 * (96 * c + k)) 8))
  | _ => fE4M3.val (fE4M3.flush fi (bitsAt b.bytes.toNat (8 * (96 * c + k)) 8))
/-- A word of block j of column c of B, or its scale, is marked (R207, R211). -/
def bMark (f : MatFmt) (b : Stat) (j c : Nat) : Bool :=
  let m := fun w => b.marks.toNat.testBit w
  if bType f = .cb2 then m (6 * c + j / 2) || m (384 + (12 * c + j) / 16) else m (24 * c + 2 * j) || m (24 * c + 2 * j + 1)

/-! ## The sum of a K group (R164) -/

/-- Exponent of the leading bit of a nonzero finite value. -/
def FVal.top : FVal → Option Int
  | .fin _ n e => if n = 0 then none else some ((bitLen n : Int) - 1 + e)
  | _ => none
/-- The truncated terms in units of 2^q, added. -/
def sumUnits (q : Int) : List FVal → Int
  | [] => 0
  | .fin neg n e :: r => (if neg then -1 else 1) * (roundUnits 1 0 neg n e q : Int) + sumUnits q r
  | _ :: r => sumUnits q r
/-- The exact sum of the terms after truncation to the grid of the largest (R164). -/
def groupSum (terms : List FVal) : FVal :=
  let infs := terms.filterMap fun t => match t with | .inf neg => some neg | _ => none
  if terms.any (·.isNan) || (infs.any id && infs.any not) then .nan
  else
    match infs with
    | neg :: _ => .inf neg
    | [] =>
      match (terms.filterMap (·.top)).foldl (fun a t => match a with | none => some t | some b => some (max b t)) none with
      | none => .fin (terms.all (·.isNeg)) 0 0
      | some e => let v := sumUnits (e - 40) terms; .fin (decide (v < 0)) v.natAbs (e - 40)

/-! ## Products (R210 to R212) -/

/-- Blocks of K that are not skipped (R210). -/
def blocksOf (skip : Nat) : List Nat := (upTo 12).filter fun j => !skip.testBit j
/-- What a product makes of one element: its bits, poison, and whether it originates a NaN. -/
structure PEl where
  bits : Nat
  pz   : Bool
  nan  : Bool
/-- One output element (R211): the incoming value and poison, the row of A, B, the blocks of K(r), whether a word of the row's
blocks is marked. -/
def mmaEl (f : MatFmt) (acr : BitVec 4) (a b : List FVal) (inc : Nat) (incPz mark : Bool) : PEl :=
  let x := fF32.val (fF32.flush (acrFi acr) inc)
  let r := fF32.flush (acrFo acr) (fF32.round 0 0 false (groupSum (x :: List.zipWith FVal.mul a b)))
  { bits := r, pz := incPz || mark
    nan := fF32.isNan r && !x.isNan && !a.any (·.isNan) && (bType f == .cb2 || !b.any (·.isNan)) }
/-- The product of the entry at a physical address with s.active into an accumulator tile. -/
def product (s : State) (f : MatFmt) (skip : Nat) (zero : Bool) (acc : Acc) (q : Ring) (b : Stat) : List PEl :=
  let acr := s.macr
  let ea := q.addr q.head.toNat
  let blks := blocksOf skip
  let ks := (blks.map fun j => upFrom (kBlk f * j) (kBlk f)).flatten
  let cols := (upTo 16).map fun c => (ks.map fun k => bVal f (acrFi acr) b k c, blks.any fun j => bMark f b j c)
  ((upTo 16).map fun r =>
    let live := q.rowv r && !blks.isEmpty
    let row := s.spN (ea + 96 * r) 96
    let a := if live then ks.map (aVal f (acrFi acr) row) else []
    let am := live && blks.any fun j => s.spMarked (ea + 96 * r + 8 * j) 8
    cols.zipIdx.map fun (bc, c) =>
      let i := 16 * r + c
      mmaEl f acr a (if live then bc.1 else []) (if zero then 0 else acc.el i) (!zero && acc.pz i) (live && (am || bc.2))).flatten
/-- A sum tile from its elements. -/
def accOf (l : List PEl) : Acc := .sum (.ofNat 8192 (unchunk 32 (l.map (·.bits)))) (packBits 256 (l.map (·.pz)))
/-- NFMT of a product. -/
def mmaFmt (f : MatFmt) : Nat := 256 + matCode f
/-- Executes one entry (R205, R211): waits, performs marks, checks the kind and B's type, writes the sum tile and pops the entry;
a NaN that an unpoisoned element originates is noted, and recorded where the instruction traps (R160). -/
def mmaEntry (s : State) (c : BitVec 4) (r : BitVec 2) (f : MatFmt) (m : Option (BitVec 2)) (zero : Bool) (k : State → State) : State :=
  withEntry s r fun s =>
    let a := s.acc c
    let b := s.mat.act
    if !zero && !a.isSum then accKind (s.tellNan (mmaFmt f)) c
    else if b.ty ≠ bType f then trap (s.tellNan (mmaFmt f)) 24 0 (w64 (statCode b.ty))
    else
      let skip := match m with | none => 0 | some x => (s.m x).toNat
      let l := product s f skip zero a (s.ring r) b
      let s1 := (s.setAcc c (accOf l)).modRing r Ring.popEntry
      k (s1.noteNan ((l.zipIdx.find? fun (x, _) => x.nan && !x.pz).map (·.2)))
/-- `m.mma` and `m.mmaz`. -/
def mmaOp (s : State) (i : Instr) (c : BitVec 4) (r : BitVec 2) (f : MatFmt) (m : Option (BitVec 2)) (zero : Bool) : State :=
  matOp s i (preM m) fun s => needAcc s c (needRing s r (mmaEntry s c r f m zero fun s => advance (s.tellNan (mmaFmt f)) 1))
/-- `m.mma` (R211). -/
def execMMma (c : BitVec 4) (r : BitVec 2) (f : MatFmt) (k : Option (BitVec 2)) (s : State) : Out :=
  .next (mmaOp s (.mMma c r f k) c r f k false)
/-- `m.mmaz` (R211). -/
def execMMmaz (c : BitVec 4) (r : BitVec 2) (f : MatFmt) (k : Option (BitVec 2)) (s : State) : Out :=
  .next (mmaOp s (.mMmaz c r f k) c r f k true)
/-- One entry of `m.run`, the count and the entries done standing in the progress. -/
def runTurn (s : State) (c : BitVec 4) (r : BitVec 2) (f : MatFmt) (m : Option (BitVec 2)) (z : Bool) : State :=
  mmaEntry s c r f m (z && s.mprog.n == 0) fun s =>
    let p := s.mprog
    if p.n + 1 = p.count then advance (s.tellNan (mmaFmt f)) 1 else s.setProg { p with n := p.n + 1 }
/-- `m.run` (R212): the count is read once. -/
def execMRun (c : BitVec 4) (r : BitVec 2) (f : MatFmt) (k : Option (BitVec 2)) (x : BitVec 4) (w z : Bool) (s : State) : Out :=
  .next (matOp s (.mRun c r f k x w z) (fun s t => preG x s (preM k s t)) fun s =>
    needAcc s c (needRing s r (
      if s.mprog = {} then
        if (s.g x).val = 0 then advance s 1
        else runTurn (s.setProg { stage := 1, count := (s.g x).val.toNat }) c r f k z
      else runTurn s c r f k z)))

/-! ## Stationary registers (R208, R209) -/

/-- Replaces n bytes of a number at a byte position. -/
def putBytes (x pos n v : Nat) : Nat := bitsAt x 0 (8 * pos) + 2 ^ (8 * pos) * (v % 2 ^ (8 * n)) + 2 ^ (8 * (pos + n)) * (x / 2 ^ (8 * (pos + n)))
/-- Replaces n bits at a bit position. -/
def putBits (x pos n v : Nat) : Nat := bitsAt x 0 pos + 2 ^ pos * (v % 2 ^ n) + 2 ^ (pos + n) * (x / 2 ^ (pos + n))
/-- Token n of an `m.ld` from a port (R208): invalid lanes load as zero bytes, poisoned lanes, valid or not, set the word marks. The type
is none until the last token. -/
def Stat.ldToken (b : Stat) (ty : StatTy) (n : Nat) (x : Token) : Stat :=
  let data := unchunk 32 ((upTo 16).map fun k => if x.val k then x.lane k else 0)
  let marks := unchunk 1 ((upTo 16).map fun k => (x.pois k).toNat)
  let last := ty == .cb2 && n == 6
  { b with
    bytes := if last then b.bytes else .ofNat 12288 (putBytes b.bytes.toNat (64 * n) 64 data)
    scale := if last then .ofNat 512 (putBytes b.scale.toNat 0 48 data) else b.scale
    marks := .ofNat 400 (if last then putBits b.marks.toNat 384 12 marks else putBits b.marks.toNat (16 * n) 16 marks)
    ty := .none }
/-- Tokens that a load takes. -/
def ldTokens (ty : StatTy) : Nat := if ty = .cb2 then 7 else 24
/-- The binding of the ports that an instruction names is checked as it begins; from then on it holds them (R95, R199). -/
def needFree (s : State) (ins outs : List (BitVec 3)) (k : State → State) : State :=
  if s.mprog = {} then
    match ins.find? (s.bound false), outs.find? (s.bound true) with
    | some p, _ => trap s 16 0 (w64 (portCode p))
    | none, some p => trap s 16 0 (w64 (portCode p))
    | none, none => k s.begun
  else k s
/-- Waits for the heads that an instruction takes, which must be data, and for free slots at the ports it pushes onto (R92, R93). -/
def needHeads (s : State) (ins outs : List (BitVec 3)) (k : State) : State :=
  if ins.all (fun p => (s.head p).isSome) && outs.all s.space then needData s ins k else park s .port
/-- A B operand of tokens taken in order (R208). -/
def Stat.ldTokens (ty : StatTy) (b : Stat) (l : List Token) : Stat :=
  { l.zipIdx.foldl (fun b (x, n) => b.ldToken ty n x) b with ty := if l.length = Machine.ldTokens ty then ty else .none }
/-- Takes the next token of a B operand from a port, and loads the operand when it is complete (R208): until then the unit holds the
tokens, so that a freeze finds it at the start of the instruction (R200, log 56). A head that traps leaves those that have come loaded. -/
def ldTurn (s : State) (p : BitVec 3) (ty : StatTy) : State :=
  needFree s [p] [] fun s =>
    match s.head p with
    | none => park s .port
    | some x =>
      let l := s.mprog.held
      if x.kind ≠ .data then needData (if l.isEmpty then s else s.modMat fun y => { y with load := y.load.ldTokens ty l }) [p] s
      else
        let l := l ++ [x]
        if l.length = ldTokens ty then advance ((s.pop p).modMat fun y => { y with load := y.load.ldTokens ty l }) 1
        else (s.pop p).setProg { stage := 1, n := l.length, held := l }
/-- The operand of a load from scratchpad (R208). -/
def State.ldSpad (s : State) (ty : StatTy) (ea : Nat) (b : Stat) : Stat :=
  let marks := fun n => unchunk 1 ((upTo n).map fun k => (s.spMark (ea + 4 * k)).toNat)
  if ty = .cb2 then
    { bytes := .ofNat 12288 (putBytes b.bytes.toNat 0 384 (s.spN ea 384)), scale := .ofNat 512 (putBytes b.scale.toNat 0 48 (s.spN (ea + 384) 48))
      marks := .ofNat 400 (putBits (putBits b.marks.toNat 0 96 (marks 96)) 384 12 (marks 108 / 2 ^ 96)), ty := ty }
  else { b with bytes := .ofNat 12288 (s.spN ea 1536), marks := .ofNat 400 (putBits b.marks.toNat 0 384 (marks 384)), ty := ty }
/-- Range of n bytes and alignment 64 of a load at a g address (R70, R208). -/
def need64 (s : State) (ea n : Nat) (k : State) : State :=
  if !s.spLd ea n then trap s 5 0 (w64 ea) else if ea % 64 ≠ 0 then trap s 6 0 (w64 ea) else k
/-- `m.ld` (R208). -/
def execMLd (f : StatFmt) (x : GOrPort) (s : State) : Out :=
  let ty := ldType f
  .next (match x with
    | .port p => matOp s (.mLd f x) noPre fun s => ldTurn s p ty
    | .g r _ => matOp s (.mLd f x) (preG r) fun s =>
        let ea := (s.g r).val.toNat
        need64 s ea (if ty = .cb2 then 448 else 1536) (
          advance (s.modMat fun y => { y with load := s.ldSpad ty ea y.load }) 1))
/-- `m.swap` (R209). -/
def execMSwap (s : State) : Out := .next (matOp s .mSwap noPre fun s => advance (s.modMat MatState.swap) 1)

/-! ## Leaving the accumulator (R214 to R216) -/

/-- A drain's token n (R215). -/
def drainTok (a : Acc) (acr : BitVec 4) (bf : Bool) (n : Nat) : Token :=
  if bf then
    let h := fun e => convert .f32 .bf16 0 0 false (acrFi acr) (acrFo acr) (a.el (32 * n + e))
    ⟨laneFn fun k => h (2 * k) + 2 ^ 16 * h (2 * k + 1), 0xFFFF, bits16 fun k => a.pz (32 * n + 2 * k) || a.pz (32 * n + 2 * k + 1), .ofNat 6 n, .data⟩
  else ⟨laneFn fun k => a.el (16 * n + k), 0xFFFF, bits16 fun k => a.pz (16 * n + k), .ofNat 6 n, .data⟩
/-- The checks before a drain's first push (R215): the tile's kind, the route and the binding of its port. -/
def needRoute (s : State) (c : BitVec 4) (q : Nat) (k : BitVec 3 → State) : State :=
  if !(s.acc c).isSum then accKind s c
  else
    match vget s.curLt.route q none with
    | none => trap s 25 0 (w64 q)
    | some p => if s.bound true p then trap s 16 0 (w64 (portCode p)) else k p
/-- Pushes the next token of a drain whose port stands in `total` (R215). -/
def drainTurn (s : State) (c : BitVec 4) (bf : Bool) (more done : State → State) : State :=
  let p := s.mprog
  let o : BitVec 3 := .ofNat 3 p.total
  if !s.space o then park s .port
  else
    let s1 := s.push o (drainTok (s.acc c) s.macr bf p.n)
    if p.n + 1 = (if bf then 8 else 16) then done s1 else more s1
/-- `m.drain` (R215): the route is found and checked once; the head that supplies it is consumed then, and the port is held from then on. -/
def execMDrain (c : BitVec 4) (x : GOrPort) (l f : Bool) (s : State) : Out :=
  let turn := fun (s : State) => drainTurn s c f (fun s => s.setProg { s.mprog with n := s.mprog.n + 1 })
    fun s => advance (if l then s.setAcc c (.sum 0 0) else s) 1
  let start := fun (s : State) (p : BitVec 3) => turn (s.setProg { stage := 1, total := p.toNat })
  .next (match x with
    | .g r _ => matOp s (.mDrain c x l f) (preG r) fun s => needAcc s c (
        if s.mprog = {} then needRoute s c ((s.g r).val.toNat % 8) (start s) else turn s)
    | .port i => matOp s (.mDrain c x l f) noPre fun s => needAcc s c (
        if s.mprog = {} then
          if !(s.acc c).isSum then accKind s c
          else needPorts s [i] [] (needData s [i] (needRoute s c (((s.head i).getD {}).lane 0 % 8) (start (s.pop i))))
        else turn s))
/-- `m.copy` (R216): a whole tile. -/
def execMCopy (c x : BitVec 4) (s : State) : Out :=
  .next (matOp s (.mCopy c x) noPre fun s => needAcc s c (needAcc s x (advance (s.setAcc c (s.acc x)) 1)))
/-- `m.copy.st` (R216): element (r, c) at 64r + 4c, its poison as the word's mark. -/
def execMCopySt (c x : BitVec 4) (w : Bool) (s : State) : Out :=
  .next (matOp s (.mCopySt c x w) (preG x) fun s => needAcc s c (
    let ea := (s.g x).val.toNat
    match s.acc c with
    | .ranked _ _ => accKind s c
    | .sum e p => need64 s ea 1024 (
        if !s.spSt ea 1024 then trap s 5 0 (w64 ea)
        else
          let s1 := s.spPut ea (leBytes 1024 e.toNat)
          advance ((upTo 256).foldl (fun s i => s.spSetMark (ea + 4 * i) (p.toNat.testBit i)) s1) 1)))
/-- `m.copy.ld` (R216). -/
def execMCopyLd (c x : BitVec 4) (w : Bool) (s : State) : Out :=
  .next (matOp s (.mCopyLd c x w) (preG x) fun s => needAcc s c (
    let ea := (s.g x).val.toNat
    need64 s ea 1024 (advance (s.setAcc c (.sum (.ofNat 8192 (s.spN ea 1024))
      (packBits 256 ((upTo 256).map fun i => s.spMark (ea + 4 * i))))) 1)))
/-- `m.clr` (R216). -/
def execMClr (c : BitVec 4) (s : State) : Out :=
  .next (matOp s (.mClr c) noPre fun s => needAcc s c (advance (s.setAcc c (.sum 0 0)) 1))

/-! ## Grouped products (R213) -/

/-- A word of the offset vector, read as signed. -/
def State.offset (s : State) (ea n : Nat) : Int := sgn 32 (s.spN (ea + 4 * n) 4)
/-- A trap of `m.grp` at its group: the B tokens taken for the group go back to their port, and the group has no effect. -/
def grpTrap (s : State) (f : MatFmt) (p : BitVec 3) (cause : Nat) (tval : DWord) : State :=
  trap ((s.unpopAll p s.mprog.held).tellNan (mmaFmt f)) cause 0 tval
/-- The output port of the route of an `m.grp`, and the trap that its drains end in: an invalid entry, or a port bound before the
instruction began (R95, R215). -/
def State.grpRoute (s : State) (t : BitVec 3) : Except (Nat × DWord) (BitVec 3) :=
  match vget s.curLt.route t.toNat none with
  | none => .error (25, w64 t.toNat)
  | some o => if s.mprog.busy then .error (16, w64 (portCode o)) else .ok o
/-- `m.grp` goes on to its next group. -/
def grpNext (s : State) : State :=
  let q := s.mprog
  s.setProg { q with stage := 1, grp := q.grp + 1, n := 0, held := [] }
/-- The check of a group as it is reached: its offset, and where it has entries the route of its drains. -/
def grpCheck (s : State) (f : MatFmt) (t p : BitVec 3) : State :=
  let q := s.mprog
  if q.grp = q.total then s.setProg { q with stage := 5, n := 0 }
  else
    let o := s.offset q.ea (2 + q.grp)
    if o < q.off then grpTrap s f p 26 (w64 q.grp)
    else if q.top < o then grpTrap s f p 27 (w64 q.grp)
    else
      match if o.toNat = q.off then .ok 0 else s.grpRoute t with
      | .error (c, v) => grpTrap s f p c v
      | .ok _ => s.setProg { q with stage := 2, n := 0, count := o.toNat - q.off }
/-- What the swap marks of a fed ring make of a group of n entries, whose B operand has come and is to be swapped in (R205, R213): a mark
brings back the register that is active now, and where that is of another type the product would trap. `wait` until the entries that can
stand in the ring have come with their marks; `bad` where a product would trap; else the group may run. -/
inductive GrpMarks where
  | wait | bad | ok
  deriving DecidableEq, Repr
/-- The marks of the group at hand. -/
def State.grpMarks (s : State) (r : BitVec 2) (f : MatFmt) (n : Nat) : GrpMarks :=
  let q := s.ring r
  let k := min n q.size
  if n = 0 ∨ s.mat.act.ty = bType f ∨ (q.feed.isNone ∧ q.marks = []) then .ok
  else if (q.tail - q.head).toNat < 24 * k ∧ q.feed.isSome then .wait
  else if (upTo k).any fun j => (q.marks.filter fun m => atMost m (q.head + .ofNat 32 (24 * j))).length % 2 == 1 then .bad
  else .ok
/-- The load of a group's B operand, then the swap (R208, R209); a product of the group that its swap marks would make trap MAT_BTYPE
traps before the group has any effect (R213, log 56). -/
def grpLoad (s : State) (r : BitVec 2) (f : MatFmt) (p : BitVec 3) : State :=
  let q := s.mprog
  if q.held.length < ldTokens (bType f) then
    match s.head p with
    | none => park s .port
    | some x =>
      if x.kind ≠ .data then grpTrap s f p 15 (w64 (portCode p))
      else (s.pop p).setProg { q with held := q.held ++ [x], n := q.n + 1 }
  else
    match s.grpMarks r f q.count with
    | .wait => park s .matrix
    | .bad => grpTrap s f p 24 (w64 (statCode s.mat.act.ty))
    | .ok =>
      let s2 := s.modMat fun y => ({ y with load := y.load.ldTokens (bType f) q.held }).swap
      if q.count = 0 then grpNext s2 else s2.setProg { q with stage := 3, n := 0, held := [] }
/-- The drain of an entry's product, token by token (R215). -/
def grpDrain (s : State) (c : BitVec 4) (t : BitVec 3) : State :=
  match vget s.curLt.route t.toNat none with
  | none => s
  | some o =>
    if !s.space o then park s .port
    else
      let q := s.mprog
      let s1 := s.push o (drainTok (s.acc c) s.macr false q.n)
      if q.n + 1 < 16 then s1.setProg { q with n := q.n + 1 }
      else
        let s2 := s1.setProg { q with stage := 3, n := 0, off := q.off + 1, count := q.count - 1 }
        if q.count ≤ 1 then grpNext s2 else s2
/-- The pops of the entries past the last group. -/
def grpTail (s : State) (r : BitVec 2) (f : MatFmt) : State :=
  let q := s.mprog
  if q.top ≤ q.off then advance (s.tellNan (mmaFmt f)) 1
  else withEntry s r fun s => (s.modRing r Ring.popEntry).setProg { q with off := q.off + 1 }
/-- One turn of `m.grp`. Its stages: 1 group check, 2 load of B, 3 product, 4 drain, 5 pops of the tail. -/
def grpTurn (s : State) (c : BitVec 4) (r : BitVec 2) (f : MatFmt) (m : Option (BitVec 2)) (t p : BitVec 3) : State :=
  match s.mprog.stage with
  | 1 => grpCheck s f t p
  | 2 => grpLoad s r f p
  | 3 => mmaEntry s c r f m true fun s => s.setProg { s.mprog with stage := 4, n := 0 }
  | 4 => grpDrain s c t
  | _ => grpTail s r f
/-- `m.grp` (R213): the address, the counts and the binding of its ports are checked first, G and T read once; group by group
thereafter. The vector's words are read by their bits, poison marks or not (log 58). -/
def execMGrp (c : BitVec 4) (r : BitVec 2) (f : MatFmt) (k : Option (BitVec 2)) (x : BitVec 4) (w : Bool) (t p : BitVec 3) (s : State) :
    Out :=
  .next (matOp s (.mGrp c r f k x w t p) (fun s t => preG x s (preM k s t)) fun s =>
    needAcc s c (needRing s r (
      if s.mprog = {} then
        let ea := (s.g x).val.toNat
        need64 s ea 8 (
          let g := s.spN ea 4
          if 255 < g then trap s 27 0 (w64 g)
          else need64 s ea (4 * (g + 2)) (
            if g ≠ 0 ∧ s.bound false p = true then trap s 16 0 (w64 (portCode p))
            else s.setProg { stage := 1, total := g, ea := ea, top := s.offset ea 1
                             busy := ((vget s.curLt.route t.toNat none).map (s.bound true)).getD false }))
      else grpTurn s c r f k t p)))

/-! ## Ports that the unit holds (R95, R215) -/

/-- The instruction of an item of a tile's unit, as it stands. -/
def State.itemInstr (s : State) (t : Nat) (i : MItem) : Option Instr :=
  match i.instr with
  | some x => some x
  | none => match decode [(s.wordAt t i.slot (s.task t i.slot).phase (i.pc + i.pos)).toNat] with | .ok x => some x | .error _ => none
/-- The ports of its logical tile that the unit's instruction holds once it has begun, output ports with true: a stream command that
names one waits for the instruction to complete (R95, R215). -/
def State.matHolds (s : State) (t : Nat) : List (BitVec 2 × Bool × BitVec 3) :=
  match (s.tile t).mq with
  | [] => []
  | i :: _ =>
    if i.slot = 15 ∨ i.prog = {} then [] else
    let ph := (s.task t i.slot).phase
    let ins := fun (l : List (BitVec 4)) => (portsOf l).map fun p => (ph, false, p)
    let outs := fun (l : List (BitVec 4)) => (portsOf l).map fun p => (ph, true, p)
    match s.itemInstr t i with
    | some (.mLd _ (.port p)) => [(ph, false, p)]
    | some (.mDrain ..) => [(ph, true, .ofNat 3 i.prog.total)]
    | some (.mGrp _ _ _ _ _ _ q p) => (ph, false, p) :: ((vget (s.lt t ph).route q.toNat none).map fun o => (ph, true, o)).toList
    | some (.rlIns _ x _ y) => ins [x, y]
    | some (.rlThr _ (.tok d _)) => outs [d]
    | some (.rlOut _ o _ _ x) => (ph, true, o) :: (x.map fun p => (ph, true, p)).toList
    | _ => []
/-- An item rests at a boundary of R200: its instruction has had no effect, or it is an `m.run` between entries or an `m.grp` between
entries or groups; a `ring.pop` between entries rests too (log 56). -/
def MItem.rests (i : MItem) (x : Option Instr) : Bool :=
  i.prog == {} ||
  match x with
  | some (.mRun ..) => true
  | some (.ringPop ..) => true
  | some (.mGrp ..) => i.prog.stage == 1 || i.prog.stage == 3 || i.prog.stage == 5 || (i.prog.stage == 2 && i.prog.held.isEmpty)
  | some (.mDrain _ (.port _) _ _) => false
  | _ => i.prog.n == 0

end Sys2Proof.Machine
end

