-- ==== Sys2Proof/Machine/Video.lean ====
section
/-! DEFINITION. Compressed-domain video instructions: group 0x17 (R233, R236 to R243). -/
namespace Sys2Proof.Machine

/-! ## Records (R233) -/

/-- A field of a record's lane. -/
def Token.rf (x : Token) (lane hi lo : Nat) : Nat := fld (x.lane lane) hi lo
/-- LOG2W; 0 marks a picture record. -/
def recLog2w (x : Token) : Nat := x.rf 1 3 0
/-- MODE. -/
def recMode (x : Token) : Nat := x.rf 1 9 8
/-- BI. -/
def recBi (x : Token) : Bool := x.rf 1 10 10 == 1
/-- FW. -/
def recFw (x : Token) : Nat := x.rf 13 15 0
/-- FH. -/
def recFh (x : Token) : Nat := x.rf 13 31 16
/-- Lane and field bounds of a record field (R237). -/
def fieldAt : RecField → Nat × Nat × Nat
  | .x => (0, 15, 0) | .y => (0, 31, 16) | .log2w => (1, 3, 0) | .log2h => (1, 7, 4) | .mode => (1, 9, 8) | .bi => (1, 10, 10)
  | .cbf => (1, 18, 16) | .reason => (1, 21, 19) | .qp => (1, 31, 24) | .count => (10, 15, 0) | .ref0 => (10, 18, 16)
  | .ref1 => (10, 21, 19) | .mvx0 => (8, 15, 0) | .mvy0 => (8, 31, 16) | .mvx1 => (9, 15, 0) | .mvy1 => (9, 31, 16)
/-- Fields that are sign-extended (R237, codes 12 to 15). -/
def fieldSigned : RecField → Bool
  | .mvx0 => true | .mvy0 => true | .mvx1 => true | .mvy1 => true | _ => false

/-- The lane rule of R236 over the lanes an instruction reads: one that is not valid makes every result lane invalid, a poisoned
one poisons every valid result lane. -/
def readRule (reads : List (Token × Nat)) (r : Token) : Token :=
  let r : Token := { r with kind := .data }
  if !reads.all (fun p => p.1.val p.2) then { r with data := 0, valid := 0, poison := 0 }
  else if reads.any (fun p => p.1.pois p.2) then { r with poison := r.valid }
  else r
/-- Lanes of a token replaced by values: valid and unpoisoned. -/
def Token.putLanes (x : Token) (l : List (Nat × Nat)) : Token :=
  let at_ (k : Nat) := l.find? fun p => p.1 == k
  { x with
    data := laneFn fun k => match at_ k with | some p => p.2 | none => x.lane k
    valid := bits16 fun k => (at_ k).isSome || x.val k
    poison := bits16 fun k => (at_ k).isNone && x.pois k
    kind := .data }
/-- Lane 1 with MODE 3 and a reason (R241, R242). -/
def refreshLane (l reason : Nat) : Nat := (BitVec.ofNat 32 l &&& ~~~(0x38_0300 : BitVec 32)).toNat + 3 * 2 ^ 8 + reason * 2 ^ 19

/-! ## Displacement (R239) -/

/-- Cell displacement of a component in 1/16 sample, ties away from zero. -/
def dispOf (m : Int) : Int := m.sign * (((m.natAbs + 32) / 64 : Nat) : Int)
/-- Its fraction in units of 1/64. -/
def fracOf (m : Int) : Nat := (m - 64 * dispOf m).natAbs
/-- Components of a vector slot. -/
def vecOf (x : Token) (slot : Nat) : Int × Int := (sgn 16 (x.rf (8 + slot) 15 0), sgn 16 (x.rf (8 + slot) 31 16))
/-- Number of cells of the block. -/
def cellsOf (x : Token) : Nat := 2 ^ recLog2w x * 2 ^ x.rf 1 7 4 / 16
/-- The displaced cell c of the block. -/
def cellAt (x : Token) (slot c : Nat) : Int × Int :=
  let v := vecOf x slot
  let w := 2 ^ recLog2w x
  (((x.rf 0 15 0 + 4 * c % w / 4 : Nat) : Int) + dispOf v.1, ((x.rf 0 31 16 + 4 * c / w : Nat) : Int) + dispOf v.2)
/-- A cell lies in the picture. -/
def cellIn (x : Token) (p : Int × Int) : Bool := decide (0 ≤ p.1 ∧ p.1 < recFw x ∧ 0 ≤ p.2 ∧ p.2 < recFh x)
/-- Displaced cells outside the picture. -/
def outCells (x : Token) (slot : Nat) : Nat := ((upTo (cellsOf x)).filter fun c => !cellIn x (cellAt x slot c)).length
/-- The vector misses the picture: every displaced cell is outside. -/
def vecMiss (x : Token) (slot : Nat) : Bool := outCells x slot == cellsOf x

/-! ## The instructions -/

/-- Code of a plane. -/
def planeCode : Plane → Nat
  | .y => 0 | .cb => 1 | .cr => 2
/-- `v.deq` (R238): one rounding for each product. -/
def execVDeq (d a b : BitVec 4) (c : Bool) (p : Plane) (s : State) : Out :=
  let acr := s.curLt.acr
  .next (tokenOp s [a, b] d none 0 fun ts _ =>
    let x := ts.getD 0 {}
    let y := ts.getD 1 {}
    let dc := 2 + 2 * planeCode p
    let f := fun k =>
      let st := y.lane (if c && k == 0 then dc else dc + 1)
      let n : Int := sgn 16 (x.lane k) * (fld st 15 0 : Nat)
      fF32.flush (acrFo acr) (fF32.round 0 0 false (.fin (decide (n < 0)) n.natAbs ((fld st 21 16 : Int) - 32)))
    (readRule (((upTo 16).map fun k => (x, k)) ++ [(y, dc + 1)] ++ if c then [(y, dc)] else []) (dataTok (laneFn f) x.tag), none))

/-- The clamped index of a cell (R240). -/
def cellIndex (x : Token) (p : Int × Int) : Nat :=
  let cl := fun (v : Int) (n : Nat) => (max 0 (min v ((n : Int) - 1))).toNat
  cl p.2 (recFh x) * recFw x + cl p.1 (recFw x)
/-- `v.warp` (R240): b names a g register. -/
def execVWarp (d a b : BitVec 4) (t : Bool) (s : State) : Out :=
  .next (needGT s b fun g => tokenOp s [a] d none 0 fun ts _ =>
    let x := ts.headD {}
    let slot := t.toNat
    let part := g.toNat % 64
    let none_ := recLog2w x == 0 || recMode x == 0 || recMode x == 3 || (t && !recBi x) || recFw x == 0 || recFh x == 0 ||
      vecMiss x slot
    let live := fun j => !none_ && decide (16 * part + j < cellsOf x)
    let r : Token := ⟨laneFn fun j => if live j then cellIndex x (cellAt x slot (16 * part + j)) else 0, bits16 live, 0, x.tag, .data⟩
    (readRule [(x, 0), (x, 1), (x, 8 + slot), (x, 13)] r, none))

/-- FP32 rounding of an exact value with FLUSHOUT (R154, R241). -/
def rnd32 (acr : BitVec 4) (v : FVal) : Nat := fF32.flush (acrFo acr) (fF32.round 0 0 false v)
/-- The value of an FP32 pattern after FLUSHIN. -/
def in32 (acr : BitVec 4) (x : Nat) : FVal := fF32.val (fF32.flush (acrFi acr) x)
/-- The sum T of the magnitudes of the live lanes of a token by the pairwise tree (R165, R241). -/
def magSum (acr : BitVec 4) (y : Token) : Nat :=
  let leaves := (upTo 16).map fun k => if y.val k then some (fF32.flush (acrFi acr) (y.lane k) % 2 ^ 31) else none
  (tree (fun p q => rnd32 acr ((fF32.val p).add (fF32.val q))) 4 leaves).getD 0
/-- `v.erracc` with FIN = 0 (R241). -/
def errAdd (acr : BitVec 4) (x y : Token) : Token × Option Nat :=
  let r := in32 acr (x.lane 12)
  let t := fF32.val (magSum acr y)
  let v := rnd32 acr (r.add t)
  let reads := [(x, 1), (x, 12)] ++ ((upTo 16).filter y.val).map fun k => (y, k)
  let res := readRule reads (x.putLanes [(12, v)])
  (res, if fF32.isNan v && !r.isNan && !t.isNan && res.val 12 && !res.pois 12 then some 48 else none)
/-- `v.erracc` with FIN = 1 (R241), from α, β and the bound. -/
def errFin (acr : BitVec 4) (alpha beta bound : Lane) (x y : Token) : Token :=
  let base := [(x, 1), (y, 0)]
  if recMode x = 0 ∨ recMode x = 3 then readRule base (x.putLanes [(11, 0)])
  else
    let slots := if recBi x then [0, 1] else [0]
    let reads := base ++ [(x, 0), (x, 12), (x, 13)] ++ slots.map fun k => (x, 8 + k)
    if slots.any (vecMiss x) then readRule reads (x.putLanes [(1, refreshLane (x.lane 1) 6), (11, 0)])
    else
      let f := (slots.map fun k => fracOf (vecOf x k).1 + fracOf (vecOf x k).2).foldl max 0
      let n := 16 * (slots.map (outCells x)).foldl max 0
      let val := fF32.val
      let e1 := rnd32 acr ((in32 acr (y.lane 0)).add (val (rnd32 acr ((val alpha.toNat).mul (in32 acr (x.lane 12))))))
      let e2 := rnd32 acr ((val e1).add (val (rnd32 acr ((val beta.toNat).mul (.fin false n 0)))))
      let e3 := rnd32 acr ((val e2).add (.fin false f (-6)))
      if (val e3).isNan || (val bound.toNat).lt (val e3) then
        readRule reads (x.putLanes [(1, refreshLane (x.lane 1) 7), (11, 0)])
      else readRule reads (x.putLanes [(11, e3)])
/-- `v.erracc` (R241); with FIN = 1 it reads lane 0 of tb whatever the record (R243). -/
def execVErracc (d a b : BitVec 4) (f : Bool) (s : State) : Out :=
  let acr := s.curLt.acr
  let r := s.region s.curLt.key
  let k := fun (g : Region → Lane) => (r.map g).getD 0
  .next (tokenOp s [a, b] d none 0 fun ts _ =>
    let x := ts.getD 0 {}
    let y := ts.getD 1 {}
    if recLog2w x = 0 then (readRule ((x, 1) :: if f then [(y, 0)] else []) x, none)
    else if f then (errFin acr (k (·.alpha)) (k (·.beta)) (k (·.bound)) x y, none)
    else errAdd acr x y)
/-- `v.refr` (R242). -/
def execVRefr (d a : BitVec 4) (s : State) : Out :=
  .next (tokenOp s [a] d none 0 fun ts _ =>
    let x := ts.headD {}
    if recLog2w x ≠ 0 ∧ (recMode x = 1 ∨ recMode x = 2) then
      (readRule [(x, 1)] (x.putLanes [(1, refreshLane (x.lane 1) 7), (11, 0)]), none)
    else (readRule [(x, 1)] x, none))
/-- `v.bfx` (R237). -/
def execVBfx (d a : BitVec 4) (f : RecField) (s : State) : Out :=
  .next (tokenOp s [a] d none 0 fun ts _ =>
    let x := ts.headD {}
    let (l, hi, lo) := fieldAt f
    let v := x.rf l hi lo
    (readRule [(x, l)] (dataTok (laneFn fun _ => if fieldSigned f then unsgn 32 (sgn 16 v) else v) x.tag), none))

end Sys2Proof.Machine
end

