-- ==== Sys2Proof/Machine/Ranked.lean ====
section
/-! DEFINITION. Ranked lists and ring control: groups 0x1A and 0x1B, and the feeds of rings (R204, R206, R217 to R223). -/
namespace Sys2Proof.Machine

/-! ## Ranked lists (R217) -/

/-- A key that orders FP32 patterns as their values, −0 below +0. -/
def fkey (x : Nat) : Nat := if x < 2 ^ 31 then 2 ^ 31 + x else 2 ^ 32 - 1 - x
/-- Entry a ranks above entry b (R217). -/
def above (a b : REnt) : Bool := decide (fkey b.v.toNat < fkey a.v.toNat ∨ (a.v = b.v ∧ a.i.toNat < b.i.toNat))
/-- Inserts an entry behind every entry that it does not rank above. -/
def insertRank (x : REnt) : List REnt → List REnt
  | [] => [x]
  | y :: r => if above x y then x :: y :: r else y :: insertRank x r
/-- Inserts a pair into a row that keeps k entries (R217). -/
def RRow.insert (k : Nat) (x : REnt) (r : RRow) : RRow := { r with ents := (insertRank x r.ents).take k }
/-- A row's threshold (R217). -/
def RRow.thr (k : Nat) (r : RRow) : Nat := if r.ents.length = k then ((r.ents.getLast?.map (·.v.toNat)).getD 0xFF80_0000) else 0xFF80_0000
/-- The rows of a ranked list, or ACC_KIND (R201). -/
def needList (s : State) (c : BitVec 4) (k : Nat → Vector RRow 16 → State) : State :=
  match s.acc c with
  | .sum _ _ => accKind s c
  | .ranked n rows => k n rows

/-- `rl.decl` (R218). -/
def execRlDecl (c : BitVec 4) (k : BitVec 5) (s : State) : Out :=
  .next (matOp s (.rlDecl c k) noPre fun s =>
    needAcc s c (advance (s.setAcc c (.ranked (k.toNat + 1) (Vector.replicate 16 {}))) 1))

/-- Offers the candidate of lane j to its row (R219). -/
def insLane (k : Nat) (fi row : Bool) (v i : Token) (rows : Vector RRow 16) (j : Nat) : Vector RRow 16 :=
  if !(v.val j && i.val j) then rows
  else
    let r := if row then v.tag.toNat % 16 else j
    let x := vget rows r {}
    let b := fF32.flush fi (v.lane j)
    vset rows r (
      if v.pois j || i.pois j then { x with pois := true }
      else if fF32.isNan b then { x with nan := true }
      else x.insert k ⟨.ofNat 32 b, .ofNat 32 (i.lane j), false⟩)
/-- `rl.ins` (R219). -/
def execRlIns (c x : BitVec 4) (f : Bool) (i : BitVec 4) (s : State) : Out :=
  .next (matOp s (.rlIns c x f i) (preW [x, i]) fun s => needAcc s c (needList s c fun k rows =>
    let ports := portsOf [x, i]
    needFree s ports [] fun s => needHeads s ports [] (
      let rows := (upTo 16).foldl (insLane k (acrFi s.macr) f (s.tok x) (s.tok i)) rows
      advance ((s.popAll ports).setAcc c (.ranked k rows)) 1)))

/-- A row merged into another (R220). -/
def mergeRow (k : Nat) (dst src : RRow) : RRow :=
  let r := src.ents.foldl (fun r e => RRow.insert k { e with drop := false } r) dst
  { r with nan := dst.nan || src.nan, pois := dst.pois || src.pois }
/-- `rl.merge` (R220). -/
def execRlMerge (c x : BitVec 4) (s : State) : Out :=
  .next (matOp s (.rlMerge c x) noPre fun s => needAcc s c (needAcc s x (needList s c fun k rows => needList s x fun _ src =>
    advance (s.setAcc c (.ranked k (Vector.zipWith (mergeRow k) rows src))) 1)))

/-- The flags of the rows. -/
def rowFlags (rows : Vector RRow 16) (f : RRow → Bool) : BitVec 16 := bits16 fun r => f (vget rows r {})
/-- A g form of `rl.thr`: legal inline alone (R221). -/
def thrG (s : State) (c d : BitVec 4) (f : Nat → Vector RRow 16 → DWord) : State :=
  match s.ctx.unit with
  | .mrun => trap s 28 0 (w64 s.matPc)
  | _ => needAcc s c (needList s c fun k rows => advance (s.setG d (f k rows)) 1)
/-- `rl.thr` (R221). -/
def execRlThr (c : BitVec 4) (x : ThrDest) (s : State) : Out :=
  .next (match x with
    | .tok d _ => matOp s (.rlThr c x) (preW [d]) fun s => needAcc s c (needList s c fun k rows =>
        let out : Token := ⟨laneFn fun r => (vget rows r {}).thr k, 0xFFFF, rowFlags rows (·.pois), 0, .data⟩
        needFree s [] (portsOf [d]) fun s => needHeads s [] (portsOf [d]) (advance (if isPort d then s.push (codeNo d) out else s.setW (codeNo d) out) 1))
    | .g d row => matOp s (.rlThr c x) (preD d) fun s =>
        thrG s c d fun k rows => .ofInt 64 (sgn 32 ((vget rows row.toNat {}).thr k))
    | .flags d _ => matOp s (.rlThr c x) (preD d) fun s =>
        thrG s c d fun _ rows => w64 ((rowFlags rows (·.nan)).toNat + 2 ^ 16 * (rowFlags rows (·.pois)).toNat))

/-! ## rl.out (R222) -/

/-- The exact quotient for one rounding: its leading bits and a sticky bit. -/
def FVal.div : FVal → FVal → FVal
  | .nan, _ => .nan
  | _, .nan => .nan
  | .inf _, .inf _ => .nan
  | .inf a, .fin b _ _ => .inf (a != b)
  | .fin a _ _, .inf b => .fin (a != b) 0 0
  | .fin a n e, .fin b m f =>
    if m = 0 then (if n = 0 then .nan else .inf (a != b))
    else
      let x := n * 2 ^ 80
      .fin (a != b) (2 * (x / m) + if x % m = 0 then 0 else 1) (e - f - 81)
/-- An FP32 operation with ACR (R158, R159). -/
def op32 (acr : BitVec 4) (f : FVal → FVal → FVal) (x y : Nat) : Nat := rnd32 acr (f (in32 acr x) (in32 acr y))
/-- Entries of a row that `rl.out` keeps: below n, and not dropped under WGT. -/
def keptOf (wgt : Bool) (r : RRow) (j : Nat) : Option REnt := (r.ents[j]?).filter fun e => !(wgt && e.drop)
/-- Value of kept entry j (R222). -/
def outVal (wgt renorm : Bool) (acr : BitVec 4) (m : Nat) (r : RRow) (j : Nat) : Nat :=
  match keptOf wgt r j with
  | none => 0
  | some e =>
    if renorm then
      let leaves := (upTo m).map fun i => (keptOf wgt r i).map (·.v.toNat)
      op32 acr FVal.div e.v.toNat ((tree (op32 acr FVal.add) 5 (fit none 32 leaves)).getD 0)
    else e.v.toNat
/-- The token of half h of a row: lanes from a function of the entry, valid where asked, poisoned with the row. -/
def outTok (r : RRow) (row h : Nat) (f : Nat → Nat) (ok : Nat → Bool) : Token :=
  let live := bits16 fun k => ok (16 * h + k)
  ⟨laneFn fun k => if ok (16 * h + k) then f (16 * h + k) else 0, live, if r.pois then live else 0, .ofNat 6 (row + 16 * h), .data⟩
/-- `rl.out` (R222): one row a turn, pushed when each port it needs has room for the row's tokens. -/
def execRlOut (c : BitVec 4) (x : BitVec 3) (n u : Bool) (i : Option (BitVec 3)) (s : State) : Out :=
  .next (matOp s (.rlOut c x n u i) noPre fun s => needAcc s c (needList s c fun k rows =>
    let ports := x :: i.toList
    needFree s [] ports fun s =>
      let t := s.ctx.tile
      let halves := upTo (if 16 < k then 2 else 1)
      if !ports.all (fun p => decide (s.outLen t s.ctx.slot s.cur.phase p + halves.length * (ports.filter (· == p)).length ≤ 4)) then
        park s .port
      else
        let row := s.mprog.n
        let r := vget rows row {}
        let acr := s.macr
        let m := 16 * halves.length
        let val := outVal u n acr m r
        let s1 := halves.foldl (fun s h => s.push x (outTok r row h val fun j => (keptOf u r j).isSome)) s
        let s2 := match i with
          | none => s1
          | some p => halves.foldl (fun s h => s.push p (outTok r row h (fun j => ((r.ents[j]?).map fun (e : REnt) => e.i.toNat).getD 0)
              fun j => decide (j < r.ents.length))) s1
        let bad := if n && !r.pois then (upTo m).find? fun j => (keptOf u r j).isSome && fF32.isNan (val j) else none
        let s3 := s2.noteNan (bad.map (16 * row + ·))
        if row + 1 = 16 then advance (s3.tellNan 256) 1 else s3.setProg { s3.mprog with n := row + 1 }))

/-- `rl.clr` (R223). -/
def execRlClr (c : BitVec 4) (x : Option (BitVec 4 × Bool)) (s : State) : Out :=
  .next (match x with
    | none => matOp s (.rlClr c x) noPre fun s => needAcc s c (needList s c fun k _ =>
        advance (s.setAcc c (.ranked k (Vector.replicate 16 {}))) 1)
    | some (r, _) => matOp s (.rlClr c x) (preG r) fun s => needAcc s c (needList s c fun k rows =>
        let v := (s.g r).val
        let y := vget rows (bfld v 8 5) {}
        let ents := y.ents.zipIdx.map fun (e, j) => if j = bfld v 4 0 then { e with drop := true } else e
        advance (s.setAcc c (.ranked k (vset rows (bfld v 8 5) { y with ents := ents }))) 1))

/-! ## Ring control (R206) -/

/-- A stream command is bound to a ring of the issuer: from its issue until it completes (R95, R206, log 48). -/
def State.ringUsed (s : State) (r : BitVec 2) : Bool :=
  allEngines.any fun e => (((s.tile s.ctx.tile).engine e).cmds).any fun c =>
    c.dest == .ring r && c.kind != .write && c.kind != .prism && (c.slot == 15) == s.rcTask && (s.rcTask || c.phase == s.cur.phase)
/-- Pointers, marks and any partial entry of a ring discarded. -/
def Ring.clear (q : Ring) : Ring := { q with head := 0, tail := 0, vbits := [], marks := [] }
/-- `ring.set` (R206). -/
def execRingSet (r : BitVec 2) (x : Option (BitVec 4 × Bool)) (s : State) : Out :=
  .next (match x with
    | none => matOp s (.ringSet r x) noPre fun s => needRing s r (
        if s.ringUsed r then park s .matrix else advance (s.modRing r Ring.clear) 1)
    | some (a, _) => matOp s (.ringSet r x) (preG a) fun s =>
        if s.rcTask && r != 3 then trap s 29 0 (w64 r.toNat)
        else if s.ringUsed r then park s .matrix
        else
          let base := bfld (s.g a).val 12 0
          let size := bfld (s.g a).val 23 16
          let lo := if s.rcTask then 0x7_A000 else 0
          let hi := if s.rcTask then 0x8_0000 else shareBytes (s.tile s.ctx.tile).fold
          if size = 0 ∨ base * 64 < lo ∨ hi < base * 64 + 1536 * size then trap s 5 0 (w64 (base * 64))
          else advance (s.modRing r fun q => { q.clear with base := base, size := size }) 1)
/-- A ring count delivered inline (R206). -/
def ringCount (s : State) (i : Instr) (r : BitVec 2) (x : BitVec 4) (f : Ring → BitVec 32) : State :=
  matOp s i (preD x) fun s =>
    match s.ctx.unit with
    | .mrun => trap s 28 0 (w64 s.matPc)
    | _ => needRing s r (advance (s.setG x (w64 (f (s.ring r)).toNat)) 1)
/-- `ring.head` (R206). -/
def execRingHead (r : BitVec 2) (x : BitVec 4) (s : State) : Out := .next (ringCount s (.ringHead r x) r x (·.head))
/-- `ring.tail` (R206). -/
def execRingTail (r : BitVec 2) (x : BitVec 4) (s : State) : Out := .next (ringCount s (.ringTail r x) r x (·.tail))
/-- One pop, the count and the pops done standing in the progress. -/
def popTurn (s : State) (r : BitVec 2) : State :=
  let p := s.mprog
  withEntry s r fun s =>
    let s1 := s.modRing r Ring.popEntry
    if p.n + 1 = p.count then advance s1 1 else s1.setProg { p with n := p.n + 1 }
/-- `ring.pop` (R206). -/
def execRingPop (r : BitVec 2) (x : BitVec 4) (w : Bool) (s : State) : Out :=
  .next (matOp s (.ringPop r x w) (preG x) fun s => needRing s r (
    if s.mprog = {} then
      if (s.g x).val = 0 then advance s 1 else popTurn (s.setProg { stage := 1, count := (s.g x).val.toNat }) r
    else popTurn s r))

/-! ## Filling rings (R202, R204) -/

/-- Appends a token to a ring of a fold phase, or of slot 15 (R202): its bytes, its words' marks and its valid bits. -/
def State.ringAppend (s : State) (t : Nat) (rc : Bool) (ph : BitVec 2) (r : BitVec 2) (x : Token) : State :=
  let y := s.tile t
  let m := if rc then y.rcMat else (s.lt t ph).mat
  let q := vget m.rings r.toNat {}
  let a := spAddr y.fold ph (q.addr q.tail.toNat)
  let s1 := s.modTile t fun y => { y with
    spad := memWrite y.spad a (leBytes 64 x.data.toNat)
    marks := (upTo 16).foldl (fun l k => setPut l (a + 4 * k) (x.pois k)) y.marks }
  let m1 : MatState := { m with rings := vset m.rings r.toNat { q with tail := q.tail + 1, vbits := q.vbits ++ [x.valid] } }
  if rc then s1.modTile t fun y => { y with rcMat := m1 } else s1.modLt t ph fun l => { l with mat := m1 }
/-- A ring has room for a token (R204). -/
def Ring.room (q : Ring) : Bool := decide ((q.tail - q.head).toNat < 24 * q.size)
/-- Completes a partial entry with zero tokens whose lanes are all invalid (R204). -/
def State.ringPad (s : State) (t : Nat) (ph : BitVec 2) (r : BitVec 2) : Nat → State
  | 0 => s
  | n + 1 =>
    if (vget (s.lt t ph).mat.rings r.toNat {}).tail.toNat % 24 = 0 then s
    else (s.ringAppend t false ph r ⟨0, 0, 0, 0, .data⟩).ringPad t ph r n
/-- RING_FEED (R204): the ring control takes the head of its feed port. -/
def execRingFeed (t : Nat) (ph r : BitVec 2) (s : State) : Out :=
  .next (
    let q := vget (s.lt t ph).mat.rings r.toNat {}
    match q.feed with
    | none => s
    | some p =>
      match s.headOf t 0 ph p with
      | none => s
      | some x =>
        if !s.regionRuns (s.lt t ph).key || q.size == 0 || decide (4 ≤ q.marks.length) then s
        else
          let s1 := s.popOf t 0 ph p
          match x.kind with
          | .data => if q.room then (s1.ringAppend t false ph r x).progressAt t ph else s
          | .eos => (s1.ringPad t ph r 24).progressAt t ph
          | _ =>
            let code := x.lane 0 % 256
            if x.kind = .control ∧ (code = 1 ∨ (code = 2 ∧ q.swapeg)) then
              ((s1.ringPad t ph r 24).modLt t ph fun l =>
                let q := vget l.mat.rings r.toNat {}
                { l with mat := { l.mat with rings := vset l.mat.rings r.toNat { q with marks := q.marks ++ [q.tail] } } }).progressAt t ph
            else s1.progressAt t ph)

end Sys2Proof.Machine
end

