-- ==== Sys2Proof/Machine/Engine.lean ====
section
/-! DEFINITION. The stream engines: patterns, the elements of a running command, the faults that stop a unit, and the cancelling of its work (R96 to R111, R119, R289, R358, R359). -/
namespace Sys2Proof.Machine

/-! ## Patterns (R96 to R100, R105) -/

/-- Byte step of dimension k. -/
def CmdRun.stride (r : CmdRun) (k : Nat) : Int := sgn 40 (fld (r.dw k) 39 0)
/-- Element bytes that an ESIZE code names. -/
def esizeOf (c : Nat) : Nat := match c with | 0 => 1 | 1 => 2 | 2 => 4 | 3 => 8 | _ => 64
/-- Element bytes E. -/
def CmdRun.esz (r : CmdRun) : Nat := esizeOf (fld (r.dw 4) 63 61)
/-- Token bytes U that one element fills under a transform code (R100, R105). -/
def unitBytes (x : Xform) (e : Nat) : Nat := match x with | .move => e | .bcast => 64 | _ => 4
/-- Elements of one token: a pass of dimension 0 under ROWTOK, else as many as fit. -/
def CmdRun.perTok (r : CmdRun) : Nat :=
  if (r.dw 4).testBit 56 then r.cnt 0 else 64 / unitBytes r.cmd.xf r.esz
/-- What of the window is out: tokens pushed, for a syntax command the part of its bitstream handed on. -/
def CmdRun.out (r : CmdRun) : Nat := if r.cmd.kind = .syn then r.units else r.head
/-- Number of the first element held in the window. -/
def CmdRun.first (r : CmdRun) : Nat := r.next - r.win.length
/-- Counter k of element n (R97). -/
def CmdRun.ctr (r : CmdRun) (n k : Nat) : Nat :=
  match k with
  | 0 => n % r.cnt 0
  | 1 => n / r.cnt 0 % r.cnt 1
  | 2 => n / (r.cnt 0 * r.cnt 1) % r.cnt 2
  | _ => n / (r.cnt 0 * r.cnt 1 * r.cnt 2) % r.cnt 3
/-- Elements of one pass of the dimensions inside IDIM (R99). -/
def CmdRun.inner (r : CmdRun) : Nat := ((upTo (fld (r.dw 4) 53 52)).map r.cnt).foldl (· * ·) 1
/-- Element n takes a new index: IDIM's counter takes a value (R99). -/
def CmdRun.takesIx (r : CmdRun) (n : Nat) : Bool := r.cmd.kind == .ind && n % r.inner == 0
/-- An axis of padding makes an element a padded tap (R98). -/
def CmdRun.axisPads (r : CmdRun) (d n : Nat) : Bool :=
  d.testBit 63 &&
    (let c : Int := (r.ctr n (fld d 62 61) * fld d 58 51 + r.ctr n (fld d 60 59) * fld d 50 43 : Nat) - (fld d 42 27 : Nat)
     decide (c < 0 ∨ (fld d 26 7 : Int) ≤ c))
/-- Element n is a padded tap (R98). -/
def CmdRun.padded (r : CmdRun) (n : Nat) : Bool := r.axisPads (r.dw 5) n || r.axisPads (r.dw 6) n
/-- Bytes of a padded element: the low bytes of PADVAL, or its four bytes repeated (R96). -/
def CmdRun.padBytes (r : CmdRun) : List Byte :=
  let b := leBytes 4 (fld (r.dw 4) 31 0)
  if r.esz ≤ 4 then b.take r.esz else (List.replicate (r.esz / 4) b).flatten
/-- The exact offset of element n under an index (R97). -/
def CmdRun.off (r : CmdRun) (n : Nat) (ix : Lane) : Int :=
  (bfld r.cmd.base 47 0 : Int) + sgn 32 r.cmd.disp.toNat +
    ((upTo 4).map fun k =>
      (if r.cmd.kind = .ind ∧ k = fld (r.dw 4) 53 52 then sgn 32 ix.toNat else (r.ctr n k : Int)) * r.stride k).foldl (· + ·) 0
/-- A global address from a base and an offset. -/
def vaWith (base : VAddr) (off : Int) : VAddr :=
  .ofNat 80 (bfld base 79 48 * 2 ^ 48 + unsgn 48 off)

/-- The PCB passes the checks of R101, R105 and R229 for a command. -/
def pcbOk (c : Cmd) (d : Vector DWord 8) : Bool :=
  let w := fun (k : Nat) => (vget d k 0).toNat
  let e := esizeOf (fld (w 4) 63 61)
  let axis := fun (x : Nat) => x % 128 == 0 && !(x.testBit 63 && fld x 26 7 == 0)
  ((upTo 4).all fun k => fld (w k) 63 60 == 0) && decide (fld (w 4) 63 61 ≤ 4) && fld (w 4) 51 32 == 0 && axis (w 5) && axis (w 6) &&
  ((w 4).testBit 54 == (c.kind == .ind)) &&
  !((w 4).testBit 56 && decide (64 < max 1 (fld (w 0) 59 40) * unitBytes c.xf e)) &&
  (match c.xf with
   | .move => true
   | .zext => c.kind != .write && decide (e ≤ 2)
   | .sext => c.kind != .write && decide (e ≤ 2)
   | .low => c.kind == .write && decide (e ≤ 2)
   | .bcast => c.kind != .write && e == 4) &&
  (if c.kind = .syn then e == 1 && !(w 5).testBit 63 && !(w 6).testBit 63 && fld (w 7) 39 0 == 0 else w 7 == 0)
/-- The pattern of `s.prism`: six elements of 64 bytes (R290). -/
def prismPcb : Vector DWord 8 := (Vector.replicate 8 (0 : DWord)).set 0 (w64 (6 * 2 ^ 40 + 64)) |>.set 4 (w64 (4 * 2 ^ 61))

/-! ## Engines -/

/-- Order of a command among a tile's commands and runs: that of its run where it was forked (R78, R109). -/
def Cmd.ord (c : Cmd) : Nat := c.run.getD c.seq
/-- An engine works: its region runs; the recompute contexts always do (R322, R382). -/
def State.engRuns (s : State) (t : Nat) (c : Cmd) : Bool := c.slot == 15 || s.regionRuns (s.lt t c.phase).key
/-- The partition that a command works for. -/
def State.cmdPart (s : State) (t : Nat) (c : Cmd) : PartId :=
  if c.slot = 15 then ((s.tile t).rc.map (·.part)).getD 0 else s.partAt t c.phase
/-- Region key of a command; 0, which no region has, for the recompute. -/
def State.cmdKey (s : State) (t : Nat) (c : Cmd) : Nat := if c.slot = 15 then 0 else (s.lt t c.phase).key
/-- Progress of the region that a command works for (R316, R382). -/
def State.cmdProgress (s : State) (t : Nat) (c : Cmd) : State := s.progress (s.cmdKey t c)
/-- Changes the running command of an engine. -/
def State.setRun (s : State) (t : Nat) (e : EngineId) (r : CmdRun) : State := s.setEngine t e { s.engine t e with cur := some r }
/-- Engine number of a record. -/
def engNo : EngineId → Nat
  | .eng e => e.toNat
  | .rcRead => 14
  | .rcWrite => 14
/-- The data stream goes through a Prism program (R285). -/
def Cmd.viaPrism (c : Cmd) : Bool := c.pid.isSome && c.kind != .prism

/-- Removes the accesses of an engine that are on their way. -/
def State.dropElems (s : State) (t : Nat) (e : EngineId) : State :=
  (s.ops.filter fun o => o.tile == t && (match o.kind with | .elem a => a.e == e | _ => false)).foldl State.endOp s

/-! ## Faults that stop a unit (R107, R119, R135, R358, R359) -/

/-- The record of a fault at element n of a command (R97, R359). -/
def State.elemRec (s : State) (t : Nat) (e : EngineId) (r : CmdRun) (n : Nat) (w : WElem) (f : Flt) : FaultRec :=
  let va := vaWith r.cmd.base (r.off n w.ix)
  s.recAt t r.cmd.phase {
    kind := f.kind, gen := .ofNat 4 (engNo e), sub := (s.task t r.cmd.slot).img
    va := if f.kind = 0x01 then .ofInt 64 (r.off n w.ix) else .ofNat 64 (bfld va 63 0)
    ver := r.cmd.ver.getD 0, vwin := .ofNat 16 (bfld va 79 64), index := if r.cmd.kind = .ind then w.ix else 0, aux := f.aux
    c0 := w32 (r.ctr n 0), c1 := w32 (r.ctr n 1), c2 := w32 (r.ctr n 2), c3 := w32 (r.ctr n 3), c4 := w32 w.c4, word := w32 r.cmd.pc }
/-- Stops an engine by a fault at one of its elements (R107). Nothing happens while an earlier element is still on its way, and the
fault is raised when the element is tried again. Slot 15 ends the recompute instead (R304). -/
def State.stopElem (s : State) (t : Nat) (e : EngineId) (r : CmdRun) (n : Nat) (w : WElem) (f : Flt) : State :=
  if (r.win.take (n - r.first)).any fun x => !x.done then s
  else if r.cmd.slot = 15 then s.rcFault t (if f.kind = 0x1F then 0x1F else 0x1E) 0 (if f.kind = 0x1F then 0 else f.kind.toNat)
  else
    let p := s.cmdPart t r.cmd
    let (seq, s1) := s.postAny p (s.elemRec t e r n w f)
    let s2 := (s1.dropElems t e).setEngine t e { s1.engine t e with
      cur := some { r with win := r.win.map fun x => { x with id := none } }, stop := some seq }
    s2.addStop p { seq := seq, kind := f.kind, what := .engine t e, rkey := s.cmdKey t r.cmd }
/-- Raises the fault of an element's access, if its element still waits for it. -/
def State.elemFault (s : State) (o : Op) (a : ElemAcc) (f : Flt) : State :=
  match (s.engine o.tile a.e).cur with
  | none => s.endOp o
  | some r =>
    match r.win[a.n - r.first]? with
    | none => s.endOp o
    | some w => s.stopElem o.tile a.e r a.n w f
/-- The record of a fault of an operation of the memory-operation port, of a card or of a collective (R119, R126, R135, R295). -/
def State.opRec (s : State) (o : Op) (f : Flt) (gen : Nat) (va : VAddr) (ver c0 c1 : Nat) : FaultRec :=
  s.recAt o.tile o.phase {
    kind := f.kind, gen := .ofNat 4 gen, sub := (s.task o.tile o.slot).img, va := .ofNat 64 (bfld va 63 0)
    vwin := .ofNat 16 (bfld va 79 64), ver := w32 ver, aux := f.aux, c0 := w32 c0, c1 := w32 c1, word := w32 o.word }
/-- The place of an operation that dispatch itself performs: beyond every tile. -/
def dispatchTile : Nat := 1536
/-- Raises a fault of an operation: it stands stopped, and so does the port that forwarded it (R119); a copy engine stops alone
(R135). Slot 15 ends the recompute instead (R304), and a peer's access tells its sender (R350). -/
def State.faultOp (s : State) (o : Op) (f : Flt) (card : Bool) (va : VAddr) (ver c0 c1 : Nat) : State :=
  match o.kind with
  | .peer fl => (s.reply fl false [(f.kind, false)]).endOp o
  | _ =>
  if o.slot = 15 then s.rcFault o.tile (if f.kind = 0x1F then 0x1F else 0x1E) 0 (if f.kind = 0x1F then 0 else f.kind.toNat)
  else
    let (seq, s1) := s.postAny o.part (s.opRec o f (if o.tile = dispatchTile then 12 else if card then 11 else 8) va ver c0 c1)
    let s2 := s1.modOp o.id fun o => { o with stop := some seq }
    let s3 := if card then s2 else s2.modTile o.tile fun x => { x with memStop := some seq }
    s3.addStop o.part { seq := seq, kind := f.kind, what := if card then .copy o.id else .memop o.tile o.id, rkey := o.rkey }

/-! ## The elements of a running command -/

/-- An access has returned or is performed: its element holds the bytes, and the access is gone. A write drops the elements it has
done from the front. -/
def State.elemDone (s : State) (o : Op) (a : ElemAcc) (d : List (Byte × Bool)) : State :=
  let new := (s.op o.id).elim [] (·.opened)
  let s1 := s.endOp o
  match (s1.engine o.tile a.e).cur with
  | none => s1
  | some r =>
    let win := r.win.map fun (w : WElem) =>
      if w.id = some o.id then
        { w with id := none, done := true, data := if a.wr.isSome then w.data else d.map (·.1), poison := w.poison || d.any (·.2) }
      else w
    let win := if r.cmd.kind = .write then win.dropWhile fun w => w.done else win
    (s1.setEngine o.tile a.e { s1.engine o.tile a.e with cur := some { r with win := win, opened := r.opened ++ new }, flt := false }).cmdProgress o.tile r.cmd

/-- Element n of the pattern may be issued: under a Prism program its unit has been processed (R285). -/
def CmdRun.issuable (r : CmdRun) (n : Nat) : Bool :=
  r.cmd.kind != .write || !r.cmd.viaPrism || decide (n < r.units * (64 / r.esz))
/-- The live bytes of a write element with their poison (R104). -/
def WElem.bytes (w : WElem) : List (Option (Byte × Bool)) :=
  (w.data.zip w.live).map fun (b, l) => if l then some (b, w.poison) else none
/-- Issues the access of the window's element i, or stops at it (R97). -/
def State.issueElem (s : State) (t : Nat) (e : EngineId) (r : CmdRun) (i : Nat) : State :=
  match r.win[i]? with
  | none => s
  | some w =>
    let n := r.first + i
    let off := r.off n w.ix
    if off < 0 ∨ 2 ^ 48 ≤ off then s.stopElem t e r n w ⟨0x01, 0⟩
    else if off % r.esz ≠ 0 then s.stopElem t e r n w ⟨0x02, 0⟩
    else
      let o : Op := {
        id := s.newId, tile := t, slot := r.cmd.slot, phase := r.cmd.phase, part := s.cmdPart t r.cmd, rkey := s.cmdKey t r.cmd
        va := vaWith r.cmd.base off, d := none, word := r.cmd.pc, mark := r.cmd.seq
        kind := .elem ⟨e, n, r.esz, r.cmd.ver.map (·.toNat), if r.cmd.kind = .write then some w.bytes else none, false, none⟩ }
      { s with ops := s.ops ++ [o], newId := s.newId + 1 }.setRun t e { r with win := r.win.set i { w with id := some o.id } }

/-- Passes one unit of elements through the Prism program, if all of them have come (R285 to R289). -/
def CmdRun.unit (r : CmdRun) : Option CmdRun :=
  let ue := 64 / r.esz
  let lo := r.units * ue
  let hi := min r.total (lo + ue)
  let pre := r.win.take (lo - r.first)
  let mid := (r.win.drop (lo - r.first)).take (hi - lo)
  let post := r.win.drop (hi - r.first)
  if r.total ≤ lo ∨ r.next < hi ∨ (r.cmd.kind ≠ .write ∧ mid.any (fun w => !w.done)) then none
  else
    let bad := mid.any fun w => w.poison
    let (out, ps) := prismUnit r.prog r.ps (fit 0 64 (mid.map (·.data)).flatten)
    let mid := mid.zipIdx.map fun ((w : WElem), k) =>
      { w with data := (out.drop (k * r.esz)).take r.esz, poison := bad,
               done := w.done || (r.cmd.kind == .write && (w.pad || !w.live.any id)) }
    some { r with win := pre ++ mid ++ post, units := r.units + 1, ps := ps, pspois := prismPois r.prog bad r.pspois }
/-- Passes as many units as have come, up to n of them. -/
def CmdRun.unitsN : Nat → CmdRun → CmdRun
  | 0, r => r
  | n + 1, r => match r.unit with | none => r | some q => unitsN n q

/-- Payload bytes of an element in a token under a transform code (R105). -/
def xfBytes (x : Xform) (d : List Byte) : List Byte :=
  match x with
  | .move => d
  | .zext => leBytes 4 (leNat d)
  | .sext => leBytes 4 (unsgn 32 (sgn (8 * d.length) (leNat d)))
  | .low => d
  | .bcast => (List.replicate 16 d).flatten
/-- Lanes that the element at a position of a token fills. -/
def elemSpan (u p : Nat) : List Nat := upFrom (u * p / 4) ((u * p + u - 1) / 4 - u * p / 4 + 1)
/-- The token that elements make (R98, R100). -/
def CmdRun.token (r : CmdRun) (l : List WElem) (tag : BitVec 6) : Token :=
  let u := unitBytes r.cmd.xf r.esz
  let skip := (r.dw 4).testBit 55
  let lanes := (l.zipIdx.map fun ((w : WElem), p) => (elemSpan u p).map fun k => (k, w)).flatten
  let valid := fun (k : Nat) => lanes.any fun (j, w) => j == k && !(skip && w.pad)
  ⟨.ofNat 512 (leNat (l.map fun (w : WElem) => xfBytes r.cmd.xf w.data).flatten),
   bits16 valid, bits16 (fun k => valid k && lanes.any fun (j, w) => j == k && w.poison), tag, .data⟩
/-- The endpoint of a read-class command has room for a token. -/
def State.destRoom (s : State) (t : Nat) (c : Cmd) : Bool :=
  match c.dest with
  | .port p => s.spaceOf t c.slot c.phase p
  | .ring q => (vget (if c.slot = 15 then (s.tile t).rcMat else (s.lt t c.phase).mat).rings q.toNat {}).room
/-- Pushes a token to it. -/
def State.destPush (s : State) (t : Nat) (c : Cmd) (x : Token) : State :=
  match c.dest with
  | .port p => s.pushOf t c.slot c.phase p (.tok x)
  | .ring q => s.ringAppend t (c.slot == 15) c.phase q x
/-- Tag of token n of a command (R104). -/
def Cmd.tagAt (c : Cmd) (n : Nat) : BitVec 6 := .ofNat 6 (c.tag.toNat + n)

/-- Elements that a token gives a write command, appended to its buffer (R100, R104, R105). -/
def CmdRun.takeTok (r : CmdRun) (x : Token) : CmdRun :=
  let g := r.perTok
  let hi := min r.area (r.next / g * g + g)
  let u := unitBytes r.cmd.xf r.esz
  let raw := leBytes 64 x.data.toNat
  let es := (upFrom r.next (hi - r.next)).map fun n =>
    let p := n % g
    let data := (raw.drop (u * p)).take r.esz
    let live := (upTo r.esz).map fun j => x.val ((u * p + j) / 4)
    let pad := r.padded n
    ({ pad := pad, data := data, live := live
       poison := (upTo r.esz).any fun j => x.val ((u * p + j) / 4) && x.pois ((u * p + j) / 4)
       done := !r.cmd.viaPrism && (pad || !live.any id) } : WElem)
  { r with next := hi, head := r.head + 1, win := r.win ++ es }

/-! ## Cancelling an engine (R110, R262, R362) -/

/-- Removes the records of what a unit was stopped by. -/
def State.unstop (s : State) (what : Stopped) : State :=
  { s with mstops := s.mstops.filter fun r => r.what != what,
           parts := s.parts.map fun (k, (p : Part)) => (k, { p with stops := p.stops.filter fun r => r.what != what }) }
/-- Abandons open versions that writes have opened: those of this device's directories at once, those of a peer's by a message to it
(R262). -/
def State.abandonAll (s : State) (l : List (FrameKey × Nat)) : State :=
  l.eraseDups.foldl (fun s (k, v) =>
    match (s.frame k).ver v with
    | some x => if x.st = .opened then s.abandonVer k v else s
    | none =>
      match s.frameTarget k.part (frameVa k) with
      | .ok (some (a, w, off)) => (s.sendPeer k.part a (.dropVersion w (off48 off) (w32 v)) s.newId).getD s
      | _ => s) s
/-- Versions that the accesses of an engine on their way have opened. -/
def State.elemsOpened (s : State) (t : Nat) (e : EngineId) : List (FrameKey × Nat) :=
  (s.ops.map fun o => match o.kind with | .elem a => if o.tile = t ∧ a.e = e then o.opened else [] | _ => []).flatten
/-- Removes the syntax job of an engine's command, and the record it stands stopped by. -/
def State.dropJob (s : State) (t : Nat) (e : EngineId) : State :=
  let mine := fun (j : SynJob) => j.tile == t && j.e == e
  (upTo 8).foldl (fun s y =>
    let g := vget s.syn y {}
    let s := { s with syn := vset s.syn y { g with queue := g.queue.filter fun j => !mine j } }
    match g.job with
    | some j => if mine j then ({ s with syn := vset s.syn y { vget s.syn y {} with job := none, stop := none } }).unstop (.syn (.ofNat 3 y)) else s
    | none => s) s
/-- Cancels the running and waiting commands of an engine (R110): accesses performed stay, open versions are abandoned, and a fault it
stood stopped by no longer stands. In slot 15 the refill is discarded (log 37). -/
def State.cancelEngine (s : State) (t : Nat) (e : EngineId) : State :=
  let r := (s.engine t e).cur
  let s1 := s.dropElems t e
  let s2 := s1.abandonAll (((r.toList ++ (s.engine t e).back).map (·.opened)).flatten ++ s.elemsOpened t e)
  let s3 := match (r : Option CmdRun) with | some r => if r.cmd.kind = CmdKind.syn then s2.dropJob t e else s2 | none => s2
  let s4 := if e = .rcWrite then s3.modTile t fun (x : Tile) => { x with rc := x.rc.map fun (c : Recomp) => { c with slot := none, data := [], pois := [], cover := [] } } else s3
  (s4.setEngine t e {}).unstop (.engine t e)

end Sys2Proof.Machine
end

