-- ==== Sys2Proof/Machine/StreamCmd.lean ====
section
/-! DEFINITION. Stream command words (group 0x1F): their checks at issue and the queues they enter (R95, R103, R104, R109 to R113, R303). -/
namespace Sys2Proof.Machine

/-- Word index of the command in hand. -/
def State.strPc (s : State) : Nat :=
  match s.ctx.unit, (s.tile s.ctx.tile).sq with
  | .srun, r :: _ => r.pc + 4 * r.pos
  | _, _ => s.cur.pc
/-- Order number of the run that the command in hand belongs to. -/
def State.strRun (s : State) : Option Nat :=
  match s.ctx.unit, (s.tile s.ctx.tile).sq with
  | .srun, r :: _ => some r.seq
  | _, _ => none
/-- The place in the tile's order at which the word in hand was first tried (R78, R109). -/
def State.strMark (s : State) : Nat :=
  match s.ctx.unit, (s.tile s.ctx.tile).sq with
  | .srun, r :: _ => r.mark.getD (s.tile s.ctx.tile).seq
  | _, _ => s.cur.mark.getD (s.tile s.ctx.tile).seq
/-- Notes that place. -/
def State.setMark (s : State) : State :=
  let m := some s.strMark
  match s.ctx.unit with
  | .srun => s.modTile s.ctx.tile fun x => { x with sq := match x.sq with | [] => [] | r :: l => { r with mark := m } :: l }
  | _ => s.modCur fun k => { k with mark := m }
/-- An inline word takes effect after every run already queued on the stream unit (R78); slot 15 waits for its own alone (R303). -/
def needRuns (s : State) (k : State) : State :=
  match s.ctx.unit with
  | .task =>
    if (s.tile s.ctx.tile).sq.any fun r => decide (r.seq < s.strMark) && (!s.rcTask || r.slot == 15) then park s.setMark .queue else k
  | _ => k
/-- The engine or recompute context that the issuer names (R303). -/
def State.engId (s : State) (e : BitVec 3) : EngineId :=
  if s.rcTask then (if e.toNat < 4 then .rcRead else .rcWrite) else .eng e
/-- An endpoint of a command is refused: the trap's cause and TVAL. A ring of SIZE 0, or one that slot 15 does not own, is RING_BAD
(R203, R303); a ring or port that a feed binds, and a port that slot 15 does not have, is PORT_BUSY (R204, R303). -/
def State.endBad (s : State) (output : Bool) (d : StreamDest) : Option (Nat × DWord) :=
  match d with
  | .ring r =>
    let q := vget s.mat.rings r.toNat {}
    if (s.rcTask && r != 3) || q.size == 0 then some (29, w64 r.toNat)
    else if q.feed.isSome then some (16, w64 (0x10 + r.toNat)) else none
  | .port p =>
    if (if s.rcTask then !rcPort p else !output && s.curLt.mat.rings.toList.any fun q => q.feed == some p) then some (16, w64 (portCode p))
    else none
/-- A data command as it enters its queue: its g and b operands are copied (R104). -/
def State.mkCmd (s : State) (kind : CmdKind) (dest : StreamDest) (pcb : BitVec 13) (b : BitVec 3) (ver : Option (BitVec 32))
    (disp : BitVec 32) : Cmd where
  kind := kind
  seq := (s.tile s.ctx.tile).seq
  slot := s.ctx.slot
  phase := s.cur.phase
  run := s.strRun
  pc := s.strPc
  dest := dest
  ix := none
  pcb := pcb.toNat
  base := s.b b
  ver := ver
  pid := none
  xf := .move
  disp := disp
  tag := 0
  eos := false
/-- The issue of a data command (R104): its version register, its PCB's range (R101), its endpoints, then runs queued before it and
room in its engine's queue. -/
def dataCmd (s : State) (e : EngineId) (v : Option (BitVec 4 × Bool)) (pcb : Option (BitVec 13)) (bad : Option (Nat × DWord))
    (mk : Option (BitVec 32) → Cmd) : State :=
  let go := fun (ver : Option (BitVec 32)) =>
    gateW s (
      let a := (pcb.map fun p => p.toNat * 64).getD 0
      if pcb.isSome && !s.spLd a 64 then trap s 5 0 (w64 a)
      else match bad with
        | some (c, x) => trap s c 0 x
        | none => needRuns s (
            let g := s.engine s.ctx.tile e
            if 2 ≤ g.cmds.length then park s.setMark .queue
            else advance ((s.setEngine s.ctx.tile e { g with wait := g.wait ++ [mk ver] }).modTile s.ctx.tile
              fun x => { x with seq := x.seq + 1 }) 4))
  match v with
  | none => go none
  | some (r, w) => needG s r w 5 fun x => go (some (x.setWidth 32))

/-- `s.read` (R104). -/
def execSRead (e : BitVec 2) (ep : StreamDest) (pcb : BitVec 13) (b : BitVec 3) (v : Option (BitVec 4 × Bool))
    (pr : Option (BitVec 3)) (xf : Xform) (disp : BitVec 32) (tag : BitVec 6) (eos : Bool) (s : State) : Out :=
  .next (dataCmd s (s.engId (e.setWidth 3)) v (some pcb) (s.endBad true ep) fun ver =>
    { s.mkCmd .read ep pcb b ver disp with pid := pr, xf := xf, tag := tag, eos := eos })
/-- `s.write` (R104): engines 4 to 7. -/
def execSWrite (e : BitVec 2) (p : BitVec 3) (pcb : BitVec 13) (b : BitVec 3) (v : Option (BitVec 4 × Bool))
    (pr : Option (BitVec 3)) (xf : Xform) (disp : BitVec 32) (s : State) : Out :=
  .next (dataCmd s (s.engId (4 + e.setWidth 3)) v (some pcb) (s.endBad false (.port p)) fun ver =>
    { s.mkCmd .write (.port p) pcb b ver disp with pid := pr, xf := xf })
/-- `s.ind` (R99). -/
def execSInd (e : BitVec 2) (ep : StreamDest) (pcb : BitVec 13) (b : BitVec 3) (ix : BitVec 3) (v : Option (BitVec 4 × Bool))
    (pr : Option (BitVec 3)) (xf : Xform) (disp : BitVec 32) (tag : BitVec 6) (eos : Bool) (s : State) : Out :=
  .next (dataCmd s (s.engId (e.setWidth 3)) v (some pcb) ((s.endBad true ep).or (s.endBad false (.port ix))) fun ver =>
    { s.mkCmd .ind ep pcb b ver disp with ix := some ix, pid := pr, xf := xf, tag := tag, eos := eos })
/-- `s.prism` (R290): it names no endpoint; ring 0 stands for none. -/
def execSPrism (e : BitVec 2) (b : BitVec 3) (pid : BitVec 3) (disp : BitVec 32) (s : State) : Out :=
  .next (dataCmd s (s.engId (e.setWidth 3)) none none none fun ver =>
    { s.mkCmd .prism (.ring 0) 0 b ver disp with pid := some pid })
/-- `s.syntax` (R229). -/
def execSSyntax (e : BitVec 2) (p : BitVec 3) (pcb : BitVec 13) (b : BitVec 3) (v : Option (BitVec 4 × Bool)) (disp : BitVec 32)
    (tag : BitVec 6) (eos : Bool) (s : State) : Out :=
  .next (dataCmd s (s.engId (e.setWidth 3)) v (some pcb) (s.endBad true (.port p)) fun ver =>
    { s.mkCmd .syn (.port p) pcb b ver disp with tag := tag, eos := eos })

/-- Commands and runs that an `s.bar` tried at a mark waits for (R109): those of its logical tile, slot 15's own for slot 15. -/
def State.barWaits (s : State) (t : Nat) (k : SlotId) (ph : BitVec 2) (m : Nat) (runs : Bool) : Bool :=
  let x := s.tile t
  let mine := fun (j : SlotId) => if k = 15 then j == 15 else j != 15 && (s.task t j).phase == ph
  (x.cmds.any fun c => mine c.slot && decide (c.ord < m)) || (runs && x.sq.any fun r => mine r.slot && decide (r.seq < m))
/-- `s.bar` (R109). -/
def execSBar (s : State) : Out :=
  .next (if s.barWaits s.ctx.tile s.ctx.slot s.cur.phase s.strMark (s.ctx.unit == .task) then park s.setMark .queue else advance s 4)
/-- `s.stop` (R110). -/
def execSStop (e : BitVec 3) (s : State) : Out :=
  .next (needRuns s (advance (s.cancelEngine s.ctx.tile (s.engId e)) 4))
/-- The status word of an engine (R111); an engine that a restore has left more than two commands shows two (log 60). -/
def statWord (g : Engine) : Nat :=
  let head := (g.cur.map (·.head)).getD 0
  let win := match g.cur with
    | none => 0
    | some r => if r.cmd.kind = .write ∨ r.next = 0 then 0 else (r.next - 1) / r.perTok + 1 - r.out
  head % 2 ^ 32 * 2 ^ 32 + win * 2 ^ 24 + g.stop.isSome.toNat * 256 + min 2 g.cmds.length * 16 + g.cur.isSome.toNat
/-- `s.stat` (R111). -/
def execSStat (e : BitVec 3) (gv : BitVec 4) (s : State) : Out :=
  .next (
    if s.ctx.unit = .srun then trap s 18 0 (w64 s.strPc)
    else needD s gv (needRuns s (advance (s.setG gv (w64 (statWord (s.engine s.ctx.tile (s.engId e))))) 4)))

end Sys2Proof.Machine
end

