-- ==== Sys2Proof/Machine/Access.lean ====
section
/-! DEFINITION. One access of an operation to global memory, wherever it goes: local HBM, a version directory, the host or a peer (R112, R121 to R124, R280 to R284, R301 to R303, R350, R365, R373). -/
namespace Sys2Proof.Machine

/-- What becomes of a read. -/
inductive Got where
  | ok (d : List (Byte × Bool)) (s : State)
  | wait (s : State)
  | bad (f : Flt) (s : State)
/-- What becomes of a write, with the version it has opened. -/
inductive Put where
  | ok (opens : Option (FrameKey × Nat)) (s : State)
  | wait (s : State)
  | bad (f : Flt) (s : State)

/-- An operation's request for n bytes stands with the host, or with a peer behind a Wildom port, until it is answered. -/
def State.sendOut (s : State) (id : Nat) (via : Option Nat) (n : Nat) : State := s.modOp id fun o => { o with out := true, via := via, bytes := n }
/-- Bytes that a request reads or writes. -/
def bodyBytes : FlitBody → Nat
  | .read _ _ n => n | .write _ _ d => d.length | .readVersion _ _ _ n => n | .writeVersion _ _ _ d => d.length | _ => 0
/-- Sends a request of an operation to a peer; LINK_LOST where no port is up (R365). -/
def State.ask (s : State) (o : Op) (auth : Byte) (body : FlitBody) : Except Flt State :=
  match s.sendPeer o.part auth body o.id with
  | none => .error ⟨0x0B, 0⟩
  | some s1 => .ok (s1.sendOut o.id s.upPort (bodyBytes body))
/-- Accepts an operation's read of a version and holds it, once (R124). -/
def State.holdRead (s : State) (o : Op) (k : FrameKey) (v : Nat) : State :=
  if o.held.contains (k, v) then s
  else (s.acceptRead k v).modOp o.id fun o => { o with held := o.held ++ [(k, v)] }
/-- Bound on the depth of a chain of recomputes (R296). -/
def chainFuel : Nat := 8
/-- A read that misses is held, and a recompute is requested for it (R302). -/
def State.missRead (s : State) (o : Op) (k : FrameKey) (v : Nat) : State :=
  State.request chainFuel (s.holdRead o k v) k v o.tile o.phase
/-- The next access of an operation has arrived at a directory of this device, and waits there. -/
def State.waitsNow (s : State) (o : Op) : State :=
  s.modOp o.id fun p => match p.kind with | .elem a => { p with kind := .elem { a with waits := true } } | _ => { p with waits := true }
/-- An operation reads in more than one access: its reads of one version are one accepted read, held from the first to the last (R124,
log 58). -/
def Op.many (o : Op) : Bool := match o.kind with | .card .. => true | .coll .. => true | _ => false
/-- The window and offset of the spill slot that holds a version (R122, R299). -/
def State.spilledAt (s : State) (k : FrameKey) (v : Nat) : Option (BitVec 16 × Nat) :=
  match (s.frame k).ver v with | some x => if x.st = .spilled then x.spill else none | none => none
/-- A read of a local version for an operation: accepted on arrival, it waits for the version, for a recompute, or for the spill slot
to answer (R124, R301, R302). The bytes are the version's (R260), those of a block that fails its check none (R283). -/
def State.readLocal (s : State) (o : Op) (k : FrameKey) (v off len : Nat) : Got :=
  match s.readVer k v off len with
  | .wait => .wait ((s.holdRead o k v).waitsNow o)
  | .miss => .wait ((s.missRead o k v).waitsNow o)
  | .fault f => .bad ⟨f, 0⟩ s
  | .data d =>
    match if o.spilt.contains (k, v) then none else s.spilledAt k v with
    | none => if s.verBad k v off len false then .bad ⟨0x0E, 0⟩ s else .ok d (if o.many then s.holdRead o k v else s)
    | some at_ =>
      let s1 := (s.holdRead o k v).waitsNow o
      if !s.winServed k.part (vaOf at_.1 (off48 at_.2)) then .wait s1
      else match s.spillTarget k.part at_ .rd with
      | .error f => .bad f s1
      | .ok (a, w, base) =>
        match s1.ask o a (.read w (off48 (base + off)) len) with
        | .error f => .bad f s1
        | .ok s2 => .wait (s2.modOp o.id fun p => { p with spill := some false, spilt := p.spilt ++ [(k, v)] })

/-- Reads bytes at a global address for an operation, all of one frame, plainly or from a version. -/
def readAt (s : State) (o : Op) (va : VAddr) (len : Nat) (ver : Option Nat) : Got :=
  if o.out then .wait s
  else if o.lost.isSome then .bad ⟨o.lost.getD 0, 0⟩ s
  else match ver with
    | some v =>
      if !s.winServed o.part va then .wait s
      else match s.frameTarget o.part va with
      | .error f => .bad f s
      | .ok none =>
        if (s.vregOf o.part (winOf va) (offOf va)).isNone then .bad ⟨0x10, 0⟩ s
        else if !s.frameServed (frameOf o.part va) then .wait s
        else s.readLocal o (frameOf o.part va) v (offOf va % 4096) len
      | .ok (some (a, w, off)) =>
        match s.ask o a (.readVersion w (off48 off) (w32 v) len) with
        | .error f => .bad f s
        | .ok s1 => .wait (s1.extAct o.rkey)
    | none =>
      if bfld va 63 48 = 0 ∧ (s.vregOf o.part (winOf va) (offOf va)).isSome then .bad ⟨0x10, 0⟩ s
      else if !s.walkServed o.tile o.part va then .wait s
      else
        let (r, s1) := s.translate o.tile o.part va false .rd
        match r with
        | .error f => .bad f s1
        | .ok (.hbm pa) => if !s1.served o.part pa then .wait s1 else if s1.hbmBad pa len false then .bad ⟨0x0E, 0⟩ s1 else .ok (s1.hbmRead pa len) s1
        | .ok (.host pa) => .wait ({ s1 with hostOut := s1.hostOut ++ [HostOut.read (s1.hostFn o.part) o.id pa len] }.sendOut o.id none len)
        | .ok (.peer a w off) =>
          match s1.ask o a (.read w (off48 off) len) with
          | .error f => .bad f s1
          | .ok s2 => .wait s2

/-- A poisoned byte is among those written. -/
def anyPois (d : List (Option (Byte × Bool))) : Bool := d.any fun x => match x with | some (_, p) => p | none => false
/-- A rollback cause where a region writes poison to the host or a peer (R367). -/
def State.poisonOut (s : State) (rkey : Nat) (d : List (Option (Byte × Bool))) : State :=
  if anyPois d then s.modRegion rkey fun r => { r with rbReq := true } else s
/-- Notes a stall on the pool once, and answers whether the stalled write faults (R300). -/
def State.stalled (s : State) (o : Op) (va : VAddr) (v : Nat) : Bool × State :=
  let s1 := if o.told then s
    else (s.stallNote o.rkey (s.opRec o ⟨0x85, 0⟩ 13 va v 0 0) o.part).modOp o.id fun o => { o with told := true }
  (s1.poolEmpty o.part o.rkey, s1)
/-- A write of slot 15: it refills the version under recompute, and nothing else (R303, R304). -/
def refillAt (s : State) (o : Op) (va : VAddr) (d : List (Option (Byte × Bool))) (ver : Option Nat) : Put :=
  match (s.tile o.tile).rc with
  | none => .bad ⟨0x1F, 0⟩ s
  | some c =>
    if bfld va 63 48 ≠ 0 then .bad ⟨0x03, 0⟩ s
    else if ver ≠ some c.v ∨ frameOf c.part va ≠ c.frame then .bad ⟨0x1F, 0⟩ s
    else
      let full := c.slot.isNone && s.poolFree c.part == 0
      let (dead, s1) := if full then s.stalled o va c.v else (false, s)
      if full then (if dead then .bad ⟨0x16, 0⟩ s1 else .wait s1)
      else
        let off := offOf va % 4096
        let s2 := if c.slot.isNone then (s1.poolNext c.part).elim s1 (s1.slotFresh c.part) else s1
        .ok none (s2.modTile o.tile fun x => { x with rc := some { c with
          slot := c.slot.or (s1.poolNext c.part)
          data := memWriteOpt c.data off (d.map fun y => y.map (·.1)), pois := poisAfter off d c.pois, cover := coverAfter off d c.cover } })
/-- Releases the hold an operation has on a version, where it has one. -/
def State.unhold (s : State) (o : Op) (k : FrameKey) (v : Nat) : State :=
  match s.op o.id with
  | none => s
  | some p => if p.held.contains (k, v) then (s.modOp o.id fun p => { p with held := p.held.filter (· ≠ (k, v)) }).returnRead k v else s
/-- An operation's next access has arrived at a directory before, and waits there. -/
def Op.again (o : Op) : Bool := match o.kind with | .elem a => a.waits | _ => o.waits
/-- A write to a version of this device for an operation (R123, R302). -/
def writeLocal (s : State) (o : Op) (va : VAddr) (d : List (Option (Byte × Bool))) (v : Nat) (mine : List (FrameKey × Nat)) : Put :=
  let k := frameOf o.part va
  let off := offOf va % 4096
  match s.openRes (mine.contains (k, v)) o.again k v with
  | .go => if s.verBad k v off d.length true then .bad ⟨0x0E, 0⟩ s else .ok none ((s.writeVer k v off d).slotPut k v off d.length)
  | .opens =>
    let s1 := s.openVer k v
    let s2 := match (s.frame k).newest with | some n => s1.unhold o k n | none => s1
    .ok (some (k, v)) (s2.writeVer k v off d)
  | .wait => .wait (s.waitsNow o)
  | .miss => .wait ((s.missRead o k ((s.frame k).newest.getD 0)).waitsNow o)
  | .stall =>
    let (dead, s1) := s.stalled o va v
    if dead then .bad ⟨0x16, 0⟩ s1 else .wait (s1.waitsNow o)
  | .fault f => .bad ⟨f, 0⟩ s
/-- A plain write of an operation at its home in HBM: it waits for the MIT, or for room in the undo log (R280, R283, R292, R366). -/
def State.writeHbm (s : State) (o : Op) (pa : Nat) (d : List (Option (Byte × Bool))) : Put :=
  if !s.served o.part pa then .wait s
  else if s.hbmBad pa d.length true then .bad ⟨0x0E, 0⟩ s
  else if s.undoFull o.rkey pa d.length then .wait (s.ckDue o.rkey)
  else .ok none (s.plainWrite o.rkey pa d)
/-- Writes bytes at a global address for an operation, all of one frame, plainly or to a version; `mine` are the versions
that its command has opened. -/
def writeAt (s : State) (o : Op) (va : VAddr) (d : List (Option (Byte × Bool))) (ver : Option Nat) (mine : List (FrameKey × Nat)) : Put :=
  if o.slot = 15 then refillAt s o va d ver
  else if o.out then .wait s
  else if o.lost.isSome then .bad ⟨o.lost.getD 0, 0⟩ s
  else match ver with
    | some v =>
      if !s.winServed o.part va then .wait s
      else match s.frameTarget o.part va with
      | .error f => .bad f s
      | .ok none =>
        if (s.vregOf o.part (winOf va) (offOf va)).isNone then .bad ⟨0x10, 0⟩ s
        else if !s.frameServed (frameOf o.part va) then .wait s else writeLocal s o va d v mine
      | .ok (some (a, w, off)) =>
        match s.ask o a (.writeVersion w (off48 off) (w32 v) d) with
        | .error f => .bad f s
        | .ok s1 => .wait (((s1.poisonOut o.rkey d).extAct o.rkey).modOp o.id fun p =>
            { p with opened := p.opened ++ [(frameOf o.part va, v), (frameOf o.part (vaWith va (offOf va + d.length - 1 : Nat)), v)].eraseDups })
    | none =>
      if bfld va 63 48 = 0 ∧ (s.vregOf o.part (winOf va) (offOf va)).isSome then .bad ⟨0x10, 0⟩ s
      else if !s.walkServed o.tile o.part va then .wait s
      else
        let (r, s1) := s.translate o.tile o.part va true .wr
        match r with
        | .error f => .bad f s1
        | .ok (.hbm pa) => s1.writeHbm o pa d
        | .ok (.host pa) =>
          let s2 : State := { s1 with hostOut := s1.hostOut ++ [HostOut.write (s1.hostFn o.part) pa (d.map fun x => x.map (·.1)) (anyPois d)] }
          .ok none ((s2.poisonOut o.rkey d).extAct o.rkey)
        | .ok (.peer a w off) =>
          match s1.ask o a (.write w (off48 off) d) with
          | .error f => .bad f s1
          | .ok s2 => .wait ((s2.poisonOut o.rkey d).extAct o.rkey)

/-- A request of an operation stands with the host or a peer. -/
def State.asked (s : State) (o : Op) : Bool := ((s.op o.id).map (·.out)).getD false
/-- Bytes of an access that lie in the frame of its address. -/
def inFrame (va : VAddr) (len : Nat) : Nat := min len (4096 - offOf va % 4096)
/-- Both parts of bytes that reach into the next frame lie with one peer, whatever choices translation makes: one request asks for them
(R258). -/
def State.onePeer (s : State) (o : Op) (va : VAddr) (a : Nat) (ver : Option Nat) (wr : Bool) : Bool :=
  let next := vaWith va (offOf va + a : Nat)
  match ver with
  | some _ => (match s.frameTarget o.part va, s.frameTarget o.part next with | .ok (some _), .ok (some _) => true | _, _ => false)
  | none =>
    let dest := fun (va : VAddr) (d : Nat) => (s.reaches o.tile o.part va wr (if wr then .wr else .rd)).bind fun l =>
      l.mapM fun x => match x with | Target.peer p w off => some (p, w, off - d) | _ => none
    match dest va 0, dest next a with
    | some (x :: l), some m => (l ++ m).all (· == x)
    | _, _ => false
/-- Reads bytes that may reach into the next frame as one step: both parts are read, or neither counts (R258). Where they lie with one
peer one request asks for both; else a part that lies with the host or a peer is asked for by itself (log 53). -/
def readSpan (s : State) (o : Op) (va : VAddr) (len : Nat) (ver : Option Nat) : Got :=
  let a := inFrame va len
  if a = len ∨ s.onePeer o va a ver false then readAt s o va len ver
  else match readAt s o va a ver with
    | .ok d s1 =>
      match readAt s1 o (vaWith va (offOf va + a : Nat)) (len - a) ver with
      | .ok e s2 => .ok (d ++ e) s2
      | .wait s2 => if s2.asked o then .ok d s1 else .wait s2
      | r => r
    | r => r
/-- What becomes of a write of bytes that may reach into the next frame: the versions it opens, how many bytes are written, and the rest
as for one frame. Both parts are written, or neither (R258), a part with the host or a peer by itself (log 53). -/
def writeSpan (s : State) (o : Op) (va : VAddr) (d : List (Option (Byte × Bool))) (ver : Option Nat) (mine : List (FrameKey × Nat)) :
    List (FrameKey × Nat) × Nat × Put :=
  let a := if s.onePeer o va (inFrame va d.length) ver true then d.length else inFrame va d.length
  let second := fun (s : State) (mine : List (FrameKey × Nat)) => writeAt s o (vaWith va (offOf va + a : Nat)) (d.drop a) ver mine
  match writeAt s o va (d.take a) ver mine with
  | .ok new s1 =>
    if a = d.length then (new.toList, a, .ok new s1)
    else match second s1 (mine ++ new.toList) with
      | .ok new2 s2 => (new.toList ++ new2.toList, d.length, .ok new2 s2)
      | .wait s2 =>
        if s2.asked o then (new.toList, a, .ok new s1)
        else match second s mine with | .wait s3 => ([], 0, .wait s3) | _ => ([], 0, .wait s)
      | .bad f _ => ([], 0, .bad f s)
  | r => ([], 0, r)

/-- Completes the versions that a command, card or collective has opened: local ones are created, a peer's directory is told (R108,
R121, R123); where a rollback of the region is due, a peer's stays open for it to be abandoned (R367). -/
def State.finishOpened (s : State) (part : PartId) (rkey : Nat) (l : List (FrameKey × Nat)) (id : Nat) : State :=
  l.eraseDups.foldl (fun s (k, v) =>
    match (s.frame k).ver v with
    | some x => if x.st = .opened then s.finishVer rkey k v else s
    | none =>
      match s.frameTarget part (frameVa k) with
      | .ok (some (a, w, off)) =>
        if ((s.region rkey).map (·.rbReq)).getD false then s.provNote rkey k v else (s.sendPeer part a (.endVersion w (off48 off) (w32 v)) id).getD s
      | _ => s) s
/-- The windows of the versions that a command, card or collective has opened can be read (R292). -/
def State.openedServed (s : State) (l : List (FrameKey × Nat)) : Bool := l.all fun (k, _) => s.winServed k.part (frameVa k)

end Sys2Proof.Machine
end

