-- ==== Sys2Proof/Machine/Stream.lean ====
section
/-! DEFINITION. The events of the stream engines: start, element accesses, pushes, takes and completion, the accesses performed at their homes, and the load of a Prism program (R97 to R112, R123, R124, R280, R285 to R291). -/
namespace Sys2Proof.Machine

/-! ## Start (R95, R101, R104, R108, R109) -/

/-- Two commands name one endpoint or index port (R95). -/
def Cmd.clash (c d : Cmd) : Bool :=
  let ports := fun (c : Cmd) =>
    (match c.kind, c.dest with
     | .prism, _ => []
     | .write, .port p => [(0, p.toNat)]
     | .write, .ring _ => []
     | _, .port p => [(1, p.toNat)]
     | _, .ring r => [(2, r.toNat)]) ++ (c.ix.map fun p => (0, p.toNat)).toList
  c.phase == d.phase && (ports c).any fun x => (ports d).contains x
/-- Marks of the `s.bar` words that wait on a logical tile: inline ones, and one at the head of the stream unit's run (R109). -/
def State.barMarks (s : State) (t : Nat) (ph : BitVec 2) : List Nat :=
  let x := s.tile t
  let isBar := fun (k : SlotId) (pc : Nat) =>
    match decode ((upFrom pc 4).map fun i => (s.wordAt t k ph i).toNat) with | .ok .sBar => true | _ => false
  ((upTo 15).filterMap fun k =>
    let y := vget x.tasks k {}
    match y.st with
    | .parked .queue => if y.phase = ph ∧ isBar (.ofNat 4 k) y.pc = true then y.mark else none
    | _ => none) ++
  match x.sq with
  | [] => []
  | r :: _ => if r.slot ≠ 15 ∧ (s.task t r.slot).phase = ph ∧ isBar r.slot (r.pc + 4 * r.pos) = true then r.mark.toList else []
/-- A queued command may start: every earlier one of the tile has begun, none of them that is left shares its endpoint or index port,
no drain is pushing to its port, no `s.bar` before it still waits, and no load of its Prism program is under way (R95, R104, R108,
R109). Slot 15 waits for nothing (R303). -/
def State.startable (s : State) (t : Nat) (c : Cmd) : Bool :=
  if c.slot = 15 then true
  else
    let before := (s.tile t).cmds.filter fun d => d.slot != 15 && decide (d.seq < c.seq)
    !(before.any fun d => d.clash c || (d.kind == .prism && d.pid == c.pid)) &&
    !(allEngines.any fun e => (s.engine t e).wait.any fun d => d.slot != 15 && decide (d.seq < c.seq)) &&
    !(s.matHolds t).any (fun (ph, out, p) => c.binds ph out p) &&
    !((s.barMarks t c.phase).any fun m => decide (m ≤ c.ord) && s.barWaits t 0 c.phase m false)
/-- A command whose PCB fails its checks is dropped: its task traps PCB_BAD, or its run is abandoned (R78, R101). -/
def State.pcbBad (s : State) (t : Nat) (c : Cmd) : State :=
  let a := w64 (c.pcb * 64)
  if c.slot = 15 then s.rcFault t 0x1E 17 0
  else match c.run with
    | none => s.modTask t c.slot fun k => { k with ptraps := k.ptraps ++ [⟨17, some c.pc, a⟩] }
    | some n => (s.modTask t c.slot (abandon ⟨.stream, c.pc, 17, 0⟩)).modTile t fun x => { x with sq := x.sq.filter fun r => r.seq != n }
/-- Takes the Prism program of a bound stream, or stops at its first element (R290, R291). -/
def State.takeProg (s : State) (t : Nat) (e : EngineId) (r : CmdRun) : State :=
  match s.prismProg (s.cmdPart t r.cmd) (r.cmd.pid.getD 0) (r.cmd.kind == .write) with
  | .ok p => s.setRun t e { r with prog := p, ps := prismInit p }
  | .error f => s.stopElem t e r 0 { pad := false } f
/-- A load of a program finds no Prism slot of its partition (R291). -/
def State.noSlot (s : State) (t : Nat) (r : CmdRun) : Bool :=
  r.cmd.kind == .prism && (s.prismSlot (s.cmdPart t r.cmd) (r.cmd.pid.getD 0)).isNone
/-- STREAM_CMD_START (R101): the next command of an idle engine starts; its PCB is read once, a word that bears a poison mark by its bits
(log 58). -/
def execStreamCmdStart (t : Nat) (e : EngineId) (s : State) : Out :=
  .next (
    let g := s.engine t e
    match g.cur, g.back, g.wait with
    | none, r :: l, _ => if g.stop.isSome || !s.engRuns t r.cmd then s else s.setEngine t e { g with cur := some r, back := l }
    | none, [], c :: l =>
      if g.stop.isSome || !s.engRuns t c || !s.startable t c then s
      else
        let a := spAddr (s.tile t).fold c.phase (c.pcb * 64)
        let pcb := if c.kind = .prism then prismPcb
          else Vector.ofFn fun (i : Fin 8) => w64 (leNat (memRead (s.tile t).spad (a + 8 * i.val) 8))
        let s1 := s.setEngine t e { g with wait := l }
        if c.kind ≠ .prism ∧ !pcbOk c pcb then s1.pcbBad t c
        else
          let r : CmdRun := { cmd := c, pcb := pcb }
          let s2 := s1.setRun t e r
          if c.viaPrism then s2.takeProg t e r else if s2.noSlot t r then s2.stopElem t e r 0 { pad := false } ⟨0x24, 0⟩ else s2
    | _, _, _ => s)

/-! ## Element accesses (R97 to R99, R104) -/

/-- The next lane of an index token at or after a place that is valid. -/
def nextLane (x : Token) (i : Nat) : Option Nat := (upTo 16).find? fun k => decide (i ≤ k) && x.val k
/-- Takes the next index from the index port, or passes over what yields none (R99). A token of which the command leaves lanes unused stays
at the port's head, and the next command starts at its lane 0 (log 58). -/
def State.takeIx (s : State) (t : Nat) (e : EngineId) (r : CmdRun) : State :=
  let p := r.cmd.ix.getD 0
  match s.headOf t r.cmd.slot r.cmd.phase p with
  | none => s
  | some x =>
    let drop := fun (r : CmdRun) => ((s.popOf t r.cmd.slot r.cmd.phase p).setRun t e { r with ixLane := 0 }).cmdProgress t r.cmd
    match x.kind with
    | .eos => drop { r with ended := true }
    | .data =>
      match nextLane x r.ixLane with
      | none => drop r
      | some k =>
        let q := { r with ix := .ofNat 32 (x.lane k), ixPois := x.pois k, ixAt := some r.next, c4 := r.c4 + 1, ixLane := k + 1 }
        if (nextLane x (k + 1)).isNone then drop q else (s.setRun t e q).cmdProgress t q.cmd
    | _ => drop r
/-- Enters the next element of a read pattern into the window, and issues its access (R97, R98, R106). -/
def State.enterElem (s : State) (t : Nat) (e : EngineId) (r : CmdRun) : State :=
  let n := r.next
  let w : WElem := { pad := r.padded n, ix := r.ix, ixPois := r.ixPois, c4 := r.c4 }
  let put := fun (w : WElem) => { r with next := n + 1, win := r.win ++ [w] }
  if w.pad then s.setRun t e (put { w with done := true, data := r.padBytes, poison := r.cmd.kind == .ind && r.ixPois })
  else if r.cmd.kind = .ind ∧ r.ixPois then
    let (d, s1) := s.drawBytes r.esz
    s1.setRun t e (put { w with done := true, data := d, poison := true })
  else
    let q := put w
    (s.setRun t e q).issueElem t e q (q.win.length - 1)
/-- The engine that a syntax command names serves another partition (R229, R349). -/
def State.synDenied (s : State) (t : Nat) (r : CmdRun) : Bool :=
  r.cmd.kind == .syn && (vget s.syn (fld (r.dw 7) 63 61) {}).owner != s.cmdPart t r.cmd
/-- STREAM_ELEMENT_ACCESS (R97): the engine issues the first access that stands unissued, or enters the next element. -/
def execStreamElementAccess (t : Nat) (e : EngineId) (s : State) : Out :=
  .next (
    let g := s.engine t e
    match g.cur with
    | none => s
    | some r =>
      if g.stop.isSome || !s.engRuns t r.cmd then s
      else if r.cmd.viaPrism && r.prog.isEmpty then s.takeProg t e r
      else if r.next = 0 ∧ s.synDenied t r then s.stopElem t e r 0 { pad := false } ⟨0x29, 0⟩
      else if r.next = 0 ∧ s.noSlot t r then s.stopElem t e r 0 { pad := false } ⟨0x24, 0⟩
      else
        match r.win.zipIdx.find? fun ((w : WElem), i) => !w.done && w.id.isNone && r.issuable (r.first + i) with
        | some (_, i) => s.issueElem t e r i
        | none =>
          if r.cmd.kind = .write ∨ r.total ≤ r.next ∨ r.out + 64 ≤ r.next / r.perTok then s
          else if r.takesIx r.next ∧ r.ixAt ≠ some r.next then s.takeIx t e r
          else s.enterElem t e r)

/-! ## Pushes (R100, R104, R106, R289) -/

/-- A syntax job enters an engine's queue: one that had begun before a restore goes first. -/
def State.synQueue (s : State) (y : Nat) (j : SynJob) : State :=
  let g := vget s.syn y {}
  { s with syn := vset s.syn y { g with queue := if j.begun then j :: g.queue else g.queue ++ [j] } }
/-- Hands the bytes of complete elements of a syntax command to its syntax engine; the job enters its queue when all have come (R229), or
the job that a restore gives back (R231). An engine that serves another partition by then takes nothing (R349). -/
def State.synHand (s : State) (t : Nat) (e : EngineId) (r : CmdRun) : State :=
  if (s.engine t e).stop.isSome then s
  else if !r.tailOut ∧ s.synDenied t r then s.stopElem t e r r.first (r.win.headD { pad := false }) ⟨0x29, 0⟩
  else if r.job.isSome then
    let s1 := s.setRun t e { r with tailOut := true, job := none }
    r.job.elim s1 fun j => s1.synQueue (fld (r.dw 7) 63 61) { j with tile := t, e := e, phase := r.cmd.phase, part := s.cmdPart t r.cmd, rkey := s.cmdKey t r.cmd }
  else
  let ready := r.win.takeWhile fun w => w.done
  let bytes := r.prog ++ (ready.map (·.data)).flatten
  let q := { r with prog := bytes, win := r.win.drop ready.length, units := (r.first + ready.length) / r.perTok }
  let all := decide (r.total ≤ r.next) && q.win.isEmpty
  if r.tailOut ∨ (ready.isEmpty ∧ !all) then s
  else
    let s1 := s.setRun t e { q with tailOut := all }
    if all then
      let d := r.dw 7
      let p := match r.cmd.dest with | .port p => p | .ring _ => 0
      let j : SynJob := {
        tile := t, e := e, phase := r.cmd.phase, port := p, part := s.cmdPart t r.cmd, rkey := s.cmdKey t r.cmd
        av1 := d.testBit 60, chroma := d.testBit 59, newseq := d.testBit 58, ctx := .ofNat 2 (fld d 57 56), pics := fld d 55 40
        bytes := bytes, tag := r.cmd.tag, eos := r.cmd.eos, seek := d.testBit 58 }
      s1.synQueue (fld d 63 61) j
    else s1
/-- STREAM_READ_PUSH (R106): the token at HEAD is complete and is pushed; after the last one come the tail of a Prism program and the
end of stream. -/
def execStreamReadPush (t : Nat) (e : EngineId) (s : State) : Out :=
  .next (
    match (s.engine t e).cur with
    | none => s
    | some r =>
      if r.cmd.kind = .write ∨ r.cmd.kind = .prism ∨ !s.engRuns t r.cmd then s
      else if r.cmd.kind = .syn then s.synHand t e r
      else
        let lo := r.head * r.perTok
        let hi := min r.total (lo + r.perTok)
        if lo < r.total then
          let q := if r.cmd.viaPrism then r.unitsN (r.perTok * r.esz / 64 + 2) else r
          let l := q.win.take (hi - lo)
          if r.next < hi ∨ l.any (fun w => !w.done) ∨ (q.cmd.viaPrism ∧ q.units * (64 / q.esz) < hi) ∨ !s.destRoom t q.cmd then
            s.setRun t e q
          else
            ((s.destPush t q.cmd (q.token l (q.cmd.tagAt q.head))).setRun t e
              { q with win := q.win.drop (hi - lo), head := q.head + 1 }).cmdProgress t q.cmd
        else if !s.destRoom t r.cmd then s
        else if r.cmd.viaPrism ∧ prismTail r.prog ∧ !r.tailOut then
          let x : Token := ⟨.ofNat 512 (unchunk 32 (r.ps.toList.map (·.toNat))), 0x00FF, r.pspois.setWidth 16, r.cmd.tagAt r.head, .data⟩
          ((s.destPush t r.cmd x).setRun t e { r with tailOut := true, head := r.head + 1 }).cmdProgress t r.cmd
        else if r.cmd.eos ∧ !r.eosOut then
          ((s.destPush t r.cmd (eosTok (r.cmd.tagAt r.head))).setRun t e { r with eosOut := true, head := r.head + 1 }).cmdProgress t r.cmd
        else s)

/-! ## Takes (R100, R104) -/

/-- Every element that a write has taken and may write is written: at most one token is in part used (R110). -/
def CmdRun.usedUp (r : CmdRun) : Bool := r.win.zipIdx.all fun ((w : WElem), i) => w.done || !r.issuable (r.first + i)
/-- STREAM_WRITE_TAKE (R104): a write engine takes the next head of its port, once it has used up the token before (R110, log 33). -/
def execStreamWriteTake (t : Nat) (e : EngineId) (s : State) : Out :=
  .next (
    let g := s.engine t e
    match g.cur with
    | none => s
    | some r =>
      match r.cmd.kind, r.cmd.dest with
      | .write, .port p =>
        if g.stop.isSome || !s.engRuns t r.cmd || decide (r.total ≤ r.next) || !r.usedUp ||
            (r.cmd.viaPrism && r.prog.isEmpty) then s
        else match s.headOf t r.cmd.slot r.cmd.phase p with
          | none => s
          | some x =>
            let q := match x.kind with
              | .data => r.takeTok x
              | .eos => { r with ended := true, head := r.head + 1 }
              | _ => { r with head := r.head + 1 }
            let q := if q.cmd.viaPrism then q.unitsN 65 else q
            ((s.popOf t r.cmd.slot r.cmd.phase p).setRun t e { q with win := q.win.dropWhile fun w => w.done }).cmdProgress t r.cmd
      | _, _ => s)

/-! ## Completion (R104, R108, R290) -/

/-- Everything of a command has happened. -/
def CmdRun.finished (r : CmdRun) : Bool :=
  match r.cmd.kind with
  | .write => decide (r.total ≤ r.next) && r.win.isEmpty
  | .prism => false
  | .syn => r.eosOut
  | _ => decide (r.total ≤ r.head * r.perTok) && (!r.cmd.viaPrism || !prismTail r.prog || r.tailOut) && (!r.cmd.eos || r.eosOut)
/-- STREAM_CMD_COMPLETE (R108): the command leaves its engine, and its versions become visible. -/
def execStreamCmdComplete (t : Nat) (e : EngineId) (s : State) : Out :=
  .next (
    let g := s.engine t e
    match g.cur with
    | none => s
    | some r =>
      if g.stop.isSome || !s.engRuns t r.cmd || !r.finished || !s.openedServed r.opened then s
      else
        let s1 := s.setEngine t e { g with cur := none }
        (s1.finishOpened (s.cmdPart t r.cmd) (s.cmdKey t r.cmd) r.opened s.newId).cmdProgress t r.cmd)
/-- PRISM_LOAD_COMPLETE (R290): the block has come whole; it is checked, and replaces the program of its slot. -/
def execPrismLoadComplete (t : Nat) (e : EngineId) (s : State) : Out :=
  .next (
    let g := s.engine t e
    match g.cur with
    | none => s
    | some r =>
      if r.cmd.kind ≠ .prism ∨ g.stop.isSome ∨ !s.engRuns t r.cmd ∨ r.next < 6 ∨ r.win.any (fun w => !w.done) then s
      else
        let p := s.cmdPart t r.cmd
        let block := (r.win.map (·.data)).flatten
        let again := { r with win := [], next := 0 }
        match s.prismSlot p (r.cmd.pid.getD 0) with
        | none => s.stopElem t e again 0 { pad := false } ⟨0x24, 0⟩
        | some k =>
          if !prismOk block then s.stopElem t e again 0 { pad := false } ⟨0x23, 0⟩
          else (({ s with prism := vset s.prism k (some block) }).setEngine t e { g with cur := none }).cmdProgress t r.cmd)

/-! ## Accesses at their homes (R119, R123, R124, R253, R280) -/

/-- Frames that a frame operation names: n from its address for `fr.init`, else one. -/
def frameSpan (o : Op) : Nat × Nat :=
  match o.kind with
  | .frame (.init n) _ => (offOf o.va / 4096, n)
  | _ => (offOf o.va / 4096, 1)
/-- A frame operation of an element's task that precedes its command is still to be performed on the frame of an address (R253). -/
def State.frameBefore (s : State) (o : Op) (va : VAddr) : Bool :=
  s.ops.any fun p => p.tile == o.tile && p.slot == o.slot && decide (p.mark ≤ o.mark) &&
    (match p.kind with | .frame _ _ => true | _ => false) &&
    winOf p.va == winOf va && (let (a, n) := frameSpan p; decide (a ≤ offOf va / 4096 ∧ offOf va / 4096 < a + n))
/-- A plain write of n bytes that can only take effect, as memory stands: to this device's HBM, whichever way it is translated, in no
versioned region and no block that fails its check (R107). -/
def State.sureWrite (s : State) (t : Nat) (p : PartId) (va : VAddr) (n : Nat) : Bool :=
  (s.vregOf p (winOf va) (offOf va)).isNone &&
  match s.reaches t p va true .wr with
  | some l => l.all fun x => match x with | .hbm a => !s.hbmBad a n true | _ => false
  | none => false
/-- The access of an element. -/
def State.accOf (s : State) (id : Option Nat) : Option (Op × ElemAcc) :=
  (id.bind s.op).bind fun o => match o.kind with | .elem a => some (o, a) | _ => none
/-- An earlier element of a write command is to be performed first: one that writes the same bytes, any one for a versioned write or
where an earlier one may fault; one whose place in HBM is fixed cannot (R107, R108). -/
def State.elemBefore (s : State) (o : Op) (a : ElemAcc) : Bool :=
  match (s.engine o.tile a.e).cur with
  | none => true
  | some r =>
    a.wr.isSome && ((r.win.take (a.n - r.first)).zipIdx.any fun ((w : WElem), i) =>
      !w.done && (a.ver.isSome || o.slot == 15 || w.pad || w.id.isNone ||
        (let off := r.off (r.first + i) w.ix
         (decide (off < (offOf o.va : Int) + a.len ∧ (offOf o.va : Int) < off + a.len)) ||
          !(((s.accOf w.id).any fun x => x.2.fixed.isSome) || s.sureWrite o.tile o.part (vaWith r.cmd.base off) a.len))))
/-- A later element of a write command is performed: the earlier ones that are not yet are translated now, so that nothing can fault one
of them behind it (R107). -/
def State.fixEarlier (s : State) (o : Op) (a : ElemAcc) : State :=
  match (s.engine o.tile a.e).cur with
  | none => s
  | some r =>
    ((r.win.take (a.n - r.first)).filterMap fun w => if w.done then none else w.id).foldl (fun s id =>
      match s.accOf (some id) with
      | some (p, b) =>
        if b.fixed.isSome then s
        else match s.translate p.tile p.part p.va true .wr with
          | (.ok (.hbm pa), s1) => s1.modOp id fun p => { p with kind := .elem { b with fixed := some pa } }
          | (_, s1) => s1
      | none => s) s
/-- Performs the access of an element, or leaves it waiting, or stops its engine (R107). -/
def State.elemAccess (s : State) (o : Op) (a : ElemAcc) : State :=
  if s.elemBefore o a || s.frameBefore o o.va then s
  else
    match a.wr with
    | none =>
      match readAt s o o.va a.len a.ver with
      | .ok d s1 => s1.elemDone o a d
      | .wait s1 => s1
      | .bad f s1 => s1.elemFault o a f
    | some d =>
      let mine := match (s.engine o.tile a.e).cur with | some r => r.opened | none => []
      match if a.fixed.isSome then s.writeHbm o (a.fixed.getD 0) d else writeAt s o o.va d a.ver mine with
      | .ok new s1 => ((match new with | some k => s1.modOp o.id fun p => { p with opened := [k] } | none => s1).fixEarlier o a).elemDone o a []
      | .wait s1 => if s1.asked o then s1.fixEarlier o a else s1
      | .bad f s1 => s1.elemFault o a f

end Sys2Proof.Machine
end

