-- ==== Sys2Proof/Machine/MemOps.lean ====
section
/-! DEFINITION. Memory operations as issued: frame operations, atomics, job cards and collectives (groups 0x0C to 0x0E, R119, R125 to R142, R294, R295). -/
namespace Sys2Proof.Machine

/-! ## The memory-operation port at issue (R119, R303) -/

/-- Slot 15 may make no such operation: it ends its recompute (R303). -/
def needNoRc (s : State) (k : State) : State := if s.rcTask then s.rcFault s.ctx.tile 0x1F 0 0 else k
/-- The port has room for one more operation, and the operation enters it; its destination is pending from then on (R119). -/
def memIssue (s : State) (va : VAddr) (d : Option (BitVec 4)) (acq rel : Bool) (kind : OpKind) : State :=
  if s.memqFull then park s .queue
  else
    let s1 := s.issueOp va d acq rel kind
    advance (match d with | some r => s1.markG r .pending | none => s1) 1

/-! ## Frame operations (R125 to R129, R294, R295) -/

/-- `fr.init` (R126). -/
def execFrInit (a : BitVec 3) (n : BitVec 8) (s : State) : Out :=
  .next (gateW s (needNoRc s (memIssue s (s.b a) none false false (.frame (.init (n.toNat + 1)) false))))
/-- `fr.wait` (R126): an acquire. -/
def execFrWait (d : BitVec 4) (a : BitVec 3) (b : BitVec 4) (v : Bool) (s : State) : Out :=
  .next (needG s b v 5 fun x => needD s d (gate s (
    memIssue s (s.b a) (some d) true false (.frame (.wait (x.toNat % 2 ^ 32)) false))))
/-- A frame operation that names a version and delivers nothing. -/
def frVersion (s : State) (a : BitVec 3) (b : BitVec 4) (v : Bool) (k : Nat → FrOp) : State :=
  needG s b v 5 fun x => gateW s (needNoRc s (memIssue s (s.b a) none false false (.frame (k (x.toNat % 2 ^ 32)) false)))
/-- `fr.recl` (R126). -/
def execFrRecl (a : BitVec 3) (b : BitVec 4) (v : Bool) (s : State) : Out := .next (frVersion s a b v .recl)
/-- `fr.pin` (R126). -/
def execFrPin (a : BitVec 3) (b : BitVec 4) (v : Bool) (s : State) : Out := .next (frVersion s a b v .pin)
/-- `fr.unpin` (R126). -/
def execFrUnpin (a : BitVec 3) (b : BitVec 4) (v : Bool) (s : State) : Out := .next (frVersion s a b v .unpin)
/-- A recipe block passes the checks made at issue (R294, R295). -/
def recipeOk (q : List Nat) : Bool :=
  let w := fun (k : Nat) => q.getD k 0
  let n := w 0 % 8
  fld (w 0) 15 3 == 0 && decide (n ≤ 4) && fld (w 1) 63 48 == 0 && w 14 == 0 && w 15 == 0 &&
  ((upTo 4).all fun j =>
    fld (w (7 + 2 * j)) 63 32 == 0 && w (6 + 2 * j) % 4096 == 0 && (decide (j < n) || (w (6 + 2 * j) == 0 && w (7 + 2 * j) == 0)))
/-- The recipe that a block states, for a partition. -/
def recipeOf (p : PartId) (q : List Nat) : Recipe :=
  let w := fun (k : Nat) => q.getD k 0
  { v := fld (w 0) 63 32, slice := .ofNat 16 (fld (w 0) 31 16), cost := fld (w 1) 47 0
    params := Vector.ofFn fun (i : Fin 4) => w64 (w (2 + i.val))
    srcs := (upTo (w 0 % 8)).map fun j =>
      (⟨p, .ofNat 16 (fld (w (6 + 2 * j)) 63 48), .ofNat 36 (fld (w (6 + 2 * j)) 47 12)⟩, fld (w (7 + 2 * j)) 31 0) }
/-- Range and alignment of a block in scratchpad: n bytes, aligned to 64 (R70, R127). -/
def needBlock (s : State) (x : DWord) (n : Nat) (k : Nat → State) : State :=
  if !s.spLd x.toNat n then trap s 5 0 x else if x.toNat % 64 ≠ 0 then trap s 6 0 x else k x.toNat
/-- Doublewords of a block in scratchpad. -/
def State.spWords (s : State) (ea n : Nat) : List Nat := chunks 64 n (s.spN ea (8 * n))
/-- `fr.recipe` (R127, R295): the block is read once. -/
def execFrRecipe (a : BitVec 3) (b : BitVec 4) (v : Bool) (s : State) : Out :=
  .next (needG s b v 5 fun x => gateW s (needBlock s x 128 fun ea =>
    let q := s.spWords ea 16
    if !recipeOk q then trap s 21 0 (w64 ea)
    else needNoRc s (memIssue s (s.b a) none false false (.frame (.recipe (recipeOf s.curPart q)) false))))
/-- `fr.stat` (R128). -/
def execFrStat (d : BitVec 4) (a : BitVec 3) (q : Option (BitVec 4 × Bool)) (s : State) : Out :=
  .next (
    let go := fun (o : FrOp) => needD s d (gate s (needNoRc s (memIssue s (s.b a) (some d) false false (.frame o false))))
    match q with
    | none => go (.stat none)
    | some (b, v) => needG s b v 5 fun x => go (.stat (some (x.toNat % 2 ^ 32))))

/-! ## Atomics (R130, R131) -/

/-- Acquire and release parts of an ordering code. -/
def atAcq : AtOrder → Bool
  | .relaxed => false | .acq => true | .rel => false | .acqrel => true
/-- Release part. -/
def atRel : AtOrder → Bool
  | .relaxed => false | .acq => false | .rel => true | .acqrel => true
/-- An atomic at issue: its operand is read, its destination is pending. Every scope named is served by the widest (R252). -/
def atIssue (s : State) (d : BitVec 4) (a : BitVec 3) (b : BitVec 4) (v : Bool) (o : AtOrder) (op : AtOp) : State :=
  needG s b v 5 fun x => needD s d (gateW s (needNoRc s (
    memIssue s (s.b a) (some d) (atAcq o) (atRel o) (.atomic op x 0))))
/-- `at.add` (R131). -/
def execAtAdd (d : BitVec 4) (a : BitVec 3) (b : BitVec 4) (v : Bool) (o : AtOrder) (_c : Scope) (s : State) : Out :=
  .next (atIssue s d a b v o .add)
/-- `at.min` (R131). -/
def execAtMin (d : BitVec 4) (a : BitVec 3) (b : BitVec 4) (v : Bool) (u : Bool) (o : AtOrder) (_c : Scope) (s : State) : Out :=
  .next (atIssue s d a b v o (.min u))
/-- `at.max` (R131). -/
def execAtMax (d : BitVec 4) (a : BitVec 3) (b : BitVec 4) (v : Bool) (u : Bool) (o : AtOrder) (_c : Scope) (s : State) : Out :=
  .next (atIssue s d a b v o (.max u))
/-- `at.and` (R131). -/
def execAtAnd (d : BitVec 4) (a : BitVec 3) (b : BitVec 4) (v : Bool) (o : AtOrder) (_c : Scope) (s : State) : Out :=
  .next (atIssue s d a b v o .and)
/-- `at.or` (R131). -/
def execAtOr (d : BitVec 4) (a : BitVec 3) (b : BitVec 4) (v : Bool) (o : AtOrder) (_c : Scope) (s : State) : Out :=
  .next (atIssue s d a b v o .or)
/-- `at.xchg` (R131). -/
def execAtXchg (d : BitVec 4) (a : BitVec 3) (b : BitVec 4) (v : Bool) (o : AtOrder) (_c : Scope) (s : State) : Out :=
  .next (atIssue s d a b v o .xchg)
/-- `at.cas` (R130, R131): g[d] is the comparand, and the word parks while it is not full. -/
def execAtCas (d : BitVec 4) (a : BitVec 3) (b : BitVec 4) (v : Bool) (o : AtOrder) (_c : Scope) (s : State) : Out :=
  .next (needG s b v 5 fun x =>
    match (s.g d).st with
    | .pending => park s .destPending
    | .empty => park s .emptyReg
    | .full => gateW s (needNoRc s (memIssue s (s.b a) (some d) (atAcq o) (atRel o) (.atomic .cas x (s.g d).val))))

/-! ## Job cards (R134, R135, R137) -/

/-- A card passes the content checks of R135. -/
def cardOk (c : List Nat) : Bool :=
  let w := fun (k : Nat) => c.getD k 0
  let fill := fld (w 6) 10 7 == 1
  fld (w 2) 63 48 == 0 && fld (w 3) 63 40 == 0 && fld (w 4) 63 40 == 0 && fld (w 6) 63 32 == 0 && fld (w 6) 15 11 == 0 && w 7 == 0 &&
  fld (w 2) 47 24 != 0 && fld (w 2) 23 0 != 0 && decide (fld (w 6) 10 7 ≤ 1) &&
  !(fill && ((w 6).testBit 0 || fld (w 3) 39 0 != 0)) && !(!(w 6).testBit 2 && (fld (w 6) 5 3 != 0 || (w 6).testBit 6))
/-- The card that eight doublewords state. -/
def cardOf (c : List Nat) : Card :=
  let w := fun (k : Nat) => c.getD k 0
  { swin := .ofNat 16 (fld (w 0) 63 48), soff := .ofNat 48 (fld (w 0) 47 0), c0 := w64 (w 0)
    dwin := .ofNat 16 (fld (w 1) 63 48), doff := .ofNat 48 (fld (w 1) 47 0)
    rows := fld (w 2) 47 24, rbytes := fld (w 2) 23 0, sstr := .ofNat 40 (w 3), dstr := .ofNat 40 (w 4)
    dvern := .ofNat 32 (fld (w 5) 63 32), svern := .ofNat 32 (fld (w 5) 31 0), id := .ofNat 16 (fld (w 6) 31 16)
    fill := fld (w 6) 10 7 == 1, pside := (w 6).testBit 6, pid := .ofNat 3 (fld (w 6) 5 3), pe := (w 6).testBit 2
    dver := (w 6).testBit 1, sver := (w 6).testBit 0 }
/-- Cards and collectives that a tile has outstanding (R135). -/
def State.cardsOut (s : State) (t : Nat) : Nat :=
  (s.ops.filter fun o => o.tile == t && (match o.kind with | .card .. => true | .coll .. => true | _ => false)).length
/-- Counts a card or collective that the task issues, by its completion identifier (R137). -/
def State.countCp (s : State) (id : BitVec 16) : State :=
  s.modCur fun k => { k with cps := alSet k.cps id.toNat ((alGet k.cps id.toNat).getD 0 + 1) }
/-- A card or collective enters the port, if fewer than sixteen of the tile's are outstanding (R135). -/
def cpIssue (s : State) (va : VAddr) (rel : Bool) (id : BitVec 16) (kind : OpKind) : State :=
  if 16 ≤ s.cardsOut s.ctx.tile ∨ s.memqFull then park s .queue
  else memIssue (s.countCp id) va none false rel kind
/-- `cp.job` (R135): the card is read once. -/
def execCpJob (a : BitVec 4) (w : Bool) (s : State) : Out :=
  .next (needG s a w 4 fun x => gateW s (needBlock s x 64 fun ea =>
    let c := s.spWords ea 8
    if !cardOk c then trap s 19 0 (w64 ea)
    else needNoRc s (cpIssue s (vaOf (cardOf c).dwin (cardOf c).doff) false (cardOf c).id (.card (cardOf c) false 0 [] []))))
/-- Completion identifier of a card or collective. -/
def OpKind.cpId : OpKind → Option (BitVec 16)
  | .card c _ _ _ _ => some c.id
  | .coll c _ _ _ => some c.id
  | _ => none
/-- `cp.wait` (R137): it awaits the task's earlier cards and collectives with its ID; the delivery is an acquire. -/
def execCpWait (d : BitVec 4) (a : BitVec 4) (w : Bool) (s : State) : Out :=
  .next (needG s a w 4 fun x => needD s d (gate s (
    let id : BitVec 16 := x.setWidth 16
    let l := (s.ops.filter fun o => o.tile == s.ctx.tile && o.slot == s.ctx.slot && o.kind.cpId == some id).map (·.id)
    memIssue s 0 (some d) true false (.cpWait id l ((alGet s.cur.cps id.toNat).getD 0)))))

/-! ## Collectives (R139 to R142) -/

/-- Element type of a code; reserved codes have none (R42). -/
def etypeOf (c : Nat) : Option EType :=
  ([.f32, .bf16, .f16, .e4m3, .e5m2, .i8, .i16, .i32, .i64, .e8m0, .cb2, .untyped] : List EType).find? fun e => e.code = c
/-- A reduction's operation and element type are legal together (R141). -/
def redOk (op : Nat) (e : EType) : Bool :=
  if op ≤ 2 then ([.f32, .bf16, .f16, .i32, .i64] : List EType).contains e else ([.i8, .i16, .i32, .i64] : List EType).contains e
/-- The descriptor that eight doublewords state. -/
def collOf (op : ClOp) (k : List Nat) : Coll :=
  let w := fun (i : Nat) => k.getD i 0
  { op := op, swin := .ofNat 16 (fld (w 0) 63 48), soff := .ofNat 48 (fld (w 0) 47 0), dwin := .ofNat 16 (fld (w 1) 63 48)
    doff := .ofNat 48 (fld (w 1) 47 0), id := .ofNat 16 (fld (w 2) 63 48), rop := .ofNat 4 (fld (w 2) 39 36)
    ety := .ofNat 4 (fld (w 2) 35 32), count := .ofNat 32 (w 2), size := .ofNat 32 (fld (w 3) 63 32), rank := .ofNat 32 (w 3)
    peer := .ofNat 32 (fld (w 4) 63 32), group := .ofNat 16 (w 4), dvern := .ofNat 32 (fld (w 5) 63 32), svern := .ofNat 32 (w 5)
    rs := (w 6).testBit 2, dver := (w 6).testBit 1, sver := (w 6).testBit 0 }
/-- PEER as a rank; none for all ranks. -/
def Coll.root (c : Coll) : Option Nat := if c.peer = 0xFFFF_FFFF then none else some c.peer.toNat
/-- A descriptor passes the checks of R139 to R141. -/
def collOk (op : ClOp) (k : List Nat) : Bool :=
  let w := fun (i : Nat) => k.getD i 0
  let c := collOf op k
  let root := fun (p : Nat) => decide (p < c.size.toNat)
  fld (w 2) 47 40 == 0 && decide (c.rop.toNat ≤ 4) && (etypeOf c.ety.toNat).isSome && c.count != 0 &&
  decide (1 ≤ c.size.toNat ∧ c.size.toNat ≤ 262144 ∧ c.rank.toNat < c.size.toNat) && fld (w 4) 31 16 == 0 && fld (w 6) 63 3 == 0 && w 7 == 0 &&
  (match op with
   | .gather => (match c.root with | none => true | some p => root p)
   | .scatter => (match c.root with | none => false | some p => root p)
   | .reduce => (match c.root with | none => true | some p => root p && !c.rs) &&
       (match etypeOf c.ety.toNat with | some e => redOk c.rop.toNat e | none => false)
   | _ => (match c.root with | none => false | some p => root p && p != c.rank.toNat))
/-- A collective at issue (R140): a release, since it reads its source after everything before it (R142). -/
def clIssue (s : State) (a : BitVec 4) (w : Bool) (op : ClOp) : State :=
  needG s a w 4 fun x => gateW s (needBlock s x 64 fun ea =>
    let k := s.spWords ea 8
    if !collOk op k then trap s 20 0 (w64 ea)
    else needNoRc s (cpIssue s (vaOf (collOf op k).dwin (collOf op k).doff) true (collOf op k).id (.coll (collOf op k) [] none 0)))
/-- `cl.gather` (R140). -/
def execClGather (a : BitVec 4) (w : Bool) (s : State) : Out := .next (clIssue s a w .gather)
/-- `cl.scatter` (R140). -/
def execClScatter (a : BitVec 4) (w : Bool) (s : State) : Out := .next (clIssue s a w .scatter)
/-- `cl.reduce` (R140). -/
def execClReduce (a : BitVec 4) (w : Bool) (s : State) : Out := .next (clIssue s a w .reduce)
/-- `cl.send` (R140). -/
def execClSend (a : BitVec 4) (w : Bool) (s : State) : Out := .next (clIssue s a w .send)
/-- `cl.recv` (R140). -/
def execClRecv (a : BitVec 4) (w : Bool) (s : State) : Out := .next (clIssue s a w .recv)

end Sys2Proof.Machine
end

