-- ==== Sys2Proof/Machine/Home.lean ====
section
/-! DEFINITION. Operations at their homes: the memory-operation port's forwarding, the directories, atomics, copy engines and collectives (R119 to R142, R253, R262, R280, R295, R367). -/
namespace Sys2Proof.Machine

/-- Removes an operation that has been performed, as progress of its region (R316); a peer's access is answered. -/
def State.opDone (s : State) (o : Op) : State :=
  match o.kind with
  | .peer fl => (s.reply fl true []).endOp o
  | _ => (s.endOp o).progress o.rkey
/-- Delivers an operation's result and removes it. -/
def State.opGive (s : State) (o : Op) (x : DWord) : State :=
  match o.kind, o.d with
  | .peer fl, _ => (s.reply fl true ((leBytes 8 x.toNat).map fun b => (b, false))).endOp o
  | _, some d => (s.deliver o.tile o.slot d x).opDone o
  | _, none => s.opDone o

/-- MEMOP_FORWARD (R119): the port forwards its next operation; slot 15 goes on while a region is frozen (R382). -/
def execMemopForward (t : Nat) (s : State) : Out :=
  .next (
    let x := s.tile t
    if x.memStop.isSome then s
    else match x.memq.find? fun i => match s.op i with | some o => o.slot == 15 || s.regionRuns o.rkey | none => true with
      | none => s
      | some i => (s.modTile t fun x => { x with memq := setDel x.memq i }).modOp i fun o => { o with sent := true })

/-! ## Cards and their footprints (R134 to R136) -/

/-- Bytes of a card. -/
def Card.total (c : Card) : Nat := c.rows * c.rbytes
/-- Offset of byte i of a card from a base with a row step, exact. -/
def Card.offAt (c : Card) (base : BitVec 48) (step : BitVec 40) (i : Nat) : Int :=
  (base.toNat : Int) + (i / c.rbytes : Nat) * step.toInt + (i % c.rbytes : Nat)
/-- Lowest and highest offset of a footprint (R136). -/
def Card.span (c : Card) (base : BitVec 48) (step : BitVec 40) : Int × Int :=
  let last := (c.rows - 1 : Nat) * step.toInt
  ((base.toNat : Int) + min 0 last, (base.toNat : Int) + max 0 last + (c.rbytes : Int) - 1)
/-- Two footprints overlap. -/
def spansMeet (a b : Int × Int) : Bool := decide (a.1 ≤ b.2 ∧ b.1 ≤ a.2)
/-- A write footprint of one card overlaps a read or write footprint of the other in the same window (R136). -/
def Card.edge (a b : Card) : Bool :=
  let w := fun (c : Card) => (c.dwin, c.span c.doff c.dstr)
  let r := fun (c : Card) => if c.fill then [] else [(c.swin, c.span c.soff c.sstr)]
  let hit := fun (x y : BitVec 16 × (Int × Int)) => x.1 == y.1 && spansMeet x.2 y.2
  hit (w a) (w b) || (r b).any (hit (w a)) || (r a).any (hit (w b))
/-- A card's own footprints overlap, or it passes the Prism: its whole source is read before any byte is written (R135, R285). -/
def Card.whole (c : Card) : Bool := c.pe || (!c.fill && c.swin == c.dwin && spansMeet (c.span c.soff c.sstr) (c.span c.doff c.dstr))
/-- What a card does next: read n bytes at byte index i of the source, or write them, or nothing. It writes whole aligned 64-byte blocks
of a row, and reads more where it holds less (R258, R264). -/
def Card.next (c : Card) (done held : Nat) : Option (Bool × Nat × Nat) :=
  let room := fun (off : Int) => 256 - unsgn 8 off
  let i := done + held
  let left := c.rbytes - done % c.rbytes
  let at_ := c.offAt c.doff c.dstr done
  let n := min (min left held) (room at_)
  let n := if n = left then n else n - unsgn 6 (at_ + n)
  if i < c.total ∧ (c.whole ∨ n = 0) then
    some (false, i, min (c.rbytes - i % c.rbytes) (if c.fill then 256 else room (c.offAt c.soff c.sstr i)))
  else if done < c.total then some (true, done, n)
  else none

/-! ## Collectives and their buffers (R139 to R141) -/

/-- Bytes of an element. -/
def Coll.esz (c : Coll) : Nat := ((etypeOf c.ety.toNat).map fun e => etWidth e / 8).getD 4
/-- Elements times bytes. -/
def Coll.part (c : Coll) : Nat := c.count.toNat * c.esz
/-- This rank is the root, or every rank is. -/
def Coll.here (c : Coll) : Bool := match c.root with | none => true | some p => p == c.rank.toNat
/-- Bytes of the source that this rank reads. -/
def Coll.srcLen (c : Coll) : Nat :=
  match c.op with
  | .gather => c.part
  | .scatter => if c.here then c.size.toNat * c.part else 0
  | .reduce => if c.rs then c.size.toNat * c.part else c.part
  | .send => c.part
  | .recv => 0
/-- The other ranks that take part. -/
def Coll.others (c : Coll) : List Nat :=
  match c.op with
  | .send => c.root.toList
  | .recv => c.root.toList
  | _ => (upTo c.size.toNat).filter (· ≠ c.rank.toNat)
/-- The matching of an exchange names it: the group, for a send and receive the two ranks and the ID too (R140). -/
def Coll.same (c d : Coll) : Bool :=
  c.group == d.group && c.rank == d.rank &&
  match c.op, d.op with
  | .send, .send => c.peer == d.peer && c.id == d.id
  | .recv, .recv => c.peer == d.peer && c.id == d.id
  | .gather, .gather => true
  | .scatter, .scatter => true
  | .reduce, .reduce => true
  | _, _ => false
/-- An earlier operation of the partition with the same matching has not been exchanged yet: they match in issue order (R140). -/
def State.collBefore (s : State) (o : Op) (c : Coll) : Bool :=
  s.ops.any fun p => p.part == o.part && decide (p.id < o.id) && (match p.kind with | .coll d _ none _ => c.same d | _ => false)
/-- Another rank's part of the exchange is one that matches: of its group, for a send and receive with its ID, and let in by the
inbound table (R140, R350). -/
def State.rankMatches (s : State) (p : PartId) (c : Coll) (x : RankInput) : Bool :=
  x.group == c.group && (match c.op with | .send => x.id == c.id | .recv => x.id == c.id | _ => true) && s.inboundOk p x.dev x.part .col
/-- Another rank's parameters differ from this one's (R140); partners of a send and receive name each other. -/
def Coll.differs (c : Coll) (x : RankInput) : Bool :=
  x.op != c.rop || x.etype != c.ety || x.count != c.count || x.size != c.size ||
    (match c.op with | .send => x.peer != c.rank | .recv => x.peer != c.rank | _ => x.peer != c.peer)
/-- Bytes of the result that this rank receives (R140). -/
def Coll.resLen (c : Coll) : Nat :=
  match c.op with
  | .gather => if c.here then c.size.toNat * c.part else 0
  | .scatter => c.part
  | .reduce => if c.rs ∨ c.here then c.part else 0
  | .send => 0
  | .recv => c.part

/-! ## The places that an operation has still to reach (R119, R249, R253) -/

/-- A side of an operation: its rows in a window, whether they name versions, the bytes it has done in index order, and whether its next
access, of `len` bytes, is on this side. -/
structure Side where
  win  : BitVec 16
  base : Int
  step : Int := 0
  rows : Nat := 1
  rbytes : Nat
  ver  : Bool := false
  v    : Nat := 0
  done : Nat := 0
  cur  : Bool := true
  len  : Nat := 0
/-- Some row from one on and below another has a byte at offsets lo to hi. -/
def Side.rowsMeet (d : Side) (r1 r2 : Nat) (lo hi : Int) : Bool :=
  let a := lo - d.rbytes + 1 - d.base
  let b := hi - d.base
  let (a, b, st) := if d.step < 0 then (-b, -a, -d.step) else (a, b, d.step)
  if st = 0 then decide (a ≤ 0 ∧ 0 ≤ b ∧ r1 < r2) else decide (max (r1 : Int) (-((-a) / st)) ≤ min ((r2 : Int) - 1) (b / st))
/-- Some byte of row r, from byte j of it on and below byte k, lies at offsets lo to hi. -/
def Side.partMeets (d : Side) (r j k : Nat) (lo hi : Int) : Bool :=
  let o := d.base + r * d.step
  decide (j < k ∧ o + j ≤ hi ∧ lo ≤ o + k - 1)
/-- Some byte still to be done lies at offsets lo to hi. -/
def Side.meets (d : Side) (lo hi : Int) : Bool :=
  let r := d.done / d.rbytes
  (decide (r < d.rows) && d.partMeets r (d.done % d.rbytes) d.rbytes lo hi) || d.rowsMeet (r + 1) d.rows lo hi
/-- The first byte of the next access does. -/
def Side.isAt (d : Side) (lo hi : Int) : Bool := d.cur && d.partMeets (d.done / d.rbytes) (d.done % d.rbytes) (d.done % d.rbytes + 1) lo hi
/-- What a collective does next: read or write n bytes at byte index i of its buffer, the whole elements that end in one block, or one
element that reaches into the next (R258). -/
def Coll.next (c : Coll) (have_ : Nat) (result : Option (List (Byte × Bool))) (done : Nat) : Option (Bool × Nat × Nat) :=
  let span := fun (off i : Nat) => if i % c.esz = 0 then max c.esz ((256 - off % 256) / c.esz * c.esz) else c.esz - i % c.esz
  if have_ < c.srcLen then some (false, have_, min (c.srcLen - have_) (span (c.soff.toNat + have_) have_))
  else match result with
    | none => none
    | some r => if done < r.length then some (true, done, min (r.length - done) (span (c.doff.toNat + done) done)) else none
/-- The sides of an operation of the memory-operation port that names places. -/
def Op.sides (o : Op) : List Side :=
  match o.kind with
  | .atomic .. => [{ win := winOf o.va, base := (offOf o.va / 8 * 8 : Nat), rbytes := 8 }]
  | .card c _ n b _ =>
    let (wr, k) := match c.next n b.length with | some (w, _, k) => (w, k) | none => (true, 0)
    (if c.fill then [] else
      [{ win := c.swin, base := (c.soff.toNat : Int), step := c.sstr.toInt, rows := c.rows, rbytes := c.rbytes
         ver := c.sver, v := c.svern.toNat, done := n + b.length, cur := !wr, len := k }]) ++
    [{ win := c.dwin, base := (c.doff.toNat : Int), step := c.dstr.toInt, rows := c.rows, rbytes := c.rbytes
       ver := c.dver, v := c.dvern.toNat, done := n, cur := wr, len := k }]
  | .coll c src r n =>
    let k := ((c.next src.length r n).map (·.2.2)).getD 0
    [{ win := c.swin, base := (c.soff.toNat : Int), rbytes := c.srcLen, ver := c.sver, v := c.svern.toNat, done := src.length
       cur := decide (src.length < c.srcLen), len := k },
     { win := c.dwin, base := (c.doff.toNat : Int), rbytes := c.resLen, ver := c.dver, v := c.dvern.toNat, done := n
       cur := decide (c.srcLen ≤ src.length), len := k }]
  | .frame f w =>
    if w then []
    else let n := match f with | .init n => n | _ => 1
      [{ win := winOf o.va, base := (offOf o.va / 4096 * 4096 : Nat), rbytes := 4096 * n, ver := true }]
  | _ => []
/-- An operation has still to reach the frame at offsets lo to hi of a window: it holds no version of it that it reads or writes there,
its next access does not wait there, and the request that stands with a peer is not its last to it (R119, R124). -/
def Op.toReach (o : Op) (w : BitVec 16) (lo hi : Int) : Bool :=
  o.sides.any fun d => d.ver && d.win == w && d.meets lo hi &&
    !(o.held ++ o.opened).contains (⟨o.part, w, .ofNat 36 (lo.toNat / 4096)⟩, d.v) && !(o.waits && d.isAt lo hi) &&
    !(o.out && d.isAt lo hi && !{ d with done := d.done + d.len }.meets lo hi)
/-- A side maps, through a window or a page of its own, bytes that stand where offsets lo to hi of a page of an operation's window do (R249). -/
def State.aliased (s : State) (p : PartId) (d : Side) (va : VAddr) (lo hi : Int) : Bool :=
  let page := fun (w : BitVec 16) (n : Nat) => (s.lookVA none p (.ofNat 80 (w.toNat * 2 ^ 64 + n * 65536)) false .rd).toOption
  let last := (d.rows - 1 : Nat) * d.step
  let first := ((d.base + min 0 last) / 65536).toNat
  let end_ := ((d.base + max 0 last + (d.rbytes - 1 : Nat)) / 65536).toNat
  (page (winOf va) (offOf va / 65536)).elim false fun x => (upFrom first (end_ - first + 1)).any fun n =>
    let d0 := ((n : Int) - (offOf va / 65536 : Nat)) * 65536
    d.meets (lo + d0) (hi + d0) && page d.win n == some x
/-- An earlier operation of the task has still to act on a place of an operation's access: on the same 8-byte locations, by where
translation places them, or on the frame of a versioned access (R119, R249). -/
def State.placeBefore (s : State) (o : Op) (va : VAddr) (len : Nat) (ver : Bool) : Bool :=
  let lo : Int := (offOf va / 8 * 8 : Nat)
  let hi : Int := ((offOf va + len + 7) / 8 * 8 : Nat) - 1
  let fr : Int := (offOf va / 4096 * 4096 : Nat)
  s.ops.any fun p => p.tile == o.tile && p.slot == o.slot && decide (p.id < o.id) &&
    if ver then p.toReach (winOf va) fr (fr + 4095)
    else p.sides.any fun d => !d.ver && ((d.win == winOf va && d.meets lo hi) || s.aliased o.part d va lo hi)

/-! ## Frame operations at their directory (R121, R126 to R128, R295, R305, R367) -/

/-- A frame may not be initialised: it has an open version, a pin, a pending read, or a recompute that holds it (R126, R305). -/
def State.frameBusy (s : State) (f : Frame) : Bool :=
  f.vers.any fun x => x.st == .opened || x.pins != 0 || x.reads != 0 || x.refill != 0 || s.rcReqs.any fun q => q.frame == f.key && q.v == x.v
/-- Checkpoints are enabled for an operation's region, so that its reclaims are deferred (R366, R367). -/
def State.defers (s : State) (rkey : Nat) : Bool := match s.region rkey with | some r => ckEn (s.ckctl r) | none => false
/-- Defers a reclaim to the region's next checkpoint; one is due where a writer of the region stalls on the pool (R366). -/
def State.deferRecl (s : State) (rkey : Nat) (x : Reclaim) : State :=
  let stalls := s.ops.any fun o => o.rkey == rkey && o.told
  s.modRegion rkey fun r => { r with defer := r.defer ++ [x], ckReq := r.ckReq || stalls }
/-- Initialises one frame: its old history ends, at once or at the next checkpoint, and version 0 stands (R126, R367). -/
def State.initFrame (s : State) (rkey : Nat) (k : FrameKey) : State :=
  let old := s.frame k
  let (gen, s1) := s.fresh
  let new := (s1.setFrame { key := k, newest := some 0, gen := gen, recl := 0, vers := [zeroVer] }).meetWaits k 0
  if s.defers rkey then new.deferRecl rkey (.init old) else old.vers.foldl (fun s (x : Ver) => s.releaseRecipe x.recipe) new
/-- Initialises n frames from one on; the first that is busy or unregistered faults with its index (R126). -/
def State.initFrames (s : State) (o : Op) (i : Nat) : Nat → State
  | 0 => s.opDone o
  | n + 1 =>
    let va := vaWith o.va ((offOf o.va : Int) + 4096 * i)
    let k := frameOf o.part va
    if (s.vregOf o.part (winOf va) (offOf va)).isNone ∨ 2 ^ 48 ≤ offOf o.va + 4096 * i then s.faultOp o ⟨0x11, 0⟩ false va 0 i 0
    else if s.frameBusy (s.frame k) then s.faultOp o ⟨0x12, 0⟩ false va 0 i 0
    else (s.initFrame o.rkey k).initFrames o (i + 1) n
/-- A frame's target is this device. -/
def isHere {α : Type} : Except Flt (Option α) → Bool
  | .ok none => true
  | _ => false
/-- A frame is homed on this device: its window maps no peer and no host memory (R121). -/
def State.homed (s : State) (k : FrameKey) : Bool := isHere (s.frameTarget k.part (frameVa k))
/-- The first source of a recipe that may not be one (R295). -/
def State.badSource (s : State) (k : FrameKey) (r : Recipe) : Option Nat :=
  (r.srcs.zipIdx.find? fun ((g, v), _) =>
    let c := (s.frame g).code v
    (s.vregFor g).isNone || !s.homed g || !decide (2 ≤ c ∧ c ≤ 5) || (g == k && decide (r.v ≤ v))).map (·.2)
/-- The first source of a recipe whose references would pass 65,535 (R295): one named twice gains two. -/
def State.fullSource (s : State) (r : Recipe) : Option Nat :=
  (r.srcs.zipIdx.find? fun ((g, v), j) =>
    decide (65535 ≤ (((s.frame g).ver v).elim 0 (·.rref)) + ((r.srcs.take j).filter (· == (g, v))).length)).map (·.2)
/-- Attaches a recipe to a version, or faults (R127, R295). -/
def State.attach (s : State) (o : Op) (k : FrameKey) (r : Recipe) : State :=
  let f := s.frame k
  let c := f.code r.v
  let bad := fun (kind : Byte) (j : Nat) => s.faultOp o ⟨kind, 0⟩ false o.va r.v j r.v
  if !(c = 1 ∨ (c = 0 ∧ r.v = f.next)) then bad 0x19 0
  else if !((s.vregFor k).map (·.recomp)).getD false then bad 0x1A 0
  else if !(s.slices.any fun x => x.part == o.part && x.id == r.slice) then bad 0x1B 0
  else match s.badSource k r, s.fullSource r with
    | some j, _ => bad 0x1C j
    | none, some j => bad 0x17 j
    | none, none =>
      let old := (f.ver r.v).bind (·.recipe)
      let s1 := r.srcs.foldl (fun s (g, v) => s.modVer g v fun x => { x with rref := x.rref + 1 }) s
      ((s1.modVer k r.v fun x => { x with recipe := some { r with gens := r.srcs.map fun (g, _) => (s.frame g).gen } }).releaseRecipe old).opDone o
/-- The summary of a frame (R128). -/
def State.frameWord (s : State) (k : FrameKey) : Nat :=
  let f := s.frame k
  (f.newest.getD 0) % 2 ^ 32 * 2 ^ 32 + (f.vers.filter Ver.live).length * 2 ^ 28 + f.open_.isSome.toNat * 2 ^ 27 +
    (((s.vregFor k).map (·.recomp)).getD false).toNat * 2 ^ 26 + f.newest.isNone.toNat * 2 ^ 25
/-- The state of a version (R128). -/
def Frame.verWord (f : Frame) (v : Nat) : Nat :=
  let x := (f.ver v).getD { v := v, st := .absent }
  x.pins * 2 ^ 32 + x.rref * 2 ^ 16 + x.depth * 2 ^ 10 + x.dropOk.toNat * 2 ^ 9 + x.recipe.isSome.toNat * 2 ^ 8 + f.code v
/-- The version that a frame operation names; 0 where it names none. -/
def FrOp.ver : FrOp → Nat
  | .init _ => 0 | .wait v => v | .recl v => v | .recipe r => r.v | .pin v => v | .unpin v => v | .stat v => v.getD 0
/-- The directory performs a frame operation on a frame of this device (R126). -/
def State.framePerform (s : State) (o : Op) (op : FrOp) : State :=
  let k := frameOf o.part o.va
  let f := s.frame k
  let bad := fun (kind : Byte) (v : Nat) => s.faultOp o ⟨kind, 0⟩ false o.va v 0 v
  if offOf o.va % 4096 ≠ 0 ∨ (s.vregOf o.part (winOf o.va) (offOf o.va)).isNone then
    s.faultOp o ⟨0x11, 0⟩ false o.va op.ver 0 op.ver
  else match op with
    | .init n => s.initFrames o 0 n
    | .wait v =>
      let c := f.code v
      if 2 ≤ c ∧ c ≤ 5 then s.opGive o (w64 v)
      else if c = 6 then bad 0x14 v
      else s.modOp o.id fun p => match p.kind with | .frame _ _ => { p with kind := .frame op true } | _ => p
    | .recl v =>
      if f.next < v then bad 0x15 v
      else if v = 0 then s.opDone o
      else if s.defers o.rkey then (s.deferRecl o.rkey (.recl k v f.gen)).opDone o
      else ((s.setFrame { f with recl := max f.recl v }).retireBelow k).opDone o
    | .recipe r => s.attach o k r
    | .pin v =>
      if f.code v = 6 then bad 0x14 v
      else if ((f.ver v).elim 0 (·.pins)) = 65535 then bad 0x17 v
      else
        let s1 := s.modVer k v fun x => { x with pins := x.pins + 1 }
        (if s.defers o.rkey then s1.deferRecl o.rkey (.pin k v f.gen) else s1).opDone o
    | .unpin v =>
      if ((f.ver v).elim 0 (·.pins)) = 0 then bad 0x18 v
      else
        let s1 := s.modVer k v fun x => { x with pins := x.pins - 1 }
        (if s.defers o.rkey then s1.deferRecl o.rkey (.unpin k v f.gen) else State.tryRetire retireFuel s1 k v).opDone o
    | .stat none => s.opGive o (w64 (s.frameWord k))
    | .stat (some v) => s.opGive o (w64 (f.verWord v))
/-- A recipe as doublewords of its block (R294). -/
def Recipe.words (r : Recipe) : List DWord :=
  [w64 (r.v * 2 ^ 32 + r.slice.toNat * 2 ^ 16 + r.srcs.length), w64 r.cost] ++ r.params.toList ++
    (r.srcs.map fun (k, v) => [w64 (k.win.toNat * 2 ^ 48 + k.fr.toNat * 4096), w64 v]).flatten
/-- What a frame operation asks of a peer's directory: its minor code, version or count, and recipe. -/
def FrOp.ask : FrOp → Nat × Nat × List DWord
  | .init n => (0, n, [])
  | .wait v => (1, v, [])
  | .recl v => (2, v, [])
  | .recipe r => (3, r.v, r.words)
  | .pin v => (4, v, [])
  | .unpin v => (5, v, [])
  | .stat none => (6, 0, [])
  | .stat (some v) => (7, v, [])
/-- A frame operation arrives, or is tried again: at a directory of this device, or at a peer's (R121). A wait that has been satisfied
delivers, whatever has become of the version since (R126). -/
def State.frameArrive (s : State) (o : Op) (op : FrOp) : State :=
  if !o.sent || o.stop.isSome || o.out then s
  else if o.met then s.opGive o (w64 op.ver)
  else if (let (a, n) := frameSpan o; (upFrom a n).any fun f => s.placeBefore o (vaWith o.va (f * 4096 : Nat)) 4096 true) then s
  else if o.lost.isSome then s.faultOp o ⟨o.lost.getD 0, 0⟩ false o.va op.ver 0 op.ver
  else if !s.winServed o.part o.va then s
  else match s.frameTarget o.part o.va with
    | .error f => s.faultOp o f false o.va op.ver 0 op.ver
    | .ok none => if s.frameServed (frameOf o.part o.va) then s.framePerform o op else s
    | .ok (some (a, w, off)) =>
      let (c, v, l) := op.ask
      match s.ask o a (.frameOp w (off48 off) c (w32 v) l) with
      | .error f => s.faultOp o f false o.va op.ver 0 op.ver
      | .ok s1 => s1.extAct o.rkey
/-- DIRECTORY_FRAME_OP (R126). -/
def execDirectoryFrameOp (id : Nat) (s : State) : Out :=
  .next (match s.op id with
    | some o => (match o.kind with | .frame op false => s.frameArrive o op | _ => s)
    | none => s)

/-! ## Atomics (R131) -/

/-- The new value that an atomic stores. -/
def atNew (op : AtOp) (old x cmp : DWord) : DWord :=
  let less := fun (u : Bool) (a b : DWord) => if u then decide (a.toNat < b.toNat) else decide (a.toInt < b.toInt)
  match op with
  | .add => old + x
  | .min u => if less u x old then x else old
  | .max u => if less u old x then x else old
  | .and => old &&& x
  | .or => old ||| x
  | .xchg => x
  | .cas => if old = cmp then x else old
/-- Code of an atomic in a flit: its minor, 8 higher for an unsigned one. -/
def atCode : AtOp → Nat
  | .add => 0 | .min u => 1 + 8 * u.toNat | .max u => 2 + 8 * u.toNat | .and => 3 | .or => 4 | .xchg => 5 | .cas => 6
/-- An earlier operation of the task has still to act on the same eight bytes (R119). -/
def State.atBefore (s : State) (o : Op) : Bool := s.placeBefore o o.va 8 false
/-- An atomic as one step on the decoded block at its home (R131). -/
def State.atomicAt (s : State) (o : Op) (op : AtOp) (x cmp : DWord) : State :=
  let bad := fun (s : State) (f : Flt) => s.faultOp o f false o.va 0 0 0
  if o.lost.isSome then bad s ⟨o.lost.getD 0, 0⟩
  else if offOf o.va % 8 ≠ 0 then bad s ⟨0x02, 0⟩
  else if bfld o.va 63 48 = 0 ∧ (s.vregOf o.part (winOf o.va) (offOf o.va)).isSome then bad s ⟨0x10, 0⟩
  else if !s.walkServed o.tile o.part o.va then s
  else
    let (r, s1) := s.translate o.tile o.part o.va true .atv
    match r with
    | .error f => bad s1 f
    | .ok (.host _) => bad s1 ⟨0x0C, 0⟩
    | .ok (.peer a w off) =>
      match s1.ask o a (.atomic w (off48 off) (atCode op) x cmp) with
      | .error f => bad s1 f
      | .ok s2 => s2.extAct o.rkey
    | .ok (.hbm pa) =>
      if !s1.served o.part pa then s1
      else if s1.hbmBad pa 8 true then bad s1 ⟨0x0E, 0⟩
      else if s1.hbmPois pa then bad s1 ⟨0x0D, 0⟩
      else if s1.undoFull o.rkey pa 8 then s1.ckDue o.rkey
      else
        let old := w64 (s1.hbmNum pa 8)
        (s1.plainWrite o.rkey pa ((leBytes 8 (atNew op old x cmp).toNat).map fun b => some (b, false))).opGive o old
/-- ATOMIC_PERFORM (R131): a release waits for the task's earlier operations. -/
def execAtomicPerform (id : Nat) (s : State) : Out :=
  .next (match s.op id with
    | none => s
    | some o =>
      match o.kind with
      | .atomic op x cmp =>
        if !o.sent || o.stop.isSome || o.out || s.atBefore o || (o.rel && s.earlierOut o) then s else s.atomicAt o op x cmp
      | _ => s)

/-! ## Copy engines (R134 to R136, R285) -/

/-- CARD_RELEASE (R136): the scheduler releases a card once every earlier card of the region with an edge to it has completed. It accepts
cards of different tasks in the order of their issue (log 58). -/
def execCardRelease (id : Nat) (s : State) : Out :=
  .next (match s.op id with
    | none => s
    | some o =>
      match o.kind with
      | .card c false n b p =>
        if !o.sent || o.stop.isSome ||
            s.ops.any (fun q => q.rkey == o.rkey && decide (q.id < o.id) && (match q.kind with | .card d _ _ _ _ => d.edge c | _ => false)) then s
        else s.modOp id fun o => { o with kind := .card c true n b p }
      | _ => s)
/-- Bytes passed through a program as the units of one stream (R285, R289). -/
def prismBytes (p : List Byte) (d : List (Byte × Bool)) : List (Byte × Bool) :=
  let step := fun ((out, ss) : List (Byte × Bool) × Vector Lane 8) (u : List (Byte × Bool)) =>
    let (b, ss) := prismUnit p ss (fit 0 64 (u.map (·.1)))
    (out ++ (b.take u.length).map fun x => (x, u.any (·.2)), ss)
  ((groupsOf 64 d.length d).foldl step ([], prismInit p)).1
/-- Source bytes have come for a card. -/
def State.cardGot (s : State) (o : Op) (d : List (Byte × Bool)) : State :=
  s.modOp o.id fun o =>
    match o.kind with
    | .card c r n b p =>
      let b := b ++ d
      { o with kind := .card c r n (if c.pe && decide (c.total ≤ n + b.length) then prismBytes p b else b) p, out := false, waits := false, spill := none, spilt := [] }
    | _ => o
/-- Bytes of a card have been written. -/
def State.cardPut (s : State) (o : Op) (k : Nat) : State :=
  s.modOp o.id fun o =>
    match o.kind with
    | .card c r n b p => { o with kind := .card c r (n + k) (b.drop k) p, out := false, told := false, waits := false }
    | _ => o
/-- The version that an access names. -/
def verOf (on : Bool) (v : BitVec 32) : Option Nat := if on then some v.toNat else none
/-- Releases the holds of an operation's reads on the versions of frames from which its source has no byte left to read (R124). -/
def State.readsOver (s : State) (o : Op) : State :=
  ((s.op o.id).elim [] (·.held)).foldl (fun u (k, v) =>
    let lo : Int := (k.fr.toNat * 4096 : Nat)
    if (s.op o.id).any fun q => (q.sides.take 1).any fun d => d.ver && d.win == k.win && d.v == v && d.meets lo (lo + 4095) then u else u.unhold o k v) s
/-- The completion write of dispatch names no frame: its address is misaligned, or lies in no registered region of this device (R121,
R318, log 50). -/
def State.noFrame (s : State) (o : Op) : Bool :=
  o.tile == dispatchTile && match s.frameTarget o.part o.va with
    | .ok none => decide (offOf o.va % 4096 ≠ 0) || (s.vregOf o.part (winOf o.va) (offOf o.va)).isNone
    | _ => false
/-- A copy engine performs the next part of a card that lies in one block (R135, R280). -/
def State.cardStep (s : State) (o : Op) (c : Card) (done : Nat) (b : List (Byte × Bool)) (p : List Byte) : State :=
  if o.stop.isSome || o.out then s
  else if c.pe && p.isEmpty then
    match s.prismProg o.part c.pid c.pside with
    | .ok q => s.modOp o.id fun o => { o with kind := .card c true done b q }
    | .error f => s.faultOp o f true (vaOf c.swin c.soff) 0 0 0
  else match c.next done b.length with
    | none => s
    | some (wr, i, n) =>
      let off := if wr then c.offAt c.doff c.dstr i else c.offAt c.soff c.sstr i
      let va := vaWith (vaOf (if wr then c.dwin else c.swin) 0) off
      let ver := if wr then verOf c.dver c.dvern else verOf c.sver c.svern
      let bad := fun (s : State) (f : Flt) => s.faultOp o f true va (ver.getD 0) (i % c.rbytes) (i / c.rbytes)
      if !wr ∧ c.fill then
        s.cardGot o ((upFrom (i % c.rbytes) n).map fun j => (.ofNat 8 (c.c0.toNat / 2 ^ (8 * (j % 8))), false))
      else if off < 0 ∨ 2 ^ 48 ≤ off then bad s ⟨0x01, 0⟩
      else if s.placeBefore o va n ver.isSome then s
      else if s.noFrame o then bad s ⟨0x11, 0⟩
      else if !wr then
        match readAt s o va n ver with
        | .ok d s1 => ((s1.cardGot o d).readsOver o).progress o.rkey
        | .wait s1 => s1
        | .bad f s1 => bad s1 f
      else
        match writeAt s o va ((b.take n).map some) ver o.opened with
        | .ok new s1 =>
          ((s1.modOp o.id fun o => { o with opened := o.opened ++ new.toList }).cardPut o n).progress o.rkey
        | .wait s1 => s1
        | .bad f s1 => bad s1 f
/-- CARD_COMPLETE (R135): every byte is written; the destination versions become visible. -/
def execCardComplete (id : Nat) (s : State) : Out :=
  .next (match s.op id with
    | none => s
    | some o =>
      match o.kind with
      | .card c true n _ _ =>
        if o.stop.isSome || o.out || decide (n < c.total) || !s.openedServed o.opened then s
        else (s.finishOpened o.part o.rkey o.opened o.id).opDone o
      | _ => s)
/-- CP_WAIT_DELIVER (R137). -/
def execCpWaitDeliver (id : Nat) (s : State) : Out :=
  .next (match s.op id with
    | none => s
    | some o =>
      match o.kind with
      | .cpWait _ l n => if !o.sent || s.ops.any (fun p => setHas l p.id) then s else s.opGive o (w64 n)
      | _ => s)

/-! ## Collectives (R139 to R142, R350) -/

/-- IPA of a group's entry in the group table (R350). -/
def State.groupAt (s : State) (p : PartId) (g : BitVec 16) : Nat := fld (s.part p).grptab.toNat 47 16 * 65536 + 16 * g.toNat
/-- Every MIT that the windows of the other ranks have to be read from serves the partition (R292). -/
def State.collServed (s : State) (p : PartId) (c : Coll) : Bool :=
  let at_ := s.groupAt p c.group
  s.allServed p || (s.ipaServed p at_ 16 && (s.ipaNum p at_ 16).toOption.all fun e => c.others.all fun q =>
    s.ipaServed p (fld e 111 64 + 8 * q) 8 &&
      (s.ipaNum p (fld e 111 64 + 8 * q) 8).toOption.all fun d => s.winServed p (vaOf (.ofNat 16 (fld d 63 48)) 0))
/-- The windows of the other ranks allow collectives, by the group table (R350). An entry whose zero bytes are not zero, or whose N does
not reach the rank, and a rank's doubleword with a bit outside its window field, authorize nothing (log 59). -/
def State.collAuth (s : State) (p : PartId) (c : Coll) : Except Flt Unit :=
  match s.ipaNum p (s.groupAt p c.group) 16 with
  | .error f => .error f
  | .ok e =>
    c.others.foldl (fun r q => match r with
      | .error f => .error f
      | .ok () =>
        if fld e 63 32 ≠ 0 ∨ fld e 127 112 ≠ 0 ∨ fld e 31 0 ≤ q then .error ⟨0x0A, 0⟩
        else match s.ipaNum p (fld e 111 64 + 8 * q) 8 with
        | .error f => .error f
        | .ok d =>
          if fld d 47 0 ≠ 0 then .error ⟨0x0A, 0⟩
          else match s.windowEnt p (.ofNat 16 (fld d 63 48)) with
          | .error f => .error f
          | .ok w =>
            if windowBad w then .error ⟨0x04, 0⟩
            else if w % 4 ≠ 2 then .error ⟨0x0A, 0⟩
            else match s.toPeer p .col (.ofNat 8 (fld w 111 104)) (.ofNat 16 (fld w 127 112)) 0 with
              | .error f => .error f
              | .ok _ => .ok ()) (.ok ())
/-- One reduction step on two elements as an FP32 value or integer pattern (R141). -/
def redStep (op : Nat) (e : EType) (a b : Nat) : Nat :=
  match etFmt e with
  | some _ =>
    let x := fF32.val a; let y := fF32.val b
    if op = 0 then fF32.round 0 0 false (x.add y) else fF32.round 0 0 false (if op = 1 then x.minv y else x.maxv y)
  | none =>
    let w := etWidth e
    match op with
    | 0 => (a + b) % 2 ^ w
    | 1 => if sgn w b < sgn w a then b else a
    | 2 => if sgn w a < sgn w b then b else a
    | 3 => a &&& b
    | _ => a ||| b
/-- An element as the reduction takes it: an FP one widened exactly to FP32. -/
def redIn (e : EType) (x : Nat) : Nat := match etFmt e with | some f => fF32.round 0 0 false (f.val x) | none => x
/-- The result of a reduction in the element type: one rounding RNE. -/
def redOut (e : EType) (x : Nat) : Nat := match etFmt e with | some f => f.round 0 0 false (fF32.val x) | none => x
/-- Bytes of element i of a rank's data. -/
def elemBytes (d : List (Byte × Bool)) (e i : Nat) : List (Byte × Bool) := fit (0, false) e ((d.drop (e * i)).take e)
/-- Element i reduced over the ranks in rank order (R141). -/
def redElem (op : Nat) (t : EType) (ranks : List (List (Byte × Bool))) (i : Nat) : List (Byte × Bool) :=
  let e := etWidth t / 8
  let xs := ranks.map fun d => elemBytes d e i
  let bad := xs.any fun x => x.any (·.2)
  let vs := xs.map fun x => redIn t (leNat (x.map (·.1)))
  let r := match vs with | [] => 0 | a :: l => l.foldl (redStep op t) a
  (leBytes e (redOut t r)).map fun b => (b, bad)
/-- What a rank receives, from the data of every rank (R140). -/
def Coll.result (c : Coll) (data : Nat → List (Byte × Bool)) : List (Byte × Bool) :=
  let n := c.part
  let t := (etypeOf c.ety.toNat).getD .untyped
  let all := fun (_ : Unit) => (upTo c.size.toNat).map data
  match c.op with
  | .gather => if c.here then ((all ()).map fun d => fit (0, false) n d).flatten else []
  | .scatter => fit (0, false) n ((data (c.root.getD 0)).drop (c.rank.toNat * n))
  | .reduce =>
    if c.size = 1 then fit (0, false) n (data 0)
    else if c.rs then ((upFrom (c.rank.toNat * c.count.toNat) c.count.toNat).map (redElem c.rop.toNat t (all ()))).flatten
    else if c.here then ((upTo c.count.toNat).map (redElem c.rop.toNat t (all ()))).flatten else []
  | .send => []
  | .recv => fit (0, false) n (data (c.root.getD 0))
/-- COLLECTIVE_EXCHANGE (R140): all ranks have issued, and the result is reduced in rank order; or a rank's inbound table refuses this
device's part, which faults here (R350). -/
def execCollectiveExchange (id : Nat) (ranks : List RankInput) (s : State) : Out :=
  .next (match s.op id with
    | none => s
    | some o =>
      match o.kind with
      | .coll c src none n =>
        let of_ := fun (q : Nat) => ranks.find? fun x => x.rank == q && s.rankMatches o.part c x
        let bad := fun (f : Flt) => s.faultOp o f false o.va 0 0 0
        if !o.sent || o.stop.isSome || o.out || s.earlierOut o || s.collBefore o c || decide (src.length < c.srcLen) ||
            (!c.others.isEmpty && !s.collServed o.part c) then s
        else match if c.others.isEmpty then .ok () else s.collAuth o.part c with
          | .error f => bad f
          | .ok () =>
            if !c.others.isEmpty ∧ s.upPort.isNone then bad ⟨0x0B, 0⟩
            else if c.others.any fun q => ranks.any fun x => x.rank == q && x.group == c.group && x.refused then bad ⟨0x0A, 0⟩
            else if c.others.any fun q => (of_ q).isNone then s
            else if c.others.any (fun q => match of_ q with | some x => c.differs x | none => false) then bad ⟨0x2D, 0⟩
            else
              let data := fun (q : Nat) => if q = c.rank.toNat then src else match of_ q with | some x => x.data | none => []
              ((s.modOp id fun o => { o with kind := .coll c src (some (c.result data)) n }).extAct o.rkey).progress o.rkey
      | _ => s)
/-- Source bytes have come for a collective, or result bytes are written. -/
def State.collGot (s : State) (o : Op) (d : List (Byte × Bool)) : State :=
  s.modOp o.id fun o => match o.kind with | .coll c src r n => { o with kind := .coll c (src ++ d) r n, out := false, waits := false, spill := none, spilt := [] } | _ => o
/-- Result bytes of a collective have been written. -/
def State.collPut (s : State) (o : Op) (k : Nat) : State :=
  s.modOp o.id fun o => match o.kind with | .coll c src r n => { o with kind := .coll c src r (n + k), out := false, told := false, waits := false } | _ => o
/-- Reads the next part of a collective's source, or writes the next part of its result (R142). -/
def State.collStep (s : State) (o : Op) (c : Coll) (src : List (Byte × Bool)) (result : Option (List (Byte × Bool))) (done : Nat) : State :=
  if !o.sent || o.stop.isSome || o.out || s.earlierOut o then s
  else match c.next src.length result done with
    | none => s
    | some (wr, i, n) =>
      let off := (if wr then c.doff else c.soff).toNat + i
      let va := vaOf (if wr then c.dwin else c.swin) (.ofNat 48 off)
      let ver := if wr then verOf c.dver c.dvern else verOf c.sver c.svern
      let bad := fun (s : State) (f : Flt) => s.faultOp o f false va (ver.getD 0) 0 0
      if 2 ^ 48 ≤ off then bad s ⟨0x01, 0⟩
      else if s.placeBefore o va n ver.isSome then s
      else if !wr then
        match readSpan s o va n ver with
        | .ok d s1 => ((s1.collGot o d).readsOver o).progress o.rkey
        | .wait s1 => s1
        | .bad f s1 => bad s1 f
      else
        match writeSpan s o va (((result.getD []).drop i).take n |>.map some) ver o.opened with
        | (new, k, .ok _ s1) => ((s1.modOp o.id fun o => { o with opened := o.opened ++ new }).collPut o k).progress o.rkey
        | (_, _, .wait s1) => s1
        | (_, _, .bad f s1) => bad s1 f
/-- COLLECTIVE_COMPLETE (R142): the result is written, and its versions become visible. -/
def execCollectiveComplete (id : Nat) (s : State) : Out :=
  .next (match s.op id with
    | none => s
    | some o =>
      match o.kind with
      | .coll _ _ (some r) n =>
        if o.stop.isSome || o.out || decide (n < r.length) || !s.openedServed o.opened then s
        else (s.finishOpened o.part o.rkey o.opened o.id).opDone o
      | _ => s)

/-! ## Peers' accesses (R121, R350) -/

/-- The atomic of a code in a flit. -/
def atOf : Nat → AtOp
  | 0 => .add | 1 => .min false | 9 => .min true | 2 => .max false | 10 => .max true | 3 => .and | 4 => .or | 5 => .xchg | _ => .cas
/-- The frame operation of a code in a flit, for a partition. -/
def frOf (p : PartId) (op v : Nat) (block : List DWord) : FrOp :=
  match op with
  | 0 => .init v | 1 => .wait v | 2 => .recl v | 3 => .recipe (recipeOf p (block.map (·.toNat))) | 4 => .pin v | 5 => .unpin v
  | 6 => .stat none | _ => .stat (some v)
/-- Versions that a peer's writes hold open here. -/
def State.peerMine (s : State) (fl : Flit) : List (FrameKey × Nat) :=
  s.peerOpen.filterMap fun (d, p, k, v) => if d = fl.srcDev ∧ p = fl.srcPart then some (k, v) else none
/-- A peer no longer holds a version open here. -/
def State.peerEnds (s : State) (fl : Flit) (k : FrameKey) (v : BitVec 32) : State :=
  { s with peerOpen := s.peerOpen.filter fun (d, p, f, u) => !(d == fl.srcDev && p == fl.srcPart && f == k && u == v.toNat) }
/-- Performs a peer's access through the window it names, or leaves it waiting, and answers it. -/
def State.peerStep (s : State) (o : Op) (fl : Flit) : State :=
  if o.out then s
  else
    let k := frameOf o.part o.va
    let bad := fun (s : State) (f : Flt) => s.faultOp o f false o.va 0 0 0
    let got := fun (g : Got) => match g with
      | .ok d s1 => (s1.reply fl true d).endOp o
      | .wait s1 => s1
      | .bad f s1 => bad s1 f
    let opens := fun (s : State) (new : List (FrameKey × Nat)) =>
      ({ s with peerOpen := s.peerOpen ++ new.map fun ((k, v) : FrameKey × Nat) => (fl.srcDev, fl.srcPart, k, v) } : State)
    let put := fun (g : List (FrameKey × Nat) × Nat × Put) => match g with
      | (new, _, .ok _ s1) => (opens s1 new).opDone o
      | (_, _, .wait s1) => s1
      | (_, _, .bad f s1) => bad s1 f
    let near := fun (n : Nat) => decide (offOf o.va % 4096 + n ≤ 8192)
    match fl.body with
    | .read _ _ len => got (if near len then readSpan s o o.va len none else readAt s o o.va len none)
    | .write _ _ d => put (writeSpan s o o.va d none [])
    | .atomic _ _ op x cmp => s.atomicAt o (atOf op) x cmp
    | .readVersion _ _ v len => got (readSpan s o o.va len (some v.toNat))
    | .writeVersion _ _ v d => put (writeSpan s o o.va d (some v.toNat) (s.peerMine fl))
    | .endVersion _ _ v =>
      if (s.peerMine fl).contains (k, v.toNat) ∧ !(((s.frame k).ver v.toNat).any (·.badWr)) then ((s.peerEnds fl k v).createVer k v.toNat).endOp o else s.endOp o
    | .dropVersion _ _ v => if (s.peerMine fl).contains (k, v.toNat) then ((s.peerEnds fl k v).abandonVer k v.toNat).endOp o else s.endOp o
    | .frameOp _ _ op v block => s.frameArrive o (frOf o.part op v.toNat block)
    | _ => s.endOp o

/-! ## Accesses (R123, R124, R280) -/

/-- MIT_BLOCK_ACCESS (R280): a plain element, or the next part of a card or collective, is performed. -/
def execMitBlockAccess (id : Nat) (s : State) : Out :=
  .next (match s.op id with
    | none => s
    | some o =>
      match o.kind with
      | .elem a => if a.ver.isNone then s.elemAccess o a else s
      | .card c true n b p => s.cardStep o c n b p
      | .coll c src r n => s.collStep o c src r n
      | .peer fl => s.peerStep o fl
      | _ => s)
/-- A versioned access of an operation reaches a directory: it arrives for the first time, or waits there already. -/
def State.versioned (s : State) (id : Nat) (wr again : Bool) : State :=
  match s.op id with
  | none => s
  | some o =>
    match o.kind with
    | .elem a => if a.ver.isSome && a.wr.isSome == wr && a.waits == again then s.elemAccess o a else s
    | .card c true n b p => if (if wr then c.dver else c.sver) then s.cardStep o c n b p else s
    | .coll c src r n => if (if wr then c.dver else c.sver) then s.collStep o c src r n else s
    | .frame (.wait v) true => if !wr && again then s.frameArrive o (.wait v) else s
    | .peer fl => if again then s.peerStep o fl else s
    | _ => s
/-- VERSIONED_WRITE_ARRIVE (R123). -/
def execVersionedWriteArrive (id : Nat) (s : State) : Out := .next (s.versioned id true false)
/-- VERSIONED_WRITE_RESUME (R123). -/
def execVersionedWriteResume (id : Nat) (s : State) : Out := .next (s.versioned id true true)
/-- VERSIONED_READ_ARRIVE (R124). -/
def execVersionedReadArrive (id : Nat) (s : State) : Out := .next (s.versioned id false false)
/-- VERSION_WAIT_SATISFIED (R124, R126). -/
def execVersionWaitSatisfied (id : Nat) (s : State) : Out := .next (s.versioned id false true)

end Sys2Proof.Machine
end

