-- ==== Sys2Proof/Machine/Penumbra.lean ====
section
/-! DEFINITION. The Penumbra: eviction of versions, their spills, and recomputes (R293 to R306, R382). -/
namespace Sys2Proof.Machine

/-! ## Eviction (R299, R300) -/

/-- A writer of a partition stalls for a slot, and none has become free for it (R123, R327). -/
def State.stalling (s : State) (p : PartId) : Bool := s.poolFree p == 0 && s.ops.any fun o => o.part == p && o.told
/-- Eviction is due: it is enabled, and free slots are below the low mark or a writer stalls. -/
def State.evictDue (s : State) (p : PartId) : Bool :=
  let c := (s.part p).penctl
  c.getLsbD 0 && (s.stalling p || decide (16 * s.poolFree p < bfld c 7 4 * bfld (s.part p).pooln 23 0))
/-- A spill of a partition is in progress: the directories evict one version at a time. -/
def State.spilling (s : State) (p : PartId) : Bool :=
  s.frames.any fun f => f.key.part == p && f.vers.any fun x => x.st == .resident && x.spill.isSome
/-- EVICT_DROP (R300): the version's bits are discarded and its slot is free. -/
def execEvictDrop (f : FrameKey) (v : Nat) (s : State) : Out :=
  .next (
    let fr := s.frame f
    match fr.ver v with
    | none => s
    | some x =>
      if !s.evictDue f.part || s.spilling f.part || !s.wouldDrop fr x then s
      else s.modVer f v fun x => { x with st := .dropped, slot := none, data := [], pois := [] })
/-- A directory's spill fails: a record names the version, and no spill of the partition starts until it is resolved. -/
def State.spillFault (s : State) (f : FrameKey) (v : Nat) (t : Flt) : State :=
  let (n, s1) := s.postAny f.part { kind := t.kind, gen := 13, aux := t.aux, va := w64 (f.fr.toNat * 4096), vwin := f.win, ver := w32 v }
  s1.addStop f.part { seq := n, kind := t.kind, what := .spill f.part, rkey := 0 }
/-- A record of a failed spill stands. -/
def State.spillHeld (s : State) (p : PartId) : Bool :=
  ((s.part p).stops ++ s.mstops).any fun r => r.what == .spill p
/-- A version's bytes with their poison. -/
def Ver.bytes (x : Ver) : List (Byte × Bool) := (memRead x.data 0 4096).zipIdx.map fun (b, i) => (b, setHas x.pois (i / 64))
/-- Sends bytes to a peer in n flits of 256 (R15); the numbers of their requests. -/
def State.sendCopy (s : State) (p : PartId) (a : Byte) (w : BitVec 16) (off : Nat) (d : List (Byte × Bool)) :
    Nat → Option (List Nat × State)
  | 0 => some ([], s)
  | n + 1 =>
    match s.fresh with
    | (id, s1) =>
      match s1.sendPeer p a (.write w (off48 off) ((d.take 256).map some)) id with
      | none => none
      | some s2 =>
        match s2.sendCopy p a w (off + 256) (d.drop 256) n with
        | none => none
        | some (l, s3) => some (id :: l, s3)
/-- EVICT_SPILL (R300): the version's 4,096 bytes are sent to a spill slot of the neighbour. -/
def execEvictSpill (f : FrameKey) (v : Nat) (s : State) : Out :=
  .next (
    let fr := s.frame f
    match fr.ver v with
    | none => s
    | some x =>
      if !s.evictDue f.part || s.spilling f.part || s.spillHeld f.part || !s.wouldSpill fr x then s
      else
        let place := s.spillPlace f.part ((s.spillFree f.part).getD 0)
        if !s.winServed f.part (vaOf place.1 (off48 place.2)) then s
        else match s.spillTarget f.part place .wr with
        | .error t => s.spillFault f v t
        | .ok (a, w, off) =>
          match s.sendCopy f.part a w off x.bytes 16 with
          | none => s.spillFault f v ⟨0x0B, 0⟩
          | some (ids, s2) => s2.modVer f v fun x => { x with spill := some place, spillIds := ids, spillVia := s.upPort.getD 0 })
/-- The neighbour has acknowledged the whole copy: the version is spilled, unless a hold has come meanwhile, which keeps it here (R298). -/
def State.spillDone (s : State) (f : FrameKey) (v : Nat) : State :=
  let fr := s.frame f
  match fr.ver v with
  | none => s
  | some x =>
    if x.st ≠ .resident ∨ x.spill.isNone then s
    else if evictable fr { x with spill := none } then s.modVer f v fun x => { x with st := .spilled, slot := none, spillIds := [] }
    else s.modVer f v fun x => { x with spill := none, spillIds := [] }
/-- The neighbour has acknowledged one flit of a copy (R300). -/
def State.spillPart (s : State) (f : FrameKey) (v id : Nat) : State :=
  let s1 := s.modVer f v fun x => { x with spillIds := x.spillIds.erase id }
  if (((s1.frame f).ver v).elim [] (·.spillIds)).isEmpty then s1.spillDone f v else s1
/-- SPILL_ACK (R300). -/
def execSpillAck (f : FrameKey) (v : Nat) (s : State) : Out := .next (s.spillDone f v)

/-! ## Recompute (R302 to R304) -/

/-- A request may start: none of its sources is dropped any more, and no record holds it. -/
def State.rcReady (s : State) (q : RcReq) : Bool :=
  !q.running && q.held.isNone && s.dropped q.frame q.v && (s.srcsOf q.frame q.v).all fun (k, v) => !s.dropped k v
/-- The tile that a request is to run on, as the tiles and PENCTL stand: a RETRY starts it on the tile that PENCTL names by then (R302). -/
def State.rcTile (s : State) (q : RcReq) : Nat := s.missTile q.frame.part q.tile
/-- A tile may run a recompute of a partition: it is on the fabric, enabled and owned by it (R302). -/
def State.rcTileOk (s : State) (p : PartId) (t : Nat) : Bool := decide (t < 1536) && !Config.disabled t && s.owner t == p
/-- The registers of a recompute task (R303). -/
def rcTask (r : Recipe) (f : FrameKey) (v : Nat) (start : Nat) (ph : BitVec 2) : Task :=
  let va := fun (k : FrameKey) => (.ofNat 80 (k.win.toNat * 2 ^ 64 + k.fr.toNat * 4096) : VAddr)
  let src := fun (j : Nat) => r.srcs[j]?
  { st := .ready, img := 15, high := true, phase := ph, pc := start
    g := Vector.ofFn fun (i : Fin 16) =>
      { val := if i.val < 4 then vget r.params i.val 0
          else if i.val < 8 then (match src (i.val - 4) with | some (_, u) => w64 u | none => 0)
          else if i.val = 8 then w64 v else if i.val = 9 then w64 r.srcs.length else 0 }
    b := Vector.ofFn fun (i : Fin 8) =>
      if i.val < 4 then (match src i.val with | some (k, _) => va k | none => 0) else if i.val = 4 then va f else 0 }
/-- RECOMPUTE_START (R302, R303): the first request of its tile that may start runs in slot 15. -/
def execRecomputeStart (id : Nat) (s : State) : Out :=
  .next (
    match s.rcReqs.find? fun q => q.id == id with
    | none => s
    | some q =>
      let t := s.rcTile q
      let first := (s.rcReqs.takeWhile fun z => z.id != id).all fun z => !(s.rcReady z && s.rcTile z == t)
      if !s.rcReady q || !first || (s.tile t).rc.isSome || s.owning t then s
      else if !s.rcTileOk q.frame.part t then
        let (n, s1) := s.post q.frame.part
          { kind := 0x22, gen := 13, va := w64 (q.frame.fr.toNat * 4096), vwin := q.frame.win, ver := w32 q.v }
        ({ s1 with rcReqs := s1.rcReqs.map fun (z : RcReq) => if z.id = id then { z with held := some n } else z }).addStop q.frame.part
          { seq := n, kind := 0x22, what := .recompute id, rkey := 0 }
      else
        match ((s.frame q.frame).ver q.v).bind (·.recipe) with
        | none => s
        | some r =>
          match s.slices.find? fun c => c.part == q.frame.part && c.id == r.slice with
          | none => s
          | some c =>
            let code := (fit (0 : Lane) 2048 c.words).map fun w => leBytes 4 w.toNat
            let ph := if (s.tile t).ph.toList.any (·.placed) then q.phase else 0
            let s1 := s.modTile t fun x => { x.clearRc with
              tasks := vset x.tasks 15 (rcTask r q.frame q.v c.start ph)
              spad := memWrite x.spad 0x7_8000 code.flatten
              marks := x.marks.filter fun a => !decide (0x7_8000 ≤ a ∧ a < 0x7_A000)
              rc := some { frame := q.frame, v := q.v, part := q.frame.part, data := [], cover := [] } }
            { s1 with rcReqs := s1.rcReqs.map fun (z : RcReq) => if z.id = id then { z with running := true, on := some t } else z })
/-- RECOMPUTE_END (R304): the task has come to its `end`; a refill that is whole makes the version resident. -/
def execRecomputeEnd (t : Nat) (s : State) : Out :=
  .next (
    match (s.tile t).rc with
    | none => s
    | some c =>
      if (s.task t 15).st ≠ .retired then s
      else if c.cover.length ≠ 4096 ∨ (s.tile t).rcWrite.cmds ≠ [] then s.rcFault t 0x1D 0 0
      else
        let held := ((s.rcReqs.find? fun q => q.running && q.on == some t).map (·.holds)).getD []
        let s1 := (s.endRc t).modVer c.frame c.v fun x =>
          { x with st := .resident, slot := c.slot, data := c.data, pois := c.pois }
        let s2 : State := { s1 with rcReqs := s1.rcReqs.filter fun q => !(q.running && q.on == some t) }
        State.tryRetire retireFuel (s2.unholdAll held) c.frame c.v)
/-- The recompute of a version is given up: the reads that wait for it are to fault, its holds end, and so do the requests of the chain
that have yet to start on it (R304, R362). -/
def State.cancelReq : Nat → State → RcReq → State
  | 0, s, _ => s
  | n + 1, s, q =>
    let s1 : State := { s with
      rcReqs := s.rcReqs.filter fun z => z.id != q.id
      ops := s.ops.map fun (o : Op) => if o.held.contains (q.frame, q.v) then { o with lost := some 0x14 } else o }
    let s2 := State.tryRetire retireFuel (s1.unholdAll q.holds) q.frame q.v
    let above := s2.rcReqs.filter fun z => !z.running && (s2.srcsOf z.frame z.v).contains (q.frame, q.v)
    above.foldl (fun s z => if s.rcReqs.any (fun y => y.id == z.id) then State.cancelReq n s z else s) s2

end Sys2Proof.Machine
end

