-- ==== Sys2Proof/Machine/Image.lean ====
section
/-! DEFINITION. Configuration images: their bytes, records and checks, the launch descriptor and the bind records (R58 to R62, R115, R116, R120, R203, R214, R297, R317, R319 to R321, R344). -/
namespace Sys2Proof.Machine

/-! ## Launch descriptors and commit requests (R317, R346) -/

/-- A field of a launch descriptor's word. -/
def dfld (d : BitVec 512) (word hi lo : Nat) : Nat := fld d.toNat (64 * word + hi) (64 * word + lo)
/-- Address of the image. -/
def descImage (d : BitVec 512) : VAddr := vaOf (.ofNat 16 (dfld d 0 63 48)) (.ofNat 48 (dfld d 0 47 0))
/-- A reserved field is nonzero (R317). -/
def descBadForm (d : BitVec 512) : Bool := dfld d 1 47 3 != 0 || dfld d 2 31 0 != 0 || dfld d 4 18 1 != 0
/-- Variants that FOLD or FOLDOK names: bit k for factor 2^k, zero for all. -/
def foldSet (x : Nat) : Nat := if x % 8 = 0 then 7 else x % 8
/-- Task slots of one phase (R321). -/
def shareTasks (fold : BitVec 2) : Nat := match fold.toNat with | 0 => 15 | 1 => 7 | _ => 3

/-! ## Reading an image (R340, R346) -/

/-- Why a read of an image ends before its end: a fault with its offset, or an MIT at which the partition's requests wait (R292). -/
inductive ImgEnd where
  | fault (f : Flt) (off : Nat)
  | waits
/-- k bytes of an image at a target, from an offset of its window, or why they are not read. Bytes outside this device's HBM are free
values (log 21). -/
def imgAt (s : State) (p : PartId) (off k : Nat) : Except Flt Target → Except ImgEnd (List Byte) × State
  | .error e => (.error (.fault e off), s)
  | .ok (.hbm pa) =>
    if !s.servedAll p pa k then (.error .waits, s)
    else if s.hbmBad pa k false then (.error (.fault ⟨0x0E, 0⟩ off), s)
    else (.ok (memRead s.hbm pa k), s)
  | .ok (.host _) => let (b, s1) := s.drawBytes k; (.ok b, s1)
  | .ok (.peer _ _ _) => if s.upPort.isNone then (.error (.fault ⟨0x0B, 0⟩ off), s) else let (b, s1) := s.drawBytes k; (.ok b, s1)
/-- A piece of an image that lies in one 64 KiB page, or why it is not read. -/
def imgPage (s : State) (p : PartId) (va : VAddr) (off k : Nat) : Except ImgEnd (List Byte) × State :=
  if 2 ^ 48 ≤ off then (.error (.fault ⟨0x01, 0⟩ off), s)
  else if s.walkServed dispatchTile p va then imgAt (s.translate dispatchTile p va false .rd).2 p off k (s.translate dispatchTile p va false .rd).1
  else (.error .waits, s)
/-- Reads n bytes of an image from an offset of its window, at most one 64 KiB page at a time: the bytes read, and why it ended early. -/
def imgBytes (s : State) (p : PartId) (win : BitVec 16) : Nat → Nat → Nat → List Byte × Option ImgEnd × State
  | 0, _, _ => ([], none, s)
  | f + 1, off, n =>
    if n = 0 then ([], none, s)
    else
      let k := min n (65536 - off % 65536)
      match imgPage s p (vaOf win (.ofNat 48 off)) off k with
      | (.error e, s1) => ([], some e, s1)
      | (.ok b, s1) =>
        let (l, e, s2) := imgBytes s1 p win f (off + k) (n - k)
        (b ++ l, e, s2)
/-- Pages that n bytes may touch. -/
def pageFuel (n : Nat) : Nat := n / 65536 + 2

/-! ## Records (R58 to R60) -/

/-- Every byte of a list is zero. -/
def allZero (l : List Byte) : Bool := l.all (· == 0)
/-- n bytes of a list from a place as a number. -/
def numAt (l : List Byte) (i n : Nat) : Nat := leNat ((l.drop i).take n)
/-- An error of a fetch: its kind and the record's index. -/
abbrev FetchErr := Byte × Nat
/-- Cuts an image into records (R58, R59), those before the first that cannot be cut off: a bad type, a nonzero reserved bit, a bad
length, or bytes after END or none before it fault IMAGE_FORMAT. -/
def imgRecs : Nat → Nat → List Byte → List ImgRec × Option FetchErr
  | 0, ix, _ => ([], some (0x30, ix))
  | f + 1, ix, l =>
    let h := numAt l 0 16
    let len := fld h 63 32
    let ty := fld h 7 0
    if l.length < 16 ∨ ty = 0 ∨ 0x0E < ty ∨ fld h 15 8 ≠ 0 ∨ fld h 31 19 ≠ 0 ∨ len % 16 ≠ 0 ∨ 0x8_0000 < len ∨
        (len = 0) ≠ (ty = 0x0E) ∨ l.length < 16 + len then ([], some (0x30, ix))
    else
      let r : ImgRec := {
        ty := .ofNat 8 ty, fold := .ofNat 3 (fld h 18 16), lx0 := .ofNat 8 (fld h 71 64), ly0 := .ofNat 8 (fld h 79 72)
        lx1 := .ofNat 8 (fld h 87 80), ly1 := .ofNat 8 (fld h 95 88), off := fld h 127 96, data := (l.drop 16).take len }
      let rest := l.drop (16 + len)
      if ty = 0x0E then (if rest.isEmpty then ([r], none) else ([r], some (0x30, ix)))
      else let (rs, e) := imgRecs f (ix + 1) rest; (r :: rs, e)
/-- A record holds a logical tile in its rectangle. -/
def ImgRec.covers (r : ImgRec) (lx ly : BitVec 8) : Bool :=
  decide (r.lx0.toNat ≤ lx.toNat ∧ lx.toNat ≤ r.lx1.toNat ∧ r.ly0.toNat ≤ ly.toNat ∧ ly.toNat ≤ r.ly1.toNat)
/-- A record belongs to a fold variant (R61). -/
def ImgRec.applies (r : ImgRec) (fold : BitVec 2) : Bool := (foldSet r.fold.toNat).testBit fold.toNat
/-- The items of a record. -/
def ImgRec.items (r : ImgRec) (n : Nat) : List (List Byte) := groupsOf n r.data.length r.data
/-- A byte of an item. -/
def ib (l : List Byte) (i : Nat) : Nat := (l.getD i 0).toNat

/-! ## Junction words (R115, R116) -/

/-- Input sides of a kind. -/
def juncIn : Nat → List Nat
  | 0x2 => [0, 1] | 0x3 => [0, 3] | 0x4 => [0, 1, 3] | 0x6 => [] | 0x7 => [0, 2, 3] | 0x9 => [0, 2, 3] | _ => [0]
/-- Output sides of a junction word. -/
def juncOut (w : Nat) : List Nat :=
  match fld w 63 60 with
  | 0x1 => [1, 2, 3].filter fun k => (fld w 59 57).testBit (k - 1)
  | 0x2 => [2] | 0x3 => [1, 2] | 0x4 => [2] | _ => [1]
/-- Element types that a convert junction may name: every listed one of R42 that has a numeric value. -/
def cvtEtype (x : Nat) : Bool := match etypeOf x with | some .cb2 => false | some .untyped => false | some _ => true | none => false
/-- A junction word is well-formed (R116, R157). -/
def juncOk (w : Nat) : Bool :=
  let z := fun (hi lo : Nat) => fld w hi lo == 0
  match fld w 63 60 with
  | 0x0 => z 59 0
  | 0x1 => fld w 59 57 != 0 && z 56 0
  | 0x2 => z 35 0 && (fld w 59 58 != 2 || (fld w 57 50 != 0 && fld w 49 42 != 0))
  | 0x3 => z 53 0
  | 0x4 => z 59 0
  | 0x5 => z 52 0
  | 0x6 => z 27 0
  | 0x7 => cvtEtype (fld w 59 56) && cvtEtype (fld w 55 52) && decide (fld w 51 49 ≤ 4) && z 47 0 &&
      !(fld w 51 49 == 4 && srRefused (EType.dec (fld w 59 56)) (EType.dec (fld w 55 52)))
  | 0x8 => fld w 59 56 != 0 && decide (fld w 55 54 ≤ 1) && z 46 32
  | 0x9 => fld w 59 52 != 0 && decide (fld w 51 44 ≤ fld w 59 52) && z 43 0
  | 0xA => fld w 53 48 != 0 && z 47 0
  | _ => false

/-! ## Checks of one record (R60, R62, R120, R203, R214, R297) -/

/-- The first fault among tests: a kind and whether it holds. -/
def firstBad (l : List (Byte × Bool)) : Option Byte := (l.find? fun x => x.2).map (·.1)
/-- The slices of a RECIPE record: id, entry and words, or the kind of its fault (R297). -/
def sliceParse : Nat → List Byte → Except Byte (List (BitVec 16 × Nat × List Lane))
  | 0, _ => .ok []
  | f + 1, l =>
    if l.isEmpty then .ok []
    else
      let n := numAt l 2 2
      let len := (4 * n + 15) / 16 * 16
      let words := (upTo n).map fun i => (.ofNat 32 (numAt l (16 + 4 * i) 4) : Lane)
      match firstBad [(0x30, l.length < 16 || !allZero ((l.drop 6).take 10)), (0x31, n == 0 || decide (2048 < n) || decide (n ≤ numAt l 4 2)),
          (0x30, decide (l.length < 16 + len) || !allZero ((l.drop (16 + 4 * n)).take (len - 4 * n)))] with
      | some k => .error k
      | none =>
        match sliceParse f (l.drop (16 + len)) with
        | .ok rs => .ok ((.ofNat 16 (numAt l 0 2), numAt l 4 2, words) :: rs)
        | .error k => .error k
/-- The slices of a record, none where it is malformed. -/
def ImgRec.slices (r : ImgRec) : List (BitVec 16 × Nat × List Lane) := match sliceParse r.data.length r.data with | .ok l => l | .error _ => []
/-- The regions of a FRAME record (R120). -/
def ImgRec.frames (r : ImgRec) (p : PartId) : List VRegion :=
  (r.items 32).map fun l =>
    { part := p, win := .ofNat 16 (numAt l 0 2), base := numAt l 2 6 / 4096, count := numAt l 8 4
      recomp := (ib l 12).testBit 0, init := (ib l 12).testBit 1, nospill := (ib l 12).testBit 2 }
/-- A ring's byte range (R203). -/
def ringSpan (l : List Byte) : Nat × Nat := (numAt l 4 2 * 64, numAt l 4 2 * 64 + 1536 * ib l 6)
/-- The fault of one item of a record. The model's own readings are in log 54: the initial ACR has no bits but 2:0, and an endpoint of a
circuit faces the way its end needs, with a side byte of 0 to 3. A FRAME region that passes 2^48 is a fault of range, which R120's list does
not name (the model's choice, log 58). -/
def itemBad (ty : Nat) (w h : Nat) (l : List Byte) : Option Byte :=
  match ty with
  | 0x03 => firstBad [(0x30, decide (1 < ib l 0) || !allZero ((l.drop 1).take 3) || decide (7 < numAt l 4 4) || !allZero (l.drop 8))]
  | 0x06 => firstBad [(0x30, decide (1 < ib l 1) || decide (3 < ib l 3) || !allZero (l.drop 6)), (0x31, decide (14 < ib l 0) || decide (7 < ib l 2))]
  | 0x07 => firstBad [(0x30, decide (3 < ib l 1) || decide (3 < ib l 2) || !allZero (l.drop 3)), (0x31, decide (15 < ib l 0))]
  | 0x08 => firstBad [(0x30, !allZero ((l.drop 1).take 7) || !juncOk (numAt l 8 8)), (0x31, decide (7 < ib l 0))]
  | 0x09 => firstBad [(0x30, !allZero (l.drop 10)),
      (0x31, decide (w ≤ ib l 2) || decide (h ≤ ib l 3) || decide (w ≤ ib l 6) || decide (h ≤ ib l 7) ||
        decide (ib l 4 < 8) || decide (0x17 < ib l 4) || decide (0x17 < ib l 8) || decide (8 ≤ ib l 8 ∧ ib l 8 < 16) ||
        decide (3 < ib l 5) || decide (3 < ib l 9))]
  | 0x0A => firstBad [(0x30, ib l 1 / 8 % 16 != 0 || decide (1 < ib l 2) || ib l 3 != 0 || !allZero (l.drop 7)),
      (0x31, decide (3 < ib l 0) || decide (0x7_8000 < (ringSpan l).2) || ib l 6 == 0)]
  | 0x0B => firstBad [(0x30, decide (7 < ib l 12) || !allZero (l.drop 13)),
      (0x31, numAt l 2 6 % 4096 != 0 || numAt l 8 4 == 0 || decide (2 ^ 24 < numAt l 8 4) || decide (2 ^ 48 < numAt l 2 6 + 4096 * numAt l 8 4))]
  | 0x0D => firstBad [(0x30, (l.take 8).any (fun b => b.toNat / 8 % 16 != 0) || !allZero (l.drop 8))]
  | _ => none
/-- Bytes of an item of a type. -/
def itemLen (ty : Nat) : Nat := if ty = 0x0B then 32 else 16
/-- The fault of a record of a graph of w by h tiles, whatever its variant. A rectangle whose first row or column lies past its last
covers no tile, and is no fault; a rectangle or OFFSET that is to be zero and is not is a fault of format (log 54). -/
def ImgRec.bad (r : ImgRec) (w h : Nat) : Option Byte :=
  let ty := r.ty.toNat
  let whole := ty == 0x09 || ty == 0x0B || ty == 0x0C
  let rect := r.lx0.toNat + r.ly0.toNat + r.lx1.toNat + r.ly1.toNat
  match firstBad [
    (0x30, whole && rect != 0), (0x30, r.off != 0 && ty != 4 && ty != 5),
    (0x30, (ty == 0x03 || ty == 0x0D) && r.data.length != 16), (0x30, ty == 0x0B && r.data.length % 32 != 0),
    (0x31, !whole && (decide (w ≤ r.lx0.toNat) || decide (w ≤ r.lx1.toNat) || decide (h ≤ r.ly0.toNat) || decide (h ≤ r.ly1.toNat))),
    (0x31, ty == 4 && decide (8192 < r.off + r.data.length / 4)), (0x31, ty == 5 && decide (0x7_8000 < r.off + r.data.length))] with
  | some k => some k
  | none =>
    if ty = 0x0C then (match sliceParse r.data.length r.data with | .error k => some k | .ok _ => none)
    else ((r.items (itemLen ty)).filterMap (itemBad ty w h)).head?

/-! ## Graphs (R58, R60) -/

/-- What a GRAPH record states. -/
structure GraphInfo where
  w : Nat
  h : Nat
  folds : Nat
  seed : DWord
  alpha : Lane
  beta : Lane
  bound : Lane
  id : BitVec 32
  deriving DecidableEq, Repr

/-- A GRAPH record read. -/
def graphInfo (l : List Byte) : GraphInfo :=
  { w := numAt l 0 2, h := numAt l 2 2, folds := foldSet (ib l 4), seed := .ofNat 64 (numAt l 8 8), alpha := .ofNat 32 (numAt l 16 4)
    beta := .ofNat 32 (numAt l 20 4), bound := .ofNat 32 (numAt l 24 4), id := .ofNat 32 (numAt l 28 4) }
/-- A term of the error estimate is refused (R241): negative, NaN, or infinite where that is not allowed. -/
def termBad (infOk : Bool) (x : Nat) : Bool :=
  let m := x % 2 ^ 31
  decide (0x7F80_0000 < m) || (decide (2 ^ 31 ≤ x) && m != 0) || (!infOk && m == 0x7F80_0000)
/-- The fault of a record of image scope or of a GRAPH record: a bad magic, version, rectangle or OFFSET is a fault of format, a width or
height outside 1 to 255 one of range (log 54). -/
def headBad (r : ImgRec) : Option Byte :=
  let l := r.data
  let rect := r.lx0.toNat + r.ly0.toNat + r.lx1.toNat + r.ly1.toNat + r.off
  match r.ty.toNat with
  | 0x01 => firstBad [(0x30, rect != 0 || l.length != 32 || numAt l 0 4 != 0x4B58_494D || numAt l 4 2 != 1 || !allZero (l.drop 20))]
  | 0x02 => firstBad [(0x30, rect != 0 || l.length != 64 || decide (7 < ib l 4) || !allZero ((l.drop 5).take 3) || !allZero (l.drop 32) ||
        termBad false (numAt l 16 4) || termBad false (numAt l 20 4) || termBad true (numAt l 24 4)),
      (0x31, numAt l 0 2 == 0 || decide (255 < numAt l 0 2) || numAt l 2 2 == 0 || decide (255 < numAt l 2 2))]
  | _ => firstBad [(0x30, rect != 0)]
/-- Checks the records after IMAGE in order, those of every graph and of every variant; the graph in force and the graphs left say what
may come (R58, R62). -/
def checkRecs : Option GraphInfo → Nat → Nat → List ImgRec → Option FetchErr
  | _, left, ix, [] => if left = 0 then none else some (0x30, ix)
  | g, left, ix, r :: rs =>
    let bad := match r.ty.toNat with
      | 0x01 => some 0x30
      | 0x02 => if left = 0 then some 0x30 else headBad r
      | 0x0E => if left ≠ 0 then some 0x30 else headBad r
      | _ => match g with
        | none => some 0x30
        | some g => r.bad g.w g.h
    match bad with
    | some k => some (k, ix)
    | none => if r.ty.toNat = 2 then checkRecs (some (graphInfo r.data)) (left - 1) (ix + 1) rs else checkRecs g left (ix + 1) rs
/-- The records of a graph, with their places in the image: those after its GRAPH record, up to the next one or END. FOLD in the header of an
IMAGE, GRAPH or END record selects nothing: such a record stands for every variant (the model's choice, log 58). -/
def graphRecs : Nat → List (ImgRec × Nat) → Option (GraphInfo × List (ImgRec × Nat))
  | _, [] => none
  | k, (r, _) :: rs =>
    if r.ty.toNat ≠ 2 then graphRecs k rs
    else match k with
      | 0 => some (graphInfo r.data, rs.takeWhile fun x => x.1.ty.toNat != 2 && x.1.ty.toNat != 0x0E)
      | k + 1 => graphRecs k rs
/-- CRC-32C of bytes (log 14). -/
def crc32c (l : List Byte) : Nat := (l.foldl (fun a b => crcByte a b.toNat) 0xFFFF_FFFF) ^^^ 0xFFFF_FFFF

/-! ## Checks against the variant and the partition (R62, R120, R203, R297, R321) -/

/-- The junction word that an image gives a slot of a logical tile; a pass junction where no record configures it (R62, R116). -/
def juncWordOf (rs : List ImgRec) (lx ly : BitVec 8) (j : Nat) : Nat :=
  rs.foldl (fun w r => if r.ty.toNat = 8 ∧ r.covers lx ly = true then
    (r.items 16).foldl (fun w l => if ib l 0 = j then numAt l 8 8 else w) w else w) 0
/-- A circuit's ends attach to sides that their junctions use. -/
def circuitBad (rs : List ImgRec) (l : List Byte) : Bool :=
  let at_ := fun (i : Nat) => juncWordOf rs (.ofNat 8 (ib l (i - 2))) (.ofNat 8 (ib l (i - 1))) (ib l i % 8)
  (decide (16 ≤ ib l 4) && !setHas (juncOut (at_ 4)) (ib l 5)) ||
  (decide (16 ≤ ib l 8) && !setHas (juncIn (fld (at_ 8) 63 60)) (ib l 9))
/-- The rings that an image gives a logical tile, the last record of each. -/
def ringsOf (rs : List ImgRec) (lx ly : BitVec 8) : List (Nat × List Byte) :=
  rs.foldl (fun a r => if r.ty.toNat = 0x0A ∧ r.covers lx ly = true then (r.items 16).foldl (fun a l => alSet a (ib l 0) l) a else a) []
/-- Two rings of a logical tile overlap. -/
def ringsClash (l : List (Nat × List Byte)) : Bool :=
  l.any fun (i, x) => l.any fun (j, y) => i != j && decide ((ringSpan x).1 < (ringSpan y).2 ∧ (ringSpan y).1 < (ringSpan x).2)
/-- A record that gives a logical tile a ring leaves two of its rings overlapping, given the records before it (R203). -/
def ImgRec.clashes (r : ImgRec) (before : List ImgRec) : Bool :=
  (upFrom r.ly0.toNat (r.ly1.toNat + 1 - r.ly0.toNat)).any fun y => (upFrom r.lx0.toNat (r.lx1.toNat + 1 - r.lx0.toNat)).any fun x =>
    ringsClash (ringsOf (before ++ [r]) (.ofNat 8 x) (.ofNat 8 y))
/-- The first record of a graph that breaks a rule over several records in a variant that the graph carries: a circuit at a side that its
junction does not use, or rings that overlap (R62, R115, R203). -/
def graphBad (folds : Nat) (all : List ImgRec) : List ImgRec → List (ImgRec × Nat) → Option FetchErr
  | _, [] => none
  | before, (r, ix) :: rs =>
    let bad := (upTo 3).any fun f => folds.testBit f && r.applies (.ofNat 2 f) &&
      ((r.ty.toNat == 9 && (r.items 16).any (circuitBad (all.filter fun q => q.applies (.ofNat 2 f)))) ||
       (r.ty.toNat == 0x0A && r.clashes (before.filter fun q => q.applies (.ofNat 2 f))))
    if bad then some (0x31, ix) else graphBad folds all (before ++ [r]) rs
/-- The same of the first n graphs of an image. -/
def graphsBad (rs : List (ImgRec × Nat)) : Nat → Option FetchErr
  | 0 => none
  | n + 1 =>
    match graphsBad rs n with
    | some e => some e
    | none => match graphRecs n rs with | none => none | some (g, l) => graphBad g.folds (l.map (·.1)) [] l
/-- Two declarations of versioned regions overlap and differ (R120). -/
def vregClash (a b : VRegion) : Bool :=
  a.part == b.part && a.win == b.win && a != b && decide (a.base < b.base + b.count ∧ b.base < a.base + a.count)
/-- The fault of a record under a variant and a partition's registrations, given the records before it. -/
def variantBad (s : State) (p : PartId) (fold : BitVec 2) (before : List ImgRec) (r : ImgRec) : Option Byte :=
  let bad : Bool := match r.ty.toNat with
    | 0x04 => decide (shareWords fold < r.off + r.data.length / 4)
    | 0x05 => decide (shareBytes fold < r.off + r.data.length)
    | 0x06 => (r.items 16).any fun l => decide (shareTasks fold ≤ ib l 0)
    | 0x0A => (r.items 16).any fun l => decide (shareBytes fold < (ringSpan l).2)
    | 0x0B =>
      let new := r.frames p
      new.any fun f => (s.vregs ++ new ++ (before.map fun b => if b.ty.toNat = 0x0B then b.frames p else []).flatten).any (vregClash f)
    | 0x0C =>
      let old := ((s.slices.filter fun c => c.part == p).map fun c => (c.id, c.words)) ++
        ((before.map fun b => if b.ty.toNat = 0x0C then b.slices.map fun x => (x.1, x.2.2) else []).flatten) ++ r.slices.map fun x => (x.1, x.2.2)
      r.slices.any fun x => old.any fun y => y.1 == x.1 && y.2 != x.2.2
    | _ => false
  if bad then some 0x31 else none
/-- The first fault of the records that apply. -/
def variantCheck (s : State) (p : PartId) (fold : BitVec 2) : List ImgRec → List (ImgRec × Nat) → Option FetchErr
  | _, [] => none
  | before, (r, ix) :: rs =>
    match variantBad s p fold before r with
    | some k => some (k, ix)
    | none => variantCheck s p fold (before ++ [r]) rs

/-! ## Bind records (R319 to R321) -/

/-- The entries of the slot table that name a region and generation: tile, phase and entry. -/
def State.bindEnts (s : State) (p : PartId) (rg : BitVec 16) (gen : BitVec 32) : Except Flt (List (Nat × BitVec 2 × Nat)) :=
  let base := fld (s.part p).slottab.toNat 47 16 * 65536
  (upTo 6144).foldr (fun i acc =>
    match acc with
    | .error f => .error f
    | .ok l =>
      match s.ipaNum p (base + 16 * i) 16 with
      | .error f => .error f
      | .ok e => .ok (if e.testBit 0 ∧ fld e 63 48 = rg.toNat ∧ fld e 127 96 = gen.toNat then (i / 4, .ofNat 2 i, e) :: l else l)) (.ok [])
/-- A bind record as dispatch holds it. -/
def bindOf (x : Nat × BitVec 2 × Nat) : Bind :=
  { tile := x.1, ph := x.2.1, lx := .ofNat 8 (fld x.2.2 23 16), ly := .ofNat 8 (fld x.2.2 31 24), tmask := .ofNat 16 (fld x.2.2 95 80) }
/-- The fold factor that all entries share; none where they differ, name the reserved one, or are none. -/
def foldOf (l : List (Nat × BitVec 2 × Nat)) : Option (BitVec 2) :=
  match l with
  | [] => none
  | x :: r => if fld x.2.2 2 1 ≤ 2 ∧ r.all (fun y => fld y.2.2 2 1 == fld x.2.2 2 1) = true then some (.ofNat 2 (fld x.2.2 2 1)) else none
/-- The entries pass the checks of R320 and R321 that need no image. -/
def State.bindsOk (s : State) (p : PartId) (fold : BitVec 2) (l : List (Nat × BitVec 2 × Nat)) : Bool :=
  let bs := l.map bindOf
  let pops := fun (m : BitVec 16) => popN 16 m.toNat
  l.all (fun (t, ph, e) => !Config.disabled t && s.owner t == p && !s.owning t && fld e 69 64 == p.toNat &&
    fld e 4 3 == ph.toNat && decide (ph.toNat < 2 ^ fold.toNat)) &&
  decide ((bs.map fun b => (b.lx, b.ly)).Nodup) &&
  bs.all (fun b => !tbit b.tmask 15 && pops b.tmask == shareTasks fold &&
    bs.all fun c => c == b || c.tile != b.tile || (c.tmask &&& b.tmask) == 0)
/-- The entries place a graph: every logical tile once, in a variant that the image carries and FOLDOK allows (R320). -/
def bindsFit (g : GraphInfo) (ok : Nat) (fold : BitVec 2) (l : List (Nat × BitVec 2 × Nat)) : Bool :=
  let bs := l.map bindOf
  ok.testBit fold.toNat && decide (bs.length = g.w * g.h) && bs.all (fun b => decide (b.lx.toNat < g.w ∧ b.ly.toNat < g.h))

/-! ## Routes (R343, R344) -/

/-- The entries of a route list, as many as there are circuits: circuit id and hop bytes. An entry with a hop count above 255 is none
(R344). -/
def State.routeList (s : State) (p : PartId) : Nat → Nat → Except Flt (List (BitVec 16 × List Byte))
  | _, 0 => .ok []
  | ipa, n + 1 =>
    match s.ipaNum p ipa 4 with
    | .error f => .error f
    | .ok h =>
      let k := fld h 31 16
      let bytes : Except Flt (List Byte) := (upTo (min k 255)).foldr (fun i (acc : Except Flt (List Byte)) => match acc, s.ipaNum p (ipa + 4 + i) 1 with
        | .ok l, .ok b => .ok (.ofNat 8 b :: l)
        | .error f, _ => .error f
        | _, .error f => .error f) (.ok [])
      match bytes with
      | .error f => .error f
      | .ok b =>
        match State.routeList s p (ipa + (4 + k + 7) / 8 * 8) n with
        | .error f => .error f
        | .ok l => .ok (if 255 < k then l else (.ofNat 16 (fld h 15 0), b) :: l)
/-- The tile that a hop leads to from a tile; none off the fabric. -/
def hopTo (t : Nat) (h : Byte) : Option Nat :=
  match fld h.toNat 7 6 with
  | 0 => if t % 48 + 1 < 48 then some (t + 1) else none
  | 1 => if t / 48 + 1 < 32 then some (t + 48) else none
  | 2 => if 0 < t % 48 then some (t - 1) else none
  | _ => if 0 < t / 48 then some (t - 48) else none
/-- The tiles that hops pass from a tile on; none where one leaves the fabric. -/
def hopTiles : Nat → List Byte → Option (List Nat)
  | _, [] => some []
  | t, h :: r => match hopTo t h with | none => none | some u => (hopTiles u r).map fun l => u :: l
/-- The edge, direction, stream and channel that each hop of a route uses, with the tile it leaves. -/
def hopUses (t : Nat) (hs : List Byte) : List (Nat × Byte) :=
  (t :: (hopTiles t hs).getD []).zip hs
/-- The circuits of an image's records on their bind records, without routes; an item that is no circuit at all is left to the checks of
its record. -/
def circuitsOf (w h : Nat) (rs : List ImgRec) (bs : List Bind) : List Circuit :=
  let end_ := fun (l : List Byte) (i : Nat) =>
    let lx : BitVec 8 := .ofNat 8 (ib l i)
    let ly : BitVec 8 := .ofNat 8 (ib l (i + 1))
    let b := bs.find? fun b => b.lx == lx && b.ly == ly
    ({ lx := lx, ly := ly, ep := .ofNat 8 (ib l (i + 2)), side := .ofNat 2 (ib l (i + 3)), tile := (b.map (·.tile)).getD 0, ph := (b.map (·.ph)).getD 0 } : CEnd)
  (rs.map fun r => if r.ty.toNat = 9 then ((r.items 16).filter fun l => (itemBad 9 w h l).isNone).map fun l =>
    ({ id := .ofNat 16 (numAt l 0 2), src := end_ l 2, dst := end_ l 6, hops := [] } : Circuit) else []).flatten
/-- Virtual channel of an input port by the PORT records. -/
def portVc (rs : List ImgRec) (lx ly : BitVec 8) (p : Nat) : Nat :=
  rs.foldl (fun v r => if r.ty.toNat = 7 ∧ r.covers lx ly = true then (r.items 16).foldl (fun v l => if ib l 0 = p then ib l 1 else v) v else v) 0
/-- A circuit's route is refused (R344), given the uses of other circuits: those of committed regions, and those before it in its own. -/
def State.routeBad (s : State) (p : PartId) (rs : List ImgRec) (used : List (Nat × Byte)) (c : Circuit) : Bool :=
  match hopTiles c.src.tile c.hops with
  | none => true
  | some ts =>
    c.hops.any (fun h => h.toNat % 4 != 0) || ts.any (fun t => s.owner t != p || s.owning t) || (ts.getLast?).getD c.src.tile != c.dst.tile ||
    (match c.hops.getLast? with
     | some h => decide (c.dst.ep.toNat < 8) && fld h.toNat 3 2 != portVc rs c.dst.lx c.dst.ly c.dst.ep.toNat
     | none => false) ||
    (hopUses c.src.tile c.hops).any (used.contains ·)
/-- The first circuit whose route is refused. -/
def State.routesBad (s : State) (p : PartId) (rs : List ImgRec) : List (Nat × Byte) → List Circuit → Option (BitVec 16)
  | _, [] => none
  | used, c :: l => if s.routeBad p rs used c then some c.id else State.routesBad s p rs (hopUses c.src.tile c.hops ++ used) l
/-- Uses of the circuits of every committed region. -/
def State.hopsUsed (s : State) : List (Nat × Byte) :=
  ((s.regions.filter fun r => r.st != .fetched).map fun r => (r.circs.map fun c => hopUses c.src.tile c.hops).flatten).flatten

end Sys2Proof.Machine
end

