-- ==== Sys2Proof/Machine/Syn.lean ====
section
/-! DEFINITION. The syntax engines: the tokens of a job, their pushes, and the job's end (R227 to R235, R322, R349). -/
namespace Sys2Proof.Machine

open Config (SynTool SynMode SynPlane SynBlock SynPic SynProfile SynChroma)

/-- What a syntax engine gives next: a token, which begins a picture or not, or a fault with its byte index, the place of its picture
among those of the parse, and the picture's PIC. -/
inductive SynOut where
  | tok (x : Token) (pic : Bool)
  | err (kind : Byte) (at_ ix pic : Nat)
  deriving DecidableEq, Repr

/-- A data token of sixteen valid lanes. -/
def recTok (l : List Nat) : Token := ⟨.ofNat 512 (unchunk 32 (fit 0 16 l)), 0xFFFF, 0, 0, .data⟩

/-! ## Pictures and blocks (R227, R228, R233 to R235) -/

/-- Width or height of a picture in cells, rounded up, in 16 bits (R233). -/
def cellCount (n : Nat) : Nat := (n + 3) / 4 % 65536
/-- A picture declares a profile, level, bit depth or chroma format beyond the table of R227; every tier is in it. -/
def beyond (p : SynPic) : Bool :=
  (match p.profile with
   | .hevcMain | .hevcMain10 | .hevcStill => decide (62 < p.level)
   | .av1Main => decide (63 < p.level)
   | .other => true) || (p.depth != 8 && p.depth != 10) || p.chroma == .other
/-- A picture record (R234): MODE 0 when every block of the picture is intra. -/
def picRec (p : SynPic) (pic : Nat) : Token :=
  recTok [0, (!(p.blocks.all fun b => b.mode == .intra)).toNat * 256, 0, 0, 0, 0, 0, 0, 0, 0, 0, 0, 0,
    cellCount p.height * 65536 + cellCount p.width, pic, 0]
/-- REASON of a tool (R228). -/
def toolReason : SynTool → Nat
  | .globalMotion => 1 | .localWarp => 1 | .obmc => 2 | .scaledRef => 5 | _ => 3
/-- A block has a second vector. -/
def twoMv (b : SynBlock) : Bool := b.bi && b.mode != .intra
/-- A component of a block's vectors in 1/16 sample: HEVC's quarter samples times 4, AV1's eighth samples times 2 (R233). -/
def scaledMv (av1 : Bool) (b : SynBlock) (k : Nat) : Int := vget b.mv k 0 * (if av1 then 2 else 4)
/-- Components of the vectors that a block has. -/
def mvsOf (b : SynBlock) : List Nat := if b.mode = .intra then [] else if b.bi then [0, 1, 2, 3] else [0, 1]
/-- REASON of a block, 0 where it needs no refresh: of several causes the one of the lowest code (R228, log 55). -/
def reasonOf (av1 : Bool) (b : SynBlock) : Nat :=
  let big := (mvsOf b).any fun k => decide (scaledMv av1 b k < -32768 ∨ 32767 < scaledMv av1 b k)
  (b.tools.map toolReason ++ if big then [4] else []).foldl min 8 % 8
/-- MODE of a block (R233). -/
def modeOf (av1 : Bool) (b : SynBlock) : Nat :=
  if reasonOf av1 b ≠ 0 then 3 else match b.mode with | .intra => 0 | .inter => 1 | .skip => 2
/-- A lane of two motion components, zero in a refresh-required block (R228). -/
def mvLane (av1 : Bool) (b : SynBlock) (k : Nat) : Nat :=
  if reasonOf av1 b ≠ 0 ∨ !(mvsOf b).contains k then 0 else unsgn 16 (scaledMv av1 b (k + 1)) * 65536 + unsgn 16 (scaledMv av1 b k)
/-- Log2 of a transform's points as its coded region has them: 64 points count as 32 (R233). -/
def codedLog (n : Nat) : Nat := max 2 (min n 5)
/-- Tokens of a transform block: one for each 4 × 4 subblock (R235). -/
def tbTokens (p : SynPlane) : Nat := 2 ^ (codedLog p.tlw - 2) * 2 ^ (codedLog p.tlh - 2)
/-- A plane has a nonzero coefficient (R233); a skip block has none. -/
def codedPlane (b : SynBlock) (p : SynPlane) : Bool :=
  b.mode != .skip && p.tbs.any fun t => (t.getD []).any fun v => v.toList.any (· != 0)
/-- The subblocks of a plane's n transform blocks in raster order: of an uncoded block in a coded plane zeros, of an uncoded plane none
(R235, log 55). -/
def planeLevels (b : SynBlock) (p : SynPlane) (n : Nat) : List (Vector (BitVec 16) 16) :=
  if !codedPlane b p then []
  else ((fit none n p.tbs).map fun t => fit (Vector.replicate 16 0) (tbTokens p) (t.getD [])).flatten
/-- Log2 of a block's width or height in samples, 2 to 7. -/
def blockLog (n : Nat) : Nat := max 2 (min n 7)
/-- Transform blocks that tile a block's rectangle (R233). -/
def lumaTbs (b : SynBlock) : Nat := 2 ^ (blockLog b.log2w - b.luma.tlw) * 2 ^ (blockLog b.log2h - b.luma.tlh)
/-- Coefficient tokens of a block: luma, then Cb and Cr under CHROMA (R232, R235). -/
def synLevels (chroma : Bool) (b : SynBlock) : List Token :=
  (planeLevels b b.luma (lumaTbs b) ++
    if chroma then planeLevels b b.cb b.cb.tbs.length ++ planeLevels b b.cr b.cr.tbs.length else []).map fun l =>
      recTok (l.toList.map fun x => unsgn 32 x.toInt)
/-- HEVC's levelScale, as its specification tabulates it (log 55). -/
def levelScale (k : Nat) : Nat := [40, 45, 51, 57, 64, 72].getD k 0
/-- A step code: exponent and mantissa (R235). -/
def stepCode (xs : Int) (ms : Nat) : Nat := unsgn 6 xs * 65536 + ms % 65536
/-- DC and AC step codes of a plane (R235). -/
def stepsOf (depth : Nat) (p : SynPlane) : List Nat :=
  match p.quant with
  | .hevc qp =>
    let x := stepCode (36 + (qp / 6 : Nat) - ((depth : Int) + (p.tlw : Int) - 5)) (levelScale (qp % 6))
    [x, x]
  | .av1 dc ac sh => [stepCode (32 - (sh : Int)) dc.toNat, stepCode (32 - (sh : Int)) ac.toNat]
/-- A block record (R233). -/
def blockRec (av1 chroma : Bool) (p : SynPic) (pic : Nat) (b : SynBlock) : Token :=
  let f := fun (x : SynPlane) => (codedPlane b x).toNat
  recTok ([b.y.toNat * 65536 + b.x.toNat,
    (if av1 then b.qp.toNat else b.qp.toNat % 64) * 2 ^ 24 + reasonOf av1 b * 2 ^ 19 + (f b.cr * 4 + f b.cb * 2 + f b.luma) * 2 ^ 16 +
      (codedLog b.luma.tlh - 2) * 2 ^ 14 + (codedLog b.luma.tlw - 2) * 2 ^ 12 + (twoMv b).toNat * 2 ^ 10 + modeOf av1 b * 256 +
      blockLog b.log2h * 16 + blockLog b.log2w] ++
    stepsOf p.depth b.luma ++ stepsOf p.depth b.cb ++ stepsOf p.depth b.cr ++
    [mvLane av1 b 0, mvLane av1 b 2, b.ref1.toNat * 2 ^ 19 + b.ref0.toNat * 2 ^ 16 + (synLevels chroma b).length % 65536, 0, 0,
     cellCount p.height * 65536 + cellCount p.width, pic, 0])
/-- The tokens of a picture, in the order of R232. -/
def picToks (av1 chroma : Bool) (p : SynPic) (pic : Nat) : List SynOut :=
  .tok (picRec p pic) true ::
    (p.blocks.map fun b => .tok (blockRec av1 chroma p pic b) false :: (synLevels chroma b).map fun x => .tok x false).flatten

/-! ## The pictures of a job (R230, R231) -/

/-- What a job carries through its pictures: the place in the parse, whether it looks for a random-access picture and does so at its
start, whether RASL pictures are skipped, and the pictures it has given. -/
structure SynScan where
  ix   : Nat := 0
  seek : Bool
  new  : Bool := true
  rasl : Bool := false
  n    : Nat := 0
  deriving DecidableEq, Repr

/-- The pictures that a job takes, each with its last byte, whether RASL pictures are skipped after it, and what it gives: to the first
fault that no ALT has passed, to PICS pictures, or to the end of the pattern. Under a search the pictures before the next random-access
picture give nothing, and at a job's start its RASL pictures are skipped. -/
def synRuns (j : SynJob) (pic0 : Nat) : SynScan → List SynPic → List (Nat × Bool × List SynOut)
  | _, [] => []
  | a, p :: r =>
    if j.pics ≠ 0 ∧ j.pics ≤ a.n then []
    else
      let pic := (pic0 + a.n) % 2 ^ 32
      let past := setHas j.passed a.ix
      let again := fun (l : List SynOut) (n : Nat) => (p.ends, false, l) :: synRuns j pic0 { ix := a.ix + 1, seek := true, new := false, n := n } r
      let mute := (a.seek && !p.rap) || (a.rasl && p.rasl && !p.rap)
      let toks := if mute then [] else picToks j.av1 j.chroma p pic
      if !mute && beyond p then (if past then again [] a.n else [(p.ends, a.rasl, [.err 0x28 p.start a.ix pic])])
      else match p.stop with
        | some (cut, i) => if past then again toks (if mute then a.n else a.n + 1)
                           else [(p.ends, a.rasl, toks ++ [.err (if cut then 0x2B else 0x2C) i a.ix pic])]
        | none =>
          let a1 : SynScan := if mute then { a with ix := a.ix + 1 } else
            { ix := a.ix + 1, seek := false, new := a.new, rasl := if p.rap then a.seek && a.new else a.rasl, n := a.n + 1 }
          (p.ends, a1.rasl, toks) :: synRuns j pic0 a1 r
/-- The pictures of a job in its context; RASL pictures of the random-access picture that began the stream are skipped in later jobs, too
(R230). -/
def SynJob.runs (j : SynJob) (c : SynCtx) : List (Nat × Bool × List SynOut) :=
  synRuns j c.pics { seek := j.seek, rasl := c.rasl } (Config.synParse j.av1 c.hist j.bytes)
/-- What an engine gives for a job in its context. -/
def SynJob.outs (j : SynJob) (c : SynCtx) : List SynOut := ((j.runs c).map (·.2.2)).flatten
/-- The context after a job: the bytes it has taken, its pictures, and whether RASL pictures are still skipped. A job of PICS pictures
leaves the bytes after them (R231). -/
def SynJob.leaves (j : SynJob) (c : SynCtx) : SynCtx :=
  let l := j.runs c
  let n := (l.filter fun x => !x.2.2.isEmpty).length
  { c with
    rasl := (l.getLast?).elim c.rasl (·.2.1)
    hist := c.hist ++ [if j.pics ≠ 0 ∧ n = j.pics then j.bytes.take ((l.getLast?).elim 0 (·.1)) else j.bytes]
    pics := c.pics + n }
/-- Tag of a job's next token (R232). -/
def SynJob.nextTag (j : SynJob) : BitVec 6 := .ofNat 6 (j.tag.toNat + j.sent)
/-- Slot for which a job's port is meant: slot 15, or any other (R303). -/
def SynJob.slot (j : SynJob) : SlotId := match j.e with | .rcRead => 15 | _ => 0
/-- The job is at a picture boundary, where a freeze stops it (R231, R322). -/
def SynJob.atPicture (j : SynJob) (c : SynCtx) : Bool :=
  match (j.outs c)[j.sent]? with | some (.tok _ p) => p | some (.err ..) => true | none => true
/-- A job goes on: its region runs, or is freezing and the job stands within a picture; slot 15's always does. -/
def State.jobRuns (s : State) (j : SynJob) (c : SynCtx) : Bool :=
  j.slot == 15 || s.regionRuns j.rkey ||
    ((match (s.region j.rkey).map fun (r : Region) => r.st with | some (.freezing _) => true | _ => false) && j.sent != 0 && !j.atPicture c)
/-- Replaces a syntax engine. -/
def State.setSyn (s : State) (y : BitVec 3) (g : SynEng) : State := { s with syn := vset s.syn y.toNat g }
/-- The context slot of a job. -/
def SynEng.ctxOf (g : SynEng) (j : SynJob) : SynCtx := vget g.ctx j.ctx.toNat {}
/-- Changes it. -/
def SynEng.modCtx (g : SynEng) (j : SynJob) (f : SynCtx → SynCtx) : SynEng := { g with ctx := vset g.ctx j.ctx.toNat (f (g.ctxOf j)) }
/-- Changes the run of a job's `s.syntax`, on its read engine. -/
def State.modSynRun (s : State) (j : SynJob) (f : CmdRun → CmdRun) : State :=
  let g := s.engine j.tile j.e
  let h := fun (r : CmdRun) => if r.cmd.kind = .syn ∧ r.cmd.phase = j.phase then f r else r
  s.setEngine j.tile j.e { g with cur := g.cur.map h, back := g.back.map h }
/-- Stops a syntax engine at a fault of its job (R231, R358); slot 15 ends the recompute (R304). -/
def State.synFault (s : State) (y : BitVec 3) (j : SynJob) (kind : Byte) (at_ pic : Nat) : State :=
  if j.slot = 15 then s.rcFault j.tile 0x1E 0 kind.toNat
  else
    let rec_ : FaultRec := match ((s.engine j.tile j.e).cur.toList ++ (s.engine j.tile j.e).back).find? fun r => r.cmd.kind == .syn && r.cmd.phase == j.phase with
      | some r => { s.elemRec j.tile j.e r at_ { pad := false } ⟨kind, 0⟩ with c0 := w32 at_, c1 := w32 pic, c2 := 0, c3 := 0, c4 := 0 }
      | none => s.recAt j.tile j.phase { kind := kind, c0 := w32 at_, c1 := w32 pic }
    let (n, s1) := s.post j.part { rec_ with gen := 10, sub := .ofNat 4 y.toNat }
    (s1.setSyn y { vget s1.syn y.toNat {} with stop := some n }).addStop j.part { seq := n, kind := kind, what := .syn y, rkey := j.rkey }
/-- The context slot as a job finds it: cleared by NEWSEQ (R230), that of the snapshot for a job that a restore gave back (R231), else as it
is. -/
def SynJob.finds (j : SynJob) (c : SynCtx) : SynCtx :=
  { (match j.saved with | some x => x | none => if j.newseq && !j.begun then { used := true, av1 := j.av1 } else c) with rkey := j.rkey }
/-- An idle engine takes its next job, in order of arrival. A change of owner waits first, and a job of another partition is none of its own
(R349). -/
def State.synTake (s : State) (y : BitVec 3) (g : SynEng) : State :=
  match g.queue with
  | [] => s
  | j :: l =>
    if g.pend.isSome || j.part != g.owner || !s.jobRuns j (g.ctxOf j) then s
    else
      s.setSyn y ({ g with job := some { j with begun := true, saved := none }, queue := l }.modCtx j j.finds)
/-- SYNTAX_TOKEN_PUSH (R232): the engine takes its next job, or pushes the next token of its job where the port has room. -/
def execSyntaxTokenPush (y : BitVec 3) (s : State) : Out :=
  .next (
    let g := vget s.syn y.toNat {}
    if g.stop.isSome then s
    else match g.job with
      | none => s.synTake y g
      | some j =>
        let c := g.ctxOf j
        let outs := j.outs c
        let give := fun (x : Token) =>
          if s.spaceOf j.tile j.slot j.phase j.port then
            let s1 := (s.pushOf j.tile j.slot j.phase j.port (.tok { x with tag := j.nextTag })).setSyn y
              { g with job := some { j with sent := j.sent + 1 } }
            (s1.modSynRun j fun r => { r with head := r.head + 1 }).progress j.rkey
          else s
        if !s.jobRuns j c then s
        else if !c.used then s.synFault y j 0x2A 0 0
        else match outs[j.sent]? with
          | some (.tok x _) => give x
          | some (.err k i _ pic) => s.synFault y j k i pic
          | none => if j.eos ∧ j.sent = outs.length then give (eosTok 0) else s)
/-- SYNTAX_JOB_END (R231): every token is pushed; the context keeps what it has seen, and the command may complete. -/
def execSyntaxJobEnd (y : BitVec 3) (s : State) : Out :=
  .next (
    let g := vget s.syn y.toNat {}
    match g.job with
    | none => s
    | some j =>
      let c := g.ctxOf j
      if g.stop.isSome || !c.used || (j.outs c).length + j.eos.toNat != j.sent then s
      else
        let s1 := s.setSyn y ({ g with job := none }.modCtx j j.leaves)
        s1.modSynRun j fun r => { r with eosOut := true })

end Sys2Proof.Machine
end

