-- ==== Sys2Proof/Machine/Place.lean ====
section
/-! DEFINITION. Placing a region on its tiles and taking it off: the tile resets, the shadow planes, snapshots and their restore, release, and the completion frame (R47, R61, R103, R117, R318, R321 to R325, R345 to R347, R366). -/
namespace Sys2Proof.Machine

/-! ## Tiles (R345, R346, R382) -/

/-- A tile with nothing placed on it, its stores as they are: a retired task stays as it is until the next commit (R312), the bank modes
do (R10), and what belongs to slot 15 stays (R382). -/
def Tile.bare (x : Tile) : Tile :=
  { x with
    tasks := Vector.ofFn fun (k : Fin 16) => let y := vget x.tasks k.val {}; if k = 15 ∨ y.st = .retired then y else {}
    ph := x.ph.map fun y => { contig := y.contig }, eng := Vector.replicate 8 {}, matPh := 0
    memStop := none, rot := 0, lastHi := 15, lastNo := 15
    mq := x.mq.filter fun i => i.slot == 15, sq := x.sq.filter fun i => i.slot == 15
    vpipe := x.vpipe.filter fun o => o.slot == 15, ll := x.ll.filter fun o => o.slot == 15 }
/-- A tile whose stores and task slots are cleared as well, but for the recompute area and slot 15 while a recompute runs (R61, R62,
R382). -/
def Tile.cleared (x : Tile) (fold : BitVec 2) : Tile :=
  let keep := fun (a : Nat) => x.rc.isSome && decide (0x7_8000 ≤ a)
  { x.bare with
    tasks := vset (Vector.replicate 16 {}) 15 (vget x.tasks 15 {}), ph := Vector.replicate 4 {}
    fold := fold, istore := [], ipois := [], spad := x.spad.filter fun c => keep c.1, marks := x.marks.filter keep }
/-- A tile with everything reset but its bank modes, which change only at a commit (R10, R345 step 2). -/
def Tile.reset (x : Tile) : Tile := { ph := x.ph.map fun y => { contig := y.contig } }
/-- A tile reset as by R345 step 2, after a failed second phase (R347); a recompute that runs keeps what it has (R382). -/
def Tile.zeroed (x : Tile) : Tile := if x.rc.isSome then { x.cleared 0 with tlb := [], ph := x.reset.ph } else x.reset
/-- Scratchpad bank of a byte address (R10): bits [9:6] in the interleaved mode, [18:15] in the contiguous one. -/
def bankOf (contig : Bool) (a : Nat) : Nat := if contig then fld a 18 15 else fld a 9 6

/-! ## Shadow planes (R47, R61, R103, R203, R214) -/

/-- A record's effect on the planes of a logical tile. -/
def applyRec (x : LTile) (r : ImgRec) : LTile :=
  let its := r.items 16
  match r.ty.toNat with
  | 0x03 => { x with contig := ib r.data 0 == 1, acr := .ofNat 4 (numAt r.data 4 4 % 8) }
  | 0x07 => its.foldl (fun x l =>
      let i := ib l 0 % 8
      if ib l 0 < 8 then { x with inP := vset x.inP i { vget x.inP i {} with vc := .ofNat 2 (ib l 1), ctype := .ofNat 2 (ib l 2) } }
      else { x with outP := vset x.outP i { vget x.outP i {} with vc := .ofNat 2 (ib l 1), ctype := .ofNat 2 (ib l 2) } }) x
  | 0x08 => its.foldl (fun x l => { x with junc := vset x.junc (ib l 0) { word := .ofNat 64 (numAt l 8 8) } }) x
  | 0x0A => its.foldl (fun x l =>
      let q : Ring := { base := numAt l 4 2, size := ib l 6, feed := if 128 ≤ ib l 1 then some (.ofNat 3 (ib l 1)) else none, swapeg := ib l 2 == 1 }
      { x with mat := { x.mat with rings := vset x.mat.rings (ib l 0) q } }) x
  | 0x0D => { x with route := Vector.ofFn fun (q : Fin 8) => if 128 ≤ ib r.data q then some (.ofNat 3 (ib r.data q)) else none }
  | _ => x
/-- A junction as its word sets it at commit (R117). -/
def juncStart (y : Junc) : Junc :=
  let f := fun (hi lo : Nat) => bfld y.word hi lo
  match f 63 60 with
  | 0x2 => { y with expect := if f 59 58 = 1 then .ofNat 6 (f 41 36) else 0 }
  | 0x5 => { y with expect := .ofNat 6 (f 58 53) }
  | 0x7 => { y with rmode := .ofNat 3 (f 51 49), sat := f 48 48 == 1 }
  | 0x9 => { y with occ := f 51 44 }
  | 0xA => { y with expect := .ofNat 6 (f 59 54) }
  | _ => y
/-- The tokens that a prime junction injects at commit (R117). -/
def primeToks (y : Junc) : List Token :=
  let f := fun (hi lo : Nat) => bfld y.word hi lo
  if f 63 60 = 8 then (upTo (f 59 56)).map fun i =>
    ⟨laneFn fun k => if f 47 47 = 1 ∨ k = 0 then f 31 0 else 0, 0xFFFF, 0, .ofNat 6 (f 53 48 + i), if f 55 54 = 1 then .control else .data⟩
  else []
/-- A fresh logical tile from the records that apply. -/
def ltileOf (rs : List ImgRec) (key : Nat) (b : Bind) (cycle : Nat) : LTile :=
  let x := (rs.filter fun r => r.covers b.lx b.ly).foldl applyRec { placed := true, key := key, lx := b.lx, ly := b.ly, born := cycle }
  { x with junc := x.junc.map juncStart }
/-- The physical slot of an image slot: the slot of that set bit of TMASK (R321). -/
def physSlot (m : BitVec 16) (k : Nat) : SlotId := .ofNat 4 ((((upTo 15).filter fun i => tbit m i)[k]?).getD 15)
/-- The image slot of a physical slot. -/
def imgSlot (m : BitVec 16) (k : SlotId) : SlotId := .ofNat 4 ((upTo k.toNat).filter fun i => tbit m i).length
/-- The tasks that records place on a logical tile, by physical slot (R47). -/
def tasksOf (rs : List ImgRec) (b : Bind) : List (SlotId × Task) :=
  ((rs.filter fun r => r.ty.toNat == 6 && r.covers b.lx b.ly).map fun r => (r.items 16).map fun l =>
    (physSlot b.tmask (ib l 0), { st := .idle, img := .ofNat 4 (ib l 0), high := ib l 1 == 1, trigP := .ofNat 3 (ib l 2), trigVc := .ofNat 2 (ib l 3)
                                  phase := b.ph, pc := numAt l 4 2 })).flatten
/-- The instruction store and scratchpad of a logical tile as records write them into its share. -/
def storesOf (rs : List ImgRec) (fold : BitVec 2) (b : Bind) (x : Tile) : Tile :=
  (rs.filter fun r => r.covers b.lx b.ly).foldl (fun x r =>
    match r.ty.toNat with
    | 0x04 => { x with istore := istWrite x.istore (b.ph.toNat * shareWords fold + r.off) ((groupsOf 4 r.data.length r.data).map fun w => .ofNat 32 (leNat w)) }
    | 0x05 => { x with spad := memWrite x.spad (b.ph.toNat * shareBytes fold + r.off) r.data }
    | _ => x) x

/-! ## Snapshots (R323, R324) -/

/-- A run as a snapshot holds it: no access under way, its slot renamed, and with its syntax job where an engine has that (R231). -/
def CmdRun.idle (r : CmdRun) (f : SlotId → SlotId) (j : Option SynJob) : CmdRun :=
  let q := { r with cmd := { r.cmd with slot := f r.cmd.slot }, win := r.win.map fun w => { w with id := none } }
  if q.cmd.kind = .syn ∧ j.isSome = true then { q with tailOut := false, job := j } else q
/-- A stream engine's commands of one phase as a snapshot holds them, and its bit of FLTQ. -/
def Engine.ofPhase (g : Engine) (ph : BitVec 2) (f : SlotId → SlotId) (j : Option SynJob) : Engine :=
  let mine := fun (c : Cmd) => c.phase == ph && c.slot != 15
  let runs := (g.cur.toList.filter fun r => mine r.cmd).map fun r => r.idle f j
  { cur := runs.head?, back := (g.back.filter fun r => mine r.cmd).map fun r => r.idle f j
    wait := (g.wait.filter mine).map fun c => { c with slot := f c.slot }
    flt := g.flt || (g.stop.isSome && g.cur.any fun r => mine r.cmd) }
/-- The syntax job of an engine's command of one phase, one that has begun with its context slot (R231). -/
def State.synJobOf (s : State) (t : Nat) (e : EngineId) (ph : BitVec 2) : Option SynJob :=
  (upTo 8).findSome? fun y =>
    let g := vget s.syn y {}
    ((g.job.toList.map fun (j : SynJob) => { j with saved := some (vget g.ctx j.ctx.toNat {}) }) ++ g.queue).find? fun j =>
      j.tile == t && j.e == e && j.phase == ph
/-- The ports of a logical tile with the slots of waiting getws renamed. -/
def LTile.rename (x : LTile) (f : SlotId → SlotId) : LTile :=
  { x with inP := x.inP.map fun p => { p with getws := p.getws.map fun q => { q with slot := f q.slot } } }
/-- An operation that has performed no access is recorded as not begun (R323). -/
def Op.fresh (o : Op) : Op :=
  let o := { o with stop := none, out := false, via := none, held := [], told := false, lost := none, waits := false, spill := none, spilt := [], bytes := 0 }
  match o.kind with
  | .frame f _ => { o with sent := false, kind := .frame f false }
  | .card c r n b p => if n = 0 ∧ b.isEmpty = true then { o with sent := false, kind := .card c false 0 [] [] } else { o with kind := .card c r n b p }
  | .coll c src r n => if src.isEmpty ∧ r.isNone ∧ n = 0 then { o with sent := false } else { o with kind := .coll c src r n }
  | _ => { o with sent := false }
/-- An operation is an element's access. -/
def Op.isElem (o : Op) : Bool := match o.kind with | .elem _ => true | _ => false
/-- Saves a logical tile. -/
def State.saveTile (s : State) (fold : BitVec 2) (b : Bind) : TileSnap :=
  let x := s.tile b.tile
  let f := imgSlot b.tmask
  let lo := b.ph.toNat * shareBytes fold
  let mine := fun (k : SlotId) => k != 15 && (s.task b.tile k).phase == b.ph
  { lx := b.lx, ly := b.ly
    tasks := (upTo (shareTasks fold)).map fun k => s.task b.tile (physSlot b.tmask k)
    spad := memSlice x.spad lo (lo + shareBytes fold)
    marks := (x.marks.filter fun a => decide (lo ≤ a ∧ a < lo + shareBytes fold)).map (· - lo)
    lt := (s.lt b.tile b.ph).rename f
    eng := (upTo 8).map fun e => (e, (vget x.eng e {}).ofPhase b.ph f (s.synJobOf b.tile (.eng (.ofNat 3 e)) b.ph))
    mq := (x.mq.filter fun i => mine i.slot).map fun i => { i with slot := f i.slot }
    sq := (x.sq.filter fun i => mine i.slot).map fun i => { i with slot := f i.slot }
    ops := (s.ops.filter fun o => o.tile == b.tile && o.phase == b.ph && o.slot != 15 && !o.isElem).map fun o => { o.fresh with slot := f o.slot } }
/-- Versions that a region's commands and operations have opened, here or at a peer. -/
def State.openedBy (s : State) (r : Region) : List (FrameKey × Nat) :=
  let runs := (r.binds.map fun b => (upTo 8).map fun e =>
    let g := vget (s.tile b.tile).eng e {}
    ((g.cur.toList ++ g.back).map fun q => q.opened).flatten).flatten.flatten
  let ops := ((s.ops.filter fun o => o.rkey == r.key).map (·.opened)).flatten
  (runs ++ ops).eraseDups
/-- Those that are open in this device's directories, each with the history of its frame. -/
def State.openOf (s : State) (r : Region) : List (FrameKey × Nat × Ver) :=
  (s.openedBy r).filterMap fun (k, v) =>
    match (s.frame k).ver v with
    | some x => if x.st = .opened then some (k, (s.frame k).gen, x) else none
    | none => none
/-- The context slots that a region's jobs used last, by engine and slot (R231). -/
def State.ctxsOf (s : State) (key : Nat) : List (Nat × Nat × SynCtx) :=
  ((upTo 8).map fun y => (upTo 4).filterMap fun n =>
    let c := vget (vget s.syn y {}).ctx n {}
    if c.used && c.rkey == key then some (y, n, c) else none).flatten
/-- Saves a region (R323). -/
def State.saveRegion (s : State) (r : Region) : Snapshot :=
  { graph := r.graph, desc := r.desc, opens := s.openOf r, tiles := r.binds.map (s.saveTile r.fold), caught := r.circs.map fun c => (c.id, c.caught)
    ctxs := s.ctxsOf r.key }
/-- A command's slot, phase and run renamed. -/
def Cmd.on (c : Cmd) (ph : BitVec 2) (f : SlotId → SlotId) : Cmd := { c with slot := f c.slot, phase := ph }
/-- Puts an element behind those of a rising list that have no higher number. -/
def insOn {α : Type} (f : α → Nat) (x : α) : List α → List α
  | [] => [x]
  | y :: r => if f y ≤ f x then y :: insOn f x r else x :: y :: r
/-- A list in rising order of its elements' numbers; equal ones keep their order. -/
def sortOn {α : Type} (f : α → Nat) (l : List α) : List α := l.foldl (fun a x => insOn f x a) []
/-- Adds a snapshot's commands of one engine to a tile's engine, all in issue order (R108): one runs, others that had begun wait their turn
(R324). -/
def Engine.join (g h : Engine) (ph : BitVec 2) (f : SlotId → SlotId) : Engine :=
  let run := fun (r : CmdRun) => { r with cmd := r.cmd.on ph f }
  let all := sortOn (·.cmd.seq) (g.cur.toList ++ g.back ++ (h.cur.toList ++ h.back).map run)
  { g with
    cur := all.head?, back := all.tail, flt := g.flt || h.flt
    wait := sortOn (·.seq) (g.wait ++ h.wait.map (·.on ph f)) }
/-- The highest order number in a snapshot's commands, runs, operations and waiting barriers, plus one. -/
def TileSnap.seqTop (q : TileSnap) : Nat :=
  let cs := (q.eng.map fun x => x.2.cmds.map (·.seq)).flatten ++ q.sq.map (·.seq) ++ q.mq.map (·.seq) ++ q.ops.map (·.mark) ++
    q.tasks.filterMap (·.mark) ++ q.sq.filterMap (·.mark)
  cs.foldl (fun a b => max a (b + 1)) 0
/-- A snapshot's tile cut to its new share: n task slots, and so many bytes of scratchpad. -/
def TileSnap.within (q : TileSnap) (n bytes : Nat) : TileSnap :=
  let ok := fun (k : SlotId) => decide (k.toNat < n)
  { q with
    spad := q.spad.filter fun c => decide (c.1 < bytes), marks := q.marks.filter fun a => decide (a < bytes)
    tasks := q.tasks.take n, mq := q.mq.filter fun i => ok i.slot, sq := q.sq.filter fun i => ok i.slot, ops := q.ops.filter fun o => ok o.slot
    lt := { q.lt with inP := q.lt.inP.map fun p => { p with getws := p.getws.filter fun g => ok g.slot } }
    eng := q.eng.map fun (e, g) => (e, { g with
      cur := g.cur.filter fun r => ok r.cmd.slot, back := g.back.filter fun r => ok r.cmd.slot, wait := g.wait.filter fun c => ok c.slot }) }
/-- A junction as a restore sets it up: the record of one that stood stopped is stale, and it tries its heads again (R362). -/
def Junc.again (y : Junc) : Junc := { y with held := none }
/-- Puts a snapshot's context slots back into the engines that the partition owns by then; a slot that a job is using stays (R231, R349). -/
def State.giveCtxs (s : State) (p : PartId) (key : Nat) (l : List (Nat × Nat × SynCtx)) : State :=
  l.foldl (fun s (y, n, (c : SynCtx)) =>
    let g := vget s.syn y {}
    if g.owner != p || g.job.any (fun j => j.ctx.toNat == n) then s
    else { s with syn := vset s.syn y { g with ctx := vset g.ctx n { c with rkey := key } } }) s
/-- A region's jobs no longer use their context slots: those are as no job had started them. -/
def State.dropCtxs (s : State) (key : Nat) : State :=
  { s with syn := s.syn.map fun (g : SynEng) => { g with ctx := g.ctx.map fun c => if c.used && c.rkey == key then {} else c } }
/-- Restores a logical tile on a bind record (R324); CYC restarts. -/
def State.restoreTile (s : State) (key : Nat) (fold : BitVec 2) (snap : Snapshot) (b : Bind) : State :=
  match (snap.tiles.find? fun q => q.lx == b.lx && q.ly == b.ly).map (·.within (shareTasks fold) (shareBytes fold)) with
  | none => s
  | some q =>
    let f := fun (k : SlotId) => physSlot b.tmask k.toNat
    let lo := b.ph.toNat * shareBytes fold
    let ops := q.ops.map fun (o : Op) => { o with tile := b.tile, slot := f o.slot, phase := b.ph, rkey := key }
    let s1 := s.modTile b.tile fun x => { x with
      fold := fold
      tasks := q.tasks.zipIdx.foldl (fun v (k, i) => vset v (physSlot b.tmask i).toNat { k with phase := b.ph }) x.tasks
      spad := memMerge (memClear x.spad lo (lo + shareBytes fold)) lo q.spad
      marks := q.marks.foldl (fun l a => setIns l (lo + a)) (x.marks.filter fun a => !decide (lo ≤ a ∧ a < lo + shareBytes fold))
      ph := vset x.ph b.ph.toNat { q.lt.rename f with key := key, placed := true, born := s.cycle, junc := q.lt.junc.map Junc.again }
      eng := Vector.ofFn fun (e : Fin 8) => (vget x.eng e {}).join (((q.eng.find? fun y => y.1 == e.val).map (·.2)).getD {}) b.ph f
      mq := x.mq ++ q.mq.map fun i => { i with slot := f i.slot }
      sq := x.sq ++ q.sq.map fun i => { i with slot := f i.slot }
      memq := x.memq ++ (ops.filter fun o => !o.sent).map (·.id)
      seq := max x.seq q.seqTop }
    { s1 with ops := s1.ops ++ ops }
/-- Circuits with a snapshot's caught tokens at their source ends (R324). -/
def restoreCircs (snap : Snapshot) (l : List Circuit) : List Circuit :=
  l.map fun c => { c with entry := ((snap.caught.find? fun x => x.1 == c.id).map (·.2)).getD [], flight := [], caught := [], marked := false }
/-- Tiles that a region stands on. -/
def Region.tiles (r : Region) : List Nat := (r.binds.map (·.tile)).eraseDups

/-! ## Release (R318, R322, R325) -/

/-- Drops a region's operations on their way, their reads' holds with them. -/
def State.dropRegionOps (s : State) (key : Nat) : State :=
  let ids := (s.ops.filter fun o => o.rkey == key && o.slot != 15).map (·.id)
  let s1 := (s.ops.filter fun o => o.rkey == key && o.slot != 15).foldl State.endOp s
  { s1 with tiles := s1.tiles.map fun (t, (x : Tile)) => (t, { x with memq := x.memq.filter fun i => !setHas ids i }) }
/-- Drops a region's syntax jobs. -/
def State.dropRegionJobs (s : State) (r : Region) : State :=
  { s with syn := s.syn.map fun (g : SynEng) =>
      let mine := fun (j : SynJob) => j.rkey == r.key && j.slot != 15
      let g1 := { g with queue := g.queue.filter fun j => !mine j }
      match g.job with | some j => if mine j then { g1 with job := none, stop := none } else g1 | none => g1 }
/-- Records of a region that stood stopped go stale (R362). -/
def State.staleStops (s : State) (key : Nat) : State :=
  let keep := fun (l : List StopRec) => l.filter fun r => r.rkey != key
  { s with mstops := keep s.mstops, parts := s.parts.map fun (k, (p : Part)) => (k, { p with stops := keep p.stops }) }
/-- Takes a region's graph off its tiles; their stores keep what they hold. -/
def State.unplace (s : State) (r : Region) : State :=
  let s1 := ((s.dropRegionOps r.key).dropRegionJobs r).staleStops r.key
  r.tiles.foldl (fun s t => s.modTile t Tile.bare) s1
/-- Releases a region. -/
def State.release (s : State) (r : Region) : State :=
  let s1 := s.unplace r
  { s1 with regions := s1.regions.filter fun q => q.key != r.key }
/-- The bursts of late tokens that stand on a region's endpoints are reported as it leaves them: no discard can follow there (R326,
log 47). -/
def State.lateEnd (s : State) (r : Region) : State :=
  r.binds.foldl (fun s b => (upTo 8).foldl (fun s p =>
    match (vget (s.lt b.tile b.ph).inP p {}).late with | none => s | some x => s.latePost b.tile b.ph (.ofNat 3 p) x) s) s
/-- Writes a completion frame as a versioned write of eight bytes that dispatch performs (R318). -/
def State.completion (s : State) (p : PartId) (d : BitVec 512) (graph : BitVec 32) (factor status : Nat) : State :=
  if dfld d 4 63 32 = 0 then s
  else
    let win : BitVec 16 := .ofNat 16 (dfld d 3 63 48)
    let off : BitVec 48 := .ofNat 48 (dfld d 3 47 0)
    let c : Card := {
      swin := 0, soff := 0, c0 := w64 (graph.toNat * 2 ^ 32 + factor * 256 + status), dwin := win, doff := off, rows := 1, rbytes := 8
      sstr := 0, dstr := 0, dvern := .ofNat 32 (dfld d 4 63 32), svern := 0, id := 0, fill := true, pside := false, pid := 0, pe := false
      dver := true, sver := false }
    { s with newId := s.newId + 1, ops := s.ops ++ [{
      id := s.newId, tile := dispatchTile, slot := 0, phase := 0, part := p, rkey := 0, va := vaOf win off, d := none, word := 0, mark := 0
      kind := .card c true 0 [] [], sent := true }] }

/-! ## Launch queues (R317, R325, R374) -/

/-- An MSI-X vector of every function that serves a partition (R372, R373). -/
def State.msix (s : State) (p : PartId) (vec : BitVec 2) : State :=
  (upTo 8).foldl (fun s k =>
    if fld s.vfmap.toNat (8 * k + 5) (8 * k) = p.toNat ∧ p ≠ 0 then { s with hostOut := s.hostOut ++ [.msix (.vf (.ofNat 3 k)) vec] } else s) s
/-- Appends that wait for space enter their queues in the order they came. -/
def pump (x : Part) : Part :=
  x.lqHeld.foldl (fun y (pr, d) =>
    let q := vget y.lq pr.toNat []
    if q.length < 256 then { y with lq := vset y.lq pr.toNat (q ++ [d]) } else { y with lqHeld := y.lqHeld ++ [(pr, d)] }) { x with lqHeld := [] }
/-- The descriptor that a priority offers: the head of its resume list, or of its queue where that is empty (R317). -/
def Part.offers (x : Part) (k : Nat) : Option (BitVec 512) := (vget x.resume k []).head?.or (vget x.lq k []).head?
/-- The firmware takes a descriptor of the highest priority that offers it, and a full queue gains space (R317). -/
def State.takeDesc (s : State) (p : PartId) (d : BitVec 512) : BitVec 2 × State :=
  let x := s.part p
  match [3, 2, 1, 0].find? fun k => x.offers k == some d with
  | none => (0, s)
  | some k =>
    if !(vget x.resume k []).isEmpty then (.ofNat 2 k, s.setPart p { x with resume := vset x.resume k (vget x.resume k []).tail })
    else
      let s1 := s.setPart p (pump { x with lq := vset x.lq k (vget x.lq k []).tail })
      (.ofNat 2 k, if (vget x.lq k []).length = 256 then s1.msix p 1 else s1)

/-! ## Checkpoint marks (R366, R367) -/

/-- A region's deferred reclaims take effect in issue order; one whose frame has been initialised since acts on a history that has ended. -/
def State.doReclaims (s : State) (l : List Reclaim) : State :=
  l.foldl (fun s x => match x with
    | .recl k v gen =>
      if (s.vregFor k).isNone ∨ (s.frame k).gen ≠ gen then s else (s.setFrame { s.frame k with recl := max (s.frame k).recl v }).retireBelow k
    | .unpin k v gen => if (s.frame k).gen = gen then State.tryRetire retireFuel s k v else s
    | .pin .. => s
    | .init old => old.vers.foldl (fun s (y : Ver) => s.releaseRecipe y.recipe) s) s
/-- An interval ends: provisional versions are final, deferred reclaims take effect, and the undo log is empty. -/
def State.closeInterval (s : State) (r : Region) : State :=
  (s.modRegion r.key fun q => { q with prov := [], defer := [], undo := [], ext := false, plain := false, outer := [], rolled := false, ckReq := false
                                       ck0 := s.ownNow r }).doReclaims r.defer
/-- Retires every task of a region (R362). -/
def State.retireTasks (s : State) (r : Region) : State :=
  r.binds.foldl (fun s b => s.modTile b.tile fun x =>
    { x with tasks := Vector.ofFn fun (k : Fin 16) =>
        let y := vget x.tasks k.val {}
        if k ≠ 15 ∧ y.st ≠ .absent ∧ y.phase = b.ph then { y with st := .retired } else y }) s
/-- Ends a region by the controller or a failed recovery: every task retires, every unit is cancelled with the versions it holds open, here
and at peers, those that poison keeps open among them, and the completion frame tells it (R262, R318, R362, R366, R367). -/
def State.endRegion (s : State) (r : Region) : State :=
  let kept := (r.prov.filter fun (k, _, gen) => (s.frame k).gen == gen).map fun (k, v, _) => (k, v)
  let s1 := s.abandonAll (s.openedBy r ++ kept)
  let s2 := (((s1.lateEnd r).retireTasks r).release r).doReclaims r.defer
  s2.completion r.part r.desc r.graph (2 ^ r.fold.toNat) 1

/-! ## The context area (R283, R357, R366, R367) -/

/-- Bytes of a region's context area in use: two snapshots of 640 KiB for each logical tile, and the undo log's entries of 320 bytes
(R366). -/
def Region.ctxBytes (r : Region) : Nat := r.binds.length * 2 * 655360 + 320 * r.undo.length
/-- The context area cannot be read: its stage 2 faults, or a block of it is poisoned or fails its check (R283, R357, R367). -/
def State.ctxLost (s : State) (r : Region) : Bool :=
  let lo := r.ctxIpa.toNat
  let hi := lo + r.ctxBytes
  (upFrom (lo / 65536) ((hi + 65535) / 65536 - lo / 65536)).any fun i =>
    let a := max lo (65536 * i)
    match s.stage2 r.part a with
    | .error _ => true
    | .ok (pa, _) =>
      let n := min hi (65536 * (i + 1)) - a
      decide (hbmTop < pa + n) || s.hbmBad pa n false || s.pq.any fun (b, _) => decide (pa / 256 ≤ b ∧ 256 * b < pa + n)
/-- Ends a region by a failed recovery, with its record (R366, R367). -/
def State.rollFail (s : State) (r : Region) (kind : Byte) : State :=
  ((s.post r.part { kind := kind, gen := 12, region := r.id, va := w64 r.graph.toNat }).2).endRegion r

end Sys2Proof.Machine
end

