-- ==== Sys2Proof/Machine/Commit.lean ====
section
/-! DEFINITION. Commit requests, the two phases of fetch, and the completion of a graph (R317 to R321, R344, R346, R347, R366). -/
namespace Sys2Proof.Machine

/-- Why a commit is refused or fails: a descriptor's reason (R317), COMMIT_BAD with a circuit, a fetch fault with its record, or a
faulted read of the image. -/
inductive CommitErr where
  | refuse (reason : Nat)
  | bad (circ : BitVec 16)
  | fetch (e : FetchErr)
  | trans (f : Flt) (off : Nat)

/-- A commit request's fields: region, generation, context area and route list (R346). -/
structure CommitReq where
  desc  : BitVec 512
  rg    : BitVec 16
  gen   : BitVec 32
  ctx   : DWord
  route : Nat

/-- Reads a commit request of 128 bytes; a nonzero byte where the layout says zero makes it malformed. -/
def commitReq (x : Nat) : CommitReq × Bool :=
  ({ desc := .ofNat 512 x, rg := .ofNat 16 (fld x 527 512), gen := .ofNat 32 (fld x 575 544), ctx := .ofNat 64 (fld x 639 576), route := fld x 703 640 },
   fld x 543 528 == 0 && fld x 1023 704 == 0)

/-- Reports a refused or failed commit: its own record, LAUNCH_BAD, and the completion frame with status 2 (R347, R360). -/
def State.failCommit (s : State) (p : PartId) (q : CommitReq) (graph : BitVec 32) (e : CommitErr) : State :=
  let r : FaultRec := { kind := 0x84, gen := 12, region := q.rg }
  let (code, s1) : Nat × State := match e with
    | .refuse n => (256 * n, s)
    | .bad c => (0x35, (s.post p { r with kind := 0x35, va := w64 c.toNat }).2)
    | .fetch (k, ix) => (k.toNat, (s.post p { r with kind := k, aux := w32 ix }).2)
    | .trans f off =>
      let a := descImage q.desc
      (f.kind.toNat, (s.postAny p { r with kind := f.kind, aux := f.aux, va := w64 off, vwin := winOf a }).2)
  let c : BitVec 16 := match e with | .bad c => c | _ => 0
  let s2 := (s1.post p { r with gen := 15, aux := w32 code, va := w64 c.toNat }).2
  ((s2.takeDesc p q.desc).2).completion p q.desc graph 0 2

/-- What a read of an image gives: its bytes, its records, and why either ended early. -/
structure Img where
  bytes : List Byte
  recs  : List ImgRec
  cut   : Option ImgEnd
  form  : Option FetchErr

/-- An image of n bytes, read from an offset of its window and cut into records. -/
def imgWhole (s : State) (p : PartId) (win : BitVec 16) (off n : Nat) : Img × State :=
  let x := imgBytes s p win (pageFuel n) off n
  let y := imgRecs (n / 16 + 1) 0 x.1
  (⟨x.1, y.1, x.2.1, y.2⟩, x.2.2)
/-- Reads the whole image of a descriptor through its window (R346): its head says how long it is. -/
def State.readImage (s : State) (p : PartId) (d : BitVec 512) : Img × State :=
  let a := descImage d
  let x := imgBytes s p (winOf a) (pageFuel 48) (offOf a) 48
  if x.2.1.isSome then (⟨x.1, [], x.2.1, none⟩, x.2.2)
  else if numAt x.1 0 1 ≠ 1 then (⟨x.1, [], none, some (0x30, 0)⟩, x.2.2)
  else imgWhole x.2.2 p (winOf a) (offOf a) (numAt x.1 24 8)
/-- The graph that a descriptor names has been read to its end: another GRAPH record follows, or the END record. -/
def Img.closed (x : Img) (d : BitVec 512) : Bool :=
  (graphRecs (dfld d 1 63 48 + 1) x.recs.zipIdx).isSome || x.recs.any fun r => r.ty.toNat == 0x0E
/-- The graph that a descriptor names, as far as its image has been read, with its records and their places. -/
def Img.graph (x : Img) (d : BitVec 512) : Option (GraphInfo × List (ImgRec × Nat)) := graphRecs (dfld d 1 63 48) x.recs.zipIdx
/-- The checks of a whole image: its records one by one, what several of them make together, and the CRC (R58 to R62). -/
def Img.bad (x : Img) : Option FetchErr :=
  match x.recs with
  | [] => some (0x30, 0)
  | r :: rs =>
    let n := numAt r.data 6 2
    if r.ty.toNat ≠ 1 then some (0x30, 0)
    else match headBad r with
      | some k => some (k, 0)
      | none =>
        match checkRecs none n 1 rs with
        | some e => some e
        | none =>
          match graphsBad x.recs.zipIdx n with
          | some e => some e
          | none => if crc32c (x.bytes.drop 48) ≠ numAt r.data 16 4 then some (0x32, 0) else none
/-- How many circuits records hold. -/
def circCount (all : List ImgRec) : Nat := (all.map fun r => if r.ty.toNat = 9 then (r.items 16).length else 0).sum
/-- The circuits of a graph with their routes from a route list (R344), or the error. -/
def State.routed (s : State) (p : PartId) (route : Nat) (g : GraphInfo) (all : List ImgRec) (bs : List Bind) : Except CommitErr (List Circuit) :=
  match s.routeList p route (circCount all) with
  | .error f => .error (.trans f 0)
  | .ok routes =>
    let cs := (circuitsOf g.w g.h all bs).map fun c => (c, (routes.find? fun x => x.1 == c.id).map (·.2))
    match cs.find? fun x => x.2.isNone with
    | some (c, _) => .error (.bad c.id)
    | none =>
      let cs := cs.map fun ((c : Circuit), h) => { c with hops := h.getD [] }
      match s.routesBad p all s.hopsUsed cs with
      | some c => .error (.bad c)
      | none => .ok cs
/-- What ends the reading of an image. -/
def Img.ends (x : Img) : Option CommitErr :=
  match x.cut, x.form with
  | some (.fault f off), _ => some (.trans f off)
  | _, some e => some (.fetch e)
  | _, none => none
/-- What phase 1 makes of a request whose bind records pass, and of its image: the region in its shadow planes, or the error. The
descriptor's own checks and those of R320 and R344 come before the image's, as far as the image has been read: its routes are checked where
the graph has been read to its end (R346, log 31). -/
def State.planCommit (s : State) (p : PartId) (q : CommitReq) (fold : BitVec 2) (ents : List (Nat × BitVec 2 × Nat)) (x : Img) : Except CommitErr Region :=
  match x.graph q.desc with
  | none => .error (x.ends.getD (.refuse 2))
  | some (g, l) =>
    let ok := g.folds &&& foldSet (dfld q.desc 1 2 0)
    let use := l.filter fun y => y.1.applies fold
    let all := use.map (·.1)
    let bs := ents.map bindOf
    if ok = 0 then .error (.refuse 3)
    else if !bindsFit g ok fold ents then .error (.bad 0)
    else if tbit q.desc (64 * 4) ∧ shareBytes fold < dfld q.desc 4 31 19 * 64 + 24 then .error (.refuse 4)
    else if !x.closed q.desc ∧ x.ends.isSome then .error (x.ends.getD (.refuse 2))
    else match s.routed p q.route g all bs with
      | .error e => .error e
      | .ok cs =>
        match x.ends with
        | some e => .error e
        | none =>
          match x.bad with
          | some e => .error (.fetch e)
          | none =>
            match variantCheck s p fold [] use with
            | some e => .error (.fetch e)
            | none => .ok {
                key := s.newId + 1, id := q.rg, part := p, gen := q.gen, st := .fetched, graph := g.id, gw := g.w, gh := g.h, fold := fold
                seed := g.seed, alpha := g.alpha, beta := g.beta, bound := g.bound, desc := q.desc, ctxIpa := q.ctx, binds := bs, circs := cs
                image := all.filter fun r => r.ty.toNat != 4 && r.ty.toNat != 5 }
/-- Every MIT that reading the entries of a route list takes serves the partition (R292). -/
def State.routesServed (s : State) (p : PartId) : Nat → Nat → Bool
  | _, 0 => true
  | ipa, n + 1 =>
    s.ipaServed p ipa 4 &&
      match s.ipaNum p ipa 4 with
      | .error _ => true
      | .ok h => let k := fld h 31 16; s.ipaServed p (ipa + 4) (min k 255) && State.routesServed s p (ipa + (4 + k + 7) / 8 * 8) n
/-- The slot table of a partition can be read (R292). -/
def State.slotsServed (s : State) (p : PartId) : Bool := s.ipaServed p (fld (s.part p).slottab.toNat 47 16 * 65536) (6144 * 16)
/-- A commit request is taken (R346): it is read and checked, and phase 1 loads the image's records into the shadow planes. Where an MIT
holds the partition's requests (R292), it waits. -/
def State.commitAt (s : State) (p : PartId) (ipa : BitVec 64) : State :=
  let later := s.modPart p fun y => { y with commits := y.commits ++ [ipa] }
  if !s.ipaServed p ipa.toNat 128 then later
  else match s.ipaNum p ipa.toNat 128 with
  | .error f => (s.postAny p { kind := f.kind, gen := 12, aux := f.aux, va := ipa }).2
  | .ok x =>
    let (q, form) := commitReq x
    if descBadForm q.desc then s.failCommit p q 0 (.refuse 1)
    else if !s.slotsServed p then later
    else match s.bindEnts p q.rg q.gen with
      | .error f => s.failCommit p q 0 (.trans f 0)
      | .ok ents =>
        match if form then foldOf ents else none with
        | none => s.failCommit p q 0 (.bad 0)
        | some fold =>
          if !s.bindsOk p fold ents then s.failCommit p q 0 (.bad 0)
          else
            let (x, s1) := s.readImage p q.desc
            let circs := (x.graph q.desc).elim 0 fun y => circCount ((y.2.filter fun z => z.1.applies fold).map (·.1))
            if (match x.cut with | some .waits => true | _ => false) || !s1.routesServed p q.route circs then later
            else match s1.planCommit p q fold ents x with
              | .error e => s1.failCommit p q ((x.graph q.desc).elim 0 (·.1.id)) e
              | .ok r => { s1 with regions := s1.regions ++ [r], newId := s1.newId + 1 }
/-- COMMIT_REQUEST (R346). -/
def execCommitRequest (p : PartId) (ipa : BitVec 64) (s : State) : Out := .next (if !(s.part p).live then s else s.commitAt p ipa)
/-- Commit requests that waited are taken again, in their order (R292). -/
def State.commitsAgain (s : State) (p : PartId) : State :=
  (s.part p).commits.foldl (fun s ipa => s.commitAt p ipa) (s.modPart p fun y => { y with commits := [] })

/-- Every target tile of a fetched region is free: no other region is placed on it (R346). -/
def State.tilesFree (s : State) (r : Region) : Bool :=
  r.tiles.all fun t => !((s.tile t).ph.toList.any (·.placed))
/-- Tiles of a failed second phase: free and zeroed, their owner as it is (R347). -/
def State.zeroTiles (s : State) (r : Region) : State := r.tiles.foldl (fun s t => s.modTile t Tile.zeroed) s
/-- The regions and slices of an image are registered (R120, R297). -/
def State.register (s : State) (p : PartId) (rs : List ImgRec) : State :=
  let fs := (rs.map fun r => if r.ty.toNat = 0x0B then r.frames p else []).flatten
  let cs := (rs.map fun r => if r.ty.toNat = 0x0C then r.slices else []).flatten
  let s1 := fs.foldl (fun s f => if s.vregs.contains f then s else { s with vregs := s.vregs ++ [f] }) s
  cs.foldl (fun s (id, start, ws) =>
    if s.slices.any fun c => c.part == p && c.id == id then s else { s with slices := s.slices ++ [{ part := p, id := id, start := start, words := ws }] }) s1
/-- The arguments as bytes in their place of logical tile (0, 0) (R317). -/
def State.putArgs (s : State) (r : Region) : State :=
  if !tbit r.desc (64 * 4) then s
  else match r.binds.find? fun b => b.lx == 0 && b.ly == 0 with
    | none => s
    | some b =>
      let a := b.ph.toNat * shareBytes r.fold + dfld r.desc 4 31 19 * 64
      s.modTile b.tile fun x => { x with spad := memWrite x.spad a (leBytes 24 (fld r.desc.toNat 511 320)) }
/-- The snapshot that a region's context area holds for its graph (R324, log 16). -/
def State.snapFor (s : State) (r : Region) : Option Snapshot :=
  (s.snaps.find? fun x => x.1 == r.part && x.2.1 == r.ctxIpa && x.2.2.graph == r.graph && x.2.2.desc == r.desc).map (·.2.2)
/-- Places a region: every tile switches to its shadow planes at once (R346), its stores written and its versioned regions and slices
registered from the records read again. A snapshot found in its context area is restored instead of the image's start (R324, log 16). -/
def State.place (s : State) (r : Region) (recs : List ImgRec) : State :=
  let s1 := r.tiles.foldl (fun s t => s.modTile t fun x => x.cleared r.fold) s
  let s2 := r.binds.foldl (fun s b =>
    s.modTile b.tile fun x =>
      let y := storesOf recs r.fold b x
      { y with
        ph := vset y.ph b.ph.toNat (ltileOf r.image r.key b s.cycle)
        tasks := (tasksOf r.image b).foldl (fun v (k, t) => vset v k.toNat t) y.tasks }) s1
  let s3 := s2.register r.part recs
  let live : Region := { r with st := .live, born := s.cycle, ownAt := s.cycle }
  match s.snapFor r with
  | some q =>
    let s4 := (r.binds.foldl (fun s b => s.restoreTile r.key r.fold q b) s3).giveCtxs r.part r.key q.ctxs
    let r1 := { live with circs := restoreCircs q r.circs, ckpt := some q }
    { s4 with
      regions := s4.regions.map fun x => if x.key = r.key then r1 else x
      snaps := s4.snaps.filter fun x => !(x.1 == r.part && x.2.1 == r.ctxIpa) }
  | none =>
    let prime := fun (c : Circuit) =>
      if 16 ≤ c.src.ep.toNat ∧ c.src.side = 1 then primeToks (vget (s3.lt c.src.tile c.src.ph).junc (c.src.ep.toNat - 16) {}) else []
    let r1 := { live with circs := r.circs.map fun c => { c with entry := prime c, flight := [] } }
    let s4 : State := { s3 with regions := s3.regions.map fun x => if x.key = r.key then r1 else x }
    let s5 := s4.putArgs r1
    let ck := s5.saveRegion { r1 with circs := r1.circs.map fun c => { c with caught := c.entry } }
    s5.modRegion r.key fun x => { x with ckpt := some ck }
/-- What ends a second phase (R347): a fault of the second read, a registration that has come meanwhile (R120, R297), or a route that the
fabric no longer has (R343, R344, log 54). -/
def State.phase2Bad (s : State) (r : Region) (x : Img) : Option CommitErr :=
  match x.cut, x.form, x.bad, x.graph r.desc with
  | some (.fault f off), _, _, _ => some (.trans f off)
  | _, some e, _, _ => some (.fetch e)
  | _, _, some e, _ => some (.fetch e)
  | _, _, _, none => some (.fetch (0x30, 0))
  | _, _, _, some (_, l) =>
    match variantCheck s r.part r.fold [] (l.filter fun y => y.1.applies r.fold) with
    | some e => some (.fetch e)
    | none => (s.routesBad r.part r.image s.hopsUsed r.circs).map .bad
/-- A region is placed, or it ends: its context area holds a snapshot that cannot be read (R357, R367). -/
def State.placeOr (s : State) (r : Region) (recs : List ImgRec) : State :=
  if (s.snapFor r).isSome && s.ctxLost r then
    let s1 : State := { s with snaps := s.snaps.filter fun x => !(x.1 == r.part && x.2.1 == r.ctxIpa) }
    s1.rollFail r 0x33
  else s.place r recs
/-- FETCH_PHASE_2 (R346, R347): once the target tiles are free the image is read again, its data is written, and the region commits. -/
def execFetchPhase2 (rg : Nat) (s : State) : Out :=
  .next (match s.region rg with
    | none => s
    | some r =>
      if r.st ≠ .fetched ∨ !s.tilesFree r then s
      else
        let q : CommitReq := { desc := r.desc, rg := r.id, gen := r.gen, ctx := r.ctxIpa, route := 0 }
        let (x, s1) := s.readImage r.part r.desc
        if (match x.cut with | some .waits => true | _ => false) then s
        else match s1.phase2Bad r x with
          | some e =>
            let s2 := s1.zeroTiles r
            ({ s2 with regions := s2.regions.filter fun y => y.key != rg }).failCommit r.part q r.graph e
          | none =>
            let (pr, s2) := s1.takeDesc r.part r.desc
            s2.placeOr { r with prio := pr } (((x.graph r.desc).elim [] fun y => y.2.map (·.1)).filter fun y => y.applies r.fold))

/-! ## Completion (R318) -/

/-- A token stands in a port or junction of a logical tile, or in a junction's sequence. -/
def LTile.holds (x : LTile) : Bool :=
  x.inP.toList.any (fun p => !p.fifo.isEmpty) || x.outP.toList.any (fun p => !p.fifo.isEmpty) ||
  x.junc.toList.any fun y => y.loop.isSome || y.buf.toList.any fun b => !b.isEmpty
/-- Slots of a region's tasks on a tile. -/
def State.slotsOn (s : State) (b : Bind) : List SlotId :=
  ((upTo 15).map (BitVec.ofNat 4)).filter fun k => (s.task b.tile k).st != .absent && (s.task b.tile k).phase == b.ph
/-- A command, run, token instruction, delivery or syntax job of a logical tile is unfinished. -/
def State.workOn (s : State) (b : Bind) : Bool :=
  let x := s.tile b.tile
  let mine := fun (k : SlotId) => k != 15 && (s.task b.tile k).phase == b.ph
  x.cmds.any (fun c => c.slot != 15 && c.phase == b.ph) || x.sq.any (fun r => mine r.slot) || x.mq.any (fun i => mine i.slot) ||
  x.vpipe.any (fun o => mine o.slot) || x.ll.any (fun o => mine o.slot)
/-- A token stands on a circuit. -/
def Circuit.holds (c : Circuit) : Bool := !c.entry.isEmpty || !c.flight.isEmpty
/-- A region's graph completes (R318): slot 15 counts for nothing (R382), and a rollback that is due comes first (R367). -/
def State.completes (s : State) (r : Region) : Bool :=
  !r.rbReq &&
  let ks := (r.binds.map fun b => (s.slotsOn b).map fun k => (s.task b.tile k).st).flatten
  ks.all (fun k => k == .idle || k == .retired) && ks.any (· == .retired) &&
  r.binds.all (fun b => !(s.lt b.tile b.ph).holds && !s.workOn b) && r.circs.all (fun c => !c.holds) &&
  !(s.ops.any fun o => o.rkey == r.key && o.slot != 15)
/-- GRAPH_COMPLETE (R318): the region is released, and its completion version is created with status 0. -/
def execGraphComplete (rg : Nat) (s : State) : Out :=
  .next (match s.region rg with
    | none => s
    | some r =>
      if r.st ≠ .live ∨ !s.completes r then s
      else (((s.closeInterval r).lateEnd r).release r).completion r.part r.desc r.graph (2 ^ r.fold.toNat) 0)

end Sys2Proof.Machine
end

