-- ==== Sys2Proof/Machine/LoadStore.lean ====
section
/-! DEFINITION. Loads and stores of scratchpad (groups 0x05 and 0x06, R63 to R65, R70). -/
namespace Sys2Proof.Machine

/-! ## Shared forms -/

/-- A scalar load of n bytes: g[d] := f of the little-endian value (R70). -/
def loadG (s : State) (d a : BitVec 4) (w : Bool) (i : BitVec 15) (n : Nat) (f : Nat → DWord) : State :=
  needG s a w 4 fun x => needD s d (gate s (needLd s (effAddr x i n) n fun ea =>
    if s.spMarked ea n then trap s 7 0 (w64 ea) else advance (s.setG d (f (s.spN ea n))) 1))
/-- A scalar store of the low n bytes of g[d] (R70). -/
def storeG (s : State) (d a : BitVec 4) (w : Bool) (i : BitVec 15) (n : Nat) : State :=
  needG s a w 4 fun x => needG s d w 3 fun y => gateW s (needSt s (effAddr x i n) n fun ea =>
    advance (s.spStore ea n (y.toNat % 256 ^ n)) 1)
/-- Sixteen words from an address as a token: each word's mark becomes its lane's poison bit (R65, R70). -/
def State.loadTok (s : State) (ea : Nat) : Token :=
  ⟨.ofNat 512 (s.spN ea 64), 0xFFFF, bits16 fun k => s.spMark (ea + 4 * k), 0, .data⟩
/-- Stores lanes k, k + 1, … of a token: each valid lane's four bytes and its mark (R70). -/
def State.storeLanes (s : State) (x : Token) (ea : Nat) : List Nat → State
  | [] => s
  | k :: r =>
    (if x.val k then (s.spPut (ea + 4 * k) (leBytes 4 (x.lane k))).spSetMark (ea + 4 * k) (x.pois k) else s).storeLanes x ea r
/-- Sign extension of an n-bit pattern to 64 bits. -/
def sext64 (n x : Nat) : DWord := .ofInt 64 (sgn n x)

/-! ## Loads (group 0x05) -/

/-- `ld.b` (R70). -/
def execLdB (d a : BitVec 4) (w : Bool) (i : BitVec 15) (s : State) : Out :=
  .next (loadG s d a w i 1 (sext64 8))
/-- `ld.h` (R70). -/
def execLdH (d a : BitVec 4) (w : Bool) (i : BitVec 15) (s : State) : Out :=
  .next (loadG s d a w i 2 (sext64 16))
/-- `ld.w` (R70). -/
def execLdW (d a : BitVec 4) (w : Bool) (i : BitVec 15) (s : State) : Out :=
  .next (loadG s d a w i 4 (sext64 32))
/-- `ld.d` (R70). -/
def execLdD (d a : BitVec 4) (w : Bool) (i : BitVec 15) (s : State) : Out :=
  .next (loadG s d a w i 8 (w64))
/-- `ld.bz` (R70). -/
def execLdBz (d a : BitVec 4) (w : Bool) (i : BitVec 15) (s : State) : Out :=
  .next (loadG s d a w i 1 (w64))
/-- `ld.hz` (R70). -/
def execLdHz (d a : BitVec 4) (w : Bool) (i : BitVec 15) (s : State) : Out :=
  .next (loadG s d a w i 2 (w64))
/-- `ld.wz` (R70). -/
def execLdWz (d a : BitVec 4) (w : Bool) (i : BitVec 15) (s : State) : Out :=
  .next (loadG s d a w i 4 (w64))
/-- `ld.t` (R70): all lanes valid, tag 0, kind data; it never traps on marks. -/
def execLdT (d : BitVec 3) (a : BitVec 4) (w : Bool) (i : BitVec 15) (s : State) : Out :=
  .next (needG s a w 4 fun x => needW s d (gate s (needLd s (effAddr x i 64) 64 fun ea =>
    advance (s.setW d (s.loadTok ea)) 1)))

/-! ## Stores (group 0x06) -/

/-- `st.b` (R70). -/
def execStB (d a : BitVec 4) (w : Bool) (i : BitVec 15) (s : State) : Out :=
  .next (storeG s d a w i 1)
/-- `st.h` (R70). -/
def execStH (d a : BitVec 4) (w : Bool) (i : BitVec 15) (s : State) : Out :=
  .next (storeG s d a w i 2)
/-- `st.w` (R70). -/
def execStW (d a : BitVec 4) (w : Bool) (i : BitVec 15) (s : State) : Out :=
  .next (storeG s d a w i 4)
/-- `st.d` (R70). -/
def execStD (d a : BitVec 4) (w : Bool) (i : BitVec 15) (s : State) : Out :=
  .next (storeG s d a w i 8)
/-- `st.t` (R70): invalid lanes leave their bytes and marks. -/
def execStT (d : BitVec 3) (a : BitVec 4) (w : Bool) (i : BitVec 15) (s : State) : Out :=
  .next (needG s a w 4 fun x => needW s d (gateW s (needSt s (effAddr x i 64) 64 fun ea =>
    advance (s.storeLanes (s.w d) ea (upTo 16)) 1)))

end Sys2Proof.Machine
end

