-- ==== Sys2Proof/Machine/Scalar.lean ====
section
/-! DEFINITION. The scalar families: integer arithmetic, immediates, constants and base registers (groups 0x01 to 0x04, R66 to R69). -/
namespace Sys2Proof.Machine

/-! ## Shared forms -/

/-- g[d] := f(g[s1], g[s2]) with the checks of R66. -/
def scalar2 (s : State) (d a b : BitVec 4) (w v : Bool) (f : DWord → DWord → DWord) : State :=
  needG s a w 4 fun x => needG s b v 5 fun y => needD s d (advance (s.setG d (f x y)) 1)
/-- g[d] := f(g[s1]) with the checks of R66. -/
def scalar1 (s : State) (d a : BitVec 4) (w : Bool) (f : DWord → DWord) : State :=
  needG s a w 4 fun x => needD s d (advance (s.setG d (f x)) 1)
/-- b[d] := x; a b destination is never pending. -/
def writeB (s : State) (d : BitVec 3) (x : VAddr) : State := advance (s.setB d x) 1

/-! ## Results (R66) -/

/-- Trailing zeros, at most n. -/
def ctzN : Nat → Nat → Nat
  | 0, _ => 0
  | n + 1, x => if x % 2 = 1 then 0 else 1 + ctzN n (x / 2)
/-- 1 or 0. -/
def flag (p : Bool) : DWord := if p then 1 else 0
/-- A signed quotient truncated toward zero; −1 for a zero divisor. -/
def opDiv (x y : DWord) : DWord := if y = 0 then .allOnes 64 else .ofInt 64 (x.toInt.tdiv y.toInt)
/-- An unsigned quotient; 2^64 − 1 for a zero divisor. -/
def opDivu (x y : DWord) : DWord := if y = 0 then .allOnes 64 else .ofNat 64 (x.toNat / y.toNat)
/-- A signed remainder with the sign of the dividend; the dividend for a zero divisor. -/
def opRem (x y : DWord) : DWord := if y = 0 then x else .ofInt 64 (x.toInt.tmod y.toInt)
/-- An unsigned remainder; the dividend for a zero divisor. -/
def opRemu (x y : DWord) : DWord := if y = 0 then x else .ofNat 64 (x.toNat % y.toNat)
/-- Bits [127:64] of the signed product. -/
def opMulh (x y : DWord) : DWord := .ofInt 64 (x.toInt * y.toInt / 2 ^ 64)
/-- Bits [127:64] of the unsigned product. -/
def opMulhu (x y : DWord) : DWord := .ofNat 64 (x.toNat * y.toNat / 2 ^ 64)
/-- Sign extension of the low bits that a width names. -/
def opSext (n : ExtWidth) (x : DWord) : DWord :=
  match n with
  | .w8 => (x.setWidth 8).signExtend 64 | .w16 => (x.setWidth 16).signExtend 64 | .w32 => (x.setWidth 32).signExtend 64
/-- Zero extension of the low bits that a width names. -/
def opZext (n : ExtWidth) (x : DWord) : DWord :=
  match n with
  | .w8 => (x.setWidth 8).setWidth 64 | .w16 => (x.setWidth 16).setWidth 64 | .w32 => (x.setWidth 32).setWidth 64
/-- A constant with a field replaced (R68). -/
def opLis (n width : Nat) (x : DWord) (i : Nat) : DWord :=
  (x &&& ~~~(.ofNat 64 ((2 ^ width - 1) <<< n))) ||| .ofNat 64 (i <<< n)
/-- An address with the offset moved, carries out of bit 47 dropped (R69). -/
def offsetBy (x : VAddr) (n : DWord) : VAddr := x.extractLsb' 48 32 ++ (x.extractLsb' 0 48 + n.setWidth 48)
/-- An address from a window and its low 64 bits (R69). -/
def inWindow (win : DWord) (low : DWord) : VAddr := win.setWidth 16 ++ low

/-! ## Integer arithmetic (group 0x01, R66) -/

/-- `add` (R66). -/
def execAdd (d a b : BitVec 4) (w v : Bool) (s : State) : Out :=
  .next (scalar2 s d a b w v fun x y => x + y)
/-- `sub` (R66). -/
def execSub (d a b : BitVec 4) (w v : Bool) (s : State) : Out :=
  .next (scalar2 s d a b w v fun x y => x - y)
/-- `mul` (R66). -/
def execMul (d a b : BitVec 4) (w v : Bool) (s : State) : Out :=
  .next (scalar2 s d a b w v fun x y => x * y)
/-- `mulh` (R66). -/
def execMulh (d a b : BitVec 4) (w v : Bool) (s : State) : Out :=
  .next (scalar2 s d a b w v fun x y => opMulh x y)
/-- `mulhu` (R66). -/
def execMulhu (d a b : BitVec 4) (w v : Bool) (s : State) : Out :=
  .next (scalar2 s d a b w v fun x y => opMulhu x y)
/-- `div` (R66). -/
def execDiv (d a b : BitVec 4) (w v : Bool) (s : State) : Out :=
  .next (scalar2 s d a b w v fun x y => opDiv x y)
/-- `divu` (R66). -/
def execDivu (d a b : BitVec 4) (w v : Bool) (s : State) : Out :=
  .next (scalar2 s d a b w v fun x y => opDivu x y)
/-- `rem` (R66). -/
def execRem (d a b : BitVec 4) (w v : Bool) (s : State) : Out :=
  .next (scalar2 s d a b w v fun x y => opRem x y)
/-- `remu` (R66). -/
def execRemu (d a b : BitVec 4) (w v : Bool) (s : State) : Out :=
  .next (scalar2 s d a b w v fun x y => opRemu x y)
/-- `and` (R66). -/
def execAnd (d a b : BitVec 4) (w v : Bool) (s : State) : Out :=
  .next (scalar2 s d a b w v fun x y => x &&& y)
/-- `or` (R66). -/
def execOr (d a b : BitVec 4) (w v : Bool) (s : State) : Out :=
  .next (scalar2 s d a b w v fun x y => x ||| y)
/-- `xor` (R66). -/
def execXor (d a b : BitVec 4) (w v : Bool) (s : State) : Out :=
  .next (scalar2 s d a b w v fun x y => x ^^^ y)
/-- `andn` (R66). -/
def execAndn (d a b : BitVec 4) (w v : Bool) (s : State) : Out :=
  .next (scalar2 s d a b w v fun x y => x &&& ~~~y)
/-- `sll` (R66). -/
def execSll (d a b : BitVec 4) (w v : Bool) (s : State) : Out :=
  .next (scalar2 s d a b w v fun x y => x <<< (y.toNat % 64))
/-- `srl` (R66). -/
def execSrl (d a b : BitVec 4) (w v : Bool) (s : State) : Out :=
  .next (scalar2 s d a b w v fun x y => x >>> (y.toNat % 64))
/-- `sra` (R66). -/
def execSra (d a b : BitVec 4) (w v : Bool) (s : State) : Out :=
  .next (scalar2 s d a b w v fun x y => x.sshiftRight (y.toNat % 64))
/-- `slt` (R66). -/
def execSlt (d a b : BitVec 4) (w v : Bool) (s : State) : Out :=
  .next (scalar2 s d a b w v fun x y => flag (x.slt y))
/-- `sltu` (R66). -/
def execSltu (d a b : BitVec 4) (w v : Bool) (s : State) : Out :=
  .next (scalar2 s d a b w v fun x y => flag (x.ult y))
/-- `min` (R66). -/
def execMin (d a b : BitVec 4) (w v : Bool) (s : State) : Out :=
  .next (scalar2 s d a b w v fun x y => if x.slt y then x else y)
/-- `max` (R66). -/
def execMax (d a b : BitVec 4) (w v : Bool) (s : State) : Out :=
  .next (scalar2 s d a b w v fun x y => if x.slt y then y else x)
/-- `minu` (R66). -/
def execMinu (d a b : BitVec 4) (w v : Bool) (s : State) : Out :=
  .next (scalar2 s d a b w v fun x y => if x.ult y then x else y)
/-- `maxu` (R66). -/
def execMaxu (d a b : BitVec 4) (w v : Bool) (s : State) : Out :=
  .next (scalar2 s d a b w v fun x y => if x.ult y then y else x)
/-- `clz` (R66). -/
def execClz (d a : BitVec 4) (w : Bool) (s : State) : Out :=
  .next (scalar1 s d a w fun x => .ofNat 64 (64 - bitLen x.toNat))
/-- `ctz` (R66). -/
def execCtz (d a : BitVec 4) (w : Bool) (s : State) : Out :=
  .next (scalar1 s d a w fun x => .ofNat 64 (ctzN 64 x.toNat))
/-- `popc` (R66). -/
def execPopc (d a : BitVec 4) (w : Bool) (s : State) : Out :=
  .next (scalar1 s d a w fun x => .ofNat 64 (popN 64 x.toNat))
/-- `mov` (R66). -/
def execMov (d a : BitVec 4) (w : Bool) (s : State) : Out :=
  .next (scalar1 s d a w fun x => x)
/-- `sext` (R66). -/
def execSext (d a : BitVec 4) (w : Bool) (n : ExtWidth) (s : State) : Out :=
  .next (scalar1 s d a w (opSext n))
/-- `zext` (R66). -/
def execZext (d a : BitVec 4) (w : Bool) (n : ExtWidth) (s : State) : Out :=
  .next (scalar1 s d a w (opZext n))

/-! ## Immediates (group 0x02, R67) -/

/-- `addi` (R67). -/
def execAddi (d a : BitVec 4) (w : Bool) (i : BitVec 15) (s : State) : Out :=
  .next (scalar1 s d a w fun x => x + i.signExtend 64)
/-- `andi` (R67). -/
def execAndi (d a : BitVec 4) (w : Bool) (i : BitVec 15) (s : State) : Out :=
  .next (scalar1 s d a w fun x => x &&& i.signExtend 64)
/-- `ori` (R67). -/
def execOri (d a : BitVec 4) (w : Bool) (i : BitVec 15) (s : State) : Out :=
  .next (scalar1 s d a w fun x => x ||| i.signExtend 64)
/-- `xori` (R67). -/
def execXori (d a : BitVec 4) (w : Bool) (i : BitVec 15) (s : State) : Out :=
  .next (scalar1 s d a w fun x => x ^^^ i.signExtend 64)
/-- `slli` (R67). -/
def execSlli (d a : BitVec 4) (w : Bool) (i : BitVec 6) (s : State) : Out :=
  .next (scalar1 s d a w fun x => x <<< i.toNat)
/-- `srli` (R67). -/
def execSrli (d a : BitVec 4) (w : Bool) (i : BitVec 6) (s : State) : Out :=
  .next (scalar1 s d a w fun x => x >>> i.toNat)
/-- `srai` (R67). -/
def execSrai (d a : BitVec 4) (w : Bool) (i : BitVec 6) (s : State) : Out :=
  .next (scalar1 s d a w fun x => x.sshiftRight i.toNat)
/-- `slti` (R67). -/
def execSlti (d a : BitVec 4) (w : Bool) (i : BitVec 15) (s : State) : Out :=
  .next (scalar1 s d a w fun x => flag (x.slt (i.signExtend 64)))

/-! ## Constants (group 0x03, R68) -/

/-- `li` (R68). -/
def execLi (d : BitVec 4) (i : BitVec 15) (s : State) : Out :=
  .next (needD s d (advance (s.setG d (i.signExtend 64)) 1))
/-- `li.s15` (R68): d is its source, field 3. -/
def execLiS15 (d : BitVec 4) (w : Bool) (i : BitVec 15) (s : State) : Out :=
  .next (needG s d w 3 fun x => advance (s.setG d (opLis 15 15 x i.toNat)) 1)
/-- `li.s30` (R68): d is its source, field 3. -/
def execLiS30 (d : BitVec 4) (w : Bool) (i : BitVec 15) (s : State) : Out :=
  .next (needG s d w 3 fun x => advance (s.setG d (opLis 30 15 x i.toNat)) 1)
/-- `li.s45` (R68): d is its source, field 3. -/
def execLiS45 (d : BitVec 4) (w : Bool) (i : BitVec 15) (s : State) : Out :=
  .next (needG s d w 3 fun x => advance (s.setG d (opLis 45 15 x i.toNat)) 1)
/-- `li.s60` (R68): only bits 63:60 exist. -/
def execLiS60 (d : BitVec 4) (w : Bool) (i : BitVec 4) (s : State) : Out :=
  .next (needG s d w 3 fun x => advance (s.setG d (opLis 60 4 x i.toNat)) 1)

/-! ## Base registers (group 0x04, R69) -/

/-- `b.mov` (R69). -/
def execBMov (d a : BitVec 3) (s : State) : Out :=
  .next (writeB s d (s.b a))
/-- `b.add` (R69). -/
def execBAdd (d a : BitVec 3) (b : BitVec 4) (v : Bool) (s : State) : Out :=
  .next (needG s b v 5 fun y => writeB s d (offsetBy (s.b a) y))
/-- `b.addi` (R69): mod counts 64 bytes, signed. -/
def execBAddi (d a : BitVec 3) (n : BitVec 8) (s : State) : Out :=
  .next (writeB s d (offsetBy (s.b a) (n.signExtend 64 * 64)))
/-- `b.win` (R69). -/
def execBWin (d : BitVec 3) (a b : BitVec 4) (w v : Bool) (s : State) : Out :=
  .next (needG s a w 4 fun x => needG s b v 5 fun y => writeB s d (inWindow x y))
/-- `b.get` (R69). -/
def execBGet (d : BitVec 4) (a : BitVec 3) (s : State) : Out :=
  .next (needD s d (advance (s.setG d ((s.b a).setWidth 64)) 1))
/-- `b.gwin` (R69). -/
def execBGwin (d : BitVec 4) (a : BitVec 3) (s : State) : Out :=
  .next (needD s d (advance (s.setG d (((s.b a).extractLsb' 64 16).setWidth 64)) 1))
/-- `b.cpy` (R69). -/
def execBCpy (d a : BitVec 3) (b : BitVec 4) (v : Bool) (s : State) : Out :=
  .next (needG s b v 5 fun y => writeB s d (inWindow y ((s.b a).setWidth 64)))

end Sys2Proof.Machine
end

