-- ==== Sys2Proof/Machine/System.lean ====
section
/-! DEFINITION. System registers, trap instructions and fences (group 0x0B, R81 to R86). -/
namespace Sys2Proof.Machine

/-- FLTQ: bit e is set while stream engine e is stopped by a fault (R82), or was at the save that a restore has put back (R323). -/
def Tile.fltq (x : Tile) : Nat := unchunk 1 (x.eng.toList.map fun e => (e.stop.isSome || e.flt).toNat)

/-- The value that `sysr` reads (R74, R82). -/
def State.sysReg (s : State) (r : SReg) : DWord :=
  let x := s.curLt
  let k := s.cur
  match r with
  | .tileid => w64 (x.lx.toNat + 256 * x.ly.toNat + 65536 * (((s.region x.key).map (·.graph.toNat)).getD 0))
  | .taskid => w64 (k.img.toNat + 16 * k.high.toNat)
  | .acr => x.acr.setWidth 64
  | .ssp => k.ssp
  | .cyc => w64 (s.cycle - x.born)
  | .fltq => w64 (s.tile s.ctx.tile).fltq
  | .ntile => x.ntile
  | .nlane => x.nlane
  | .nfmt => x.nfmt
  | .npc => x.npc
  | .tcause => k.tcause
  | .tpc => k.tpc
  | .tval => k.tval

/-- Writes the RW fields of a system register; RO fields and registers stay as they are (R29, R74, R82). -/
def State.sysWrite (s : State) (r : SReg) (v : DWord) : State :=
  match r with
  | .acr => s.modCurLt fun x =>
      { x with acr := ((x.acr &&& 8) &&& ~~~(v.setWidth 4 &&& 8)) ||| (v.setWidth 4 &&& 7) }
  | .ssp => s.modCur fun k => { k with ssp := v &&& 0x0007_FFF8_0007_FFF8 }
  | .tpc => s.modCur fun k => { k with tpc := v &&& 0x1FFF }
  | _ => s

/-- `sysr` (R81). -/
def execSysr (g : BitVec 4) (r : SReg) (s : State) : Out :=
  .next (needD s g (advance (s.setG g (s.sysReg r)) 1))
/-- `sysw` (R81): g is field 3. -/
def execSysw (g : BitVec 4) (w : Bool) (r : SReg) (s : State) : Out :=
  .next (needG s g w 3 fun x => advance (s.sysWrite r x) 1)

/-- `trap` (R83): cause SOFT, TVAL the code. -/
def execTrap (c : BitVec 7) (s : State) : Out := .next (trap s 12 0 (c.setWidth 64))
/-- `bkpt` (R83): cause BKPT. -/
def execBkpt (s : State) : Out := .next (trap s 13 0 0)
/-- Words of the instruction at an index: 4 at a W0 of group 0x1F (R83). -/
def State.wordLen (s : State) (i : Nat) : Nat := if i < s.limit ∧ major (s.word i) = 0x1F then 4 else 1
/-- `eret` (R83): back to TPC, past the trapped instruction if asked, with TCAUSE cleared. -/
def execEret (k : Bool) (s : State) : Out :=
  .next (
    let p := bfld s.cur.tpc 12 0
    if bfld s.cur.tcause 7 0 = 0 then trap s 11 0 0
    else s.modCur fun x =>
      { x with st := .ready, mark := none, tcause := 0, pc := p + if k then s.wordLen p else 0 })

/-- A fence: it parks until every earlier memory operation of the task has been performed, an acquire until the earlier reads have
(R86). Operations are performed for every party at once here, which is the widest scope and serves each scope named (R252, log 18). -/
def fence (s : State) (k : FenceKind) : State :=
  if s.opsOut (k == .acq) then park s .fence else advance s 1
/-- `fence.t` (R86). -/
def execFenceT (k : FenceKind) (s : State) : Out := .next (fence s k)
/-- `fence.r` (R86). -/
def execFenceR (k : FenceKind) (s : State) : Out := .next (fence s k)
/-- `fence.d` (R86). -/
def execFenceD (k : FenceKind) (s : State) : Out := .next (fence s k)
/-- `fence.s` (R86). -/
def execFenceS (k : FenceKind) (s : State) : Out := .next (fence s k)

end Sys2Proof.Machine
end

