-- ==== Sys2Proof/Machine/TokenInt.lean ====
section
/-! DEFINITION. Token instructions of group 0x12: integer operations (R180). -/
namespace Sys2Proof.Machine

/-- The integer form on two's complement elements of width W (R180). -/
def intOp (s : State) (d a b : BitVec 4) (k : Option (BitVec 2)) (e : EType) (g : Nat → Nat → Nat → Nat) : State :=
  bitOp s [a, b] d k e fun xs => g (etWidth e) (xs.getD 0 0) (xs.getD 1 0)
/-- An integer clamped to W bits, signed. -/
def clampW (w : Nat) (x : Int) : Nat :=
  unsgn w (if x < -(2 ^ (w - 1) : Nat) then -(2 ^ (w - 1) : Nat) else if (2 ^ (w - 1) : Nat) - 1 < x then (2 ^ (w - 1) : Nat) - 1 else x)
/-- All ones of W bits, or zero. -/
def onesIf (w : Nat) (p : Bool) : Nat := if p then 2 ^ w - 1 else 0

/-- `v.iadd` (R180). -/
def execVIadd (d a b : BitVec 4) (k : Option (BitVec 2)) (e : EType) (s : State) : Out :=
  .next (intOp s d a b k e fun w x y => (x + y) % 2 ^ w)
/-- `v.isub` (R180). -/
def execVIsub (d a b : BitVec 4) (k : Option (BitVec 2)) (e : EType) (s : State) : Out :=
  .next (intOp s d a b k e fun w x y => (x + 2 ^ w - y) % 2 ^ w)
/-- `v.imul` (R180). -/
def execVImul (d a b : BitVec 4) (k : Option (BitVec 2)) (e : EType) (s : State) : Out :=
  .next (intOp s d a b k e fun w x y => x * y % 2 ^ w)
/-- `v.and` (R180). -/
def execVAnd (d a b : BitVec 4) (k : Option (BitVec 2)) (e : EType) (s : State) : Out :=
  .next (intOp s d a b k e fun _ x y => x &&& y)
/-- `v.or` (R180). -/
def execVOr (d a b : BitVec 4) (k : Option (BitVec 2)) (e : EType) (s : State) : Out :=
  .next (intOp s d a b k e fun _ x y => x ||| y)
/-- `v.xor` (R180). -/
def execVXor (d a b : BitVec 4) (k : Option (BitVec 2)) (e : EType) (s : State) : Out :=
  .next (intOp s d a b k e fun _ x y => x ^^^ y)
/-- `v.shl` (R180). -/
def execVShl (d a b : BitVec 4) (k : Option (BitVec 2)) (e : EType) (s : State) : Out :=
  .next (intOp s d a b k e fun w x y => x * 2 ^ (y % w) % 2 ^ w)
/-- `v.shr` (R180). -/
def execVShr (d a b : BitVec 4) (k : Option (BitVec 2)) (e : EType) (s : State) : Out :=
  .next (intOp s d a b k e fun w x y => x / 2 ^ (y % w))
/-- `v.sra` (R180). -/
def execVSra (d a b : BitVec 4) (k : Option (BitVec 2)) (e : EType) (s : State) : Out :=
  .next (intOp s d a b k e fun w x y => unsgn w (sgn w x / (2 ^ (y % w) : Nat)))
/-- `v.imin` (R180). -/
def execVImin (d a b : BitVec 4) (k : Option (BitVec 2)) (e : EType) (s : State) : Out :=
  .next (intOp s d a b k e fun w x y => if sgn w x ≤ sgn w y then x else y)
/-- `v.imax` (R180). -/
def execVImax (d a b : BitVec 4) (k : Option (BitVec 2)) (e : EType) (s : State) : Out :=
  .next (intOp s d a b k e fun w x y => if sgn w x ≤ sgn w y then y else x)
/-- `v.adds` (R180). -/
def execVAdds (d a b : BitVec 4) (k : Option (BitVec 2)) (e : EType) (s : State) : Out :=
  .next (intOp s d a b k e fun w x y => clampW w (sgn w x + sgn w y))
/-- `v.subs` (R180). -/
def execVSubs (d a b : BitVec 4) (k : Option (BitVec 2)) (e : EType) (s : State) : Out :=
  .next (intOp s d a b k e fun w x y => clampW w (sgn w x - sgn w y))
/-- `v.ieq` (R180). -/
def execVIeq (d a b : BitVec 4) (k : Option (BitVec 2)) (e : EType) (s : State) : Out :=
  .next (intOp s d a b k e fun w x y => onesIf w (x == y))
/-- `v.ilt` (R180). -/
def execVIlt (d a b : BitVec 4) (k : Option (BitVec 2)) (e : EType) (s : State) : Out :=
  .next (intOp s d a b k e fun w x y => onesIf w (decide (sgn w x < sgn w y)))
/-- `v.iltu` (R180). -/
def execVIltu (d a b : BitVec 4) (k : Option (BitVec 2)) (e : EType) (s : State) : Out :=
  .next (intOp s d a b k e fun w x y => onesIf w (decide (x < y)))

end Sys2Proof.Machine
end

