-- ==== Sys2Proof/Machine/Freeze.lean ====
section
/-! DEFINITION. Freezing a region: pre-emption, checkpoints and rollback, and the progress event (R196, R316, R322 to R325, R353, R366, R367). -/
namespace Sys2Proof.Machine

/-! ## Freezing (R196, R322) -/

/-- The state of an outcome that goes on. -/
def nextOr (s : State) : Out → State
  | .next t => t
  | _ => s
/-- Completes the token instructions of a tile in flight, so that every reserved slot gets its token (R196, R322). -/
def drainPipe : Nat → Nat → State → State
  | 0, _, s => s
  | n + 1, t, s => if (s.tile t).vpipe.isEmpty then s else drainPipe n t (nextOr s (execTokenOpComplete t s))
/-- Delivers the results of a tile that are on their way to g registers. -/
def drainLl : Nat → Nat → State → State
  | 0, _, s => s
  | n + 1, t, s => if (s.tile t).ll.isEmpty then s else drainLl n t (nextOr s (execLongLatencyDeliver t 0 s))
/-- A marker token (R90). -/
def markerTok : Token := { data := 0, kind := .marker }
/-- Pushes a marker behind the tokens that a circuit's source end holds (R322, R353). -/
def State.pushMarker (s : State) (rg i : Nat) (c : Circuit) : State :=
  if 8 ≤ c.src.ep.toNat ∧ c.src.ep.toNat < 16 then
    let p := c.src.ep.toNat % 8
    s.modLt c.src.tile c.src.ph fun y =>
      let q := vget y.outP p {}
      { y with outP := vset y.outP p { q with fifo := q.fifo ++ [.tok markerTok] } }
  else s.modCirc rg i fun c => { c with entry := c.entry ++ [markerTok] }
/-- Completes every token instruction of a tile in flight and makes every delivery that is due (R196). -/
def State.drain (s : State) (t : Nat) : State :=
  let s1 := drainPipe (s.tile t).vpipe.length t s
  drainLl (s1.tile t).ll.length t s1
/-- The input port from which an instruction of the unit gathers the tokens of a B operand. -/
def loadPort : Instr → Option (BitVec 3)
  | .mLd _ (.port p) => some p
  | .mGrp _ _ _ _ _ _ _ p => some p
  | _ => none
/-- The tokens that a tile's unit has gathered for a B operand go back to their port, so that its instruction stands at its start, or its
group at its boundary (R200, log 56). -/
def State.backOut (s : State) (t : Nat) : State :=
  match (s.tile t).mq with
  | [] => s
  | i :: l =>
    match (s.itemInstr t i).bind loadPort with
    | none => s
    | some p =>
      if i.slot = 15 ∨ i.prog.held = [] then s
      else
        let q : MProg := { i.prog with held := [], n := 0 }
        (s.unpopOf t i.slot (s.task t i.slot).phase p i.prog.held).modTile t fun x =>
          { x with mq := { i with prog := if q = { stage := 1 } then {} else q } :: l }
/-- Freezes a region: its sequencers, engines and junctions stop, and what its tiles have in flight completes (R196, R322). -/
def State.freeze (s : State) (rg : Nat) (why : FreezeFor) : State :=
  match (s.settle rg).region rg with
  | none => s
  | some r =>
    (r.tiles.foldl (fun s t => (s.drain t).backOut t) (s.settle rg)).modRegion rg fun r =>
      { r with st := .freezing why, marks := false, circs := r.circs.map fun c => { c with caught := [], marked := false } }
/-- The matrix unit of a tile stands at a boundary of R200: an instruction that still pushes to a full port which no circuit empties keeps
the freeze waiting (log 56). -/
def State.matQuiet (s : State) (r : Region) (t : Nat) : Bool :=
  match (s.tile t).mq with
  | [] => true
  | i :: _ => i.slot == 15 || (s.lt t (s.task t i.slot).phase).key != r.key || i.rests (s.itemInstr t i)
/-- The syntax jobs of a region stand at a picture boundary, or at a fault (R231). -/
def State.synQuiet (s : State) (r : Region) : Bool :=
  s.syn.toList.all fun g => match g.job with
    | some j => j.rkey != r.key || j.slot == 15 || g.stop.isSome || j.sent == 0 || j.atPicture (g.ctxOf j)
    | none => true
/-- Every unit of a freezing region has come to its boundary (R200, R231, R322). -/
def State.quiet (s : State) (r : Region) : Bool := r.tiles.all (s.matQuiet r) && s.synQuiet r
/-- Sends the markers of a freezing region (R322). -/
def State.sendMarkers (s : State) (rg : Nat) : State :=
  match s.region rg with
  | none => s
  | some r =>
    (r.circs.zipIdx).foldl (fun s (c, i) => s.pushMarker rg i c) ((r.tiles.foldl State.drain s).modRegion rg fun r => { r with marks := true })

/-- An operation has performed an access and is not done (R323), or is an element whose command has performed a later one since its place was
fixed (R107). -/
def Op.begun (o : Op) : Bool :=
  match o.kind with
  | .card _ _ n b _ => n != 0 || !b.isEmpty
  | .coll _ b r n => n != 0 || !b.isEmpty || r.isSome
  | .elem a => a.fixed.isSome
  | _ => false
/-- A logical tile may be saved: every marker that ends there has come, no operation is half done but for one that stands stopped, and no
request is out (R322, R323). -/
def State.canSave (s : State) (r : Region) : Bool :=
  r.marks && r.circs.all (·.marked) &&
  !(s.ops.any fun o => o.rkey == r.key && o.slot != 15 && (o.out || (o.begun && o.stop.isNone)))
/-- The event that tells of a region and its graph. -/
def State.tell (s : State) (r : Region) (kind : Byte) : State :=
  (s.post r.part { kind := kind, region := r.id, va := w64 r.graph.toNat }).2
/-- Puts a snapshot on a region's own tiles in place of what they hold (R324, R366, R367); their instruction stores stay. It is no progress of
the region (R316). -/
def State.backTo (s : State) (r : Region) (q : Snapshot) : State :=
  let s1 := (((s.dropRegionOps r.key).dropRegionJobs r).staleStops r.key).dropCtxs r.key
  let s2 := r.tiles.foldl (fun s t => s.modTile t Tile.bare) s1
  let s3 := (r.binds.foldl (fun s b => s.restoreTile r.key r.fold q b) s2).giveCtxs r.part r.key q.ctxs
  s3.modRegion r.key fun x =>
    { x with st := .live, marks := false, circs := restoreCircs q x.circs, ownAt := s.cycle, quant0 := x.own, born := s.cycle }
/-- The saved region of a pre-emption leaves its tiles: its snapshot lies in its context area and serves as its checkpoint, its
descriptor enters the resume list, and PREEMPT_DONE is posted (R322, R325, R366). -/
def State.preempted (s : State) (r : Region) : State :=
  let q := s.saveRegion r
  let s1 := s.closeInterval r
  let s2 := s1.release r
  let x := s2.part r.part
  let s3 := s2.setPart r.part { x with resume := vset x.resume r.prio.toNat (vget x.resume r.prio.toNat [] ++ [r.desc]) }
  let s4 : State := { s3 with snaps := s3.snaps.filter (fun y => !(y.1 == r.part && y.2.1 == r.ctxIpa)) ++ [(r.part, r.ctxIpa, q)] }
  (s4.tell r 0x86).tell r 0x83
/-- A checkpoint is complete: the snapshot stands, the interval ends, and the region goes on in place (R366). -/
def State.checkpointed (s : State) (r : Region) : State :=
  let q := s.saveRegion r
  let s1 := (s.closeInterval r).modRegion r.key fun x => { x with ckpt := some q }
  (s1.backTo r q).tell r 0x86
/-- A freeze goes on: its markers are sent once every unit is at its boundary, and it ends once every tile can be saved. A rollback that is
due comes first, and an interrupted checkpoint is abandoned with it (R366, R367). -/
def State.finishFreeze (s : State) (rg : Nat) : State :=
  match s.region rg with
  | none => s
  | some r =>
    match r.st with
    | .freezing why =>
      if r.rbReq then s
      else
        let s1 := if !r.marks && s.quiet r then s.sendMarkers rg else s
        match s1.region rg with
        | none => s1
        | some r1 => if !s1.canSave r1 then s1 else match why with | .preempt => s1.preempted r1 | .checkpoint => s1.checkpointed r1
    | _ => s
/-- Begins a freeze of a live region and ends it at once where nothing is in its way. -/
def State.beginFreeze (s : State) (rg : Nat) (why : FreezeFor) : State := (s.freeze rg why).finishFreeze rg

/-! ## Pre-emption (R322, R325, R347) -/

/-- A pre-emption of a region: a fetch is abandoned; completion wins over it; one that comes during a checkpoint, or where a rollback is
due, waits (R325, R347, R367). -/
def State.preempt (s : State) (rg : Nat) : State :=
  match s.region rg with
  | none => s
  | some r =>
    match r.st with
    | .fetched => { s with regions := s.regions.filter fun x => x.key != rg }
    | .live =>
      if s.completes r then s
      else if r.rbReq then s.modRegion rg fun x => { x with preReq := true }
      else s.beginFreeze rg .preempt
    | .freezing _ => s.modRegion rg fun x => { x with preReq := true }
/-- PREEMPT_REQUEST (R322). -/
def execPreemptRequest (rg : Nat) (s : State) : Out := .next (s.preempt rg)
/-- QUANTUM_EXPIRE (R317, R322): QUANTUM × 1,024 own cycles have passed since the placement. -/
def execQuantumExpire (rg : Nat) (s : State) : Out :=
  .next (match s.region rg with
    | none => s
    | some r =>
      let q := dfld r.desc 2 63 32
      if q = 0 ∨ r.st ≠ .live ∨ s.ownNow r < r.quant0 + 1024 * q then s else s.preempt rg)
/-- MARKER_ARRIVE (R322): the marker at a circuit's end marks the circuit, and a freeze ends when every tile can be saved. -/
def execMarkerArrive (rg c : Nat) (s : State) : Out :=
  .next (
    let s1 := match s.circ rg c with
      | some q =>
        match q.flight with
        | (pos, x) :: l => if x.kind = TokKind.marker ∧ q.stages ≤ pos + 1 then s.modCirc rg c fun q => { q with flight := l, marked := true } else s
        | [] => s
      | none => s
    let s2 := s1.finishFreeze rg
    match s2.region rg with
    | some r => if r.st = RegSt.live ∧ r.preReq = true then (s2.modRegion rg fun x => { x with preReq := false }).preempt rg else s2
    | none => s2)

/-! ## Checkpoints (R366) -/

/-- CHECKPOINT (R366): one that is due begins, and one whose tiles can all be saved is complete. -/
def execCheckpoint (rg : Nat) (s : State) : Out :=
  .next (match s.region rg with
    | none => s
    | some r =>
      match r.st with
      | .live => if r.ckReq && !r.rbReq then s.beginFreeze rg .checkpoint else s
      | .freezing .checkpoint => s.finishFreeze rg
      | _ => s)
/-- CHECKPOINT_INTERVAL (R366): INTERVAL × 2^20 own cycles have passed since the last checkpoint. -/
def execCheckpointInterval (rg : Nat) (s : State) : Out :=
  .next (match s.region rg with
    | none => s
    | some r =>
      let n := bfld (s.ckctl r) 31 8
      if n = 0 ∨ r.rbReq ∨ r.st ≠ .live ∨ s.ownNow r < r.ck0 + n * 2 ^ 20 then s
      else s.beginFreeze rg .checkpoint)

/-! ## Rollback (R262, R366, R367) -/

/-- A frame with a provisional version abandoned: absent again, and newest is the version before it. -/
def Frame.unmake (f : Frame) (v : Nat) : Frame :=
  match f.ver v with
  | none => f
  | some x =>
    if x.st = .absent then f
    else { f.modVer v Ver.gone with newest := if f.newest = some v then (if v = 0 then none else some (v - 1)) else f.newest }
/-- A provisional version is abandoned, in the history of its frame that it belongs to (R262, R367). -/
def State.unmake (s : State) (k : FrameKey) (v gen : Nat) : State :=
  let s1 := s.modHist k gen fun f => f.unmake v
  if v = 0 ∨ (s.frame k).gen ≠ gen then s1 else State.tryRetire retireFuel s1 k (v - 1)
/-- A deferred reclaim is dropped: the history that an `fr.init` ended returns, and pins are as they were at the checkpoint (R367, log 23). -/
def State.undoReclaim (s : State) (x : Reclaim) : State :=
  match x with
  | .recl .. => s
  | .unpin k v gen => s.modHist k gen fun f => f.modVer v fun y => { y with pins := y.pins + 1 }
  | .pin k v gen => s.modHist k gen fun f => f.modVer v fun y => { y with pins := y.pins - 1 }
  | .init old => (s.frame old.key).vers.foldl (fun s (y : Ver) => s.releaseRecipe y.recipe) (s.setFrame old)
/-- A version that a checkpoint holds open is open again as it was then; in another pool slot, where its own has been taken since (R323). -/
def State.reopen (s : State) (k : FrameKey) (gen : Nat) (x : Ver) : State :=
  if (s.frame k).gen ≠ gen then s
  else
    let slot := match x.slot with | some i => if (s.poolSlots k.part).contains i then s.poolNext k.part else some i | none => none
    s.modVer k x.v fun y => { x with pins := y.pins, rref := y.rref, reads := y.reads, recipe := y.recipe, slot := slot }
/-- Writes an undo entry back: the bytes of its block that the region has written, and the poison of their quarters. -/
def State.undoBlock (s : State) (u : Undo) : State :=
  let now := s.pqOf u.block
  { s with
    hbm := memWriteOpt s.hbm (256 * u.block) (u.bytes.zipIdx.map fun (x, i) => if u.mine.getLsbD i then some x else none)
    pq := pqSet s.pq u.block (packBits 4 ((upTo 4).map fun q => (if bfld u.mine (64 * q + 63) (64 * q) = 0 then now else u.pq).toNat.testBit q)) }
/-- Takes a region back to its checkpoint (R367). -/
def State.rollTo (s : State) (r : Region) (q : Snapshot) : State :=
  let opens := (s.openOf r).map fun ((k, gen, x) : FrameKey × Nat × Ver) => (k, x.v, gen)
  let s1 := (opens ++ r.prov.reverse).foldl (fun s (k, v, gen) => s.unmake k v gen) s
  let s2 := r.undo.foldl State.undoBlock s1
  let s3 := r.defer.reverse.foldl State.undoReclaim s2
  let s4 := q.opens.foldl (fun s (k, gen, x) => s.reopen k gen x) s3
  let s5 := (s4.settle r.key).backTo r q
  let s6 := s5.modRegion r.key fun x =>
    { x with prov := [], defer := [], undo := [], ext := false, plain := false, outer := [], rolled := true, rbReq := false, ckReq := false }
  s6.tell r 0x87
/-- ROLLBACK (R367): a cause stands; a pre-emption that was under way is taken afterwards. It fails where the interval holds an external act, a
plain write without an undo log, or another party's write of bytes that the region wrote (R357). -/
def execRollback (rg : Nat) (s : State) : Out :=
  .next (match s.region rg with
    | none => s
    | some r =>
      if !r.rbReq ∨ r.st = .fetched then s
      else
        match r.ckpt with
        | none => s.rollFail r 0x33
        | some q =>
          if r.rolled then s.rollFail r 0x34
          else if !ckEn (s.ckctl r) ∨ r.ext ∨ r.struck ∨ r.plain ∨ s.ctxLost r then s.rollFail r 0x33
          else
            let s1 := s.rollTo r q
            if r.preReq ∨ r.st = .freezing .preempt then (s1.modRegion rg fun x => { x with preReq := false }).preempt rg else s1)

/-! ## The progress event (R316, R360) -/

/-- Reason code of a park (R313). -/
def parkCode : Park → Nat
  | .emptyReg => 1 | .destPending => 2 | .port => 3 | .queue => 4 | .wreg => 5 | .matrix => 6 | .rdv => 7 | .endWait => 8 | .fence => 9
/-- The parked tasks of a region: where, the slot as the image names it, and the reason. -/
def State.parked (s : State) (r : Region) : List (Bind × SlotId × Park) :=
  (r.binds.map fun b => (s.slotsOn b).filterMap fun k =>
    match (s.task b.tile k).st with | .parked q => some (b, (s.task b.tile k).img, q) | _ => none).flatten
/-- The lowest-numbered of them, by logical row, column and slot. -/
def lowParked (l : List (Bind × SlotId × Park)) : Option (Bind × SlotId × Park) :=
  let key := fun (x : Bind × SlotId × Park) => x.1.ly.toNat * 4096 + x.1.lx.toNat * 16 + x.2.1.toNat
  l.foldl (fun a x => match a with | none => some x | some y => if key x < key y then some x else a) none
/-- Tokens that a region holds in its ports, junction buffers and circuits; a reserved slot holds none. -/
def State.tokensOf (s : State) (r : Region) : Nat :=
  let lt := fun (x : LTile) =>
    (x.inP.toList.map (·.fifo.length)).sum + (x.outP.toList.map fun p => (p.fifo.filter (· != .reserved)).length).sum +
    (x.junc.toList.map fun y => (y.buf.toList.map (·.length)).sum).sum
  (r.binds.map fun b => lt (s.lt b.tile b.ph)).sum + (r.circs.map fun c => c.entry.length + c.flight.length).sum
/-- Engines of a region that a fault has stopped. -/
def State.stoppedOf (s : State) (r : Region) : Nat :=
  (r.binds.map fun b => ((upTo 8).filter fun e =>
    let g := vget (s.tile b.tile).eng e {}
    g.stop.isSome && match g.cur with | some q => q.cmd.phase == b.ph | none => false).length).sum
/-- Work of a region is pending (R316). -/
def State.pending (s : State) (r : Region) : Bool :=
  s.tokensOf r != 0 || r.binds.any s.workOn || (s.ops.any fun o => o.rkey == r.key && o.slot != 15) ||
  r.binds.any fun b => (s.slotsOn b).any fun k => match (s.task b.tile k).st with | .parked _ => true | .trapped => true | _ => false
/-- PROGRESS_TIMEOUT (R316): 2^20 own cycles have passed with work pending and no progress. The generation of the bind records is in C3,
a place that R360 does not give (log 56). -/
def execProgressTimeout (rg : Nat) (s : State) : Out :=
  .next (match s.region rg with
    | none => s
    | some r =>
      if !s.regionRuns rg || r.told || decide (s.ownNow r < r.prog0 + 2 ^ 20) || !s.pending r then s
      else
        let ps := s.parked r
        let waits := (s.ops.filter fun o => o.rkey == r.key && o.slot != 15 &&
          (match o.kind with
            | .elem a => a.waits && a.ver.isSome
            | .frame _ w => w
            | .card c .. => o.waits && !o.out && (c.sver || c.dver)
            | .coll c .. => o.waits && !o.out && (c.sver || c.dver)
            | _ => false)).length
        let colls := (s.ops.filter fun o => o.rkey == r.key && o.slot != 15 && o.sent && (match o.kind with | .coll _ _ none _ => true | _ => false)).length
        let base : FaultRec := {
          kind := 0x81, region := r.id, va := w64 (r.graph.toNat + 2 ^ 32 * s.tokensOf r), index := w32 ps.length
          c0 := w32 (s.stoppedOf r), c1 := w32 waits, c2 := w32 colls, c3 := r.gen }
        let rec_ := match lowParked ps with
          | some (b, k, q) => { base with ly := b.ly, lx := b.lx, sub := k, aux := w32 (parkCode q) }
          | none => base
        ((s.post r.part rec_).2).modRegion rg fun x => { x with told := true })

end Sys2Proof.Machine
end

