-- ==== Sys2Proof/Machine/Recovery.lean ====
section
/-! DEFINITION. Reports and their resolution: the fault rings, machine checks, FQRES, TASKCMD, CKCMD, and soft errors (R107, R110, R284, R358 to R367). -/
namespace Sys2Proof.Machine

/-! ## The fault rings (R359, R361, R373) -/

/-- A record's eight doublewords (R359). -/
def FaultRec.words (r : FaultRec) : List Nat :=
  [r.kind.toNat * 2 ^ 56 + r.gen.toNat * 2 ^ 52 + r.sub.toNat * 2 ^ 48 + r.part.toNat * 2 ^ 42 + r.ly.toNat * 2 ^ 32 + r.lx.toNat * 2 ^ 24 +
     r.region.toNat * 256,
   r.va.toNat, r.ver.toNat * 2 ^ 32 + r.vwin.toNat, r.index.toNat * 2 ^ 32 + r.aux.toNat, r.c1.toNat * 2 ^ 32 + r.c0.toNat,
   r.c3.toNat * 2 ^ 32 + r.c2.toNat, r.word.toNat * 2 ^ 32 + r.c4.toNat, r.seq.toNat * 2 ^ 32]
/-- A record's 64 bytes. -/
def FaultRec.bytes (r : FaultRec) : List Byte := (r.words.map (leBytes 8)).flatten
/-- A ring entry's place waits: its MIT holds the partition's requests (R292). -/
def State.ringWaits (s : State) (p : PartId) (pa : Nat) : Bool := p != 0 && decide (pa < hbmTop) && !s.served p pa
/-- Writes a ring entry at a device physical address, or at a host address for a partition; none where it faults, as in a block that
fails its check (R283). -/
def State.ringPut (s : State) (p : PartId) (pa : Nat) (r : FaultRec) : Option State :=
  match targetOf pa with
  | .ok (.hbm a) => if s.hbmBad a 64 true then none else some (s.hbmPut 0 a (r.bytes.map fun b => some (b, false)))
  | .ok (.host a) => some { s with hostOut := s.hostOut ++ [.write (s.hostFn p) a (r.bytes.map some) false] }
  | _ => none
/-- Offset of the ring entry that PROD names. -/
def ringAt (base : DWord) (prod : BitVec 32) : Nat := bfld base 47 12 * 4096 + prod.toNat % 2 ^ bfld base 4 0 * 64
/-- FQCTL.IE is set and the ring holds entries that software has not consumed (R361, R373). -/
def State.fqOn (s : State) (p : PartId) : Bool :=
  let x := s.part p
  x.live && x.fqIE && x.fqprod != x.fqcons
/-- Sets or clears the virtual-supervisor external interrupt of a partition's hart (R361). -/
def State.vsei (s : State) (p : PartId) : State :=
  let h := (s.part p).hart
  let x := vget s.harts h.toNat {}
  if !(s.part p).live || x.vsei == s.fqOn p then s
  else { s with harts := vset s.harts h.toNat { x with vsei := s.fqOn p }, hartOut := s.hartOut ++ [.interrupt h (s.fqOn p)] }
/-- The interrupts of a partition's fault queue, to its hart and by MSI-X vector 0 to its functions. -/
def State.fqIrq (s : State) (p : PartId) : State := if s.fqOn p then (s.vsei p).msix p 0 else s.vsei p
/-- Writes the oldest entry of a partition's queue to its ring (R361). -/
def State.ringStep (s : State) (p : PartId) : State :=
  let x := s.part p
  match x.fq with
  | [] => s
  | r :: _ =>
    if x.frozen || (ringOk x.fqbase && ringFull x.fqbase x.fqprod x.fqcons) then s
    else
      let bad := (s.freezePart p).machineCheck p 2
      if !ringOk x.fqbase then bad
      else match s.stage2 p (ringAt x.fqbase x.fqprod) with
        | .ok (pa, true) =>
          if s.ringWaits p pa then s
          else match s.ringPut p pa r with
          | none => bad
          | some s1 =>
            let q := fqPop (x.fq, x.fqHeld)
            (s1.setPart p { x with fq := q.1, fqHeld := q.2, fqprod := x.fqprod + 1 }).fqIrq p
        | _ => bad
/-- Writes the oldest entry of the monitor's queue to its ring. -/
def State.monStep (s : State) : State :=
  match s.mfq with
  | [] => s
  | r :: _ =>
    if s.mfull || (ringOk s.mfqbase && ringFull s.mfqbase s.mfqprod s.mfqcons) then s
    else
      let bad := ({ s.settleAll with mfull := true }).machineCheck 0 2
      if !ringOk s.mfqbase then bad
      else match s.ringPut 0 (ringAt s.mfqbase s.mfqprod) r with
        | none => bad
        | some s1 => let q := fqPop (s1.mfq, s1.mfqHeld); { s1 with mfq := q.1, mfqHeld := q.2, mfqprod := s1.mfqprod + 1 }
/-- FQ_RING_WRITE (R361): partition 0 stands for the monitor. -/
def execFqRingWrite (p : PartId) (s : State) : Out := .next (if p = 0 then s.monStep else s.ringStep p)
/-- MCSTAT_CLEAR (R361). -/
def execMcstatClear (s : State) : Out :=
  .next (
    let s1 := s.settleAll
    { s1 with mcValid := false, mfull := false, harts := s1.harts.map fun h => { h with mcheck := false }, parts := s1.parts.map fun (k, (p : Part)) => (k, { p with frozen := false }) })

/-! ## FQRES (R107, R110, R231, R362) -/

/-- Sets FQCTL.REFUSED as the last command leaves it; the monitor has no such bit. -/
def State.refusedBit (s : State) (p : PartId) (on : Bool) : State := if p = 0 then s else s.modPart p fun x => { x with refused := on }
/-- The record of a partition, or of the monitor, that still stands under a sequence number. -/
def State.standing (s : State) (p : PartId) (seq : BitVec 32) : Option StopRec :=
  (if p = 0 then s.mstops else (s.part p).stops).find? fun r => r.seq == seq
/-- A command on a standing record: refused where none stands. -/
def State.resolve (s : State) (p : PartId) (seq : BitVec 32) (f : StopRec → State → State) : State :=
  match s.standing p seq with
  | none => s.refusedBit p true
  | some r => f r ((s.unstop r.what).refusedBit p false)
/-- The memory-operation port goes on unless another of its operations stands stopped. -/
def State.portGo (s : State) (t : Nat) : State :=
  let other := (s.ops.find? fun o => o.tile == t && o.stop.isSome && (match o.kind with | .card .. => false | _ => true)).bind (·.stop)
  s.modTile t fun x => { x with memStop := other }
/-- The controller ends a task: it retires, and its getws take no head (R362, R363). -/
def State.endTask (s : State) (t : Nat) (k : SlotId) : State :=
  let ph := (s.task t k).phase
  (s.modTask t k fun y => { y with st := .retired, mark := none }).modLt t ph fun x =>
    { x with inP := x.inP.map fun p => { p with getws := p.getws.filter fun q => q.slot != k } }
/-- Performs the faulting element or operation again. -/
def retryStop (r : StopRec) (s : State) : State :=
  match r.what with
  | .engine t e => s.setEngine t e { s.engine t e with stop := none }
  | .memop t id => (s.modOp id fun o => { o with stop := none, lost := none }).portGo t
  | .junction t ph j => s.modJunc t ph j fun y => { y with held := none }
  | .syn y => s.setSyn y { vget s.syn y.toNat {} with stop := none }
  | .copy id => s.modOp id fun o => { o with stop := none, lost := none }
  | .recompute id => { s with rcReqs := s.rcReqs.map fun (q : RcReq) => if q.id = id then { q with held := none } else q }
  | .spill _ => s
/-- Cancels the unit's work. -/
def cancelStop (r : StopRec) (s : State) : State :=
  match r.what with
  | .engine t e => s.cancelEngine t e
  | .memop t id =>
    match s.op id with
    | none => s
    | some o => ((s.abandonAll o.opened).endOp o).portGo t |>.endTask t o.slot
  | .junction t ph j =>
    s.modJunc t ph j fun y =>
      let drop := fun (b : Vector (List Token) 4) (k : Nat) => vset b k (vget b k []).tail
      { y with held := none, buf := if r.kind = 0x21 then drop (drop y.buf 0) 3 else drop y.buf 0 }
  | .syn y => match (vget s.syn y.toNat {}).job with | some j => s.cancelEngine j.tile j.e | none => s
  | .copy id => match s.op id with | none => s | some o => (s.abandonAll o.opened).endOp o
  | .recompute id => match s.rcReqs.find? fun q => q.id == id with | none => s | some q => State.cancelReq chainFuel s q
  | .spill _ => s
/-- A syntax job resumes at the next random-access picture after the place of its fault (R231); one without a context begins there. -/
def SynEng.resume (g : SynEng) (j : SynJob) : SynEng :=
  let c := g.ctxOf j
  let g1 := { g with stop := none }
  if !c.used then { g1 with job := some { j with seek := true } }.modCtx j fun _ => { used := true, av1 := j.av1 }
  else match (j.outs c)[j.sent]? with
    | some (.err _ _ ix _) => { g1 with job := some { j with passed := ix :: j.passed } }
    | _ => g1
/-- The unit's alternative action; cancelling where it has none. -/
def altStop (r : StopRec) (s : State) : State :=
  match r.what with
  | .junction t ph j => if r.kind = 0x20 then s.modJunc t ph j fun y => { y with held := none, pass := true } else cancelStop r s
  | .syn y =>
    let g := vget s.syn y.toNat {}
    match g.job with
    | some j => s.setSyn y (g.resume j)
    | none => s
  | _ => cancelStop r s
/-- Key of the region that a recompute served: that of the tile that last ran it, where its partition has it; none where no tile did
(R302, R382). -/
def State.rcKey (s : State) (q : RcReq) : Nat :=
  match q.on with
  | none => 0
  | some t =>
    let k := (s.lt t q.phase).key
    if ((s.region k).map (·.part)) = some q.frame.part then k else 0
/-- Ends the region of a record; of a recompute, the region of the tile that ran it, and its waiting reads fault (R362, R382, log 36). One that
no tile ran ends no region. -/
def endStop (r : StopRec) (s : State) : State :=
  let (key, s1) : Nat × State := match r.what with
    | .recompute id =>
      match s.rcReqs.find? fun q => q.id == id with
      | none => (0, s)
      | some q => (s.rcKey q, State.cancelReq chainFuel s q)
    | _ => (r.rkey, s)
  match s1.region key with
  | some g => s1.endRegion g
  | none => cancelStop r s1
/-- FQRES with ACTION 0 (R362). -/
def execFqresRetry (p : PartId) (seq : BitVec 32) (s : State) : Out := .next (s.resolve p seq retryStop)
/-- FQRES with ACTION 1. -/
def execFqresCancel (p : PartId) (seq : BitVec 32) (s : State) : Out := .next (s.resolve p seq cancelStop)
/-- FQRES with ACTION 2. -/
def execFqresAlt (p : PartId) (seq : BitVec 32) (s : State) : Out := .next (s.resolve p seq altStop)
/-- FQRES with ACTION 3. -/
def execFqresEnd (p : PartId) (seq : BitVec 32) (s : State) : Out := .next (s.resolve p seq endStop)

/-! ## TASKCMD and CKCMD (R363, R366, R367) -/

/-- A committed region of a partition by its id. -/
def State.regionById (s : State) (p : PartId) (id : BitVec 16) : Option Region :=
  s.regions.find? fun r => r.part == p && r.id == id && r.st != .fetched
/-- A command on a trapped task: refused where the task is none such (R363). -/
def State.taskCmd (s : State) (p : PartId) (c : TaskRef) (ok : BitVec 2 → Bool) (f : Nat → SlotId → State → State) : State :=
  match s.regionById p c.region with
  | none => s.refusedBit p true
  | some r =>
    match r.binds.find? fun b => b.lx == c.lx && b.ly == c.ly with
    | none => s.refusedBit p true
    | some b =>
      let k := physSlot b.tmask c.slot.toNat
      if c.slot = 15 ∨ k = 15 ∨ (s.task b.tile k).st ≠ .trapped ∨ !ok r.fold then s.refusedBit p true
      else f b.tile k (s.refusedBit p false)
/-- TASKCMD with ACTION 0 (R363): the trapping instruction issues again. -/
def execTaskcmdResumeTpc (p : PartId) (c : TaskRef) (s : State) : Out :=
  .next (s.taskCmd p c (fun _ => true) fun t k s => s.modTask t k fun y => { y with st := .ready, pc := bfld y.tpc 12 0, tcause := 0 })
/-- TASKCMD with ACTION 1: a handler, TCAUSE kept. -/
def execTaskcmdResumePc (p : PartId) (c : TaskRef) (pc : BitVec 13) (s : State) : Out :=
  .next (s.taskCmd p c (fun fold => decide (pc.toNat < instrLimit fold false)) fun t k s =>
    s.modTask t k fun y => { y with st := .ready, pc := pc.toNat })
/-- TASKCMD with ACTION 2. -/
def execTaskcmdEnd (p : PartId) (c : TaskRef) (s : State) : Out := .next (s.taskCmd p c (fun _ => true) fun t k s => s.endTask t k)
/-- A command on a committed region: refused where there is none (R366). -/
def State.ckCmd (s : State) (p : PartId) (id : BitVec 16) (f : Region → Region) : State :=
  match s.regionById p id with
  | none => s.refusedBit p true
  | some r => (s.modRegion r.key f).refusedBit p false
/-- CKCMD with OP 0 (R366). -/
def execCkcmdCheckpoint (p : PartId) (rg : BitVec 16) (s : State) : Out := .next (s.ckCmd p rg fun r => { r with ckReq := true })
/-- CKCMD with OP 1 (R367). -/
def execCkcmdRollback (p : PartId) (rg : BitVec 16) (s : State) : Out := .next (s.ckCmd p rg fun r => { r with rbReq := true })

/-! ## Soft errors (R284, R364) -/

/-- A token with a lane poisoned. -/
def Token.poisonAt (x : Token) (k : BitVec 4) : Token := { x with poison := x.poison ||| (1 <<< k.toNat) }
/-- A list with one element changed. -/
def chg {α : Type} (l : List α) (n : Nat) (f : α → α) : List α := l.zipIdx.map fun (x, i) => if i = n then f x else x
/-- An accumulator with an element poisoned: of a ranked list, the row it lies in. -/
def Acc.poisonAt (a : Acc) (n : Nat) : Acc :=
  match a with
  | .sum el p => .sum el (p ||| (1 <<< n))
  | .ranked k rows => .ranked k (vset rows (n / 16) { vget rows (n / 16) {} with pois := true })
/-- SOFT_ERROR (R364): where an uncorrectable error falls, or that one was corrected. -/
def execSoftError (x : SoftError) (s : State) : Out :=
  .next (match x with
    | .spWord t a => if t < 1536 ∧ a < 0x8_0000 then s.modTile t fun y => { y with marks := setIns y.marks (a / 4 * 4) } else s
    | .istore t ix => if t < 1536 ∧ ix < 8192 then s.modTile t fun y => { y with ipois := setIns y.ipois ix } else s
    | .inFifo t ph p n k => s.modIn t ph p fun i => { i with fifo := chg i.fifo n fun y => y.poisonAt k }
    | .outFifo t ph p n k => s.modLt t ph fun y =>
        let q := vget y.outP p.toNat {}
        { y with outP := vset y.outP p.toNat { q with fifo := chg q.fifo n fun o => match o with | .tok z => .tok (z.poisonAt k) | .reserved => .reserved } }
    | .junction t ph j side n k => s.modJunc t ph j fun y => { y with buf := vset y.buf side (chg (vget y.buf side []) n fun z => z.poisonAt k) }
    | .accum t ph a n => s.modLt t ph fun y =>
        { y with mat := { y.mat with acc := vset y.mat.acc a.toNat ((vget y.mat.acc a.toNat (.sum 0 0)).poisonAt n.toNat) } }
    | .stationary t ph active n => s.modLt t ph fun y =>
        let f := fun (r : Stat) => { r with marks := r.marks ||| (1 <<< n) }
        { y with mat := if active then { y.mat with act := f y.mat.act } else { y.mat with load := f y.mat.load } }
    | .rcFifo t p n k =>
      let f := fun (l : List OSlot) => chg l n fun o => match o with | .tok z => .tok (z.poisonAt k) | .reserved => .reserved
      s.modTile t fun y => if p = 6 then { y with rc6 := f y.rc6 } else if p = 7 then { y with rc7 := f y.rc7 } else y
    | .rcAccum t n => s.modTile t fun y => { y with rcMat := { y.rcMat with acc := vset y.rcMat.acc 15 ((vget y.rcMat.acc 15 (.sum 0 0)).poisonAt n.toNat) } }
    | .rcStat t active n => s.modTile t fun y =>
        let f := fun (r : Stat) => { r with marks := r.marks ||| (1 <<< n) }
        { y with rcMat := if active then { y.rcMat with act := f y.rcMat.act } else { y.rcMat with load := f y.rcMat.load } }
    | .hop rg c n k => s.modRegion rg fun r => { r with circs := r.circs.map fun q =>
        if q.id = c then { q with flight := chg q.flight n fun (i, z) => (i, z.poisonAt k) } else q }
    | .hbm pa =>
      if hbmTop ≤ pa then s
      else match s.slotAt pa with
        | some (h, i) => s.putSlot h.who h.data ((upFrom (i / 256 * 4) 4).foldl setIns h.pois)
        | none => { s with pq := pqSet s.pq (pa / 256) 0xF }
    | .tlb t n =>
      if t < 1536 then s.modTile t fun y => { y with tlb := y.tlb.eraseIdx n }
      else { s with tlb := vset s.tlb (t - 1536) ((vget s.tlb (t - 1536) []).eraseIdx n) }
    | .control rg => s.modRegion rg fun r => { r with rbReq := true }
    | .directory p => s.machineCheck p 3
    | .corrected inHbm => if inHbm then { s with hbmce := s.hbmce + 1 } else { s with sramce := s.sramce + 1 })

end Sys2Proof.Machine
end

