-- ==== Sys2Proof/Machine/Control.lean ====
section
/-! DEFINITION. The events of the control space: invalidations, scrubbing, ownership, removals, partitions, edge-unit assignment, ports, the Shutter, power, launch pushes and plain registers (R292, R299, R337 to R349, R351, R361, R365, R368, R369, R372, R374, R377 to R383). -/
namespace Sys2Proof.Machine

/-! ## Invalidation (R341, R342) -/

/-- Page pg is in a mapping of 2^k pages that contains page q. -/
def samePage (k : Nat) (pg : BitVec 32) (q : Nat) : Bool := decide (pg.toNat / 2 ^ k = q / 2 ^ k)
/-- A request's entries among those of its partition. -/
def InvReq.hits (q : InvReq) (x : TlbItem) : Bool :=
  match q, x with
  | .all, .tab e => e.win.isSome
  | .all, _ => true
  | .window w, .done e => e.win == w
  | .window w, .win e => e.win == w
  | .window w, .tab e => e.win == some w
  | .page w pg, .done e => e.win == w && (e.peer.isSome || samePage e.vlog pg e.vpn)
  | .page w _, .win e => e.win == w
  | .page w pg, .tab e => e.win == some w && samePage e.log pg e.page
/-- Windows that an operation's accesses name. -/
def Op.wins (o : Op) : List (BitVec 16) :=
  match o.kind with
  | .card c _ _ _ _ => [c.swin, c.dwin]
  | .coll c _ _ _ => [c.swin, c.dwin]
  | _ => [winOf o.va]
/-- An operation's access has been translated and is not performed: its request is with the host or a peer, or its place is fixed (R107). -/
def Op.onWay (o : Op) : Bool := o.out || match o.kind with | .elem a => a.fixed.isSome | _ => false
/-- Windows of spill slots to which copies of a partition's versions are on their way (R300). -/
def State.spillWins (s : State) (p : PartId) : List (BitVec 16) :=
  ((s.frames.filter fun f => f.key.part == p).map fun f => f.vers.filterMap fun x => if x.spillIds.isEmpty then none else x.spill.map (·.1)).flatten
/-- Windows that an operation's access on its way names: its own, or that of the spill slot that it reads (R301). -/
def State.wayWins (s : State) (o : Op) : List (BitVec 16) :=
  o.wins ++ if o.spill = some false then o.spilt.filterMap fun (k, v) => (s.spilledAt k v).map (·.1) else []
/-- An access that a request's entries have translated is still on its way. -/
def State.invHeld (s : State) (p : PartId) (q : InvReq) : Bool :=
  let on := fun (w : BitVec 16) => (s.ops.any fun o => o.part == p && o.onWay && (s.wayWins o).contains w) || (s.spillWins p).contains w
  match q with
  | .all => (s.ops.any fun o => o.part == p && o.onWay) || !(s.spillWins p).isEmpty
  | .window w => on w
  | .page w _ => on w
/-- A TLBINV request is accepted, if fewer than sixteen wait. -/
def State.tlbinv (s : State) (p : PartId) (q : InvReq) : State :=
  s.modPart p fun x => if 16 ≤ x.invq.length then x else { x with invq := x.invq ++ [q], tlbErr := false }
/-- TLBINV_PARTITION (R342). -/
def execTlbinvPartition (p : PartId) (s : State) : Out := .next (s.tlbinv p .all)
/-- TLBINV_WINDOW (R342). -/
def execTlbinvWindow (p : PartId) (w : BitVec 16) (s : State) : Out := .next (s.tlbinv p (.window w))
/-- TLBINV_PAGE (R342). -/
def execTlbinvPage (p : PartId) (w : BitVec 16) (pg : BitVec 32) (s : State) : Out := .next (s.tlbinv p (.page w pg))
/-- TLBINV_COMPLETE (R342): the oldest request's entries leave every TLB once the accesses that used them are performed. -/
def execTlbinvComplete (p : PartId) (s : State) : Out :=
  .next (match (s.part p).invq with
    | [] => s
    | q :: r =>
      if s.invHeld p q then s
      else (s.tlbDrop fun x => x.part == p && q.hits x).modPart p fun x => { x with invq := r })
/-- A stage-2 request is accepted, if fewer than sixteen wait. -/
def State.s2inv (s : State) (q : S2Inv) : State := if 16 ≤ s.s2q.length then s else { s with s2q := s.s2q ++ [q] }
/-- S2INV_PARTITION (R338, R342). -/
def execS2invPartition (p : PartId) (s : State) : Out := .next (s.s2inv ⟨p, none⟩)
/-- S2INV_PAGE (R338, R342). -/
def execS2invPage (p : PartId) (pg : BitVec 32) (s : State) : Out := .next (s.s2inv ⟨p, some pg⟩)
/-- A stage-2 request's entries among those of its partition: completed translations, entries of stage 2, and what stage 1 has read
through it. -/
def State.s2hits (s : State) (q : S2Inv) (x : TlbItem) : Bool :=
  match q.page, x with
  | none, _ => true
  | some pg, .done e => e.peer.isNone && samePage e.ilog pg e.ipn
  | some pg, .win e => samePage 0 pg (s.winAt e.part e.win / 65536)
  | some pg, .tab e => if e.win.isSome then samePage 0 pg (e.addr / 65536) else samePage e.log pg e.page
/-- S2INV_COMPLETE (R342). -/
def execS2invComplete (s : State) : Out :=
  .next (match s.s2q with
    | [] => s
    | q :: r =>
      if s.invHeld q.part .all then s
      else { s.tlbDrop (fun x => x.part == q.part && s.s2hits q x) with s2q := r })

/-! ## Scrubbing (R338) -/

/-- SCRUB (R338): the command is taken while none is busy (log 24). -/
def execScrub (g : BitVec 28) (n : BitVec 24) (s : State) : Out :=
  .next (if s.scrub.isSome then s else { s with scrub := some (g.toNat, n.toNat) })
/-- What the pool slots among granules hold is zeros without poison. -/
def State.scrubSlots (s : State) (g n : Nat) : State :=
  s.slotsHeld.foldl (fun s h => if (s.slotPa h.part h.slot).any fun q => decide (4096 * g ≤ q ∧ q < 4096 * (g + n)) then s.putSlot h.who [] [] else s) s
/-- SCRUB_COMPLETE (R338): every granule of the range that HBM has reads as zeros with PQ 0, those in use as pool slots among them. To the
regions it is another party's write (R357). -/
def execScrubComplete (s : State) : Out :=
  .next (match s.scrub with
    | none => s
    | some (g, n) =>
      let lo := 16 * g
      let hi := 16 * (g + n)
      let s := s.scrubSlots g n
      { s with scrub := none, regions := s.regions.map fun r => r.outside [(4096 * g, 4096 * n)], hbm := memClear s.hbm (4096 * g) (4096 * (g + n))
               pq := s.pq.filter fun x => !decide (lo ≤ x.1 ∧ x.1 < hi), badBlk := s.badBlk.filter fun b => !decide (lo ≤ b ∧ b < hi) })

/-! ## Ownership (R345) -/

/-- The tiles of a rectangle. -/
def rectTiles (c : OwnRect) : List Nat :=
  ((upFrom c.py0.toNat (c.py1.toNat + 1 - c.py0.toNat)).map fun y => (upFrom c.px0.toNat (c.px1.toNat + 1 - c.px0.toNat)).map fun x => tileNo x y).flatten
/-- A tile stands in a region, fetched or committed, or under a hop of a committed one. -/
def State.inRegion (s : State) (t : Nat) : Bool :=
  s.regions.any fun r => r.binds.any (fun b => b.tile == t) ||
    (r.st != .fetched && r.circs.any fun c => c.src.tile == t || ((hopTiles c.src.tile c.hops).getD []).contains t)
/-- An ownership command is refused (R345). -/
def State.ownBad (s : State) (c : OwnRect) : Bool :=
  decide (c.px1.toNat < c.px0.toNat ∨ c.py1.toNat < c.py0.toNat ∨ 48 ≤ c.px1.toNat) ||
    (rectTiles c).any fun t => s.inRegion t || (s.tile t).rc.isSome
/-- OWNCMD (R345): taken while none is busy (log 24). -/
def execOwncmd (c : OwnRect) (s : State) : Out :=
  .next (if s.ownCmd.isSome then s else if s.ownBad c then { s with ownStat := 3 } else { s with ownStat := 1, ownCmd := some c })
/-- Gives a tile to an owner: a tile that changes owner is reset, but for its bank modes (R10, R345). -/
def State.giveTile (s : State) (p : PartId) (t : Nat) : State :=
  if s.owner t = p then s
  else { s.setTile t (s.tile t).reset with ownTab := if p = 0 then alDel s.ownTab t else alSet s.ownTab t p }
/-- OWNCMD_COMPLETE (R345): a tile outside every region has no stores queued. -/
def execOwncmdComplete (s : State) : Out :=
  .next (match s.ownCmd with
    | none => s
    | some c => (rectTiles c).foldl (fun s t => s.giveTile c.owner t) { s with ownCmd := none, ownStat := 2 })

/-! ## Removing versioned regions and slices (R351, R383) -/

/-- A frame of a registered region. -/
def VRegion.has (r : VRegion) (k : FrameKey) : Bool :=
  k.part == r.part && k.win == r.win && decide (r.base ≤ k.fr.toNat ∧ k.fr.toNat < r.base + r.count)
/-- The region that a removal names exactly, if none of its frames is held (R351). -/
def State.delRegion (s : State) (p : PartId) (w : BitVec 16) (b n : Nat) : Option VRegion :=
  match s.vregs.find? fun r => r.part == p && r.win == w && r.base == b && r.count == n with
  | none => none
  | some r => if s.frames.any fun f => r.has f.key && s.frameBusy f then none else some r
/-- A slice that may be removed: no recipe names it (R351). -/
def State.delSlice (s : State) (p : PartId) (id : BitVec 16) : Bool :=
  s.slices.any (fun c => c.part == p && c.id == id) &&
    !(s.slotFrames.any fun f => f.key.part == p && f.vers.any fun x => match x.recipe with | some r => r.slice == id | none => false)
/-- DELSTAT reads refused. -/
def State.delRefused (s : State) (p : PartId) : State := s.modPart p fun x => { x with delstat := 3, del := none }
/-- A removal is accepted: DELSTAT reads busy. -/
def State.delBusy (s : State) (p : PartId) (q : DelReq) : State := s.modPart p fun x => { x with delstat := 1, del := some q }
/-- REGDEL (R351): the count is in REGCNT. -/
def execRegdel (p : PartId) (w : BitVec 16) (b : BitVec 36) (s : State) : Out :=
  .next (
    let n := bfld (s.part p).regcnt 23 0
    if (s.part p).del.isSome then s
    else if (s.delRegion p w b.toNat n).isNone then s.delRefused p
    else s.delBusy p (.region w b.toNat n))
/-- SLICEDEL (R351). -/
def execSlicedel (p : PartId) (n : BitVec 16) (s : State) : Out :=
  .next (if (s.part p).del.isSome then s else if s.delSlice p n then s.delBusy p (.slice n) else s.delRefused p)
/-- The frame that a deferred reclaim acts on. -/
def Reclaim.key : Reclaim → FrameKey
  | .recl k _ _ => k
  | .unpin k _ _ => k
  | .pin k _ _ => k
  | .init f => f.key
/-- A frame's recipes no longer name the histories of a removed region's frames. -/
def Frame.unlink (f : Frame) (r : VRegion) (n : Nat) : Frame :=
  { f with vers := f.vers.map fun x => { x with recipe := x.recipe.map fun (c : Recipe) => { c with gens := c.refs.map fun ((k, _), g) => if r.has k then n else g } } }
/-- A region's recovery state without what concerns a removed region's frames. -/
def Region.forget (q : Region) (r : VRegion) (n : Nat) : Region :=
  { q with
    defer := (q.defer.filter fun d => !r.has d.key).map fun d => match d with | .init f => .init (f.unlink r n) | _ => d
    prov := q.prov.filter fun x => !r.has x.1, ckpt := q.ckpt.map fun c => { c with opens := c.opens.filter fun x => !r.has x.1 } }
/-- Removes a region with its frames, histories kept for a rollback among them; their recipes are released (R351). -/
def State.dropVRegion (s : State) (r : VRegion) : State :=
  let old := s.slotFrames.filter fun f => r.has f.key
  let (n, s0) := s.fresh
  let s1 : State := { s0 with
    vregs := s.vregs.filter (· ≠ r), frames := (s.frames.filter fun f => !r.has f.key).map (·.unlink r n), regions := s.regions.map (·.forget r n) }
  old.foldl (fun s f => f.vers.foldl (fun s (x : Ver) => s.releaseRecipe x.recipe) s) s1
/-- REGDEL_DONE (R351): the removal is done, unless a hold has come meanwhile. -/
def execRegdelDone (p : PartId) (s : State) : Out :=
  .next (match (s.part p).del with
    | none => s
    | some q =>
      let done := fun (s : State) => s.modPart p fun x => { x with delstat := 2, del := none }
      match q with
      | .region w b n => match s.delRegion p w b n with | none => s.delRefused p | some r => done (s.dropVRegion r)
      | .slice id => if s.delSlice p id then done { s with slices := s.slices.filter fun c => !(c.part == p && c.id == id) } else s.delRefused p)

/-! ## Edge units (R348, R349) -/

/-- A running `s.syntax` has given some of its bytes to an engine. -/
def State.synFed (s : State) (y : BitVec 3) : List (Nat × EngineId) :=
  (s.tiles.map fun x => allEngines.filterMap fun e =>
    match (x.2.engine e).cur with
    | some r => if r.cmd.kind = .syn ∧ fld (r.dw 7) 63 61 = y.toNat ∧ 0 < r.next then some (x.1, e) else none
    | none => none).flatten
/-- A syntax engine with its owner changed and its contexts cleared. -/
def SynEng.give (g : SynEng) (p : PartId) : SynEng := { g with owner := p, pend := none, ctx := Vector.replicate 4 {} }
/-- Gives an engine a new owner: at once when it is idle, else when its job ends (R349). -/
def State.synAssign (s : State) (y : BitVec 3) (p : PartId) : State :=
  let g := vget s.syn y.toNat {}
  if g.owner = p then s
  else if g.job.isSome || !g.queue.isEmpty || !(s.synFed y).isEmpty then s.setSyn y { g with pend := some p }
  else s.setSyn y (g.give p)
/-- SYNASSIGN_CHANGE (R349). -/
def execSynassignChange (y : BitVec 3) (p : PartId) (s : State) : Out := .next (s.synAssign y p)
/-- SYNASSIGN_TAKE_EFFECT (R349): the engine is idle; the old owner's jobs are cancelled as by `s.stop`. -/
def execSynassignTakeEffect (y : BitVec 3) (s : State) : Out :=
  .next (
    let g := vget s.syn y.toNat {}
    match g.pend, g.job with
    | some p, none =>
      let users := (g.queue.map fun j => (j.tile, j.e)) ++ s.synFed y
      let s1 := users.foldl (fun s (t, e) => s.cancelEngine t e) s
      let g1 := vget s1.syn y.toNat {}
      s1.setSyn y { g1.give p with queue := [] }
    | _, _ => s)
/-- A stream or card runs on a physical Prism slot. -/
def State.prismRuns (s : State) (n : Nat) : Bool :=
  (s.tiles.any fun (t, (x : Tile)) => allEngines.any fun e =>
    ((x.engine e).cur.toList ++ (x.engine e).back).any fun r =>
      (r.cmd.viaPrism || r.cmd.kind == .prism) && s.prismSlot (s.cmdPart t r.cmd) (r.cmd.pid.getD 0) == some n) ||
  s.ops.any fun o => o.sent && match o.kind with | .card c .. => c.pe && s.prismSlot o.part c.pid == some n | _ => false
/-- Gives a Prism slot an entry of PRISMMAP; a change of owner clears the slot's program (R348). -/
def State.prismPut (s : State) (n : Nat) (x : BitVec 16) : State :=
  { s with prismMap := vset s.prismMap n x, prismPend := vset s.prismPend n none
           prism := if bfld x 13 8 = bfld (vget s.prismMap n 0) 13 8 then s.prism else vset s.prism n none }
/-- Writes an entry of PRISMMAP. A change of owner waits for every stream that runs on the slot, and streams that start from then on see
it as empty (R348). -/
def State.prismAssign (s : State) (n : BitVec 3) (x : BitVec 16) : State :=
  let new := x &&& 0xBF07
  if bfld new 13 8 ≠ bfld (vget s.prismMap n.toNat 0) 13 8 ∧ s.prismRuns n.toNat = true then
    { s with prismPend := vset s.prismPend n.toNat (some new), prism := vset s.prism n.toNat none }
  else s.prismPut n.toNat new
/-- A change of a slot's owner that has waited takes effect. -/
def State.prismTake (s : State) (n : Nat) : State :=
  match vget s.prismPend n none with
  | some x => if s.prismRuns n then s else s.prismPut n x
  | none => s
/-- PRISMMAP_CHANGE (R348). -/
def execPrismmapChange (n : BitVec 3) (x : BitVec 16) (s : State) : Out := .next (s.prismAssign n x)

/-! ## Partitions (R337, R351, R373) -/

/-- A hart's external interrupt goes, with the partition that raised it. -/
def State.vseiOff (s : State) (h : BitVec 3) : State :=
  let x := vget s.harts h.toNat {}
  if x.vsei then { s with harts := vset s.harts h.toNat { x with vsei := false }, hartOut := s.hartOut ++ [.interrupt h false] } else s
/-- PARTCTL with LIVE (R337): the partition's page and queues are zeroed, and its TLB entries dropped. A partition that is live keeps
all, and its hart changes (log 25). -/
def execPartitionLive (p : PartId) (h : BitVec 3) (s : State) : Out :=
  .next (
    let x := s.part p
    if p = 0 then s
    else if x.live then
      if x.hart = h then s else (((s.vseiOff x.hart).modPart p fun x => { x with hart := h }).vsei p).msix p 2
    else
      ((s.setPart p { live := true, hart := h, s2root := x.s2root, authOut := x.authOut, authIn := x.authIn }).tlbDrop fun e => e.part == p).msix p 2)
/-- Takes a partition's graphs off the device. -/
def State.dropGraphs (s : State) (p : PartId) : State :=
  (s.regions.filter fun r => r.part == p).foldl (fun s r =>
    (s.abandonAll (s.openedBy r)).release r) s
/-- PARTCTL without LIVE (R351): the partition's regions and slices are removed, and its tiles, engines and Prism slots have no owner. -/
def execPartitionNotLive (p : PartId) (s : State) : Out :=
  .next (
    if p = 0 ∨ !(s.part p).live then s
    else
      let mine := (s.ownTab.filter fun x => x.2 == p).map (·.1)
      let s1 := mine.foldl State.endRc ((s.vseiOff (s.part p).hart).dropGraphs p)
      let s2 := (upTo 8).foldl (fun s y => if (vget s.syn y {}).owner = p then s.synAssign (.ofNat 3 y) 0 else s) s1
      let s3 := (upTo 8).foldl (fun s k => if bfld (vget s.prismMap k 0) 13 8 = p.toNat then s.prismAssign (.ofNat 3 k) 0 else s) s2
      let s4 := mine.foldl (fun s t => s.giveTile 0 t) s3
      let told := s4.ops.foldl (fun s o => match o.kind with | .peer fl => if o.part = p then s.reply fl false [(0x0A, false)] else s | _ => s) s4
      let s5 : State := { told with
        ops := s4.ops.filter fun o => o.part != p, snaps := s4.snaps.filter fun x => x.1 != p
        vregs := s4.vregs.filter fun r => r.part != p, slices := s4.slices.filter fun c => c.part != p
        frames := s4.frames.filter fun f => f.key.part != p, rcReqs := s4.rcReqs.filter fun q => q.frame.part != p
        peerOpen := s4.peerOpen.filter fun x => x.2.2.1.part != p, mstops := s4.mstops.filter fun r => r.what != .spill p }
      let s6 : State := { s5 with hostOut := s5.hostOut ++ (s.part p).bar2.map .unsupported }
      (s6.modPart p fun x => { x with live := false, stops := [], del := none, commits := [], bar2 := [] }).msix p 2)

/-! ## The host's functions and Wildom ports (R365, R372, R379) -/

/-- VFMAP_CHANGE (R372): a write with a nonzero bit 7 or 6 in any byte is ignored. Accepted requests have completed (log 26). Vector 0 of
a function that a byte newly gives a partition fires where the partition's fault queue calls for it (R373). -/
def execVfmapChange (x : BitVec 64) (s : State) : Out :=
  .next (if (upTo 8).any fun k => fld x.toNat (8 * k + 7) (8 * k + 6) != 0 then s
    else (upTo 8).foldl (fun u k =>
      let p := fld x.toNat (8 * k + 5) (8 * k)
      if p ≠ fld s.vfmap.toNat (8 * k + 5) (8 * k) ∧ s.fqOn (.ofNat 6 p) = true then { u with hostOut := u.hostOut ++ [.msix (.vf (.ofNat 3 k)) 0] } else u)
      { s with vfmap := x })
/-- DEVID_WRITE (R379): only while every port is down. -/
def execDevidWrite (x : BitVec 18) (s : State) : Out :=
  .next (if s.wport.toList.all fun w => w.st == .down then { s with devid := x } else s)
/-- A Wildom port. -/
def State.port (s : State) (q : Nat) : WPort := vget s.wport q {}
/-- Changes a Wildom port. -/
def State.modPort (s : State) (q : Nat) (f : WPort → WPort) : State := { s with wport := vset s.wport q (f (s.port q)) }
/-- Every operation in flight through a port is to fault LINK_LOST, and so does a spill (R365). -/
def State.linkLost (s : State) (q : Nat) : State :=
  let s1 : State := { s with ops := s.ops.map fun o => if o.out && o.via == some q then { o with out := false, via := none, lost := some 0x0B } else o }
  let sp := (s1.frames.map fun f => f.vers.filterMap fun x =>
    if x.st = .resident ∧ x.spill.isSome ∧ x.spillVia = q then some (f.key, x.v) else none).flatten
  sp.foldl (fun s (k, v) => (s.modVer k v fun x => { x with spill := none, spillIds := [] }).spillFault k v ⟨0x0B, 0⟩) s1
/-- A port goes down. -/
def State.portDown (s : State) (q : Nat) : State :=
  (s.modPort q fun w => { w with st := .down, lanes := 0, fails := 0, replay := [] }).linkLost q
/-- WPORT_ENABLE (R379): an enabled port trains. -/
def execWportEnable (q : Nat) (s : State) : Out :=
  .next (if 18 ≤ q ∨ (s.port q).en then s else s.modPort q fun w => { w with en := true, st := .training })
/-- WPORT_DISABLE (R379). -/
def execWportDisable (q : Nat) (s : State) : Out :=
  .next (if 18 ≤ q ∨ !(s.port q).en then s else (s.modPort q fun w => { w with en := false }).portDown q)
/-- PORT_TRAINING_DONE (R379): on eight lanes the port is up, on four degraded, else down. -/
def execPortTrainingDone (q : Nat) (lanes : BitVec 4) (s : State) : Out :=
  .next (
    if 18 ≤ q ∨ (s.port q).st ≠ .training then s
    else if lanes = 8 then s.modPort q fun w => { w with st := .up, lanes := 8 }
    else if lanes = 4 then s.modPort q fun w => { w with st := .degraded, lanes := 4 }
    else s.portDown q)

/-! ## The Shutter (R368, R369) -/

/-- SHUTCTL_FIRE (R368). -/
def execShutctlFire (s : State) : Out := .next { s with shut := true }
/-- SHUTTER_PIN (R368). -/
def execShutterPin (s : State) : Out := .next { s with shut := true }
/-- SHUTTER_JTAG (R368). -/
def execShutterJtag (s : State) : Out := .next { s with shut := true }
/-- Bytes of an accumulator tile's 4 KiB as words: a sum tile row by row; of a ranked list each entry's value and index (R201, log 27). -/
def Acc.roWord (a : Acc) (n : Nat) : Option (BitVec 32 × Bool) :=
  match a with
  | .sum el p => if n < 256 then some (.ofNat 32 (bfld el (32 * n + 31) (32 * n)), p.getLsbD n) else none
  | .ranked _ rows =>
    let r := vget rows (n / 64) {}
    match r.ents[n % 64 / 2]? with
    | none => none
    | some e => some (if n % 2 = 0 then e.v else e.i, r.pois)
/-- The word and poison bit at a readout address, where the spec gives its contents (R369, log 27). -/
def State.roWord (s : State) (ra : Nat) : Option (BitVec 32 × Bool) :=
  let w4 := fun (m : Mem) (a : Nat) => (.ofNat 32 (leNat (memRead m (a / 4 * 4) 4)) : BitVec 32)
  let flip := fun (on : Bool) (x : BitVec 32 × Bool) => if on then ((x.2.toNat : BitVec 32), false) else x
  match fld ra 47 44 with
  | 0 =>
    if 48 ≤ fld ra 43 38 then none
    else
      let x := s.tile (tileNo (fld ra 43 38) (fld ra 37 33))
      let a := fld ra 26 0
      let got := match fld ra 32 28 with
        | 0 => if a < 0x8_0000 then some (w4 x.spad a, setHas x.marks (a / 4 * 4)) else none
        | 1 => if a < 0x1_0000 then (vget (vget x.ph x.matPh.toNat {}).mat.acc (a / 4096) (.sum 0 0)).roWord (a % 4096 / 4) else none
        | 2 => if a < 0x8000 then some (istGet x.istore (a / 4), setHas x.ipois (a / 4)) else none
        | _ => none
      got.map (flip (ra.testBit 27))
  | 4 =>
    let a := fld ra 40 0
    let word := fun (a : Nat) => ((upFrom (a / 4 * 4) 4).map s.hbmByte)
    let got := fun (a : Nat) => ((.ofNat 32 (leNat ((word a).map (·.1))) : BitVec 32), (word a).any (·.2))
    if a < hbmTop then some (got a)
    else if a - 2 ^ 39 < hbmTop then some (flip true (got (a - 2 ^ 39)))
    else none
  | _ => none
/-- SHUTTER_READOUT (R369): after the Shutter, a word of the frozen state is read without change; units whose encoding is private give
free values. -/
def execShutterReadout (ra : BitVec 48) (_acc : ReadoutAgent) (s : State) : Out :=
  .next (
    if !s.shut then s
    else match s.roWord ra.toNat with
      | some x => { s with readout := some x }
      | none => let (w, s1) := s.draw; { s1 with readout := some (w.setWidth 32, w.getLsbD 32) })

/-! ## Power (R380, R381) -/

/-- The power cap in force. -/
def State.cap (s : State) : Nat := match s.pwrcap with | some x => x.toNat | none => Config.ratedPower
/-- PWRCAP_WRITE (R381): a value outside 1,200 to the rated power is clamped to it. -/
def execPwrcapWrite (x : BitVec 16) (s : State) : Out :=
  .next { s with pwrcap := some (.ofNat 16 (max 1200 (min x.toNat Config.ratedPower))) }
/-- THERMTRIP is asserted (R381): power is removed and all state is lost, but for the flash, what has been sent out, and the model's own
agenda and counters. -/
def State.trip (s : State) : State :=
  { State.reset with powered := false, agenda := s.agenda, freeCtr := s.freeCtr, newId := s.newId, flash := s.flash
                     hostOut := s.hostOut, hartOut := s.hartOut }
/-- The dies' temperature and the power are as given (R381): a die at 115 °C trips the device; else it throttles while power would pass
PWRCAP or a die is at 105 °C. -/
def State.thermal (s : State) (x : ThermalInput) : State :=
  if 920 ≤ x.temp.toNat then s.trip
  else { s with temp := x.temp, throt := decide (s.cap < x.watts) || decide (840 ≤ x.temp.toNat) }
/-- THERMAL_THROTTLE (R381). -/
def execThermalThrottle (x : ThermalInput) (s : State) : Out := .next (s.thermal x)
/-- THERMTRIP (R381). -/
def execThermtrip (x : ThermalInput) (s : State) : Out := .next (s.thermal x)

/-! ## Launch pushes (R374) -/

/-- LQPUSH (R374): the requester's staging area is read whole, and its descriptor enters the queue or waits for space. -/
def execLqpush (p : PartId) (who : Requester) (pr : BitVec 2) (s : State) : Out :=
  .next (s.modPart p fun x =>
    let d := match who with | .hart => x.stageHart | .host => x.stageHost
    let q := vget x.lq pr.toNat []
    if q.length < 256 then { x with lq := vset x.lq pr.toNat (q ++ [d]) } else { x with lqHeld := x.lqHeld ++ [(pr, d)] })

/-! ## The host's accesses to memory (R283, R292, R372) -/

/-- Something is sent to the host. -/
def State.toHost (s : State) (x : HostOut) : State := { s with hostOut := s.hostOut ++ [x] }
/-- The live partition that a VF serves. -/
def State.vfPart (s : State) (k : BitVec 3) : Option PartId :=
  let p : PartId := .ofNat 6 (bfld s.vfmap (8 * k.toNat + 5) (8 * k.toNat))
  if p ≠ 0 ∧ (s.part p).live = true then some p else none
/-- Bytes of a host request. -/
def reqBytes (h : HostReq) : Nat := match h.wr with | some d => d.length | none => h.len
/-- The PAs of n bytes from an IPA, page by page; none where stage 2 faults, refuses a write or leaves local HBM. -/
def State.ipaSpan (s : State) (p : PartId) (wr : Bool) (ipa : Nat) : Nat → Nat → Option (List (Nat × Nat))
  | 0, n => if n = 0 then some [] else none
  | f + 1, n =>
    if n = 0 then some []
    else
      let k := min n (65536 - ipa % 65536)
      match s.stage2 p ipa with
      | .error _ => none
      | .ok (pa, w) => if (wr && !w) || decide (hbmTop < pa + k) then none else (State.ipaSpan s p wr (ipa + k) f (n - k)).map fun l => (pa, k) :: l
/-- A host access to memory at PAs; one that reaches a block that fails its check completes as Unsupported Request, and writes nothing
(R283, log 26). -/
def State.hostMem (s : State) (h : HostReq) (l : List (Nat × Nat)) : State :=
  if l.any fun (pa, k) => s.hbmBad pa k h.wr.isSome then s.toHost (.unsupported h)
  else match h.wr with
  | none => s.toHost (.reply h ((l.map fun (pa, k) => (upFrom pa k).map fun a => (s.hbmByte a).1).flatten))
  | some d => (l.foldl (fun ((s, d) : State × List Byte) (pa, k) => (s.hbmPut 0 pa ((d.take k).map fun b => some (b, false)), d.drop k)) (s, d)).1
/-- A host access through BAR2 of a partition's function: stage 2 translates it. -/
def State.bar2Do (s : State) (p : PartId) (h : HostReq) : State :=
  match s.ipaSpan p h.wr.isSome h.off ((reqBytes h) / 65536 + 2) (reqBytes h) with
  | none => s.toHost (.unsupported h)
  | some l => s.hostMem h l
/-- The same, or it waits: an MIT holds the partition's requests, or an earlier one waits (R292). -/
def State.bar2Take (s : State) (p : PartId) (h : HostReq) : State :=
  if !(s.part p).bar2.isEmpty || !s.ipaServed p h.off (reqBytes h) then s.modPart p fun y => { y with bar2 := y.bar2 ++ [h] } else s.bar2Do p h
/-- What waits for an MIT outside the operations is taken again, in its order: commit requests, and host accesses. -/
def State.shareAgain (s : State) (p : PartId) : State :=
  let s1 := s.commitsAgain p
  (s1.part p).bar2.foldl (fun s h => s.bar2Take p h) (s1.modPart p fun y => { y with bar2 := [] })

/-! ## Registers with no behaviour of their own (R299, R338, R361, R366, R374, R377, R383) -/

/-- Bits hi to lo, as a mask. -/
def msk (hi lo : Nat) : DWord := .ofNat 64 (2 ^ (hi + 1) - 2 ^ lo)
/-- Replaces bits hi to lo. -/
def putFld {n : Nat} (x : BitVec n) (hi lo v : Nat) : BitVec n :=
  (x &&& ~~~(.ofNat n (2 ^ (hi + 1) - 2 ^ lo))) ||| .ofNat n (v % 2 ^ (hi + 1 - lo) * 2 ^ lo)
/-- Stores the RW fields of a register in a partition page. -/
def State.partReg (s : State) (p : PartId) (off : Nat) (x : DWord) : State :=
  let put := fun (f : Part → Part) => s.modPart p f
  let free := !s.vregs.any fun r => r.part == p
  match off with
  | 0x008 => put fun y => { y with wtbase := x &&& msk 47 20 }
  | 0x020 => put fun y => { y with slottab := x &&& msk 47 16 }
  | 0x028 => if free then put fun y => { y with pool := x &&& msk 47 16 } else s
  | 0x030 => if free then put fun y => { y with pooln := x &&& msk 23 0 } else s
  | 0x038 => put fun y => { y with grptab := x &&& msk 47 16 }
  | 0x040 => put fun y => { y with penctl := x &&& (msk 63 53 ||| msk 47 4 ||| 1) }
  | 0x048 => put fun y => { y with penspill := x &&& msk 63 12 }
  | 0x058 => put fun y => { y with regcnt := x &&& msk 23 0 }
  | 0x078 => put fun y => { y with fqbase := x &&& (msk 47 12 ||| msk 4 0) }
  | 0x088 => (put fun y => { y with fqcons := x.setWidth 32 }).fqIrq p
  | 0x090 => (put fun y => { y with fqIE := x.getLsbD 0 }).fqIrq p
  | 0x0A8 => put fun y => { y with ckctl := x &&& (msk 39 8 ||| msk 1 0) }
  | _ =>
    if 0x100 ≤ off ∧ off < 0x180 ∧ off % 8 = 0 then
      let lo := 8 * (off % 64)
      put fun y => if off < 0x140 then { y with stageHart := putFld y.stageHart (lo + 63) lo x.toNat } else { y with stageHost := putFld y.stageHost (lo + 63) lo x.toNat }
    else s
/-- The partition of one of the monitor page's arrays of registers. -/
def regPart (base off : Nat) : Option PartId :=
  if base + 8 ≤ off ∧ off < base + 0x200 ∧ off % 8 = 0 then some (.ofNat 6 ((off - base) / 8)) else none
/-- The register is a share register: one of a partition 1 to 63 at MIT 0 to 23. -/
def isShare (off : Nat) : Bool :=
  decide (0x4000 ≤ off ∧ off < 0x4000 + 0x200 * 24 ∧ off % 8 = 0 ∧ (off - 0x4000) % 0x200 ≠ 0)
/-- Stores the RW fields of a register in the monitor page. -/
def State.monReg (s : State) (off : Nat) (x : DWord) : State :=
  match off with
  | 0x058 => { s with shutAuto := x.getLsbD 1 }
  | 0x060 => { s with mfqbase := x &&& (msk 47 12 ||| msk 4 0) }
  | 0x070 => { s with mfqcons := x.setWidth 32 }
  | 0x100 => { s with monCode := .ofNat 4 (bfld x 7 4) }
  | _ =>
    match regPart 0x800 off, regPart 0xC00 off, regPart 0x1000 off with
    | some p, _, _ => s.modPart p fun y => { y with s2root := x &&& msk 47 16 }
    | _, some p, _ => s.modPart p fun y => { y with authOut := x &&& msk 47 16 }
    | _, _, some p => s.modPart p fun y => { y with authIn := x &&& msk 47 16 }
    | _, _, _ =>
      if isShare off then { s with share := alSet s.share off (x &&& msk 39 16) }.shareAgain (.ofNat 6 (off % 0x200 / 8)) else s
/-- REGISTER_WRITE (R338): a write to a reserved or read-only offset is ignored. -/
def execRegisterWrite (pg : RegPage) (off : BitVec 16) (x : BitVec 64) (s : State) : Out :=
  .next (match pg with
    | .monitor => s.monReg off.toNat x
    | .part p => if p = 0 then s else s.partReg p off.toNat x)

end Sys2Proof.Machine
end

