-- ==== Sys2Proof/Machine/Issue.lean ====
section
/-! DEFINITION. The issue slot: which task issues, and when a parked task's reason clears (R312 to R314, R382). -/
namespace Sys2Proof.Machine

/-- A task's sequencer runs: its region runs, and slot 15's always does (R322, R382). -/
def State.taskRuns (s : State) (t : Nat) (k : SlotId) : Bool := k == 15 || s.regionRuns (s.lt t (s.task t k).phase).key
/-- A task of a tile may issue: it is ready and its sequencer runs (R314). -/
def State.canIssue (s : State) (t : Nat) (k : SlotId) : Bool :=
  (match (s.task t k).st with | .ready => true | _ => false) && s.taskRuns t k
/-- The first ready task of a class after a slot, round-robin in ascending slot order (R314). -/
def State.roundRobin (s : State) (t : Nat) (high : Bool) (last : SlotId) : Option SlotId :=
  ((upFrom 1 16).map fun i => (.ofNat 4 (last.toNat + i) : SlotId)).find? fun k => (s.task t k).high == high && s.canIssue t k
/-- The task to which an issue slot of a tile goes (R314). -/
def State.chosen (s : State) (t : Nat) : Option SlotId :=
  let x := s.tile t
  if s.canIssue t x.rot then some x.rot
  else match s.roundRobin t true x.lastHi with
    | some k => some k
    | none => s.roundRobin t false x.lastNo
/-- ISSUE_SLOT (R314): the chosen task holds the issue slot, and its word is next. -/
def execIssueSlot (t : Nat) (s : State) : Out :=
  .next (match s.chosen t with
    | none => s
    | some k => { s.modTask t k fun x => { x with st := .running } with ctx := { tile := t, slot := k, unit := .task }, live := true })

/-- A parked word, tried again without effect, meets its park reason no more (R32, R313). A word in the matrix unit ends its wait itself. -/
def State.parkOver (s : State) (t : Nat) (k : SlotId) (r : Park) : Bool :=
  if r = .matrix then false
  else
    let s1 : State := { s with ctx := { tile := t, slot := k, unit := .task } }
    if !s1.cur.ptraps.isEmpty then true
    else match s1.fetchAt s1.cur.pc with
      | .bad _ _ _ => true
      | .instr i =>
        match wordMeaning i s1 with
        | .next u => (u.task t k).st != .parked r
        | _ => true
/-- A head stands at an idle task's trigger endpoint (R312). -/
def State.triggered (s : State) (t : Nat) (k : SlotId) : Bool :=
  !(vget (s.lt t (s.task t k).phase).inP (s.task t k).trigP.toNat {}).fifo.isEmpty
/-- PARK_CLEAR (R312, R313): a parked task whose reason has cleared is ready, and so is an idle one whose trigger endpoint has a head. -/
def execParkClear (t : Nat) (k : SlotId) (s : State) : Out :=
  .next (
    if !s.taskRuns t k then s
    else
      let ready := s.modTask t k fun x => { x with st := .ready }
      match (s.task t k).st with
      | .parked r => if s.parkOver t k r then ready else s
      | .idle => if s.triggered t k then ready else s
      | _ => s)

end Sys2Proof.Machine
end

