-- ==== Sys2Proof/Machine/Crypto.lean ====
section
/-! DEFINITION. The published algorithms that R376 names: SHA-384 (FIPS 180-4) and ECDSA over P-384 (FIPS 186-5) (log 20). -/
namespace Sys2Proof.Machine

/-- A number from bytes, most significant first. -/
def beNat (l : List Byte) : Nat := l.foldl (fun a b => 256 * a + b.toNat) 0

/-! ## SHA-384 -/

/-- Rotation of a 64-bit word to the right. -/
def rotr64 (x n : Nat) : Nat := x / 2 ^ n + x % 2 ^ n * 2 ^ (64 - n)
/-- The constants of the 80 rounds. -/
def shaK : List Nat :=
  [0x428A2F98D728AE22, 0x7137449123EF65CD, 0xB5C0FBCFEC4D3B2F, 0xE9B5DBA58189DBBC] ++
  [0x3956C25BF348B538, 0x59F111F1B605D019, 0x923F82A4AF194F9B, 0xAB1C5ED5DA6D8118] ++
  [0xD807AA98A3030242, 0x12835B0145706FBE, 0x243185BE4EE4B28C, 0x550C7DC3D5FFB4E2] ++
  [0x72BE5D74F27B896F, 0x80DEB1FE3B1696B1, 0x9BDC06A725C71235, 0xC19BF174CF692694] ++
  [0xE49B69C19EF14AD2, 0xEFBE4786384F25E3, 0x0FC19DC68B8CD5B5, 0x240CA1CC77AC9C65] ++
  [0x2DE92C6F592B0275, 0x4A7484AA6EA6E483, 0x5CB0A9DCBD41FBD4, 0x76F988DA831153B5] ++
  [0x983E5152EE66DFAB, 0xA831C66D2DB43210, 0xB00327C898FB213F, 0xBF597FC7BEEF0EE4] ++
  [0xC6E00BF33DA88FC2, 0xD5A79147930AA725, 0x06CA6351E003826F, 0x142929670A0E6E70] ++
  [0x27B70A8546D22FFC, 0x2E1B21385C26C926, 0x4D2C6DFC5AC42AED, 0x53380D139D95B3DF] ++
  [0x650A73548BAF63DE, 0x766A0ABB3C77B2A8, 0x81C2C92E47EDAEE6, 0x92722C851482353B] ++
  [0xA2BFE8A14CF10364, 0xA81A664BBC423001, 0xC24B8B70D0F89791, 0xC76C51A30654BE30] ++
  [0xD192E819D6EF5218, 0xD69906245565A910, 0xF40E35855771202A, 0x106AA07032BBD1B8] ++
  [0x19A4C116B8D2D0C8, 0x1E376C085141AB53, 0x2748774CDF8EEB99, 0x34B0BCB5E19B48A8] ++
  [0x391C0CB3C5C95A63, 0x4ED8AA4AE3418ACB, 0x5B9CCA4F7763E373, 0x682E6FF3D6B2B8A3] ++
  [0x748F82EE5DEFB2FC, 0x78A5636F43172F60, 0x84C87814A1F0AB72, 0x8CC702081A6439EC] ++
  [0x90BEFFFA23631E28, 0xA4506CEBDE82BDE9, 0xBEF9A3F7B2C67915, 0xC67178F2E372532B] ++
  [0xCA273ECEEA26619C, 0xD186B8C721C0C207, 0xEADA7DD6CDE0EB1E, 0xF57D4F7FEE6ED178] ++
  [0x06F067AA72176FBA, 0x0A637DC5A2C898A6, 0x113F9804BEF90DAE, 0x1B710B35131C471B] ++
  [0x28DB77F523047D84, 0x32CAAB7B40C72493, 0x3C9EBE0A15C9BEBC, 0x431D67C49C100D4C] ++
  [0x4CC5D4BECB3E42B6, 0x597F299CFC657E2A, 0x5FCB6FAB3AD6FAEC, 0x6C44198C4A475817]
/-- The initial hash value of SHA-384. -/
def shaInit : List Nat := [0xCBBB9D5DC1059ED8, 0x629A292A367CD507, 0x9159015A3070DD17, 0x152FECD8F70E5939, 0x67332667FFC00B31, 0x8EB44A8768581511, 0xDB0C2E0D64F98FA7, 0x47B5481DBEFA4FA4]
/-- The message schedule: n more words after those given, latest first. -/
def shaSched : Nat → List Nat → List Nat
  | 0, w => w
  | n + 1, w =>
    let x := fun (k : Nat) => w.getD (k - 1) 0
    let s0 := rotr64 (x 15) 1 ^^^ rotr64 (x 15) 8 ^^^ x 15 / 2 ^ 7
    let s1 := rotr64 (x 2) 19 ^^^ rotr64 (x 2) 61 ^^^ x 2 / 2 ^ 6
    shaSched n ((s1 + x 7 + s0 + x 16) % 2 ^ 64 :: w)
/-- One round: the working variables a to h, a round constant and a message word. -/
def shaRound (v : List Nat) (k w : Nat) : List Nat :=
  match v with
  | [a, b, c, d, e, f, g, h] =>
    let t1 := h + (rotr64 e 14 ^^^ rotr64 e 18 ^^^ rotr64 e 41) + ((e &&& f) ^^^ ((2 ^ 64 - 1 - e) &&& g)) + k + w
    let t2 := (rotr64 a 28 ^^^ rotr64 a 34 ^^^ rotr64 a 39) + ((a &&& b) ^^^ (a &&& c) ^^^ (b &&& c))
    [(t1 + t2) % 2 ^ 64, a, b, c, (d + t1) % 2 ^ 64, e, f, g]
  | _ => v
/-- A block of sixteen words taken in. -/
def shaBlock (h : List Nat) (blk : List Byte) : List Nat :=
  let w := (shaSched 64 (((groupsOf 8 blk.length blk).map beNat).reverse)).reverse
  ((shaK.zip w).foldl (fun v x => shaRound v x.1 x.2) h).zip h |>.map fun (x, y) => (x + y) % 2 ^ 64
/-- A message padded to whole blocks: a one bit, zeros, and its length in bits. -/
def shaPad (m : List Byte) : List Byte :=
  m ++ [0x80] ++ List.replicate ((239 - m.length % 128) % 128) 0 ++ ((leBytes 16 (8 * m.length)).reverse)
/-- SHA-384 of a message, as a number. -/
def sha384 (m : List Byte) : Nat :=
  let p := shaPad m
  (((groupsOf 128 p.length p).foldl shaBlock shaInit).take 6).foldl (fun a w => 2 ^ 64 * a + w) 0

/-! ## P-384 -/

/-- The field's prime. -/
def p384 : Nat := 2 ^ 384 - 2 ^ 128 - 2 ^ 96 + 2 ^ 32 - 1
/-- The order of the base point. -/
def n384 : Nat := 0xFFFFFFFFFFFFFFFFFFFFFFFFFFFFFFFFFFFFFFFFFFFFFFFFC7634D81F4372DDF581A0DB248B0A77AECEC196ACCC52973
/-- The curve y² = x³ − 3x + b. -/
def b384 : Nat := 0xB3312FA7E23EE7E4988E056BE3F82D19181D9C6EFE8141120314088F5013875AC656398D8A2ED19D2A85C8EDD3EC2AEF
/-- The base point. -/
def g384 : Nat × Nat :=
  (0xAA87CA22BE8B05378EB1C71EF320AD746E1D3B628BA79B9859F741E082542A385502F25DBF55296C3A545E3872760AB7,
   0x3617DE4A96262C6F5D9E98BF9292DC29F8F41DBD289A147CE9DA3113B5F0B8C00A60B1CE1D7E819D7A431D7C90EA0E5F)
/-- A power modulo m, by the bits of its exponent, the n lowest. -/
def powMod (m : Nat) : Nat → Nat → Nat → Nat
  | 0, _, _ => 1
  | n + 1, x, e => (if e % 2 = 1 then x else 1) * powMod m n (x * x % m) (e / 2) % m
/-- The inverse modulo a prime of 384 bits. -/
def invMod (m x : Nat) : Nat := powMod m 384 (x % m) (m - 2)
/-- Difference modulo the field's prime. -/
def subP (a b : Nat) : Nat := (a + p384 - b % p384) % p384
/-- A point in Jacobian coordinates doubled; z = 0 is the point at infinity. -/
def ecDouble (q : Nat × Nat × Nat) : Nat × Nat × Nat :=
  let (x, y, z) := q
  let d := z * z % p384
  let g := y * y % p384
  let b := x * g % p384
  let a := 3 * subP x d * (x + d) % p384
  let x3 := subP (a * a) (8 * b)
  (x3, subP (a * subP (4 * b) x3) (8 * g * g), 2 * y * z % p384)
/-- The sum of two points. -/
def ecAdd (q r : Nat × Nat × Nat) : Nat × Nat × Nat :=
  let (x1, y1, z1) := q
  let (x2, y2, z2) := r
  if z1 = 0 then r
  else if z2 = 0 then q
  else
    let u1 := x1 * z2 % p384 * z2 % p384
    let u2 := x2 * z1 % p384 * z1 % p384
    let s1 := y1 * z2 % p384 * z2 % p384 * z2 % p384
    let s2 := y2 * z1 % p384 * z1 % p384 * z1 % p384
    let h := subP u2 u1
    let r := subP s2 s1
    if h = 0 then (if r = 0 then ecDouble q else (1, 1, 0))
    else
      let h2 := h * h % p384
      let h3 := h2 * h % p384
      let v := u1 * h2 % p384
      let x3 := subP (r * r) (h3 + 2 * v)
      (x3, subP (r * subP v x3) (s1 * h3), h * z1 % p384 * z2 % p384)
/-- A multiple of a point, by the bits of its factor, the n lowest. -/
def ecMul : Nat → Nat → Nat × Nat × Nat → Nat × Nat × Nat
  | 0, _, _ => (1, 1, 0)
  | n + 1, k, q => let r := ecDouble (ecMul n (k / 2) q); if k % 2 = 1 then ecAdd r q else r
/-- A point lies on the curve. -/
def onCurve (q : Nat × Nat) : Bool :=
  decide (q.1 < p384) && decide (q.2 < p384) && q.2 * q.2 % p384 == (q.1 * q.1 * q.1 + b384 + (p384 - 3) * q.1) % p384
/-- A signature (r, s) of a digest verifies under a public key. -/
def ecdsaOk (key : Nat × Nat) (r s digest : Nat) : Bool :=
  let w := invMod n384 s
  let q := ecAdd (ecMul 384 (digest * w % n384) (g384.1, g384.2, 1)) (ecMul 384 (r * w % n384) (key.1, key.2, 1))
  onCurve key && decide (0 < r ∧ r < n384) && decide (0 < s ∧ s < n384) && q.2.2 != 0 &&
    (q.1 * invMod p384 (q.2.2 * q.2.2)) % p384 % n384 == r

end Sys2Proof.Machine
end

