-- ==== Sys2Proof/Machine/Registers.lean ====
section
/-! DEFINITION. The control space as harts and the host reach it: what each register's write does and what its read returns (R299, R337 to R349, R361 to R366, R368, R372, R374, R377, R379, R381). -/
namespace Sys2Proof.Machine

/-! ## Writes -/

/-- TLBINV as written (R342). -/
def State.writeTlbinv (s : State) (p : PartId) (x : DWord) : State :=
  let w : BitVec 16 := .ofNat 16 (bfld x 63 48)
  if bfld x 15 2 ≠ 0 then s.modPart p fun y => { y with tlbErr := true }
  else match bfld x 1 0 with
    | 0 => nextOr s (execTlbinvPartition p s)
    | 1 => nextOr s (execTlbinvWindow p w s)
    | 2 => nextOr s (execTlbinvPage p w (.ofNat 32 (bfld x 47 16)) s)
    | _ => s.modPart p fun y => { y with tlbErr := true }
/-- FQRES or MFQRES as written (R361, R362). -/
def State.writeFqres (s : State) (p : PartId) (x : DWord) : State :=
  let seq : BitVec 32 := .ofNat 32 (bfld x 63 32)
  if bfld x 31 2 ≠ 0 then s.refusedBit p true
  else match bfld x 1 0 with
    | 0 => nextOr s (execFqresRetry p seq s)
    | 1 => nextOr s (execFqresCancel p seq s)
    | 2 => nextOr s (execFqresAlt p seq s)
    | _ => nextOr s (execFqresEnd p seq s)
/-- TASKCMD as written (R363). -/
def State.writeTaskcmd (s : State) (p : PartId) (x : DWord) : State :=
  let c : TaskRef := ⟨.ofNat 16 (bfld x 63 48), .ofNat 8 (bfld x 39 32), .ofNat 8 (bfld x 47 40), .ofNat 4 (bfld x 31 28)⟩
  if bfld x 25 13 ≠ 0 then s.refusedBit p true
  else match bfld x 27 26 with
    | 0 => nextOr s (execTaskcmdResumeTpc p c s)
    | 1 => nextOr s (execTaskcmdResumePc p c (.ofNat 13 (bfld x 12 0)) s)
    | 2 => nextOr s (execTaskcmdEnd p c s)
    | _ => s.refusedBit p true
/-- CKCMD as written (R366); its other bits have no effect (R29). -/
def State.writeCkcmd (s : State) (p : PartId) (x : DWord) : State :=
  let rg : BitVec 16 := .ofNat 16 (bfld x 63 48)
  match bfld x 1 0 with
  | 0 => nextOr s (execCkcmdCheckpoint p rg s)
  | 1 => nextOr s (execCkcmdRollback p rg s)
  | _ => s.refusedBit p true
/-- A write of a whole register in a partition page. -/
def State.partWrite (s : State) (p : PartId) (who : Requester) (off : Nat) (x : DWord) : State :=
  match off with
  | 0x010 => s.writeTlbinv p x
  | 0x050 => nextOr s (execRegdel p (.ofNat 16 (bfld x 63 48)) (.ofNat 36 (bfld x 47 12)) s)
  | 0x060 => nextOr s (execSlicedel p (.ofNat 16 (bfld x 15 0)) s)
  | 0x070 => nextOr s (execCommitRequest p x s)
  | 0x098 => s.writeFqres p x
  | 0x0A0 => s.writeTaskcmd p x
  | 0x0B0 => s.writeCkcmd p x
  | 0x0C0 => nextOr s (execLqpush p who (.ofNat 2 (bfld x 1 0)) s)
  | _ => nextOr s (execRegisterWrite (.part p) (.ofNat 16 off) x s)
/-- S2INV as written (R338). -/
def State.writeS2inv (s : State) (x : DWord) : State :=
  let p : PartId := .ofNat 6 (bfld x 63 58)
  match bfld x 1 0 with
  | 0 => nextOr s (execS2invPartition p s)
  | 1 => nextOr s (execS2invPage p (.ofNat 32 (bfld x 47 16)) s)
  | _ => s
/-- PARTCTL as written (R338): HART is stored, LIVE makes the partition live or not. -/
def State.writePartctl (s : State) (p : PartId) (x : DWord) : State :=
  let h : BitVec 3 := .ofNat 3 (bfld x 10 8)
  if x.getLsbD 0 then nextOr s (execPartitionLive p h s) else (nextOr s (execPartitionNotLive p s)).modPart p fun y => { y with hart := h }
/-- A write of a whole register in the monitor page. -/
def State.monWrite (s : State) (off : Nat) (x : DWord) : State :=
  let prism := fun (s : State) (k : Nat) => (upTo 4).foldl (fun s i => nextOr s (execPrismmapChange (.ofNat 3 (k + i)) (.ofNat 16 (bfld x (16 * i + 15) (16 * i))) s)) s
  match off with
  | 0x000 => nextOr s (execOwncmd ⟨.ofNat 6 (bfld x 63 58), .ofNat 6 (bfld x 57 52), .ofNat 5 (bfld x 51 47), .ofNat 6 (bfld x 46 41), .ofNat 5 (bfld x 40 36)⟩ s)
  | 0x010 => (upTo 8).foldl (fun s e => nextOr s (execSynassignChange (.ofNat 3 e) (.ofNat 6 (bfld x (8 * e + 5) (8 * e))) s)) s
  | 0x020 => prism s 0
  | 0x028 => prism s 4
  | 0x030 => s.writeS2inv x
  | 0x040 => nextOr s (execScrub (.ofNat 28 (bfld x 39 12)) (.ofNat 24 (bfld x 63 40)) s)
  | 0x050 => if x.getLsbD 63 then nextOr s (execMcstatClear s) else s
  | 0x058 =>
    let s1 := nextOr s (execRegisterWrite .monitor 0x058 x s)
    if x.getLsbD 0 then nextOr s1 (execShutctlFire s1) else s1
  | 0x078 => s.writeFqres 0 x
  | 0x108 => nextOr s (execDevidWrite (x.setWidth 18) s)
  | 0x110 => nextOr s (execPwrcapWrite (x.setWidth 16) s)
  | 0x120 => nextOr s (execVfmapChange x s)
  | _ =>
    if 0x200 ≤ off ∧ off < 0x200 + 8 * 18 then
      let q := (off - 0x200) / 8
      if x.getLsbD 63 then nextOr s (execWportEnable q s) else nextOr s (execWportDisable q s)
    else match regPart 0x400 off with
      | some p => s.writePartctl p x
      | none => nextOr s (execRegisterWrite .monitor (.ofNat 16 off) x s)

/-! ## Reads -/

/-- Fill of a launch queue. -/
def Part.fill (y : Part) (k : Nat) : Nat := (vget y.lq k []).length
/-- A read of a whole register in a partition page; a reserved or write-only offset returns zero. -/
def State.partRead (s : State) (p : PartId) (off : Nat) : DWord :=
  let y := s.part p
  match off with
  | 0x000 => w64 (y.hart.toNat * 256 + p.toNat)
  | 0x008 => y.wtbase
  | 0x018 => w64 (y.tlbErr.toNat * 2 + (!y.invq.isEmpty).toNat)
  | 0x020 => y.slottab
  | 0x028 => y.pool
  | 0x030 => y.pooln
  | 0x038 => y.grptab
  | 0x040 => y.penctl
  | 0x048 => y.penspill
  | 0x058 => y.regcnt
  | 0x068 => w64 y.delstat.toNat
  | 0x078 => y.fqbase
  | 0x080 => w64 y.fqprod.toNat
  | 0x088 => w64 y.fqcons.toNat
  | 0x090 => w64 (y.refused.toNat * 2 + y.fqIE.toNat)
  | 0x0A8 => y.ckctl
  | 0x0C8 => w64 (y.fill 3 * 2 ^ 32 + y.fill 2 * 2 ^ 14 + y.fill 0)
  | 0x0D0 => w64 (y.fill 1)
  | _ =>
    if 0x100 ≤ off ∧ off < 0x180 ∧ off % 8 = 0 then
      let lo := 8 * (off % 64)
      w64 (bfld (if off < 0x140 then y.stageHart else y.stageHost) (lo + 63) lo)
    else 0
/-- PSTATE: bit h set where the partition on hart h is live (R377). -/
def State.pstate (s : State) : Nat := unchunk 1 ((upTo 8).map fun h => (s.parts.any fun x => x.2.live && x.2.hart.toNat == h).toNat)
/-- Code of a port's state (R379). -/
def wportCode : PortSt → Nat
  | .down => 0 | .training => 1 | .up => 2 | .degraded => 3
/-- BOOTSTAT (R377). -/
def State.bootstat (s : State) : DWord := w64 (s.pstate * 2 ^ 40 + s.cause.toNat * 2 ^ 32 + s.monCode.toNat * 16 + s.stage.toNat)
/-- A read of a whole register in the monitor page. -/
def State.monRead (s : State) (off : Nat) : DWord :=
  let prism := fun (k : Nat) => w64 (unchunk 16 ((upTo 4).map fun i => (vget s.prismMap (k + i) 0).toNat))
  match off with
  | 0x008 => w64 s.ownStat.toNat
  | 0x010 => w64 (unchunk 8 (s.syn.toList.map fun g => g.owner.toNat))
  | 0x018 => w64 (unchunk 1 (s.syn.toList.map fun g => g.pend.isSome.toNat))
  | 0x020 => prism 0
  | 0x028 => prism 4
  | 0x038 => w64 (!s.s2q.isEmpty).toNat
  | 0x048 => w64 s.scrub.isSome.toNat
  | 0x050 => w64 (s.mcValid.toNat * 2 ^ 63 + s.mcPart.toNat * 2 ^ 52 + s.mcReason.toNat)
  | 0x058 => w64 (s.shutAuto.toNat * 2)
  | 0x060 => s.mfqbase
  | 0x068 => w64 s.mfqprod.toNat
  | 0x070 => w64 s.mfqcons.toNat
  | 0x080 => w64 (s.hbmce.toNat * 2 ^ 32 + s.sramce.toNat)
  | 0x100 => s.bootstat
  | 0x108 => w64 s.devid.toNat
  | 0x110 => w64 s.cap
  | 0x118 => w64 (s.throt.toNat * 65536 + s.temp.toNat)
  | 0x120 => s.vfmap
  | _ =>
    if 0x200 ≤ off ∧ off < 0x200 + 8 * 18 ∧ off % 8 = 0 then
      let w := s.port ((off - 0x200) / 8)
      w64 (w.en.toNat * 2 ^ 63 + (if 8 ≤ w.fails ∧ w.st ≠ .down then 1 else wportCode w.st) * 2 ^ 58 + w.lanes.toNat * 2 ^ 48 + w.retrain.toNat * 2 ^ 32 + w.retry.toNat)
    else if 0x2000 ≤ off ∧ off < 0x2600 then w64 (unchunk 8 ((upTo 8).map fun i => (s.owner (off - 0x2000 + i)).toNat))
    else match regPart 0x400 off, regPart 0x800 off, regPart 0xC00 off, regPart 0x1000 off with
      | some p, _, _, _ => w64 ((s.part p).hart.toNat * 256 + (s.part p).live.toNat)
      | _, some p, _, _ => (s.part p).s2root
      | _, _, some p, _ => (s.part p).authOut
      | _, _, _, some p => (s.part p).authIn
      | _, _, _, _ => if isShare off then (alGet s.share off).getD 0xFFFF0000 else 0

/-! ## Bytes of a page -/

/-- A read of a register by page. -/
def State.regRead (s : State) (pg : RegPage) (off : Nat) : DWord :=
  match pg with | .monitor => s.monRead off | .part p => s.partRead p off
/-- A write of a register by page. -/
def State.regWrite (s : State) (pg : RegPage) (who : Requester) (off : Nat) (x : DWord) : State :=
  match pg with | .monitor => s.monWrite off x | .part p => s.partWrite p who off x
/-- A byte of a page. -/
def State.regByte (s : State) (pg : RegPage) (off : Nat) : Byte := .ofNat 8 ((s.regRead pg (off / 8 * 8)).toNat / 2 ^ (8 * (off % 8)))
/-- What a write of bytes within one register writes: its other bytes go with what they read as (log 28). -/
def State.regVal (s : State) (pg : RegPage) (off : Nat) (d : List Byte) : DWord :=
  let r := off / 8 * 8
  let old := if pg = .monitor ∧ r = 0x050 then 0 else s.regRead pg r
  let lo := 8 * (off % 8)
  putFld old (lo + 8 * d.length - 1) lo (leNat d)
/-- A write of bytes within one register. -/
def State.regPut (s : State) (pg : RegPage) (who : Requester) (off : Nat) (d : List Byte) : State :=
  s.regWrite pg who (off / 8 * 8) (s.regVal pg off d)
/-- A write of bytes to a page, register by register. -/
def State.pagePut (s : State) (pg : RegPage) (who : Requester) (off : Nat) : Nat → List Byte → State
  | 0, _ => s
  | n + 1, d =>
    if d.isEmpty then s
    else
      let k := 8 - off % 8
      State.pagePut (s.regPut pg who off (d.take k)) pg who (off + k) n (d.drop k)

end Sys2Proof.Machine
end

