-- ==== Sys2Proof/Machine/Outside.lean ====
section
/-! DEFINITION. What harts and the host do to the device, and boot (R266, R337, R338, R371 to R378). -/
namespace Sys2Proof.Machine

/-! ## Harts (R266, R338, R368) -/

/-- Start of the control space. -/
def ctlBase : Nat := 0x40_0000_0000
/-- Something is given to a hart. -/
def State.toHart (s : State) (x : HartOut) : State := { s with hartOut := s.hartOut ++ [x] }
/-- The page and offset of a hart address in the control space, if that page answers to the access (R338, R368). -/
def State.hartPage (s : State) (h : HartReq) : Option (RegPage × Nat) :=
  let o := h.addr - ctlBase
  let mon := h.mode == .m || h.mode == .hs
  if o < 0x1_0000 then
    if mon && (h.mode == .m || o / 8 * 8 != 0x058) then some (.monitor, o) else none
  else
    let p : PartId := .ofNat 6 (o / 0x1_0000)
    if mon || (h.mode == .vs && (s.part p).live && (s.part p).hart == h.hart) then some (.part p, o % 0x1_0000) else none
/-- A hart's store of a register's whole value stalls: the queue that it names has no room (R342, R374). -/
def State.hartStalls (s : State) (pg : RegPage) (off : Nat) (x : DWord) : Bool :=
  match pg with
  | .part p =>
    (off / 8 * 8 == 0x010 && decide (16 ≤ (s.part p).invq.length)) ||
      (off / 8 * 8 == 0x0C0 && decide (256 ≤ ((s.part p).fill (bfld x 1 0))))
  | .monitor => off / 8 * 8 == 0x030 && decide (16 ≤ s.s2q.length)
/-- A hart's load or store in the control space. -/
def State.hartCtl (s : State) (h : HartReq) : State :=
  if h.addr % h.size ≠ 0 then s.toHart (.accessFault h.hart)
  else match s.hartPage h with
    | none => s.toHart (.accessFault h.hart)
    | some (pg, off) =>
      match h.wr with
      | none => s.toHart (.data h.hart (w64 (leNat ((upFrom off h.size).map (s.regByte pg)))))
      | some x =>
        let s1 := s.regPut pg .hart off (leBytes h.size x.toNat)
        if s.hartStalls pg off (s.regVal pg off (leBytes h.size x.toNat)) then s1.toHart (.stall h) else s1
/-- HART_MEMORY_ACCESS (R266, R338): a load or store of one to eight bytes at a hart physical address; one that reaches a block that fails
its check takes an access fault, and a store writes nothing then (R283, log 15). -/
def execHartMemoryAccess (h : HartReq) (s : State) : Out :=
  .next (
    if !([1, 2, 4, 8].contains h.size) then s.toHart (.accessFault h.hart)
    else if ctlBase ≤ h.addr ∧ h.addr < ctlBase + 0x40_0000 then s.hartCtl h
    else if hbmTop < h.addr + h.size then s.toHart (.accessFault h.hart)
    else if s.hbmBad h.addr h.size h.wr.isSome then s.toHart (.accessFault h.hart)
    else match h.wr with
      | none => s.toHart (.data h.hart (w64 (leNat ((upFrom h.addr h.size).map fun a => (s.hbmByte a).1))))
      | some x => s.hbmPut 0 h.addr ((leBytes h.size x.toNat).map fun b => some (b, false)))

/-! ## Boot (R375 to R378) -/

/-- Sets BOOTSTAT.STAGE; PF0 vector 0 fires on each change (R373). -/
def State.setStage (s : State) (n : BitVec 4) : State :=
  if s.stage = n then s else { s with stage := n, hostOut := s.hostOut ++ [.msix .pf0 0] }
/-- The public key of an image, as a point (R375, log 20). -/
def imageKey (m : Mem) : Nat × Nat := (beNat (memRead m 32 48), beNat (memRead m 80 48))
/-- The signature of an image of n bytes verifies: (r, s) over SHA-384 of bytes 0 to 127 and 256 onward (R375, R376). -/
def imageSigned (m : Mem) (n : Nat) : Bool :=
  ecdsaOk (imageKey m) (beNat (memRead m 128 48)) (beNat (memRead m 176 48)) (sha384 (memRead m 0 128 ++ memRead m 256 (n - 256)))
/-- A flash image, or the cause for which it fails (R376, R377). -/
def imageCause (m : Mem) : Option Byte :=
  let n := leNat (memRead m 8 8)
  if leNat (memRead m 0 4) ≠ 0x4B58_4246 ∨ n < 256 ∨ 0x200_0000 < n then some 1
  else if sha384 (memRead m 32 96) ≠ Config.keyHash.toNat then some 2
  else if !imageSigned m n then some 3
  else if leNat (memRead m 4 4) < Config.fusedVersion then some 4
  else none
/-- The device as reset leaves it: the flash, the agenda and the model's counters stay, and what has been sent out; the change of STAGE to 0
fires PF0 vector 0, and that of PSTATE vector 2 of the functions of live partitions (R373). -/
def State.fresh0 (s : State) : State :=
  { State.reset with agenda := s.agenda, freeCtr := s.freeCtr, newId := s.newId, flash := s.flash, hartOut := s.hartOut
                     hostOut := s.hostOut ++ (if s.stage = 0 then [] else [.msix .pf0 0]) ++
                       (upTo 8).filterMap fun k => if (s.vfPart (.ofNat 3 k)).isSome then some (HostOut.msix (.vf (.ofNat 3 k)) 2) else none }
/-- Hart 0 runs from an address (R376). -/
def State.startHart0 (s : State) (a : DWord) : State := { s with harts := vset s.harts 0 { runs := true, entry := a } }.toHart (.resetHart0 a)
/-- Reset and boot (R376): HBM training, the image's checks, the copy to HBM and the jump of hart 0 to its entry; or STAGE 6. -/
def State.boot (s : State) (i : BootInput) : State :=
  let fail := fun (s : State) (c : Byte) => { s.setStage 6 with cause := c }
  let s1 := s.fresh0.setStage 1
  if !i.hbmOk then fail s1 5
  else
    let s2 := s1.setStage 2
    if !i.flashOk then fail s2 6
    else match imageCause s2.flash with
      | some c => fail s2 c
      | none =>
        let at_ := leNat (memRead s2.flash 16 8)
        let img := memRead s2.flash 0 (leNat (memRead s2.flash 8 8))
        ({ s2 with hbm := memWrite s2.hbm at_ (img.take (hbmTop - at_)) }.setStage 3).startHart0 (w64 (leNat (memRead s2.flash 24 8)))
/-- DEVICE_RESET (R376). -/
def execDeviceReset (i : BootInput) (s : State) : Out := .next (s.boot i)
/-- The boot ROM verifies the image of n bytes that the host has written, and begins to write it to flash, at STAGE 7: until it is done the
flash holds no image that passes (R378, log 20). -/
def State.recover (s : State) (n : Nat) : State :=
  if s.stage ≠ 6 then s
  else
    let img := memSlice s.hbm 0 0x200_0000
    match if leNat (memRead img 8 8) ≠ n then some 1 else imageCause img with
    | some c => { s with cause := c }
    | none => { s with flash := [], recov := some (memSlice s.hbm 0 n) }.setStage 7
/-- The write to flash is done, and the boot ROM resets the device (R378). -/
def State.recovered (s : State) : State :=
  match s.recov with
  | none => s
  | some m =>
    let (a, s1) := { s with flash := m, recov := none }.drawBit
    let (b, s2) := s1.drawBit
    s2.boot ⟨a, b⟩
/-- RECOVERY_IMAGE_WRITE (R378): the write begins, or one that is in progress is done. -/
def execRecoveryImageWrite (n : BitVec 64) (s : State) : Out := .next (if s.stage = 7 then s.recovered else s.recover n.toNat)

/-! ## The host's requests (R372, R374, R378) -/

/-- PF0's BAR0 maps n bytes: BOOTSTAT, or the recovery mailbox (R372). -/
def pf0Maps (off n : Nat) : Bool := decide (off + n ≤ 8) || decide (0x100 ≤ off ∧ off + n ≤ 0x200)
/-- A host access to PF0's BAR0: BOOTSTAT, and the recovery mailbox while STAGE is 6. -/
def State.pf0 (s : State) (h : HostReq) : State :=
  match h.wr with
  | some d => if h.off = 0x100 then s.recover (leNat (d.take 8)) else s
  | none =>
    let (fr, s1) := s.drawBytes h.len
    let d := (upFrom h.off h.len).zip fr |>.map fun (a, x) =>
      if a < 8 then .ofNat 8 (s.bootstat.toNat / 2 ^ (8 * a)) else if s.stage = 6 ∧ 0x100 ≤ a ∧ a < 0x200 then x else 0
    s1.toHost (.reply h d)
/-- HOST_REQUEST (R292, R372): served through the function's BAR, or completed as Unsupported Request. -/
def execHostRequest (h : HostReq) (s : State) : Out :=
  .next (
    let n := reqBytes h
    let ur := s.toHost (.unsupported h)
    match h.fn with
    | .pf0 => if h.bar = 0 ∧ pf0Maps h.off n = true then s.pf0 h else ur
    | .vf k =>
      if h.bar = 2 ∧ k = 0 ∧ s.stage = 6 ∧ h.off + n ≤ 0x200_0000 then s.hostMem h [(h.off, n)]
      else match s.vfPart k with
        | none => ur
        | some p =>
          if h.bar = 0 ∧ h.off + n ≤ 0x1000 then
            match h.wr with
            | none => s.toHost (.reply h ((upFrom h.off n).map (s.regByte (.part p))))
            | some d => s.pagePut (.part p) .host h.off (d.length + 1) d
          else if h.bar = 2 ∧ h.off + n ≤ 2 ^ 36 then
            s.bar2Take p h
          else ur)
/-- FUNCTION_LEVEL_RESET (R373): a VF's PCIe configuration and MSI-X table lie outside this model, and the partition runs on. -/
def execFunctionLevelReset (_vf : BitVec 3) (s : State) : Out := .next s

end Sys2Proof.Machine
end

