-- ==== Sys2Proof/Machine/Wildom.lean ====
section
/-! DEFINITION. What comes back from the host and over Wildom: completions, flits and peers' accesses, and retraining (R121, R300, R350, R365, R373). -/
namespace Sys2Proof.Machine

/-! ## Answers (R301, R350, R365, R373) -/

/-- The answer to an operation's request has come: the bytes it reads, cut to what it asked for, or that its bytes are written. -/
def State.answered (s : State) (o : Op) (d : List (Byte × Bool)) : State :=
  let s1 := s.modOp o.id fun o => { o with out := false, via := none, spill := o.spill.map fun _ => true }
  if o.spill.isSome then s1
  else match o.kind with
  | .elem a => s1.elemDone o a (if a.wr.isSome then [] else fit (0, false) a.len d)
  | .card c _ n b _ =>
    match c.next n b.length with
    | some (false, _, k) => (s1.cardGot o (fit (0, false) k d)).progress o.rkey
    | some (true, _, k) => (s1.cardPut o k).progress o.rkey
    | none => s1
  | .coll c src r n =>
    match c.next src.length r n with
    | some (false, _, _) => (s1.collGot o (fit (0, false) o.bytes d)).progress o.rkey
    | some (true, _, _) => (s1.collPut o o.bytes).progress o.rkey
    | none => s1
  | .peer fl => (s1.reply fl true d).endOp o
  | .cpWait .. => s1
  | _ => s1.opGive o (w64 (leNat ((d.take 8).map (·.1))))
/-- A peer's answer to a request by number: its data, or the kind of the fault, which the next access raises in its order. -/
def State.answer (s : State) (id : Nat) (ok : Bool) (d : List (Byte × Bool)) : State :=
  let kind : Byte := ((d.head?).map (·.1)).getD 0x0A
  match s.ops.find? fun o => o.id == id && o.out && o.via.isSome with
  | some o => if ok then s.answered o d else s.modOp id fun o => { o with out := false, via := none, lost := some kind }
  | none =>
    let sp := (s.frames.map fun f => f.vers.filterMap fun x => if x.spill.isSome ∧ x.st = .resident ∧ x.spillIds.contains id then some (f.key, x.v) else none).flatten
    sp.foldl (fun s (k, v) => if ok then s.spillPart k v id else (s.modVer k v fun x => { x with spill := none, spillIds := [] }).spillFault k v ⟨kind, 0⟩) s
/-- HOST_READ_COMPLETION (R373): the bytes of a device read of host memory, all poisoned where the EP bit is set. -/
def execHostReadCompletion (id : Nat) (d : List (BitVec 8)) (ep : Bool) (s : State) : Out :=
  .next (match s.ops.find? fun o => o.id == id && o.out && o.via.isNone with
    | some o => s.answered o (d.map fun b => (b, ep))
    | none => s)

/-! ## Flits (R365) -/

/-- A port carries flits. -/
def WPort.runs (w : WPort) : Bool := (w.st == .up || w.st == .degraded) && decide (w.fails < 8)
/-- Bytes of data that a flit carries. -/
def bodyData : FlitBody → Nat
  | .write _ _ d => d.length
  | .writeVersion _ _ _ d => d.length
  | .reply _ _ d => d.length
  | _ => 0
/-- FLIT_RECEIVE (R15, R365): a flit whose CRC fails is dropped, and its sender sends it again, and more than 256 bytes of data are no
flit (log 10); one that comes whole is an answer, an acknowledgement of the oldest flits in the replay buffer, word that the oldest of
them failed, which this port then sends again, or a peer's request. -/
def execFlitReceive (q : Nat) (fl : Flit) (s : State) : Out :=
  .next (
    if 18 ≤ q ∨ !(s.port q).runs ∨ 256 < bodyData fl.body then s
    else if !fl.crcOk then s.modPort q fun w => { w with fails := w.fails + 1 }
    else
      let s1 := s.modPort q fun w => { w with fails := 0 }
      match fl.body with
      | .reply id ok d => s1.answer id ok d
      | .ack n => s1.modPort q fun w => { w with replay := w.replay.drop n }
      | .nak => if (s.port q).replay.isEmpty then s else s.modPort q fun w => { w with fails := w.fails + 1, retry := w.retry + 1 }
      | _ => { s1 with peerIn := s1.peerIn ++ [fl] })
/-- PORT_RETRAIN (R365, R379): after eight failures in a row the port retrains, on eight lanes, degraded on four, or it goes down. -/
def execPortRetrain (q : Nat) (lanes : BitVec 4) (s : State) : Out :=
  .next (
    if 18 ≤ q ∨ (s.port q).fails < 8 then s
    else
      let s1 := s.modPort q fun w => { w with fails := 0, retrain := w.retrain + 1 }
      if lanes = 8 then s1.modPort q fun w => { w with st := .up, lanes := 8 }
      else if lanes = 4 then s1.modPort q fun w => { w with st := .degraded, lanes := 4 }
      else s1.portDown q)

/-! ## Peers' accesses (R350) -/

/-- Window, offset, bytes and right of a peer's request. -/
def bodyAccess : FlitBody → Option (BitVec 16 × BitVec 48 × Nat × Right)
  | .read w o n => some (w, o, n, .rd)
  | .write w o d => some (w, o, d.length, .wr)
  | .atomic w o _ _ _ => some (w, o, 8, .atv)
  | .readVersion w o _ n => some (w, o, n, .atv)
  | .writeVersion w o _ d => some (w, o, d.length, .atv)
  | .endVersion w o _ => some (w, o, 1, .atv)
  | .dropVersion w o _ => some (w, o, 1, .atv)
  | .frameOp w o _ _ _ => some (w, o, 1, .atv)
  | _ => none
/-- Bytes that a peer's request may ask for: of a version within two frames, of plain memory within one 64 KiB page or two frames (log 10). -/
def peerSpan (body : FlitBody) (off n : Nat) : Bool :=
  decide (off % 4096 + n ≤ 8192) || match body with | .read .. => decide (off % 65536 + n ≤ 65536) | .write .. => decide (off % 65536 + n ≤ 65536) | _ => false
/-- PEER_ACCESS_INBOUND (R350): a request that has come is authorized and performed through the window it names, or refused; it waits while an
MIT holds the reads of its partition's inbound table (R292). One that waits for a version stands as an operation of this device. -/
def execPeerAccessInbound (fl : Flit) (s : State) : Out :=
  .next (
    if !s.peerIn.contains fl || ((s.part fl.dstPart).live && !s.inboundServed fl.dstPart) then s
    else
      let s1 : State := { s with peerIn := s.peerIn.erase fl }
      match bodyAccess fl.body with
      | none => s1
      | some (w, off, n, r) =>
        match s1.inbound fl.dstPart fl.srcDev fl.srcPart r with
        | some f => s1.reply fl false [(f.kind, false)]
        | none =>
          if !peerSpan fl.body off.toNat n then s1.reply fl false [(0x02, false)]
          else
            let o : Op := { id := s1.newId, tile := dispatchTile, slot := 0, phase := 0, part := fl.dstPart, rkey := 0, va := vaOf w off, d := none
                            word := 0, mark := 0, kind := .peer fl, sent := true }
            { s1 with ops := s1.ops ++ [o], newId := s1.newId + 1 }.peerStep o fl)

end Sys2Proof.Machine
end

