-- ==== Sys2Proof/Machine/Dispatch.lean ====
section
/-! DEFINITION. The dispatch: one arm per constructor, each a direct call of that instruction's meaning. -/
namespace Sys2Proof.Machine

def exec (i : Instr) (s : State) : Host.Outcome State Fault Refusal :=
  match i with
  | .add d a b w v => Sys2Proof.Machine.execAdd d a b w v s
  | .sub d a b w v => Sys2Proof.Machine.execSub d a b w v s
  | .mul d a b w v => Sys2Proof.Machine.execMul d a b w v s
  | .mulh d a b w v => Sys2Proof.Machine.execMulh d a b w v s
  | .mulhu d a b w v => Sys2Proof.Machine.execMulhu d a b w v s
  | .div d a b w v => Sys2Proof.Machine.execDiv d a b w v s
  | .divu d a b w v => Sys2Proof.Machine.execDivu d a b w v s
  | .rem d a b w v => Sys2Proof.Machine.execRem d a b w v s
  | .remu d a b w v => Sys2Proof.Machine.execRemu d a b w v s
  | .and d a b w v => Sys2Proof.Machine.execAnd d a b w v s
  | .or d a b w v => Sys2Proof.Machine.execOr d a b w v s
  | .xor d a b w v => Sys2Proof.Machine.execXor d a b w v s
  | .andn d a b w v => Sys2Proof.Machine.execAndn d a b w v s
  | .sll d a b w v => Sys2Proof.Machine.execSll d a b w v s
  | .srl d a b w v => Sys2Proof.Machine.execSrl d a b w v s
  | .sra d a b w v => Sys2Proof.Machine.execSra d a b w v s
  | .slt d a b w v => Sys2Proof.Machine.execSlt d a b w v s
  | .sltu d a b w v => Sys2Proof.Machine.execSltu d a b w v s
  | .min d a b w v => Sys2Proof.Machine.execMin d a b w v s
  | .max d a b w v => Sys2Proof.Machine.execMax d a b w v s
  | .minu d a b w v => Sys2Proof.Machine.execMinu d a b w v s
  | .maxu d a b w v => Sys2Proof.Machine.execMaxu d a b w v s
  | .clz d a w => Sys2Proof.Machine.execClz d a w s
  | .ctz d a w => Sys2Proof.Machine.execCtz d a w s
  | .popc d a w => Sys2Proof.Machine.execPopc d a w s
  | .mov d a w => Sys2Proof.Machine.execMov d a w s
  | .sext d a w n => Sys2Proof.Machine.execSext d a w n s
  | .zext d a w n => Sys2Proof.Machine.execZext d a w n s
  | .addi d a w ii => Sys2Proof.Machine.execAddi d a w ii s
  | .andi d a w ii => Sys2Proof.Machine.execAndi d a w ii s
  | .ori d a w ii => Sys2Proof.Machine.execOri d a w ii s
  | .xori d a w ii => Sys2Proof.Machine.execXori d a w ii s
  | .slli d a w ii => Sys2Proof.Machine.execSlli d a w ii s
  | .srli d a w ii => Sys2Proof.Machine.execSrli d a w ii s
  | .srai d a w ii => Sys2Proof.Machine.execSrai d a w ii s
  | .slti d a w ii => Sys2Proof.Machine.execSlti d a w ii s
  | .li d ii => Sys2Proof.Machine.execLi d ii s
  | .liS15 d w ii => Sys2Proof.Machine.execLiS15 d w ii s
  | .liS30 d w ii => Sys2Proof.Machine.execLiS30 d w ii s
  | .liS45 d w ii => Sys2Proof.Machine.execLiS45 d w ii s
  | .liS60 d w ii => Sys2Proof.Machine.execLiS60 d w ii s
  | .bMov d a => Sys2Proof.Machine.execBMov d a s
  | .bAdd d a b v => Sys2Proof.Machine.execBAdd d a b v s
  | .bAddi d a n => Sys2Proof.Machine.execBAddi d a n s
  | .bWin d a b w v => Sys2Proof.Machine.execBWin d a b w v s
  | .bGet d a => Sys2Proof.Machine.execBGet d a s
  | .bGwin d a => Sys2Proof.Machine.execBGwin d a s
  | .bCpy d a b v => Sys2Proof.Machine.execBCpy d a b v s
  | .ldB d a w ii => Sys2Proof.Machine.execLdB d a w ii s
  | .ldH d a w ii => Sys2Proof.Machine.execLdH d a w ii s
  | .ldW d a w ii => Sys2Proof.Machine.execLdW d a w ii s
  | .ldD d a w ii => Sys2Proof.Machine.execLdD d a w ii s
  | .ldBz d a w ii => Sys2Proof.Machine.execLdBz d a w ii s
  | .ldHz d a w ii => Sys2Proof.Machine.execLdHz d a w ii s
  | .ldWz d a w ii => Sys2Proof.Machine.execLdWz d a w ii s
  | .ldT d a w ii => Sys2Proof.Machine.execLdT d a w ii s
  | .stB d a w ii => Sys2Proof.Machine.execStB d a w ii s
  | .stH d a w ii => Sys2Proof.Machine.execStH d a w ii s
  | .stW d a w ii => Sys2Proof.Machine.execStW d a w ii s
  | .stD d a w ii => Sys2Proof.Machine.execStD d a w ii s
  | .stT d a w ii => Sys2Proof.Machine.execStT d a w ii s
  | .beqz a w o => Sys2Proof.Machine.execBeqz a w o s
  | .bnez a w o => Sys2Proof.Machine.execBnez a w o s
  | .bltz a w o => Sys2Proof.Machine.execBltz a w o s
  | .bgez a w o => Sys2Proof.Machine.execBgez a w o s
  | .bgtz a w o => Sys2Proof.Machine.execBgtz a w o s
  | .blez a w o => Sys2Proof.Machine.execBlez a w o s
  | .bfull a o => Sys2Proof.Machine.execBfull a o s
  | .bempty a o => Sys2Proof.Machine.execBempty a o s
  | .bmany a o => Sys2Proof.Machine.execBmany a o s
  | .bmnone a o => Sys2Proof.Machine.execBmnone a o s
  | .j o => Sys2Proof.Machine.execJ o s
  | .call l o => Sys2Proof.Machine.execCall l o s
  | .jr a w => Sys2Proof.Machine.execJr a w s
  | .callr a w l => Sys2Proof.Machine.execCallr a w l s
  | .loop a w o => Sys2Proof.Machine.execLoop a w o s
  | .getw d p x l => Sys2Proof.Machine.execGetw d p x l s
  | .putw p a w t => Sys2Proof.Machine.execPutw p a w t s
  | .waitp p o => Sys2Proof.Machine.execWaitp p o s
  | .yield => Sys2Proof.Machine.execYield s
  | .endTask => Sys2Proof.Machine.execEndTask s
  | .fork u a w c => Sys2Proof.Machine.execFork u a w c s
  | .rdv st mx => Sys2Proof.Machine.execRdv st mx s
  | .trig a w p => Sys2Proof.Machine.execTrig a w p s
  | .putc p a w t => Sys2Proof.Machine.execPutc p a w t s
  | .few a => Sys2Proof.Machine.execFew a s
  | .fec d => Sys2Proof.Machine.execFec d s
  | .pushm d a w f => Sys2Proof.Machine.execPushm d a w f s
  | .popm d a f => Sys2Proof.Machine.execPopm d a f s
  | .sysr g ss => Sys2Proof.Machine.execSysr g ss s
  | .sysw g w ss => Sys2Proof.Machine.execSysw g w ss s
  | .trap c => Sys2Proof.Machine.execTrap c s
  | .bkpt => Sys2Proof.Machine.execBkpt s
  | .eret k => Sys2Proof.Machine.execEret k s
  | .fenceT k => Sys2Proof.Machine.execFenceT k s
  | .fenceR k => Sys2Proof.Machine.execFenceR k s
  | .fenceD k => Sys2Proof.Machine.execFenceD k s
  | .fenceS k => Sys2Proof.Machine.execFenceS k s
  | .frInit a n => Sys2Proof.Machine.execFrInit a n s
  | .frWait d a b v => Sys2Proof.Machine.execFrWait d a b v s
  | .frRecl a b v => Sys2Proof.Machine.execFrRecl a b v s
  | .frRecipe a b v => Sys2Proof.Machine.execFrRecipe a b v s
  | .frPin a b v => Sys2Proof.Machine.execFrPin a b v s
  | .frUnpin a b v => Sys2Proof.Machine.execFrUnpin a b v s
  | .frStat d a q => Sys2Proof.Machine.execFrStat d a q s
  | .atAdd d a b v o c => Sys2Proof.Machine.execAtAdd d a b v o c s
  | .atMin d a b v u o c => Sys2Proof.Machine.execAtMin d a b v u o c s
  | .atMax d a b v u o c => Sys2Proof.Machine.execAtMax d a b v u o c s
  | .atAnd d a b v o c => Sys2Proof.Machine.execAtAnd d a b v o c s
  | .atOr d a b v o c => Sys2Proof.Machine.execAtOr d a b v o c s
  | .atXchg d a b v o c => Sys2Proof.Machine.execAtXchg d a b v o c s
  | .atCas d a b v o c => Sys2Proof.Machine.execAtCas d a b v o c s
  | .cpJob a w => Sys2Proof.Machine.execCpJob a w s
  | .cpWait d a w => Sys2Proof.Machine.execCpWait d a w s
  | .clGather a w => Sys2Proof.Machine.execClGather a w s
  | .clScatter a w => Sys2Proof.Machine.execClScatter a w s
  | .clReduce a w => Sys2Proof.Machine.execClReduce a w s
  | .clSend a w => Sys2Proof.Machine.execClSend a w s
  | .clRecv a w => Sys2Proof.Machine.execClRecv a w s
  | .vAdd d a b k e => Sys2Proof.Machine.execVAdd d a b k e s
  | .vSub d a b k e => Sys2Proof.Machine.execVSub d a b k e s
  | .vMul d a b k e => Sys2Proof.Machine.execVMul d a b k e s
  | .vFma d a b c e => Sys2Proof.Machine.execVFma d a b c e s
  | .vFms d a b c e => Sys2Proof.Machine.execVFms d a b c e s
  | .vFnma d a b c e => Sys2Proof.Machine.execVFnma d a b c e s
  | .vAbs d a k e => Sys2Proof.Machine.execVAbs d a k e s
  | .vNeg d a k e => Sys2Proof.Machine.execVNeg d a k e s
  | .vScl d a b k e => Sys2Proof.Machine.execVScl d a b k e s
  | .vCeq d a b k e => Sys2Proof.Machine.execVCeq d a b k e s
  | .vCne d a b k e => Sys2Proof.Machine.execVCne d a b k e s
  | .vClt d a b k e => Sys2Proof.Machine.execVClt d a b k e s
  | .vCle d a b k e => Sys2Proof.Machine.execVCle d a b k e s
  | .vCun d a b k e => Sys2Proof.Machine.execVCun d a b k e s
  | .vSel d a b c e => Sys2Proof.Machine.execVSel d a b c e s
  | .vMin d a b k e => Sys2Proof.Machine.execVMin d a b k e s
  | .vMax d a b k e => Sys2Proof.Machine.execVMax d a b k e s
  | .vClamp d a b c e => Sys2Proof.Machine.execVClamp d a b c e s
  | .vIadd d a b k e => Sys2Proof.Machine.execVIadd d a b k e s
  | .vIsub d a b k e => Sys2Proof.Machine.execVIsub d a b k e s
  | .vImul d a b k e => Sys2Proof.Machine.execVImul d a b k e s
  | .vAnd d a b k e => Sys2Proof.Machine.execVAnd d a b k e s
  | .vOr d a b k e => Sys2Proof.Machine.execVOr d a b k e s
  | .vXor d a b k e => Sys2Proof.Machine.execVXor d a b k e s
  | .vShl d a b k e => Sys2Proof.Machine.execVShl d a b k e s
  | .vShr d a b k e => Sys2Proof.Machine.execVShr d a b k e s
  | .vSra d a b k e => Sys2Proof.Machine.execVSra d a b k e s
  | .vImin d a b k e => Sys2Proof.Machine.execVImin d a b k e s
  | .vImax d a b k e => Sys2Proof.Machine.execVImax d a b k e s
  | .vAdds d a b k e => Sys2Proof.Machine.execVAdds d a b k e s
  | .vSubs d a b k e => Sys2Proof.Machine.execVSubs d a b k e s
  | .vIeq d a b k e => Sys2Proof.Machine.execVIeq d a b k e s
  | .vIlt d a b k e => Sys2Proof.Machine.execVIlt d a b k e s
  | .vIltu d a b k e => Sys2Proof.Machine.execVIltu d a b k e s
  | .vCvt d a f ss m e => Sys2Proof.Machine.execVCvt d a f ss m e s
  | .vCvtSr d a b ss f e => Sys2Proof.Machine.execVCvtSr d a b ss f e s
  | .vPack d a b k e => Sys2Proof.Machine.execVPack d a b k e s
  | .vUnpkLo d a k e => Sys2Proof.Machine.execVUnpkLo d a k e s
  | .vUnpkHi d a k e => Sys2Proof.Machine.execVUnpkHi d a k e s
  | .vQblk d a b m e => Sys2Proof.Machine.execVQblk d a b m e s
  | .vDqblk d a p q e => Sys2Proof.Machine.execVDqblk d a p q e s
  | .vRcp d a k e => Sys2Proof.Machine.execVRcp d a k e s
  | .vRsq d a k e => Sys2Proof.Machine.execVRsq d a k e s
  | .vExp2 d a k e => Sys2Proof.Machine.execVExp2 d a k e s
  | .vLog2 d a k e => Sys2Proof.Machine.execVLog2 d a k e s
  | .vTanh d a k e => Sys2Proof.Machine.execVTanh d a k e s
  | .vErf d a k e => Sys2Proof.Machine.execVErf d a k e s
  | .vRsum d a k e => Sys2Proof.Machine.execVRsum d a k e s
  | .vRmax d a k e => Sys2Proof.Machine.execVRmax d a k e s
  | .vRmin d a k e => Sys2Proof.Machine.execVRmin d a k e s
  | .vRsumG d a k e => Sys2Proof.Machine.execVRsumG d a k e s
  | .vPerm d a b k => Sys2Proof.Machine.execVPerm d a b k s
  | .vBcast d a l => Sys2Proof.Machine.execVBcast d a l s
  | .vRot d a n => Sys2Proof.Machine.execVRot d a n s
  | .vScan d a k e => Sys2Proof.Machine.execVScan d a k e s
  | .vPeek d a => Sys2Proof.Machine.execVPeek d a s
  | .vMov d a k => Sys2Proof.Machine.execVMov d a k s
  | .vSetv d a b m => Sys2Proof.Machine.execVSetv d a b m s
  | .vGetv d a n => Sys2Proof.Machine.execVGetv d a n s
  | .vSetp d a b m => Sys2Proof.Machine.execVSetp d a b m s
  | .vGetp d a => Sys2Proof.Machine.execVGetp d a s
  | .vSettag d a b => Sys2Proof.Machine.execVSettag d a b s
  | .vGettag d a => Sys2Proof.Machine.execVGettag d a s
  | .vIns d a b l => Sys2Proof.Machine.execVIns d a b l s
  | .vExt d a l => Sys2Proof.Machine.execVExt d a l s
  | .vSplat d a => Sys2Proof.Machine.execVSplat d a s
  | .vMkc d a k => Sys2Proof.Machine.execVMkc d a k s
  | .vDeq d a b c p => Sys2Proof.Machine.execVDeq d a b c p s
  | .vWarp d a b ss => Sys2Proof.Machine.execVWarp d a b ss s
  | .vErracc d a b f => Sys2Proof.Machine.execVErracc d a b f s
  | .vRefr d a => Sys2Proof.Machine.execVRefr d a s
  | .vBfx d a f => Sys2Proof.Machine.execVBfx d a f s
  | .mMma c r f k => Sys2Proof.Machine.execMMma c r f k s
  | .mMmaz c r f k => Sys2Proof.Machine.execMMmaz c r f k s
  | .mRun c r f k x w z => Sys2Proof.Machine.execMRun c r f k x w z s
  | .mGrp c r f k x w t p => Sys2Proof.Machine.execMGrp c r f k x w t p s
  | .mDrain c x l f => Sys2Proof.Machine.execMDrain c x l f s
  | .mCopy c x => Sys2Proof.Machine.execMCopy c x s
  | .mCopySt c x w => Sys2Proof.Machine.execMCopySt c x w s
  | .mCopyLd c x w => Sys2Proof.Machine.execMCopyLd c x w s
  | .mLd f x => Sys2Proof.Machine.execMLd f x s
  | .mSwap => Sys2Proof.Machine.execMSwap s
  | .mClr c => Sys2Proof.Machine.execMClr c s
  | .rlDecl c k => Sys2Proof.Machine.execRlDecl c k s
  | .rlIns c x f ii => Sys2Proof.Machine.execRlIns c x f ii s
  | .rlMerge c x => Sys2Proof.Machine.execRlMerge c x s
  | .rlThr c x => Sys2Proof.Machine.execRlThr c x s
  | .rlOut c x n u ii => Sys2Proof.Machine.execRlOut c x n u ii s
  | .rlClr c x => Sys2Proof.Machine.execRlClr c x s
  | .ringSet r x => Sys2Proof.Machine.execRingSet r x s
  | .ringHead r x => Sys2Proof.Machine.execRingHead r x s
  | .ringTail r x => Sys2Proof.Machine.execRingTail r x s
  | .ringPop r x w => Sys2Proof.Machine.execRingPop r x w s
  | .sRead e ep pcb b v pr xf disp tag eos => Sys2Proof.Machine.execSRead e ep pcb b v pr xf disp tag eos s
  | .sWrite e p pcb b v pr xf disp => Sys2Proof.Machine.execSWrite e p pcb b v pr xf disp s
  | .sInd e ep pcb b ix v pr xf disp tag eos => Sys2Proof.Machine.execSInd e ep pcb b ix v pr xf disp tag eos s
  | .sPrism e b pid disp => Sys2Proof.Machine.execSPrism e b pid disp s
  | .sSyntax e p pcb b v disp tag eos => Sys2Proof.Machine.execSSyntax e p pcb b v disp tag eos s
  | .sBar => Sys2Proof.Machine.execSBar s
  | .sStop e => Sys2Proof.Machine.execSStop e s
  | .sStat e gv => Sys2Proof.Machine.execSStat e gv s
  | .issueSlot t => Sys2Proof.Machine.execIssueSlot t s
  | .parkClear t k => Sys2Proof.Machine.execParkClear t k s
  | .tokenOpComplete t => Sys2Proof.Machine.execTokenOpComplete t s
  | .longLatencyDeliver t n => Sys2Proof.Machine.execLongLatencyDeliver t n s
  | .getwDeliver t ph p => Sys2Proof.Machine.execGetwDeliver t ph p s
  | .tokenHop rg c n => Sys2Proof.Machine.execTokenHop rg c n s
  | .tokenArrive rg c => Sys2Proof.Machine.execTokenArrive rg c s
  | .lateTokenBurstEnd t ph p => Sys2Proof.Machine.execLateTokenBurstEnd t ph p s
  | .lateTokenLongBurst t ph p => Sys2Proof.Machine.execLateTokenLongBurst t ph p s
  | .junctionPass t ph j => Sys2Proof.Machine.execJunctionPass t ph j s
  | .junctionFork t ph j => Sys2Proof.Machine.execJunctionFork t ph j s
  | .junctionJoin t ph j => Sys2Proof.Machine.execJunctionJoin t ph j s
  | .junctionSteer t ph j => Sys2Proof.Machine.execJunctionSteer t ph j s
  | .junctionMerge t ph j => Sys2Proof.Machine.execJunctionMerge t ph j s
  | .junctionLoopgen t ph j => Sys2Proof.Machine.execJunctionLoopgen t ph j s
  | .junctionRandom t ph j => Sys2Proof.Machine.execJunctionRandom t ph j s
  | .junctionConvert t ph j => Sys2Proof.Machine.execJunctionConvert t ph j s
  | .junctionGate t ph j => Sys2Proof.Machine.execJunctionGate t ph j s
  | .junctionTagchk t ph j => Sys2Proof.Machine.execJunctionTagchk t ph j s
  | .ringFeed t ph r => Sys2Proof.Machine.execRingFeed t ph r s
  | .streamCmdStart t e => Sys2Proof.Machine.execStreamCmdStart t e s
  | .streamElementAccess t e => Sys2Proof.Machine.execStreamElementAccess t e s
  | .streamReadPush t e => Sys2Proof.Machine.execStreamReadPush t e s
  | .streamWriteTake t e => Sys2Proof.Machine.execStreamWriteTake t e s
  | .streamCmdComplete t e => Sys2Proof.Machine.execStreamCmdComplete t e s
  | .syntaxTokenPush y => Sys2Proof.Machine.execSyntaxTokenPush y s
  | .syntaxJobEnd y => Sys2Proof.Machine.execSyntaxJobEnd y s
  | .memopForward t => Sys2Proof.Machine.execMemopForward t s
  | .versionedWriteArrive id => Sys2Proof.Machine.execVersionedWriteArrive id s
  | .versionedWriteResume id => Sys2Proof.Machine.execVersionedWriteResume id s
  | .versionedReadArrive id => Sys2Proof.Machine.execVersionedReadArrive id s
  | .versionWaitSatisfied id => Sys2Proof.Machine.execVersionWaitSatisfied id s
  | .directoryFrameOp id => Sys2Proof.Machine.execDirectoryFrameOp id s
  | .atomicPerform id => Sys2Proof.Machine.execAtomicPerform id s
  | .mitBlockAccess id => Sys2Proof.Machine.execMitBlockAccess id s
  | .cardRelease id => Sys2Proof.Machine.execCardRelease id s
  | .cardComplete id => Sys2Proof.Machine.execCardComplete id s
  | .cpWaitDeliver id => Sys2Proof.Machine.execCpWaitDeliver id s
  | .collectiveExchange id ranks => Sys2Proof.Machine.execCollectiveExchange id ranks s
  | .collectiveComplete id => Sys2Proof.Machine.execCollectiveComplete id s
  | .prismLoadComplete t e => Sys2Proof.Machine.execPrismLoadComplete t e s
  | .evictDrop f v => Sys2Proof.Machine.execEvictDrop f v s
  | .evictSpill f v => Sys2Proof.Machine.execEvictSpill f v s
  | .spillAck f v => Sys2Proof.Machine.execSpillAck f v s
  | .recomputeStart id => Sys2Proof.Machine.execRecomputeStart id s
  | .recomputeEnd t => Sys2Proof.Machine.execRecomputeEnd t s
  | .progressTimeout rg => Sys2Proof.Machine.execProgressTimeout rg s
  | .graphComplete rg => Sys2Proof.Machine.execGraphComplete rg s
  | .commitRequest p ipa => Sys2Proof.Machine.execCommitRequest p ipa s
  | .fetchPhase2 rg => Sys2Proof.Machine.execFetchPhase2 rg s
  | .preemptRequest rg => Sys2Proof.Machine.execPreemptRequest rg s
  | .quantumExpire rg => Sys2Proof.Machine.execQuantumExpire rg s
  | .markerArrive rg c => Sys2Proof.Machine.execMarkerArrive rg c s
  | .checkpoint rg => Sys2Proof.Machine.execCheckpoint rg s
  | .checkpointInterval rg => Sys2Proof.Machine.execCheckpointInterval rg s
  | .rollback rg => Sys2Proof.Machine.execRollback rg s
  | .fqRingWrite p => Sys2Proof.Machine.execFqRingWrite p s
  | .mcstatClear => Sys2Proof.Machine.execMcstatClear s
  | .fqresRetry p seq => Sys2Proof.Machine.execFqresRetry p seq s
  | .fqresCancel p seq => Sys2Proof.Machine.execFqresCancel p seq s
  | .fqresAlt p seq => Sys2Proof.Machine.execFqresAlt p seq s
  | .fqresEnd p seq => Sys2Proof.Machine.execFqresEnd p seq s
  | .taskcmdResumeTpc p c => Sys2Proof.Machine.execTaskcmdResumeTpc p c s
  | .taskcmdResumePc p c pc => Sys2Proof.Machine.execTaskcmdResumePc p c pc s
  | .taskcmdEnd p c => Sys2Proof.Machine.execTaskcmdEnd p c s
  | .ckcmdCheckpoint p rg => Sys2Proof.Machine.execCkcmdCheckpoint p rg s
  | .ckcmdRollback p rg => Sys2Proof.Machine.execCkcmdRollback p rg s
  | .tlbinvPartition p => Sys2Proof.Machine.execTlbinvPartition p s
  | .tlbinvWindow p w => Sys2Proof.Machine.execTlbinvWindow p w s
  | .tlbinvPage p w pg => Sys2Proof.Machine.execTlbinvPage p w pg s
  | .tlbinvComplete p => Sys2Proof.Machine.execTlbinvComplete p s
  | .s2invPartition p => Sys2Proof.Machine.execS2invPartition p s
  | .s2invPage p pg => Sys2Proof.Machine.execS2invPage p pg s
  | .s2invComplete => Sys2Proof.Machine.execS2invComplete s
  | .scrub g n => Sys2Proof.Machine.execScrub g n s
  | .scrubComplete => Sys2Proof.Machine.execScrubComplete s
  | .owncmd c => Sys2Proof.Machine.execOwncmd c s
  | .owncmdComplete => Sys2Proof.Machine.execOwncmdComplete s
  | .regdel p w b => Sys2Proof.Machine.execRegdel p w b s
  | .slicedel p n => Sys2Proof.Machine.execSlicedel p n s
  | .partitionLive p h => Sys2Proof.Machine.execPartitionLive p h s
  | .partitionNotLive p => Sys2Proof.Machine.execPartitionNotLive p s
  | .synassignChange y p => Sys2Proof.Machine.execSynassignChange y p s
  | .synassignTakeEffect y => Sys2Proof.Machine.execSynassignTakeEffect y s
  | .prismmapChange n x => Sys2Proof.Machine.execPrismmapChange n x s
  | .vfmapChange x => Sys2Proof.Machine.execVfmapChange x s
  | .devidWrite x => Sys2Proof.Machine.execDevidWrite x s
  | .wportEnable q => Sys2Proof.Machine.execWportEnable q s
  | .wportDisable q => Sys2Proof.Machine.execWportDisable q s
  | .shutctlFire => Sys2Proof.Machine.execShutctlFire s
  | .shutterPin => Sys2Proof.Machine.execShutterPin s
  | .shutterJtag => Sys2Proof.Machine.execShutterJtag s
  | .shutterReadout ra acc => Sys2Proof.Machine.execShutterReadout ra acc s
  | .pwrcapWrite x => Sys2Proof.Machine.execPwrcapWrite x s
  | .thermalThrottle x => Sys2Proof.Machine.execThermalThrottle x s
  | .thermtrip x => Sys2Proof.Machine.execThermtrip x s
  | .lqpush p who pr => Sys2Proof.Machine.execLqpush p who pr s
  | .registerWrite pg off x => Sys2Proof.Machine.execRegisterWrite pg off x s
  | .hostRequest h => Sys2Proof.Machine.execHostRequest h s
  | .functionLevelReset vf => Sys2Proof.Machine.execFunctionLevelReset vf s
  | .hartMemoryAccess h => Sys2Proof.Machine.execHartMemoryAccess h s
  | .deviceReset ii => Sys2Proof.Machine.execDeviceReset ii s
  | .recoveryImageWrite n => Sys2Proof.Machine.execRecoveryImageWrite n s
  | .flitReceive q fl => Sys2Proof.Machine.execFlitReceive q fl s
  | .portRetrain q lanes => Sys2Proof.Machine.execPortRetrain q lanes s
  | .peerAccessInbound fl => Sys2Proof.Machine.execPeerAccessInbound fl s
  | .softError x => Sys2Proof.Machine.execSoftError x s
  | .regdelDone p => Sys2Proof.Machine.execRegdelDone p s
  | .portTrainingDone q lanes => Sys2Proof.Machine.execPortTrainingDone q lanes s
  | .hostReadCompletion id d ep => Sys2Proof.Machine.execHostReadCompletion id d ep s

end Sys2Proof.Machine
end

