-- ==== Sys2Proof/Machine/Schedule.lean ====
section
/-! DEFINITION. How a step goes: the word in hand is fetched, decoded and executed; otherwise the next turn of the agenda happens, or one that the device has ready itself. -/
namespace Sys2Proof.Machine

/-! ## Words of tasks (R312, R314, R316) -/

/-- A word that a task has issued takes its issue slot: the rotation moves on, and the class remembers its slot (R314). -/
def State.tookSlot (s : State) (t : Nat) (k : SlotId) : State :=
  s.modTile t fun x =>
    let high := (vget x.tasks k.toNat {}).high
    { x with rot := x.rot + 1, lastHi := if high then k else x.lastHi, lastNo := if high then x.lastNo else k }
/-- A task has issued its word: it does not park for another reason than the matrix unit's work (R313, R314). -/
def issued (st : TaskSt) : Bool := match st with | .parked r => r == .matrix | _ => true
/-- What follows a word that a task has in hand: the issue slot it took, and progress of its region (R314, R316). -/
def afterWord (s t : State) : State :=
  if issued t.cur.st then
    let u := t.tookSlot s.ctx.tile s.ctx.slot
    if s.ctx.slot = 15 then u else u.progressAt s.ctx.tile s.cur.phase
  else t
/-- The state after an outcome, changed further. -/
def thenDo (o : Out) (f : State → State) : Out :=
  match o with
  | .next t => .next (f t)
  | .fault x => .fault x
  | .refused r => .refused r
/-- Executes an instruction for the task that holds the issue slot. -/
def runWord (s : State) (i : Instr) : Out := thenDo (exec i s) (afterWord s)
/-- The word in hand: a trap that stands from earlier, or the word at the task's program counter (R35, R160, R312). -/
def issueWord (s : State) : Out :=
  let s := { s with live := false }
  match s.cur.ptraps with
  | p :: r => .next (takePending s p r)
  | [] =>
    match s.fetchAt s.cur.pc with
    | .bad c f v => .next (trap s c f v)
    | .instr i => runWord s i

/-! ## The units' sequencers (R78, R199, R200, R303, R321) -/

/-- Moves the first element that is of slot 15 to the front, if the head may be interrupted (R303, R382). -/
def frontRc {α : Type} (rc can : α → Bool) (l : List α) : List α :=
  match l with
  | [] => []
  | x :: _ =>
    if rc x || !can x then l
    else match l.find? rc with
      | none => l
      | some y => y :: (l.takeWhile fun z => !rc z) ++ ((l.dropWhile fun z => !rc z).drop 1)
/-- A region is on its way to the boundaries of R200: its markers are still to be sent (R322). -/
def State.regionHalts (s : State) (key : Nat) : Bool :=
  match s.region key with
  | none => false
  | some r => (match r.st with | .freezing _ => true | _ => false) && !r.marks && !(s.part r.part).frozen && !s.mfull
/-- The unit of a tile may go on with an item: its region runs, or freezes and the item is short of a boundary (R200, R322). -/
def State.itemRuns (s : State) (t : Nat) (i : MItem) : Bool :=
  let key := (s.lt t (s.task t i.slot).phase).key
  i.slot == 15 || s.regionRuns key || (s.regionHalts key && !i.rests (s.itemInstr t i))
/-- The item at the head of a tile's matrix unit goes on (R199). A word of a forked run issues at its first turn there, and keeps the ACR of
then (R81, R158, log 58). -/
def headTurn (s : State) (t : Nat) : Out :=
  match (s.tile t).mq with
  | [] => .next s
  | i :: _ =>
    if !s.itemRuns t i then .next s
    else
      let acr := i.acr.getD (s.lt t (s.task t i.slot).phase).acr
      let s1 : State := { s.modTile t fun x => { x with
          matPh := if i.slot = 15 then x.matPh else (vget x.tasks i.slot.toNat {}).phase
          mq := match x.mq with | [] => [] | i :: l => { i with acr := some acr } :: l } with
        ctx := { tile := t, slot := i.slot, unit := if i.run then .mrun else .minl } }
      let after := fun (u : State) =>
        let u : State := { u with ctx := s.ctx }
        if i.slot = 15 ∨ (u.tile t).mq = (s1.tile t).mq then u else u.progressAt t (s.task t i.slot).phase
      match i.instr with
      | some w => thenDo (exec w s1) after
      | none =>
        match s1.fetchMat (i.pc + i.pos) with
        | .bad c f v => .next { trap s1 c f v with ctx := s.ctx }
        | .instr w => thenDo (exec w s1) after
/-- The first item of a fold phase comes to the front. -/
def frontPhase (ph : MItem → BitVec 2) (p : BitVec 2) (l : List MItem) : List MItem :=
  match l.find? fun i => ph i == p with
  | none => l
  | some i => i :: l.erase i
/-- A turn of a tile's matrix unit: it goes on with the item at its head. Where that stands at a boundary and can do nothing, the unit
changes to a fold phase whose first item can (R199, R200, R321). -/
def matTurn (s : State) (t : Nat) : Out :=
  let s := s.modTile t fun x => { x with mq := frontRc (fun i => i.slot == 15) (fun i => i.rests (s.itemInstr t i)) x.mq }
  let ph := fun (i : MItem) => (s.task t i.slot).phase
  match (s.tile t).mq with
  | [] => .next s
  | i :: _ =>
    let out := headTurn s t
    let idle := fun (u : State) (o : Out) => match o with | .next v => decide ((v.tile t).mq.map (fun i => { i with acr := none }) =
      (u.tile t).mq.map (fun i => { i with acr := none })) | _ => false
    if (s.tile t).fold = 0 ∨ i.slot = 15 ∨ i.rests (s.itemInstr t i) = false ∨ idle s out = false then out
    else
      let others := ([0, 1, 2, 3] : List (BitVec 2)).filter fun p => p != ph i && (s.tile t).mq.any fun j => j.slot != 15 && ph j == p
      let turns := others.map fun p => s.modTile t fun x => { x with mq := frontPhase ph p x.mq }
      match turns.find? fun u => !idle u (headTurn u t) with
      | none => out
      | some u => headTurn u t
/-- A turn of a tile's stream unit: the next command of the forked run at its head issues (R78). -/
def strTurn (s : State) (t : Nat) : Out :=
  let s := s.modTile t fun x => { x with sq := frontRc (fun r => r.slot == 15) (fun _ => true) x.sq }
  match (s.tile t).sq with
  | [] => .next s
  | r :: _ =>
    if !(r.slot == 15 || s.regionRuns (s.lt t (s.task t r.slot).phase).key) then .next s
    else
      let s1 : State := { s with ctx := { tile := t, slot := r.slot, unit := .srun } }
      let after := fun (u : State) =>
        let u : State := { u with ctx := s.ctx }
        if r.slot = 15 ∨ (u.tile t).sq = (s1.tile t).sq then u else u.progressAt t (s.task t r.slot).phase
      match s1.fetchStr (r.pc + 4 * r.pos) with
      | .bad c f v => .next { trap s1 c f v with ctx := s.ctx }
      | .instr w => thenDo (exec w s1) after

/-! ## Turns -/

/-- What happens at a turn. -/
def act (s : State) (a : Act) : Out :=
  match a with
  | .event i => exec i s
  | .matrix t => matTurn s t
  | .stream t => strTurn s t
  | .tick => .next s
  | .load t p win off => .next (s.tlbLoad t p win off)

/-- Numbers of a vector of eight. -/
def eight : List (BitVec 3) := [0, 1, 2, 3, 4, 5, 6, 7]
/-- Fold phases. -/
def four : List (BitVec 2) := [0, 1, 2, 3]
/-- Something that the device may do. -/
abbrev Doing := State → Out
/-- What a stream engine may do by itself. -/
def engDoings (t : Nat) (e : EngineId) : List Doing :=
  [execStreamCmdStart t e, execStreamElementAccess t e, execStreamReadPush t e, execStreamWriteTake t e, execStreamCmdComplete t e,
   execPrismLoadComplete t e]
/-- What a port and a junction slot of one number may do by themselves. -/
def portDoings (t : Nat) (ph : BitVec 2) (j : BitVec 3) : List Doing :=
  [execGetwDeliver t ph j, execLateTokenBurstEnd t ph j, execLateTokenLongBurst t ph j, execJunctionPass t ph j, execJunctionFork t ph j,
   execJunctionJoin t ph j, execJunctionSteer t ph j, execJunctionMerge t ph j, execJunctionLoopgen t ph j, execJunctionRandom t ph j,
   execJunctionConvert t ph j, execJunctionGate t ph j, execJunctionTagchk t ph j]
/-- What a tile may do by itself but for issuing words. -/
def tileDoings (t : Nat) : List Doing :=
  [fun s => matTurn s t, fun s => strTurn s t, execTokenOpComplete t, execLongLatencyDeliver t 0, execMemopForward t,
   execRecomputeEnd t] ++ ((upTo 16).map fun k => execParkClear t (.ofNat 4 k)) ++ (allEngines.map (engDoings t)).flatten ++
  (four.map fun ph => (eight.map (portDoings t ph)).flatten ++ four.map fun r => execRingFeed t ph r).flatten
/-- What an operation on its way may do. -/
def opDoings (id : Nat) : List Doing :=
  [execVersionedWriteArrive id, execVersionedWriteResume id, execVersionedReadArrive id, execVersionWaitSatisfied id, execDirectoryFrameOp id,
   execAtomicPerform id, execMitBlockAccess id, execCardRelease id, execCardComplete id, execCpWaitDeliver id, execCollectiveComplete id]
/-- What a region may do: its tokens move, its timers expire, its markers arrive. -/
def regionDoings (r : Region) : List Doing :=
  (r.circs.zipIdx.map fun (x, c) => [execTokenArrive r.key c, execMarkerArrive r.key c] ++ (upTo (x.hops.length + 1)).map fun n => execTokenHop r.key c n).flatten ++
  [execMarkerArrive r.key 0, execProgressTimeout r.key, execGraphComplete r.key, execFetchPhase2 r.key, execQuantumExpire r.key, execCheckpoint r.key,
   execCheckpointInterval r.key, execRollback r.key]
/-- What a syntax engine may do by itself. -/
def synDoings (y : BitVec 3) : List Doing := [execSyntaxTokenPush y, execSyntaxJobEnd y, execSynassignTakeEffect y]
/-- What a partition's page may do by itself. -/
def partDoings (p : PartId) : List Doing := [execFqRingWrite p, execTlbinvComplete p, execRegdelDone p]
/-- Everything that the device may do by itself but for issuing words. -/
def State.doings (s : State) : List Doing :=
  (s.tiles.map fun x => tileDoings x.1).flatten ++ (s.ops.map fun o => opDoings o.id).flatten ++ (s.regions.map regionDoings).flatten ++
  (s.frames.map fun f => (f.vers.map fun x => [execEvictDrop f.key x.v, execEvictSpill f.key x.v]).flatten).flatten ++
  (s.rcReqs.map fun q => execRecomputeStart q.id) ++ (eight.map synDoings).flatten ++ (s.parts.map fun x => partDoings (.ofNat 6 x.1)).flatten ++
  [execFqRingWrite 0, execS2invComplete, execScrubComplete, execOwncmdComplete, fun s => .next ((upTo 8).foldl State.prismTake s)] ++
  (if s.stage = 7 then [execRecoveryImageWrite 0] else []) ++ s.peerIn.map fun f => execPeerAccessInbound f
/-- The list from a place on, round to that place again. -/
def rotated {α : Type} (l : List α) (n : Nat) : List α := l.drop (n % (l.length + 1)) ++ l.take (n % (l.length + 1))
/-- The first of some doings that changes the state; the state as it is where none does. -/
def firstDoing (s : State) : List Doing → Out
  | [] => .next s
  | f :: l => match f s with | .next t => if t = s then firstDoing s l else .next t | _ => firstDoing s l
/-- The starts of commands at idle engines (R101). -/
def State.starts (s : State) : List Doing := (s.tiles.map fun x => allEngines.map fun e => execStreamCmdStart x.1 e).flatten
/-- The issue slots of the tiles (R312). -/
def State.issues (s : State) : List Doing := s.tiles.map fun x => execIssueSlot x.1
/-- A turn that the device takes where the agenda names none: the start of a command that may start, or else, of what it may do, the
first that changes anything, from a place that moves with the cycles; an issue slot comes before the rest in every other cycle (log 1). -/
def ownTurn (s : State) : Out :=
  let s1 : State := { s with cycle := s.cycle + 1 }
  let i := rotated s1.issues (s1.cycle / 2)
  let d := rotated s1.doings (s1.cycle / 2)
  firstDoing s1 (s1.starts ++ if s1.cycle % 2 = 0 then i ++ d else d ++ i)

/-! ## The step -/

/-- The acts that a device without power, or behind the Shutter, still takes part in (R368, R369, R381). -/
def Act.allowed (s : State) (a : Act) : Bool :=
  match a with
  | .event (.deviceReset _) => true
  | .event (.shutterReadout _ _) => s.powered
  | _ => s.powered && !s.shut
/-- One step. -/
def stepNext (s : State) : Out :=
  if s.powered && !s.shut && s.live then issueWord s
  else match s.agenda with
    | t :: r =>
      let s1 : State := { s with cycle := s.cycle + t.dt, agenda := r }
      if t.act.allowed s then act s1 t.act else .next s1
    | [] => if !s.powered then .fault .powerRemoved else if s.shut then .fault .clocksStopped else ownTurn s

end Sys2Proof.Machine
end

