-- ==== Sys2Proof/Machine/Step.lean ====
section
/-! DEFINITION. The step, and the state with a given instruction placed where the step fetches next. -/
namespace Sys2Proof.Machine

/-- One step of the device. -/
def step (s : State) : Host.Outcome State Fault Refusal := stepNext s

/-- The state with an instruction at word 0 of tile 0, as the next word of a task in its slot 0, with the issue slot given to it
(log 2). Bits at and above `nbits` are zero. -/
def State.withFetchWord (s : State) (nbits w : Nat) : State :=
  let x := s.tile 0
  let k : Task := { vget x.tasks 0 {} with st := .running, phase := 0, pc := 0, ptraps := [] }
  let ws := (chunks 32 4 (w % 2 ^ nbits)).map fun n => BitVec.ofNat 32 n
  { s.setTile 0 { x with tasks := vset x.tasks 0 k, istore := istWrite x.istore 0 ws, ipois := [] } with
    ctx := { tile := 0, slot := 0, unit := .task }, live := true, powered := true, shut := false }

end Sys2Proof.Machine
end

