-- ==== Sys2Proof/Safety.lean ====
section
/-! DEFINITION. The terms that claims about the device are stated in: what an instruction's operands must be for it to complete, the outcome of a completed word, what a change may touch, and the invariants. -/
namespace Sys2Proof.Machine

/-! ## Operands -/

/-- A g register is full and holds a value (R48). -/
def State.full (s : State) (r : BitVec 4) (x : DWord) : Prop := s.g r = { val := x, st := .full }
/-- A g register can be a destination: it is not pending (R48). -/
def State.takes (s : State) (d : BitVec 4) : Prop := (s.g d).st ≠ .pending
/-- No acquire of the task is outstanding, so its next event need not wait (R253). -/
def State.clearOfAcq (s : State) : Prop := s.acqOut = false
/-- No release of the task still awaits what precedes it, so the task's next write need not wait (R247, R253). -/
def State.clearOfRel (s : State) : Prop := s.relOut = false

/-! ## Outcomes of the word in hand -/

/-- The word has had its effect and the issuer moves to the next word. -/
def State.done (u : State) : Out := .next (advance u 1)
/-- The word parks its task (R313). -/
def State.parks (s : State) (r : Park) : Out := .next (park s r)
/-- The word traps (R85). -/
def State.traps (s : State) (cause field : Nat) (tval : DWord) : Out := .next (trap s cause field tval)
/-- What a g source that is not full does to its word: it parks with the wait bit, else it traps EMPTY_SRC (R48, R66). -/
def State.blocked (s : State) (r : BitVec 4) (wait : Bool) (field : Nat) : Out :=
  if wait then s.parks .emptyReg else s.traps 2 field (w64 r.toNat)

/-! ## Token instructions (R41, R92, R93, R170, R171) -/

/-- A token instruction can issue: no register it names is still to be written, no port it names is bound, every input has a head,
of kind data if the instruction takes no other, every output has a free slot, and where it names a port no acquire of the task is
outstanding, nor with an output a release that awaits what precedes it. -/
def State.fires (s : State) (srcs : List (BitVec 4)) (dst : Option (BitVec 4)) (mregs : List (BitVec 2)) (dataOnly : Bool) : Prop :=
  (∀ c ∈ srcs ++ dst.toList, isPort c = true → s.clearOfAcq) ∧ (∀ m ∈ mregs, s.mBusy m = false) ∧
  (∀ c ∈ srcs ++ dst.toList, isPort c = false → s.wBusy (codeNo c) = false) ∧
  (∀ c ∈ srcs, isPort c = true → s.bound false (codeNo c) = false ∧
    ∃ t, s.head (codeNo c) = some t ∧ (dataOnly = true → t.kind = .data)) ∧
  ∀ c ∈ dst.toList, isPort c = true → s.clearOfRel ∧ s.bound true (codeNo c) = false ∧ s.space (codeNo c) = true
/-- A token instruction has issued: each head it names is consumed once, its result is on its way to its destination, and a NaN it
originates is recorded (R41, R160, R171). -/
def State.emits (s : State) (srcs : List (BitVec 4)) (d : BitVec 4) (r : Token) (o : Option Nat) (nfmt : Nat) : Out :=
  (((s.popAll (portsOf srcs)).emit d r).nanOpt o nfmt s.cur.pc).done
/-- Element j, of width w, of a token. -/
def Token.elem (x : Token) (w j : Nat) : Nat := x.data.toNat / 2 ^ (w * j) % 2 ^ w
/-- A token of result elements of width w: element j has its bits where it is live and is zero where it is not; a lane is valid if
some element in it is live, and poisoned if some live one is (R170). -/
def Assembled (w : Nat) (live pois : Nat → Prop) (bits : Nat → Nat) (tag : BitVec 6) (r : Token) : Prop :=
  (∀ j < 512 / w, (live j → r.elem w j = bits j % 2 ^ w) ∧ (¬ live j → r.elem w j = 0)) ∧
  (∀ k < 16, (r.val k = true ↔ ∃ j < 512 / w, k ∈ elemLanes w j ∧ live j) ∧
    (r.pois k = true ↔ ∃ j < 512 / w, k ∈ elemLanes w j ∧ live j ∧ pois j)) ∧
  r.tag = tag ∧ r.kind = .data
/-- Element j is live: its lanes are valid in every source and in the mask (R170). -/
def LiveIn (w : Nat) (srcs : List Token) (mask : BitVec 16) (j : Nat) : Prop :=
  ∀ k ∈ elemLanes w j, (∀ x ∈ srcs, x.val k = true) ∧ mask.getLsbD k = true
/-- A lane of element j is poisoned in some source. -/
def PoisIn (w : Nat) (srcs : List Token) (j : Nat) : Prop := ∃ x ∈ srcs, ∃ k ∈ elemLanes w j, x.pois k = true
/-- A result that has element j of every source as its element j's operands (R170). -/
def Elementwise (w : Nat) (srcs : List Token) (mask : BitVec 16) (f : Nat → List Nat → Nat) (r : Token) : Prop :=
  Assembled w (LiveIn w srcs mask) (PoisIn w srcs) (fun j => f j (srcs.map fun x => x.elem w j)) (srcs.headD {}).tag r
/-- The index NLANE of the NaN that a result of width w, of at most 32 bits, originates: that of its lowest live element that does, in
a lane without poison; none where no element does (R82, R160). -/
def OriginIs (w : Nat) (live nan : Nat → Prop) (r : Token) (o : Option Nat) : Prop :=
  let here := fun j => live j ∧ nan j ∧ r.pois (j * w / 32) = false
  match o with
  | none => ∀ j < 512 / w, ¬ here j
  | some n => ∃ j < 512 / w, here j ∧ (∀ i < j, ¬ here i) ∧ n = 4 * (j * w / 32) + j % (32 / w)

/-- Where the result of a token instruction goes: to a w register or port by its code, to an m register, or later to a g register. -/
inductive TokenDst where
  | tok (c : BitVec 4)
  | m (r : BitVec 2)
  | g (r : BitVec 4)
  deriving DecidableEq, Repr
/-- What a token instruction names: token sources, destination, m registers, and a g source; whether it takes heads of kind data alone,
and whether it leaves its heads where they stand. -/
structure TokenForm where
  instr : Instr
  srcs  : List (BitVec 4)
  dst   : TokenDst
  ms    : List (BitVec 2)
  g     : Option (BitVec 4) := none
  data  : Bool := true
  keeps : Bool := false
  deriving DecidableEq, Repr
/-- Code of the token destination. -/
def TokenForm.dstCode (p : TokenForm) : Option (BitVec 4) :=
  match p.dst with
  | .tok c => some c
  | _ => none
/-- Its g source is full and its g destination is not pending. -/
def TokenForm.gReady (p : TokenForm) (s : State) : Prop :=
  (∀ r ∈ p.g, (s.g r).st = .full) ∧ ∀ r, p.dst = .g r → s.takes r
/-- The form may issue. -/
def TokenForm.fires (p : TokenForm) (s : State) : Prop := p.gReady s ∧ s.fires p.srcs p.dstCode p.ms p.data
/-- The form has issued: each head it names is consumed once, unless it keeps them, a result is on its way to its destination, and the
issuer goes on to the next word; the result and the NaN it may originate are those of the form's own statement. -/
def TokenForm.issued (p : TokenForm) (s : State) (o : Out) : Prop :=
  let u := s.popAll (if p.keeps then [] else portsOf p.srcs)
  match p.dst with
  | .tok c => ∃ r n f, o = ((u.emit c r).nanOpt n f s.cur.pc).done
  | .m r => ∃ v, o = (u.emitM r v).done
  | .g r => ∃ v l n f, o = ((u.emitG r v l).nanOpt n f s.cur.pc).done
/-- The token instructions of groups 0x10 to 0x17 over given operands. -/
def tokenForms (d a b c g : BitVec 4) (k : Option (BitVec 2)) (e f : EType) (m : BitVec 2) (n : BitVec 3) (l : BitVec 4) (x : Bool)
    (q : BitVec 3) (mode : BitMode) (kind : TokKind) (pl : Plane) (fd : RecField) : List TokenForm :=
  (([.vAdd, .vSub, .vMul, .vScl, .vCeq, .vCne, .vClt, .vCle, .vCun, .vMin, .vMax, .vIadd, .vIsub, .vImul, .vAnd, .vOr, .vXor, .vShl, .vShr, .vSra,
      .vImin, .vImax, .vAdds, .vSubs, .vIeq, .vIlt, .vIltu, .vPack] :
    List (BitVec 4 → BitVec 4 → BitVec 4 → Option (BitVec 2) → EType → Instr)).map fun i => ⟨i d a b k e, [a, b], .tok d, k.toList, none, true, false⟩) ++
  (([.vFma, .vFms, .vFnma, .vSel, .vClamp] : List (BitVec 4 → BitVec 4 → BitVec 4 → BitVec 4 → EType → Instr)).map fun i =>
    ⟨i d a b c e, [a, b, c], .tok d, [], none, true, false⟩) ++
  (([.vAbs, .vNeg, .vUnpkLo, .vUnpkHi, .vRcp, .vRsq, .vExp2, .vLog2, .vTanh, .vErf, .vRsum, .vRmax, .vRmin, .vScan] :
    List (BitVec 4 → BitVec 4 → Option (BitVec 2) → EType → Instr)).map fun i => ⟨i d a k e, [a], .tok d, k.toList, none, true, false⟩) ++
  [⟨.vCvt d a f x n e, [a], .tok d, [], none, true, false⟩, ⟨.vCvtSr d a b x f e, [a, b], .tok d, [], none, true, false⟩,
   ⟨.vQblk d a none n e, [a], .tok d, [], none, true, false⟩, ⟨.vQblk d a (some b) n e, [a, b], .tok d, [], none, true, false⟩,
   ⟨.vDqblk d a x f e, [a], .tok d, [], none, true, false⟩, ⟨.vRsumG d a k e, [a], .g d, k.toList, none, true, false⟩,
   ⟨.vPerm d a b k, [a, b], .tok d, k.toList, none, true, false⟩, ⟨.vBcast d a l, [a], .tok d, [], none, true, false⟩,
   ⟨.vRot d a l, [a], .tok d, [], none, true, false⟩] ++
  [⟨.vPeek q n, [8 + n.setWidth 4], .tok (q.setWidth 4), [], none, false, true⟩, ⟨.vMov d a k, [a], .tok d, k.toList, none, false, false⟩,
   ⟨.vSetv d a m mode, [a], .tok d, [m], none, false, false⟩, ⟨.vSetp d a m mode, [a], .tok d, [m], none, false, false⟩,
   ⟨.vGetv m a x, [a], .m m, [m], none, false, false⟩, ⟨.vGetp m a, [a], .m m, [m], none, false, false⟩,
   ⟨.vSettag d a g, [a], .tok d, [], some g, false, false⟩, ⟨.vIns d a g l, [a], .tok d, [], some g, false, false⟩,
   ⟨.vSplat d g, [], .tok d, [], some g, false, false⟩, ⟨.vMkc d a kind, [a], .tok d, [], none, false, false⟩,
   ⟨.vGettag d a, [a], .g d, [], none, false, false⟩, ⟨.vExt d a l, [a], .g d, [], none, false, false⟩] ++
  [⟨.vDeq d a b x pl, [a, b], .tok d, [], none, true, false⟩, ⟨.vWarp d a g x, [a], .tok d, [], some g, true, false⟩,
   ⟨.vErracc d a b x, [a, b], .tok d, [], none, true, false⟩, ⟨.vRefr d a, [a], .tok d, [], none, true, false⟩,
   ⟨.vBfx d a fd, [a], .tok d, [], none, true, false⟩]

/-! ## The matrix unit (R199, R303) -/

/-- The matrix unit executes the item at its head, a run's word or an inline instruction, and has not begun it. -/
def State.unitStarts (s : State) : Prop :=
  (s.ctx.unit = .minl ∨ s.ctx.unit = .mrun) ∧ (s.tile s.ctx.tile).mq ≠ [] ∧ s.mprog = {}
/-- The matrix unit goes on with the item at its head. -/
def State.unitGoesOn (s : State) (p : MProg) : Prop :=
  (s.ctx.unit = .minl ∨ s.ctx.unit = .mrun) ∧ (s.tile s.ctx.tile).mq ≠ [] ∧ s.mprog = p ∧ p ≠ {}
/-- The issuer may use an accumulator: slot 15 has tile 15 alone (R303). -/
def State.ownsAcc (s : State) (c : BitVec 4) : Prop := s.rcTask = true → c = 15
/-- The issuer may use a ring, and it has entries (R203, R303). -/
def State.ownsRing (s : State) (r : BitVec 2) : Prop := (s.rcTask = true → r = 3) ∧ (s.ring r).size ≠ 0
/-- A ring holds a complete entry (R205). -/
def State.hasEntry (s : State) (r : BitVec 2) : Prop := 24 ≤ ((s.ring r).tail - (s.ring r).head).toNat
/-- An input port has a data head that the issuer may take. -/
def State.dataHead (s : State) (p : BitVec 3) (x : Token) : Prop :=
  s.bound false p = false ∧ s.head p = some x ∧ x.kind = .data

/-! ## Junctions (R114 to R117) -/

/-- A junction of a kind may fire: its region runs and no record holds it. -/
def JAt.ready (a : JAt) (s : State) (kind : Nat) : Prop :=
  s.regionRuns (s.lt a.t a.ph).key = true ∧ (a.get s).held = none ∧ a.fld s 63 60 = kind
/-- A junction has fired, which is progress of its region where its own state has changed, other than by a record that stops it (R316). -/
def JAt.fired (a : JAt) (s u : State) : Out :=
  .next (if { a.get u with held := none } = { a.get s with held := none } then u else u.progressAt a.t a.ph)

/-! ## Frames -/

/-- Nothing changes but the issuing task: every other task, the rest of its tile, every other tile and every other field of the
device are as before. -/
def OnlyTask (s t : State) : Prop :=
  t = { s with tiles := t.tiles } ∧ (∀ u, u ≠ s.ctx.tile → t.tile u = s.tile u) ∧
  t.tile s.ctx.tile = { s.tile s.ctx.tile with tasks := (t.tile s.ctx.tile).tasks } ∧
  ∀ k : SlotId, k ≠ s.ctx.slot → t.task s.ctx.tile k = s.task s.ctx.tile k
/-- Nothing changes but one tile. -/
def OnlyTile (n : Nat) (s t : State) : Prop :=
  t = { s with tiles := t.tiles } ∧ ∀ u, u ≠ n → t.tile u = s.tile u
/-- A byte of a tile's scratchpad. -/
def State.spByte (s : State) (t a : Nat) : Byte := memGet (s.tile t).spad a

/-! ## The word in hand (R35, R312) -/

/-- The words at the program counter of the issuer are an instruction's: in its program, without an error, and decoding to it. -/
def State.nextIs (s : State) (i : Instr) : Prop :=
  let pc := s.cur.pc
  let n := if major (s.word pc) = 0x1F then 4 else 1
  pc + n ≤ s.limit ∧ s.wordsBad pc n = false ∧ decode ((List.range n).map fun k => (s.word (pc + k)).toNat) = .ok i
/-- The device runs: it has power, and the Shutter is down. -/
def State.runs (s : State) : Prop := s.powered = true ∧ s.shut = false

/-! ## Canonical forms -/

/-- A rising list of numbers. -/
def Rising (l : List Nat) : Prop := l.Pairwise (· < ·)
/-- A tile's scratchpad and its poison marks have their canonical form. -/
def Tile.Canon (x : Tile) : Prop := memWf x.spad = true ∧ Rising x.marks
/-- HBM, the flash and every tile's scratchpad have their canonical form. -/
def State.Canon (s : State) : Prop := memWf s.hbm = true ∧ memWf s.flash = true ∧ ∀ x ∈ s.tiles, Tile.Canon x.2

end Sys2Proof.Machine
end

