-- ==== Sys2Proof/Certificates/Slice0/Obligations.lean ====
section
/-! DEFINITION. The statements for the provers: what the spec's numbered rules say the instructions and the machine do. -/
open Sys2Proof Sys2Proof.Machine

/-! ## Integer arithmetic, immediates, constants, base registers (R48, R66 to R69) -/

/-- R66: the two-source and one-source operations of group 0x01 write their table's result to g[d], with the checks of its
pseudocode before. -/
def Claims.IntegerArithmeticFollowsTable : Prop :=
  ∀ (s : State) (d a b : BitVec 4) (w v : Bool) (x y : DWord),
    (∀ p ∈ ([(.add, .ofNat 64 (x.toNat + y.toNat)), (.sub, .ofInt 64 (x.toNat - y.toNat)), (.mul, .ofNat 64 (x.toNat * y.toNat)),
        (.mulh, .ofInt 64 (x.toInt * y.toInt / 2 ^ 64)), (.mulhu, .ofNat 64 (x.toNat * y.toNat / 2 ^ 64)),
        (.div, if y = 0 then .ofInt 64 (-1) else .ofInt 64 (x.toInt.tdiv y.toInt)),
        (.divu, if y = 0 then .ofNat 64 (2 ^ 64 - 1) else .ofNat 64 (x.toNat / y.toNat)),
        (.rem, if y = 0 then x else .ofInt 64 (x.toInt.tmod y.toInt)), (.remu, if y = 0 then x else .ofNat 64 (x.toNat % y.toNat)),
        (.and, x &&& y), (.or, x ||| y), (.xor, x ^^^ y), (.andn, x &&& ~~~y),
        (.sll, x <<< (y.extractLsb' 0 6).toNat), (.srl, x >>> (y.extractLsb' 0 6).toNat),
        (.sra, x.sshiftRight (y.extractLsb' 0 6).toNat),
        (.slt, if x.toInt < y.toInt then 1 else 0), (.sltu, if x.toNat < y.toNat then 1 else 0),
        (.min, if x.toInt < y.toInt then x else y), (.max, if x.toInt < y.toInt then y else x),
        (.minu, if x.toNat < y.toNat then x else y), (.maxu, if x.toNat < y.toNat then y else x)] :
        List ((BitVec 4 → BitVec 4 → BitVec 4 → Bool → Bool → Instr) × DWord)),
      (s.full a x → s.full b y → s.takes d → exec (p.1 d a b w v) s = (s.setG d p.2).done) ∧
      ((s.g a).st ≠ .full → exec (p.1 d a b w v) s = s.blocked a w 4) ∧
      (s.full a x → (s.g b).st ≠ .full → exec (p.1 d a b w v) s = s.blocked b v 5) ∧
      (s.full a x → s.full b y → (s.g d).st = .pending → exec (p.1 d a b w v) s = s.parks .destPending)) ∧
    (∀ p ∈ ([(.clz, .ofNat 64 (64 - bitLen x.toNat)), (.ctz, .ofNat 64 (ctzN 64 x.toNat)), (.popc, .ofNat 64 (popN 64 x.toNat)),
        (.mov, x), (fun d a w => .sext d a w .w8, (x.extractLsb' 0 8).signExtend 64),
        (fun d a w => .sext d a w .w16, (x.extractLsb' 0 16).signExtend 64),
        (fun d a w => .sext d a w .w32, (x.extractLsb' 0 32).signExtend 64),
        (fun d a w => .zext d a w .w8, (x.extractLsb' 0 8).zeroExtend 64),
        (fun d a w => .zext d a w .w16, (x.extractLsb' 0 16).zeroExtend 64),
        (fun d a w => .zext d a w .w32, (x.extractLsb' 0 32).zeroExtend 64)] : List ((BitVec 4 → BitVec 4 → Bool → Instr) × DWord)),
      (s.full a x → s.takes d → exec (p.1 d a w) s = (s.setG d p.2).done) ∧
      ((s.g a).st ≠ .full → exec (p.1 d a w) s = s.blocked a w 4) ∧
      (s.full a x → (s.g d).st = .pending → exec (p.1 d a w) s = s.parks .destPending))

/-- R66: what the counts of `clz`, `ctz` and `popc` are: the number of zero bits above the highest one, below the lowest one (64 of
zero), and of one bits. -/
def Claims.BitCountsCountBits : Prop :=
  ∀ (x : DWord),
    (x ≠ 0 → x.getLsbD (bitLen x.toNat - 1) = true ∧ (∀ k, bitLen x.toNat ≤ k → x.getLsbD k = false) ∧ 0 < bitLen x.toNat) ∧
    bitLen (0 : DWord).toNat = 0 ∧
    (x ≠ 0 → x.getLsbD (ctzN 64 x.toNat) = true ∧ ∀ k, k < ctzN 64 x.toNat → x.getLsbD k = false) ∧
    ctzN 64 (0 : DWord).toNat = 64 ∧
    popN 64 x.toNat = ((List.range 64).filter fun k => x.getLsbD k).length

/-- R67: the immediate operations of group 0x02. -/
def Claims.ImmediateArithmeticFollowsTable : Prop :=
  ∀ (s : State) (d a : BitVec 4) (w : Bool) (i : BitVec 15) (k : BitVec 6) (x : DWord),
    ∀ p ∈ ([(.addi d a w i, .ofInt 64 (x.toNat + i.toInt)), (.andi d a w i, x &&& i.signExtend 64), (.ori d a w i, x ||| i.signExtend 64),
        (.xori d a w i, x ^^^ i.signExtend 64), (.slli d a w k, x <<< k.toNat), (.srli d a w k, x >>> k.toNat),
        (.srai d a w k, x.sshiftRight k.toNat), (.slti d a w i, if x.toInt < i.toInt then 1 else 0)] : List (Instr × DWord)),
      (s.full a x → s.takes d → exec p.1 s = (s.setG d p.2).done) ∧
      ((s.g a).st ≠ .full → exec p.1 s = s.blocked a w 4) ∧
      (s.full a x → (s.g d).st = .pending → exec p.1 s = s.parks .destPending)

/-- R68: `li`, and `li.sN`, which replaces bits [N+14:N] alone and checks g[d] as a source. -/
def Claims.ConstantsReplaceTheirField : Prop :=
  ∀ (s : State) (d : BitVec 4) (w : Bool) (i : BitVec 15) (j : BitVec 4) (x : DWord),
    (s.takes d → exec (.li d i) s = (s.setG d (i.signExtend 64)).done) ∧
    ((s.g d).st = .pending → exec (.li d i) s = s.parks .destPending) ∧
    (s.full d x → ∀ p ∈ ([(.liS15 d w i, 15, 15, i.toNat), (.liS30 d w i, 30, 15, i.toNat), (.liS45 d w i, 45, 15, i.toNat), (.liS60 d w j, 60, 4, j.toNat)] :
        List (Instr × Nat × Nat × Nat)),
      ∃ y : DWord, exec p.1 s = (s.setG d y).done ∧
        ∀ n < 64, y.getLsbD n = if p.2.1 ≤ n ∧ n < p.2.1 + p.2.2.1 then p.2.2.2.testBit (n - p.2.1) else x.getLsbD n) ∧
    ((s.g d).st ≠ .full → ∀ p ∈ ([.liS15 d w i, .liS30 d w i, .liS45 d w i, .liS60 d w j] : List Instr), exec p s = s.blocked d w 3)

/-- R69: the base-register operations: window in bits 79:64, offset in 47:0, carries out of bit 47 dropped. -/
def Claims.BaseRegisterOpsFollowTable : Prop :=
  ∀ (s : State) (d a : BitVec 3) (g h : BitVec 4) (w v : Bool) (n : BitVec 8) (x y : DWord),
    exec (.bMov d a) s = (s.setB d (s.b a)).done ∧
    (s.full h y → exec (.bAdd d a h v) s = (s.setB d ((s.b a).extractLsb' 48 32 ++
      BitVec.ofNat 48 (((s.b a).extractLsb' 0 48).toNat + y.toNat))).done) ∧
    exec (.bAddi d a n) s = (s.setB d ((s.b a).extractLsb' 48 32 ++
      BitVec.ofInt 48 (((s.b a).extractLsb' 0 48).toNat + n.toInt * 64))).done ∧
    (s.full g x → s.full h y → exec (.bWin d g h w v) s = (s.setB d (x.extractLsb' 0 16 ++ y)).done) ∧
    (s.takes g → exec (.bGet g a) s = (s.setG g ((s.b a).extractLsb' 0 64)).done ∧
      exec (.bGwin g a) s = (s.setG g (((s.b a).extractLsb' 64 16).zeroExtend 64)).done) ∧
    (s.full h y → exec (.bCpy d a h v) s = (s.setB d (y.extractLsb' 0 16 ++ (s.b a).extractLsb' 0 64)).done) ∧
    ((s.g h).st ≠ .full → exec (.bAdd d a h v) s = s.blocked h v 5 ∧ exec (.bCpy d a h v) s = s.blocked h v 5 ∧
      (s.full g x → exec (.bWin d g h w v) s = s.blocked h v 5)) ∧
    ((s.g g).st ≠ .full → exec (.bWin d g h w v) s = s.blocked g w 4) ∧
    ((s.g g).st = .pending → exec (.bGet g a) s = s.parks .destPending ∧ exec (.bGwin g a) s = s.parks .destPending)

/-! ## Loads and stores of scratchpad (R63, R65, R70) -/

/-- R63, R303, R321: which byte ranges of scratchpad an access may touch, and where a fold phase's share lies. -/
def Claims.ScratchpadRangeIsTheShare : Prop :=
  ∀ (fold ph : BitVec 2) (a n : Nat), 0 < n →
    (spOk fold false a n = true ↔ a + n ≤ 0x7_8000 / 2 ^ fold.toNat) ∧
    (spOk fold true a n = true ↔ a + n ≤ 0x7_8000 / 2 ^ fold.toNat ∨ (0x7_8000 ≤ a ∧ a + n ≤ 0x8_0000) ∨ (fold = 0 ∧ a + n ≤ 0x8_0000)) ∧
    (spStOk fold true a n = true ↔ 0x7_A000 ≤ a ∧ a + n ≤ 0x8_0000) ∧
    (spOk fold false a n = true → spAddr fold ph a = ph.toNat * (0x7_8000 / 2 ^ fold.toNat) + a)

/-- R70: the scalar loads: the little-endian value of n bytes at g[s1] + sext(imm15)·n, sign- or zero-extended, after the checks of
sources, destination, range, alignment and marks in that order; that g[s1] is signed there is the model's reading (log 44). -/
def Claims.ScalarLoadsFollowPseudocode : Prop :=
  ∀ (s : State) (d a : BitVec 4) (w : Bool) (i : BitVec 15) (x : DWord),
    ∀ p ∈ ([(.ldB d a w i, 1, true), (.ldH d a w i, 2, true), (.ldW d a w i, 4, true), (.ldD d a w i, 8, true),
        (.ldBz d a w i, 1, false), (.ldHz d a w i, 2, false), (.ldWz d a w i, 4, false)] : List (Instr × Nat × Bool)),
      let n := p.2.1
      let ea : Int := x.toInt + i.toInt * n
      ((s.g a).st ≠ .full → exec p.1 s = s.blocked a w 4) ∧
      (s.full a x → (s.g d).st = .pending → exec p.1 s = s.parks .destPending) ∧
      (s.full a x → s.takes d → s.clearOfAcq →
        ((ea < 0 ∨ s.spLd ea.toNat n = false) → exec p.1 s = s.traps 5 0 (.ofInt 64 ea)) ∧
        (0 ≤ ea → s.spLd ea.toNat n = true →
          (ea % n ≠ 0 → exec p.1 s = s.traps 6 0 (.ofInt 64 ea)) ∧
          (ea % n = 0 → s.spMarked ea.toNat n = true → exec p.1 s = s.traps 7 0 (.ofInt 64 ea)) ∧
          (ea % n = 0 → s.spMarked ea.toNat n = false → exec p.1 s =
            (s.setG d (if p.2.2 then (BitVec.ofNat (8 * n) (s.spN ea.toNat n)).signExtend 64 else .ofNat 64 (s.spN ea.toNat n))).done)))

/-- R70: `ld.t` takes sixteen words and their marks as one data token, tag 0, every lane valid, and never traps on a
mark; that g[s1] is signed in the address is the model's reading (log 44). -/
def Claims.TokenLoadTakesSixteenWords : Prop :=
  ∀ (s : State) (d : BitVec 3) (a : BitVec 4) (w : Bool) (i : BitVec 15) (x : DWord),
    let ea : Int := x.toInt + i.toInt * 64
    s.full a x → s.wBusy d = false → s.clearOfAcq → 0 ≤ ea → s.spLd ea.toNat 64 = true → ea % 64 = 0 →
      ∃ k : Token, exec (.ldT d a w i) s = (s.setW d k).done ∧ k.kind = .data ∧ k.tag = 0 ∧
        ∀ j < 16, k.lane j = s.spN (ea.toNat + 4 * j) 4 ∧ k.val j = true ∧ k.pois j = s.spMark (ea.toNat + 4 * j)

/-- R65, R70: a scalar store writes exactly its n bytes, at the physical place of g[s1] + sext(imm15)·n, with the low bytes of its
data, low byte first; 4 and 8 bytes clear the marks of their words, 1 and 2 leave them; nothing else of the device changes but the
issuer's step to its next word; that g[s1] is signed in the address is the model's reading (log 44). -/
def Claims.ScalarStoresWriteExactlyTheirBytes : Prop :=
  ∀ (s : State) (d a : BitVec 4) (w : Bool) (i : BitVec 15) (x y : DWord),
    Tile.Canon (s.tile s.ctx.tile) → s.full a x → s.full d y → s.clearOfAcq → s.clearOfRel →
    ∀ p ∈ ([(.stB d a w i, 1), (.stH d a w i, 2), (.stW d a w i, 4), (.stD d a w i, 8)] : List (Instr × Nat)),
      let n := p.2
      let ea : Int := x.toInt + i.toInt * n
      let at_ := s.spa ea.toNat
      ((ea < 0 ∨ s.spLd ea.toNat n = false ∨ s.spSt ea.toNat n = false) → exec p.1 s = s.traps 5 0 (.ofInt 64 ea)) ∧
      (0 ≤ ea → s.spLd ea.toNat n = true → s.spSt ea.toNat n = true → ea % n ≠ 0 → exec p.1 s = s.traps 6 0 (.ofInt 64 ea)) ∧
      (0 ≤ ea → s.spLd ea.toNat n = true → s.spSt ea.toNat n = true → ea % n = 0 →
        ∃ m l, let u := s.modTile s.ctx.tile fun z => { z with spad := m, marks := l }
          exec p.1 s = u.done ∧ memWf m = true ∧
          (∀ q, memGet m q = if at_ ≤ q ∧ q < at_ + n then (y >>> (8 * (q - at_))).setWidth 8 else s.spByte s.ctx.tile q) ∧
          ∀ q, setHas l q = (setHas (s.tile s.ctx.tile).marks q && !(decide (4 ≤ n ∧ at_ ≤ q ∧ q < at_ + n ∧ q % 4 = 0))))

/-- R65, R70: `st.t` writes the four bytes and the mark of each valid lane, and leaves those of every other lane and every other
byte; that g[s1] is signed in the address is the model's reading (log 44). -/
def Claims.TokenStoreIsMasked : Prop :=
  ∀ (s : State) (d : BitVec 3) (a : BitVec 4) (w : Bool) (i : BitVec 15) (x : DWord),
    let ea : Int := x.toInt + i.toInt * 64
    let at_ := s.spa ea.toNat
    Tile.Canon (s.tile s.ctx.tile) → s.full a x → s.wBusy d = false → s.clearOfAcq → s.clearOfRel → 0 ≤ ea → s.spLd ea.toNat 64 = true →
    s.spSt ea.toNat 64 = true → ea % 64 = 0 →
      ∃ m l, let u := s.modTile s.ctx.tile fun z => { z with spad := m, marks := l }
        exec (.stT d a w i) s = u.done ∧
        (∀ q, memGet m q = if at_ ≤ q ∧ q < at_ + 64 ∧ (s.w d).val ((q - at_) / 4) = true then
            (BitVec.ofNat 8 ((s.w d).lane ((q - at_) / 4) / 256 ^ ((q - at_) % 4))) else s.spByte s.ctx.tile q) ∧
        ∀ q, setHas l q = if at_ ≤ q ∧ q < at_ + 64 ∧ q % 4 = 0 ∧ (s.w d).val ((q - at_) / 4) = true then (s.w d).pois ((q - at_) / 4)
          else setHas (s.tile s.ctx.tile).marks q

/-! ## Branches, jumps, loops (R39, R71, R72) -/

/-- R71: a branch whose test holds goes to its word index plus sext(off18), traps BAD_TARGET where that lies outside the task's
words, and otherwise goes on to the next word. -/
def Claims.BranchesTestAndGo : Prop :=
  ∀ (s : State) (a : BitVec 4) (r : BitVec 2) (w : Bool) (o : BitVec 18) (x : DWord),
    let t : Int := s.cur.pc + o.toInt
    let goes := fun (i : Instr) (c : Prop) =>
      (¬ c → exec i s = s.done) ∧
      (c → 0 ≤ t → t < s.limit → exec i s = .next (s.modCur fun k => { k with st := .ready, pc := t.toNat, mark := none })) ∧
      (c → (t < 0 ∨ s.limit ≤ t) → exec i s = s.traps 4 0 (.ofInt 64 t))
    (s.full a x → goes (.beqz a w o) (x.toInt = 0) ∧ goes (.bnez a w o) (x.toInt ≠ 0) ∧ goes (.bltz a w o) (x.toInt < 0) ∧
      goes (.bgez a w o) (0 ≤ x.toInt) ∧ goes (.bgtz a w o) (0 < x.toInt) ∧ goes (.blez a w o) (x.toInt ≤ 0)) ∧
    ((s.g a).st ≠ .full → ∀ i ∈ ([.beqz a w o, .bnez a w o, .bltz a w o, .bgez a w o, .bgtz a w o, .blez a w o] : List Instr),
      exec i s = s.blocked a w 4) ∧
    goes (.bfull a o) ((s.g a).st = .full) ∧ goes (.bempty a o) ((s.g a).st ≠ .full) ∧
    (s.mBusy r = false → goes (.bmany r o) (s.m r ≠ 0) ∧ goes (.bmnone r o) (s.m r = 0))

/-- R72: the jumps and the loop. -/
def Claims.JumpsFollowPseudocode : Prop :=
  ∀ (s : State) (a l : BitVec 4) (w : Bool) (o : BitVec 18) (x : DWord),
    let t : Int := s.cur.pc + o.toInt
    let goTo := fun (u : State) (n : Nat) => (Host.Outcome.next (u.modCur fun k => { k with st := .ready, pc := n, mark := none }) : Out)
    (0 ≤ t → t < s.limit →
      exec (.j o) s = goTo s t.toNat ∧
      (s.takes l → exec (.call l o) s = goTo (s.setG l (w64 (s.cur.pc + 1))) t.toNat) ∧
      (s.full a x → 1 < x.toNat → exec (.loop a w o) s = goTo (s.setG a (x - 1)) t.toNat)) ∧
    ((t < 0 ∨ s.limit ≤ t) →
      exec (.j o) s = s.traps 4 0 (.ofInt 64 t) ∧
      (s.takes l → exec (.call l o) s = s.traps 4 0 (.ofInt 64 t)) ∧
      (s.full a x → 1 < x.toNat → exec (.loop a w o) s = s.traps 4 0 (.ofInt 64 t))) ∧
    ((s.g l).st = .pending → exec (.call l o) s = s.parks .destPending ∧ (s.full a x → exec (.callr a w l) s = s.parks .destPending)) ∧
    (s.full a x → x.toNat ≤ 1 → exec (.loop a w o) s = (s.setG a 0).done) ∧
    (s.full a x → x.toNat < s.limit →
      exec (.jr a w) s = goTo s x.toNat ∧ (s.takes l → exec (.callr a w l) s = goTo (s.setG l (w64 (s.cur.pc + 1))) x.toNat)) ∧
    (s.full a x → s.limit ≤ x.toNat →
      exec (.jr a w) s = s.traps 4 0 x ∧ (s.takes l → exec (.callr a w l) s = s.traps 4 0 x)) ∧
    ((s.g a).st ≠ .full → exec (.jr a w) s = s.blocked a w 4 ∧ exec (.callr a w l) s = s.blocked a w 4 ∧
      exec (.loop a w o) s = s.blocked a w 4)

/-! ## Full/empty control, tasks and ports, the spill stack (R73 to R80) -/

/-- R73: `few` waits for a full register and does nothing more; `fec` empties a register that is not pending, keeping nothing else. -/
def Claims.FullEmptyControl : Prop :=
  ∀ (s : State) (r : BitVec 4),
    ((s.g r).st = .full → exec (.few r) s = s.done) ∧ ((s.g r).st ≠ .full → exec (.few r) s = s.parks .emptyReg) ∧
    ((s.g r).st = .pending → exec (.fec r) s = s.parks .destPending) ∧
    (s.takes r → exec (.fec r) s = (s.modCur fun k => { k with g := vset k.g r.toNat { vget k.g r.toNat {} with st := .empty } }).done)

/-- R75: `getw` consumes the head that stands and delivers its lane, or lanes, and a poisoned one delivers zero and leaves the trap
GETW_POISON for the task's next issue; with no head it leaves g[d] pending and waits at the port behind earlier ones; at a port that
a stream command or ring binds it traps PORT_BUSY. -/
def Claims.GetwDelivers : Prop :=
  ∀ (s : State) (d : BitVec 4) (p : BitVec 3) (wide : Bool) (l : BitVec 4), s.takes d → s.clearOfAcq →
    (s.bound false p = true → exec (.getw d p wide l) s = s.traps 16 0 (w64 (8 + p.toNat))) ∧
    (s.bound false p = false →
      (∀ t : Token, s.head p = some t →
        let v : DWord := if wide then .ofNat 64 (t.lane l.toNat + 2 ^ 32 * t.lane (l.toNat + 1)) else .ofNat 64 (t.lane l.toNat)
        let bad := t.pois l.toNat || (wide && t.pois (l.toNat + 1))
        (bad = false → exec (.getw d p wide l) s = ((s.pop p).setG d v).done) ∧
        (bad = true → exec (.getw d p wide l) s =
          (((s.pop p).setG d 0).modCur fun k => { k with ptraps := k.ptraps ++ [⟨9, some s.cur.pc, w64 (8 + p.toNat)⟩] }).done)) ∧
      (s.head p = none → exec (.getw d p wide l) s =
        ({ (s.markG d .pending).getwWait p { slot := s.ctx.slot, d := d, lane := l, wide := wide, pc := s.cur.pc, id := s.newId } with
          newId := s.newId + 1 } : State).done))

/-- R76: `putw` and `putc` push one token: the word's halves in lanes 0 and 1, zeros above, every lane valid, none poisoned, the tag
given, of kind data or control; they park while the port has no free slot, and trap PORT_BUSY while a command binds it. -/
def Claims.PutPushesOneToken : Prop :=
  ∀ (s : State) (p : BitVec 3) (a : BitVec 4) (w : Bool) (t : BitVec 6) (x : DWord), s.full a x → s.clearOfAcq → s.clearOfRel →
    ∀ i ∈ ([(.putw p a w t, .data), (.putc p a w t, .control)] : List (Instr × TokKind)),
      (s.bound true p = true → exec i.1 s = s.traps 16 0 (w64 (8 + p.toNat))) ∧
      (s.bound true p = false → s.space p = false → exec i.1 s = s.parks .port) ∧
      (s.bound true p = false → s.space p = true → ∃ k : Token, exec i.1 s = (s.push p k).done ∧
        k.lane 0 = x.toNat % 2 ^ 32 ∧ k.lane 1 = x.toNat / 2 ^ 32 ∧ (∀ j, 2 ≤ j → j < 16 → k.lane j = 0) ∧
        k.valid = 0xFFFF ∧ k.poison = 0 ∧ k.tag = t ∧ k.kind = i.2)

/-- R77: `waitp` goes on once its port has a head, or a free slot, and changes no port; `yield` readies the task at the next word;
`end` waits for pending registers and unfinished runs and retires the task. -/
def Claims.WaitYieldEnd : Prop :=
  ∀ (s : State) (p : BitVec 3),
    (s.bound false p = false → (s.head p).isSome = true → exec (.waitp p false) s = s.done) ∧
    (s.bound false p = false → s.head p = none → exec (.waitp p false) s = s.parks .port) ∧
    (s.bound true p = false → s.space p = true → exec (.waitp p true) s = s.done) ∧
    (s.bound true p = false → s.space p = false → exec (.waitp p true) s = s.parks .port) ∧
    exec .yield s = s.done ∧
    (let busy := (∃ r : BitVec 4, (s.g r).st = .pending) ∨ (s.tile s.ctx.tile).runsOf s.ctx.slot .matrix = true ∨
        (s.tile s.ctx.tile).runsOf s.ctx.slot .stream = true;
      (busy → exec .endTask s = s.parks .endWait) ∧
      (¬ busy → exec .endTask s = .next (s.modCur fun k => { k with st := .retired, mark := none })))

/-- R78: `fork` queues a run of `count` words, or commands of four words, behind the unit's earlier ones; it traps BAD_TARGET where
the run would pass the task's words and parks while four runs are queued. That the run in execution counts among the four and that TVAL is
g[s1] is the model's choice (log 57). -/
def Claims.ForkQueuesARun : Prop :=
  ∀ (s : State) (a : BitVec 4) (w : Bool) (c : BitVec 8) (x : DWord), s.full a x → s.clearOfAcq →
    let t := s.ctx.tile
    let y := s.tile t
    (s.limit < x.toNat + c.toNat → exec (.fork .matrix a w c) s = s.traps 4 0 x) ∧
    (s.limit < x.toNat + 4 * c.toNat → exec (.fork .stream a w c) s = s.traps 4 0 x) ∧
    (x.toNat + c.toNat ≤ s.limit → 4 ≤ (y.mq.filter (·.run)).length → exec (.fork .matrix a w c) s = s.parks .queue) ∧
    (x.toNat + 4 * c.toNat ≤ s.limit → 4 ≤ y.sq.length → exec (.fork .stream a w c) s = s.parks .queue) ∧
    (x.toNat + c.toNat ≤ s.limit → (y.mq.filter (·.run)).length < 4 → exec (.fork .matrix a w c) s =
      (s.setTile t { y with seq := y.seq + 1, mq := y.mq ++
        [{ slot := s.ctx.slot, seq := y.seq, run := true, pc := x.toNat, count := c.toNat, pos := 0, instr := none }] }).done) ∧
    (x.toNat + 4 * c.toNat ≤ s.limit → y.sq.length < 4 → exec (.fork .stream a w c) s =
      (s.setTile t { y with seq := y.seq + 1, sq := y.sq ++
        [{ slot := s.ctx.slot, seq := y.seq, pc := x.toNat, count := c.toNat, pos := 0 }] }).done)

/-- R79: `rdv` waits for the task's runs and inline instructions on the units named; it then goes on, or traps FORK_TRAP with the
lowest abandoned word index of those units and clears their record. -/
def Claims.RdvAwaitsAndReports : Prop :=
  ∀ (s : State) (st mx : Bool),
    let x := s.tile s.ctx.tile
    let k := s.ctx.slot
    let waits := (mx = true ∧ ∃ i ∈ x.mq, i.slot = k) ∨ (st = true ∧ ((∃ r ∈ x.sq, r.slot = k) ∨ ∃ c ∈ x.cmds, c.slot = k))
    let mine := fun (a : Aband) => (a.unit = .matrix ∧ mx = true) ∨ (a.unit = .stream ∧ st = true)
    (waits → exec (.rdv st mx) s = s.parks .rdv) ∧
    (¬ waits → (∀ a ∈ s.cur.aband, ¬ mine a) → exec (.rdv st mx) s = s.done) ∧
    (¬ waits → (∃ a ∈ s.cur.aband, mine a) → ∃ a ∈ s.cur.aband, ∃ l, mine a ∧ (∀ b ∈ s.cur.aband, mine b → a.word ≤ b.word) ∧
      (∀ b, b ∈ l ↔ b ∈ s.cur.aband ∧ ¬ mine b) ∧
      exec (.rdv st mx) s = .next (trapC (s.modCur fun y => { y with aband := l }) 10 0 (w64 a.word) (w32 (a.cause + 256 * a.field)) (w32 a.word)))

/-- R80, R357: `trig` appends the 64 bytes at g[s1] to its partition's launch queue of the priority named, as an external act of
the region; it waits for the task's earlier operations, since it is a release, and for space. In slot 15 it ends the recompute with
RECOMP_WRITE's kind 0x1F. That the wait for the earlier operations parks with reason FENCE is the model's choice (log 17). -/
def Claims.TrigLaunches : Prop :=
  ∀ (s : State) (a : BitVec 4) (w : Bool) (p : BitVec 2) (x : DWord), s.full a x → s.clearOfAcq →
    let y := s.part s.curPart
    let q := vget y.lq p.toNat []
    (s.spLd x.toNat 64 = false → exec (.trig a w p) s = s.traps 5 0 x) ∧
    (s.spLd x.toNat 64 = true → x.toNat % 64 ≠ 0 → exec (.trig a w p) s = s.traps 6 0 x) ∧
    (s.spLd x.toNat 64 = true → x.toNat % 64 = 0 → s.rcTask = true → exec (.trig a w p) s = .next (s.rcFault s.ctx.tile 0x1F 0 0)) ∧
    (s.spLd x.toNat 64 = true → x.toNat % 64 = 0 → s.rcTask = false →
      (s.opsOut false = true → exec (.trig a w p) s = s.parks .fence) ∧
      (s.opsOut false = false → 256 ≤ q.length → exec (.trig a w p) s = s.parks .queue) ∧
      (s.opsOut false = false → q.length < 256 → exec (.trig a w p) s =
        ((s.setPart s.curPart { y with lq := vset y.lq p.toNat (q ++ [.ofNat 512 (leNat (s.sp x.toNat 64))]) }).extAct s.curLt.key).done))

/-- R74, R303: `pushm` puts the registers d to s1 below SSP.PTR, lowest register lowest, each in its slot, clears the marks there and
moves SSP.PTR down. A g register that is not full parks or traps it first, in ascending order, with field 3 for g[d] and 4 for a later
one; then SPILL_RANGE below LIMIT, SP_RANGE outside the share or slot 15's store range, and MISALIGN for the w file. -/
def Claims.PushmSpillsRegisters : Prop :=
  ∀ (s : State) (d a : BitVec 4) (w : Bool) (f : RFile), (Instr.pushm d a w f).wellFormed = true →
    let n := a.toNat - d.toNat + 1
    let size := n * slotBytes f
    let limit : Int := (bfld s.cur.ssp 50 35 * 8 : Nat)
    let new : Int := (bfld s.cur.ssp 18 3 * 8 : Nat) - (size : Int)
    let within := fun (r : Nat) => d.toNat ≤ r ∧ r ≤ a.toNat
    (∀ r : BitVec 4, f = .g → within r.toNat → (s.g r).st ≠ .full → (∀ q : BitVec 4, within q.toNat → q < r → (s.g q).st = .full) →
      exec (.pushm d a w f) s = s.blocked r w (if r = d then 3 else 4)) ∧
    ((∃ r : BitVec 3, f = .w ∧ within r.toNat ∧ s.wBusy r = true) → exec (.pushm d a w f) s = s.parks .wreg) ∧
    ((∃ r : BitVec 2, f = .m ∧ within r.toNat ∧ s.mBusy r = true) → exec (.pushm d a w f) s = s.parks .wreg) ∧
    ((∀ r : BitVec 4, f = .g → within r.toNat → (s.g r).st = .full) → (∀ r : BitVec 3, f = .w → within r.toNat → s.wBusy r = false) →
      (∀ r : BitVec 2, f = .m → within r.toNat → s.mBusy r = false) → s.clearOfAcq → s.clearOfRel →
      (new < limit → exec (.pushm d a w f) s = s.traps 8 0 (.ofInt 64 new)) ∧
      (limit ≤ new → (s.spLd new.toNat size = false ∨ s.spSt new.toNat size = false) → exec (.pushm d a w f) s = s.traps 5 0 (.ofInt 64 new)) ∧
      (limit ≤ new → s.spLd new.toNat size = true → s.spSt new.toNat size = true →
        (f = .w → new.toNat % 64 ≠ 0 → exec (.pushm d a w f) s = s.traps 6 0 (.ofInt 64 new)) ∧
        ((f = .w → new.toNat % 64 = 0) → Tile.Canon (s.tile s.ctx.tile) → ∃ m l, exec (.pushm d a w f) s =
          ((s.modTile s.ctx.tile fun z => { z with spad := m, marks := l }).modCur fun k => { k with ssp := sspWith k.ssp new.toNat }).done ∧
          bfld (sspWith s.cur.ssp new.toNat) 18 3 = new.toNat / 8 ∧
          (∀ j < n, ∀ q < slotBytes f, memGet m (s.spa new.toNat + j * slotBytes f + q) = (s.slotOf f (d.toNat + j)).getD q 0) ∧
          (∀ q, ¬ (s.spa new.toNat ≤ q ∧ q < s.spa new.toNat + size) → memGet m q = s.spByte s.ctx.tile q) ∧
          ∀ q, setHas l q = (setHas (s.tile s.ctx.tile).marks q && !decide (s.spa new.toNat ≤ q ∧ q < s.spa new.toNat + size)))))

/-- R74: `popm` loads the registers d to s1 from their ascending slots at SSP.PTR and moves SSP.PTR up; it parks on a pending g
register, traps SPILL_RANGE past the share, MISALIGN for the w file and, for the others, POISON_LD on a mark, whose address is that of
the lowest marked slot (the model's choice, log 57). A popped kind is the one its slot names, and never a marker (R90). -/
def Claims.PopmRestoresRegisters : Prop :=
  ∀ (s : State) (d a : BitVec 4) (f : RFile), (Instr.popm d a f).wellFormed = true →
    let n := a.toNat - d.toNat + 1
    let size := n * slotBytes f
    let p := bfld s.cur.ssp 18 3 * 8
    let within := fun (r : Nat) => d.toNat ≤ r ∧ r ≤ a.toNat
    let marked := fun (j : Nat) => s.spMarked (p + j * slotBytes f) (slotBytes f) = true
    ((∃ r : BitVec 4, f = .g ∧ within r.toNat ∧ (s.g r).st = .pending) → exec (.popm d a f) s = s.parks .destPending) ∧
    ((∃ r : BitVec 3, f = .w ∧ within r.toNat ∧ s.wBusy r = true) → exec (.popm d a f) s = s.parks .wreg) ∧
    ((∃ r : BitVec 2, f = .m ∧ within r.toNat ∧ s.mBusy r = true) → exec (.popm d a f) s = s.parks .wreg) ∧
    ((∀ r : BitVec 4, f = .g → within r.toNat → s.takes r) → (∀ r : BitVec 3, f = .w → within r.toNat → s.wBusy r = false) →
      (∀ r : BitVec 2, f = .m → within r.toNat → s.mBusy r = false) → s.clearOfAcq →
      (s.spLd p size = false → exec (.popm d a f) s = s.traps 8 0 (w64 p)) ∧
      (s.spLd p size = true → f = .w → p % 64 ≠ 0 → exec (.popm d a f) s = s.traps 6 0 (w64 p)) ∧
      (∀ j < n, s.spLd p size = true → f ≠ .w → marked j → (∀ i < j, ¬ marked i) →
        exec (.popm d a f) s = s.traps 7 0 (w64 (p + j * slotBytes f))) ∧
      (s.spLd p size = true → (f = .w → p % 64 = 0) → (f ≠ .w → ∀ j < n, ¬ marked j) →
        ∃ u, exec (.popm d a f) s = (u.modCur fun k => { k with ssp := sspWith k.ssp (p + size) }).done ∧ OnlyTask s u ∧
          (p + size < 0x8_0000 → bfld (sspWith s.cur.ssp (p + size)) 18 3 = (p + size) / 8) ∧
          (∀ r : BitVec 4, u.g r = if f = .g ∧ within r.toNat then
            { val := .ofNat 64 (s.spN (p + (r.toNat - d.toNat) * 8) 8), st := .full } else s.g r) ∧
          (∀ r : BitVec 3, u.b r = if f = .b ∧ within r.toNat then .ofNat 80 (s.spN (p + (r.toNat - d.toNat) * 16) 16) else s.b r) ∧
          (∀ r : BitVec 2, u.m r = if f = .m ∧ within r.toNat then .ofNat 16 (s.spN (p + (r.toNat - d.toNat) * 8) 8) else s.m r) ∧
          ∀ r : BitVec 3, if f = .w ∧ within r.toNat then
              let q := p + (r.toNat - d.toNat) * 128
              (u.w r).data = .ofNat 512 (s.spN q 64) ∧ (u.w r).valid = .ofNat 16 (s.spN (q + 64) 2) ∧
              (∀ j < 16, (u.w r).pois j = ((s.spN (q + 66) 2).testBit j || s.spMark (q + 4 * j))) ∧
              (u.w r).tag = .ofNat 6 (s.spN (q + 68) 1) ∧ (u.w r).kind ≠ .marker ∧
              (s.spN (q + 69) 1 ∈ [0, 1, 3] → kindCode (u.w r).kind = s.spN (q + 69) 1)
            else u.w r = s.w r))

/-! ## System registers, traps and fences (R81 to R86) -/

/-- R54, R81, R82: `sysr` copies the register named; the layouts of those that no other statement covers. -/
def Claims.SysrReadsTheRegister : Prop :=
  ∀ (s : State) (g : BitVec 4), s.takes g →
    let x := s.curLt
    (∀ r, ∃ v : DWord, exec (.sysr g r) s = (s.setG g v).done ∧
      match r with
      | .tileid => bfld v 7 0 = x.lx.toNat ∧ bfld v 15 8 = x.ly.toNat ∧ bfld v 63 48 = 0 ∧
          ∀ q, s.region x.key = some q → bfld v 47 16 = q.graph.toNat
      | .taskid => bfld v 3 0 = s.cur.img.toNat ∧ bfld v 4 4 = s.cur.high.toNat ∧ bfld v 63 5 = 0
      | .acr => v.toNat = x.acr.toNat
      | .ssp => v = s.cur.ssp
      | .cyc => v = .ofNat 64 (s.cycle - x.born)
      | .fltq => (∀ e : BitVec 3, let y := s.engine s.ctx.tile (.eng e); v.getLsbD e.toNat = (y.stop.isSome || y.flt)) ∧ bfld v 63 8 = 0
      | .ntile => v = x.ntile
      | .nlane => v = x.nlane
      | .nfmt => v = x.nfmt
      | .npc => v = x.npc
      | .tcause => v = s.cur.tcause
      | .tpc => v = s.cur.tpc
      | .tval => v = s.cur.tval)

/-- R29, R74, R82: `sysw` writes the RW fields of ACR, SSP and TPC, the W1C field NANHIT where a one is written, and no RO field. -/
def Claims.SyswWritesWritableFields : Prop :=
  ∀ (s : State) (g : BitVec 4) (w : Bool) (x : DWord),
    ((s.g g).st ≠ .full → ∀ r, exec (.sysw g w r) s = s.blocked g w 3) ∧
    (s.full g x →
      (let acr := BitVec.ofBool (s.curLt.acr.getLsbD 3 && !x.getLsbD 3) ++ x.extractLsb' 0 3;
        exec (.sysw g w .acr) s = (s.modCurLt fun y => { y with acr := acr }).done) ∧
      (∃ v : DWord, exec (.sysw g w .ssp) s = (s.modCur fun k => { k with ssp := v }).done ∧
        ∀ n < 64, v.getLsbD n = (x.getLsbD n && decide (3 ≤ n ∧ n ≤ 18 ∨ 35 ≤ n ∧ n ≤ 50))) ∧
      exec (.sysw g w .tpc) s = (s.modCur fun k => { k with tpc := .ofNat 64 (x.toNat % 8192) }).done ∧
      ∀ r, r ≠ .acr → r ≠ .ssp → r ≠ .tpc → exec (.sysw g w r) s = s.done)

/-- R83: `trap` traps SOFT with its code, `bkpt` traps BKPT, and `eret` goes back to TPC, past the word or command there if asked,
with TCAUSE cleared; with no trap held it traps ERET_STATE. -/
def Claims.TrapWordsAndEret : Prop :=
  ∀ (s : State) (c : BitVec 7) (skip : Bool),
    exec (.trap c) s = s.traps 12 0 (.ofNat 64 c.toNat) ∧ exec .bkpt s = s.traps 13 0 0 ∧
    (bfld s.cur.tcause 7 0 = 0 → exec (.eret skip) s = s.traps 11 0 0) ∧
    (bfld s.cur.tcause 7 0 ≠ 0 →
      let p := bfld s.cur.tpc 12 0
      let len := if p < s.limit ∧ bfld (s.word p) 31 27 = 0x1F then 4 else 1
      exec (.eret skip) s = .next (s.modCur fun k =>
        { k with st := .ready, mark := none, tcause := 0, pc := if skip then p + len else p }))

/-- R85, R304, R360: what a trap of a task does. In slots 0 to 14 with no trap held, TCAUSE, TPC and TVAL take the cause and field, the
word's index and the value; with one held they stay. The task is trapped, and its partition gets one TRAP event, with the next sequence
number, that carries cause and field (with a trap held that one's, and the second cause besides), index, value, slot, tile and region.
In slot 15 the recompute ends with kind 0x1E and the cause. -/
def Claims.TrapSavesAndReports : Prop :=
  ∀ (s : State) (cause field : Nat) (tval : DWord), s.ctx.unit = .task → cause < 256 → field < 32 →
    let k := s.cur
    let p := s.partAt s.ctx.tile k.phase
    let held := bfld k.tcause 7 0 ≠ 0
    let after : Task := if held then { k with st := .trapped, mark := none } else
      { k with st := .trapped, mark := none, tcause := .ofNat 64 (cause + 256 * field), tpc := .ofNat 64 (k.pc % 8192), tval := tval }
    (s.ctx.slot ≠ 15 → ∃ r : FaultRec, trap s cause field tval = ((s.setTask s.ctx.tile s.ctx.slot after).post p r).2 ∧
      r.kind = 0x80 ∧ r.sub = k.img ∧ r.va = after.tval ∧ r.word.toNat = bfld after.tpc 12 0 ∧
      r.aux.toNat = bfld after.tcause 12 0 + (if held then 65536 * cause else 0) ∧ (¬ held → r.aux.toNat = cause + 256 * field) ∧
      (s.curLt.placed = true → r.lx = s.curLt.lx ∧ r.ly = s.curLt.ly ∧ ∀ g, s.region s.curLt.key = some g → r.region = g.id)) ∧
    (s.ctx.slot = 15 → trap s cause field tval = s.rcFault s.ctx.tile 0x1E cause 0) ∧
    ∀ (u : State) (q : PartId) (r : FaultRec), (u.part q).fq.length < 64 → (u.post q r).2 =
      u.setPart q { u.part q with fq := (u.part q).fq ++ [{ r with part := q, seq := (u.part q).seq + 1 }], seq := (u.part q).seq + 1 }

/-- R86, R248: a fence parks its task while an earlier memory operation, take or push of the task is outstanding (an acquire, an
earlier read or take), and otherwise goes on with nothing changed; the four scopes are alike here, since an operation is performed for every party at once
(the model's reading, log 18). -/
def Claims.FencesAwaitEarlierOperations : Prop :=
  ∀ (s : State) (k : FenceKind),
    ∀ i ∈ ([.fenceT k, .fenceR k, .fenceD k, .fenceS k] : List Instr),
      (s.opsOut (k == .acq) = true → exec i s = s.parks .fence) ∧ (s.opsOut (k == .acq) = false → exec i s = s.done)

/-! ## Token instructions (R170 to R195) -/

/-- R85, R92, R93, R95, R171, R253: what keeps a token instruction from issuing, in order: an empty g source or a pending g destination
parks, a register still to be written parks WREG, an acquire outstanding, or a release before a push, parks FENCE, a bound port traps
PORT_BUSY with its code, a missing head or a full output parks PORT, and where only data tokens are taken a head of another kind traps
KIND with the lowest such code. That a word behind an acquire or a release parks with reason FENCE is the model's choice (log 17). -/
def Claims.FiringRuleOfTokenWords : Prop :=
  ∀ (s : State) (d a b c g : BitVec 4) (k : Option (BitVec 2)) (e f : EType) (m : BitVec 2) (n : BitVec 3) (l : BitVec 4) (x : Bool)
    (q : BitVec 3) (mode : BitMode) (kind : TokKind) (pl : Plane) (fd : RecField),
    ∀ p ∈ tokenForms d a b c g k e f m n l x q mode kind pl fd,
      let out := p.dstCode.toList
      let named := fun (r : BitVec 4) => (r ∈ p.srcs ∨ r ∈ out) ∧ isPort r = true
      let other := fun (r : BitVec 4) => r ∈ p.srcs ∧ isPort r = true ∧ ∃ t, s.head (codeNo r) = some t ∧ t.kind ≠ .data
      (∀ r ∈ p.g, (s.g r).st ≠ .full → exec p.instr s = s.parks .emptyReg) ∧
      (∀ r, p.dst = .g r → (s.g r).st = .pending → exec p.instr s = s.parks .destPending) ∧
      (p.gReady s →
        let busy := (∃ r, (r ∈ p.srcs ∨ r ∈ out) ∧ isPort r = false ∧ s.wBusy (codeNo r) = true) ∨ ∃ r ∈ p.ms, s.mBusy r = true
        let held := ((∃ r, named r) ∧ s.acqOut = true) ∨ ((∃ r ∈ out, isPort r = true) ∧ s.relOut = true)
        let boundIn := fun (r : BitVec 4) => r ∈ p.srcs ∧ isPort r = true ∧ s.bound false (codeNo r) = true
        let boundOut := fun (r : BitVec 4) => r ∈ out ∧ isPort r = true ∧ s.bound true (codeNo r) = true
        (busy → exec p.instr s = s.parks .wreg) ∧
        (¬ busy → held → exec p.instr s = s.parks .fence) ∧
        (¬ busy → ¬ held →
          ((∃ r, boundIn r) → ∃ r, boundIn r ∧ exec p.instr s = s.traps 16 0 (w64 r.toNat)) ∧
          ((∀ r, ¬ boundIn r) → ∀ r, boundOut r → exec p.instr s = s.traps 16 0 (w64 r.toNat)) ∧
          ((∀ r, ¬ boundIn r) → (∀ r, ¬ boundOut r) →
            ((∃ r ∈ p.srcs, isPort r = true ∧ s.head (codeNo r) = none) ∨ (∃ r ∈ out, isPort r = true ∧ s.space (codeNo r) = false) →
              exec p.instr s = s.parks .port) ∧
            (p.data = true → (∀ r ∈ p.srcs, isPort r = true → (s.head (codeNo r)).isSome = true) →
              (∀ r ∈ out, isPort r = true → s.space (codeNo r) = true) →
              ∀ r, other r → (∀ r', other r' → r.toNat ≤ r'.toNat) → exec p.instr s = s.traps 15 0 (w64 r.toNat)))))

/-- R41, R74, R83, R85, R92, R93, R95, R171, R253: where the token instructions of groups 0x10 to 0x17, `pushm`, `popm`, `trap`, `bkpt`
and `eret` complete. A token instruction whose g operands are ready and that may fire consumes each head it names once (`v.peek` none),
has a result on its way to its destination, and goes on to the next word; `pushm` and `popm` go on with SSP.PTR moved; `trap` and `bkpt`
raise their trap; `eret`, with a trap held, readies the task. -/
def Obligations.TokenStackAndTrapWordsComplete : Prop :=
  ∀ (s : State),
    (∀ (d a b c g : BitVec 4) (k : Option (BitVec 2)) (e f : EType) (m : BitVec 2) (n : BitVec 3) (l : BitVec 4) (x : Bool)
      (q : BitVec 3) (mode : BitMode) (kind : TokKind) (pl : Plane) (fd : RecField),
      ∀ p ∈ tokenForms d a b c g k e f m n l x q mode kind pl fd,
        p.instr.wellFormed = true → p.fires s → p.issued s (exec p.instr s)) ∧
    (∀ (d a : BitVec 4) (w : Bool) (f : RFile), (Instr.pushm d a w f).wellFormed = true →
      let size := (a.toNat - d.toNat + 1) * slotBytes f
      let new := bfld s.cur.ssp 18 3 * 8 - size
      (∀ r : BitVec 4, f = .g → d.toNat ≤ r.toNat → r.toNat ≤ a.toNat → (s.g r).st = .full) → (∀ r : BitVec 3, f = .w → s.wBusy r = false) →
      (∀ r : BitVec 2, f = .m → s.mBusy r = false) → s.clearOfAcq → s.clearOfRel → bfld s.cur.ssp 50 35 * 8 + size ≤ bfld s.cur.ssp 18 3 * 8 →
      s.spLd new size = true → s.spSt new size = true → (f = .w → new % 64 = 0) →
      ∃ u, exec (.pushm d a w f) s = (u.modCur fun z => { z with ssp := sspWith z.ssp new }).done ∧ OnlyTile s.ctx.tile s u) ∧
    (∀ (d a : BitVec 4) (f : RFile), (Instr.popm d a f).wellFormed = true →
      let size := (a.toNat - d.toNat + 1) * slotBytes f
      let p := bfld s.cur.ssp 18 3 * 8
      (∀ r : BitVec 4, f = .g → d.toNat ≤ r.toNat → r.toNat ≤ a.toNat → s.takes r) → (∀ r : BitVec 3, f = .w → s.wBusy r = false) →
      (∀ r : BitVec 2, f = .m → s.mBusy r = false) → s.clearOfAcq → s.spLd p size = true → (f = .w → p % 64 = 0) →
      (f ≠ .w → ∀ j < a.toNat - d.toNat + 1, s.spMarked (p + j * slotBytes f) (slotBytes f) = false) →
      ∃ u, exec (.popm d a f) s = (u.modCur fun z => { z with ssp := sspWith z.ssp (p + size) }).done ∧ OnlyTask s u) ∧
    (∀ c : BitVec 7, exec (.trap c) s = s.traps 12 0 (.ofNat 64 c.toNat)) ∧ exec .bkpt s = s.traps 13 0 0 ∧
    ∀ skip : Bool, bfld s.cur.tcause 7 0 ≠ 0 → ∃ pc, exec (.eret skip) s =
      .next (s.modCur fun z => { z with st := .ready, mark := none, tcause := 0, pc := pc })

/-- R176 to R179, R188: the floating-point instructions of groups 0x10, 0x11 and 0x14 work element by element: operands after
FLUSHIN, one exact value, one rounding, FLUSHOUT; a NaN from operands without NaN is an origin. When the origin is recorded is the
model's choice (log 5). -/
def Claims.FloatTokenWordsAreElementwise : Prop :=
  ∀ (s : State) (d a b c : BitVec 4) (k : Option (BitVec 2)) (e : EType),
    let acr := s.curLt.acr
    let f := fpOf e
    ∀ p ∈ ([(.vAdd d a b k e, [a, b], k, fun v => (v0 v).add (v1 v)), (.vSub d a b k e, [a, b], k, fun v => (v0 v).add (v1 v).flip),
        (.vMul d a b k e, [a, b], k, fun v => (v0 v).mul (v1 v)), (.vFma d a b c e, [a, b, c], none, fun v => ((v0 v).mul (v1 v)).add (v2 v)),
        (.vFms d a b c e, [a, b, c], none, fun v => ((v0 v).mul (v1 v)).add (v2 v).flip),
        (.vFnma d a b c e, [a, b, c], none, fun v => ((v0 v).mul (v1 v)).flip.add (v2 v)),
        (.vMin d a b k e, [a, b], k, fun v => (v0 v).minv (v1 v)), (.vMax d a b k e, [a, b], k, fun v => (v0 v).maxv (v1 v)),
        (.vClamp d a b c e, [a, b, c], none, fun v => ((v0 v).maxv (v1 v)).minv (v2 v))] :
        List (Instr × List (BitVec 4) × Option (BitVec 2) × (List FVal → FVal))),
      p.1.wellFormed = true → s.fires p.2.1 (some d) p.2.2.1.toList true →
      ∃ r o, exec p.1 s = s.emits p.2.1 d r o (16 * e.code + e.code) ∧
        let vals := fun (xs : List Nat) => xs.map fun x => f.val (f.flush (acrFi acr) x)
        let res := fun (xs : List Nat) => f.flush (acrFo acr) (f.round 0 0 false (p.2.2.2 (vals xs)))
        Elementwise (etWidth e) (p.2.1.map s.tok) (s.maskOf p.2.2.1) (fun _ xs => res xs) r ∧
        OriginIs (etWidth e) (LiveIn (etWidth e) (p.2.1.map s.tok) (s.maskOf p.2.2.1))
          (fun j => let xs := p.2.1.map fun q => (s.tok q).elem (etWidth e) j
            f.isNan (res xs) = true ∧ ∀ v ∈ vals xs, v.isNan = false) r o

/-- R176, R177, R188: `v.scl` scales by the INT32 of tb's lane k every element of lane k; the special functions give the result of their
function on one operand, whose values between the special inputs are computed as the model chooses (log 12). A NaN from an operand that
is none is an origin; when it is recorded is the model's choice (log 5). -/
def Claims.ScaleAndSpecialFunctionWords : Prop :=
  ∀ (s : State) (d a b : BitVec 4) (k : Option (BitVec 2)) (e : EType),
    let acr := s.curLt.acr
    let f := fpOf e
    let w := etWidth e
    let val := fun (j : Nat) => f.val (f.flush (acrFi acr) ((s.tok a).elem w j))
    ((Instr.vScl d a b k e).wellFormed = true → s.fires [a, b] (some d) k.toList true →
      ∃ r o, exec (.vScl d a b k e) s = s.emits [a, b] d r o (16 * e.code + e.code) ∧
        let res := fun (j : Nat) => f.flush (acrFo acr) (f.round 0 0 false ((val j).scale (sgn 32 ((s.tok b).lane (j * w / 32)))))
        Elementwise w [s.tok a, s.tok b] (s.maskOf k) (fun j _ => res j) r ∧
        OriginIs w (LiveIn w [s.tok a, s.tok b] (s.maskOf k)) (fun j => f.isNan (res j) = true ∧ (val j).isNan = false) r o) ∧
    ∀ p ∈ ([(.vRcp d a k e, .rcp), (.vRsq d a k e, .rsq), (.vExp2 d a k e, .exp2), (.vLog2 d a k e, .log2), (.vTanh d a k e, .tanh),
        (.vErf d a k e, .erf)] : List (Instr × SpecFn)),
      p.1.wellFormed = true → s.fires [a] (some d) k.toList true →
      ∃ r o, exec p.1 s = s.emits [a] d r o (16 * e.code + e.code) ∧
        let res := fun (j : Nat) => f.flush (acrFo acr) (p.2.result f (val j))
        Elementwise w [s.tok a] (s.maskOf k) (fun j _ => res j) r ∧
        OriginIs w (LiveIn w [s.tok a] (s.maskOf k)) (fun j => f.isNan (res j) = true ∧ (val j).isNan = false) r o

/-- R163, R188, R189: the special functions at the special inputs, and where R188 gives an exact value: infinities, zeros, numbers below
zero and NaN give the entry of R189's table, `v.rcp` of a power of two the exact reciprocal where the format holds it, `v.log2` of 1 is +0
and `v.exp2` of an integer is the power of two. -/
def Claims.SpecialInputsFollowTheTable : Prop :=
  ∀ f ∈ [fF32, fBF16, fF16], ∀ (neg : Bool) (n : Nat) (e : Int),
    let zero := fun (s : Bool) => f.round 0 0 false (.fin s 0 0)
    let one := fun (s : Bool) => f.round 0 0 false (.fin s 1 0)
    let inf := fun (s : Bool) => f.round 0 0 false (.inf s)
    let nan := f.round 0 0 false .nan
    (∀ o : SpecFn, o.result f .nan = nan) ∧ f.isNan nan = true ∧
    SpecFn.rcp.result f (.inf true) = zero true ∧ SpecFn.rsq.result f (.inf true) = nan ∧ SpecFn.exp2.result f (.inf true) = zero false ∧
    SpecFn.log2.result f (.inf true) = nan ∧ SpecFn.tanh.result f (.inf true) = one true ∧ SpecFn.erf.result f (.inf true) = one true ∧
    SpecFn.rcp.result f (.inf false) = zero false ∧ SpecFn.rsq.result f (.inf false) = zero false ∧
    SpecFn.exp2.result f (.inf false) = inf false ∧ SpecFn.log2.result f (.inf false) = inf false ∧
    SpecFn.tanh.result f (.inf false) = one false ∧ SpecFn.erf.result f (.inf false) = one false ∧
    SpecFn.rcp.result f (.fin neg 0 e) = inf neg ∧ SpecFn.rsq.result f (.fin neg 0 e) = inf neg ∧
    SpecFn.exp2.result f (.fin neg 0 e) = one false ∧ SpecFn.log2.result f (.fin neg 0 e) = inf true ∧
    SpecFn.tanh.result f (.fin neg 0 e) = zero neg ∧ SpecFn.erf.result f (.fin neg 0 e) = zero neg ∧
    (n ≠ 0 → SpecFn.rsq.result f (.fin true n e) = nan ∧ SpecFn.log2.result f (.fin true n e) = nan) ∧
    SpecFn.log2.result f (.fin false 1 0) = zero false ∧
    (∀ k : Int, -14 ≤ k → k ≤ 14 → SpecFn.rcp.result f (.fin neg 1 k) = f.round 0 0 false (.fin neg 1 (-k))) ∧
    ∀ k : Nat, 0 < k → k < 12 → SpecFn.exp2.result f (.fin false k 0) = f.round 0 0 false (.fin false 1 k) ∧
      SpecFn.exp2.result f (.fin true k 0) = f.round 0 0 false (.fin false 1 (-(k : Int)))

/-- R178 to R180: the instructions that move, test or combine bits give their table's element, never an origin of a NaN: `v.abs`,
`v.neg`, the compares, `v.sel` and the integer operations on two's complement elements of W bits. -/
def Obligations.BitTokenWordsAreElementwise : Prop :=
  ∀ (s : State) (d a b c : BitVec 4) (k : Option (BitVec 2)) (e : EType),
    let w := etWidth e
    let f := fpOf e
    let v := fun x => f.val (f.flush (acrFi s.curLt.acr) x)
    let ones := fun (q : Bool) => if q then 2 ^ w - 1 else 0
    let sat := fun (x : Int) => unsgn w (max (-(2 ^ (w - 1) : Int)) (min x (2 ^ (w - 1) - 1)))
    let two := fun (g : Nat → Nat → Nat) (xs : List Nat) => g (xs.getD 0 0) (xs.getD 1 0)
    ∀ p ∈ ([(.vAbs d a k e, [a], k, fun xs => xs.headD 0 % 2 ^ (w - 1)), (.vNeg d a k e, [a], k, fun xs => xs.headD 0 ^^^ 2 ^ (w - 1)),
        (.vCeq d a b k e, [a, b], k, two fun x y => ones ((v x).eq (v y))), (.vCne d a b k e, [a, b], k, two fun x y => ones (!(v x).eq (v y))),
        (.vClt d a b k e, [a, b], k, two fun x y => ones ((v x).lt (v y))),
        (.vCle d a b k e, [a, b], k, two fun x y => ones ((v x).lt (v y) || (v x).eq (v y))),
        (.vCun d a b k e, [a, b], k, two fun x y => ones ((v x).isNan || (v y).isNan)),
        (.vSel d a b c e, [a, b, c], none, fun xs => if xs.getD 2 0 = 0 then xs.getD 1 0 else xs.getD 0 0),
        (.vIadd d a b k e, [a, b], k, two fun x y => x + y), (.vIsub d a b k e, [a, b], k, two fun x y => unsgn w ((x : Int) - y)),
        (.vImul d a b k e, [a, b], k, two fun x y => x * y), (.vAnd d a b k e, [a, b], k, two fun x y => x &&& y),
        (.vOr d a b k e, [a, b], k, two fun x y => x ||| y), (.vXor d a b k e, [a, b], k, two fun x y => x ^^^ y),
        (.vShl d a b k e, [a, b], k, two fun x y => x <<< (y % w)), (.vShr d a b k e, [a, b], k, two fun x y => x >>> (y % w)),
        (.vSra d a b k e, [a, b], k, two fun x y => unsgn w (sgn w x / 2 ^ (y % w))),
        (.vImin d a b k e, [a, b], k, two fun x y => if sgn w x ≤ sgn w y then x else y),
        (.vImax d a b k e, [a, b], k, two fun x y => if sgn w x ≤ sgn w y then y else x),
        (.vAdds d a b k e, [a, b], k, two fun x y => sat (sgn w x + sgn w y)), (.vSubs d a b k e, [a, b], k, two fun x y => sat (sgn w x - sgn w y)),
        (.vIeq d a b k e, [a, b], k, two fun x y => ones (x == y)), (.vIlt d a b k e, [a, b], k, two fun x y => ones (sgn w x < sgn w y)),
        (.vIltu d a b k e, [a, b], k, two fun x y => ones (x < y))] :
        List (Instr × List (BitVec 4) × Option (BitVec 2) × (List Nat → Nat))),
      p.1.wellFormed = true → s.fires p.2.1 (some d) p.2.2.1.toList true →
      ∃ r, exec p.1 s = s.emits p.2.1 d r none 0 ∧
        Elementwise w (p.2.1.map s.tok) (s.maskOf p.2.2.1) (fun _ xs => p.2.2.2 xs) r

/-- R154: rounding leaves a value that the format holds as it is, in every mode. -/
def Claims.RoundingKeepsRepresentableValues : Prop :=
  ∀ f ∈ [fF32, fBF16, fF16, fE4M3, fE5M2], ∀ (x mode rnd : Nat) (sat : Bool), x < 2 ^ f.w → f.isNan x = false → mode < 5 → rnd < 2 ^ 32 →
    (sat = true → f.val x ≠ .inf true ∧ f.val x ≠ .inf false) → f.round mode rnd sat (f.val x) = x

/-- R156, R181 to R183: `v.cvt` and `v.cvt.sr` convert element by element, from the part named where the result has fewer elements;
a result lane is valid where one of its elements is, whatever lies beyond the source's count; a NaN from an element that is none is an
origin; when it is recorded is the model's choice (log 5). -/
def Claims.ConvertWords : Prop :=
  ∀ (s : State) (d a b : BitVec 4) (f e : EType) (sat : Bool) (m : BitVec 3),
    let acr := s.curLt.acr
    let x := s.tok a
    let result := fun (first count mode : Nat) (sat : Bool) (rnd : Nat → Nat) (r : Token) (o : Option Nat) =>
      let live := fun j => j < count ∧ LiveIn (etWidth f) [x] 0xFFFF (first + j)
      let res := fun j => convert f e mode (rnd j) sat (acrFi acr) (acrFo acr) (x.elem (etWidth f) (first + j))
      Assembled (etWidth e) live (fun j => PoisIn (etWidth f) [x] (first + j)) res x.tag r ∧
      OriginIs (etWidth e) live (fun j => convertNan f e (x.elem (etWidth f) (first + j)) (res j) = true) r o
    ((Instr.vCvt d a f sat m e).wellFormed = true → s.fires [a] (some d) [] true →
      ∃ r o, exec (.vCvt d a f sat m e) s = s.emits [a] d r o (16 * e.code + f.code) ∧
        (512 / etWidth f ≤ 512 / etWidth e → result 0 (512 / etWidth f) m.toNat sat (fun _ => 0) r o) ∧
        (512 / etWidth e < 512 / etWidth f → result (m.toNat * (512 / etWidth e)) (512 / etWidth e) 0 false (fun _ => 0) r o)) ∧
    ((Instr.vCvtSr d a b sat f e).wellFormed = true → s.fires [a, b] (some d) [] true →
      ∃ r o, exec (.vCvtSr d a b sat f e) s = s.emits [a, b] d r o (16 * e.code + f.code) ∧
        result 0 (512 / etWidth f) 4 sat
          (fun j => (BitVec.ofNat 32 ((s.tok b).lane (j % 16))).rotateLeft (8 * (j / 16)) |>.toNat) r o)

/-- R184: `v.pack` takes half of each element of two tokens, the high half of FP pairs; `v.unpk.lo` and `v.unpk.hi` widen half of a
token's elements; the mask selects result lanes. -/
def Claims.PackAndUnpackWords : Prop :=
  ∀ (s : State) (d a b : BitVec 4) (k : Option (BitVec 2)) (e : EType),
    let w := etWidth e
    let kept := fun (v j : Nat) => (s.maskOf k).getLsbD (j * v / 32) = true
    let src := fun (j : Nat) => if j < 256 / w then (s.tok a, j) else (s.tok b, j - 256 / w)
    ((Instr.vPack d a b k e).wellFormed = true → s.fires [a, b] (some d) k.toList true →
      ∃ r, exec (.vPack d a b k e) s = s.emits [a, b] d r none 0 ∧
        Assembled w (fun j => LiveIn (2 * w) [(src j).1] 0xFFFF (src j).2 ∧ kept w j) (fun j => PoisIn (2 * w) [(src j).1] (src j).2)
          (fun j => if e = .bf16 ∨ e = .e5m2 then (src j).1.elem (2 * w) (src j).2 / 2 ^ w else (src j).1.elem (2 * w) (src j).2)
          (s.tok a).tag r) ∧
    ∀ p ∈ ([(.vUnpkLo d a k e, 0), (.vUnpkHi d a k e, 256 / w)] : List (Instr × Nat)),
      p.1.wellFormed = true → s.fires [a] (some d) k.toList true →
      ∃ r, exec p.1 s = s.emits [a] d r none 0 ∧
        Assembled (2 * w) (fun j => LiveIn w [s.tok a] 0xFFFF (p.2 + j) ∧ kept (2 * w) j) (fun j => PoisIn w [s.tok a] (p.2 + j))
          (fun j => if e = .bf16 ∨ e = .e5m2 then (s.tok a).elem w (p.2 + j) * 2 ^ w else unsgn (2 * w) (sgn w ((s.tok a).elem w (p.2 + j))))
          (s.tok a).tag r

/-- R161, R162, R185, R186: `v.qblk` gives 32 quantised bytes and their scale code in byte 32 of a token with nine valid lanes, all
poisoned if a present element is; an unpoisoned block's lowest NaN from values without NaN is an origin, recorded when the model chooses
(log 5); `v.dqblk` gives each element its value under the code, and nothing without lane 8; that it is no origin of a NaN is the model's
choice (log 58). -/
def Claims.BlockQuantisationWords : Prop :=
  ∀ (s : State) (d a : BitVec 4) (b : Option (BitVec 4)) (m : BitVec 3) (p : Bool) (q e : EType),
    let acr := s.curLt.acr
    ((Instr.vQblk d a b m e).wellFormed = true → s.fires (a :: b.toList) (some d) [] true →
      let st : EType := if b.isSome then .f32 else .bf16
      let w := etWidth st
      let src := fun (j : Nat) => if 512 / w ≤ j then (s.tok (b.getD 0), j - 512 / w) else (s.tok a, j)
      let here := fun (j : Nat) => LiveIn w [(src j).1] 0xFFFF (src j).2
      let v := fun (j : Nat) => etVal st (acrFi acr) ((src j).1.elem w (src j).2)
      ∃ r o, exec (.vQblk d a b m e) s = s.emits (a :: b.toList) d r o (16 * e.code + st.code) ∧ r.tag = (s.tok a).tag ∧ r.kind = .data ∧
        ((∀ j < 32, ¬ here j) → r.valid = 0 ∧ r.poison = 0 ∧ r.data = 0 ∧ o = none) ∧
        ((∃ j < 32, here j) → ∃ vs : List FVal, (∀ x, x ∈ vs ↔ ∃ j < 32, here j ∧ v j = x) ∧
          let f := quantBlock e m.toNat (acrFo acr) vs
          r.valid = 0x1FF ∧ r.elem 8 32 = f.1 ∧ (∀ j < 64, 32 < j → r.elem 8 j = 0) ∧
          (∀ j < 32, (here j → r.elem 8 j = (f.2 (v j)).1 % 256) ∧ (¬ here j → r.elem 8 j = 0)) ∧
          let nan := fun (j : Nat) => here j ∧ (f.2 (v j)).2 = true
          ((∃ j < 32, here j ∧ PoisIn w [(src j).1] (src j).2) → r.poison = 0x1FF ∧ o = none) ∧
          ((¬ ∃ j < 32, here j ∧ PoisIn w [(src j).1] (src j).2) → r.poison = 0 ∧
            (match o with | none => ∀ j < 32, ¬ nan j | some n => n < 32 ∧ nan n ∧ ∀ j < n, ¬ nan j)))) ∧
    ((Instr.vDqblk d a p q e).wellFormed = true → s.fires [a] (some d) [] true →
      let x := s.tok a
      let w := etWidth e
      let at_ := fun (j : Nat) => (if p then 16 else 0) + j
      ∃ r, exec (.vDqblk d a p q e) s = s.emits [a] d r none (16 * e.code + q.code) ∧
        (x.val 8 = false → r = { data := 0, valid := 0, poison := 0, tag := x.tag, kind := .data }) ∧
        (x.val 8 = true → Assembled w (fun _ => True) (fun j => (x.val (at_ j / 4) = true ∧ x.pois (at_ j / 4) = true) ∨ x.pois 8 = true)
          (fun j => if x.val (at_ j / 4) = true then dequant q e (acrFi acr) (acrFo acr) (x.lane 8 % 256) (x.elem 8 (at_ j)) else 0) x.tag r))

/-- R165, R190: the reductions join the live elements by the pairwise tree, to lane 0 of a token (invalid where no element is live,
poisoned where a live one is) or, for `v.rsum.g`, to a g register that stands pending until the delivery. A floating-point root that is
NaN over leaves that are not, with no live lane poisoned, is an origin at lane 0; when it is recorded is the model's choice (log 5). -/
def Claims.ReductionWords : Prop :=
  ∀ (s : State) (d a : BitVec 4) (k : Option (BitVec 2)) (e : EType),
    let x := s.tok a
    let pz := ∃ j < 16, x.val j = true ∧ (s.maskOf k).getLsbD j = true ∧ x.pois j = true
    let rt : EType := if (etFmt e).isSome then .f32 else .i32
    let fp := (etFmt e).isSome = true
    let fresh := fun (root : Option Nat) => fp ∧ (∃ v, root = some v ∧ fF32.isNan v = true) ∧ ¬ pz ∧
      ∀ j < 512 / etWidth e, LiveIn (etWidth e) [x] (s.maskOf k) j → fF32.isNan (leafOf e s.curLt.acr (x.elem (etWidth e) j)) = false
    (∀ p ∈ ([(.vRsum d a k e, .sum), (.vRmax d a k e, .max), (.vRmin d a k e, .min)] : List (Instr × RedFn)),
      p.1.wellFormed = true → s.fires [a] (some d) k.toList true →
      ∃ r o, exec p.1 s = s.emits [a] d r o (16 * rt.code + e.code) ∧ r.tag = x.tag ∧ r.kind = .data ∧
        (fresh (reduce p.2 e s.curLt.acr (s.maskOf k) x).1 → o = some 0) ∧ (¬ fresh (reduce p.2 e s.curLt.acr (s.maskOf k) x).1 → o = none) ∧
        match (reduce p.2 e s.curLt.acr (s.maskOf k) x).1 with
        | none => r.valid = 0 ∧ r.poison = 0 ∧ r.data = 0
        | some v => r.valid = 1 ∧ r.data.toNat = v % 2 ^ 512 ∧ (pz → r.poison = 1) ∧ (¬ pz → r.poison = 0)) ∧
    ((Instr.vRsumG d a k e).wellFormed = true → s.takes d → s.fires [a] none k.toList true →
      ∃ (v : DWord) (q : Option (BitVec 4)) (o : Option Nat), exec (.vRsumG d a k e) s =
        (((s.popAll (portsOf [a])).emitG d v q).nanOpt o (16 * rt.code + e.code) s.cur.pc).done ∧
        (fresh (reduce .sum e s.curLt.acr (s.maskOf k) x).1 → o = some 0) ∧ (¬ fresh (reduce .sum e s.curLt.acr (s.maskOf k) x).1 → o = none) ∧
        (q.isSome = true ↔ pz) ∧
        (∀ l, q = some l → x.pois l.toNat = true ∧ x.val l.toNat = true ∧ (s.maskOf k).getLsbD l.toNat = true ∧
          ∀ j < l.toNat, ¬ (x.val j = true ∧ (s.maskOf k).getLsbD j = true ∧ x.pois j = true)) ∧
        match (reduce .sum e s.curLt.acr (s.maskOf k) x).1 with
        | none => v = 0
        | some y => v = if (etFmt e).isSome then .ofNat 64 y else .ofInt 64 (sgn 32 y))

/-- R165, R190: a reduction's value is the pairwise tree over the token's elements in order: a live one widened exactly to FP32 after
FLUSHIN, or sign-extended to INT32, the others absent; a floating-point node is the exact value of its children after FLUSHIN, rounded once
and flushed. -/
def Claims.ReductionsAreTheTreeOfTheirLeaves : Prop :=
  ∀ (op : RedFn) (e : EType) (acr : BitVec 4) (m : BitVec 16) (x : Token),
    (∃ l : List (Option Nat), l.length = 64 ∧ (reduce op e acr m x).1 = tree (op.node (etFmt e).isSome acr) 6 l ∧
      ∀ j < 64, (j < 512 / etWidth e → LiveIn (etWidth e) [x] m j → l[j]? = some (some (leafOf e acr (x.elem (etWidth e) j)))) ∧
        ((512 / etWidth e ≤ j ∨ ¬ LiveIn (etWidth e) [x] m j) → l[j]? = some none)) ∧
    (∀ f y, etFmt e = some f → y < 2 ^ f.w → leafOf e acr y = fF32.round 0 0 false (f.val (f.flush (acrFi acr) y))) ∧
    (∀ y, etFmt e = none → leafOf e acr y = unsgn 32 (sgn (etWidth e) y)) ∧
    ∀ (y z : Nat),
      let val := fun (v : Nat) => fF32.val (fF32.flush (acrFi acr) v)
      let out := fun (v : FVal) => fF32.flush (acrFo acr) (fF32.round 0 0 false v)
      RedFn.sum.node true acr y z = out ((val y).add (val z)) ∧ RedFn.max.node true acr y z = out ((val y).maxv (val z)) ∧
      RedFn.min.node true acr y z = out ((val y).minv (val z)) ∧
      RedFn.max.node false acr y z = (if sgn 32 y < sgn 32 z then z else y) ∧ RedFn.min.node false acr y z = (if sgn 32 z < sgn 32 y then z else y)

/-- R165: the tree's nodes. Leaves 2j and 2j + 1 meet, and an absent child passes the other on, so no absent leaf counts. -/
def Claims.ReductionTreePairsNeighbours : Prop :=
  (∀ (f : Nat → Nat → Nat) (l : List (Option Nat)) (j : Nat), l.length % 2 = 0 → 2 * j + 1 < l.length →
    (treeLevel f l).length = l.length / 2 ∧
    (treeLevel f l)[j]? = some (match l[2 * j]?.join, l[2 * j + 1]?.join with
      | some x, some y => some (f x y) | some x, none => some x | none, y => y)) ∧
  ∀ (x y : Nat) (l : List (Option Nat)) (k : Nat), l.length = 2 ^ k →
    (RedFn.sum.node false 0 x y = (x + y) % 2 ^ 32) ∧
    tree (RedFn.sum.node false 0) k (l.map fun z => z.map (· % 2 ^ 32)) =
      if l.all (·.isNone) then none else some ((l.map fun z => z.getD 0).sum % 2 ^ 32)

/-- R166, R191, R192: `v.scan` leaves each live element the sum of the live ones up to it (INT32; FP32 by the same order of adds);
`v.perm`, `v.bcast` and `v.rot` move lanes with their validity and poison. When an origin of FP32 `v.scan` is recorded is the model's
choice (log 5). -/
def Claims.ScanAndPermuteWords : Prop :=
  ∀ (s : State) (d a b l : BitVec 4) (k : Option (BitVec 2)),
    let x := s.tok a
    let moved := fun (from_ : Nat → Nat) (ok pz : Nat → Prop) (r : Token) => r.tag = x.tag ∧ r.kind = .data ∧ ∀ j < 16,
      (r.val j = true ↔ x.val (from_ j) = true ∧ ok j) ∧ (r.val j = true → r.lane j = x.lane (from_ j)) ∧ (r.val j = false → r.lane j = 0) ∧
      (r.pois j = true ↔ r.val j = true ∧ (x.pois (from_ j) = true ∨ pz j))
    (s.fires [a] (some d) k.toList true →
      (∃ r, exec (.vScan d a k .i32) s = s.emits [a] d r none (16 * EType.i32.code + EType.i32.code) ∧
        Assembled 32 (LiveIn 32 [x] (s.maskOf k)) (fun j => ∃ i ≤ j, LiveIn 32 [x] (s.maskOf k) i ∧ x.pois i = true)
          (fun j => (((List.range (j + 1)).filter fun i => x.val i && (s.maskOf k).getLsbD i).map x.lane).sum) x.tag r) ∧
      let acr := s.curLt.acr
      let run := fun (n : Nat) => match ((List.range n).filter fun i => x.val i && (s.maskOf k).getLsbD i).map x.lane with
        | [] => (none : Option Nat)
        | y :: ys => some (ys.foldl (fun p q => (fpEl fF32 acr (fun v => (v0 v).add (v1 v)) [p, q]).1)
            (convert .f32 .f32 0 0 false (acrFi acr) (acrFo acr) y))
      ∃ r o, exec (.vScan d a k .f32) s = s.emits [a] d r o (16 * EType.f32.code + EType.f32.code) ∧
        Assembled 32 (LiveIn 32 [x] (s.maskOf k)) (fun j => ∃ i ≤ j, LiveIn 32 [x] (s.maskOf k) i ∧ x.pois i = true)
          (fun j => (run (j + 1)).getD 0) x.tag r ∧
        OriginIs 32 (LiveIn 32 [x] (s.maskOf k)) (fun j => ∃ y, run j = some y ∧ fF32.isNan ((run (j + 1)).getD 0) = true ∧
          (fF32.val (fF32.flush (acrFi acr) y)).isNan = false ∧ (fF32.val (fF32.flush (acrFi acr) (x.lane j))).isNan = false) r o) ∧
    (s.fires [a, b] (some d) k.toList true → ∃ r, exec (.vPerm d a b k) s = s.emits [a, b] d r none 0 ∧
      moved (fun j => (s.tok b).lane j % 16) (fun j => (s.tok b).val j = true ∧ (s.maskOf k).getLsbD j = true)
        (fun j => (s.tok b).pois j = true) r) ∧
    (s.fires [a] (some d) [] true →
      (∃ r, exec (.vBcast d a l) s = s.emits [a] d r none 0 ∧ moved (fun _ => l.toNat) (fun _ => True) (fun _ => False) r) ∧
      ∃ r, exec (.vRot d a l) s = s.emits [a] d r none 0 ∧ moved (fun j => (j + l.toNat) % 16) (fun _ => True) (fun _ => False) r)

/-- R93, R194: the lane, tag and valid controls take heads of every kind and keep what they do not name. -/
def Claims.LaneTagAndValidControl : Prop :=
  ∀ (s : State) (d a g l : BitVec 4) (p q : BitVec 3) (k : Option (BitVec 2)) (m : BitVec 2) (mode : BitMode) (kind : TokKind) (y : DWord),
    let x := s.tok a
    let out := fun (i : Instr) (good : Token → Prop) => ∃ r, exec i s = s.emits [a] d r none 0 ∧ good r
    let toM := fun (i : Instr) (v : BitVec 16) => exec i s = ((s.popAll (portsOf [a])).emitM m v).done
    (s.fires [8 + p.setWidth 4] (some (q.setWidth 4)) [] false →
      exec (.vPeek q p) s = (s.emit (q.setWidth 4) (s.tok (8 + p.setWidth 4))).done) ∧
    (s.fires [a] (some d) k.toList false → out (.vMov d a k) fun r => r.tag = x.tag ∧ r.kind = x.kind ∧
      r.valid = x.valid &&& s.maskOf k ∧ r.poison = x.poison &&& s.maskOf k ∧
      ∀ j < 16, r.lane j = if (s.maskOf k).getLsbD j then x.lane j else 0) ∧
    (s.fires [a] (some d) [m] false →
      (out (.vSetv d a m mode) fun r => r = { x with valid := match mode with
        | .replace => s.m m | .combine => x.valid &&& s.m m | .andn => x.valid &&& ~~~ s.m m }) ∧
      out (.vSetp d a m mode) fun r => r = { x with poison := match mode with
        | .replace => s.m m | .combine => x.poison ||| s.m m | .andn => x.poison &&& ~~~ s.m m }) ∧
    (s.fires [a] none [m] false →
      toM (.vGetv m a false) x.valid ∧ toM (.vGetp m a) x.poison ∧
      ∃ v : BitVec 16, toM (.vGetv m a true) v ∧ ∀ j < 16, v.getLsbD j = (x.val j && x.lane j != 0)) ∧
    (s.full g y → s.fires [a] (some d) [] false →
      (out (.vSettag d a g) fun r => r = { x with tag := y.extractLsb' 0 6 }) ∧
      (out (.vIns d a g l) fun r => r.tag = x.tag ∧ r.kind = x.kind ∧ ∀ j < 16, r.lane j = (if j = l.toNat then y.toNat % 2 ^ 32 else x.lane j) ∧
        r.val j = (x.val j || decide (j = l.toNat)) ∧ r.pois j = (x.pois j && !decide (j = l.toNat)))) ∧
    (s.fires [a] (some d) [] false → out (.vMkc d a kind) fun r => r = { x with kind := kind }) ∧
    (s.full g y → s.fires [] (some d) [] false → ∃ r : Token, exec (.vSplat d g) s = s.emits [] d r none 0 ∧ r.valid = 0xFFFF ∧
      r.poison = 0 ∧ r.tag = 0 ∧ r.kind = .data ∧ ∀ j < 16, r.lane j = y.toNat % 2 ^ 32) ∧
    (s.takes d → s.fires [a] none [] false →
      (∃ v : DWord, exec (.vGettag d a) s = ((s.popAll (portsOf [a])).emitG d v none).done ∧
        bfld v 15 0 = x.valid.toNat ∧ bfld v 31 16 = x.poison.toNat ∧ bfld v 37 32 = x.tag.toNat ∧ bfld v 39 38 = kindCode x.kind ∧ bfld v 63 40 = 0) ∧
      exec (.vExt d a l) s = ((s.popAll (portsOf [a])).emitG d (if x.val l.toNat then .ofNat 64 (x.lane l.toNat) else 0)
        (if x.val l.toNat && x.pois l.toNat then some l else none)).done)

/-- R233, R236 to R243: the compressed-domain video instructions. A lane read that is not valid makes every result lane invalid, and
a poisoned one poisons every valid lane; the results are those of each rule. `v.erracc` that adds originates a NaN where its sum is one
and neither part is; when that is recorded is the model's choice (log 5). That the lanes which `v.erracc` and `v.refr` replace become valid
and unpoisoned, and that `v.warp` takes LOG2W by its number, is the model's choice too (log 45). -/
def Obligations.VideoWords : Prop :=
  ∀ (s : State) (d a b g : BitVec 4) (c t : Bool) (pl : Plane) (f : RecField) (y : DWord),
    let x := s.tok a
    let acr := s.curLt.acr
    let rule := fun (reads : List (Token × Nat)) (r : Token) =>
      ((∃ p ∈ reads, p.1.val p.2 = false) → r.valid = 0 ∧ r.poison = 0) ∧
      ((∀ p ∈ reads, p.1.val p.2 = true) → (∃ p ∈ reads, p.1.pois p.2 = true) → r.poison = r.valid)
    let ok := fun (reads : List (Token × Nat)) => ∀ p ∈ reads, p.1.val p.2 = true
    (s.fires [a, b] (some d) [] true →
      (let z := s.tok b
       let dc := 2 + 2 * planeCode pl
       let reads := ((List.range 16).map fun j => (x, j)) ++ [(z, dc + 1)] ++ (if c then [(z, dc)] else [])
       ∃ r, exec (.vDeq d a b c pl) s = s.emits [a, b] d r none 0 ∧ rule reads r ∧ (ok reads → r.valid = 0xFFFF ∧ ∀ j < 16,
          let st := z.lane (if c = true ∧ j = 0 then dc else dc + 1)
          let n : Int := sgn 16 (x.lane j) * fld st 15 0
          r.lane j = fF32.flush (acrFo acr) (fF32.round 0 0 false (.fin (decide (n < 0)) n.natAbs (fld st 21 16 - 32))) % 2 ^ 32)) ∧
      ∃ r o, exec (.vErracc d a b t) s = s.emits [a, b] d r o 0 ∧
        r.tag = x.tag ∧
        (recLog2w x = 0 → let reads := (x, 1) :: if t then [(s.tok b, 0)] else []
          rule reads r ∧ o = none ∧ (ok reads → r.data = x.data ∧ r.valid = x.valid)) ∧
        (recLog2w x ≠ 0 → t = false → let reads := [(x, 1), (x, 12)] ++ ((List.range 16).filter (s.tok b).val).map fun j => (s.tok b, j)
          let old := in32 acr (x.lane 12)
          let sum := fF32.val (magSum acr (s.tok b))
          let new := rnd32 acr (old.add sum)
          rule reads r ∧ (ok reads → r.lane 12 = new % 2 ^ 32 ∧ r.val 12 = true ∧ ∀ j < 16, j ≠ 12 → r.lane j = x.lane j ∧ r.val j = x.val j) ∧
          (o = some 48 ↔ fF32.isNan new = true ∧ old.isNan = false ∧ sum.isNan = false ∧ r.val 12 = true ∧ r.pois 12 = false) ∧
          (o = none ∨ o = some 48)) ∧
        (recLog2w x ≠ 0 → t = true → o = none ∧ ∀ q, s.region s.curLt.key = some q → r = errFin acr q.alpha q.beta q.bound x (s.tok b))) ∧
    (s.full g y → s.fires [a] (some d) [] true →
      let slot := if t then 1 else 0
      let none_ := recLog2w x = 0 ∨ recMode x = 0 ∨ recMode x = 3 ∨ (t = true ∧ recBi x = false) ∨ recFw x = 0 ∨ recFh x = 0 ∨ vecMiss x slot = true
      let reads := [(x, 0), (x, 1), (x, 8 + slot), (x, 13)]
      ∃ r, exec (.vWarp d a g t) s = s.emits [a] d r none 0 ∧ rule reads r ∧ r.tag = x.tag ∧
        (ok reads → ∀ j < 16, let n := 16 * (y.toNat % 64) + j
          (r.val j = true ↔ ¬ none_ ∧ n < cellsOf x) ∧
          (r.val j = true → r.lane j = (let p := cellAt x slot n
            (max 0 (min p.2 (recFh x - 1))).toNat * recFw x + (max 0 (min p.1 (recFw x - 1))).toNat) % 2 ^ 32))) ∧
    (s.fires [a] (some d) [] true →
      (∃ r, exec (.vRefr d a) s = s.emits [a] d r none 0 ∧ rule [(x, 1)] r ∧ (ok [(x, 1)] →
        if recLog2w x ≠ 0 ∧ (recMode x = 1 ∨ recMode x = 2) then fld (r.lane 1) 9 8 = 3 ∧ fld (r.lane 1) 21 19 = 7 ∧ r.lane 11 = 0 ∧
            r.val 11 = true ∧ ∀ j < 16, j ≠ 1 → j ≠ 11 → r.lane j = x.lane j
          else r.data = x.data ∧ r.valid = x.valid)) ∧
      ∃ r, exec (.vBfx d a f) s = s.emits [a] d r none 0 ∧ rule [(x, (fieldAt f).1)] r ∧ (ok [(x, (fieldAt f).1)] →
        let v := fld (x.lane (fieldAt f).1) (fieldAt f).2.1 (fieldAt f).2.2
        r.valid = 0xFFFF ∧ ∀ j < 16, r.lane j = if fieldSigned f then unsgn 32 (sgn 16 v) else v))

/-- R171, R174: the oldest result of a tile's pipeline reaches its register, or fills the slot it reserved; a delivery fills its g
register, and a poisoned one delivers zero and leaves the trap TOKEN_POISON for the task's next issue. That the oldest result of a tile
completes first is the model's choice (log 5). -/
def Claims.TokenResultsArrive : Prop :=
  ∀ (s : State) (t : Nat),
    (∀ (o : VOp) (l : List VOp), (s.tile t).vpipe = o :: l →
      let u := s.modTile t fun x => { x with vpipe := l }
      (∀ r, o.dst = .w r → exec (.tokenOpComplete t) s = .next (u.modTask t o.slot fun k => { k with w := vset k.w r.toNat o.tok })) ∧
      (∀ r, o.dst = .m r → exec (.tokenOpComplete t) s = .next (u.modTask t o.slot fun k => { k with m := vset k.m r.toNat o.mval })) ∧
      ∀ p, o.dst = .o p → exec (.tokenOpComplete t) s =
        .next ((u.fillOf t o.slot (s.task t o.slot).phase p o.tok).progressAt t (s.task t o.slot).phase)) ∧
    ∀ (n : Nat) (o : LLOp), (s.tile t).ll[n]? = some o →
      let u := s.modTile t fun x => { x with ll := x.ll.eraseIdx n }
      (o.pois = none → exec (.longLatencyDeliver t n) s = .next (u.deliver t o.slot o.d o.val)) ∧
      ∀ l, o.pois = some l → exec (.longLatencyDeliver t n) s = .next ((u.deliver t o.slot o.d 0).modTask t o.slot fun k =>
        { k with ptraps := k.ptraps ++ [⟨22, some o.pc, w64 l.toNat⟩] })

/-- R82, R160, R171: a token instruction that originates a NaN, under NANTRAP and with NANHIT clear, has its result written before NANHIT
is set, NTILE, NLANE, NFMT and NPC are loaded and its task takes NAN_FIRST before its next word; with NANTRAP clear or NANHIT set, or with
no origin, nothing is recorded. That its result is written at once, with those that precede it, and that a matrix instruction which issued
before it and has an origin goes first, is how the model brings this about (log 5). -/
def Claims.FirstNanIsRecorded : Prop :=
  ∀ (s : State) (l nfmt pc : Nat),
    let x := s.curLt
    let before := (s.tile s.ctx.tile).mq.filter fun i => i.acr.isSome && (s.task s.ctx.tile i.slot).phase == s.cur.phase
    s.nanOpt none nfmt pc = s ∧
    ((x.acr.getLsbD 2 = false ∨ x.acr.getLsbD 3 = true ∨ ∃ i ∈ before, i.prog.nan.isSome = true) → s.nanOpt (some l) nfmt pc = s) ∧
    (x.acr.getLsbD 2 = true → x.acr.getLsbD 3 = false → (∀ i ∈ before, i.prog.nan = none) →
      ((s.nanOpt (some l) nfmt pc).tile s.ctx.tile).vpipe = [] ∧
      ((s.tile s.ctx.tile).vpipe = [] → (s.tile s.ctx.tile).ll = [] → s.nanOpt (some l) nfmt pc =
        (s.modCurLt fun y => { y with
          acr := y.acr ||| 8, ntile := .ofNat 64 (x.lx.toNat + 256 * x.ly.toNat), nlane := .ofNat 64 l, nfmt := .ofNat 64 nfmt
          npc := .ofNat 64 (pc % 8192 + 8192 * s.cur.img.toNat), nanBy := before.map fun i => (i.seq, i.pos) }).modCur fun k =>
            { k with ptraps := k.ptraps ++ [⟨14, none, 0⟩] }))

/-! ## The matrix unit (R199 to R225) -/

/-- R199: an inline instruction of groups 0x18 to 0x1B whose registers are ready joins the unit's queue and parks its task; an idle
unit takes it up at once. -/
def Claims.InlineMatrixWordsGoThroughTheUnit : Prop :=
  ∀ (s : State) (c x : BitVec 4) (r : BitVec 2) (f : MatFmt) (sf : StatFmt) (k : Option (BitVec 2)) (w z l b : Bool) (t p : BitVec 3)
    (n : BitVec 5) (ip : Option (BitVec 3)) (d : BitVec 4),
    s.ctx.unit = .task → s.clearOfAcq → (s.g x).st = .full → s.takes d → (∀ q, s.mBusy q = false) → (∀ q, s.wBusy q = false) →
    let y := s.tile s.ctx.tile
    ∀ i ∈ ([.mMma c r f k, .mMmaz c r f k, .mRun c r f k x w z, .mGrp c r f k x w t p, .mDrain c (.g x w) l b, .mDrain c (.port p) l b,
        .mCopy c x, .mCopySt c x w, .mCopyLd c x w, .mLd sf (.g x w), .mLd sf (.port p), .mSwap, .mClr c, .rlDecl c n, .rlIns c x b x,
        .rlMerge c x, .rlThr c (.tok x d), .rlThr c (.g d x), .rlThr c (.flags d x), .rlOut c p w z ip, .rlClr c none, .rlClr c (some (x, w)),
        .ringSet r none, .ringSet r (some (x, w)), .ringHead r d, .ringTail r d, .ringPop r x w] : List Instr),
      let item : MItem := { slot := s.ctx.slot, seq := y.seq, run := false, pc := s.cur.pc, count := 1, pos := 0, instr := some i, acr := some s.curLt.acr }
      (y.mq ≠ [] → exec i s = .next (park (s.setTile s.ctx.tile { y with seq := y.seq + 1, mq := y.mq ++ [item] }) .matrix)) ∧
      (y.mq = [] → ∃ u : State, exec i { park (s.setTile s.ctx.tile
            { y with seq := y.seq + 1, mq := [item], matPh := s.cur.phase }) .matrix with ctx := { s.ctx with unit := .minl } } = .next u ∧
          exec i s = .next { u with ctx := s.ctx })

/-- R160, R205, R211, R212: `m.mma` and `m.mmaz` perform the swap marks due, take the entry at HEAD, write the product's sum tile and
pop the entry; `m.run` does the same for each of its count's entries, and nothing for a count of 0. The tile must be a sum tile unless
the sum starts from zero, or ACC_KIND; s.active must have B's type, or MAT_BTYPE. The lowest unpoisoned element that originates a NaN is
noted, and recorded as the instruction ends. Without an entry the unit waits. -/
def Claims.MatrixProductsTakeAnEntry : Prop :=
  ∀ (s e : State) (c x : BitVec 4) (r : BitVec 2) (f : MatFmt) (k : Option (BitVec 2)) (w z : Bool) (q : MProg),
    s.ownsAcc c → s.ownsRing r → (∀ m ∈ k, s.mBusy m = false) →
    let skip := match k with | none => 0 | some m => (s.m m).toNat
    let after := fun (v : State) (zero : Bool) =>
      let u := v.modMat (·.marks r)
      let l := product u f skip zero (u.acc c) (u.ring r) u.mat.act
      ((u.setAcc c (accOf l)).modRing r Ring.popEntry).noteNan ((l.zipIdx.find? fun (y, _) => y.nan && !y.pz).map (·.2))
    let ends := fun (v : State) => (v.tellNan (256 + f.code)).done
    (s.unitStarts →
      (¬ s.hasEntry r → exec (.mMma c r f k) s = s.parks .matrix ∧ exec (.mMmaz c r f k) s = s.parks .matrix) ∧
      (s.hasEntry r →
        let u := s.modMat (·.marks r)
        ((u.acc c).isSum = true → u.mat.act.ty = bType f → exec (.mMma c r f k) s = ends (after s false)) ∧
        (u.mat.act.ty = bType f → exec (.mMmaz c r f k) s = ends (after s true)) ∧
        ((u.acc c).isSum = false → exec (.mMma c r f k) s = u.traps 23 0 (w64 c.toNat)) ∧
        ((u.acc c).isSum = true → u.mat.act.ty ≠ bType f → exec (.mMma c r f k) s = u.traps 24 0 (w64 (statCode u.mat.act.ty))) ∧
        (u.mat.act.ty ≠ bType f → exec (.mMmaz c r f k) s = u.traps 24 0 (w64 (statCode u.mat.act.ty)))) ∧
      (s.full x 0 → exec (.mRun c r f k x w z) s = s.done)) ∧
    ((s.unitStarts ∧ (∃ n : DWord, n ≠ 0 ∧ s.full x n ∧ q = { stage := 1, count := n.toNat }) ∧ e = s.setProg q) ∨ (s.unitGoesOn q ∧ e = s) →
      (¬ s.hasEntry r → exec (.mRun c r f k x w z) s = e.parks .matrix) ∧
      (s.hasEntry r →
        let zero := z && q.n == 0
        let u := e.modMat (·.marks r)
        let v := after e zero
        (zero = false → (u.acc c).isSum = false → exec (.mRun c r f k x w z) s = (u.tellNan (256 + f.code)).traps 23 0 (w64 c.toNat)) ∧
        (zero = true ∨ (u.acc c).isSum = true →
          (u.mat.act.ty ≠ bType f → exec (.mRun c r f k x w z) s = (u.tellNan (256 + f.code)).traps 24 0 (w64 (statCode u.mat.act.ty))) ∧
          (u.mat.act.ty = bType f → q.n + 1 = q.count → exec (.mRun c r f k x w z) s = ends v) ∧
          (u.mat.act.ty = bType f → q.n + 1 ≠ q.count → exec (.mRun c r f k x w z) s = .next (v.setProg { v.mprog with n := q.n + 1 })))))

/-- R160, R210, R211: each of the 256 elements of a product is one sum of the incoming value and the products of the blocks not skipped,
rounded once to FP32, under the ACR that the instruction issued with; a row whose ROWV is false adds nothing; poison comes from the
incoming element and from marked words; a NaN from operands without NaN, elements of CB2 apart, is an origin. -/
def Claims.ProductElementsRoundOneSum : Prop :=
  ∀ (s : State) (f : MatFmt) (skip : Nat) (zero : Bool) (acc : Acc) (q : Ring) (b : Stat) (r c : Nat), r < 16 → c < 16 →
    let acr := s.macr
    let ea := q.addr q.head.toNat + 96 * r
    let blocks := (List.range 12).filter fun j => !skip.testBit j
    let ks := blocks.flatMap fun j => (List.range (kBlk f)).map fun i => kBlk f * j + i
    let live := q.rowv r = true ∧ blocks ≠ []
    let inc := if zero then 0 else acc.el (16 * r + c)
    let x := fF32.val (fF32.flush (acrFi acr) inc)
    ∃ e, (product s f skip zero acc q b)[16 * r + c]? = some e ∧
      (live → e.bits = fF32.flush (acrFo acr) (fF32.round 0 0 false (groupSum
        (x :: ks.map fun k => (aVal f (acrFi acr) (s.spN ea 96) k).mul (bVal f (acrFi acr) b k c))))) ∧
      (¬ live → e.bits = fF32.flush (acrFo acr) (fF32.round 0 0 false (groupSum [x]))) ∧
      (e.nan = true ↔ fF32.isNan e.bits = true ∧ x.isNan = false ∧ (live → ∀ k ∈ ks, (aVal f (acrFi acr) (s.spN ea 96) k).isNan = false ∧
        (bType f = .cb2 ∨ (bVal f (acrFi acr) b k c).isNan = false))) ∧
      (e.pz = true ↔ (zero = false ∧ acc.pz (16 * r + c) = true) ∨
        (live ∧ ∃ j ∈ blocks, s.spMarked (ea + 8 * j) 8 = true ∨ bMark f b j c = true))

/-- R164: the sum of a K group is exact where no term has a bit below the grid, 40 places under the leading bit of the largest;
a NaN, or infinities of both signs, give NaN. -/
def Claims.GroupSumIsExactOnItsGrid : Prop :=
  (∀ (terms : List (Bool × Nat × Int)) (top : Int), (∃ t ∈ terms, t.2.1 ≠ 0 ∧ (bitLen t.2.1 : Int) - 1 + t.2.2 = top) →
    (∀ t ∈ terms, t.2.1 ≠ 0 → (bitLen t.2.1 : Int) - 1 + t.2.2 ≤ top ∧ top - 40 ≤ t.2.2) →
    let v : Int := (terms.map fun t => (if t.1 then (-1 : Int) else 1) * ((t.2.1 * 2 ^ (t.2.2 - (top - 40)).toNat : Nat) : Int)).sum
    groupSum (terms.map fun t => .fin t.1 t.2.1 t.2.2) = .fin (decide (v < 0)) v.natAbs (top - 40)) ∧
  ∀ terms : List FVal, (.nan ∈ terms ∨ (.inf true ∈ terms ∧ .inf false ∈ terms)) → groupSum terms = .nan

/-- R208, R209, R216: the instructions that load, exchange, copy and clear matrix state in one turn, with their range, alignment and
marks. -/
def Claims.MatrixMovesInOneTurn : Prop :=
  ∀ (s : State) (c x y : BitVec 4) (f : StatFmt) (w : Bool) (a : DWord), s.unitStarts → s.ownsAcc c →
    let n := if f = .cb2 then 448 else 1536
    exec .mSwap s = (s.modMat fun m => { m with act := m.load, load := m.act }).done ∧
    exec (.mClr c) s = (s.setAcc c (.sum 0 0)).done ∧
    (s.ownsAcc y → exec (.mCopy c y) s = (s.setAcc c (s.acc y)).done) ∧
    (s.full x a →
      (s.spLd a.toNat n = false → exec (.mLd f (.g x w)) s = s.traps 5 0 a) ∧
      (s.spLd a.toNat n = true → a.toNat % 64 ≠ 0 → exec (.mLd f (.g x w)) s = s.traps 6 0 a) ∧
      (s.spLd a.toNat n = true → a.toNat % 64 = 0 → ∃ b : Stat, exec (.mLd f (.g x w)) s = (s.modMat fun m => { m with load := b }).done ∧
        b.ty = ldType f ∧
        (f ≠ .cb2 → b.bytes.toNat = s.spN a.toNat 1536 ∧ b.scale = s.mat.load.scale ∧
          ∀ j < 384, b.marks.getLsbD j = s.spMark (a.toNat + 4 * j)) ∧
        (f = .cb2 → b.bytes.toNat % 256 ^ 384 = s.spN a.toNat 384 ∧ b.scale.toNat % 256 ^ 48 = s.spN (a.toNat + 384) 48 ∧
          (∀ j < 96, b.marks.getLsbD j = s.spMark (a.toNat + 4 * j)) ∧ ∀ j < 12, b.marks.getLsbD (384 + j) = s.spMark (a.toNat + 384 + 4 * j))) ∧
      (s.spLd a.toNat 1024 = false → exec (.mCopyLd c x w) s = s.traps 5 0 a ∧
        ((s.acc c).isSum = true → exec (.mCopySt c x w) s = s.traps 5 0 a)) ∧
      (s.spLd a.toNat 1024 = true → a.toNat % 64 ≠ 0 → exec (.mCopyLd c x w) s = s.traps 6 0 a ∧
        ((s.acc c).isSum = true → exec (.mCopySt c x w) s = s.traps 6 0 a)) ∧
      (s.spLd a.toNat 1024 = true → a.toNat % 64 = 0 → s.spSt a.toNat 1024 = false → (s.acc c).isSum = true →
        exec (.mCopySt c x w) s = s.traps 5 0 a) ∧
      (s.spLd a.toNat 1024 = true → a.toNat % 64 = 0 →
        (∃ e p, exec (.mCopyLd c x w) s = (s.setAcc c (.sum e p)).done ∧ e.toNat = s.spN a.toNat 1024 ∧
          ∀ i < 256, p.getLsbD i = s.spMark (a.toNat + 4 * i)) ∧
        (∀ e p, s.acc c = .sum e p → s.spSt a.toNat 1024 = true → Tile.Canon (s.tile s.ctx.tile) → ∃ m l,
          exec (.mCopySt c x w) s = (s.modTile s.ctx.tile fun z => { z with spad := m, marks := l }).done ∧
          let at_ := s.spa a.toNat
          (∀ q, memGet m q = if at_ ≤ q ∧ q < at_ + 1024 then .ofNat 8 (e.toNat / 256 ^ (q - at_)) else s.spByte s.ctx.tile q) ∧
          ∀ q, setHas l q = if at_ ≤ q ∧ q < at_ + 1024 ∧ q % 4 = 0 then p.getLsbD ((q - at_) / 4) else setHas (s.tile s.ctx.tile).marks q) ∧
        ((s.acc c).isSum = false → exec (.mCopySt c x w) s = s.traps 23 0 (w64 c.toNat))))

/-- R208, R215, R158: what a token loads and what a drain sends. Byte b of token n of an `m.ld` is byte 64n + b of the operand, zero in an
invalid lane, and its poisoned lanes mark its words; the seventh token of a CB2 operand gives its 48 scale bytes and their marks alone. Token
n of a drain holds row n in its lanes, or, as BF16, rows 2n and 2n + 1 in its 32 elements, with each element's poison, every lane valid, tag
n. -/
def Claims.LoadedAndDrainedTokens : Prop :=
  (∀ (b : Stat) (ty : StatTy) (n : Nat) (x : Token), n < (if ty = .cb2 then 7 else 24) →
    let v := b.ldToken ty n x
    let byte := fun (i : Nat) => if x.val (i / 4) then x.lane (i / 4) / 256 ^ (i % 4) % 256 else 0
    (¬ (ty = .cb2 ∧ n = 6) → v.scale = b.scale ∧
      (∀ i < 1536, v.bytes.toNat / 256 ^ i % 256 = if 64 * n ≤ i ∧ i < 64 * n + 64 then byte (i - 64 * n) else b.bytes.toNat / 256 ^ i % 256) ∧
      ∀ j < 400, v.marks.getLsbD j = if 16 * n ≤ j ∧ j < 16 * n + 16 then x.pois (j - 16 * n) else b.marks.getLsbD j) ∧
    (ty = .cb2 → n = 6 → v.bytes = b.bytes ∧ (∀ i < 48, v.scale.toNat / 256 ^ i % 256 = byte i) ∧
      ∀ j < 400, v.marks.getLsbD j = if 384 ≤ j ∧ j < 396 then x.pois (j - 384) else b.marks.getLsbD j)) ∧
  ∀ (a : Acc) (acr : BitVec 4) (n : Nat),
    let r := drainTok a acr false n
    let h := drainTok a acr true n
    let half := fun (i : Nat) => fBF16.flush (acrFo acr) (fBF16.round 0 0 false (fF32.val (fF32.flush (acrFi acr) (a.el (32 * n + i)))))
    (r.valid = 0xFFFF ∧ h.valid = 0xFFFF ∧ r.tag = .ofNat 6 n ∧ h.tag = .ofNat 6 n ∧ r.kind = .data ∧ h.kind = .data) ∧
    ∀ c < 16, r.lane c = a.el (16 * n + c) ∧ r.pois c = a.pz (16 * n + c) ∧
      h.lane c = (half (2 * c) + 2 ^ 16 * half (2 * c + 1)) % 2 ^ 32 ∧ h.pois c = (a.pz (32 * n + 2 * c) || a.pz (32 * n + 2 * c + 1))

/-- R95, R208, R215: the instructions that take or give one token a turn. `m.ld` from a port checks its binding as it begins, takes its
next token and loads the operand, with its type, when the last has come, or what has come, without a type, where a head that is no data
traps (the model holds the tokens until then, log 56); `m.drain` checks its tile, route and binding as it begins, the route being the
one its register or its head's lane 0 names, consumes that head, pushes its next token, and ends with the last, clearing the tile if
asked. Each waits for a head or a free slot. -/
def Claims.MatrixTokensTurnByTurn : Prop :=
  ∀ (s : State) (c x : BitVec 4) (p : BitVec 3) (f : StatFmt) (w l b : Bool) (y : Token) (q : MProg) (a : DWord),
    let n := if f = .cb2 then 7 else 24
    (s.unitStarts → s.bound false p = true → exec (.mLd f (.port p)) s = s.traps 16 0 (w64 (8 + p.toNat))) ∧
    ((s.unitStarts ∧ q = {} ∧ s.bound false p = false) ∨ s.unitGoesOn q →
      (s.head p = none → exec (.mLd f (.port p)) s = s.begun.parks .port) ∧
      (s.head p = some y → y.kind ≠ .data →
        (q.held = [] → exec (.mLd f (.port p)) s = s.begun.traps 15 0 (w64 (8 + p.toNat))) ∧
        (q.held ≠ [] → exec (.mLd f (.port p)) s =
          (s.modMat fun m => { m with load := m.load.ldTokens (ldType f) q.held }).traps 15 0 (w64 (8 + p.toNat)))) ∧
      (s.head p = some y → y.kind = .data →
        let l := q.held ++ [y]
        (l.length ≠ n → exec (.mLd f (.port p)) s = .next ((s.pop p).setProg { stage := 1, n := l.length, held := l })) ∧
        (l.length = n → exec (.mLd f (.port p)) s = ((s.pop p).modMat fun m => { m with load := m.load.ldTokens (ldType f) l }).done))) ∧
    (∀ (v : Stat) (ty : StatTy) (l : List Token),
      v.ldTokens ty (l ++ [y]) = { (v.ldTokens ty l).ldToken ty l.length y with
        ty := if l.length + 1 = (if ty = .cb2 then 7 else 24) then ty else .none } ∧ v.ldTokens ty [] = { v with ty := .none }) ∧
    (s.unitStarts → s.ownsAcc c →
      ((s.acc c).isSum = false → exec (.mDrain c (.port p) l b) s = s.traps 23 0 (w64 c.toNat) ∧
        (s.full x a → exec (.mDrain c (.g x w) l b) s = s.traps 23 0 (w64 c.toNat))) ∧
      ((s.acc c).isSum = true →
        (s.bound false p = true → exec (.mDrain c (.port p) l b) s = s.traps 16 0 (w64 (8 + p.toNat))) ∧
        (s.bound false p = false → s.head p = none → exec (.mDrain c (.port p) l b) s = s.parks .port) ∧
        (s.bound false p = false → s.head p = some y → y.kind ≠ .data → exec (.mDrain c (.port p) l b) s = s.traps 15 0 (w64 (8 + p.toNat))) ∧
        ∀ d ∈ ([(.g x w, a.toNat % 8, s, s.full x a), (.port p, y.lane 0 % 8, s.pop p, s.dataHead p y)] : List (GOrPort × Nat × State × Prop)),
          d.2.2.2 →
          let route := vget s.curLt.route d.2.1 none
          let i := Instr.mDrain c d.1 l b
          (route = none → exec i s = s.traps 25 0 (w64 d.2.1)) ∧
          ∀ o, route = some o →
            (s.bound true o = true → exec i s = s.traps 16 0 (w64 (8 + o.toNat))) ∧
            (s.bound true o = false → exec i s = exec i (d.2.2.1.setProg { stage := 1, total := o.toNat })))) ∧
    ∀ o : BitVec 3, s.unitGoesOn q → q.total = o.toNat → s.ownsAcc c → ∀ d ∈ ([.g x w, .port p] : List GOrPort),
      (s.space o = false → exec (.mDrain c d l b) s = s.parks .port) ∧
      (s.space o = true →
        let u := s.push o (drainTok (s.acc c) s.macr b q.n)
        (q.n + 1 ≠ (if b then 8 else 16) → exec (.mDrain c d l b) s = .next (u.setProg { q with n := q.n + 1 })) ∧
        (q.n + 1 = (if b then 8 else 16) → exec (.mDrain c d l b) s = (if l then u.setAcc c (.sum 0 0) else u).done))

/-- R213: `m.grp`, turn by turn. It begins by reading its counts G and T and checking its address, its counts and its ports. A group
whose offset falls or passes T, whose drains have no route or a bound one, or whose B tokens are not data traps with no effect of that
group: the tokens taken for it go back; and so does one in which a swap mark would leave another type active, which the model looks for
once the group's B operand has come (log 56). Otherwise the operand is loaded and exchanged, and each of its entries is multiplied into the
tile and drained; the entries past the last group are popped. That the vector's words are read by their bits, whatever their marks, is the
model's choice (log 58). -/
def Claims.GroupedProductChecksAndEnds : Prop :=
  ∀ (s : State) (c x : BitVec 4) (r : BitVec 2) (f : MatFmt) (k : Option (BitVec 2)) (w : Bool) (t p : BitVec 3) (a : DWord) (q : MProg),
    let i := Instr.mGrp c r f k x w t p
    let word := fun n => s.spN (a.toNat + 4 * n) 4
    let route := vget s.curLt.route t.toNat none
    let busy := ∃ o, route = some o ∧ s.bound true o = true
    s.ownsAcc c → s.ownsRing r → (∀ m ∈ k, s.mBusy m = false) →
    (s.unitStarts → s.full x a →
      (s.spLd a.toNat 8 = false → exec i s = s.traps 5 0 a) ∧ (s.spLd a.toNat 8 = true → a.toNat % 64 ≠ 0 → exec i s = s.traps 6 0 a) ∧
      (s.spLd a.toNat 8 = true → a.toNat % 64 = 0 →
        (255 < word 0 → exec i s = s.traps 27 0 (w64 (word 0))) ∧
        (word 0 ≤ 255 → s.spLd a.toNat (4 * (word 0 + 2)) = false → exec i s = s.traps 5 0 a) ∧
        (word 0 ≤ 255 → s.spLd a.toNat (4 * (word 0 + 2)) = true →
          (word 0 ≠ 0 → s.bound false p = true → exec i s = s.traps 16 0 (w64 (8 + p.toNat))) ∧
          (word 0 = 0 ∨ s.bound false p = false → ∃ v : Bool, (v = true ↔ busy) ∧ exec i s =
            .next (s.setProg { stage := 1, total := word 0, ea := a.toNat, top := sgn 32 (word 1), busy := v }))))) ∧
    (s.unitGoesOn q →
      let back := (s.unpopAll p q.held).tellNan (256 + f.code)
      (q.stage = 1 → q.grp = q.total → exec i s = .next (s.setProg { q with stage := 5, n := 0 })) ∧
      (q.stage = 1 → q.grp ≠ q.total →
        let o := sgn 32 (s.spN (q.ea + 4 * (2 + q.grp)) 4)
        (o < q.off → exec i s = back.traps 26 0 (w64 q.grp)) ∧
        (q.off ≤ o → q.top < o → exec i s = back.traps 27 0 (w64 q.grp)) ∧
        (q.off < o → o ≤ q.top → (route = none → exec i s = back.traps 25 0 (w64 t.toNat)) ∧
          (∀ u, route = some u → q.busy = true → exec i s = back.traps 16 0 (w64 (8 + u.toNat)))) ∧
        (q.off ≤ o → o ≤ q.top → (o = q.off ∨ (route ≠ none ∧ q.busy = false)) →
          exec i s = .next (s.setProg { q with stage := 2, n := 0, count := o.toNat - q.off }))) ∧
      (q.stage = 2 → q.held.length < (if bType f = .cb2 then 7 else 24) →
        (s.head p = none → exec i s = s.parks .port) ∧
        ∀ y, s.head p = some y →
          (y.kind ≠ .data → exec i s = back.traps 15 0 (w64 (8 + p.toNat))) ∧
          (y.kind = .data → exec i s = .next ((s.pop p).setProg { q with held := q.held ++ [y], n := q.n + 1 }))) ∧
      (q.stage = 2 → (if bType f = .cb2 then 7 else 24) ≤ q.held.length →
        let u := s.modMat fun m => { m with act := m.load.ldTokens (bType f) q.held, load := m.act }
        let g := s.ring r
        let swapped := fun (j : Nat) => (g.marks.filter fun m => atMost m (g.head + .ofNat 32 (24 * j))).length % 2 = 1
        (s.grpMarks r f q.count = .wait → exec i s = s.parks .matrix) ∧
        (s.grpMarks r f q.count = .bad → exec i s = back.traps 24 0 (w64 (statCode s.mat.act.ty))) ∧
        (s.grpMarks r f q.count = .ok → q.count ≠ 0 → exec i s = .next (u.setProg { q with stage := 3, n := 0, held := [] })) ∧
        (s.grpMarks r f q.count = .ok → q.count = 0 → exec i s =
          .next (u.setProg { q with stage := 1, grp := q.grp + 1, n := 0, held := [] })) ∧
        (s.mat.act.ty = bType f ∨ q.count = 0 ∨ (g.feed = none ∧ g.marks = []) → s.grpMarks r f q.count = .ok) ∧
        (s.grpMarks r f q.count = .bad → ∃ j < q.count, swapped j) ∧
        (s.mat.act.ty ≠ bType f → q.count ≤ g.size → 24 * q.count ≤ (g.tail - g.head).toNat → (∃ j < q.count, swapped j) →
          s.grpMarks r f q.count = .bad)) ∧
      (q.stage = 3 →
        (¬ s.hasEntry r → exec i s = s.parks .matrix) ∧
        (s.hasEntry r →
          let u := s.modMat (·.marks r)
          let l := product u f (match k with | none => 0 | some m => (s.m m).toNat) true (u.acc c) (u.ring r) u.mat.act
          let v := ((u.setAcc c (accOf l)).modRing r Ring.popEntry).noteNan ((l.zipIdx.find? fun (y, _) => y.nan && !y.pz).map (·.2))
          (u.mat.act.ty = bType f → exec i s = .next (v.setProg { v.mprog with stage := 4, n := 0 })) ∧
          (u.mat.act.ty ≠ bType f → exec i s = (u.tellNan (256 + f.code)).traps 24 0 (w64 (statCode u.mat.act.ty))))) ∧
      (q.stage = 4 → ∀ o, route = some o →
        (s.space o = false → exec i s = s.parks .port) ∧
        (s.space o = true →
          let u := s.push o (drainTok (s.acc c) s.macr false q.n)
          let next := { q with n := 0, off := q.off + 1, count := q.count - 1 }
          (q.n + 1 < 16 → exec i s = .next (u.setProg { q with n := q.n + 1 })) ∧
          (16 ≤ q.n + 1 → 1 < q.count → exec i s = .next (u.setProg { next with stage := 3 })) ∧
          (16 ≤ q.n + 1 → q.count ≤ 1 → exec i s = .next (u.setProg { next with stage := 1, grp := q.grp + 1, held := [] })))) ∧
      (q.stage = 5 →
        (q.top ≤ q.off → exec i s = (s.tellNan (256 + f.code)).done) ∧
        (q.off < q.top → s.hasEntry r → exec i s =
          .next (((s.modMat (·.marks r)).modRing r Ring.popEntry).setProg { q with off := q.off + 1 })) ∧
        (q.off < q.top → ¬ s.hasEntry r → exec i s = s.parks .matrix)))

/-! ## Ranked lists and rings (R201 to R206, R217 to R223) -/

/-- R217: inserting a pair puts it behind every entry that it does not rank above, keeps the order, keeps every other entry, and the
row keeps the first k. -/
def Claims.RankedInsertKeepsTheBest : Prop :=
  ∀ (x : REnt) (l : List REnt) (k : Nat), l.Pairwise (fun a b => above b a = false) →
    (insertRank x l).Perm (x :: l) ∧ (insertRank x l).Pairwise (fun a b => above b a = false) ∧
    ∀ r : RRow, r.ents = l → (RRow.insert k x r).ents = (insertRank x l).take k ∧ (RRow.insert k x r).nan = r.nan ∧
      (RRow.insert k x r).pois = r.pois

/-- R165, R219, R220, R222: what the ranked-list instructions do to one row and what `rl.out` makes of it. A candidate whose lane is valid in
both tokens goes to the row of its lane, or in row form of the value token's tag: poison sets that row's flag, a NaN its other flag, and a
number, flushed under FLUSHIN, is inserted undropped. A merge inserts each source entry undropped and joins the flags. A value token holds
entries 16h to 16h + 15 of the row that are kept, with tag row + 16h, poisoned with the row; under RENORM a value is divided by the tree
sum of the kept ones. -/
def Claims.RankedRowsTakeAndGive : Prop :=
  (∀ (k : Nat) (fi row : Bool) (v i : Token) (rows : Vector RRow 16) (j : Nat), j < 16 →
    let r := if row then v.tag.toNat % 16 else j
    let x := vget rows r {}
    let b := fF32.flush fi (v.lane j)
    let after := insLane k fi row v i rows j
    ((v.val j = false ∨ i.val j = false) → after = rows) ∧
    (v.val j = true → i.val j = true → (∀ q < 16, q ≠ r → vget after q {} = vget rows q {}) ∧
      ((v.pois j = true ∨ i.pois j = true) → vget after r {} = { x with pois := true }) ∧
      (v.pois j = false → i.pois j = false → fF32.isNan b = true → vget after r {} = { x with nan := true }) ∧
      (v.pois j = false → i.pois j = false → fF32.isNan b = false →
        vget after r {} = { x with ents := (insertRank ⟨.ofNat 32 b, .ofNat 32 (i.lane j), false⟩ x.ents).take k }))) ∧
  (∀ (k : Nat) (dst src : RRow),
    (mergeRow k dst src).nan = (dst.nan || src.nan) ∧ (mergeRow k dst src).pois = (dst.pois || src.pois) ∧
    (mergeRow k dst src).ents = src.ents.foldl (fun l e => (insertRank { e with drop := false } l).take k) dst.ents) ∧
  ∀ (wgt norm : Bool) (acr : BitVec 4) (k : Nat) (r : RRow) (j : Nat), k ≤ 32 →
    let kept := fun (i : Nat) (e : REnt) => r.ents[i]? = some e ∧ ¬ (wgt = true ∧ e.drop = true)
    ((∀ e, ¬ kept j e) → keptOf wgt r j = none ∧ outVal wgt norm acr k r j = 0) ∧
    (∀ e, kept j e → keptOf wgt r j = some e ∧ (norm = false → outVal wgt norm acr k r j = e.v.toNat) ∧
      (norm = true → ∃ l : List (Option Nat), l.length = 32 ∧
        (∀ i < 32, (∀ d, i < k → kept i d → l[i]? = some (some d.v.toNat)) ∧ ((k ≤ i ∨ ∀ d, ¬ kept i d) → l[i]? = some none)) ∧
        outVal wgt norm acr k r j = op32 acr FVal.div e.v.toNat ((tree (op32 acr FVal.add) 5 l).getD 0))) ∧
    (∀ (f : FVal → FVal → FVal) (x y : Nat), op32 acr f x y = fF32.flush (acrFo acr) (fF32.round 0 0 false
      (f (fF32.val (fF32.flush (acrFi acr) x)) (fF32.val (fF32.flush (acrFi acr) y))))) ∧
    ∀ (row h : Nat) (val : Nat → Nat) (ok : Nat → Bool), let t := outTok r row h val ok
      t.tag = .ofNat 6 (row + 16 * h) ∧ t.kind = .data ∧ ∀ c < 16, t.val c = ok (16 * h + c) ∧ t.pois c = (ok (16 * h + c) && r.pois) ∧
        t.lane c = if ok (16 * h + c) then val (16 * h + c) % 2 ^ 32 else 0

/-- R218 to R223: the ranked-list instructions on a declared list; on a sum tile all but `rl.decl` trap ACC_KIND. The g forms of
`rl.thr` trap in a run. -/
def Claims.RankedListWords : Prop :=
  ∀ (s : State) (c x d row : BitVec 4) (n : BitVec 5) (f w : Bool) (a : DWord), s.unitStarts → s.ownsAcc c →
    exec (.rlDecl c n) s = (s.setAcc c (.ranked (n.toNat + 1) (Vector.replicate 16 {}))).done ∧
    ((s.acc c).isSum = true →
      let kind := fun (i : Instr) => exec i s = s.traps 23 0 (w64 c.toNat)
      kind (.rlClr c none) ∧ (s.full x a → kind (.rlClr c (some (x, w)))) ∧ (s.ownsAcc x → kind (.rlMerge c x)) ∧
      ((∀ j : BitVec 3, s.wBusy j = false) → kind (.rlIns c x f d) ∧ kind (.rlThr c (.tok d row))) ∧
      (s.takes d → s.ctx.unit = .minl → kind (.rlThr c (.g d row)) ∧ kind (.rlThr c (.flags d row))) ∧
      ∀ (p : BitVec 3) (o : Option (BitVec 3)), kind (.rlOut c p f w o)) ∧
    ∀ k rows, s.acc c = .ranked k rows →
      (s.ownsAcc x → (s.acc x).isSum = true → exec (.rlMerge c x) s = s.traps 23 0 (w64 x.toNat)) ∧
      exec (.rlClr c none) s = (s.setAcc c (.ranked k (Vector.replicate 16 {}))).done ∧
      (s.full x a → ∃ rows', exec (.rlClr c (some (x, w))) s = (s.setAcc c (.ranked k rows')).done ∧
        ∀ j < 16, let y := vget rows j {}; let y' := vget rows' j {}
          if j = bfld a 8 5 then y'.nan = y.nan ∧ y'.pois = y.pois ∧ y'.ents.length = y.ents.length ∧
            ∀ i, y'.ents[i]? = (y.ents[i]?).map fun e => if i = bfld a 4 0 then { e with drop := true } else e
          else y' = y) ∧
      (s.ownsAcc x → ∀ k' src, s.acc x = .ranked k' src → exec (.rlMerge c x) s =
        (s.setAcc c (.ranked k (Vector.zipWith (mergeRow k) rows src))).done) ∧
      (s.fires [x, d] none [] true → exec (.rlIns c x f d) s = ((s.popAll (portsOf [x, d])).setAcc c (.ranked k
        ((List.range 16).foldl (insLane k (acrFi s.macr) f (s.tok x) (s.tok d)) rows))).done) ∧
      (s.fires [] (some d) [] false → ∃ t : Token, exec (.rlThr c (.tok d row)) s =
          (if isPort d then s.push (codeNo d) t else s.setW (codeNo d) t).done ∧
        t.valid = 0xFFFF ∧ t.tag = 0 ∧ t.kind = .data ∧
        ∀ j < 16, t.lane j = (vget rows j {}).thr k % 2 ^ 32 ∧ t.pois j = (vget rows j {}).pois) ∧
      (s.takes d → s.ctx.unit = .minl →
        exec (.rlThr c (.g d row)) s = (s.setG d (.ofInt 64 (sgn 32 ((vget rows row.toNat {}).thr k)))).done ∧
        ∃ v : DWord, exec (.rlThr c (.flags d row)) s = (s.setG d v).done ∧
          ∀ j < 16, v.getLsbD j = (vget rows j {}).nan ∧ v.getLsbD (16 + j) = (vget rows j {}).pois) ∧
      (s.takes d → s.ctx.unit = .mrun → exec (.rlThr c (.g d row)) s = s.traps 28 0 (w64 s.matPc) ∧
        exec (.rlThr c (.flags d row)) s = s.traps 28 0 (w64 s.matPc))

/-- R217: a row that holds k entries has its last entry's value as threshold, and a shorter one minus infinity. -/
def Claims.ThresholdIsTheLastKeptValue : Prop :=
  ∀ (k : Nat) (r : RRow), 0 < k →
    (∀ e, r.ents.length = k → r.ents.getLast? = some e → r.thr k = e.v.toNat) ∧ (r.ents.length ≠ k → r.thr k = 0xFF80_0000)

/-- R95, R222: `rl.out` checks the binding of its ports as it begins; a turn pushes the tokens of one row, values and with the index port
indices, when every port it names has room for them all, and the sixteenth row ends it. A kept entry's value is its own, or under NORM
its quotient by the tree sum of the kept ones; the lowest NaN of an unpoisoned row under NORM is an origin. Where one port is named for
values and indices both, that the value tokens go first is the model's choice (log 46). -/
def Claims.RankedOutPushesARow : Prop :=
  ∀ (s : State) (c : BitVec 4) (x y : BitVec 3) (n u : Bool) (k : Nat) (rows : Vector RRow 16) (q : MProg), s.ownsAcc c → s.acc c = .ranked k rows →
    (s.unitStarts →
      (s.bound true x = true → ∀ o, exec (.rlOut c x n u o) s = s.traps 16 0 (w64 (8 + x.toNat))) ∧
      (s.bound true x = false → s.bound true y = true → exec (.rlOut c x n u (some y)) s = s.traps 16 0 (w64 (8 + y.toNat)))) ∧
    ((s.unitStarts ∧ q = {} ∧ s.bound true x = false ∧ s.bound true y = false) ∨ s.unitGoesOn q →
      let r := vget rows q.n {}
      let halves := if 16 < k then [0, 1] else [0]
      let m := 16 * halves.length
      let val := outVal u n s.macr m r
      let values := fun (t : State) => halves.foldl (fun t h => t.push x (outTok r q.n h val fun j => (keptOf u r j).isSome)) t
      let indices := fun (t : State) => halves.foldl (fun t h => t.push y (outTok r q.n h (fun j => ((r.ents[j]?).map fun e => e.i.toNat).getD 0)
        fun j => decide (j < r.ents.length))) t
      let room := fun (p : BitVec 3) (tokens : Nat) => s.outLen s.ctx.tile s.ctx.slot s.cur.phase p + tokens ≤ 4
      let bad := if n = true ∧ r.pois = false then (List.range m).find? fun j => (keptOf u r j).isSome && fF32.isNan (val j) else none
      let ends := fun (t : State) =>
        let v := t.noteNan (bad.map (16 * q.n + ·))
        if q.n + 1 = 16 then (v.tellNan 256).done else (.next (v.setProg { v.mprog with n := q.n + 1 }) : Out)
      let waits := s.begun.parks .port
      (¬ room x halves.length → exec (.rlOut c x n u none) s = waits ∧ exec (.rlOut c x n u (some y)) s = waits) ∧
      (room x halves.length → exec (.rlOut c x n u none) s = ends (values s.begun)) ∧
      (x ≠ y → ¬ room y halves.length → exec (.rlOut c x n u (some y)) s = waits) ∧
      (x = y → ¬ room x (2 * halves.length) → exec (.rlOut c x n u (some y)) s = waits) ∧
      ((if x = y then room x (2 * halves.length) else room x halves.length ∧ room y halves.length) →
        exec (.rlOut c x n u (some y)) s = ends (indices (values s.begun))))

/-- R203, R206, R303: ring control. `ring.set` waits for the commands that fill its ring, then empties it, and with an operand places
it in the legal range or traps SP_RANGE; `ring.head` and `ring.tail` deliver its counts, inline alone; `ring.pop` drops complete entries,
waiting for each. A ring of no size, or one that slot 15 does not own, traps RING_BAD. That `ring.set` waits for queued commands bound to
its ring, too, is the model's choice (log 48). -/
def Claims.RingControlWords : Prop :=
  ∀ (s e : State) (r : BitVec 2) (x : BitVec 4) (w : Bool) (a : DWord) (q : MProg),
    (s.unitStarts →
      let bad := (s.rcTask = true ∧ r ≠ 3) ∨ (s.ring r).size = 0
      let none_ := fun (i : Instr) => exec i s = s.traps 29 0 (w64 r.toNat)
      (bad → none_ (.ringSet r none) ∧ (s.full x a → none_ (.ringPop r x w)) ∧
        (s.takes x → s.ctx.unit = .minl → none_ (.ringHead r x) ∧ none_ (.ringTail r x))) ∧
      (s.rcTask = true → r ≠ 3 → s.full x a → none_ (.ringSet r (some (x, w)))) ∧
      (s.ringUsed r = true → (s.ownsRing r → exec (.ringSet r none) s = s.parks .matrix) ∧
        ((s.rcTask = true → r = 3) → s.full x a → exec (.ringSet r (some (x, w))) s = s.parks .matrix)) ∧
      (s.ringUsed r = false →
        (s.ownsRing r → exec (.ringSet r none) s = (s.modRing r fun q => { q with head := 0, tail := 0, vbits := [], marks := [] }).done) ∧
        (s.full x a → (s.rcTask = true → r = 3) →
          let base := bfld a 12 0
          let size := bfld a 23 16
          let lo := if s.rcTask then 0x7_A000 else 0
          let hi := if s.rcTask then 0x8_0000 else shareBytes (s.tile s.ctx.tile).fold
          let fits := size ≠ 0 ∧ lo ≤ base * 64 ∧ base * 64 + 1536 * size ≤ hi
          (fits → exec (.ringSet r (some (x, w))) s =
            (s.modRing r fun q => { q with base := base, size := size, head := 0, tail := 0, vbits := [], marks := [] }).done) ∧
          (¬ fits → exec (.ringSet r (some (x, w))) s = s.traps 5 0 (w64 (base * 64))))) ∧
      (s.takes x → s.ctx.unit = .mrun → exec (.ringHead r x) s = s.traps 28 0 (w64 s.matPc) ∧ exec (.ringTail r x) s = s.traps 28 0 (w64 s.matPc)) ∧
      (s.ownsRing r → s.takes x → s.ctx.unit = .minl → exec (.ringHead r x) s = (s.setG x (.ofNat 64 (s.ring r).head.toNat)).done ∧
        exec (.ringTail r x) s = (s.setG x (.ofNat 64 (s.ring r).tail.toNat)).done) ∧
      (s.ownsRing r → s.full x 0 → exec (.ringPop r x w) s = s.done)) ∧
    (s.ownsRing r → (s.unitStarts ∧ (∃ n : DWord, n ≠ 0 ∧ s.full x n ∧ q = { stage := 1, count := n.toNat }) ∧ e = s.setProg q) ∨ (s.unitGoesOn q ∧ e = s) →
      let u := (e.modMat (·.marks r)).modRing r Ring.popEntry
      (¬ s.hasEntry r → exec (.ringPop r x w) s = e.parks .matrix) ∧
      (s.hasEntry r → q.n + 1 = q.count → exec (.ringPop r x w) s = u.done) ∧
      (s.hasEntry r → q.n + 1 ≠ q.count → exec (.ringPop r x w) s = .next (u.setProg { q with n := q.n + 1 })))

/-- R202, R204: a ring that feeds from a port takes a data head when it has room, as sixteen words with their marks and valid bits;
an end-of-stream completes the entry in hand with tokens of no valid lane; a control head of code 1, or under SWAPEG of code 2, does so
and leaves a swap mark at the tail; any other control head is taken and dropped. -/
def Claims.RingFeedTakesTheHead : Prop :=
  ∀ (s : State) (t : Nat) (ph r : BitVec 2) (p : BitVec 3) (x : Token),
    let q := vget (s.lt t ph).mat.rings r.toNat {}
    q.feed = some p → s.headOf t 0 ph p = some x → s.regionRuns (s.lt t ph).key = true → q.size ≠ 0 → q.marks.length < 4 →
    let taken := s.popOf t 0 ph p
    let code := x.lane 0 % 256
    let swaps := code = 1 ∨ (code = 2 ∧ q.swapeg = true)
    (x.kind = .data → (q.tail - q.head).toNat < 24 * q.size → exec (.ringFeed t ph r) s =
      .next ((taken.ringAppend t false ph r x).progressAt t ph)) ∧
    (x.kind = .data → 24 * q.size ≤ (q.tail - q.head).toNat → exec (.ringFeed t ph r) s = .next s) ∧
    (x.kind = .eos → exec (.ringFeed t ph r) s = .next ((taken.ringPad t ph r 24).progressAt t ph)) ∧
    (x.kind = .control → swaps → exec (.ringFeed t ph r) s = .next (((taken.ringPad t ph r 24).modLt t ph fun l =>
      let q := vget l.mat.rings r.toNat {}
      { l with mat := { l.mat with rings := vset l.mat.rings r.toNat { q with marks := q.marks ++ [q.tail] } } }).progressAt t ph)) ∧
    (x.kind = .control → ¬ swaps → exec (.ringFeed t ph r) s = .next (taken.progressAt t ph))

/-! ## Stream commands at issue (R95, R101, R104, R109 to R111, R303) -/

/-- R104: a data command whose version register, PCB and endpoints pass joins its engine's queue of two with its operands copied; an
empty version register parks or traps it, a full queue parks it, a PCB outside the legal range traps SP_RANGE, an endpoint that may not
be named traps as its check says. -/
def Claims.StreamCommandsJoinTheirQueue : Prop :=
  ∀ (s : State) (e : BitVec 2) (ep : StreamDest) (p ix b pid : BitVec 3) (pcb : BitVec 13) (v : Option (BitVec 4 × Bool))
    (ver : Option (BitVec 32)) (pr : Option (BitVec 3)) (xf : Xform) (disp : BitVec 32) (tag : BitVec 6) (eos : Bool),
    let t := s.ctx.tile
    let cmd := fun (kind : CmdKind) (dest : StreamDest) => ({
      kind := kind, seq := (s.tile t).seq, slot := s.ctx.slot, phase := s.cur.phase, run := s.strRun, pc := s.strPc
      dest := dest, ix := none, pcb := pcb.toNat, base := s.b b, ver := ver, pid := none, xf := .move
      disp := disp, tag := 0, eos := false } : Cmd)
    let first := e.zeroExtend 3
    (∀ r w, v = some (r, w) → (s.g r).st ≠ .full → ∀ i ∈ ([.sRead e ep pcb b v pr xf disp tag eos, .sWrite e p pcb b v pr xf disp,
        .sInd e ep pcb b ix v pr xf disp tag eos, .sSyntax e p pcb b v disp tag eos] : List Instr), exec i s = s.blocked r w 5) ∧
    (s.clearOfAcq → s.clearOfRel → (s.ctx.unit ≠ .task ∨ (s.tile t).sq = []) →
    (∀ i ∈ ([(.sRead e ep pcb b v pr xf disp tag eos, first, [s.endBad true ep],
          { cmd .read ep with pid := pr, xf := xf, tag := tag, eos := eos }),
        (.sWrite e p pcb b v pr xf disp, 4 + first, [s.endBad false (.port p)], { cmd .write (.port p) with pid := pr, xf := xf }),
        (.sInd e ep pcb b ix v pr xf disp tag eos, first, [s.endBad true ep, s.endBad false (.port ix)],
          { cmd .ind ep with ix := some ix, pid := pr, xf := xf, tag := tag, eos := eos }),
        (.sSyntax e p pcb b v disp tag eos, first, [s.endBad true (.port p)], { cmd .syn (.port p) with tag := tag, eos := eos })] :
        List (Instr × BitVec 3 × List (Option (Nat × DWord)) × Cmd)),
      let g := s.engine t (s.engId i.2.1)
      (match v with | none => ver = none | some (r, _) => ∃ x : DWord, s.full r x ∧ ver = some (x.extractLsb' 0 32)) →
      (s.spLd (pcb.toNat * 64) 64 = false → exec i.1 s = s.traps 5 0 (w64 (pcb.toNat * 64))) ∧
      (s.spLd (pcb.toNat * 64) 64 = true →
        (∀ c x, i.2.2.1.find? (·.isSome) = some (some (c, x)) → exec i.1 s = s.traps c 0 x) ∧
        ((∀ q ∈ i.2.2.1, q = none) →
          (g.cmds.length < 2 → exec i.1 s = .next (advance ((s.setEngine t (s.engId i.2.1) { g with wait := g.wait ++ [i.2.2.2] }).modTile t
            fun x => { x with seq := x.seq + 1 }) 4)) ∧
          (2 ≤ g.cmds.length → exec i.1 s = (s.setMark).parks .queue)))) ∧
    (let g := s.engine t (s.engId first)
     let c : Cmd := { cmd .prism (.ring 0) with pcb := 0, ver := none, pid := some pid }
     (g.cmds.length < 2 → exec (.sPrism e b pid disp) s = .next (advance ((s.setEngine t (s.engId first) { g with wait := g.wait ++ [c] }).modTile t
        fun x => { x with seq := x.seq + 1 }) 4)) ∧
     (2 ≤ g.cmds.length → exec (.sPrism e b pid disp) s = (s.setMark).parks .queue)))

/-- R109 to R111: `s.bar` parks while an earlier command, or run, of its logical tile is not complete; `s.stop` cancels its engine's
commands; `s.stat` delivers its status word inline, and in a run it abandons the run with cause 18. That an engine which a restore leaves
more than two commands shows two is the model's choice (log 60). -/
def Claims.StreamControlWords : Prop :=
  ∀ (s : State) (e : BitVec 3) (g : BitVec 4),
    let t := s.ctx.tile
    let x := s.engine t (s.engId e)
    (let waits := s.barWaits t s.ctx.slot s.cur.phase s.strMark (s.ctx.unit == .task)
     (waits = true → exec .sBar s = (s.setMark).parks .queue) ∧ (waits = false → exec .sBar s = .next (advance s 4))) ∧
    ((s.ctx.unit ≠ .task ∨ (s.tile t).sq = []) → exec (.sStop e) s = .next (advance (s.cancelEngine t (s.engId e)) 4)) ∧
    (s.ctx.unit = .task → (s.tile t).sq = [] → s.takes g → ∃ v : DWord, exec (.sStat e g) s = .next (advance (s.setG g v) 4) ∧
      v.getLsbD 0 = x.cur.isSome ∧ bfld v 3 1 = 0 ∧ bfld v 7 4 = min 2 x.cmds.length ∧ v.getLsbD 8 = x.stop.isSome ∧
        bfld v 23 9 = 0 ∧ (x.cur = none → bfld v 63 24 = 0) ∧
        ∀ r, x.cur = some r →
          let win := if r.cmd.kind = .write ∨ r.next = 0 then 0 else (r.next - 1) / r.perTok + 1 - r.out
          win < 256 → bfld v 31 24 = win ∧ bfld v 63 32 = r.head % 2 ^ 32) ∧
    (s.ctx.unit = .srun → exec (.sStat e g) s = s.traps 18 0 (w64 s.strPc))

/-! ## Memory operations at issue (R119, R125 to R142) -/

/-- R119: what issuing a memory operation does: the operation with its address, destination, ordering and kind enters the port of the
tile behind the earlier ones, and its destination stands pending. -/
def Claims.MemoryOperationsEnterThePort : Prop :=
  ∀ (s : State) (va : VAddr) (d : Option (BitVec 4)) (acq rel : Bool) (kind : OpKind), 
    let t := s.ctx.tile
    (s.memqFull = true → memIssue s va d acq rel kind = park s .queue) ∧
    (s.memqFull = false → ∃ (o : Op) (u : State), memIssue s va d acq rel kind = advance u 1 ∧
      o.id = s.newId ∧ o.tile = t ∧ o.slot = s.ctx.slot ∧ o.part = s.curPart ∧ o.va = va ∧ o.d = d ∧ o.acq = acq ∧ o.rel = rel ∧
      o.kind = kind ∧ o.sent = false ∧ o.stop = none ∧
      u.ops = s.ops ++ [o] ∧ u.newId = s.newId + 1 ∧ (u.tile t).memq = (s.tile t).memq ++ [s.newId] ∧
      (∀ r, d = some r → (u.g r).st = .pending) ∧ (∀ r, d ≠ some r → u.g r = s.g r) ∧ u.hbm = s.hbm ∧ u.frames = s.frames ∧
      (u.tile t).spad = (s.tile t).spad ∧ ∀ n, n ≠ t → u.tile n = s.tile n)

/-- R126 to R131, R137: the frame operations, atomics and `cp.wait` enter the port with their operands once these are ready, and park
while it is full; `fr.wait`, `cp.wait` and the acquiring atomics are acquires, the releasing ones releases. In slot 15 all but the two
waits end the recompute with RECOMP_WRITE's kind 0x1F (R303). -/
def Claims.FrameAndAtomicWordsEnterThePort : Prop :=
  ∀ (s : State) (d b : BitVec 4) (a : BitVec 3) (n : BitVec 8) (v u : Bool) (o : AtOrder) (c : Scope) (x y : DWord),
    s.clearOfAcq → s.full b x →
    let acq := o = .acq ∨ o = .acqrel
    let rel := o = .rel ∨ o = .acqrel
    let ver := x.toNat % 2 ^ 32
    let id : BitVec 16 := x.extractLsb' 0 16
    let waits := fun (i : Instr) (va : VAddr) (r : Option (BitVec 4)) (acq rel : Bool) (kind : OpKind) =>
      (s.memqFull = true → exec i s = s.parks .queue) ∧
      (s.memqFull = false →
        exec i s = (match r with | some q => (s.issueOp va r acq rel kind).markG q .pending | none => s.issueOp va r acq rel kind).done)
    let puts := fun (i : Instr) (va : VAddr) (r : Option (BitVec 4)) (acq rel : Bool) (kind : OpKind) =>
      (s.rcTask = false → waits i va r acq rel kind) ∧ (s.rcTask = true → exec i s = .next (s.rcFault s.ctx.tile 0x1F 0 0))
    (s.clearOfRel →
      puts (.frInit a n) (s.b a) none false false (.frame (.init (n.toNat + 1)) false) ∧
      puts (.frRecl a b v) (s.b a) none false false (.frame (.recl ver) false) ∧
      puts (.frPin a b v) (s.b a) none false false (.frame (.pin ver) false) ∧
      puts (.frUnpin a b v) (s.b a) none false false (.frame (.unpin ver) false) ∧
      (s.takes d →
        ∀ i ∈ ([(.atAdd d a b v o c, .add), (.atMin d a b v u o c, .min u), (.atMax d a b v u o c, .max u), (.atAnd d a b v o c, .and),
          (.atOr d a b v o c, .or), (.atXchg d a b v o c, .xchg)] : List (Instr × AtOp)),
          puts i.1 (s.b a) (some d) (decide acq) (decide rel) (.atomic i.2 x 0)) ∧
      (s.full d y → puts (.atCas d a b v o c) (s.b a) (some d) (decide acq) (decide rel) (.atomic .cas x y))) ∧
    (s.takes d →
      waits (.frWait d a b v) (s.b a) (some d) true false (.frame (.wait ver) false) ∧
      puts (.frStat d a none) (s.b a) (some d) false false (.frame (.stat none) false) ∧
      puts (.frStat d a (some (b, v))) (s.b a) (some d) false false (.frame (.stat (some ver)) false) ∧
      ∃ l, waits (.cpWait d b v) 0 (some d) true false (.cpWait id l ((alGet s.cur.cps id.toNat).getD 0)) ∧
        ∀ q, q ∈ l ↔ ∃ p ∈ s.ops, p.id = q ∧ p.tile = s.ctx.tile ∧ p.slot = s.ctx.slot ∧ p.kind.cpId = some id)

/-- R127, R135, R139 to R142, R295: a recipe block, a job card and a collective's descriptor are read once from scratchpad at issue and
checked; one that passes enters the port, parks while the port or the tile's count of cards is full, or in slot 15 ends the recompute
(R303); one that fails traps RECIPE_BAD, CARD_BAD or COLL_BAD with its address. -/
def Obligations.DescriptorsAreCheckedAtIssue : Prop :=
  ∀ (s : State) (a : BitVec 3) (b : BitVec 4) (v : Bool) (x : DWord),
    s.clearOfAcq → s.clearOfRel → s.full b x →
    let rc := (.next (s.rcFault s.ctx.tile 0x1F 0 0) : Out)
    (∀ i ∈ ([(.frRecipe a b v, 128), (.cpJob b v, 64), (.clGather b v, 64), (.clScatter b v, 64), (.clReduce b v, 64), (.clSend b v, 64),
        (.clRecv b v, 64)] : List (Instr × Nat)),
      (s.spLd x.toNat i.2 = false → exec i.1 s = s.traps 5 0 x) ∧
      (s.spLd x.toNat i.2 = true → x.toNat % 64 ≠ 0 → exec i.1 s = s.traps 6 0 x)) ∧
    (s.spLd x.toNat 128 = true → x.toNat % 64 = 0 →
      let q := s.spWords x.toNat 16
      (recipeOk q = false → exec (.frRecipe a b v) s = s.traps 21 0 x) ∧
      (recipeOk q = true → s.rcTask = true → exec (.frRecipe a b v) s = rc) ∧
      (recipeOk q = true → s.rcTask = false →
        (s.memqFull = true → exec (.frRecipe a b v) s = s.parks .queue) ∧
        (s.memqFull = false → exec (.frRecipe a b v) s =
          (s.issueOp (s.b a) none false false (.frame (.recipe (recipeOf s.curPart q)) false)).done))) ∧
    (s.spLd x.toNat 64 = true → x.toNat % 64 = 0 →
      let q := s.spWords x.toNat 8
      let full := 16 ≤ s.cardsOut s.ctx.tile ∨ s.memqFull = true
      (cardOk q = false → exec (.cpJob b v) s = s.traps 19 0 x) ∧
      (cardOk q = true → s.rcTask = true → exec (.cpJob b v) s = rc) ∧
      (cardOk q = true → s.rcTask = false →
        (full → exec (.cpJob b v) s = s.parks .queue) ∧
        (¬ full → exec (.cpJob b v) s =
          ((s.countCp (cardOf q).id).issueOp (vaOf (cardOf q).dwin (cardOf q).doff) none false false (.card (cardOf q) false 0 [] [])).done)) ∧
      ∀ i ∈ ([(.clGather b v, .gather), (.clScatter b v, .scatter), (.clReduce b v, .reduce), (.clSend b v, .send), (.clRecv b v, .recv)] :
          List (Instr × ClOp)),
        (collOk i.2 q = false → exec i.1 s = s.traps 20 0 x) ∧
        (collOk i.2 q = true → s.rcTask = true → exec i.1 s = rc) ∧
        (collOk i.2 q = true → s.rcTask = false →
          (full → exec i.1 s = s.parks .queue) ∧
          (¬ full → exec i.1 s =
            ((s.countCp (collOf i.2 q).id).issueOp (vaOf (collOf i.2 q).dwin (collOf i.2 q).doff) none false true
              (.coll (collOf i.2 q) [] none 0)).done)))

/-! ## Stream engines at work (R97 to R108, R290) -/

/-- R101, R104, R108, R290, R291: an idle engine starts its next command with the PCB as scratchpad holds it then, unless the PCB fails
its checks; a command bound to a Prism program takes it at its start, or stops; a load of a program finds its slot, or stops. A command
with everything done leaves its engine, and the versions it opened become visible, once the MITs that hold their windows' entries serve its
partition. -/
def Claims.CommandsStartAndComplete : Prop :=
  ∀ (s : State) (t : Nat) (e : EngineId),
    let g := s.engine t e
    (∀ c l, g.cur = none → g.back = [] → g.wait = c :: l → g.stop = none → s.engRuns t c = true → s.startable t c = true → c.kind ≠ .prism →
      ∃ pcb : Vector DWord 8,
        (∀ i < 8, (vget pcb i 0).toNat = leNat (memRead (s.tile t).spad (spAddr (s.tile t).fold c.phase (c.pcb * 64) + 8 * i) 8)) ∧
        let started := s.setEngine t e { g with wait := l, cur := some { cmd := c, pcb := pcb } }
        (pcbOk c pcb = true → c.pid = none → exec (.streamCmdStart t e) s = .next started) ∧
        (∀ d, pcbOk c pcb = true → c.pid = some d →
          (∀ p, s.prismProg (s.cmdPart t c) d (c.kind == .write) = .ok p → exec (.streamCmdStart t e) s =
            .next (s.setEngine t e { g with wait := l, cur := some { cmd := c, pcb := pcb, prog := p, ps := prismInit p } })) ∧
          (∀ f, s.prismProg (s.cmdPart t c) d (c.kind == .write) = .error f → exec (.streamCmdStart t e) s =
            .next (started.stopElem t e { cmd := c, pcb := pcb } 0 { pad := false } f))) ∧
        (pcbOk c pcb = false → exec (.streamCmdStart t e) s = .next ((s.setEngine t e { g with wait := l }).pcbBad t c))) ∧
    (∀ c l d, g.cur = none → g.back = [] → g.wait = c :: l → g.stop = none → s.engRuns t c = true → s.startable t c = true → c.kind = .prism →
      c.pid = some d →
      let started := s.setEngine t e { g with wait := l, cur := some { cmd := c, pcb := prismPcb } }
      exec (.streamCmdStart t e) s = .next (if (s.prismSlot (s.cmdPart t c) d).isSome then started
        else started.stopElem t e { cmd := c, pcb := prismPcb } 0 { pad := false } ⟨0x24, 0⟩)) ∧
    (∀ r l, g.cur = none → g.back = r :: l → g.stop = none → s.engRuns t r.cmd = true →
      exec (.streamCmdStart t e) s = .next (s.setEngine t e { g with cur := some r, back := l })) ∧
    ∀ r, g.cur = some r → g.stop = none → s.engRuns t r.cmd = true → r.finished = true →
      ((∀ k ∈ r.opened, s.winServed k.1.part (frameVa k.1) = true) → exec (.streamCmdComplete t e) s =
        .next (((s.setEngine t e { g with cur := none }).finishOpened (s.cmdPart t r.cmd) (s.cmdKey t r.cmd) r.opened s.newId).cmdProgress t r.cmd)) ∧
      ((∃ k ∈ r.opened, s.winServed k.1.part (frameVa k.1) = false) → exec (.streamCmdComplete t e) s = .next s)

/-- R97, R98: a running read whose accesses are all issued enters its next element: a padded tap has its bytes at once; any other
issues an access of ESIZE bytes at base + DISP + Σ counter·stride, or stops the engine with OFFSET_RANGE or MISALIGN. -/
def Claims.ReadsIssueTheirElements : Prop :=
  ∀ (s : State) (t : Nat) (e : EngineId) (r : CmdRun),
    let g := s.engine t e
    let n := r.next
    let off : Int := bfld r.cmd.base 47 0 + r.cmd.disp.toInt + ((List.range 4).map fun k => (r.ctr n k : Int) * r.stride k).sum
    g.cur = some r → g.stop = none → s.engRuns t r.cmd = true → r.cmd.kind = .read → r.cmd.pid = none →
    (∀ w ∈ r.win, w.done = true ∨ w.id.isSome = true) → n < r.total → r.next / r.perTok < r.head + 64 → r.takesIx n = false →
    let w : WElem := { pad := r.padded n, ix := r.ix, ixPois := r.ixPois, c4 := r.c4 }
    (r.padded n = true → exec (.streamElementAccess t e) s =
      .next (s.setRun t e { r with next := n + 1, win := r.win ++ [{ w with done := true, data := r.padBytes }] })) ∧
    (r.padded n = false → r.first + r.win.length = n →
      let q := { r with next := n + 1, win := r.win ++ [w] }
      let stops := fun (f : Flt) => exec (.streamElementAccess t e) s = .next ((s.setRun t e q).stopElem t e q n w f)
      ((off < 0 ∨ 2 ^ 48 ≤ off) → stops ⟨0x01, 0⟩) ∧ (0 ≤ off → off < 2 ^ 48 → off % r.esz ≠ 0 → stops ⟨0x02, 0⟩)) ∧
    (r.padded n = false → 0 ≤ off → off < 2 ^ 48 → off % r.esz = 0 → r.first + r.win.length = n → ∃ o : Op,
      exec (.streamElementAccess t e) s = .next ({ s with ops := s.ops ++ [o], newId := s.newId + 1 }.setRun t e
        { r with next := n + 1, win := r.win ++ [{ w with id := some s.newId }] }) ∧
      o.id = s.newId ∧ o.tile = t ∧ bfld o.va 79 64 = bfld r.cmd.base 79 64 ∧ (bfld o.va 47 0 : Int) = off ∧
      o.kind = .elem { e := e, n := n, len := r.esz, ver := r.cmd.ver.map (·.toNat), wr := none })

/-- R98, R100, R104, R106, R110, R229, R230: a read command pushes the token at HEAD once all its elements have come and its destination
has room, and not before; an `s.syntax` command whose bytes have all come gives its job to its engine's queue, or stops with SYNTAX_AUTH
where that engine serves another partition; a write command that has used up the token before takes the next head of its port: the elements
of a data head, the end with an end of stream, and nothing of a control head; each head counts in HEAD, and so does each token pushed. -/
def Claims.TokensLeaveAndEnterEngines : Prop :=
  ∀ (s : State) (t : Nat) (e : EngineId) (r : CmdRun),
    let g := s.engine t e
    g.cur = some r → s.engRuns t r.cmd = true → r.cmd.pid = none →
    ((r.cmd.kind = .read ∨ r.cmd.kind = .ind) → s.destRoom t r.cmd = true →
      let lo := r.head * r.perTok
      let hi := min r.total (lo + r.perTok)
      (lo < r.total → hi ≤ r.next → (∀ w ∈ r.win.take (hi - lo), w.done = true) → exec (.streamReadPush t e) s =
        .next (((s.destPush t r.cmd (r.token (r.win.take (hi - lo)) (r.cmd.tagAt r.head))).setRun t e
          { r with win := r.win.drop (hi - lo), head := r.head + 1 }).cmdProgress t r.cmd)) ∧
      (lo < r.total → (r.next < hi ∨ ∃ w ∈ r.win.take (hi - lo), w.done = false) → exec (.streamReadPush t e) s = .next (s.setRun t e r)) ∧
      (r.total ≤ lo → r.cmd.eos = true → r.eosOut = false → exec (.streamReadPush t e) s =
        .next (((s.destPush t r.cmd { data := 0, valid := 0, poison := 0, tag := r.cmd.tagAt r.head, kind := .eos }).setRun t e
          { r with eosOut := true, head := r.head + 1 }).cmdProgress t r.cmd))) ∧
    ((r.cmd.kind = .read ∨ r.cmd.kind = .ind) → s.destRoom t r.cmd = false →
      exec (.streamReadPush t e) s = .next (if r.head * r.perTok < r.total then s.setRun t e r else s)) ∧
    (r.cmd.kind = .syn → r.tailOut = false → g.stop = none → s.synDenied t r = true → exec (.streamReadPush t e) s =
      .next (s.stopElem t e r r.first (r.win.headD { pad := false }) ⟨0x29, 0⟩)) ∧
    (r.cmd.kind = .syn → r.tailOut = false → g.stop = none → s.synDenied t r = false → r.job = none → r.total ≤ r.next →
      (∀ w ∈ r.win, w.done = true) → ∃ (j : SynJob) (q : CmdRun),
      let u := s.setRun t e q
      let y := fld (r.dw 7) 63 61
      exec (.streamReadPush t e) s = .next { u with syn := vset u.syn y { vget u.syn y {} with queue := (vget u.syn y {}).queue ++ [j] } } ∧
      q.cmd = r.cmd ∧ q.tailOut = true ∧ j.tile = t ∧ j.e = e ∧ j.phase = r.cmd.phase ∧ (∀ p, r.cmd.dest = .port p → j.port = p) ∧
      j.bytes = r.prog ++ (r.win.map (·.data)).flatten ∧ j.tag = r.cmd.tag ∧ j.eos = r.cmd.eos ∧ j.newseq = (r.dw 7).testBit 58 ∧
      j.ctx = .ofNat 2 (fld (r.dw 7) 57 56) ∧ j.pics = fld (r.dw 7) 55 40 ∧ j.sent = 0 ∧ j.begun = false ∧ j.part = s.cmdPart t r.cmd) ∧
    (∀ p x, r.cmd.kind = .write → r.cmd.dest = .port p → g.stop = none → r.next < r.total → r.usedUp = true →
      s.headOf t r.cmd.slot r.cmd.phase p = some x →
      (x.kind = .data → exec (.streamWriteTake t e) s = .next (((s.popOf t r.cmd.slot r.cmd.phase p).setRun t e
        { r.takeTok x with win := (r.takeTok x).win.dropWhile fun w => w.done }).cmdProgress t r.cmd)) ∧
      (x.kind = .eos → exec (.streamWriteTake t e) s = .next (((s.popOf t r.cmd.slot r.cmd.phase p).setRun t e
        { r with ended := true, head := r.head + 1, win := r.win.dropWhile fun w => w.done }).cmdProgress t r.cmd)) ∧
      (x.kind = .control → exec (.streamWriteTake t e) s = .next (((s.popOf t r.cmd.slot r.cmd.phase p).setRun t e
        { r with head := r.head + 1, win := r.win.dropWhile fun w => w.done }).cmdProgress t r.cmd)))

/-- R290: a Prism program whose block has come whole and passes its checks replaces the program of the physical slot that the
partition's slot maps to. -/
def Claims.PrismProgramIsReplacedWhole : Prop :=
  ∀ (s : State) (t : Nat) (e : EngineId) (r : CmdRun) (k : Nat),
    let g := s.engine t e
    let block := (r.win.map (·.data)).flatten
    g.cur = some r → r.cmd.kind = .prism → g.stop = none → s.engRuns t r.cmd = true → 6 ≤ r.next → (∀ w ∈ r.win, w.done = true) →
    s.prismSlot (s.cmdPart t r.cmd) (r.cmd.pid.getD 0) = some k →
    (prismOk block = true → exec (.prismLoadComplete t e) s =
      .next ({ (s.setEngine t e { g with cur := none }) with prism := vset s.prism k (some block) }.cmdProgress t r.cmd)) ∧
    (prismOk block = false → exec (.prismLoadComplete t e) s =
      .next (s.stopElem t e { r with win := [], next := 0 } 0 { pad := false } ⟨0x23, 0⟩))

/-! ## Memory operations at their homes (R119 to R142, R253, R280) -/

/-- R119, R382: the port forwards the oldest operation whose region runs, unless a fault has stopped it. -/
def Claims.PortForwardsInOrder : Prop :=
  ∀ (s : State) (t i : Nat) (o : Op) (a b : List Nat),
    (s.tile t).memStop = none → (s.tile t).memq = a ++ i :: b → i ∉ a → s.op i = some o → (o.slot = 15 ∨ s.regionRuns o.rkey = true) →
    (∀ j ∈ a, ∃ q, s.op j = some q ∧ q.slot ≠ 15 ∧ s.regionRuns q.rkey = false) →
    exec (.memopForward t) s = .next ((s.modTile t fun x => { x with memq := a ++ b }).modOp i fun o => { o with sent := true })

/-- R131: the value an atomic stores, from the old one, the operand and the comparand. -/
def Claims.AtomicValues : Prop :=
  ∀ old x c : DWord,
    atNew .add old x c = .ofNat 64 (old.toNat + x.toNat) ∧
    (atNew (.min false) old x c).toInt = min old.toInt x.toInt ∧ (atNew (.max false) old x c).toInt = max old.toInt x.toInt ∧
    (atNew (.min true) old x c).toNat = min old.toNat x.toNat ∧ (atNew (.max true) old x c).toNat = max old.toNat x.toNat ∧
    atNew .and old x c = old &&& x ∧ atNew .or old x c = old ||| x ∧ atNew .xchg old x c = x ∧
    (old = c → atNew .cas old x c = x) ∧ (old ≠ c → atNew .cas old x c = old)

/-- R119, R131, R249, R253, R280: an atomic on eight bytes of local HBM takes their old value to its register and leaves the new one there
in one step, once every earlier operation of the task on those bytes, and for a release every earlier operation of the task, has been
performed. It faults where it is misaligned, where its bytes lie in a versioned region or in host memory, where translation refuses it,
and where its block fails its check or is poisoned; it waits for its region's checkpoint while the undo log is full. At a peer it is sent
there, as an external act of its region. -/
def Claims.AtomicsAreOneStep : Prop :=
  ∀ (s : State) (id : Nat) (o : Op) (op : AtOp) (x c : DWord) (pa : Nat) (u : State),
    s.op id = some o → o.kind = .atomic op x c → o.sent = true → o.stop = none → o.out = false → o.lost = none →
    let faults := fun (v : State) (kind : Byte) => exec (.atomicPerform id) s = .next (v.faultOp o ⟨kind, 0⟩ false o.va 0 0 0)
    let versioned := bfld o.va 63 48 = 0 ∧ (s.vregOf o.part (winOf o.va) (offOf o.va)).isSome = true
    (s.atBefore o = true → exec (.atomicPerform id) s = .next s) ∧
    (o.rel = true → s.earlierOut o = true → exec (.atomicPerform id) s = .next s) ∧
    (s.atBefore o = false → (o.rel = true → s.earlierOut o = false) →
      (offOf o.va % 8 ≠ 0 → faults s 0x02) ∧ (offOf o.va % 8 = 0 → versioned → faults s 0x10) ∧
      (offOf o.va % 8 = 0 → ¬ versioned →
        (s.walkServed o.tile o.part o.va = false → exec (.atomicPerform id) s = .next s) ∧
        (s.walkServed o.tile o.part o.va = true →
          (∀ f, s.translate o.tile o.part o.va true .atv = (.error f, u) → exec (.atomicPerform id) s = .next (u.faultOp o f false o.va 0 0 0)) ∧
          (s.translate o.tile o.part o.va true .atv = (.ok (.host pa), u) → faults u 0x0C) ∧
          (∀ a w off, s.translate o.tile o.part o.va true .atv = (.ok (.peer a w off), u) →
            (∀ f, u.ask o a (.atomic w (off48 off) (atCode op) x c) = .error f →
              exec (.atomicPerform id) s = .next (u.faultOp o f false o.va 0 0 0)) ∧
            (∀ v, u.ask o a (.atomic w (off48 off) (atCode op) x c) = .ok v → exec (.atomicPerform id) s = .next (v.extAct o.rkey))) ∧
          (s.translate o.tile o.part o.va true .atv = (.ok (.hbm pa), u) →
            (u.served o.part pa = false → exec (.atomicPerform id) s = .next u) ∧
            (u.served o.part pa = true →
              (u.hbmBad pa 8 true = true → faults u 0x0E) ∧
              (u.hbmBad pa 8 true = false → u.hbmPois pa = true → faults u 0x0D) ∧
              (u.hbmBad pa 8 true = false → u.hbmPois pa = false → u.undoFull o.rkey pa 8 = true →
                exec (.atomicPerform id) s = .next (u.ckDue o.rkey)) ∧
              (u.hbmBad pa 8 true = false → u.hbmPois pa = false → u.undoFull o.rkey pa 8 = false →
                let old := BitVec.ofNat 64 (u.hbmNum pa 8)
                exec (.atomicPerform id) s = .next ((u.plainWrite o.rkey pa ((leBytes 8 (atNew op old x c).toNat).map fun b => some (b, false))).opGive o old)))))))

/-- R123, R262: what a directory decides on a write that names a version. One that its command has opened goes on; one that waits for
the version below its own goes on waiting. Otherwise the version after the newest opens if a slot is free; one above it waits while it is
open; eight live versions wait; any other number, and any above the last of 32 bits, faults; a dropped newest is recomputed first. -/
def Claims.VersionedWriteDecision : Prop :=
  ∀ (s : State) (again : Bool) (k : FrameKey) (v : Nat),
    let f := s.frame k
    let res := s.openRes false again k v
    s.openRes true again k v = .go ∧
    (again = true → v = f.next + 1 → res = .wait) ∧
    (again = false ∨ v ≠ f.next + 1 →
      (f.newest = some 0xFFFF_FFFF → res = .fault 0x13) ∧
      (f.newest ≠ some 0xFFFF_FFFF →
        (∀ o, f.open_ = some o → res = if v = o.v + 1 then .wait else .fault 0x13) ∧
        (f.open_ = none →
          (v ≠ f.next → res = .fault 0x13) ∧
          (v = f.next → 8 ≤ (f.vers.filter Ver.live).length → res = .wait) ∧
          (v = f.next → (f.vers.filter Ver.live).length < 8 → s.poolFree k.part = 0 → res = .stall) ∧
          (v = f.next → (f.vers.filter Ver.live).length < 8 → 0 < s.poolFree k.part →
            res = if ∃ n, f.newest = some n ∧ s.dropped k n = true then .miss else .opens))))

/-- R107, R123, R124, R280, R283, R292: an element's access, first or tried again, happens at its home once earlier accesses that it
follows have: a write of a version or of plain memory, a read of either; it waits where the home says so, and stops its engine on a fault.
A plain one whose address lies in this device's HBM reads or writes the bytes there, once the MIT serves it and, for a write, once its
region's undo log has room. A write fixes where the earlier ones of its command lie, so that none of them can fault behind it. -/
def Claims.ElementAccessesHappenAtHome : Prop :=
  ∀ (s u : State) (id pa : Nat) (o : Op) (a : ElemAcc), s.op id = some o → o.kind = .elem a → s.elemBefore o a = false →
    s.frameBefore o o.va = false →
    let waits := fun (u : State) => (Host.Outcome.next u : Out)
    let mine := match (s.engine o.tile a.e).cur with | some r => r.opened | none => []
    let rd := fun (i : Instr) =>
      (∀ d u, readAt s o o.va a.len a.ver = .ok d u → exec i s = .next (u.elemDone o a d)) ∧
      (∀ u, readAt s o o.va a.len a.ver = .wait u → exec i s = waits u) ∧
      (∀ f u, readAt s o o.va a.len a.ver = .bad f u → exec i s = .next (u.elemFault o a f))
    let wr := fun (i : Instr) => ∀ d, a.wr = some d →
      let put := match a.fixed with | some q => s.writeHbm o q d | none => writeAt s o o.va d a.ver mine
      (∀ u, put = .ok none u → exec i s = .next ((u.fixEarlier o a).elemDone o a [])) ∧
      (∀ k u, put = .ok (some k) u → exec i s = .next (((u.modOp o.id fun p => { p with opened := [k] }).fixEarlier o a).elemDone o a [])) ∧
      (∀ u, put = .wait u → u.asked o = false → exec i s = waits u) ∧
      (∀ u, put = .wait u → u.asked o = true → exec i s = waits (u.fixEarlier o a)) ∧
      (∀ f u, put = .bad f u → exec i s = .next (u.elemFault o a f))
    let plain := a.ver = none ∧ o.out = false ∧ o.lost = none ∧ ¬ (bfld o.va 63 48 = 0 ∧ (s.vregOf o.part (winOf o.va) (offOf o.va)).isSome = true) ∧
      s.walkServed o.tile o.part o.va = true
    (a.ver.isSome = true → a.wr = none → a.waits = false → rd (.versionedReadArrive id)) ∧
    (a.ver.isSome = true → a.wr = none → a.waits = true → rd (.versionWaitSatisfied id)) ∧
    (a.ver = none → a.wr = none → rd (.mitBlockAccess id)) ∧
    (a.ver.isSome = true → a.waits = false → wr (.versionedWriteArrive id)) ∧
    (a.ver.isSome = true → a.waits = true → wr (.versionedWriteResume id)) ∧
    (a.ver = none → wr (.mitBlockAccess id)) ∧
    (plain → a.wr = none → s.translate o.tile o.part o.va false .rd = (.ok (.hbm pa), u) →
      (u.served o.part pa = false → exec (.mitBlockAccess id) s = .next u) ∧
      (u.served o.part pa = true → u.hbmBad pa a.len false = true → exec (.mitBlockAccess id) s = .next (u.elemFault o a ⟨0x0E, 0⟩)) ∧
      (u.served o.part pa = true → u.hbmBad pa a.len false = false → exec (.mitBlockAccess id) s = .next (u.elemDone o a (u.hbmRead pa a.len)))) ∧
    (plain → o.slot ≠ 15 → a.fixed = none → ∀ d, a.wr = some d → s.translate o.tile o.part o.va true .wr = (.ok (.hbm pa), u) →
      u.served o.part pa = true → u.hbmBad pa d.length true = false → u.undoFull o.rkey pa d.length = false →
      exec (.mitBlockAccess id) s = .next (((u.plainWrite o.rkey pa d).fixEarlier o a).elemDone o a []))

/-- R124: a version of this device that is visible gives its bytes; one not created yet waits; one that is gone faults. -/
def Claims.VersionedReadDecision : Prop :=
  ∀ (s : State) (k : FrameKey) (v off len : Nat),
    ((s.frame k).code v ≤ 1 → s.readVer k v off len = .wait) ∧
    ((s.frame k).code v = 6 → s.readVer k v off len = .fault 0x14) ∧
    (∀ x, (s.frame k).ver v = some x → (x.st = .resident ∨ x.st = .spilled) → ∃ d, s.readVer k v off len = .data d ∧ d.length = len ∧
      ∀ i < len, d[i]? = some (memGet x.data (off + i), setHas x.pois ((off + i) / 64))) ∧
    (∀ x, (s.frame k).ver v = some x → x.st = .dropped → s.readVer k v off len = .miss)

/-- R126, R127, R294, R295, R305, R367: what `fr.init` and `fr.recipe` do at a directory of this device. `fr.init` goes through its frames
in order: the first that is no frame of a registered region, or is busy, faults with its index; any other starts anew with version 0
alone, and its history's recipes are released, or, where the region defers reclaims, its history is kept until the next checkpoint.
`fr.recipe` needs a version that is open or next, a recomputable region, a registered slice, and sources that are frames of this device's
registered regions and existing versions, below its own in its own frame; it takes one reference to each source and releases those of the
recipe it replaces; a count that would pass 65,535 faults once no source does otherwise. -/
def Claims.InitsAndRecipesAtTheDirectory : Prop :=
  (∀ (s : State) (o : Op) (i n : Nat),
    let va := vaWith o.va ((offOf o.va : Int) + 4096 * i)
    let k := frameOf o.part va
    let registered := (s.vregOf o.part (winOf va) (offOf va)).isSome = true ∧ offOf o.va + 4096 * i < 2 ^ 48
    let busy := ∃ x ∈ (s.frame k).vers, x.st = .opened ∨ x.pins ≠ 0 ∨ x.reads ≠ 0 ∨ x.refill ≠ 0 ∨ ∃ q ∈ s.rcReqs, q.frame = k ∧ q.v = x.v
    (s.frame k).key = k →
    s.initFrames o i 0 = s.opDone o ∧
    (¬ registered → s.initFrames o i (n + 1) = s.faultOp o ⟨0x11, 0⟩ false va 0 i 0) ∧
    (registered → busy → s.initFrames o i (n + 1) = s.faultOp o ⟨0x12, 0⟩ false va 0 i 0) ∧
    (registered → ¬ busy → s.initFrames o i (n + 1) = (s.initFrame o.rkey k).initFrames o (i + 1) n)) ∧
  (∀ (s : State) (rkey : Nat) (k : FrameKey), ∃ u : State,
    u.frame k = { key := k, newest := some 0, gen := s.newId, recl := 0, vers := [zeroVer] } ∧ (∀ g, g ≠ k → u.frame g = s.frame g) ∧
    u.regions = s.regions ∧
    (s.defers rkey = true → s.initFrame rkey k = u.deferRecl rkey (.init (s.frame k))) ∧
    (s.defers rkey = false → s.initFrame rkey k = (s.frame k).vers.foldl (fun s x => s.releaseRecipe x.recipe) u)) ∧
  ∀ (s : State) (o : Op) (k : FrameKey) (r : Recipe),
    let f := s.frame k
    let faults := fun (kind : Byte) (j : Nat) => s.attach o k r = s.faultOp o ⟨kind, 0⟩ false o.va r.v j r.v
    let region := fun (g : FrameKey) => s.vregOf g.part g.win (g.fr.toNat * 4096)
    let odd := fun (g : FrameKey) (v : Nat) => region g = none ∨ s.homed g = false ∨ (s.frame g).code v < 2 ∨ 5 < (s.frame g).code v ∨ (g = k ∧ r.v ≤ v)
    let rref := fun (t : State) (g : FrameKey) (v : Nat) => ((t.frame g).ver v).elim 0 (·.rref)
    let brims := fun (j : Nat) (g : FrameKey) (v : Nat) => 65535 ≤ rref s g v + ((r.srcs.take j).filter (· == (g, v))).length
    let first := fun (j : Nat) (P : Nat → FrameKey → Nat → Prop) => (∃ g v, r.srcs[j]? = some (g, v) ∧ P j g v) ∧
      ∀ i < j, ∀ g v, r.srcs[i]? = some (g, v) → ¬ P i g v
    let none_ := fun (P : Nat → FrameKey → Nat → Prop) => ∀ j g v, r.srcs[j]? = some (g, v) → ¬ P j g v
    let legal := f.code r.v = 1 ∨ (f.code r.v = 0 ∧ r.v = f.next)
    let recomp := (region k).map (·.recomp) = some true
    let slice := ∃ x ∈ s.slices, x.part = o.part ∧ x.id = r.slice
    (¬ legal → faults 0x19 0) ∧ (legal → ¬ recomp → faults 0x1A 0) ∧ (legal → recomp → ¬ slice → faults 0x1B 0) ∧
    (legal → recomp → slice →
      (∀ j, first j (fun _ => odd) → faults 0x1C j) ∧
      (none_ (fun _ => odd) → ∀ j, first j brims → faults 0x17 j) ∧
      (none_ (fun _ => odd) → none_ brims → ∃ t : State,
        s.attach o k r = (t.releaseRecipe ((f.ver r.v).bind (·.recipe))).opDone o ∧
        ((t.frame k).ver r.v).bind (·.recipe) = some { r with gens := r.srcs.map fun p => (s.frame p.1).gen } ∧
        ∀ g v, ((s.frame g).ver v).isSome = true → rref t g v = rref s g v + (r.srcs.filter (· == (g, v))).length))

/-- R119, R126, R128: a frame operation performed at a directory of this device, of a region without deferred reclaims, once earlier
operations of its task have reached its frame: `fr.wait` gives its version once it is visible, or has been since it arrived, and waits
before; `fr.pin` and `fr.unpin` count, within 65,535 and 0; `fr.recl` moves the reclaim point up; `fr.stat` gives the frame's or the
version's state. -/
def Claims.FrameOperationsArePerformed : Prop :=
  ∀ (s : State) (id : Nat) (o : Op) (op : FrOp) (w : Bool), s.op id = some o → o.kind = .frame op w → o.sent = true → o.stop = none →
    o.out = false →
    let k := frameOf o.part o.va
    let f := s.frame k
    let pins := fun v => (f.ver v).elim 0 (·.pins)
    let tries := fun (i : Instr) => (w = false ∧ i = .directoryFrameOp id) ∨ (w = true ∧ i = .versionWaitSatisfied id)
    (∀ v i, op = .wait v → tries i → o.met = true → exec i s = .next (s.opGive o (w64 v))) ∧
    (o.met = false → o.lost = none → (∀ n < (frameSpan o).2, s.placeBefore o (vaWith o.va (((frameSpan o).1 + n) * 4096 : Nat)) 4096 true = false) →
      s.winServed o.part o.va = true → s.frameTarget o.part o.va = .ok none → s.frameServed k = true → offOf o.va % 4096 = 0 →
      (s.vregOf o.part (winOf o.va) (offOf o.va)).isSome = true → s.defers o.rkey = false →
      (∀ v i, op = .wait v → tries i →
        (2 ≤ f.code v → f.code v ≤ 5 → exec i s = .next (s.opGive o (w64 v))) ∧
        (f.code v = 6 → exec i s = .next (s.faultOp o ⟨0x14, 0⟩ false o.va v 0 v)) ∧
        (f.code v ≤ 1 → exec i s = .next (s.modOp o.id fun p => match p.kind with | .frame _ _ => { p with kind := .frame op true } | _ => p))) ∧
      (w = false →
        let does := fun (u : State) => exec (.directoryFrameOp id) s = .next u
        let bad := fun (kind : Byte) (v : Nat) => does (s.faultOp o ⟨kind, 0⟩ false o.va v 0 v)
        (∀ v, op = .pin v → (f.code v = 6 → bad 0x14 v) ∧ (f.code v ≠ 6 → pins v = 65535 → bad 0x17 v) ∧
          (f.code v ≠ 6 → pins v ≠ 65535 → does ((s.modVer k v fun x => { x with pins := x.pins + 1 }).opDone o))) ∧
        (∀ v, op = .unpin v → (pins v = 0 → bad 0x18 v) ∧
          (pins v ≠ 0 → does ((State.tryRetire retireFuel (s.modVer k v fun x => { x with pins := x.pins - 1 }) k v).opDone o))) ∧
        (∀ v, op = .recl v → (f.next < v → bad 0x15 v) ∧ (v = 0 → does (s.opDone o)) ∧
          (v ≤ f.next → v ≠ 0 → does (((s.setFrame { f with recl := max f.recl v }).retireBelow k).opDone o))) ∧
        (op = .stat none → does (s.opGive o (w64 (s.frameWord k)))) ∧
        ∀ v, op = .stat (some v) → does (s.opGive o (w64 (f.verWord v)))))

/-- R140, R141: what a rank receives. `cl.gather` joins the parts of all ranks in rank order at the root, or everywhere; `cl.scatter` gives
each rank its part of the root's data; `cl.recv` the sender's; `cl.reduce` the elements reduced over the ranks in rank order, whole or this
rank's share: floating-point ones in FP32, each step rounded once, the last result once to the element type; integers wrap or compare as
signed. A reduced element is poisoned where any rank's is. -/
def Claims.CollectiveResults : Prop :=
  ∀ (c : Coll) (t : EType) (data : Nat → List (Byte × Bool)), etypeOf c.ety.toNat = some t →
    let size := c.size.toNat
    let count := c.count.toNat
    let bytes := etWidth t / 8
    let part := count * bytes
    let r := c.result data
    let here := c.peer = 0xFFFF_FFFF ∨ c.peer = c.rank
    let byte := fun (q i : Nat) => (data q).getD i (0, false)
    (c.op = .gather → here → r.length = size * part ∧ ∀ q < size, ∀ j < part, r[q * part + j]? = some (byte q j)) ∧
    (c.op = .scatter → c.peer ≠ 0xFFFF_FFFF → r.length = part ∧ ∀ j < part, r[j]? = some (byte c.peer.toNat (c.rank.toNat * part + j))) ∧
    (c.op = .recv → c.peer ≠ 0xFFFF_FFFF → r.length = part ∧ ∀ j < part, r[j]? = some (byte c.peer.toNat j)) ∧
    (c.op = .send → r = []) ∧ (c.op = .gather → ¬ here → r = []) ∧ (c.op = .reduce → size ≠ 1 → c.rs = false → ¬ here → r = []) ∧
    (c.op = .reduce → c.size = 1 → r.length = part ∧ ∀ j < part, r[j]? = some (byte 0 j)) ∧
    (c.op = .reduce → c.size ≠ 1 → (c.rs = true ∨ here) → r.length = part ∧ ∀ i < count, ∀ j < bytes,
      let at_ := ((if c.rs then c.rank.toNat * count else 0) + i) * bytes
      r[i * bytes + j]? = (redElem c.rop.toNat t ((List.range size).map data) (at_ / bytes))[j]?) ∧
    (∀ (op i : Nat) (d : List (Byte × Bool)) (ds : List (List (Byte × Bool))),
      let num := fun (d : List (Byte × Bool)) => leNat ((List.range bytes).map fun j => (d.getD (bytes * i + j) (0, false)).1)
      redElem op t (d :: ds) i = (leBytes bytes (redOut t ((ds.map fun d => redIn t (num d)).foldl (redStep op t) (redIn t (num d))))).map fun b =>
        (b, decide (∃ d' ∈ d :: ds, ∃ j < bytes, (d'.getD (bytes * i + j) (0, false)).2 = true))) ∧
    (∀ f, etFmt t = some f → ∀ a b : Nat,
      redIn t a = fF32.round 0 0 false (f.val a) ∧ redOut t a = f.round 0 0 false (fF32.val a) ∧
      redStep 0 t a b = fF32.round 0 0 false ((fF32.val a).add (fF32.val b)) ∧
      redStep 1 t a b = fF32.round 0 0 false ((fF32.val a).minv (fF32.val b)) ∧
      redStep 2 t a b = fF32.round 0 0 false ((fF32.val a).maxv (fF32.val b))) ∧
    (etFmt t = none → ∀ a b : Nat, redIn t a = a ∧ redOut t a = a ∧ redStep 0 t a b = (a + b) % 2 ^ etWidth t ∧
      (redStep 1 t a b = if sgn (etWidth t) b < sgn (etWidth t) a then b else a) ∧
      (redStep 2 t a b = if sgn (etWidth t) a < sgn (etWidth t) b then b else a) ∧ redStep 3 t a b = (a &&& b) ∧ redStep 4 t a b = (a ||| b))

/-- R134 to R137, R140 to R142, R350: the scheduler releases a card once no earlier card of its region has an edge to it, in issue order
(the model's choice, log 58); a card, and a collective, completes when its last byte is written, and its versions become visible; `cp.wait`
delivers the count once every operation that it names is gone; a collective of one rank, its source read and those before it exchanged, has
its result from its own data, and one of several ranks, allowed by the group table, from the matching parts of them all: it faults where the
table does not allow it, no link is up, a rank's inbound table refuses it, or a rank's parameters differ, and waits for a rank that has not
come. -/
def Claims.CardsAndCollectivesComplete : Prop :=
  ∀ (s : State) (id : Nat) (o : Op), s.op id = some o → o.stop = none → o.out = false →
    (∀ c n b p, o.kind = .card c false n b p → o.sent = true →
      (∀ q ∈ s.ops, q.rkey = o.rkey → q.id < o.id → ∀ d r n b p, q.kind = .card d r n b p → d.edge c = false) →
      exec (.cardRelease id) s = .next (s.modOp id fun o => { o with kind := .card c true n b p })) ∧
    (∀ c n b p, o.kind = .card c true n b p → c.rows * c.rbytes ≤ n → (∀ k ∈ o.opened, s.winServed k.1.part (frameVa k.1) = true) →
      exec (.cardComplete id) s = .next ((s.finishOpened o.part o.rkey o.opened o.id).opDone o)) ∧
    (∀ w l n, o.kind = .cpWait w l n → o.sent = true → (∀ q ∈ s.ops, q.id ∉ l) →
      exec (.cpWaitDeliver id) s = .next (s.opGive o (w64 n))) ∧
    (∀ c src n, o.kind = .coll c src none n → o.sent = true → s.earlierOut o = false → s.collBefore o c = false → c.srcLen ≤ src.length → c.others = [] →
      let r := c.result fun q => if q = c.rank.toNat then src else []
      exec (.collectiveExchange id []) s =
        .next (((s.modOp id fun o => { o with kind := .coll c src (some r) n }).extAct o.rkey).progress o.rkey)) ∧
    (∀ c src n ranks, o.kind = .coll c src none n → o.sent = true → s.earlierOut o = false → s.collBefore o c = false → c.srcLen ≤ src.length →
      c.others ≠ [] → s.collServed o.part c = true →
      let given := fun (q : Nat) => ranks.find? fun x => x.rank == q && s.rankMatches o.part c x
      let gives := fun (u : State) => exec (.collectiveExchange id ranks) s = .next u
      let bad := fun (f : Flt) => gives (s.faultOp o f false o.va 0 0 0)
      let refused := ∃ q ∈ c.others, ∃ x ∈ ranks, x.rank = q ∧ x.group = c.group ∧ x.refused = true
      (∀ f, s.collAuth o.part c = .error f → bad f) ∧
      (s.collAuth o.part c = .ok () →
        (s.upPort = none → bad ⟨0x0B, 0⟩) ∧ (s.upPort ≠ none → refused → bad ⟨0x0A, 0⟩) ∧
        (s.upPort ≠ none → ¬ refused → (∃ q ∈ c.others, given q = none) → gives s) ∧
        (s.upPort ≠ none → ¬ refused → (∀ q ∈ c.others, (given q).isSome = true) →
          ((∃ q ∈ c.others, ∃ x, given q = some x ∧ c.differs x = true) → bad ⟨0x2D, 0⟩) ∧
          ((∀ q ∈ c.others, ∀ x, given q = some x → c.differs x = false) →
            let r := c.result fun q => if q = c.rank.toNat then src else ((given q).map (·.data)).getD []
            gives (((s.modOp id fun o => { o with kind := .coll c src (some r) n }).extAct o.rkey).progress o.rkey))))) ∧
    (∀ c src r n, o.kind = .coll c src (some r) n → r.length ≤ n → (∀ k ∈ o.opened, s.winServed k.1.part (frameVa k.1) = true) →
      exec (.collectiveComplete id) s = .next ((s.finishOpened o.part o.rkey o.opened o.id).opDone o))

/-- R286 to R289: what a legal Prism program makes of a unit of 64 bytes: each cell its operation on two values among the unit's words,
the state words, its immediate and earlier cells; output words and state words take the values that their selects name, all at once. A
stream's state words start at the program's; one updated from a poisoned unit is poisoned; with TAIL a stream read pushes the state words
after its last data token, in lanes 0 to 7 alone, with their poison and the next tag. (What a select's code 24 names the spec does not say.) -/
def Claims.PrismProgramsComputeUnits : Prop :=
  (∀ (p : List Byte) (ss : Vector Lane 8) (u : List Byte), prismOk p = true →
    let byte := fun (i : Nat) => (p.getD i 0).toNat
    let word := fun (l : List Byte) (i : Nat) => leNat ((l.drop i).take 4)
    let out := prismUnit p ss u
    ∃ cell : Nat → Nat,
      let src := fun (imm code : Nat) => if code < 16 then word u (4 * code) else if code < 24 then (vget ss (code - 16) 0).toNat
        else if code = 24 then ((BitVec.ofNat 8 imm).signExtend 32).toNat else cell (code - 32)
      (∀ c < 64, let w := word p (128 + 4 * c)
        let imm := w / 2 ^ 5 % 2 ^ 8
        cell c = cellOp (w / 2 ^ 27 % 2 ^ 5) imm (src imm (w / 2 ^ 20 % 2 ^ 7)) (src imm (w / 2 ^ 13 % 2 ^ 7))) ∧
      (∀ k < 16, byte (48 + k) ≠ 24 → (out.1.drop (4 * k)).take 4 = leBytes 4 (src 0 (byte (48 + k)))) ∧
      (∀ j < 8, byte (64 + j) % 128 ≠ 24 →
        vget out.2 j 0 = if 128 ≤ byte (64 + j) then .ofNat 32 (src 0 (byte (64 + j) % 128)) else vget ss j 0) ∧
      (∀ j < 8, vget (prismInit p) j 0 = .ofNat 32 (word p (16 + 4 * j))) ∧
      ∀ (old : BitVec 8), ∀ j < 8, (prismPois p true old).getLsbD j = (decide (128 ≤ byte (64 + j)) || old.getLsbD j)) ∧
  ∀ (s : State) (t : Nat) (e : EngineId) (r : CmdRun), (s.engine t e).cur = some r → r.cmd.kind ≠ .write → r.cmd.kind ≠ .prism →
    r.cmd.kind ≠ .syn → s.engRuns t r.cmd = true → r.total ≤ r.head * r.perTok → s.destRoom t r.cmd = true → r.cmd.viaPrism = true →
    (r.prog.getD 1 0).getLsbD 0 = true → r.tailOut = false → ∃ x : Token,
      exec (.streamReadPush t e) s =
        .next (((s.destPush t r.cmd x).setRun t e { r with tailOut := true, head := r.head + 1 }).cmdProgress t r.cmd) ∧
      x.kind = .data ∧ x.valid = 0x00FF ∧ x.poison = r.pspois.setWidth 16 ∧ x.tag = r.cmd.tagAt r.head ∧
      ∀ j < 8, x.data.extractLsb' (32 * j) 32 = vget r.ps j 0

/-- R287: the operations of a cell: the integer ones on 32-bit words, the FP ones as one rounding RNE of an exact value, the CRC-32C
register updated with four bytes, low byte first. -/
def Claims.PrismCellsComputeTheirOps : Prop :=
  ∀ (imm a b : Nat), a < 2 ^ 32 → b < 2 ^ 32 →
    let i := imm % 4
    let byte := a / 2 ^ (8 * i) % 256
    let x := BitVec.ofNat 32 a
    let y := BitVec.ofNat 32 b
    let op := fun (n : Nat) => BitVec.ofNat 32 (cellOp n imm a b)
    let rne := fun (v : FVal) => fF32.round 0 0 false v
    let crc := fun (r c : Nat) => (List.range 8).foldl (fun z _ => if z % 2 = 1 then z / 2 ^^^ 0x82F6_3B78 else z / 2) (r ^^^ c)
    op 0 = x ∧ op 1 = x + y ∧ op 2 = x - y ∧ op 3 = x &&& y ∧ op 4 = x ||| y ∧ op 5 = x ^^^ y ∧ op 6 = x <<< (b % 32) ∧ op 7 = x >>> (b % 32) ∧
    op 8 = x.sshiftRight (b % 32) ∧ op 9 = x * y ∧ cellOp 15 imm a b = byte ∧ op 16 = y.extractLsb' 0 16 ++ x.extractLsb' 0 16 ∧
    (∀ k < 4, cellOp 17 imm a b / 2 ^ (8 * k) % 256 = if k = i then b % 256 else a / 2 ^ (8 * k) % 256) ∧
    cellOp 18 imm a b = max a b ∧ cellOp 19 imm a b = min a b ∧
    cellOp 20 imm a b = crc (crc (crc (crc a (b % 256)) (b / 2 ^ 8 % 256)) (b / 2 ^ 16 % 256)) (b / 2 ^ 24 % 256) ∧
    cellOp 10 imm a b = rne ((fF32.val a).mul (fF32.val b)) ∧ cellOp 11 imm a b = rne ((fF32.val a).add (fF32.val b)) ∧
    cellOp 12 imm a b = rne (fE4M3.val byte) ∧ cellOp 13 imm a b = rne (fE5M2.val byte) ∧
    cellOp 14 imm a b = rne (fBF16.val (a / 2 ^ (16 * (imm % 2)) % 2 ^ 16)) ∧
    cellOp 21 imm a b = (if b % 256 = 255 then fF32.nan else rne ((fF32.val a).scale ((b % 256 : Nat) - 127 : Int))) ∧
    cellOp 22 imm a b = toE8 1 (fF32.val a)

/-- R281 to R283: the stored image of a block is that of the mode of least size among those that fit, the lower code on a tie, ESCAPE where
none fits; its slot is 160 bytes, zero after the encoded size, or the 256 of the block; and it decodes to the block. -/
def Claims.CompressorChoosesTheLeastMode : Prop :=
  ∀ (b : List Byte), b.length = 256 →
    let nz := (b.filter (· ≠ 0)).length
    let unit := fun (n i : Nat) => leNat ((b.drop (n * i)).take n)
    let fits := fun (n w : Nat) => ∀ i, 1 ≤ i → i < 256 / n →
      let d := (BitVec.ofNat (8 * n) (unit n i + 2 ^ (8 * n) - unit n (i - 1))).toInt
      d < (2 ^ (w - 1) : Nat) ∧ -(2 ^ (w - 1) : Nat) ≤ d
    let least := fun (n w : Nat) => 1 ≤ w ∧ fits n w ∧ ∀ v, 1 ≤ v → fits n v → w ≤ v
    let fit_ := fun (m size : Nat) => (m = 0 ∧ nz = 0 ∧ size = 0) ∨ (m = 1 ∧ nz ≤ 128 ∧ size = 32 + nz) ∨
      (m = 2 ∧ ∃ w ≤ 19, least 4 w ∧ size = 5 + (63 * w + 7) / 8) ∨ (m = 3 ∧ ∃ w ≤ 9, least 2 w ∧ size = 3 + (127 * w + 7) / 8)
    let m := (encodeBlock b).1.code
    let img := (encodeBlock b).2
    (m = 4 ∨ ∃ n, fit_ m n) ∧ (m = 4 ↔ ∀ k l, ¬ fit_ k l) ∧ (∀ n, fit_ m n → ∀ k l, fit_ k l → n < l ∨ (n = l ∧ m ≤ k)) ∧
    img.length = (if m = 4 then 256 else 160) ∧ (∀ n, fit_ m n → ∀ i, n ≤ i → i < 160 → img.getD i 0 = 0) ∧
    decodeBlock m img = some b

/-! ## The fabric (R11, R75, R91, R114 to R117, R322, R326) -/

/-- R11, R12, R91: a circuit of a committed region with room takes its source's next token, one pushed there by a junction or the head of
its output port, which is its region's progress; and a token on it moves one stage on where the stage ahead has room and no token stands
before it there. No token moves on the circuits of a region not yet committed. That a stage holds two tokens, that a route without hops is one
stage, and that a source end holds what a junction pushes is the model's choice (log 6). -/
def Claims.TokensHopAlongTheirCircuit : Prop :=
  ∀ (s : State) (rg c n : Nat) (r : Region) (q : Circuit), s.region rg = some r → s.circ rg c = some q →
    let port : BitVec 3 := .ofNat 3 q.src.ep.toNat
    let out := vget (s.lt q.src.tile q.src.ph).outP port.toNat {}
    let enters := fun (x : Token) (u : State) => exec (.tokenHop rg c 0) s =
      .next ((u.modCirc rg c fun q => { q with flight := q.flight ++ [(0, x)] }).progress rg)
    (r.st = .fetched → exec (.tokenHop rg c n) s = .next s) ∧
    (r.st ≠ .fetched →
      (∀ x l, q.at_ 0 < 2 → q.entry = x :: l → enters x (s.modCirc rg c fun q => { q with entry := l })) ∧
      (∀ x l, q.at_ 0 < 2 → q.entry = [] → 8 ≤ q.src.ep.toNat → q.src.ep.toNat < 16 → out.fifo = .tok x :: l →
        enters x (s.modLt q.src.tile q.src.ph fun y => { y with outP := vset y.outP port.toNat { out with fifo := l } })) ∧
      (2 ≤ q.at_ 0 → exec (.tokenHop rg c 0) s = .next s) ∧
      exec (.tokenHop rg c (n + 1)) s = .next (s.modCirc rg c fun q => { q with flight := hopAt q.stages q.flight n })) ∧
    (∀ pos x, q.flight[n]? = some (pos, x) → pos + 1 < q.stages → q.at_ (pos + 1) < 2 → (∀ p y, n ≠ 0 → q.flight[n - 1]? = some (p, y) → pos < p) →
      hopAt q.stages q.flight n = q.flight.set n (pos + 1, x)) ∧
    ∀ pos x, q.flight[n]? = some (pos, x) → (q.stages ≤ pos + 1 ∨ 2 ≤ q.at_ (pos + 1)) → hopAt q.stages q.flight n = q.flight

/-- R91, R114, R312, R322, R326: the oldest token of a circuit, at its end, enters the input FIFO of four, and readies an idle task
that the port triggers; or the junction side's buffer of two; where the FIFO or the buffer is full it waits. A freeze catches it, and one
with no live consumer is discarded into the running burst. The stages of a circuit are the model's choice (log 6). -/
def Claims.TokensArriveAtTheirEndpoint : Prop :=
  ∀ (s : State) (rg c pos : Nat) (r : Region) (q : Circuit) (x : Token) (l : List (Nat × Token)),
    s.region rg = some r → s.circ rg c = some q → q.flight = (pos, x) :: l → q.stages ≤ pos + 1 → x.kind ≠ .marker →
    let u := s.modCirc rg c fun q => { q with flight := l }
    let p : BitVec 3 := .ofNat 3 q.dst.ep.toNat
    let fifo := (vget (s.lt q.dst.tile q.dst.ph).inP p.toNat {}).fifo
    let side := vget (vget (s.lt q.dst.tile q.dst.ph).junc p.toNat {}).buf q.dst.side.toNat []
    (∀ why, r.st = .freezing why → exec (.tokenArrive rg c) s = .next (u.modCirc rg c fun q => { q with caught := q.caught ++ [x] })) ∧
    ((∀ why, r.st ≠ .freezing why) →
      (q.dst.ep.toNat < 8 → s.isLate q.dst.tile q.dst.ph p = false →
        (fifo.length < 4 → exec (.tokenArrive rg c) s =
          .next (((u.modIn q.dst.tile q.dst.ph p fun i => { i with fifo := i.fifo ++ [x] }).wake q.dst.tile q.dst.ph p).progress rg)) ∧
        (4 ≤ fifo.length → exec (.tokenArrive rg c) s = .next s)) ∧
      (q.dst.ep.toNat < 8 → s.isLate q.dst.tile q.dst.ph p = true → exec (.tokenArrive rg c) s =
        .next ((u.modIn q.dst.tile q.dst.ph p fun i => { i with late := some (burstAdd s.cycle x i.late) }).progress rg)) ∧
      (8 ≤ q.dst.ep.toNat →
        (side.length < 2 → exec (.tokenArrive rg c) s = .next ((u.modJunc q.dst.tile q.dst.ph p fun y =>
          { y with buf := vset y.buf q.dst.side.toNat (vget y.buf q.dst.side.toNat [] ++ [x]) }).progress rg)) ∧
        (2 ≤ side.length → exec (.tokenArrive rg c) s = .next s)))

/-- R326, R360: a burst of discards ends 1,024 cycles after its last, with a LATE_TOKEN event of its count; one that goes on past 2^20
cycles reports its count and counts anew. -/
def Claims.LateTokenBurstsReport : Prop :=
  ∀ (s : State) (t : Nat) (ph : BitVec 2) (p : BitVec 3) (b : Burst), (vget (s.lt t ph).inP p.toNat {}).late = some b →
    (b.last + 1024 ≤ s.cycle → exec (.lateTokenBurstEnd t ph p) s = .next ((s.latePost t ph p b).modIn t ph p fun i => { i with late := none })) ∧
    (s.cycle < b.last + 1024 → exec (.lateTokenBurstEnd t ph p) s = .next s) ∧
    (b.first + 2 ^ 20 ≤ s.cycle → s.cycle < b.last + 1024 → exec (.lateTokenLongBurst t ph p) s =
      .next ((s.latePost t ph p b).modIn t ph p fun i => { i with late := some { b with count := 0, first := s.cycle } })) ∧
    ((s.part (s.partAt t ph)).fq.length < 64 → ∃ r : FaultRec, s.latePost t ph p b = s.setPart (s.partAt t ph)
        { s.part (s.partAt t ph) with fq := (s.part (s.partAt t ph)).fq ++ [r], seq := (s.part (s.partAt t ph)).seq + 1 } ∧
      r.kind = 0x82 ∧ r.va = .ofNat 64 b.count)

/-- R75, R303: the oldest getw that waits at a port takes the head that comes, while its region runs; so does the oldest of slot 15 at
the two private FIFOs of its recompute's input ports, 6 and 7. -/
def Claims.WaitingGetwTakesTheHead : Prop :=
  ∀ (s : State) (t : Nat) (ph : BitVec 2) (p : BitVec 3),
    let i := vget (s.lt t ph).inP p.toNat {}
    (∀ q l x r, i.getws = q :: l → i.fifo = x :: r →
      (s.regionRuns (s.lt t ph).key = true → exec (.getwDeliver t ph p) s =
        .next (((s.modIn t ph p fun i => { i with getws := l, fifo := r }).getwGive t q.slot p q x).progressAt t ph)) ∧
      (s.regionRuns (s.lt t ph).key = false → exec (.getwDeliver t ph p) s = .next s)) ∧
    ((i.getws = [] ∨ i.fifo = []) → ∀ q l x r,
      (p = 6 → (s.tile t).rcGetw6 = q :: l → (s.tile t).rc6 = .tok x :: r → exec (.getwDeliver t ph p) s =
        .next ((s.modTile t fun y => { y with rcGetw6 := l, rc6 := r }).getwGive t 15 p q x)) ∧
      (p = 7 → (s.tile t).rcGetw7 = q :: l → (s.tile t).rc7 = .tok x :: r → exec (.getwDeliver t ph p) s =
        .next ((s.modTile t fun y => { y with rcGetw7 := l, rc7 := r }).getwGive t 15 p q x)))

/-- R114, R117: what the junctions that pass tokens on do with their heads. Pass and prime forward; fork copies to every side of MASK at
once; steer follows the lane of a predicate or, under SELF, of the token itself, inverted by SENSE, gives every other head to both
outputs, and drops a predicate head that is no data; merge takes a SELECT and forwards the tokens it states, or those up to the end of
stream; a gate takes a release, then forwards a recirculated head or, below its limit, admits one. That a predicate's lane steers whatever
its valid and poison bits is the model's choice (log 41). -/
def Claims.JunctionsForwardTokens : Prop :=
  ∀ (s : State) (t : Nat) (ph : BitVec 2) (j : BitVec 3) (x q : Token),
    let a : JAt := ⟨t, ph, j⟩
    let y := a.get s
    let is := fun k => a.ready s k
    ((is 0 ∨ is 8) → a.head s 0 = some x → a.room s 1 = true → exec (.junctionPass t ph j) s = a.fired s (a.move s x 0 1)) ∧
    (is 1 → a.head s 0 = some x →
      let mask := [1, 2, 3].filter fun k => (a.fld s 59 57).testBit (k - 1)
      ((∀ k ∈ mask, a.room s k = true) → exec (.junctionFork t ph j) s = a.fired s (mask.foldl (fun s k => a.push s k x) (a.pop s 0))) ∧
      ((∃ k ∈ mask, a.room s k = false) → exec (.junctionFork t ph j) s = .next s)) ∧
    (is 3 →
      let self := a.fld s 59 59 = 1
      let way := fun (q : Token) => if (q.lane (a.fld s 57 54) != 0) != (a.fld s 58 58 == 1) then 2 else 1
      (a.head s 0 = some x → x.kind = .data →
        (self → a.room s (way x) = true → exec (.junctionSteer t ph j) s = a.fired s (a.move s x 0 (way x))) ∧
        (¬ self → a.head s 3 = some q → q.kind = .data → a.room s (way q) = true →
          exec (.junctionSteer t ph j) s = a.fired s (a.move (a.pop s 3) x 0 (way q))) ∧
        (¬ self → a.head s 3 = none → exec (.junctionSteer t ph j) s = .next s)) ∧
      (a.head s 0 = some x → x.kind ≠ .data → (self ∨ a.head s 3 = none ∨ (a.head s 3 = some q ∧ q.kind = .data)) →
        a.room s 1 = true → a.room s 2 = true → exec (.junctionSteer t ph j) s = a.fired s (a.push (a.move s x 0 1) 2 x)) ∧
      (¬ self → a.head s 3 = some q → q.kind ≠ .data → a.head s 0 = none → exec (.junctionSteer t ph j) s = a.fired s (a.pop s 3))) ∧
    (is 4 →
      (y.sel = none → a.head s 3 = some x → x.kind = .control → x.lane 0 % 256 = 5 → exec (.junctionMerge t ph j) s =
        a.fired s (a.mod (a.pop s 3) fun y => { y with sel := some { side := x.lane 1 % 2 == 1, left := x.lane 2, toEos := x.lane 2 == 0 } })) ∧
      ∀ m, y.sel = some m → a.head s m.side.toNat = some x → a.room s 2 = true →
        (m.toEos = false → exec (.junctionMerge t ph j) s = a.fired s (a.mod (a.move s x m.side.toNat 2) fun y =>
          { y with sel := if m.left ≤ 1 then none else some { m with left := m.left - 1 } })) ∧
        (m.toEos = true → exec (.junctionMerge t ph j) s = a.fired s (a.mod (a.move s x m.side.toNat 2) fun y =>
          { y with sel := if x.kind = .eos then none else some m }))) ∧
    (is 9 →
      let u := if (a.head s 3).isSome then a.mod (a.pop s 3) fun y => { y with occ := y.occ - 1 } else s
      (a.head u 2 = some x → exec (.junctionGate t ph j) s = a.fired s (if a.room u 1 = true then a.move u x 2 1 else u)) ∧
      (a.head u 2 = none → a.head u 0 = some x → exec (.junctionGate t ph j) s = a.fired s
        (if (a.get u).occ < a.fld u 59 52 ∧ a.room u 1 = true then a.mod (a.move u x 0 1) fun y => { y with occ := y.occ + 1 } else u)) ∧
      (a.head u 2 = none → a.head u 0 = none → exec (.junctionGate t ph j) s = a.fired s u))

/-- R117: a join forwards to side 2 by turns or by NA and NB, by tag, or by arrival. In the first three modes an end of stream closes its
side and the join goes on from the other; that of the other is forwarded and opens both sides again. How the tag join closes a side, and
which side it takes first, is the model's choice (log 40). -/
def Claims.JoinsTakeTheirHeads : Prop :=
  ∀ (s : State) (t : Nat) (ph : BitVec 2) (j : BitVec 3) (x : Token),
    let a : JAt := ⟨t, ph, j⟩
    let y := a.get s
    let gives := fun (u : State) => exec (.junctionJoin t ph j) s = a.fired s u
    let mode := a.fld s 59 58
    let shut := fun (k : Nat) => y.closed = some (k == 1)
    let ends := fun (k : Nat) =>
      (y.closed = none → gives (a.mod (a.pop s k) fun y => { y with closed := some (k == 1) })) ∧
      (y.closed ≠ none → a.room s 2 = true →
        gives (a.mod (a.move s x k 2) fun y => { y with closed := none, turn := 0, expect := .ofNat 6 (a.fld s 41 36) }))
    a.ready s 2 →
      (mode = 0 ∨ mode = 2 →
        let n0 := if mode = 0 then 1 else a.fld s 57 50
        let n1 := if mode = 0 then 1 else a.fld s 49 42
        let want := if y.turn < n0 then 0 else 1
        ∀ k, k = (if shut want then 1 - want else want) →
          (a.head s k = none → exec (.junctionJoin t ph j) s = .next s) ∧
          (a.head s k = some x → x.kind = .eos → ends k) ∧
          (a.head s k = some x → x.kind ≠ .eos → a.room s 2 = true →
            gives (a.mod (a.move s x k 2) fun y => { y with turn := if y.closed.isSome then y.turn else (y.turn + 1) % (n0 + n1) }))) ∧
      (mode = 1 → ∀ k < 2, ¬ shut k → a.head s k = some x →
        let other := fun (z : Token) => ¬ shut (1 - k) ∧ a.head s (1 - k) = some z
        (x.kind = .eos → (k = 1 → ∀ z, other z → z.kind ≠ .eos) → ends k) ∧
        (x.kind ≠ .eos → (∀ z, other z → z.kind ≠ .eos) → x.tag = y.expect → (k = 1 → ∀ z, other z → z.tag ≠ y.expect) →
          a.room s 2 = true → gives (a.mod (a.move s x k 2) fun y => { y with expect := y.expect + 1 }))) ∧
      (mode = 3 → (a.room s 2 = true →
        (a.head s 0 = some x → gives (a.move s x 0 2)) ∧ (a.head s 0 = none → a.head s 1 = some x → gives (a.move s x 1 2))))

/-- R89, R117, R156, R168: the junctions that make or check tokens. A loop generator takes a bound and gives its sequence, sixteen
elements a token, then under ENDGRP an END_GROUP with the bound's number; random gives its next token; convert turns a head's valid
elements into the result format, in stochastic mode with a random token, gives full tokens, flushes at an end of stream, and changes its
mode at a CVTSYNC with its CVTMODE; tag check forwards the expected tag, resets at an end of stream, stops with TAG_SEQ on another, and lets
control tokens pass. The tag of a random or converted token the spec leaves open: it is some fixed value of the junction's word, the token's
number and its payload (log 3). That a bound's lanes are read whatever their bits, that a loop generator passes other heads on, that a
stochastic conversion takes one random token with each head (log 41), and that a control token overtakes the elements that wait for a full
token (log 58), is the model's choice. -/
def Claims.JunctionsMakeTokens : Prop :=
  ∀ (s : State) (t : Nat) (ph : BitVec 2) (j : BitVec 3) (x : Token),
    let a : JAt := ⟨t, ph, j⟩
    let y := a.get s
    (a.ready s 5 →
      let gives := fun (u : State) => exec (.junctionLoopgen t ph j) s = a.fired s u
      (y.loop = none → a.head s 0 = some x → x.kind = .data → gives (a.mod (a.pop s 0) fun y =>
        { y with loop := some { start := .ofNat 32 (x.lane 0), step := .ofNat 32 (x.lane 2), count := x.lane 1, done := 0 }, endgrp := a.fld s 59 59 == 1 })) ∧
      (y.loop = none → a.head s 0 = some x → x.kind ≠ .data → a.room s 1 = true → gives (a.move s x 0 1)) ∧
      ∀ l, y.loop = some l →
        (l.done < l.count → a.room s 1 = true → ∃ k : Token,
          gives (a.mod (a.push s 1 k) fun y => { y with expect := y.expect + 1, loop := some { l with done := l.done + 16 } }) ∧
          k.tag = y.expect ∧ k.kind = .data ∧ ∀ i < 16, (k.val i = true ↔ l.done + i < l.count) ∧
            (k.val i = true → k.lane i = (l.start.toNat + (l.done + i) * l.step.toNat) % 2 ^ 32)) ∧
        (l.count ≤ l.done → y.endgrp = true → a.room s 1 = true → ∃ k : Token,
          gives (a.mod (a.push s 1 k) fun y => { y with expect := y.expect + 1, loop := none, endgrp := false, group := y.group + 1 }) ∧
          k.tag = y.expect ∧ k.kind = .control ∧ k.lane 0 = 2 ∧ k.lane 1 = y.group.toNat) ∧
        (l.count ≤ l.done → y.endgrp = false → gives (a.mod s fun y => { y with loop := none, group := y.group + 1 }))) ∧
    (∀ r, a.ready s 6 → a.room s 1 = true → s.region (s.lt t ph).key = some r → ∃ k : Token,
      exec (.junctionRandom t ph j) s = a.fired s (a.mod (a.push s 1 k) fun y => { y with rnd := y.rnd + 1 }) ∧
      k.kind = .data ∧ k.tag = Config.junctionTag y.word y.rnd k.data ∧ k.valid = 0xFFFF ∧ k.poison = 0 ∧ ∀ i < 16, k.lane i = (randomLanes r.seed (a.fld s 59 28) y.rnd).getD i 0 % 2 ^ 32) ∧
    (a.ready s 7 →
      let gives := fun (u : State) => exec (.junctionConvert t ph j) s = a.fired s u
      let f := EType.dec (a.fld s 59 56)
      let e := EType.dec (a.fld s 55 52)
      let n := 512 / etWidth e
      let sr := y.rmode = 4
      let full := ∃ tag, gives (a.mod (a.push s 1 (packElems (etWidth e) (y.cbuf.take n) tag)) fun y =>
          { y with cbuf := y.cbuf.drop n, rnd := y.rnd + 1 }) ∧
        tag = Config.junctionTag y.word y.rnd (packElems (etWidth e) (y.cbuf.take n) tag).data
      (n ≤ y.cbuf.length → a.room s 1 = true → full) ∧
      (y.cbuf.length < n →
        (sr → a.head s 2 = none → exec (.junctionConvert t ph j) s = .next s) ∧
        (∀ r, (sr → a.head s 2 = some r) → a.head s 0 = some x →
          (x.kind = .data → (sr → srRefused f e = false) → ∃ els : List CElem,
            gives (a.mod (if sr then a.pop (a.pop s 0) 2 else a.pop s 0) fun y => { y with cbuf := y.cbuf ++ els }) ∧
            els = ((List.range (512 / etWidth f)).filter fun i => (elemLanes (etWidth f) i).all x.val).map fun i =>
              { bits := convert f e y.rmode.toNat (if sr then rndWord r i else 0) y.sat false false (x.elem (etWidth f) i),
                poison := (elemLanes (etWidth f) i).any x.pois }) ∧
          (x.kind = .eos → a.room s 1 = true → (y.cbuf = [] → gives (a.move s x 0 1)) ∧ (y.cbuf ≠ [] → full)) ∧
          (x.kind = .control → x.lane 0 % 256 ≠ 3 → a.room s 1 = true → gives (a.move s x 0 1)) ∧
          (∀ m, x.kind = .control → x.lane 0 % 256 = 3 → a.head s 3 = some m → m.kind = .control → m.lane 0 % 256 = 4 →
            (m.lane 1 % 8 ≤ 4 → gives (a.mod (a.pop (a.pop s 0) 3) fun y => { y with rmode := .ofNat 3 (m.lane 1), sat := (m.lane 1).testBit 3 })) ∧
            (4 < m.lane 1 % 8 → gives (a.stop s 0x21 (m.lane 1 % 8))))))) ∧
    (a.ready s 10 → a.head s 0 = some x →
      let gives := fun (u : State) => exec (.junctionTagchk t ph j) s = a.fired s u
      let step : BitVec 6 := .ofNat 6 (a.fld s 53 48)
      (y.pass = false → x.kind ≠ .control →
        (x.tag = y.expect → a.room s 1 = true → gives (a.mod (a.move s x 0 1) fun y =>
          { y with expect := if x.kind = .eos then .ofNat 6 (a.fld s 59 54) else y.expect + step })) ∧
        (x.tag ≠ y.expect → gives (a.stop s 0x20 (y.expect.toNat + 256 * x.tag.toNat)))) ∧
      (y.pass = false → x.kind = .control → a.room s 1 = true → gives (a.move s x 0 1)) ∧
      (y.pass = true → a.room s 1 = true → gives (a.mod (a.move s x 0 1) fun y => { y with pass := false, expect := x.tag + step })))

/-! ## Issue slots and parked tasks (R312 to R314) -/

/-- R314: an issue slot of a tile goes to the task whose turn the rotation gives, if it can issue; else to the next task of the high
class that can, in ascending slot order from the one that issued last; else likewise of the normal class; and to none if none can. That the
order goes on from the class's last issuer is the model's choice (log 29). -/
def Claims.IssueSlotsRotateByClass : Prop :=
  ∀ (s : State) (t : Nat),
    let x := s.tile t
    let gives := fun (k : SlotId) => exec (.issueSlot t) s =
      .next { s.modTask t k (fun y => { y with st := .running }) with ctx := { tile := t, slot := k, unit := .task }, live := true }
    let can := fun (high : Bool) (k : SlotId) => (s.task t k).high = high ∧ s.canIssue t k = true
    let next := fun (high : Bool) (last k : SlotId) => ∃ n : Nat, 1 ≤ n ∧ n ≤ 16 ∧ k = last + .ofNat 4 n ∧ can high k ∧
      ∀ i, 1 ≤ i → i < n → ¬ can high (last + .ofNat 4 i)
    (s.canIssue t x.rot = true → gives x.rot) ∧
    (s.canIssue t x.rot = false →
      (∀ k, next true x.lastHi k → gives k) ∧
      ((∀ k, ¬ can true k) → ∀ k, next false x.lastNo k → gives k) ∧
      ((∀ k, s.canIssue t k = false) → exec (.issueSlot t) s = .next s))

/-- R312, R313: a parked task whose sequencer runs becomes ready when its word, tried again, would park it for that reason no more,
and when a trap stands against it; one that waits for the matrix unit is not readied so. An idle task becomes ready at a head at its
trigger port. A task of a frozen region stays as it is. That readiness is found by trying the word is the model's way (log 30). -/
def Claims.ParkedTasksAreReadied : Prop :=
  ∀ (s : State) (t : Nat) (k : SlotId),
    let ready := s.modTask t k fun x => { x with st := .ready }
    let s1 : State := { s with ctx := { tile := t, slot := k, unit := .task } }
    (s.taskRuns t k = true →
      (∀ r, (s.task t k).st = .parked r → r ≠ .matrix →
        ((s.task t k).ptraps ≠ [] → exec (.parkClear t k) s = .next ready) ∧
        (∀ i u, (s.task t k).ptraps = [] → s1.fetchAt (s.task t k).pc = .instr i → i.isWord = true → exec i s1 = .next u →
          exec (.parkClear t k) s = .next (if (u.task t k).st = .parked r then s else ready))) ∧
      ((s.task t k).st = .parked .matrix → exec (.parkClear t k) s = .next s) ∧
      ((s.task t k).st = .idle → exec (.parkClear t k) s =
        .next (if (vget (s.lt t (s.task t k).phase).inP (s.task t k).trigP.toNat {}).fifo = [] then s else ready))) ∧
    (s.taskRuns t k = false → exec (.parkClear t k) s = .next s)

/-! ## Syntax engines (R227 to R232, R322, R349) -/

/-- R227, R228, R232 to R235: what a picture's tokens hold: its record, then each block's record and coefficient tokens in coding order;
every field of the two records; the REASON of a block, and its zero motion lanes where it has one; the sixteen levels of a coefficient
token; the step codes. A picture before the random-access one that is sought gives nothing, one beyond the profiles stops the job with
SYNTAX_PROFILE at its start, and one that is cut off or breaks the syntax stops it with SYNTAX_TRUNC or SYNTAX_DECODE after its tokens. That
the lowest of several REASONs is named is the model's choice (log 55). -/
def Claims.SyntaxTokensHoldTheRecords : Prop :=
  ∀ (av1 chroma : Bool) (p : Config.SynPic) (pic : Nat) (b : Config.SynBlock),
    let cells := fun (n : Nat) => (n + 3) / 4 % 65536
    let whole := fun (t : Token) => t.valid = 0xFFFF ∧ t.poison = 0 ∧ t.kind = .data
    picToks av1 chroma p pic = .tok (picRec p pic) true ::
      p.blocks.flatMap (fun b => .tok (blockRec av1 chroma p pic b) false :: (synLevels chroma b).map fun x => .tok x false) ∧
    (let r := picRec p pic
     whole r ∧ r.lane 1 = (if ∀ b ∈ p.blocks, b.mode = .intra then 0 else 256) ∧ fld (r.lane 13) 31 16 = cells p.height ∧
     fld (r.lane 13) 15 0 = cells p.width ∧ r.lane 14 = pic % 2 ^ 32 ∧ ∀ i < 16, i ≠ 1 → i ≠ 13 → i ≠ 14 → r.lane i = 0) ∧
    (let r := blockRec av1 chroma p pic b
     let f := fun (i hi lo : Nat) => fld (r.lane i) hi lo
     let why := reasonOf av1 b
     let intra := b.mode = .intra
     let mv := fun (k : Nat) => vget b.mv k 0 * (if av1 then 2 else 4)
     whole r ∧ f 0 31 16 = b.y.toNat ∧ f 0 15 0 = b.x.toNat ∧ f 1 31 24 = (if av1 then b.qp.toNat else b.qp.toNat % 64) ∧ f 1 23 22 = 0 ∧
     f 1 21 19 = why ∧ (f 1 18 18 = 1 ↔ codedPlane b b.cr = true) ∧ (f 1 17 17 = 1 ↔ codedPlane b b.cb = true) ∧
     (f 1 16 16 = 1 ↔ codedPlane b b.luma = true) ∧ f 1 15 14 = max 2 (min b.luma.tlh 5) - 2 ∧ f 1 13 12 = max 2 (min b.luma.tlw 5) - 2 ∧
     f 1 11 11 = 0 ∧ (f 1 10 10 = 1 ↔ b.bi = true ∧ ¬ intra) ∧
     f 1 9 8 = (if why ≠ 0 then 3 else match b.mode with | .intra => 0 | .inter => 1 | .skip => 2) ∧
     f 1 7 4 = max 2 (min b.log2h 7) ∧ f 1 3 0 = max 2 (min b.log2w 7) ∧
     (∀ i < 2, r.lane (2 + i) = (stepsOf p.depth b.luma).getD i 0 ∧ r.lane (4 + i) = (stepsOf p.depth b.cb).getD i 0 ∧
       r.lane (6 + i) = (stepsOf p.depth b.cr).getD i 0) ∧
     (why ≠ 0 ∨ intra → r.lane 8 = 0 ∧ r.lane 9 = 0) ∧
     (why = 0 → ¬ intra → f 8 15 0 = unsgn 16 (mv 0) ∧ f 8 31 16 = unsgn 16 (mv 1) ∧
       (b.bi = true → f 9 15 0 = unsgn 16 (mv 2) ∧ f 9 31 16 = unsgn 16 (mv 3)) ∧ (b.bi = false → r.lane 9 = 0)) ∧
     f 10 31 22 = 0 ∧ f 10 21 19 = b.ref1.toNat ∧ f 10 18 16 = b.ref0.toNat ∧ f 10 15 0 = (synLevels chroma b).length % 65536 ∧
     r.lane 11 = 0 ∧ r.lane 12 = 0 ∧ f 13 31 16 = cells p.height ∧ f 13 15 0 = cells p.width ∧ r.lane 14 = pic % 2 ^ 32 ∧ r.lane 15 = 0) ∧
    (let out := fun (k : Nat) => let v := scaledMv av1 b k; v < -32768 ∨ 32767 < v
     let far := b.mode ≠ .intra ∧ (out 0 ∨ out 1 ∨ (b.bi = true ∧ (out 2 ∨ out 3)))
     (reasonOf av1 b = 0 ↔ b.tools = [] ∧ ¬ far) ∧ reasonOf av1 b ≤ 5 ∧ (∀ t ∈ b.tools, reasonOf av1 b ≤ toolReason t) ∧
     (far → reasonOf av1 b ≤ 4) ∧ (b.tools = [] → far → reasonOf av1 b = 4)) ∧
    (∀ (q : Config.SynPlane) (n : Nat), codedPlane b q = false → planeLevels b q n = []) ∧
    (∀ x ∈ synLevels chroma b, whole x ∧ ∃ l : Vector (BitVec 16) 16, ∀ i < 16, x.lane i = unsgn 32 (vget l i 0).toInt) ∧
    (∀ (depth qp : Nat) (q : Config.SynPlane), q.quant = .hevc qp → ∃ v, stepsOf depth q = [v, v] ∧ fld v 31 22 = 0 ∧
      fld v 21 16 = unsgn 6 (36 + (qp / 6 : Nat) - ((depth : Int) + q.tlw - 5)) ∧ fld v 15 0 = [40, 45, 51, 57, 64, 72].getD (qp % 6) 0) ∧
    (∀ (depth sh : Nat) (dc ac : BitVec 16) (q : Config.SynPlane), q.quant = .av1 dc ac sh → ∃ v w, stepsOf depth q = [v, w] ∧
      fld v 21 16 = unsgn 6 (32 - (sh : Int)) ∧ fld w 21 16 = unsgn 6 (32 - (sh : Int)) ∧ fld v 15 0 = dc.toNat ∧ fld w 15 0 = ac.toNat) ∧
    ∀ (j : SynJob) (pic0 : Nat) (a : SynScan) (l : List Config.SynPic),
      let n := (pic0 + a.n) % 2 ^ 32
      let first := ((synRuns j pic0 a (p :: l)).head?).map (·.2.2)
      let mute := (a.seek = true ∧ p.rap = false) ∨ (a.rasl = true ∧ p.rasl = true ∧ p.rap = false)
      (j.pics ≠ 0 → j.pics ≤ a.n → synRuns j pic0 a (p :: l) = []) ∧
      (j.pics = 0 ∨ a.n < j.pics → setHas j.passed a.ix = false →
        (mute → p.stop = none → first = some []) ∧
        (¬ mute → beyond p = true → (synRuns j pic0 a (p :: l)).map (·.2.2) = [[.err 0x28 p.start a.ix n]]) ∧
        (¬ mute → beyond p = false → p.stop = none → first = some (picToks j.av1 j.chroma p n)) ∧
        (¬ mute → beyond p = false → ∀ cut i, p.stop = some (cut, i) → (synRuns j pic0 a (p :: l)).map (·.2.2) =
          [picToks j.av1 j.chroma p n ++ [.err (if cut then 0x2B else 0x2C) i a.ix n]]))

/-- R230, R231, R232, R349: an idle engine whose owner is not to change takes its oldest job, if that is its owner's; the job finds its
context cleared at NEWSEQ, or as the snapshot held it where a restore gave it back; a job's
tokens, those of its bytes in order, are pushed one by one with successive tags where the port has room, each counted as the command's,
and an end of stream after the last if asked; then the job ends, and the context has seen its bytes and pictures. A job in a context
that no NEWSEQ has begun stops with kind 0x2A, and one at an error of its bytes with the error's kind, byte index and PIC; a stopped
engine, and one whose region does not run, does nothing. -/
def Claims.SyntaxJobsPushTheirTokens : Prop :=
  ∀ (s : State) (y : BitVec 3) (j : SynJob) (l : List SynJob),
    let g := vget s.syn y.toNat {}
    let c := vget g.ctx j.ctx.toNat {}
    let pushes := fun (x : Token) =>
      (s.spaceOf j.tile j.slot j.phase j.port = true → exec (.syntaxTokenPush y) s = .next ((State.modSynRun ((s.pushOf j.tile j.slot j.phase j.port
        (.tok { x with tag := .ofNat 6 (j.tag.toNat + j.sent) })).setSyn y { g with job := some { j with sent := j.sent + 1 } }) j
          fun r => { r with head := r.head + 1 }).progress j.rkey)) ∧
      (s.spaceOf j.tile j.slot j.phase j.port = false → exec (.syntaxTokenPush y) s = .next s)
    (g.stop ≠ none → exec (.syntaxTokenPush y) s = .next s) ∧
    (g.stop = none → g.job = none →
      (g.queue = [] → exec (.syntaxTokenPush y) s = .next s) ∧
      (g.queue = j :: l → (g.pend ≠ none ∨ j.part ≠ g.owner ∨ s.jobRuns j c = false) → exec (.syntaxTokenPush y) s = .next s) ∧
      (g.queue = j :: l → g.pend = none → j.part = g.owner → s.jobRuns j c = true →
        let found : SynCtx := match j.saved with
          | some x => x
          | none => if j.newseq = true ∧ j.begun = false then { used := true, av1 := j.av1 } else c
        exec (.syntaxTokenPush y) s = .next (s.setSyn y { g with
          job := some { j with begun := true, saved := none }, queue := l
          ctx := vset g.ctx j.ctx.toNat { found with rkey := j.rkey } }))) ∧
    (g.stop = none → g.job = some j →
      (s.jobRuns j c = false → exec (.syntaxTokenPush y) s = .next s) ∧
      (s.jobRuns j c = true →
        (c.used = false → exec (.syntaxTokenPush y) s = .next (s.synFault y j 0x2A 0 0)) ∧
        (c.used = true → match (j.outs c)[j.sent]? with
          | some (.tok x _) => pushes x
          | some (.err k i _ pic) => exec (.syntaxTokenPush y) s = .next (s.synFault y j k i pic)
          | none => if j.eos = true ∧ j.sent = (j.outs c).length then pushes (eosTok 0) else exec (.syntaxTokenPush y) s = .next s)) ∧
      (c.used = true → (j.outs c).length + j.eos.toNat = j.sent → exec (.syntaxJobEnd y) s = .next (State.modSynRun (s.setSyn y
        { g with job := none, ctx := vset g.ctx j.ctx.toNat (j.leaves c) }) j fun r => { r with eosOut := true })) ∧
      (c.used = false ∨ (j.outs c).length + j.eos.toNat ≠ j.sent → exec (.syntaxJobEnd y) s = .next s)) ∧
    (j.pics = 0 → (j.leaves c).hist = c.hist ++ [j.bytes]) ∧ (j.leaves c).used = c.used

/-- R349: a change of a syntax engine's owner takes effect at once when the engine is idle, clearing its contexts; else it waits for
the job in progress to end, and then cancels the jobs of the old owner that have not begun, as `s.stop` does. -/
def Claims.SyntaxEnginesChangeOwner : Prop :=
  ∀ (s : State) (y : BitVec 3) (p : PartId),
    let g := vget s.syn y.toNat {}
    (g.owner = p → exec (.synassignChange y p) s = .next s) ∧
    (g.owner ≠ p → g.job = none → g.queue = [] → s.synFed y = [] → exec (.synassignChange y p) s =
      .next (s.setSyn y { g with owner := p, pend := none, ctx := Vector.replicate 4 {} })) ∧
    (g.owner ≠ p → (g.job ≠ none ∨ g.queue ≠ [] ∨ s.synFed y ≠ []) → exec (.synassignChange y p) s = .next (s.setSyn y { g with pend := some p })) ∧
    (g.pend = some p → g.job = none →
      let u := ((g.queue.map fun j => (j.tile, j.e)) ++ s.synFed y).foldl (fun s x => s.cancelEngine x.1 x.2) s
      exec (.synassignTakeEffect y) s =
        .next (u.setSyn y { vget u.syn y.toNat {} with owner := p, pend := none, ctx := Vector.replicate 4 {}, queue := [] })) ∧
    ((g.pend = none ∨ g.job ≠ none) → exec (.synassignTakeEffect y) s = .next s)

/-! ## The Penumbra (R298 to R304) -/

/-- R299, R300, R301: with eviction due and no spill in progress, a version that policy would drop loses its bits and its slot; one that
it would spill is sent whole to the first free spill slot as PENSPILL places it, and is spilled there once the neighbour has acknowledged
it. A spill that the window or the links refuse leaves a record, and none starts while it stands. That the copy goes in sixteen flits of 256
bytes (log 10) and that one is discarded when a hold has come (log 36) is the model's choice. -/
def Claims.EvictionDropsOrSpills : Prop :=
  ∀ (s : State) (f : FrameKey) (v : Nat) (x : Ver), (s.frame f).ver v = some x →
    let due := s.evictDue f.part = true ∧ s.spilling f.part = false
    (due → s.wouldDrop (s.frame f) x = true → exec (.evictDrop f v) s =
      .next (s.modVer f v fun x => { x with st := .dropped, slot := none, data := [], pois := [] })) ∧
    (¬ due ∨ s.wouldDrop (s.frame f) x = false → exec (.evictDrop f v) s = .next s) ∧
    (due → s.spillHeld f.part = false → s.wouldSpill (s.frame f) x = true →
      let n := (s.spillFree f.part).getD 0
      let slot : BitVec 16 × Nat := (.ofNat 16 (bfld (s.part f.part).penspill 63 48), (bfld (s.part f.part).penspill 47 12 + n) * 4096)
      let served := s.winServed f.part (vaOf slot.1 (off48 slot.2))
      (served = false → exec (.evictSpill f v) s = .next s) ∧
      (∀ e, served = true → s.spillTarget f.part slot .wr = .error e → exec (.evictSpill f v) s = .next (s.spillFault f v e)) ∧
      ∀ a w off, served = true → s.spillTarget f.part slot .wr = .ok (a, w, off) →
        (s.sendCopy f.part a w off x.bytes 16 = none → exec (.evictSpill f v) s = .next (s.spillFault f v ⟨0x0B, 0⟩)) ∧
        ∀ ids u, s.sendCopy f.part a w off x.bytes 16 = some (ids, u) → ids.length = 16 ∧ exec (.evictSpill f v) s =
          .next (u.modVer f v fun x => { x with spill := some slot, spillIds := ids, spillVia := s.upPort.getD 0 })) ∧
    (¬ due ∨ s.spillHeld f.part = true ∨ s.wouldSpill (s.frame f) x = false → exec (.evictSpill f v) s = .next s) ∧
    ((s.part f.part).penctl.getLsbD 0 = false → s.evictDue f.part = false) ∧
    (x.st = .resident → x.spill.isSome = true → exec (.spillAck f v) s =
      .next (if evictable (s.frame f) { x with spill := none } then s.modVer f v fun x => { x with st := .spilled, slot := none, spillIds := [] }
        else s.modVer f v fun x => { x with spill := none, spillIds := [] }))

/-- R302, R303: the first request of its tile that may start runs in slot 15: the slice's words lie in scratchpad from 0x7_8000, and
the registers hold the recipe's parameters, sources and version; on a tile that is disabled or not the partition's nothing starts, and a
record holds the request. One that is not the first, or whose tile is busy, waits. -/
def Claims.RecomputeStartsInSlot15 : Prop :=
  ∀ (s : State) (q : RcReq), s.rcReqs.find? (fun z => z.id == q.id) = some q →
    let t := s.rcTile q
    let first := ∀ z ∈ s.rcReqs.takeWhile (fun z => z.id != q.id), s.rcReady z = false ∨ s.rcTile z ≠ t
    let may := s.rcReady q = true ∧ first ∧ (s.tile t).rc = none ∧ s.owning t = false
    (¬ may → exec (.recomputeStart q.id) s = .next s) ∧
    (may → s.rcTileOk q.frame.part t = false →
      let n := s.post q.frame.part
        { kind := 0x22, gen := 13, va := .ofNat 64 (q.frame.fr.toNat * 4096), vwin := q.frame.win, ver := .ofNat 32 q.v }
      exec (.recomputeStart q.id) s = .next (State.addStop { n.2 with
        rcReqs := n.2.rcReqs.map fun (z : RcReq) => if z.id = q.id then { z with held := some n.1 } else z } q.frame.part
          { seq := n.1, kind := 0x22, what := .recompute q.id, rkey := 0 })) ∧
    ∀ (r : Recipe) (c : Slice), may → s.rcTileOk q.frame.part t = true → ((s.frame q.frame).ver q.v).bind (·.recipe) = some r →
      s.slices.find? (fun c => c.part == q.frame.part && c.id == r.slice) = some c → Tile.Canon (s.tile t) →
      ∃ u, exec (.recomputeStart q.id) s = .next u ∧
        let k := u.task t 15
        k.st = .ready ∧ k.pc = c.start ∧ k.high = true ∧
        (∀ j < 4, vget k.g j {} = { val := vget r.params j 0, st := .full }) ∧
        (∀ j < 4, (vget k.g (4 + j) {}).val = match r.srcs[j]? with | some (_, n) => .ofNat 64 n | none => 0) ∧
        (vget k.g 8 {}).val = .ofNat 64 q.v ∧ (vget k.g 9 {}).val = .ofNat 64 r.srcs.length ∧
        (∀ j < 4, vget k.b j 0 = match r.srcs[j]? with | some (f, _) => .ofNat 80 (f.win.toNat * 2 ^ 64 + f.fr.toNat * 4096) | none => 0) ∧
        vget k.b 4 0 = .ofNat 80 (q.frame.win.toNat * 2 ^ 64 + q.frame.fr.toNat * 4096) ∧
        (∀ i < 2048, u.wordAt t 15 k.phase i = c.words.getD i 0) ∧
        (u.tile t).rc = some { frame := q.frame, v := q.v, part := q.frame.part, data := [], cover := [] } ∧
        u.rcReqs = s.rcReqs.map fun (z : RcReq) => if z.id = q.id then { z with running := true, on := some t } else z

/-- R304, R305: at the end of its task a recompute whose refill covers every byte makes the version resident with those bytes, in its
slot, ends its request and the holds on its sources, and retires the version if it is due; one whose refill is not whole is
RECOMP_PARTIAL. Before the end nothing happens. -/
def Claims.RecomputeEndsResident : Prop :=
  ∀ (s : State) (t : Nat) (c : Recomp), (s.tile t).rc = some c →
    ((s.task t 15).st ≠ .retired → exec (.recomputeEnd t) s = .next s) ∧
    ((s.task t 15).st = .retired → (c.cover.length ≠ 4096 ∨ (s.tile t).rcWrite.cmds ≠ []) → exec (.recomputeEnd t) s = .next (s.rcFault t 0x1D 0 0)) ∧
    ((s.task t 15).st = .retired → c.cover.length = 4096 → (s.tile t).rcWrite.cmds = [] →
      let held := ((s.rcReqs.find? fun q => q.running && q.on == some t).map (·.holds)).getD []
      let u := (s.endRc t).modVer c.frame c.v fun x => { x with st := .resident, slot := c.slot, data := c.data, pois := c.pois }
      exec (.recomputeEnd t) s = .next (State.tryRetire retireFuel
        (State.unholdAll { u with rcReqs := u.rcReqs.filter fun q => !(q.running && q.on == some t) } held) c.frame c.v))

/-! ## Graphs (R316 to R325, R344, R346, R347, R366, R367) -/

/-- R317, R320, R344, R346, R347: a commit request whose descriptor, bind records, image and routes pass every check leaves its region
fetched, under the request's region number, generation and context area, with a key that no region has had. One whose descriptor is
malformed is refused with reason 1, one whose bind records are none that serve is COMMIT_BAD; one whose request, bind records or image
cannot be read is reported with the fault, the last two with the completion frame; while an MIT holds the request's, the slot table's, the
image's or the route list's reads, it waits. A partition that is not live takes none. The order of these checks, and COMMIT_BAD for a
nonzero byte that the layout leaves zero, are the model's choices (logs 31 and 54). -/
def Claims.CommitRequestsAreFetched : Prop :=
  ∀ (s : State) (p : PartId) (ipa : BitVec 64),
    let later := exec (.commitRequest p ipa) s = .next (s.modPart p fun y => { y with commits := y.commits ++ [ipa] })
    ((s.part p).live = false → exec (.commitRequest p ipa) s = .next s) ∧
    ((s.part p).live = true → s.ipaServed p ipa.toNat 128 = false → later) ∧
    ((s.part p).live = true → s.ipaServed p ipa.toNat 128 = true →
      (∀ f, s.ipaNum p ipa.toNat 128 = .error f → exec (.commitRequest p ipa) s =
        .next (s.postAny p { kind := f.kind, gen := 12, aux := f.aux, va := ipa }).2) ∧
      ∀ x, s.ipaNum p ipa.toNat 128 = .ok x →
        let q := (commitReq x).1
        let fails := fun (e : CommitErr) => exec (.commitRequest p ipa) s = .next (s.failCommit p q 0 e)
        q.desc = .ofNat 512 x ∧ q.rg.toNat = x / 2 ^ 512 % 2 ^ 16 ∧ q.gen.toNat = x / 2 ^ 544 % 2 ^ 32 ∧ q.ctx.toNat = x / 2 ^ 576 % 2 ^ 64 ∧
        q.route = x / 2 ^ 640 % 2 ^ 64 ∧ ((commitReq x).2 = true ↔ x / 2 ^ 528 % 2 ^ 16 = 0 ∧ x / 2 ^ 704 % 2 ^ 320 = 0) ∧
        (descBadForm q.desc = true → fails (.refuse 1)) ∧
        (descBadForm q.desc = false → s.slotsServed p = false → later) ∧
        (descBadForm q.desc = false → s.slotsServed p = true →
          (∀ f, s.bindEnts p q.rg q.gen = .error f → fails (.trans f 0)) ∧
          ∀ ents, s.bindEnts p q.rg q.gen = .ok ents →
            ((commitReq x).2 = false ∨ foldOf ents = none → fails (.bad 0)) ∧
            ∀ fold, (commitReq x).2 = true → foldOf ents = some fold →
              (s.bindsOk p fold ents = false → fails (.bad 0)) ∧
              (s.bindsOk p fold ents = true → ∀ i u, s.readImage p q.desc = (i, u) →
                let circs := (i.graph q.desc).elim 0 fun y => circCount ((y.2.filter fun z => z.1.applies fold).map (·.1))
                let waits := i.cut = some .waits ∨ u.routesServed p q.route circs = false
                (waits → later) ∧
                (¬ waits → match u.planCommit p q fold ents i with
                  | .ok r => exec (.commitRequest p ipa) s = .next { u with regions := u.regions ++ [r], newId := u.newId + 1 } ∧
                      r.st = .fetched ∧ r.part = p ∧ r.id = q.rg ∧ r.gen = q.gen ∧ r.ctxIpa = q.ctx ∧ r.key = u.newId + 1 ∧ r.fold = fold ∧
                      r.binds = ents.map bindOf
                  | .error e => exec (.commitRequest p ipa) s = .next (u.failCommit p q ((i.graph q.desc).elim 0 (·.1.id)) e)))))

/-- R346, R347: a fetched region whose tiles are free of other regions is placed on them when its image reads well a second time; a
failed second phase leaves the tiles zeroed and reports the commit as failed; a region whose tiles are taken, or whose image's MIT holds
it, waits. One whose context area holds its snapshot and cannot be read ends with kind 0x33 instead. That the routes are checked once more
then is the model's choice (log 54). -/
def Claims.FetchedRegionsArePlaced : Prop :=
  ∀ (s : State) (rg : Nat) (r : Region), s.region rg = some r →
    let q : CommitReq := { desc := r.desc, rg := r.id, gen := r.gen, ctx := r.ctxIpa, route := 0 }
    ((r.st ≠ .fetched ∨ s.tilesFree r = false) → exec (.fetchPhase2 rg) s = .next s) ∧
    (r.st = .fetched → s.tilesFree r = true → ∀ i u, s.readImage r.part r.desc = (i, u) →
      (i.cut = some .waits → exec (.fetchPhase2 rg) s = .next s) ∧
      (i.cut ≠ some .waits →
        (∀ e, u.phase2Bad r i = some e → exec (.fetchPhase2 rg) s =
          .next (State.failCommit { u.zeroTiles r with regions := (u.zeroTiles r).regions.filter fun x => x.key != rg } r.part q r.graph e)) ∧
        (u.phase2Bad r i = none →
          let v := (u.takeDesc r.part r.desc).2
          let z : Region := { r with prio := (u.takeDesc r.part r.desc).1 }
          let lost := (v.snapFor z).isSome = true ∧ v.ctxLost z = true
          (¬ lost → exec (.fetchPhase2 rg) s =
            .next (v.place z (((i.graph r.desc).elim [] fun y => y.2.map (·.1)).filter fun x => x.applies r.fold))) ∧
          (lost → exec (.fetchPhase2 rg) s =
            .next (State.rollFail { v with snaps := v.snaps.filter fun x => !(x.1 == r.part && x.2.1 == r.ctxIpa) } z 0x33)))))

/-- R318, R367, R382: a live region with no rollback due, every task retired or idle, one of them retired, no token, command or operation
left, completes: its interval closes, bursts of late tokens that stand on its endpoints are reported (the model's choice, log 47), it
leaves its tiles, and its completion frame gets status 0; slot 15 counts for nothing. Any other stays. That it waits for a rollback that
is due, and that deferred reclaims take effect then, is the model's choice (log 35). -/
def Claims.GraphsComplete : Prop :=
  ∀ (s : State) (rg : Nat) (r : Region), s.region rg = some r →
    (r.st = .live → s.completes r = true → exec (.graphComplete rg) s =
      .next ((((s.closeInterval r).lateEnd r).release r).completion r.part r.desc r.graph (2 ^ r.fold.toNat) 0)) ∧
    ((r.st ≠ .live ∨ s.completes r = false) → exec (.graphComplete rg) s = .next s) ∧
    (s.completes r = true ↔ r.rbReq = false ∧
      (∀ b ∈ r.binds, ∀ k ∈ s.slotsOn b, (s.task b.tile k).st = .idle ∨ (s.task b.tile k).st = .retired) ∧
      (∃ b ∈ r.binds, ∃ k ∈ s.slotsOn b, (s.task b.tile k).st = .retired) ∧
      (∀ b ∈ r.binds, (s.lt b.tile b.ph).holds = false ∧ s.workOn b = false) ∧
      (∀ c ∈ r.circs, c.entry = [] ∧ c.flight = []) ∧ ∀ o ∈ s.ops, o.rkey = r.key → o.slot = 15)

/-- R317, R322, R325, R367: a pre-emption abandons a region still fetched, freezes a live one that is not complete, and waits for a
checkpoint in progress and for a rollback that is due; a quantum that ends pre-empts; a marker at the end of its circuit is taken off
and counted, and once every tile can be saved the freeze ends and a pre-emption that waited begins. That a pre-emption waits for a
rollback that is due is the model's choice (log 35). -/
def Claims.PreemptionFreezesARegion : Prop :=
  ∀ (s : State) (rg : Nat) (r : Region), s.region rg = some r →
    let quantum := dfld r.desc 2 63 32
    (r.st = .fetched → exec (.preemptRequest rg) s = .next { s with regions := s.regions.filter fun x => x.key != rg }) ∧
    (r.st = .live → s.completes r = true → exec (.preemptRequest rg) s = .next s) ∧
    (r.st = .live → s.completes r = false → r.rbReq = false → exec (.preemptRequest rg) s = .next (s.beginFreeze rg .preempt)) ∧
    ((r.st = .live ∧ r.rbReq = true) ∨ (∃ w, r.st = .freezing w) →
      exec (.preemptRequest rg) s = .next (s.modRegion rg fun x => { x with preReq := true })) ∧
    (r.st = .live → quantum ≠ 0 → r.quant0 + 1024 * quantum ≤ s.ownNow r → exec (.quantumExpire rg) s = exec (.preemptRequest rg) s) ∧
    (r.st ≠ .live ∨ quantum = 0 ∨ s.ownNow r < r.quant0 + 1024 * quantum → exec (.quantumExpire rg) s = .next s) ∧
    (∀ w c q pos x l r', r.st = .freezing w → r.rbReq = false → r.marks = true → s.circ rg c = some q → q.flight = (pos, x) :: l →
      x.kind = .marker → q.stages ≤ pos + 1 →
      let u := s.modCirc rg c fun q => { q with flight := l, marked := true }
      u.region rg = some r' →
        (u.canSave r' = false → exec (.markerArrive rg c) s = .next u) ∧
        (u.canSave r' = true →
          let v := match w with | .preempt => u.preempted r' | .checkpoint => u.checkpointed r'
          exec (.markerArrive rg c) s = .next (match v.region rg with
            | some z => if z.st = .live ∧ z.preReq = true then (v.modRegion rg fun x => { x with preReq := false }).preempt rg else v
            | none => v)))

/-- R90, R196, R200, R322: a freeze stops its region, completes what its tiles have in flight, and once every unit stands at its boundary gives
each circuit's source end a marker behind the tokens it holds; until then none is sent, and the region runs no more until it is saved.
Tokens that a unit has gathered for a B operand go back to the head of their port, in their order. That they do so, and when a freeze
with a unit that stands sends its markers, is the model's choice (log 56). -/
def Claims.FreezeSendsAMarkerOnEachCircuit : Prop :=
  ∀ (s : State) (rg : Nat) (r : Region) (w : FreezeFor), s.region rg = some r →
    ((∀ b ∈ r.binds, (s.tile b.tile).vpipe = [] ∧ (s.tile b.tile).ll = []) →
      s.freeze rg w = (r.tiles.foldl State.backOut (s.settle rg)).modRegion rg fun r =>
        { r with st := .freezing w, marks := false, circs := r.circs.map fun c => { c with caught := [], marked := false } }) ∧
    (∀ t, ((s.tile t).mq = [] → s.backOut t = s) ∧ ∀ i l, (s.tile t).mq = i :: l →
      let port := (s.itemInstr t i).bind loadPort
      ((port = none ∨ i.slot = 15 ∨ i.prog.held = []) → s.backOut t = s) ∧
      ∀ p, port = some p → i.slot ≠ 15 → i.prog.held ≠ [] → ∃ q : MProg,
        s.backOut t = (s.unpopOf t i.slot (s.task t i.slot).phase p i.prog.held).modTile t fun x => { x with mq := { i with prog := q } :: l }) ∧
    (s.freeze rg w).regionRuns rg = false ∧
    (r.st = .freezing w → r.rbReq = false → r.marks = false →
      (s.quiet r = false → s.finishFreeze rg = s) ∧
      (s.quiet r = true → ∀ r', (s.sendMarkers rg).region rg = some r' → (s.sendMarkers rg).canSave r' = false → s.finishFreeze rg = s.sendMarkers rg)) ∧
    (s.sendMarkers rg = r.circs.zipIdx.foldl (fun s x => s.pushMarker rg x.2 x.1)
      ((r.tiles.foldl State.drain s).modRegion rg fun r => { r with marks := true })) ∧
    ∀ (i : Nat) (c : Circuit),
      (8 ≤ c.src.ep.toNat → c.src.ep.toNat < 16 → (vget ((s.pushMarker rg i c).lt c.src.tile c.src.ph).outP (c.src.ep.toNat % 8) {}).fifo =
        (vget (s.lt c.src.tile c.src.ph).outP (c.src.ep.toNat % 8) {}).fifo ++ [.tok markerTok]) ∧
      (16 ≤ c.src.ep.toNat → r.circs[i]? = some c → (s.pushMarker rg i c).circ rg i = some { c with entry := c.entry ++ [markerTok] })

/-- R366: a checkpoint that is due freezes its region, in place, and stands once its tiles can be saved, unless a rollback is due;
INTERVAL × 2^20 own cycles after the last, one is due by itself. -/
def Claims.CheckpointsStandInPlace : Prop :=
  ∀ (s : State) (rg : Nat) (r : Region), s.region rg = some r →
    let interval := bfld (s.ckctl r) 31 8
    (r.st = .live → r.ckReq = true → r.rbReq = false → exec (.checkpoint rg) s = .next (s.beginFreeze rg .checkpoint)) ∧
    (r.st = .live → (r.ckReq = false ∨ r.rbReq = true) → exec (.checkpoint rg) s = .next s) ∧
    (r.st = .freezing .checkpoint → r.rbReq = true → exec (.checkpoint rg) s = .next s) ∧
    (r.st = .freezing .checkpoint → r.rbReq = false → r.marks = true →
      (s.canSave r = true → exec (.checkpoint rg) s = .next (s.checkpointed r)) ∧ (s.canSave r = false → exec (.checkpoint rg) s = .next s)) ∧
    (r.st = .freezing .checkpoint → r.rbReq = false → r.marks = false → s.quiet r = false → exec (.checkpoint rg) s = .next s) ∧
    (r.st = .fetched ∨ r.st = .freezing .preempt → exec (.checkpoint rg) s = .next s) ∧
    (r.st = .live → r.rbReq = false → interval ≠ 0 → r.ck0 + interval * 2 ^ 20 ≤ s.ownNow r →
      exec (.checkpointInterval rg) s = .next (s.beginFreeze rg .checkpoint)) ∧
    (r.st ≠ .live ∨ r.rbReq = true ∨ interval = 0 ∨ s.ownNow r < r.ck0 + interval * 2 ^ 20 → exec (.checkpointInterval rg) s = .next s)

/-- R357, R366, R367: a region with a cause of rollback goes back to its checkpoint, once, if nothing outside has seen what it did since
or written where it wrote, and it has written plainly only under an undo log; a pre-emption that was under way is taken then. Without a
checkpoint that serves it fails with kind 0x33, and a second time with 0x34, and the region ends. That a write from outside to a byte that
the region wrote is among the causes (log 23), how far the context area reaches (log 16), and the status of a graph that so ends (log 35),
are the model's choices. -/
def Claims.RollbackReturnsOrFails : Prop :=
  ∀ (s : State) (rg : Nat) (r : Region), s.region rg = some r →
    let struck := ∃ u ∈ r.undo, ∃ i < 256, u.mine.getLsbD i = true ∧ ∃ o ∈ r.outer, o.1 ≤ 256 * u.block + i ∧ 256 * u.block + i < o.1 + o.2
    let serves := ckEn (s.ckctl r) = true ∧ r.ext = false ∧ ¬ struck ∧ r.plain = false ∧ s.ctxLost r = false
    ((r.rbReq = false ∨ r.st = .fetched) → exec (.rollback rg) s = .next s) ∧
    (r.rbReq = true → r.st ≠ .fetched →
      (r.ckpt = none → exec (.rollback rg) s = .next (s.rollFail r 0x33)) ∧
      ∀ q, r.ckpt = some q →
        (r.rolled = true → exec (.rollback rg) s = .next (s.rollFail r 0x34)) ∧
        (r.rolled = false → ¬ serves → exec (.rollback rg) s = .next (s.rollFail r 0x33)) ∧
        (r.rolled = false → serves → exec (.rollback rg) s = .next (if r.preReq = true ∨ r.st = .freezing .preempt
            then ((s.rollTo r q).modRegion rg fun x => { x with preReq := false }).preempt rg else s.rollTo r q)))

/-- R316, R360: after 2^20 own cycles with work pending and no progress a PROGRESS event names the region, its graph, its tokens, its
stopped engines, how many of its tasks are parked, and where and why the lowest of them is, once; a region that has been told of, does
not run, has nothing pending or is within the time posts none. -/
def Claims.StoppedRegionsAreReported : Prop :=
  ∀ (s : State) (rg : Nat) (r : Region), s.region rg = some r →
    (s.regionRuns rg = true → r.told = false → r.prog0 + 2 ^ 20 ≤ s.ownNow r → s.pending r = true → ∃ f : FaultRec,
      exec (.progressTimeout rg) s = .next ((s.post r.part f).2.modRegion rg fun x => { x with told := true }) ∧
      f.kind = 0x81 ∧ f.region = r.id ∧ f.va = .ofNat 64 (r.graph.toNat + 2 ^ 32 * s.tokensOf r) ∧ f.index = .ofNat 32 (s.parked r).length ∧
      f.c0 = .ofNat 32 (s.stoppedOf r) ∧
      ∀ b k q, lowParked (s.parked r) = some (b, k, q) → f.ly = b.ly ∧ f.lx = b.lx ∧ f.sub = k ∧ f.aux = .ofNat 32 (parkCode q)) ∧
    (s.regionRuns rg = false ∨ r.told = true ∨ s.ownNow r < r.prog0 + 2 ^ 20 ∨ s.pending r = false → exec (.progressTimeout rg) s = .next s)

/-! ## Reports and the controller's commands (R358 to R363, R366, R367) -/

/-- R283, R292, R359, R361, R373: the oldest record of a partition that runs, with a valid ring that has room, is written as 64 bytes
where PROD names, in HBM or the host's memory, PROD counts on, the first record that waited for a place in the queue takes one, and where
IE is set the hart's external interrupt is raised and MSI-X vector 0 fires; a ring that is no valid one, that stage 2 refuses or whose
block fails its check freezes the partition with machine-check reason 2. A full ring holds the record back. The monitor's ring takes its
own records so. Clearing MCSTAT lets frozen partitions run again. -/
def Claims.FaultRingsTakeRecords : Prop :=
  ∀ (s : State) (p : PartId) (r : FaultRec) (l : List FaultRec),
    let x := s.part p
    let at_ := bfld x.fqbase 47 12 * 4096 + x.fqprod.toNat % 2 ^ bfld x.fqbase 4 0 * 64
    let mat := bfld s.mfqbase 47 12 * 4096 + s.mfqprod.toNat % 2 ^ bfld s.mfqbase 4 0 * 64
    let bytes := r.bytes.map fun b => some (b, false)
    let tells := fun (u : State) =>
      let v := u.setPart p { x with fq := l ++ x.fqHeld.take 1, fqHeld := x.fqHeld.drop 1, fqprod := x.fqprod + 1 }
      exec (.fqRingWrite p) s = .next (if v.fqOn p then (v.vsei p).msix p 0 else v.vsei p)
    let stops := exec (.fqRingWrite p) s = .next ((s.freezePart p).machineCheck p 2)
    (p ≠ 0 → x.fq = r :: l → x.frozen = false →
      (ringOk x.fqbase = false → stops) ∧
      (ringOk x.fqbase = true → ringFull x.fqbase x.fqprod x.fqcons = true → exec (.fqRingWrite p) s = .next s) ∧
      (ringOk x.fqbase = true → ringFull x.fqbase x.fqprod x.fqcons = false →
        (∀ f, s.stage2 p at_ = .error f → stops) ∧
        (∀ pa, s.stage2 p at_ = .ok (pa, false) → stops) ∧
        ∀ pa, s.stage2 p at_ = .ok (pa, true) →
          (s.ringWaits p pa = true → exec (.fqRingWrite p) s = .next s) ∧
          (s.ringWaits p pa = false →
            (∀ a, targetOf pa = .ok (.hbm a) → s.hbmBad a 64 true = false → tells (s.hbmPut 0 a bytes)) ∧
            (∀ a, targetOf pa = .ok (.hbm a) → s.hbmBad a 64 true = true → stops) ∧
            (∀ a, targetOf pa = .ok (.host a) → tells { s with hostOut := s.hostOut ++ [.write (s.hostFn p) a (r.bytes.map some) false] }) ∧
            (∀ f, targetOf pa = .error f → stops)))) ∧
    (p ≠ 0 → (x.fq = [] ∨ x.frozen = true) → exec (.fqRingWrite p) s = .next s) ∧
    ((s.mfq = [] ∨ s.mfull = true) → exec (.fqRingWrite 0) s = .next s) ∧
    (s.mfq = r :: l → s.mfull = false → ringOk s.mfqbase = true →
      (ringFull s.mfqbase s.mfqprod s.mfqcons = true → exec (.fqRingWrite 0) s = .next s) ∧
      (ringFull s.mfqbase s.mfqprod s.mfqcons = false → ∀ a, targetOf mat = .ok (.hbm a) → s.hbmBad a 64 true = false →
        exec (.fqRingWrite 0) s = .next { s.hbmPut 0 a bytes with
          mfq := l ++ s.mfqHeld.take 1, mfqHeld := s.mfqHeld.drop 1, mfqprod := s.mfqprod + 1 })) ∧
    (s.mfq = r :: l → s.mfull = false → ringOk s.mfqbase = false →
      exec (.fqRingWrite 0) s = .next (State.machineCheck { s.settleAll with mfull := true } 0 2)) ∧
    ∃ u, exec .mcstatClear s = .next u ∧ u.mcValid = false ∧ u.mfull = false ∧ (u.part p).frozen = false ∧ u.tiles = s.tiles ∧ u.hbm = s.hbm

/-- R359: a record's fields in its 64 bytes, doubleword by doubleword from the low byte up. -/
def Claims.RecordLayoutIsTheTable : Prop :=
  ∀ (r : FaultRec),
    let n := leNat r.bytes
    r.bytes.length = 64 ∧ fld n 63 56 = r.kind.toNat ∧ fld n 55 52 = r.gen.toNat ∧ fld n 51 48 = r.sub.toNat ∧ fld n 47 42 = r.part.toNat ∧
    fld n 39 32 = r.ly.toNat ∧ fld n 31 24 = r.lx.toNat ∧ fld n 23 8 = r.region.toNat ∧ fld n 127 64 = r.va.toNat ∧
    fld n 191 160 = r.ver.toNat ∧ fld n 143 128 = r.vwin.toNat ∧ fld n 255 224 = r.index.toNat ∧ fld n 223 192 = r.aux.toNat ∧
    fld n 287 256 = r.c0.toNat ∧ fld n 319 288 = r.c1.toNat ∧ fld n 351 320 = r.c2.toNat ∧ fld n 383 352 = r.c3.toNat ∧
    fld n 415 384 = r.c4.toNat ∧ fld n 447 416 = r.word.toNat ∧ fld n 511 480 = r.seq.toNat ∧
    fld n 41 40 = 0 ∧ fld n 7 0 = 0 ∧ fld n 159 144 = 0 ∧ fld n 479 448 = 0

/-- R107, R110, R231, R362: a command on a record that stands retries, cancels or passes over what it stopped, or ends its region, and the
record stands no more; a command on none that stands is refused. What each of the four does to each kind of unit is spelt out. That END on
a stopped recompute ends the region of the tile that ran it last, where its partition has that region still, and that a recompute given up
takes the requests of its chain with it, is the model's choice (log 36). -/
def Obligations.FaultResolutionActsOnTheRecord : Prop :=
  ∀ (s : State) (p : PartId) (seq : BitVec 32),
    (∀ r, s.standing p seq = some r →
      let u := (s.unstop r.what).refusedBit p false
      let retries := fun (v : State) => exec (.fqresRetry p seq) s = .next v
      let cancels := fun (v : State) => exec (.fqresCancel p seq) s = .next v
      let passes := fun (v : State) => exec (.fqresAlt p seq) s = .next v
      (∀ t e, r.what = .engine t e →
        retries (u.setEngine t e { u.engine t e with stop := none }) ∧ cancels (u.cancelEngine t e) ∧ passes (u.cancelEngine t e)) ∧
      (∀ t id, r.what = .memop t id →
        retries ((u.modOp id fun o => { o with stop := none, lost := none }).portGo t) ∧
        ∀ o, u.op id = some o → cancels ((((u.abandonAll o.opened).endOp o).portGo t).endTask t o.slot) ∧
          passes ((((u.abandonAll o.opened).endOp o).portGo t).endTask t o.slot)) ∧
      (∀ t ph j, r.what = .junction t ph j →
        let drops := u.modJunc t ph j fun y =>
          let b := vset y.buf 0 (vget y.buf 0 []).tail
          { y with held := none, buf := if r.kind = 0x21 then vset b 3 (vget b 3 []).tail else b }
        retries (u.modJunc t ph j fun y => { y with held := none }) ∧ cancels drops ∧
        (r.kind = 0x20 → passes (u.modJunc t ph j fun y => { y with held := none, pass := true })) ∧ (r.kind ≠ 0x20 → passes drops)) ∧
      (∀ y, r.what = .syn y →
        let g := vget u.syn y.toNat {}
        retries (u.setSyn y { g with stop := none }) ∧
        ∀ j, g.job = some j → cancels (u.cancelEngine j.tile j.e) ∧ passes (u.setSyn y (g.resume j)) ∧
          g.resume j = (let c := vget g.ctx j.ctx.toNat {}
            if c.used = true then match (j.outs c)[j.sent]? with
              | some (.err _ _ ix _) => { g with stop := none, job := some { j with passed := ix :: j.passed } }
              | _ => { g with stop := none }
            else { g with stop := none, job := some { j with seek := true }, ctx := vset g.ctx j.ctx.toNat { used := true, av1 := j.av1 } })) ∧
      (∀ id, r.what = .copy id →
        retries (u.modOp id fun o => { o with stop := none, lost := none }) ∧
        ∀ o, u.op id = some o → cancels ((u.abandonAll o.opened).endOp o) ∧ passes ((u.abandonAll o.opened).endOp o)) ∧
      (∀ id, r.what = .recompute id →
        retries { u with rcReqs := u.rcReqs.map fun (q : RcReq) => if q.id = id then { q with held := none } else q } ∧
        ∀ q, u.rcReqs.find? (fun q => q.id == id) = some q →
          let v := State.cancelReq chainFuel u q
          let key := match q.on with
            | none => 0
            | some t => if ((u.region (u.lt t q.phase).key).map (·.part)) = some q.frame.part then (u.lt t q.phase).key else 0
          cancels v ∧ passes v ∧ (∀ g, v.region key = some g → exec (.fqresEnd p seq) s = .next (v.endRegion g)) ∧
          (v.region key = none → v.rcReqs.find? (fun q => q.id == id) = none → exec (.fqresEnd p seq) s = .next v)) ∧
      (∀ k, r.what = .spill k → retries u ∧ cancels u ∧ passes u) ∧
      ((∀ id, r.what ≠ .recompute id) →
        (∀ g, u.region r.rkey = some g → exec (.fqresEnd p seq) s = .next (u.endRegion g)) ∧
        (u.region r.rkey = none → exec (.fqresEnd p seq) s = exec (.fqresCancel p seq) s))) ∧
    (s.standing p seq = none → ∀ i ∈ [Instr.fqresRetry p seq, .fqresCancel p seq, .fqresAlt p seq, .fqresEnd p seq],
      exec i s = .next (s.refusedBit p true))

/-- R363: a command on a trapped task of a committed region lets it go on at TPC, TCAUSE cleared, or at a word of its program, TCAUSE
kept, or ends it; on a region, place or slot that holds no such task, and at a word past its program, it is refused. -/
def Claims.TaskCommandsActOnTrappedTasks : Prop :=
  ∀ (s : State) (p : PartId) (c : TaskRef) (pc : BitVec 13), p ≠ 0 →
    let u := s.modPart p fun x => { x with refused := false }
    let refused := fun (i : Instr) => exec i s = .next (s.modPart p fun x => { x with refused := true })
    let all := [Instr.taskcmdResumeTpc p c, .taskcmdResumePc p c pc, .taskcmdEnd p c]
    (s.regionById p c.region = none → ∀ i ∈ all, refused i) ∧
    ∀ r, s.regionById p c.region = some r →
      (r.binds.find? (fun b => b.lx == c.lx && b.ly == c.ly) = none → ∀ i ∈ all, refused i) ∧
      ∀ b, r.binds.find? (fun b => b.lx == c.lx && b.ly == c.ly) = some b →
        let k := physSlot b.tmask c.slot.toNat
        ((c.slot = 15 ∨ k = 15 ∨ (s.task b.tile k).st ≠ .trapped) → ∀ i ∈ all, refused i) ∧
        (c.slot ≠ 15 → k ≠ 15 → (s.task b.tile k).st = .trapped →
          exec (.taskcmdResumeTpc p c) s = .next (u.modTask b.tile k fun y => { y with st := .ready, pc := bfld y.tpc 12 0, tcause := 0 }) ∧
          (pc.toNat < instrLimit r.fold false → exec (.taskcmdResumePc p c pc) s = .next (u.modTask b.tile k fun y => { y with st := .ready, pc := pc.toNat })) ∧
          (instrLimit r.fold false ≤ pc.toNat → refused (.taskcmdResumePc p c pc)) ∧
          exec (.taskcmdEnd p c) s = .next (u.endTask b.tile k) ∧ ((u.endTask b.tile k).task b.tile k).st = .retired)

/-- R366, R367: a command on a committed region makes a checkpoint due or gives a cause of rollback; on none it is refused. -/
def Claims.CheckpointCommandsMarkTheRegion : Prop :=
  ∀ (s : State) (p : PartId) (rg : BitVec 16), p ≠ 0 →
    (∀ r, s.regionById p rg = some r →
      exec (.ckcmdCheckpoint p rg) s = .next ((s.modRegion r.key fun r => { r with ckReq := true }).modPart p fun x => { x with refused := false }) ∧
      exec (.ckcmdRollback p rg) s = .next ((s.modRegion r.key fun r => { r with rbReq := true }).modPart p fun x => { x with refused := false })) ∧
    (s.regionById p rg = none → ∀ i ∈ [Instr.ckcmdCheckpoint p rg, .ckcmdRollback p rg], exec i s = .next (s.modPart p fun x => { x with refused := true }))

/-! ## The control space (R337 to R351, R361, R372 to R381) -/

/-- R340: a walk reads one descriptor at each level, at the table's address plus eight times the level's index bits: bits 47 to 37, 36 to 26
and 25 to 16. One that cannot be read gives its fault; V clear and a malformed one each give a fault of the level; a table leads on; a
block or page gives its address with the input's bits below its size, and writes only if every descriptor on the way allows them. Stage 1
faults with kinds 0x06 and 0x07 and reads its tables through stage 2, which faults with kind 0x09. -/
def Claims.WalksReadThreeLevels : Prop :=
  (∀ (rd : Nat → Except Flt Nat) (inv bad : Nat → Flt) (root x : Nat),
    let at_ := fun (table hi lo : Nat) => table + 8 * (x / 2 ^ lo % 2 ^ (hi + 1 - lo))
    let addr := fun (d : Nat) => d / 2 ^ 16 % 2 ^ 32 * 2 ^ 16
    let malformed := fun (lvl d : Nat) => d / 2 ^ 48 % 2 ^ 16 ≠ 0 ∨ d / 2 ^ 3 % 2 ^ 13 ≠ 0 ∨ (lvl = 3 ∧ d.testBit 1 = false) ∨
      (lvl = 1 ∧ d.testBit 1 = false ∧ d / 2 ^ 16 % 2 ^ 21 ≠ 0) ∨ (lvl = 2 ∧ d.testBit 1 = false ∧ d / 2 ^ 16 % 2 ^ 10 ≠ 0)
    let gives := fun (y : Except Flt (Nat × Bool)) => walk rd inv bad 3 1 root x true = y
    let level := fun (lvl a : Nat) (w : Bool) (size : Nat) (next : Nat → Bool → Prop) =>
      (∀ f, rd a = .error f → gives (.error f)) ∧
      ∀ d, rd a = .ok d → (d.testBit 0 = false → gives (.error (inv lvl))) ∧ (d.testBit 0 = true → malformed lvl d → gives (.error (bad lvl))) ∧
        (d.testBit 0 = true → ¬ malformed lvl d →
          ((lvl = 3 ∨ d.testBit 1 = false) → gives (.ok (addr d + x % size, w && d.testBit 2))) ∧
          (lvl ≠ 3 → d.testBit 1 = true → next (addr d) (w && d.testBit 2)))
    level 1 (at_ root 47 37) true (2 ^ 37) fun t1 w1 => level 2 (at_ t1 36 26) w1 (2 ^ 26) fun t2 w2 =>
      level 3 (at_ t2 25 16) w2 (2 ^ 16) fun _ _ => False) ∧
  ∀ (s : State) (p : PartId) (x : Nat) (w : BitVec 16) (root : Nat),
    s.stage2 p x = walk s.tableWord (fun l => ⟨0x09, .ofNat 32 (l + 4)⟩) (fun l => ⟨0x09, .ofNat 32 (l + 4)⟩) 3 1
      ((s.part p).s2root.toNat / 2 ^ 16 % 2 ^ 32 * 2 ^ 16) x true ∧
    walk1 (s.rd1 none p w) root x = walk (fun a => s.ipaNum p a 8) (fun l => ⟨0x06, .ofNat 32 l⟩) (fun l => ⟨0x07, .ofNat 32 l⟩) 3 1 root x true ∧
    (x % 65536 + 8 ≤ 65536 →
      (∀ f, s.stage2 p x = .error f → s.ipaNum p x 8 = .error f) ∧
      ∀ pa b, s.stage2 p x = .ok (pa, b) → pa + 8 ≤ hbmTop → s.hbmBad pa 8 false = false → s.ipaNum p x 8 = .ok (s.hbmNum pa 8))

/-- R339 to R341, R350: an access is translated by the window's entry, read through stage 2 at WTBASE + 16 × window; then a memory window's
by its stage 1 and stage 2, with a fault of its own at each check in their order; a peer window's goes to the peer where the outbound entry
allows it. So it is for every access that meets no TLB entry of its partition, and one that faults loads none. (A window table that stage
2 maps outside local HBM gives kind 0x09: the model's choice, log 59.) -/
def Claims.AccessesAreTranslated : Prop :=
  ∀ (s : State) (t : Nat) (p : PartId) (va : VAddr) (wr : Bool) (r : Right), (∀ x ∈ s.tlbOf t, x.part ≠ p) →
    let win := va.toNat / 2 ^ 64 % 2 ^ 16
    let off := va.toNat % 2 ^ 48
    let gives := fun (y : Except Flt Target) => (s.translate t p va wr r).1 = y ∧ s.lookVA none p va wr r = y
    let stops := fun (k : Byte) (n : Nat) => gives (.error ⟨k, .ofNat 32 n⟩)
    (∀ f, (s.translate t p va wr r).1 = .error f → (s.translate t p va wr r).2.tlb = s.tlb ∧ (s.translate t p va wr r).2.tiles = s.tiles) ∧
    (va.toNat / 2 ^ 48 % 2 ^ 16 ≠ 0 → stops 0x03 0) ∧
    (va.toNat / 2 ^ 48 % 2 ^ 16 = 0 →
      let entry := s.ipaNum p ((s.part p).wtbase.toNat / 2 ^ 20 % 2 ^ 28 * 2 ^ 20 + 16 * win) 16
      (∀ f, entry = .error f → gives (.error f)) ∧
      ∀ e, entry = .ok e →
        let malformed := e % 4 = 0 ∨ e % 4 = 3 ∨ e.testBit 2 = true ∨ e / 2 ^ 4 % 2 ^ 12 ≠ 0 ∨ e / 2 ^ 48 % 2 ^ 16 ≠ 0 ∨ e / 2 ^ 96 % 2 ^ 8 ≠ 0 ∨
          (e % 4 = 2 ∧ e / 2 ^ 16 % 2 ^ 32 ≠ 0)
        let beyond := e / 2 ^ 64 % 2 ^ 32 * 65536 ≤ off
        (malformed → stops 0x04 0) ∧ (¬ malformed → beyond → stops 0x05 0) ∧
        (¬ malformed → ¬ beyond → e % 4 = 2 →
          let auth : Byte := .ofNat 8 (e / 2 ^ 104)
          (s.hbmBad (s.authAt p auth) 8 false = false →
            (authAllows (s.authEnt p auth) r = true → gives (.ok (.peer auth (.ofNat 16 (e / 2 ^ 112)) off))) ∧
            (authAllows (s.authEnt p auth) r = false → stops 0x0A 0)) ∧
          (s.hbmBad (s.authAt p auth) 8 false = true → stops 0x0E 0)) ∧
        (¬ malformed → ¬ beyond → e % 4 = 1 →
          let one := walk1 (s.rd1 none p (.ofNat 16 win)) (e / 2 ^ 16 % 2 ^ 32 * 2 ^ 16) off
          (∀ f, one = .error f → gives (.error f)) ∧
          ∀ ipa w1, one = .ok (ipa, w1) →
            (∀ f, s.stage2 p ipa = .error f → gives (.error f)) ∧
            ∀ pa w2, s.stage2 p ipa = .ok (pa, w2) →
              let writes := e.testBit 3 = true ∧ w1 = true ∧ w2 = true
              (wr = true → ¬ writes → stops 0x08 0) ∧
              ((wr = false ∨ writes) →
                (pa < 0xC0_0000_0000 → gives (.ok (.hbm pa))) ∧
                (0x8000_0000_0000 ≤ pa → pa ≤ 0xFFFF_FFFF_FFFF → gives (.ok (.host (pa - 2 ^ 47)))) ∧
                (0xC0_0000_0000 ≤ pa → (pa < 0x8000_0000_0000 ∨ 0xFFFF_FFFF_FFFF < pa) → stops 0x09 4))))

/-- R338, R341, R342: an invalidation joins its queue of sixteen; once the accesses that its entries translated are performed, every entry
of its partition, window or page leaves the TLBs of the dies and of every tile, and no other: a completed translation, a window entry and
an entry of a translation table each by what it holds. One that finds its queue full is not taken. Which entries a page takes with it, and
that both wait for every access on its way, is the model's choice (log 38). -/
def Claims.InvalidationsDropTheirEntries : Prop :=
  ∀ (s : State) (p : PartId) (w : BitVec 16) (pg : BitVec 32),
    let drops := fun (u : State) (hit : TlbItem → Prop) =>
      (∀ (d : Nat) (x : TlbItem), x ∈ vget u.tlb d [] ↔ x ∈ vget s.tlb d [] ∧ ¬ (x.part = p ∧ hit x)) ∧
      ∀ (t : Nat) (x : TlbItem), x ∈ (u.tile t).tlb ↔ x ∈ (s.tile t).tlb ∧ ¬ (x.part = p ∧ hit x)
    let same := fun (k a b : Nat) => a / 2 ^ k = b / 2 ^ k
    (∀ q ∈ [(Instr.tlbinvPartition p, InvReq.all), (.tlbinvWindow p w, .window w), (.tlbinvPage p w pg, .page w pg)],
      ((s.part p).invq.length < 16 → exec q.1 s = .next (s.modPart p fun x => { x with invq := x.invq ++ [q.2], tlbErr := false })) ∧
      (16 ≤ (s.part p).invq.length → exec q.1 s = .next (s.modPart p id)) ∧
      ∀ l, (s.part p).invq = q.2 :: l →
        (s.invHeld p q.2 = true → exec (.tlbinvComplete p) s = .next s) ∧
        (s.invHeld p q.2 = false → ∃ u, exec (.tlbinvComplete p) s = .next u ∧ (u.part p).invq = l ∧ drops u fun x =>
          match q.2, x with
          | .all, .tab e => e.win ≠ none
          | .all, _ => True
          | .window w, .done e => e.win = w
          | .window w, .win e => e.win = w
          | .window w, .tab e => e.win = some w
          | .page w pg, .done e => e.win = w ∧ (e.peer ≠ none ∨ same e.vlog pg.toNat e.vpn)
          | .page w _, .win e => e.win = w
          | .page w pg, .tab e => e.win = some w ∧ same e.log pg.toNat e.page)) ∧
    ((s.part p).invq = [] → exec (.tlbinvComplete p) s = .next s) ∧
    (∀ q ∈ [(Instr.s2invPartition p, (⟨p, none⟩ : S2Inv)), (.s2invPage p pg, ⟨p, some pg⟩)],
      (s.s2q.length < 16 → exec q.1 s = .next { s with s2q := s.s2q ++ [q.2] }) ∧
      (16 ≤ s.s2q.length → exec q.1 s = .next s) ∧
      ∀ l, s.s2q = q.2 :: l →
        (s.invHeld p .all = true → exec .s2invComplete s = .next s) ∧
        (s.invHeld p .all = false → ∃ u, exec .s2invComplete s = .next u ∧ u.s2q = l ∧ drops u fun x =>
          match q.2.page, x with
          | none, _ => True
          | some pg, .done e => e.peer = none ∧ same e.ilog pg.toNat e.ipn
          | some pg, .win e => pg.toNat = s.winAt e.part e.win / 65536
          | some pg, .tab e => if e.win ≠ none then pg.toNat = e.addr / 65536 else same e.log pg.toNat e.page)) ∧
    (s.s2q = [] → exec .s2invComplete s = .next s) ∧
    (s.invHeld p .all = true ↔ (∃ o ∈ s.ops, o.part = p ∧ (o.out = true ∨ ∃ a, o.kind = .elem a ∧ a.fixed.isSome = true)) ∨
      ∃ f ∈ s.frames, f.key.part = p ∧ ∃ x ∈ f.vers, x.spillIds ≠ [] ∧ x.spill.isSome = true)

/-- R338, R357: a scrub zeroes every byte of its granules of 4,096 bytes and clears their poison and bad stored images, and what a version
holds in a pool slot among them; nothing else of memory changes; every region's interval notes it as a write from outside. One that comes
while another is in progress is not taken (the model's choice, log 24). -/
def Claims.ScrubbingZeroesGranules : Prop :=
  ∀ (s : State) (g : BitVec 28) (n : BitVec 24),
    (s.scrub = none → exec (.scrub g n) s = .next { s with scrub := some (g.toNat, n.toNat) } ∧ exec .scrubComplete s = .next s) ∧
    (s.scrub ≠ none → exec (.scrub g n) s = .next s) ∧
    (memWf s.hbm = true → s.scrub = some (g.toNat, n.toNat) → ∃ u, exec .scrubComplete s = .next u ∧ u.scrub = none ∧ memWf u.hbm = true ∧
      (∀ a, memGet u.hbm a = if 4096 * g.toNat ≤ a ∧ a < 4096 * (g.toNat + n.toNat) then 0 else memGet s.hbm a) ∧
      (∀ x, x ∈ u.pq ↔ x ∈ s.pq ∧ ¬ (16 * g.toNat ≤ x.1 ∧ x.1 < 16 * (g.toNat + n.toNat))) ∧
      (∀ b, b ∈ u.badBlk ↔ b ∈ s.badBlk ∧ ¬ (16 * g.toNat ≤ b ∧ b < 16 * (g.toNat + n.toNat)))) ∧
    ∀ h ∈ s.slotsHeld, ∀ q, s.slotPa h.part h.slot = some q → 4096 * g.toNat ≤ q → q < 4096 * (g.toNat + n.toNat) →
      s.scrub = some (g.toNat, n.toNat) → ∃ u, exec .scrubComplete s = .next u ∧
        (∀ k v y, h.who = .ver k v → (u.frame k).ver v = some y → y.data = [] ∧ y.pois = []) ∧
        (∀ t c, h.who = .refill t → (u.tile t).rc = some c → c.data = [] ∧ c.pois = []) ∧
        ∀ k gen v, h.who = .kept k gen v → ∀ r ∈ u.regions, ∀ f, Reclaim.init f ∈ r.defer → f.key = k → f.gen = gen →
          ∀ y, f.ver v = some y → y.data = [] ∧ y.pois = []

/-- R345: an ownership command over a rectangle on the fabric and tiles of no region and no recompute is taken, and when it is done every
tile of its rectangle has the owner, a tile that changed owner is reset, its TLB with it, but for the bank modes of its phases (R10), and no
other tile is touched; one over tiles of a region is refused, and one that comes while another is in progress is not taken (the model's choice, log 24). -/
def Claims.OwnershipMovesWholeRectangles : Prop :=
  ∀ (s : State) (c : OwnRect),
    let inRect := fun (t : Nat) => c.px0.toNat ≤ t % 48 ∧ t % 48 ≤ c.px1.toNat ∧ c.py0.toNat ≤ t / 48 ∧ t / 48 ≤ c.py1.toNat
    (s.ownCmd = none → s.ownBad c = false → exec (.owncmd c) s = .next { s with ownStat := 1, ownCmd := some c }) ∧
    (s.ownCmd = none → s.ownBad c = true → exec (.owncmd c) s = .next { s with ownStat := 3 }) ∧
    (s.ownCmd ≠ none → exec (.owncmd c) s = .next s) ∧ (s.ownCmd = none → exec .owncmdComplete s = .next s) ∧
    (s.ownCmd = some c → c.px1.toNat < 48 → ∃ u, exec .owncmdComplete s = .next u ∧ u.ownCmd = none ∧ u.ownStat = 2 ∧
      ∀ t, (inRect t → u.owner t = c.owner ∧ (s.owner t ≠ c.owner → u.tile t = { ph := (s.tile t).ph.map fun y => { contig := y.contig } })) ∧
        (¬ inRect t → u.owner t = s.owner t ∧ u.tile t = s.tile t))

/-- R351, R383: a removal that names a registered region of unheld frames, or a slice that no recipe names, is busy and then done, the
region with its frames, those that a checkpoint keeps among them, or the slice gone; any other is refused, and so is one that can be done
no more. That the holds are checked again when it completes (log 38), and that one which comes while another is in progress is not taken
(log 24), are the model's choices. -/
def Claims.RemovalsTakeRegionsAndSlices : Prop :=
  ∀ (s : State) (p : PartId) (w : BitVec 16) (b : BitVec 36) (id : BitVec 16),
    let n := bfld (s.part p).regcnt 23 0
    let refused := fun (i : Instr) => exec i s = .next (s.modPart p fun x => { x with delstat := 3, del := none })
    ((s.part p).del = none →
      (∀ r, s.delRegion p w b.toNat n = some r → exec (.regdel p w b) s = .next (s.modPart p fun x => { x with delstat := 1, del := some (.region w b.toNat n) })) ∧
      (s.delRegion p w b.toNat n = none → refused (.regdel p w b)) ∧
      (s.delSlice p id = true → exec (.slicedel p id) s = .next (s.modPart p fun x => { x with delstat := 1, del := some (.slice id) })) ∧
      (s.delSlice p id = false → refused (.slicedel p id)) ∧ exec (.regdelDone p) s = .next s) ∧
    ((s.part p).del ≠ none → exec (.regdel p w b) s = .next s ∧ exec (.slicedel p id) s = .next s) ∧
    (∀ m, (s.part p).del = some (.region w b.toNat m) →
      (s.delRegion p w b.toNat m = none → refused (.regdelDone p)) ∧
      ∀ r, s.delRegion p w b.toNat m = some r → ∃ u, exec (.regdelDone p) s = .next u ∧
        (u.part p).delstat = 2 ∧ (u.part p).del = none ∧ u.vregs = s.vregs.filter (· ≠ r) ∧
        (∀ f ∈ u.frames, r.has f.key = true → ∃ x ∈ u.vregs, x.has f.key = true) ∧
        ∀ x ∈ u.regions, ∀ f, Reclaim.init f ∈ x.defer → r.has f.key = false) ∧
    ((s.part p).del = some (.slice id) →
      (s.delSlice p id = false → refused (.regdelDone p)) ∧
      (s.delSlice p id = true → ∃ u, exec (.regdelDone p) s = .next u ∧
        (u.part p).delstat = 2 ∧ (u.part p).del = none ∧ u.slices = s.slices.filter fun c => !(c.part == p && c.id == id)))

/-- R337, R338, R351, R373: a partition made live has an empty page, its queues empty and its TLB entries gone, and its stage-2 root and
authorization tables as the monitor set them, and vector 2 tells its functions; made not live it has no versioned region, slice, frame,
snapshot or operation of its own. A change of the hart of one that is live moves its interrupt (the model's choice, log 25), and that a partition
which ends drops its snapshots is the model's choice too (log 38). Partition 0 is neither. -/
def Claims.PartitionsComeAndGo : Prop :=
  ∀ (s : State) (p : PartId) (h : BitVec 3), p ≠ 0 →
    let x := s.part p
    (x.live = false → exec (.partitionLive p h) s = .next ((State.tlbDrop (s.setPart p
      { live := true, hart := h, s2root := x.s2root, authOut := x.authOut, authIn := x.authIn }) fun e => e.part == p).msix p 2)) ∧
    (x.live = true → x.hart = h → exec (.partitionLive p h) s = .next s) ∧
    (x.live = true → x.hart ≠ h → exec (.partitionLive p h) s =
      .next ((((s.vseiOff x.hart).modPart p fun x => { x with hart := h }).vsei p).msix p 2)) ∧
    (x.live = true → ∃ u, exec (.partitionNotLive p) s = .next u ∧ (u.part p).live = false ∧
      (∀ r ∈ u.vregs, r.part ≠ p) ∧ (∀ c ∈ u.slices, c.part ≠ p) ∧ (∀ q ∈ u.snaps, q.1 ≠ p) ∧
      (∀ o ∈ u.ops, o.part ≠ p) ∧ (∀ f ∈ u.frames, f.key.part ≠ p)) ∧
    (x.live = false → exec (.partitionNotLive p) s = .next s) ∧
    exec (.partitionLive 0 h) s = .next s ∧ exec (.partitionNotLive 0) s = .next s

/-- R348, R372, R373, R379, R381: a Prism slot's entry keeps its defined bits, and a change of owner clears its program and waits while
a stream runs on the slot; VFMAP takes a word with bits 7 and 6 of every byte zero, and a function newly given a partition whose fault
queue calls for it gets vector 0, from the next request on (the model's choice, log 26); the device id is set only while every port is down; the power cap is clamped to 1,200 W and the rated
power. -/
def Claims.MonitorRegistersTakeTheirValues : Prop :=
  ∀ (s : State) (n : BitVec 3) (x : BitVec 16) (v : BitVec 64) (d : BitVec 18) (w : BitVec 16),
    (let new := x &&& 0xBF07
     let kept := new.toNat / 256 % 64 = (vget s.prismMap n.toNat 0).toNat / 256 % 64
     let u : State := { s with prismMap := vset s.prismMap n.toNat new, prismPend := vset s.prismPend n.toNat none }
     (kept → exec (.prismmapChange n x) s = .next u) ∧
     (¬ kept → s.prismRuns n.toNat = false → exec (.prismmapChange n x) s = .next { u with prism := vset s.prism n.toNat none }) ∧
     (¬ kept → s.prismRuns n.toNat = true → exec (.prismmapChange n x) s =
       .next { s with prismPend := vset s.prismPend n.toNat (some new), prism := vset s.prism n.toNat none })) ∧
    ((∀ k < 8, v.toNat / 2 ^ (8 * k + 6) % 4 = 0) →
      let of := fun (m : BitVec 64) (k : Nat) => m.toNat / 2 ^ (8 * k) % 64
      exec (.vfmapChange v) s = .next { s with vfmap := v, hostOut := s.hostOut ++ ((List.range 8).filter fun k =>
        of v k ≠ of s.vfmap k && s.fqOn (.ofNat 6 (of v k))).map fun k => .msix (.vf (.ofNat 3 k)) 0 }) ∧
    ((∃ k < 8, v.toNat / 2 ^ (8 * k + 6) % 4 ≠ 0) → exec (.vfmapChange v) s = .next s) ∧
    ((∀ q < 18, (s.port q).st = .down) → exec (.devidWrite d) s = .next { s with devid := d }) ∧
    ((∃ q < 18, (s.port q).st ≠ .down) → exec (.devidWrite d) s = .next s) ∧
    ∃ y : BitVec 16, exec (.pwrcapWrite w) s = .next { s with pwrcap := some y } ∧
      y.toNat = if w.toNat < 1200 then 1200 else if Config.ratedPower < w.toNat then Config.ratedPower else w.toNat

/-- R338, R374: a plain register takes its RW fields and no more; a reserved offset, and the pool of a partition with versioned
regions, keep what they hold; a push moves the requester's own staged descriptor, whole, into a queue of 256 or has it wait. -/
def Claims.PageRegistersStoreTheirFields : Prop :=
  ∀ (s : State) (p : PartId) (x : DWord) (off : BitVec 16) (who : Requester) (pr : BitVec 2), p ≠ 0 →
    let put := fun (f : Part → Part) => Host.Outcome.next (φ := Fault) (ρ := Refusal) (s.modPart p f)
    exec (.registerWrite (.part p) 0x008 x) s = put (fun y => { y with wtbase := x &&& 0x0000_FFFF_FFF0_0000 }) ∧
    exec (.registerWrite (.part p) 0x020 x) s = put (fun y => { y with slottab := x &&& 0x0000_FFFF_FFFF_0000 }) ∧
    exec (.registerWrite (.part p) 0x038 x) s = put (fun y => { y with grptab := x &&& 0x0000_FFFF_FFFF_0000 }) ∧
    exec (.registerWrite (.part p) 0x040 x) s = put (fun y => { y with penctl := x &&& 0xFFE0_FFFF_FFFF_FFF1 }) ∧
    exec (.registerWrite (.part p) 0x048 x) s = put (fun y => { y with penspill := x &&& 0xFFFF_FFFF_FFFF_F000 }) ∧
    exec (.registerWrite (.part p) 0x058 x) s = put (fun y => { y with regcnt := x &&& 0x00FF_FFFF }) ∧
    exec (.registerWrite (.part p) 0x078 x) s = put (fun y => { y with fqbase := x &&& 0x0000_FFFF_FFFF_F01F }) ∧
    exec (.registerWrite (.part p) 0x0A8 x) s = put (fun y => { y with ckctl := x &&& 0x0000_00FF_FFFF_FF03 }) ∧
    ((∃ r ∈ s.vregs, r.part = p) → exec (.registerWrite (.part p) 0x028 x) s = .next s ∧ exec (.registerWrite (.part p) 0x030 x) s = .next s) ∧
    ((∀ r ∈ s.vregs, r.part ≠ p) → exec (.registerWrite (.part p) 0x028 x) s = put (fun y => { y with pool := x &&& 0x0000_FFFF_FFFF_0000 }) ∧
      exec (.registerWrite (.part p) 0x030 x) s = put (fun y => { y with pooln := x &&& 0x00FF_FFFF })) ∧
    (0x180 ≤ off.toNat → exec (.registerWrite (.part p) off x) s = .next s) ∧
    (let d := match who with | .hart => (s.part p).stageHart | .host => (s.part p).stageHost
     let q := vget (s.part p).lq pr.toNat []
     (q.length < 256 → exec (.lqpush p who pr) s = put (fun y => { y with lq := vset y.lq pr.toNat (q ++ [d]) })) ∧
     (256 ≤ q.length → exec (.lqpush p who pr) s = put (fun y => { y with lqHeld := y.lqHeld ++ [(pr, d)] })))

/-- R365, R379: a port enabled trains, and is up on eight lanes, degraded on four, else down; a flit whose CRC fails is dropped and counts
towards the eight failures in a row that retrain a port, after which it is up, degraded or down again; word from the far side that a flit
failed there counts as one sent again; one that comes whole ends the count, and an acknowledgement empties the replay buffer of its
oldest flits. A port that goes down is empty, and what was under way through it is lost. A port that is not up takes no flit, and none takes
one of more than 256 bytes of data. What RETRAIN counts, what word of a failed flit and an acknowledgement's number mean (log 10), and that
what waits through a lost port is lost with it (log 39), are the model's choices. -/
def Claims.WildomPortsTrainAndRetry : Prop :=
  ∀ (s : State) (q : Nat) (fl : Flit) (lanes : BitVec 4), q < 18 →
    let w := s.port q
    let data := match fl.body with
      | .write _ _ d => d.length
      | .writeVersion _ _ _ d => d.length
      | .reply _ _ d => d.length
      | _ => 0
    let up := (w.st = .up ∨ w.st = .degraded) ∧ w.fails < 8 ∧ data ≤ 256
    let nothing := fun (i : Instr) => exec i s = .next s
    (w.en = false → exec (.wportEnable q) s = .next (s.modPort q fun w => { w with en := true, st := .training })) ∧
    (w.en = true → nothing (.wportEnable q)) ∧ (w.en = false → nothing (.wportDisable q)) ∧
    (w.en = true → ∃ u, exec (.wportDisable q) s = .next u ∧
      u.port q = { w with en := false, st := .down, lanes := 0, fails := 0, replay := [] } ∧ ∀ o ∈ u.ops, ¬ (o.out = true ∧ o.via = some q)) ∧
    (w.st ≠ .training → nothing (.portTrainingDone q lanes)) ∧
    (w.st = .training →
      exec (.portTrainingDone q 8) s = .next (s.modPort q fun w => { w with st := .up, lanes := 8 }) ∧
      exec (.portTrainingDone q 4) s = .next (s.modPort q fun w => { w with st := .degraded, lanes := 4 }) ∧
      (lanes ≠ 8 → lanes ≠ 4 → ∃ u, exec (.portTrainingDone q lanes) s = .next u ∧ (u.port q).st = .down)) ∧
    (¬ up → nothing (.flitReceive q fl)) ∧
    (up →
      (fl.crcOk = false → exec (.flitReceive q fl) s = .next (s.modPort q fun w => { w with fails := w.fails + 1 })) ∧
      (fl.crcOk = true →
        let u := s.modPort q fun w => { w with fails := 0 }
        (∀ n, fl.body = .ack n → exec (.flitReceive q fl) s = .next (s.modPort q fun w => { w with fails := 0, replay := w.replay.drop n })) ∧
        (fl.body = .nak → w.replay ≠ [] → exec (.flitReceive q fl) s =
          .next (s.modPort q fun w => { w with fails := w.fails + 1, retry := w.retry + 1 })) ∧
        (∀ id ok d, fl.body = .reply id ok d → exec (.flitReceive q fl) s = .next (u.answer id ok d)) ∧
        (∀ a, bodyAccess fl.body = some a → exec (.flitReceive q fl) s = .next { u with peerIn := s.peerIn ++ [fl] }))) ∧
    (w.fails < 8 → nothing (.portRetrain q lanes)) ∧
    (8 ≤ w.fails →
      exec (.portRetrain q 8) s = .next (s.modPort q fun w => { w with fails := 0, retrain := w.retrain + 1, st := .up, lanes := 8 }) ∧
      exec (.portRetrain q 4) s = .next (s.modPort q fun w => { w with fails := 0, retrain := w.retrain + 1, st := .degraded, lanes := 4 }) ∧
      (lanes ≠ 8 → lanes ≠ 4 → ∃ u, exec (.portRetrain q lanes) s = .next u ∧ (u.port q).st = .down ∧ (u.port q).retrain = w.retrain + 1 ∧
        ∀ o ∈ u.ops, ¬ (o.out = true ∧ o.via = some q)))

/-- R283, R292, R350: a peer's request that an entry of the addressed partition's inbound table allows, one that reads well, is performed in
that partition as an operation of this device; one that none allows is answered with kind 0x0A, or 0x0E where an entry cannot be read, and
changes nothing else; it waits while an MIT holds the table's reads. (A request that reaches past two frames, or for plain memory past a
64 KiB page too, is answered with kind 0x02: the model's choice, log 10; 0x0E is the model's choice, log 39.) -/
def Claims.PeerAccessesAreAuthorized : Prop :=
  ∀ (s : State) (fl : Flit),
    let live := (s.part fl.dstPart).live = true
    let stays := exec (.peerAccessInbound fl) s = .next s
    (fl ∉ s.peerIn → stays) ∧ (live → s.inboundServed fl.dstPart = false → stays) ∧
    (fl ∈ s.peerIn → (¬ live ∨ s.inboundServed fl.dstPart = true) →
      let u : State := { s with peerIn := s.peerIn.erase fl }
      (bodyAccess fl.body = none → exec (.peerAccessInbound fl) s = .next u) ∧
      ∀ (w : BitVec 16) (off : BitVec 48) (n : Nat) (r : Right), bodyAccess fl.body = some (w, off, n, r) →
        let place := fun (i : Nat) => bfld (s.part fl.dstPart).authIn 47 16 * 65536 + 8 * i
        let lost := fun (i : Nat) => s.hbmBad (place i) 8 false = true
        let allowed := live ∧ ∃ i < 256, ¬ lost i ∧
          let e := s.hbmNum (place i) 8
          e.testBit 63 = true ∧ e.testBit (match r with | .rd => 62 | .wr => 61 | .atv => 60 | .col => 59) = true ∧
          fld e 41 24 = fl.srcDev.toNat ∧ fld e 21 16 = fl.srcPart.toNat
        let answers := fun (kind : Byte) => exec (.peerAccessInbound fl) s = .next (u.reply fl false [(kind, false)])
        let plain := match fl.body with | .read .. => True | .write .. => True | _ => False
        let fits := off.toNat % 4096 + n ≤ 8192 ∨ (plain ∧ off.toNat % 65536 + n ≤ 65536)
        (¬ allowed → (¬ live ∨ ∀ i < 256, ¬ lost i) → answers 0x0A) ∧
        (¬ allowed → live → (∃ i < 256, lost i) → answers 0x0E) ∧
        (allowed → ¬ fits → answers 0x02) ∧
        (allowed → fits → ∃ o : Op, o.id = s.newId ∧ o.part = fl.dstPart ∧ o.kind = .peer fl ∧
          bfld o.va 79 64 = w.toNat ∧ bfld o.va 47 0 = off.toNat ∧
          exec (.peerAccessInbound fl) s = .next ({ u with ops := u.ops ++ [o], newId := u.newId + 1 }.peerStep o fl)))

/-! ## Harts, the host, boot (R266, R338, R371 to R378) -/

/-- R266, R283, R338, R368: a hart loads and stores up to eight bytes of HBM at their addresses; a naturally aligned access to a register
page that its mode may reach reads or writes the register; any other is an access fault, and so is one past the memory or to a block
that fails its check. HBM at its device addresses below the control space, and these faults, are the model's choice (log 15). -/
def Claims.HartsReachMemoryAndPages : Prop :=
  ∀ (s : State) (h : HartReq),
    let gives := fun (x : HartOut) => exec (.hartMemoryAccess h) s = .next { s with hartOut := s.hartOut ++ [x] }
    let fault := gives (.accessFault h.hart)
    (h.size ∉ [1, 2, 4, 8] → fault) ∧
    (h.size ∈ [1, 2, 4, 8] → (h.addr < ctlBase ∨ ctlBase + 0x40_0000 ≤ h.addr) →
      (hbmTop < h.addr + h.size → fault) ∧
      (h.addr + h.size ≤ hbmTop → s.hbmBad h.addr h.size h.wr.isSome = true → fault) ∧
      (h.addr + h.size ≤ hbmTop → s.hbmBad h.addr h.size h.wr.isSome = false →
        (h.wr = none → gives (.data h.hart (.ofNat 64 (leNat ((upFrom h.addr h.size).map fun a => (s.hbmByte a).1))))) ∧
        ∀ x, h.wr = some x → exec (.hartMemoryAccess h) s =
          .next (s.hbmPut 0 h.addr ((leBytes h.size x.toNat).map fun b => some (b, false))))) ∧
    (h.size ∈ [1, 2, 4, 8] → ctlBase ≤ h.addr → h.addr < ctlBase + 0x40_0000 →
      let o := h.addr - ctlBase
      let p : PartId := .ofNat 6 (o / 0x1_0000)
      let reaches := fun (pg : RegPage) (off : Nat) =>
        (h.wr = none → gives (.data h.hart (.ofNat 64 (leNat ((upFrom off h.size).map (s.regByte pg)))))) ∧
        ∀ x, h.wr = some x →
          let u := s.regPut pg .hart off (leBytes h.size x.toNat)
          exec (.hartMemoryAccess h) s = .next (if s.hartStalls pg off (s.regVal pg off (leBytes h.size x.toNat)) then { u with hartOut := u.hartOut ++ [.stall h] } else u)
      (h.addr % h.size ≠ 0 → fault) ∧
      (h.addr % h.size = 0 → o < 0x1_0000 →
        (h.mode = .m ∨ (h.mode = .hs ∧ o / 8 * 8 ≠ 0x058) → reaches .monitor o) ∧
        (¬ (h.mode = .m ∨ (h.mode = .hs ∧ o / 8 * 8 ≠ 0x058)) → fault)) ∧
      (h.addr % h.size = 0 → 0x1_0000 ≤ o →
        (h.mode = .m ∨ h.mode = .hs ∨ (h.mode = .vs ∧ (s.part p).live = true ∧ (s.part p).hart = h.hart) → reaches (.part p) (o % 0x1_0000)) ∧
        (¬ (h.mode = .m ∨ h.mode = .hs ∨ (h.mode = .vs ∧ (s.part p).live = true ∧ (s.part p).hart = h.hart)) → fault)))

/-- R283, R338, R372, R373, R378: a virtual function that serves a live partition reaches that partition's page through BAR 0 and the
memory that its stage 2 maps, page by page, through BAR 2; the first reaches the recovery buffer in STAGE 6. PF0 reads BOOTSTAT; any other request, and one to a block that fails its check, is completed as Unsupported Request; one through BAR 2 waits while an MIT holds
the partition's accesses there, or an earlier one waits. That a bad block (log 26) and an address outside HBM (log 39) complete so is the
model's choice. What comes back from the host goes to the
operation that asked, and a function-level reset leaves the partition running. -/
def Claims.HostRequestsGoThroughTheirFunction : Prop :=
  ∀ (s : State) (h : HostReq) (k : BitVec 3),
    let n := match h.wr with | some d => d.length | none => h.len
    let gives := fun (d : List Byte) => exec (.hostRequest h) s = .next { s with hostOut := s.hostOut ++ [.reply h d] }
    let refuses := exec (.hostRequest h) s = .next { s with hostOut := s.hostOut ++ [.unsupported h] }
    let reaches := fun (pa : Nat) =>
      (s.hbmBad pa n h.wr.isSome = true → refuses) ∧
      (s.hbmBad pa n h.wr.isSome = false →
        (h.wr = none → gives ((upFrom pa n).map fun a => (s.hbmByte a).1)) ∧
        ∀ d, h.wr = some d → exec (.hostRequest h) s = .next (s.hbmPut 0 pa (d.map fun b => some (b, false))))
    (h.fn = .vf 0 → s.stage = 6 → h.bar = 2 → h.off + n ≤ 0x200_0000 → reaches h.off) ∧
    (∀ p, h.fn = .vf k → s.vfPart k = some p → ¬ (k = 0 ∧ s.stage = 6) →
      (h.bar = 0 → h.off + n ≤ 0x1000 →
        (h.wr = none → gives ((upFrom h.off n).map (s.regByte (.part p)))) ∧
        ∀ d, h.wr = some d → exec (.hostRequest h) s = .next (s.pagePut (.part p) .host h.off (d.length + 1) d)) ∧
      (h.bar = 0 → 0x1000 < h.off + n → refuses) ∧
      (h.bar = 2 → 2 ^ 36 < h.off + n → refuses) ∧
      (h.bar = 2 → h.off + n ≤ 2 ^ 36 → ((s.part p).bar2 ≠ [] ∨ s.ipaServed p h.off n = false) →
        exec (.hostRequest h) s = .next (s.modPart p fun y => { y with bar2 := y.bar2 ++ [h] })) ∧
      (h.bar = 2 → 0 < n → h.off % 65536 + n ≤ 65536 → h.off + n ≤ 2 ^ 36 → (s.part p).bar2 = [] → s.ipaServed p h.off n = true →
        (∀ f, s.stage2 p h.off = .error f → refuses) ∧
        ∀ pa b, s.stage2 p h.off = .ok (pa, b) →
          (pa + n ≤ hbmTop → (h.wr = none ∨ b = true) → reaches pa) ∧
          (hbmTop < pa + n → refuses) ∧ (h.wr ≠ none → b = false → refuses)) ∧
      (h.bar ≠ 0 → h.bar ≠ 2 → refuses)) ∧
    (h.fn = .vf k → s.vfPart k = none → ¬ (k = 0 ∧ s.stage = 6) → refuses) ∧
    (h.fn = .pf0 → (h.bar ≠ 0 ∨ pf0Maps h.off n = false) → refuses) ∧
    (h.fn = .pf0 → h.bar = 0 → h.wr = none → h.off = 0 → h.len = 8 → ∃ u d, exec (.hostRequest h) s = .next u ∧
      u.hostOut = s.hostOut ++ [.reply h d] ∧ d.length = 8 ∧ leNat d = s.bootstat.toNat) ∧
    exec (.functionLevelReset k) s = .next s ∧
    ∀ (id : Nat) (d : List Byte) (ep : Bool),
      (∀ o, s.ops.find? (fun o => o.id == id && o.out && o.via.isNone) = some o →
        exec (.hostReadCompletion id d ep) s = .next (s.answered o (d.map fun b => (b, ep)))) ∧
      (s.ops.find? (fun o => o.id == id && o.out && o.via.isNone) = none → exec (.hostReadCompletion id d ep) s = .next s)

/-- R376, R377, R378: reset trains HBM and reads the flash; a failure leaves STAGE 6 with its cause, 5 for HBM, 6 for the flash, 1 to 4
for the image; else the image lies in HBM at its address, STAGE is 3 and hart 0 starts at its entry. A recovery image is taken in STAGE
6 alone; when it verifies STAGE is 7 while it is written to flash, which holds no image meanwhile, and then the device resets. The empty
flash at STAGE 7 (log 20), the image cut at the top of HBM (log 39) and the free inputs of the reset that follows (log 3) are the model's
choices. -/
def Obligations.ResetBootsOrWaits : Prop :=
  ∀ (s : State) (n : BitVec 64),
    (∀ f, ∃ u, exec (.deviceReset ⟨false, f⟩) s = .next u ∧ u.stage = 6 ∧ u.cause = 5 ∧ u.tiles = [] ∧ u.flash = s.flash ∧ u.hbm = []) ∧
    (∃ u, exec (.deviceReset ⟨true, false⟩) s = .next u ∧ u.stage = 6 ∧ u.cause = 6 ∧ u.tiles = [] ∧ u.flash = s.flash) ∧
    (∃ u, exec (.deviceReset ⟨true, true⟩) s = .next u ∧ u.tiles = [] ∧ u.flash = s.flash ∧ match imageCause s.flash with
      | some c => u.stage = 6 ∧ u.cause = c
      | none => u.stage = 3 ∧ u.cause = 0 ∧ u.hartOut = s.hartOut ++ [.resetHart0 (.ofNat 64 (leNat (memRead s.flash 24 8)))] ∧
          ∀ i < leNat (memRead s.flash 8 8), leNat (memRead s.flash 16 8) + i < hbmTop →
            memGet u.hbm (leNat (memRead s.flash 16 8) + i) = memGet s.flash i) ∧
    (leNat (memRead s.flash 0 4) ≠ 0x4B58_4246 → imageCause s.flash = some 1) ∧ imageCause [] = some 1 ∧
    (s.stage ≠ 6 → s.stage ≠ 7 → exec (.recoveryImageWrite n) s = .next s) ∧
    (s.stage = 6 →
      let img := memSlice s.hbm 0 0x200_0000
      (leNat (memRead img 8 8) ≠ n.toNat → exec (.recoveryImageWrite n) s = .next { s with cause := 1 }) ∧
      (leNat (memRead img 8 8) = n.toNat → match imageCause img with
        | some c => exec (.recoveryImageWrite n) s = .next { s with cause := c }
        | none => ∃ u, exec (.recoveryImageWrite n) s = .next u ∧ u.stage = 7 ∧ u.flash = [] ∧ u.recov = some (memSlice s.hbm 0 n.toNat) ∧ u.tiles = s.tiles)) ∧
    (∀ m, s.stage = 7 → s.recov = some m → ∃ (u : State) (a b : Bool), exec (.recoveryImageWrite n) s = exec (.deviceReset ⟨a, b⟩) u ∧
      u = { s with flash := m, recov := none, freeCtr := s.freeCtr + 2 })

/-! ## The Shutter, power, soft errors (R284, R364, R368, R369, R380, R381) -/

/-- R122, R284, R364: an uncorrectable error marks the scratchpad word, instruction, token lane, accumulator, stationary word or block of
HBM where it falls, a block of a version's slot in the version; in a TLB it drops the entry; in control state it rolls the region back; in
a directory it is machine-check reason 3; a corrected one is counted and changes nothing else. That an error in a pool slot falls on what
the slot holds, a version's bytes, those of a history that a checkpoint keeps, or a running recompute's, is the model's reading (log 8). -/
def Claims.SoftErrorsPoisonWhatTheyHit : Prop :=
  ∀ (s : State) (t a n : Nat) (rg : Nat) (p : PartId) (ph : BitVec 2) (q : BitVec 3) (k : BitVec 4) (x : Token),
    let marked := fun (x : Token) => { x with poison := x.poison ||| (1 <<< k.toNat) }
    let does := fun (e : SoftError) (u : State) => exec (.softError e) s = .next u
    (t < 1536 → a < 0x8_0000 → does (.spWord t a) (s.modTile t fun y => { y with marks := setIns y.marks (a / 4 * 4) })) ∧
    (t < 1536 → n < 8192 → does (.istore t n) (s.modTile t fun y => { y with ipois := setIns y.ipois n })) ∧
    (∀ l r, (vget (s.lt t ph).inP q.toNat {}).fifo = l ++ x :: r →
      does (.inFifo t ph q l.length k) (s.modIn t ph q fun i => { i with fifo := l ++ marked x :: r })) ∧
    (∀ l r, let o := vget (s.lt t ph).outP q.toNat {}
      o.fifo = l ++ .tok x :: r → does (.outFifo t ph q l.length k)
        (s.modLt t ph fun y => { y with outP := vset y.outP q.toNat { o with fifo := l ++ .tok (marked x) :: r } })) ∧
    (∀ side l r, vget (vget (s.lt t ph).junc q.toNat {}).buf side [] = l ++ x :: r →
      does (.junction t ph q side l.length k) (s.modJunc t ph q fun y => { y with buf := vset y.buf side (l ++ marked x :: r) })) ∧
    (∀ (c : BitVec 4) (e : BitVec 8), does (.accum t ph c e) (s.modLt t ph fun y =>
      { y with mat := { y.mat with acc := vset y.mat.acc c.toNat ((vget y.mat.acc c.toNat (.sum 0 0)).poisonAt e.toNat) } })) ∧
    does (.stationary t ph true n) (s.modLt t ph fun y => { y with mat := { y.mat with act := { y.mat.act with marks := y.mat.act.marks ||| (1 <<< n) } } }) ∧
    does (.stationary t ph false n) (s.modLt t ph fun y => { y with mat := { y.mat with load := { y.mat.load with marks := y.mat.load.marks ||| (1 <<< n) } } }) ∧
    (∀ l r, (s.tile t).rc6 = l ++ .tok x :: r → does (.rcFifo t 6 l.length k) (s.modTile t fun y => { y with rc6 := l ++ .tok (marked x) :: r })) ∧
    (∀ l r, (s.tile t).rc7 = l ++ .tok x :: r → does (.rcFifo t 7 l.length k) (s.modTile t fun y => { y with rc7 := l ++ .tok (marked x) :: r })) ∧
    (∀ e : BitVec 8, does (.rcAccum t e) (s.modTile t fun y =>
      { y with rcMat := { y.rcMat with acc := vset y.rcMat.acc 15 ((vget y.rcMat.acc 15 (.sum 0 0)).poisonAt e.toNat) } })) ∧
    does (.rcStat t true n) (s.modTile t fun y => { y with rcMat := { y.rcMat with act := { y.rcMat.act with marks := y.rcMat.act.marks ||| (1 <<< n) } } }) ∧
    does (.rcStat t false n) (s.modTile t fun y => { y with rcMat := { y.rcMat with load := { y.rcMat.load with marks := y.rcMat.load.marks ||| (1 <<< n) } } }) ∧
    (∀ (c : BitVec 16), ∃ u, exec (.softError (.hop rg c n k)) s = .next u ∧ u.tiles = s.tiles ∧
      ∀ i z, s.circ rg i = some z → z.id = c → ∀ l pos r, l.length = n → z.flight = l ++ (pos, x) :: r →
        u.circ rg i = some { z with flight := l ++ (pos, marked x) :: r }) ∧
    (a < hbmTop →
      (s.slotAt a = none → does (.hbm a) { s with pq := pqSet s.pq (a / 256) 0xF }) ∧
      ∀ h i, s.slotAt a = some (h, i) →
        let pois := (upFrom (i / 256 * 4) 4).foldl setIns h.pois
        (∀ k v, h.who = .ver k v → does (.hbm a) (s.modVer k v fun y => { y with data := h.data, pois := pois })) ∧
        (∀ k gen v, h.who = .kept k gen v →
          does (.hbm a) (s.modKept k gen fun f => f.modVer v fun y => { y with data := h.data, pois := pois })) ∧
        ∀ t, h.who = .refill t → does (.hbm a) (s.modTile t fun x => { x with rc := x.rc.map fun c => { c with data := h.data, pois := pois } })) ∧
    (t < 1536 → does (.tlb t n) (s.modTile t fun y => { y with tlb := y.tlb.eraseIdx n })) ∧
    (t < 4 → does (.tlb (1536 + t) n) { s with tlb := vset s.tlb t ((vget s.tlb t []).eraseIdx n) }) ∧
    does (.control rg) (s.modRegion rg fun r => { r with rbReq := true }) ∧
    does (.directory p) (s.machineCheck p 3) ∧
    does (.corrected true) { s with hbmce := s.hbmce + 1 } ∧
    does (.corrected false) { s with sramce := s.sramce + 1 }

/-- R122, R368, R369: SHUTCTL, the pin and IEEE 1149.1 each raise the Shutter; then a readout of scratchpad, of the instruction store, of
HBM, a version's bytes in its slot, or of their poison bits gives the frozen word and changes nothing but the readout; before the Shutter
there is none. (An address of HBM that R369 gives both to contents and to poison reads as contents: the model's choice, log 27; that a slot's
bytes are those of what it holds is the model's reading, log 8.) -/
def Claims.ShutterFreezesAndReadsOut : Prop :=
  ∀ (s : State) (g : ReadoutAgent) (px : BitVec 6) (py : BitVec 5) (a : Nat),
    let at_ := fun (ra : Nat) (w : BitVec 32) (pois : Bool) =>
      exec (.shutterReadout (.ofNat 48 ra) g) s = .next { s with readout := some (w, pois) }
    let tile := px.toNat * 2 ^ 38 + py.toNat * 2 ^ 33
    let x := s.tile (48 * py.toNat + px.toNat)
    (∀ i ∈ [Instr.shutctlFire, .shutterPin, .shutterJtag], exec i s = .next { s with shut := true }) ∧
    (∀ ra, s.shut = false → exec (.shutterReadout ra g) s = .next s) ∧
    (s.shut = true → px.toNat < 48 → a < 0x8_0000 →
      at_ (tile + a) (.ofNat 32 (leNat (memRead x.spad (a / 4 * 4) 4))) (setHas x.marks (a / 4 * 4)) ∧
      at_ (tile + 2 ^ 27 + a) (.ofNat 32 (setHas x.marks (a / 4 * 4)).toNat) false) ∧
    (s.shut = true → px.toNat < 48 → a < 0x8000 → at_ (tile + 2 * 2 ^ 28 + a) (istGet x.istore (a / 4)) (setHas x.ipois (a / 4))) ∧
    (s.shut = true → a < hbmTop →
      let word := (upFrom (a / 4 * 4) 4).map s.hbmByte
      at_ (2 ^ 46 + a) (.ofNat 32 (leNat (word.map (·.1)))) (word.any (·.2)) ∧
      (hbmTop ≤ 2 ^ 39 + a → at_ (2 ^ 46 + 2 ^ 39 + a) (.ofNat 32 (word.any (·.2)).toNat) false))

/-- R380, R381: whichever event brings the dies' temperature and the power, the device throttles while power would pass the cap or a die is
at 105 °C, and at 115 °C power is removed and every state is lost but the flash. -/
def Claims.HeatThrottlesAndTrips : Prop :=
  ∀ (s : State) (x : ThermalInput),
    (s.cap = match s.pwrcap with | some c => c.toNat | none => Config.ratedPower) ∧
    ∀ i ∈ [Instr.thermalThrottle x, .thermtrip x],
      (x.temp.toNat < 115 * 8 → exec i s = .next { s with temp := x.temp, throt := decide (s.cap < x.watts ∨ 105 * 8 ≤ x.temp.toNat) }) ∧
      (115 * 8 ≤ x.temp.toNat → ∃ u, exec i s = .next u ∧ u.powered = false ∧ u.tiles = [] ∧ u.regions = [] ∧ u.hbm = [] ∧
      u.parts = [] ∧ u.flash = s.flash)

/-! ## Steps, decoding, reset, invariants -/

/-- R35, R312, R314, R316: a step with a word in hand runs the instruction that the words at the program counter decode to. A word that
parks its task, but for the matrix unit, takes no issue slot; any other moves the tile's rotation on, is remembered as its class's last,
and is progress of its region. With no word in hand a step takes the next turn of the agenda. That a word which parks takes no issue slot
(log 29) and the agenda's turns (log 1) are the model's choices. -/
def Claims.StepRunsTheDecodedInstruction : Prop :=
  ∀ (s : State) (i : Instr), s.runs →
    (s.live = true → s.cur.ptraps = [] → s.nextIs i → ∀ u, exec i { s with live := false } = .next u →
      let v := u.modTile s.ctx.tile fun x =>
        { x with rot := x.rot + 1, lastHi := if (vget x.tasks s.ctx.slot.toNat {}).high then s.ctx.slot else x.lastHi
                 lastNo := if (vget x.tasks s.ctx.slot.toNat {}).high then x.lastNo else s.ctx.slot }
      ((∃ r, r ≠ .matrix ∧ u.cur.st = .parked r) → step s = .next u) ∧
      ((∀ r, u.cur.st = .parked r → r = .matrix) → step s = .next (if s.ctx.slot = 15 then v else v.progressAt s.ctx.tile s.cur.phase))) ∧
    (∀ dt r, s.live = false → s.agenda = ⟨dt, .event i⟩ :: r → step s = exec i { s with cycle := s.cycle + dt, agenda := r })

/-- R35, R55, R160, R364: what a fetch traps on: an index at or past the limit (PC_RANGE, with the limit), a word with an uncorrectable
error (FETCH_POISON, with its index), a stream command that runs past the limit, and a word that is no instruction (ILLEGAL, with the
field and the word). A trap that stands from earlier comes first. That such a trap takes no issue slot is the model's choice (log 29). -/
def Claims.FetchTrapsNameTheirCause : Prop :=
  ∀ (s : State), s.runs → s.live = true →
    let u : State := { s with live := false }
    let pc := s.cur.pc
    (∀ p l, s.cur.ptraps = p :: l → step s = .next (takePending u p l)) ∧
    (s.cur.ptraps = [] →
      (s.limit ≤ pc → step s = u.traps 3 0 (.ofNat 64 s.limit)) ∧
      (pc < s.limit → s.wordsBad pc 1 = true → step s = u.traps 30 0 (.ofNat 64 pc)) ∧
      (pc < s.limit → s.wordsBad pc 1 = false → major (s.word pc) ≠ 0x1F → ∀ e, decode [(s.word pc).toNat] = .error e →
        step s = u.traps 1 e.field (.ofNat 64 (s.word pc).toNat)) ∧
      (pc < s.limit → s.wordsBad pc 1 = false → major (s.word pc) = 0x1F → s.limit < pc + 4 → step s = u.traps 1 18 (.ofNat 64 (s.word pc).toNat)) ∧
      (pc + 4 ≤ s.limit → s.wordsBad pc 1 = false → major (s.word pc) = 0x1F →
        ∀ i, (upFrom pc 4).find? (s.wordBad s.ctx.tile s.ctx.slot s.cur.phase) = some i → step s = u.traps 30 0 (.ofNat 64 i)))

/-- The decoder reads words written out from the encoding tables as the instructions they stand for, and refuses ill-formed ones with
the field that R56 names first. -/
def Obligations.WordsDecodeAsTheTablesSay : Prop :=
  decode [0x08048600] = .ok (.add 1 2 1 true false) ∧
  decode [0x10308005] = .ok (.addi 3 0 true 5) ∧
  decode [0x604C9100] = .ok (.frWait 3 2 4 true) ∧
  decode [0x68185C02] = .ok (.atAdd 6 1 7 false .relaxed .device) ∧
  decode [0x60C09800] = .ok (.frRecipe 2 6 false) ∧
  decode [0xF8008080, 0x40000000, 0xFFFFF1F0, 0x16000000] = .ok (.sRead 0 (.port 1) 0x20 2 none none .move 0xFFFFF1F0 5 true) ∧
  decode [0x00000000] = .error ⟨0, 0⟩ ∧ decode [0x08048601] = .error ⟨8, 0⟩

/-- R36 to R45: decoding the words that an instruction encodes to gives the instruction back, for every instruction word and stream
command with every operand that it may hold. -/
def Obligations.DecodeInvertsEncode : Prop :=
  ∀ (i : Instr), i.isWord = true → i.wellFormed = true → decode (encode i) = .ok i

/-- R36 to R45, R55, R56: words that decode are the encoding of what they decode to, and that is well formed: every bit of a legal word
is determined by the instruction. -/
def Obligations.EncodeInvertsDecode : Prop :=
  ∀ (ws : List Nat) (i : Instr), (∀ w ∈ ws, w < 2 ^ 32) → ws.length = i.len → decode ws = .ok i → encode i = ws ∧ i.wellFormed = true

/-- R7, R281, R338, R361, R376: what reset leaves: no task, region or partition, HBM that reads as zeros without poison, empty queues,
and its memories in canonical form. Where the spec gives no reset value (a slot's state, the ports', HBM's bytes) it is the model's choice
(log 4). -/
def Obligations.ResetLeavesAnEmptyDevice : Prop :=
  let s := State.reset
  (∀ t k, (s.task t k).st = .absent) ∧ s.regions = [] ∧ (∀ p, (s.part p).live = false ∧ (s.part p).fq = [] ∧ (s.part p).fqprod = 0) ∧
  (∀ a, memGet s.hbm a = 0 ∧ s.hbmPois a = false) ∧ s.mcValid = false ∧ s.shut = false ∧ (∀ q, (s.port q).st = .down) ∧ s.vfmap = 0 ∧ s.Canon

/-- Every step keeps HBM, the flash and every scratchpad in canonical form: addresses rise, no byte is listed that reads as zero, and
marks rise (the model's representation, logs 8 and 9). -/
def Obligations.EveryStepKeepsCanonicalMemory : Prop :=
  ∀ (s t : State), s.Canon → step s = .next t → t.Canon

/-- R368, R369, R381: behind the Shutter a step other than a device reset changes nothing but the time, the turns left and what a readout
gave; without power nothing but the time and the turns left. -/
def Obligations.FrozenStateStaysAsItIs : Prop :=
  ∀ (s t : State), step s = .next t → (∀ d i r, s.agenda ≠ ⟨d, .event (.deviceReset i)⟩ :: r) →
    (s.shut = true → s.powered = true → t = { s with cycle := t.cycle, agenda := t.agenda, freeCtr := t.freeCtr, readout := t.readout }) ∧
    (s.powered = false → t = { s with cycle := t.cycle, agenda := t.agenda })

/-- R48, R66 to R72: the frame of the words whose effect is one register: only the issuing task changes, and of it only that register,
the program counter and its run state; every byte of every memory is as before. The register words of groups 0x01 to 0x04, those
of the base registers among them, are of this form when their sources are full and their destination is not pending. -/
def Obligations.RegisterResultsTouchNothingElse : Prop :=
  ∀ (s t : State), s.ctx.unit = .task →
    let frame := OnlyTask s t ∧ t.cur.pc = s.cur.pc + 1 ∧ t.hbm = s.hbm ∧ (∀ n a, t.spByte n a = s.spByte n a) ∧
      t.cur.tcause = s.cur.tcause ∧ t.cur.tpc = s.cur.tpc ∧ t.cur.tval = s.cur.tval ∧ t.cur.ssp = s.cur.ssp ∧ t.cur.ptraps = s.cur.ptraps
    let gs := fun (d : BitVec 4) => ∀ r, r ≠ d → t.g r = s.g r
    let bs := ∀ r, t.b r = s.b r
    let ms := ∀ r, t.m r = s.m r
    let wsame := ∀ r, t.w r = s.w r
    (∀ d x, (s.setG d x).done = .next t → frame ∧ gs d ∧ t.g d = { val := x, st := .full } ∧ bs ∧ ms ∧ wsame) ∧
    (∀ d x, (s.setB d x).done = .next t → frame ∧ (∀ r, t.g r = s.g r) ∧ t.b d = x ∧ (∀ r, r ≠ d → t.b r = s.b r) ∧ ms ∧ wsame) ∧
    (∀ d x, (s.setM d x).done = .next t → frame ∧ (∀ r, t.g r = s.g r) ∧ bs ∧ t.m d = x ∧ (∀ r, r ≠ d → t.m r = s.m r) ∧ wsame) ∧
    (∀ d x, (s.setW d x).done = .next t → frame ∧ (∀ r, t.g r = s.g r) ∧ bs ∧ ms ∧ t.w d = x ∧ (∀ r, r ≠ d → t.w r = s.w r)) ∧
    (∀ (d a b : BitVec 4) (e c : BitVec 3) (m : BitVec 8) (w v : Bool) (i : BitVec 15) (k : BitVec 6) (n : ExtWidth) (x y z : DWord),
      s.full a x → s.full b y →
      (s.takes d → ∀ j ∈ [Instr.bGet d c, .bGwin d c], exec j s = .next t → frame ∧ gs d ∧ bs ∧ ms ∧ wsame) ∧
      (∀ j ∈ [Instr.bMov e c, .bAdd e c a w, .bAddi e c m, .bWin e a b w v, .bCpy e c a w], exec j s = .next t →
        frame ∧ (∀ r, t.g r = s.g r) ∧ (∀ r, r ≠ e → t.b r = s.b r) ∧ ms ∧ wsame) ∧
      (s.takes d → ∀ j ∈ [Instr.add d a b w v, .sub d a b w v, .mul d a b w v, .mulh d a b w v, .mulhu d a b w v, .div d a b w v, .divu d a b w v,
          .rem d a b w v, .remu d a b w v, .and d a b w v, .or d a b w v, .xor d a b w v, .andn d a b w v, .sll d a b w v, .srl d a b w v,
          .sra d a b w v, .slt d a b w v, .sltu d a b w v, .min d a b w v, .max d a b w v, .minu d a b w v, .maxu d a b w v, .clz d a w,
          .ctz d a w, .popc d a w, .mov d a w, .sext d a w n, .zext d a w n, .addi d a w i, .andi d a w i, .ori d a w i, .xori d a w i,
          .slli d a w k, .srli d a w k, .srai d a w k, .slti d a w i, .li d i],
        exec j s = .next t → frame ∧ gs d ∧ bs ∧ ms ∧ wsame) ∧
      (s.full d z → ∀ j ∈ [Instr.liS15 d w i, .liS30 d w i, .liS45 d w i, .liS60 d w (i.setWidth 4)],
        exec j s = .next t → frame ∧ gs d ∧ bs ∧ ms ∧ wsame))

/-! ## Words that R66, R71 to R73 and R83 refuse -/

/-- R66: the words of group 0x01 that are ILLEGAL, with the field that is the first to be wrong. -/
def Claims.ScalarWordsAreRefused : Prop :=
  ∀ w : Nat, w < 2 ^ 32 → fld w 31 27 = 1 →
    let m := fld w 26 22
    let bad := fun (f : Nat) => decode [w] = .error ⟨f, 0⟩
    (28 ≤ m → bad 1) ∧ (m < 22 → fld w 7 0 ≠ 0 → bad 8) ∧
    (22 ≤ m → m < 28 → (fld w 13 10 ≠ 0 → bad 5) ∧ (fld w 13 10 = 0 → fld w 8 8 ≠ 0 → bad 7) ∧
      (fld w 13 10 = 0 → fld w 8 8 = 0 → (if m < 26 then fld w 7 0 ≠ 0 else 3 ≤ fld w 7 0) → bad 8))

/-- R71, R72: the branch and jump words that are ILLEGAL. -/
def Claims.JumpWordsAreRefused : Prop :=
  ∀ w : Nat, w < 2 ^ 32 →
    let k := fld w 26 23
    let bad := fun (f : Nat) => decode [w] = .error ⟨f, 0⟩
    (fld w 31 27 = 7 → (k = 8 ∨ k = 9 → 4 ≤ fld w 22 19 → bad 4) ∧ (k = 6 ∨ k = 7 → fld w 18 18 ≠ 0 → bad 7) ∧
      (k = 8 ∨ k = 9 → fld w 22 19 < 4 → fld w 18 18 ≠ 0 → bad 7)) ∧
    (fld w 31 27 = 8 → (5 ≤ k → bad 1) ∧ (k = 0 → fld w 22 19 ≠ 0 → bad 4) ∧ (k = 0 → fld w 22 19 = 0 → fld w 18 18 ≠ 0 → bad 7) ∧
      (k = 1 → fld w 18 18 ≠ 0 → bad 7) ∧ (k = 2 → fld w 17 0 ≠ 0 → bad 9) ∧ (k = 3 → fld w 17 4 ≠ 0 → bad 9))

/-- R73: `few` and `fec` with an unused field that is not zero are ILLEGAL. -/
def Claims.ControlWordsAreRefused : Prop :=
  ∀ w : Nat, w < 2 ^ 32 → fld w 31 27 = 0x0A →
    (fld w 26 22 = 0 → (fld w 21 18 ≠ 0 ∨ fld w 13 0 ≠ 0) → ∃ f, decode [w] = .error ⟨f, 0⟩ ∧
      f = if fld w 21 18 ≠ 0 then 3 else if fld w 13 10 ≠ 0 then 5 else if fld w 9 8 ≠ 0 then 7 else 8) ∧
    (fld w 26 22 = 1 → fld w 17 0 ≠ 0 → ∃ f, decode [w] = .error ⟨f, 0⟩ ∧
      f = if fld w 17 14 ≠ 0 then 4 else if fld w 13 10 ≠ 0 then 5 else if fld w 9 8 ≠ 0 then 7 else 8)

/-- R83: `trap`, `bkpt` and `eret` with an unused field that is not zero are ILLEGAL. -/
def Claims.TrapWordsAreRefused : Prop :=
  ∀ w : Nat, w < 2 ^ 32 → fld w 31 27 = 0x0B →
    let m := fld w 26 22
    let bad := fun (f : Nat) => decode [w] = .error ⟨f, 0⟩
    (2 ≤ m → m ≤ 4 → (fld w 21 18 ≠ 0 → bad 3) ∧ (fld w 21 18 = 0 → fld w 17 17 ≠ 0 → bad 7) ∧
      (fld w 21 18 = 0 → fld w 17 17 = 0 → fld w 16 7 ≠ 0 → bad 15)) ∧
    (fld w 21 7 = 0 → (m = 3 → fld w 6 0 ≠ 0 → bad 9) ∧ (m = 4 → fld w 6 1 ≠ 0 → bad 9))

/-! ## Statements that join several claims -/

/-- R66: integer arithmetic follows its table, the counts count bits, and the words that R66 refuses are ILLEGAL. -/
def Obligations.ScalarArithmeticFollowsTheTables : Prop :=
  Claims.IntegerArithmeticFollowsTable ∧ Claims.BitCountsCountBits ∧ Claims.ScalarWordsAreRefused

/-- R67 to R69: immediates, constants and base registers. -/
def Obligations.ConstantsAndBasesFollowTheTables : Prop :=
  Claims.ImmediateArithmeticFollowsTable ∧ Claims.ConstantsReplaceTheirField ∧ Claims.BaseRegisterOpsFollowTable

/-- R63, R70, R303, R321: scalar and token loads, and the range they may touch. -/
def Obligations.ScratchpadLoadsReadTheirBytes : Prop :=
  Claims.ScratchpadRangeIsTheShare ∧ Claims.ScalarLoadsFollowPseudocode ∧ Claims.TokenLoadTakesSixteenWords

/-- R65, R70: scalar and token stores write their bytes and marks, and no other. -/
def Obligations.ScratchpadStoresWriteTheirBytes : Prop :=
  Claims.ScalarStoresWriteExactlyTheirBytes ∧ Claims.TokenStoreIsMasked

/-- R71, R72: branches, jumps and loops, and the words that are ILLEGAL. -/
def Obligations.BranchesAndJumpsGoOrTrap : Prop :=
  Claims.BranchesTestAndGo ∧ Claims.JumpsFollowPseudocode ∧ Claims.JumpWordsAreRefused

/-- R73, R77: full/empty control, waits, yields and the end of a task. -/
def Obligations.TaskWordsWaitAndEnd : Prop :=
  Claims.FullEmptyControl ∧ Claims.WaitYieldEnd ∧ Claims.ControlWordsAreRefused

/-- R75, R76, R303: `getw`, `putw` and `putc`, and the head that a waiting `getw` takes. -/
def Obligations.PortWordsMoveTokens : Prop :=
  Claims.GetwDelivers ∧ Claims.PutPushesOneToken ∧ Claims.WaitingGetwTakesTheHead

/-- R78 to R80, R357: `fork`, `rdv` and `trig`. -/
def Obligations.RunsAndLaunchesAreQueued : Prop :=
  Claims.ForkQueuesARun ∧ Claims.RdvAwaitsAndReports ∧ Claims.TrigLaunches

/-- R74, R303: `pushm` and `popm`. -/
def Obligations.SpillStackKeepsRegisters : Prop :=
  Claims.PushmSpillsRegisters ∧ Claims.PopmRestoresRegisters

/-- R29, R54, R74, R81, R82: `sysr` and `sysw`. -/
def Obligations.SystemRegistersReadAndWrite : Prop :=
  Claims.SysrReadsTheRegister ∧ Claims.SyswWritesWritableFields

/-- R83, R85, R304, R360: `trap`, `bkpt`, `eret`, and what a trap saves and reports. -/
def Obligations.TrapsSaveAndReturn : Prop :=
  Claims.TrapWordsAndEret ∧ Claims.TrapSavesAndReports ∧ Claims.TrapWordsAreRefused

/-- R85, R92, R93, R95, R171, R174, R253: when a token instruction issues, and how its result arrives. -/
def Obligations.TokenWordsFireAndDeliver : Prop :=
  Claims.FiringRuleOfTokenWords ∧ Claims.TokenResultsArrive ∧ Claims.FirstNanIsRecorded

/-- R176 to R179, R188, R189: floating-point token words. -/
def Obligations.FloatTokenWordsFollowTheTables : Prop :=
  Claims.FloatTokenWordsAreElementwise ∧ Claims.ScaleAndSpecialFunctionWords ∧ Claims.SpecialInputsFollowTheTable

/-- R154, R156, R181 to R183: conversions and their rounding. -/
def Obligations.ConvertWordsRoundOnce : Prop :=
  Claims.RoundingKeepsRepresentableValues ∧ Claims.ConvertWords

/-- R161, R162, R184 to R186: packing, and quantised blocks. -/
def Obligations.PackedAndBlockFormatsFollowTheTables : Prop :=
  Claims.PackAndUnpackWords ∧ Claims.BlockQuantisationWords

/-- R165, R190: the reductions and the tree that orders their sums. -/
def Obligations.ReductionsFollowTheTree : Prop :=
  Claims.ReductionWords ∧ Claims.ReductionTreePairsNeighbours ∧ Claims.ReductionsAreTheTreeOfTheirLeaves

/-- R93, R166, R191, R192, R194: permutation and scan, and the control of lanes and tags. -/
def Obligations.LanesArePermutedAndTagged : Prop :=
  Claims.ScanAndPermuteWords ∧ Claims.LaneTagAndValidControl

/-- R160, R164, R199, R205, R210 to R212: products through the matrix unit. -/
def Obligations.MatrixProductsRoundOneSum : Prop :=
  Claims.InlineMatrixWordsGoThroughTheUnit ∧ Claims.MatrixProductsTakeAnEntry ∧ Claims.ProductElementsRoundOneSum ∧ Claims.GroupSumIsExactOnItsGrid

/-- R95, R208, R209, R213, R215, R216: loads, drains, moves and grouped products. -/
def Obligations.MatrixUnitMovesTurnByTurn : Prop :=
  Claims.MatrixMovesInOneTurn ∧ Claims.MatrixTokensTurnByTurn ∧ Claims.GroupedProductChecksAndEnds ∧ Claims.LoadedAndDrainedTokens

/-- R95, R217 to R223: ranked lists. -/
def Obligations.RankedListsKeepTheBest : Prop :=
  Claims.RankedInsertKeepsTheBest ∧ Claims.RankedListWords ∧ Claims.ThresholdIsTheLastKeptValue ∧ Claims.RankedOutPushesARow ∧
  Claims.RankedRowsTakeAndGive

/-- R202 to R204, R206, R303: ring control and the ring feed. -/
def Obligations.RingsAreFedAndControlled : Prop :=
  Claims.RingControlWords ∧ Claims.RingFeedTakesTheHead

/-- R104, R109 to R111: stream commands and their control. -/
def Obligations.StreamWordsJoinTheirQueue : Prop :=
  Claims.StreamCommandsJoinTheirQueue ∧ Claims.StreamControlWords

/-- R119, R126 to R131, R137: memory operations enter the port. -/
def Obligations.MemoryWordsEnterThePort : Prop :=
  Claims.MemoryOperationsEnterThePort ∧ Claims.FrameAndAtomicWordsEnterThePort

/-- R97, R98, R100, R101, R104, R106, R108, R110, R229, R230, R290, R291: commands start, access their elements, move tokens, and
complete. -/
def Obligations.StreamEnginesMoveTheirElements : Prop :=
  Claims.CommandsStartAndComplete ∧ Claims.ReadsIssueTheirElements ∧ Claims.TokensLeaveAndEnterEngines

/-- R119, R131, R249, R253, R280, R382: the port forwards in order, and an atomic is one step. -/
def Obligations.AtomicsAreForwardedAndPerformed : Prop :=
  Claims.PortForwardsInOrder ∧ Claims.AtomicValues ∧ Claims.AtomicsAreOneStep

/-- R123, R124, R262, R280: what a directory answers a versioned access, and that the access happens at its home. -/
def Obligations.VersionsAreWrittenOnceAndAwaited : Prop :=
  Claims.VersionedWriteDecision ∧ Claims.ElementAccessesHappenAtHome ∧ Claims.VersionedReadDecision

/-- R119, R126 to R128, R295: frame operations, initialisations and recipes at a directory. -/
def Obligations.DirectoryPerformsFrameOperations : Prop :=
  Claims.FrameOperationsArePerformed ∧ Claims.InitsAndRecipesAtTheDirectory

/-- R134 to R137, R140 to R142, R290: cards, collectives and Prism programs. -/
def Obligations.CardsAndProgramsComplete : Prop :=
  Claims.CardsAndCollectivesComplete ∧ Claims.CollectiveResults ∧ Claims.PrismProgramIsReplacedWhole

/-- R281 to R289: what the Prism and the block compressor compute. -/
def Obligations.PrismAndCompressorFollowTheTables : Prop :=
  Claims.PrismProgramsComputeUnits ∧ Claims.PrismCellsComputeTheirOps ∧ Claims.CompressorChoosesTheLeastMode

/-- R11, R12, R91, R114, R312, R322, R326, R360: tokens on circuits, at their endpoints, and too late. -/
def Obligations.TokensTravelAndArrive : Prop :=
  Claims.TokensHopAlongTheirCircuit ∧ Claims.TokensArriveAtTheirEndpoint ∧ Claims.LateTokenBurstsReport

/-- R89, R114, R117, R156, R168: what each kind of junction does. -/
def Obligations.JunctionsFollowTheirKind : Prop :=
  Claims.JunctionsForwardTokens ∧ Claims.JoinsTakeTheirHeads ∧ Claims.JunctionsMakeTokens

/-- R86, R248, R312 to R314: fences, issue slots, and how parked tasks become ready. -/
def Obligations.IssueSlotsAndParkedTasks : Prop :=
  Claims.FencesAwaitEarlierOperations ∧ Claims.IssueSlotsRotateByClass ∧ Claims.ParkedTasksAreReadied

/-- R227 to R235, R349: the jobs of a syntax engine, what their tokens hold, and its owner. -/
def Obligations.SyntaxEnginesServeTheirOwner : Prop :=
  Claims.SyntaxTokensHoldTheRecords ∧ Claims.SyntaxJobsPushTheirTokens ∧ Claims.SyntaxEnginesChangeOwner

/-- R299 to R305: eviction, spills and recomputes. -/
def Obligations.PenumbraEvictsAndRecomputes : Prop :=
  Claims.EvictionDropsOrSpills ∧ Claims.RecomputeStartsInSlot15 ∧ Claims.RecomputeEndsResident

/-- R317, R320, R344, R346, R347: the two phases of a commit. -/
def Obligations.CommitsTakeTwoPhases : Prop :=
  Claims.CommitRequestsAreFetched ∧ Claims.FetchedRegionsArePlaced

/-- R316, R318, R360, R367, R382: a graph completes, and one that stands still is reported. -/
def Obligations.GraphsCompleteOrAreReported : Prop :=
  Claims.GraphsComplete ∧ Claims.StoppedRegionsAreReported

/-- R90, R196, R317, R322, R325, R367: pre-emption, and what a freeze sends. -/
def Obligations.FreezesSendMarkers : Prop :=
  Claims.PreemptionFreezesARegion ∧ Claims.FreezeSendsAMarkerOnEachCircuit

/-- R357, R366, R367: checkpoints and rollback. -/
def Obligations.CheckpointsAndRollbacks : Prop :=
  Claims.CheckpointsStandInPlace ∧ Claims.RollbackReturnsOrFails

/-- R283, R292, R359, R361, R373: fault rings and the layout of a record. -/
def Obligations.FaultRecordsReachTheirRing : Prop :=
  Claims.FaultRingsTakeRecords ∧ Claims.RecordLayoutIsTheTable

/-- R363, R366, R367: commands on tasks and regions. -/
def Obligations.ControllerCommandsActOnTasks : Prop :=
  Claims.TaskCommandsActOnTrappedTasks ∧ Claims.CheckpointCommandsMarkTheRegion

/-- R338 to R342, R350, R357: how an access is translated, what an invalidation drops, and what a scrub zeroes. -/
def Obligations.AddressesAreTranslatedAndInvalidated : Prop :=
  Claims.WalksReadThreeLevels ∧ Claims.AccessesAreTranslated ∧ Claims.InvalidationsDropTheirEntries ∧ Claims.ScrubbingZeroesGranules

/-- R345, R351, R383: ownership, and the removal of regions and slices. -/
def Obligations.OwnershipAndRemovalsComplete : Prop :=
  Claims.OwnershipMovesWholeRectangles ∧ Claims.RemovalsTakeRegionsAndSlices

/-- R337, R338, R348, R351, R372 to R374, R379, R381: partitions and registers. -/
def Obligations.ControlRegistersActAsTheTablesSay : Prop :=
  Claims.PartitionsComeAndGo ∧ Claims.MonitorRegistersTakeTheirValues ∧ Claims.PageRegistersStoreTheirFields

/-- R350, R365, R379: Wildom ports and peers' accesses. -/
def Obligations.WildomPortsCarryAuthorizedAccesses : Prop :=
  Claims.WildomPortsTrainAndRetry ∧ Claims.PeerAccessesAreAuthorized

/-- R266, R283, R338, R368, R372, R373, R378: harts and the host. -/
def Obligations.HartsAndHostReachTheDevice : Prop :=
  Claims.HartsReachMemoryAndPages ∧ Claims.HostRequestsGoThroughTheirFunction

/-- R122, R284, R364, R368, R369, R380, R381: soft errors, the Shutter and heat. -/
def Obligations.ErrorsHeatAndShutterAct : Prop :=
  Claims.SoftErrorsPoisonWhatTheyHit ∧ Claims.ShutterFreezesAndReadsOut ∧ Claims.HeatThrottlesAndTrips

/-- R35, R55, R160, R312, R314, R316, R364: what a step runs, and what a fetch traps on. -/
def Obligations.StepsFetchDecodeAndRun : Prop :=
  Claims.StepRunsTheDecodedInstruction ∧ Claims.FetchTrapsNameTheirCause
end

