-- ==== Sys2Proof/Laws/Mem.lean ====
section
/-! SUPPORT. The laws of byte stores, sorted sets and association lists: a read after a write, and that every operation keeps the canonical form. -/
namespace Sys2Proof.Machine
set_option Elab.async false

/-! ## Reads after writes -/

/-- A written byte reads back, and every other address reads as before. -/
theorem memGet_memSet (m : Mem) (lo a b : Nat) (x : Byte) (h : memWfFrom lo m = true) :
    memGet (memSet m a x) b = if b = a then x else memGet m b := by
  induction m generalizing lo with
  | nil =>
    unfold memSet
    split <;> rename_i hx
    · subst hx; simp [memGet]
    · by_cases hb : b = a <;> simp [memGet, hb]
  | cons p r ih =>
    obtain ⟨c, y⟩ := p
    simp only [memWfFrom, Bool.and_eq_true, decide_eq_true_eq] at h
    have hr := ih (c + 1) h.2
    have low : ∀ (l : Mem) (k : Nat), memWfFrom k l = true → ∀ e, e < k → memGet l e = emptyByte := by
      intro l
      induction l with
      | nil => intros; rfl
      | cons q t iht =>
        obtain ⟨d, z⟩ := q
        intro k hk e he
        simp only [memWfFrom, Bool.and_eq_true, decide_eq_true_eq] at hk
        have : e ≠ d := by omega
        simp only [memGet, this, if_false]
        exact iht (d + 1) hk.2 e (by omega)
    unfold memSet
    by_cases h1 : a < c
    · simp only [h1, if_true]
      split <;> rename_i hx
      · by_cases hb : b = a
        · subst hb
          have : b ≠ c := by omega
          simp [memGet, this, hx, low r (c + 1) h.2 b (by omega)]
        · simp [hb]
      · by_cases hb : b = a <;> simp [memGet, hb]
    · simp only [h1, if_false]
      by_cases h2 : a = c
      · subst h2
        simp only [if_true]
        split <;> rename_i hx
        · by_cases hb : b = a
          · subst hb; simp [hx, low r (b + 1) h.2 b (by omega)]
          · simp [memGet, hb]
        · by_cases hb : b = a <;> simp [memGet, hb]
      · simp only [h2, if_false, memGet]
        by_cases hb : b = c
        · subst hb
          have : ¬ b = a := fun e => h2 e.symm
          simp [this]
        · simp [hb, hr]

/-- The same for a store in canonical form. -/
theorem memGet_set {m : Mem} (h : memWf m = true) (a b : Nat) (x : Byte) :
    memGet (memSet m a x) b = if b = a then x else memGet m b := memGet_memSet m 0 a b x h

/-! ## The canonical form is kept -/

theorem memWfFrom_mono {m : Mem} {lo hi : Nat} (h : memWfFrom hi m = true) (l : lo ≤ hi) : memWfFrom lo m = true := by
  cases m with
  | nil => rfl
  | cons p r =>
    simp only [memWfFrom, Bool.and_eq_true, decide_eq_true_eq] at h ⊢
    exact ⟨⟨by omega, h.1.2⟩, h.2⟩

theorem memSet_wfFrom (m : Mem) (lo a : Nat) (x : Byte) (h : memWfFrom lo m = true) (l : lo ≤ a) : memWfFrom lo (memSet m a x) = true := by
  induction m generalizing lo with
  | nil =>
    unfold memSet
    split <;> rename_i hx
    · rfl
    · simp [memWfFrom, l, hx]
  | cons p r ih =>
    obtain ⟨c, y⟩ := p
    have h0 := h
    simp only [memWfFrom, Bool.and_eq_true, decide_eq_true_eq] at h
    unfold memSet
    by_cases h1 : a < c
    · simp only [h1, if_true]
      split <;> rename_i hx
      · exact h0
      · simp only [memWfFrom, Bool.and_eq_true, decide_eq_true_eq, bne_iff_ne]
        exact ⟨⟨l, hx⟩, ⟨by omega, by simpa using h.1.2⟩, h.2⟩
    · simp only [h1, if_false]
      by_cases h2 : a = c
      · simp only [h2, if_true]
        split <;> rename_i hx
        · exact memWfFrom_mono h.2 (by omega)
        · simp only [memWfFrom, Bool.and_eq_true, decide_eq_true_eq, bne_iff_ne]
          exact ⟨⟨h.1.1, hx⟩, h.2⟩
      · simp only [h2, if_false, memWfFrom, Bool.and_eq_true, decide_eq_true_eq]
        exact ⟨h.1, ih (c + 1) h.2 (by omega)⟩

/-- A written byte keeps the canonical form. -/
theorem memSet_wf {m : Mem} (h : memWf m = true) (a : Nat) (x : Byte) : memWf (memSet m a x) = true := memSet_wfFrom m 0 a x h (by omega)

/-- Written bytes keep it. -/
theorem memWrite_wf {m : Mem} (h : memWf m = true) (a : Nat) (l : List Byte) : memWf (memWrite m a l) = true := by
  induction l generalizing m a with
  | nil => exact h
  | cons x r ih => exact ih (memSet_wf h a x) (a + 1)

/-- A masked write keeps it. -/
theorem memWriteOpt_wf {m : Mem} (h : memWf m = true) (a : Nat) (l : List (Option Byte)) : memWf (memWriteOpt m a l) = true := by
  induction l generalizing m a with
  | nil => exact h
  | cons x r ih =>
    cases x with
    | none => exact ih h (a + 1)
    | some x => exact ih (memSet_wf h a x) (a + 1)

theorem memSlice_wfFrom (m : Mem) (k lo hi : Nat) (h : memWfFrom k m = true) : memWfFrom (k - lo) (memSlice m lo hi) = true := by
  induction m generalizing k with
  | nil => rfl
  | cons p r ih =>
    obtain ⟨c, y⟩ := p
    simp only [memWfFrom, Bool.and_eq_true, decide_eq_true_eq] at h
    unfold memSlice
    split
    · simp only [memWfFrom, Bool.and_eq_true, decide_eq_true_eq]
      refine ⟨⟨by omega, h.1.2⟩, ?_⟩
      have e : c - lo + 1 = c + 1 - lo := by omega
      rw [e]; exact ih (c + 1) h.2
    · exact memWfFrom_mono (ih (c + 1) h.2) (by omega)

/-- A slice is in canonical form. -/
theorem memSlice_wf {m : Mem} (h : memWf m = true) (lo hi : Nat) : memWf (memSlice m lo hi) = true :=
  memWfFrom_mono (memSlice_wfFrom m 0 lo hi h) (by omega)

theorem memClear_wfFrom (m : Mem) (k lo hi : Nat) (h : memWfFrom k m = true) : memWfFrom k (memClear m lo hi) = true := by
  induction m generalizing k with
  | nil => rfl
  | cons p r ih =>
    obtain ⟨c, y⟩ := p
    simp only [memWfFrom, Bool.and_eq_true, decide_eq_true_eq] at h
    unfold memClear
    split
    · exact memWfFrom_mono (ih (c + 1) h.2) (by omega)
    · simp only [memWfFrom, Bool.and_eq_true, decide_eq_true_eq]
      exact ⟨h.1, ih (c + 1) h.2⟩

/-- Clearing a range keeps it. -/
theorem memClear_wf {m : Mem} (h : memWf m = true) (lo hi : Nat) : memWf (memClear m lo hi) = true := memClear_wfFrom m 0 lo hi h

/-- A merge keeps it. -/
theorem memMerge_wf {m : Mem} (h : memWf m = true) (off : Nat) (l : Mem) : memWf (memMerge m off l) = true := by
  induction l generalizing m with
  | nil => exact h
  | cons p r ih => exact ih (memSet_wf h (off + p.1) p.2)

/-- What a run of written bytes reads as. -/
theorem memGet_write {m : Mem} (h : memWf m = true) (a b : Nat) (l : List Byte) :
    memGet (memWrite m a l) b = if a ≤ b ∧ b < a + l.length then l.getD (b - a) 0 else memGet m b := by
  induction l generalizing m a with
  | nil => simp only [memWrite, List.length_nil]; split <;> first | omega | rfl
  | cons x r ih =>
    simp only [memWrite, ih (memSet_wf h a x), memGet_set h, List.length_cons]
    by_cases h1 : b = a
    · subst h1
      simp
    · by_cases h2 : a + 1 ≤ b ∧ b < a + 1 + r.length
      · have e : b - a = (b - (a + 1)) + 1 := by omega
        have h3 : a ≤ b ∧ b < a + (r.length + 1) := by omega
        simp only [h2, h3, and_self, if_true, e, List.getD_cons_succ]
      · have h3 : ¬ (a ≤ b ∧ b < a + (r.length + 1)) := by omega
        rw [if_neg h2, if_neg h1, if_neg h3]

/-- What a range reads as once it is cleared. -/
theorem memGet_clear (m : Mem) (lo hi b : Nat) : memGet (memClear m lo hi) b = if lo ≤ b ∧ b < hi then 0 else memGet m b := by
  induction m with
  | nil => simp [memClear, memGet, emptyByte]
  | cons p r ih =>
    obtain ⟨c, y⟩ := p
    unfold memClear
    by_cases h : lo ≤ c ∧ c < hi
    · rw [if_pos h, ih]
      by_cases hb : b = c
      · subst hb; simp [h]
      · simp [memGet, hb]
    · rw [if_neg h]
      by_cases hb : b = c
      · subst hb; simp [memGet, h]
      · simp [memGet, hb, ih]

/-- Bytes read from an address. -/
@[simp] theorem memRead_length (m : Mem) (a n : Nat) : (memRead m a n).length = n := by
  induction n generalizing a with
  | zero => rfl
  | succ n ih => simp [memRead, ih]
theorem memRead_getD (m : Mem) (a n i : Nat) (h : i < n) : (memRead m a n).getD i 0 = memGet m (a + i) := by
  induction n generalizing a i with
  | zero => omega
  | succ n ih =>
    cases i with
    | zero => simp [memRead]
    | succ i =>
      simp only [memRead, List.getD_cons_succ]
      rw [ih (a + 1) i (by omega)]
      congr 1
      omega

/-- Stores that agree on a range read alike there. -/
theorem memRead_congr {m m' : Mem} {a n : Nat} (h : ∀ k < n, memGet m (a + k) = memGet m' (a + k)) : memRead m a n = memRead m' a n := by
  induction n generalizing a with
  | zero => rfl
  | succ n ih =>
    simp only [memRead]
    rw [show memGet m a = memGet m' a from h 0 (by omega), ih fun k hk => by have := h (k + 1) (by omega); rwa [Nat.add_assoc, Nat.add_comm 1 k]]
/-- Where nothing is listed a store reads as zeros. -/
theorem memGet_none {m : Mem} {b : Nat} (h : ∀ x ∈ m, x.1 ≠ b) : memGet m b = 0 := by
  induction m with
  | nil => rfl
  | cons x r ih =>
    obtain ⟨c, y⟩ := x
    simp only [memGet, if_neg (fun e => h (c, y) (by simp) e.symm : ¬ b = c)]
    exact ih fun z hz => h z (by simp [hz])
theorem leNat_zero {m : Mem} {a n : Nat} (h : ∀ k < n, memGet m (a + k) = 0) : leNat (memRead m a n) = 0 := by
  induction n generalizing a with
  | zero => rfl
  | succ n ih =>
    simp only [memRead, leNat]
    rw [show memGet m a = 0 from h 0 (by omega), ih fun k hk => by have := h (k + 1) (by omega); rwa [Nat.add_assoc, Nat.add_comm 1 k]]
    rfl

/-! ## Rising sets -/

theorem setHas_mem (l : List Nat) (a : Nat) : setHas l a = true ↔ a ∈ l := by
  induction l with
  | nil => simp [setHas]
  | cons b r ih => simp [setHas, ih]
theorem mem_setIns (l : List Nat) (a b : Nat) : b ∈ setIns l a ↔ b = a ∨ b ∈ l := by
  induction l with
  | nil => simp [setIns]
  | cons c r ih =>
    unfold setIns
    by_cases h1 : a < c
    · simp [h1]
    · by_cases h2 : a = c
      · subst h2; simp
      · simp only [h1, h2, if_false, List.mem_cons, ih]
        constructor
        · rintro (h | h | h)
          · exact .inr (.inl h)
          · exact .inl h
          · exact .inr (.inr h)
        · rintro (h | h | h)
          · exact .inr (.inl h)
          · exact .inl h
          · exact .inr (.inr h)
/-- Inserting keeps a list rising. -/
theorem setIns_rising {l : List Nat} (h : Rising l) (a : Nat) : Rising (setIns l a) := by
  induction l with
  | nil => simp [setIns, Rising]
  | cons c r ih =>
    have hc := List.pairwise_cons.1 h
    unfold setIns
    by_cases h1 : a < c
    · rw [if_pos h1]
      refine List.pairwise_cons.2 ⟨?_, h⟩
      intro x hx
      rcases List.mem_cons.1 hx with rfl | hx
      · exact h1
      · exact Nat.lt_trans h1 (hc.1 x hx)
    · rw [if_neg h1]
      by_cases h2 : a = c
      · rw [if_pos h2]; exact h
      · rw [if_neg h2]
        refine List.pairwise_cons.2 ⟨?_, ih hc.2⟩
        intro x hx
        rcases (mem_setIns r a x).1 hx with rfl | hx
        · omega
        · exact hc.1 x hx
theorem mem_of_setDel (l : List Nat) (a b : Nat) (h : b ∈ setDel l a) : b ∈ l := by
  induction l with
  | nil => simp [setDel] at h
  | cons c r ih =>
    unfold setDel at h
    split at h
    · exact List.mem_cons_of_mem _ h
    · rcases List.mem_cons.1 h with rfl | h
      · exact List.mem_cons_self ..
      · exact List.mem_cons_of_mem _ (ih h)
/-- Removing keeps a list rising. -/
theorem setDel_rising {l : List Nat} (h : Rising l) (a : Nat) : Rising (setDel l a) := by
  induction l with
  | nil => exact h
  | cons c r ih =>
    have hc := List.pairwise_cons.1 h
    unfold setDel
    split
    · exact hc.2
    · exact List.pairwise_cons.2 ⟨fun x hx => hc.1 x (mem_of_setDel r a x hx), ih hc.2⟩
/-- Putting in or out keeps a list rising. -/
theorem setPut_rising {l : List Nat} (h : Rising l) (a : Nat) (on : Bool) : Rising (setPut l a on) := by
  unfold setPut; cases on
  · exact setDel_rising h a
  · exact setIns_rising h a
theorem setPutN_rising {l : List Nat} (h : Rising l) (a n : Nat) (on : Bool) : Rising (setPutN l a n on) := by
  induction n generalizing l a with
  | zero => exact h
  | succ n ih => exact ih (setPut_rising h a on) (a + 1)

/-! ## Association lists and vectors -/

/-- A key that was set gives its value, and every other key gives what it gave. -/
@[simp] theorem alGet_alSet {α : Type} (l : List (Nat × α)) (a b : Nat) (x : α) : alGet (alSet l a x) b = if b = a then some x else alGet l b := by
  induction l with
  | nil => by_cases h : b = a <;> simp [alSet, alGet, h]
  | cons p r ih =>
    obtain ⟨c, y⟩ := p
    unfold alSet
    by_cases h : a = c
    · subst h; by_cases hb : b = a <;> simp [alGet, hb]
    · by_cases hb : b = c
      · subst hb
        have : ¬ b = a := fun e => h e.symm
        simp [h, alGet, this]
      · simp [h, alGet, hb, ih]
/-- A vector's element that was set, and every other element. -/
theorem vget_vset {α : Type} {n : Nat} (v : Vector α n) (i j : Nat) (x d : α) (h : i < n) :
    vget (vset v i x) j d = if j = i then x else vget v j d := by
  unfold vget vset
  by_cases e : j = i
  · subst e; simp [h]
  · simp only [List.getD_eq_getElem?_getD, if_neg e, Vector.toList_setIfInBounds]
    rw [List.getElem?_set_ne (fun q => e q.symm)]

/-- Reset memory is in canonical form. -/
theorem reset_memory_wf : memWf State.reset.hbm = true ∧ memWf State.reset.flash = true := ⟨rfl, rfl⟩

end Sys2Proof.Machine
end

