-- ==== Sys2Proof/Laws/State.lean ====
section
/-! SUPPORT. One lemma for each field and each update of the state, true by definition, and what the shared accessors read after an update. -/
namespace Sys2Proof.Machine
set_option Elab.async false

/-! ## Fields after an update of a tile, a partition, a region -/

@[simp] theorem setTile_powered (s : State) (t : Nat) (x : Tile) : (s.setTile t x).powered = s.powered := rfl
@[simp] theorem setTile_shut (s : State) (t : Nat) (x : Tile) : (s.setTile t x).shut = s.shut := rfl
@[simp] theorem setTile_cycle (s : State) (t : Nat) (x : Tile) : (s.setTile t x).cycle = s.cycle := rfl
@[simp] theorem setTile_ctx (s : State) (t : Nat) (x : Tile) : (s.setTile t x).ctx = s.ctx := rfl
@[simp] theorem setTile_live (s : State) (t : Nat) (x : Tile) : (s.setTile t x).live = s.live := rfl
@[simp] theorem setTile_agenda (s : State) (t : Nat) (x : Tile) : (s.setTile t x).agenda = s.agenda := rfl
@[simp] theorem setTile_freeCtr (s : State) (t : Nat) (x : Tile) : (s.setTile t x).freeCtr = s.freeCtr := rfl
@[simp] theorem setTile_newId (s : State) (t : Nat) (x : Tile) : (s.setTile t x).newId = s.newId := rfl
@[simp] theorem setTile_regions (s : State) (t : Nat) (x : Tile) : (s.setTile t x).regions = s.regions := rfl
@[simp] theorem setTile_vregs (s : State) (t : Nat) (x : Tile) : (s.setTile t x).vregs = s.vregs := rfl
@[simp] theorem setTile_slices (s : State) (t : Nat) (x : Tile) : (s.setTile t x).slices = s.slices := rfl
@[simp] theorem setTile_frames (s : State) (t : Nat) (x : Tile) : (s.setTile t x).frames = s.frames := rfl
@[simp] theorem setTile_rcReqs (s : State) (t : Nat) (x : Tile) : (s.setTile t x).rcReqs = s.rcReqs := rfl
@[simp] theorem setTile_ops (s : State) (t : Nat) (x : Tile) : (s.setTile t x).ops = s.ops := rfl
@[simp] theorem setTile_snaps (s : State) (t : Nat) (x : Tile) : (s.setTile t x).snaps = s.snaps := rfl
@[simp] theorem setTile_parts (s : State) (t : Nat) (x : Tile) : (s.setTile t x).parts = s.parts := rfl
@[simp] theorem setTile_tlb (s : State) (t : Nat) (x : Tile) : (s.setTile t x).tlb = s.tlb := rfl
@[simp] theorem setTile_hbm (s : State) (t : Nat) (x : Tile) : (s.setTile t x).hbm = s.hbm := rfl
@[simp] theorem setTile_pq (s : State) (t : Nat) (x : Tile) : (s.setTile t x).pq = s.pq := rfl
@[simp] theorem setTile_badBlk (s : State) (t : Nat) (x : Tile) : (s.setTile t x).badBlk = s.badBlk := rfl
@[simp] theorem setTile_prism (s : State) (t : Nat) (x : Tile) : (s.setTile t x).prism = s.prism := rfl
@[simp] theorem setTile_prismMap (s : State) (t : Nat) (x : Tile) : (s.setTile t x).prismMap = s.prismMap := rfl
@[simp] theorem setTile_syn (s : State) (t : Nat) (x : Tile) : (s.setTile t x).syn = s.syn := rfl
@[simp] theorem setTile_ownTab (s : State) (t : Nat) (x : Tile) : (s.setTile t x).ownTab = s.ownTab := rfl
@[simp] theorem setTile_ownCmd (s : State) (t : Nat) (x : Tile) : (s.setTile t x).ownCmd = s.ownCmd := rfl
@[simp] theorem setTile_ownStat (s : State) (t : Nat) (x : Tile) : (s.setTile t x).ownStat = s.ownStat := rfl
@[simp] theorem setTile_s2q (s : State) (t : Nat) (x : Tile) : (s.setTile t x).s2q = s.s2q := rfl
@[simp] theorem setTile_scrub (s : State) (t : Nat) (x : Tile) : (s.setTile t x).scrub = s.scrub := rfl
@[simp] theorem setTile_share (s : State) (t : Nat) (x : Tile) : (s.setTile t x).share = s.share := rfl
@[simp] theorem setTile_mcValid (s : State) (t : Nat) (x : Tile) : (s.setTile t x).mcValid = s.mcValid := rfl
@[simp] theorem setTile_mcPart (s : State) (t : Nat) (x : Tile) : (s.setTile t x).mcPart = s.mcPart := rfl
@[simp] theorem setTile_mcReason (s : State) (t : Nat) (x : Tile) : (s.setTile t x).mcReason = s.mcReason := rfl
@[simp] theorem setTile_hbmce (s : State) (t : Nat) (x : Tile) : (s.setTile t x).hbmce = s.hbmce := rfl
@[simp] theorem setTile_sramce (s : State) (t : Nat) (x : Tile) : (s.setTile t x).sramce = s.sramce := rfl
@[simp] theorem setTile_shutAuto (s : State) (t : Nat) (x : Tile) : (s.setTile t x).shutAuto = s.shutAuto := rfl
@[simp] theorem setTile_stage (s : State) (t : Nat) (x : Tile) : (s.setTile t x).stage = s.stage := rfl
@[simp] theorem setTile_cause (s : State) (t : Nat) (x : Tile) : (s.setTile t x).cause = s.cause := rfl
@[simp] theorem setTile_monCode (s : State) (t : Nat) (x : Tile) : (s.setTile t x).monCode = s.monCode := rfl
@[simp] theorem setTile_devid (s : State) (t : Nat) (x : Tile) : (s.setTile t x).devid = s.devid := rfl
@[simp] theorem setTile_vfmap (s : State) (t : Nat) (x : Tile) : (s.setTile t x).vfmap = s.vfmap := rfl
@[simp] theorem setTile_pwrcap (s : State) (t : Nat) (x : Tile) : (s.setTile t x).pwrcap = s.pwrcap := rfl
@[simp] theorem setTile_temp (s : State) (t : Nat) (x : Tile) : (s.setTile t x).temp = s.temp := rfl
@[simp] theorem setTile_throt (s : State) (t : Nat) (x : Tile) : (s.setTile t x).throt = s.throt := rfl
@[simp] theorem setTile_wport (s : State) (t : Nat) (x : Tile) : (s.setTile t x).wport = s.wport := rfl
@[simp] theorem setTile_peerIn (s : State) (t : Nat) (x : Tile) : (s.setTile t x).peerIn = s.peerIn := rfl
@[simp] theorem setTile_peerOpen (s : State) (t : Nat) (x : Tile) : (s.setTile t x).peerOpen = s.peerOpen := rfl
@[simp] theorem setTile_mfqbase (s : State) (t : Nat) (x : Tile) : (s.setTile t x).mfqbase = s.mfqbase := rfl
@[simp] theorem setTile_mfqprod (s : State) (t : Nat) (x : Tile) : (s.setTile t x).mfqprod = s.mfqprod := rfl
@[simp] theorem setTile_mfqcons (s : State) (t : Nat) (x : Tile) : (s.setTile t x).mfqcons = s.mfqcons := rfl
@[simp] theorem setTile_mfq (s : State) (t : Nat) (x : Tile) : (s.setTile t x).mfq = s.mfq := rfl
@[simp] theorem setTile_mseq (s : State) (t : Nat) (x : Tile) : (s.setTile t x).mseq = s.mseq := rfl
@[simp] theorem setTile_mstops (s : State) (t : Nat) (x : Tile) : (s.setTile t x).mstops = s.mstops := rfl
@[simp] theorem setTile_mfull (s : State) (t : Nat) (x : Tile) : (s.setTile t x).mfull = s.mfull := rfl
@[simp] theorem setTile_flash (s : State) (t : Nat) (x : Tile) : (s.setTile t x).flash = s.flash := rfl
@[simp] theorem setTile_readout (s : State) (t : Nat) (x : Tile) : (s.setTile t x).readout = s.readout := rfl
@[simp] theorem setTile_hostOut (s : State) (t : Nat) (x : Tile) : (s.setTile t x).hostOut = s.hostOut := rfl
@[simp] theorem setTile_hartOut (s : State) (t : Nat) (x : Tile) : (s.setTile t x).hartOut = s.hartOut := rfl
@[simp] theorem setTile_prismPend (s : State) (t : Nat) (x : Tile) : (s.setTile t x).prismPend = s.prismPend := rfl
@[simp] theorem setTile_mfqHeld (s : State) (t : Nat) (x : Tile) : (s.setTile t x).mfqHeld = s.mfqHeld := rfl
@[simp] theorem setTile_recov (s : State) (t : Nat) (x : Tile) : (s.setTile t x).recov = s.recov := rfl
@[simp] theorem setTile_harts (s : State) (t : Nat) (x : Tile) : (s.setTile t x).harts = s.harts := rfl
@[simp] theorem setPart_powered (s : State) (p : PartId) (x : Part) : (s.setPart p x).powered = s.powered := rfl
@[simp] theorem setPart_shut (s : State) (p : PartId) (x : Part) : (s.setPart p x).shut = s.shut := rfl
@[simp] theorem setPart_cycle (s : State) (p : PartId) (x : Part) : (s.setPart p x).cycle = s.cycle := rfl
@[simp] theorem setPart_ctx (s : State) (p : PartId) (x : Part) : (s.setPart p x).ctx = s.ctx := rfl
@[simp] theorem setPart_live (s : State) (p : PartId) (x : Part) : (s.setPart p x).live = s.live := rfl
@[simp] theorem setPart_agenda (s : State) (p : PartId) (x : Part) : (s.setPart p x).agenda = s.agenda := rfl
@[simp] theorem setPart_freeCtr (s : State) (p : PartId) (x : Part) : (s.setPart p x).freeCtr = s.freeCtr := rfl
@[simp] theorem setPart_newId (s : State) (p : PartId) (x : Part) : (s.setPart p x).newId = s.newId := rfl
@[simp] theorem setPart_tiles (s : State) (p : PartId) (x : Part) : (s.setPart p x).tiles = s.tiles := rfl
@[simp] theorem setPart_regions (s : State) (p : PartId) (x : Part) : (s.setPart p x).regions = s.regions := rfl
@[simp] theorem setPart_vregs (s : State) (p : PartId) (x : Part) : (s.setPart p x).vregs = s.vregs := rfl
@[simp] theorem setPart_slices (s : State) (p : PartId) (x : Part) : (s.setPart p x).slices = s.slices := rfl
@[simp] theorem setPart_frames (s : State) (p : PartId) (x : Part) : (s.setPart p x).frames = s.frames := rfl
@[simp] theorem setPart_rcReqs (s : State) (p : PartId) (x : Part) : (s.setPart p x).rcReqs = s.rcReqs := rfl
@[simp] theorem setPart_ops (s : State) (p : PartId) (x : Part) : (s.setPart p x).ops = s.ops := rfl
@[simp] theorem setPart_snaps (s : State) (p : PartId) (x : Part) : (s.setPart p x).snaps = s.snaps := rfl
@[simp] theorem setPart_tlb (s : State) (p : PartId) (x : Part) : (s.setPart p x).tlb = s.tlb := rfl
@[simp] theorem setPart_hbm (s : State) (p : PartId) (x : Part) : (s.setPart p x).hbm = s.hbm := rfl
@[simp] theorem setPart_pq (s : State) (p : PartId) (x : Part) : (s.setPart p x).pq = s.pq := rfl
@[simp] theorem setPart_badBlk (s : State) (p : PartId) (x : Part) : (s.setPart p x).badBlk = s.badBlk := rfl
@[simp] theorem setPart_prism (s : State) (p : PartId) (x : Part) : (s.setPart p x).prism = s.prism := rfl
@[simp] theorem setPart_prismMap (s : State) (p : PartId) (x : Part) : (s.setPart p x).prismMap = s.prismMap := rfl
@[simp] theorem setPart_syn (s : State) (p : PartId) (x : Part) : (s.setPart p x).syn = s.syn := rfl
@[simp] theorem setPart_ownTab (s : State) (p : PartId) (x : Part) : (s.setPart p x).ownTab = s.ownTab := rfl
@[simp] theorem setPart_ownCmd (s : State) (p : PartId) (x : Part) : (s.setPart p x).ownCmd = s.ownCmd := rfl
@[simp] theorem setPart_ownStat (s : State) (p : PartId) (x : Part) : (s.setPart p x).ownStat = s.ownStat := rfl
@[simp] theorem setPart_s2q (s : State) (p : PartId) (x : Part) : (s.setPart p x).s2q = s.s2q := rfl
@[simp] theorem setPart_scrub (s : State) (p : PartId) (x : Part) : (s.setPart p x).scrub = s.scrub := rfl
@[simp] theorem setPart_share (s : State) (p : PartId) (x : Part) : (s.setPart p x).share = s.share := rfl
@[simp] theorem setPart_mcValid (s : State) (p : PartId) (x : Part) : (s.setPart p x).mcValid = s.mcValid := rfl
@[simp] theorem setPart_mcPart (s : State) (p : PartId) (x : Part) : (s.setPart p x).mcPart = s.mcPart := rfl
@[simp] theorem setPart_mcReason (s : State) (p : PartId) (x : Part) : (s.setPart p x).mcReason = s.mcReason := rfl
@[simp] theorem setPart_hbmce (s : State) (p : PartId) (x : Part) : (s.setPart p x).hbmce = s.hbmce := rfl
@[simp] theorem setPart_sramce (s : State) (p : PartId) (x : Part) : (s.setPart p x).sramce = s.sramce := rfl
@[simp] theorem setPart_shutAuto (s : State) (p : PartId) (x : Part) : (s.setPart p x).shutAuto = s.shutAuto := rfl
@[simp] theorem setPart_stage (s : State) (p : PartId) (x : Part) : (s.setPart p x).stage = s.stage := rfl
@[simp] theorem setPart_cause (s : State) (p : PartId) (x : Part) : (s.setPart p x).cause = s.cause := rfl
@[simp] theorem setPart_monCode (s : State) (p : PartId) (x : Part) : (s.setPart p x).monCode = s.monCode := rfl
@[simp] theorem setPart_devid (s : State) (p : PartId) (x : Part) : (s.setPart p x).devid = s.devid := rfl
@[simp] theorem setPart_vfmap (s : State) (p : PartId) (x : Part) : (s.setPart p x).vfmap = s.vfmap := rfl
@[simp] theorem setPart_pwrcap (s : State) (p : PartId) (x : Part) : (s.setPart p x).pwrcap = s.pwrcap := rfl
@[simp] theorem setPart_temp (s : State) (p : PartId) (x : Part) : (s.setPart p x).temp = s.temp := rfl
@[simp] theorem setPart_throt (s : State) (p : PartId) (x : Part) : (s.setPart p x).throt = s.throt := rfl
@[simp] theorem setPart_wport (s : State) (p : PartId) (x : Part) : (s.setPart p x).wport = s.wport := rfl
@[simp] theorem setPart_peerIn (s : State) (p : PartId) (x : Part) : (s.setPart p x).peerIn = s.peerIn := rfl
@[simp] theorem setPart_peerOpen (s : State) (p : PartId) (x : Part) : (s.setPart p x).peerOpen = s.peerOpen := rfl
@[simp] theorem setPart_mfqbase (s : State) (p : PartId) (x : Part) : (s.setPart p x).mfqbase = s.mfqbase := rfl
@[simp] theorem setPart_mfqprod (s : State) (p : PartId) (x : Part) : (s.setPart p x).mfqprod = s.mfqprod := rfl
@[simp] theorem setPart_mfqcons (s : State) (p : PartId) (x : Part) : (s.setPart p x).mfqcons = s.mfqcons := rfl
@[simp] theorem setPart_mfq (s : State) (p : PartId) (x : Part) : (s.setPart p x).mfq = s.mfq := rfl
@[simp] theorem setPart_mseq (s : State) (p : PartId) (x : Part) : (s.setPart p x).mseq = s.mseq := rfl
@[simp] theorem setPart_mstops (s : State) (p : PartId) (x : Part) : (s.setPart p x).mstops = s.mstops := rfl
@[simp] theorem setPart_mfull (s : State) (p : PartId) (x : Part) : (s.setPart p x).mfull = s.mfull := rfl
@[simp] theorem setPart_flash (s : State) (p : PartId) (x : Part) : (s.setPart p x).flash = s.flash := rfl
@[simp] theorem setPart_readout (s : State) (p : PartId) (x : Part) : (s.setPart p x).readout = s.readout := rfl
@[simp] theorem setPart_hostOut (s : State) (p : PartId) (x : Part) : (s.setPart p x).hostOut = s.hostOut := rfl
@[simp] theorem setPart_hartOut (s : State) (p : PartId) (x : Part) : (s.setPart p x).hartOut = s.hartOut := rfl
@[simp] theorem setPart_prismPend (s : State) (p : PartId) (x : Part) : (s.setPart p x).prismPend = s.prismPend := rfl
@[simp] theorem setPart_mfqHeld (s : State) (p : PartId) (x : Part) : (s.setPart p x).mfqHeld = s.mfqHeld := rfl
@[simp] theorem setPart_recov (s : State) (p : PartId) (x : Part) : (s.setPart p x).recov = s.recov := rfl
@[simp] theorem setPart_harts (s : State) (p : PartId) (x : Part) : (s.setPart p x).harts = s.harts := rfl
@[simp] theorem modRegion_powered (s : State) (k : Nat) (h : Region → Region) : (s.modRegion k h).powered = s.powered := rfl
@[simp] theorem modRegion_shut (s : State) (k : Nat) (h : Region → Region) : (s.modRegion k h).shut = s.shut := rfl
@[simp] theorem modRegion_cycle (s : State) (k : Nat) (h : Region → Region) : (s.modRegion k h).cycle = s.cycle := rfl
@[simp] theorem modRegion_ctx (s : State) (k : Nat) (h : Region → Region) : (s.modRegion k h).ctx = s.ctx := rfl
@[simp] theorem modRegion_live (s : State) (k : Nat) (h : Region → Region) : (s.modRegion k h).live = s.live := rfl
@[simp] theorem modRegion_agenda (s : State) (k : Nat) (h : Region → Region) : (s.modRegion k h).agenda = s.agenda := rfl
@[simp] theorem modRegion_freeCtr (s : State) (k : Nat) (h : Region → Region) : (s.modRegion k h).freeCtr = s.freeCtr := rfl
@[simp] theorem modRegion_newId (s : State) (k : Nat) (h : Region → Region) : (s.modRegion k h).newId = s.newId := rfl
@[simp] theorem modRegion_tiles (s : State) (k : Nat) (h : Region → Region) : (s.modRegion k h).tiles = s.tiles := rfl
@[simp] theorem modRegion_vregs (s : State) (k : Nat) (h : Region → Region) : (s.modRegion k h).vregs = s.vregs := rfl
@[simp] theorem modRegion_slices (s : State) (k : Nat) (h : Region → Region) : (s.modRegion k h).slices = s.slices := rfl
@[simp] theorem modRegion_frames (s : State) (k : Nat) (h : Region → Region) : (s.modRegion k h).frames = s.frames := rfl
@[simp] theorem modRegion_rcReqs (s : State) (k : Nat) (h : Region → Region) : (s.modRegion k h).rcReqs = s.rcReqs := rfl
@[simp] theorem modRegion_ops (s : State) (k : Nat) (h : Region → Region) : (s.modRegion k h).ops = s.ops := rfl
@[simp] theorem modRegion_snaps (s : State) (k : Nat) (h : Region → Region) : (s.modRegion k h).snaps = s.snaps := rfl
@[simp] theorem modRegion_parts (s : State) (k : Nat) (h : Region → Region) : (s.modRegion k h).parts = s.parts := rfl
@[simp] theorem modRegion_tlb (s : State) (k : Nat) (h : Region → Region) : (s.modRegion k h).tlb = s.tlb := rfl
@[simp] theorem modRegion_hbm (s : State) (k : Nat) (h : Region → Region) : (s.modRegion k h).hbm = s.hbm := rfl
@[simp] theorem modRegion_pq (s : State) (k : Nat) (h : Region → Region) : (s.modRegion k h).pq = s.pq := rfl
@[simp] theorem modRegion_badBlk (s : State) (k : Nat) (h : Region → Region) : (s.modRegion k h).badBlk = s.badBlk := rfl
@[simp] theorem modRegion_prism (s : State) (k : Nat) (h : Region → Region) : (s.modRegion k h).prism = s.prism := rfl
@[simp] theorem modRegion_prismMap (s : State) (k : Nat) (h : Region → Region) : (s.modRegion k h).prismMap = s.prismMap := rfl
@[simp] theorem modRegion_syn (s : State) (k : Nat) (h : Region → Region) : (s.modRegion k h).syn = s.syn := rfl
@[simp] theorem modRegion_ownTab (s : State) (k : Nat) (h : Region → Region) : (s.modRegion k h).ownTab = s.ownTab := rfl
@[simp] theorem modRegion_ownCmd (s : State) (k : Nat) (h : Region → Region) : (s.modRegion k h).ownCmd = s.ownCmd := rfl
@[simp] theorem modRegion_ownStat (s : State) (k : Nat) (h : Region → Region) : (s.modRegion k h).ownStat = s.ownStat := rfl
@[simp] theorem modRegion_s2q (s : State) (k : Nat) (h : Region → Region) : (s.modRegion k h).s2q = s.s2q := rfl
@[simp] theorem modRegion_scrub (s : State) (k : Nat) (h : Region → Region) : (s.modRegion k h).scrub = s.scrub := rfl
@[simp] theorem modRegion_share (s : State) (k : Nat) (h : Region → Region) : (s.modRegion k h).share = s.share := rfl
@[simp] theorem modRegion_mcValid (s : State) (k : Nat) (h : Region → Region) : (s.modRegion k h).mcValid = s.mcValid := rfl
@[simp] theorem modRegion_mcPart (s : State) (k : Nat) (h : Region → Region) : (s.modRegion k h).mcPart = s.mcPart := rfl
@[simp] theorem modRegion_mcReason (s : State) (k : Nat) (h : Region → Region) : (s.modRegion k h).mcReason = s.mcReason := rfl
@[simp] theorem modRegion_hbmce (s : State) (k : Nat) (h : Region → Region) : (s.modRegion k h).hbmce = s.hbmce := rfl
@[simp] theorem modRegion_sramce (s : State) (k : Nat) (h : Region → Region) : (s.modRegion k h).sramce = s.sramce := rfl
@[simp] theorem modRegion_shutAuto (s : State) (k : Nat) (h : Region → Region) : (s.modRegion k h).shutAuto = s.shutAuto := rfl
@[simp] theorem modRegion_stage (s : State) (k : Nat) (h : Region → Region) : (s.modRegion k h).stage = s.stage := rfl
@[simp] theorem modRegion_cause (s : State) (k : Nat) (h : Region → Region) : (s.modRegion k h).cause = s.cause := rfl
@[simp] theorem modRegion_monCode (s : State) (k : Nat) (h : Region → Region) : (s.modRegion k h).monCode = s.monCode := rfl
@[simp] theorem modRegion_devid (s : State) (k : Nat) (h : Region → Region) : (s.modRegion k h).devid = s.devid := rfl
@[simp] theorem modRegion_vfmap (s : State) (k : Nat) (h : Region → Region) : (s.modRegion k h).vfmap = s.vfmap := rfl
@[simp] theorem modRegion_pwrcap (s : State) (k : Nat) (h : Region → Region) : (s.modRegion k h).pwrcap = s.pwrcap := rfl
@[simp] theorem modRegion_temp (s : State) (k : Nat) (h : Region → Region) : (s.modRegion k h).temp = s.temp := rfl
@[simp] theorem modRegion_throt (s : State) (k : Nat) (h : Region → Region) : (s.modRegion k h).throt = s.throt := rfl
@[simp] theorem modRegion_wport (s : State) (k : Nat) (h : Region → Region) : (s.modRegion k h).wport = s.wport := rfl
@[simp] theorem modRegion_peerIn (s : State) (k : Nat) (h : Region → Region) : (s.modRegion k h).peerIn = s.peerIn := rfl
@[simp] theorem modRegion_peerOpen (s : State) (k : Nat) (h : Region → Region) : (s.modRegion k h).peerOpen = s.peerOpen := rfl
@[simp] theorem modRegion_mfqbase (s : State) (k : Nat) (h : Region → Region) : (s.modRegion k h).mfqbase = s.mfqbase := rfl
@[simp] theorem modRegion_mfqprod (s : State) (k : Nat) (h : Region → Region) : (s.modRegion k h).mfqprod = s.mfqprod := rfl
@[simp] theorem modRegion_mfqcons (s : State) (k : Nat) (h : Region → Region) : (s.modRegion k h).mfqcons = s.mfqcons := rfl
@[simp] theorem modRegion_mfq (s : State) (k : Nat) (h : Region → Region) : (s.modRegion k h).mfq = s.mfq := rfl
@[simp] theorem modRegion_mseq (s : State) (k : Nat) (h : Region → Region) : (s.modRegion k h).mseq = s.mseq := rfl
@[simp] theorem modRegion_mstops (s : State) (k : Nat) (h : Region → Region) : (s.modRegion k h).mstops = s.mstops := rfl
@[simp] theorem modRegion_mfull (s : State) (k : Nat) (h : Region → Region) : (s.modRegion k h).mfull = s.mfull := rfl
@[simp] theorem modRegion_flash (s : State) (k : Nat) (h : Region → Region) : (s.modRegion k h).flash = s.flash := rfl
@[simp] theorem modRegion_readout (s : State) (k : Nat) (h : Region → Region) : (s.modRegion k h).readout = s.readout := rfl
@[simp] theorem modRegion_hostOut (s : State) (k : Nat) (h : Region → Region) : (s.modRegion k h).hostOut = s.hostOut := rfl
@[simp] theorem modRegion_hartOut (s : State) (k : Nat) (h : Region → Region) : (s.modRegion k h).hartOut = s.hartOut := rfl
@[simp] theorem modRegion_prismPend (s : State) (k : Nat) (h : Region → Region) : (s.modRegion k h).prismPend = s.prismPend := rfl
@[simp] theorem modRegion_mfqHeld (s : State) (k : Nat) (h : Region → Region) : (s.modRegion k h).mfqHeld = s.mfqHeld := rfl
@[simp] theorem modRegion_recov (s : State) (k : Nat) (h : Region → Region) : (s.modRegion k h).recov = s.recov := rfl
@[simp] theorem modRegion_harts (s : State) (k : Nat) (h : Region → Region) : (s.modRegion k h).harts = s.harts := rfl

/-! ## Fields after an update of a task or a logical tile -/

@[simp] theorem setTask_powered (s : State) (t : Nat) (k : SlotId) (x : Task) : (s.setTask t k x).powered = s.powered := rfl
@[simp] theorem setTask_shut (s : State) (t : Nat) (k : SlotId) (x : Task) : (s.setTask t k x).shut = s.shut := rfl
@[simp] theorem setTask_cycle (s : State) (t : Nat) (k : SlotId) (x : Task) : (s.setTask t k x).cycle = s.cycle := rfl
@[simp] theorem setTask_ctx (s : State) (t : Nat) (k : SlotId) (x : Task) : (s.setTask t k x).ctx = s.ctx := rfl
@[simp] theorem setTask_live (s : State) (t : Nat) (k : SlotId) (x : Task) : (s.setTask t k x).live = s.live := rfl
@[simp] theorem setTask_agenda (s : State) (t : Nat) (k : SlotId) (x : Task) : (s.setTask t k x).agenda = s.agenda := rfl
@[simp] theorem setTask_freeCtr (s : State) (t : Nat) (k : SlotId) (x : Task) : (s.setTask t k x).freeCtr = s.freeCtr := rfl
@[simp] theorem setTask_newId (s : State) (t : Nat) (k : SlotId) (x : Task) : (s.setTask t k x).newId = s.newId := rfl
@[simp] theorem setTask_regions (s : State) (t : Nat) (k : SlotId) (x : Task) : (s.setTask t k x).regions = s.regions := rfl
@[simp] theorem setTask_vregs (s : State) (t : Nat) (k : SlotId) (x : Task) : (s.setTask t k x).vregs = s.vregs := rfl
@[simp] theorem setTask_slices (s : State) (t : Nat) (k : SlotId) (x : Task) : (s.setTask t k x).slices = s.slices := rfl
@[simp] theorem setTask_frames (s : State) (t : Nat) (k : SlotId) (x : Task) : (s.setTask t k x).frames = s.frames := rfl
@[simp] theorem setTask_rcReqs (s : State) (t : Nat) (k : SlotId) (x : Task) : (s.setTask t k x).rcReqs = s.rcReqs := rfl
@[simp] theorem setTask_ops (s : State) (t : Nat) (k : SlotId) (x : Task) : (s.setTask t k x).ops = s.ops := rfl
@[simp] theorem setTask_snaps (s : State) (t : Nat) (k : SlotId) (x : Task) : (s.setTask t k x).snaps = s.snaps := rfl
@[simp] theorem setTask_parts (s : State) (t : Nat) (k : SlotId) (x : Task) : (s.setTask t k x).parts = s.parts := rfl
@[simp] theorem setTask_tlb (s : State) (t : Nat) (k : SlotId) (x : Task) : (s.setTask t k x).tlb = s.tlb := rfl
@[simp] theorem setTask_hbm (s : State) (t : Nat) (k : SlotId) (x : Task) : (s.setTask t k x).hbm = s.hbm := rfl
@[simp] theorem setTask_pq (s : State) (t : Nat) (k : SlotId) (x : Task) : (s.setTask t k x).pq = s.pq := rfl
@[simp] theorem setTask_badBlk (s : State) (t : Nat) (k : SlotId) (x : Task) : (s.setTask t k x).badBlk = s.badBlk := rfl
@[simp] theorem setTask_prism (s : State) (t : Nat) (k : SlotId) (x : Task) : (s.setTask t k x).prism = s.prism := rfl
@[simp] theorem setTask_prismMap (s : State) (t : Nat) (k : SlotId) (x : Task) : (s.setTask t k x).prismMap = s.prismMap := rfl
@[simp] theorem setTask_syn (s : State) (t : Nat) (k : SlotId) (x : Task) : (s.setTask t k x).syn = s.syn := rfl
@[simp] theorem setTask_ownTab (s : State) (t : Nat) (k : SlotId) (x : Task) : (s.setTask t k x).ownTab = s.ownTab := rfl
@[simp] theorem setTask_ownCmd (s : State) (t : Nat) (k : SlotId) (x : Task) : (s.setTask t k x).ownCmd = s.ownCmd := rfl
@[simp] theorem setTask_ownStat (s : State) (t : Nat) (k : SlotId) (x : Task) : (s.setTask t k x).ownStat = s.ownStat := rfl
@[simp] theorem setTask_s2q (s : State) (t : Nat) (k : SlotId) (x : Task) : (s.setTask t k x).s2q = s.s2q := rfl
@[simp] theorem setTask_scrub (s : State) (t : Nat) (k : SlotId) (x : Task) : (s.setTask t k x).scrub = s.scrub := rfl
@[simp] theorem setTask_share (s : State) (t : Nat) (k : SlotId) (x : Task) : (s.setTask t k x).share = s.share := rfl
@[simp] theorem setTask_mcValid (s : State) (t : Nat) (k : SlotId) (x : Task) : (s.setTask t k x).mcValid = s.mcValid := rfl
@[simp] theorem setTask_mcPart (s : State) (t : Nat) (k : SlotId) (x : Task) : (s.setTask t k x).mcPart = s.mcPart := rfl
@[simp] theorem setTask_mcReason (s : State) (t : Nat) (k : SlotId) (x : Task) : (s.setTask t k x).mcReason = s.mcReason := rfl
@[simp] theorem setTask_hbmce (s : State) (t : Nat) (k : SlotId) (x : Task) : (s.setTask t k x).hbmce = s.hbmce := rfl
@[simp] theorem setTask_sramce (s : State) (t : Nat) (k : SlotId) (x : Task) : (s.setTask t k x).sramce = s.sramce := rfl
@[simp] theorem setTask_shutAuto (s : State) (t : Nat) (k : SlotId) (x : Task) : (s.setTask t k x).shutAuto = s.shutAuto := rfl
@[simp] theorem setTask_stage (s : State) (t : Nat) (k : SlotId) (x : Task) : (s.setTask t k x).stage = s.stage := rfl
@[simp] theorem setTask_cause (s : State) (t : Nat) (k : SlotId) (x : Task) : (s.setTask t k x).cause = s.cause := rfl
@[simp] theorem setTask_monCode (s : State) (t : Nat) (k : SlotId) (x : Task) : (s.setTask t k x).monCode = s.monCode := rfl
@[simp] theorem setTask_devid (s : State) (t : Nat) (k : SlotId) (x : Task) : (s.setTask t k x).devid = s.devid := rfl
@[simp] theorem setTask_vfmap (s : State) (t : Nat) (k : SlotId) (x : Task) : (s.setTask t k x).vfmap = s.vfmap := rfl
@[simp] theorem setTask_pwrcap (s : State) (t : Nat) (k : SlotId) (x : Task) : (s.setTask t k x).pwrcap = s.pwrcap := rfl
@[simp] theorem setTask_temp (s : State) (t : Nat) (k : SlotId) (x : Task) : (s.setTask t k x).temp = s.temp := rfl
@[simp] theorem setTask_throt (s : State) (t : Nat) (k : SlotId) (x : Task) : (s.setTask t k x).throt = s.throt := rfl
@[simp] theorem setTask_wport (s : State) (t : Nat) (k : SlotId) (x : Task) : (s.setTask t k x).wport = s.wport := rfl
@[simp] theorem setTask_peerIn (s : State) (t : Nat) (k : SlotId) (x : Task) : (s.setTask t k x).peerIn = s.peerIn := rfl
@[simp] theorem setTask_peerOpen (s : State) (t : Nat) (k : SlotId) (x : Task) : (s.setTask t k x).peerOpen = s.peerOpen := rfl
@[simp] theorem setTask_mfqbase (s : State) (t : Nat) (k : SlotId) (x : Task) : (s.setTask t k x).mfqbase = s.mfqbase := rfl
@[simp] theorem setTask_mfqprod (s : State) (t : Nat) (k : SlotId) (x : Task) : (s.setTask t k x).mfqprod = s.mfqprod := rfl
@[simp] theorem setTask_mfqcons (s : State) (t : Nat) (k : SlotId) (x : Task) : (s.setTask t k x).mfqcons = s.mfqcons := rfl
@[simp] theorem setTask_mfq (s : State) (t : Nat) (k : SlotId) (x : Task) : (s.setTask t k x).mfq = s.mfq := rfl
@[simp] theorem setTask_mseq (s : State) (t : Nat) (k : SlotId) (x : Task) : (s.setTask t k x).mseq = s.mseq := rfl
@[simp] theorem setTask_mstops (s : State) (t : Nat) (k : SlotId) (x : Task) : (s.setTask t k x).mstops = s.mstops := rfl
@[simp] theorem setTask_mfull (s : State) (t : Nat) (k : SlotId) (x : Task) : (s.setTask t k x).mfull = s.mfull := rfl
@[simp] theorem setTask_flash (s : State) (t : Nat) (k : SlotId) (x : Task) : (s.setTask t k x).flash = s.flash := rfl
@[simp] theorem setTask_readout (s : State) (t : Nat) (k : SlotId) (x : Task) : (s.setTask t k x).readout = s.readout := rfl
@[simp] theorem setTask_hostOut (s : State) (t : Nat) (k : SlotId) (x : Task) : (s.setTask t k x).hostOut = s.hostOut := rfl
@[simp] theorem setTask_hartOut (s : State) (t : Nat) (k : SlotId) (x : Task) : (s.setTask t k x).hartOut = s.hartOut := rfl
@[simp] theorem setTask_prismPend (s : State) (t : Nat) (k : SlotId) (x : Task) : (s.setTask t k x).prismPend = s.prismPend := rfl
@[simp] theorem setTask_mfqHeld (s : State) (t : Nat) (k : SlotId) (x : Task) : (s.setTask t k x).mfqHeld = s.mfqHeld := rfl
@[simp] theorem setTask_recov (s : State) (t : Nat) (k : SlotId) (x : Task) : (s.setTask t k x).recov = s.recov := rfl
@[simp] theorem setTask_harts (s : State) (t : Nat) (k : SlotId) (x : Task) : (s.setTask t k x).harts = s.harts := rfl
@[simp] theorem setLt_powered (s : State) (t : Nat) (p : BitVec 2) (x : LTile) : (s.setLt t p x).powered = s.powered := rfl
@[simp] theorem setLt_shut (s : State) (t : Nat) (p : BitVec 2) (x : LTile) : (s.setLt t p x).shut = s.shut := rfl
@[simp] theorem setLt_cycle (s : State) (t : Nat) (p : BitVec 2) (x : LTile) : (s.setLt t p x).cycle = s.cycle := rfl
@[simp] theorem setLt_ctx (s : State) (t : Nat) (p : BitVec 2) (x : LTile) : (s.setLt t p x).ctx = s.ctx := rfl
@[simp] theorem setLt_live (s : State) (t : Nat) (p : BitVec 2) (x : LTile) : (s.setLt t p x).live = s.live := rfl
@[simp] theorem setLt_agenda (s : State) (t : Nat) (p : BitVec 2) (x : LTile) : (s.setLt t p x).agenda = s.agenda := rfl
@[simp] theorem setLt_freeCtr (s : State) (t : Nat) (p : BitVec 2) (x : LTile) : (s.setLt t p x).freeCtr = s.freeCtr := rfl
@[simp] theorem setLt_newId (s : State) (t : Nat) (p : BitVec 2) (x : LTile) : (s.setLt t p x).newId = s.newId := rfl
@[simp] theorem setLt_regions (s : State) (t : Nat) (p : BitVec 2) (x : LTile) : (s.setLt t p x).regions = s.regions := rfl
@[simp] theorem setLt_vregs (s : State) (t : Nat) (p : BitVec 2) (x : LTile) : (s.setLt t p x).vregs = s.vregs := rfl
@[simp] theorem setLt_slices (s : State) (t : Nat) (p : BitVec 2) (x : LTile) : (s.setLt t p x).slices = s.slices := rfl
@[simp] theorem setLt_frames (s : State) (t : Nat) (p : BitVec 2) (x : LTile) : (s.setLt t p x).frames = s.frames := rfl
@[simp] theorem setLt_rcReqs (s : State) (t : Nat) (p : BitVec 2) (x : LTile) : (s.setLt t p x).rcReqs = s.rcReqs := rfl
@[simp] theorem setLt_ops (s : State) (t : Nat) (p : BitVec 2) (x : LTile) : (s.setLt t p x).ops = s.ops := rfl
@[simp] theorem setLt_snaps (s : State) (t : Nat) (p : BitVec 2) (x : LTile) : (s.setLt t p x).snaps = s.snaps := rfl
@[simp] theorem setLt_parts (s : State) (t : Nat) (p : BitVec 2) (x : LTile) : (s.setLt t p x).parts = s.parts := rfl
@[simp] theorem setLt_tlb (s : State) (t : Nat) (p : BitVec 2) (x : LTile) : (s.setLt t p x).tlb = s.tlb := rfl
@[simp] theorem setLt_hbm (s : State) (t : Nat) (p : BitVec 2) (x : LTile) : (s.setLt t p x).hbm = s.hbm := rfl
@[simp] theorem setLt_pq (s : State) (t : Nat) (p : BitVec 2) (x : LTile) : (s.setLt t p x).pq = s.pq := rfl
@[simp] theorem setLt_badBlk (s : State) (t : Nat) (p : BitVec 2) (x : LTile) : (s.setLt t p x).badBlk = s.badBlk := rfl
@[simp] theorem setLt_prism (s : State) (t : Nat) (p : BitVec 2) (x : LTile) : (s.setLt t p x).prism = s.prism := rfl
@[simp] theorem setLt_prismMap (s : State) (t : Nat) (p : BitVec 2) (x : LTile) : (s.setLt t p x).prismMap = s.prismMap := rfl
@[simp] theorem setLt_syn (s : State) (t : Nat) (p : BitVec 2) (x : LTile) : (s.setLt t p x).syn = s.syn := rfl
@[simp] theorem setLt_ownTab (s : State) (t : Nat) (p : BitVec 2) (x : LTile) : (s.setLt t p x).ownTab = s.ownTab := rfl
@[simp] theorem setLt_ownCmd (s : State) (t : Nat) (p : BitVec 2) (x : LTile) : (s.setLt t p x).ownCmd = s.ownCmd := rfl
@[simp] theorem setLt_ownStat (s : State) (t : Nat) (p : BitVec 2) (x : LTile) : (s.setLt t p x).ownStat = s.ownStat := rfl
@[simp] theorem setLt_s2q (s : State) (t : Nat) (p : BitVec 2) (x : LTile) : (s.setLt t p x).s2q = s.s2q := rfl
@[simp] theorem setLt_scrub (s : State) (t : Nat) (p : BitVec 2) (x : LTile) : (s.setLt t p x).scrub = s.scrub := rfl
@[simp] theorem setLt_share (s : State) (t : Nat) (p : BitVec 2) (x : LTile) : (s.setLt t p x).share = s.share := rfl
@[simp] theorem setLt_mcValid (s : State) (t : Nat) (p : BitVec 2) (x : LTile) : (s.setLt t p x).mcValid = s.mcValid := rfl
@[simp] theorem setLt_mcPart (s : State) (t : Nat) (p : BitVec 2) (x : LTile) : (s.setLt t p x).mcPart = s.mcPart := rfl
@[simp] theorem setLt_mcReason (s : State) (t : Nat) (p : BitVec 2) (x : LTile) : (s.setLt t p x).mcReason = s.mcReason := rfl
@[simp] theorem setLt_hbmce (s : State) (t : Nat) (p : BitVec 2) (x : LTile) : (s.setLt t p x).hbmce = s.hbmce := rfl
@[simp] theorem setLt_sramce (s : State) (t : Nat) (p : BitVec 2) (x : LTile) : (s.setLt t p x).sramce = s.sramce := rfl
@[simp] theorem setLt_shutAuto (s : State) (t : Nat) (p : BitVec 2) (x : LTile) : (s.setLt t p x).shutAuto = s.shutAuto := rfl
@[simp] theorem setLt_stage (s : State) (t : Nat) (p : BitVec 2) (x : LTile) : (s.setLt t p x).stage = s.stage := rfl
@[simp] theorem setLt_cause (s : State) (t : Nat) (p : BitVec 2) (x : LTile) : (s.setLt t p x).cause = s.cause := rfl
@[simp] theorem setLt_monCode (s : State) (t : Nat) (p : BitVec 2) (x : LTile) : (s.setLt t p x).monCode = s.monCode := rfl
@[simp] theorem setLt_devid (s : State) (t : Nat) (p : BitVec 2) (x : LTile) : (s.setLt t p x).devid = s.devid := rfl
@[simp] theorem setLt_vfmap (s : State) (t : Nat) (p : BitVec 2) (x : LTile) : (s.setLt t p x).vfmap = s.vfmap := rfl
@[simp] theorem setLt_pwrcap (s : State) (t : Nat) (p : BitVec 2) (x : LTile) : (s.setLt t p x).pwrcap = s.pwrcap := rfl
@[simp] theorem setLt_temp (s : State) (t : Nat) (p : BitVec 2) (x : LTile) : (s.setLt t p x).temp = s.temp := rfl
@[simp] theorem setLt_throt (s : State) (t : Nat) (p : BitVec 2) (x : LTile) : (s.setLt t p x).throt = s.throt := rfl
@[simp] theorem setLt_wport (s : State) (t : Nat) (p : BitVec 2) (x : LTile) : (s.setLt t p x).wport = s.wport := rfl
@[simp] theorem setLt_peerIn (s : State) (t : Nat) (p : BitVec 2) (x : LTile) : (s.setLt t p x).peerIn = s.peerIn := rfl
@[simp] theorem setLt_peerOpen (s : State) (t : Nat) (p : BitVec 2) (x : LTile) : (s.setLt t p x).peerOpen = s.peerOpen := rfl
@[simp] theorem setLt_mfqbase (s : State) (t : Nat) (p : BitVec 2) (x : LTile) : (s.setLt t p x).mfqbase = s.mfqbase := rfl
@[simp] theorem setLt_mfqprod (s : State) (t : Nat) (p : BitVec 2) (x : LTile) : (s.setLt t p x).mfqprod = s.mfqprod := rfl
@[simp] theorem setLt_mfqcons (s : State) (t : Nat) (p : BitVec 2) (x : LTile) : (s.setLt t p x).mfqcons = s.mfqcons := rfl
@[simp] theorem setLt_mfq (s : State) (t : Nat) (p : BitVec 2) (x : LTile) : (s.setLt t p x).mfq = s.mfq := rfl
@[simp] theorem setLt_mseq (s : State) (t : Nat) (p : BitVec 2) (x : LTile) : (s.setLt t p x).mseq = s.mseq := rfl
@[simp] theorem setLt_mstops (s : State) (t : Nat) (p : BitVec 2) (x : LTile) : (s.setLt t p x).mstops = s.mstops := rfl
@[simp] theorem setLt_mfull (s : State) (t : Nat) (p : BitVec 2) (x : LTile) : (s.setLt t p x).mfull = s.mfull := rfl
@[simp] theorem setLt_flash (s : State) (t : Nat) (p : BitVec 2) (x : LTile) : (s.setLt t p x).flash = s.flash := rfl
@[simp] theorem setLt_readout (s : State) (t : Nat) (p : BitVec 2) (x : LTile) : (s.setLt t p x).readout = s.readout := rfl
@[simp] theorem setLt_hostOut (s : State) (t : Nat) (p : BitVec 2) (x : LTile) : (s.setLt t p x).hostOut = s.hostOut := rfl
@[simp] theorem setLt_hartOut (s : State) (t : Nat) (p : BitVec 2) (x : LTile) : (s.setLt t p x).hartOut = s.hartOut := rfl
@[simp] theorem setLt_prismPend (s : State) (t : Nat) (p : BitVec 2) (x : LTile) : (s.setLt t p x).prismPend = s.prismPend := rfl
@[simp] theorem setLt_mfqHeld (s : State) (t : Nat) (p : BitVec 2) (x : LTile) : (s.setLt t p x).mfqHeld = s.mfqHeld := rfl
@[simp] theorem setLt_recov (s : State) (t : Nat) (p : BitVec 2) (x : LTile) : (s.setLt t p x).recov = s.recov := rfl
@[simp] theorem setLt_harts (s : State) (t : Nat) (p : BitVec 2) (x : LTile) : (s.setLt t p x).harts = s.harts := rfl

/-! ## The updates by a function are updates by its value -/

theorem modTile_eq (s : State) (t : Nat) (f : Tile → Tile) : s.modTile t f = s.setTile t (f (s.tile t)) := rfl
theorem modTask_eq (s : State) (t : Nat) (k : SlotId) (f : Task → Task) : s.modTask t k f = s.setTask t k (f (s.task t k)) := rfl
theorem modCur_eq (s : State) (f : Task → Task) : s.modCur f = s.setTask s.ctx.tile s.ctx.slot (f s.cur) := rfl
theorem modLt_eq (s : State) (t : Nat) (p : BitVec 2) (f : LTile → LTile) : s.modLt t p f = s.setLt t p (f (s.lt t p)) := rfl
theorem modPart_eq (s : State) (p : PartId) (f : Part → Part) : s.modPart p f = s.setPart p (f (s.part p)) := rfl

/-! ## Accessors after updates -/

/-- A tile that was set reads so; any other as before. -/
@[simp] theorem tile_setTile (s : State) (t u : Nat) (x : Tile) : (s.setTile t x).tile u = if u = t then x else s.tile u := by
  unfold State.tile State.setTile
  simp only [alGet_alSet]
  split <;> rfl
/-- A partition that was set reads so; any other as before. -/
@[simp] theorem part_setPart (s : State) (p q : PartId) (x : Part) : (s.setPart p x).part q = if q = p then x else s.part q := by
  unfold State.part State.setPart
  simp only [alGet_alSet]
  by_cases h : q = p
  · simp [h]
  · have : ¬ q.toNat = p.toNat := fun e => h (BitVec.eq_of_toNat_eq e)
    simp [h, this]
@[simp] theorem part_setTile (s : State) (t : Nat) (x : Tile) (p : PartId) : (s.setTile t x).part p = s.part p := rfl
@[simp] theorem tile_setPart (s : State) (p : PartId) (x : Part) (t : Nat) : (s.setPart p x).tile t = s.tile t := rfl
@[simp] theorem tile_modRegion (s : State) (k : Nat) (f : Region → Region) (t : Nat) : (s.modRegion k f).tile t = s.tile t := rfl
@[simp] theorem region_setTile (s : State) (t : Nat) (x : Tile) (k : Nat) : (s.setTile t x).region k = s.region k := rfl
@[simp] theorem region_setPart (s : State) (p : PartId) (x : Part) (k : Nat) : (s.setPart p x).region k = s.region k := rfl
/-- A task that was set reads so; any other as before. -/
theorem task_setTask (s : State) (t u : Nat) (k l : SlotId) (x : Task) :
    (s.setTask t k x).task u l = if u = t ∧ l = k then x else s.task u l := by
  unfold State.task State.setTask State.modTile
  rw [tile_setTile]
  by_cases h : u = t
  · subst h
    rw [if_pos rfl, vget_vset _ _ _ _ _ k.isLt]
    by_cases e : l = k
    · subst e; simp
    · have : ¬ l.toNat = k.toNat := fun q => e (BitVec.eq_of_toNat_eq q)
      simp [e, this]
  · simp [h]
@[simp] theorem task_setTask_same (s : State) (t : Nat) (k : SlotId) (x : Task) : (s.setTask t k x).task t k = x := by simp [task_setTask]
/-- A logical tile that was set reads so; any other as before. -/
theorem lt_setLt (s : State) (t u : Nat) (p q : BitVec 2) (x : LTile) :
    (s.setLt t p x).lt u q = if u = t ∧ q = p then x else s.lt u q := by
  unfold State.lt State.setLt State.modTile
  rw [tile_setTile]
  by_cases h : u = t
  · subst h
    rw [if_pos rfl, vget_vset _ _ _ _ _ p.isLt]
    by_cases e : q = p
    · subst e; simp
    · have : ¬ q.toNat = p.toNat := fun r => e (BitVec.eq_of_toNat_eq r)
      simp [e, this]
  · simp [h]
/-- A task is no part of a logical tile, and the other way round. -/
@[simp] theorem lt_setTask (s : State) (t u : Nat) (k : SlotId) (x : Task) (q : BitVec 2) : (s.setTask t k x).lt u q = s.lt u q := by
  unfold State.lt State.setTask State.modTile
  rw [tile_setTile]
  by_cases h : u = t <;> simp [h]
@[simp] theorem task_setLt (s : State) (t u : Nat) (p : BitVec 2) (x : LTile) (k : SlotId) : (s.setLt t p x).task u k = s.task u k := by
  unfold State.task State.setLt State.modTile
  rw [tile_setTile]
  by_cases h : u = t <;> simp [h]

/-! ## Registers of the issuer -/

@[simp] theorem cur_modCur (s : State) (f : Task → Task) : (s.modCur f).cur = f s.cur := by
  unfold State.cur
  rw [modCur_eq, setTask_ctx, task_setTask_same]
  rfl
/-- A g register that was written is full and holds the value; any other is as before (R48). -/
theorem g_setG (s : State) (d r : BitVec 4) (x : DWord) : (s.setG d x).g r = if r = d then { val := x, st := .full } else s.g r := by
  unfold State.setG State.g
  rw [cur_modCur, vget_vset _ _ _ _ _ d.isLt]
  by_cases e : r = d
  · simp [e]
  · have : ¬ r.toNat = d.toNat := fun q => e (BitVec.eq_of_toNat_eq q)
    simp [e, this]
/-- A b register that was written, and any other. -/
theorem b_setB (s : State) (d r : BitVec 3) (x : VAddr) : (s.setB d x).b r = if r = d then x else s.b r := by
  unfold State.setB State.b
  rw [cur_modCur, vget_vset _ _ _ _ _ d.isLt]
  by_cases e : r = d
  · simp [e]
  · have : ¬ r.toNat = d.toNat := fun q => e (BitVec.eq_of_toNat_eq q)
    simp [e, this]
/-- An m register that was written, and any other. -/
theorem m_setM (s : State) (d r : BitVec 2) (x : BitVec 16) : (s.setM d x).m r = if r = d then x else s.m r := by
  unfold State.setM State.m
  rw [cur_modCur, vget_vset _ _ _ _ _ d.isLt]
  by_cases e : r = d
  · simp [e]
  · have : ¬ r.toNat = d.toNat := fun q => e (BitVec.eq_of_toNat_eq q)
    simp [e, this]
/-- A w register that was written, and any other. -/
theorem w_setW (s : State) (d r : BitVec 3) (x : Token) : (s.setW d x).w r = if r = d then x else s.w r := by
  unfold State.setW State.w
  rw [cur_modCur, vget_vset _ _ _ _ _ d.isLt]
  by_cases e : r = d
  · simp [e]
  · have : ¬ r.toNat = d.toNat := fun q => e (BitVec.eq_of_toNat_eq q)
    simp [e, this]

end Sys2Proof.Machine
end

