-- ==== Sys2Proof/Laws/Ops.lean ====
section
/-! SUPPORT. One lemma for each shared check and operation that says what it can do, for the provers to cite. -/
namespace Sys2Proof.Machine
set_option Elab.async false

/-! ## What a check of an operand can do -/

/-- A full g source passes its value on. -/
theorem needG_full {s : State} {r : BitVec 4} {x : DWord} (w : Bool) (f : Nat) (k : DWord → State) (h : s.full r x) : needG s r w f k = k x := by
  simp only [State.full] at h; simp [needG, h]
/-- A g source that is not full parks its word, or traps it. -/
theorem needG_not_full {s : State} {r : BitVec 4} (w : Bool) (f : Nat) (k : DWord → State) (h : (s.g r).st ≠ .full) :
    needG s r w f k = if w then park s .emptyReg else trap s 2 f (w64 r.toNat) := by
  unfold needG
  split
  · contradiction
  · rfl
/-- A full source of a token or matrix word passes its value on; one that is not parks. -/
theorem needGT_full {s : State} {r : BitVec 4} {x : DWord} (k : DWord → State) (h : s.full r x) : needGT s r k = k x := by
  simp only [State.full] at h; simp [needGT, h]
theorem needGT_not_full {s : State} {r : BitVec 4} (k : DWord → State) (h : (s.g r).st ≠ .full) : needGT s r k = park s .emptyReg := by
  unfold needGT
  split
  · contradiction
  · rfl
/-- A destination that is not pending passes; a pending one parks. -/
theorem needD_takes {s : State} {r : BitVec 4} (k : State) (h : s.takes r) : needD s r k = k := by
  simp only [State.takes] at h; unfold needD; split
  · contradiction
  · rfl
theorem needD_pending {s : State} {r : BitVec 4} (k : State) (h : (s.g r).st = .pending) : needD s r k = park s .destPending := by
  unfold needD; simp [h]
/-- What a source that is not full does to its word, as `State.blocked` says it. -/
theorem blocked_eq (s : State) (r : BitVec 4) (w : Bool) (f : Nat) :
    s.blocked r w f = .next (if w then park s .emptyReg else trap s 2 f (w64 r.toNat)) := by
  unfold State.blocked State.parks State.traps; split <;> rfl
/-- Interlocks of w and m registers. -/
theorem needW_free {s : State} {r : BitVec 3} (k : State) (h : s.wBusy r = false) : needW s r k = k := by simp [needW, h]
theorem needW_busy {s : State} {r : BitVec 3} (k : State) (h : s.wBusy r = true) : needW s r k = park s .wreg := by simp [needW, h]
theorem needM_free {s : State} {r : BitVec 2} (k : State) (h : s.mBusy r = false) : needM s r k = k := by simp [needM, h]
theorem needM_busy {s : State} {r : BitVec 2} (k : State) (h : s.mBusy r = true) : needM s r k = park s .wreg := by simp [needM, h]
/-- The wait for an acquire. -/
theorem gate_clear {s : State} (k : State) (h : s.clearOfAcq) : gate s k = k := by simp only [State.clearOfAcq] at h; simp [gate, h]
/-- The wait for an acquire, and of a write for a release. -/
theorem gateW_clear {s : State} (k : State) (h : s.clearOfAcq) (r : s.clearOfRel) : gateW s k = k := by
  simp only [State.clearOfRel] at r
  unfold gateW; rw [gate_clear _ h, r]; rfl
theorem gateW_rel {s : State} (k : State) (h : s.clearOfAcq) (r : s.relOut = true) : gateW s k = park s .fence := by
  unfold gateW; rw [gate_clear _ h, if_pos r]
theorem gate_acq {s : State} (k : State) (h : s.acqOut = true) : gate s k = park s .fence := by simp [gate, h]

/-! ## Range and alignment -/

theorem needLd_ok {s : State} {ea : Int} {n : Nat} (k : Nat → State) (h : 0 ≤ ea) (r : s.spLd ea.toNat n = true) (a : ea % n = 0) :
    needLd s ea n k = k ea.toNat := by
  have h1 : ¬ (ea < 0 ∨ (!s.spLd ea.toNat n) = true) := by simp [r]; omega
  unfold needLd; rw [if_neg h1, if_neg (not_not_intro a)]
theorem needLd_range {s : State} {ea : Int} {n : Nat} (k : Nat → State) (h : ea < 0 ∨ s.spLd ea.toNat n = false) :
    needLd s ea n k = trap s 5 0 (.ofInt 64 ea) := by
  have h1 : ea < 0 ∨ (!s.spLd ea.toNat n) = true := by simpa using h
  unfold needLd; rw [if_pos h1]
theorem needLd_align {s : State} {ea : Int} {n : Nat} (k : Nat → State) (h : 0 ≤ ea) (r : s.spLd ea.toNat n = true) (a : ea % n ≠ 0) :
    needLd s ea n k = trap s 6 0 (.ofInt 64 ea) := by
  have h1 : ¬ (ea < 0 ∨ (!s.spLd ea.toNat n) = true) := by simp [r]; omega
  unfold needLd; rw [if_neg h1, if_pos a]
theorem needSt_ok {s : State} {ea : Int} {n : Nat} (k : Nat → State) (h : 0 ≤ ea) (r : s.spLd ea.toNat n = true)
    (w : s.spSt ea.toNat n = true) (a : ea % n = 0) : needSt s ea n k = k ea.toNat := by
  have h1 : ¬ (ea < 0 ∨ (!s.spLd ea.toNat n) = true ∨ (!s.spSt ea.toNat n) = true) := by simp [r, w]; omega
  unfold needSt; rw [if_neg h1, if_neg (not_not_intro a)]
theorem needSt_range {s : State} {ea : Int} {n : Nat} (k : Nat → State) (h : ea < 0 ∨ s.spLd ea.toNat n = false ∨ s.spSt ea.toNat n = false) :
    needSt s ea n k = trap s 5 0 (.ofInt 64 ea) := by
  have h1 : ea < 0 ∨ (!s.spLd ea.toNat n) = true ∨ (!s.spSt ea.toNat n) = true := by simpa using h
  unfold needSt; rw [if_pos h1]
theorem needSt_align {s : State} {ea : Int} {n : Nat} (k : Nat → State) (h : 0 ≤ ea) (r : s.spLd ea.toNat n = true)
    (w : s.spSt ea.toNat n = true) (a : ea % n ≠ 0) : needSt s ea n k = trap s 6 0 (.ofInt 64 ea) := by
  have h1 : ¬ (ea < 0 ∨ (!s.spLd ea.toNat n) = true ∨ (!s.spSt ea.toNat n) = true) := by simp [r, w]; omega
  unfold needSt; rw [if_neg h1, if_pos a]

/-! ## Token operands -/

theorem mem_portsOf {l : List (BitVec 4)} {p : BitVec 3} (h : p ∈ portsOf l) : ∃ c ∈ l, isPort c = true ∧ codeNo c = p := by
  unfold portsOf at h
  rw [List.mem_dedup, List.mem_map] at h
  obtain ⟨c, hc, e⟩ := h
  rw [List.mem_filter] at hc
  exact ⟨c, hc.1, hc.2, e⟩
theorem mem_wregsOf {l : List (BitVec 4)} {r : BitVec 3} (h : r ∈ wregsOf l) : ∃ c ∈ l, isPort c = false ∧ codeNo c = r := by
  unfold wregsOf at h
  rw [List.mem_map] at h
  obtain ⟨c, hc, e⟩ := h
  rw [List.mem_filter] at hc
  exact ⟨c, hc.1, by simpa using hc.2, e⟩
/-- No named port bound, every head and every free slot there: the firing rule passes. -/
theorem needPorts_ok {s : State} {ins outs : List (BitVec 3)} (k : State) (h1 : ∀ p ∈ ins, s.bound false p = false ∧ (s.head p).isSome = true)
    (h2 : ∀ p ∈ outs, s.bound true p = false ∧ s.space p = true) : needPorts s ins outs k = k := by
  have f1 : ins.find? (s.bound false) = none := List.find?_eq_none.2 fun p m => by simp [(h1 p m).1]
  have f2 : outs.find? (s.bound true) = none := List.find?_eq_none.2 fun p m => by simp [(h2 p m).1]
  have g1 : ins.all (fun p => (s.head p).isSome) = true := List.all_eq_true.2 fun p m => (h1 p m).2
  have g2 : outs.all s.space = true := List.all_eq_true.2 fun p m => (h2 p m).2
  unfold needPorts
  simp [f1, f2, g1, g2]
/-- Every head a data token: the kind check passes. -/
theorem needData_ok {s : State} {ins : List (BitVec 3)} (k : State) (h : ∀ p ∈ ins, ∃ t, s.head p = some t ∧ t.kind = .data) :
    needData s ins k = k := by
  have f : ins.filter (fun p => ((s.head p).getD {}).kind != .data) = [] := List.filter_eq_nil_iff.2 fun p m => by
    obtain ⟨t, a, b⟩ := h p m
    simp [a, b]
  unfold needData
  rw [f]; rfl
/-- A token instruction that may fire passes all its checks (R41, R92, R93, R170, R171). -/
theorem needT_fires {s : State} {srcs : List (BitVec 4)} {dst : Option (BitVec 4)} {mregs : List (BitVec 2)} {d : Bool} (k : State)
    (h : s.fires srcs dst mregs d) : needT s srcs dst mregs d k = k := by
  obtain ⟨ha, hm, hw, hi, ho⟩ := h
  have w1 : (wregsOf (srcs ++ dst.toList)).any s.wBusy = false := List.any_eq_false.2 fun r m => by
    obtain ⟨c, a, b, e⟩ := mem_wregsOf m
    simp [← e, hw c a b]
  have m1 : mregs.any s.mBusy = false := List.any_eq_false.2 fun r m => by simp [hm r m]
  have i1 : ∀ p ∈ portsOf srcs, s.bound false p = false ∧ (s.head p).isSome = true := fun p m => by
    obtain ⟨c, a, b, e⟩ := mem_portsOf m
    obtain ⟨x, t, y, _⟩ := hi c a b
    rw [← e]; exact ⟨x, by simp [y]⟩
  have o1 : ∀ p ∈ portsOf dst.toList, s.bound true p = false ∧ s.space p = true := fun p m => by
    obtain ⟨c, a, b, e⟩ := mem_portsOf m
    rw [← e]; exact (ho c a b).2
  have n1 : ∀ l : List (BitVec 4), (∀ c ∈ l, c ∈ srcs ++ dst.toList) → (!(portsOf l).isEmpty && s.acqOut) = false := fun l hl => by
    rcases hp : portsOf l with _ | ⟨p, r⟩
    · simp
    · obtain ⟨c, a, b, _⟩ := mem_portsOf (hp ▸ List.mem_cons_self .. : p ∈ portsOf l)
      have := ha c (hl c a) b
      simp only [State.clearOfAcq] at this
      simp [this]
  have a1 : ((!(portsOf srcs).isEmpty || !(portsOf dst.toList).isEmpty) && s.acqOut) = false := by
    rw [Bool.and_or_distrib_right, n1 _ fun c m => List.mem_append_left _ m, n1 _ fun c m => List.mem_append_right _ m]; rfl
  have r1 : (!(portsOf dst.toList).isEmpty && s.relOut) = false := by
    rcases hp : portsOf dst.toList with _ | ⟨p, l⟩
    · simp
    · obtain ⟨c, a, b, _⟩ := mem_portsOf (hp ▸ List.mem_cons_self .. : p ∈ portsOf dst.toList)
      have := (ho c a b).1
      simp only [State.clearOfRel] at this
      simp [this]
  have d1 : d = true → ∀ p ∈ portsOf srcs, ∃ t, s.head p = some t ∧ t.kind = .data := fun q p m => by
    obtain ⟨c, a, b, e⟩ := mem_portsOf m
    obtain ⟨_, t, y, z⟩ := hi c a b
    rw [← e]; exact ⟨t, y, z q⟩
  unfold needT
  simp only [w1, m1, a1, r1, Bool.or_self, Bool.false_eq_true, if_false]
  rw [needPorts_ok _ i1 o1]
  cases d with
  | false => rfl
  | true => exact needData_ok k (d1 rfl)

/-! ## Parking, trapping, advancing, jumping -/

/-- A park of a task's word changes the task's run state and nothing else. -/
theorem park_task {s : State} (r : Park) (h : s.ctx.unit = .task) : park s r = s.setTask s.ctx.tile s.ctx.slot { s.cur with st := .parked r } := by
  unfold park; rw [h]; rfl
/-- A unit that parks waits: nothing changes. -/
theorem park_unit {s : State} (r : Park) (h : s.ctx.unit ≠ .task) : park s r = s := by
  unfold park; split
  · contradiction
  · rfl
/-- A completed word of a task moves the program counter by n words and readies the task. -/
theorem advance_task {s : State} (n : Nat) (h : s.ctx.unit = .task) :
    advance s n = s.setTask s.ctx.tile s.ctx.slot { s.cur with st := .ready, pc := s.cur.pc + n, mark := none } := by
  unfold advance; rw [h]; rfl
/-- A trap of a task's word is a trap of its task at its program counter. -/
theorem trap_task {s : State} (c f : Nat) (v : DWord) (h : s.ctx.unit = .task) :
    trap s c f v = s.trapTask s.ctx.tile s.ctx.slot c f s.cur.pc v 0 0 := by unfold trap trapC; rw [h]
/-- A jump inside the program. -/
theorem jump_in {s : State} {t : Int} (h : 0 ≤ t) (l : t < s.limit) :
    jump s t = s.modCur fun k => { k with st := .ready, pc := t.toNat, mark := none } := by unfold jump; rw [if_pos ⟨h, l⟩]
/-- A jump outside it traps BAD_TARGET. -/
theorem jump_out {s : State} {t : Int} (h : t < 0 ∨ s.limit ≤ t) : jump s t = trap s 4 0 (.ofInt 64 t) := by
  have : ¬ (0 ≤ t ∧ t < s.limit) := by omega
  unfold jump; rw [if_neg this]
/-- A change of the issuing task alone. -/
theorem onlyTask_modCur (s : State) (f : Task → Task) : OnlyTask s (s.modCur f) := by
  rw [modCur_eq]
  refine ⟨rfl, ?_, ?_, ?_⟩
  · intro u h
    unfold State.setTask State.modTile
    rw [tile_setTile, if_neg h]
  · unfold State.setTask State.modTile
    rw [tile_setTile, if_pos rfl]
  · intro k h
    rw [task_setTask, if_neg (fun e => h e.2)]

/-! ## Posting -/

/-- A post to a queue that does not overflow adds one record with the next sequence number, and answers that number. -/
theorem post_room {s : State} (p : PartId) (r : FaultRec) (h : (s.part p).fq.length < 64) :
    s.post p r = ((s.part p).seq + 1, s.setPart p { s.part p with
      fq := (s.part p).fq ++ [{ r with part := p, seq := (s.part p).seq + 1 }], seq := (s.part p).seq + 1 }) := by
  have : ¬ (64 ≤ (s.part p).fq.length ∧ ringFull (s.part p).fqbase (s.part p).fqprod (s.part p).fqcons = true) := by omega
  unfold State.post
  simp only [if_neg this, fqPush, if_pos h]

/-! ## The scratchpad -/

/-- A store of bytes keeps a tile's canonical form. -/
theorem spPut_canon {s : State} (a : Nat) (d : List Byte) (h : Tile.Canon (s.tile s.ctx.tile)) : Tile.Canon ((s.spPut a d).tile s.ctx.tile) := by
  unfold State.spPut
  rw [modTile_eq, tile_setTile, if_pos rfl]
  exact ⟨memWrite_wf h.1 _ _, h.2⟩
/-- Setting a mark keeps it. -/
theorem spSetMark_canon {s : State} (a : Nat) (on : Bool) (h : Tile.Canon (s.tile s.ctx.tile)) : Tile.Canon ((s.spSetMark a on).tile s.ctx.tile) := by
  unfold State.spSetMark
  rw [modTile_eq, tile_setTile, if_pos rfl]
  exact ⟨h.1, setPut_rising h.2 _ _⟩

/-! ## The defect map (R3, R7) -/

/-- Of the tiles below any number, as many are disabled as the defect map marks, but no more than 48. -/
theorem disabled_count (n : Nat) :
    ((List.range n).filter Config.disabled).length = min 48 ((List.range n).filter Config.defect).length := by
  induction n with
  | zero => rfl
  | succ n ih =>
    rw [List.range_succ, List.filter_append, List.filter_append, List.length_append, List.length_append, ih]
    by_cases d : Config.defect n
    · by_cases c : ((List.range n).filter Config.defect).length < 48
      · have : Config.disabled n = true := by simp [Config.disabled, d, c]
        simp only [List.filter_cons, d, this, if_true, List.filter_nil, List.length_singleton]; omega
      · have : Config.disabled n = false := by simp [Config.disabled, d, c]
        simp only [List.filter_cons, d, this, if_true, List.filter_nil, List.length_singleton, Bool.false_eq_true, if_false, List.length_nil]; omega
    · have : Config.disabled n = false := by simp [Config.disabled, d]
      simp only [List.filter_cons, d, this, List.filter_nil, Bool.false_eq_true, if_false, List.length_nil]; omega
/-- Of n tiles, all but 48 at most are enabled. -/
theorem enabled_count (n : Nat) : n - 48 ≤ ((List.range n).filter fun t => !Config.disabled t).length := by
  have h := List.length_eq_countP_add_countP (l := List.range n) Config.disabled
  have c := disabled_count n
  rw [← List.countP_eq_length_filter] at c ⊢
  have e : List.countP (fun t => decide ¬Config.disabled t = true) (List.range n) = List.countP (fun t => !Config.disabled t) (List.range n) := by
    congr 1; funext t; cases Config.disabled t <;> rfl
  rw [List.length_range, e, c] at h
  omega
/-- At least 1,488 of the 1,536 tiles are enabled (R3, R7). -/
theorem enabled_tiles : 1488 ≤ ((List.range 1536).filter fun t => !Config.disabled t).length := enabled_count 1536

/-! ## Bind records -/

theorem lt_of_mem_upFrom {a n i : Nat} (h : i ∈ upFrom a n) : i < a + n := by
  induction n generalizing a with
  | zero => simp [upFrom] at h
  | succ n ih =>
    simp only [upFrom, List.mem_cons] at h
    rcases h with rfl | h
    · omega
    · have := ih h; omega
theorem lt_of_mem_upTo {n i : Nat} (h : i ∈ upTo n) : i < n := by have := lt_of_mem_upFrom h; omega
/-- A table searched for one of its places. -/
theorem filter_upFrom (a n k : Nat) : (upFrom a n).filter (fun i => i == k) = if a ≤ k ∧ k < a + n then [k] else [] := by
  induction n generalizing a with
  | zero => rw [if_neg (by omega)]; rfl
  | succ n ih =>
    rw [upFrom, List.filter_cons, ih]
    by_cases c : a = k
    · subst c; simp
    · rw [if_neg (by simpa using c)]
      by_cases d : a ≤ k ∧ k < a + (n + 1)
      · rw [if_pos (by omega), if_pos d]
      · rw [if_neg (by omega), if_neg d]

/-- The slot table as its entries read. -/
theorem bindEnts_of {s : State} {p : PartId} (f : Nat → Nat) (rg : BitVec 16) (gen : BitVec 32)
    (h : ∀ i < 6144, s.ipaNum p (fld (s.part p).slottab.toNat 47 16 * 65536 + 16 * i) 16 = .ok (f i)) :
    s.bindEnts p rg gen = .ok (((upTo 6144).filter fun i => (f i).testBit 0 ∧ fld (f i) 63 48 = rg.toNat ∧ fld (f i) 127 96 = gen.toNat).map
      fun i => (i / 4, .ofNat 2 i, f i)) := by
  have q : ∀ i ∈ upTo 6144, s.ipaNum p (fld (s.part p).slottab.toNat 47 16 * 65536 + 16 * i) 16 = .ok (f i) :=
    fun i hi => h i (lt_of_mem_upTo hi)
  unfold State.bindEnts
  generalize upTo 6144 = l at q
  dsimp only
  induction l with
  | nil => rfl
  | cons i r ih =>
    rw [List.foldr_cons, ih fun j hj => q j (by simp [hj]), q i (by simp), List.filter_cons]
    dsimp only
    by_cases c : (f i).testBit 0 ∧ fld (f i) 63 48 = rg.toNat ∧ fld (f i) 127 96 = gen.toNat
    · rw [if_pos c, if_pos (by simpa using c), List.map_cons]
    · rw [if_neg c, if_neg (by simpa using c)]

/-- A slot table of which no entry can be read. -/
theorem bindEnts_fault {s : State} {p : PartId} {f : Flt} (rg : BitVec 16) (gen : BitVec 32)
    (h : ∀ i < 6144, s.ipaNum p (fld (s.part p).slottab.toNat 47 16 * 65536 + 16 * i) 16 = .error f) : s.bindEnts p rg gen = .error f := by
  have q : upTo 6144 ≠ [] := List.cons_ne_nil 0 (upFrom 1 6143)
  replace h : ∀ i ∈ upTo 6144, _ := fun i hi => h i (lt_of_mem_upTo hi)
  unfold State.bindEnts
  generalize upTo 6144 = l at q h
  dsimp only
  induction l with
  | nil => exact absurd rfl q
  | cons i r ih =>
    rw [List.foldr_cons]
    by_cases e : r = []
    · subst e; rw [List.foldr_nil]; dsimp only; rw [h i (by simp)]
    · rw [ih e fun j hj => h j (by simp [hj])]

/-! ## Syntax jobs -/

/-- What a job gives does not rest on what it has sent. -/
theorem synRuns_sent (j : SynJob) (n p : Nat) (l : List Config.SynPic) (a : SynScan) :
    synRuns { j with sent := n } p a l = synRuns j p a l := by
  induction l generalizing a with
  | nil => rfl
  | cons x r ih => simp only [synRuns, ih]
@[simp] theorem SynJob.outs_sent (j : SynJob) (n : Nat) (c : SynCtx) : ({ j with sent := n } : SynJob).outs c = j.outs c := by
  simp only [SynJob.outs, SynJob.runs, synRuns_sent]

end Sys2Proof.Machine
end

