-- ==== Sys2Proof/Laws/PerInstr.lean ====
section
/-! SUPPORT. Decoding an encoded instruction gives it back, one lemma per constructor. -/
namespace Sys2Proof.Laws.RoundTrip
set_option Elab.async false

/-- Decoding the words of a well-formed instruction gives it back; an event has none. -/
def Statement (i : Instr) : Prop := i.isWord = true → i.wellFormed = true → decode (encode i) = .ok i

/-! ## Fields of the formats -/

theorem fieldsA (g c d s1 s2 w1 w2 m : Nat) (hg : g < 32) (hc : c < 32) (hd : d < 16) (h1 : s1 < 16) (h2 : s2 < 16)
    (hw : w1 < 2) (hv : w2 < 2) (hm : m < 256) :
    let x := wordA g c d s1 s2 w1 w2 m
    x % 2 ^ 32 = x ∧ fld x 31 27 = g ∧ fld x 26 22 = c ∧ fld x 21 18 = d ∧ fld x 17 14 = s1 ∧ fld x 13 10 = s2 ∧ fld x 9 9 = w1 ∧
      fld x 8 8 = w2 ∧ fld x 7 0 = m := by
  simp only [wordA, fld, Nat.reducePow, Nat.reduceAdd, Nat.reduceSub]
  omega
theorem fieldsI (g c d s w i : Nat) (hg : g < 32) (hc : c < 8) (hd : d < 16) (hs : s < 16) (hw : w < 2) (hi : i < 32768) :
    let x := wordI g c d s w i
    x % 2 ^ 32 = x ∧ fld x 31 27 = g ∧ fld x 26 24 = c ∧ fld x 23 20 = d ∧ fld x 19 16 = s ∧ fld x 15 15 = w ∧ fld x 14 0 = i := by
  simp only [wordI, fld, Nat.reducePow, Nat.reduceAdd, Nat.reduceSub]
  omega
theorem fieldsB (g c s w o : Nat) (hg : g < 32) (hc : c < 16) (hs : s < 16) (hw : w < 2) (ho : o < 262144) :
    let x := wordB g c s w o
    x % 2 ^ 32 = x ∧ fld x 31 27 = g ∧ fld x 26 23 = c ∧ fld x 22 19 = s ∧ fld x 18 18 = w ∧ fld x 17 0 = o := by
  simp only [wordB, fld, Nat.reducePow, Nat.reduceAdd, Nat.reduceSub]
  omega
theorem fieldsX (g c r w s i : Nat) (hg : g < 32) (hc : c < 32) (hr : r < 16) (hw : w < 2) (hs : s < 1024) (hi : i < 128) :
    let x := wordX g c r w s i
    x % 2 ^ 32 = x ∧ fld x 31 27 = g ∧ fld x 26 22 = c ∧ fld x 21 18 = r ∧ fld x 17 17 = w ∧ fld x 16 7 = s ∧ fld x 6 0 = i := by
  simp only [wordX, fld, Nat.reducePow, Nat.reduceAdd, Nat.reduceSub]
  omega
theorem fieldsT (g c d a b k e : Nat) (hg : g < 32) (hc : c < 128) (hd : d < 16) (ha : a < 16) (hb : b < 16) (hk : k < 16) (he : e < 16) :
    let x := wordT g c d a b k e
    x % 2 ^ 32 = x ∧ fld x 31 27 = g ∧ fld x 26 20 = c ∧ fld x 19 16 = d ∧ fld x 15 12 = a ∧ fld x 11 8 = b ∧ fld x 7 4 = k ∧ fld x 3 0 = e := by
  simp only [wordT, fld, Nat.reducePow, Nat.reduceAdd, Nat.reduceSub]
  omega
theorem fieldsM (g c a r f k x w m : Nat) (hg : g < 32) (hc : c < 16) (ha : a < 16) (hr : r < 4) (hf : f < 8) (hk : k < 8) (hx : x < 16)
    (hw : w < 2) (hm : m < 64) :
    let y := wordM g c a r f k x w m
    y % 2 ^ 32 = y ∧ fld y 31 27 = g ∧ fld y 26 23 = c ∧ fld y 22 19 = a ∧ fld y 18 17 = r ∧ fld y 16 14 = f ∧ fld y 13 11 = k ∧ fld y 10 7 = x ∧
      fld y 6 6 = w ∧ fld y 5 0 = m := by
  simp only [wordM, fld, Nat.reducePow, Nat.reduceAdd, Nat.reduceSub]
  omega
/-- A field within a field. -/
theorem fld_sub (x H L hi lo : Nat) (h : hi ≤ H) (l : L ≤ lo) (o : lo ≤ hi) : fld x hi lo = fld (fld x H L) (hi - L) (lo - L) := by
  apply Nat.eq_of_testBit_eq
  intro i
  simp only [fld, Nat.testBit_mod_two_pow, Nat.testBit_div_two_pow]
  by_cases c : i < hi + 1 - lo
  · have a1 : i < hi - L + 1 - (lo - L) := by omega
    have a3 : i + (lo - L) < H + 1 - L := by omega
    have a4 : i + (lo - L) + L = i + lo := by omega
    simp [c, a1, a3, a4]
  · have a1 : ¬ i < hi - L + 1 - (lo - L) := by omega
    simp [c, a1]
/-- A part of a field whose value is known. -/
theorem fld_part {x H L v : Nat} (hi lo r : Nat) (f : fld x H L = v) (h : hi ≤ H) (l : L ≤ lo) (o : lo ≤ hi)
    (e : v / 2 ^ (lo - L) % 2 ^ (hi - L + 1 - (lo - L)) = r) : fld x hi lo = r := by
  rw [fld_sub x H L hi lo h l o, f]; exact e

/-! ## Decoding one word, by group -/

theorem decode_ok {x : Nat} {i : Instr} (h : x % 2 ^ 32 = x) (hg : fld x 31 27 ≠ 31) (hd : decWord x = .ok i) : decode [x] = .ok i := by
  unfold decode
  simp only [List.getD_cons_zero, h, hg, if_false, hd]
theorem inG01 {x : Nat} (h : fld x 31 27 = 0x01) : decWord x = Sys2Proof.decG01 x := by unfold decWord; rw [h]; rfl
theorem inG02 {x : Nat} (h : fld x 31 27 = 0x02) : decWord x = Sys2Proof.decG02 x := by unfold decWord; rw [h]; rfl
theorem inG03 {x : Nat} (h : fld x 31 27 = 0x03) : decWord x = Sys2Proof.decG03 x := by unfold decWord; rw [h]; rfl
theorem inG04 {x : Nat} (h : fld x 31 27 = 0x04) : decWord x = Sys2Proof.decG04 x := by unfold decWord; rw [h]; rfl
theorem inG05 {x : Nat} (h : fld x 31 27 = 0x05) : decWord x = Sys2Proof.decG05 x := by unfold decWord; rw [h]; rfl
theorem inG06 {x : Nat} (h : fld x 31 27 = 0x06) : decWord x = Sys2Proof.decG06 x := by unfold decWord; rw [h]; rfl
theorem inG07 {x : Nat} (h : fld x 31 27 = 0x07) : decWord x = Sys2Proof.decG07 x := by unfold decWord; rw [h]; rfl
theorem inG08 {x : Nat} (h : fld x 31 27 = 0x08) : decWord x = Sys2Proof.decG08 x := by unfold decWord; rw [h]; rfl
theorem inG09 {x : Nat} (h : fld x 31 27 = 0x09) : decWord x = Sys2Proof.decG09 x := by unfold decWord; rw [h]; rfl
theorem inG0A {x : Nat} (h : fld x 31 27 = 0x0A) : decWord x = Sys2Proof.decG0A x := by unfold decWord; rw [h]; rfl
theorem inG0B {x : Nat} (h : fld x 31 27 = 0x0B) : decWord x = Sys2Proof.decG0B x := by unfold decWord; rw [h]; rfl
theorem inG0C {x : Nat} (h : fld x 31 27 = 0x0C) : decWord x = Sys2Proof.decG0C x := by unfold decWord; rw [h]; rfl
theorem inG0D {x : Nat} (h : fld x 31 27 = 0x0D) : decWord x = Sys2Proof.decG0D x := by unfold decWord; rw [h]; rfl
theorem inG0E {x : Nat} (h : fld x 31 27 = 0x0E) : decWord x = Sys2Proof.decG0E x := by unfold decWord; rw [h]; rfl
theorem inG10 {x : Nat} (h : fld x 31 27 = 0x10) : decWord x = Sys2Proof.decG10 x := by unfold decWord; rw [h]; rfl
theorem inG11 {x : Nat} (h : fld x 31 27 = 0x11) : decWord x = Sys2Proof.decG11 x := by unfold decWord; rw [h]; rfl
theorem inG12 {x : Nat} (h : fld x 31 27 = 0x12) : decWord x = Sys2Proof.decG12 x := by unfold decWord; rw [h]; rfl
theorem inG13 {x : Nat} (h : fld x 31 27 = 0x13) : decWord x = Sys2Proof.decG13 x := by unfold decWord; rw [h]; rfl
theorem inG14 {x : Nat} (h : fld x 31 27 = 0x14) : decWord x = Sys2Proof.decG14 x := by unfold decWord; rw [h]; rfl
theorem inG15 {x : Nat} (h : fld x 31 27 = 0x15) : decWord x = Sys2Proof.decG15 x := by unfold decWord; rw [h]; rfl
theorem inG16 {x : Nat} (h : fld x 31 27 = 0x16) : decWord x = Sys2Proof.decG16 x := by unfold decWord; rw [h]; rfl
theorem inG17 {x : Nat} (h : fld x 31 27 = 0x17) : decWord x = Sys2Proof.decG17 x := by unfold decWord; rw [h]; rfl
theorem inG18 {x : Nat} (h : fld x 31 27 = 0x18) : decWord x = Sys2Proof.decG18 x := by unfold decWord; rw [h]; rfl
theorem inG19 {x : Nat} (h : fld x 31 27 = 0x19) : decWord x = Sys2Proof.decG19 x := by unfold decWord; rw [h]; rfl
theorem inG1A {x : Nat} (h : fld x 31 27 = 0x1A) : decWord x = Sys2Proof.decG1A x := by unfold decWord; rw [h]; rfl
theorem inG1B {x : Nat} (h : fld x 31 27 = 0x1B) : decWord x = Sys2Proof.decG1B x := by unfold decWord; rw [h]; rfl

/-! ## Codes of operands -/

@[simp] theorem b4_toNat (d : BitVec 4) : b4 d.toNat = d := by simp [b4]
@[simp] theorem b3_toNat (d : BitVec 3) : b3 d.toNat = d := by simp [b3]
@[simp] theorem bit_toNat (w : Bool) : bit w.toNat = w := by cases w <;> rfl
theorem bool_lt (w : Bool) : w.toNat < 2 := by cases w <;> decide
theorem maskCode_lt (k : Option (BitVec 2)) : maskCode k < 16 := by
  rcases k with _ | k
  · decide
  · exact (by decide : ∀ k : BitVec 2, maskCode (some k) < 16) k
@[simp] theorem maskOk_code (k : Option (BitVec 2)) : maskOk (maskCode k) = true := by
  rcases k with _ | k
  · rfl
  · exact (by decide : ∀ k : BitVec 2, maskOk (maskCode (some k)) = true) k
@[simp] theorem maskDec_code (k : Option (BitVec 2)) : maskDec (maskCode k) = k := by
  rcases k with _ | k
  · rfl
  · exact (by decide : ∀ k : BitVec 2, maskDec (maskCode (some k)) = some k) k
theorem skipCode_lt (k : Option (BitVec 2)) : skipCode k < 8 := by
  rcases k with _ | k
  · decide
  · exact (by decide : ∀ k : BitVec 2, skipCode (some k) < 8) k
@[simp] theorem skip_ok (k : Option (BitVec 2)) : fld (skipCode k) 2 2 = 1 ∨ fld (skipCode k) 1 0 = 0 := by
  rcases k with _ | k
  · exact .inr rfl
  · exact (by decide : ∀ k : BitVec 2, fld (skipCode (some k)) 2 2 = 1 ∨ fld (skipCode (some k)) 1 0 = 0) k
@[simp] theorem skip_dec (k : Option (BitVec 2)) : (if fld (skipCode k) 2 2 = 1 then some (BitVec.ofNat 2 (fld (skipCode k) 1 0)) else none) = k := by
  rcases k with _ | k
  · rfl
  · exact (by decide : ∀ k : BitVec 2, (if fld (skipCode (some k)) 2 2 = 1 then some (BitVec.ofNat 2 (fld (skipCode (some k)) 1 0)) else none) = some k) k
@[simp] theorem sreg_known (n : SReg) : SReg.known n.code = true := by cases n <;> rfl
theorem any_code {l : List EType} {e : EType} (h : l.contains e = true) : (l.any fun x => decide (x.code = e.code)) = true :=
  List.any_eq_true.2 ⟨e, by simpa using h, by simp⟩
theorem ExtWidth_code_lt (n : ExtWidth) : n.code < 3 := by cases n <;> decide
@[simp] theorem ExtWidth_dec_code (n : ExtWidth) : ExtWidth.dec n.code = n := by cases n <;> rfl
theorem ForkUnit_code_lt (n : ForkUnit) : n.code < 2 := by cases n <;> decide
@[simp] theorem ForkUnit_dec_code (n : ForkUnit) : ForkUnit.dec n.code = n := by cases n <;> rfl
theorem RFile_code_lt (n : RFile) : n.code < 4 := by cases n <;> decide
@[simp] theorem RFile_dec_code (n : RFile) : RFile.dec n.code = n := by cases n <;> rfl
theorem SReg_code_lt (n : SReg) : n.code < 64 := by cases n <;> decide
@[simp] theorem SReg_dec_code (n : SReg) : SReg.dec n.code = n := by cases n <;> rfl
theorem FenceKind_code_lt (n : FenceKind) : n.code < 3 := by cases n <;> decide
@[simp] theorem FenceKind_dec_code (n : FenceKind) : FenceKind.dec n.code = n := by cases n <;> rfl
theorem AtOrder_code_lt (n : AtOrder) : n.code < 4 := by cases n <;> decide
@[simp] theorem AtOrder_dec_code (n : AtOrder) : AtOrder.dec n.code = n := by cases n <;> rfl
theorem Scope_code_lt (n : Scope) : n.code < 4 := by cases n <;> decide
@[simp] theorem Scope_dec_code (n : Scope) : Scope.dec n.code = n := by cases n <;> rfl
theorem EType_code_lt (n : EType) : n.code < 16 := by cases n <;> decide
@[simp] theorem EType_dec_code (n : EType) : EType.dec n.code = n := by cases n <;> rfl
theorem BitMode_code_lt (n : BitMode) : n.code < 3 := by cases n <;> decide
@[simp] theorem BitMode_dec_code (n : BitMode) : BitMode.dec n.code = n := by cases n <;> rfl
theorem TokKind_code_lt (n : TokKind) : n.code < 4 := by cases n <;> decide
@[simp] theorem TokKind_dec_code (n : TokKind) : TokKind.dec n.code = n := by cases n <;> rfl
theorem Plane_code_lt (n : Plane) : n.code < 3 := by cases n <;> decide
@[simp] theorem Plane_dec_code (n : Plane) : Plane.dec n.code = n := by cases n <;> rfl
theorem RecField_code_lt (n : RecField) : n.code < 16 := by cases n <;> decide
@[simp] theorem RecField_dec_code (n : RecField) : RecField.dec n.code = n := by cases n <;> rfl
theorem MatFmt_code_lt (n : MatFmt) : n.code < 7 := by cases n <;> decide
@[simp] theorem MatFmt_dec_code (n : MatFmt) : MatFmt.dec n.code = n := by cases n <;> rfl
theorem StatFmt_code_lt (n : StatFmt) : n.code < 6 := by cases n <;> decide
@[simp] theorem StatFmt_dec_code (n : StatFmt) : StatFmt.dec n.code = n := by cases n <;> rfl
theorem Xform_code_lt (n : Xform) : n.code < 5 := by cases n <;> decide
@[simp] theorem Xform_dec_code (n : Xform) : Xform.dec n.code = n := by cases n <;> rfl

/-! ## The four words of a stream command -/

/-- W0, W1 and W3 of a stream command from their fields (R45). -/
def streamW0 (op e ep pcb : Nat) : Nat := 31 * 2 ^ 27 + op * 2 ^ 23 + e * 2 ^ 20 + ep * 2 ^ 15 + pcb * 2 ^ 2
/-- As `streamW0`. -/
def streamW1 (b v pr xf ix : Nat) : Nat := b * 2 ^ 29 + v * 2 ^ 23 + pr * 2 ^ 19 + xf * 2 ^ 15 + ix * 2 ^ 11
/-- As `streamW0`. -/
def streamW3 (tag eos : Nat) : Nat := tag * 2 ^ 26 + eos * 2 ^ 25
theorem fields0 (op e ep pcb : Nat) (ho : op < 16) (he : e < 8) (hp : ep < 32) (hb : pcb < 8192) :
    let x := streamW0 op e ep pcb
    x % 2 ^ 32 = x ∧ fld x 31 27 = 31 ∧ fld x 26 23 = op ∧ fld x 22 20 = e ∧ fld x 19 18 = ep / 8 ∧ fld x 17 15 = ep % 8 ∧ fld x 19 15 = ep ∧
      fld x 14 2 = pcb ∧ fld x 1 0 = 0 := by
  simp only [streamW0, fld, Nat.reducePow, Nat.reduceAdd, Nat.reduceSub]
  omega
theorem fields1 (b v pr xf ix : Nat) (h1 : b < 8) (h2 : v < 64) (h3 : pr < 16) (h4 : xf < 16) (h5 : ix < 16) :
    let x := streamW1 b v pr xf ix
    x % 2 ^ 32 = x ∧ fld x 31 29 = b ∧ fld x 28 25 = v / 4 ∧ fld x 24 24 = v / 2 % 2 ∧ fld x 23 23 = v % 2 ∧ fld x 22 22 = pr / 8 ∧
      fld x 21 19 = pr % 8 ∧ fld x 18 15 = xf ∧ fld x 14 11 = ix ∧ fld x 10 0 = 0 := by
  simp only [streamW1, fld, Nat.reducePow, Nat.reduceAdd, Nat.reduceSub]
  omega
theorem fields3 (tag eos : Nat) (h1 : tag < 64) (h2 : eos < 2) :
    let x := streamW3 tag eos
    x % 2 ^ 32 = x ∧ fld x 31 26 = tag ∧ fld x 25 25 = eos ∧ fld x 24 0 = 0 := by
  simp only [streamW3, fld, Nat.reducePow, Nat.reduceAdd, Nat.reduceSub]
  omega
theorem decode_stream {x y z w : Nat} {i : Instr} (h0 : x % 2 ^ 32 = x) (h1 : y % 2 ^ 32 = y) (h2 : z % 2 ^ 32 = z) (h3 : w % 2 ^ 32 = w)
    (hg : fld x 31 27 = 31) (hd : decStream x y z w = .ok i) : decode [x, y, z, w] = .ok i := by
  unfold decode
  simp only [List.getD_cons_zero, List.getD_cons_succ, h0, h1, h2, h3, hg, if_true, hd]
theorem Xform_code_lt' (n : Xform) : n.code < 16 := by cases n <;> decide
/-- The version field of W1: its value fits and reads back. -/
theorem ver_field (v : Option (BitVec 4 × Bool)) : verCode v < 64 ∧
    (if verCode v % 2 = 1 then some (b4 (verCode v / 4), bit (verCode v / 2 % 2)) else none) = v ∧
    (verCode v % 2 = 1 ∨ verCode v / 4 = 0) ∧ (verCode v % 2 = 1 ∨ verCode v / 2 % 2 = 0) := by
  rcases v with _ | ⟨g, w⟩
  · decide
  · exact (by decide : ∀ (g : BitVec 4) (w : Bool), verCode (some (g, w)) < 64 ∧
      (if verCode (some (g, w)) % 2 = 1 then some (b4 (verCode (some (g, w)) / 4), bit (verCode (some (g, w)) / 2 % 2)) else none) = some (g, w) ∧
      (verCode (some (g, w)) % 2 = 1 ∨ verCode (some (g, w)) / 4 = 0) ∧ (verCode (some (g, w)) % 2 = 1 ∨ verCode (some (g, w)) / 2 % 2 = 0)) g w
/-- The Prism field of W1. -/
theorem pr_field (p : Option (BitVec 3)) : prCode p < 16 ∧ (if prCode p / 8 = 1 then some (b3 (prCode p % 8)) else none) = p ∧
    (prCode p / 8 = 1 ∨ prCode p % 8 = 0) := by
  rcases p with _ | p
  · decide
  · exact (by decide : ∀ p : BitVec 3, prCode (some p) < 16 ∧ (if prCode (some p) / 8 = 1 then some (b3 (prCode (some p) % 8)) else none) = some p ∧
      (prCode (some p) / 8 = 1 ∨ prCode (some p) % 8 = 0)) p
/-- The endpoint of W0. -/
theorem dest_field (d : StreamDest) : destCode d < 16 ∧
    (if destCode d / 8 = 0 then StreamDest.port (b3 (destCode d % 8)) else .ring (.ofNat 2 (destCode d % 8))) = d ∧
    (destCode d / 8 = 0 ∨ destCode d / 8 = 1 ∧ destCode d % 8 < 4) := by
  rcases d with p | r
  · exact (by decide : ∀ p : BitVec 3, destCode (.port p) < 16 ∧
      (if destCode (.port p) / 8 = 0 then StreamDest.port (b3 (destCode (.port p) % 8)) else .ring (.ofNat 2 (destCode (.port p) % 8))) = .port p ∧
      (destCode (.port p) / 8 = 0 ∨ destCode (.port p) / 8 = 1 ∧ destCode (.port p) % 8 < 4)) p
  · exact (by decide : ∀ r : BitVec 2, destCode (.ring r) < 16 ∧
      (if destCode (.ring r) / 8 = 0 then StreamDest.port (b3 (destCode (.ring r) % 8)) else .ring (.ofNat 2 (destCode (.ring r) % 8))) = .ring r ∧
      (destCode (.ring r) / 8 = 0 ∨ destCode (.ring r) / 8 = 1 ∧ destCode (.ring r) % 8 < 4)) r

/-! ## One lemma per constructor -/

theorem add (d : BitVec 4) (a : BitVec 4) (b : BitVec 4) (w : Bool) (v : Bool) : Statement (.add d a b w v) := by
  intro _ hw
  have hl_d : d.toNat < 16 := d.isLt
  have hl_a : a.toNat < 16 := a.isLt
  have hl_b : b.toNat < 16 := b.isLt
  have hl_w := bool_lt w
  have hl_v := bool_lt v
  change decode [wordA 0x01 0 d.toNat a.toNat b.toNat w.toNat v.toNat 0] = _
  obtain ⟨e0, e1, e2, f21_18, f17_14, f13_10, f9_9, f8_8, f7_0⟩ := fieldsA 0x01 0 d.toNat a.toNat b.toNat w.toNat v.toNat 0 (by omega) (by omega) (by omega) (by omega) (by omega) (by omega) (by omega) (by omega)
  generalize wordA 0x01 0 d.toNat a.toNat b.toNat w.toNat v.toNat 0 = y at *
  refine decode_ok e0 (by rw [e1]; decide) ?_
  rw [inG01 e1]
  unfold decG01
  rw [e2]
  simp [chk, *]
theorem sub (d : BitVec 4) (a : BitVec 4) (b : BitVec 4) (w : Bool) (v : Bool) : Statement (.sub d a b w v) := by
  intro _ hw
  have hl_d : d.toNat < 16 := d.isLt
  have hl_a : a.toNat < 16 := a.isLt
  have hl_b : b.toNat < 16 := b.isLt
  have hl_w := bool_lt w
  have hl_v := bool_lt v
  change decode [wordA 0x01 1 d.toNat a.toNat b.toNat w.toNat v.toNat 0] = _
  obtain ⟨e0, e1, e2, f21_18, f17_14, f13_10, f9_9, f8_8, f7_0⟩ := fieldsA 0x01 1 d.toNat a.toNat b.toNat w.toNat v.toNat 0 (by omega) (by omega) (by omega) (by omega) (by omega) (by omega) (by omega) (by omega)
  generalize wordA 0x01 1 d.toNat a.toNat b.toNat w.toNat v.toNat 0 = y at *
  refine decode_ok e0 (by rw [e1]; decide) ?_
  rw [inG01 e1]
  unfold decG01
  rw [e2]
  simp [chk, *]
theorem mul (d : BitVec 4) (a : BitVec 4) (b : BitVec 4) (w : Bool) (v : Bool) : Statement (.mul d a b w v) := by
  intro _ hw
  have hl_d : d.toNat < 16 := d.isLt
  have hl_a : a.toNat < 16 := a.isLt
  have hl_b : b.toNat < 16 := b.isLt
  have hl_w := bool_lt w
  have hl_v := bool_lt v
  change decode [wordA 0x01 2 d.toNat a.toNat b.toNat w.toNat v.toNat 0] = _
  obtain ⟨e0, e1, e2, f21_18, f17_14, f13_10, f9_9, f8_8, f7_0⟩ := fieldsA 0x01 2 d.toNat a.toNat b.toNat w.toNat v.toNat 0 (by omega) (by omega) (by omega) (by omega) (by omega) (by omega) (by omega) (by omega)
  generalize wordA 0x01 2 d.toNat a.toNat b.toNat w.toNat v.toNat 0 = y at *
  refine decode_ok e0 (by rw [e1]; decide) ?_
  rw [inG01 e1]
  unfold decG01
  rw [e2]
  simp [chk, *]
theorem mulh (d : BitVec 4) (a : BitVec 4) (b : BitVec 4) (w : Bool) (v : Bool) : Statement (.mulh d a b w v) := by
  intro _ hw
  have hl_d : d.toNat < 16 := d.isLt
  have hl_a : a.toNat < 16 := a.isLt
  have hl_b : b.toNat < 16 := b.isLt
  have hl_w := bool_lt w
  have hl_v := bool_lt v
  change decode [wordA 0x01 3 d.toNat a.toNat b.toNat w.toNat v.toNat 0] = _
  obtain ⟨e0, e1, e2, f21_18, f17_14, f13_10, f9_9, f8_8, f7_0⟩ := fieldsA 0x01 3 d.toNat a.toNat b.toNat w.toNat v.toNat 0 (by omega) (by omega) (by omega) (by omega) (by omega) (by omega) (by omega) (by omega)
  generalize wordA 0x01 3 d.toNat a.toNat b.toNat w.toNat v.toNat 0 = y at *
  refine decode_ok e0 (by rw [e1]; decide) ?_
  rw [inG01 e1]
  unfold decG01
  rw [e2]
  simp [chk, *]
theorem mulhu (d : BitVec 4) (a : BitVec 4) (b : BitVec 4) (w : Bool) (v : Bool) : Statement (.mulhu d a b w v) := by
  intro _ hw
  have hl_d : d.toNat < 16 := d.isLt
  have hl_a : a.toNat < 16 := a.isLt
  have hl_b : b.toNat < 16 := b.isLt
  have hl_w := bool_lt w
  have hl_v := bool_lt v
  change decode [wordA 0x01 4 d.toNat a.toNat b.toNat w.toNat v.toNat 0] = _
  obtain ⟨e0, e1, e2, f21_18, f17_14, f13_10, f9_9, f8_8, f7_0⟩ := fieldsA 0x01 4 d.toNat a.toNat b.toNat w.toNat v.toNat 0 (by omega) (by omega) (by omega) (by omega) (by omega) (by omega) (by omega) (by omega)
  generalize wordA 0x01 4 d.toNat a.toNat b.toNat w.toNat v.toNat 0 = y at *
  refine decode_ok e0 (by rw [e1]; decide) ?_
  rw [inG01 e1]
  unfold decG01
  rw [e2]
  simp [chk, *]
theorem div (d : BitVec 4) (a : BitVec 4) (b : BitVec 4) (w : Bool) (v : Bool) : Statement (.div d a b w v) := by
  intro _ hw
  have hl_d : d.toNat < 16 := d.isLt
  have hl_a : a.toNat < 16 := a.isLt
  have hl_b : b.toNat < 16 := b.isLt
  have hl_w := bool_lt w
  have hl_v := bool_lt v
  change decode [wordA 0x01 5 d.toNat a.toNat b.toNat w.toNat v.toNat 0] = _
  obtain ⟨e0, e1, e2, f21_18, f17_14, f13_10, f9_9, f8_8, f7_0⟩ := fieldsA 0x01 5 d.toNat a.toNat b.toNat w.toNat v.toNat 0 (by omega) (by omega) (by omega) (by omega) (by omega) (by omega) (by omega) (by omega)
  generalize wordA 0x01 5 d.toNat a.toNat b.toNat w.toNat v.toNat 0 = y at *
  refine decode_ok e0 (by rw [e1]; decide) ?_
  rw [inG01 e1]
  unfold decG01
  rw [e2]
  simp [chk, *]
theorem divu (d : BitVec 4) (a : BitVec 4) (b : BitVec 4) (w : Bool) (v : Bool) : Statement (.divu d a b w v) := by
  intro _ hw
  have hl_d : d.toNat < 16 := d.isLt
  have hl_a : a.toNat < 16 := a.isLt
  have hl_b : b.toNat < 16 := b.isLt
  have hl_w := bool_lt w
  have hl_v := bool_lt v
  change decode [wordA 0x01 6 d.toNat a.toNat b.toNat w.toNat v.toNat 0] = _
  obtain ⟨e0, e1, e2, f21_18, f17_14, f13_10, f9_9, f8_8, f7_0⟩ := fieldsA 0x01 6 d.toNat a.toNat b.toNat w.toNat v.toNat 0 (by omega) (by omega) (by omega) (by omega) (by omega) (by omega) (by omega) (by omega)
  generalize wordA 0x01 6 d.toNat a.toNat b.toNat w.toNat v.toNat 0 = y at *
  refine decode_ok e0 (by rw [e1]; decide) ?_
  rw [inG01 e1]
  unfold decG01
  rw [e2]
  simp [chk, *]
theorem rem (d : BitVec 4) (a : BitVec 4) (b : BitVec 4) (w : Bool) (v : Bool) : Statement (.rem d a b w v) := by
  intro _ hw
  have hl_d : d.toNat < 16 := d.isLt
  have hl_a : a.toNat < 16 := a.isLt
  have hl_b : b.toNat < 16 := b.isLt
  have hl_w := bool_lt w
  have hl_v := bool_lt v
  change decode [wordA 0x01 7 d.toNat a.toNat b.toNat w.toNat v.toNat 0] = _
  obtain ⟨e0, e1, e2, f21_18, f17_14, f13_10, f9_9, f8_8, f7_0⟩ := fieldsA 0x01 7 d.toNat a.toNat b.toNat w.toNat v.toNat 0 (by omega) (by omega) (by omega) (by omega) (by omega) (by omega) (by omega) (by omega)
  generalize wordA 0x01 7 d.toNat a.toNat b.toNat w.toNat v.toNat 0 = y at *
  refine decode_ok e0 (by rw [e1]; decide) ?_
  rw [inG01 e1]
  unfold decG01
  rw [e2]
  simp [chk, *]
theorem remu (d : BitVec 4) (a : BitVec 4) (b : BitVec 4) (w : Bool) (v : Bool) : Statement (.remu d a b w v) := by
  intro _ hw
  have hl_d : d.toNat < 16 := d.isLt
  have hl_a : a.toNat < 16 := a.isLt
  have hl_b : b.toNat < 16 := b.isLt
  have hl_w := bool_lt w
  have hl_v := bool_lt v
  change decode [wordA 0x01 8 d.toNat a.toNat b.toNat w.toNat v.toNat 0] = _
  obtain ⟨e0, e1, e2, f21_18, f17_14, f13_10, f9_9, f8_8, f7_0⟩ := fieldsA 0x01 8 d.toNat a.toNat b.toNat w.toNat v.toNat 0 (by omega) (by omega) (by omega) (by omega) (by omega) (by omega) (by omega) (by omega)
  generalize wordA 0x01 8 d.toNat a.toNat b.toNat w.toNat v.toNat 0 = y at *
  refine decode_ok e0 (by rw [e1]; decide) ?_
  rw [inG01 e1]
  unfold decG01
  rw [e2]
  simp [chk, *]
theorem and (d : BitVec 4) (a : BitVec 4) (b : BitVec 4) (w : Bool) (v : Bool) : Statement (.and d a b w v) := by
  intro _ hw
  have hl_d : d.toNat < 16 := d.isLt
  have hl_a : a.toNat < 16 := a.isLt
  have hl_b : b.toNat < 16 := b.isLt
  have hl_w := bool_lt w
  have hl_v := bool_lt v
  change decode [wordA 0x01 9 d.toNat a.toNat b.toNat w.toNat v.toNat 0] = _
  obtain ⟨e0, e1, e2, f21_18, f17_14, f13_10, f9_9, f8_8, f7_0⟩ := fieldsA 0x01 9 d.toNat a.toNat b.toNat w.toNat v.toNat 0 (by omega) (by omega) (by omega) (by omega) (by omega) (by omega) (by omega) (by omega)
  generalize wordA 0x01 9 d.toNat a.toNat b.toNat w.toNat v.toNat 0 = y at *
  refine decode_ok e0 (by rw [e1]; decide) ?_
  rw [inG01 e1]
  unfold decG01
  rw [e2]
  simp [chk, *]
theorem or (d : BitVec 4) (a : BitVec 4) (b : BitVec 4) (w : Bool) (v : Bool) : Statement (.or d a b w v) := by
  intro _ hw
  have hl_d : d.toNat < 16 := d.isLt
  have hl_a : a.toNat < 16 := a.isLt
  have hl_b : b.toNat < 16 := b.isLt
  have hl_w := bool_lt w
  have hl_v := bool_lt v
  change decode [wordA 0x01 10 d.toNat a.toNat b.toNat w.toNat v.toNat 0] = _
  obtain ⟨e0, e1, e2, f21_18, f17_14, f13_10, f9_9, f8_8, f7_0⟩ := fieldsA 0x01 10 d.toNat a.toNat b.toNat w.toNat v.toNat 0 (by omega) (by omega) (by omega) (by omega) (by omega) (by omega) (by omega) (by omega)
  generalize wordA 0x01 10 d.toNat a.toNat b.toNat w.toNat v.toNat 0 = y at *
  refine decode_ok e0 (by rw [e1]; decide) ?_
  rw [inG01 e1]
  unfold decG01
  rw [e2]
  simp [chk, *]
theorem xor (d : BitVec 4) (a : BitVec 4) (b : BitVec 4) (w : Bool) (v : Bool) : Statement (.xor d a b w v) := by
  intro _ hw
  have hl_d : d.toNat < 16 := d.isLt
  have hl_a : a.toNat < 16 := a.isLt
  have hl_b : b.toNat < 16 := b.isLt
  have hl_w := bool_lt w
  have hl_v := bool_lt v
  change decode [wordA 0x01 11 d.toNat a.toNat b.toNat w.toNat v.toNat 0] = _
  obtain ⟨e0, e1, e2, f21_18, f17_14, f13_10, f9_9, f8_8, f7_0⟩ := fieldsA 0x01 11 d.toNat a.toNat b.toNat w.toNat v.toNat 0 (by omega) (by omega) (by omega) (by omega) (by omega) (by omega) (by omega) (by omega)
  generalize wordA 0x01 11 d.toNat a.toNat b.toNat w.toNat v.toNat 0 = y at *
  refine decode_ok e0 (by rw [e1]; decide) ?_
  rw [inG01 e1]
  unfold decG01
  rw [e2]
  simp [chk, *]
theorem andn (d : BitVec 4) (a : BitVec 4) (b : BitVec 4) (w : Bool) (v : Bool) : Statement (.andn d a b w v) := by
  intro _ hw
  have hl_d : d.toNat < 16 := d.isLt
  have hl_a : a.toNat < 16 := a.isLt
  have hl_b : b.toNat < 16 := b.isLt
  have hl_w := bool_lt w
  have hl_v := bool_lt v
  change decode [wordA 0x01 12 d.toNat a.toNat b.toNat w.toNat v.toNat 0] = _
  obtain ⟨e0, e1, e2, f21_18, f17_14, f13_10, f9_9, f8_8, f7_0⟩ := fieldsA 0x01 12 d.toNat a.toNat b.toNat w.toNat v.toNat 0 (by omega) (by omega) (by omega) (by omega) (by omega) (by omega) (by omega) (by omega)
  generalize wordA 0x01 12 d.toNat a.toNat b.toNat w.toNat v.toNat 0 = y at *
  refine decode_ok e0 (by rw [e1]; decide) ?_
  rw [inG01 e1]
  unfold decG01
  rw [e2]
  simp [chk, *]
theorem sll (d : BitVec 4) (a : BitVec 4) (b : BitVec 4) (w : Bool) (v : Bool) : Statement (.sll d a b w v) := by
  intro _ hw
  have hl_d : d.toNat < 16 := d.isLt
  have hl_a : a.toNat < 16 := a.isLt
  have hl_b : b.toNat < 16 := b.isLt
  have hl_w := bool_lt w
  have hl_v := bool_lt v
  change decode [wordA 0x01 13 d.toNat a.toNat b.toNat w.toNat v.toNat 0] = _
  obtain ⟨e0, e1, e2, f21_18, f17_14, f13_10, f9_9, f8_8, f7_0⟩ := fieldsA 0x01 13 d.toNat a.toNat b.toNat w.toNat v.toNat 0 (by omega) (by omega) (by omega) (by omega) (by omega) (by omega) (by omega) (by omega)
  generalize wordA 0x01 13 d.toNat a.toNat b.toNat w.toNat v.toNat 0 = y at *
  refine decode_ok e0 (by rw [e1]; decide) ?_
  rw [inG01 e1]
  unfold decG01
  rw [e2]
  simp [chk, *]
theorem srl (d : BitVec 4) (a : BitVec 4) (b : BitVec 4) (w : Bool) (v : Bool) : Statement (.srl d a b w v) := by
  intro _ hw
  have hl_d : d.toNat < 16 := d.isLt
  have hl_a : a.toNat < 16 := a.isLt
  have hl_b : b.toNat < 16 := b.isLt
  have hl_w := bool_lt w
  have hl_v := bool_lt v
  change decode [wordA 0x01 14 d.toNat a.toNat b.toNat w.toNat v.toNat 0] = _
  obtain ⟨e0, e1, e2, f21_18, f17_14, f13_10, f9_9, f8_8, f7_0⟩ := fieldsA 0x01 14 d.toNat a.toNat b.toNat w.toNat v.toNat 0 (by omega) (by omega) (by omega) (by omega) (by omega) (by omega) (by omega) (by omega)
  generalize wordA 0x01 14 d.toNat a.toNat b.toNat w.toNat v.toNat 0 = y at *
  refine decode_ok e0 (by rw [e1]; decide) ?_
  rw [inG01 e1]
  unfold decG01
  rw [e2]
  simp [chk, *]
theorem sra (d : BitVec 4) (a : BitVec 4) (b : BitVec 4) (w : Bool) (v : Bool) : Statement (.sra d a b w v) := by
  intro _ hw
  have hl_d : d.toNat < 16 := d.isLt
  have hl_a : a.toNat < 16 := a.isLt
  have hl_b : b.toNat < 16 := b.isLt
  have hl_w := bool_lt w
  have hl_v := bool_lt v
  change decode [wordA 0x01 15 d.toNat a.toNat b.toNat w.toNat v.toNat 0] = _
  obtain ⟨e0, e1, e2, f21_18, f17_14, f13_10, f9_9, f8_8, f7_0⟩ := fieldsA 0x01 15 d.toNat a.toNat b.toNat w.toNat v.toNat 0 (by omega) (by omega) (by omega) (by omega) (by omega) (by omega) (by omega) (by omega)
  generalize wordA 0x01 15 d.toNat a.toNat b.toNat w.toNat v.toNat 0 = y at *
  refine decode_ok e0 (by rw [e1]; decide) ?_
  rw [inG01 e1]
  unfold decG01
  rw [e2]
  simp [chk, *]
theorem slt (d : BitVec 4) (a : BitVec 4) (b : BitVec 4) (w : Bool) (v : Bool) : Statement (.slt d a b w v) := by
  intro _ hw
  have hl_d : d.toNat < 16 := d.isLt
  have hl_a : a.toNat < 16 := a.isLt
  have hl_b : b.toNat < 16 := b.isLt
  have hl_w := bool_lt w
  have hl_v := bool_lt v
  change decode [wordA 0x01 16 d.toNat a.toNat b.toNat w.toNat v.toNat 0] = _
  obtain ⟨e0, e1, e2, f21_18, f17_14, f13_10, f9_9, f8_8, f7_0⟩ := fieldsA 0x01 16 d.toNat a.toNat b.toNat w.toNat v.toNat 0 (by omega) (by omega) (by omega) (by omega) (by omega) (by omega) (by omega) (by omega)
  generalize wordA 0x01 16 d.toNat a.toNat b.toNat w.toNat v.toNat 0 = y at *
  refine decode_ok e0 (by rw [e1]; decide) ?_
  rw [inG01 e1]
  unfold decG01
  rw [e2]
  simp [chk, *]
theorem sltu (d : BitVec 4) (a : BitVec 4) (b : BitVec 4) (w : Bool) (v : Bool) : Statement (.sltu d a b w v) := by
  intro _ hw
  have hl_d : d.toNat < 16 := d.isLt
  have hl_a : a.toNat < 16 := a.isLt
  have hl_b : b.toNat < 16 := b.isLt
  have hl_w := bool_lt w
  have hl_v := bool_lt v
  change decode [wordA 0x01 17 d.toNat a.toNat b.toNat w.toNat v.toNat 0] = _
  obtain ⟨e0, e1, e2, f21_18, f17_14, f13_10, f9_9, f8_8, f7_0⟩ := fieldsA 0x01 17 d.toNat a.toNat b.toNat w.toNat v.toNat 0 (by omega) (by omega) (by omega) (by omega) (by omega) (by omega) (by omega) (by omega)
  generalize wordA 0x01 17 d.toNat a.toNat b.toNat w.toNat v.toNat 0 = y at *
  refine decode_ok e0 (by rw [e1]; decide) ?_
  rw [inG01 e1]
  unfold decG01
  rw [e2]
  simp [chk, *]
theorem min (d : BitVec 4) (a : BitVec 4) (b : BitVec 4) (w : Bool) (v : Bool) : Statement (.min d a b w v) := by
  intro _ hw
  have hl_d : d.toNat < 16 := d.isLt
  have hl_a : a.toNat < 16 := a.isLt
  have hl_b : b.toNat < 16 := b.isLt
  have hl_w := bool_lt w
  have hl_v := bool_lt v
  change decode [wordA 0x01 18 d.toNat a.toNat b.toNat w.toNat v.toNat 0] = _
  obtain ⟨e0, e1, e2, f21_18, f17_14, f13_10, f9_9, f8_8, f7_0⟩ := fieldsA 0x01 18 d.toNat a.toNat b.toNat w.toNat v.toNat 0 (by omega) (by omega) (by omega) (by omega) (by omega) (by omega) (by omega) (by omega)
  generalize wordA 0x01 18 d.toNat a.toNat b.toNat w.toNat v.toNat 0 = y at *
  refine decode_ok e0 (by rw [e1]; decide) ?_
  rw [inG01 e1]
  unfold decG01
  rw [e2]
  simp [chk, *]
theorem max (d : BitVec 4) (a : BitVec 4) (b : BitVec 4) (w : Bool) (v : Bool) : Statement (.max d a b w v) := by
  intro _ hw
  have hl_d : d.toNat < 16 := d.isLt
  have hl_a : a.toNat < 16 := a.isLt
  have hl_b : b.toNat < 16 := b.isLt
  have hl_w := bool_lt w
  have hl_v := bool_lt v
  change decode [wordA 0x01 19 d.toNat a.toNat b.toNat w.toNat v.toNat 0] = _
  obtain ⟨e0, e1, e2, f21_18, f17_14, f13_10, f9_9, f8_8, f7_0⟩ := fieldsA 0x01 19 d.toNat a.toNat b.toNat w.toNat v.toNat 0 (by omega) (by omega) (by omega) (by omega) (by omega) (by omega) (by omega) (by omega)
  generalize wordA 0x01 19 d.toNat a.toNat b.toNat w.toNat v.toNat 0 = y at *
  refine decode_ok e0 (by rw [e1]; decide) ?_
  rw [inG01 e1]
  unfold decG01
  rw [e2]
  simp [chk, *]
theorem minu (d : BitVec 4) (a : BitVec 4) (b : BitVec 4) (w : Bool) (v : Bool) : Statement (.minu d a b w v) := by
  intro _ hw
  have hl_d : d.toNat < 16 := d.isLt
  have hl_a : a.toNat < 16 := a.isLt
  have hl_b : b.toNat < 16 := b.isLt
  have hl_w := bool_lt w
  have hl_v := bool_lt v
  change decode [wordA 0x01 20 d.toNat a.toNat b.toNat w.toNat v.toNat 0] = _
  obtain ⟨e0, e1, e2, f21_18, f17_14, f13_10, f9_9, f8_8, f7_0⟩ := fieldsA 0x01 20 d.toNat a.toNat b.toNat w.toNat v.toNat 0 (by omega) (by omega) (by omega) (by omega) (by omega) (by omega) (by omega) (by omega)
  generalize wordA 0x01 20 d.toNat a.toNat b.toNat w.toNat v.toNat 0 = y at *
  refine decode_ok e0 (by rw [e1]; decide) ?_
  rw [inG01 e1]
  unfold decG01
  rw [e2]
  simp [chk, *]
theorem maxu (d : BitVec 4) (a : BitVec 4) (b : BitVec 4) (w : Bool) (v : Bool) : Statement (.maxu d a b w v) := by
  intro _ hw
  have hl_d : d.toNat < 16 := d.isLt
  have hl_a : a.toNat < 16 := a.isLt
  have hl_b : b.toNat < 16 := b.isLt
  have hl_w := bool_lt w
  have hl_v := bool_lt v
  change decode [wordA 0x01 21 d.toNat a.toNat b.toNat w.toNat v.toNat 0] = _
  obtain ⟨e0, e1, e2, f21_18, f17_14, f13_10, f9_9, f8_8, f7_0⟩ := fieldsA 0x01 21 d.toNat a.toNat b.toNat w.toNat v.toNat 0 (by omega) (by omega) (by omega) (by omega) (by omega) (by omega) (by omega) (by omega)
  generalize wordA 0x01 21 d.toNat a.toNat b.toNat w.toNat v.toNat 0 = y at *
  refine decode_ok e0 (by rw [e1]; decide) ?_
  rw [inG01 e1]
  unfold decG01
  rw [e2]
  simp [chk, *]
theorem clz (d : BitVec 4) (a : BitVec 4) (w : Bool) : Statement (.clz d a w) := by
  intro _ hw
  have hl_d : d.toNat < 16 := d.isLt
  have hl_a : a.toNat < 16 := a.isLt
  have hl_w := bool_lt w
  change decode [wordA 0x01 22 d.toNat a.toNat 0 w.toNat 0 0] = _
  obtain ⟨e0, e1, e2, f21_18, f17_14, f13_10, f9_9, f8_8, f7_0⟩ := fieldsA 0x01 22 d.toNat a.toNat 0 w.toNat 0 0 (by omega) (by omega) (by omega) (by omega) (by omega) (by omega) (by omega) (by omega)
  generalize wordA 0x01 22 d.toNat a.toNat 0 w.toNat 0 0 = y at *
  refine decode_ok e0 (by rw [e1]; decide) ?_
  rw [inG01 e1]
  unfold decG01
  rw [e2]
  simp [chk, *]
theorem ctz (d : BitVec 4) (a : BitVec 4) (w : Bool) : Statement (.ctz d a w) := by
  intro _ hw
  have hl_d : d.toNat < 16 := d.isLt
  have hl_a : a.toNat < 16 := a.isLt
  have hl_w := bool_lt w
  change decode [wordA 0x01 23 d.toNat a.toNat 0 w.toNat 0 0] = _
  obtain ⟨e0, e1, e2, f21_18, f17_14, f13_10, f9_9, f8_8, f7_0⟩ := fieldsA 0x01 23 d.toNat a.toNat 0 w.toNat 0 0 (by omega) (by omega) (by omega) (by omega) (by omega) (by omega) (by omega) (by omega)
  generalize wordA 0x01 23 d.toNat a.toNat 0 w.toNat 0 0 = y at *
  refine decode_ok e0 (by rw [e1]; decide) ?_
  rw [inG01 e1]
  unfold decG01
  rw [e2]
  simp [chk, *]
theorem popc (d : BitVec 4) (a : BitVec 4) (w : Bool) : Statement (.popc d a w) := by
  intro _ hw
  have hl_d : d.toNat < 16 := d.isLt
  have hl_a : a.toNat < 16 := a.isLt
  have hl_w := bool_lt w
  change decode [wordA 0x01 24 d.toNat a.toNat 0 w.toNat 0 0] = _
  obtain ⟨e0, e1, e2, f21_18, f17_14, f13_10, f9_9, f8_8, f7_0⟩ := fieldsA 0x01 24 d.toNat a.toNat 0 w.toNat 0 0 (by omega) (by omega) (by omega) (by omega) (by omega) (by omega) (by omega) (by omega)
  generalize wordA 0x01 24 d.toNat a.toNat 0 w.toNat 0 0 = y at *
  refine decode_ok e0 (by rw [e1]; decide) ?_
  rw [inG01 e1]
  unfold decG01
  rw [e2]
  simp [chk, *]
theorem mov (d : BitVec 4) (a : BitVec 4) (w : Bool) : Statement (.mov d a w) := by
  intro _ hw
  have hl_d : d.toNat < 16 := d.isLt
  have hl_a : a.toNat < 16 := a.isLt
  have hl_w := bool_lt w
  change decode [wordA 0x01 25 d.toNat a.toNat 0 w.toNat 0 0] = _
  obtain ⟨e0, e1, e2, f21_18, f17_14, f13_10, f9_9, f8_8, f7_0⟩ := fieldsA 0x01 25 d.toNat a.toNat 0 w.toNat 0 0 (by omega) (by omega) (by omega) (by omega) (by omega) (by omega) (by omega) (by omega)
  generalize wordA 0x01 25 d.toNat a.toNat 0 w.toNat 0 0 = y at *
  refine decode_ok e0 (by rw [e1]; decide) ?_
  rw [inG01 e1]
  unfold decG01
  rw [e2]
  simp [chk, *]
theorem sext (d : BitVec 4) (a : BitVec 4) (w : Bool) (n : ExtWidth) : Statement (.sext d a w n) := by
  intro _ hw
  have hl_d : d.toNat < 16 := d.isLt
  have hl_a : a.toNat < 16 := a.isLt
  have hl_w := bool_lt w
  have hl_n := ExtWidth_code_lt n
  change decode [wordA 0x01 26 d.toNat a.toNat 0 w.toNat 0 n.code] = _
  obtain ⟨e0, e1, e2, f21_18, f17_14, f13_10, f9_9, f8_8, f7_0⟩ := fieldsA 0x01 26 d.toNat a.toNat 0 w.toNat 0 n.code (by omega) (by omega) (by omega) (by omega) (by omega) (by omega) (by omega) (by omega)
  generalize wordA 0x01 26 d.toNat a.toNat 0 w.toNat 0 n.code = y at *
  refine decode_ok e0 (by rw [e1]; decide) ?_
  rw [inG01 e1]
  unfold decG01
  rw [e2]
  simp [chk, *]
theorem zext (d : BitVec 4) (a : BitVec 4) (w : Bool) (n : ExtWidth) : Statement (.zext d a w n) := by
  intro _ hw
  have hl_d : d.toNat < 16 := d.isLt
  have hl_a : a.toNat < 16 := a.isLt
  have hl_w := bool_lt w
  have hl_n := ExtWidth_code_lt n
  change decode [wordA 0x01 27 d.toNat a.toNat 0 w.toNat 0 n.code] = _
  obtain ⟨e0, e1, e2, f21_18, f17_14, f13_10, f9_9, f8_8, f7_0⟩ := fieldsA 0x01 27 d.toNat a.toNat 0 w.toNat 0 n.code (by omega) (by omega) (by omega) (by omega) (by omega) (by omega) (by omega) (by omega)
  generalize wordA 0x01 27 d.toNat a.toNat 0 w.toNat 0 n.code = y at *
  refine decode_ok e0 (by rw [e1]; decide) ?_
  rw [inG01 e1]
  unfold decG01
  rw [e2]
  simp [chk, *]
theorem addi (d : BitVec 4) (a : BitVec 4) (w : Bool) (i : BitVec 15) : Statement (.addi d a w i) := by
  intro _ hw
  have hl_d : d.toNat < 16 := d.isLt
  have hl_a : a.toNat < 16 := a.isLt
  have hl_w := bool_lt w
  have hl_i : i.toNat < 32768 := i.isLt
  change decode [wordI 0x02 0 d.toNat a.toNat w.toNat i.toNat] = _
  obtain ⟨e0, e1, e2, f23_20, f19_16, f15_15, f14_0⟩ := fieldsI 0x02 0 d.toNat a.toNat w.toNat i.toNat (by omega) (by omega) (by omega) (by omega) (by omega) (by omega)
  generalize wordI 0x02 0 d.toNat a.toNat w.toNat i.toNat = y at *
  refine decode_ok e0 (by rw [e1]; decide) ?_
  rw [inG02 e1]
  unfold decG02
  rw [e2]
  simp [*]
theorem andi (d : BitVec 4) (a : BitVec 4) (w : Bool) (i : BitVec 15) : Statement (.andi d a w i) := by
  intro _ hw
  have hl_d : d.toNat < 16 := d.isLt
  have hl_a : a.toNat < 16 := a.isLt
  have hl_w := bool_lt w
  have hl_i : i.toNat < 32768 := i.isLt
  change decode [wordI 0x02 1 d.toNat a.toNat w.toNat i.toNat] = _
  obtain ⟨e0, e1, e2, f23_20, f19_16, f15_15, f14_0⟩ := fieldsI 0x02 1 d.toNat a.toNat w.toNat i.toNat (by omega) (by omega) (by omega) (by omega) (by omega) (by omega)
  generalize wordI 0x02 1 d.toNat a.toNat w.toNat i.toNat = y at *
  refine decode_ok e0 (by rw [e1]; decide) ?_
  rw [inG02 e1]
  unfold decG02
  rw [e2]
  simp [*]
theorem ori (d : BitVec 4) (a : BitVec 4) (w : Bool) (i : BitVec 15) : Statement (.ori d a w i) := by
  intro _ hw
  have hl_d : d.toNat < 16 := d.isLt
  have hl_a : a.toNat < 16 := a.isLt
  have hl_w := bool_lt w
  have hl_i : i.toNat < 32768 := i.isLt
  change decode [wordI 0x02 2 d.toNat a.toNat w.toNat i.toNat] = _
  obtain ⟨e0, e1, e2, f23_20, f19_16, f15_15, f14_0⟩ := fieldsI 0x02 2 d.toNat a.toNat w.toNat i.toNat (by omega) (by omega) (by omega) (by omega) (by omega) (by omega)
  generalize wordI 0x02 2 d.toNat a.toNat w.toNat i.toNat = y at *
  refine decode_ok e0 (by rw [e1]; decide) ?_
  rw [inG02 e1]
  unfold decG02
  rw [e2]
  simp [*]
theorem xori (d : BitVec 4) (a : BitVec 4) (w : Bool) (i : BitVec 15) : Statement (.xori d a w i) := by
  intro _ hw
  have hl_d : d.toNat < 16 := d.isLt
  have hl_a : a.toNat < 16 := a.isLt
  have hl_w := bool_lt w
  have hl_i : i.toNat < 32768 := i.isLt
  change decode [wordI 0x02 3 d.toNat a.toNat w.toNat i.toNat] = _
  obtain ⟨e0, e1, e2, f23_20, f19_16, f15_15, f14_0⟩ := fieldsI 0x02 3 d.toNat a.toNat w.toNat i.toNat (by omega) (by omega) (by omega) (by omega) (by omega) (by omega)
  generalize wordI 0x02 3 d.toNat a.toNat w.toNat i.toNat = y at *
  refine decode_ok e0 (by rw [e1]; decide) ?_
  rw [inG02 e1]
  unfold decG02
  rw [e2]
  simp [*]
theorem slli (d : BitVec 4) (a : BitVec 4) (w : Bool) (i : BitVec 6) : Statement (.slli d a w i) := by
  intro _ hw
  have hl_d : d.toNat < 16 := d.isLt
  have hl_a : a.toNat < 16 := a.isLt
  have hl_w := bool_lt w
  have hl_i : i.toNat < 64 := i.isLt
  change decode [wordI 0x02 4 d.toNat a.toNat w.toNat i.toNat] = _
  obtain ⟨e0, e1, e2, f23_20, f19_16, f15_15, f14_0⟩ := fieldsI 0x02 4 d.toNat a.toNat w.toNat i.toNat (by omega) (by omega) (by omega) (by omega) (by omega) (by omega)
  generalize wordI 0x02 4 d.toNat a.toNat w.toNat i.toNat = y at *
  refine decode_ok e0 (by rw [e1]; decide) ?_
  rw [inG02 e1]
  unfold decG02
  rw [e2]
  simp [chk, *]
theorem srli (d : BitVec 4) (a : BitVec 4) (w : Bool) (i : BitVec 6) : Statement (.srli d a w i) := by
  intro _ hw
  have hl_d : d.toNat < 16 := d.isLt
  have hl_a : a.toNat < 16 := a.isLt
  have hl_w := bool_lt w
  have hl_i : i.toNat < 64 := i.isLt
  change decode [wordI 0x02 5 d.toNat a.toNat w.toNat i.toNat] = _
  obtain ⟨e0, e1, e2, f23_20, f19_16, f15_15, f14_0⟩ := fieldsI 0x02 5 d.toNat a.toNat w.toNat i.toNat (by omega) (by omega) (by omega) (by omega) (by omega) (by omega)
  generalize wordI 0x02 5 d.toNat a.toNat w.toNat i.toNat = y at *
  refine decode_ok e0 (by rw [e1]; decide) ?_
  rw [inG02 e1]
  unfold decG02
  rw [e2]
  simp [chk, *]
theorem srai (d : BitVec 4) (a : BitVec 4) (w : Bool) (i : BitVec 6) : Statement (.srai d a w i) := by
  intro _ hw
  have hl_d : d.toNat < 16 := d.isLt
  have hl_a : a.toNat < 16 := a.isLt
  have hl_w := bool_lt w
  have hl_i : i.toNat < 64 := i.isLt
  change decode [wordI 0x02 6 d.toNat a.toNat w.toNat i.toNat] = _
  obtain ⟨e0, e1, e2, f23_20, f19_16, f15_15, f14_0⟩ := fieldsI 0x02 6 d.toNat a.toNat w.toNat i.toNat (by omega) (by omega) (by omega) (by omega) (by omega) (by omega)
  generalize wordI 0x02 6 d.toNat a.toNat w.toNat i.toNat = y at *
  refine decode_ok e0 (by rw [e1]; decide) ?_
  rw [inG02 e1]
  unfold decG02
  rw [e2]
  simp [chk, *]
theorem slti (d : BitVec 4) (a : BitVec 4) (w : Bool) (i : BitVec 15) : Statement (.slti d a w i) := by
  intro _ hw
  have hl_d : d.toNat < 16 := d.isLt
  have hl_a : a.toNat < 16 := a.isLt
  have hl_w := bool_lt w
  have hl_i : i.toNat < 32768 := i.isLt
  change decode [wordI 0x02 7 d.toNat a.toNat w.toNat i.toNat] = _
  obtain ⟨e0, e1, e2, f23_20, f19_16, f15_15, f14_0⟩ := fieldsI 0x02 7 d.toNat a.toNat w.toNat i.toNat (by omega) (by omega) (by omega) (by omega) (by omega) (by omega)
  generalize wordI 0x02 7 d.toNat a.toNat w.toNat i.toNat = y at *
  refine decode_ok e0 (by rw [e1]; decide) ?_
  rw [inG02 e1]
  unfold decG02
  rw [e2]
  simp [*]
theorem li (d : BitVec 4) (i : BitVec 15) : Statement (.li d i) := by
  intro _ hw
  have hl_d : d.toNat < 16 := d.isLt
  have hl_i : i.toNat < 32768 := i.isLt
  change decode [wordI 0x03 0 d.toNat 0 0 i.toNat] = _
  obtain ⟨e0, e1, e2, f23_20, f19_16, f15_15, f14_0⟩ := fieldsI 0x03 0 d.toNat 0 0 i.toNat (by omega) (by omega) (by omega) (by omega) (by omega) (by omega)
  generalize wordI 0x03 0 d.toNat 0 0 i.toNat = y at *
  refine decode_ok e0 (by rw [e1]; decide) ?_
  rw [inG03 e1]
  unfold decG03
  rw [e2]
  simp [chk, *]
theorem liS15 (d : BitVec 4) (w : Bool) (i : BitVec 15) : Statement (.liS15 d w i) := by
  intro _ hw
  have hl_d : d.toNat < 16 := d.isLt
  have hl_w := bool_lt w
  have hl_i : i.toNat < 32768 := i.isLt
  change decode [wordI 0x03 1 d.toNat 0 w.toNat i.toNat] = _
  obtain ⟨e0, e1, e2, f23_20, f19_16, f15_15, f14_0⟩ := fieldsI 0x03 1 d.toNat 0 w.toNat i.toNat (by omega) (by omega) (by omega) (by omega) (by omega) (by omega)
  generalize wordI 0x03 1 d.toNat 0 w.toNat i.toNat = y at *
  refine decode_ok e0 (by rw [e1]; decide) ?_
  rw [inG03 e1]
  unfold decG03
  rw [e2]
  simp [chk, *]
theorem liS30 (d : BitVec 4) (w : Bool) (i : BitVec 15) : Statement (.liS30 d w i) := by
  intro _ hw
  have hl_d : d.toNat < 16 := d.isLt
  have hl_w := bool_lt w
  have hl_i : i.toNat < 32768 := i.isLt
  change decode [wordI 0x03 2 d.toNat 0 w.toNat i.toNat] = _
  obtain ⟨e0, e1, e2, f23_20, f19_16, f15_15, f14_0⟩ := fieldsI 0x03 2 d.toNat 0 w.toNat i.toNat (by omega) (by omega) (by omega) (by omega) (by omega) (by omega)
  generalize wordI 0x03 2 d.toNat 0 w.toNat i.toNat = y at *
  refine decode_ok e0 (by rw [e1]; decide) ?_
  rw [inG03 e1]
  unfold decG03
  rw [e2]
  simp [chk, *]
theorem liS45 (d : BitVec 4) (w : Bool) (i : BitVec 15) : Statement (.liS45 d w i) := by
  intro _ hw
  have hl_d : d.toNat < 16 := d.isLt
  have hl_w := bool_lt w
  have hl_i : i.toNat < 32768 := i.isLt
  change decode [wordI 0x03 3 d.toNat 0 w.toNat i.toNat] = _
  obtain ⟨e0, e1, e2, f23_20, f19_16, f15_15, f14_0⟩ := fieldsI 0x03 3 d.toNat 0 w.toNat i.toNat (by omega) (by omega) (by omega) (by omega) (by omega) (by omega)
  generalize wordI 0x03 3 d.toNat 0 w.toNat i.toNat = y at *
  refine decode_ok e0 (by rw [e1]; decide) ?_
  rw [inG03 e1]
  unfold decG03
  rw [e2]
  simp [chk, *]
theorem liS60 (d : BitVec 4) (w : Bool) (i : BitVec 4) : Statement (.liS60 d w i) := by
  intro _ hw
  have hl_d : d.toNat < 16 := d.isLt
  have hl_w := bool_lt w
  have hl_i : i.toNat < 16 := i.isLt
  change decode [wordI 0x03 4 d.toNat 0 w.toNat i.toNat] = _
  obtain ⟨e0, e1, e2, f23_20, f19_16, f15_15, f14_0⟩ := fieldsI 0x03 4 d.toNat 0 w.toNat i.toNat (by omega) (by omega) (by omega) (by omega) (by omega) (by omega)
  generalize wordI 0x03 4 d.toNat 0 w.toNat i.toNat = y at *
  refine decode_ok e0 (by rw [e1]; decide) ?_
  rw [inG03 e1]
  unfold decG03
  rw [e2]
  simp [chk, *]
theorem bMov (d : BitVec 3) (a : BitVec 3) : Statement (.bMov d a) := by
  intro _ hw
  have hl_d : d.toNat < 8 := d.isLt
  have hl_a : a.toNat < 8 := a.isLt
  change decode [wordA 0x04 0 d.toNat a.toNat 0 0 0 0] = _
  obtain ⟨e0, e1, e2, f21_18, f17_14, f13_10, f9_9, f8_8, f7_0⟩ := fieldsA 0x04 0 d.toNat a.toNat 0 0 0 0 (by omega) (by omega) (by omega) (by omega) (by omega) (by omega) (by omega) (by omega)
  generalize wordA 0x04 0 d.toNat a.toNat 0 0 0 0 = y at *
  refine decode_ok e0 (by rw [e1]; decide) ?_
  rw [inG04 e1]
  unfold decG04
  rw [e2]
  simp [chk, *]
theorem bAdd (d : BitVec 3) (a : BitVec 3) (b : BitVec 4) (v : Bool) : Statement (.bAdd d a b v) := by
  intro _ hw
  have hl_d : d.toNat < 8 := d.isLt
  have hl_a : a.toNat < 8 := a.isLt
  have hl_b : b.toNat < 16 := b.isLt
  have hl_v := bool_lt v
  change decode [wordA 0x04 1 d.toNat a.toNat b.toNat 0 v.toNat 0] = _
  obtain ⟨e0, e1, e2, f21_18, f17_14, f13_10, f9_9, f8_8, f7_0⟩ := fieldsA 0x04 1 d.toNat a.toNat b.toNat 0 v.toNat 0 (by omega) (by omega) (by omega) (by omega) (by omega) (by omega) (by omega) (by omega)
  generalize wordA 0x04 1 d.toNat a.toNat b.toNat 0 v.toNat 0 = y at *
  refine decode_ok e0 (by rw [e1]; decide) ?_
  rw [inG04 e1]
  unfold decG04
  rw [e2]
  simp [chk, *]
theorem bAddi (d : BitVec 3) (a : BitVec 3) (n : BitVec 8) : Statement (.bAddi d a n) := by
  intro _ hw
  have hl_d : d.toNat < 8 := d.isLt
  have hl_a : a.toNat < 8 := a.isLt
  have hl_n : n.toNat < 256 := n.isLt
  change decode [wordA 0x04 2 d.toNat a.toNat 0 0 0 n.toNat] = _
  obtain ⟨e0, e1, e2, f21_18, f17_14, f13_10, f9_9, f8_8, f7_0⟩ := fieldsA 0x04 2 d.toNat a.toNat 0 0 0 n.toNat (by omega) (by omega) (by omega) (by omega) (by omega) (by omega) (by omega) (by omega)
  generalize wordA 0x04 2 d.toNat a.toNat 0 0 0 n.toNat = y at *
  refine decode_ok e0 (by rw [e1]; decide) ?_
  rw [inG04 e1]
  unfold decG04
  rw [e2]
  simp [chk, *]
theorem bWin (d : BitVec 3) (a : BitVec 4) (b : BitVec 4) (w : Bool) (v : Bool) : Statement (.bWin d a b w v) := by
  intro _ hw
  have hl_d : d.toNat < 8 := d.isLt
  have hl_a : a.toNat < 16 := a.isLt
  have hl_b : b.toNat < 16 := b.isLt
  have hl_w := bool_lt w
  have hl_v := bool_lt v
  change decode [wordA 0x04 3 d.toNat a.toNat b.toNat w.toNat v.toNat 0] = _
  obtain ⟨e0, e1, e2, f21_18, f17_14, f13_10, f9_9, f8_8, f7_0⟩ := fieldsA 0x04 3 d.toNat a.toNat b.toNat w.toNat v.toNat 0 (by omega) (by omega) (by omega) (by omega) (by omega) (by omega) (by omega) (by omega)
  generalize wordA 0x04 3 d.toNat a.toNat b.toNat w.toNat v.toNat 0 = y at *
  refine decode_ok e0 (by rw [e1]; decide) ?_
  rw [inG04 e1]
  unfold decG04
  rw [e2]
  simp [chk, *]
theorem bGet (d : BitVec 4) (a : BitVec 3) : Statement (.bGet d a) := by
  intro _ hw
  have hl_d : d.toNat < 16 := d.isLt
  have hl_a : a.toNat < 8 := a.isLt
  change decode [wordA 0x04 4 d.toNat a.toNat 0 0 0 0] = _
  obtain ⟨e0, e1, e2, f21_18, f17_14, f13_10, f9_9, f8_8, f7_0⟩ := fieldsA 0x04 4 d.toNat a.toNat 0 0 0 0 (by omega) (by omega) (by omega) (by omega) (by omega) (by omega) (by omega) (by omega)
  generalize wordA 0x04 4 d.toNat a.toNat 0 0 0 0 = y at *
  refine decode_ok e0 (by rw [e1]; decide) ?_
  rw [inG04 e1]
  unfold decG04
  rw [e2]
  simp [chk, *]
theorem bGwin (d : BitVec 4) (a : BitVec 3) : Statement (.bGwin d a) := by
  intro _ hw
  have hl_d : d.toNat < 16 := d.isLt
  have hl_a : a.toNat < 8 := a.isLt
  change decode [wordA 0x04 5 d.toNat a.toNat 0 0 0 0] = _
  obtain ⟨e0, e1, e2, f21_18, f17_14, f13_10, f9_9, f8_8, f7_0⟩ := fieldsA 0x04 5 d.toNat a.toNat 0 0 0 0 (by omega) (by omega) (by omega) (by omega) (by omega) (by omega) (by omega) (by omega)
  generalize wordA 0x04 5 d.toNat a.toNat 0 0 0 0 = y at *
  refine decode_ok e0 (by rw [e1]; decide) ?_
  rw [inG04 e1]
  unfold decG04
  rw [e2]
  simp [chk, *]
theorem bCpy (d : BitVec 3) (a : BitVec 3) (b : BitVec 4) (v : Bool) : Statement (.bCpy d a b v) := by
  intro _ hw
  have hl_d : d.toNat < 8 := d.isLt
  have hl_a : a.toNat < 8 := a.isLt
  have hl_b : b.toNat < 16 := b.isLt
  have hl_v := bool_lt v
  change decode [wordA 0x04 6 d.toNat a.toNat b.toNat 0 v.toNat 0] = _
  obtain ⟨e0, e1, e2, f21_18, f17_14, f13_10, f9_9, f8_8, f7_0⟩ := fieldsA 0x04 6 d.toNat a.toNat b.toNat 0 v.toNat 0 (by omega) (by omega) (by omega) (by omega) (by omega) (by omega) (by omega) (by omega)
  generalize wordA 0x04 6 d.toNat a.toNat b.toNat 0 v.toNat 0 = y at *
  refine decode_ok e0 (by rw [e1]; decide) ?_
  rw [inG04 e1]
  unfold decG04
  rw [e2]
  simp [chk, *]
theorem ldB (d : BitVec 4) (a : BitVec 4) (w : Bool) (i : BitVec 15) : Statement (.ldB d a w i) := by
  intro _ hw
  have hl_d : d.toNat < 16 := d.isLt
  have hl_a : a.toNat < 16 := a.isLt
  have hl_w := bool_lt w
  have hl_i : i.toNat < 32768 := i.isLt
  change decode [wordI 0x05 0 d.toNat a.toNat w.toNat i.toNat] = _
  obtain ⟨e0, e1, e2, f23_20, f19_16, f15_15, f14_0⟩ := fieldsI 0x05 0 d.toNat a.toNat w.toNat i.toNat (by omega) (by omega) (by omega) (by omega) (by omega) (by omega)
  generalize wordI 0x05 0 d.toNat a.toNat w.toNat i.toNat = y at *
  refine decode_ok e0 (by rw [e1]; decide) ?_
  rw [inG05 e1]
  unfold decG05
  rw [e2]
  simp [*]
theorem ldH (d : BitVec 4) (a : BitVec 4) (w : Bool) (i : BitVec 15) : Statement (.ldH d a w i) := by
  intro _ hw
  have hl_d : d.toNat < 16 := d.isLt
  have hl_a : a.toNat < 16 := a.isLt
  have hl_w := bool_lt w
  have hl_i : i.toNat < 32768 := i.isLt
  change decode [wordI 0x05 1 d.toNat a.toNat w.toNat i.toNat] = _
  obtain ⟨e0, e1, e2, f23_20, f19_16, f15_15, f14_0⟩ := fieldsI 0x05 1 d.toNat a.toNat w.toNat i.toNat (by omega) (by omega) (by omega) (by omega) (by omega) (by omega)
  generalize wordI 0x05 1 d.toNat a.toNat w.toNat i.toNat = y at *
  refine decode_ok e0 (by rw [e1]; decide) ?_
  rw [inG05 e1]
  unfold decG05
  rw [e2]
  simp [*]
theorem ldW (d : BitVec 4) (a : BitVec 4) (w : Bool) (i : BitVec 15) : Statement (.ldW d a w i) := by
  intro _ hw
  have hl_d : d.toNat < 16 := d.isLt
  have hl_a : a.toNat < 16 := a.isLt
  have hl_w := bool_lt w
  have hl_i : i.toNat < 32768 := i.isLt
  change decode [wordI 0x05 2 d.toNat a.toNat w.toNat i.toNat] = _
  obtain ⟨e0, e1, e2, f23_20, f19_16, f15_15, f14_0⟩ := fieldsI 0x05 2 d.toNat a.toNat w.toNat i.toNat (by omega) (by omega) (by omega) (by omega) (by omega) (by omega)
  generalize wordI 0x05 2 d.toNat a.toNat w.toNat i.toNat = y at *
  refine decode_ok e0 (by rw [e1]; decide) ?_
  rw [inG05 e1]
  unfold decG05
  rw [e2]
  simp [*]
theorem ldD (d : BitVec 4) (a : BitVec 4) (w : Bool) (i : BitVec 15) : Statement (.ldD d a w i) := by
  intro _ hw
  have hl_d : d.toNat < 16 := d.isLt
  have hl_a : a.toNat < 16 := a.isLt
  have hl_w := bool_lt w
  have hl_i : i.toNat < 32768 := i.isLt
  change decode [wordI 0x05 3 d.toNat a.toNat w.toNat i.toNat] = _
  obtain ⟨e0, e1, e2, f23_20, f19_16, f15_15, f14_0⟩ := fieldsI 0x05 3 d.toNat a.toNat w.toNat i.toNat (by omega) (by omega) (by omega) (by omega) (by omega) (by omega)
  generalize wordI 0x05 3 d.toNat a.toNat w.toNat i.toNat = y at *
  refine decode_ok e0 (by rw [e1]; decide) ?_
  rw [inG05 e1]
  unfold decG05
  rw [e2]
  simp [*]
theorem ldBz (d : BitVec 4) (a : BitVec 4) (w : Bool) (i : BitVec 15) : Statement (.ldBz d a w i) := by
  intro _ hw
  have hl_d : d.toNat < 16 := d.isLt
  have hl_a : a.toNat < 16 := a.isLt
  have hl_w := bool_lt w
  have hl_i : i.toNat < 32768 := i.isLt
  change decode [wordI 0x05 4 d.toNat a.toNat w.toNat i.toNat] = _
  obtain ⟨e0, e1, e2, f23_20, f19_16, f15_15, f14_0⟩ := fieldsI 0x05 4 d.toNat a.toNat w.toNat i.toNat (by omega) (by omega) (by omega) (by omega) (by omega) (by omega)
  generalize wordI 0x05 4 d.toNat a.toNat w.toNat i.toNat = y at *
  refine decode_ok e0 (by rw [e1]; decide) ?_
  rw [inG05 e1]
  unfold decG05
  rw [e2]
  simp [*]
theorem ldHz (d : BitVec 4) (a : BitVec 4) (w : Bool) (i : BitVec 15) : Statement (.ldHz d a w i) := by
  intro _ hw
  have hl_d : d.toNat < 16 := d.isLt
  have hl_a : a.toNat < 16 := a.isLt
  have hl_w := bool_lt w
  have hl_i : i.toNat < 32768 := i.isLt
  change decode [wordI 0x05 5 d.toNat a.toNat w.toNat i.toNat] = _
  obtain ⟨e0, e1, e2, f23_20, f19_16, f15_15, f14_0⟩ := fieldsI 0x05 5 d.toNat a.toNat w.toNat i.toNat (by omega) (by omega) (by omega) (by omega) (by omega) (by omega)
  generalize wordI 0x05 5 d.toNat a.toNat w.toNat i.toNat = y at *
  refine decode_ok e0 (by rw [e1]; decide) ?_
  rw [inG05 e1]
  unfold decG05
  rw [e2]
  simp [*]
theorem ldWz (d : BitVec 4) (a : BitVec 4) (w : Bool) (i : BitVec 15) : Statement (.ldWz d a w i) := by
  intro _ hw
  have hl_d : d.toNat < 16 := d.isLt
  have hl_a : a.toNat < 16 := a.isLt
  have hl_w := bool_lt w
  have hl_i : i.toNat < 32768 := i.isLt
  change decode [wordI 0x05 6 d.toNat a.toNat w.toNat i.toNat] = _
  obtain ⟨e0, e1, e2, f23_20, f19_16, f15_15, f14_0⟩ := fieldsI 0x05 6 d.toNat a.toNat w.toNat i.toNat (by omega) (by omega) (by omega) (by omega) (by omega) (by omega)
  generalize wordI 0x05 6 d.toNat a.toNat w.toNat i.toNat = y at *
  refine decode_ok e0 (by rw [e1]; decide) ?_
  rw [inG05 e1]
  unfold decG05
  rw [e2]
  simp [*]
theorem ldT (d : BitVec 3) (a : BitVec 4) (w : Bool) (i : BitVec 15) : Statement (.ldT d a w i) := by
  intro _ hw
  have hl_d : d.toNat < 8 := d.isLt
  have hl_a : a.toNat < 16 := a.isLt
  have hl_w := bool_lt w
  have hl_i : i.toNat < 32768 := i.isLt
  change decode [wordI 0x05 7 d.toNat a.toNat w.toNat i.toNat] = _
  obtain ⟨e0, e1, e2, f23_20, f19_16, f15_15, f14_0⟩ := fieldsI 0x05 7 d.toNat a.toNat w.toNat i.toNat (by omega) (by omega) (by omega) (by omega) (by omega) (by omega)
  generalize wordI 0x05 7 d.toNat a.toNat w.toNat i.toNat = y at *
  refine decode_ok e0 (by rw [e1]; decide) ?_
  rw [inG05 e1]
  unfold decG05
  rw [e2]
  simp [chk, *]
theorem stB (d : BitVec 4) (a : BitVec 4) (w : Bool) (i : BitVec 15) : Statement (.stB d a w i) := by
  intro _ hw
  have hl_d : d.toNat < 16 := d.isLt
  have hl_a : a.toNat < 16 := a.isLt
  have hl_w := bool_lt w
  have hl_i : i.toNat < 32768 := i.isLt
  change decode [wordI 0x06 0 d.toNat a.toNat w.toNat i.toNat] = _
  obtain ⟨e0, e1, e2, f23_20, f19_16, f15_15, f14_0⟩ := fieldsI 0x06 0 d.toNat a.toNat w.toNat i.toNat (by omega) (by omega) (by omega) (by omega) (by omega) (by omega)
  generalize wordI 0x06 0 d.toNat a.toNat w.toNat i.toNat = y at *
  refine decode_ok e0 (by rw [e1]; decide) ?_
  rw [inG06 e1]
  unfold decG06
  rw [e2]
  simp [*]
theorem stH (d : BitVec 4) (a : BitVec 4) (w : Bool) (i : BitVec 15) : Statement (.stH d a w i) := by
  intro _ hw
  have hl_d : d.toNat < 16 := d.isLt
  have hl_a : a.toNat < 16 := a.isLt
  have hl_w := bool_lt w
  have hl_i : i.toNat < 32768 := i.isLt
  change decode [wordI 0x06 1 d.toNat a.toNat w.toNat i.toNat] = _
  obtain ⟨e0, e1, e2, f23_20, f19_16, f15_15, f14_0⟩ := fieldsI 0x06 1 d.toNat a.toNat w.toNat i.toNat (by omega) (by omega) (by omega) (by omega) (by omega) (by omega)
  generalize wordI 0x06 1 d.toNat a.toNat w.toNat i.toNat = y at *
  refine decode_ok e0 (by rw [e1]; decide) ?_
  rw [inG06 e1]
  unfold decG06
  rw [e2]
  simp [*]
theorem stW (d : BitVec 4) (a : BitVec 4) (w : Bool) (i : BitVec 15) : Statement (.stW d a w i) := by
  intro _ hw
  have hl_d : d.toNat < 16 := d.isLt
  have hl_a : a.toNat < 16 := a.isLt
  have hl_w := bool_lt w
  have hl_i : i.toNat < 32768 := i.isLt
  change decode [wordI 0x06 2 d.toNat a.toNat w.toNat i.toNat] = _
  obtain ⟨e0, e1, e2, f23_20, f19_16, f15_15, f14_0⟩ := fieldsI 0x06 2 d.toNat a.toNat w.toNat i.toNat (by omega) (by omega) (by omega) (by omega) (by omega) (by omega)
  generalize wordI 0x06 2 d.toNat a.toNat w.toNat i.toNat = y at *
  refine decode_ok e0 (by rw [e1]; decide) ?_
  rw [inG06 e1]
  unfold decG06
  rw [e2]
  simp [*]
theorem stD (d : BitVec 4) (a : BitVec 4) (w : Bool) (i : BitVec 15) : Statement (.stD d a w i) := by
  intro _ hw
  have hl_d : d.toNat < 16 := d.isLt
  have hl_a : a.toNat < 16 := a.isLt
  have hl_w := bool_lt w
  have hl_i : i.toNat < 32768 := i.isLt
  change decode [wordI 0x06 3 d.toNat a.toNat w.toNat i.toNat] = _
  obtain ⟨e0, e1, e2, f23_20, f19_16, f15_15, f14_0⟩ := fieldsI 0x06 3 d.toNat a.toNat w.toNat i.toNat (by omega) (by omega) (by omega) (by omega) (by omega) (by omega)
  generalize wordI 0x06 3 d.toNat a.toNat w.toNat i.toNat = y at *
  refine decode_ok e0 (by rw [e1]; decide) ?_
  rw [inG06 e1]
  unfold decG06
  rw [e2]
  simp [*]
theorem stT (d : BitVec 3) (a : BitVec 4) (w : Bool) (i : BitVec 15) : Statement (.stT d a w i) := by
  intro _ hw
  have hl_d : d.toNat < 8 := d.isLt
  have hl_a : a.toNat < 16 := a.isLt
  have hl_w := bool_lt w
  have hl_i : i.toNat < 32768 := i.isLt
  change decode [wordI 0x06 4 d.toNat a.toNat w.toNat i.toNat] = _
  obtain ⟨e0, e1, e2, f23_20, f19_16, f15_15, f14_0⟩ := fieldsI 0x06 4 d.toNat a.toNat w.toNat i.toNat (by omega) (by omega) (by omega) (by omega) (by omega) (by omega)
  generalize wordI 0x06 4 d.toNat a.toNat w.toNat i.toNat = y at *
  refine decode_ok e0 (by rw [e1]; decide) ?_
  rw [inG06 e1]
  unfold decG06
  rw [e2]
  simp [chk, *]
theorem beqz (a : BitVec 4) (w : Bool) (o : BitVec 18) : Statement (.beqz a w o) := by
  intro _ hw
  have hl_a : a.toNat < 16 := a.isLt
  have hl_w := bool_lt w
  have hl_o : o.toNat < 262144 := o.isLt
  change decode [wordB 0x07 0 a.toNat w.toNat o.toNat] = _
  obtain ⟨e0, e1, e2, f22_19, f18_18, f17_0⟩ := fieldsB 0x07 0 a.toNat w.toNat o.toNat (by omega) (by omega) (by omega) (by omega) (by omega)
  generalize wordB 0x07 0 a.toNat w.toNat o.toNat = y at *
  refine decode_ok e0 (by rw [e1]; decide) ?_
  rw [inG07 e1]
  unfold decG07
  rw [e2]
  simp [*]
theorem bnez (a : BitVec 4) (w : Bool) (o : BitVec 18) : Statement (.bnez a w o) := by
  intro _ hw
  have hl_a : a.toNat < 16 := a.isLt
  have hl_w := bool_lt w
  have hl_o : o.toNat < 262144 := o.isLt
  change decode [wordB 0x07 1 a.toNat w.toNat o.toNat] = _
  obtain ⟨e0, e1, e2, f22_19, f18_18, f17_0⟩ := fieldsB 0x07 1 a.toNat w.toNat o.toNat (by omega) (by omega) (by omega) (by omega) (by omega)
  generalize wordB 0x07 1 a.toNat w.toNat o.toNat = y at *
  refine decode_ok e0 (by rw [e1]; decide) ?_
  rw [inG07 e1]
  unfold decG07
  rw [e2]
  simp [*]
theorem bltz (a : BitVec 4) (w : Bool) (o : BitVec 18) : Statement (.bltz a w o) := by
  intro _ hw
  have hl_a : a.toNat < 16 := a.isLt
  have hl_w := bool_lt w
  have hl_o : o.toNat < 262144 := o.isLt
  change decode [wordB 0x07 2 a.toNat w.toNat o.toNat] = _
  obtain ⟨e0, e1, e2, f22_19, f18_18, f17_0⟩ := fieldsB 0x07 2 a.toNat w.toNat o.toNat (by omega) (by omega) (by omega) (by omega) (by omega)
  generalize wordB 0x07 2 a.toNat w.toNat o.toNat = y at *
  refine decode_ok e0 (by rw [e1]; decide) ?_
  rw [inG07 e1]
  unfold decG07
  rw [e2]
  simp [*]
theorem bgez (a : BitVec 4) (w : Bool) (o : BitVec 18) : Statement (.bgez a w o) := by
  intro _ hw
  have hl_a : a.toNat < 16 := a.isLt
  have hl_w := bool_lt w
  have hl_o : o.toNat < 262144 := o.isLt
  change decode [wordB 0x07 3 a.toNat w.toNat o.toNat] = _
  obtain ⟨e0, e1, e2, f22_19, f18_18, f17_0⟩ := fieldsB 0x07 3 a.toNat w.toNat o.toNat (by omega) (by omega) (by omega) (by omega) (by omega)
  generalize wordB 0x07 3 a.toNat w.toNat o.toNat = y at *
  refine decode_ok e0 (by rw [e1]; decide) ?_
  rw [inG07 e1]
  unfold decG07
  rw [e2]
  simp [*]
theorem bgtz (a : BitVec 4) (w : Bool) (o : BitVec 18) : Statement (.bgtz a w o) := by
  intro _ hw
  have hl_a : a.toNat < 16 := a.isLt
  have hl_w := bool_lt w
  have hl_o : o.toNat < 262144 := o.isLt
  change decode [wordB 0x07 4 a.toNat w.toNat o.toNat] = _
  obtain ⟨e0, e1, e2, f22_19, f18_18, f17_0⟩ := fieldsB 0x07 4 a.toNat w.toNat o.toNat (by omega) (by omega) (by omega) (by omega) (by omega)
  generalize wordB 0x07 4 a.toNat w.toNat o.toNat = y at *
  refine decode_ok e0 (by rw [e1]; decide) ?_
  rw [inG07 e1]
  unfold decG07
  rw [e2]
  simp [*]
theorem blez (a : BitVec 4) (w : Bool) (o : BitVec 18) : Statement (.blez a w o) := by
  intro _ hw
  have hl_a : a.toNat < 16 := a.isLt
  have hl_w := bool_lt w
  have hl_o : o.toNat < 262144 := o.isLt
  change decode [wordB 0x07 5 a.toNat w.toNat o.toNat] = _
  obtain ⟨e0, e1, e2, f22_19, f18_18, f17_0⟩ := fieldsB 0x07 5 a.toNat w.toNat o.toNat (by omega) (by omega) (by omega) (by omega) (by omega)
  generalize wordB 0x07 5 a.toNat w.toNat o.toNat = y at *
  refine decode_ok e0 (by rw [e1]; decide) ?_
  rw [inG07 e1]
  unfold decG07
  rw [e2]
  simp [*]
theorem bfull (a : BitVec 4) (o : BitVec 18) : Statement (.bfull a o) := by
  intro _ hw
  have hl_a : a.toNat < 16 := a.isLt
  have hl_o : o.toNat < 262144 := o.isLt
  change decode [wordB 0x07 6 a.toNat 0 o.toNat] = _
  obtain ⟨e0, e1, e2, f22_19, f18_18, f17_0⟩ := fieldsB 0x07 6 a.toNat 0 o.toNat (by omega) (by omega) (by omega) (by omega) (by omega)
  generalize wordB 0x07 6 a.toNat 0 o.toNat = y at *
  refine decode_ok e0 (by rw [e1]; decide) ?_
  rw [inG07 e1]
  unfold decG07
  rw [e2]
  simp [chk, *]
theorem bempty (a : BitVec 4) (o : BitVec 18) : Statement (.bempty a o) := by
  intro _ hw
  have hl_a : a.toNat < 16 := a.isLt
  have hl_o : o.toNat < 262144 := o.isLt
  change decode [wordB 0x07 7 a.toNat 0 o.toNat] = _
  obtain ⟨e0, e1, e2, f22_19, f18_18, f17_0⟩ := fieldsB 0x07 7 a.toNat 0 o.toNat (by omega) (by omega) (by omega) (by omega) (by omega)
  generalize wordB 0x07 7 a.toNat 0 o.toNat = y at *
  refine decode_ok e0 (by rw [e1]; decide) ?_
  rw [inG07 e1]
  unfold decG07
  rw [e2]
  simp [chk, *]
theorem bmany (a : BitVec 2) (o : BitVec 18) : Statement (.bmany a o) := by
  intro _ hw
  have hl_a : a.toNat < 4 := a.isLt
  have hl_o : o.toNat < 262144 := o.isLt
  change decode [wordB 0x07 8 a.toNat 0 o.toNat] = _
  obtain ⟨e0, e1, e2, f22_19, f18_18, f17_0⟩ := fieldsB 0x07 8 a.toNat 0 o.toNat (by omega) (by omega) (by omega) (by omega) (by omega)
  generalize wordB 0x07 8 a.toNat 0 o.toNat = y at *
  refine decode_ok e0 (by rw [e1]; decide) ?_
  rw [inG07 e1]
  unfold decG07
  rw [e2]
  simp [chk, *]
theorem bmnone (a : BitVec 2) (o : BitVec 18) : Statement (.bmnone a o) := by
  intro _ hw
  have hl_a : a.toNat < 4 := a.isLt
  have hl_o : o.toNat < 262144 := o.isLt
  change decode [wordB 0x07 9 a.toNat 0 o.toNat] = _
  obtain ⟨e0, e1, e2, f22_19, f18_18, f17_0⟩ := fieldsB 0x07 9 a.toNat 0 o.toNat (by omega) (by omega) (by omega) (by omega) (by omega)
  generalize wordB 0x07 9 a.toNat 0 o.toNat = y at *
  refine decode_ok e0 (by rw [e1]; decide) ?_
  rw [inG07 e1]
  unfold decG07
  rw [e2]
  simp [chk, *]
theorem j (o : BitVec 18) : Statement (.j o) := by
  intro _ hw
  have hl_o : o.toNat < 262144 := o.isLt
  change decode [wordB 0x08 0 0 0 o.toNat] = _
  obtain ⟨e0, e1, e2, f22_19, f18_18, f17_0⟩ := fieldsB 0x08 0 0 0 o.toNat (by omega) (by omega) (by omega) (by omega) (by omega)
  generalize wordB 0x08 0 0 0 o.toNat = y at *
  refine decode_ok e0 (by rw [e1]; decide) ?_
  rw [inG08 e1]
  unfold decG08
  rw [e2]
  simp [chk, *]
theorem call (l : BitVec 4) (o : BitVec 18) : Statement (.call l o) := by
  intro _ hw
  have hl_l : l.toNat < 16 := l.isLt
  have hl_o : o.toNat < 262144 := o.isLt
  change decode [wordB 0x08 1 l.toNat 0 o.toNat] = _
  obtain ⟨e0, e1, e2, f22_19, f18_18, f17_0⟩ := fieldsB 0x08 1 l.toNat 0 o.toNat (by omega) (by omega) (by omega) (by omega) (by omega)
  generalize wordB 0x08 1 l.toNat 0 o.toNat = y at *
  refine decode_ok e0 (by rw [e1]; decide) ?_
  rw [inG08 e1]
  unfold decG08
  rw [e2]
  simp [chk, *]
theorem jr (a : BitVec 4) (w : Bool) : Statement (.jr a w) := by
  intro _ hw
  have hl_a : a.toNat < 16 := a.isLt
  have hl_w := bool_lt w
  change decode [wordB 0x08 2 a.toNat w.toNat 0] = _
  obtain ⟨e0, e1, e2, f22_19, f18_18, f17_0⟩ := fieldsB 0x08 2 a.toNat w.toNat 0 (by omega) (by omega) (by omega) (by omega) (by omega)
  generalize wordB 0x08 2 a.toNat w.toNat 0 = y at *
  refine decode_ok e0 (by rw [e1]; decide) ?_
  rw [inG08 e1]
  unfold decG08
  rw [e2]
  simp [chk, *]
theorem callr (a : BitVec 4) (w : Bool) (l : BitVec 4) : Statement (.callr a w l) := by
  intro _ hw
  have hl_a : a.toNat < 16 := a.isLt
  have hl_w := bool_lt w
  have hl_l : l.toNat < 16 := l.isLt
  change decode [wordB 0x08 3 a.toNat w.toNat l.toNat] = _
  obtain ⟨e0, e1, e2, f22_19, f18_18, f17_0⟩ := fieldsB 0x08 3 a.toNat w.toNat l.toNat (by omega) (by omega) (by omega) (by omega) (by omega)
  generalize wordB 0x08 3 a.toNat w.toNat l.toNat = y at *
  have s0 : fld y 3 0 = l.toNat := fld_part 3 0 _ f17_0 (by decide) (by decide) (by decide) (by simp only [Nat.reducePow, Nat.reduceAdd, Nat.reduceSub]; omega)
  refine decode_ok e0 (by rw [e1]; decide) ?_
  rw [inG08 e1]
  unfold decG08
  rw [e2]
  simp [chk, *]
theorem loop (a : BitVec 4) (w : Bool) (o : BitVec 18) : Statement (.loop a w o) := by
  intro _ hw
  have hl_a : a.toNat < 16 := a.isLt
  have hl_w := bool_lt w
  have hl_o : o.toNat < 262144 := o.isLt
  change decode [wordB 0x08 4 a.toNat w.toNat o.toNat] = _
  obtain ⟨e0, e1, e2, f22_19, f18_18, f17_0⟩ := fieldsB 0x08 4 a.toNat w.toNat o.toNat (by omega) (by omega) (by omega) (by omega) (by omega)
  generalize wordB 0x08 4 a.toNat w.toNat o.toNat = y at *
  refine decode_ok e0 (by rw [e1]; decide) ?_
  rw [inG08 e1]
  unfold decG08
  rw [e2]
  simp [*]
theorem getw (d : BitVec 4) (p : BitVec 3) (x : Bool) (l : BitVec 4) : Statement (.getw d p x l) := by
  intro _ hw
  have hl_d : d.toNat < 16 := d.isLt
  have hl_p : p.toNat < 8 := p.isLt
  have hl_x := bool_lt x
  have hl_l : l.toNat < 16 := l.isLt
  have hw : ((!x || l.toNat % 2 == 0)) = true := hw
  change decode [wordA 0x09 0 d.toNat (p.toNat + 8) 0 0 0 (x.toNat * 2^4 + l.toNat)] = _
  obtain ⟨e0, e1, e2, f21_18, f17_14, f13_10, f9_9, f8_8, f7_0⟩ := fieldsA 0x09 0 d.toNat (p.toNat + 8) 0 0 0 (x.toNat * 2^4 + l.toNat) (by omega) (by omega) (by omega) (by omega) (by omega) (by omega) (by omega) (by omega)
  generalize wordA 0x09 0 d.toNat (p.toNat + 8) 0 0 0 (x.toNat * 2^4 + l.toNat) = y at *
  have s0 : fld y 7 5 = 0 := fld_part 7 5 _ f7_0 (by decide) (by decide) (by decide) (by simp only [Nat.reducePow, Nat.reduceAdd, Nat.reduceSub]; omega)
  have s1 : fld y 4 4 = x.toNat := fld_part 4 4 _ f7_0 (by decide) (by decide) (by decide) (by simp only [Nat.reducePow, Nat.reduceAdd, Nat.reduceSub]; omega)
  have s2 : fld y 3 0 = l.toNat := fld_part 3 0 _ f7_0 (by decide) (by decide) (by decide) (by simp only [Nat.reducePow, Nat.reduceAdd, Nat.reduceSub]; omega)
  have s3 : fld y 0 0 = l.toNat % 2 := fld_part 0 0 _ f7_0 (by decide) (by decide) (by decide) (by simp only [Nat.reducePow, Nat.reduceAdd, Nat.reduceSub]; omega)
  refine decode_ok e0 (by rw [e1]; decide) ?_
  rw [inG09 e1]
  unfold decG09
  rw [e2]
  simp [chk, *]
  intro h
  simpa [h] using hw
theorem putw (p : BitVec 3) (a : BitVec 4) (w : Bool) (t : BitVec 6) : Statement (.putw p a w t) := by
  intro _ hw
  have hl_p : p.toNat < 8 := p.isLt
  have hl_a : a.toNat < 16 := a.isLt
  have hl_w := bool_lt w
  have hl_t : t.toNat < 64 := t.isLt
  change decode [wordA 0x09 1 (p.toNat + 8) a.toNat 0 w.toNat 0 t.toNat] = _
  obtain ⟨e0, e1, e2, f21_18, f17_14, f13_10, f9_9, f8_8, f7_0⟩ := fieldsA 0x09 1 (p.toNat + 8) a.toNat 0 w.toNat 0 t.toNat (by omega) (by omega) (by omega) (by omega) (by omega) (by omega) (by omega) (by omega)
  generalize wordA 0x09 1 (p.toNat + 8) a.toNat 0 w.toNat 0 t.toNat = y at *
  refine decode_ok e0 (by rw [e1]; decide) ?_
  rw [inG09 e1]
  unfold decG09
  rw [e2]
  simp [chk, *]
theorem waitp (p : BitVec 3) (o : Bool) : Statement (.waitp p o) := by
  intro _ hw
  have hl_p : p.toNat < 8 := p.isLt
  have hl_o := bool_lt o
  change decode [wordA 0x09 2 0 (p.toNat + 8) 0 0 0 o.toNat] = _
  obtain ⟨e0, e1, e2, f21_18, f17_14, f13_10, f9_9, f8_8, f7_0⟩ := fieldsA 0x09 2 0 (p.toNat + 8) 0 0 0 o.toNat (by omega) (by omega) (by omega) (by omega) (by omega) (by omega) (by omega) (by omega)
  generalize wordA 0x09 2 0 (p.toNat + 8) 0 0 0 o.toNat = y at *
  have s0 : fld y 0 0 = o.toNat := fld_part 0 0 _ f7_0 (by decide) (by decide) (by decide) (by simp only [Nat.reducePow, Nat.reduceAdd, Nat.reduceSub]; omega)
  refine decode_ok e0 (by rw [e1]; decide) ?_
  rw [inG09 e1]
  unfold decG09
  rw [e2]
  simp [chk, *]
theorem yield  : Statement (.yield) := by
  intro _ hw
  change decode [wordA 0x09 3 0 0 0 0 0 0] = _
  obtain ⟨e0, e1, e2, f21_18, f17_14, f13_10, f9_9, f8_8, f7_0⟩ := fieldsA 0x09 3 0 0 0 0 0 0 (by omega) (by omega) (by omega) (by omega) (by omega) (by omega) (by omega) (by omega)
  generalize wordA 0x09 3 0 0 0 0 0 0 = y at *
  refine decode_ok e0 (by rw [e1]; decide) ?_
  rw [inG09 e1]
  unfold decG09
  rw [e2]
  simp [chk, *]
theorem endTask  : Statement (.endTask) := by
  intro _ hw
  change decode [wordA 0x09 4 0 0 0 0 0 0] = _
  obtain ⟨e0, e1, e2, f21_18, f17_14, f13_10, f9_9, f8_8, f7_0⟩ := fieldsA 0x09 4 0 0 0 0 0 0 (by omega) (by omega) (by omega) (by omega) (by omega) (by omega) (by omega) (by omega)
  generalize wordA 0x09 4 0 0 0 0 0 0 = y at *
  refine decode_ok e0 (by rw [e1]; decide) ?_
  rw [inG09 e1]
  unfold decG09
  rw [e2]
  simp [chk, *]
theorem fork (u : ForkUnit) (a : BitVec 4) (w : Bool) (c : BitVec 8) : Statement (.fork u a w c) := by
  intro _ hw
  have hl_u := ForkUnit_code_lt u
  have hl_a : a.toNat < 16 := a.isLt
  have hl_w := bool_lt w
  have hl_c : c.toNat < 256 := c.isLt
  have hw : (c != 0) = true := hw
  change decode [wordA 0x09 5 u.code a.toNat 0 w.toNat 0 c.toNat] = _
  obtain ⟨e0, e1, e2, f21_18, f17_14, f13_10, f9_9, f8_8, f7_0⟩ := fieldsA 0x09 5 u.code a.toNat 0 w.toNat 0 c.toNat (by omega) (by omega) (by omega) (by omega) (by omega) (by omega) (by omega) (by omega)
  generalize wordA 0x09 5 u.code a.toNat 0 w.toNat 0 c.toNat = y at *
  refine decode_ok e0 (by rw [e1]; decide) ?_
  rw [inG09 e1]
  unfold decG09
  rw [e2]
  simp [chk, *]
  intro h
  exact absurd hw (by simp [BitVec.eq_of_toNat_eq (y := 0) h])
theorem rdv (st : Bool) (mx : Bool) : Statement (.rdv st mx) := by
  intro _ hw
  have hl_st := bool_lt st
  have hl_mx := bool_lt mx
  have hw : ((st || mx)) = true := hw
  change decode [wordA 0x09 6 0 0 0 0 0 (st.toNat * 2^1 + mx.toNat)] = _
  obtain ⟨e0, e1, e2, f21_18, f17_14, f13_10, f9_9, f8_8, f7_0⟩ := fieldsA 0x09 6 0 0 0 0 0 (st.toNat * 2^1 + mx.toNat) (by omega) (by omega) (by omega) (by omega) (by omega) (by omega) (by omega) (by omega)
  generalize wordA 0x09 6 0 0 0 0 0 (st.toNat * 2^1 + mx.toNat) = y at *
  have s0 : fld y 1 1 = st.toNat := fld_part 1 1 _ f7_0 (by decide) (by decide) (by decide) (by simp only [Nat.reducePow, Nat.reduceAdd, Nat.reduceSub]; omega)
  have s1 : fld y 0 0 = mx.toNat := fld_part 0 0 _ f7_0 (by decide) (by decide) (by decide) (by simp only [Nat.reducePow, Nat.reduceAdd, Nat.reduceSub]; omega)
  refine decode_ok e0 (by rw [e1]; decide) ?_
  rw [inG09 e1]
  unfold decG09
  rw [e2]
  simp [chk, *] <;> omega
theorem trig (a : BitVec 4) (w : Bool) (p : BitVec 2) : Statement (.trig a w p) := by
  intro _ hw
  have hl_a : a.toNat < 16 := a.isLt
  have hl_w := bool_lt w
  have hl_p : p.toNat < 4 := p.isLt
  change decode [wordA 0x09 7 0 a.toNat 0 w.toNat 0 p.toNat] = _
  obtain ⟨e0, e1, e2, f21_18, f17_14, f13_10, f9_9, f8_8, f7_0⟩ := fieldsA 0x09 7 0 a.toNat 0 w.toNat 0 p.toNat (by omega) (by omega) (by omega) (by omega) (by omega) (by omega) (by omega) (by omega)
  generalize wordA 0x09 7 0 a.toNat 0 w.toNat 0 p.toNat = y at *
  refine decode_ok e0 (by rw [e1]; decide) ?_
  rw [inG09 e1]
  unfold decG09
  rw [e2]
  simp [chk, *]
theorem putc (p : BitVec 3) (a : BitVec 4) (w : Bool) (t : BitVec 6) : Statement (.putc p a w t) := by
  intro _ hw
  have hl_p : p.toNat < 8 := p.isLt
  have hl_a : a.toNat < 16 := a.isLt
  have hl_w := bool_lt w
  have hl_t : t.toNat < 64 := t.isLt
  change decode [wordA 0x09 8 (p.toNat + 8) a.toNat 0 w.toNat 0 t.toNat] = _
  obtain ⟨e0, e1, e2, f21_18, f17_14, f13_10, f9_9, f8_8, f7_0⟩ := fieldsA 0x09 8 (p.toNat + 8) a.toNat 0 w.toNat 0 t.toNat (by omega) (by omega) (by omega) (by omega) (by omega) (by omega) (by omega) (by omega)
  generalize wordA 0x09 8 (p.toNat + 8) a.toNat 0 w.toNat 0 t.toNat = y at *
  refine decode_ok e0 (by rw [e1]; decide) ?_
  rw [inG09 e1]
  unfold decG09
  rw [e2]
  simp [chk, *]
theorem few (a : BitVec 4) : Statement (.few a) := by
  intro _ hw
  have hl_a : a.toNat < 16 := a.isLt
  change decode [wordA 0x0A 0 0 a.toNat 0 0 0 0] = _
  obtain ⟨e0, e1, e2, f21_18, f17_14, f13_10, f9_9, f8_8, f7_0⟩ := fieldsA 0x0A 0 0 a.toNat 0 0 0 0 (by omega) (by omega) (by omega) (by omega) (by omega) (by omega) (by omega) (by omega)
  generalize wordA 0x0A 0 0 a.toNat 0 0 0 0 = y at *
  refine decode_ok e0 (by rw [e1]; decide) ?_
  rw [inG0A e1]
  unfold decG0A
  rw [e2]
  simp [chk, *]
theorem fec (d : BitVec 4) : Statement (.fec d) := by
  intro _ hw
  have hl_d : d.toNat < 16 := d.isLt
  change decode [wordA 0x0A 1 d.toNat 0 0 0 0 0] = _
  obtain ⟨e0, e1, e2, f21_18, f17_14, f13_10, f9_9, f8_8, f7_0⟩ := fieldsA 0x0A 1 d.toNat 0 0 0 0 0 (by omega) (by omega) (by omega) (by omega) (by omega) (by omega) (by omega) (by omega)
  generalize wordA 0x0A 1 d.toNat 0 0 0 0 0 = y at *
  refine decode_ok e0 (by rw [e1]; decide) ?_
  rw [inG0A e1]
  unfold decG0A
  rw [e2]
  simp [chk, *]
theorem pushm (d : BitVec 4) (a : BitVec 4) (w : Bool) (f : RFile) : Statement (.pushm d a w f) := by
  intro _ hw
  have hl_d : d.toNat < 16 := d.isLt
  have hl_a : a.toNat < 16 := a.isLt
  have hl_w := bool_lt w
  have hl_f := RFile_code_lt f
  have hw : (decide (d.toNat < rfLim f.code) && decide (a.toNat < rfLim f.code) && decide (d.toNat ≤ a.toNat) && (!w || f == .g)) = true := hw
  simp only [Bool.and_eq_true, Bool.or_eq_true, decide_eq_true_eq] at hw
  change decode [wordA 0x0A 2 d.toNat a.toNat 0 w.toNat 0 f.code] = _
  obtain ⟨e0, e1, e2, f21_18, f17_14, f13_10, f9_9, f8_8, f7_0⟩ := fieldsA 0x0A 2 d.toNat a.toNat 0 w.toNat 0 f.code (by omega) (by omega) (by omega) (by omega) (by omega) (by omega) (by omega) (by omega)
  generalize wordA 0x0A 2 d.toNat a.toNat 0 w.toNat 0 f.code = y at *
  have s0 : fld y 1 0 = f.code := fld_part 1 0 _ f7_0 (by decide) (by decide) (by decide) (by simp only [Nat.reducePow, Nat.reduceAdd, Nat.reduceSub]; omega)
  refine decode_ok e0 (by rw [e1]; decide) ?_
  rw [inG0A e1]
  unfold decG0A
  rw [e2]
  simp [chk, *]
  intro h
  rcases hw.2 with h2 | h2
  · simp [h] at h2
  · rw [beq_iff_eq] at h2; subst h2; rfl
theorem popm (d : BitVec 4) (a : BitVec 4) (f : RFile) : Statement (.popm d a f) := by
  intro _ hw
  have hl_d : d.toNat < 16 := d.isLt
  have hl_a : a.toNat < 16 := a.isLt
  have hl_f := RFile_code_lt f
  have hw : (decide (d.toNat < rfLim f.code) && decide (a.toNat < rfLim f.code) && decide (d.toNat ≤ a.toNat)) = true := hw
  simp only [Bool.and_eq_true, Bool.or_eq_true, decide_eq_true_eq] at hw
  change decode [wordA 0x0A 3 d.toNat a.toNat 0 0 0 f.code] = _
  obtain ⟨e0, e1, e2, f21_18, f17_14, f13_10, f9_9, f8_8, f7_0⟩ := fieldsA 0x0A 3 d.toNat a.toNat 0 0 0 f.code (by omega) (by omega) (by omega) (by omega) (by omega) (by omega) (by omega) (by omega)
  generalize wordA 0x0A 3 d.toNat a.toNat 0 0 0 f.code = y at *
  have s0 : fld y 1 0 = f.code := fld_part 1 0 _ f7_0 (by decide) (by decide) (by decide) (by simp only [Nat.reducePow, Nat.reduceAdd, Nat.reduceSub]; omega)
  refine decode_ok e0 (by rw [e1]; decide) ?_
  rw [inG0A e1]
  unfold decG0A
  rw [e2]
  simp [chk, *]
theorem sysr (g : BitVec 4) (s : SReg) : Statement (.sysr g s) := by
  intro _ hw
  have hl_g : g.toNat < 16 := g.isLt
  have hl_s := SReg_code_lt s
  change decode [wordX 0x0B 0 g.toNat 0 s.code 0] = _
  obtain ⟨e0, e1, e2, f21_18, f17_17, f16_7, f6_0⟩ := fieldsX 0x0B 0 g.toNat 0 s.code 0 (by omega) (by omega) (by omega) (by omega) (by omega) (by omega)
  generalize wordX 0x0B 0 g.toNat 0 s.code 0 = y at *
  refine decode_ok e0 (by rw [e1]; decide) ?_
  rw [inG0B e1]
  unfold decG0B
  rw [e2]
  simp [chk, *]
theorem sysw (g : BitVec 4) (w : Bool) (s : SReg) : Statement (.sysw g w s) := by
  intro _ hw
  have hl_g : g.toNat < 16 := g.isLt
  have hl_w := bool_lt w
  have hl_s := SReg_code_lt s
  have hw : (SReg.writable s.code) = true := hw
  change decode [wordX 0x0B 1 g.toNat w.toNat s.code 0] = _
  obtain ⟨e0, e1, e2, f21_18, f17_17, f16_7, f6_0⟩ := fieldsX 0x0B 1 g.toNat w.toNat s.code 0 (by omega) (by omega) (by omega) (by omega) (by omega) (by omega)
  generalize wordX 0x0B 1 g.toNat w.toNat s.code 0 = y at *
  refine decode_ok e0 (by rw [e1]; decide) ?_
  rw [inG0B e1]
  unfold decG0B
  rw [e2]
  simp [chk, *]
theorem trap (c : BitVec 7) : Statement (.trap c) := by
  intro _ hw
  have hl_c : c.toNat < 128 := c.isLt
  change decode [wordX 0x0B 2 0 0 0 c.toNat] = _
  obtain ⟨e0, e1, e2, f21_18, f17_17, f16_7, f6_0⟩ := fieldsX 0x0B 2 0 0 0 c.toNat (by omega) (by omega) (by omega) (by omega) (by omega) (by omega)
  generalize wordX 0x0B 2 0 0 0 c.toNat = y at *
  refine decode_ok e0 (by rw [e1]; decide) ?_
  rw [inG0B e1]
  unfold decG0B
  rw [e2]
  simp [chk, *]
theorem bkpt  : Statement (.bkpt) := by
  intro _ hw
  change decode [wordX 0x0B 3 0 0 0 0] = _
  obtain ⟨e0, e1, e2, f21_18, f17_17, f16_7, f6_0⟩ := fieldsX 0x0B 3 0 0 0 0 (by omega) (by omega) (by omega) (by omega) (by omega) (by omega)
  generalize wordX 0x0B 3 0 0 0 0 = y at *
  refine decode_ok e0 (by rw [e1]; decide) ?_
  rw [inG0B e1]
  unfold decG0B
  rw [e2]
  simp [chk, *]
theorem eret (k : Bool) : Statement (.eret k) := by
  intro _ hw
  have hl_k := bool_lt k
  change decode [wordX 0x0B 4 0 0 0 k.toNat] = _
  obtain ⟨e0, e1, e2, f21_18, f17_17, f16_7, f6_0⟩ := fieldsX 0x0B 4 0 0 0 k.toNat (by omega) (by omega) (by omega) (by omega) (by omega) (by omega)
  generalize wordX 0x0B 4 0 0 0 k.toNat = y at *
  have s0 : fld y 0 0 = k.toNat := fld_part 0 0 _ f6_0 (by decide) (by decide) (by decide) (by simp only [Nat.reducePow, Nat.reduceAdd, Nat.reduceSub]; omega)
  refine decode_ok e0 (by rw [e1]; decide) ?_
  rw [inG0B e1]
  unfold decG0B
  rw [e2]
  simp [chk, *]
theorem fenceT (k : FenceKind) : Statement (.fenceT k) := by
  intro _ hw
  have hl_k := FenceKind_code_lt k
  change decode [wordX 0x0B 5 0 0 0 (k.code * 2^2)] = _
  obtain ⟨e0, e1, e2, f21_18, f17_17, f16_7, f6_0⟩ := fieldsX 0x0B 5 0 0 0 (k.code * 2^2) (by omega) (by omega) (by omega) (by omega) (by omega) (by omega)
  generalize wordX 0x0B 5 0 0 0 (k.code * 2^2) = y at *
  have s0 : fld y 1 0 = 0 := fld_part 1 0 _ f6_0 (by decide) (by decide) (by decide) (by simp only [Nat.reducePow, Nat.reduceAdd, Nat.reduceSub]; omega)
  have s1 : fld y 3 2 = k.code := fld_part 3 2 _ f6_0 (by decide) (by decide) (by decide) (by simp only [Nat.reducePow, Nat.reduceAdd, Nat.reduceSub]; omega)
  refine decode_ok e0 (by rw [e1]; decide) ?_
  rw [inG0B e1]
  unfold decG0B
  rw [e2]
  simp [chk, *] <;> omega
theorem fenceR (k : FenceKind) : Statement (.fenceR k) := by
  intro _ hw
  have hl_k := FenceKind_code_lt k
  change decode [wordX 0x0B 5 0 0 0 (k.code * 2^2 + 1)] = _
  obtain ⟨e0, e1, e2, f21_18, f17_17, f16_7, f6_0⟩ := fieldsX 0x0B 5 0 0 0 (k.code * 2^2 + 1) (by omega) (by omega) (by omega) (by omega) (by omega) (by omega)
  generalize wordX 0x0B 5 0 0 0 (k.code * 2^2 + 1) = y at *
  have s0 : fld y 1 0 = 1 := fld_part 1 0 _ f6_0 (by decide) (by decide) (by decide) (by simp only [Nat.reducePow, Nat.reduceAdd, Nat.reduceSub]; omega)
  have s1 : fld y 3 2 = k.code := fld_part 3 2 _ f6_0 (by decide) (by decide) (by decide) (by simp only [Nat.reducePow, Nat.reduceAdd, Nat.reduceSub]; omega)
  refine decode_ok e0 (by rw [e1]; decide) ?_
  rw [inG0B e1]
  unfold decG0B
  rw [e2]
  simp [chk, *] <;> omega
theorem fenceD (k : FenceKind) : Statement (.fenceD k) := by
  intro _ hw
  have hl_k := FenceKind_code_lt k
  change decode [wordX 0x0B 5 0 0 0 (k.code * 2^2 + 2)] = _
  obtain ⟨e0, e1, e2, f21_18, f17_17, f16_7, f6_0⟩ := fieldsX 0x0B 5 0 0 0 (k.code * 2^2 + 2) (by omega) (by omega) (by omega) (by omega) (by omega) (by omega)
  generalize wordX 0x0B 5 0 0 0 (k.code * 2^2 + 2) = y at *
  have s0 : fld y 1 0 = 2 := fld_part 1 0 _ f6_0 (by decide) (by decide) (by decide) (by simp only [Nat.reducePow, Nat.reduceAdd, Nat.reduceSub]; omega)
  have s1 : fld y 3 2 = k.code := fld_part 3 2 _ f6_0 (by decide) (by decide) (by decide) (by simp only [Nat.reducePow, Nat.reduceAdd, Nat.reduceSub]; omega)
  refine decode_ok e0 (by rw [e1]; decide) ?_
  rw [inG0B e1]
  unfold decG0B
  rw [e2]
  simp [chk, *] <;> omega
theorem fenceS (k : FenceKind) : Statement (.fenceS k) := by
  intro _ hw
  have hl_k := FenceKind_code_lt k
  change decode [wordX 0x0B 5 0 0 0 (k.code * 2^2 + 3)] = _
  obtain ⟨e0, e1, e2, f21_18, f17_17, f16_7, f6_0⟩ := fieldsX 0x0B 5 0 0 0 (k.code * 2^2 + 3) (by omega) (by omega) (by omega) (by omega) (by omega) (by omega)
  generalize wordX 0x0B 5 0 0 0 (k.code * 2^2 + 3) = y at *
  have s0 : fld y 1 0 = 3 := fld_part 1 0 _ f6_0 (by decide) (by decide) (by decide) (by simp only [Nat.reducePow, Nat.reduceAdd, Nat.reduceSub]; omega)
  have s1 : fld y 3 2 = k.code := fld_part 3 2 _ f6_0 (by decide) (by decide) (by decide) (by simp only [Nat.reducePow, Nat.reduceAdd, Nat.reduceSub]; omega)
  refine decode_ok e0 (by rw [e1]; decide) ?_
  rw [inG0B e1]
  unfold decG0B
  rw [e2]
  simp [chk, *] <;> omega
theorem frInit (a : BitVec 3) (n : BitVec 8) : Statement (.frInit a n) := by
  intro _ hw
  have hl_a : a.toNat < 8 := a.isLt
  have hl_n : n.toNat < 256 := n.isLt
  change decode [wordA 0x0C 0 0 a.toNat 0 0 0 n.toNat] = _
  obtain ⟨e0, e1, e2, f21_18, f17_14, f13_10, f9_9, f8_8, f7_0⟩ := fieldsA 0x0C 0 0 a.toNat 0 0 0 n.toNat (by omega) (by omega) (by omega) (by omega) (by omega) (by omega) (by omega) (by omega)
  generalize wordA 0x0C 0 0 a.toNat 0 0 0 n.toNat = y at *
  refine decode_ok e0 (by rw [e1]; decide) ?_
  rw [inG0C e1]
  unfold decG0C
  rw [e2]
  simp [chk, *]
theorem frWait (d : BitVec 4) (a : BitVec 3) (b : BitVec 4) (v : Bool) : Statement (.frWait d a b v) := by
  intro _ hw
  have hl_d : d.toNat < 16 := d.isLt
  have hl_a : a.toNat < 8 := a.isLt
  have hl_b : b.toNat < 16 := b.isLt
  have hl_v := bool_lt v
  change decode [wordA 0x0C 1 d.toNat a.toNat b.toNat 0 v.toNat 0] = _
  obtain ⟨e0, e1, e2, f21_18, f17_14, f13_10, f9_9, f8_8, f7_0⟩ := fieldsA 0x0C 1 d.toNat a.toNat b.toNat 0 v.toNat 0 (by omega) (by omega) (by omega) (by omega) (by omega) (by omega) (by omega) (by omega)
  generalize wordA 0x0C 1 d.toNat a.toNat b.toNat 0 v.toNat 0 = y at *
  refine decode_ok e0 (by rw [e1]; decide) ?_
  rw [inG0C e1]
  unfold decG0C
  rw [e2]
  simp [chk, *]
theorem frRecl (a : BitVec 3) (b : BitVec 4) (v : Bool) : Statement (.frRecl a b v) := by
  intro _ hw
  have hl_a : a.toNat < 8 := a.isLt
  have hl_b : b.toNat < 16 := b.isLt
  have hl_v := bool_lt v
  change decode [wordA 0x0C 2 0 a.toNat b.toNat 0 v.toNat 0] = _
  obtain ⟨e0, e1, e2, f21_18, f17_14, f13_10, f9_9, f8_8, f7_0⟩ := fieldsA 0x0C 2 0 a.toNat b.toNat 0 v.toNat 0 (by omega) (by omega) (by omega) (by omega) (by omega) (by omega) (by omega) (by omega)
  generalize wordA 0x0C 2 0 a.toNat b.toNat 0 v.toNat 0 = y at *
  refine decode_ok e0 (by rw [e1]; decide) ?_
  rw [inG0C e1]
  unfold decG0C
  rw [e2]
  simp [chk, *]
theorem frRecipe (a : BitVec 3) (b : BitVec 4) (v : Bool) : Statement (.frRecipe a b v) := by
  intro _ hw
  have hl_a : a.toNat < 8 := a.isLt
  have hl_b : b.toNat < 16 := b.isLt
  have hl_v := bool_lt v
  change decode [wordA 0x0C 3 0 a.toNat b.toNat 0 v.toNat 0] = _
  obtain ⟨e0, e1, e2, f21_18, f17_14, f13_10, f9_9, f8_8, f7_0⟩ := fieldsA 0x0C 3 0 a.toNat b.toNat 0 v.toNat 0 (by omega) (by omega) (by omega) (by omega) (by omega) (by omega) (by omega) (by omega)
  generalize wordA 0x0C 3 0 a.toNat b.toNat 0 v.toNat 0 = y at *
  refine decode_ok e0 (by rw [e1]; decide) ?_
  rw [inG0C e1]
  unfold decG0C
  rw [e2]
  simp [chk, *]
theorem frPin (a : BitVec 3) (b : BitVec 4) (v : Bool) : Statement (.frPin a b v) := by
  intro _ hw
  have hl_a : a.toNat < 8 := a.isLt
  have hl_b : b.toNat < 16 := b.isLt
  have hl_v := bool_lt v
  change decode [wordA 0x0C 4 0 a.toNat b.toNat 0 v.toNat 0] = _
  obtain ⟨e0, e1, e2, f21_18, f17_14, f13_10, f9_9, f8_8, f7_0⟩ := fieldsA 0x0C 4 0 a.toNat b.toNat 0 v.toNat 0 (by omega) (by omega) (by omega) (by omega) (by omega) (by omega) (by omega) (by omega)
  generalize wordA 0x0C 4 0 a.toNat b.toNat 0 v.toNat 0 = y at *
  refine decode_ok e0 (by rw [e1]; decide) ?_
  rw [inG0C e1]
  unfold decG0C
  rw [e2]
  simp [chk, *]
theorem frUnpin (a : BitVec 3) (b : BitVec 4) (v : Bool) : Statement (.frUnpin a b v) := by
  intro _ hw
  have hl_a : a.toNat < 8 := a.isLt
  have hl_b : b.toNat < 16 := b.isLt
  have hl_v := bool_lt v
  change decode [wordA 0x0C 5 0 a.toNat b.toNat 0 v.toNat 0] = _
  obtain ⟨e0, e1, e2, f21_18, f17_14, f13_10, f9_9, f8_8, f7_0⟩ := fieldsA 0x0C 5 0 a.toNat b.toNat 0 v.toNat 0 (by omega) (by omega) (by omega) (by omega) (by omega) (by omega) (by omega) (by omega)
  generalize wordA 0x0C 5 0 a.toNat b.toNat 0 v.toNat 0 = y at *
  refine decode_ok e0 (by rw [e1]; decide) ?_
  rw [inG0C e1]
  unfold decG0C
  rw [e2]
  simp [chk, *]
theorem frStat_none (d : BitVec 4) (a : BitVec 3) : Statement (.frStat d a none) := by
  intro _ hw
  have hl_d : d.toNat < 16 := d.isLt
  have hl_a : a.toNat < 8 := a.isLt
  rw [show encode (.frStat d a none) = [wordA 0x0C 6 d.toNat a.toNat 0 0 0 0] by
    simp only [encode, statCode, wordA]
    all_goals (refine congrArg (fun n => [n]) ?_; omega)]
  obtain ⟨e0, e1, e2, f21_18, f17_14, f13_10, f9_9, f8_8, f7_0⟩ := fieldsA 0x0C 6 d.toNat a.toNat 0 0 0 0 (by omega) (by omega) (by omega) (by omega) (by omega) (by omega) (by omega) (by omega)
  generalize wordA 0x0C 6 d.toNat a.toNat 0 0 0 0 = y at *
  refine decode_ok e0 (by rw [e1]; decide) ?_
  rw [inG0C e1]
  unfold decG0C
  rw [e2]
  simp [chk, *]

theorem frStat_some (d : BitVec 4) (a : BitVec 3) (b : BitVec 4) (v : Bool) : Statement (.frStat d a (some (b, v))) := by
  intro _ hw
  have hl_d : d.toNat < 16 := d.isLt
  have hl_a : a.toNat < 8 := a.isLt
  have hl_b : b.toNat < 16 := b.isLt
  have hl_v := bool_lt v
  rw [show encode (.frStat d a (some (b, v))) = [wordA 0x0C 6 d.toNat a.toNat b.toNat 0 v.toNat 1] by
    simp only [encode, statCode, wordA]
    all_goals (refine congrArg (fun n => [n]) ?_; omega)]
  obtain ⟨e0, e1, e2, f21_18, f17_14, f13_10, f9_9, f8_8, f7_0⟩ := fieldsA 0x0C 6 d.toNat a.toNat b.toNat 0 v.toNat 1 (by omega) (by omega) (by omega) (by omega) (by omega) (by omega) (by omega) (by omega)
  generalize wordA 0x0C 6 d.toNat a.toNat b.toNat 0 v.toNat 1 = y at *
  refine decode_ok e0 (by rw [e1]; decide) ?_
  rw [inG0C e1]
  unfold decG0C
  rw [e2]
  simp [chk, *]

theorem frStat (d : BitVec 4) (a : BitVec 3) (q : Option (BitVec 4 × Bool)) : Statement (.frStat d a q) := by
  rcases q with _ | ⟨b, v⟩
  · exact frStat_none d a
  · exact frStat_some d a b v
theorem atAdd (d : BitVec 4) (a : BitVec 3) (b : BitVec 4) (v : Bool) (o : AtOrder) (c : Scope) : Statement (.atAdd d a b v o c) := by
  intro _ hw
  have hl_d : d.toNat < 16 := d.isLt
  have hl_a : a.toNat < 8 := a.isLt
  have hl_b : b.toNat < 16 := b.isLt
  have hl_v := bool_lt v
  have hl_o := AtOrder_code_lt o
  have hl_c := Scope_code_lt c
  change decode [wordA 0x0D 0 d.toNat a.toNat b.toNat 0 v.toNat (o.code * 2^2 + c.code)] = _
  obtain ⟨e0, e1, e2, f21_18, f17_14, f13_10, f9_9, f8_8, f7_0⟩ := fieldsA 0x0D 0 d.toNat a.toNat b.toNat 0 v.toNat (o.code * 2^2 + c.code) (by omega) (by omega) (by omega) (by omega) (by omega) (by omega) (by omega) (by omega)
  generalize wordA 0x0D 0 d.toNat a.toNat b.toNat 0 v.toNat (o.code * 2^2 + c.code) = y at *
  have s0 : fld y 3 2 = o.code := fld_part 3 2 _ f7_0 (by decide) (by decide) (by decide) (by simp only [Nat.reducePow, Nat.reduceAdd, Nat.reduceSub]; omega)
  have s1 : fld y 1 0 = c.code := fld_part 1 0 _ f7_0 (by decide) (by decide) (by decide) (by simp only [Nat.reducePow, Nat.reduceAdd, Nat.reduceSub]; omega)
  refine decode_ok e0 (by rw [e1]; decide) ?_
  rw [inG0D e1]
  unfold decG0D
  rw [e2]
  simp [chk, *] <;> omega
theorem atMin (d : BitVec 4) (a : BitVec 3) (b : BitVec 4) (v : Bool) (u : Bool) (o : AtOrder) (c : Scope) : Statement (.atMin d a b v u o c) := by
  intro _ hw
  have hl_d : d.toNat < 16 := d.isLt
  have hl_a : a.toNat < 8 := a.isLt
  have hl_b : b.toNat < 16 := b.isLt
  have hl_v := bool_lt v
  have hl_u := bool_lt u
  have hl_o := AtOrder_code_lt o
  have hl_c := Scope_code_lt c
  change decode [wordA 0x0D 1 d.toNat a.toNat b.toNat 0 v.toNat (u.toNat * 2^4 + o.code * 2^2 + c.code)] = _
  obtain ⟨e0, e1, e2, f21_18, f17_14, f13_10, f9_9, f8_8, f7_0⟩ := fieldsA 0x0D 1 d.toNat a.toNat b.toNat 0 v.toNat (u.toNat * 2^4 + o.code * 2^2 + c.code) (by omega) (by omega) (by omega) (by omega) (by omega) (by omega) (by omega) (by omega)
  generalize wordA 0x0D 1 d.toNat a.toNat b.toNat 0 v.toNat (u.toNat * 2^4 + o.code * 2^2 + c.code) = y at *
  have s0 : fld y 4 4 = u.toNat := fld_part 4 4 _ f7_0 (by decide) (by decide) (by decide) (by simp only [Nat.reducePow, Nat.reduceAdd, Nat.reduceSub]; omega)
  have s1 : fld y 3 2 = o.code := fld_part 3 2 _ f7_0 (by decide) (by decide) (by decide) (by simp only [Nat.reducePow, Nat.reduceAdd, Nat.reduceSub]; omega)
  have s2 : fld y 1 0 = c.code := fld_part 1 0 _ f7_0 (by decide) (by decide) (by decide) (by simp only [Nat.reducePow, Nat.reduceAdd, Nat.reduceSub]; omega)
  refine decode_ok e0 (by rw [e1]; decide) ?_
  rw [inG0D e1]
  unfold decG0D
  rw [e2]
  simp [chk, *] <;> omega
theorem atMax (d : BitVec 4) (a : BitVec 3) (b : BitVec 4) (v : Bool) (u : Bool) (o : AtOrder) (c : Scope) : Statement (.atMax d a b v u o c) := by
  intro _ hw
  have hl_d : d.toNat < 16 := d.isLt
  have hl_a : a.toNat < 8 := a.isLt
  have hl_b : b.toNat < 16 := b.isLt
  have hl_v := bool_lt v
  have hl_u := bool_lt u
  have hl_o := AtOrder_code_lt o
  have hl_c := Scope_code_lt c
  change decode [wordA 0x0D 2 d.toNat a.toNat b.toNat 0 v.toNat (u.toNat * 2^4 + o.code * 2^2 + c.code)] = _
  obtain ⟨e0, e1, e2, f21_18, f17_14, f13_10, f9_9, f8_8, f7_0⟩ := fieldsA 0x0D 2 d.toNat a.toNat b.toNat 0 v.toNat (u.toNat * 2^4 + o.code * 2^2 + c.code) (by omega) (by omega) (by omega) (by omega) (by omega) (by omega) (by omega) (by omega)
  generalize wordA 0x0D 2 d.toNat a.toNat b.toNat 0 v.toNat (u.toNat * 2^4 + o.code * 2^2 + c.code) = y at *
  have s0 : fld y 4 4 = u.toNat := fld_part 4 4 _ f7_0 (by decide) (by decide) (by decide) (by simp only [Nat.reducePow, Nat.reduceAdd, Nat.reduceSub]; omega)
  have s1 : fld y 3 2 = o.code := fld_part 3 2 _ f7_0 (by decide) (by decide) (by decide) (by simp only [Nat.reducePow, Nat.reduceAdd, Nat.reduceSub]; omega)
  have s2 : fld y 1 0 = c.code := fld_part 1 0 _ f7_0 (by decide) (by decide) (by decide) (by simp only [Nat.reducePow, Nat.reduceAdd, Nat.reduceSub]; omega)
  refine decode_ok e0 (by rw [e1]; decide) ?_
  rw [inG0D e1]
  unfold decG0D
  rw [e2]
  simp [chk, *] <;> omega
theorem atAnd (d : BitVec 4) (a : BitVec 3) (b : BitVec 4) (v : Bool) (o : AtOrder) (c : Scope) : Statement (.atAnd d a b v o c) := by
  intro _ hw
  have hl_d : d.toNat < 16 := d.isLt
  have hl_a : a.toNat < 8 := a.isLt
  have hl_b : b.toNat < 16 := b.isLt
  have hl_v := bool_lt v
  have hl_o := AtOrder_code_lt o
  have hl_c := Scope_code_lt c
  change decode [wordA 0x0D 3 d.toNat a.toNat b.toNat 0 v.toNat (o.code * 2^2 + c.code)] = _
  obtain ⟨e0, e1, e2, f21_18, f17_14, f13_10, f9_9, f8_8, f7_0⟩ := fieldsA 0x0D 3 d.toNat a.toNat b.toNat 0 v.toNat (o.code * 2^2 + c.code) (by omega) (by omega) (by omega) (by omega) (by omega) (by omega) (by omega) (by omega)
  generalize wordA 0x0D 3 d.toNat a.toNat b.toNat 0 v.toNat (o.code * 2^2 + c.code) = y at *
  have s0 : fld y 3 2 = o.code := fld_part 3 2 _ f7_0 (by decide) (by decide) (by decide) (by simp only [Nat.reducePow, Nat.reduceAdd, Nat.reduceSub]; omega)
  have s1 : fld y 1 0 = c.code := fld_part 1 0 _ f7_0 (by decide) (by decide) (by decide) (by simp only [Nat.reducePow, Nat.reduceAdd, Nat.reduceSub]; omega)
  refine decode_ok e0 (by rw [e1]; decide) ?_
  rw [inG0D e1]
  unfold decG0D
  rw [e2]
  simp [chk, *] <;> omega
theorem atOr (d : BitVec 4) (a : BitVec 3) (b : BitVec 4) (v : Bool) (o : AtOrder) (c : Scope) : Statement (.atOr d a b v o c) := by
  intro _ hw
  have hl_d : d.toNat < 16 := d.isLt
  have hl_a : a.toNat < 8 := a.isLt
  have hl_b : b.toNat < 16 := b.isLt
  have hl_v := bool_lt v
  have hl_o := AtOrder_code_lt o
  have hl_c := Scope_code_lt c
  change decode [wordA 0x0D 4 d.toNat a.toNat b.toNat 0 v.toNat (o.code * 2^2 + c.code)] = _
  obtain ⟨e0, e1, e2, f21_18, f17_14, f13_10, f9_9, f8_8, f7_0⟩ := fieldsA 0x0D 4 d.toNat a.toNat b.toNat 0 v.toNat (o.code * 2^2 + c.code) (by omega) (by omega) (by omega) (by omega) (by omega) (by omega) (by omega) (by omega)
  generalize wordA 0x0D 4 d.toNat a.toNat b.toNat 0 v.toNat (o.code * 2^2 + c.code) = y at *
  have s0 : fld y 3 2 = o.code := fld_part 3 2 _ f7_0 (by decide) (by decide) (by decide) (by simp only [Nat.reducePow, Nat.reduceAdd, Nat.reduceSub]; omega)
  have s1 : fld y 1 0 = c.code := fld_part 1 0 _ f7_0 (by decide) (by decide) (by decide) (by simp only [Nat.reducePow, Nat.reduceAdd, Nat.reduceSub]; omega)
  refine decode_ok e0 (by rw [e1]; decide) ?_
  rw [inG0D e1]
  unfold decG0D
  rw [e2]
  simp [chk, *] <;> omega
theorem atXchg (d : BitVec 4) (a : BitVec 3) (b : BitVec 4) (v : Bool) (o : AtOrder) (c : Scope) : Statement (.atXchg d a b v o c) := by
  intro _ hw
  have hl_d : d.toNat < 16 := d.isLt
  have hl_a : a.toNat < 8 := a.isLt
  have hl_b : b.toNat < 16 := b.isLt
  have hl_v := bool_lt v
  have hl_o := AtOrder_code_lt o
  have hl_c := Scope_code_lt c
  change decode [wordA 0x0D 5 d.toNat a.toNat b.toNat 0 v.toNat (o.code * 2^2 + c.code)] = _
  obtain ⟨e0, e1, e2, f21_18, f17_14, f13_10, f9_9, f8_8, f7_0⟩ := fieldsA 0x0D 5 d.toNat a.toNat b.toNat 0 v.toNat (o.code * 2^2 + c.code) (by omega) (by omega) (by omega) (by omega) (by omega) (by omega) (by omega) (by omega)
  generalize wordA 0x0D 5 d.toNat a.toNat b.toNat 0 v.toNat (o.code * 2^2 + c.code) = y at *
  have s0 : fld y 3 2 = o.code := fld_part 3 2 _ f7_0 (by decide) (by decide) (by decide) (by simp only [Nat.reducePow, Nat.reduceAdd, Nat.reduceSub]; omega)
  have s1 : fld y 1 0 = c.code := fld_part 1 0 _ f7_0 (by decide) (by decide) (by decide) (by simp only [Nat.reducePow, Nat.reduceAdd, Nat.reduceSub]; omega)
  refine decode_ok e0 (by rw [e1]; decide) ?_
  rw [inG0D e1]
  unfold decG0D
  rw [e2]
  simp [chk, *] <;> omega
theorem atCas (d : BitVec 4) (a : BitVec 3) (b : BitVec 4) (v : Bool) (o : AtOrder) (c : Scope) : Statement (.atCas d a b v o c) := by
  intro _ hw
  have hl_d : d.toNat < 16 := d.isLt
  have hl_a : a.toNat < 8 := a.isLt
  have hl_b : b.toNat < 16 := b.isLt
  have hl_v := bool_lt v
  have hl_o := AtOrder_code_lt o
  have hl_c := Scope_code_lt c
  change decode [wordA 0x0D 6 d.toNat a.toNat b.toNat 0 v.toNat (o.code * 2^2 + c.code)] = _
  obtain ⟨e0, e1, e2, f21_18, f17_14, f13_10, f9_9, f8_8, f7_0⟩ := fieldsA 0x0D 6 d.toNat a.toNat b.toNat 0 v.toNat (o.code * 2^2 + c.code) (by omega) (by omega) (by omega) (by omega) (by omega) (by omega) (by omega) (by omega)
  generalize wordA 0x0D 6 d.toNat a.toNat b.toNat 0 v.toNat (o.code * 2^2 + c.code) = y at *
  have s0 : fld y 3 2 = o.code := fld_part 3 2 _ f7_0 (by decide) (by decide) (by decide) (by simp only [Nat.reducePow, Nat.reduceAdd, Nat.reduceSub]; omega)
  have s1 : fld y 1 0 = c.code := fld_part 1 0 _ f7_0 (by decide) (by decide) (by decide) (by simp only [Nat.reducePow, Nat.reduceAdd, Nat.reduceSub]; omega)
  refine decode_ok e0 (by rw [e1]; decide) ?_
  rw [inG0D e1]
  unfold decG0D
  rw [e2]
  simp [chk, *] <;> omega
theorem cpJob (a : BitVec 4) (w : Bool) : Statement (.cpJob a w) := by
  intro _ hw
  have hl_a : a.toNat < 16 := a.isLt
  have hl_w := bool_lt w
  change decode [wordA 0x0E 0 0 a.toNat 0 w.toNat 0 0] = _
  obtain ⟨e0, e1, e2, f21_18, f17_14, f13_10, f9_9, f8_8, f7_0⟩ := fieldsA 0x0E 0 0 a.toNat 0 w.toNat 0 0 (by omega) (by omega) (by omega) (by omega) (by omega) (by omega) (by omega) (by omega)
  generalize wordA 0x0E 0 0 a.toNat 0 w.toNat 0 0 = y at *
  refine decode_ok e0 (by rw [e1]; decide) ?_
  rw [inG0E e1]
  unfold decG0E
  rw [e2]
  simp [chk, *]
theorem cpWait (d : BitVec 4) (a : BitVec 4) (w : Bool) : Statement (.cpWait d a w) := by
  intro _ hw
  have hl_d : d.toNat < 16 := d.isLt
  have hl_a : a.toNat < 16 := a.isLt
  have hl_w := bool_lt w
  change decode [wordA 0x0E 1 d.toNat a.toNat 0 w.toNat 0 0] = _
  obtain ⟨e0, e1, e2, f21_18, f17_14, f13_10, f9_9, f8_8, f7_0⟩ := fieldsA 0x0E 1 d.toNat a.toNat 0 w.toNat 0 0 (by omega) (by omega) (by omega) (by omega) (by omega) (by omega) (by omega) (by omega)
  generalize wordA 0x0E 1 d.toNat a.toNat 0 w.toNat 0 0 = y at *
  refine decode_ok e0 (by rw [e1]; decide) ?_
  rw [inG0E e1]
  unfold decG0E
  rw [e2]
  simp [chk, *]
theorem clGather (a : BitVec 4) (w : Bool) : Statement (.clGather a w) := by
  intro _ hw
  have hl_a : a.toNat < 16 := a.isLt
  have hl_w := bool_lt w
  change decode [wordA 0x0E 2 0 a.toNat 0 w.toNat 0 0] = _
  obtain ⟨e0, e1, e2, f21_18, f17_14, f13_10, f9_9, f8_8, f7_0⟩ := fieldsA 0x0E 2 0 a.toNat 0 w.toNat 0 0 (by omega) (by omega) (by omega) (by omega) (by omega) (by omega) (by omega) (by omega)
  generalize wordA 0x0E 2 0 a.toNat 0 w.toNat 0 0 = y at *
  refine decode_ok e0 (by rw [e1]; decide) ?_
  rw [inG0E e1]
  unfold decG0E
  rw [e2]
  simp [chk, *]
theorem clScatter (a : BitVec 4) (w : Bool) : Statement (.clScatter a w) := by
  intro _ hw
  have hl_a : a.toNat < 16 := a.isLt
  have hl_w := bool_lt w
  change decode [wordA 0x0E 3 0 a.toNat 0 w.toNat 0 0] = _
  obtain ⟨e0, e1, e2, f21_18, f17_14, f13_10, f9_9, f8_8, f7_0⟩ := fieldsA 0x0E 3 0 a.toNat 0 w.toNat 0 0 (by omega) (by omega) (by omega) (by omega) (by omega) (by omega) (by omega) (by omega)
  generalize wordA 0x0E 3 0 a.toNat 0 w.toNat 0 0 = y at *
  refine decode_ok e0 (by rw [e1]; decide) ?_
  rw [inG0E e1]
  unfold decG0E
  rw [e2]
  simp [chk, *]
theorem clReduce (a : BitVec 4) (w : Bool) : Statement (.clReduce a w) := by
  intro _ hw
  have hl_a : a.toNat < 16 := a.isLt
  have hl_w := bool_lt w
  change decode [wordA 0x0E 4 0 a.toNat 0 w.toNat 0 0] = _
  obtain ⟨e0, e1, e2, f21_18, f17_14, f13_10, f9_9, f8_8, f7_0⟩ := fieldsA 0x0E 4 0 a.toNat 0 w.toNat 0 0 (by omega) (by omega) (by omega) (by omega) (by omega) (by omega) (by omega) (by omega)
  generalize wordA 0x0E 4 0 a.toNat 0 w.toNat 0 0 = y at *
  refine decode_ok e0 (by rw [e1]; decide) ?_
  rw [inG0E e1]
  unfold decG0E
  rw [e2]
  simp [chk, *]
theorem clSend (a : BitVec 4) (w : Bool) : Statement (.clSend a w) := by
  intro _ hw
  have hl_a : a.toNat < 16 := a.isLt
  have hl_w := bool_lt w
  change decode [wordA 0x0E 5 0 a.toNat 0 w.toNat 0 0] = _
  obtain ⟨e0, e1, e2, f21_18, f17_14, f13_10, f9_9, f8_8, f7_0⟩ := fieldsA 0x0E 5 0 a.toNat 0 w.toNat 0 0 (by omega) (by omega) (by omega) (by omega) (by omega) (by omega) (by omega) (by omega)
  generalize wordA 0x0E 5 0 a.toNat 0 w.toNat 0 0 = y at *
  refine decode_ok e0 (by rw [e1]; decide) ?_
  rw [inG0E e1]
  unfold decG0E
  rw [e2]
  simp [chk, *]
theorem clRecv (a : BitVec 4) (w : Bool) : Statement (.clRecv a w) := by
  intro _ hw
  have hl_a : a.toNat < 16 := a.isLt
  have hl_w := bool_lt w
  change decode [wordA 0x0E 6 0 a.toNat 0 w.toNat 0 0] = _
  obtain ⟨e0, e1, e2, f21_18, f17_14, f13_10, f9_9, f8_8, f7_0⟩ := fieldsA 0x0E 6 0 a.toNat 0 w.toNat 0 0 (by omega) (by omega) (by omega) (by omega) (by omega) (by omega) (by omega) (by omega)
  generalize wordA 0x0E 6 0 a.toNat 0 w.toNat 0 0 = y at *
  refine decode_ok e0 (by rw [e1]; decide) ?_
  rw [inG0E e1]
  unfold decG0E
  rw [e2]
  simp [chk, *]
theorem vAdd (d : BitVec 4) (a : BitVec 4) (b : BitVec 4) (k : Option (BitVec 2)) (e : EType) : Statement (.vAdd d a b k e) := by
  intro _ hw
  have hl_d : d.toNat < 16 := d.isLt
  have hl_a : a.toNat < 16 := a.isLt
  have hl_b : b.toNat < 16 := b.isLt
  have hl_k := maskCode_lt k
  have hm_k := skipCode_lt k
  have hl_e := EType_code_lt e
  have hw : (([.f32, .bf16, .f16] : List EType).contains e) = true := hw
  change decode [wordT 0x10 0 d.toNat a.toNat b.toNat (maskCode k) e.code] = _
  obtain ⟨e0, e1, e2, f19_16, f15_12, f11_8, f7_4, f3_0⟩ := fieldsT 0x10 0 d.toNat a.toNat b.toNat (maskCode k) e.code (by omega) (by omega) (by omega) (by omega) (by omega) (by omega) (by omega)
  generalize wordT 0x10 0 d.toNat a.toNat b.toNat (maskCode k) e.code = y at *
  refine decode_ok e0 (by rw [e1]; decide) ?_
  rw [inG10 e1]
  unfold decG10
  rw [e2]
  have ha := any_code hw
  simp only [f19_16, f15_12, f11_8, f7_4, f3_0, ha]
  simp [chk, *]
theorem vSub (d : BitVec 4) (a : BitVec 4) (b : BitVec 4) (k : Option (BitVec 2)) (e : EType) : Statement (.vSub d a b k e) := by
  intro _ hw
  have hl_d : d.toNat < 16 := d.isLt
  have hl_a : a.toNat < 16 := a.isLt
  have hl_b : b.toNat < 16 := b.isLt
  have hl_k := maskCode_lt k
  have hm_k := skipCode_lt k
  have hl_e := EType_code_lt e
  have hw : (([.f32, .bf16, .f16] : List EType).contains e) = true := hw
  change decode [wordT 0x10 1 d.toNat a.toNat b.toNat (maskCode k) e.code] = _
  obtain ⟨e0, e1, e2, f19_16, f15_12, f11_8, f7_4, f3_0⟩ := fieldsT 0x10 1 d.toNat a.toNat b.toNat (maskCode k) e.code (by omega) (by omega) (by omega) (by omega) (by omega) (by omega) (by omega)
  generalize wordT 0x10 1 d.toNat a.toNat b.toNat (maskCode k) e.code = y at *
  refine decode_ok e0 (by rw [e1]; decide) ?_
  rw [inG10 e1]
  unfold decG10
  rw [e2]
  have ha := any_code hw
  simp only [f19_16, f15_12, f11_8, f7_4, f3_0, ha]
  simp [chk, *]
theorem vMul (d : BitVec 4) (a : BitVec 4) (b : BitVec 4) (k : Option (BitVec 2)) (e : EType) : Statement (.vMul d a b k e) := by
  intro _ hw
  have hl_d : d.toNat < 16 := d.isLt
  have hl_a : a.toNat < 16 := a.isLt
  have hl_b : b.toNat < 16 := b.isLt
  have hl_k := maskCode_lt k
  have hm_k := skipCode_lt k
  have hl_e := EType_code_lt e
  have hw : (([.f32, .bf16, .f16] : List EType).contains e) = true := hw
  change decode [wordT 0x10 2 d.toNat a.toNat b.toNat (maskCode k) e.code] = _
  obtain ⟨e0, e1, e2, f19_16, f15_12, f11_8, f7_4, f3_0⟩ := fieldsT 0x10 2 d.toNat a.toNat b.toNat (maskCode k) e.code (by omega) (by omega) (by omega) (by omega) (by omega) (by omega) (by omega)
  generalize wordT 0x10 2 d.toNat a.toNat b.toNat (maskCode k) e.code = y at *
  refine decode_ok e0 (by rw [e1]; decide) ?_
  rw [inG10 e1]
  unfold decG10
  rw [e2]
  have ha := any_code hw
  simp only [f19_16, f15_12, f11_8, f7_4, f3_0, ha]
  simp [chk, *]
theorem vFma (d : BitVec 4) (a : BitVec 4) (b : BitVec 4) (c : BitVec 4) (e : EType) : Statement (.vFma d a b c e) := by
  intro _ hw
  have hl_d : d.toNat < 16 := d.isLt
  have hl_a : a.toNat < 16 := a.isLt
  have hl_b : b.toNat < 16 := b.isLt
  have hl_c : c.toNat < 16 := c.isLt
  have hl_e := EType_code_lt e
  have hw : (([.f32, .bf16, .f16] : List EType).contains e) = true := hw
  change decode [wordT 0x10 3 d.toNat a.toNat b.toNat c.toNat e.code] = _
  obtain ⟨e0, e1, e2, f19_16, f15_12, f11_8, f7_4, f3_0⟩ := fieldsT 0x10 3 d.toNat a.toNat b.toNat c.toNat e.code (by omega) (by omega) (by omega) (by omega) (by omega) (by omega) (by omega)
  generalize wordT 0x10 3 d.toNat a.toNat b.toNat c.toNat e.code = y at *
  refine decode_ok e0 (by rw [e1]; decide) ?_
  rw [inG10 e1]
  unfold decG10
  rw [e2]
  have ha := any_code hw
  simp only [f19_16, f15_12, f11_8, f7_4, f3_0, ha]
  simp [chk, *]
theorem vFms (d : BitVec 4) (a : BitVec 4) (b : BitVec 4) (c : BitVec 4) (e : EType) : Statement (.vFms d a b c e) := by
  intro _ hw
  have hl_d : d.toNat < 16 := d.isLt
  have hl_a : a.toNat < 16 := a.isLt
  have hl_b : b.toNat < 16 := b.isLt
  have hl_c : c.toNat < 16 := c.isLt
  have hl_e := EType_code_lt e
  have hw : (([.f32, .bf16, .f16] : List EType).contains e) = true := hw
  change decode [wordT 0x10 4 d.toNat a.toNat b.toNat c.toNat e.code] = _
  obtain ⟨e0, e1, e2, f19_16, f15_12, f11_8, f7_4, f3_0⟩ := fieldsT 0x10 4 d.toNat a.toNat b.toNat c.toNat e.code (by omega) (by omega) (by omega) (by omega) (by omega) (by omega) (by omega)
  generalize wordT 0x10 4 d.toNat a.toNat b.toNat c.toNat e.code = y at *
  refine decode_ok e0 (by rw [e1]; decide) ?_
  rw [inG10 e1]
  unfold decG10
  rw [e2]
  have ha := any_code hw
  simp only [f19_16, f15_12, f11_8, f7_4, f3_0, ha]
  simp [chk, *]
theorem vFnma (d : BitVec 4) (a : BitVec 4) (b : BitVec 4) (c : BitVec 4) (e : EType) : Statement (.vFnma d a b c e) := by
  intro _ hw
  have hl_d : d.toNat < 16 := d.isLt
  have hl_a : a.toNat < 16 := a.isLt
  have hl_b : b.toNat < 16 := b.isLt
  have hl_c : c.toNat < 16 := c.isLt
  have hl_e := EType_code_lt e
  have hw : (([.f32, .bf16, .f16] : List EType).contains e) = true := hw
  change decode [wordT 0x10 5 d.toNat a.toNat b.toNat c.toNat e.code] = _
  obtain ⟨e0, e1, e2, f19_16, f15_12, f11_8, f7_4, f3_0⟩ := fieldsT 0x10 5 d.toNat a.toNat b.toNat c.toNat e.code (by omega) (by omega) (by omega) (by omega) (by omega) (by omega) (by omega)
  generalize wordT 0x10 5 d.toNat a.toNat b.toNat c.toNat e.code = y at *
  refine decode_ok e0 (by rw [e1]; decide) ?_
  rw [inG10 e1]
  unfold decG10
  rw [e2]
  have ha := any_code hw
  simp only [f19_16, f15_12, f11_8, f7_4, f3_0, ha]
  simp [chk, *]
theorem vAbs (d : BitVec 4) (a : BitVec 4) (k : Option (BitVec 2)) (e : EType) : Statement (.vAbs d a k e) := by
  intro _ hw
  have hl_d : d.toNat < 16 := d.isLt
  have hl_a : a.toNat < 16 := a.isLt
  have hl_k := maskCode_lt k
  have hm_k := skipCode_lt k
  have hl_e := EType_code_lt e
  have hw : (([.f32, .bf16, .f16] : List EType).contains e) = true := hw
  change decode [wordT 0x10 6 d.toNat a.toNat 0 (maskCode k) e.code] = _
  obtain ⟨e0, e1, e2, f19_16, f15_12, f11_8, f7_4, f3_0⟩ := fieldsT 0x10 6 d.toNat a.toNat 0 (maskCode k) e.code (by omega) (by omega) (by omega) (by omega) (by omega) (by omega) (by omega)
  generalize wordT 0x10 6 d.toNat a.toNat 0 (maskCode k) e.code = y at *
  refine decode_ok e0 (by rw [e1]; decide) ?_
  rw [inG10 e1]
  unfold decG10
  rw [e2]
  have ha := any_code hw
  simp only [f19_16, f15_12, f11_8, f7_4, f3_0, ha]
  simp [chk, *]
theorem vNeg (d : BitVec 4) (a : BitVec 4) (k : Option (BitVec 2)) (e : EType) : Statement (.vNeg d a k e) := by
  intro _ hw
  have hl_d : d.toNat < 16 := d.isLt
  have hl_a : a.toNat < 16 := a.isLt
  have hl_k := maskCode_lt k
  have hm_k := skipCode_lt k
  have hl_e := EType_code_lt e
  have hw : (([.f32, .bf16, .f16] : List EType).contains e) = true := hw
  change decode [wordT 0x10 7 d.toNat a.toNat 0 (maskCode k) e.code] = _
  obtain ⟨e0, e1, e2, f19_16, f15_12, f11_8, f7_4, f3_0⟩ := fieldsT 0x10 7 d.toNat a.toNat 0 (maskCode k) e.code (by omega) (by omega) (by omega) (by omega) (by omega) (by omega) (by omega)
  generalize wordT 0x10 7 d.toNat a.toNat 0 (maskCode k) e.code = y at *
  refine decode_ok e0 (by rw [e1]; decide) ?_
  rw [inG10 e1]
  unfold decG10
  rw [e2]
  have ha := any_code hw
  simp only [f19_16, f15_12, f11_8, f7_4, f3_0, ha]
  simp [chk, *]
theorem vScl (d : BitVec 4) (a : BitVec 4) (b : BitVec 4) (k : Option (BitVec 2)) (e : EType) : Statement (.vScl d a b k e) := by
  intro _ hw
  have hl_d : d.toNat < 16 := d.isLt
  have hl_a : a.toNat < 16 := a.isLt
  have hl_b : b.toNat < 16 := b.isLt
  have hl_k := maskCode_lt k
  have hm_k := skipCode_lt k
  have hl_e := EType_code_lt e
  have hw : (([.f32, .bf16, .f16] : List EType).contains e) = true := hw
  change decode [wordT 0x10 8 d.toNat a.toNat b.toNat (maskCode k) e.code] = _
  obtain ⟨e0, e1, e2, f19_16, f15_12, f11_8, f7_4, f3_0⟩ := fieldsT 0x10 8 d.toNat a.toNat b.toNat (maskCode k) e.code (by omega) (by omega) (by omega) (by omega) (by omega) (by omega) (by omega)
  generalize wordT 0x10 8 d.toNat a.toNat b.toNat (maskCode k) e.code = y at *
  refine decode_ok e0 (by rw [e1]; decide) ?_
  rw [inG10 e1]
  unfold decG10
  rw [e2]
  have ha := any_code hw
  simp only [f19_16, f15_12, f11_8, f7_4, f3_0, ha]
  simp [chk, *]
theorem vCeq (d : BitVec 4) (a : BitVec 4) (b : BitVec 4) (k : Option (BitVec 2)) (e : EType) : Statement (.vCeq d a b k e) := by
  intro _ hw
  have hl_d : d.toNat < 16 := d.isLt
  have hl_a : a.toNat < 16 := a.isLt
  have hl_b : b.toNat < 16 := b.isLt
  have hl_k := maskCode_lt k
  have hm_k := skipCode_lt k
  have hl_e := EType_code_lt e
  have hw : (([.f32, .bf16, .f16] : List EType).contains e) = true := hw
  change decode [wordT 0x11 0 d.toNat a.toNat b.toNat (maskCode k) e.code] = _
  obtain ⟨e0, e1, e2, f19_16, f15_12, f11_8, f7_4, f3_0⟩ := fieldsT 0x11 0 d.toNat a.toNat b.toNat (maskCode k) e.code (by omega) (by omega) (by omega) (by omega) (by omega) (by omega) (by omega)
  generalize wordT 0x11 0 d.toNat a.toNat b.toNat (maskCode k) e.code = y at *
  refine decode_ok e0 (by rw [e1]; decide) ?_
  rw [inG11 e1]
  unfold decG11
  rw [e2]
  have ha := any_code hw
  simp only [f19_16, f15_12, f11_8, f7_4, f3_0, ha]
  simp [chk, *]
theorem vCne (d : BitVec 4) (a : BitVec 4) (b : BitVec 4) (k : Option (BitVec 2)) (e : EType) : Statement (.vCne d a b k e) := by
  intro _ hw
  have hl_d : d.toNat < 16 := d.isLt
  have hl_a : a.toNat < 16 := a.isLt
  have hl_b : b.toNat < 16 := b.isLt
  have hl_k := maskCode_lt k
  have hm_k := skipCode_lt k
  have hl_e := EType_code_lt e
  have hw : (([.f32, .bf16, .f16] : List EType).contains e) = true := hw
  change decode [wordT 0x11 1 d.toNat a.toNat b.toNat (maskCode k) e.code] = _
  obtain ⟨e0, e1, e2, f19_16, f15_12, f11_8, f7_4, f3_0⟩ := fieldsT 0x11 1 d.toNat a.toNat b.toNat (maskCode k) e.code (by omega) (by omega) (by omega) (by omega) (by omega) (by omega) (by omega)
  generalize wordT 0x11 1 d.toNat a.toNat b.toNat (maskCode k) e.code = y at *
  refine decode_ok e0 (by rw [e1]; decide) ?_
  rw [inG11 e1]
  unfold decG11
  rw [e2]
  have ha := any_code hw
  simp only [f19_16, f15_12, f11_8, f7_4, f3_0, ha]
  simp [chk, *]
theorem vClt (d : BitVec 4) (a : BitVec 4) (b : BitVec 4) (k : Option (BitVec 2)) (e : EType) : Statement (.vClt d a b k e) := by
  intro _ hw
  have hl_d : d.toNat < 16 := d.isLt
  have hl_a : a.toNat < 16 := a.isLt
  have hl_b : b.toNat < 16 := b.isLt
  have hl_k := maskCode_lt k
  have hm_k := skipCode_lt k
  have hl_e := EType_code_lt e
  have hw : (([.f32, .bf16, .f16] : List EType).contains e) = true := hw
  change decode [wordT 0x11 2 d.toNat a.toNat b.toNat (maskCode k) e.code] = _
  obtain ⟨e0, e1, e2, f19_16, f15_12, f11_8, f7_4, f3_0⟩ := fieldsT 0x11 2 d.toNat a.toNat b.toNat (maskCode k) e.code (by omega) (by omega) (by omega) (by omega) (by omega) (by omega) (by omega)
  generalize wordT 0x11 2 d.toNat a.toNat b.toNat (maskCode k) e.code = y at *
  refine decode_ok e0 (by rw [e1]; decide) ?_
  rw [inG11 e1]
  unfold decG11
  rw [e2]
  have ha := any_code hw
  simp only [f19_16, f15_12, f11_8, f7_4, f3_0, ha]
  simp [chk, *]
theorem vCle (d : BitVec 4) (a : BitVec 4) (b : BitVec 4) (k : Option (BitVec 2)) (e : EType) : Statement (.vCle d a b k e) := by
  intro _ hw
  have hl_d : d.toNat < 16 := d.isLt
  have hl_a : a.toNat < 16 := a.isLt
  have hl_b : b.toNat < 16 := b.isLt
  have hl_k := maskCode_lt k
  have hm_k := skipCode_lt k
  have hl_e := EType_code_lt e
  have hw : (([.f32, .bf16, .f16] : List EType).contains e) = true := hw
  change decode [wordT 0x11 3 d.toNat a.toNat b.toNat (maskCode k) e.code] = _
  obtain ⟨e0, e1, e2, f19_16, f15_12, f11_8, f7_4, f3_0⟩ := fieldsT 0x11 3 d.toNat a.toNat b.toNat (maskCode k) e.code (by omega) (by omega) (by omega) (by omega) (by omega) (by omega) (by omega)
  generalize wordT 0x11 3 d.toNat a.toNat b.toNat (maskCode k) e.code = y at *
  refine decode_ok e0 (by rw [e1]; decide) ?_
  rw [inG11 e1]
  unfold decG11
  rw [e2]
  have ha := any_code hw
  simp only [f19_16, f15_12, f11_8, f7_4, f3_0, ha]
  simp [chk, *]
theorem vCun (d : BitVec 4) (a : BitVec 4) (b : BitVec 4) (k : Option (BitVec 2)) (e : EType) : Statement (.vCun d a b k e) := by
  intro _ hw
  have hl_d : d.toNat < 16 := d.isLt
  have hl_a : a.toNat < 16 := a.isLt
  have hl_b : b.toNat < 16 := b.isLt
  have hl_k := maskCode_lt k
  have hm_k := skipCode_lt k
  have hl_e := EType_code_lt e
  have hw : (([.f32, .bf16, .f16] : List EType).contains e) = true := hw
  change decode [wordT 0x11 4 d.toNat a.toNat b.toNat (maskCode k) e.code] = _
  obtain ⟨e0, e1, e2, f19_16, f15_12, f11_8, f7_4, f3_0⟩ := fieldsT 0x11 4 d.toNat a.toNat b.toNat (maskCode k) e.code (by omega) (by omega) (by omega) (by omega) (by omega) (by omega) (by omega)
  generalize wordT 0x11 4 d.toNat a.toNat b.toNat (maskCode k) e.code = y at *
  refine decode_ok e0 (by rw [e1]; decide) ?_
  rw [inG11 e1]
  unfold decG11
  rw [e2]
  have ha := any_code hw
  simp only [f19_16, f15_12, f11_8, f7_4, f3_0, ha]
  simp [chk, *]
theorem vSel (d : BitVec 4) (a : BitVec 4) (b : BitVec 4) (c : BitVec 4) (e : EType) : Statement (.vSel d a b c e) := by
  intro _ hw
  have hl_d : d.toNat < 16 := d.isLt
  have hl_a : a.toNat < 16 := a.isLt
  have hl_b : b.toNat < 16 := b.isLt
  have hl_c : c.toNat < 16 := c.isLt
  have hl_e := EType_code_lt e
  have hw : (([.f32, .bf16, .f16, .e4m3, .e5m2, .i8, .i16, .i32, .i64, .e8m0, .untyped] : List EType).contains e) = true := hw
  change decode [wordT 0x11 5 d.toNat a.toNat b.toNat c.toNat e.code] = _
  obtain ⟨e0, e1, e2, f19_16, f15_12, f11_8, f7_4, f3_0⟩ := fieldsT 0x11 5 d.toNat a.toNat b.toNat c.toNat e.code (by omega) (by omega) (by omega) (by omega) (by omega) (by omega) (by omega)
  generalize wordT 0x11 5 d.toNat a.toNat b.toNat c.toNat e.code = y at *
  refine decode_ok e0 (by rw [e1]; decide) ?_
  rw [inG11 e1]
  unfold decG11
  rw [e2]
  have ha := any_code hw
  simp only [f19_16, f15_12, f11_8, f7_4, f3_0, ha]
  simp [chk, *]
theorem vMin (d : BitVec 4) (a : BitVec 4) (b : BitVec 4) (k : Option (BitVec 2)) (e : EType) : Statement (.vMin d a b k e) := by
  intro _ hw
  have hl_d : d.toNat < 16 := d.isLt
  have hl_a : a.toNat < 16 := a.isLt
  have hl_b : b.toNat < 16 := b.isLt
  have hl_k := maskCode_lt k
  have hm_k := skipCode_lt k
  have hl_e := EType_code_lt e
  have hw : (([.f32, .bf16, .f16] : List EType).contains e) = true := hw
  change decode [wordT 0x11 6 d.toNat a.toNat b.toNat (maskCode k) e.code] = _
  obtain ⟨e0, e1, e2, f19_16, f15_12, f11_8, f7_4, f3_0⟩ := fieldsT 0x11 6 d.toNat a.toNat b.toNat (maskCode k) e.code (by omega) (by omega) (by omega) (by omega) (by omega) (by omega) (by omega)
  generalize wordT 0x11 6 d.toNat a.toNat b.toNat (maskCode k) e.code = y at *
  refine decode_ok e0 (by rw [e1]; decide) ?_
  rw [inG11 e1]
  unfold decG11
  rw [e2]
  have ha := any_code hw
  simp only [f19_16, f15_12, f11_8, f7_4, f3_0, ha]
  simp [chk, *]
theorem vMax (d : BitVec 4) (a : BitVec 4) (b : BitVec 4) (k : Option (BitVec 2)) (e : EType) : Statement (.vMax d a b k e) := by
  intro _ hw
  have hl_d : d.toNat < 16 := d.isLt
  have hl_a : a.toNat < 16 := a.isLt
  have hl_b : b.toNat < 16 := b.isLt
  have hl_k := maskCode_lt k
  have hm_k := skipCode_lt k
  have hl_e := EType_code_lt e
  have hw : (([.f32, .bf16, .f16] : List EType).contains e) = true := hw
  change decode [wordT 0x11 7 d.toNat a.toNat b.toNat (maskCode k) e.code] = _
  obtain ⟨e0, e1, e2, f19_16, f15_12, f11_8, f7_4, f3_0⟩ := fieldsT 0x11 7 d.toNat a.toNat b.toNat (maskCode k) e.code (by omega) (by omega) (by omega) (by omega) (by omega) (by omega) (by omega)
  generalize wordT 0x11 7 d.toNat a.toNat b.toNat (maskCode k) e.code = y at *
  refine decode_ok e0 (by rw [e1]; decide) ?_
  rw [inG11 e1]
  unfold decG11
  rw [e2]
  have ha := any_code hw
  simp only [f19_16, f15_12, f11_8, f7_4, f3_0, ha]
  simp [chk, *]
theorem vClamp (d : BitVec 4) (a : BitVec 4) (b : BitVec 4) (c : BitVec 4) (e : EType) : Statement (.vClamp d a b c e) := by
  intro _ hw
  have hl_d : d.toNat < 16 := d.isLt
  have hl_a : a.toNat < 16 := a.isLt
  have hl_b : b.toNat < 16 := b.isLt
  have hl_c : c.toNat < 16 := c.isLt
  have hl_e := EType_code_lt e
  have hw : (([.f32, .bf16, .f16] : List EType).contains e) = true := hw
  change decode [wordT 0x11 8 d.toNat a.toNat b.toNat c.toNat e.code] = _
  obtain ⟨e0, e1, e2, f19_16, f15_12, f11_8, f7_4, f3_0⟩ := fieldsT 0x11 8 d.toNat a.toNat b.toNat c.toNat e.code (by omega) (by omega) (by omega) (by omega) (by omega) (by omega) (by omega)
  generalize wordT 0x11 8 d.toNat a.toNat b.toNat c.toNat e.code = y at *
  refine decode_ok e0 (by rw [e1]; decide) ?_
  rw [inG11 e1]
  unfold decG11
  rw [e2]
  have ha := any_code hw
  simp only [f19_16, f15_12, f11_8, f7_4, f3_0, ha]
  simp [chk, *]
theorem vIadd (d : BitVec 4) (a : BitVec 4) (b : BitVec 4) (k : Option (BitVec 2)) (e : EType) : Statement (.vIadd d a b k e) := by
  intro _ hw
  have hl_d : d.toNat < 16 := d.isLt
  have hl_a : a.toNat < 16 := a.isLt
  have hl_b : b.toNat < 16 := b.isLt
  have hl_k := maskCode_lt k
  have hm_k := skipCode_lt k
  have hl_e := EType_code_lt e
  have hw : (([.i8, .i16, .i32, .i64] : List EType).contains e) = true := hw
  change decode [wordT 0x12 0 d.toNat a.toNat b.toNat (maskCode k) e.code] = _
  obtain ⟨e0, e1, e2, f19_16, f15_12, f11_8, f7_4, f3_0⟩ := fieldsT 0x12 0 d.toNat a.toNat b.toNat (maskCode k) e.code (by omega) (by omega) (by omega) (by omega) (by omega) (by omega) (by omega)
  generalize wordT 0x12 0 d.toNat a.toNat b.toNat (maskCode k) e.code = y at *
  refine decode_ok e0 (by rw [e1]; decide) ?_
  rw [inG12 e1]
  unfold decG12
  rw [e2]
  have ha := any_code hw
  simp only [f19_16, f15_12, f11_8, f7_4, f3_0, ha]
  simp [chk, *]
theorem vIsub (d : BitVec 4) (a : BitVec 4) (b : BitVec 4) (k : Option (BitVec 2)) (e : EType) : Statement (.vIsub d a b k e) := by
  intro _ hw
  have hl_d : d.toNat < 16 := d.isLt
  have hl_a : a.toNat < 16 := a.isLt
  have hl_b : b.toNat < 16 := b.isLt
  have hl_k := maskCode_lt k
  have hm_k := skipCode_lt k
  have hl_e := EType_code_lt e
  have hw : (([.i8, .i16, .i32, .i64] : List EType).contains e) = true := hw
  change decode [wordT 0x12 1 d.toNat a.toNat b.toNat (maskCode k) e.code] = _
  obtain ⟨e0, e1, e2, f19_16, f15_12, f11_8, f7_4, f3_0⟩ := fieldsT 0x12 1 d.toNat a.toNat b.toNat (maskCode k) e.code (by omega) (by omega) (by omega) (by omega) (by omega) (by omega) (by omega)
  generalize wordT 0x12 1 d.toNat a.toNat b.toNat (maskCode k) e.code = y at *
  refine decode_ok e0 (by rw [e1]; decide) ?_
  rw [inG12 e1]
  unfold decG12
  rw [e2]
  have ha := any_code hw
  simp only [f19_16, f15_12, f11_8, f7_4, f3_0, ha]
  simp [chk, *]
theorem vImul (d : BitVec 4) (a : BitVec 4) (b : BitVec 4) (k : Option (BitVec 2)) (e : EType) : Statement (.vImul d a b k e) := by
  intro _ hw
  have hl_d : d.toNat < 16 := d.isLt
  have hl_a : a.toNat < 16 := a.isLt
  have hl_b : b.toNat < 16 := b.isLt
  have hl_k := maskCode_lt k
  have hm_k := skipCode_lt k
  have hl_e := EType_code_lt e
  have hw : (([.i8, .i16, .i32] : List EType).contains e) = true := hw
  change decode [wordT 0x12 2 d.toNat a.toNat b.toNat (maskCode k) e.code] = _
  obtain ⟨e0, e1, e2, f19_16, f15_12, f11_8, f7_4, f3_0⟩ := fieldsT 0x12 2 d.toNat a.toNat b.toNat (maskCode k) e.code (by omega) (by omega) (by omega) (by omega) (by omega) (by omega) (by omega)
  generalize wordT 0x12 2 d.toNat a.toNat b.toNat (maskCode k) e.code = y at *
  refine decode_ok e0 (by rw [e1]; decide) ?_
  rw [inG12 e1]
  unfold decG12
  rw [e2]
  have ha := any_code hw
  simp only [f19_16, f15_12, f11_8, f7_4, f3_0, ha]
  simp [chk, *]
theorem vAnd (d : BitVec 4) (a : BitVec 4) (b : BitVec 4) (k : Option (BitVec 2)) (e : EType) : Statement (.vAnd d a b k e) := by
  intro _ hw
  have hl_d : d.toNat < 16 := d.isLt
  have hl_a : a.toNat < 16 := a.isLt
  have hl_b : b.toNat < 16 := b.isLt
  have hl_k := maskCode_lt k
  have hm_k := skipCode_lt k
  have hl_e := EType_code_lt e
  have hw : (([.i8, .i16, .i32, .i64, .untyped] : List EType).contains e) = true := hw
  change decode [wordT 0x12 3 d.toNat a.toNat b.toNat (maskCode k) e.code] = _
  obtain ⟨e0, e1, e2, f19_16, f15_12, f11_8, f7_4, f3_0⟩ := fieldsT 0x12 3 d.toNat a.toNat b.toNat (maskCode k) e.code (by omega) (by omega) (by omega) (by omega) (by omega) (by omega) (by omega)
  generalize wordT 0x12 3 d.toNat a.toNat b.toNat (maskCode k) e.code = y at *
  refine decode_ok e0 (by rw [e1]; decide) ?_
  rw [inG12 e1]
  unfold decG12
  rw [e2]
  have ha := any_code hw
  simp only [f19_16, f15_12, f11_8, f7_4, f3_0, ha]
  simp [chk, *]
theorem vOr (d : BitVec 4) (a : BitVec 4) (b : BitVec 4) (k : Option (BitVec 2)) (e : EType) : Statement (.vOr d a b k e) := by
  intro _ hw
  have hl_d : d.toNat < 16 := d.isLt
  have hl_a : a.toNat < 16 := a.isLt
  have hl_b : b.toNat < 16 := b.isLt
  have hl_k := maskCode_lt k
  have hm_k := skipCode_lt k
  have hl_e := EType_code_lt e
  have hw : (([.i8, .i16, .i32, .i64, .untyped] : List EType).contains e) = true := hw
  change decode [wordT 0x12 4 d.toNat a.toNat b.toNat (maskCode k) e.code] = _
  obtain ⟨e0, e1, e2, f19_16, f15_12, f11_8, f7_4, f3_0⟩ := fieldsT 0x12 4 d.toNat a.toNat b.toNat (maskCode k) e.code (by omega) (by omega) (by omega) (by omega) (by omega) (by omega) (by omega)
  generalize wordT 0x12 4 d.toNat a.toNat b.toNat (maskCode k) e.code = y at *
  refine decode_ok e0 (by rw [e1]; decide) ?_
  rw [inG12 e1]
  unfold decG12
  rw [e2]
  have ha := any_code hw
  simp only [f19_16, f15_12, f11_8, f7_4, f3_0, ha]
  simp [chk, *]
theorem vXor (d : BitVec 4) (a : BitVec 4) (b : BitVec 4) (k : Option (BitVec 2)) (e : EType) : Statement (.vXor d a b k e) := by
  intro _ hw
  have hl_d : d.toNat < 16 := d.isLt
  have hl_a : a.toNat < 16 := a.isLt
  have hl_b : b.toNat < 16 := b.isLt
  have hl_k := maskCode_lt k
  have hm_k := skipCode_lt k
  have hl_e := EType_code_lt e
  have hw : (([.i8, .i16, .i32, .i64, .untyped] : List EType).contains e) = true := hw
  change decode [wordT 0x12 5 d.toNat a.toNat b.toNat (maskCode k) e.code] = _
  obtain ⟨e0, e1, e2, f19_16, f15_12, f11_8, f7_4, f3_0⟩ := fieldsT 0x12 5 d.toNat a.toNat b.toNat (maskCode k) e.code (by omega) (by omega) (by omega) (by omega) (by omega) (by omega) (by omega)
  generalize wordT 0x12 5 d.toNat a.toNat b.toNat (maskCode k) e.code = y at *
  refine decode_ok e0 (by rw [e1]; decide) ?_
  rw [inG12 e1]
  unfold decG12
  rw [e2]
  have ha := any_code hw
  simp only [f19_16, f15_12, f11_8, f7_4, f3_0, ha]
  simp [chk, *]
theorem vShl (d : BitVec 4) (a : BitVec 4) (b : BitVec 4) (k : Option (BitVec 2)) (e : EType) : Statement (.vShl d a b k e) := by
  intro _ hw
  have hl_d : d.toNat < 16 := d.isLt
  have hl_a : a.toNat < 16 := a.isLt
  have hl_b : b.toNat < 16 := b.isLt
  have hl_k := maskCode_lt k
  have hm_k := skipCode_lt k
  have hl_e := EType_code_lt e
  have hw : (([.i8, .i16, .i32, .i64] : List EType).contains e) = true := hw
  change decode [wordT 0x12 6 d.toNat a.toNat b.toNat (maskCode k) e.code] = _
  obtain ⟨e0, e1, e2, f19_16, f15_12, f11_8, f7_4, f3_0⟩ := fieldsT 0x12 6 d.toNat a.toNat b.toNat (maskCode k) e.code (by omega) (by omega) (by omega) (by omega) (by omega) (by omega) (by omega)
  generalize wordT 0x12 6 d.toNat a.toNat b.toNat (maskCode k) e.code = y at *
  refine decode_ok e0 (by rw [e1]; decide) ?_
  rw [inG12 e1]
  unfold decG12
  rw [e2]
  have ha := any_code hw
  simp only [f19_16, f15_12, f11_8, f7_4, f3_0, ha]
  simp [chk, *]
theorem vShr (d : BitVec 4) (a : BitVec 4) (b : BitVec 4) (k : Option (BitVec 2)) (e : EType) : Statement (.vShr d a b k e) := by
  intro _ hw
  have hl_d : d.toNat < 16 := d.isLt
  have hl_a : a.toNat < 16 := a.isLt
  have hl_b : b.toNat < 16 := b.isLt
  have hl_k := maskCode_lt k
  have hm_k := skipCode_lt k
  have hl_e := EType_code_lt e
  have hw : (([.i8, .i16, .i32, .i64] : List EType).contains e) = true := hw
  change decode [wordT 0x12 7 d.toNat a.toNat b.toNat (maskCode k) e.code] = _
  obtain ⟨e0, e1, e2, f19_16, f15_12, f11_8, f7_4, f3_0⟩ := fieldsT 0x12 7 d.toNat a.toNat b.toNat (maskCode k) e.code (by omega) (by omega) (by omega) (by omega) (by omega) (by omega) (by omega)
  generalize wordT 0x12 7 d.toNat a.toNat b.toNat (maskCode k) e.code = y at *
  refine decode_ok e0 (by rw [e1]; decide) ?_
  rw [inG12 e1]
  unfold decG12
  rw [e2]
  have ha := any_code hw
  simp only [f19_16, f15_12, f11_8, f7_4, f3_0, ha]
  simp [chk, *]
theorem vSra (d : BitVec 4) (a : BitVec 4) (b : BitVec 4) (k : Option (BitVec 2)) (e : EType) : Statement (.vSra d a b k e) := by
  intro _ hw
  have hl_d : d.toNat < 16 := d.isLt
  have hl_a : a.toNat < 16 := a.isLt
  have hl_b : b.toNat < 16 := b.isLt
  have hl_k := maskCode_lt k
  have hm_k := skipCode_lt k
  have hl_e := EType_code_lt e
  have hw : (([.i8, .i16, .i32, .i64] : List EType).contains e) = true := hw
  change decode [wordT 0x12 8 d.toNat a.toNat b.toNat (maskCode k) e.code] = _
  obtain ⟨e0, e1, e2, f19_16, f15_12, f11_8, f7_4, f3_0⟩ := fieldsT 0x12 8 d.toNat a.toNat b.toNat (maskCode k) e.code (by omega) (by omega) (by omega) (by omega) (by omega) (by omega) (by omega)
  generalize wordT 0x12 8 d.toNat a.toNat b.toNat (maskCode k) e.code = y at *
  refine decode_ok e0 (by rw [e1]; decide) ?_
  rw [inG12 e1]
  unfold decG12
  rw [e2]
  have ha := any_code hw
  simp only [f19_16, f15_12, f11_8, f7_4, f3_0, ha]
  simp [chk, *]
theorem vImin (d : BitVec 4) (a : BitVec 4) (b : BitVec 4) (k : Option (BitVec 2)) (e : EType) : Statement (.vImin d a b k e) := by
  intro _ hw
  have hl_d : d.toNat < 16 := d.isLt
  have hl_a : a.toNat < 16 := a.isLt
  have hl_b : b.toNat < 16 := b.isLt
  have hl_k := maskCode_lt k
  have hm_k := skipCode_lt k
  have hl_e := EType_code_lt e
  have hw : (([.i8, .i16, .i32, .i64] : List EType).contains e) = true := hw
  change decode [wordT 0x12 9 d.toNat a.toNat b.toNat (maskCode k) e.code] = _
  obtain ⟨e0, e1, e2, f19_16, f15_12, f11_8, f7_4, f3_0⟩ := fieldsT 0x12 9 d.toNat a.toNat b.toNat (maskCode k) e.code (by omega) (by omega) (by omega) (by omega) (by omega) (by omega) (by omega)
  generalize wordT 0x12 9 d.toNat a.toNat b.toNat (maskCode k) e.code = y at *
  refine decode_ok e0 (by rw [e1]; decide) ?_
  rw [inG12 e1]
  unfold decG12
  rw [e2]
  have ha := any_code hw
  simp only [f19_16, f15_12, f11_8, f7_4, f3_0, ha]
  simp [chk, *]
theorem vImax (d : BitVec 4) (a : BitVec 4) (b : BitVec 4) (k : Option (BitVec 2)) (e : EType) : Statement (.vImax d a b k e) := by
  intro _ hw
  have hl_d : d.toNat < 16 := d.isLt
  have hl_a : a.toNat < 16 := a.isLt
  have hl_b : b.toNat < 16 := b.isLt
  have hl_k := maskCode_lt k
  have hm_k := skipCode_lt k
  have hl_e := EType_code_lt e
  have hw : (([.i8, .i16, .i32, .i64] : List EType).contains e) = true := hw
  change decode [wordT 0x12 10 d.toNat a.toNat b.toNat (maskCode k) e.code] = _
  obtain ⟨e0, e1, e2, f19_16, f15_12, f11_8, f7_4, f3_0⟩ := fieldsT 0x12 10 d.toNat a.toNat b.toNat (maskCode k) e.code (by omega) (by omega) (by omega) (by omega) (by omega) (by omega) (by omega)
  generalize wordT 0x12 10 d.toNat a.toNat b.toNat (maskCode k) e.code = y at *
  refine decode_ok e0 (by rw [e1]; decide) ?_
  rw [inG12 e1]
  unfold decG12
  rw [e2]
  have ha := any_code hw
  simp only [f19_16, f15_12, f11_8, f7_4, f3_0, ha]
  simp [chk, *]
theorem vAdds (d : BitVec 4) (a : BitVec 4) (b : BitVec 4) (k : Option (BitVec 2)) (e : EType) : Statement (.vAdds d a b k e) := by
  intro _ hw
  have hl_d : d.toNat < 16 := d.isLt
  have hl_a : a.toNat < 16 := a.isLt
  have hl_b : b.toNat < 16 := b.isLt
  have hl_k := maskCode_lt k
  have hm_k := skipCode_lt k
  have hl_e := EType_code_lt e
  have hw : (([.i8, .i16, .i32] : List EType).contains e) = true := hw
  change decode [wordT 0x12 11 d.toNat a.toNat b.toNat (maskCode k) e.code] = _
  obtain ⟨e0, e1, e2, f19_16, f15_12, f11_8, f7_4, f3_0⟩ := fieldsT 0x12 11 d.toNat a.toNat b.toNat (maskCode k) e.code (by omega) (by omega) (by omega) (by omega) (by omega) (by omega) (by omega)
  generalize wordT 0x12 11 d.toNat a.toNat b.toNat (maskCode k) e.code = y at *
  refine decode_ok e0 (by rw [e1]; decide) ?_
  rw [inG12 e1]
  unfold decG12
  rw [e2]
  have ha := any_code hw
  simp only [f19_16, f15_12, f11_8, f7_4, f3_0, ha]
  simp [chk, *]
theorem vSubs (d : BitVec 4) (a : BitVec 4) (b : BitVec 4) (k : Option (BitVec 2)) (e : EType) : Statement (.vSubs d a b k e) := by
  intro _ hw
  have hl_d : d.toNat < 16 := d.isLt
  have hl_a : a.toNat < 16 := a.isLt
  have hl_b : b.toNat < 16 := b.isLt
  have hl_k := maskCode_lt k
  have hm_k := skipCode_lt k
  have hl_e := EType_code_lt e
  have hw : (([.i8, .i16, .i32] : List EType).contains e) = true := hw
  change decode [wordT 0x12 12 d.toNat a.toNat b.toNat (maskCode k) e.code] = _
  obtain ⟨e0, e1, e2, f19_16, f15_12, f11_8, f7_4, f3_0⟩ := fieldsT 0x12 12 d.toNat a.toNat b.toNat (maskCode k) e.code (by omega) (by omega) (by omega) (by omega) (by omega) (by omega) (by omega)
  generalize wordT 0x12 12 d.toNat a.toNat b.toNat (maskCode k) e.code = y at *
  refine decode_ok e0 (by rw [e1]; decide) ?_
  rw [inG12 e1]
  unfold decG12
  rw [e2]
  have ha := any_code hw
  simp only [f19_16, f15_12, f11_8, f7_4, f3_0, ha]
  simp [chk, *]
theorem vIeq (d : BitVec 4) (a : BitVec 4) (b : BitVec 4) (k : Option (BitVec 2)) (e : EType) : Statement (.vIeq d a b k e) := by
  intro _ hw
  have hl_d : d.toNat < 16 := d.isLt
  have hl_a : a.toNat < 16 := a.isLt
  have hl_b : b.toNat < 16 := b.isLt
  have hl_k := maskCode_lt k
  have hm_k := skipCode_lt k
  have hl_e := EType_code_lt e
  have hw : (([.i8, .i16, .i32, .i64] : List EType).contains e) = true := hw
  change decode [wordT 0x12 13 d.toNat a.toNat b.toNat (maskCode k) e.code] = _
  obtain ⟨e0, e1, e2, f19_16, f15_12, f11_8, f7_4, f3_0⟩ := fieldsT 0x12 13 d.toNat a.toNat b.toNat (maskCode k) e.code (by omega) (by omega) (by omega) (by omega) (by omega) (by omega) (by omega)
  generalize wordT 0x12 13 d.toNat a.toNat b.toNat (maskCode k) e.code = y at *
  refine decode_ok e0 (by rw [e1]; decide) ?_
  rw [inG12 e1]
  unfold decG12
  rw [e2]
  have ha := any_code hw
  simp only [f19_16, f15_12, f11_8, f7_4, f3_0, ha]
  simp [chk, *]
theorem vIlt (d : BitVec 4) (a : BitVec 4) (b : BitVec 4) (k : Option (BitVec 2)) (e : EType) : Statement (.vIlt d a b k e) := by
  intro _ hw
  have hl_d : d.toNat < 16 := d.isLt
  have hl_a : a.toNat < 16 := a.isLt
  have hl_b : b.toNat < 16 := b.isLt
  have hl_k := maskCode_lt k
  have hm_k := skipCode_lt k
  have hl_e := EType_code_lt e
  have hw : (([.i8, .i16, .i32, .i64] : List EType).contains e) = true := hw
  change decode [wordT 0x12 14 d.toNat a.toNat b.toNat (maskCode k) e.code] = _
  obtain ⟨e0, e1, e2, f19_16, f15_12, f11_8, f7_4, f3_0⟩ := fieldsT 0x12 14 d.toNat a.toNat b.toNat (maskCode k) e.code (by omega) (by omega) (by omega) (by omega) (by omega) (by omega) (by omega)
  generalize wordT 0x12 14 d.toNat a.toNat b.toNat (maskCode k) e.code = y at *
  refine decode_ok e0 (by rw [e1]; decide) ?_
  rw [inG12 e1]
  unfold decG12
  rw [e2]
  have ha := any_code hw
  simp only [f19_16, f15_12, f11_8, f7_4, f3_0, ha]
  simp [chk, *]
theorem vIltu (d : BitVec 4) (a : BitVec 4) (b : BitVec 4) (k : Option (BitVec 2)) (e : EType) : Statement (.vIltu d a b k e) := by
  intro _ hw
  have hl_d : d.toNat < 16 := d.isLt
  have hl_a : a.toNat < 16 := a.isLt
  have hl_b : b.toNat < 16 := b.isLt
  have hl_k := maskCode_lt k
  have hm_k := skipCode_lt k
  have hl_e := EType_code_lt e
  have hw : (([.i8, .i16, .i32, .i64] : List EType).contains e) = true := hw
  change decode [wordT 0x12 15 d.toNat a.toNat b.toNat (maskCode k) e.code] = _
  obtain ⟨e0, e1, e2, f19_16, f15_12, f11_8, f7_4, f3_0⟩ := fieldsT 0x12 15 d.toNat a.toNat b.toNat (maskCode k) e.code (by omega) (by omega) (by omega) (by omega) (by omega) (by omega) (by omega)
  generalize wordT 0x12 15 d.toNat a.toNat b.toNat (maskCode k) e.code = y at *
  refine decode_ok e0 (by rw [e1]; decide) ?_
  rw [inG12 e1]
  unfold decG12
  rw [e2]
  have ha := any_code hw
  simp only [f19_16, f15_12, f11_8, f7_4, f3_0, ha]
  simp [chk, *]
theorem vCvt (d : BitVec 4) (a : BitVec 4) (f : EType) (s : Bool) (m : BitVec 3) (e : EType) : Statement (.vCvt d a f s m e) := by
  intro _ hw
  have hl_d : d.toNat < 16 := d.isLt
  have hl_a : a.toNat < 16 := a.isLt
  have hl_f := EType_code_lt f
  have hl_s := bool_lt s
  have hl_m : m.toNat < 8 := m.isLt
  have hl_e := EType_code_lt e
  have hw : (EType.cvtOk f.code && EType.cvtOk e.code && cvtPairOk f.code e.code && cvtModeOk f.code e.code s.toNat m.toNat) = true := hw
  simp only [Bool.and_eq_true, decide_eq_true_eq] at hw
  rw [show encode (.vCvt d a f s m e) = [wordT 0x13 0 d.toNat a.toNat f.code (m.toNat + 8 * s.toNat) e.code] by
    simp only [encode, wordT]
    all_goals (refine congrArg (fun n => [n]) ?_; omega)]
  obtain ⟨e0, e1, e2, f19_16, f15_12, f11_8, f7_4, f3_0⟩ := fieldsT 0x13 0 d.toNat a.toNat f.code (m.toNat + 8 * s.toNat) e.code (by omega) (by omega) (by omega) (by omega) (by omega) (by omega) (by omega)
  generalize wordT 0x13 0 d.toNat a.toNat f.code (m.toNat + 8 * s.toNat) e.code = y at *
  have s0 : fld y 7 7 = s.toNat := fld_part 7 7 _ f7_4 (by decide) (by decide) (by decide) (by simp only [Nat.reducePow, Nat.reduceAdd, Nat.reduceSub]; omega)
  have s1 : fld y 6 4 = m.toNat := fld_part 6 4 _ f7_4 (by decide) (by decide) (by decide) (by simp only [Nat.reducePow, Nat.reduceAdd, Nat.reduceSub]; omega)
  refine decode_ok e0 (by rw [e1]; decide) ?_
  rw [inG13 e1]
  unfold decG13
  rw [e2]
  simp [chk, *]
theorem vCvtSr (d : BitVec 4) (a : BitVec 4) (b : BitVec 4) (s : Bool) (f : EType) (e : EType) : Statement (.vCvtSr d a b s f e) := by
  intro _ hw
  have hl_d : d.toNat < 16 := d.isLt
  have hl_a : a.toNat < 16 := a.isLt
  have hl_b : b.toNat < 16 := b.isLt
  have hl_s := bool_lt s
  have hl_f := EType_code_lt f
  have hl_e := EType_code_lt e
  have hw : (decide (f.code < 3) && cvtSrOk f.code e.code) = true := hw
  simp only [Bool.and_eq_true, decide_eq_true_eq] at hw
  rw [show encode (.vCvtSr d a b s f e) = [wordT 0x13 1 d.toNat a.toNat b.toNat (f.code + 8 * s.toNat) e.code] by
    simp only [encode, wordT]
    all_goals (refine congrArg (fun n => [n]) ?_; omega)]
  obtain ⟨e0, e1, e2, f19_16, f15_12, f11_8, f7_4, f3_0⟩ := fieldsT 0x13 1 d.toNat a.toNat b.toNat (f.code + 8 * s.toNat) e.code (by omega) (by omega) (by omega) (by omega) (by omega) (by omega) (by omega)
  generalize wordT 0x13 1 d.toNat a.toNat b.toNat (f.code + 8 * s.toNat) e.code = y at *
  have s0 : fld y 7 7 = s.toNat := fld_part 7 7 _ f7_4 (by decide) (by decide) (by decide) (by simp only [Nat.reducePow, Nat.reduceAdd, Nat.reduceSub]; omega)
  have s1 : fld y 6 4 = f.code := fld_part 6 4 _ f7_4 (by decide) (by decide) (by decide) (by simp only [Nat.reducePow, Nat.reduceAdd, Nat.reduceSub]; omega)
  refine decode_ok e0 (by rw [e1]; decide) ?_
  rw [inG13 e1]
  unfold decG13
  rw [e2]
  simp [chk, *]
theorem vPack (d : BitVec 4) (a : BitVec 4) (b : BitVec 4) (k : Option (BitVec 2)) (e : EType) : Statement (.vPack d a b k e) := by
  intro _ hw
  have hl_d : d.toNat < 16 := d.isLt
  have hl_a : a.toNat < 16 := a.isLt
  have hl_b : b.toNat < 16 := b.isLt
  have hl_k := maskCode_lt k
  have hm_k := skipCode_lt k
  have hl_e := EType_code_lt e
  have hw : (([.i8, .i16, .bf16, .e5m2] : List EType).contains e) = true := hw
  change decode [wordT 0x13 2 d.toNat a.toNat b.toNat (maskCode k) e.code] = _
  obtain ⟨e0, e1, e2, f19_16, f15_12, f11_8, f7_4, f3_0⟩ := fieldsT 0x13 2 d.toNat a.toNat b.toNat (maskCode k) e.code (by omega) (by omega) (by omega) (by omega) (by omega) (by omega) (by omega)
  generalize wordT 0x13 2 d.toNat a.toNat b.toNat (maskCode k) e.code = y at *
  refine decode_ok e0 (by rw [e1]; decide) ?_
  rw [inG13 e1]
  unfold decG13
  rw [e2]
  have ha := any_code hw
  simp only [f19_16, f15_12, f11_8, f7_4, f3_0, ha]
  simp [chk, *]
theorem vUnpkLo (d : BitVec 4) (a : BitVec 4) (k : Option (BitVec 2)) (e : EType) : Statement (.vUnpkLo d a k e) := by
  intro _ hw
  have hl_d : d.toNat < 16 := d.isLt
  have hl_a : a.toNat < 16 := a.isLt
  have hl_k := maskCode_lt k
  have hm_k := skipCode_lt k
  have hl_e := EType_code_lt e
  have hw : (([.i8, .i16, .bf16, .e5m2] : List EType).contains e) = true := hw
  change decode [wordT 0x13 3 d.toNat a.toNat 0 (maskCode k) e.code] = _
  obtain ⟨e0, e1, e2, f19_16, f15_12, f11_8, f7_4, f3_0⟩ := fieldsT 0x13 3 d.toNat a.toNat 0 (maskCode k) e.code (by omega) (by omega) (by omega) (by omega) (by omega) (by omega) (by omega)
  generalize wordT 0x13 3 d.toNat a.toNat 0 (maskCode k) e.code = y at *
  refine decode_ok e0 (by rw [e1]; decide) ?_
  rw [inG13 e1]
  unfold decG13
  rw [e2]
  have ha := any_code hw
  simp only [f19_16, f15_12, f11_8, f7_4, f3_0, ha]
  simp [chk, *]
theorem vUnpkHi (d : BitVec 4) (a : BitVec 4) (k : Option (BitVec 2)) (e : EType) : Statement (.vUnpkHi d a k e) := by
  intro _ hw
  have hl_d : d.toNat < 16 := d.isLt
  have hl_a : a.toNat < 16 := a.isLt
  have hl_k := maskCode_lt k
  have hm_k := skipCode_lt k
  have hl_e := EType_code_lt e
  have hw : (([.i8, .i16, .bf16, .e5m2] : List EType).contains e) = true := hw
  change decode [wordT 0x13 4 d.toNat a.toNat 0 (maskCode k) e.code] = _
  obtain ⟨e0, e1, e2, f19_16, f15_12, f11_8, f7_4, f3_0⟩ := fieldsT 0x13 4 d.toNat a.toNat 0 (maskCode k) e.code (by omega) (by omega) (by omega) (by omega) (by omega) (by omega) (by omega)
  generalize wordT 0x13 4 d.toNat a.toNat 0 (maskCode k) e.code = y at *
  refine decode_ok e0 (by rw [e1]; decide) ?_
  rw [inG13 e1]
  unfold decG13
  rw [e2]
  have ha := any_code hw
  simp only [f19_16, f15_12, f11_8, f7_4, f3_0, ha]
  simp [chk, *]
theorem vQblk_none (d : BitVec 4) (a : BitVec 4) (m : BitVec 3) (e : EType) : Statement (.vQblk d a none m e) := by
  intro _ hw
  have hl_d : d.toNat < 16 := d.isLt
  have hl_a : a.toNat < 16 := a.isLt
  have hl_m : m.toNat < 8 := m.isLt
  have hl_e := EType_code_lt e
  have hw : (([.e4m3, .e5m2, .i8] : List EType).contains e && decide (m.toNat < 4)) = true := hw
  simp only [Bool.and_eq_true, decide_eq_true_eq] at hw
  rw [show encode (.vQblk d a none m e) = [wordT 0x13 5 d.toNat a.toNat 0 (m.toNat + 8) e.code] by
    simp only [encode, qblkCode, wordT]
    all_goals (refine congrArg (fun n => [n]) ?_; omega)]
  obtain ⟨e0, e1, e2, f19_16, f15_12, f11_8, f7_4, f3_0⟩ := fieldsT 0x13 5 d.toNat a.toNat 0 (m.toNat + 8) e.code (by omega) (by omega) (by omega) (by omega) (by omega) (by omega) (by omega)
  generalize wordT 0x13 5 d.toNat a.toNat 0 (m.toNat + 8) e.code = y at *
  have s0 : fld y 7 7 = 1 := fld_part 7 7 _ f7_4 (by decide) (by decide) (by decide) (by simp only [Nat.reducePow, Nat.reduceAdd, Nat.reduceSub]; omega)
  have s1 : fld y 6 4 = m.toNat := fld_part 6 4 _ f7_4 (by decide) (by decide) (by decide) (by simp only [Nat.reducePow, Nat.reduceAdd, Nat.reduceSub]; omega)
  refine decode_ok e0 (by rw [e1]; decide) ?_
  rw [inG13 e1]
  unfold decG13
  rw [e2]
  have ha := any_code hw.1
  simp only [f19_16, f15_12, f11_8, f7_4, f3_0, ha]
  simp [chk, *]

theorem vQblk_some (d : BitVec 4) (a : BitVec 4) (b : BitVec 4) (m : BitVec 3) (e : EType) : Statement (.vQblk d a (some b) m e) := by
  intro _ hw
  have hl_d : d.toNat < 16 := d.isLt
  have hl_a : a.toNat < 16 := a.isLt
  have hl_b : b.toNat < 16 := b.isLt
  have hl_m : m.toNat < 8 := m.isLt
  have hl_e := EType_code_lt e
  have hw : (([.e4m3, .e5m2, .i8] : List EType).contains e && decide (m.toNat < 4)) = true := hw
  simp only [Bool.and_eq_true, decide_eq_true_eq] at hw
  rw [show encode (.vQblk d a (some b) m e) = [wordT 0x13 5 d.toNat a.toNat b.toNat m.toNat e.code] by
    simp only [encode, qblkCode, wordT]
    all_goals (refine congrArg (fun n => [n]) ?_; omega)]
  obtain ⟨e0, e1, e2, f19_16, f15_12, f11_8, f7_4, f3_0⟩ := fieldsT 0x13 5 d.toNat a.toNat b.toNat m.toNat e.code (by omega) (by omega) (by omega) (by omega) (by omega) (by omega) (by omega)
  generalize wordT 0x13 5 d.toNat a.toNat b.toNat m.toNat e.code = y at *
  have s0 : fld y 7 7 = 0 := fld_part 7 7 _ f7_4 (by decide) (by decide) (by decide) (by simp only [Nat.reducePow, Nat.reduceAdd, Nat.reduceSub]; omega)
  have s1 : fld y 6 4 = m.toNat := fld_part 6 4 _ f7_4 (by decide) (by decide) (by decide) (by simp only [Nat.reducePow, Nat.reduceAdd, Nat.reduceSub]; omega)
  refine decode_ok e0 (by rw [e1]; decide) ?_
  rw [inG13 e1]
  unfold decG13
  rw [e2]
  have ha := any_code hw.1
  simp only [f19_16, f15_12, f11_8, f7_4, f3_0, ha]
  simp [chk, *]

theorem vQblk (d : BitVec 4) (a : BitVec 4) (b : Option (BitVec 4)) (m : BitVec 3) (e : EType) : Statement (.vQblk d a b m e) := by
  rcases b with _ | b
  · exact vQblk_none d a m e
  · exact vQblk_some d a b m e
theorem vDqblk (d : BitVec 4) (a : BitVec 4) (p : Bool) (q : EType) (e : EType) : Statement (.vDqblk d a p q e) := by
  intro _ hw
  have hl_d : d.toNat < 16 := d.isLt
  have hl_a : a.toNat < 16 := a.isLt
  have hl_p := bool_lt p
  have hl_q := EType_code_lt q
  have hl_e := EType_code_lt e
  have hw : (([.f32, .bf16] : List EType).contains e && decide (3 ≤ q.code ∧ q.code < 6) && (!p || e == .f32)) = true := hw
  simp only [Bool.and_eq_true, Bool.or_eq_true, decide_eq_true_eq] at hw
  rw [show encode (.vDqblk d a p q e) = [wordT 0x13 6 d.toNat a.toNat 0 (q.code + 8 * p.toNat) e.code] by
    simp only [encode, wordT]
    all_goals (refine congrArg (fun n => [n]) ?_; omega)]
  obtain ⟨e0, e1, e2, f19_16, f15_12, f11_8, f7_4, f3_0⟩ := fieldsT 0x13 6 d.toNat a.toNat 0 (q.code + 8 * p.toNat) e.code (by omega) (by omega) (by omega) (by omega) (by omega) (by omega) (by omega)
  generalize wordT 0x13 6 d.toNat a.toNat 0 (q.code + 8 * p.toNat) e.code = y at *
  have s0 : fld y 7 7 = p.toNat := fld_part 7 7 _ f7_4 (by decide) (by decide) (by decide) (by simp only [Nat.reducePow, Nat.reduceAdd, Nat.reduceSub]; omega)
  have s1 : fld y 6 4 = q.code := fld_part 6 4 _ f7_4 (by decide) (by decide) (by decide) (by simp only [Nat.reducePow, Nat.reduceAdd, Nat.reduceSub]; omega)
  refine decode_ok e0 (by rw [e1]; decide) ?_
  rw [inG13 e1]
  unfold decG13
  rw [e2]
  have ha := any_code hw.1.1
  simp only [f19_16, f15_12, f11_8, f7_4, f3_0, ha]
  simp [chk, *]
  intro h
  rcases hw.2 with h2 | h2
  · simp [h] at h2
  · rw [beq_iff_eq] at h2; subst h2; decide
theorem vRcp (d : BitVec 4) (a : BitVec 4) (k : Option (BitVec 2)) (e : EType) : Statement (.vRcp d a k e) := by
  intro _ hw
  have hl_d : d.toNat < 16 := d.isLt
  have hl_a : a.toNat < 16 := a.isLt
  have hl_k := maskCode_lt k
  have hm_k := skipCode_lt k
  have hl_e := EType_code_lt e
  have hw : (([.f32, .bf16, .f16] : List EType).contains e) = true := hw
  change decode [wordT 0x14 0 d.toNat a.toNat 0 (maskCode k) e.code] = _
  obtain ⟨e0, e1, e2, f19_16, f15_12, f11_8, f7_4, f3_0⟩ := fieldsT 0x14 0 d.toNat a.toNat 0 (maskCode k) e.code (by omega) (by omega) (by omega) (by omega) (by omega) (by omega) (by omega)
  generalize wordT 0x14 0 d.toNat a.toNat 0 (maskCode k) e.code = y at *
  refine decode_ok e0 (by rw [e1]; decide) ?_
  rw [inG14 e1]
  unfold decG14
  rw [e2]
  have ha := any_code hw
  simp only [f19_16, f15_12, f11_8, f7_4, f3_0, ha]
  simp [chk, *]
theorem vRsq (d : BitVec 4) (a : BitVec 4) (k : Option (BitVec 2)) (e : EType) : Statement (.vRsq d a k e) := by
  intro _ hw
  have hl_d : d.toNat < 16 := d.isLt
  have hl_a : a.toNat < 16 := a.isLt
  have hl_k := maskCode_lt k
  have hm_k := skipCode_lt k
  have hl_e := EType_code_lt e
  have hw : (([.f32, .bf16, .f16] : List EType).contains e) = true := hw
  change decode [wordT 0x14 1 d.toNat a.toNat 0 (maskCode k) e.code] = _
  obtain ⟨e0, e1, e2, f19_16, f15_12, f11_8, f7_4, f3_0⟩ := fieldsT 0x14 1 d.toNat a.toNat 0 (maskCode k) e.code (by omega) (by omega) (by omega) (by omega) (by omega) (by omega) (by omega)
  generalize wordT 0x14 1 d.toNat a.toNat 0 (maskCode k) e.code = y at *
  refine decode_ok e0 (by rw [e1]; decide) ?_
  rw [inG14 e1]
  unfold decG14
  rw [e2]
  have ha := any_code hw
  simp only [f19_16, f15_12, f11_8, f7_4, f3_0, ha]
  simp [chk, *]
theorem vExp2 (d : BitVec 4) (a : BitVec 4) (k : Option (BitVec 2)) (e : EType) : Statement (.vExp2 d a k e) := by
  intro _ hw
  have hl_d : d.toNat < 16 := d.isLt
  have hl_a : a.toNat < 16 := a.isLt
  have hl_k := maskCode_lt k
  have hm_k := skipCode_lt k
  have hl_e := EType_code_lt e
  have hw : (([.f32, .bf16, .f16] : List EType).contains e) = true := hw
  change decode [wordT 0x14 2 d.toNat a.toNat 0 (maskCode k) e.code] = _
  obtain ⟨e0, e1, e2, f19_16, f15_12, f11_8, f7_4, f3_0⟩ := fieldsT 0x14 2 d.toNat a.toNat 0 (maskCode k) e.code (by omega) (by omega) (by omega) (by omega) (by omega) (by omega) (by omega)
  generalize wordT 0x14 2 d.toNat a.toNat 0 (maskCode k) e.code = y at *
  refine decode_ok e0 (by rw [e1]; decide) ?_
  rw [inG14 e1]
  unfold decG14
  rw [e2]
  have ha := any_code hw
  simp only [f19_16, f15_12, f11_8, f7_4, f3_0, ha]
  simp [chk, *]
theorem vLog2 (d : BitVec 4) (a : BitVec 4) (k : Option (BitVec 2)) (e : EType) : Statement (.vLog2 d a k e) := by
  intro _ hw
  have hl_d : d.toNat < 16 := d.isLt
  have hl_a : a.toNat < 16 := a.isLt
  have hl_k := maskCode_lt k
  have hm_k := skipCode_lt k
  have hl_e := EType_code_lt e
  have hw : (([.f32, .bf16, .f16] : List EType).contains e) = true := hw
  change decode [wordT 0x14 3 d.toNat a.toNat 0 (maskCode k) e.code] = _
  obtain ⟨e0, e1, e2, f19_16, f15_12, f11_8, f7_4, f3_0⟩ := fieldsT 0x14 3 d.toNat a.toNat 0 (maskCode k) e.code (by omega) (by omega) (by omega) (by omega) (by omega) (by omega) (by omega)
  generalize wordT 0x14 3 d.toNat a.toNat 0 (maskCode k) e.code = y at *
  refine decode_ok e0 (by rw [e1]; decide) ?_
  rw [inG14 e1]
  unfold decG14
  rw [e2]
  have ha := any_code hw
  simp only [f19_16, f15_12, f11_8, f7_4, f3_0, ha]
  simp [chk, *]
theorem vTanh (d : BitVec 4) (a : BitVec 4) (k : Option (BitVec 2)) (e : EType) : Statement (.vTanh d a k e) := by
  intro _ hw
  have hl_d : d.toNat < 16 := d.isLt
  have hl_a : a.toNat < 16 := a.isLt
  have hl_k := maskCode_lt k
  have hm_k := skipCode_lt k
  have hl_e := EType_code_lt e
  have hw : (([.f32, .bf16, .f16] : List EType).contains e) = true := hw
  change decode [wordT 0x14 4 d.toNat a.toNat 0 (maskCode k) e.code] = _
  obtain ⟨e0, e1, e2, f19_16, f15_12, f11_8, f7_4, f3_0⟩ := fieldsT 0x14 4 d.toNat a.toNat 0 (maskCode k) e.code (by omega) (by omega) (by omega) (by omega) (by omega) (by omega) (by omega)
  generalize wordT 0x14 4 d.toNat a.toNat 0 (maskCode k) e.code = y at *
  refine decode_ok e0 (by rw [e1]; decide) ?_
  rw [inG14 e1]
  unfold decG14
  rw [e2]
  have ha := any_code hw
  simp only [f19_16, f15_12, f11_8, f7_4, f3_0, ha]
  simp [chk, *]
theorem vErf (d : BitVec 4) (a : BitVec 4) (k : Option (BitVec 2)) (e : EType) : Statement (.vErf d a k e) := by
  intro _ hw
  have hl_d : d.toNat < 16 := d.isLt
  have hl_a : a.toNat < 16 := a.isLt
  have hl_k := maskCode_lt k
  have hm_k := skipCode_lt k
  have hl_e := EType_code_lt e
  have hw : (([.f32, .bf16, .f16] : List EType).contains e) = true := hw
  change decode [wordT 0x14 5 d.toNat a.toNat 0 (maskCode k) e.code] = _
  obtain ⟨e0, e1, e2, f19_16, f15_12, f11_8, f7_4, f3_0⟩ := fieldsT 0x14 5 d.toNat a.toNat 0 (maskCode k) e.code (by omega) (by omega) (by omega) (by omega) (by omega) (by omega) (by omega)
  generalize wordT 0x14 5 d.toNat a.toNat 0 (maskCode k) e.code = y at *
  refine decode_ok e0 (by rw [e1]; decide) ?_
  rw [inG14 e1]
  unfold decG14
  rw [e2]
  have ha := any_code hw
  simp only [f19_16, f15_12, f11_8, f7_4, f3_0, ha]
  simp [chk, *]
theorem vRsum (d : BitVec 4) (a : BitVec 4) (k : Option (BitVec 2)) (e : EType) : Statement (.vRsum d a k e) := by
  intro _ hw
  have hl_d : d.toNat < 16 := d.isLt
  have hl_a : a.toNat < 16 := a.isLt
  have hl_k := maskCode_lt k
  have hm_k := skipCode_lt k
  have hl_e := EType_code_lt e
  have hw : (([.f32, .bf16, .f16, .i8, .i16, .i32] : List EType).contains e) = true := hw
  change decode [wordT 0x15 0 d.toNat a.toNat 0 (maskCode k) e.code] = _
  obtain ⟨e0, e1, e2, f19_16, f15_12, f11_8, f7_4, f3_0⟩ := fieldsT 0x15 0 d.toNat a.toNat 0 (maskCode k) e.code (by omega) (by omega) (by omega) (by omega) (by omega) (by omega) (by omega)
  generalize wordT 0x15 0 d.toNat a.toNat 0 (maskCode k) e.code = y at *
  refine decode_ok e0 (by rw [e1]; decide) ?_
  rw [inG15 e1]
  unfold decG15
  rw [e2]
  have ha := any_code hw
  simp only [f19_16, f15_12, f11_8, f7_4, f3_0, ha]
  simp [chk, *]
theorem vRmax (d : BitVec 4) (a : BitVec 4) (k : Option (BitVec 2)) (e : EType) : Statement (.vRmax d a k e) := by
  intro _ hw
  have hl_d : d.toNat < 16 := d.isLt
  have hl_a : a.toNat < 16 := a.isLt
  have hl_k := maskCode_lt k
  have hm_k := skipCode_lt k
  have hl_e := EType_code_lt e
  have hw : (([.f32, .bf16, .f16, .i8, .i16, .i32] : List EType).contains e) = true := hw
  change decode [wordT 0x15 1 d.toNat a.toNat 0 (maskCode k) e.code] = _
  obtain ⟨e0, e1, e2, f19_16, f15_12, f11_8, f7_4, f3_0⟩ := fieldsT 0x15 1 d.toNat a.toNat 0 (maskCode k) e.code (by omega) (by omega) (by omega) (by omega) (by omega) (by omega) (by omega)
  generalize wordT 0x15 1 d.toNat a.toNat 0 (maskCode k) e.code = y at *
  refine decode_ok e0 (by rw [e1]; decide) ?_
  rw [inG15 e1]
  unfold decG15
  rw [e2]
  have ha := any_code hw
  simp only [f19_16, f15_12, f11_8, f7_4, f3_0, ha]
  simp [chk, *]
theorem vRmin (d : BitVec 4) (a : BitVec 4) (k : Option (BitVec 2)) (e : EType) : Statement (.vRmin d a k e) := by
  intro _ hw
  have hl_d : d.toNat < 16 := d.isLt
  have hl_a : a.toNat < 16 := a.isLt
  have hl_k := maskCode_lt k
  have hm_k := skipCode_lt k
  have hl_e := EType_code_lt e
  have hw : (([.f32, .bf16, .f16, .i8, .i16, .i32] : List EType).contains e) = true := hw
  change decode [wordT 0x15 2 d.toNat a.toNat 0 (maskCode k) e.code] = _
  obtain ⟨e0, e1, e2, f19_16, f15_12, f11_8, f7_4, f3_0⟩ := fieldsT 0x15 2 d.toNat a.toNat 0 (maskCode k) e.code (by omega) (by omega) (by omega) (by omega) (by omega) (by omega) (by omega)
  generalize wordT 0x15 2 d.toNat a.toNat 0 (maskCode k) e.code = y at *
  refine decode_ok e0 (by rw [e1]; decide) ?_
  rw [inG15 e1]
  unfold decG15
  rw [e2]
  have ha := any_code hw
  simp only [f19_16, f15_12, f11_8, f7_4, f3_0, ha]
  simp [chk, *]
theorem vRsumG (d : BitVec 4) (a : BitVec 4) (k : Option (BitVec 2)) (e : EType) : Statement (.vRsumG d a k e) := by
  intro _ hw
  have hl_d : d.toNat < 16 := d.isLt
  have hl_a : a.toNat < 16 := a.isLt
  have hl_k := maskCode_lt k
  have hm_k := skipCode_lt k
  have hl_e := EType_code_lt e
  have hw : (([.f32, .bf16, .f16, .i8, .i16, .i32] : List EType).contains e) = true := hw
  change decode [wordT 0x15 3 d.toNat a.toNat 0 (maskCode k) e.code] = _
  obtain ⟨e0, e1, e2, f19_16, f15_12, f11_8, f7_4, f3_0⟩ := fieldsT 0x15 3 d.toNat a.toNat 0 (maskCode k) e.code (by omega) (by omega) (by omega) (by omega) (by omega) (by omega) (by omega)
  generalize wordT 0x15 3 d.toNat a.toNat 0 (maskCode k) e.code = y at *
  refine decode_ok e0 (by rw [e1]; decide) ?_
  rw [inG15 e1]
  unfold decG15
  rw [e2]
  have ha := any_code hw
  simp only [f19_16, f15_12, f11_8, f7_4, f3_0, ha]
  simp [chk, *]
theorem vPerm (d : BitVec 4) (a : BitVec 4) (b : BitVec 4) (k : Option (BitVec 2)) : Statement (.vPerm d a b k) := by
  intro _ hw
  have hl_d : d.toNat < 16 := d.isLt
  have hl_a : a.toNat < 16 := a.isLt
  have hl_b : b.toNat < 16 := b.isLt
  have hl_k := maskCode_lt k
  have hm_k := skipCode_lt k
  change decode [wordT 0x15 4 d.toNat a.toNat b.toNat (maskCode k) 15] = _
  obtain ⟨e0, e1, e2, f19_16, f15_12, f11_8, f7_4, f3_0⟩ := fieldsT 0x15 4 d.toNat a.toNat b.toNat (maskCode k) 15 (by omega) (by omega) (by omega) (by omega) (by omega) (by omega) (by omega)
  generalize wordT 0x15 4 d.toNat a.toNat b.toNat (maskCode k) 15 = y at *
  refine decode_ok e0 (by rw [e1]; decide) ?_
  rw [inG15 e1]
  unfold decG15
  rw [e2]
  simp [chk, *]
theorem vBcast (d : BitVec 4) (a : BitVec 4) (l : BitVec 4) : Statement (.vBcast d a l) := by
  intro _ hw
  have hl_d : d.toNat < 16 := d.isLt
  have hl_a : a.toNat < 16 := a.isLt
  have hl_l : l.toNat < 16 := l.isLt
  change decode [wordT 0x15 5 d.toNat a.toNat 0 l.toNat 15] = _
  obtain ⟨e0, e1, e2, f19_16, f15_12, f11_8, f7_4, f3_0⟩ := fieldsT 0x15 5 d.toNat a.toNat 0 l.toNat 15 (by omega) (by omega) (by omega) (by omega) (by omega) (by omega) (by omega)
  generalize wordT 0x15 5 d.toNat a.toNat 0 l.toNat 15 = y at *
  refine decode_ok e0 (by rw [e1]; decide) ?_
  rw [inG15 e1]
  unfold decG15
  rw [e2]
  simp [chk, *]
theorem vRot (d : BitVec 4) (a : BitVec 4) (n : BitVec 4) : Statement (.vRot d a n) := by
  intro _ hw
  have hl_d : d.toNat < 16 := d.isLt
  have hl_a : a.toNat < 16 := a.isLt
  have hl_n : n.toNat < 16 := n.isLt
  change decode [wordT 0x15 6 d.toNat a.toNat 0 n.toNat 15] = _
  obtain ⟨e0, e1, e2, f19_16, f15_12, f11_8, f7_4, f3_0⟩ := fieldsT 0x15 6 d.toNat a.toNat 0 n.toNat 15 (by omega) (by omega) (by omega) (by omega) (by omega) (by omega) (by omega)
  generalize wordT 0x15 6 d.toNat a.toNat 0 n.toNat 15 = y at *
  refine decode_ok e0 (by rw [e1]; decide) ?_
  rw [inG15 e1]
  unfold decG15
  rw [e2]
  simp [chk, *]
theorem vScan (d : BitVec 4) (a : BitVec 4) (k : Option (BitVec 2)) (e : EType) : Statement (.vScan d a k e) := by
  intro _ hw
  have hl_d : d.toNat < 16 := d.isLt
  have hl_a : a.toNat < 16 := a.isLt
  have hl_k := maskCode_lt k
  have hm_k := skipCode_lt k
  have hl_e := EType_code_lt e
  have hw : (([.f32, .i32] : List EType).contains e) = true := hw
  change decode [wordT 0x15 7 d.toNat a.toNat 0 (maskCode k) e.code] = _
  obtain ⟨e0, e1, e2, f19_16, f15_12, f11_8, f7_4, f3_0⟩ := fieldsT 0x15 7 d.toNat a.toNat 0 (maskCode k) e.code (by omega) (by omega) (by omega) (by omega) (by omega) (by omega) (by omega)
  generalize wordT 0x15 7 d.toNat a.toNat 0 (maskCode k) e.code = y at *
  refine decode_ok e0 (by rw [e1]; decide) ?_
  rw [inG15 e1]
  unfold decG15
  rw [e2]
  have ha := any_code hw
  simp only [f19_16, f15_12, f11_8, f7_4, f3_0, ha]
  simp [chk, *]
theorem vPeek (d : BitVec 3) (a : BitVec 3) : Statement (.vPeek d a) := by
  intro _ hw
  have hl_d : d.toNat < 8 := d.isLt
  have hl_a : a.toNat < 8 := a.isLt
  change decode [wordT 0x16 0 d.toNat (a.toNat + 8) 0 0 15] = _
  obtain ⟨e0, e1, e2, f19_16, f15_12, f11_8, f7_4, f3_0⟩ := fieldsT 0x16 0 d.toNat (a.toNat + 8) 0 0 15 (by omega) (by omega) (by omega) (by omega) (by omega) (by omega) (by omega)
  generalize wordT 0x16 0 d.toNat (a.toNat + 8) 0 0 15 = y at *
  refine decode_ok e0 (by rw [e1]; decide) ?_
  rw [inG16 e1]
  unfold decG16
  rw [e2]
  simp [chk, *]
theorem vMov (d : BitVec 4) (a : BitVec 4) (k : Option (BitVec 2)) : Statement (.vMov d a k) := by
  intro _ hw
  have hl_d : d.toNat < 16 := d.isLt
  have hl_a : a.toNat < 16 := a.isLt
  have hl_k := maskCode_lt k
  have hm_k := skipCode_lt k
  change decode [wordT 0x16 1 d.toNat a.toNat 0 (maskCode k) 15] = _
  obtain ⟨e0, e1, e2, f19_16, f15_12, f11_8, f7_4, f3_0⟩ := fieldsT 0x16 1 d.toNat a.toNat 0 (maskCode k) 15 (by omega) (by omega) (by omega) (by omega) (by omega) (by omega) (by omega)
  generalize wordT 0x16 1 d.toNat a.toNat 0 (maskCode k) 15 = y at *
  refine decode_ok e0 (by rw [e1]; decide) ?_
  rw [inG16 e1]
  unfold decG16
  rw [e2]
  simp [chk, *]
theorem vSetv (d : BitVec 4) (a : BitVec 4) (b : BitVec 2) (m : BitMode) : Statement (.vSetv d a b m) := by
  intro _ hw
  have hl_d : d.toNat < 16 := d.isLt
  have hl_a : a.toNat < 16 := a.isLt
  have hl_b : b.toNat < 4 := b.isLt
  have hl_m := BitMode_code_lt m
  change decode [wordT 0x16 2 d.toNat a.toNat b.toNat m.code 15] = _
  obtain ⟨e0, e1, e2, f19_16, f15_12, f11_8, f7_4, f3_0⟩ := fieldsT 0x16 2 d.toNat a.toNat b.toNat m.code 15 (by omega) (by omega) (by omega) (by omega) (by omega) (by omega) (by omega)
  generalize wordT 0x16 2 d.toNat a.toNat b.toNat m.code 15 = y at *
  refine decode_ok e0 (by rw [e1]; decide) ?_
  rw [inG16 e1]
  unfold decG16
  rw [e2]
  simp [chk, *]
theorem vGetv (d : BitVec 2) (a : BitVec 4) (n : Bool) : Statement (.vGetv d a n) := by
  intro _ hw
  have hl_d : d.toNat < 4 := d.isLt
  have hl_a : a.toNat < 16 := a.isLt
  have hl_n := bool_lt n
  change decode [wordT 0x16 3 d.toNat a.toNat 0 n.toNat 15] = _
  obtain ⟨e0, e1, e2, f19_16, f15_12, f11_8, f7_4, f3_0⟩ := fieldsT 0x16 3 d.toNat a.toNat 0 n.toNat 15 (by omega) (by omega) (by omega) (by omega) (by omega) (by omega) (by omega)
  generalize wordT 0x16 3 d.toNat a.toNat 0 n.toNat 15 = y at *
  have s0 : fld y 4 4 = n.toNat := fld_part 4 4 _ f7_4 (by decide) (by decide) (by decide) (by simp only [Nat.reducePow, Nat.reduceAdd, Nat.reduceSub]; omega)
  refine decode_ok e0 (by rw [e1]; decide) ?_
  rw [inG16 e1]
  unfold decG16
  rw [e2]
  simp [chk, *]
theorem vSetp (d : BitVec 4) (a : BitVec 4) (b : BitVec 2) (m : BitMode) : Statement (.vSetp d a b m) := by
  intro _ hw
  have hl_d : d.toNat < 16 := d.isLt
  have hl_a : a.toNat < 16 := a.isLt
  have hl_b : b.toNat < 4 := b.isLt
  have hl_m := BitMode_code_lt m
  change decode [wordT 0x16 4 d.toNat a.toNat b.toNat m.code 15] = _
  obtain ⟨e0, e1, e2, f19_16, f15_12, f11_8, f7_4, f3_0⟩ := fieldsT 0x16 4 d.toNat a.toNat b.toNat m.code 15 (by omega) (by omega) (by omega) (by omega) (by omega) (by omega) (by omega)
  generalize wordT 0x16 4 d.toNat a.toNat b.toNat m.code 15 = y at *
  refine decode_ok e0 (by rw [e1]; decide) ?_
  rw [inG16 e1]
  unfold decG16
  rw [e2]
  simp [chk, *]
theorem vGetp (d : BitVec 2) (a : BitVec 4) : Statement (.vGetp d a) := by
  intro _ hw
  have hl_d : d.toNat < 4 := d.isLt
  have hl_a : a.toNat < 16 := a.isLt
  change decode [wordT 0x16 5 d.toNat a.toNat 0 0 15] = _
  obtain ⟨e0, e1, e2, f19_16, f15_12, f11_8, f7_4, f3_0⟩ := fieldsT 0x16 5 d.toNat a.toNat 0 0 15 (by omega) (by omega) (by omega) (by omega) (by omega) (by omega) (by omega)
  generalize wordT 0x16 5 d.toNat a.toNat 0 0 15 = y at *
  refine decode_ok e0 (by rw [e1]; decide) ?_
  rw [inG16 e1]
  unfold decG16
  rw [e2]
  simp [chk, *]
theorem vSettag (d : BitVec 4) (a : BitVec 4) (b : BitVec 4) : Statement (.vSettag d a b) := by
  intro _ hw
  have hl_d : d.toNat < 16 := d.isLt
  have hl_a : a.toNat < 16 := a.isLt
  have hl_b : b.toNat < 16 := b.isLt
  change decode [wordT 0x16 6 d.toNat a.toNat b.toNat 0 15] = _
  obtain ⟨e0, e1, e2, f19_16, f15_12, f11_8, f7_4, f3_0⟩ := fieldsT 0x16 6 d.toNat a.toNat b.toNat 0 15 (by omega) (by omega) (by omega) (by omega) (by omega) (by omega) (by omega)
  generalize wordT 0x16 6 d.toNat a.toNat b.toNat 0 15 = y at *
  refine decode_ok e0 (by rw [e1]; decide) ?_
  rw [inG16 e1]
  unfold decG16
  rw [e2]
  simp [chk, *]
theorem vGettag (d : BitVec 4) (a : BitVec 4) : Statement (.vGettag d a) := by
  intro _ hw
  have hl_d : d.toNat < 16 := d.isLt
  have hl_a : a.toNat < 16 := a.isLt
  change decode [wordT 0x16 7 d.toNat a.toNat 0 0 15] = _
  obtain ⟨e0, e1, e2, f19_16, f15_12, f11_8, f7_4, f3_0⟩ := fieldsT 0x16 7 d.toNat a.toNat 0 0 15 (by omega) (by omega) (by omega) (by omega) (by omega) (by omega) (by omega)
  generalize wordT 0x16 7 d.toNat a.toNat 0 0 15 = y at *
  refine decode_ok e0 (by rw [e1]; decide) ?_
  rw [inG16 e1]
  unfold decG16
  rw [e2]
  simp [chk, *]
theorem vIns (d : BitVec 4) (a : BitVec 4) (b : BitVec 4) (l : BitVec 4) : Statement (.vIns d a b l) := by
  intro _ hw
  have hl_d : d.toNat < 16 := d.isLt
  have hl_a : a.toNat < 16 := a.isLt
  have hl_b : b.toNat < 16 := b.isLt
  have hl_l : l.toNat < 16 := l.isLt
  change decode [wordT 0x16 8 d.toNat a.toNat b.toNat l.toNat 15] = _
  obtain ⟨e0, e1, e2, f19_16, f15_12, f11_8, f7_4, f3_0⟩ := fieldsT 0x16 8 d.toNat a.toNat b.toNat l.toNat 15 (by omega) (by omega) (by omega) (by omega) (by omega) (by omega) (by omega)
  generalize wordT 0x16 8 d.toNat a.toNat b.toNat l.toNat 15 = y at *
  refine decode_ok e0 (by rw [e1]; decide) ?_
  rw [inG16 e1]
  unfold decG16
  rw [e2]
  simp [chk, *]
theorem vExt (d : BitVec 4) (a : BitVec 4) (l : BitVec 4) : Statement (.vExt d a l) := by
  intro _ hw
  have hl_d : d.toNat < 16 := d.isLt
  have hl_a : a.toNat < 16 := a.isLt
  have hl_l : l.toNat < 16 := l.isLt
  change decode [wordT 0x16 9 d.toNat a.toNat 0 l.toNat 15] = _
  obtain ⟨e0, e1, e2, f19_16, f15_12, f11_8, f7_4, f3_0⟩ := fieldsT 0x16 9 d.toNat a.toNat 0 l.toNat 15 (by omega) (by omega) (by omega) (by omega) (by omega) (by omega) (by omega)
  generalize wordT 0x16 9 d.toNat a.toNat 0 l.toNat 15 = y at *
  refine decode_ok e0 (by rw [e1]; decide) ?_
  rw [inG16 e1]
  unfold decG16
  rw [e2]
  simp [chk, *]
theorem vSplat (d : BitVec 4) (a : BitVec 4) : Statement (.vSplat d a) := by
  intro _ hw
  have hl_d : d.toNat < 16 := d.isLt
  have hl_a : a.toNat < 16 := a.isLt
  change decode [wordT 0x16 10 d.toNat a.toNat 0 0 15] = _
  obtain ⟨e0, e1, e2, f19_16, f15_12, f11_8, f7_4, f3_0⟩ := fieldsT 0x16 10 d.toNat a.toNat 0 0 15 (by omega) (by omega) (by omega) (by omega) (by omega) (by omega) (by omega)
  generalize wordT 0x16 10 d.toNat a.toNat 0 0 15 = y at *
  refine decode_ok e0 (by rw [e1]; decide) ?_
  rw [inG16 e1]
  unfold decG16
  rw [e2]
  simp [chk, *]
theorem vMkc (d : BitVec 4) (a : BitVec 4) (k : TokKind) : Statement (.vMkc d a k) := by
  intro _ hw
  have hl_d : d.toNat < 16 := d.isLt
  have hl_a : a.toNat < 16 := a.isLt
  have hl_k := TokKind_code_lt k
  have hw : (k != .marker) = true := hw
  change decode [wordT 0x16 11 d.toNat a.toNat 0 k.code 15] = _
  obtain ⟨e0, e1, e2, f19_16, f15_12, f11_8, f7_4, f3_0⟩ := fieldsT 0x16 11 d.toNat a.toNat 0 k.code 15 (by omega) (by omega) (by omega) (by omega) (by omega) (by omega) (by omega)
  generalize wordT 0x16 11 d.toNat a.toNat 0 k.code 15 = y at *
  refine decode_ok e0 (by rw [e1]; decide) ?_
  rw [inG16 e1]
  unfold decG16
  rw [e2]
  simp [chk, *]
  revert hw
  cases k <;> decide
theorem vDeq (d : BitVec 4) (a : BitVec 4) (b : BitVec 4) (c : Bool) (p : Plane) : Statement (.vDeq d a b c p) := by
  intro _ hw
  have hl_d : d.toNat < 16 := d.isLt
  have hl_a : a.toNat < 16 := a.isLt
  have hl_b : b.toNat < 16 := b.isLt
  have hl_c := bool_lt c
  have hl_p := Plane_code_lt p
  rw [show encode (.vDeq d a b c p) = [wordT 0x17 0 d.toNat a.toNat b.toNat (p.code + 4 * c.toNat) 0] by
    simp only [encode, wordT]
    all_goals (refine congrArg (fun n => [n]) ?_; omega)]
  obtain ⟨e0, e1, e2, f19_16, f15_12, f11_8, f7_4, f3_0⟩ := fieldsT 0x17 0 d.toNat a.toNat b.toNat (p.code + 4 * c.toNat) 0 (by omega) (by omega) (by omega) (by omega) (by omega) (by omega) (by omega)
  generalize wordT 0x17 0 d.toNat a.toNat b.toNat (p.code + 4 * c.toNat) 0 = y at *
  have s0 : fld y 7 7 = 0 := fld_part 7 7 _ f7_4 (by decide) (by decide) (by decide) (by simp only [Nat.reducePow, Nat.reduceAdd, Nat.reduceSub]; omega)
  have s1 : fld y 6 6 = c.toNat := fld_part 6 6 _ f7_4 (by decide) (by decide) (by decide) (by simp only [Nat.reducePow, Nat.reduceAdd, Nat.reduceSub]; omega)
  have s2 : fld y 5 4 = p.code := fld_part 5 4 _ f7_4 (by decide) (by decide) (by decide) (by simp only [Nat.reducePow, Nat.reduceAdd, Nat.reduceSub]; omega)
  refine decode_ok e0 (by rw [e1]; decide) ?_
  rw [inG17 e1]
  unfold decG17
  rw [e2]
  simp [chk, *] <;> omega
theorem vWarp (d : BitVec 4) (a : BitVec 4) (b : BitVec 4) (s : Bool) : Statement (.vWarp d a b s) := by
  intro _ hw
  have hl_d : d.toNat < 16 := d.isLt
  have hl_a : a.toNat < 16 := a.isLt
  have hl_b : b.toNat < 16 := b.isLt
  have hl_s := bool_lt s
  change decode [wordT 0x17 1 d.toNat a.toNat b.toNat s.toNat 7] = _
  obtain ⟨e0, e1, e2, f19_16, f15_12, f11_8, f7_4, f3_0⟩ := fieldsT 0x17 1 d.toNat a.toNat b.toNat s.toNat 7 (by omega) (by omega) (by omega) (by omega) (by omega) (by omega) (by omega)
  generalize wordT 0x17 1 d.toNat a.toNat b.toNat s.toNat 7 = y at *
  have s0 : fld y 4 4 = s.toNat := fld_part 4 4 _ f7_4 (by decide) (by decide) (by decide) (by simp only [Nat.reducePow, Nat.reduceAdd, Nat.reduceSub]; omega)
  refine decode_ok e0 (by rw [e1]; decide) ?_
  rw [inG17 e1]
  unfold decG17
  rw [e2]
  simp [chk, *]
theorem vErracc (d : BitVec 4) (a : BitVec 4) (b : BitVec 4) (f : Bool) : Statement (.vErracc d a b f) := by
  intro _ hw
  have hl_d : d.toNat < 16 := d.isLt
  have hl_a : a.toNat < 16 := a.isLt
  have hl_b : b.toNat < 16 := b.isLt
  have hl_f := bool_lt f
  change decode [wordT 0x17 2 d.toNat a.toNat b.toNat f.toNat 0] = _
  obtain ⟨e0, e1, e2, f19_16, f15_12, f11_8, f7_4, f3_0⟩ := fieldsT 0x17 2 d.toNat a.toNat b.toNat f.toNat 0 (by omega) (by omega) (by omega) (by omega) (by omega) (by omega) (by omega)
  generalize wordT 0x17 2 d.toNat a.toNat b.toNat f.toNat 0 = y at *
  have s0 : fld y 4 4 = f.toNat := fld_part 4 4 _ f7_4 (by decide) (by decide) (by decide) (by simp only [Nat.reducePow, Nat.reduceAdd, Nat.reduceSub]; omega)
  refine decode_ok e0 (by rw [e1]; decide) ?_
  rw [inG17 e1]
  unfold decG17
  rw [e2]
  simp [chk, *]
theorem vRefr (d : BitVec 4) (a : BitVec 4) : Statement (.vRefr d a) := by
  intro _ hw
  have hl_d : d.toNat < 16 := d.isLt
  have hl_a : a.toNat < 16 := a.isLt
  change decode [wordT 0x17 3 d.toNat a.toNat 0 0 15] = _
  obtain ⟨e0, e1, e2, f19_16, f15_12, f11_8, f7_4, f3_0⟩ := fieldsT 0x17 3 d.toNat a.toNat 0 0 15 (by omega) (by omega) (by omega) (by omega) (by omega) (by omega) (by omega)
  generalize wordT 0x17 3 d.toNat a.toNat 0 0 15 = y at *
  refine decode_ok e0 (by rw [e1]; decide) ?_
  rw [inG17 e1]
  unfold decG17
  rw [e2]
  simp [chk, *]
theorem vBfx (d : BitVec 4) (a : BitVec 4) (f : RecField) : Statement (.vBfx d a f) := by
  intro _ hw
  have hl_d : d.toNat < 16 := d.isLt
  have hl_a : a.toNat < 16 := a.isLt
  have hl_f := RecField_code_lt f
  change decode [wordT 0x17 4 d.toNat a.toNat 0 f.code 7] = _
  obtain ⟨e0, e1, e2, f19_16, f15_12, f11_8, f7_4, f3_0⟩ := fieldsT 0x17 4 d.toNat a.toNat 0 f.code 7 (by omega) (by omega) (by omega) (by omega) (by omega) (by omega) (by omega)
  generalize wordT 0x17 4 d.toNat a.toNat 0 f.code 7 = y at *
  refine decode_ok e0 (by rw [e1]; decide) ?_
  rw [inG17 e1]
  unfold decG17
  rw [e2]
  simp [chk, *]
theorem mMma (c : BitVec 4) (r : BitVec 2) (f : MatFmt) (k : Option (BitVec 2)) : Statement (.mMma c r f k) := by
  intro _ hw
  have hl_c : c.toNat < 16 := c.isLt
  have hl_r : r.toNat < 4 := r.isLt
  have hl_f := MatFmt_code_lt f
  have hl_k := maskCode_lt k
  have hm_k := skipCode_lt k
  change decode [wordM 0x18 0 c.toNat r.toNat f.code (skipCode k) 0 0 0] = _
  obtain ⟨e0, e1, e2, f22_19, f18_17, f16_14, f13_11, f10_7, f6_6, f5_0⟩ := fieldsM 0x18 0 c.toNat r.toNat f.code (skipCode k) 0 0 0 (by omega) (by omega) (by omega) (by omega) (by omega) (by omega) (by omega) (by omega) (by omega)
  generalize wordM 0x18 0 c.toNat r.toNat f.code (skipCode k) 0 0 0 = y at *
  have s0 : fld y 13 13 = fld (skipCode k) 2 2 := fld_part 13 13 _ f13_11 (by decide) (by decide) (by decide) rfl
  have s1 : fld y 12 11 = fld (skipCode k) 1 0 := fld_part 12 11 _ f13_11 (by decide) (by decide) (by decide) rfl
  refine decode_ok e0 (by rw [e1]; decide) ?_
  rw [inG18 e1]
  unfold decG18
  rw [e2]
  simp [chk, *] <;> omega
theorem mMmaz (c : BitVec 4) (r : BitVec 2) (f : MatFmt) (k : Option (BitVec 2)) : Statement (.mMmaz c r f k) := by
  intro _ hw
  have hl_c : c.toNat < 16 := c.isLt
  have hl_r : r.toNat < 4 := r.isLt
  have hl_f := MatFmt_code_lt f
  have hl_k := maskCode_lt k
  have hm_k := skipCode_lt k
  change decode [wordM 0x18 1 c.toNat r.toNat f.code (skipCode k) 0 0 0] = _
  obtain ⟨e0, e1, e2, f22_19, f18_17, f16_14, f13_11, f10_7, f6_6, f5_0⟩ := fieldsM 0x18 1 c.toNat r.toNat f.code (skipCode k) 0 0 0 (by omega) (by omega) (by omega) (by omega) (by omega) (by omega) (by omega) (by omega) (by omega)
  generalize wordM 0x18 1 c.toNat r.toNat f.code (skipCode k) 0 0 0 = y at *
  have s0 : fld y 13 13 = fld (skipCode k) 2 2 := fld_part 13 13 _ f13_11 (by decide) (by decide) (by decide) rfl
  have s1 : fld y 12 11 = fld (skipCode k) 1 0 := fld_part 12 11 _ f13_11 (by decide) (by decide) (by decide) rfl
  refine decode_ok e0 (by rw [e1]; decide) ?_
  rw [inG18 e1]
  unfold decG18
  rw [e2]
  simp [chk, *] <;> omega
theorem mRun (c : BitVec 4) (r : BitVec 2) (f : MatFmt) (k : Option (BitVec 2)) (x : BitVec 4) (w : Bool) (z : Bool) : Statement (.mRun c r f k x w z) := by
  intro _ hw
  have hl_c : c.toNat < 16 := c.isLt
  have hl_r : r.toNat < 4 := r.isLt
  have hl_f := MatFmt_code_lt f
  have hl_k := maskCode_lt k
  have hm_k := skipCode_lt k
  have hl_x : x.toNat < 16 := x.isLt
  have hl_w := bool_lt w
  have hl_z := bool_lt z
  change decode [wordM 0x18 2 c.toNat r.toNat f.code (skipCode k) x.toNat w.toNat z.toNat] = _
  obtain ⟨e0, e1, e2, f22_19, f18_17, f16_14, f13_11, f10_7, f6_6, f5_0⟩ := fieldsM 0x18 2 c.toNat r.toNat f.code (skipCode k) x.toNat w.toNat z.toNat (by omega) (by omega) (by omega) (by omega) (by omega) (by omega) (by omega) (by omega) (by omega)
  generalize wordM 0x18 2 c.toNat r.toNat f.code (skipCode k) x.toNat w.toNat z.toNat = y at *
  have s0 : fld y 0 0 = z.toNat := fld_part 0 0 _ f5_0 (by decide) (by decide) (by decide) (by simp only [Nat.reducePow, Nat.reduceAdd, Nat.reduceSub]; omega)
  have s1 : fld y 13 13 = fld (skipCode k) 2 2 := fld_part 13 13 _ f13_11 (by decide) (by decide) (by decide) rfl
  have s2 : fld y 12 11 = fld (skipCode k) 1 0 := fld_part 12 11 _ f13_11 (by decide) (by decide) (by decide) rfl
  refine decode_ok e0 (by rw [e1]; decide) ?_
  rw [inG18 e1]
  unfold decG18
  rw [e2]
  simp [chk, *] <;> omega
theorem mGrp (c : BitVec 4) (r : BitVec 2) (f : MatFmt) (k : Option (BitVec 2)) (x : BitVec 4) (w : Bool) (t : BitVec 3) (p : BitVec 3) : Statement (.mGrp c r f k x w t p) := by
  intro _ hw
  have hl_c : c.toNat < 16 := c.isLt
  have hl_r : r.toNat < 4 := r.isLt
  have hl_f := MatFmt_code_lt f
  have hl_k := maskCode_lt k
  have hm_k := skipCode_lt k
  have hl_x : x.toNat < 16 := x.isLt
  have hl_w := bool_lt w
  have hl_t : t.toNat < 8 := t.isLt
  have hl_p : p.toNat < 8 := p.isLt
  change decode [wordM 0x18 3 c.toNat r.toNat f.code (skipCode k) x.toNat w.toNat (t.toNat * 2^3 + p.toNat)] = _
  obtain ⟨e0, e1, e2, f22_19, f18_17, f16_14, f13_11, f10_7, f6_6, f5_0⟩ := fieldsM 0x18 3 c.toNat r.toNat f.code (skipCode k) x.toNat w.toNat (t.toNat * 2^3 + p.toNat) (by omega) (by omega) (by omega) (by omega) (by omega) (by omega) (by omega) (by omega) (by omega)
  generalize wordM 0x18 3 c.toNat r.toNat f.code (skipCode k) x.toNat w.toNat (t.toNat * 2^3 + p.toNat) = y at *
  have s0 : fld y 5 3 = t.toNat := fld_part 5 3 _ f5_0 (by decide) (by decide) (by decide) (by simp only [Nat.reducePow, Nat.reduceAdd, Nat.reduceSub]; omega)
  have s1 : fld y 2 0 = p.toNat := fld_part 2 0 _ f5_0 (by decide) (by decide) (by decide) (by simp only [Nat.reducePow, Nat.reduceAdd, Nat.reduceSub]; omega)
  have s2 : fld y 13 13 = fld (skipCode k) 2 2 := fld_part 13 13 _ f13_11 (by decide) (by decide) (by decide) rfl
  have s3 : fld y 12 11 = fld (skipCode k) 1 0 := fld_part 12 11 _ f13_11 (by decide) (by decide) (by decide) rfl
  refine decode_ok e0 (by rw [e1]; decide) ?_
  rw [inG18 e1]
  unfold decG18
  rw [e2]
  simp [chk, *] <;> omega
theorem mDrain_g (c : BitVec 4) (r : BitVec 4) (w : Bool) (l : Bool) (f : Bool) : Statement (.mDrain c (.g r w) l f) := by
  intro _ hw
  have hl_c : c.toNat < 16 := c.isLt
  have hl_r : r.toNat < 16 := r.isLt
  have hl_w := bool_lt w
  have hl_l := bool_lt l
  have hl_f := bool_lt f
  rw [show encode (.mDrain c (.g r w) l f) = [wordM 0x19 0 c.toNat 0 0 0 r.toNat w.toNat (l.toNat * 8 + f.toNat * 2)] by
    simp only [encode, gOrPortCode, wordM]
    all_goals (refine congrArg (fun n => [n]) ?_; omega)]
  obtain ⟨e0, e1, e2, f22_19, f18_17, f16_14, f13_11, f10_7, f6_6, f5_0⟩ := fieldsM 0x19 0 c.toNat 0 0 0 r.toNat w.toNat (l.toNat * 8 + f.toNat * 2) (by omega) (by omega) (by omega) (by omega) (by omega) (by omega) (by omega) (by omega) (by omega)
  generalize wordM 0x19 0 c.toNat 0 0 0 r.toNat w.toNat (l.toNat * 8 + f.toNat * 2) = y at *
  have s0 : fld y 5 4 = 0 := fld_part 5 4 _ f5_0 (by decide) (by decide) (by decide) (by simp only [Nat.reducePow, Nat.reduceAdd, Nat.reduceSub]; omega)
  have s1 : fld y 3 3 = l.toNat := fld_part 3 3 _ f5_0 (by decide) (by decide) (by decide) (by simp only [Nat.reducePow, Nat.reduceAdd, Nat.reduceSub]; omega)
  have s2 : fld y 2 2 = 0 := fld_part 2 2 _ f5_0 (by decide) (by decide) (by decide) (by simp only [Nat.reducePow, Nat.reduceAdd, Nat.reduceSub]; omega)
  have s3 : fld y 1 1 = f.toNat := fld_part 1 1 _ f5_0 (by decide) (by decide) (by decide) (by simp only [Nat.reducePow, Nat.reduceAdd, Nat.reduceSub]; omega)
  have s4 : fld y 0 0 = 0 := fld_part 0 0 _ f5_0 (by decide) (by decide) (by decide) (by simp only [Nat.reducePow, Nat.reduceAdd, Nat.reduceSub]; omega)
  have s5 : fld y 13 13 = 0 := fld_part 13 13 _ f13_11 (by decide) (by decide) (by decide) (by decide)
  have s6 : fld y 12 11 = 0 := fld_part 12 11 _ f13_11 (by decide) (by decide) (by decide) (by decide)
  refine decode_ok e0 (by rw [e1]; decide) ?_
  rw [inG19 e1]
  unfold decG19
  rw [e2]
  simp [chk, *]

theorem mDrain_port (c : BitVec 4) (p : BitVec 3) (l : Bool) (f : Bool) : Statement (.mDrain c (.port p) l f) := by
  intro _ hw
  have hl_c : c.toNat < 16 := c.isLt
  have hl_p : p.toNat < 8 := p.isLt
  have hl_l := bool_lt l
  have hl_f := bool_lt f
  rw [show encode (.mDrain c (.port p) l f) = [wordM 0x19 0 c.toNat 0 0 0 (p.toNat + 8) 0 (l.toNat * 8 + f.toNat * 2 + 1)] by
    simp only [encode, gOrPortCode, wordM]
    all_goals (refine congrArg (fun n => [n]) ?_; omega)]
  obtain ⟨e0, e1, e2, f22_19, f18_17, f16_14, f13_11, f10_7, f6_6, f5_0⟩ := fieldsM 0x19 0 c.toNat 0 0 0 (p.toNat + 8) 0 (l.toNat * 8 + f.toNat * 2 + 1) (by omega) (by omega) (by omega) (by omega) (by omega) (by omega) (by omega) (by omega) (by omega)
  generalize wordM 0x19 0 c.toNat 0 0 0 (p.toNat + 8) 0 (l.toNat * 8 + f.toNat * 2 + 1) = y at *
  have s0 : fld y 5 4 = 0 := fld_part 5 4 _ f5_0 (by decide) (by decide) (by decide) (by simp only [Nat.reducePow, Nat.reduceAdd, Nat.reduceSub]; omega)
  have s1 : fld y 3 3 = l.toNat := fld_part 3 3 _ f5_0 (by decide) (by decide) (by decide) (by simp only [Nat.reducePow, Nat.reduceAdd, Nat.reduceSub]; omega)
  have s2 : fld y 2 2 = 0 := fld_part 2 2 _ f5_0 (by decide) (by decide) (by decide) (by simp only [Nat.reducePow, Nat.reduceAdd, Nat.reduceSub]; omega)
  have s3 : fld y 1 1 = f.toNat := fld_part 1 1 _ f5_0 (by decide) (by decide) (by decide) (by simp only [Nat.reducePow, Nat.reduceAdd, Nat.reduceSub]; omega)
  have s4 : fld y 0 0 = 1 := fld_part 0 0 _ f5_0 (by decide) (by decide) (by decide) (by simp only [Nat.reducePow, Nat.reduceAdd, Nat.reduceSub]; omega)
  have s5 : fld y 13 13 = 0 := fld_part 13 13 _ f13_11 (by decide) (by decide) (by decide) (by decide)
  have s6 : fld y 12 11 = 0 := fld_part 12 11 _ f13_11 (by decide) (by decide) (by decide) (by decide)
  refine decode_ok e0 (by rw [e1]; decide) ?_
  rw [inG19 e1]
  unfold decG19
  rw [e2]
  simp [chk, *]

theorem mDrain (c : BitVec 4) (x : GOrPort) (l : Bool) (f : Bool) : Statement (.mDrain c x l f) := by
  rcases x with ⟨r, w⟩ | p
  · exact mDrain_g c r w l f
  · exact mDrain_port c p l f
theorem mCopy (c : BitVec 4) (x : BitVec 4) : Statement (.mCopy c x) := by
  intro _ hw
  have hl_c : c.toNat < 16 := c.isLt
  have hl_x : x.toNat < 16 := x.isLt
  change decode [wordM 0x19 1 c.toNat 0 0 0 x.toNat 0 0] = _
  obtain ⟨e0, e1, e2, f22_19, f18_17, f16_14, f13_11, f10_7, f6_6, f5_0⟩ := fieldsM 0x19 1 c.toNat 0 0 0 x.toNat 0 0 (by omega) (by omega) (by omega) (by omega) (by omega) (by omega) (by omega) (by omega) (by omega)
  generalize wordM 0x19 1 c.toNat 0 0 0 x.toNat 0 0 = y at *
  have s0 : fld y 13 13 = 0 := fld_part 13 13 _ f13_11 (by decide) (by decide) (by decide) (by decide)
  have s1 : fld y 12 11 = 0 := fld_part 12 11 _ f13_11 (by decide) (by decide) (by decide) (by decide)
  refine decode_ok e0 (by rw [e1]; decide) ?_
  rw [inG19 e1]
  unfold decG19
  rw [e2]
  simp [chk, *]
theorem mCopySt (c : BitVec 4) (x : BitVec 4) (w : Bool) : Statement (.mCopySt c x w) := by
  intro _ hw
  have hl_c : c.toNat < 16 := c.isLt
  have hl_x : x.toNat < 16 := x.isLt
  have hl_w := bool_lt w
  change decode [wordM 0x19 1 c.toNat 0 0 0 x.toNat w.toNat 1] = _
  obtain ⟨e0, e1, e2, f22_19, f18_17, f16_14, f13_11, f10_7, f6_6, f5_0⟩ := fieldsM 0x19 1 c.toNat 0 0 0 x.toNat w.toNat 1 (by omega) (by omega) (by omega) (by omega) (by omega) (by omega) (by omega) (by omega) (by omega)
  generalize wordM 0x19 1 c.toNat 0 0 0 x.toNat w.toNat 1 = y at *
  have s0 : fld y 13 13 = 0 := fld_part 13 13 _ f13_11 (by decide) (by decide) (by decide) (by decide)
  have s1 : fld y 12 11 = 0 := fld_part 12 11 _ f13_11 (by decide) (by decide) (by decide) (by decide)
  refine decode_ok e0 (by rw [e1]; decide) ?_
  rw [inG19 e1]
  unfold decG19
  rw [e2]
  simp [chk, *]
theorem mCopyLd (c : BitVec 4) (x : BitVec 4) (w : Bool) : Statement (.mCopyLd c x w) := by
  intro _ hw
  have hl_c : c.toNat < 16 := c.isLt
  have hl_x : x.toNat < 16 := x.isLt
  have hl_w := bool_lt w
  change decode [wordM 0x19 1 c.toNat 0 0 0 x.toNat w.toNat 2] = _
  obtain ⟨e0, e1, e2, f22_19, f18_17, f16_14, f13_11, f10_7, f6_6, f5_0⟩ := fieldsM 0x19 1 c.toNat 0 0 0 x.toNat w.toNat 2 (by omega) (by omega) (by omega) (by omega) (by omega) (by omega) (by omega) (by omega) (by omega)
  generalize wordM 0x19 1 c.toNat 0 0 0 x.toNat w.toNat 2 = y at *
  have s0 : fld y 13 13 = 0 := fld_part 13 13 _ f13_11 (by decide) (by decide) (by decide) (by decide)
  have s1 : fld y 12 11 = 0 := fld_part 12 11 _ f13_11 (by decide) (by decide) (by decide) (by decide)
  refine decode_ok e0 (by rw [e1]; decide) ?_
  rw [inG19 e1]
  unfold decG19
  rw [e2]
  simp [chk, *]
theorem mLd_g (f : StatFmt) (r : BitVec 4) (w : Bool) : Statement (.mLd f (.g r w)) := by
  intro _ hw
  have hl_f := StatFmt_code_lt f
  have hl_r : r.toNat < 16 := r.isLt
  have hl_w := bool_lt w
  rw [show encode (.mLd f (.g r w)) = [wordM 0x19 2 0 0 f.code 0 r.toNat w.toNat 1] by
    simp only [encode, ldSrcCode, wordM]
    all_goals (refine congrArg (fun n => [n]) ?_; omega)]
  obtain ⟨e0, e1, e2, f22_19, f18_17, f16_14, f13_11, f10_7, f6_6, f5_0⟩ := fieldsM 0x19 2 0 0 f.code 0 r.toNat w.toNat 1 (by omega) (by omega) (by omega) (by omega) (by omega) (by omega) (by omega) (by omega) (by omega)
  generalize wordM 0x19 2 0 0 f.code 0 r.toNat w.toNat 1 = y at *
  have s0 : fld y 0 0 = 1 := fld_part 0 0 _ f5_0 (by decide) (by decide) (by decide) rfl
  have s1 : fld y 13 13 = 0 := fld_part 13 13 _ f13_11 (by decide) (by decide) (by decide) (by decide)
  have s2 : fld y 12 11 = 0 := fld_part 12 11 _ f13_11 (by decide) (by decide) (by decide) (by decide)
  refine decode_ok e0 (by rw [e1]; decide) ?_
  rw [inG19 e1]
  unfold decG19
  rw [e2]
  simp [chk, *]
  cases f <;> decide

theorem mLd_port (f : StatFmt) (p : BitVec 3) : Statement (.mLd f (.port p)) := by
  intro _ hw
  have hl_f := StatFmt_code_lt f
  have hl_p : p.toNat < 8 := p.isLt
  rw [show encode (.mLd f (.port p)) = [wordM 0x19 2 0 0 f.code 0 (p.toNat + 8) 0 0] by
    simp only [encode, ldSrcCode, wordM]
    all_goals (refine congrArg (fun n => [n]) ?_; omega)]
  obtain ⟨e0, e1, e2, f22_19, f18_17, f16_14, f13_11, f10_7, f6_6, f5_0⟩ := fieldsM 0x19 2 0 0 f.code 0 (p.toNat + 8) 0 0 (by omega) (by omega) (by omega) (by omega) (by omega) (by omega) (by omega) (by omega) (by omega)
  generalize wordM 0x19 2 0 0 f.code 0 (p.toNat + 8) 0 0 = y at *
  have s0 : fld y 0 0 = 0 := fld_part 0 0 _ f5_0 (by decide) (by decide) (by decide) rfl
  have s1 : fld y 13 13 = 0 := fld_part 13 13 _ f13_11 (by decide) (by decide) (by decide) (by decide)
  have s2 : fld y 12 11 = 0 := fld_part 12 11 _ f13_11 (by decide) (by decide) (by decide) (by decide)
  refine decode_ok e0 (by rw [e1]; decide) ?_
  rw [inG19 e1]
  unfold decG19
  rw [e2]
  simp [chk, *]
  cases f <;> decide

theorem mLd (f : StatFmt) (x : GOrPort) : Statement (.mLd f x) := by
  rcases x with ⟨r, w⟩ | p
  · exact mLd_g f r w
  · exact mLd_port f p
theorem mSwap  : Statement (.mSwap) := by
  intro _ hw
  change decode [wordM 0x19 3 0 0 0 0 0 0 0] = _
  obtain ⟨e0, e1, e2, f22_19, f18_17, f16_14, f13_11, f10_7, f6_6, f5_0⟩ := fieldsM 0x19 3 0 0 0 0 0 0 0 (by omega) (by omega) (by omega) (by omega) (by omega) (by omega) (by omega) (by omega) (by omega)
  generalize wordM 0x19 3 0 0 0 0 0 0 0 = y at *
  have s0 : fld y 13 13 = 0 := fld_part 13 13 _ f13_11 (by decide) (by decide) (by decide) (by decide)
  have s1 : fld y 12 11 = 0 := fld_part 12 11 _ f13_11 (by decide) (by decide) (by decide) (by decide)
  refine decode_ok e0 (by rw [e1]; decide) ?_
  rw [inG19 e1]
  unfold decG19
  rw [e2]
  simp [chk, *]
theorem mClr (c : BitVec 4) : Statement (.mClr c) := by
  intro _ hw
  have hl_c : c.toNat < 16 := c.isLt
  change decode [wordM 0x19 4 c.toNat 0 0 0 0 0 0] = _
  obtain ⟨e0, e1, e2, f22_19, f18_17, f16_14, f13_11, f10_7, f6_6, f5_0⟩ := fieldsM 0x19 4 c.toNat 0 0 0 0 0 0 (by omega) (by omega) (by omega) (by omega) (by omega) (by omega) (by omega) (by omega) (by omega)
  generalize wordM 0x19 4 c.toNat 0 0 0 0 0 0 = y at *
  have s0 : fld y 13 13 = 0 := fld_part 13 13 _ f13_11 (by decide) (by decide) (by decide) (by decide)
  have s1 : fld y 12 11 = 0 := fld_part 12 11 _ f13_11 (by decide) (by decide) (by decide) (by decide)
  refine decode_ok e0 (by rw [e1]; decide) ?_
  rw [inG19 e1]
  unfold decG19
  rw [e2]
  simp [chk, *]
theorem rlDecl (c : BitVec 4) (k : BitVec 5) : Statement (.rlDecl c k) := by
  intro _ hw
  have hl_c : c.toNat < 16 := c.isLt
  have hl_k : k.toNat < 32 := k.isLt
  change decode [wordM 0x1A 0 c.toNat 0 0 0 0 0 k.toNat] = _
  obtain ⟨e0, e1, e2, f22_19, f18_17, f16_14, f13_11, f10_7, f6_6, f5_0⟩ := fieldsM 0x1A 0 c.toNat 0 0 0 0 0 k.toNat (by omega) (by omega) (by omega) (by omega) (by omega) (by omega) (by omega) (by omega) (by omega)
  generalize wordM 0x1A 0 c.toNat 0 0 0 0 0 k.toNat = y at *
  have s0 : fld y 4 0 = k.toNat := fld_part 4 0 _ f5_0 (by decide) (by decide) (by decide) (by simp only [Nat.reducePow, Nat.reduceAdd, Nat.reduceSub]; omega)
  have s1 : fld y 13 13 = 0 := fld_part 13 13 _ f13_11 (by decide) (by decide) (by decide) (by decide)
  have s2 : fld y 12 11 = 0 := fld_part 12 11 _ f13_11 (by decide) (by decide) (by decide) (by decide)
  refine decode_ok e0 (by rw [e1]; decide) ?_
  rw [inG1A e1]
  unfold decG1A
  rw [e2]
  simp [chk, *]
theorem rlIns (c : BitVec 4) (x : BitVec 4) (f : Bool) (i : BitVec 4) : Statement (.rlIns c x f i) := by
  intro _ hw
  have hl_c : c.toNat < 16 := c.isLt
  have hl_x : x.toNat < 16 := x.isLt
  have hl_f := bool_lt f
  have hl_i : i.toNat < 16 := i.isLt
  change decode [wordM 0x1A 1 c.toNat 0 0 0 x.toNat 0 (f.toNat * 2^4 + i.toNat)] = _
  obtain ⟨e0, e1, e2, f22_19, f18_17, f16_14, f13_11, f10_7, f6_6, f5_0⟩ := fieldsM 0x1A 1 c.toNat 0 0 0 x.toNat 0 (f.toNat * 2^4 + i.toNat) (by omega) (by omega) (by omega) (by omega) (by omega) (by omega) (by omega) (by omega) (by omega)
  generalize wordM 0x1A 1 c.toNat 0 0 0 x.toNat 0 (f.toNat * 2^4 + i.toNat) = y at *
  have s0 : fld y 4 4 = f.toNat := fld_part 4 4 _ f5_0 (by decide) (by decide) (by decide) (by simp only [Nat.reducePow, Nat.reduceAdd, Nat.reduceSub]; omega)
  have s1 : fld y 3 0 = i.toNat := fld_part 3 0 _ f5_0 (by decide) (by decide) (by decide) (by simp only [Nat.reducePow, Nat.reduceAdd, Nat.reduceSub]; omega)
  have s2 : fld y 13 13 = 0 := fld_part 13 13 _ f13_11 (by decide) (by decide) (by decide) (by decide)
  have s3 : fld y 12 11 = 0 := fld_part 12 11 _ f13_11 (by decide) (by decide) (by decide) (by decide)
  refine decode_ok e0 (by rw [e1]; decide) ?_
  rw [inG1A e1]
  unfold decG1A
  rw [e2]
  simp [chk, *] <;> omega
theorem rlMerge (c : BitVec 4) (x : BitVec 4) : Statement (.rlMerge c x) := by
  intro _ hw
  have hl_c : c.toNat < 16 := c.isLt
  have hl_x : x.toNat < 16 := x.isLt
  have hw : (x != c) = true := hw
  change decode [wordM 0x1A 2 c.toNat 0 0 0 x.toNat 0 0] = _
  obtain ⟨e0, e1, e2, f22_19, f18_17, f16_14, f13_11, f10_7, f6_6, f5_0⟩ := fieldsM 0x1A 2 c.toNat 0 0 0 x.toNat 0 0 (by omega) (by omega) (by omega) (by omega) (by omega) (by omega) (by omega) (by omega) (by omega)
  generalize wordM 0x1A 2 c.toNat 0 0 0 x.toNat 0 0 = y at *
  have s0 : fld y 13 13 = 0 := fld_part 13 13 _ f13_11 (by decide) (by decide) (by decide) (by decide)
  have s1 : fld y 12 11 = 0 := fld_part 12 11 _ f13_11 (by decide) (by decide) (by decide) (by decide)
  refine decode_ok e0 (by rw [e1]; decide) ?_
  rw [inG1A e1]
  unfold decG1A
  rw [e2]
  simp [chk, *]
  intro h
  exact absurd hw (by simp [BitVec.eq_of_toNat_eq h])
theorem rlThr_tok (c : BitVec 4) (d : BitVec 4) (r : BitVec 4) : Statement (.rlThr c (.tok d r)) := by
  intro _ hw
  have hl_c : c.toNat < 16 := c.isLt
  have hl_d : d.toNat < 16 := d.isLt
  have hl_r : r.toNat < 16 := r.isLt
  rw [show encode (.rlThr c (.tok d r)) = [wordM 0x1A 3 c.toNat 0 0 0 d.toNat 0 (r.toNat)] by
    simp only [encode, thrCode, wordM]
    all_goals (refine congrArg (fun n => [n]) ?_; omega)]
  obtain ⟨e0, e1, e2, f22_19, f18_17, f16_14, f13_11, f10_7, f6_6, f5_0⟩ := fieldsM 0x1A 3 c.toNat 0 0 0 d.toNat 0 (r.toNat) (by omega) (by omega) (by omega) (by omega) (by omega) (by omega) (by omega) (by omega) (by omega)
  generalize wordM 0x1A 3 c.toNat 0 0 0 d.toNat 0 (r.toNat) = y at *
  have s0 : fld y 5 5 = 0 := fld_part 5 5 _ f5_0 (by decide) (by decide) (by decide) (by simp only [Nat.reducePow, Nat.reduceAdd, Nat.reduceSub]; omega)
  have s1 : fld y 4 4 = 0 := fld_part 4 4 _ f5_0 (by decide) (by decide) (by decide) (by simp only [Nat.reducePow, Nat.reduceAdd, Nat.reduceSub]; omega)
  have s2 : fld y 3 0 = r.toNat := fld_part 3 0 _ f5_0 (by decide) (by decide) (by decide) (by simp only [Nat.reducePow, Nat.reduceAdd, Nat.reduceSub]; omega)
  have s3 : fld y 13 13 = 0 := fld_part 13 13 _ f13_11 (by decide) (by decide) (by decide) (by decide)
  have s4 : fld y 12 11 = 0 := fld_part 12 11 _ f13_11 (by decide) (by decide) (by decide) (by decide)
  refine decode_ok e0 (by rw [e1]; decide) ?_
  rw [inG1A e1]
  unfold decG1A
  rw [e2]
  simp [chk, *]

theorem rlThr_g (c : BitVec 4) (d : BitVec 4) (r : BitVec 4) : Statement (.rlThr c (.g d r)) := by
  intro _ hw
  have hl_c : c.toNat < 16 := c.isLt
  have hl_d : d.toNat < 16 := d.isLt
  have hl_r : r.toNat < 16 := r.isLt
  rw [show encode (.rlThr c (.g d r)) = [wordM 0x1A 3 c.toNat 0 0 0 d.toNat 0 (r.toNat + 16)] by
    simp only [encode, thrCode, wordM]
    all_goals (refine congrArg (fun n => [n]) ?_; omega)]
  obtain ⟨e0, e1, e2, f22_19, f18_17, f16_14, f13_11, f10_7, f6_6, f5_0⟩ := fieldsM 0x1A 3 c.toNat 0 0 0 d.toNat 0 (r.toNat + 16) (by omega) (by omega) (by omega) (by omega) (by omega) (by omega) (by omega) (by omega) (by omega)
  generalize wordM 0x1A 3 c.toNat 0 0 0 d.toNat 0 (r.toNat + 16) = y at *
  have s0 : fld y 5 5 = 0 := fld_part 5 5 _ f5_0 (by decide) (by decide) (by decide) (by simp only [Nat.reducePow, Nat.reduceAdd, Nat.reduceSub]; omega)
  have s1 : fld y 4 4 = 1 := fld_part 4 4 _ f5_0 (by decide) (by decide) (by decide) (by simp only [Nat.reducePow, Nat.reduceAdd, Nat.reduceSub]; omega)
  have s2 : fld y 3 0 = r.toNat := fld_part 3 0 _ f5_0 (by decide) (by decide) (by decide) (by simp only [Nat.reducePow, Nat.reduceAdd, Nat.reduceSub]; omega)
  have s3 : fld y 13 13 = 0 := fld_part 13 13 _ f13_11 (by decide) (by decide) (by decide) (by decide)
  have s4 : fld y 12 11 = 0 := fld_part 12 11 _ f13_11 (by decide) (by decide) (by decide) (by decide)
  refine decode_ok e0 (by rw [e1]; decide) ?_
  rw [inG1A e1]
  unfold decG1A
  rw [e2]
  simp [chk, *]

theorem rlThr_flags (c : BitVec 4) (d : BitVec 4) (r : BitVec 4) : Statement (.rlThr c (.flags d r)) := by
  intro _ hw
  have hl_c : c.toNat < 16 := c.isLt
  have hl_d : d.toNat < 16 := d.isLt
  have hl_r : r.toNat < 16 := r.isLt
  rw [show encode (.rlThr c (.flags d r)) = [wordM 0x1A 3 c.toNat 0 0 0 d.toNat 0 (r.toNat + 48)] by
    simp only [encode, thrCode, wordM]
    all_goals (refine congrArg (fun n => [n]) ?_; omega)]
  obtain ⟨e0, e1, e2, f22_19, f18_17, f16_14, f13_11, f10_7, f6_6, f5_0⟩ := fieldsM 0x1A 3 c.toNat 0 0 0 d.toNat 0 (r.toNat + 48) (by omega) (by omega) (by omega) (by omega) (by omega) (by omega) (by omega) (by omega) (by omega)
  generalize wordM 0x1A 3 c.toNat 0 0 0 d.toNat 0 (r.toNat + 48) = y at *
  have s0 : fld y 5 5 = 1 := fld_part 5 5 _ f5_0 (by decide) (by decide) (by decide) (by simp only [Nat.reducePow, Nat.reduceAdd, Nat.reduceSub]; omega)
  have s1 : fld y 4 4 = 1 := fld_part 4 4 _ f5_0 (by decide) (by decide) (by decide) (by simp only [Nat.reducePow, Nat.reduceAdd, Nat.reduceSub]; omega)
  have s2 : fld y 3 0 = r.toNat := fld_part 3 0 _ f5_0 (by decide) (by decide) (by decide) (by simp only [Nat.reducePow, Nat.reduceAdd, Nat.reduceSub]; omega)
  have s3 : fld y 13 13 = 0 := fld_part 13 13 _ f13_11 (by decide) (by decide) (by decide) (by decide)
  have s4 : fld y 12 11 = 0 := fld_part 12 11 _ f13_11 (by decide) (by decide) (by decide) (by decide)
  refine decode_ok e0 (by rw [e1]; decide) ?_
  rw [inG1A e1]
  unfold decG1A
  rw [e2]
  simp [chk, *]

theorem rlThr (c : BitVec 4) (x : ThrDest) : Statement (.rlThr c x) := by
  rcases x with ⟨d, r⟩ | ⟨d, r⟩ | ⟨d, r⟩
  · exact rlThr_tok c d r
  · exact rlThr_g c d r
  · exact rlThr_flags c d r
theorem rlOut_none (c : BitVec 4) (x : BitVec 3) (n : Bool) (u : Bool) : Statement (.rlOut c x n u none) := by
  intro _ hw
  have hl_c : c.toNat < 16 := c.isLt
  have hl_x : x.toNat < 8 := x.isLt
  have hl_n := bool_lt n
  have hl_u := bool_lt u
  have hw : ((!n || u)) = true := hw
  rw [show encode (.rlOut c x n u none) = [wordM 0x1A 4 c.toNat 0 0 0 (x.toNat + 8) 0 (n.toNat * 32 + u.toNat * 16)] by
    simp only [encode, optOutCode, wordM]
    all_goals (refine congrArg (fun n => [n]) ?_; omega)]
  obtain ⟨e0, e1, e2, f22_19, f18_17, f16_14, f13_11, f10_7, f6_6, f5_0⟩ := fieldsM 0x1A 4 c.toNat 0 0 0 (x.toNat + 8) 0 (n.toNat * 32 + u.toNat * 16) (by omega) (by omega) (by omega) (by omega) (by omega) (by omega) (by omega) (by omega) (by omega)
  generalize wordM 0x1A 4 c.toNat 0 0 0 (x.toNat + 8) 0 (n.toNat * 32 + u.toNat * 16) = y at *
  have s0 : fld y 5 5 = n.toNat := fld_part 5 5 _ f5_0 (by decide) (by decide) (by decide) (by simp only [Nat.reducePow, Nat.reduceAdd, Nat.reduceSub]; omega)
  have s1 : fld y 4 4 = u.toNat := fld_part 4 4 _ f5_0 (by decide) (by decide) (by decide) (by simp only [Nat.reducePow, Nat.reduceAdd, Nat.reduceSub]; omega)
  have s2 : fld y 3 0 = 0 := fld_part 3 0 _ f5_0 (by decide) (by decide) (by decide) (by simp only [Nat.reducePow, Nat.reduceAdd, Nat.reduceSub]; omega)
  have s3 : fld y 13 13 = 0 := fld_part 13 13 _ f13_11 (by decide) (by decide) (by decide) (by decide)
  have s4 : fld y 12 11 = 0 := fld_part 12 11 _ f13_11 (by decide) (by decide) (by decide) (by decide)
  refine decode_ok e0 (by rw [e1]; decide) ?_
  rw [inG1A e1]
  unfold decG1A
  rw [e2]
  simp [chk, *]

theorem rlOut_some (c : BitVec 4) (x : BitVec 3) (n : Bool) (u : Bool) (i : BitVec 3) : Statement (.rlOut c x n u (some i)) := by
  intro _ hw
  have hl_c : c.toNat < 16 := c.isLt
  have hl_x : x.toNat < 8 := x.isLt
  have hl_n := bool_lt n
  have hl_u := bool_lt u
  have hl_i : i.toNat < 8 := i.isLt
  have hw : ((!n || u)) = true := hw
  rw [show encode (.rlOut c x n u (some i)) = [wordM 0x1A 4 c.toNat 0 0 0 (x.toNat + 8) 0 (n.toNat * 32 + u.toNat * 16 + (i.toNat + 8))] by
    simp only [encode, optOutCode, wordM]
    all_goals (refine congrArg (fun n => [n]) ?_; omega)]
  obtain ⟨e0, e1, e2, f22_19, f18_17, f16_14, f13_11, f10_7, f6_6, f5_0⟩ := fieldsM 0x1A 4 c.toNat 0 0 0 (x.toNat + 8) 0 (n.toNat * 32 + u.toNat * 16 + (i.toNat + 8)) (by omega) (by omega) (by omega) (by omega) (by omega) (by omega) (by omega) (by omega) (by omega)
  generalize wordM 0x1A 4 c.toNat 0 0 0 (x.toNat + 8) 0 (n.toNat * 32 + u.toNat * 16 + (i.toNat + 8)) = y at *
  have s0 : fld y 5 5 = n.toNat := fld_part 5 5 _ f5_0 (by decide) (by decide) (by decide) (by simp only [Nat.reducePow, Nat.reduceAdd, Nat.reduceSub]; omega)
  have s1 : fld y 4 4 = u.toNat := fld_part 4 4 _ f5_0 (by decide) (by decide) (by decide) (by simp only [Nat.reducePow, Nat.reduceAdd, Nat.reduceSub]; omega)
  have s2 : fld y 3 0 = i.toNat + 8 := fld_part 3 0 _ f5_0 (by decide) (by decide) (by decide) (by simp only [Nat.reducePow, Nat.reduceAdd, Nat.reduceSub]; omega)
  have s3 : fld y 13 13 = 0 := fld_part 13 13 _ f13_11 (by decide) (by decide) (by decide) (by decide)
  have s4 : fld y 12 11 = 0 := fld_part 12 11 _ f13_11 (by decide) (by decide) (by decide) (by decide)
  refine decode_ok e0 (by rw [e1]; decide) ?_
  rw [inG1A e1]
  unfold decG1A
  rw [e2]
  simp [chk, *]

theorem rlOut (c : BitVec 4) (x : BitVec 3) (n : Bool) (u : Bool) (i : Option (BitVec 3)) : Statement (.rlOut c x n u i) := by
  rcases i with _ | i
  · exact rlOut_none c x n u
  · exact rlOut_some c x n u i
theorem rlClr_none (c : BitVec 4) : Statement (.rlClr c none) := by
  intro _ hw
  have hl_c : c.toNat < 16 := c.isLt
  rw [show encode (.rlClr c none) = [wordM 0x1A 5 c.toNat 0 0 0 0 0 0] by
    simp only [encode, optGCode, wordM]
    all_goals (refine congrArg (fun n => [n]) ?_; omega)]
  obtain ⟨e0, e1, e2, f22_19, f18_17, f16_14, f13_11, f10_7, f6_6, f5_0⟩ := fieldsM 0x1A 5 c.toNat 0 0 0 0 0 0 (by omega) (by omega) (by omega) (by omega) (by omega) (by omega) (by omega) (by omega) (by omega)
  generalize wordM 0x1A 5 c.toNat 0 0 0 0 0 0 = y at *
  have s0 : fld y 0 0 = 0 := fld_part 0 0 _ f5_0 (by decide) (by decide) (by decide) rfl
  have s1 : fld y 13 13 = 0 := fld_part 13 13 _ f13_11 (by decide) (by decide) (by decide) (by decide)
  have s2 : fld y 12 11 = 0 := fld_part 12 11 _ f13_11 (by decide) (by decide) (by decide) (by decide)
  refine decode_ok e0 (by rw [e1]; decide) ?_
  rw [inG1A e1]
  unfold decG1A
  rw [e2]
  simp [chk, *]

theorem rlClr_some (c : BitVec 4) (r : BitVec 4) (w : Bool) : Statement (.rlClr c (some (r, w))) := by
  intro _ hw
  have hl_c : c.toNat < 16 := c.isLt
  have hl_r : r.toNat < 16 := r.isLt
  have hl_w := bool_lt w
  rw [show encode (.rlClr c (some (r, w))) = [wordM 0x1A 5 c.toNat 0 0 0 r.toNat w.toNat 1] by
    simp only [encode, optGCode, wordM]
    all_goals (refine congrArg (fun n => [n]) ?_; omega)]
  obtain ⟨e0, e1, e2, f22_19, f18_17, f16_14, f13_11, f10_7, f6_6, f5_0⟩ := fieldsM 0x1A 5 c.toNat 0 0 0 r.toNat w.toNat 1 (by omega) (by omega) (by omega) (by omega) (by omega) (by omega) (by omega) (by omega) (by omega)
  generalize wordM 0x1A 5 c.toNat 0 0 0 r.toNat w.toNat 1 = y at *
  have s0 : fld y 0 0 = 1 := fld_part 0 0 _ f5_0 (by decide) (by decide) (by decide) rfl
  have s1 : fld y 13 13 = 0 := fld_part 13 13 _ f13_11 (by decide) (by decide) (by decide) (by decide)
  have s2 : fld y 12 11 = 0 := fld_part 12 11 _ f13_11 (by decide) (by decide) (by decide) (by decide)
  refine decode_ok e0 (by rw [e1]; decide) ?_
  rw [inG1A e1]
  unfold decG1A
  rw [e2]
  simp [chk, *]

theorem rlClr (c : BitVec 4) (x : Option (BitVec 4 × Bool)) : Statement (.rlClr c x) := by
  rcases x with _ | ⟨r, w⟩
  · exact rlClr_none c
  · exact rlClr_some c r w
theorem ringSet_none (r : BitVec 2) : Statement (.ringSet r none) := by
  intro _ hw
  have hl_r : r.toNat < 4 := r.isLt
  rw [show encode (.ringSet r none) = [wordM 0x1B 0 0 r.toNat 0 0 0 0 0] by
    simp only [encode, optGCode, wordM]
    all_goals (refine congrArg (fun n => [n]) ?_; omega)]
  obtain ⟨e0, e1, e2, f22_19, f18_17, f16_14, f13_11, f10_7, f6_6, f5_0⟩ := fieldsM 0x1B 0 0 r.toNat 0 0 0 0 0 (by omega) (by omega) (by omega) (by omega) (by omega) (by omega) (by omega) (by omega) (by omega)
  generalize wordM 0x1B 0 0 r.toNat 0 0 0 0 0 = y at *
  have s0 : fld y 0 0 = 0 := fld_part 0 0 _ f5_0 (by decide) (by decide) (by decide) rfl
  have s1 : fld y 13 13 = 0 := fld_part 13 13 _ f13_11 (by decide) (by decide) (by decide) (by decide)
  have s2 : fld y 12 11 = 0 := fld_part 12 11 _ f13_11 (by decide) (by decide) (by decide) (by decide)
  refine decode_ok e0 (by rw [e1]; decide) ?_
  rw [inG1B e1]
  unfold decG1B
  rw [e2]
  simp [chk, *]

theorem ringSet_some (r : BitVec 2) (b : BitVec 4) (w : Bool) : Statement (.ringSet r (some (b, w))) := by
  intro _ hw
  have hl_r : r.toNat < 4 := r.isLt
  have hl_b : b.toNat < 16 := b.isLt
  have hl_w := bool_lt w
  rw [show encode (.ringSet r (some (b, w))) = [wordM 0x1B 0 0 r.toNat 0 0 b.toNat w.toNat 1] by
    simp only [encode, optGCode, wordM]
    all_goals (refine congrArg (fun n => [n]) ?_; omega)]
  obtain ⟨e0, e1, e2, f22_19, f18_17, f16_14, f13_11, f10_7, f6_6, f5_0⟩ := fieldsM 0x1B 0 0 r.toNat 0 0 b.toNat w.toNat 1 (by omega) (by omega) (by omega) (by omega) (by omega) (by omega) (by omega) (by omega) (by omega)
  generalize wordM 0x1B 0 0 r.toNat 0 0 b.toNat w.toNat 1 = y at *
  have s0 : fld y 0 0 = 1 := fld_part 0 0 _ f5_0 (by decide) (by decide) (by decide) rfl
  have s1 : fld y 13 13 = 0 := fld_part 13 13 _ f13_11 (by decide) (by decide) (by decide) (by decide)
  have s2 : fld y 12 11 = 0 := fld_part 12 11 _ f13_11 (by decide) (by decide) (by decide) (by decide)
  refine decode_ok e0 (by rw [e1]; decide) ?_
  rw [inG1B e1]
  unfold decG1B
  rw [e2]
  simp [chk, *]

theorem ringSet (r : BitVec 2) (x : Option (BitVec 4 × Bool)) : Statement (.ringSet r x) := by
  rcases x with _ | ⟨b, w⟩
  · exact ringSet_none r
  · exact ringSet_some r b w
theorem ringHead (r : BitVec 2) (x : BitVec 4) : Statement (.ringHead r x) := by
  intro _ hw
  have hl_r : r.toNat < 4 := r.isLt
  have hl_x : x.toNat < 16 := x.isLt
  change decode [wordM 0x1B 1 0 r.toNat 0 0 x.toNat 0 0] = _
  obtain ⟨e0, e1, e2, f22_19, f18_17, f16_14, f13_11, f10_7, f6_6, f5_0⟩ := fieldsM 0x1B 1 0 r.toNat 0 0 x.toNat 0 0 (by omega) (by omega) (by omega) (by omega) (by omega) (by omega) (by omega) (by omega) (by omega)
  generalize wordM 0x1B 1 0 r.toNat 0 0 x.toNat 0 0 = y at *
  have s0 : fld y 13 13 = 0 := fld_part 13 13 _ f13_11 (by decide) (by decide) (by decide) (by decide)
  have s1 : fld y 12 11 = 0 := fld_part 12 11 _ f13_11 (by decide) (by decide) (by decide) (by decide)
  refine decode_ok e0 (by rw [e1]; decide) ?_
  rw [inG1B e1]
  unfold decG1B
  rw [e2]
  simp [chk, *]
theorem ringTail (r : BitVec 2) (x : BitVec 4) : Statement (.ringTail r x) := by
  intro _ hw
  have hl_r : r.toNat < 4 := r.isLt
  have hl_x : x.toNat < 16 := x.isLt
  change decode [wordM 0x1B 2 0 r.toNat 0 0 x.toNat 0 0] = _
  obtain ⟨e0, e1, e2, f22_19, f18_17, f16_14, f13_11, f10_7, f6_6, f5_0⟩ := fieldsM 0x1B 2 0 r.toNat 0 0 x.toNat 0 0 (by omega) (by omega) (by omega) (by omega) (by omega) (by omega) (by omega) (by omega) (by omega)
  generalize wordM 0x1B 2 0 r.toNat 0 0 x.toNat 0 0 = y at *
  have s0 : fld y 13 13 = 0 := fld_part 13 13 _ f13_11 (by decide) (by decide) (by decide) (by decide)
  have s1 : fld y 12 11 = 0 := fld_part 12 11 _ f13_11 (by decide) (by decide) (by decide) (by decide)
  refine decode_ok e0 (by rw [e1]; decide) ?_
  rw [inG1B e1]
  unfold decG1B
  rw [e2]
  simp [chk, *]
theorem ringPop (r : BitVec 2) (x : BitVec 4) (w : Bool) : Statement (.ringPop r x w) := by
  intro _ hw
  have hl_r : r.toNat < 4 := r.isLt
  have hl_x : x.toNat < 16 := x.isLt
  have hl_w := bool_lt w
  change decode [wordM 0x1B 3 0 r.toNat 0 0 x.toNat w.toNat 0] = _
  obtain ⟨e0, e1, e2, f22_19, f18_17, f16_14, f13_11, f10_7, f6_6, f5_0⟩ := fieldsM 0x1B 3 0 r.toNat 0 0 x.toNat w.toNat 0 (by omega) (by omega) (by omega) (by omega) (by omega) (by omega) (by omega) (by omega) (by omega)
  generalize wordM 0x1B 3 0 r.toNat 0 0 x.toNat w.toNat 0 = y at *
  have s0 : fld y 13 13 = 0 := fld_part 13 13 _ f13_11 (by decide) (by decide) (by decide) (by decide)
  have s1 : fld y 12 11 = 0 := fld_part 12 11 _ f13_11 (by decide) (by decide) (by decide) (by decide)
  refine decode_ok e0 (by rw [e1]; decide) ?_
  rw [inG1B e1]
  unfold decG1B
  rw [e2]
  simp [chk, *]
theorem sRead (e : BitVec 2) (ep : StreamDest) (pcb : BitVec 13) (b : BitVec 3) (v : Option (BitVec 4 × Bool)) (pr : Option (BitVec 3)) (xf : Xform) (disp : BitVec 32) (tag : BitVec 6) (eos : Bool) : Statement (.sRead e ep pcb b v pr xf disp tag eos) := by
  intro _ hw
  have hl_e : e.toNat < 4 := e.isLt
  have hl_pcb : pcb.toNat < 8192 := pcb.isLt
  have hl_b : b.toNat < 8 := b.isLt
  have hl_xf := Xform_code_lt xf
  have hl_disp : disp.toNat < 4294967296 := disp.isLt
  have hl_tag : tag.toNat < 64 := tag.isLt
  have hl_eos := bool_lt eos
  obtain ⟨v1, v2, v3, v4⟩ := ver_field v
  obtain ⟨p1, p2, p3⟩ := pr_field pr
  obtain ⟨d1, d2, d3⟩ := dest_field ep
  have hk : (destCode ep / 8 = 0 ∨ tag.toNat = 0) ∧ (destCode ep / 8 = 0 ∨ eos.toNat = 0) := by
    cases ep with
    | port p => exact ⟨.inl (by simp only [destCode]; omega), .inl (by simp only [destCode]; omega)⟩
    | ring r =>
      have hw : (tag == 0 && !eos) = true := hw
      simp only [Bool.and_eq_true, beq_iff_eq, Bool.not_eq_true'] at hw
      exact ⟨.inr (by rw [hw.1]; rfl), .inr (by rw [hw.2]; rfl)⟩
  rw [show encode (.sRead e ep pcb b v pr xf disp tag eos) = [streamW0 0 e.toNat (destCode ep) pcb.toNat, streamW1 b.toNat (verCode v) (prCode pr) xf.code 0, disp.toNat, streamW3 tag.toNat eos.toNat] by
    simp only [encode, streamW0, streamW1, streamW3, List.cons.injEq, and_true, true_and]
    omega]
  obtain ⟨x0, x1, x2, x3, x4, x5, x6, x7, x8⟩ := fields0 0 e.toNat (destCode ep) pcb.toNat (by omega) (by omega) (by omega) (by omega)
  obtain ⟨y0, y1, y2, y3, y4, y5, y6, y7, y8, y9⟩ := fields1 b.toNat (verCode v) (prCode pr) xf.code 0 (by omega) (by omega) (by omega) (by omega) (by omega)
  obtain ⟨z0, z1, z2, z3⟩ := fields3 tag.toNat eos.toNat (by omega) (by omega)
  generalize destCode ep / 8 = q1 at *
  generalize destCode ep % 8 = q2 at *
  generalize verCode v / 4 = q3 at *
  generalize verCode v / 2 % 2 = q4 at *
  generalize verCode v % 2 = q5 at *
  generalize prCode pr / 8 = q6 at *
  generalize prCode pr % 8 = q7 at *
  generalize streamW0 0 e.toNat (destCode ep) pcb.toNat = x at *
  generalize streamW1 b.toNat (verCode v) (prCode pr) xf.code 0 = y at *
  generalize streamW3 tag.toNat eos.toNat = z at *
  refine decode_stream x0 y0 (by omega) z0 x1 ?_
  unfold decStream
  simp only [x2, x3, x4, x5, x6, x7, x8, y1, y2, y3, y4, y5, y6, y7, y8, y9, z1, z2, z3, ck, List.cons_append, List.nil_append, chkL]
  simp [*]
  intro h
  have h2 := hk.2.resolve_left h
  cases eos <;> simp_all
theorem sWrite (e : BitVec 2) (p : BitVec 3) (pcb : BitVec 13) (b : BitVec 3) (v : Option (BitVec 4 × Bool)) (pr : Option (BitVec 3)) (xf : Xform) (disp : BitVec 32) : Statement (.sWrite e p pcb b v pr xf disp) := by
  intro _ hw
  have hl_e : e.toNat < 4 := e.isLt
  have hl_p : p.toNat < 8 := p.isLt
  have hl_pcb : pcb.toNat < 8192 := pcb.isLt
  have hl_b : b.toNat < 8 := b.isLt
  have hl_xf := Xform_code_lt xf
  have hl_disp : disp.toNat < 4294967296 := disp.isLt
  obtain ⟨v1, v2, v3, v4⟩ := ver_field v
  obtain ⟨p1, p2, p3⟩ := pr_field pr
  rw [show encode (.sWrite e p pcb b v pr xf disp) = [streamW0 1 (e.toNat + 4) p.toNat pcb.toNat, streamW1 b.toNat (verCode v) (prCode pr) xf.code 0, disp.toNat, streamW3 0 0] by
    simp only [encode, streamW0, streamW1, streamW3, List.cons.injEq, and_true, true_and]
    omega]
  obtain ⟨x0, x1, x2, x3, x4, x5, x6, x7, x8⟩ := fields0 1 (e.toNat + 4) p.toNat pcb.toNat (by omega) (by omega) (by omega) (by omega)
  obtain ⟨y0, y1, y2, y3, y4, y5, y6, y7, y8, y9⟩ := fields1 b.toNat (verCode v) (prCode pr) xf.code 0 (by omega) (by omega) (by omega) (by omega) (by omega)
  obtain ⟨z0, z1, z2, z3⟩ := fields3 0 0 (by omega) (by omega)
  replace x4 : fld (streamW0 1 (e.toNat + 4) p.toNat pcb.toNat) 19 18 = 0 := by rw [x4]; omega
  replace x5 : fld (streamW0 1 (e.toNat + 4) p.toNat pcb.toNat) 17 15 = p.toNat := by rw [x5]; omega
  generalize verCode v / 4 = q3 at *
  generalize verCode v / 2 % 2 = q4 at *
  generalize verCode v % 2 = q5 at *
  generalize prCode pr / 8 = q6 at *
  generalize prCode pr % 8 = q7 at *
  generalize streamW0 1 (e.toNat + 4) p.toNat pcb.toNat = x at *
  generalize streamW1 b.toNat (verCode v) (prCode pr) xf.code 0 = y at *
  generalize streamW3 0 0 = z at *
  refine decode_stream x0 y0 (by omega) z0 x1 ?_
  unfold decStream
  simp only [x2, x3, x4, x5, x6, x7, x8, y1, y2, y3, y4, y5, y6, y7, y8, y9, z1, z2, z3, ck, List.cons_append, List.nil_append, chkL]
  simp [*]
  apply BitVec.eq_of_toNat_eq
  simp only [BitVec.toNat_ofNat]
  omega
theorem sInd (e : BitVec 2) (ep : StreamDest) (pcb : BitVec 13) (b : BitVec 3) (ix : BitVec 3) (v : Option (BitVec 4 × Bool)) (pr : Option (BitVec 3)) (xf : Xform) (disp : BitVec 32) (tag : BitVec 6) (eos : Bool) : Statement (.sInd e ep pcb b ix v pr xf disp tag eos) := by
  intro _ hw
  have hl_e : e.toNat < 4 := e.isLt
  have hl_pcb : pcb.toNat < 8192 := pcb.isLt
  have hl_b : b.toNat < 8 := b.isLt
  have hl_ix : ix.toNat < 8 := ix.isLt
  have hl_xf := Xform_code_lt xf
  have hl_disp : disp.toNat < 4294967296 := disp.isLt
  have hl_tag : tag.toNat < 64 := tag.isLt
  have hl_eos := bool_lt eos
  obtain ⟨v1, v2, v3, v4⟩ := ver_field v
  obtain ⟨p1, p2, p3⟩ := pr_field pr
  obtain ⟨d1, d2, d3⟩ := dest_field ep
  have hk : (destCode ep / 8 = 0 ∨ tag.toNat = 0) ∧ (destCode ep / 8 = 0 ∨ eos.toNat = 0) := by
    cases ep with
    | port p => exact ⟨.inl (by simp only [destCode]; omega), .inl (by simp only [destCode]; omega)⟩
    | ring r =>
      have hw : (tag == 0 && !eos) = true := hw
      simp only [Bool.and_eq_true, beq_iff_eq, Bool.not_eq_true'] at hw
      exact ⟨.inr (by rw [hw.1]; rfl), .inr (by rw [hw.2]; rfl)⟩
  rw [show encode (.sInd e ep pcb b ix v pr xf disp tag eos) = [streamW0 2 e.toNat (destCode ep) pcb.toNat, streamW1 b.toNat (verCode v) (prCode pr) xf.code (ix.toNat + 8), disp.toNat, streamW3 tag.toNat eos.toNat] by
    simp only [encode, streamW0, streamW1, streamW3, List.cons.injEq, and_true, true_and]
    omega]
  obtain ⟨x0, x1, x2, x3, x4, x5, x6, x7, x8⟩ := fields0 2 e.toNat (destCode ep) pcb.toNat (by omega) (by omega) (by omega) (by omega)
  obtain ⟨y0, y1, y2, y3, y4, y5, y6, y7, y8, y9⟩ := fields1 b.toNat (verCode v) (prCode pr) xf.code (ix.toNat + 8) (by omega) (by omega) (by omega) (by omega) (by omega)
  obtain ⟨z0, z1, z2, z3⟩ := fields3 tag.toNat eos.toNat (by omega) (by omega)
  generalize destCode ep / 8 = q1 at *
  generalize destCode ep % 8 = q2 at *
  generalize verCode v / 4 = q3 at *
  generalize verCode v / 2 % 2 = q4 at *
  generalize verCode v % 2 = q5 at *
  generalize prCode pr / 8 = q6 at *
  generalize prCode pr % 8 = q7 at *
  generalize streamW0 2 e.toNat (destCode ep) pcb.toNat = x at *
  generalize streamW1 b.toNat (verCode v) (prCode pr) xf.code (ix.toNat + 8) = y at *
  generalize streamW3 tag.toNat eos.toNat = z at *
  refine decode_stream x0 y0 (by omega) z0 x1 ?_
  unfold decStream
  simp only [x2, x3, x4, x5, x6, x7, x8, y1, y2, y3, y4, y5, y6, y7, y8, y9, z1, z2, z3, ck, List.cons_append, List.nil_append, chkL]
  simp [*]
  intro h
  have h2 := hk.2.resolve_left h
  cases eos <;> simp_all
theorem sPrism (e : BitVec 2) (b : BitVec 3) (pid : BitVec 3) (disp : BitVec 32) : Statement (.sPrism e b pid disp) := by
  intro _ hw
  have hl_e : e.toNat < 4 := e.isLt
  have hl_b : b.toNat < 8 := b.isLt
  have hl_pid : pid.toNat < 8 := pid.isLt
  have hl_disp : disp.toNat < 4294967296 := disp.isLt
  rw [show encode (.sPrism e b pid disp) = [streamW0 3 e.toNat 0 0, streamW1 b.toNat 0 (pid.toNat + 8) 0 0, disp.toNat, streamW3 0 0] by
    simp only [encode, streamW0, streamW1, streamW3, List.cons.injEq, and_true, true_and]
    omega]
  obtain ⟨x0, x1, x2, x3, x4, x5, x6, x7, x8⟩ := fields0 3 e.toNat 0 0 (by omega) (by omega) (by omega) (by omega)
  obtain ⟨y0, y1, y2, y3, y4, y5, y6, y7, y8, y9⟩ := fields1 b.toNat 0 (pid.toNat + 8) 0 0 (by omega) (by omega) (by omega) (by omega) (by omega)
  obtain ⟨z0, z1, z2, z3⟩ := fields3 0 0 (by omega) (by omega)
  replace y5 : fld (streamW1 b.toNat 0 (pid.toNat + 8) 0 0) 22 22 = 1 := by rw [y5]; omega
  replace y6 : fld (streamW1 b.toNat 0 (pid.toNat + 8) 0 0) 21 19 = pid.toNat := by rw [y6]; omega
  generalize streamW0 3 e.toNat 0 0 = x at *
  generalize streamW1 b.toNat 0 (pid.toNat + 8) 0 0 = y at *
  generalize streamW3 0 0 = z at *
  refine decode_stream x0 y0 (by omega) z0 x1 ?_
  unfold decStream
  simp only [x2, x3, x4, x5, x6, x7, x8, y1, y2, y3, y4, y5, y6, y7, y8, y9, z1, z2, z3, ck, List.cons_append, List.nil_append, chkL]
  simp [*]
theorem sSyntax (e : BitVec 2) (p : BitVec 3) (pcb : BitVec 13) (b : BitVec 3) (v : Option (BitVec 4 × Bool)) (disp : BitVec 32) (tag : BitVec 6) (eos : Bool) : Statement (.sSyntax e p pcb b v disp tag eos) := by
  intro _ hw
  have hl_e : e.toNat < 4 := e.isLt
  have hl_p : p.toNat < 8 := p.isLt
  have hl_pcb : pcb.toNat < 8192 := pcb.isLt
  have hl_b : b.toNat < 8 := b.isLt
  have hl_disp : disp.toNat < 4294967296 := disp.isLt
  have hl_tag : tag.toNat < 64 := tag.isLt
  have hl_eos := bool_lt eos
  obtain ⟨v1, v2, v3, v4⟩ := ver_field v
  rw [show encode (.sSyntax e p pcb b v disp tag eos) = [streamW0 4 e.toNat (p.toNat + 16) pcb.toNat, streamW1 b.toNat (verCode v) 0 0 0, disp.toNat, streamW3 tag.toNat eos.toNat] by
    simp only [encode, streamW0, streamW1, streamW3, List.cons.injEq, and_true, true_and]
    omega]
  obtain ⟨x0, x1, x2, x3, x4, x5, x6, x7, x8⟩ := fields0 4 e.toNat (p.toNat + 16) pcb.toNat (by omega) (by omega) (by omega) (by omega)
  obtain ⟨y0, y1, y2, y3, y4, y5, y6, y7, y8, y9⟩ := fields1 b.toNat (verCode v) 0 0 0 (by omega) (by omega) (by omega) (by omega) (by omega)
  obtain ⟨z0, z1, z2, z3⟩ := fields3 tag.toNat eos.toNat (by omega) (by omega)
  replace x4 : fld (streamW0 4 e.toNat (p.toNat + 16) pcb.toNat) 19 18 = 2 := by rw [x4]; omega
  replace x5 : fld (streamW0 4 e.toNat (p.toNat + 16) pcb.toNat) 17 15 = p.toNat := by rw [x5]; omega
  replace y5 : fld (streamW1 b.toNat (verCode v) 0 0 0) 22 22 = 0 := by rw [y5]
  replace y6 : fld (streamW1 b.toNat (verCode v) 0 0 0) 21 19 = 0 := by rw [y6]
  generalize verCode v / 4 = q3 at *
  generalize verCode v / 2 % 2 = q4 at *
  generalize verCode v % 2 = q5 at *
  generalize streamW0 4 e.toNat (p.toNat + 16) pcb.toNat = x at *
  generalize streamW1 b.toNat (verCode v) 0 0 0 = y at *
  generalize streamW3 tag.toNat eos.toNat = z at *
  refine decode_stream x0 y0 (by omega) z0 x1 ?_
  unfold decStream
  simp only [x2, x3, x4, x5, x6, x7, x8, y1, y2, y3, y4, y5, y6, y7, y8, y9, z1, z2, z3, ck, List.cons_append, List.nil_append, chkL]
  simp [*]
theorem sBar  : Statement (.sBar) := by
  intro _ hw
  rw [show encode (.sBar) = [streamW0 5 0 0 0, streamW1 0 0 0 0 0, 0, streamW3 0 0] by
    simp only [encode, streamW0, streamW1, streamW3, List.cons.injEq, and_true, true_and]
    omega]
  obtain ⟨x0, x1, x2, x3, x4, x5, x6, x7, x8⟩ := fields0 5 0 0 0 (by omega) (by omega) (by omega) (by omega)
  obtain ⟨y0, y1, y2, y3, y4, y5, y6, y7, y8, y9⟩ := fields1 0 0 0 0 0 (by omega) (by omega) (by omega) (by omega) (by omega)
  obtain ⟨z0, z1, z2, z3⟩ := fields3 0 0 (by omega) (by omega)
  generalize streamW0 5 0 0 0 = x at *
  generalize streamW1 0 0 0 0 0 = y at *
  generalize streamW3 0 0 = z at *
  refine decode_stream x0 y0 (by omega) z0 x1 ?_
  unfold decStream
  simp only [x2, x3, x4, x5, x6, x7, x8, y1, y2, y3, y4, y5, y6, y7, y8, y9, z1, z2, z3, ck, List.cons_append, List.nil_append, chkL]
  simp [*]
theorem sStop (e : BitVec 3) : Statement (.sStop e) := by
  intro _ hw
  have hl_e : e.toNat < 8 := e.isLt
  rw [show encode (.sStop e) = [streamW0 6 e.toNat 0 0, streamW1 0 0 0 0 0, 0, streamW3 0 0] by
    simp only [encode, streamW0, streamW1, streamW3, List.cons.injEq, and_true, true_and]
    omega]
  obtain ⟨x0, x1, x2, x3, x4, x5, x6, x7, x8⟩ := fields0 6 e.toNat 0 0 (by omega) (by omega) (by omega) (by omega)
  obtain ⟨y0, y1, y2, y3, y4, y5, y6, y7, y8, y9⟩ := fields1 0 0 0 0 0 (by omega) (by omega) (by omega) (by omega) (by omega)
  obtain ⟨z0, z1, z2, z3⟩ := fields3 0 0 (by omega) (by omega)
  generalize streamW0 6 e.toNat 0 0 = x at *
  generalize streamW1 0 0 0 0 0 = y at *
  generalize streamW3 0 0 = z at *
  refine decode_stream x0 y0 (by omega) z0 x1 ?_
  unfold decStream
  simp only [x2, x3, x4, x5, x6, x7, x8, y1, y2, y3, y4, y5, y6, y7, y8, y9, z1, z2, z3, ck, List.cons_append, List.nil_append, chkL]
  simp [*]
theorem sStat (e : BitVec 3) (gv : BitVec 4) : Statement (.sStat e gv) := by
  intro _ hw
  have hl_e : e.toNat < 8 := e.isLt
  have hl_gv : gv.toNat < 16 := gv.isLt
  rw [show encode (.sStat e gv) = [streamW0 7 e.toNat 0 0, streamW1 0 (gv.toNat * 4) 0 0 0, 0, streamW3 0 0] by
    simp only [encode, streamW0, streamW1, streamW3, List.cons.injEq, and_true, true_and]
    omega]
  obtain ⟨x0, x1, x2, x3, x4, x5, x6, x7, x8⟩ := fields0 7 e.toNat 0 0 (by omega) (by omega) (by omega) (by omega)
  obtain ⟨y0, y1, y2, y3, y4, y5, y6, y7, y8, y9⟩ := fields1 0 (gv.toNat * 4) 0 0 0 (by omega) (by omega) (by omega) (by omega) (by omega)
  obtain ⟨z0, z1, z2, z3⟩ := fields3 0 0 (by omega) (by omega)
  replace y2 : fld (streamW1 0 (gv.toNat * 4) 0 0 0) 28 25 = gv.toNat := by rw [y2]; omega
  replace y3 : fld (streamW1 0 (gv.toNat * 4) 0 0 0) 24 24 = 0 := by rw [y3]; omega
  replace y4 : fld (streamW1 0 (gv.toNat * 4) 0 0 0) 23 23 = 0 := by rw [y4]; omega
  generalize streamW0 7 e.toNat 0 0 = x at *
  generalize streamW1 0 (gv.toNat * 4) 0 0 0 = y at *
  generalize streamW3 0 0 = z at *
  refine decode_stream x0 y0 (by omega) z0 x1 ?_
  unfold decStream
  simp only [x2, x3, x4, x5, x6, x7, x8, y1, y2, y3, y4, y5, y6, y7, y8, y9, z1, z2, z3, ck, List.cons_append, List.nil_append, chkL]
  simp [*]
theorem issueSlot (t : Nat) : Statement (.issueSlot t) := nofun
theorem parkClear (t : Nat) (k : SlotId) : Statement (.parkClear t k) := nofun
theorem tokenOpComplete (t : Nat) : Statement (.tokenOpComplete t) := nofun
theorem longLatencyDeliver (t : Nat) (n : Nat) : Statement (.longLatencyDeliver t n) := nofun
theorem getwDeliver (t : Nat) (ph : BitVec 2) (p : BitVec 3) : Statement (.getwDeliver t ph p) := nofun
theorem tokenHop (rg : Nat) (c : Nat) (n : Nat) : Statement (.tokenHop rg c n) := nofun
theorem tokenArrive (rg : Nat) (c : Nat) : Statement (.tokenArrive rg c) := nofun
theorem lateTokenBurstEnd (t : Nat) (ph : BitVec 2) (p : BitVec 3) : Statement (.lateTokenBurstEnd t ph p) := nofun
theorem lateTokenLongBurst (t : Nat) (ph : BitVec 2) (p : BitVec 3) : Statement (.lateTokenLongBurst t ph p) := nofun
theorem junctionPass (t : Nat) (ph : BitVec 2) (j : BitVec 3) : Statement (.junctionPass t ph j) := nofun
theorem junctionFork (t : Nat) (ph : BitVec 2) (j : BitVec 3) : Statement (.junctionFork t ph j) := nofun
theorem junctionJoin (t : Nat) (ph : BitVec 2) (j : BitVec 3) : Statement (.junctionJoin t ph j) := nofun
theorem junctionSteer (t : Nat) (ph : BitVec 2) (j : BitVec 3) : Statement (.junctionSteer t ph j) := nofun
theorem junctionMerge (t : Nat) (ph : BitVec 2) (j : BitVec 3) : Statement (.junctionMerge t ph j) := nofun
theorem junctionLoopgen (t : Nat) (ph : BitVec 2) (j : BitVec 3) : Statement (.junctionLoopgen t ph j) := nofun
theorem junctionRandom (t : Nat) (ph : BitVec 2) (j : BitVec 3) : Statement (.junctionRandom t ph j) := nofun
theorem junctionConvert (t : Nat) (ph : BitVec 2) (j : BitVec 3) : Statement (.junctionConvert t ph j) := nofun
theorem junctionGate (t : Nat) (ph : BitVec 2) (j : BitVec 3) : Statement (.junctionGate t ph j) := nofun
theorem junctionTagchk (t : Nat) (ph : BitVec 2) (j : BitVec 3) : Statement (.junctionTagchk t ph j) := nofun
theorem ringFeed (t : Nat) (ph : BitVec 2) (r : BitVec 2) : Statement (.ringFeed t ph r) := nofun
theorem streamCmdStart (t : Nat) (e : EngineId) : Statement (.streamCmdStart t e) := nofun
theorem streamElementAccess (t : Nat) (e : EngineId) : Statement (.streamElementAccess t e) := nofun
theorem streamReadPush (t : Nat) (e : EngineId) : Statement (.streamReadPush t e) := nofun
theorem streamWriteTake (t : Nat) (e : EngineId) : Statement (.streamWriteTake t e) := nofun
theorem streamCmdComplete (t : Nat) (e : EngineId) : Statement (.streamCmdComplete t e) := nofun
theorem syntaxTokenPush (y : BitVec 3) : Statement (.syntaxTokenPush y) := nofun
theorem syntaxJobEnd (y : BitVec 3) : Statement (.syntaxJobEnd y) := nofun
theorem memopForward (t : Nat) : Statement (.memopForward t) := nofun
theorem versionedWriteArrive (id : Nat) : Statement (.versionedWriteArrive id) := nofun
theorem versionedWriteResume (id : Nat) : Statement (.versionedWriteResume id) := nofun
theorem versionedReadArrive (id : Nat) : Statement (.versionedReadArrive id) := nofun
theorem versionWaitSatisfied (id : Nat) : Statement (.versionWaitSatisfied id) := nofun
theorem directoryFrameOp (id : Nat) : Statement (.directoryFrameOp id) := nofun
theorem atomicPerform (id : Nat) : Statement (.atomicPerform id) := nofun
theorem mitBlockAccess (id : Nat) : Statement (.mitBlockAccess id) := nofun
theorem cardRelease (id : Nat) : Statement (.cardRelease id) := nofun
theorem cardComplete (id : Nat) : Statement (.cardComplete id) := nofun
theorem cpWaitDeliver (id : Nat) : Statement (.cpWaitDeliver id) := nofun
theorem collectiveExchange (id : Nat) (ranks : List RankInput) : Statement (.collectiveExchange id ranks) := nofun
theorem collectiveComplete (id : Nat) : Statement (.collectiveComplete id) := nofun
theorem prismLoadComplete (t : Nat) (e : EngineId) : Statement (.prismLoadComplete t e) := nofun
theorem evictDrop (f : FrameKey) (v : Nat) : Statement (.evictDrop f v) := nofun
theorem evictSpill (f : FrameKey) (v : Nat) : Statement (.evictSpill f v) := nofun
theorem spillAck (f : FrameKey) (v : Nat) : Statement (.spillAck f v) := nofun
theorem recomputeStart (id : Nat) : Statement (.recomputeStart id) := nofun
theorem recomputeEnd (t : Nat) : Statement (.recomputeEnd t) := nofun
theorem progressTimeout (rg : Nat) : Statement (.progressTimeout rg) := nofun
theorem graphComplete (rg : Nat) : Statement (.graphComplete rg) := nofun
theorem commitRequest (p : PartId) (ipa : BitVec 64) : Statement (.commitRequest p ipa) := nofun
theorem fetchPhase2 (rg : Nat) : Statement (.fetchPhase2 rg) := nofun
theorem preemptRequest (rg : Nat) : Statement (.preemptRequest rg) := nofun
theorem quantumExpire (rg : Nat) : Statement (.quantumExpire rg) := nofun
theorem markerArrive (rg : Nat) (c : Nat) : Statement (.markerArrive rg c) := nofun
theorem checkpoint (rg : Nat) : Statement (.checkpoint rg) := nofun
theorem checkpointInterval (rg : Nat) : Statement (.checkpointInterval rg) := nofun
theorem rollback (rg : Nat) : Statement (.rollback rg) := nofun
theorem fqRingWrite (p : PartId) : Statement (.fqRingWrite p) := nofun
theorem mcstatClear : Statement .mcstatClear := nofun
theorem fqresRetry (p : PartId) (seq : BitVec 32) : Statement (.fqresRetry p seq) := nofun
theorem fqresCancel (p : PartId) (seq : BitVec 32) : Statement (.fqresCancel p seq) := nofun
theorem fqresAlt (p : PartId) (seq : BitVec 32) : Statement (.fqresAlt p seq) := nofun
theorem fqresEnd (p : PartId) (seq : BitVec 32) : Statement (.fqresEnd p seq) := nofun
theorem taskcmdResumeTpc (p : PartId) (c : TaskRef) : Statement (.taskcmdResumeTpc p c) := nofun
theorem taskcmdResumePc (p : PartId) (c : TaskRef) (pc : BitVec 13) : Statement (.taskcmdResumePc p c pc) := nofun
theorem taskcmdEnd (p : PartId) (c : TaskRef) : Statement (.taskcmdEnd p c) := nofun
theorem ckcmdCheckpoint (p : PartId) (rg : BitVec 16) : Statement (.ckcmdCheckpoint p rg) := nofun
theorem ckcmdRollback (p : PartId) (rg : BitVec 16) : Statement (.ckcmdRollback p rg) := nofun
theorem tlbinvPartition (p : PartId) : Statement (.tlbinvPartition p) := nofun
theorem tlbinvWindow (p : PartId) (w : BitVec 16) : Statement (.tlbinvWindow p w) := nofun
theorem tlbinvPage (p : PartId) (w : BitVec 16) (pg : BitVec 32) : Statement (.tlbinvPage p w pg) := nofun
theorem tlbinvComplete (p : PartId) : Statement (.tlbinvComplete p) := nofun
theorem s2invPartition (p : PartId) : Statement (.s2invPartition p) := nofun
theorem s2invPage (p : PartId) (pg : BitVec 32) : Statement (.s2invPage p pg) := nofun
theorem s2invComplete : Statement .s2invComplete := nofun
theorem scrub (g : BitVec 28) (n : BitVec 24) : Statement (.scrub g n) := nofun
theorem scrubComplete : Statement .scrubComplete := nofun
theorem owncmd (c : OwnRect) : Statement (.owncmd c) := nofun
theorem owncmdComplete : Statement .owncmdComplete := nofun
theorem regdel (p : PartId) (w : BitVec 16) (b : BitVec 36) : Statement (.regdel p w b) := nofun
theorem slicedel (p : PartId) (n : BitVec 16) : Statement (.slicedel p n) := nofun
theorem partitionLive (p : PartId) (h : BitVec 3) : Statement (.partitionLive p h) := nofun
theorem partitionNotLive (p : PartId) : Statement (.partitionNotLive p) := nofun
theorem synassignChange (y : BitVec 3) (p : PartId) : Statement (.synassignChange y p) := nofun
theorem synassignTakeEffect (y : BitVec 3) : Statement (.synassignTakeEffect y) := nofun
theorem prismmapChange (n : BitVec 3) (x : BitVec 16) : Statement (.prismmapChange n x) := nofun
theorem vfmapChange (x : BitVec 64) : Statement (.vfmapChange x) := nofun
theorem devidWrite (x : BitVec 18) : Statement (.devidWrite x) := nofun
theorem wportEnable (q : Nat) : Statement (.wportEnable q) := nofun
theorem wportDisable (q : Nat) : Statement (.wportDisable q) := nofun
theorem shutctlFire : Statement .shutctlFire := nofun
theorem shutterPin : Statement .shutterPin := nofun
theorem shutterJtag : Statement .shutterJtag := nofun
theorem shutterReadout (ra : BitVec 48) (acc : ReadoutAgent) : Statement (.shutterReadout ra acc) := nofun
theorem pwrcapWrite (x : BitVec 16) : Statement (.pwrcapWrite x) := nofun
theorem thermalThrottle (x : ThermalInput) : Statement (.thermalThrottle x) := nofun
theorem thermtrip (x : ThermalInput) : Statement (.thermtrip x) := nofun
theorem lqpush (p : PartId) (who : Requester) (pr : BitVec 2) : Statement (.lqpush p who pr) := nofun
theorem registerWrite (pg : RegPage) (off : BitVec 16) (x : BitVec 64) : Statement (.registerWrite pg off x) := nofun
theorem hostRequest (h : HostReq) : Statement (.hostRequest h) := nofun
theorem functionLevelReset (vf : BitVec 3) : Statement (.functionLevelReset vf) := nofun
theorem hartMemoryAccess (h : HartReq) : Statement (.hartMemoryAccess h) := nofun
theorem deviceReset (i : BootInput) : Statement (.deviceReset i) := nofun
theorem recoveryImageWrite (n : BitVec 64) : Statement (.recoveryImageWrite n) := nofun
theorem flitReceive (q : Nat) (fl : Flit) : Statement (.flitReceive q fl) := nofun
theorem portRetrain (q : Nat) (lanes : BitVec 4) : Statement (.portRetrain q lanes) := nofun
theorem peerAccessInbound (fl : Flit) : Statement (.peerAccessInbound fl) := nofun
theorem softError (x : SoftError) : Statement (.softError x) := nofun
theorem regdelDone (p : PartId) : Statement (.regdelDone p) := nofun
theorem portTrainingDone (q : Nat) (lanes : BitVec 4) : Statement (.portTrainingDone q lanes) := nofun
theorem hostReadCompletion (id : Nat) (d : List (BitVec 8)) (ep : Bool) : Statement (.hostReadCompletion id d ep) := nofun

end Sys2Proof.Laws.RoundTrip
end

