-- ==== Sys2Proof/Laws/Translate.lean ====
section
/-! SUPPORT. What a translation can do: with nothing stale in the caches, what the tables in memory give (R340, R341). -/
namespace Sys2Proof.Machine
set_option Elab.async false

/-- A table of which one entry maps the input by a block. -/
theorem stage2_block {s : State} {p : PartId} {ipa d : Nat} (h : s.tableWord (descAt 1 (s.s2top p) ipa) = .ok d) (v : d.testBit 0 = true)
    (b : descBad 1 d = false) (k : d.testBit 1 = false) :
    s.stage2 p ipa = .ok (fld d 47 16 * 65536 + ipa % 2 ^ 37, d.testBit 2) := by
  have e : s.rd2 none p = s.tableWord := rfl
  simp only [State.stage2, State.stage2V, walk2, walk, e, h, v, b, k, Bool.not_true, Bool.false_eq_true, if_false, Bool.and_false, Bool.true_and, lvlLo]
/-- A table whose entry for the input is not valid. -/
theorem stage2_invalid {s : State} {p : PartId} {ipa d : Nat} (h : s.tableWord (descAt 1 (s.s2top p) ipa) = .ok d) (v : d.testBit 0 = false) :
    s.stage2 p ipa = .error ⟨0x09, 5⟩ := by
  have e : s.rd2 none p = s.tableWord := rfl
  simp only [State.stage2, State.stage2V, walk2, walk, e, h, v, Bool.not_false, if_true]
  rfl
/-- Bytes at an IPA within a page that stage 2 maps to sound HBM. -/
theorem ipaNum_page {s : State} {p : PartId} {ipa n pa : Nat} {w : Bool} (m : s.stage2 p ipa = .ok (pa, w)) (i : ipa % 65536 + n ≤ 65536)
    (t : pa + n ≤ hbmTop) (g : s.hbmBad pa n false = false) : s.ipaNum p ipa n = .ok (s.hbmNum pa n) := by
  have e : s.stage2V none p ipa = .ok (pa, w) := m
  have a : min n (65536 - ipa % 65536) = n := by omega
  simp only [State.ipaNum, State.ipaNumV, a, State.ipaPart, e, if_neg (Nat.not_lt.2 t), g, Bool.false_eq_true, if_false, if_true]
/-- A pick gives nothing, or a copy that is held. -/
theorem pickOf_mem {α : Type} {n key : Nat} {l : List α} {x : α} (h : pickOf n key l = some x) : x ∈ l := by
  unfold pickOf at h
  split at h
  · exact absurd h (by simp)
  · exact List.mem_of_getElem? h
/-- With no copy in the caches there is none to pick. -/
theorem pickOf_nil {α : Type} (n key : Nat) : pickOf n key ([] : List α) = none := by
  cases h : pickOf n key ([] : List α) with
  | none => rfl
  | some x => exact absurd (pickOf_mem h) (by simp)

theorem readIs_eq {x : Except Flt Nat} {v : Nat} (h : readIs x v = true) : x = .ok v := by
  cases x with
  | error => exact absurd h (by simp [readIs])
  | ok w => simp only [readIs, beq_iff_eq] at h; rw [h]
/-- What freshness says of an entry of the partition: it holds what memory holds. -/
theorem tlbFresh_mem {s : State} {t : Nat} {p : PartId} {x : TlbItem} (h : s.tlbFresh t p = true) (m : x ∈ s.tlbOf t) (q : x.part = p) :
    x.fresh s p = true := by
  have := List.all_eq_true.1 h _ m
  rw [q] at this
  simpa using this
theorem tlbFresh_win {s : State} {t : Nat} {p : PartId} {e : WinEnt} (h : s.tlbFresh t p = true) (m : .win e ∈ s.tlbOf t) (q : e.part = p) :
    s.windowEnt p e.win = .ok e.ent := readIs_eq (tlbFresh_mem h m q)
theorem tlbFresh_tab2 {s : State} {t : Nat} {p : PartId} {e : TabEnt} (h : s.tlbFresh t p = true) (m : .tab e ∈ s.tlbOf t) (q : e.part = p)
    (w : e.win = none) : s.tableWord e.addr = .ok e.desc := by
  have := tlbFresh_mem h m q
  dsimp only [TlbItem.fresh] at this
  rw [w, if_pos (by rfl)] at this
  exact readIs_eq this
theorem tlbFresh_tab1 {s : State} {t : Nat} {p : PartId} {e : TabEnt} {v : BitVec 16} (h : s.tlbFresh t p = true) (m : .tab e ∈ s.tlbOf t) (q : e.part = p)
    (w : e.win = some v) : s.ipaNum p e.addr 8 = .ok e.desc := by
  have := tlbFresh_mem h m q
  dsimp only [TlbItem.fresh] at this
  rw [w, if_neg (by simp)] at this
  exact readIs_eq this
/-- A cached copy of a table entry that agrees with memory changes nothing. -/
theorem tabVia_same {s : State} {t n : Nat} {p : PartId} {w : Option (BitVec 16)} {rd : Nat → Except Flt Nat}
    (h : ∀ e : TabEnt, .tab e ∈ s.tlbOf t → e.part = p → e.win = w → rd e.addr = .ok e.desc) : s.tabVia (some (t, n)) p w rd = rd := by
  funext a
  simp only [State.tabVia]
  split
  · next d hd =>
    obtain ⟨x, m, e⟩ := List.mem_filterMap.1 (pickOf_mem hd)
    cases x with
    | done => simp at e
    | win => simp at e
    | tab q =>
      obtain ⟨⟨h1, h2, h3⟩, h4⟩ := Option.ite_none_right_eq_some.1 e
      rw [← h3, h q m h1 h2, Option.some.inj h4]
  · rfl
/-- With fresh caches the tables of both stages, bytes at an IPA and window entries read as memory holds them. -/
theorem rd2_fresh {s : State} {t : Nat} {p : PartId} (h : s.tlbFresh t p = true) (n : Nat) : s.rd2 (some (t, n)) p = s.rd2 none p :=
  tabVia_same fun _ m q w => tlbFresh_tab2 h m q w
theorem ipaNumV_fresh {s : State} {t : Nat} {p : PartId} (h : s.tlbFresh t p = true) (n a m : Nat) :
    s.ipaNumV (some (t, n)) p a m = s.ipaNum p a m := by
  simp only [State.ipaNum, State.ipaNumV, State.ipaPart, State.stage2V, rd2_fresh h]
theorem rd1_fresh {s : State} {t : Nat} {p : PartId} (h : s.tlbFresh t p = true) (n : Nat) (w : BitVec 16) :
    s.rd1 (some (t, n)) p w = s.rd1 none p w := by
  unfold State.rd1
  simp only [ipaNumV_fresh h]
  exact tabVia_same fun _ m q w => tlbFresh_tab1 h m q w
theorem windowV_fresh {s : State} {t : Nat} {p : PartId} (h : s.tlbFresh t p = true) (n : Nat) (w : BitVec 16) :
    s.windowV (some (t, n)) p w = s.windowV none p w := by
  have e : s.windowV none p w = s.ipaNum p (s.winAt p w) 16 := rfl
  rw [e]
  simp only [State.windowV]
  split
  · next d hd =>
    obtain ⟨x, m, f⟩ := List.mem_filterMap.1 (pickOf_mem hd)
    cases x with
    | done => simp at f
    | tab => simp at f
    | win q =>
      obtain ⟨⟨h1, h2⟩, h4⟩ := Option.ite_none_right_eq_some.1 f
      rw [← e, ← h2, ← Option.some.inj h4]
      exact (tlbFresh_win h m h1).symm
  · exact ipaNumV_fresh h n _ _
/-- With fresh caches a walk gives what the tables in memory give, whatever copies it picks (R340, R341). -/
theorem walkVA_fresh {s : State} {t : Nat} {p : PartId} (h : s.tlbFresh t p = true) (n : Nat) (win : BitVec 16) (off : Nat) (wr : Bool) (r : Right) :
    s.walkVA (some (t, n)) p win off wr r = s.walkVA none p win off wr r := by
  unfold State.walkVA; rw [windowV_fresh h, rd1_fresh h, rd2_fresh h]
theorem walkItems_fresh {s : State} {t : Nat} {p : PartId} (h : s.tlbFresh t p = true) (n : Nat) (win : BitVec 16) (off : Nat) (e : TlbEnt) :
    s.walkItems (some (t, n)) p win off e = s.walkItems none p win off e := by
  unfold State.walkItems; rw [windowV_fresh h, rd1_fresh h, rd2_fresh h]
/-- With fresh caches, and no completed translation that differs from what memory gives, a translation gives what memory gives; the
caches are as before, or hold what the walk has read besides. -/
theorem translate_fresh {s : State} {t : Nat} {p : PartId} {va : VAddr} {wr : Bool} {r : Right} {g : Target} {e : TlbEnt}
    (h : s.tlbFresh t p = true) (z : bfld va 63 48 = 0)
    (w : s.walkVA none p (.ofNat 16 (bfld va 79 64)) (bfld va 47 0) wr r = .ok (g, e))
    (c : ∀ x ∈ s.cached t p (.ofNat 16 (bfld va 79 64)) (bfld va 47 0), s.useTlb p (bfld va 47 0) wr r x = .ok g) :
    s.translate t p va wr r = (.ok g, { s with freeCtr := s.freeCtr + 1 }) ∨
    s.translate t p va wr r =
      (.ok g, State.tlbAdd { s with freeCtr := s.freeCtr + 1 } t (s.walkItems none p (.ofNat 16 (bfld va 79 64)) (bfld va 47 0) e)) := by
  unfold State.translate
  dsimp only
  rw [if_neg (not_not_intro z)]
  split
  · next x hx => exact .inl (by rw [c x (pickOf_mem hx)])
  · rw [walkVA_fresh h, w]
    exact .inr (by rw [← walkItems_fresh h])
/-- With fresh caches and no completed translation, a fault of the walk is the translation's, and nothing is cached. -/
theorem translate_fresh_error {s : State} {t : Nat} {p : PartId} {va : VAddr} {wr : Bool} {r : Right} {f : Flt}
    (h : s.tlbFresh t p = true) (z : bfld va 63 48 = 0)
    (w : s.walkVA none p (.ofNat 16 (bfld va 79 64)) (bfld va 47 0) wr r = .error f)
    (c : s.cached t p (.ofNat 16 (bfld va 79 64)) (bfld va 47 0) = []) :
    s.translate t p va wr r = (.error f, { s with freeCtr := s.freeCtr + 1 }) := by
  unfold State.translate
  dsimp only
  rw [if_neg (not_not_intro z), c, pickOf_nil, walkVA_fresh h, w]

theorem ipaNum_fault {s : State} {p : PartId} {ipa n : Nat} {f : Flt} (m : s.stage2 p ipa = .error f) : s.ipaNum p ipa n = .error f := by
  have e : s.stage2V none p ipa = .error f := m
  simp only [State.ipaNum, State.ipaNumV, State.ipaPart, e]

/-! ## The pages of an image -/

/-- A piece in sound HBM whose MIT serves the partition is read whole. -/
theorem imgPage_read {s u : State} {p : PartId} {va : VAddr} {off k pa : Nat} (l : off < 2 ^ 48) (w : s.walkServed dispatchTile p va = true)
    (t : s.translate dispatchTile p va false .rd = (.ok (.hbm pa), u)) (v : u.servedAll p pa k = true) (g : u.hbmBad pa k false = false) :
    imgPage s p va off k = (.ok (memRead u.hbm pa k), u) := by
  rw [imgPage, if_neg (Nat.not_le.2 l), if_pos w, t, imgAt, v, g]
  rfl
/-- One whose translation faults ends there. -/
theorem imgPage_fault {s u : State} {p : PartId} {va : VAddr} {off k : Nat} {e : Flt} (l : off < 2 ^ 48) (w : s.walkServed dispatchTile p va = true)
    (t : s.translate dispatchTile p va false .rd = (.error e, u)) : imgPage s p va off k = (.error (.fault e off), u) := by
  rw [imgPage, if_neg (Nat.not_le.2 l), if_pos w, t, imgAt]
/-- One whose walk reads tables at an MIT that does not serve the partition waits. -/
theorem imgPage_waits {s : State} {p : PartId} {va : VAddr} {off k : Nat} (l : off < 2 ^ 48) (w : s.walkServed dispatchTile p va = false) :
    imgPage s p va off k = (.error .waits, s) := by
  rw [imgPage, if_neg (Nat.not_le.2 l), if_neg (by rw [w]; simp)]
theorem imgBytes_none (s : State) (p : PartId) (win : BitVec 16) (f off : Nat) : imgBytes s p win f off 0 = ([], none, s) := by cases f <;> rfl
/-- An image within one page is that page's piece. -/
theorem imgBytes_page {s u : State} {p : PartId} {win : BitVec 16} {f off n : Nat} {l : List Byte} (z : n ≠ 0) (b : off % 65536 + n ≤ 65536)
    (h : imgPage s p (vaOf win (.ofNat 48 off)) off n = (.ok l, u)) : imgBytes s p win (f + 1) off n = (l, none, u) := by
  have a : min n (65536 - off % 65536) = n := by omega
  simp only [imgBytes, if_neg z, a, h, Nat.sub_self, imgBytes_none, List.append_nil]
/-- One whose first page is not read ends before it. -/
theorem imgBytes_stop {s u : State} {p : PartId} {win : BitVec 16} {f off n : Nat} {e : ImgEnd} (z : n ≠ 0) (b : off % 65536 + n ≤ 65536)
    (h : imgPage s p (vaOf win (.ofNat 48 off)) off n = (.error e, u)) : imgBytes s p win (f + 1) off n = ([], some e, u) := by
  have a : min n (65536 - off % 65536) = n := by omega
  simp only [imgBytes, if_neg z, a, h]

/-- An image whose head is not read. -/
theorem readImage_stop {s u : State} {p : PartId} {d : BitVec 512} {w : BitVec 16} {o : Nat} {l : List Byte} {e : ImgEnd}
    (hw : winOf (descImage d) = w) (ho : offOf (descImage d) = o)
    (h : imgBytes s p w (pageFuel 48) o 48 = (l, some e, u)) : s.readImage p d = (⟨l, [], some e, none⟩, u) := by
  subst hw ho
  simp only [State.readImage]
  rw [h]
  exact if_pos rfl
/-- An image that is read whole. -/
theorem readImage_whole {s u v : State} {p : PartId} {d : BitVec 512} {w : BitVec 16} {o n : Nat} {h b : List Byte}
    (hw : winOf (descImage d) = w) (ho : offOf (descImage d) = o)
    (h1 : imgBytes s p w (pageFuel 48) o 48 = (h, none, u)) (k : numAt h 0 1 = 1) (hn : numAt h 24 8 = n)
    (h2 : imgBytes u p w (pageFuel n) o n = (b, none, v)) :
    s.readImage p d = (⟨b, (imgRecs (n / 16 + 1) 0 b).1, none, (imgRecs (n / 16 + 1) 0 b).2⟩, v) := by
  subst hw ho hn
  simp only [State.readImage]
  rw [h1, if_neg (by simp), if_neg (not_not_intro k), imgWhole, h2]

/-! ## What adding entries leaves -/

@[simp] theorem tlbAdd_hbm (s : State) (t : Nat) (l : List TlbItem) : (s.tlbAdd t l).hbm = s.hbm := by unfold State.tlbAdd; split <;> rfl
@[simp] theorem tlbAdd_pq (s : State) (t : Nat) (l : List TlbItem) : (s.tlbAdd t l).pq = s.pq := by unfold State.tlbAdd; split <;> rfl
@[simp] theorem tlbAdd_badBlk (s : State) (t : Nat) (l : List TlbItem) : (s.tlbAdd t l).badBlk = s.badBlk := by unfold State.tlbAdd; split <;> rfl
@[simp] theorem tlbAdd_share (s : State) (t : Nat) (l : List TlbItem) : (s.tlbAdd t l).share = s.share := by unfold State.tlbAdd; split <;> rfl
@[simp] theorem tlbAdd_parts (s : State) (t : Nat) (l : List TlbItem) : (s.tlbAdd t l).parts = s.parts := by unfold State.tlbAdd; split <;> rfl
@[simp] theorem tlbAdd_regions (s : State) (t : Nat) (l : List TlbItem) : (s.tlbAdd t l).regions = s.regions := by unfold State.tlbAdd; split <;> rfl
@[simp] theorem tlbAdd_vregs (s : State) (t : Nat) (l : List TlbItem) : (s.tlbAdd t l).vregs = s.vregs := by unfold State.tlbAdd; split <;> rfl
@[simp] theorem tlbAdd_frames (s : State) (t : Nat) (l : List TlbItem) : (s.tlbAdd t l).frames = s.frames := by unfold State.tlbAdd; split <;> rfl

end Sys2Proof.Machine
end

