-- ==== Sys2Proof/Tests/Slice0.lean ====
section
/-! SUPPORT. Tests of the model: words written out from the spec's encodings, ill-formed terms, the spec's worked examples, and for each statement a state that meets its hypotheses. -/
open Sys2Proof Sys2Proof.Machine
namespace Sys2Proof.Tests
set_option Elab.async false

/-! ## A small device: one live region on tile 0, its task in slot 0 issuing -/

/-- The region. -/
def rg0 : Region := { key := 1, id := 7, part := 1, gen := 1, st := .live, graph := 5, gw := 1, gh := 1, fold := 0, seed := 0, alpha := 0, beta := 0,
                      bound := 0, desc := 0, ctxIpa := 0, binds := [⟨0, 0, 0, 0, 0xFFFF⟩], circs := [], image := [] }
/-- The tile, with its task and itself changed. -/
def tile0 (k : Task → Task) (y : Tile → Tile) : Tile :=
  y { tasks := vset (Vector.replicate 16 {}) 0 (k { st := .running }), ph := vset (Vector.replicate 4 {}) 0 { placed := true, key := 1 } }
/-- The device. -/
def dev (k : Task → Task := id) (y : Tile → Tile := id) (r : Region → Region := id) : State :=
  { State.reset with live := true, tiles := [(0, tile0 k y)], regions := [r rg0], parts := [(1, { live := true })] }
/-- g registers set. -/
def gset (l : List (Nat × DWord × FE)) (k : Task) : Task := { k with g := l.foldl (fun v p => vset v p.1 ⟨p.2.1, p.2.2⟩) k.g }
/-- An input port's FIFO set. -/
def inq (p : Nat) (l : List Token) (y : Tile) : Tile :=
  let x := vget y.ph 0 {}
  { y with ph := vset y.ph 0 { x with inP := vset x.inP p { vget x.inP p {} with fifo := l } } }
/-- An output port's FIFO set. -/
def outq (p : Nat) (l : List OSlot) (y : Tile) : Tile :=
  let x := vget y.ph 0 {}
  { y with ph := vset y.ph 0 { x with outP := vset x.outP p { vget x.outP p {} with fifo := l } } }
/-- The matrix state set. -/
def mat (f : MatState → MatState) (y : Tile) : Tile := let x := vget y.ph 0 {}; { y with ph := vset y.ph 0 { x with mat := f x.mat } }
/-- The word of the task in slot 0 in hand at the matrix unit, inline or in a run. -/
def unit (u : UnitKind) (s : State) : State := { s with ctx := { s.ctx with unit := u } }
/-- An item at the matrix unit. -/
def item (run : Bool) (p : MProg := {}) : MItem := { slot := 0, seq := 0, run := run, pc := 0, count := 1, pos := 0, instr := none, prog := p }
/-- A data token of sixteen valid lanes. -/
def tok (n : Nat) : Token := ⟨.ofNat 512 n, 0xFFFF, 0, 0, .data⟩
/-- The next state of an outcome. -/
def nx (o : Out) : State := match o with | .next s => s | _ => State.reset

/-- `State.fires` as a check that evaluates. -/
def firesB (s : State) (srcs : List (BitVec 4)) (dst : Option (BitVec 4)) (mregs : List (BitVec 2)) (d : Bool) : Bool :=
  (srcs ++ dst.toList).all (fun c => !isPort c || !s.acqOut) && mregs.all (fun m => !s.mBusy m) && (srcs ++ dst.toList).all (fun c => isPort c || !s.wBusy (codeNo c)) &&
  srcs.all (fun c => !isPort c || (!s.bound false (codeNo c) && match s.head (codeNo c) with | some t => !d || t.kind == .data | none => false)) &&
  dst.toList.all fun c => !isPort c || (!s.relOut && (!s.bound true (codeNo c) && s.space (codeNo c)))
theorem fires_of {s : State} {srcs : List (BitVec 4)} {dst : Option (BitVec 4)} {mregs : List (BitVec 2)} {d : Bool}
    (h : firesB s srcs dst mregs d = true) : s.fires srcs dst mregs d := by
  simp only [firesB, Bool.and_eq_true, List.all_eq_true, Bool.or_eq_true, Bool.not_eq_true'] at h
  obtain ⟨⟨⟨⟨a, b⟩, c⟩, e⟩, f⟩ := h
  refine ⟨fun x m q => (a x m).resolve_left (by simp [q]), b, fun x m q => (c x m).resolve_left (by simp [q]), fun x m q => ?_, fun x m q => (f x m).resolve_left (by simp [q])⟩
  have g := (e x m).resolve_left (by simp [q])
  refine ⟨g.1, ?_⟩
  have g2 := g.2
  split at g2
  · next t ht => exact ⟨t, ht, fun y => by simpa [y] using g2⟩
  · exact absurd g2 (by simp)

/-! ## Words (R36 to R45, R51 to R54) -/

theorem test_decode_group_01_a :
    decode [0x081DAA00] = .ok (.add 7 6 10 true false) ∧
    decode [0x085DAA00] = .ok (.sub 7 6 10 true false) ∧
    decode [0x089DAA00] = .ok (.mul 7 6 10 true false) ∧
    decode [0x08DDAA00] = .ok (.mulh 7 6 10 true false) ∧
    decode [0x091DAA00] = .ok (.mulhu 7 6 10 true false) ∧
    decode [0x095DAA00] = .ok (.div 7 6 10 true false) ∧
    decode [0x099DAA00] = .ok (.divu 7 6 10 true false) ∧
    decode [0x09DDAA00] = .ok (.rem 7 6 10 true false) ∧
    decode [0x0A1DAA00] = .ok (.remu 7 6 10 true false) ∧
    decode [0x0A5DAA00] = .ok (.and 7 6 10 true false) ∧
    decode [0x0A9DAA00] = .ok (.or 7 6 10 true false) ∧
    decode [0x0ADDAA00] = .ok (.xor 7 6 10 true false) := by
  refine ⟨?_, ?_, ?_, ?_, ?_, ?_, ?_, ?_, ?_, ?_, ?_, ?_⟩ <;> rfl
theorem test_decode_group_01_b :
    decode [0x0B1DAA00] = .ok (.andn 7 6 10 true false) ∧
    decode [0x0B5DAA00] = .ok (.sll 7 6 10 true false) ∧
    decode [0x0B9DAA00] = .ok (.srl 7 6 10 true false) ∧
    decode [0x0BDDAA00] = .ok (.sra 7 6 10 true false) ∧
    decode [0x0C1DAA00] = .ok (.slt 7 6 10 true false) ∧
    decode [0x0C5DAA00] = .ok (.sltu 7 6 10 true false) ∧
    decode [0x0C9DAA00] = .ok (.min 7 6 10 true false) ∧
    decode [0x0CDDAA00] = .ok (.max 7 6 10 true false) ∧
    decode [0x0D1DAA00] = .ok (.minu 7 6 10 true false) ∧
    decode [0x0D5DAA00] = .ok (.maxu 7 6 10 true false) ∧
    decode [0x0D9D8200] = .ok (.clz 7 6 true) ∧
    decode [0x0DDD8200] = .ok (.ctz 7 6 true) := by
  refine ⟨?_, ?_, ?_, ?_, ?_, ?_, ?_, ?_, ?_, ?_, ?_, ?_⟩ <;> rfl
theorem test_decode_group_01_c :
    decode [0x0E1D8200] = .ok (.popc 7 6 true) ∧
    decode [0x0E5D8200] = .ok (.mov 7 6 true) ∧
    decode [0x0E9D8202] = .ok (.sext 7 6 true .w32) ∧
    decode [0x0EDD8202] = .ok (.zext 7 6 true .w32) := by
  refine ⟨?_, ?_, ?_, ?_⟩ <;> rfl
theorem test_decode_group_02 :
    decode [0x1076EAD3] = .ok (.addi 7 6 true 27347) ∧
    decode [0x1176EAD3] = .ok (.andi 7 6 true 27347) ∧
    decode [0x1276EAD3] = .ok (.ori 7 6 true 27347) ∧
    decode [0x1376EAD3] = .ok (.xori 7 6 true 27347) ∧
    decode [0x14768013] = .ok (.slli 7 6 true 19) ∧
    decode [0x15768013] = .ok (.srli 7 6 true 19) ∧
    decode [0x16768013] = .ok (.srai 7 6 true 19) ∧
    decode [0x1776EAD3] = .ok (.slti 7 6 true 27347) := by
  refine ⟨?_, ?_, ?_, ?_, ?_, ?_, ?_, ?_⟩ <;> rfl
theorem test_decode_group_03 :
    decode [0x187034D6] = .ok (.li 7 13526) ∧
    decode [0x1970D69A] = .ok (.liS15 7 true 22170) ∧
    decode [0x1A70D69A] = .ok (.liS30 7 true 22170) ∧
    decode [0x1B70D69A] = .ok (.liS45 7 true 22170) ∧
    decode [0x1C70800A] = .ok (.liS60 7 true 10) := by
  refine ⟨?_, ?_, ?_, ?_, ?_⟩ <;> rfl
theorem test_decode_group_04 :
    decode [0x201D8000] = .ok (.bMov 7 6) ∧
    decode [0x205DA800] = .ok (.bAdd 7 6 10 false) ∧
    decode [0x209D809A] = .ok (.bAddi 7 6 154) ∧
    decode [0x20DDAA00] = .ok (.bWin 7 6 10 true false) ∧
    decode [0x211D8000] = .ok (.bGet 7 6) ∧
    decode [0x215D8000] = .ok (.bGwin 7 6) ∧
    decode [0x219DA800] = .ok (.bCpy 7 6 10 false) := by
  refine ⟨?_, ?_, ?_, ?_, ?_, ?_, ?_⟩ <;> rfl
theorem test_decode_group_05 :
    decode [0x2876EAD3] = .ok (.ldB 7 6 true 27347) ∧
    decode [0x2976EAD3] = .ok (.ldH 7 6 true 27347) ∧
    decode [0x2A76EAD3] = .ok (.ldW 7 6 true 27347) ∧
    decode [0x2B76EAD3] = .ok (.ldD 7 6 true 27347) ∧
    decode [0x2C76EAD3] = .ok (.ldBz 7 6 true 27347) ∧
    decode [0x2D76EAD3] = .ok (.ldHz 7 6 true 27347) ∧
    decode [0x2E76EAD3] = .ok (.ldWz 7 6 true 27347) ∧
    decode [0x2F76EAD3] = .ok (.ldT 7 6 true 27347) := by
  refine ⟨?_, ?_, ?_, ?_, ?_, ?_, ?_, ?_⟩ <;> rfl
theorem test_decode_group_06 :
    decode [0x3076EAD3] = .ok (.stB 7 6 true 27347) ∧
    decode [0x3176EAD3] = .ok (.stH 7 6 true 27347) ∧
    decode [0x3276EAD3] = .ok (.stW 7 6 true 27347) ∧
    decode [0x3376EAD3] = .ok (.stD 7 6 true 27347) ∧
    decode [0x3476EAD3] = .ok (.stT 7 6 true 27347) := by
  refine ⟨?_, ?_, ?_, ?_, ?_⟩ <;> rfl
theorem test_decode_group_07 :
    decode [0x383F569A] = .ok (.beqz 7 true 218778) ∧
    decode [0x38BF569A] = .ok (.bnez 7 true 218778) ∧
    decode [0x393F569A] = .ok (.bltz 7 true 218778) ∧
    decode [0x39BF569A] = .ok (.bgez 7 true 218778) ∧
    decode [0x3A3F569A] = .ok (.bgtz 7 true 218778) ∧
    decode [0x3ABF569A] = .ok (.blez 7 true 218778) ∧
    decode [0x3B3AB4D6] = .ok (.bfull 7 177366) ∧
    decode [0x3BBAB4D6] = .ok (.bempty 7 177366) ∧
    decode [0x3C1AB4D6] = .ok (.bmany 3 177366) ∧
    decode [0x3C9AB4D6] = .ok (.bmnone 3 177366) := by
  refine ⟨?_, ?_, ?_, ?_, ?_, ?_, ?_, ?_, ?_, ?_⟩ <;> rfl
theorem test_decode_group_08 :
    decode [0x4001A6B7] = .ok (.j 108215) ∧
    decode [0x40BAB4D6] = .ok (.call 7 177366) ∧
    decode [0x413C0000] = .ok (.jr 7 true) ∧
    decode [0x41CC0006] = .ok (.callr 9 true 6) ∧
    decode [0x423F569A] = .ok (.loop 7 true 218778) := by
  refine ⟨?_, ?_, ?_, ?_, ?_⟩ <;> rfl
theorem test_decode_group_09 :
    decode [0x48274016] = .ok (.getw 9 5 true 6) ∧
    decode [0x4826000F] = .ok (.getw 9 0 false 15) ∧
    decode [0x487D8213] = .ok (.putw 7 6 true 19) ∧
    decode [0x4883C001] = .ok (.waitp 7 true) ∧
    decode [0x48C00000] = .ok (.yield) ∧
    decode [0x49000000] = .ok (.endTask) ∧
    decode [0x49458293] = .ok (.fork .stream 6 true 147) ∧
    decode [0x49800002] = .ok (.rdv true false) ∧
    decode [0x49800001] = .ok (.rdv false true) ∧
    decode [0x49C1C202] = .ok (.trig 7 true 2) ∧
    decode [0x4A3D8213] = .ok (.putc 7 6 true 19) := by
  refine ⟨?_, ?_, ?_, ?_, ?_, ?_, ?_, ?_, ?_, ?_, ?_⟩ <;> rfl
theorem test_decode_group_0A :
    decode [0x5001C000] = .ok (.few 7) ∧
    decode [0x505C0000] = .ok (.fec 7) ∧
    decode [0x50898001] = .ok (.pushm 2 6 false .b) ∧
    decode [0x50C98001] = .ok (.popm 2 6 .b) := by
  refine ⟨?_, ?_, ?_, ?_⟩ <;> rfl
theorem test_decode_group_0B_a :
    decode [0x58240000] = .ok (.sysr 9 .tileid) ∧
    decode [0x58240080] = .ok (.sysr 9 .taskid) ∧
    decode [0x58240100] = .ok (.sysr 9 .acr) ∧
    decode [0x58240180] = .ok (.sysr 9 .ssp) ∧
    decode [0x58240200] = .ok (.sysr 9 .cyc) ∧
    decode [0x58240280] = .ok (.sysr 9 .fltq) ∧
    decode [0x58240800] = .ok (.sysr 9 .ntile) ∧
    decode [0x58240880] = .ok (.sysr 9 .nlane) ∧
    decode [0x58240900] = .ok (.sysr 9 .nfmt) ∧
    decode [0x58240980] = .ok (.sysr 9 .npc) ∧
    decode [0x58240A00] = .ok (.sysr 9 .tcause) ∧
    decode [0x58240A80] = .ok (.sysr 9 .tpc) := by
  refine ⟨?_, ?_, ?_, ?_, ?_, ?_, ?_, ?_, ?_, ?_, ?_, ?_⟩ <;> rfl
theorem test_decode_group_0B_b :
    decode [0x58240B00] = .ok (.sysr 9 .tval) ∧
    decode [0x58660180] = .ok (.sysw 9 true .ssp) ∧
    decode [0x58640A80] = .ok (.sysw 9 false .tpc) ∧
    decode [0x58800037] = .ok (.trap 55) ∧
    decode [0x58C00000] = .ok (.bkpt) ∧
    decode [0x59000000] = .ok (.eret false) ∧
    decode [0x59400008] = .ok (.fenceT .rel) ∧
    decode [0x59400009] = .ok (.fenceR .rel) ∧
    decode [0x5940000A] = .ok (.fenceD .rel) ∧
    decode [0x5940000B] = .ok (.fenceS .rel) := by
  refine ⟨?_, ?_, ?_, ?_, ?_, ?_, ?_, ?_, ?_, ?_⟩ <;> rfl
theorem test_decode_group_0C :
    decode [0x6001C0D6] = .ok (.frInit 7 214) ∧
    decode [0x605DA800] = .ok (.frWait 7 6 10 false) ∧
    decode [0x6081D800] = .ok (.frRecl 7 6 false) ∧
    decode [0x60C1D800] = .ok (.frRecipe 7 6 false) ∧
    decode [0x6101D800] = .ok (.frPin 7 6 false) ∧
    decode [0x6141D800] = .ok (.frUnpin 7 6 false) ∧
    decode [0x61A54000] = .ok (.frStat 9 5 none) ∧
    decode [0x61A56D01] = .ok (.frStat 9 5 (some (11, true))) := by
  refine ⟨?_, ?_, ?_, ?_, ?_, ?_, ?_, ?_⟩ <;> rfl
theorem test_decode_group_0D :
    decode [0x681DA80A] = .ok (.atAdd 7 6 10 false .rel .device) ∧
    decode [0x685DA80A] = .ok (.atMin 7 6 10 false false .rel .device) ∧
    decode [0x689DA80A] = .ok (.atMax 7 6 10 false false .rel .device) ∧
    decode [0x68DDA80A] = .ok (.atAnd 7 6 10 false .rel .device) ∧
    decode [0x691DA80A] = .ok (.atOr 7 6 10 false .rel .device) ∧
    decode [0x695DA80A] = .ok (.atXchg 7 6 10 false .rel .device) ∧
    decode [0x699DA80A] = .ok (.atCas 7 6 10 false .rel .device) := by
  refine ⟨?_, ?_, ?_, ?_, ?_, ?_, ?_⟩ <;> rfl
theorem test_decode_group_0E :
    decode [0x7001C200] = .ok (.cpJob 7 true) ∧
    decode [0x705D8200] = .ok (.cpWait 7 6 true) ∧
    decode [0x7081C200] = .ok (.clGather 7 true) ∧
    decode [0x70C1C200] = .ok (.clScatter 7 true) ∧
    decode [0x7101C200] = .ok (.clReduce 7 true) ∧
    decode [0x7141C200] = .ok (.clSend 7 true) ∧
    decode [0x7181C200] = .ok (.clRecv 7 true) := by
  refine ⟨?_, ?_, ?_, ?_, ?_, ?_, ?_⟩ <;> rfl
theorem test_decode_group_10 :
    decode [0x80076A82] = .ok (.vAdd 7 6 10 (some 0) .f16) ∧
    decode [0x80176A82] = .ok (.vSub 7 6 10 (some 0) .f16) ∧
    decode [0x80276A82] = .ok (.vMul 7 6 10 (some 0) .f16) ∧
    decode [0x80376A32] = .ok (.vFma 7 6 10 3 .f16) ∧
    decode [0x80476A32] = .ok (.vFms 7 6 10 3 .f16) ∧
    decode [0x80576A32] = .ok (.vFnma 7 6 10 3 .f16) ∧
    decode [0x806760B2] = .ok (.vAbs 7 6 (some 3) .f16) ∧
    decode [0x807760B2] = .ok (.vNeg 7 6 (some 3) .f16) ∧
    decode [0x80876A82] = .ok (.vScl 7 6 10 (some 0) .f16) := by
  refine ⟨?_, ?_, ?_, ?_, ?_, ?_, ?_, ?_, ?_⟩ <;> rfl
theorem test_decode_group_11 :
    decode [0x88076A82] = .ok (.vCeq 7 6 10 (some 0) .f16) ∧
    decode [0x88176A82] = .ok (.vCne 7 6 10 (some 0) .f16) ∧
    decode [0x88276A82] = .ok (.vClt 7 6 10 (some 0) .f16) ∧
    decode [0x88376A82] = .ok (.vCle 7 6 10 (some 0) .f16) ∧
    decode [0x88476A82] = .ok (.vCun 7 6 10 (some 0) .f16) ∧
    decode [0x88576A3F] = .ok (.vSel 7 6 10 3 .untyped) ∧
    decode [0x88676A82] = .ok (.vMin 7 6 10 (some 0) .f16) ∧
    decode [0x88776A82] = .ok (.vMax 7 6 10 (some 0) .f16) ∧
    decode [0x88876A32] = .ok (.vClamp 7 6 10 3 .f16) := by
  refine ⟨?_, ?_, ?_, ?_, ?_, ?_, ?_, ?_, ?_⟩ <;> rfl
theorem test_decode_group_12_a :
    decode [0x90076A88] = .ok (.vIadd 7 6 10 (some 0) .i64) ∧
    decode [0x90176A88] = .ok (.vIsub 7 6 10 (some 0) .i64) ∧
    decode [0x90276A87] = .ok (.vImul 7 6 10 (some 0) .i32) ∧
    decode [0x90376A8F] = .ok (.vAnd 7 6 10 (some 0) .untyped) ∧
    decode [0x90476A8F] = .ok (.vOr 7 6 10 (some 0) .untyped) ∧
    decode [0x90576A8F] = .ok (.vXor 7 6 10 (some 0) .untyped) ∧
    decode [0x90676A88] = .ok (.vShl 7 6 10 (some 0) .i64) ∧
    decode [0x90776A88] = .ok (.vShr 7 6 10 (some 0) .i64) ∧
    decode [0x90876A88] = .ok (.vSra 7 6 10 (some 0) .i64) ∧
    decode [0x90976A88] = .ok (.vImin 7 6 10 (some 0) .i64) ∧
    decode [0x90A76A88] = .ok (.vImax 7 6 10 (some 0) .i64) ∧
    decode [0x90B76A87] = .ok (.vAdds 7 6 10 (some 0) .i32) := by
  refine ⟨?_, ?_, ?_, ?_, ?_, ?_, ?_, ?_, ?_, ?_, ?_, ?_⟩ <;> rfl
theorem test_decode_group_12_b :
    decode [0x90C76A87] = .ok (.vSubs 7 6 10 (some 0) .i32) ∧
    decode [0x90D76A88] = .ok (.vIeq 7 6 10 (some 0) .i64) ∧
    decode [0x90E76A88] = .ok (.vIlt 7 6 10 (some 0) .i64) ∧
    decode [0x90F76A88] = .ok (.vIltu 7 6 10 (some 0) .i64) := by
  refine ⟨?_, ?_, ?_, ?_⟩ <;> rfl
theorem test_decode_group_13 :
    decode [0x980950B4] = .ok (.vCvt 9 5 .f32 true 3 .e5m2) ∧
    decode [0x98195C93] = .ok (.vCvtSr 9 5 12 true .bf16 .e4m3) ∧
    decode [0x98276A84] = .ok (.vPack 7 6 10 (some 0) .e5m2) ∧
    decode [0x983760B4] = .ok (.vUnpkLo 7 6 (some 3) .e5m2) ∧
    decode [0x984760B4] = .ok (.vUnpkHi 7 6 (some 3) .e5m2) ∧
    decode [0x98595C34] = .ok (.vQblk 9 5 (some 12) 3 .e5m2) ∧
    decode [0x985950A5] = .ok (.vQblk 9 5 none 2 .i8) ∧
    decode [0x986950C0] = .ok (.vDqblk 9 5 true .e5m2 .f32) := by
  refine ⟨?_, ?_, ?_, ?_, ?_, ?_, ?_, ?_⟩ <;> rfl
theorem test_decode_group_14 :
    decode [0xA00760B2] = .ok (.vRcp 7 6 (some 3) .f16) ∧
    decode [0xA01760B2] = .ok (.vRsq 7 6 (some 3) .f16) ∧
    decode [0xA02760B2] = .ok (.vExp2 7 6 (some 3) .f16) ∧
    decode [0xA03760B2] = .ok (.vLog2 7 6 (some 3) .f16) ∧
    decode [0xA04760B2] = .ok (.vTanh 7 6 (some 3) .f16) ∧
    decode [0xA05760B2] = .ok (.vErf 7 6 (some 3) .f16) := by
  refine ⟨?_, ?_, ?_, ?_, ?_, ?_⟩ <;> rfl
theorem test_decode_group_15 :
    decode [0xA80760B7] = .ok (.vRsum 7 6 (some 3) .i32) ∧
    decode [0xA81760B7] = .ok (.vRmax 7 6 (some 3) .i32) ∧
    decode [0xA82760B7] = .ok (.vRmin 7 6 (some 3) .i32) ∧
    decode [0xA83760B7] = .ok (.vRsumG 7 6 (some 3) .i32) ∧
    decode [0xA8476A8F] = .ok (.vPerm 7 6 10 (some 0)) ∧
    decode [0xA85760AF] = .ok (.vBcast 7 6 10) ∧
    decode [0xA86760AF] = .ok (.vRot 7 6 10) ∧
    decode [0xA87760B7] = .ok (.vScan 7 6 (some 3) .i32) := by
  refine ⟨?_, ?_, ?_, ?_, ?_, ?_, ?_, ?_⟩ <;> rfl
theorem test_decode_group_16 :
    decode [0xB006D00F] = .ok (.vPeek 6 5) ∧
    decode [0xB01760BF] = .ok (.vMov 7 6 (some 3)) ∧
    decode [0xB027622F] = .ok (.vSetv 7 6 2 .andn) ∧
    decode [0xB033600F] = .ok (.vGetv 3 6 false) ∧
    decode [0xB047622F] = .ok (.vSetp 7 6 2 .andn) ∧
    decode [0xB053600F] = .ok (.vGetp 3 6) ∧
    decode [0xB0676A0F] = .ok (.vSettag 7 6 10) ∧
    decode [0xB077600F] = .ok (.vGettag 7 6) ∧
    decode [0xB0876A3F] = .ok (.vIns 7 6 10 3) ∧
    decode [0xB09760AF] = .ok (.vExt 7 6 10) ∧
    decode [0xB0A7600F] = .ok (.vSplat 7 6) ∧
    decode [0xB0B7603F] = .ok (.vMkc 7 6 .eos) := by
  refine ⟨?_, ?_, ?_, ?_, ?_, ?_, ?_, ?_, ?_, ?_, ?_, ?_⟩ <;> rfl
theorem test_decode_group_17 :
    decode [0xB8076A60] = .ok (.vDeq 7 6 10 true .cr) ∧
    decode [0xB8176A17] = .ok (.vWarp 7 6 10 true) ∧
    decode [0xB8276A10] = .ok (.vErracc 7 6 10 true) ∧
    decode [0xB837600F] = .ok (.vRefr 7 6) ∧
    decode [0xB8476027] = .ok (.vBfx 7 6 .log2w) := by
  refine ⟨?_, ?_, ?_, ?_, ?_⟩ <;> rfl
theorem test_decode_group_18 :
    decode [0xC03CA000] = .ok (.mMma 7 2 .e5m2e4m3 (some 0)) ∧
    decode [0xC0BCA000] = .ok (.mMmaz 7 2 .e5m2e4m3 (some 0)) ∧
    decode [0xC13CA540] = .ok (.mRun 7 2 .e5m2e4m3 (some 0) 10 true false) ∧
    decode [0xC1BCA56E] = .ok (.mGrp 7 2 .e5m2e4m3 (some 0) 10 true 5 6) := by
  refine ⟨?_, ?_, ?_, ?_⟩ <;> rfl
theorem test_decode_group_19 :
    decode [0xC84802C8] = .ok (.mDrain 9 (.g 5 true) true false) ∧
    decode [0xC8480683] = .ok (.mDrain 9 (.port 5) false true) ∧
    decode [0xC8B80300] = .ok (.mCopy 7 6) ∧
    decode [0xC8B80341] = .ok (.mCopySt 7 6 true) ∧
    decode [0xC8B80342] = .ok (.mCopyLd 7 6 true) ∧
    decode [0xC90145C1] = .ok (.mLd .cb2 (.g 11 true)) ∧
    decode [0xC9010700] = .ok (.mLd .bf16 (.port 6)) ∧
    decode [0xC9800000] = .ok (.mSwap) ∧
    decode [0xCA380000] = .ok (.mClr 7) := by
  refine ⟨?_, ?_, ?_, ?_, ?_, ?_, ?_, ?_, ?_⟩ <;> rfl
theorem test_decode_group_1A :
    decode [0xD0380016] = .ok (.rlDecl 7 22) ∧
    decode [0xD0B80303] = .ok (.rlIns 7 6 false 3) ∧
    decode [0xD1380300] = .ok (.rlMerge 7 6) ∧
    decode [0xD1C8028B] = .ok (.rlThr 9 (.tok 5 11)) ∧
    decode [0xD1C8029B] = .ok (.rlThr 9 (.g 5 11)) ∧
    decode [0xD1C802B3] = .ok (.rlThr 9 (.flags 5 3)) ∧
    decode [0xD24806B0] = .ok (.rlOut 9 5 true true none) ∧
    decode [0xD248069E] = .ok (.rlOut 9 5 false true (some 6)) ∧
    decode [0xD2C80000] = .ok (.rlClr 9 none) ∧
    decode [0xD2C802C1] = .ok (.rlClr 9 (some (5, true))) := by
  refine ⟨?_, ?_, ?_, ?_, ?_, ?_, ?_, ?_, ?_, ?_⟩ <;> rfl
theorem test_decode_group_1B :
    decode [0xD8040000] = .ok (.ringSet 2 none) ∧
    decode [0xD80402C1] = .ok (.ringSet 2 (some (5, true))) ∧
    decode [0xD8860300] = .ok (.ringHead 3 6) ∧
    decode [0xD9060300] = .ok (.ringTail 3 6) ∧
    decode [0xD9860340] = .ok (.ringPop 3 6 true) := by
  refine ⟨?_, ?_, ?_, ?_, ?_⟩ <;> rfl

/-- Format L (R45, R103), the first the example of the spec. -/
theorem test_decode_stream_commands :
    decode [0xF8008080, 0x40000000, 0xFFFFF1F0, 0x16000000] = .ok (.sRead 0 (.port 1) 0x20 2 none none .move 0xFFFFF1F0 5 true) ∧
    decode [0xF8258554, 0xADE10000, 0x12345678, 0x00000000] = .ok (.sRead 2 (.ring 3) 0x155 5 (some (6, true)) (some 4) .sext 0x12345678 0 false) ∧
    decode [0xF8E1C004, 0x32818000, 0xFFFFFFC0, 0x00000000] = .ok (.sWrite 2 3 0x1001 1 (some (9, false)) none .low 0xFFFFFFC0) ∧
    decode [0xF9338024, 0xE04A6800, 0x00000100, 0xFC000000] = .ok (.sInd 3 (.port 7) 9 7 5 none (some 1) .bcast 256 63 false) ∧
    decode [0xF9900000, 0x60700000, 0x00000180, 0x00000000] = .ok (.sPrism 1 3 6 384) ∧
    decode [0xFA0A0044, 0x43800000, 0xFFFFFFF8, 0x0A000000] = .ok (.sSyntax 0 4 17 2 (some (1, true)) 0xFFFFFFF8 2 true) ∧
    decode [0xFA800000, 0x00000000, 0x00000000, 0x00000000] = .ok (.sBar) ∧
    decode [0xFB500000, 0x00000000, 0x00000000, 0x00000000] = .ok (.sStop 5) ∧
    decode [0xFBE00000, 0x16000000, 0x00000000, 0x00000000] = .ok (.sStat 6 11) := by
  refine ⟨?_, ?_, ?_, ?_, ?_, ?_, ?_, ?_, ?_⟩ <;> rfl
/-- The words of the worked tables of the matrix and video chapters. -/
theorem test_decode_worked_words :
    decode [0xC0852800] = .ok (.mMmaz 0 2 .bf16 (some 1)) ∧
    decode [0xC1114281] = .ok (.mRun 2 0 .e4m3cb2 none 5 false true) ∧
    decode [0xC8180108] = .ok (.mDrain 3 (.g 2 false) true false) ∧
    decode [0xD0280002] = .ok (.rlDecl 5 2) ∧
    decode [0xD0A80419] = .ok (.rlIns 5 8 true 9) ∧
    decode [0xD9820200] = .ok (.ringPop 1 4 false) ∧
    decode [0xB8028040] = .ok (.vDeq 2 8 0 true .y) ∧
    decode [0xB8200200] = .ok (.vErracc 0 0 2 false) ∧
    decode [0xB8130207] = .ok (.vWarp 3 0 2 false) ∧
    decode [0xB8200410] = .ok (.vErracc 0 0 4 true) ∧
    decode [0xB8450047] = .ok (.vBfx 5 0 .mode) ∧
    decode [0xB831000F] = .ok (.vRefr 1 0) := by
  refine ⟨?_, ?_, ?_, ?_, ?_, ?_, ?_, ?_, ?_, ?_, ?_, ?_⟩ <;> rfl
/-- Words that are no instruction, each with the field that its trap names (R55 to R57): group 0, a reserved group, a reserved minor, a
reserved bit set, a misplaced wait bit, an etype not accepted, a W0 beyond the store's last whole command. -/
theorem test_decode_refuses :
    decode [0] = .error ⟨0, 0⟩ ∧ decode [0xF0000000] = .error ⟨0, 0⟩ ∧ decode [0x08048601] = .error ⟨8, 0⟩ ∧
    decode [0xF8000000 + 8 * 2 ^ 23, 0, 0, 0] = .error ⟨1, 0⟩ ∧ decode [0xC0852800 + 2 ^ 13] ≠ .ok (.mMmaz 0 2 .bf16 (some 1)) := by
  refine ⟨?_, ?_, ?_, ?_, ?_⟩ <;> decide

/-! ## Ill-formed terms (R49, R66 to R83, R103, R175 to R243) -/

theorem test_refuses_etype_1 : ([.vAdd 0 0 0 none .e4m3, .vSub 0 0 0 none .e4m3, .vMul 0 0 0 none .e4m3, .vFma 0 0 0 0 .e4m3, .vFms 0 0 0 0 .e4m3, .vFnma 0 0 0 0 .e4m3, .vAbs 0 0 none .e4m3, .vNeg 0 0 none .e4m3, .vScl 0 0 0 none .e4m3, .vCeq 0 0 0 none .e4m3, .vCne 0 0 0 none .e4m3, .vClt 0 0 0 none .e4m3, .vCle 0 0 0 none .e4m3, .vCun 0 0 0 none .e4m3, .vSel 0 0 0 0 .cb2, .vMin 0 0 0 none .e4m3, .vMax 0 0 0 none .e4m3, .vClamp 0 0 0 0 .e4m3, .vIadd 0 0 0 none .f32, .vIsub 0 0 0 none .f32, .vImul 0 0 0 none .f32, .vAnd 0 0 0 none .f32, .vOr 0 0 0 none .f32, .vXor 0 0 0 none .f32, .vShl 0 0 0 none .f32] : List Instr).all (fun i => !i.wellFormed) = true := by decide
theorem test_refuses_etype_2 : ([.vShr 0 0 0 none .f32, .vSra 0 0 0 none .f32, .vImin 0 0 0 none .f32, .vImax 0 0 0 none .f32, .vAdds 0 0 0 none .f32, .vSubs 0 0 0 none .f32, .vIeq 0 0 0 none .f32, .vIlt 0 0 0 none .f32, .vIltu 0 0 0 none .f32, .vPack 0 0 0 none .f32, .vUnpkLo 0 0 none .f32, .vUnpkHi 0 0 none .f32, .vQblk 0 0 none 0 .f32, .vDqblk 0 0 false .e4m3 .f16, .vRcp 0 0 none .e4m3, .vRsq 0 0 none .e4m3, .vExp2 0 0 none .e4m3, .vLog2 0 0 none .e4m3, .vTanh 0 0 none .e4m3, .vErf 0 0 none .e4m3, .vRsum 0 0 none .e4m3, .vRmax 0 0 none .e4m3, .vRmin 0 0 none .e4m3, .vRsumG 0 0 none .e4m3, .vScan 0 0 none .bf16] : List Instr).all (fun i => !i.wellFormed) = true := by decide
/-- The other checks: lanes, counts, register ranges, read-only registers, kinds, pairs, and the tag and eos of a ring. -/
theorem test_refuses_others : ([.getw 1 0 true 3, .fork .matrix 0 false 0, .rdv false false, .pushm 3 2 false .g, .pushm 1 8 false .b, .pushm 1 2 true .m, .popm 3 2 .g, .popm 0 4 .m, .sysw 0 false .tileid, .vMkc 0 0 .marker, .rlMerge 3 3, .rlOut 0 0 true false none, .vQblk 0 0 none 4 .e4m3, .vDqblk 0 0 false .f32 .f32, .vDqblk 0 0 true .e4m3 .bf16, .vCvt 0 0 .f32 false 0 .cb2, .vCvt 0 0 .untyped false 0 .f32, .vCvt 0 0 .f32 true 4 .e4m3, .vCvt 0 0 .e4m3 true 0 .f32, .vCvt 0 0 .e4m3 false 4 .f32, .vCvtSr 0 0 0 false .i8 .f32, .sRead 0 (.ring 1) 0 0 none none .move 0 1 false, .sRead 0 (.ring 1) 0 0 none none .move 0 0 true, .sInd 0 (.ring 1) 0 0 0 none none .move 0 1 false] : List Instr).all (fun i => !i.wellFormed) = true := by decide

/-! ## Numbers worked out in the spec -/

/-- R149, R153, R154, R157: 0.1, 500.0 and −0.001 to E4M3. -/
theorem test_conversions_to_e4m3 :
    convert .f32 .e4m3 0 0 true false false 0x3DCC_CCCD = 0x1D ∧ convert .f32 .e4m3 0 0 false false false 0x43FA_0000 = 0x7F ∧
    convert .f32 .e4m3 0 0 true false false 0x43FA_0000 = 0x7E ∧ convert .f32 .e4m3 1 0 false false false 0x43FA_0000 = 0x7E ∧
    convert .f32 .e4m3 0 0 false false false 0xBA83_126F = 0x81 ∧ convert .f32 .e4m3 0 0 false false true 0xBA83_126F = 0x80 := by decide +kernel
/-- R156: 1.1 to E4M3 under stochastic rounding. -/
theorem test_stochastic_rounding :
    convert .f32 .e4m3 4 0x4000_0000 false false false 0x3F8C_CCCD = 0x39 ∧ convert .f32 .e4m3 4 0x2000_0000 false false false 0x3F8C_CCCD = 0x38 := by
  decide +kernel
/-- The token example of R182. -/
theorem test_vCvt_packs_lanes :
    let x : Token := ⟨.ofNat 512 (0x3DCC_CCCD + 0x43FA_0000 * 2 ^ 32 + 0xBA83_126F * 2 ^ 64 + 77 * 2 ^ 96), 0x0007, 0, 0, .data⟩
    let s := dev fun k => { k with w := vset k.w 0 x }
    ((nx (exec (.vCvt 1 0 .f32 true 0 .e4m3) s)).tile 0).vpipe.map (fun v => (v.dst, v.tok.lane 0, v.tok.valid.toNat)) = [(.w 1, 0x0081_7E1D, 1)] := by decide +kernel
/-- R188: the reciprocal of 3.0. -/
theorem test_rcp_of_three : SpecFn.rcp.result fF32 (fF32.val 0x4040_0000) = 0x3EAA_A000 := by decide +kernel
/-- R161, R162: a block whose largest magnitude is 96.0. -/
theorem test_quantised_block :
    let q := quantBlock .e4m3 0 false [fF32.val 0x42C0_0000, fF32.val 0x41A0_0000]
    let r := quantBlock .e4m3 0 false [fF32.val 0x42C8_0000]
    q.1 = 125 ∧ (q.2 (fF32.val 0x42C0_0000)).1 = 0x7C ∧ (q.2 (fF32.val 0x41A0_0000)).1 = 0x6A ∧ r.1 = 125 ∧ (r.2 (fF32.val 0x42C8_0000)).1 = 0x7C ∧
    dequant .e4m3 .f32 false false 125 0x7C = 0x42C0_0000 ∧ dequant .e4m3 .f32 false false 125 0x6A = 0x41A0_0000 := by decide +kernel
/-- R151: c = 0x8103 under scale 0x7E. -/
theorem test_cb2_codeword :
    (List.range 8).map (fun i => fF32.round 0 0 false (cb2 0x8103 i 0x7E)) =
      [0xBF80_0000, 0x3F80_0000, 0x3F00_0000, 0x3F00_0000, 0x3F00_0000, 0x3F00_0000, 0x3F00_0000, 0xBF00_0000] := by decide +kernel
/-- R164: 1.0 with 2^−24 and 2^−41 stays 1.0. -/
theorem test_group_sum_truncates :
    (mmaEl .bf16 0 [.fin false 1 (-12), .fin false 1 (-20)] [.fin false 1 (-12), .fin false 1 (-21)] 0x3F80_0000 false false).bits = 0x3F80_0000 := by
  decide +kernel
/-- R217, R219, R221 to R223: the row worked in the spec. -/
theorem test_ranked_row :
    let e := fun (v i : Nat) => (⟨.ofNat 32 v, .ofNat 32 i, false⟩ : REnt)
    let a := [e 0x4000_0000 10, e 0x40A0_0000 12, e 0x4000_0000 7, e 0x8000_0000 3, e 0x40A0_0000 20].foldl (fun r x => RRow.insert 3 x r) ({} : RRow)
    let b := [e 0x4000_0000 5, e 0x3FC0_0000 0].foldl (fun r x => RRow.insert 3 x r) a
    let d : RRow := { b with ents := b.ents.zipIdx.map fun (x, i) => if i = 1 then { x with drop := true } else x }
    a.ents = [e 0x40A0_0000 12, e 0x40A0_0000 20, e 0x4000_0000 7] ∧ b.ents = [e 0x40A0_0000 12, e 0x40A0_0000 20, e 0x4000_0000 5] ∧
    b.thr 3 = 0x4000_0000 ∧ (List.range 3).map (outVal true true 0 16 d) = [0x3F36_DB6E, 0, 0x3E92_4925] := by decide +kernel
/-- R286, R287: the block of words 100 + 3i, and the same after a write of 1,000 to word 10. -/
theorem test_delta32_block :
    let b := ((List.range 64).map fun i => leBytes 4 (100 + 3 * i)).flatten
    let c := ((List.range 64).map fun i => leBytes 4 (if i = 10 then 1000 else 100 + 3 * i)).flatten
    descriptor 0 b = 0x02 ∧ ((encodeBlock b).2.take 29) = [0x02, 0x64, 0, 0, 0] ++ (List.replicate 7 [0xDB, 0xB6, 0x6D]).flatten ++ [0xDB, 0xB6, 0x0D] ∧
    ((encodeBlock b).2.drop 29).all (· == 0) = true ∧ descriptor 0 c = 0x02 ∧ (encodeBlock c).2.getD 0 0 = 10 ∧ decodeBlock 2 (encodeBlock c).2 = some c := by
  decide +kernel
/-- The record of the fault resolved mid-pattern (R356, R359). -/
theorem test_fault_record_words :
    let r : FaultRec := { kind := 0x06, gen := 1, part := 3, ly := 1, lx := 2, region := 5, va := 0x6_0000, vwin := 2, aux := 3, c1 := 2, seq := 41 }
    (List.range 8).map (fun k => leNat ((r.bytes.drop (8 * k)).take 8)) =
      [0x0610_0C01_0200_0500, 0x6_0000, 2, 3, 0x0000_0002_0000_0000, 0, 0, 0x0000_0029_0000_0000] := by decide +kernel
/-- The translation worked in the spec (R279, R339, R340): window 3, offset 0x1_0234_5678. Stage 2 maps the first 64 MiB of IPA as they
are. -/
theorem test_worked_translation :
    let s : State := { State.reset with
      hbm := [(0x10_0030, 0x09), (0x10_0032, 0x20), (0x10_003A, 0x02), (0x20_0000, 0x07), (0x20_0002, 0x21), (0x21_0200, 0x05), (0x21_0203, 0x40),
        (0x30_0000, 0x07), (0x30_0002, 0x31), (0x31_0000, 0x05), (0x31_0080, 0x05), (0x31_0084, 0x18)]
      parts := [(2, { live := true, wtbase := 0x10_0000, s2root := 0x30_0000 })] }
    (∀ w ∈ [true, false], (match s.walkVA none 2 3 0x1_0234_5678 w (if w then .wr else .rd) with | .ok (t, _) => some t | .error _ => none) = some (.hbm 0x18_0234_5678)) ∧
    homeMit 0x18_0234_5678 = 5 ∧ homeLocal 0x18_0234_5678 = 0x1_0017_8678 := by decide +kernel
/-- The bind record worked in the spec (R319). -/
theorem test_bind_record :
    bindOf (((0x3440 / 16) / 4, 0, 0x0000_0002_0001_0002 * 2 ^ 64 + 0x0007_0000_0003_4481)) = ⟨48 * 4 + 17, 0, 3, 0, 1⟩ := by decide +kernel
/-- A tile whose tasks 0, 1 and 5 are normal and 2 high, all ready unless slot 2 is parked. -/
def sIss (q : SlotId) (p2 : Bool) (n : SlotId) : State := dev (fun k => { k with st := .ready }) fun y =>
  { y with tasks := vset (vset (vset y.tasks 1 { st := .ready }) 5 { st := .ready }) 2 { st := if p2 then .parked .port else .ready, high := true }, rot := q, lastHi := 2, lastNo := n }
/-- The issue slots worked in the spec (R314). -/
theorem test_issue_slots :
    ([0, 1, 2, 3, 4, 5, 6, 15] : List SlotId).map (fun q => (sIss q false 5).chosen 0) = [some 0, some 1, some 2, some 2, some 2, some 5, some 2, some 2] ∧
    ([(6, 5), (7, 0), (8, 1), (9, 5)] : List (SlotId × SlotId)).map (fun (q, n) => (sIss q true n).chosen 0) = [some 0, some 1, some 5, some 0] := by
  decide +kernel
/-- The block record worked in the spec (R236 to R242). -/
def vrec (l1 l12 : Nat) : Token := ⟨laneFn fun k => match k with | 0 => 2 | 1 => l1 | 2 => 0x0021_0005 | 3 => 0x0021_0005 | 8 => 0xFFF8_0048 | 10 => 1 | 12 => l12 | 13 => 0x0002_0004 | _ => 0, 0xFFFF, 0, 0, .data⟩
/-- What a word of the task makes of tokens in w0 and w4. -/
def vtok (i : Instr) (a b : Token) : List (List Nat × Nat) :=
  match exec i (dev (fun k => { k with w := vset (vset k.w 0 a) 4 b }) id fun r => { r with alpha := 0x3D80_0000, beta := 0x3D00_0000, bound := 0x40C0_0000 }) with
  | .next u => (u.tile 0).vpipe.map fun v => ((List.range 16).map v.tok.lane, v.tok.valid.toNat)
  | _ => []
/-- `v.deq`, then `v.warp` (R238, R239). -/
theorem test_video_residual_and_warp :
    (vtok (.vDeq 2 4 0 true .y) (vrec 0x1E01_0122 0) ⟨.ofNat 512 (3 + (2 ^ 32 - 2) * 2 ^ 32 + 2 ^ 160), 0xFFFF, 0, 0, .data⟩).map (fun x => x.1.take 6) =
      [[0x41F0_0000, 0xC1A0_0000, 0, 0, 0, 0x4120_0000]] ∧
    (vtok (.vWarp 3 0 2 false) (vrec 0x1E01_0122 0) {}).map (fun x => (x.1.headD 9, x.2)) = [(3, 1)] := by decide +kernel
/-- `v.erracc` and its finish (R241): R = 60.0, then E = 6.0; from e_ref = 6.0 the bound is passed. -/
theorem test_video_error :
    (vtok (.vErracc 0 0 4 false) (vrec 0x1E01_0122 0) ⟨.ofNat 512 (0x41F0_0000 + 0xC1A0_0000 * 2 ^ 32 + 0x4120_0000 * 2 ^ 160), 0xFFFF, 0, 0, .data⟩).map
      (fun x => x.1.getD 12 0) = [0x4270_0000] ∧
    ([(0x4000_0000, 0x1E01_0122, 0x40C0_0000), (0x40C0_0000, 0x1E39_0322, 0)] : List (Nat × Nat × Nat)).all (fun (e, l1, l11) =>
      (vtok (.vErracc 0 0 4 true) (vrec 0x1E01_0122 0x4270_0000) ⟨.ofNat 512 e, 0xFFFF, 0, 0, .data⟩).map (fun x => (x.1.getD 1 0, x.1.getD 11 9)) == [(l1, l11)]) := by
  decide +kernel


/-! ## Witnesses: states and operands that meet the hypotheses of the statements, clause by clause -/

/-- g1 = 5, g2 = 7, g3 empty, g4 pending, g5 with the top bit set. -/
def sG : State := dev (gset [(1, 5, .full), (2, 7, .full), (3, 0, .empty), (4, 0, .pending), (5, 0x8000000000000000, .full)])
theorem wit_IntegerArithmeticFollowsTable :
    sG.full 1 5 ∧ sG.full 2 7 ∧ sG.takes 0 ∧ (sG.g 3).st ≠ .full ∧ (sG.g 4).st = .pending ∧ sG.full 0 0 ∧ sG.full 5 0x8000000000000000 ∧ sG.takes 3 := by
  simp only [State.full, State.takes]; decide +kernel
theorem wit_BitCountsCountBits : (0x8000000000000000 : DWord) ≠ 0 ∧ (1 : DWord) ≠ 0 := by decide
theorem wit_ImmediateArithmeticFollowsTable : sG.full 1 5 ∧ sG.takes 0 ∧ (sG.g 3).st ≠ .full ∧ (sG.g 4).st = .pending := by
  simp only [State.full, State.takes]; decide +kernel
theorem wit_ConstantsReplaceTheirField : sG.takes 3 ∧ (sG.g 4).st = .pending ∧ sG.full 2 7 ∧ (sG.g 3).st ≠ .full := by
  simp only [State.full, State.takes]; decide +kernel
theorem wit_BaseRegisterOpsFollowTable :
    sG.full 1 5 ∧ sG.full 2 7 ∧ sG.takes 3 ∧ (sG.g 3).st ≠ .full ∧ (sG.g 4).st = .pending := by
  simp only [State.full, State.takes]; decide +kernel
theorem wit_ScalarWordsAreRefused :
    let w := 0x0F000000; w < 2 ^ 32 ∧ fld w 31 27 = 1 ∧ 28 ≤ fld w 26 22 ∧ fld 0x08000001 31 27 = 1 ∧ fld 0x08000001 26 22 < 22 ∧ fld 0x08000001 7 0 ≠ 0 ∧
      fld 0x0D800400 31 27 = 1 ∧ fld 0x0D800400 26 22 = 22 ∧ fld 0x0D800400 13 10 ≠ 0 ∧ fld 0x0EC00003 26 22 = 27 ∧ 3 ≤ fld 0x0EC00003 7 0 := by decide

/-- Loads and stores: g1 = 0x40, g2 at the last doubleword of the share, g3 past it, g7 at the last 64 bytes; bytes and one mark in
scratchpad. -/
def sL : State := dev (gset [(1, 0x40, .full), (2, 0x77FF8, .full), (3, 0x78000, .full), (4, 0, .pending), (5, 0, .empty), (7, 0x77FC0, .full)])
  fun y => { y with spad := [(0x40, 1), (0x41, 0x80), (0x47, 0xFF)], marks := [0x48] }
theorem wit_ScratchpadRangeIsTheShare : spOk 0 false 0x77FF8 8 = true ∧ spOk 0 false 0x77FF9 8 = false ∧ spOk 1 true 0x78000 0x8000 = true ∧
    spStOk 0 true 0x79FFF 1 = false ∧ spStOk 2 true 0x7A000 1 = true ∧ spOk 2 false 0x1DFFF 1 = true ∧ spOk 2 false 0x1E000 1 = false := by decide
theorem wit_ScalarLoadsFollowPseudocode :
    sL.full 1 0x40 ∧ sL.full 2 0x77FF8 ∧ sL.full 3 0x78000 ∧ sL.takes 0 ∧ (sL.g 4).st = .pending ∧ (sL.g 5).st ≠ .full ∧ sL.clearOfAcq ∧
    sL.spLd 0x77FF8 8 = true ∧ sL.spLd 0x78000 1 = false ∧ sL.spMarked 0x48 8 = true ∧ sL.spMarked 0x40 8 = false ∧ sL.spLd 0x41 4 = true ∧ 0x41 % 4 ≠ 0 := by
  simp only [State.full, State.takes, State.clearOfAcq]; decide +kernel
theorem wit_TokenLoadTakesSixteenWords :
    sL.full 7 0x77FC0 ∧ sL.wBusy 0 = false ∧ sL.clearOfAcq ∧ sL.spLd 0x77FC0 64 = true ∧ sL.spLd 0x40 64 = true ∧ 0x77FC0 % 64 = 0 := by
  simp only [State.full, State.clearOfAcq]; decide +kernel
theorem canon_sL : Tile.Canon (sL.tile sL.ctx.tile) := by
  simp only [Tile.Canon, Rising]; decide +kernel
theorem wit_ScalarStoresWriteExactlyTheirBytes :
    Tile.Canon (sL.tile sL.ctx.tile) ∧ sL.full 1 0x40 ∧ sL.full 2 0x77FF8 ∧ sL.full 3 0x78000 ∧ sL.clearOfAcq ∧ sL.clearOfRel ∧ sL.spSt 0x77FF8 8 = true ∧
    sL.spSt 0x78000 1 = false ∧ sL.spLd 0x77FF8 8 = true ∧ sL.spSt 0x41 4 = true := by
  refine ⟨canon_sL, ?_⟩; simp only [State.full, State.clearOfAcq, State.clearOfRel]; decide +kernel
theorem wit_TokenStoreIsMasked :
    Tile.Canon (sL.tile sL.ctx.tile) ∧ sL.full 7 0x77FC0 ∧ sL.wBusy 0 = false ∧ sL.clearOfAcq ∧ sL.clearOfRel ∧ sL.spLd 0x77FC0 64 = true ∧ sL.spSt 0x77FC0 64 = true := by
  refine ⟨canon_sL, ?_⟩; simp only [State.full, State.clearOfAcq, State.clearOfRel]; decide +kernel

/-- Branches and jumps: the task at word 10. -/
def sJ : State := dev fun k => { gset [(1, 5, .full), (2, 8191, .full), (3, 8192, .full), (4, 0, .pending), (5, 0, .empty), (6, 1, .full),
  (7, 0xFFFFFFFFFFFFFFFF, .full)] k with pc := 10, m := vset k.m 1 0 }
theorem wit_BranchesTestAndGo :
    sJ.full 1 5 ∧ sJ.full 0 0 ∧ sJ.full 7 0xFFFFFFFFFFFFFFFF ∧ (sJ.g 5).st ≠ .full ∧ sJ.mBusy 0 = false ∧ sJ.m 0 ≠ 0 ∧ sJ.m 1 = 0 ∧
    (sJ.cur.pc : Int) + (8181 : BitVec 18).toInt = 8191 ∧ (sJ.cur.pc : Int) + (8182 : BitVec 18).toInt = sJ.limit ∧
    (sJ.cur.pc : Int) + (-11 : BitVec 18).toInt < 0 := by
  simp only [State.full]; decide +kernel
theorem wit_JumpsFollowPseudocode :
    sJ.full 1 5 ∧ sJ.full 2 8191 ∧ sJ.full 3 8192 ∧ sJ.full 6 1 ∧ sJ.takes 0 ∧ (sJ.g 4).st = .pending ∧ (sJ.g 5).st ≠ .full ∧ sJ.limit = 8192 := by
  simp only [State.full, State.takes]; decide +kernel
theorem wit_JumpWordsAreRefused :
    fld 0x3C200000 31 27 = 7 ∧ fld 0x3C200000 26 23 = 8 ∧ 4 ≤ fld 0x3C200000 22 19 ∧ fld 0x3B040000 26 23 = 6 ∧ fld 0x3B040000 18 18 ≠ 0 ∧
    fld 0x42800000 31 27 = 8 ∧ 5 ≤ fld 0x42800000 26 23 ∧ fld 0x40080000 26 23 = 0 ∧ fld 0x40080000 22 19 ≠ 0 ∧ fld 0x41000001 26 23 = 2 ∧
    fld 0x41000001 17 0 ≠ 0 ∧ fld 0x41800010 26 23 = 3 ∧ fld 0x41800010 17 4 ≠ 0 := by decide

/-- Ports: i0 with a head whose lane 3 is poisoned, i1 empty, i2 bound by a ring, o1 full, g1 = 0x1_0000_0002, g4 pending, g3 empty. -/
def sP : State := dev (gset [(1, 0x100000002, .full), (3, 0, .empty), (4, 0, .pending)])
  fun y => mat (fun m => { m with rings := vset m.rings 1 { size := 4, feed := some 2 } })
    (outq 1 (List.replicate 4 .reserved) (inq 0 [{ tok 0x77 with poison := 8 }] y))
theorem wit_FullEmptyControl : (sP.g 1).st = .full ∧ (sP.g 3).st ≠ .full ∧ (sP.g 4).st = .pending ∧ sP.takes 3 ∧ sP.takes 1 := by
  simp only [State.takes]; decide +kernel
theorem wit_GetwDelivers :
    sP.takes 0 ∧ sP.clearOfAcq ∧ sP.bound false 2 = true ∧ sP.bound false 0 = false ∧ (∃ t, sP.head 0 = some t ∧ t.pois 3 = true ∧ t.pois 0 = false) ∧
    sP.bound false 1 = false ∧ sP.head 1 = none := by
  refine ⟨by unfold State.takes; decide +kernel, by unfold State.clearOfAcq; decide +kernel, by decide +kernel, by decide +kernel, ⟨_, rfl, ?_⟩, by decide +kernel, by decide +kernel⟩
  decide +kernel
theorem wit_PutPushesOneToken :
    sP.full 1 0x100000002 ∧ sP.clearOfAcq ∧ sP.clearOfRel ∧ sP.bound true 1 = false ∧ sP.space 1 = false ∧ sP.space 0 = true ∧ sP.bound true 0 = false := by
  simp only [State.full, State.clearOfAcq, State.clearOfRel]; decide +kernel
/-- A stream command that feeds an output port. -/
def cmdO (p : BitVec 3) : Cmd := { kind := .read, seq := 0, slot := 0, phase := 0, run := none, pc := 0, dest := .port p, ix := none, pcb := 0, base := 0, ver := none, pid := none, xf := .move, disp := 0, tag := 0, eos := false }
/-- One that feeds o3 waits at engine 0. -/
def sB : State := dev id fun y => { y with eng := vset y.eng 0 { wait := [cmdO 3] } }
theorem wit_PutPushesOneToken_bound : sB.full 0 0 ∧ sB.clearOfAcq ∧ sB.clearOfRel ∧ sB.bound true 3 = true := by
  simp only [State.full, State.clearOfAcq, State.clearOfRel]; decide +kernel
theorem wit_WaitYieldEnd :
    sP.bound false 0 = false ∧ (sP.head 0).isSome = true ∧ sP.bound false 1 = false ∧ sP.head 1 = none ∧ sP.bound true 0 = false ∧ sP.space 0 = true ∧
    sP.bound true 1 = false ∧ sP.space 1 = false ∧ (sP.g 4).st = .pending ∧
    let s := dev; ¬ ((∃ r : BitVec 4, (s.g r).st = .pending) ∨ (s.tile s.ctx.tile).runsOf s.ctx.slot .matrix = true ∨
      (s.tile s.ctx.tile).runsOf s.ctx.slot .stream = true) := by
  decide +kernel
theorem wit_ControlWordsAreRefused :
    fld 0x50040000 31 27 = 0x0A ∧ fld 0x50040000 26 22 = 0 ∧ fld 0x50040000 21 18 ≠ 0 ∧ fld 0x50400001 26 22 = 1 ∧ fld 0x50400001 17 0 ≠ 0 := by decide

/-- Runs: three forked runs wait, or four; abandoned runs of both units; a launch queue that is full. -/
def sR (n : Nat) (q : Nat) : State :=
  let s := dev (fun k => { gset [(1, 8190, .full), (2, 8191, .full), (3, 0x40, .full), (4, 0x41, .full), (5, 0x78000, .full)] k with
      aband := [⟨.matrix, 9, 5, 0⟩, ⟨.stream, 3, 18, 0⟩, ⟨.matrix, 4, 23, 0⟩] })
    fun y => { y with mq := List.replicate n { slot := 1, seq := 0, run := true, pc := 0, count := 1, pos := 0, instr := none }
                      sq := List.replicate n { slot := 1, seq := 0, pc := 0, count := 1, pos := 0 } }
  s.modPart 1 fun p => { p with lq := vset p.lq 2 (List.replicate q 0) }
theorem wit_ForkQueuesARun :
    (sR 3 0).full 1 8190 ∧ (sR 3 0).full 2 8191 ∧ (sR 3 0).clearOfAcq ∧ (sR 3 0).limit = 8192 ∧
    (((sR 3 0).tile 0).mq.filter (·.run)).length = 3 ∧ ((sR 3 0).tile 0).sq.length = 3 ∧ (sR 4 0).full 1 8190 ∧
    4 ≤ (((sR 4 0).tile 0).mq.filter (·.run)).length ∧ 4 ≤ ((sR 4 0).tile 0).sq.length := by
  simp only [State.full, State.clearOfAcq]; decide +kernel
theorem wit_RdvAwaitsAndReports :
    (∃ a ∈ (sR 3 0).cur.aband, a.unit = .matrix) ∧ (∃ a ∈ (sR 3 0).cur.aband, a.unit = .stream) ∧ (∀ i ∈ ((sR 3 0).tile 0).mq, i.slot ≠ 0) ∧
    (∀ r ∈ ((sR 3 0).tile 0).sq, r.slot ≠ 0) ∧ (∀ c ∈ ((sR 3 0).tile 0).cmds, c.slot ≠ 0) ∧ sL.cur.aband = [] ∧
    ∃ c ∈ (sB.tile 0).cmds, c.slot = sB.ctx.slot := by
  decide +kernel
theorem wit_TrigLaunches :
    (sR 0 255).full 3 0x40 ∧ (sR 0 255).full 4 0x41 ∧ (sR 0 255).full 5 0x78000 ∧ (sR 0 255).clearOfAcq ∧ (sR 0 255).ctx.slot ≠ 15 ∧
    (sR 0 255).spLd 0x78000 64 = false ∧ (sR 0 255).spLd 0x41 64 = true ∧ 0x41 % 64 ≠ 0 ∧ (sR 0 255).spLd 0x40 64 = true ∧ (sR 0 255).opsOut false = false ∧
    (vget ((sR 0 255).part (sR 0 255).curPart).lq 2 []).length < 256 ∧ 256 ≤ (vget ((sR 0 256).part (sR 0 256).curPart).lq 2 []).length ∧
    (sR 0 256).full 3 0x40 ∧ (sR 0 256).opsOut false = false := by
  simp only [State.full, State.clearOfAcq]; decide +kernel


/-- The spill stack: SSP.PTR and LIMIT in bytes. -/
def sS (ptr limit : Nat) (k : Task → Task := id) : State := dev fun t => k { t with ssp := .ofNat 64 (ptr + limit * 2 ^ 32) }
theorem wit_PushmSpillsRegisters :
    (Instr.pushm 1 3 true .g).wellFormed = true ∧ (Instr.pushm 0 1 false .w).wellFormed = true ∧ (Instr.pushm 2 2 false .b).wellFormed = true ∧
    (Instr.pushm 0 3 false .m).wellFormed = true ∧
    let s := sS 0x100 0xE8
    s.clearOfAcq ∧ s.clearOfRel ∧ s.ctx.slot ≠ 15 ∧ Tile.Canon (s.tile s.ctx.tile) ∧ (∀ r : BitVec 4, 1 ≤ r → r ≤ 3 → (s.g r).st = .full) ∧
    (∀ r : BitVec 2, s.mBusy r = false) ∧ (∀ r : BitVec 3, s.wBusy r = false) ∧ bfld s.cur.ssp 18 3 * 8 = 0x100 ∧ bfld s.cur.ssp 50 35 * 8 = 0xE8 ∧
    s.spLd 0xE8 24 = true ∧ bfld (sS 0x100 0xF0).cur.ssp 50 35 * 8 = 0xF0 ∧ (sS 0x7_8008 0).spLd (0x7_8008 - 8) 16 = false ∧
    bfld (sS 0x7_8008 0).cur.ssp 18 3 * 8 = 0x7_8008 := by
  refine ⟨by decide, by decide, by decide, by decide, ?_⟩
  simp only [State.clearOfAcq, State.clearOfRel, Tile.Canon, Rising]; decide +kernel
theorem wit_PopmRestoresRegisters :
    (Instr.popm 1 3 .g).wellFormed = true ∧ (Instr.popm 0 1 .w).wellFormed = true ∧
    let s := sS 0x100 0
    s.clearOfAcq ∧ (∀ r : BitVec 4, 1 ≤ r → r ≤ 3 → s.takes r) ∧ (∀ r : BitVec 2, s.mBusy r = false) ∧ (∀ r : BitVec 3, s.wBusy r = false) ∧
    s.spLd 0x100 24 = true ∧ bfld s.cur.ssp 18 3 * 8 % 64 = 0 ∧ (∀ j < 3, s.spMarked (0x100 + j * 8) 8 = false) ∧
    (sS 0x7_7FF8 0).spLd 0x7_7FF8 16 = false ∧ (sS 0x7_7FF8 0).spLd 0x7_7FF8 8 = true := by
  refine ⟨by decide, by decide, ?_⟩
  simp only [State.clearOfAcq, State.takes]; decide +kernel
theorem wit_SysrReadsTheRegister : sP.takes 1 ∧ sP.takes 3 ∧ (sP.region sP.curLt.key).isSome = true := by
  simp only [State.takes]; decide +kernel
theorem wit_SyswWritesWritableFields : (sP.g 3).st ≠ .full ∧ sP.full 1 0x100000002 := by simp only [State.full]; decide +kernel
/-- A task that holds a trap: TCAUSE 5, TPC 4. -/
def sT : State := dev fun k => { k with tcause := 5, tpc := 4 }
theorem wit_TrapWordsAndEret : bfld (dev.cur.tcause) 7 0 = 0 ∧ bfld sT.cur.tcause 7 0 ≠ 0 ∧ bfld sT.cur.tpc 12 0 < sT.limit := by decide +kernel
theorem wit_TrapSavesAndReports :
    dev.ctx.unit = .task ∧ dev.ctx.slot ≠ 15 ∧ (dev.part dev.curPart).fq.length < 64 ∧ bfld dev.cur.tcause 7 0 = 0 ∧ dev.curLt.placed = true ∧
    sT.ctx.unit = .task ∧ bfld sT.cur.tcause 7 0 ≠ 0 ∧ (sT.part sT.curPart).fq.length < 64 := by decide +kernel
theorem wit_TrapWordsAreRefused :
    fld 0x58840000 31 27 = 0x0B ∧ fld 0x58840000 26 22 = 2 ∧ fld 0x58840000 21 18 ≠ 0 ∧ fld 0x58820000 17 17 ≠ 0 ∧ fld 0x58C00001 26 22 = 3 ∧
    fld 0x58C00001 6 0 ≠ 0 ∧ fld 0x59000002 26 22 = 4 ∧ fld 0x59000002 6 1 ≠ 0 := by decide
/-- A memory operation on its way, of tile 0 and slot 0. -/
def op0 (k : OpKind) (f : Op → Op := id) : Op :=
  f { id := 1, tile := 0, slot := 0, phase := 0, part := 1, rkey := 1, va := 0, d := some 4, word := 0, mark := 0, kind := k }
theorem wit_FencesAwaitEarlierOperations :
    (let s : State := { dev with ops := [op0 (.atomic .add 1 0)] }; s.opsOut false = true ∧ s.opsOut true = true) ∧
    (let s : State := { dev with ops := [op0 (.frame (.pin 1) false)] }; s.opsOut false = true ∧ s.opsOut true = false) ∧ dev.opsOut false = false := by
  decide +kernel

/-! ## Token instructions -/

/-- Tokens at i0, i1 and i2, i3 with a control head, i4 empty, i5 bound by a ring; o1 full, o3 bound; g1 full, g4 pending; w7 to be
written by an instruction in flight. -/
def sV : State := dev (gset [(1, 3, .full), (4, 0, .pending)])
  fun y => mat (fun m => { m with rings := vset m.rings 1 { size := 4, feed := some 5 } })
    (outq 1 (List.replicate 4 .reserved) (inq 3 [{ tok 1 with kind := .control }] (inq 2 [tok 3] (inq 1 [{ tok 2 with poison := 1 }] (inq 0 [tok 1]
      { y with eng := vset y.eng 0 { wait := [cmdO 3] }, vpipe := [{ slot := 0, dst := .w 7, tok := {}, mval := 0 }] })))))
theorem wit_FiringRuleOfTokenWords :
    sV.clearOfAcq ∧ sV.wBusy (codeNo 7) = true ∧ isPort 7 = false ∧ sV.wBusy (codeNo 0) = false ∧ isPort 13 = true ∧ sV.bound false (codeNo 13) = true ∧
    isPort 11 = true ∧ sV.bound true (codeNo 11) = true ∧ sV.bound false (codeNo 8) = false ∧ sV.head (codeNo 12) = none ∧ sV.bound false (codeNo 12) = false ∧
    sV.bound true (codeNo 9) = false ∧ sV.space (codeNo 9) = false ∧ sV.bound false (codeNo 11) = false ∧
    ((sV.head (codeNo 11)).map (·.kind)) = some .control ∧ sV.space (codeNo 8) = true ∧ sV.bound true (codeNo 8) = false := by
  simp only [State.clearOfAcq]; decide +kernel
/-- The firing rule is met with ports and registers as sources, a port and a register as destination. -/
theorem wit_fires : sV.fires [8, 9] (some 8) [] true ∧ sV.fires [8, 9] (some 2) [1] true ∧ sV.fires [8, 9, 10] (some 8) [] true ∧ sV.fires [0, 1] (some 2) [] true ∧
    sV.fires [8] (some 8) [1] true ∧ sV.fires [8] none [1] true ∧ sV.fires [11] (some 8) [] false ∧ sV.fires [11] none [1] false ∧
    sV.fires [] (some 2) [] false ∧ sV.fires [8, 8] (some 8) [] true := by
  refine ⟨?_, ?_, ?_, ?_, ?_, ?_, ?_, ?_, ?_, ?_⟩ <;> exact fires_of (by decide +kernel)
/-- Each kind of destination is met: a port, a register m, a register g. -/
theorem wit_TokenStackAndTrapWordsComplete :
    (∃ p ∈ tokenForms 8 8 9 10 1 none .f32 .f32 1 0 0 false 0 .replace .data .y .mode, p.instr = .vAdd 8 8 9 none .f32 ∧ p.instr.wellFormed = true ∧ p.fires sV) ∧
    (∃ p ∈ tokenForms 8 8 9 10 1 none .f32 .f32 1 0 0 false 0 .replace .data .y .mode, p.instr = .vGetv 1 8 false ∧ p.instr.wellFormed = true ∧ p.fires sV) ∧
    (∃ p ∈ tokenForms 3 8 9 10 1 none .f32 .f32 1 0 0 false 0 .replace .data .y .mode, p.instr = .vExt 3 8 0 ∧ p.instr.wellFormed = true ∧ p.fires sV) ∧
    (let s := sS 0x100 0xE8; s.spLd 0xE8 24 = true ∧ s.spSt 0xE8 24 = true ∧ bfld s.cur.ssp 50 35 * 8 + 24 ≤ bfld s.cur.ssp 18 3 * 8 ∧
      bfld s.cur.ssp 18 3 * 8 - 24 = 0xE8) ∧
    bfld sT.cur.tcause 7 0 ≠ 0 := by
  refine ⟨⟨⟨.vAdd 8 8 9 none .f32, [8, 9], .tok 8, [], none, true, false⟩, by decide +kernel, rfl, by decide +kernel, ?_⟩, ⟨⟨.vGetv 1 8 false, [8], .m 1, [1], none, false, false⟩, by decide +kernel, rfl, by decide +kernel, ?_⟩,
    ⟨⟨.vExt 3 8 0, [8], .g 3, [], none, false, false⟩, by decide +kernel, rfl, by decide +kernel, ?_⟩, by decide +kernel⟩
  · exact ⟨⟨by decide, by intro r h; cases h⟩, fires_of (by decide +kernel)⟩
  · exact ⟨⟨by decide, by intro r h; cases h⟩, fires_of (by decide +kernel)⟩
  · exact ⟨⟨by decide, by intro r h; cases h; simp only [State.takes]; decide +kernel⟩, fires_of (by decide +kernel)⟩
theorem wit_FloatTokenWordsAreElementwise :
    (Instr.vAdd 8 8 9 none .f32).wellFormed = true ∧ sV.fires [8, 9] (some 8) [] true ∧
    (Instr.vMul 2 8 9 (some 1) .bf16).wellFormed = true ∧ sV.fires [8, 9] (some 2) [1] true ∧
    (Instr.vFma 8 8 9 10 .bf16).wellFormed = true ∧ sV.fires [8, 9, 10] (some 8) [] true :=
  ⟨by decide, wit_fires.1, by decide, wit_fires.2.1, by decide, wit_fires.2.2.1⟩
theorem wit_ScaleAndSpecialFunctionWords :
    (Instr.vScl 8 8 9 none .f32).wellFormed = true ∧ sV.fires [8, 9] (some 8) [] true ∧
    (∀ i ∈ [Instr.vRcp 8 8 (some 1) .f32, .vRsq 8 8 (some 1) .f32, .vExp2 8 8 (some 1) .f32, .vLog2 8 8 (some 1) .f32, .vTanh 8 8 (some 1) .f32,
      .vErf 8 8 (some 1) .f32], i.wellFormed = true) ∧ sV.fires [8] (some 8) [1] true :=
  ⟨by decide, wit_fires.1, by decide, wit_fires.2.2.2.2.1⟩
theorem wit_BitTokenWordsAreElementwise :
    (∀ i ∈ [Instr.vAbs 8 8 (some 1) .f32, .vNeg 8 8 (some 1) .bf16], i.wellFormed = true) ∧ sV.fires [8] (some 8) [1] true ∧
    (∀ i ∈ [Instr.vCeq 8 8 9 none .f32, .vCun 8 8 9 none .bf16, .vIadd 8 8 9 none .i32, .vImul 8 8 9 none .i16, .vAdds 8 8 9 none .i8, .vShl 8 8 9 none .i32,
      .vIltu 8 8 9 none .i8], i.wellFormed = true) ∧ sV.fires [8, 9] (some 8) [] true ∧
    (Instr.vSel 8 8 9 10 .i32).wellFormed = true ∧ sV.fires [8, 9, 10] (some 8) [] true :=
  ⟨by decide, wit_fires.2.2.2.2.1, by decide, wit_fires.1, by decide, wit_fires.2.2.1⟩
theorem wit_RoundingKeepsRepresentableValues :
    ∀ f ∈ [fF32, fBF16, fF16, fE4M3, fE5M2], 1 < 2 ^ f.w ∧ f.isNan 1 = false ∧ f.val 1 ≠ .inf true ∧ f.val 1 ≠ .inf false := by decide +kernel
theorem wit_ConvertWords :
    (Instr.vCvt 8 8 .f32 true 1 .bf16).wellFormed = true ∧ (Instr.vCvt 8 8 .e4m3 false 3 .f32).wellFormed = true ∧ sV.fires [8] (some 8) [] true ∧
    512 / etWidth .f32 ≤ 512 / etWidth .bf16 ∧ 512 / etWidth .f32 < 512 / etWidth .e4m3 ∧
    (Instr.vCvtSr 8 8 9 true .f32 .e4m3).wellFormed = true ∧ sV.fires [8, 9] (some 8) [] true :=
  ⟨by decide, by decide, fires_of (by decide +kernel), by decide, by decide, by decide, wit_fires.1⟩
theorem wit_PackAndUnpackWords :
    (Instr.vPack 8 8 9 none .bf16).wellFormed = true ∧ sV.fires [8, 9] (some 8) [] true ∧
    (∀ i ∈ [Instr.vUnpkLo 8 8 (some 1) .i8, .vUnpkHi 8 8 (some 1) .bf16], i.wellFormed = true) ∧ sV.fires [8] (some 8) [1] true :=
  ⟨by decide, wit_fires.1, by decide, wit_fires.2.2.2.2.1⟩
theorem wit_BlockQuantisationWords :
    (Instr.vQblk 8 8 (some 9) 0 .e4m3).wellFormed = true ∧ sV.fires [8, 9] (some 8) [] true ∧ (Instr.vQblk 8 8 none 1 .i8).wellFormed = true ∧
    (Instr.vDqblk 8 8 true .e4m3 .f32).wellFormed = true ∧ sV.fires [8] (some 8) [] true ∧
    (sV.tok 8).val 8 = true ∧ (∃ j < 32, (sV.tok 8).val (j / 2) = true) :=
  ⟨by decide, wit_fires.1, by decide, by decide, fires_of (by decide +kernel), by decide +kernel, by decide +kernel⟩
theorem wit_ReductionWords :
    (∀ i ∈ [Instr.vRsum 8 8 (some 1) .f32, .vRmax 8 8 (some 1) .i32, .vRmin 8 8 (some 1) .f32], i.wellFormed = true) ∧ sV.fires [8] (some 8) [1] true ∧
    (Instr.vRsumG 1 8 (some 1) .i32).wellFormed = true ∧ sV.takes 1 ∧ sV.fires [8] none [1] true :=
  ⟨by decide, wit_fires.2.2.2.2.1, by decide, by unfold State.takes; decide +kernel, wit_fires.2.2.2.2.2.1⟩
theorem wit_ReductionTreePairsNeighbours : [some 1, none, none, some (2 : Nat)].length % 2 = 0 ∧ 2 * 1 + 1 < 4 ∧ [some 1, none, none, some (2 : Nat)].length = 2 ^ 2 := by decide
theorem wit_ScanAndPermuteWords : sV.fires [8] (some 8) [1] true ∧ sV.fires [8, 9] (some 8) [] true ∧ sV.fires [8] (some 8) [] true :=
  ⟨wit_fires.2.2.2.2.1, wit_fires.1, fires_of (by decide +kernel)⟩
theorem wit_LaneTagAndValidControl :
    sV.fires [8 + (3 : BitVec 3).setWidth 4] (some ((2 : BitVec 3).setWidth 4)) [] false ∧ sV.fires [11] (some 8) [1] false ∧ sV.fires [11] none [1] false ∧
    sV.full 1 3 ∧ sV.fires [11] (some 8) [] false ∧ sV.fires [] (some 2) [] false ∧ sV.takes 1 ∧ sV.fires [11] none [] false :=
  ⟨fires_of (by decide +kernel), fires_of (by decide +kernel), wit_fires.2.2.2.2.2.2.2.1, by unfold State.full; decide +kernel, wit_fires.2.2.2.2.2.2.1,
    wit_fires.2.2.2.2.2.2.2.2.1, by unfold State.takes; decide +kernel, fires_of (by decide +kernel)⟩
theorem wit_VideoWords :
    sV.fires [8, 9] (some 8) [] true ∧ sV.full 1 3 ∧ sV.fires [8] (some 8) [] true ∧
    (∀ j < 16, (sV.tok 8).val j = true) ∧ recLog2w (tok 0) = 0 ∧ recLog2w (tok (4 * 2 ^ 32)) ≠ 0 ∧ (sV.region sV.curLt.key).isSome = true :=
  ⟨wit_fires.1, by unfold State.full; decide +kernel, fires_of (by decide +kernel), by decide +kernel, by decide +kernel, by decide +kernel, by decide +kernel⟩
/-- Results in flight: to w7, to m1, to the slot reserved at o1; deliveries to g4, one poisoned. -/
def sF (d : VDst) : State := dev (gset [(4, 0, .pending)])
  fun y => { outq 1 [.reserved] y with vpipe := [{ slot := 0, dst := d, tok := tok 9, mval := 3 }]
                                       ll := [⟨0, 4, 17, none, 2⟩, ⟨0, 4, 17, some 6, 2⟩] }
theorem wit_TokenResultsArrive :
    ((sF (.w 7)).tile 0).vpipe ≠ [] ∧ ((sF (.m 1)).tile 0).vpipe.map (·.dst) = [.m 1] ∧ ((sF (.o 1)).tile 0).vpipe.map (·.dst) = [.o 1] ∧
    ((sF (.w 7)).tile 0).ll[0]?.map (·.pois) = some none ∧ ((sF (.w 7)).tile 0).ll[1]?.map (·.pois) = some (some 6) := by decide +kernel


/-! ## The matrix unit -/

/-- Slot 0's matrix state with an item in hand: tile 0 a sum tile, tile 1 a ranked list of 4; ring 0 of two entries with a complete one,
ring 1 of SIZE 0, ring 2 without a complete entry; s.active of type E4M3; routes 1 and 2; tokens at i0. g1 = 0x40, g2 = 0x41, g3 = 0x78000, g5 = 1, g6 = 3,
g7 = 0x0002_0040, g4 pending. -/
def sM (u : UnitKind) (it : List MItem) : State := unit u (dev (gset [(1, 0x40, .full), (2, 0x41, .full), (3, 0x78000, .full), (4, 0, .pending), (5, 1, .full),
    (6, 3, .full), (7, 0x20040, .full), (8, 0xFFFFF, .full)])
  fun y => let z := inq 0 [tok 5] (mat (fun m => { m with
      acc := vset m.acc 1 (.ranked 4 (Vector.replicate 16 { ents := [⟨5, 1, false⟩] }))
      rings := vset (vset m.rings 0 { base := 4, size := 2, tail := 24, vbits := List.replicate 24 0xFFFF }) 2 { base := 64, size := 1, tail := 23 }
      act := { m.act with ty := .e4m3 } }) y)
    let x := vget z.ph 0 {}
    { z with mq := it, ph := vset z.ph 0 { x with route := vset x.route 1 (some 2) } })
theorem wit_InlineMatrixWordsGoThroughTheUnit :
    (∀ it ∈ [[], [item true]], let s := sM .task it; s.ctx.unit = .task ∧ s.clearOfAcq ∧ (s.g 1).st = .full ∧ s.takes 1 ∧
      (∀ q, s.mBusy q = false) ∧ (∀ q, s.wBusy q = false)) ∧ ((sM .task []).tile 0).mq = [] ∧ ((sM .task [item true]).tile 0).mq ≠ [] := by
  simp only [State.clearOfAcq, State.takes]; decide +kernel
theorem wit_MatrixProductsTakeAnEntry :
    (∀ u ∈ [UnitKind.minl, .mrun], let s := sM u [item true]; s.unitStarts ∧ s.ownsAcc 0 ∧ s.ownsRing 0 ∧ s.hasEntry 0 ∧ s.mBusy 1 = false ∧
      (let v := s.modMat (·.marks 0)
       (v.acc 0).isSum = true ∧ (v.acc 1).isSum = false ∧ v.mat.act.ty = bType .e4m3 ∧ v.mat.act.ty ≠ bType .bf16) ∧
      s.full 0 0 ∧ s.full 5 1 ∧ s.full 6 3 ∧ (1 : Nat) < (3 : DWord).toNat) := by
  simp only [State.unitStarts, State.ownsAcc, State.ownsRing, State.hasEntry, State.full]; decide +kernel
theorem wit_ProductElementsRoundOneSum :
    let q := (sM .minl [item true]).ring 0
    (∀ r < 16, q.rowv r = true) ∧ ((List.range 12).filter fun j => !(5 : Nat).testBit j) ≠ [] ∧ (vget (sM .minl [item true]).mat.rings 2 {}).rowv 15 = false ∧
    ((List.range 12).filter fun j => !(4095 : Nat).testBit j) = [] := by decide +kernel
theorem wit_GroupSumIsExactOnItsGrid :
    (∃ t ∈ [(false, 3, (0 : Int)), (true, 1, -39)], t.2.1 ≠ 0 ∧ (bitLen t.2.1 : Int) - 1 + t.2.2 = 1) ∧
    (∀ t ∈ [(false, 3, (0 : Int)), (true, 1, -39)], t.2.1 ≠ 0 → (bitLen t.2.1 : Int) - 1 + t.2.2 ≤ 1 ∧ 1 - 40 ≤ t.2.2) := by decide
theorem wit_MatrixMovesInOneTurn :
    let s := sM .minl [item false]
    s.unitStarts ∧ s.ownsAcc 0 ∧ s.ownsAcc 1 ∧ s.full 1 0x40 ∧ s.full 2 0x41 ∧ s.full 3 0x78000 ∧ s.spLd 0x78000 1536 = false ∧ s.spLd 0x41 448 = true ∧
    s.spLd 0x40 1536 = true ∧ s.spLd 0x40 1024 = true ∧ s.spSt 0x40 1024 = true ∧ s.acc 0 = .sum 0 0 ∧ (s.acc 1).isSum = false := by
  simp only [State.unitStarts, State.ownsAcc, State.full]; decide +kernel
theorem canon_sM : Tile.Canon ((sM .minl [item false]).tile 0) := by simp only [Tile.Canon, Rising]; decide +kernel
theorem wit_MatrixTokensTurnByTurn :
    ((sM .mrun [item true]).unitStarts ∧ (sM .mrun [item true]).dataHead 0 (tok 5)) ∧
    (let q : MProg := { stage := 1, n := 23 }; (sM .mrun [item true q]).unitGoesOn q ∧ q.stage = 1 ∧ (sM .mrun [item true q]).dataHead 0 (tok 5) ∧ q.n < 24 ∧ q.n + 1 = 24) ∧
    (let s := sM .minl [item false]; s.unitStarts ∧ s.ownsAcc 0 ∧ s.full 2 0x41 ∧ (s.acc 0).isSum = true ∧ (s.acc 1).isSum = false ∧
      vget s.curLt.route (0x41 % 8) none = some 2 ∧ s.bound true 2 = false ∧ s.full 1 0x40 ∧ vget s.curLt.route (0x40 % 8) none = none) ∧
    (let q : MProg := { stage := 1, n := 15, total := 2 }; let s := sM .minl [item false q]
      s.unitGoesOn q ∧ q.total = (2 : BitVec 3).toNat ∧ s.ownsAcc 0 ∧ q.n < 16 ∧ q.n + 1 = 16 ∧ s.space 2 = true) ∧
    (let q : MProg := { stage := 1, n := 6, total := 2 }; let s := sM .minl [item false q]; s.unitGoesOn q ∧ q.n < 8 ∧ q.n + 1 < 8) := by
  simp only [State.unitStarts, State.unitGoesOn, State.dataHead, State.ownsAcc, State.full]; decide +kernel
/-- A group table at 0x40: one group of two entries in all, its offset 1. -/
def sGrp (it : List MItem) : State := (sM .mrun it).modTile 0 fun y => { y with spad := [(0x40, 1), (0x44, 2), (0x48, 1)] }
theorem wit_GroupedProductChecksAndEnds :
    (let s := sGrp [item true]
     s.unitStarts ∧ s.ownsAcc 0 ∧ s.ownsRing 0 ∧ s.full 1 0x40 ∧ s.mBusy 1 = false ∧ s.spLd 0x40 8 = true ∧ s.spN 0x40 4 ≤ 255 ∧
      s.spLd 0x40 (4 * (s.spN 0x40 4 + 2)) = true) ∧
    (let s := (sGrp [item true]).modTile 0 fun y => { y with spad := [(0x41, 1)] }; 255 < s.spN 0x40 4) ∧
    (let q : MProg := { stage := 1, grp := 0, total := 1, off := 0 }; let s := sGrp [item true q]
     s.unitGoesOn q ∧ s.ownsAcc 0 ∧ s.ownsRing 0 ∧ (s.g 1).val = 0x40 ∧ q.grp ≠ q.total ∧ (q.off : Int) ≤ sgn 32 (s.spN (0x40 + 4 * 2) 4) ∧
      sgn 32 (s.spN (0x40 + 4 * 2) 4) ≤ sgn 32 (s.spN (0x40 + 4) 4)) ∧
    (let q : MProg := { stage := 1, grp := 1, total := 1, off := 1 }; (sGrp [item true q]).unitGoesOn q ∧ q.grp = q.total) ∧
    (let q : MProg := { stage := 1, grp := 0, total := 1, off := 2 }; (sGrp [item true q]).unitGoesOn q ∧ sgn 32 ((sGrp [item true q]).spN (0x40 + 8) 4) < q.off) ∧
    (let q : MProg := { stage := 5, grp := 1, total := 1, off := 1 }; (sGrp [item true q]).unitGoesOn q ∧ (q.off : Int) < sgn 32 ((sGrp [item true q]).spN (0x40 + 4) 4) ∧
      (sGrp [item true q]).hasEntry 0) ∧
    (let q : MProg := { stage := 5, grp := 1, total := 1, off := 2 }; (sGrp [item true q]).unitGoesOn q ∧ sgn 32 ((sGrp [item true q]).spN (0x40 + 4) 4) ≤ q.off) := by
  simp only [State.unitStarts, State.unitGoesOn, State.ownsRing, State.hasEntry, State.ownsAcc, State.full]; decide +kernel

/-! ## Ranked lists and rings -/

theorem wit_RankedInsertKeepsTheBest :
    ([⟨5, 1, false⟩, ⟨5, 2, false⟩] : List REnt).Pairwise (fun a b => above b a = false) := by decide
theorem wit_ThresholdIsTheLastKeptValue :
    let r : RRow := { ents := [⟨5, 1, false⟩, ⟨4, 2, false⟩] }; r.ents.length = 2 ∧ r.ents.getLast? = some ⟨4, 2, false⟩ ∧ r.ents.length ≠ 3 := by decide
theorem fires_sM : (sM .minl [item false]).fires [0, 1] none [] true ∧ (sM .minl [item false]).fires [8, 0] none [] true ∧ (sM .minl [item false]).fires [] (some 8) [] false := by
  refine ⟨?_, ?_, ?_⟩ <;> exact fires_of (by decide +kernel)
theorem wit_RankedListWords :
    (∃ k rows, (sM .minl [item false]).acc 1 = .ranked k rows) ∧ (∃ k rows, (sM .mrun [item true]).acc 1 = .ranked k rows) ∧
    (let s := sM .minl [item false]; s.unitStarts ∧ s.ownsAcc 1 ∧ (s.acc 0).isSum = true ∧ s.full 1 0x40 ∧ s.takes 1 ∧ s.ctx.unit = .minl ∧
      (sM .mrun [item true]).unitStarts ∧ (sM .mrun [item true]).takes 1 ∧ (sM .mrun [item true]).ctx.unit = .mrun) ∧
    (sM .minl [item false]).fires [8, 0] none [] true ∧ (sM .minl [item false]).fires [] (some 8) [] false := by
  refine ⟨⟨_, _, rfl⟩, ⟨_, _, rfl⟩, ?_, fires_sM.2⟩
  simp only [State.unitStarts, State.ownsAcc, State.full, State.takes]; decide +kernel
theorem wit_RankedOutPushesARow :
    (∃ k rows, (sM .minl [item false]).acc 1 = .ranked k rows) ∧
    (let s := sM .minl [item false]; s.ownsAcc 1 ∧ s.unitStarts ∧ s.bound true 2 = false ∧ s.bound true 3 = false ∧ s.outLen 0 0 0 2 + 1 ≤ 4) ∧
    (let q : MProg := { stage := 1, n := 15 }; let s := sM .minl [item false q]; s.unitGoesOn q ∧ q.n < 16 ∧ q.n + 1 = 16) ∧
    let s := (sM .minl [item false]).modTile 0 (outq 2 (List.replicate 4 .reserved)); s.unitStarts ∧ ¬ s.outLen s.ctx.tile s.ctx.slot s.cur.phase 2 + 1 ≤ 4 := by
  refine ⟨⟨_, _, rfl⟩, ?_⟩
  simp only [State.unitStarts, State.unitGoesOn, State.ownsAcc]; decide +kernel
theorem wit_RingControlWords :
    (let s := sM .minl [item false]
     s.unitStarts ∧ s.ringUsed 0 = false ∧ s.ownsRing 0 ∧ s.full 7 0x20040 ∧ (s.rcTask = true → (0 : BitVec 2) = 3) ∧ bfld (0x20040 : DWord) 12 0 = 64 ∧
      bfld (0x20040 : DWord) 23 16 = 2 ∧ 64 * 64 + 1536 * 2 ≤ shareBytes (s.tile s.ctx.tile).fold ∧ s.full 5 1 ∧ bfld (1 : DWord) 23 16 = 0 ∧
      s.takes 1 ∧ s.ctx.unit = .minl ∧ (s.rcTask = false ∧ (s.ring 1).size = 0) ∧ s.full 0 0 ∧ s.hasEntry 0 ∧ s.full 6 3 ∧ (1 : Nat) < (3 : DWord).toNat) ∧
    let s := (sM .minl [item false]).setEngine 0 (.eng 0) { cur := some { cmd := { cmdO 0 with dest := .ring 0 }, pcb := Vector.replicate 8 0 } }
    s.unitStarts ∧ s.ownsRing 0 ∧ s.ringUsed 0 = true := by
  simp only [State.unitStarts, State.ownsRing, State.hasEntry, State.full, State.takes]; decide +kernel
/-- Ring 0 feeds from i0, which has a head. -/
def sFeed (x : Token) (tail : BitVec 32) : State := dev id fun y => inq 0 [x] (mat (fun m => { m with rings := vset m.rings 0 { size := 1, feed := some 0, tail := tail } }) y)
theorem wit_RingFeedTakesTheHead :
    let s := sFeed (tok 1) 23
    (vget (s.lt 0 0).mat.rings 0 {}).feed = some 0 ∧ s.headOf 0 0 0 0 = some (tok 1) ∧ s.regionRuns (s.lt 0 0).key = true ∧
    (vget (s.lt 0 0).mat.rings 0 {}).size = 1 ∧ (vget (s.lt 0 0).mat.rings 0 {}).marks = [] ∧ (vget (s.lt 0 0).mat.rings 0 {}).tail = 23 ∧
    (vget ((sFeed (tok 1) 24).lt 0 0).mat.rings 0 {}).tail = 24 ∧ ((sFeed { tok 1 with kind := .eos } 5).headOf 0 0 0 0).map (·.kind) = some .eos := by
  decide +kernel

/-! ## Stream commands and memory operations at issue -/

/-- Two commands at engine 1, ring 1 of SIZE 0, ring 2 and i2 bound by a feed; g1 = 3, g4 pending. -/
def sC (n : Nat) (u : UnitKind) : State := unit u (dev (gset [(1, 3, .full), (4, 0, .pending)])
  fun y => mat (fun m => { m with rings := vset (vset m.rings 0 { size := 1 }) 2 { size := 1, feed := some 2 } })
    { y with eng := vset y.eng 1 { wait := List.replicate n (cmdO 7) }, sq := if u = .srun then [⟨0, 0, 0, 1, 0, none⟩] else [] })
theorem wit_StreamCommandsJoinTheirQueue :
    (∀ u ∈ [UnitKind.task, .srun], ∀ n ∈ [1, 2], let s := sC n u
      s.clearOfAcq ∧ (s.ctx.unit ≠ .task ∨ (s.tile s.ctx.tile).sq = []) ∧ s.full 1 3 ∧ ((3 : DWord).extractLsb' 0 32) = 3 ∧
      s.spLd (0x1DFF * 64) 64 = true ∧ s.spLd (0x1E00 * 64) 64 = false ∧ s.endBad true (.port 1) = none ∧ s.endBad true (.ring 0) = none ∧
      (s.endBad true (.ring 1)).isSome = true ∧ (s.endBad true (.ring 2)).isSome = true ∧ (s.endBad false (.port 2)).isSome = true ∧
      s.endBad false (.port 0) = none ∧ (s.engine s.ctx.tile (s.engId 1)).cmds.length = n) := by
  simp only [State.clearOfAcq, State.full]; decide +kernel
theorem wit_StreamControlWords :
    (let s := sC 2 .task; s.barWaits 0 0 0 s.strMark true = false ∧ s.ctx.unit = .task ∧ (s.tile 0).sq = [] ∧ s.takes 1 ∧ (sC 1 .srun).ctx.unit = .srun) ∧
    (let s := (sC 2 .task).modTile 0 fun y => { y with seq := 9 }; s.barWaits s.ctx.tile s.ctx.slot s.cur.phase s.strMark (s.ctx.unit == .task) = true) := by
  simp only [State.takes]; decide +kernel
/-- n operations wait in the port. -/
def sQ (n : Nat) : State := dev (gset [(1, 0x40, .full), (2, 0x41, .full), (3, 0x78000, .full), (4, 0, .pending), (5, 0x80, .full), (6, 0x140, .full), (7, 0x100, .full)])
  fun y => { y with memq := List.range n, spad := [(0x50, 8), (0x53, 2), (0x80, 0xFF), (0x110, 1), (0x11C, 2), (0x124, 1)] }
theorem wit_MemoryOperationsEnterThePort : (sQ 16).memqFull = true ∧ (sQ 15).memqFull = false := by decide +kernel
theorem wit_FrameAndAtomicWordsEnterThePort :
    let s := sQ 15; s.ctx.slot ≠ 15 ∧ s.clearOfAcq ∧ s.memqFull = false ∧ s.full 1 0x40 ∧ s.takes 2 ∧ s.full 2 0x41 := by
  simp only [State.clearOfAcq, State.full, State.takes]; decide +kernel
theorem wit_DescriptorsAreCheckedAtIssue :
    let s := sQ 15
    s.ctx.slot ≠ 15 ∧ s.clearOfAcq ∧ s.full 1 0x40 ∧ s.full 2 0x41 ∧ s.full 3 0x78000 ∧ s.spLd 0x78000 64 = false ∧ s.spLd 0x41 128 = true ∧ 0x41 % 64 ≠ 0 ∧
    s.spLd 0x40 128 = true ∧ recipeOk (s.spWords 0x80 16) = false ∧ recipeOk (s.spWords 0x140 16) = true ∧ s.memqFull = false ∧ s.full 5 0x80 ∧ s.full 6 0x140 ∧
    cardOk (s.spWords 0x40 8) = true ∧ cardOk (s.spWords 0x140 8) = false ∧ s.cardsOut 0 < 16 ∧ collOk .send (s.spWords 0x40 8) = false ∧ s.full 7 0x100 ∧
    (∀ op ∈ [ClOp.gather, .scatter, .reduce, .send, .recv], collOk op (s.spWords 0x100 8) = true) := by
  simp only [State.clearOfAcq, State.full]; decide +kernel


/-! ## Stream engines at work -/

/-- A run of a command at its start. -/
def run0 (c : Cmd) : CmdRun := { cmd := c, pcb := Vector.replicate 8 0 }
/-- Engine 0 of tile 0 set. -/
def sE (g : Engine) (y : Tile → Tile := id) : State := dev id fun x => y { x with eng := vset x.eng 0 g }
theorem wit_CommandsStartAndComplete :
    (∀ n ∈ [0, 1], let c := { cmdO 3 with pcb := n }; let s := sE { wait := [c] } fun y => { y with spad := [(71, 0xF0)] }
      s.engRuns 0 c = true ∧ s.startable 0 c = true ∧ c.kind ≠ .prism ∧ c.pid = none ∧
      pcbOk c (Vector.ofFn fun (i : Fin 8) => w64 (leNat (memRead (s.tile 0).spad (spAddr (s.tile 0).fold c.phase (c.pcb * 64) + 8 * i.val) 8))) = (n == 0)) ∧
    (let s := sE { back := [run0 (cmdO 3)] }; (s.engine 0 (.eng 0)).cur = none ∧ (s.engine 0 (.eng 0)).back ≠ [] ∧ s.engRuns 0 (cmdO 3) = true) ∧
    (let r := { run0 (cmdO 3) with next := 1, head := 1 }; let s := sE { cur := some r }
     (s.engine 0 (.eng 0)).stop = none ∧ s.engRuns 0 r.cmd = true ∧ r.finished = true) := by decide +kernel
/-- What an `Except` holds. -/
def okOf {α : Type} : Except Flt α → Option α | .ok y => some y | .error _ => none
def errOf {α : Type} : Except Flt α → Option Flt | .ok _ => none | .error g => some g
theorem ok_of {α : Type} {x : Except Flt α} {v : α} (h : okOf x = some v) : x = .ok v := by cases x <;> simp_all [okOf]
theorem err_of {α : Type} {x : Except Flt α} {f : Flt} (h : errOf x = some f) : x = .error f := by cases x <;> simp_all [errOf]
/-- A command bound to program 2 of the partition, its slot's map and program. -/
def sPr (m : BitVec 16) (pr : Option (List Byte)) (k : CmdKind) : State :=
  { sE { wait := [{ cmdO 3 with kind := k, pid := some 2 }] } (fun y => { y with spad := [(71, 0xF0)] }) with prismMap := vset (Vector.replicate 8 0) 3 m, prism := vset (Vector.replicate 8 none) 3 pr }
theorem wit_CommandsStartAndComplete_prism :
    (∀ k ∈ [CmdKind.read, .prism], let c := { cmdO 3 with kind := k, pid := some 2 }; let s := sPr 0x8102 none k
      s.engRuns 0 c = true ∧ s.startable 0 c = true ∧ s.cmdPart 0 c = 1) ∧
    (sPr 0x8102 none .prism).prismSlot 1 2 = some 3 ∧ (sPr 0 none .prism).prismSlot 1 2 = none ∧
    (sPr 0 none .read).prismProg 1 2 false = .error ⟨0x24, 0⟩ ∧ (sPr 0x8102 none .read).prismProg 1 2 false = .error ⟨0x25, 0⟩ ∧
    (sPr 0x8102 (some [0, 4]) .read).prismProg 1 2 false = .error ⟨0x26, 0⟩ ∧ (sPr 0x8102 (some [0, 2]) .read).prismProg 1 2 false = .ok [0, 2] := by
  refine ⟨by decide +kernel, by decide +kernel, by decide +kernel, err_of (by decide +kernel), err_of (by decide +kernel), err_of (by decide +kernel), ok_of (by decide +kernel)⟩
theorem wit_ReadsIssueTheirElements :
    (let r := run0 (cmdO 3); let s := sE { cur := some r }
     (s.engine 0 (.eng 0)).stop = none ∧ s.engRuns 0 r.cmd = true ∧ r.cmd.kind = .read ∧ r.cmd.pid = none ∧ r.win = [] ∧ r.next < r.total ∧
      r.next / r.perTok < r.head + 64 ∧ r.takesIx 0 = false ∧ r.padded 0 = false ∧ 0 % r.esz = 0 ∧ r.first + r.win.length = 0) ∧
    (let r := { run0 (cmdO 3) with pcb := vset (Vector.replicate 8 0) 5 0x8000000008000080 }
     r.padded 0 = true ∧ r.next < r.total ∧ r.takesIx 0 = false) := by decide +kernel
/-- A read of four-byte elements, its base and displacement; an element's offset. -/
def rB (b : VAddr) (d : BitVec 32) : CmdRun := { run0 { cmdO 3 with base := b, disp := d } with pcb := vset (Vector.replicate 8 0) 4 0x4000_0000_0000_0000 }
def offB (r : CmdRun) : Int := bfld r.cmd.base 47 0 + r.cmd.disp.toInt + ((List.range 4).map fun k => (r.ctr 0 k : Int) * r.stride k).sum
theorem wit_ReadsIssueTheirElements_bad : offB (rB 0 (-1)) = -1 ∧ offB (rB 0xFFFF_FFFF_FFFF 1) = 281474976710656 ∧ offB (rB 0 2) = 2 ∧
    (rB 0 2).esz = 4 ∧ (rB 0 2).padded 0 = false ∧ (rB 0 2).next < (rB 0 2).total ∧ (rB 0 2).takesIx 0 = false := by decide +kernel
/-- A command that takes from i0. -/
def cmdI : Cmd := { cmdO 0 with kind := .write }
theorem wit_TokensLeaveAndEnterEngines :
    (let r := { run0 (cmdO 3) with next := 1, win := [{ pad := false, done := true }] }; let s := sE { cur := some r }
     s.engRuns 0 r.cmd = true ∧ r.cmd.pid = none ∧ r.cmd.kind = .read ∧ s.destRoom 0 r.cmd = true ∧ r.head * r.perTok < r.total ∧
      min r.total (r.head * r.perTok + r.perTok) ≤ r.next ∧ (∀ w ∈ r.win.take 1, w.done = true)) ∧
    (let r := { run0 { cmdO 3 with eos := true } with next := 1, head := 1 }; let s := sE { cur := some r }
     s.destRoom 0 r.cmd = true ∧ r.total ≤ r.head * r.perTok ∧ r.cmd.eos = true ∧ r.eosOut = false) ∧
    (let r := run0 cmdI; let s := sE { cur := some r } (inq 0 [tok 5])
     r.cmd.kind = .write ∧ r.cmd.dest = .port 0 ∧ (s.engine 0 (.eng 0)).stop = none ∧ r.next < r.total ∧ r.win.length < 64 ∧
      s.headOf 0 r.cmd.slot r.cmd.phase 0 = some (tok 5)) ∧
    ((sE { cur := some (run0 cmdI) } (inq 0 [{ tok 5 with kind := .eos }])).headOf 0 0 0 0).map (·.kind) = some .eos := by decide +kernel
theorem wit_TokensLeaveAndEnterEngines_waits :
    (∀ w ∈ [[], [{ pad := false, id := some 4 }]], let r := { run0 (cmdO 3) with next := w.length, win := w }; let s := sE { cur := some r }
     s.engRuns 0 r.cmd = true ∧ s.destRoom 0 r.cmd = true ∧ r.head * r.perTok < r.total ∧
      (r.next < min r.total (r.head * r.perTok + r.perTok) ∨ ∃ w ∈ r.win.take 1, w.done = false)) ∧
    (let r := run0 (cmdO 1); let s := sE { cur := some r } (outq 1 (List.replicate 4 .reserved))
     s.engRuns 0 r.cmd = true ∧ s.destRoom 0 r.cmd = false) ∧
    (let r := { run0 { cmdO 3 with kind := .syn } with next := 1, win := [{ pad := false, done := true }] }; let s := sE { cur := some r }
     s.engRuns 0 r.cmd = true ∧ r.cmd.pid = none ∧ r.tailOut = false ∧ r.total ≤ r.next ∧ ∀ w ∈ r.win, w.done = true) ∧
    (let r := run0 cmdI; r.usedUp = true) ∧
    ((sE { cur := some (run0 cmdI) } (inq 0 [{ tok 5 with kind := .control }])).headOf 0 0 0 0).map (·.kind) = some .control := by decide +kernel
/-- A Prism program: version 1, every cell a copy of nothing. -/
def prog (v : Byte) : List Byte := v :: List.replicate 383 0
theorem wit_PrismProgramIsReplacedWhole :
    (∀ v ∈ [(1 : Byte), 2],
     let r := { run0 { cmdO 0 with kind := .prism, pid := some 2 } with next := 6, win := (List.range 6).map fun i => { pad := false, done := true, data := ((prog v).drop (64 * i)).take 64 } }
     let s : State := { sE { cur := some r } with prismMap := vset (Vector.replicate 8 0) 3 0x8102 }
     (s.engine 0 (.eng 0)).stop = none ∧ s.engRuns 0 r.cmd = true ∧ 6 ≤ r.next ∧ (∀ w ∈ r.win, w.done = true) ∧
      s.prismSlot (s.cmdPart 0 r.cmd) (r.cmd.pid.getD 0) = some 3 ∧ prismOk (r.win.map (·.data)).flatten = (v == 1)) := by decide +kernel

/-! ## Memory operations at their homes -/

/-- Partition 1 with its page tables and window 0: stage 2 at 0x1_0000 and stage 1 at 0x2_0000 map the first 128 GiB as they are, the window
is of 64 pages; every MIT serves the partition; window 1 is closed; frames 0 to 15 of window 0 above 1 MiB are a versioned region. -/
def sH (f : List Op → List Op) (g : State → State := id) : State :=
  g { dev with
    hbm := [(0, 9), (2, 2), (8, 64), (0x1_0000, 5), (0x2_0000, 5), (0x3_0008, 7)]
    parts := [(1, { live := true, s2root := 0x1_0000, pooln := 4 })], share := (List.range 24).map fun m => (0x4008 + 0x200 * m, 0x1_0000_0000)
    vregs := [{ part := 1, win := 0, base := 256, count := 16, recomp := true, init := true, nospill := false }]
    ops := f [] }
/-- A state's operations are o alone. -/
def one (o : Op) : List Op → List Op := fun _ => [o]
theorem wit_PortForwardsInOrder :
    (let s := sH (one (op0 (.frame (.pin 1) false) fun o => { o with va := 0x10_0000 })) fun s => s.modTile 0 fun y => { y with memq := [1] }
     (s.tile 0).memStop = none ∧ (s.tile 0).memq = [] ++ 1 :: [] ∧ (s.op 1).map (fun o => s.regionRuns o.rkey) = some true) := by decide +kernel
/-- An atomic on 0x3_0008. -/
def atom (f : Op → Op := id) : Op := op0 (.atomic .add 1 0) fun o => f { o with va := 0x3_0008, sent := true, rel := true }
theorem wit_AtomicsAreOneStep :
    (let s := sH (one atom); s.op 1 = some atom ∧ atom.sent = true ∧ atom.stop = none ∧ atom.out = false ∧ atom.lost = none ∧ s.atBefore atom = false ∧
      s.earlierOut atom = false ∧ offOf atom.va % 8 = 0 ∧ bfld atom.va 63 48 = 0 ∧ s.vregOf 1 (winOf atom.va) (offOf atom.va) = none ∧
      s.walkServed 0 1 atom.va = true) ∧
    (∃ u, (sH (one atom)).translate 0 1 atom.va true .atv = (.ok (.hbm 0x3_0008), u) ∧ u.served 1 0x3_0008 = true ∧
      u.hbmBad 0x3_0008 8 true = false ∧ u.hbmPois 0x3_0008 = false ∧ u.undoFull 1 0x3_0008 8 = false) ∧
    (let o := atom fun o => { o with va := 0x3_0004 }; offOf o.va % 8 ≠ 0) ∧
    (let o := atom fun o => { o with va := 0x10_0000 }; (bfld o.va 63 48 = 0 ∧ ((sH (one o)).vregOf 1 (winOf o.va) (offOf o.va)).isSome = true)) ∧
    (sH (one atom) fun s => { s with share := [] }).walkServed 0 1 atom.va = false ∧
    (∃ f, (sH (one atom) fun s => { s with hbm := [] }).translate 0 1 atom.va true .atv = (.error f, { sH (one atom) fun s => { s with hbm := [] } with freeCtr := 1 })) ∧
    (let o := atom fun o => { o with id := 2 }; let s := sH (fun _ => [atom, o]); s.op 2 = some o ∧ s.atBefore o = true ∧ s.earlierOut o = true) := by
  refine ⟨by decide +kernel, ?_, by decide +kernel, by decide +kernel, by decide +kernel, ⟨⟨0x09, 5⟩, ?_⟩, by decide +kernel⟩
  · rcases translate_fresh (s := sH (one atom)) (t := 0) (p := 1) (va := atom.va) (wr := true) (r := .atv) (g := .hbm 0x3_0008)
      (e := ⟨1, 0, 3, 21, 3, 21, 3, true, 64, none⟩) (by decide +kernel) (by decide +kernel) (ok_of (by decide +kernel)) (by decide +kernel) with e | e <;>
    exact ⟨_, e, by decide +kernel⟩
  · exact translate_fresh_error (by decide +kernel) (by decide +kernel) (err_of (by decide +kernel)) (by decide +kernel)
/-- Partition 1's frame at 1 MiB, and the next. -/
def fk (n : Nat) : FrameKey := ⟨1, 0, .ofNat 36 (256 + n)⟩
/-- Version states of frame 0: `n` resident ones from 1 on, the newest in state `st`, and one open above where asked. -/
def fr (n : Nat) (st : VSt) (open_ : Bool) : State → State := fun s => { s with frames := [{ key := fk 0, newest := some n, vers :=
  ((List.range n).map fun i => { v := i + 1, st := if i + 1 = n then st else .resident, slot := if i < 3 then some i else none, pins := if i = 0 then 1 else 0 }) ++
  (if open_ then [{ v := n + 1, st := .opened }] else []) }] }
theorem wit_VersionedWriteDecision :
    ((sH id).frame (fk 0)).newest ≠ some 0xFFFF_FFFF ∧ ((sH id).frame (fk 0)).open_ = none ∧ ((sH id).frame (fk 0)).next = 1 ∧
    (((sH id).frame (fk 0)).vers.filter Ver.live).length < 8 ∧ 0 < (sH id).poolFree 1 ∧ (sH id).dropped (fk 0) 0 = false ∧
    (((sH id (fr 2 .resident true)).frame (fk 0)).open_.map (·.v)) = some 3 ∧
    8 ≤ (((sH id (fr 8 .resident false)).frame (fk 0)).vers.filter Ver.live).length ∧ ((sH id (fr 8 .resident false)).frame (fk 0)).next = 9 ∧
    ((sH id fun s => (fr 3 .resident false s).modPart 1 fun p => { p with pooln := 3 }).poolFree 1 = 0) ∧
    ((sH id (fr 2 .dropped false)).frame (fk 0)).newest = some 2 ∧ (sH id (fr 2 .dropped false)).dropped (fk 0) 2 = true ∧
    0 < (sH id (fr 2 .dropped false)).poolFree 1 := by decide +kernel
theorem wit_VersionedWriteDecision_again : (8 : Nat) = (((sH id (fr 6 .resident false)).frame (fk 0)).next) + 1 ∧ ((sH id (fr 6 .resident false)).frame (fk 0)).open_ = none := by decide +kernel
theorem wit_VersionedReadDecision :
    ((sH id).frame (fk 0)).code 5 ≤ 1 ∧ ((sH id (fr 2 .resident false)).frame (fk 0)).code 0 = 6 ∧
    (((sH id (fr 2 .resident false)).frame (fk 0)).ver 2).map (·.st) = some .resident ∧
    (((sH id (fr 2 .spilled false)).frame (fk 0)).ver 2).map (·.st) = some .spilled ∧
    (((sH id (fr 2 .dropped false)).frame (fk 0)).ver 2).map (·.st) = some .dropped := by decide +kernel
/-- An element access of engine 0. -/
def elem (ver : Option Nat) (wr : Option (List (Option (Byte × Bool)))) (waits : Bool) (va : VAddr) : Op :=
  op0 (.elem { e := .eng 0, n := 0, len := 1, ver := ver, wr := wr, waits := waits }) fun o => { o with va := va }
/-- Engine 0 runs a command whose one element is that access. -/
def sA (k : CmdKind) (o : Op) : State := sH (one o) fun s => s.setEngine 0 (.eng 0) { cur := some { run0 { cmdO 0 with kind := k } with next := 1, win := [{ pad := false, id := some 1 }] } }
theorem wit_ElementAccessesHappenAtHome :
    (∀ w ∈ [true, false], (sA .read (elem (some 0) none w 0x10_0000)).op 1 = some (elem (some 0) none w 0x10_0000) ∧
      (sA .read (elem (some 0) none w 0x10_0000)).frameBefore (elem (some 0) none w 0x10_0000) 0x10_0000 = false) ∧
    (∃ d u, readAt (sA .read (elem (some 0) none false 0x10_0000)) (elem (some 0) none false 0x10_0000) 0x10_0000 1 (some 0) = .ok d u) ∧
    (∃ u, readAt (sA .read (elem (some 5) none true 0x10_0000)) (elem (some 5) none true 0x10_0000) 0x10_0000 1 (some 5) = .wait u) ∧
    (∃ f u, readAt (sA .read (elem (some 5) none true 0)) (elem (some 5) none true 0) 0 1 (some 5) = .bad f u) ∧
    (∃ k u, writeAt (sA .write (elem (some 1) (some [some (1, false)]) false 0x10_0000)) (elem (some 1) (some [some (1, false)]) false 0x10_0000) 0x10_0000
      [some (1, false)] (some 1) [] = .ok (some k) u) ∧
    (∃ f u, writeAt (sA .write (elem (some 1) (some [some (1, false)]) false 0)) (elem (some 1) (some [some (1, false)]) false 0) 0
      [some (1, false)] (some 1) [] = .bad f u) ∧
    (∃ f u, readAt (sA .read (elem none none false 0x10_0000)) (elem none none false 0x10_0000) 0x10_0000 1 none = .bad f u) ∧
    (∃ u, writeAt (sA .write (elem (some 1) (some [some (1, false)]) true 0x10_0000)) (elem (some 1) (some [some (1, false)]) true 0x10_0000) 0x10_0000
      [some (1, false)] (some 1) [(fk 0, 1)] = .ok none u) ∧
    (∃ u, writeAt (fr 2 .resident true (sA .write (elem (some 4) (some [some (1, false)]) true 0x10_0000))) (elem (some 4) (some [some (1, false)]) true 0x10_0000)
      0x10_0000 [some (1, false)] (some 4) [] = .wait u) ∧
    (∀ o ∈ [elem (some 0) none false 0x10_0000, elem (some 1) (some [some (1, false)]) true 0x10_0000], (sA .write o).elemBefore o
      { e := .eng 0, n := 0, len := 1, ver := none, wr := some [], waits := false } = false) := by
  refine ⟨by decide +kernel, ⟨_, _, rfl⟩, ⟨_, rfl⟩, ⟨_, _, rfl⟩, ⟨_, _, rfl⟩, ⟨_, _, rfl⟩, ⟨_, _, rfl⟩, ⟨_, rfl⟩, ⟨_, rfl⟩, by decide +kernel⟩

/-- A frame operation on the frame at 1 MiB, forwarded. -/
def fop (op : FrOp) (w : Bool) : Op := op0 (.frame op w) fun o => { o with va := 0x10_0000, sent := true }
theorem wit_FrameOperationsArePerformed :
    (∀ p ∈ [(FrOp.wait 1, false), (.wait 1, true), (.wait 9, false), (.wait 0, true), (.pin 1, false), (.unpin 1, false), (.unpin 2, false), (.recl 4, false), (.recl 3, false),
        (.stat none, false), (.stat (some 1), false)],
      let o := fop p.1 p.2; let s := sH (one o) (fr 2 .resident false)
      s.op 1 = some o ∧ o.sent = true ∧ o.stop = none ∧ o.out = false ∧ o.met = false ∧ o.lost = none ∧
      (∀ n < (frameSpan o).2, s.placeBefore o (vaWith o.va (((frameSpan o).1 + n) * 4096 : Nat)) 4096 true = false) ∧ s.frameServed (frameOf o.part o.va) = true ∧ s.winServed o.part o.va = true ∧
      offOf o.va % 4096 = 0 ∧ (s.vregOf o.part (winOf o.va) (offOf o.va)).isSome = true ∧ s.defers o.rkey = false ∧ frameOf o.part o.va = fk 0) ∧
    (∀ w : Bool, let o := { fop (.wait 1) w with met := true }; let s := sH (one o)
      s.op 1 = some o ∧ o.sent = true ∧ o.stop = none ∧ o.out = false ∧ o.met = true) ∧
    (∃ o s, s = sH (one o) (fr 2 .resident false) ∧ o = fop (.pin 1) false ∧ s.frameTarget o.part o.va = .ok none) ∧
    (let f := (sH id (fr 2 .resident false)).frame (fk 0)
     2 ≤ f.code 1 ∧ f.code 1 ≤ 5 ∧ f.code 0 = 6 ∧ f.code 9 ≤ 1 ∧ (f.ver 1).elim 0 (·.pins) = 1 ∧ (f.ver 2).elim 0 (·.pins) = 0 ∧ f.next = 3) := by
  refine ⟨by decide +kernel, by decide +kernel, ⟨_, _, rfl, rfl, ?_⟩, by decide +kernel⟩
  exact ok_of (by decide +kernel)
/-- A job card that copies 2 rows of 8 bytes. -/
def card0 : Card := cardOf [0, 0x1000, 2 * 2 ^ 24 + 8, 8, 8, 0, 0x10000, 0]
/-- A collective of one rank: one FP32 element. -/
def coll0 : Coll := collOf .gather [0, 0x1000, 1, 2 ^ 32, 0xFFFFFFFF00000000, 0, 0, 0]
theorem wit_CardsAndCollectivesComplete :
    (∀ k ∈ [OpKind.card card0 false 0 [] [], .card card0 true 16 [] [], .cpWait 1 [7] 3, .coll coll0 [(1, false), (2, false), (3, false), (4, false)] none 0,
        .coll coll0 [] (some [(1, false)]) 1],
      let o := op0 k fun o => { o with sent := true }; let s := sH (one o)
      s.op 1 = some o ∧ o.stop = none ∧ o.out = false ∧ o.sent = true ∧ s.earlierOut o = false ∧ (∀ q ∈ s.ops, q.id ∉ [7] ∧ ¬ q.id < o.id)) ∧
    card0.rows * card0.rbytes ≤ 16 ∧ coll0.srcLen ≤ 4 ∧ coll0.others = [] := by decide +kernel
theorem wit_CardsAndCollectivesComplete_alone :
    (let o := op0 (.coll coll0 [(1, false), (2, false), (3, false), (4, false)] none 0) fun o => { o with sent := true }; (sH (one o)).collBefore o coll0 = false) := by decide +kernel

/-! ## The fabric -/

/-- A circuit from o1 of tile 0 to an endpoint byte of tile 0, of two hops. -/
def circ0 (ep : BitVec 8) (e : List Token) (f : List (Nat × Token)) : Circuit :=
  { id := 3, src := ⟨0, 0, 9, 0, 0, 0⟩, dst := ⟨0, 0, ep, 1, 0, 0⟩, hops := [1, 2], entry := e, flight := f }
/-- The small device with one circuit. -/
def sX (c : Circuit) (st : RegSt := .live) (k : Task → Task := id) (y : Tile → Tile := id) : State := dev k y fun r => { r with st := st, circs := [c] }
theorem wit_TokensHopAlongTheirCircuit :
    (∀ st ∈ [RegSt.live, .fetched], let q := circ0 0 [tok 4] []; let s := sX q st
      (s.region 1).map (·.st) = some st ∧ s.circ 1 0 = some q ∧ q.at_ 0 < 2 ∧ q.entry = tok 4 :: []) ∧
    (let q := circ0 0 [] []; let s := sX q .live id (outq 1 [.tok (tok 4)])
     s.circ 1 0 = some q ∧ q.entry = [] ∧ 8 ≤ q.src.ep.toNat ∧ q.src.ep.toNat < 16 ∧
      (vget (s.lt 0 0).outP (BitVec.ofNat 3 q.src.ep.toNat).toNat {}).fifo = .tok (tok 4) :: []) ∧
    (let q := circ0 0 [] [(0, tok 4), (0, tok 5)]
     (sX q).circ 1 0 = some q ∧ 2 ≤ q.at_ 0 ∧ q.flight[0]? = some (0, tok 4) ∧ 0 + 1 < q.stages ∧ q.at_ (0 + 1) < 2) ∧
    (let q := circ0 0 [] [(1, tok 4), (0, tok 5)]
     q.flight[1]? = some (0, tok 5) ∧ q.at_ (0 + 1) < 2 ∧ q.flight[1 - 1]? = some (1, tok 4) ∧ q.flight[0]? = some (1, tok 4) ∧ q.stages ≤ 1 + 1) := by
  decide +kernel
theorem wit_TokensArriveAtTheirEndpoint :
    (∀ ep ∈ [(0 : BitVec 8), 7, 8], ∀ st ∈ [RegSt.live, .freezing .preempt], let q := circ0 ep [] [(1, tok 4)]; let s := sX q st
      (s.region 1).map (·.st) = some st ∧ s.circ 1 0 = some q ∧ q.flight = (1, tok 4) :: [] ∧ q.stages ≤ 1 + 1 ∧ (tok 4).kind ≠ .marker ∧
      s.isLate 0 0 (.ofNat 3 ep.toNat) = false ∧ (vget (s.lt 0 0).inP (ep.toNat % 8) {}).fifo.length < 4 ∧
      (vget (vget (s.lt 0 0).junc (ep.toNat % 8) {}).buf 1 []).length < 2) ∧
    (let s := sX (circ0 0 [] [(1, tok 4)]) .live id (inq 0 (List.replicate 4 (tok 1))); s.isLate 0 0 0 = false ∧ 4 ≤ (vget (s.lt 0 0).inP 0 {}).fifo.length) ∧
    (sX (circ0 0 [] [(1, tok 4)]) .live fun k => { k with st := .retired }).isLate 0 0 0 = true := by decide +kernel
/-- A burst at i2. -/
def sLate (c : Nat) (b : Burst) : State := { dev id fun y => { y with ph := vset y.ph 0 { vget y.ph 0 {} with inP := vset (vget y.ph 0 {}).inP 2 { late := some b } } } with cycle := c }
theorem wit_LateTokenBurstsReport :
    (vget ((sLate 2024 ⟨.data, 1, 5, 0, 1000⟩).lt 0 0).inP 2 {}).late = some ⟨.data, 1, 5, 0, 1000⟩ ∧ 1000 + 1024 ≤ (sLate 2024 ⟨.data, 1, 5, 0, 1000⟩).cycle ∧
    (sLate 2023 ⟨.data, 1, 5, 0, 1000⟩).cycle < 1000 + 1024 ∧ 0 + 2 ^ 20 ≤ (sLate 1048576 ⟨.data, 1, 5, 0, 1048000⟩).cycle ∧
    (sLate 1048576 ⟨.data, 1, 5, 0, 1048000⟩).cycle < 1048000 + 1024 ∧
    ((sLate 2024 ⟨.data, 1, 5, 0, 1000⟩).part ((sLate 2024 ⟨.data, 1, 5, 0, 1000⟩).partAt 0 0)).fq.length < 64 := by decide +kernel
/-- A getw of slot 0 waits at i0, where a token has come. -/
def sGw (st : RegSt) : State := dev id (fun y => { y with ph := vset y.ph 0 { vget y.ph 0 {} with
  inP := vset (vget y.ph 0 {}).inP 0 { fifo := [tok 4], getws := [⟨0, 4, 1, false, 9, 0⟩] } } }) fun r => { r with st := st }
theorem wit_WaitingGetwTakesTheHead :
    (vget ((sGw .live).lt 0 0).inP 0 {}).getws = [⟨0, 4, 1, false, 9, 0⟩] ∧ (vget ((sGw .live).lt 0 0).inP 0 {}).fifo = [tok 4] ∧
    (sGw .live).regionRuns ((sGw .live).lt 0 0).key = true ∧ (sGw (.freezing .preempt)).regionRuns ((sGw (.freezing .preempt)).lt 0 0).key = false ∧
    (let q : Getw := ⟨15, 4, 1, false, 9, 0⟩
     let s := dev id fun y => { y with rcGetw6 := [q], rc6 := [.tok (tok 4)], rcGetw7 := [q], rc7 := [.tok (tok 4)] }
     (vget (s.lt 0 0).inP 6 {}).getws = [] ∧ (vget (s.lt 0 0).inP 7 {}).fifo = [] ∧ (s.tile 0).rcGetw6 = q :: [] ∧ (s.tile 0).rc6 = .tok (tok 4) :: [] ∧
      (s.tile 0).rcGetw7 = q :: [] ∧ (s.tile 0).rc7 = .tok (tok 4) :: []) := by decide +kernel
/-- Junction 2 of tile 0, with circuits at its sides 1, 2 and 3 that hold some tokens. -/
def sJn (word : DWord) (b : List (Nat × Token)) (f : Junc → Junc := id) (e : List Token := []) : State :=
  let buf := b.foldl (fun v p => vset v p.1 [p.2]) (Vector.replicate 4 [])
  dev id (fun y => { y with ph := vset y.ph 0 { vget y.ph 0 {} with junc := vset (vget y.ph 0 {}).junc 2 (f { word := word, buf := buf }) } })
    fun r => { r with circs := [1, 2, 3].map fun k => { circ0 0 e [] with src := ⟨0, 0, 18, .ofNat 2 k, 0, 0⟩ } }
/-- The junction. -/
def jat : JAt := ⟨0, 0, 2⟩
/-- A control token of kind SELECT: side 1, two tokens. -/
def sel : Token := ⟨.ofNat 512 (5 + 1 * 2 ^ 32 + 2 * 2 ^ 64), 0xFFFF, 0, 0, .control⟩
/-- An end of stream, and control tokens of kind CVTSYNC, CVTMODE and END_GROUP. -/
def eos : Token := { tok 0 with kind := .eos }
def ctl (code mode : Nat) : Token := { tok (code + mode * 2 ^ 32) with kind := .control }
theorem wit_JunctionsForwardTokens :
    (∀ k ∈ [0, 8], jat.ready (sJn (.ofNat 64 (k * 2 ^ 60)) [(0, tok 4)]) k ∧ jat.head (sJn (.ofNat 64 (k * 2 ^ 60)) [(0, tok 4)]) 0 = some (tok 4) ∧
      jat.room (sJn (.ofNat 64 (k * 2 ^ 60)) [(0, tok 4)]) 1 = true) ∧
    (∀ e ∈ [[], [tok 1]], let s := sJn 0x1E00000000000000 [(0, tok 4)] id e
     jat.ready s 1 ∧ jat.head s 0 = some (tok 4) ∧ ∀ k ∈ [1, 2, 3], (jat.fld s 59 57).testBit (k - 1) = true ∧ jat.room s k = e.isEmpty) ∧
    (let s := sJn 0x3800000000000000 [(0, tok 4)]
     jat.ready s 3 ∧ jat.head s 0 = some (tok 4) ∧ (tok 4).kind = .data ∧ jat.fld s 59 59 = 1 ∧ jat.room s 2 = true ∧ jat.room s 1 = true) ∧
    (∀ p ∈ [tok 0, tok 1], let s := sJn 0x3000000000000000 [(0, tok 4), (3, p)]
     jat.ready s 3 ∧ jat.fld s 59 59 = 0 ∧ jat.head s 0 = some (tok 4) ∧ jat.head s 3 = some p ∧ p.kind = .data ∧ jat.room s 1 = true ∧ jat.room s 2 = true) ∧
    (let s := sJn 0x3000000000000000 [(0, tok 4)]; jat.ready s 3 ∧ jat.head s 0 = some (tok 4) ∧ jat.head s 3 = none ∧ jat.fld s 59 59 = 0) ∧
    (let s := sJn 0x3000000000000000 [(0, eos)]; jat.ready s 3 ∧ jat.head s 0 = some eos ∧ eos.kind ≠ .data ∧ jat.head s 3 = none ∧ jat.room s 1 = true ∧ jat.room s 2 = true) ∧
    (let s := sJn 0x3000000000000000 [(3, eos)]; jat.ready s 3 ∧ jat.head s 3 = some eos ∧ jat.head s 0 = none ∧ jat.fld s 59 59 = 0) ∧
    (let s := sJn 0x4000000000000000 [(3, sel)]; jat.ready s 4 ∧ (jat.get s).sel = none ∧ jat.head s 3 = some sel ∧ sel.kind = .control ∧ sel.lane 0 % 256 = 5) ∧
    (∀ b ∈ [true, false], let m : MergeSel := ⟨true, 1, b⟩; let s := sJn 0x4000000000000000 [(1, tok 4)] fun y => { y with sel := some m }
     jat.ready s 4 ∧ (jat.get s).sel = some m ∧ m.toEos = b ∧ jat.head s (m.side.toNat) = some (tok 4) ∧ jat.room s 2 = true) ∧
    (∀ l ∈ [[], [(3, tok 1)]], let s := sJn 0x9020000000000000 ((0, tok 4) :: l) fun y => { y with occ := 1 }
     jat.ready s 9 ∧ (jat.head s 3).isSome = !l.isEmpty ∧
      (let u := if (jat.head s 3).isSome then jat.mod (jat.pop s 3) fun y => { y with occ := y.occ - 1 } else s
       jat.head u 2 = none ∧ jat.head u 0 = some (tok 4) ∧ (jat.get u).occ < jat.fld u 59 52 ∧ jat.room u 1 = true)) ∧
    (let s := sJn 0x9020000000000000 [(2, tok 4)]; jat.ready s 9 ∧ jat.head s 3 = none ∧ jat.head s 2 = some (tok 4) ∧ jat.room s 1 = true) ∧
    (let s := sJn 0x9020000000000000 []; jat.ready s 9 ∧ jat.head s 3 = none ∧ jat.head s 2 = none ∧ jat.head s 0 = none) := by
  simp only [JAt.ready]
  refine ⟨?_, ?_, ?_, ?_, ?_, ?_, ?_, ?_, ?_, ?_, ?_, ?_⟩ <;> decide +kernel
theorem wit_JoinsTakeTheirHeads :
    (let s := sJn 0x2000000000000000 [(0, tok 4)]
     jat.ready s 2 ∧ jat.fld s 59 58 = 0 ∧ (jat.get s).closed = none ∧ (jat.get s).turn < 1 ∧ jat.head s 0 = some (tok 4) ∧ jat.room s 2 = true ∧ (tok 4).kind ≠ .eos) ∧
    (let s := sJn 0x2000000000000000 [(1, tok 4)]; jat.ready s 2 ∧ jat.head s 0 = none) ∧
    (let s := sJn 0x2000000000000000 [(0, eos)]; jat.ready s 2 ∧ jat.head s 0 = some eos ∧ eos.kind = .eos ∧ (jat.get s).closed = none) ∧
    (let s := sJn 0x2808080000000000 [(0, eos)] fun y => { y with closed := some true, turn := 2 }
     jat.ready s 2 ∧ jat.fld s 59 58 = 2 ∧ jat.fld s 57 50 = 2 ∧ jat.fld s 49 42 = 2 ∧ ¬ (jat.get s).turn < 2 ∧ (jat.get s).closed = some (1 == 1) ∧ (jat.get s).closed ≠ none ∧
      jat.head s (1 - 1) = some eos ∧ jat.room s 2 = true) ∧
    (let s := sJn 0x2400000000000000 [(0, tok 4)]
     jat.ready s 2 ∧ jat.fld s 59 58 = 1 ∧ (jat.get s).closed = none ∧ jat.head s 0 = some (tok 4) ∧ (tok 4).tag = (jat.get s).expect ∧ (tok 4).kind ≠ .eos ∧ jat.head s 1 = none ∧
      jat.room s 2 = true) ∧
    (let s := sJn 0x2400000000000000 [(0, { tok 3 with tag := 9 }), (1, tok 4)]
     jat.head s 1 = some (tok 4) ∧ jat.head s 0 = some { tok 3 with tag := 9 } ∧ (tok 4).tag = (jat.get s).expect ∧ (9 : BitVec 6) ≠ (jat.get s).expect) ∧
    (let s := sJn 0x2400000000000000 [(0, tok 4), (1, eos)]; jat.ready s 2 ∧ jat.head s 1 = some eos ∧ jat.head s 0 = some (tok 4) ∧ (tok 4).kind ≠ .eos) ∧
    (let s := sJn 0x2C00000000000000 [(0, tok 4)]; jat.ready s 2 ∧ jat.fld s 59 58 = 3 ∧ jat.room s 2 = true ∧ jat.head s 0 = some (tok 4)) ∧
    (let s := sJn 0x2C00000000000000 [(1, tok 4)]; jat.ready s 2 ∧ jat.room s 2 = true ∧ jat.head s 0 = none ∧ jat.head s 1 = some (tok 4)) := by
  simp only [JAt.ready]
  refine ⟨?_, ?_, ?_, ?_, ?_, ?_, ?_, ?_, ?_⟩ <;> decide +kernel
theorem wit_JunctionsMakeTokens :
    (∀ x ∈ [tok 4, eos], let s := sJn 0x5000000000000000 [(0, x)]; jat.ready s 5 ∧ (jat.get s).loop = none ∧ jat.head s 0 = some x ∧ jat.room s 1 = true) ∧
    (let s := sJn 0x5000000000000000 [] fun y => { y with loop := some ⟨1, 2, 17, 16⟩ }
     jat.ready s 5 ∧ (jat.get s).loop = some ⟨1, 2, 17, 16⟩ ∧ 16 < 17 ∧ jat.room s 1 = true) ∧
    (∀ b : Bool, let s := sJn 0x5000000000000000 [] fun y => { y with loop := some ⟨1, 2, 17, 32⟩, endgrp := b }
     jat.ready s 5 ∧ (jat.get s).loop = some ⟨1, 2, 17, 32⟩ ∧ 17 ≤ 32 ∧ (jat.get s).endgrp = b ∧ jat.room s 1 = true) ∧
    (let s := sJn 0x6000000000000000 []; jat.ready s 6 ∧ jat.room s 1 = true ∧ (s.region (s.lt 0 0).key).isSome = true) ∧
    (∀ m ∈ [(0 : BitVec 3), 4], let s := sJn 0x7010000000000000 [(0, tok 4), (2, tok 9)] fun y => { y with rmode := m }
     jat.ready s 7 ∧ (jat.get s).rmode = m ∧ (jat.get s).cbuf.length < 512 / etWidth (.dec (jat.fld s 55 52)) ∧ jat.head s 0 = some (tok 4) ∧
      jat.head s 2 = some (tok 9) ∧ srRefused (.dec (jat.fld s 59 56)) (.dec (jat.fld s 55 52)) = false) ∧
    (let s := sJn 0x7010000000000000 [(0, tok 4)] fun y => { y with rmode := 4 }; jat.ready s 7 ∧ (jat.get s).rmode = 4 ∧ jat.head s 2 = none) ∧
    (let s := sJn 0x7010000000000000 [] fun y => { y with cbuf := List.replicate 32 ⟨1, false⟩ }
     jat.ready s 7 ∧ 512 / etWidth (.dec (jat.fld s 55 52)) ≤ (jat.get s).cbuf.length ∧ jat.room s 1 = true) ∧
    (∀ c ∈ [[], [(⟨1, false⟩ : CElem)]], let s := sJn 0x7010000000000000 [(0, eos)] fun y => { y with cbuf := c }
     jat.ready s 7 ∧ (jat.get s).cbuf = c ∧ c.length < 512 / etWidth (.dec (jat.fld s 55 52)) ∧ jat.head s 0 = some eos ∧ jat.room s 1 = true) ∧
    (let s := sJn 0x7010000000000000 [(0, ctl 2 0)]; jat.ready s 7 ∧ jat.head s 0 = some (ctl 2 0) ∧ (ctl 2 0).lane 0 % 256 ≠ 3 ∧ jat.room s 1 = true) ∧
    (∀ m ∈ [4, 5], let s := sJn 0x7010000000000000 [(0, ctl 3 0), (3, ctl 4 m)]
     jat.ready s 7 ∧ jat.head s 0 = some (ctl 3 0) ∧ (ctl 3 0).kind = .control ∧ (ctl 3 0).lane 0 % 256 = 3 ∧ jat.head s 3 = some (ctl 4 m) ∧
      (ctl 4 m).lane 0 % 256 = 4 ∧ (ctl 4 m).lane 1 % 8 = m) ∧
    (∀ x ∈ [tok 4, eos], let s := sJn 0xA001000000000000 [(0, x)]
     jat.ready s 10 ∧ jat.head s 0 = some x ∧ (jat.get s).pass = false ∧ x.kind ≠ .control ∧ x.tag = (jat.get s).expect ∧ jat.room s 1 = true) ∧
    (let s := sJn 0xA001000000000000 [(0, tok 4)] fun y => { y with expect := 5 }; jat.ready s 10 ∧ (jat.get s).pass = false ∧ (tok 4).tag ≠ (jat.get s).expect) ∧
    (let s := sJn 0xA001000000000000 [(0, ctl 2 0)]; jat.ready s 10 ∧ jat.head s 0 = some (ctl 2 0) ∧ (ctl 2 0).kind = .control ∧ jat.room s 1 = true) ∧
    (let s := sJn 0xA001000000000000 [(0, tok 4)] fun y => { y with pass := true }; jat.ready s 10 ∧ (jat.get s).pass = true ∧ jat.head s 0 = some (tok 4)) := by
  simp only [JAt.ready]
  refine ⟨?_, ?_, ?_, ?_, ?_, ?_, ?_, ?_, ?_, ?_, ?_, ?_, ?_, ?_⟩ <;> decide +kernel

/-! ## Issue slots, syntax engines, the Penumbra -/

/-- Tasks ready in slots, some of the high class; the rotation at 3. -/
def sI (l : List (Nat × Bool)) : State := dev (fun k => { k with st := .idle }) fun y =>
  { y with rot := 3, lastHi := 5, lastNo := 14, tasks := l.foldl (fun v p => vset v p.1 { st := .ready, high := p.2 }) y.tasks }
theorem wit_IssueSlotsRotateByClass :
    (sI [(3, false), (4, true)]).canIssue 0 3 = true ∧
    (let s := sI [(1, false), (4, true), (6, true)]; s.canIssue 0 3 = false ∧ ((s.task 0 6).high = true ∧ s.canIssue 0 6 = true)) ∧
    (let s := sI [(0, false), (14, false)]; s.canIssue 0 3 = false ∧ (∀ k, ¬ ((s.task 0 k).high = true ∧ s.canIssue 0 k = true)) ∧ (s.task 0 0).high = false ∧
      s.canIssue 0 0 = true) ∧ (∀ k, (sI []).canIssue 0 k = false) := by decide +kernel
/-- Slot 0 is parked at word 0, a `yield`, or idle with trigger port 2. -/
def sK (st : TaskSt) (k : Task → Task) (r : Region → Region := id) : State :=
  dev (fun t => k { t with st := st, trigP := 2 }) (fun y => { y with istore := [(0, 0x48C00000)] }) r
theorem wit_ParkedTasksAreReadied :
    (let s := sK (.parked .port) id; s.taskRuns 0 0 = true ∧ (s.task 0 0).st = .parked .port ∧ (s.task 0 0).ptraps = []) ∧
    (∃ i u, ({ sK (.parked .port) id with ctx := { tile := 0, slot := 0, unit := .task } } : State).fetchAt 0 = .instr i ∧ i.isWord = true ∧
      exec i { sK (.parked .port) id with ctx := { tile := 0, slot := 0, unit := .task } } = .next u) ∧
    ((sK (.parked .port) fun t => { t with ptraps := [⟨9, none, 8⟩] }).task 0 0).ptraps ≠ [] ∧
    ((sK (.parked .matrix) id).task 0 0).st = .parked .matrix ∧ ((sK .idle id).task 0 0).st = .idle ∧
    (sK .idle id fun r => { r with st := .freezing .preempt }).taskRuns 0 0 = false := by
  refine ⟨by decide +kernel, ⟨.yield, _, rfl, rfl, rfl⟩, by decide +kernel, by decide +kernel, by decide +kernel, by decide +kernel⟩

/-- A syntax job of tile 0, engine 0, for port o1. -/
def job (newseq eos : Bool) (sent : Nat) : SynJob := { tile := 0, e := .eng 0, phase := 0, port := 1, part := 1, rkey := 1, av1 := false, chroma := false, newseq := newseq, seek := false, ctx := 0, pics := 0, bytes := [], tag := 3, eos := eos, sent := sent }
/-- Syntax engine 2 set. -/
def sY (g : SynEng) : State := { dev with syn := vset (Vector.replicate 8 {}) 2 g }
theorem runs_job (g : SynEng) (j : SynJob) (c : SynCtx) (h : j.rkey = 1) : (sY g).jobRuns j c = true := by
  unfold State.jobRuns
  have : (sY g).regionRuns 1 = true := rfl
  simp [h, this]
theorem wit_SyntaxJobsPushTheirTokens :
    (∀ l ∈ [[], [job true false 0], [job false false 0]], ∀ p ∈ [none, some (2 : PartId)], let g := vget (sY { owner := 1, queue := l, pend := p }).syn 2 {}
      g.stop = none ∧ g.job = none ∧ g.queue = l ∧ g.pend = p) ∧
    (vget (sY { stop := some 3 }).syn 2 {}).stop ≠ none ∧
    (∀ g j c, j.rkey = 1 → (sY g).jobRuns j c = true) ∧
    (let j := { job false false 0 with rkey := 9 }; ∀ l ∈ [[], [j]], let s := sY { owner := 1, queue := l, job := if l = [] then some j else none }
      s.jobRuns j (vget (vget s.syn 2 {}).ctx j.ctx.toNat {}) = false ∧ (vget s.syn 2 {}).stop = none ∧ (vget s.syn 2 {}).queue = l) ∧
    (∀ u : Bool, let j := job false true 0; let g : SynEng := { owner := 1, job := some j, ctx := vset (Vector.replicate 4 {}) 0 { used := u } }
     (vget (sY g).syn 2 {}).stop = none ∧ (vget (sY g).syn 2 {}).job = some j ∧ (vget (vget (sY g).syn 2 {}).ctx j.ctx.toNat {}).used = u ∧
      (sY g).spaceOf j.tile j.slot j.phase j.port = true) ∧
    (let j := job false true 0; let s := ({ sY { owner := 1, job := some j } with tiles := [(0, tile0 id (outq 1 (List.replicate 4 .reserved)))] } : State)
     s.spaceOf j.tile j.slot j.phase j.port = false) := by
  refine ⟨?_, ?_, runs_job, ?_, ?_, ?_⟩ <;> decide +kernel
/-- A job whose tokens have all been pushed, whatever its bytes parse to, ends; one whose end of stream is next has not ended. -/
theorem wit_SyntaxJobsEnd : ∃ f : Nat → SynJob, (∀ n, let j := f n; let g : SynEng := { owner := 1, job := some j, ctx := vset (Vector.replicate 4 {}) 0 { used := true } }
    let c := vget (vget (sY g).syn 2 {}).ctx j.ctx.toNat {}
    (vget (sY g).syn 2 {}).stop = none ∧ (vget (sY g).syn 2 {}).job = some j ∧ c.used = true ∧ j.eos = true ∧ j.pics = 0 ∧ (j.outs c).length + n = j.sent) ∧
    (∀ n, (f n).eos.toNat = 1) := by
  refine ⟨fun n => job false true (((job false true 0).outs { used := true }).length + n), fun n => ⟨rfl, rfl, rfl, rfl, rfl, ?_⟩, fun _ => rfl⟩
  have h := fun k => SynJob.outs_sent (job false true 0) k { used := true }
  exact congrArg (fun l => List.length l + n) (h _)
theorem wit_SyntaxEnginesChangeOwner :
    (let s := sY { owner := 1 }; (vget s.syn 2 {}).owner = 1 ∧ (vget s.syn 2 {}).owner ≠ 2 ∧ (vget s.syn 2 {}).job = none ∧ (vget s.syn 2 {}).queue = [] ∧ s.synFed 2 = []) ∧
    (let s := sY { owner := 1, queue := [job false false 0] }; (vget s.syn 2 {}).queue ≠ []) ∧
    (let s := sY { owner := 1, job := some (job false false 0), pend := some 2 }; (vget s.syn 2 {}).pend = some 2 ∧ (vget s.syn 2 {}).job.isSome = true) ∧
    (let s := sY { owner := 1, pend := some 2 }; (vget s.syn 2 {}).pend = some 2 ∧ (vget s.syn 2 {}).job = none ∧ s.synFed 2 = []) := by decide +kernel
/-- Frame 0 at version 1, in a slot, with PENCTL and a low mark that makes eviction due: droppable, or to be spilled to window 1, a peer. -/
def sEv (en drop : Bool) (spill : Option (BitVec 16 × Nat)) (pins : Nat) : State := sH id fun s =>
  { s with frames := [{ key := fk 0, newest := some 1, vers := [{ v := 1, st := .resident, slot := some 0, dropOk := drop, spill := spill, pins := pins, recipe := some { v := 1, slice := 4, cost := 0, params := Vector.replicate 4 9, srcs := [(fk 1, 0)] } }] }]
           hbm := memWrite (memWrite s.hbm 16 [0x0A, 0, 0, 0, 0, 0, 0, 0, 64]) 0x4_0007 [0xF8]
           parts := [(1, { live := true, s2root := 0x1_0000, authOut := 0x4_0000, pooln := 4, penctl := .ofNat 64 (en.toNat + 15 * 2 ^ 4 + 1 * 2 ^ 24), penspill := 0x0001_0000_0000_0000 })]
           wport := vset (Vector.replicate 18 {}) 5 { en := true, st := .up, lanes := 8 } }
theorem wit_EvictionDropsOrSpills :
    (let s := sEv true true none 0; ((s.frame (fk 0)).ver 1).isSome = true ∧ s.evictDue 1 = true ∧ s.spilling 1 = false ∧
      (∀ x ∈ (s.frame (fk 0)).ver 1, s.wouldDrop (s.frame (fk 0)) x = true ∧ s.wouldSpill (s.frame (fk 0)) x = false)) ∧
    (let s := sEv true false none 0; s.evictDue 1 = true ∧ s.spilling 1 = false ∧ s.spillHeld 1 = false ∧ s.spillFree 1 = some 0 ∧
      (∀ x ∈ (s.frame (fk 0)).ver 1, s.wouldSpill (s.frame (fk 0)) x = true ∧ s.wouldDrop (s.frame (fk 0)) x = false ∧ (s.sendCopy 1 0 0 0 x.bytes 16).isSome = true ∧
        (({ s with wport := Vector.replicate 18 {} } : State).sendCopy 1 0 0 0 x.bytes 16) = none)) ∧
    (sEv true false none 0).spillTarget 1 (1, 0) .wr = .ok (0, 0, 0) ∧
    ({ sEv true false none 0 with wport := Vector.replicate 18 {} } : State).spillTarget 1 (1, 0) .wr = .ok (0, 0, 0) ∧
    ((sEv true false none 0).modPart 1 fun p => { p with penspill := 0 }).spillTarget 1 (0, 0) .wr = .error ⟨0x0A, 0⟩ ∧
    (∀ b ∈ [true, false], let s := ({ sEv true false none 0 with share := if b then (sH id).share else [] } : State)
      s.winServed 1 (vaOf 1 (off48 0)) = b ∧ s.spillHeld 1 = false ∧ s.evictDue 1 = true ∧ s.spillPlace 1 ((s.spillFree 1).getD 0) = (1, 0)) ∧
    (let s := (sEv true false none 0).addStop 1 { seq := 4, kind := 0x0A, what := .spill 1, rkey := 0 }; s.spillHeld 1 = true) ∧
    ((sEv false true none 0).part 1).penctl.getLsbD 0 = false ∧
    (∀ n ∈ [0, 1], ((sEv true true (some (1, 0)) n).frame (fk 0)).ver 1 ≠ none ∧ (∀ x ∈ ((sEv true true (some (1, 0)) n).frame (fk 0)).ver 1,
      x.st = .resident ∧ x.spill.isSome = true ∧ evictable ((sEv true true (some (1, 0)) n).frame (fk 0)) { x with spill := none } = true)) := by
  refine ⟨by decide +kernel, by decide +kernel, ok_of (by decide +kernel), ok_of (by decide +kernel), err_of (by decide +kernel), by decide +kernel, by decide +kernel, by decide +kernel, by decide +kernel⟩
/-- Version 1 of frame 0 is dropped, and request 7 asks for it on tile t, which the partition owns. -/
def sRc (t : Nat) : State :=
  let s := sEv true true none 0
  let s := s.modVer (fk 0) 1 fun x => { x with st := .dropped, slot := none }
  { s with rcReqs := [{ id := 7, frame := fk 0, v := 1, tile := t }], slices := [{ part := 1, id := 4, start := 0, words := [0x09000000] }], ownTab := [(t, 1)], tiles := [(t, tile0 id id)] }
/-- Some tile below 49 is enabled. -/
theorem some_enabled : ∃ t < 49, Config.disabled t = false := by
  have h := enabled_count 49
  obtain ⟨t, m⟩ := List.exists_mem_of_length_pos (show 0 < ((List.range 49).filter fun t => !Config.disabled t).length by omega)
  simp only [List.mem_filter, List.mem_range, Bool.not_eq_true'] at m
  exact ⟨t, m⟩
theorem wit_RecomputeStartsInSlot15 :
    (∃ t < 49, (sRc t).rcTileOk 1 t = true) ∧
    (∀ t < 49, let q : RcReq := { id := 7, frame := fk 0, v := 1, tile := t }; let s := sRc t
      s.rcReqs.find? (fun z => z.id == 7) = some q ∧ s.rcReady q = true ∧ s.rcTile q = t ∧ s.rcReqs.takeWhile (fun z => z.id != 7) = [] ∧ (s.tile t).rc = none ∧
      s.owning t = false ∧ (((s.frame (fk 0)).ver 1).bind (·.recipe)).map (·.slice) = some 4 ∧ (s.slices.find? fun c => c.part == 1 && c.id == 4).isSome = true ∧
      memWf (s.tile t).spad = true ∧ (s.tile t).marks = []) ∧
    ({ sRc 3 with ownTab := [] } : State).rcTileOk 1 0 = false ∧ ({ sRc 3 with ownTab := [] } : State).rcReady { id := 7, frame := fk 0, v := 1, tile := 3 } = true ∧
    ({ sRc 3 with ownTab := [] } : State).rcTile { id := 7, frame := fk 0, v := 1, tile := 3 } = 0 ∧
    (sRc 3).rcReady { id := 7, frame := fk 0, v := 1, tile := 3, running := true } = false := by
  refine ⟨?_, by decide +kernel, ?_, by decide +kernel, by decide +kernel⟩
  · obtain ⟨t, h, d⟩ := some_enabled
    have o : ∀ t < 49, ((sRc t).owner t == 1) = true ∧ decide (t < 1536) = true := by decide +kernel
    exact ⟨t, h, by rw [State.rcTileOk, d, (o t h).1, (o t h).2]; rfl⟩
  · rw [State.rcTileOk, show (({ sRc 3 with ownTab := [] } : State).owner 0 == 1) = false by decide +kernel]
    exact Bool.and_false _
/-- A recompute on tile 0, its task in a state, its refill covering n bytes. -/
def sRe (st : TaskSt) (n : Nat) : State := (sRc 0).modTile 0 fun y => { y with tasks := vset y.tasks 15 { st := st }, rc := some { frame := fk 0, v := 1, part := 1, data := [], cover := List.range n } }
theorem wit_RecomputeEndsResident :
    ((sRe .ready 0).tile 0).rc.isSome = true ∧ ((sRe .ready 0).task 0 15).st ≠ .retired ∧ ((sRe .retired 4095).task 0 15).st = .retired ∧
    (((sRe .retired 4095).tile 0).rc.map (·.cover.length)) = some 4095 ∧ (((sRe .retired 4096).tile 0).rc.map (·.cover.length)) = some 4096 ∧
    ((sRe .retired 4096).tile 0).rcWrite.cmds = [] := by decide +kernel


/-! ## Graphs -/

/-- An entry of the slot table: region 7, generation 1, logical tile (0, 0), slots 0 to 14. -/
def bindE : Nat := 1 + 7 * 2 ^ 48 + 2 ^ 64 + 0x7FFF * 2 ^ 80 + 2 ^ 96
/-- What lies below the slot table: requests for an image in the closed window 1 at 0x6_0000, with a reserved bit of the descriptor set
at 0x7_0000, and with one of the request set at 0x8_0000. -/
def lowMem : Mem := (sH id).hbm ++ [(0x6_0006, 1), (0x6_0040, 7), (0x6_0044, 1), (0x7_000B, 1), (0x8_0040, 7), (0x8_0042, 1), (0x8_0044, 1)]
/-- A slot table at 0xA_0000 with that entry for tile t, which the partition may own. -/
def sCm (own : Bool) (t : Nat) : State := sH id fun s => { s with
  newId := 3, regions := [], tiles := [], ownTab := if own then [(t, 1)] else [], hbm := memWrite lowMem (0xA_0000 + 64 * t) (leBytes 16 bindE)
  parts := s.parts.map fun p => (p.1, { p.2 with slottab := 0xA_0000 }) }
/-- What the entries of the slot table read as. -/
def entAt (t i : Nat) : Nat := if i = 4 * t then bindE else 0
theorem sCm_has : ∀ o : Bool, ∀ t < 49, let s := sCm o t
    s.s2top 1 = 0x1_0000 ∧ fld (s.part 1).slottab.toNat 47 16 * 65536 = 0xA_0000 ∧ s.badBlk = [] ∧ s.hbmNum (0xA_0000 + 16 * (4 * t)) 16 = bindE := by
  decide +kernel
theorem table_sCm : ∀ o : Bool, ∀ t < 49, okOf ((sCm o t).tableWord 0x1_0000) = some 5 ∧
    okOf ((sCm o t).tableWord 0x1_0040) = some 0 := by decide +kernel
theorem at_sCm {own : Bool} {t : Nat} (h : t < 49) (a : Nat) : descAt 1 ((sCm own t).s2top 1) a = 0x1_0000 + 8 * (a / 2 ^ 37 % 2 ^ 11) := by
  rw [(sCm_has own t h).1]; rfl
theorem stage2_sCm {own : Bool} {t a : Nat} (h : t < 49) (l : a < 2 ^ 37) : (sCm own t).stage2 1 a = .ok (a, true) := by
  have m := stage2_block (s := sCm own t) (p := 1) (ipa := a) (d := 5)
    (by rw [at_sCm h, Nat.div_eq_of_lt l]; exact ok_of (table_sCm own t h).1) (by decide) (by decide) (by decide)
  rw [m, Nat.mod_eq_of_lt l, show fld 5 47 16 * 65536 + a = a by simp [fld], show Nat.testBit 5 2 = true by decide]
theorem hbm_sCm (own : Bool) (t : Nat) : (sCm own t).hbm = memWrite lowMem (0xA_0000 + 64 * t) (leBytes 16 bindE) := by
  unfold sCm sH
  dsimp only
theorem lowMem_low : memWf lowMem = true ∧ ∀ x ∈ lowMem, x.1 < 0xA_0000 := by decide +kernel
theorem ent_len : (leBytes 16 bindE).length = 16 := rfl
theorem zero_sCm (own : Bool) (t i : Nat) (c : i ≠ 4 * t) : (sCm own t).hbmNum (0xA_0000 + 16 * i) 16 = 0 := by
  rw [State.hbmNum, hbm_sCm]
  refine leNat_zero fun k hk => ?_
  rw [memGet_write lowMem_low.1, ent_len, if_neg (by omega)]
  exact memGet_none fun x hx => by have := lowMem_low.2 x hx; omega
theorem reads_sCm (own : Bool) {t : Nat} (h : t < 49) (i : Nat) (hi : i < 6144) :
    (sCm own t).ipaNum 1 (fld ((sCm own t).part 1).slottab.toNat 47 16 * 65536 + 16 * i) 16 = .ok (entAt t i) := by
  obtain ⟨-, b, k, z⟩ := sCm_has own t h
  rw [b, ipaNum_page (stage2_sCm h (by omega)) (by omega) (by simp only [hbmTop]; omega) (by simp [State.hbmBad, k, setHas])]
  by_cases c : i = 4 * t
  · subst c
    rw [z, entAt, if_pos rfl]
  · rw [entAt, if_neg c, zero_sCm own t i c]
theorem only_ent (t : Nat) (h : t < 49) : (upTo 6144).filter (fun i => i == 4 * t) = [4 * t] := by rw [upTo, filter_upFrom, if_pos (by omega)]
theorem ents7_sCm (own : Bool) {t : Nat} (h : t < 49) : (sCm own t).bindEnts 1 7 1 = .ok [(t, 0, bindE)] := by
  rw [bindEnts_of (entAt t) _ _ (reads_sCm own h)]
  have c : (fun i => decide ((entAt t i).testBit 0 = true ∧ fld (entAt t i) 63 48 = (7 : BitVec 16).toNat ∧ fld (entAt t i) 127 96 = (1 : BitVec 32).toNat)) =
      fun i => i == 4 * t := by
    funext i
    by_cases c : i = 4 * t
    · rw [entAt, if_pos c, c, beq_self_eq_true]; decide
    · rw [entAt, if_neg c, beq_false_of_ne c]; decide
  rw [c, only_ent t h]
  have q : BitVec.ofNat 2 (4 * t) = 0 := by apply BitVec.eq_of_toNat_eq; simp
  simp only [List.map_cons, List.map_nil, Nat.mul_div_cancel_left t (Nat.succ_pos 3), q, entAt, if_pos]
theorem ents9_sCm (own : Bool) {t : Nat} (h : t < 49) : (sCm own t).bindEnts 1 9 1 = .ok [] := by
  rw [bindEnts_of (entAt t) _ _ (reads_sCm own h)]
  have c : (fun i => decide ((entAt t i).testBit 0 = true ∧ fld (entAt t i) 63 48 = (9 : BitVec 16).toNat ∧ fld (entAt t i) 127 96 = (1 : BitVec 32).toNat)) =
      fun _ => false := by
    funext i
    by_cases c : i = 4 * t
    · rw [entAt, if_pos c]; decide
    · rw [entAt, if_neg c]; decide
  rw [c]
  rw [List.filter_eq_nil_iff.2 fun _ _ => by simp]
  rfl
/-- The numbers of a request at an address. -/
theorem req_sCm {own : Bool} {t a x : Nat} (h : t < 49) (l : a + 128 ≤ 2 ^ 37) (b : a % 65536 + 128 ≤ 65536) (e : (sCm own t).hbmNum a 128 = x) :
    (sCm own t).ipaNum 1 a 128 = .ok x := by
  rw [ipaNum_page (stage2_sCm h (by omega)) b (by simp only [hbmTop]; omega) (by simp [State.hbmBad, (sCm_has own t h).2.2.1, setHas]), e]
/-- What the requests read as. -/
def req (a : Nat) : Nat := if a = 0x6_0000 then 2 ^ 48 + 7 * 2 ^ 512 + 2 ^ 544 else if a = 0x7_0000 then 2 ^ 88 else 7 * 2 ^ 512 + 2 ^ 528 + 2 ^ 544
theorem reqs_low : ∀ a ∈ [0x6_0000, 0x7_0000, 0x8_0000], leNat (memRead lowMem a 128) = req a := by decide +kernel
theorem reqs_sCm (o : Bool) (t a : Nat) (m : a ∈ [0x6_0000, 0x7_0000, 0x8_0000]) : (sCm o t).hbmNum a 128 = req a := by
  have : a ≤ 0x8_0000 := by simp only [List.mem_cons, List.not_mem_nil, or_false] at m; omega
  rw [← reqs_low a m, State.hbmNum, hbm_sCm]
  exact congrArg leNat (memRead_congr fun k hk => by rw [memGet_write lowMem_low.1, if_neg (by omega)])
theorem own_sCm {t : Nat} (d : Config.disabled t = false) (h : t < 49) : (sCm true t).bindsOk 1 0 [(t, 0, bindE)] = true := by
  simp only [State.bindsOk, List.all_cons, d, List.all_nil]
  clear d
  revert t
  decide +kernel
theorem disown_sCm {t : Nat} (h : t < 49) : (sCm false t).bindsOk 1 0 [(t, 0, bindE)] = false := by
  have : ∀ t < 49, ((sCm false t).owner t == 1) = false := by decide +kernel
  simp only [State.bindsOk, List.all_cons, this t h, Bool.and_false, Bool.false_and]
theorem wit_CommitRequestsAreFetched : ∃ t < 49, let s := sCm true t
    (s.part 1).live = true ∧ (s.part 2).live = false ∧ s.ipaNum 1 (2 ^ 40) 128 = .error ⟨0x09, 5⟩ ∧
    (∀ a ∈ [0x6_0000, 0x7_0000, 0x8_0000], s.ipaNum 1 a 128 = .ok (req a)) ∧ descBadForm (commitReq (req 0x7_0000)).1.desc = true ∧
    ((commitReq (req 0x6_0000)).1.rg = 7 ∧ (commitReq (req 0x6_0000)).1.gen = 1 ∧ descBadForm (commitReq (req 0x6_0000)).1.desc = false ∧ (commitReq (req 0x6_0000)).2 = true) ∧
    (descBadForm (commitReq (req 0x8_0000)).1.desc = false ∧ (commitReq (req 0x8_0000)).2 = false ∧ (commitReq (req 0x8_0000)).1.rg = 7) ∧
    (∃ f, (s.modPart 1 fun p => { p with slottab := 0x100_0000_0000 }).bindEnts 1 7 1 = .error f) ∧
    s.bindEnts 1 9 1 = .ok [] ∧ foldOf [] = none ∧ s.bindEnts 1 7 1 = .ok [(t, 0, bindE)] ∧ foldOf [(t, 0, bindE)] = some 0 ∧ s.bindsOk 1 0 [(t, 0, bindE)] = true ∧
    (sCm false t).bindEnts 1 7 1 = .ok [(t, 0, bindE)] ∧ (sCm false t).bindsOk 1 0 [(t, 0, bindE)] = false := by
  obtain ⟨t, h, d⟩ := some_enabled
  have x := reqs_sCm true t
  have g : ∀ t < 49, foldOf [(t, 0, bindE)] = some 0 := by decide +kernel
  refine ⟨t, h, rfl, rfl, ?_, fun a ha => ?_, by decide +kernel, by decide +kernel, by decide +kernel, ⟨⟨0x09, 5⟩, ?_⟩, ents9_sCm true h, rfl, ents7_sCm true h, g t h,
    own_sCm d h, ents7_sCm false h, disown_sCm h⟩
  · exact ipaNum_fault (stage2_invalid (d := 0) (by rw [at_sCm h]; exact ok_of (table_sCm true t h).2) (by decide))
  · simp only [List.mem_cons, List.not_mem_nil, or_false] at ha
    rcases ha with rfl | rfl | rfl <;> exact req_sCm h (by omega) (by omega) (x _ (by simp))
  · have x : ∀ t < 49, let s := (sCm true t).modPart 1 fun p => { p with slottab := 0x100_0000_0000 }
        s.s2top 1 = 0x1_0000 ∧ fld (s.part 1).slottab.toNat 47 16 * 65536 = 0x100_0000_0000 ∧
        okOf (s.tableWord 0x1_0040) = some 0 := by decide +kernel
    refine bindEnts_fault _ _ fun i hi => ipaNum_fault (stage2_invalid (d := 0) ?_ (by decide))
    rw [(x t h).1, (x t h).2.1]
    have e : descAt 1 0x1_0000 (0x100_0000_0000 + 16 * i) = 0x1_0040 := by simp only [descAt, lvlHi, lvlLo, fld]; omega
    rw [e]
    exact ok_of (x t h).2.2
/-- The image of a request in a closed window is cut short; one whose window table's MIT does not serve the partition waits. -/
theorem wit_ImagesAreCutShort : (∀ t < 49, ∃ f u, (sCm true t).readImage 1 (commitReq (req 0x6_0000)).1.desc = (⟨[], [], some (.fault f 0), none⟩, u)) ∧
    (∀ t < 49, ∃ u, State.readImage { sCm true t with share := [] } 1 (commitReq (req 0x6_0000)).1.desc = (⟨[], [], some .waits, none⟩, u)) := by
  have d : winOf (descImage (commitReq (req 0x6_0000)).1.desc) = 1 ∧ offOf (descImage (commitReq (req 0x6_0000)).1.desc) = 0 := by decide +kernel
  have x : ∀ t < 49, let s := sCm true t; let va := vaOf 1 (.ofNat 48 0)
      s.walkServed dispatchTile 1 va = true ∧ s.tlbFresh dispatchTile 1 = true ∧ bfld va 63 48 = 0 ∧ s.cached dispatchTile 1 (.ofNat 16 (bfld va 79 64)) (bfld va 47 0) = [] ∧
      errOf (s.walkVA none 1 (.ofNat 16 (bfld va 79 64)) (bfld va 47 0) false .rd) = some ⟨0x04, 0⟩ ∧
      ({ s with share := [] } : State).walkServed dispatchTile 1 va = false := by decide +kernel
  refine ⟨fun t h => ?_, fun t h => ?_⟩
  · obtain ⟨w, f, z, c, e, -⟩ := x t h
    have i := imgBytes_stop (s := sCm true t) (p := 1) (win := 1) (f := 1) (off := 0) (n := 48) (by decide) (by decide)
      (imgPage_fault (by decide) w (translate_fresh_error f z (err_of e) c))
    exact ⟨_, _, readImage_stop d.1 d.2 i⟩
  · have i := imgBytes_stop (s := { sCm true t with share := [] }) (p := 1) (win := 1) (f := 1) (off := 0) (n := 48) (by decide) (by decide)
      (imgPage_waits (by decide) (x t h).2.2.2.2.2)
    exact ⟨_, readImage_stop d.1 d.2 i⟩
/-- An image at 0x5_0000 of window 0: IMAGE, a GRAPH of one tile and number 9, END; its CRC-32C is 0x4E15_AC9F. -/
def sIm : State := sH id fun s => { s with newId := 3, regions := [], tiles := [], hbm := s.hbm ++
  [(0x5_0000, 1), (0x5_0004, 32), (0x5_0010, 77), (0x5_0011, 73), (0x5_0012, 88), (0x5_0013, 75), (0x5_0014, 1), (0x5_0016, 1), (0x5_0018, 144),
   (0x5_0020, 159), (0x5_0021, 172), (0x5_0022, 21), (0x5_0023, 78), (0x5_0030, 2), (0x5_0034, 64), (0x5_0040, 1), (0x5_0042, 1), (0x5_005C, 9), (0x5_0080, 14)] }
/-- A region fetched for that image, its tile 0 free or taken. -/
def sFe (taken : Bool) (desc : BitVec 512) : State :=
  { sIm with regions := [{ rg0 with st := .fetched, desc := desc }], tiles := if taken then [(0, tile0 id id)] else [] }
theorem wit_FetchedRegionsArePlaced :
    (∀ t : Bool, ((sFe t 0x5_0000).region 1).map (·.st) = some .fetched ∧ ∀ r ∈ (sFe t 0x5_0000).region 1, (sFe t 0x5_0000).tilesFree r = !t) ∧
    (∃ i u, (sFe false 0x5_0000).readImage 1 0x5_0000 = (i, u) ∧ i.cut.isNone = true ∧ ∀ r ∈ (sFe false 0x5_0000).region 1, (u.phase2Bad r i).isNone = true) ∧
    (∃ f u, (sFe false 0x1_0000_0000_0000).readImage 1 0x1_0000_0000_0000 = (⟨[], [], some (.fault f 0), none⟩, u) ∧
      ∀ r ∈ (sFe false 0x1_0000_0000_0000).region 1, u.phase2Bad r ⟨[], [], some (.fault f 0), none⟩ = some (.trans f 0)) ∧
    (∃ u, State.readImage { sFe false 0x5_0000 with share := [] } 1 0x5_0000 = (⟨[], [], some .waits, none⟩, u)) := by
  have w : winOf (descImage 0x5_0000) = 0 ∧ offOf (descImage 0x5_0000) = 0x5_0000 ∧
      winOf (descImage 0x1_0000_0000_0000) = 1 ∧ offOf (descImage 0x1_0000_0000_0000) = 0 := by decide +kernel
  refine ⟨by decide +kernel, ?_, ?_, ⟨_, readImage_stop w.1 w.2.1 (imgBytes_stop (f := 1) (by decide) (by decide) (imgPage_waits (by decide) (by decide +kernel)))⟩⟩
  rotate_left
  · exact ⟨⟨0x04, 0⟩, _, readImage_stop w.2.2.1 w.2.2.2 (imgBytes_stop (f := 1) (by decide) (by decide) (imgPage_fault (by decide) (by decide +kernel)
      (translate_fresh_error (by decide +kernel) (by decide +kernel) (err_of (by decide +kernel)) (by decide +kernel)))), fun _ _ => rfl⟩
  rcases translate_fresh (s := sFe false 0x5_0000) (t := dispatchTile) (p := 1) (va := vaOf 0 (.ofNat 48 0x5_0000)) (wr := false) (r := .rd) (g := .hbm 0x5_0000)
      (e := ⟨1, 0, 5, 21, 5, 21, 5, true, 64, none⟩) (by decide +kernel) (by decide +kernel) (ok_of (by decide +kernel)) (by decide +kernel) with e | e
  all_goals
    have b := imgBytes_page (f := 1) (n := 48) (by decide) (by decide) (imgPage_read (k := 48) (by decide) (by decide +kernel) e (by decide +kernel) (by decide +kernel))
    rcases translate_fresh (s := (sFe false 0x5_0000).translate dispatchTile 1 (vaOf 0 (.ofNat 48 0x5_0000)) false .rd |>.2) (t := dispatchTile) (p := 1) (va := vaOf 0 (.ofNat 48 0x5_0000)) (wr := false) (r := .rd) (g := .hbm 0x5_0000)
      (e := ⟨1, 0, 5, 21, 5, 21, 5, true, 64, none⟩) (by rw [e]; decide +kernel) (by decide +kernel) (by rw [e]; exact ok_of (by decide +kernel)) (by rw [e]; decide +kernel) with e2 | e2
    all_goals
      rw [e] at e2
      have b2 := imgBytes_page (f := 1) (n := 144) (by decide) (by decide) (imgPage_read (k := 144) (by decide) (by decide +kernel) e2 (by decide +kernel) (by decide +kernel))
      exact ⟨_, _, readImage_whole w.1 w.2.1 b (by decide +kernel) (by decide +kernel) b2, rfl, by decide +kernel⟩

/-- The small device with its region changed, on mapped memory, with checkpoint controls. -/
def sG2 (r : Region → Region) (ck : DWord := 0) (k : Task → Task := id) (n : Nat := 0) : State :=
  sH id fun s => { s with regions := [r rg0], tiles := [(0, tile0 k id)], cycle := n, parts := s.parts.map fun p => (p.1, { p.2 with ckctl := ck }) }
theorem wit_GraphsComplete :
    (let s := sG2 id 0 fun k => { k with st := .retired }; (s.region 1).map (·.st) = some .live ∧ ∀ r ∈ s.region 1, s.completes r = true) ∧
    (let s := sG2 id; (s.region 1).map (·.st) = some .live ∧ ∀ r ∈ s.region 1, s.completes r = false) := by decide +kernel
theorem wit_GraphsComplete_rollback :
    (let s := sG2 (fun r => { r with rbReq := true }) 0 fun k => { k with st := .retired }; ∀ r ∈ s.region 1, s.completes r = false) := by decide +kernel
/-- The same with its matrix unit within a drain, behind a token that circuit 0 is to take. -/
def sG3 (r : Region → Region) : State :=
  { sG2 (fun x => { r x with circs := [circ0 0 [] []] }) with
    tiles := [(0, tile0 id fun y => outq 1 [.tok (tok 1)] { y with mq := [{ item false { stage := 1, n := 1 } with instr := some (.mDrain 0 (.port 1) false false) }] })] }
theorem wit_PreemptionFreezesARegion :
    ((sG2 fun r => { r with st := .fetched }).region 1).map (·.st) = some .fetched ∧
    (let s := sG2 id 0 fun k => { k with st := .retired }; (s.region 1).map (·.st) = some .live ∧ ∀ r ∈ s.region 1, s.completes r = true) ∧
    (let s := sG2 id; (s.region 1).map (·.st) = some .live ∧ ∀ r ∈ s.region 1, s.completes r = false ∧ r.rbReq = false ∧ dfld r.desc 2 63 32 = 0) ∧
    ((sG2 fun r => { r with rbReq := true }).region 1).map (fun r => (r.st, r.rbReq)) = some (.live, true) ∧
    ((sG2 fun r => { r with st := .freezing .checkpoint }).region 1).map (·.st) = some (.freezing .checkpoint) ∧
    (let s := sG2 (fun r => { r with desc := .ofNat 512 (3 * 2 ^ 160) }) 0 id 3072
     ∀ r ∈ s.region 1, r.st = .live ∧ dfld r.desc 2 63 32 = 3 ∧ r.quant0 + 1024 * 3 ≤ s.ownNow r) ∧
    (let s := sG2 (fun r => { r with desc := .ofNat 512 (3 * 2 ^ 160) }) 0 id 3071; ∀ r ∈ s.region 1, s.ownNow r < r.quant0 + 1024 * 3) ∧
    (∀ b : Bool, ∀ w ∈ [FreezeFor.preempt, .checkpoint], let m : Token := { data := 0, kind := .marker }
     let s := sG2 fun r => { r with st := .freezing w, marks := true, circs := circ0 0 [] [(1, m)] :: if b then [] else [circ0 1 [] []] }
     (s.circ 1 0).map (·.flight) = some ((1, m) :: []) ∧ m.kind = .marker ∧ (circ0 0 [] [(1, m)]).stages ≤ 1 + 1 ∧ (∀ r ∈ s.region 1, r.rbReq = false ∧ r.marks = true) ∧
      ((s.modCirc 1 0 fun q => { q with flight := [], marked := true }).region 1).isSome = true ∧
      ∀ r ∈ (s.modCirc 1 0 fun q => { q with flight := [], marked := true }).region 1,
        (s.modCirc 1 0 fun q => { q with flight := [], marked := true }).canSave r = b) := by
  refine ⟨?_, ?_, ?_, ?_, ?_, ?_, ?_, ?_⟩ <;> decide +kernel
theorem wit_FreezeSendsAMarkerOnEachCircuit :
    (let s := sG2 fun r => { r with circs := [circ0 0 [] []] }
     (s.region 1).isSome = true ∧ ∀ r ∈ s.region 1, ∀ b ∈ r.binds, (s.tile b.tile).vpipe = [] ∧ (s.tile b.tile).ll = []) ∧
    (let s := sG2 fun r => { r with st := .freezing .preempt, circs := [circ0 0 [] []] }
     (s.region 1).isSome = true ∧ (∀ r ∈ s.region 1, r.st = .freezing .preempt ∧ r.rbReq = false ∧ r.marks = false ∧ s.quiet r = true) ∧
      ((s.sendMarkers 1).region 1).isSome = true ∧ ∀ r ∈ (s.sendMarkers 1).region 1, (s.sendMarkers 1).canSave r = false) ∧
    (let s := sG3 fun r => { r with st := .freezing .preempt }; (s.region 1).isSome = true ∧ ∀ r ∈ s.region 1, r.marks = false ∧ s.quiet r = false) ∧
    8 ≤ (circ0 0 [] []).src.ep.toNat ∧ (circ0 0 [] []).src.ep.toNat < 16 ∧
    (let c := { circ0 0 [] [] with src := ⟨0, 0, 18, 1, 0, 0⟩ }; 16 ≤ c.src.ep.toNat ∧ ((sG2 fun r => { r with circs := [c] }).region 1).bind (·.circs[0]?) = some c) := by
  refine ⟨?_, ?_, ?_, ?_, ?_, ?_⟩ <;> decide +kernel
theorem wit_CheckpointsStandInPlace :
    (∀ k d : Bool, let s := sG2 fun r => { r with ckReq := k, rbReq := d }; (s.region 1).isSome = true ∧ ∀ r ∈ s.region 1, r.st = .live ∧ r.ckReq = k ∧ r.rbReq = d) ∧
    (∀ b d : Bool, let s := sG2 fun r => { r with st := .freezing .checkpoint, marks := true, rbReq := d, circs := if b then [] else [circ0 0 [] []] }
      (s.region 1).isSome = true ∧ ∀ r ∈ s.region 1, r.st = .freezing .checkpoint ∧ r.rbReq = d ∧ r.marks = true ∧ s.canSave r = b) ∧
    (let s := sG3 fun r => { r with st := .freezing .checkpoint }; (s.region 1).isSome = true ∧ ∀ r ∈ s.region 1, r.st = .freezing .checkpoint ∧ r.rbReq = false ∧ r.marks = false ∧ s.quiet r = false) ∧
    (∀ st ∈ [RegSt.fetched, .freezing .preempt], ((sG2 fun r => { r with st := st }).region 1).map (·.st) = some st) ∧
    (let s := sG2 id 0x201 id (2 * 2 ^ 20); (s.region 1).isSome = true ∧ ∀ r ∈ s.region 1, r.st = .live ∧ r.rbReq = false ∧ bfld (s.ckctl r) 31 8 = 2 ∧ r.ck0 + 2 * 2 ^ 20 ≤ s.ownNow r) ∧
    (let s := sG2 id 0x201 id (2 * 2 ^ 20 - 1); ∀ r ∈ s.region 1, bfld (s.ckctl r) 31 8 = 2 ∧ s.ownNow r < r.ck0 + 2 * 2 ^ 20) := by
  refine ⟨?_, ?_, ?_, ?_, ?_, ?_⟩ <;> decide +kernel
/-- An empty snapshot. -/
def snap0 : Snapshot := { graph := 5, desc := 0, opens := [], tiles := [], caught := [], ctxs := [] }
theorem wit_RollbackReturnsOrFails :
    (∀ c ∈ [none, some snap0], ∀ d ∈ [true, false], ∀ e ∈ [true, false], let s := sG2 (fun r => { r with rbReq := true, ckpt := c, rolled := d, preReq := e }) 1
      (s.region 1).isSome = true ∧ ∀ r ∈ s.region 1, r.rbReq = true ∧ r.st ≠ .fetched ∧ r.ckpt = c ∧ r.rolled = d ∧ ckEn (s.ckctl r) = true ∧ r.ext = false ∧ r.undo = [] ∧
        r.plain = false ∧ s.ctxLost r = false ∧ r.preReq = e ∧ r.st ≠ .freezing .preempt) ∧
    (∀ e ∈ [true, false], let s := sG2 (fun r => { r with rbReq := true, ckpt := some snap0, ext := e, plain := !e }) 1
      ∀ r ∈ s.region 1, (r.ext = true ∨ r.plain = true) ∧ bfld (s.ckctl r) 39 32 = 0) ∧
    (let u : Undo := { block := 4, bytes := [], pq := 0, mine := 8 }; let s := sG2 (fun r => { r with rbReq := true, ckpt := some snap0, undo := [u], outer := [(1027, 1)] }) 1
     ∀ r ∈ s.region 1, u ∈ r.undo ∧ u.mine.getLsbD 3 = true ∧ ∃ o ∈ r.outer, o.1 ≤ 256 * u.block + 3 ∧ 256 * u.block + 3 < o.1 + o.2) ∧
    (let u : Undo := { block := 4, bytes := [], pq := 0, mine := 8 }; let s := sG2 (fun r => { r with rbReq := true, ckpt := some snap0, undo := [u], outer := [(1024, 3)] }) 1
     ∀ r ∈ s.region 1, r.struck = false) ∧
    (let s := sG2 (fun r => { r with rbReq := true, ckpt := some snap0 }) 0; ∀ r ∈ s.region 1, ckEn (s.ckctl r) = false) ∧
    (let s := sG2 (fun r => { r with rbReq := true, ckpt := some snap0, ctxIpa := 0xFFFF_FFFF_0000 }) 1; ∀ r ∈ s.region 1, s.ctxLost r = true) := by
  refine ⟨?_, ?_, ?_, ?_, ?_⟩ <;> decide +kernel
theorem wit_StoppedRegionsAreReported :
    (let s := sG2 id 0 (fun k => { k with st := .parked .port }) (2 ^ 20)
     s.regionRuns 1 = true ∧ ∀ r ∈ s.region 1, r.told = false ∧ r.prog0 + 2 ^ 20 ≤ s.ownNow r ∧ s.pending r = true) ∧
    (let s := sG2 id 0 (fun k => { k with st := .parked .port }) (2 ^ 20 - 1); ∀ r ∈ s.region 1, s.ownNow r < r.prog0 + 2 ^ 20) ∧
    (let s := sG2 id 0 id (2 ^ 20); ∀ r ∈ s.region 1, s.pending r = false) := by decide +kernel
theorem wit_StoppedRegionsAreReported_low :
    (let s := sG2 id 0 (fun k => { k with st := .parked .port }) (2 ^ 20); ∀ r ∈ s.region 1, (lowParked (s.parked r)).isSome = true) ∧
    ((sG2 (fun r => { r with told := true }) 0 id (2 ^ 20)).region 1).map (·.told) = some true ∧ (sG2 (fun r => { r with st := .fetched }) 0 id (2 ^ 20)).regionRuns 1 = false := by decide +kernel

/-! ## Reports and commands -/

/-- Partition 1 with a record in its queue and a ring of 64 entries at IPA 0x8_0000, PROD and CONS. -/
def sFq (base : DWord) (prod : BitVec 32) (q : List FaultRec) (fz : Bool := false) : State := sH id fun s =>
  { s with parts := s.parts.map fun p => (p.1, { p.2 with fq := q, fqbase := base, fqprod := prod, frozen := fz }), mfq := q, mfqbase := base, mfqprod := prod }
/-- A record. -/
def fr0 : FaultRec := { kind := 0x13, seq := 1 }
/-- The place of the ring's next entry, by that stage 2. -/
def ringAt : Nat := bfld (0x8_0006 : DWord) 47 12 * 4096 + 63 * 64
theorem wit_FaultRingsTakeRecords :
    (let s := sFq 0x8_0006 63 [fr0]; (s.part 1).fq = fr0 :: [] ∧ (s.part 1).frozen = false ∧ ringOk (s.part 1).fqbase = true ∧
      ringFull (s.part 1).fqbase (s.part 1).fqprod (s.part 1).fqcons = false ∧ s.mfq = fr0 :: [] ∧ s.mfull = false ∧ ringOk s.mfqbase = true ∧
      ringFull s.mfqbase s.mfqprod s.mfqcons = false ∧ s.ringWaits 1 0x8_0FC0 = false ∧ s.hbmBad 0x8_0FC0 64 true = false ∧
      ({ s with badBlk := [0x80F] } : State).hbmBad 0x8_0FC0 64 true = true ∧ ({ s with share := [] } : State).ringWaits 1 0x8_0FC0 = true ∧
      s.ringWaits 1 0x8000_0008_0FC0 = false ∧ s.ringWaits 1 0x4000_0008_0FC0 = false) ∧
    ((sFq 0x8_0006 64 [fr0]).part 1).fq = fr0 :: [] ∧ ringFull ((sFq 0x8_0006 64 [fr0]).part 1).fqbase ((sFq 0x8_0006 64 [fr0]).part 1).fqprod 0 = true ∧
    ringFull (sFq 0x8_0006 64 [fr0]).mfqbase (sFq 0x8_0006 64 [fr0]).mfqprod (sFq 0x8_0006 64 [fr0]).mfqcons = true ∧
    ringOk 5 = false ∧ ringOk 20 = true ∧ ringOk 21 = false ∧ ringOk (0x100_0000_0006 : DWord) = true ∧ ((sFq 5 0 [fr0]).part 1).frozen = false ∧
    ((sFq 5 0 [fr0] true).part 1).frozen = true ∧ (sFq 5 0 [fr0]).mfq = fr0 :: [] ∧ (sFq 5 0 []).mfq = [] := by decide +kernel
/-- Where stage 2 puts the entry: in HBM, to be written or not, in the host's memory, nowhere; or it refuses it. -/
theorem wit_RingPlaces :
    (sFq 0x8_0006 63 [fr0]).stage2 1 ringAt = .ok (0x8_0FC0, true) ∧ targetOf 0x8_0FC0 = .ok (.hbm 0x8_0FC0) ∧ targetOf ringAt = .ok (.hbm 0x8_0FC0) ∧
    ({ sFq 0x8_0006 63 [fr0] with hbm := [(0x1_0000, 1)] } : State).stage2 1 ringAt = .ok (0x8_0FC0, false) ∧
    ({ sFq 0x8_0006 63 [fr0] with hbm := [(0x1_0000, 5), (0x1_0005, 0x80)] } : State).stage2 1 ringAt = .ok (0x8000_0008_0FC0, true) ∧
    targetOf 0x8000_0008_0FC0 = .ok (.host 0x8_0FC0) ∧
    ({ sFq 0x8_0006 63 [fr0] with hbm := [(0x1_0000, 5), (0x1_0005, 0x40)] } : State).stage2 1 ringAt = .ok (0x4000_0008_0FC0, true) ∧
    (∃ f, targetOf 0x4000_0008_0FC0 = .error f) ∧ (∃ f, (sFq 0x100_0000_0006 63 [fr0]).stage2 1 (bfld (0x100_0000_0006 : DWord) 47 12 * 4096 + 63 * 64) = .error f) := by
  refine ⟨ok_of ?_, ok_of ?_, ok_of ?_, ok_of ?_, ok_of ?_, ok_of ?_, ok_of ?_, ⟨⟨0x09, 4⟩, err_of ?_⟩, ⟨⟨0x09, 5⟩, err_of ?_⟩⟩ <;> decide +kernel
/-- What stands stopped under record 9: an operation of the port, a card, a syntax job, a request of a recompute. -/
def sSt (w : Stopped) (k : Byte) : State :=
  (({ sG2 id with ops := [op0 (.card card0 true 0 [] [])], syn := vset (Vector.replicate 8 {}) 2 { owner := 1, job := some (job false false 0), stop := some 9 }
                  rcReqs := [{ id := 7, frame := fk 0, v := 1, tile := 0 }] } : State)).modPart 1 fun p => { p with stops := [{ seq := 9, kind := k, what := w, rkey := 1 }] }
theorem wit_FaultResolutionActsOnTheRecord :
    (∀ w ∈ [Stopped.engine 0 (.eng 2), .memop 0 1, .junction 0 0 2, .syn 2, .copy 1, .recompute 7, .spill 1], ∀ k ∈ [(0x20 : Byte), 0x21, 0x02], let s := sSt w k
      (s.standing 1 9).map (fun r => (r.what, r.kind)) = some (w, k) ∧ s.standing 1 8 = none ∧
      (∀ r ∈ s.standing 1 9, let u := (s.unstop r.what).refusedBit 1 false
        (u.region r.rkey).isSome = true ∧ (u.op 1).isSome = true ∧ (vget u.syn 2 {}).job.isSome = true ∧
        ∀ q ∈ u.rcReqs.find? (fun q => q.id == 7), (let v := State.cancelReq chainFuel u q; (v.region (u.lt q.tile q.phase).key).isSome) = true)) ∧
    (let s := { sSt (.engine 0 (.eng 2)) 0x02 with regions := [] }; (s.standing 1 9).isSome = true ∧ ∀ r ∈ s.standing 1 9, ((s.unstop r.what).refusedBit 1 false).region r.rkey = none) := by
  refine ⟨?_, ?_⟩ <;> decide +kernel
theorem wit_TaskCommandsActOnTrappedTasks :
    let s := sG2 (fun r => { r with binds := [⟨0, 0, 0, 0, 0x7FFF⟩] }) 0 fun k => { k with st := .trapped, tcause := 5, tpc := 4 }
    (1 : PartId) ≠ 0 ∧ (s.regionById 1 7).isSome = true ∧ (∀ r ∈ s.regionById 1 7, r.binds.find? (fun b => b.lx == 0 && b.ly == 0) = some ⟨0, 0, 0, 0, 0x7FFF⟩ ∧
      r.binds.find? (fun b => b.lx == 1 && b.ly == 0) = none ∧ (8191 : BitVec 13).toNat < instrLimit r.fold false ∧ instrLimit 1 false ≤ (4096 : BitVec 13).toNat) ∧
    physSlot 0x7FFF 0 = 0 ∧ (s.task 0 0).st = .trapped ∧ (s.task 0 (physSlot 0x7FFF 1)).st ≠ .trapped ∧ s.regionById 1 8 = none := by decide +kernel
theorem wit_CheckpointCommandsMarkTheRegion : ((sG2 id).regionById 1 7).isSome = true ∧ (sG2 id).regionById 1 8 = none := by decide +kernel

/-! ## The control space -/

/-- Sixteen requests wait, or one; an operation of the partition on window 0 has a request out. -/
def sIv (q : List InvReq) (z : List S2Inv) (out : Bool) : State :=
  ({ sH fun _ => [op0 (.atomic .add 1 0) fun o => { o with out := out }] with s2q := z } : State).modPart 1 fun p => { p with invq := q }
theorem wit_InvalidationsDropTheirEntries :
    (∀ n ∈ [15, 16], let s := sIv (List.replicate n .all) (List.replicate n ⟨1, none⟩) false; (s.part 1).invq.length = n ∧ s.s2q.length = n) ∧
    (∀ q ∈ [InvReq.all, .window 0, .page 0 3], ∀ b : Bool, let s := sIv [q] [] b; (s.part 1).invq = q :: [] ∧ s.invHeld 1 q = b) ∧
    (∀ q ∈ [(⟨1, none⟩ : S2Inv), ⟨1, some 3⟩], (sIv [] [q] false).s2q = q :: [] ∧ (∀ o ∈ (sIv [] [q] false).ops, o.part = 1 → o.out = false) ∧
      ∃ o ∈ (sIv [] [q] true).ops, o.part = 1 ∧ o.out = true) ∧
    ((sIv [] [] false).part 1).invq = [] ∧ (sIv [] [] false).s2q = [] := by decide +kernel
theorem wit_ScrubbingZeroesGranules : (sH id).scrub = none ∧ memWf (sH id).hbm = true ∧ ({ sH id with scrub := some (3, 1) } : State).scrub = some ((3 : BitVec 28).toNat, (1 : BitVec 24).toNat) := by
  decide +kernel
theorem wit_OwnershipMovesWholeRectangles :
    (sH id).ownCmd = none ∧ (sH id).ownBad ⟨2, 40, 3, 47, 31⟩ = false ∧ (sH id).ownBad ⟨2, 0, 0, 1, 0⟩ = true ∧ (sH id).ownBad ⟨2, 0, 0, 48, 0⟩ = true ∧
    ({ sH id with ownCmd := some ⟨2, 40, 3, 47, 31⟩ } : State).ownCmd = some ⟨2, 40, 3, 47, 31⟩ ∧ (47 : BitVec 6).toNat < 48 := by decide +kernel
theorem wit_RemovalsTakeRegionsAndSlices :
    (let s := ({ sH id with slices := [{ part := 1, id := 4, start := 0, words := [0] }] } : State).modPart 1 fun p => { p with regcnt := 16 }
     (s.part 1).del = none ∧ bfld (s.part 1).regcnt 23 0 = 16 ∧ (s.delRegion 1 0 256 16).isSome = true ∧ s.delRegion 1 0 255 16 = none ∧ s.delSlice 1 4 = true ∧ s.delSlice 1 5 = false) ∧
    (let s := (sH id).modPart 1 fun p => { p with del := some (.region 0 256 16) }
     (s.part 1).del = some (.region 0 (256 : BitVec 36).toNat 16) ∧ (s.delRegion 1 0 256 16).isSome = true ∧ ({ s with vregs := [] } : State).delRegion 1 0 256 16 = none) ∧
    (let s := ({ sH id with slices := [{ part := 1, id := 4, start := 0, words := [0] }] } : State).modPart 1 fun p => { p with del := some (.slice 4) }
     (s.part 1).del = some (.slice 4) ∧ s.delSlice 1 4 = true ∧ ({ s with slices := [] } : State).delSlice 1 4 = false) := by decide +kernel
theorem wit_PartitionsComeAndGo : (1 : PartId) ≠ 0 ∧ ((sH id).part 1).live = true ∧ ((sH id).part 1).hart = 0 ∧ ((sH id).part 1).hart ≠ 3 ∧ ((sH id).part 2).live = false := by decide +kernel
theorem wit_MonitorRegistersTakeTheirValues :
    (let s : State := { sE { cur := some (run0 { cmdO 0 with kind := .prism, pid := some 2 }) } with prismMap := vset (Vector.replicate 8 0) 3 0x8102 }
     let of := fun (x : BitVec 16) => (x &&& 0xBF07).toNat / 256 % 64
     of 0x8105 = (vget s.prismMap 3 0).toNat / 256 % 64 ∧ of 0x8205 ≠ (vget s.prismMap 3 0).toNat / 256 % 64 ∧ of 0x8205 ≠ (vget s.prismMap 4 0).toNat / 256 % 64 ∧
      s.prismRuns 3 = true ∧ s.prismRuns 4 = false) ∧
    (∀ k < 8, (0x0102030405060701 : BitVec 64).toNat / 2 ^ (8 * k + 6) % 4 = 0) ∧ (∃ k < 8, (0x40 : BitVec 64).toNat / 2 ^ (8 * k + 6) % 4 ≠ 0) ∧
    (∀ q < 18, ((sH id).port q).st = .down) ∧ (∃ q < 18, ((sEv true true none 0).port q).st ≠ .down) := by decide +kernel
theorem wit_PageRegistersStoreTheirFields :
    (1 : PartId) ≠ 0 ∧ (∃ r ∈ (sH id).vregs, r.part = 1) ∧ (∀ r ∈ (sH id).vregs, r.part ≠ 2) ∧ 0x180 ≤ (0x180 : BitVec 16).toNat ∧
    (vget ((sH id).part 1).lq 0 []).length < 256 ∧ 256 ≤ (vget ((sR 0 256).part 1).lq 2 []).length := by decide +kernel
/-- Port 5 in a state. -/
def sW (w : WPort) : State := { sH id with wport := vset (Vector.replicate 18 {}) 5 w }
theorem wit_WildomPortsTrainAndRetry :
    ((sW {}).port 5).en = false ∧ ((sW {}).port 5).st = .down ∧ ((sW { en := true, st := .training }).port 5).st = .training ∧ ((sW { en := true, st := .training }).port 5).en = true ∧
    (∀ st ∈ [PortSt.up, .degraded], ∀ n ∈ [0, 7], let w := (sW { en := true, st := st, lanes := 4, fails := n, replay := [⟨4, 9, 3, 1, 2, .ack 1⟩] }).port 5
      (w.st = .up ∨ w.st = .degraded) ∧ w.fails < 8 ∧ w.replay ≠ []) ∧
    8 ≤ ((sW { en := true, st := .up, lanes := 8, fails := 8 }).port 5).fails ∧ bodyAccess (.read 0 8 8) = some (0, 8, 8, .rd) ∧
    bodyAccess (.endVersion 0 0x10_0000 1) = some (0, 0x10_0000, 1, .atv) ∧ (7 : BitVec 4) ≠ 8 ∧ (7 : BitVec 4) ≠ 4 := by decide +kernel
/-- A peer of device 3, partition 2, asks for 8 bytes, or for some that cross a page, or has come with no access; the inbound table at
0x9_0000 lets it read, or no one. -/
def sPe (ok : Bool) (body : FlitBody) : State := sH id fun s =>
  { s with peerIn := [⟨true, 3, 2, 1, 44, body⟩], hbm := if ok then s.hbm ++ [(0x9_0002, 2), (0x9_0003, 3), (0x9_0007, 0xC0)] else s.hbm,
           parts := s.parts.map fun p => (p.1, { p.2 with authIn := 0x9_0000 }) }
theorem wit_PeerAccessesAreAuthorized :
    (∀ b : Bool, ∀ d ∈ [FlitBody.read 0 0x3_0008 8, .read 0 0x3_FFFC 8, .nak], (⟨true, 3, 2, 1, 44, d⟩ : Flit) ∈ (sPe b d).peerIn ∧
      ({ sPe b d with peerIn := [] } : State).inboundOk 1 3 2 .rd = b) ∧
    bodyAccess (.read 0 0x3_0008 8) = some (0, 0x3_0008, 8, .rd) ∧ bodyAccess (.read 0 0x3_FFFC 8) = some (0, 0x3_FFFC, 8, .rd) ∧ bodyAccess .nak = none ∧
    (⟨true, 3, 2, 1, 44, .nak⟩ : Flit) ∉ (sH id).peerIn ∧ (0x3_0008 : BitVec 48).toNat % 65536 + 8 ≤ 65536 ∧ 65536 < (0x3_FFFC : BitVec 48).toNat % 65536 + 8 ∧
    ((sPe true .nak).part 1).live = true ∧ (∃ i < 256, let e := (sPe true .nak).hbmNum (bfld ((sPe true .nak).part 1).authIn 47 16 * 65536 + 8 * i) 8
      e.testBit 63 = true ∧ e.testBit 62 = true ∧ fld e 41 24 = 3 ∧ fld e 21 16 = 2) := by decide +kernel

/-! ## Harts, the host, boot, errors -/

theorem wit_HartsReachMemoryAndPages :
    8 ∈ [1, 2, 4, 8] ∧ ctlBase + 0x40_0000 ≤ hbmTop - 8 ∧ hbmTop - 8 + 8 ≤ hbmTop ∧ hbmTop < hbmTop - 7 + 8 ∧ ctlBase + 0x100 < ctlBase + 0x40_0000 ∧ (ctlBase + 0x104) % 8 ≠ 0 ∧
    (sH id).hbmBad (hbmTop - 8) 8 true = false ∧ ({ sH id with badBlk := [(hbmTop - 8) / 256] } : State).hbmBad (hbmTop - 8) 8 true = true ∧
    (ctlBase + 0x100) % 8 = 0 ∧ ctlBase + 0x100 - ctlBase < 0x1_0000 ∧ (0x058 : Nat) / 8 * 8 = 0x058 ∧ 0x1_0000 ≤ ctlBase + 0x1_0000 - ctlBase ∧
    (ctlBase + 0x1_0000) / 0x1_0000 = ctlBase / 0x1_0000 + (1 : PartId).toNat ∧ ((sH id).part 1).live = true ∧ ((sH id).part 1).hart = 0 ∧ ((sH id).part 1).hart ≠ 5 ∧
    ((sH id).part 2).live = false ∧ 3 ∉ [1, 2, 4, 8] := by decide +kernel
theorem wit_HostRequestsGoThroughTheirFunction :
    (let s : State := { sH id with vfmap := 0x100, ops := [op0 (.atomic .add 1 0) fun o => { o with out := true }] }
     s.vfPart 1 = some 1 ∧ s.vfPart 0 = none ∧ s.stage ≠ 6 ∧ ({ s with stage := 6 } : State).stage = 6 ∧ 0xFF8 + 8 ≤ 0x1000 ∧ 0x1000 < 0xFF9 + 8 ∧ 0 < 8 ∧ 0x3_0008 % 65536 + 8 ≤ 65536 ∧
      0x3_0008 + 8 ≤ 2 ^ 36 ∧ 2 ^ 36 < 2 ^ 36 - 7 + 8 ∧ 0x3_0008 + 8 ≤ hbmTop ∧ s.hbmBad 0x3_0008 8 false = false ∧ ({ s with badBlk := [0x300] } : State).hbmBad 0x3_0008 8 false = true ∧
      pf0Maps 0 8 = true ∧ pf0Maps 0x100 8 = true ∧ pf0Maps 8 8 = false ∧
      (s.ops.find? (fun o => o.id == 1 && o.out && o.via.isNone)).isSome = true ∧ s.ops.find? (fun o => o.id == 2 && o.out && o.via.isNone) = none) ∧
    ({ sH id with vfmap := 0x100 } : State).stage2 1 0x3_0008 = .ok (0x3_0008, true) ∧
    ({ sH id with vfmap := 0x100, hbm := [(0x1_0000, 1)] } : State).stage2 1 0x3_0008 = .ok (0x3_0008, false) ∧
    ({ sH id with vfmap := 0x100, hbm := [(0x1_0000, 5), (0x1_0005, 0x40)] } : State).stage2 1 0x3_0008 = .ok (0x4000_0003_0008, true) ∧ hbmTop < 0x4000_0003_0008 + 8 ∧
    (∃ f, ({ sH id with vfmap := 0x100, hbm := [] } : State).stage2 1 0x3_0008 = .error f) := by
  refine ⟨by decide +kernel, ok_of (by decide +kernel), ok_of (by decide +kernel), ok_of (by decide +kernel), by decide, ⟨⟨0x09, 5⟩, err_of (by decide +kernel)⟩⟩
theorem wit_ResetBootsOrWaits :
    leNat (memRead State.reset.flash 0 4) ≠ 0x4B58_4246 ∧ State.reset.stage ≠ 6 ∧ State.reset.stage ≠ 7 ∧
    (let s : State := { State.reset with stage := 6, hbm := [(8, 2)] }
     s.stage = 6 ∧ leNat (memRead (memSlice s.hbm 0 0x200_0000) 8 8) = 2 ∧ leNat (memRead (memSlice s.hbm 0 0x200_0000) 8 8) ≠ 3) ∧
    (let s : State := { State.reset with stage := 7, recov := some [(8, 2)] }; s.stage = 7 ∧ s.recov = some [(8, 2)]) := by decide +kernel
/-- Tokens in every place where an error may fall, and a version in pool slot 0. -/
def sSo : State := { sEv true true none 0 with
  regions := [{ rg0 with circs := [circ0 0 [] [(1, tok 4)]] }]
  tiles := [(0, tile0 id fun y => { outq 1 [.tok (tok 2)] (inq 0 [tok 1] y) with rc6 := [.tok (tok 3)], rc7 := [.tok (tok 3)] })] }
theorem wit_SoftErrorsPoisonWhatTheyHit :
    1535 < 1536 ∧ 0x7_FFFF < 0x8_0000 ∧ 8191 < 8192 ∧ hbmTop - 1 < hbmTop ∧ (vget (sSo.lt 0 0).inP (0 : BitVec 3).toNat {}).fifo = [] ++ tok 1 :: [] ∧
    (vget (sSo.lt 0 0).outP (1 : BitVec 3).toNat {}).fifo = [] ++ .tok (tok 2) :: [] ∧ (sSo.tile 0).rc6 = [] ++ .tok (tok 3) :: [] ∧ (sSo.tile 0).rc7 = [] ++ .tok (tok 3) :: [] ∧
    (let s := sJn 0 [(1, tok 4)]; vget (vget (s.lt 0 0).junc (2 : BitVec 3).toNat {}).buf 1 [] = [] ++ tok 4 :: []) ∧
    sSo.circ 1 0 = some (circ0 0 [] [(1, tok 4)]) ∧ (circ0 0 [] [(1, tok 4)]).flight = [] ++ (1, tok 4) :: [] ∧
    sSo.slotAt (hbmTop - 1) = none ∧ (sSo.slotAt 5).isSome = true := by decide +kernel
theorem wit_ShutterFreezesAndReadsOut : (sH id).shut = false ∧ ({ sH id with shut := true } : State).shut = true ∧ (47 : BitVec 6).toNat < 48 ∧ 0x7_FFFF < 0x8_0000 ∧
    0x7FFF < 0x8000 ∧ hbmTop - 1 < hbmTop ∧ hbmTop ≤ 2 ^ 39 + (hbmTop - 1) := by decide +kernel
theorem wit_HeatThrottlesAndTrips : (919 : BitVec 16).toNat < 115 * 8 ∧ 115 * 8 ≤ (920 : BitVec 16).toNat := by decide

/-! ## Results, tables and waits -/

/-- A recipe for version v that names a source. -/
def rec1 (v : Nat) (g : FrameKey × Nat) : Recipe := { v := v, slice := 4, cost := 0, params := Vector.replicate 4 0, srcs := [g] }
/-- Frame 0 at version 2, on a region that is recomputable or not, with slice 4 or none, version 2 named by n recipes. -/
def sAt (recomp slice : Bool) (n : Nat) : State := sH id fun s => (fr 2 .resident false { s with
  vregs := s.vregs.map fun r => { r with recomp := recomp }, slices := if slice then [{ part := 1, id := 4, start := 0, words := [0] }] else [] }).modVer (fk 0) 2 fun x => { x with rref := n }
theorem wit_InitsAndRecipesAtTheDirectory :
    (∀ b : Bool, let s := if b then sH id else sH id (fr 2 .resident false); let o := fop (.init 1) false; let k := frameOf o.part (vaWith o.va ((offOf o.va : Int) + 4096 * (0 : Nat)))
      k = fk 0 ∧ (s.frame k).key = k ∧ (s.vregOf o.part (winOf o.va) (offOf o.va)).isSome = true ∧ (∃ x ∈ ((sH id (fr 2 .resident false)).frame k).vers, x.pins ≠ 0) ∧
      (∀ x ∈ ((sH id).frame k).vers, x.st ≠ .opened ∧ x.pins = 0 ∧ x.reads = 0 ∧ x.refill = 0) ∧ (sH id).rcReqs = []) ∧
    (let o := { fop (.init 1) false with va := 0x11_0000 }; (sH id).vregOf o.part (winOf o.va) (offOf o.va) = none) ∧
    (sH id).defers 1 = false ∧ (sG2 (fun r => { r with ckpt := some snap0 }) 1).defers 1 = true ∧
    (let f := (sAt true true 0).frame (fk 1); f.code 1 = 0 ∧ f.next = 1 ∧ f.code 3 = 0 ∧ (3 : Nat) ≠ f.next ∧ ((sAt true true 0).frame (fk 0)).code 2 = 2 ∧
      ((sAt true true 0).frame (fk 0)).code 7 = 0) ∧
    (∀ b : Bool, ((sAt b true 0).vregOf 1 0 (257 * 4096)).map (·.recomp) = some b) ∧
    (∃ x ∈ (sAt true true 0).slices, x.part = 1 ∧ x.id = (rec1 1 (fk 0, 2)).slice) ∧ (sAt true false 0).slices = [] ∧
    (rec1 1 (fk 0, 2)).srcs[0]? = some (fk 0, 2) ∧ (sAt true true 0).homed (fk 0) = true ∧
    (∀ n ∈ [0, 65535], (((sAt true true n).frame (fk 0)).ver 2).elim 0 (·.rref) = n ∧ ((rec1 1 (fk 0, 2)).srcs.take 0).length = 0) := by
  refine ⟨?_, ?_, ?_, ?_, ?_, ?_, ?_, ?_, ?_, ?_, ?_⟩ <;> decide +kernel
theorem wit_CollectiveResults :
    let w := fun (size rank peer : Nat) (rs : Nat) => [0, 0x1000, 4 * 2 ^ 32 + 1, size * 2 ^ 32 + rank, peer * 2 ^ 32, 0, rs, 0]
    (∀ op ∈ [ClOp.gather, .reduce, .scatter, .send, .recv], ∀ p ∈ [0, 1, 0xFFFF_FFFF], ∀ rs ∈ [0, 4], let c := collOf op (w 2 1 p rs)
      (etypeOf c.ety.toNat).isSome = true ∧ c.op = op ∧ c.size = 2 ∧ (c.rs = true ↔ rs = 4) ∧ (c.peer = 0xFFFF_FFFF ∨ c.peer = c.rank ↔ p ≠ 0)) ∧
    (collOf .reduce (w 1 0 0 0)).size = 1 ∧ etFmt .f32 = some fF32 ∧ (∃ t, etypeOf 4 = some t) ∧ (∃ t, etFmt t = none ∧ ∃ n, etypeOf n = some t) := by
  refine ⟨?_, by decide, by decide, ⟨_, rfl⟩, ⟨.i32, by decide, 7, by decide⟩⟩
  decide +kernel
theorem wit_SpecialInputsFollowTheTable : fF32 ∈ [fF32, fBF16, fF16] ∧ (5 : Nat) ≠ 0 ∧ (-14 : Int) ≤ -14 ∧ (-14 : Int) ≤ 14 ∧ 0 < 11 ∧ 11 < 12 := by
  refine ⟨.head _, ?_⟩; decide
theorem wit_ReductionsAreTheTreeOfTheirLeaves :
    (7 < 512 / etWidth .f32 ∧ LiveIn (etWidth .f32) [tok 4] 0x00FF 7 ∧ ¬ LiveIn (etWidth .f32) [tok 4] 0x00FF 8 ∧ 512 / etWidth .f32 ≤ 16) ∧
    (63 < 512 / etWidth .e4m3 ∧ LiveIn (etWidth .e4m3) [tok 4] 0xFFFF 63) ∧ etFmt .bf16 = some fBF16 ∧ etFmt .i16 = none ∧ 0xFFFF < 2 ^ fBF16.w := by
  simp only [LiveIn]; decide +kernel
theorem wit_FirstNanIsRecorded :
    let s := fun (a : BitVec 4) (l : List MItem) => dev id fun y => { y with ph := vset y.ph 0 { vget y.ph 0 {} with acr := a }, mq := l }
    let it := fun (n : Option Nat) => { item false { nan := n } with acr := some 4 }
    (s 0 []).curLt.acr.getLsbD 2 = false ∧ (s 12 []).curLt.acr.getLsbD 3 = true ∧
    (∀ n ∈ [none, some 5], let x := s 4 [it n]
      x.curLt.acr.getLsbD 2 = true ∧ x.curLt.acr.getLsbD 3 = false ∧ it n ∈ (x.tile x.ctx.tile).mq ∧ (it n).acr.isSome = true ∧ (x.task x.ctx.tile (it n).slot).phase = x.cur.phase ∧
      (it n).prog.nan = n ∧ (x.tile x.ctx.tile).vpipe = [] ∧ (x.tile x.ctx.tile).ll = []) ∧
    (s 4 []).curLt.acr.getLsbD 2 = true ∧ (s 4 []).curLt.acr.getLsbD 3 = false ∧ ((s 4 []).tile 0).mq = [] := by decide +kernel
theorem wit_LoadedAndDrainedTokens : 6 < (if StatTy.cb2 = .cb2 then 7 else 24) ∧ 23 < (if StatTy.bf16 = .cb2 then 7 else 24) ∧ 64 * 23 ≤ 1535 ∧ 1535 < 64 * 23 + 64 := by decide
theorem wit_RankedRowsTakeAndGive :
    (∀ b c : Bool, let v : Token := { tok (if b then 0x7FC0_0000 else 5) with poison := if c then 1 else 0 }
      v.val 0 = true ∧ v.pois 0 = c ∧ fF32.isNan (fF32.flush false (v.lane 0)) = b) ∧
    ({ tok 5 with valid := 0xFFFE } : Token).val 0 = false ∧
    (∀ d : Bool, let r : RRow := { ents := [⟨7, 1, d⟩] }; r.ents[0]? = some ⟨7, 1, d⟩ ∧ r.ents[1]? = none ∧ (d = false → ¬ (true = true ∧ (⟨7, 1, d⟩ : REnt).drop = true))) := by
  decide +kernel
theorem wit_PrismProgramsComputeUnits :
    prismOk (prog 1) = true ∧ (∀ k < 24, ((prog 1).getD (48 + k) 0).toNat ≠ 24) ∧
    (let p : List Byte := 1 :: 3 :: List.replicate 382 0
     let r := { run0 { cmdO 3 with pid := some 2 } with prog := p }
     let r : CmdRun := { r with next := r.total, head := r.total }
     let s := sE { cur := some r }
     prismOk p = true ∧ (s.engine 0 (.eng 0)).cur = some r ∧ r.cmd.kind = .read ∧ s.engRuns 0 r.cmd = true ∧ r.total ≤ r.head * r.perTok ∧ s.destRoom 0 r.cmd = true ∧
      r.cmd.viaPrism = true ∧ (r.prog.getD 1 0).getLsbD 0 = true ∧ r.tailOut = false) := by decide +kernel
theorem wit_PrismCellsComputeTheirOps : 0xFFFF_FFFF < 2 ^ 32 ∧ 255 % 256 = 255 := by decide
/-- A block of each mode of the compressor, all of 256 bytes. -/
theorem wit_CompressorChoosesTheLeastMode :
    let blk := fun (f : Nat → Nat) => (List.range 256).map fun i => (BitVec.ofNat 8 (f i) : Byte)
    (∀ p ∈ [((fun _ => 0 : Nat → Nat), 0), (fun i => if i = 200 then 9 else 0, 1), (fun i => if i % 4 = 0 then i / 4 else if i % 4 = 3 then 77 else 1, 2),
        (fun i => if i % 2 = 0 then i / 2 else 77, 3), (fun i => i * i * 7 + i / 3, 4)], (blk p.1).length = 256 ∧ (encodeBlock (blk p.1)).1.code = p.2) := by decide +kernel
theorem wit_MatrixTokensTurnByTurn_held :
    let h := fun (l : List Token) (x : Token) => let s := sM .mrun [item true { stage := 1, n := l.length, held := l }]; s.modTile 0 (inq 0 [x])
    (∀ l ∈ [[], [tok 3]], ((h l (tok 4)).head 0).map (·.kind) = some .data ∧ l.length + 1 ≠ 24 ∧ ((h l { tok 4 with kind := .eos }).head 0).map (·.kind) = some .eos) ∧
    (List.replicate 23 (tok 3) ++ [tok 4]).length = 24 := by decide +kernel
theorem wit_GroupedProductChecksAndEnds_marks :
    let g := fun (r : Ring → Ring) => (sGrp [item true { stage := 2, total := 1, count := 1, held := List.replicate 7 (tok 1) }]).modMat fun m =>
      { m with act := { m.act with ty := .bf16 }, rings := vset m.rings 0 (r { size := 2, tail := 24 }) }
    (∀ l < 7, l < (if bType (.e4m3cb2 : MatFmt) = .cb2 then 7 else 24)) ∧ (if bType (.e4m3cb2 : MatFmt) = .cb2 then 7 else 24) ≤ (List.replicate 7 (tok 1)).length ∧
    (g id).grpMarks 0 .e4m3cb2 1 = .ok ∧ (g fun q => { q with tail := 23, feed := some 0 }).grpMarks 0 .e4m3cb2 1 = .wait ∧
    (g fun q => { q with marks := [0] }).grpMarks 0 .e4m3cb2 1 = .bad ∧ (g id).mat.act.ty ≠ bType .e4m3cb2 ∧ (g fun q => { q with marks := [0] }).grpMarks 0 .e4m3cb2 0 = .ok := by
  decide +kernel
theorem wit_CommandsStartAndComplete_waits :
    ∀ b : Bool, let r := { run0 (cmdO 3) with next := 1, head := 1, opened := [(fk 0, 1)] }
      let s := (sH id fun s => { s with share := if b then s.share else [] }).setEngine 0 (.eng 0) { cur := some r }
      s.engRuns 0 r.cmd = true ∧ r.finished = true ∧ ∀ k ∈ r.opened, s.winServed k.1.part (frameVa k.1) = b := by decide +kernel
theorem wit_TokensLeaveAndEnterEngines_syntax :
    ∀ b : Bool, let r := { run0 { cmdO 3 with kind := .syn } with next := 1, win := [{ pad := false, done := true }] }
      let s : State := { sE { cur := some r } with syn := vset (Vector.replicate 8 {}) 0 { owner := if b then 1 else 2 } }
      (s.engine 0 (.eng 0)).stop = none ∧ s.synDenied 0 r = !b ∧ r.job = none ∧ r.cmd.kind = .syn ∧ r.tailOut = false := by decide +kernel
theorem wit_ElementAccessesHappenAtHome_plain :
    let o := elem none none false 0x3_0008
    let w := elem none (some [some (1, false)]) false 0x3_0008
    (∀ p ∈ [o, w], p.out = false ∧ p.lost = none ∧ p.slot ≠ 15 ∧ (sA .read p).vregOf p.part (winOf p.va) (offOf p.va) = none ∧ (sA .read p).walkServed p.tile p.part p.va = true ∧
      (sA .read p).frameBefore p p.va = false) ∧
    (∀ b ∈ [true, false], ∃ u, State.translate { sA .read o with badBlk := if b then [0x300] else [] } 0 1 o.va false .rd = (.ok (.hbm 0x3_0008), u) ∧ u.served 1 0x3_0008 = true ∧
      u.hbmBad 0x3_0008 1 false = b) ∧
    (∃ u, (sA .write w).translate 0 1 w.va true .wr = (.ok (.hbm 0x3_0008), u) ∧ u.served 1 0x3_0008 = true ∧ u.hbmBad 0x3_0008 1 true = false ∧ u.undoFull 1 0x3_0008 1 = false) ∧
    ({ sA .read o with share := [] } : State).served 1 0x3_0008 = false := by
  refine ⟨by decide +kernel, ?_, ?_, by decide +kernel⟩
  · intro b m
    rcases translate_fresh (s := { sA .read (elem none none false 0x3_0008) with badBlk := if b then [0x300] else [] }) (t := 0) (p := 1) (va := 0x3_0008) (wr := false) (r := .rd) (g := .hbm 0x3_0008)
      (e := ⟨1, 0, 3, 21, 3, 21, 3, true, 64, none⟩) (by cases b <;> decide +kernel) (by cases b <;> decide +kernel) (by cases b <;> exact ok_of (by decide +kernel)) (by cases b <;> decide +kernel) with e | e <;>
    exact ⟨_, e, by cases b <;> decide +kernel⟩
  · rcases translate_fresh (s := sA .write (elem none (some [some (1, false)]) false 0x3_0008)) (t := 0) (p := 1) (va := 0x3_0008) (wr := true) (r := .wr) (g := .hbm 0x3_0008)
      (e := ⟨1, 0, 3, 21, 3, 21, 3, true, 64, none⟩) (by decide +kernel) (by decide +kernel) (ok_of (by decide +kernel)) (by decide +kernel) with e | e <;>
    exact ⟨_, e, by decide +kernel⟩
theorem wit_WalksReadThreeLevels :
    (∀ d ∈ [(0 : Nat), 5, 3 + 2 ^ 16, 1 + 8, 1 + 2 ^ 20], let rd := fun (_ : Nat) => (.ok d : Except Flt Nat); rd 0 = .ok d) ∧ (3 + 2 ^ 16).testBit 0 = true ∧ (3 + 2 ^ 16).testBit 1 = true ∧
    (3 + 2 ^ 16) / 2 ^ 48 % 2 ^ 16 = 0 ∧ (3 + 2 ^ 16) / 2 ^ 3 % 2 ^ 13 = 0 ∧ (5).testBit 1 = false ∧ 5 / 2 ^ 16 % 2 ^ 21 = 0 ∧ (1 + 8) / 2 ^ 3 % 2 ^ 13 ≠ 0 ∧
    0x3_0008 % 65536 + 8 ≤ 65536 ∧ (sH id).stage2 1 0x3_0008 = .ok (0x3_0008, true) ∧ 0x3_0008 + 8 ≤ hbmTop ∧ (sH id).hbmBad 0x3_0008 8 false = false ∧
    (∃ f, ({ sH id with hbm := [] } : State).stage2 1 0x3_0008 = .error f) := by
  refine ⟨?_, ?_, ?_, ?_, ?_, ?_, ?_, ?_, ?_, ok_of (by decide +kernel), ?_, ?_, ⟨⟨0x09, 5⟩, err_of (by decide +kernel)⟩⟩ <;> decide +kernel
/-- Window 0's entry, the first stage's table and the second's, an outbound entry, in a state. -/
def sTr (ent d1 d2 auth : Nat) : State := sH id fun s =>
  { s with hbm := memWrite (memWrite (memWrite (memWrite [] 0 (leBytes 16 ent)) 0x1_0000 (leBytes 8 d2)) 0x2_0000 (leBytes 8 d1)) 0x4_0000 (leBytes 8 auth)
           parts := s.parts.map fun p => (p.1, { p.2 with authOut := 0x4_0000 }) }
theorem wit_AccessesAreTranslated :
    let va : VAddr := 0x3_0008
    let win1 := 9 + 2 * 2 ^ 16 + 64 * 2 ^ 64
    let peer := 2 + 64 * 2 ^ 64
    (∀ t < 3, (sH id).tlbOf t = []) ∧ (2 ^ 48 : VAddr).toNat / 2 ^ 48 % 2 ^ 16 ≠ 0 ∧ va.toNat / 2 ^ 48 % 2 ^ 16 = 0 ∧
    errOf ((sTr 0 5 0 0).ipaNum 1 0 16) = some ⟨0x09, 5⟩ ∧ okOf ((sTr 3 5 5 0).ipaNum 1 0 16) = some 3 ∧ okOf ((sTr 1 5 5 0).ipaNum 1 0 16) = some 1 ∧ 1 / 2 ^ 64 % 2 ^ 32 * 65536 ≤ 0x3_0008 ∧
    okOf ((sTr win1 5 5 0).ipaNum 1 0 16) = some win1 ∧ okOf ((sTr peer 5 5 0).ipaNum 1 0 16) = some peer ∧
    authAllows ((sTr peer 5 5 (0xF8 * 2 ^ 56)).authEnt 1 0) .rd = true ∧ authAllows ((sTr peer 5 5 0).authEnt 1 0) .rd = false ∧ (sTr peer 5 5 0).hbmBad ((sTr peer 5 5 0).authAt 1 0) 8 false = false ∧
    ({ sTr peer 5 5 0 with badBlk := [0x400] } : State).hbmBad ((sTr peer 5 5 0).authAt 1 0) 8 false = true ∧
    errOf (walk1 ((sTr win1 0 5 0).rd1 none 1 0) 0x2_0000 0x3_0008) = some ⟨0x06, 1⟩ ∧ okOf (walk1 ((sTr win1 5 5 0).rd1 none 1 0) 0x2_0000 0x3_0008) = some (0x3_0008, true) ∧
    okOf (walk1 ((sTr win1 1 5 0).rd1 none 1 0) 0x2_0000 0x3_0008) = some (0x3_0008, false) ∧ okOf ((sTr win1 5 5 0).stage2 1 0x3_0008) = some (0x3_0008, true) ∧
    errOf ((sTr win1 5 0 0).stage2 1 0x3_0008) = some ⟨0x09, 5⟩ ∧ win1.testBit 3 = true ∧
    okOf ((sTr win1 5 (5 + 2 ^ 47) 0).stage2 1 0x3_0008) = some (2 ^ 47 + 0x3_0008, true) ∧ okOf ((sTr win1 5 (5 + 2 ^ 46) 0).stage2 1 0x3_0008) = some (2 ^ 46 + 0x3_0008, true) := by
  refine ⟨?_, ?_, ?_, ?_, ?_, ?_, ?_, ?_, ?_, ?_, ?_, ?_, ?_, ?_, ?_, ?_, ?_, ?_, ?_, ?_, ?_⟩ <;> decide +kernel
/-- A collective of two ranks, this one rank 0, with the group table at 0x5_0000 and window 1 a peer, or 2 no window. -/
def coll2 : Coll := collOf .gather [0, 0x1000, 1, 2 * 2 ^ 32, 0xFFFFFFFF00000000, 0, 0, 0]
def sColl (win : Nat) (up : Bool) (k : OpKind := .coll coll2 [(1, false), (2, false), (3, false), (4, false)] none 0) : State :=
  sH (one (op0 k fun o => { o with sent := true })) fun s => { s with
    hbm := memWrite (memWrite (memWrite (memWrite s.hbm 16 (leBytes 16 (2 + 64 * 2 ^ 64))) 0x4_0000 (leBytes 8 (0xF8 * 2 ^ 56))) 0x5_0000 (leBytes 16 (2 + 0x6_0000 * 2 ^ 64))) 0x6_0008
      (leBytes 8 (win * 2 ^ 48))
    parts := s.parts.map fun p => (p.1, { p.2 with authOut := 0x4_0000, authIn := 0x9_0000, grptab := 0x5_0000 })
    wport := if up then vset (Vector.replicate 18 {}) 5 { en := true, st := .up, lanes := 8 } else Vector.replicate 18 {} }
/-- What rank 1 sends, of partition 2 of device 3. -/
def rank1 : RankInput := { rank := 1, dev := 3, part := 2, group := 0, id := 0, op := 0, etype := 0, count := 1, size := 2, peer := 0xFFFF_FFFF, data := [(5, false)] }
theorem wit_CardsAndCollectivesComplete_ranks :
    (∃ o, (sColl 1 true).op 1 = some o ∧ o.kind = .coll coll2 [(1, false), (2, false), (3, false), (4, false)] none 0 ∧ o.sent = true ∧ (sColl 1 true).earlierOut o = false ∧
      (sColl 1 true).collBefore o coll2 = false) ∧
    (coll2.srcLen ≤ 4 ∧ coll2.others = [1] ∧ (sColl 1 true).collServed 1 coll2 = true ∧ (sColl 1 false).upPort = none ∧ (sColl 1 true).upPort ≠ none) ∧
    (okOf ((sColl 1 true).collAuth 1 coll2)).isSome = true ∧ errOf ((sColl 2 true).collAuth 1 coll2) = some ⟨0x04, 0⟩ ∧
    (rank1.rank ∈ coll2.others ∧ rank1.group = coll2.group ∧ coll2.differs rank1 = false ∧ coll2.differs { rank1 with size := 3 } = true) ∧
    (sColl 1 true).rankMatches 1 coll2 rank1 = false ∧ (sPe true .nak).rankMatches 1 coll2 rank1 = false ∧
    ({ sColl 1 true with hbm := (sColl 1 true).hbm ++ [(0x9_0002, 2), (0x9_0003, 3), (0x9_0007, 0x88)] } : State).rankMatches 1 coll2 rank1 = true ∧
    (∀ b : Bool, let o := op0 (.card card0 true 16 [] []) fun o => { o with sent := true, opened := [(fk 0, 1)] }
      ∀ k ∈ o.opened, ({ sH (one o) with share := if b then (sH id).share else [] } : State).winServed k.1.part (frameVa k.1) = b) := by
  refine ⟨⟨_, rfl, rfl, rfl, ?_, ?_⟩, ?_, ?_, ?_, ?_, ?_, ?_, ?_, ?_⟩ <;> decide +kernel
theorem wit_SyntaxJobsPushTheirTokens_saved :
    (∀ p ∈ [(1 : PartId), 2], ∀ x ∈ [none, some ({ used := true, rasl := true } : SynCtx)], let j := { job true false 0 with part := p, saved := x }; let s := sY { owner := 1, queue := [j] }
      (vget s.syn 2 {}).queue = j :: [] ∧ (vget s.syn 2 {}).pend = none ∧ (j.part = (vget s.syn 2 {}).owner ↔ p = 1) ∧ j.saved = x ∧
        s.jobRuns j (vget (vget s.syn 2 {}).ctx j.ctx.toNat {}) = true) := by decide +kernel
theorem wit_CommitRequestsAreFetched_waits : ∀ t < 49, let s := sCm true t
    s.ipaServed 1 0x6_0000 128 = true ∧ ({ s with share := [] } : State).ipaServed 1 0x6_0000 128 = false ∧ s.slotsServed 1 = true ∧ ({ s with share := [] } : State).slotsServed 1 = false ∧
    s.routesServed 1 0x5_0000 1 = true ∧ ({ s with share := [] } : State).routesServed 1 0x5_0000 1 = false := by decide +kernel
theorem wit_FetchedRegionsArePlaced_lost :
    ∀ b : Bool, let z : Region := { rg0 with st := .fetched, ctxIpa := if b then 0xFFFF_FFFF_0000 else 0 }
      let s : State := { sIm with regions := [z], snaps := [(1, z.ctxIpa, { snap0 with graph := 5, desc := 0 })] }
      (s.snapFor z).isSome = true ∧ s.ctxLost z = b := by decide +kernel
theorem wit_FreezeSendsAMarkerOnEachCircuit_back :
    let i : MItem := { item false { stage := 1, n := 1, held := [tok 3] } with instr := some (.mLd .bf16 (.port 0)) }
    let s := dev id fun y => { y with mq := [i] }
    (s.tile 0).mq = i :: [] ∧ (s.itemInstr 0 i).bind loadPort = some 0 ∧ i.slot ≠ 15 ∧ i.prog.held ≠ [] ∧ (s.itemInstr 0 { i with instr := some (.mDrain 0 (.port 1) false false) }).bind loadPort = none := by
  decide +kernel
theorem wit_InvalidationsDropTheirEntries_spills :
    (let s := sEv true true (some (1, 0)) 0; ∃ f ∈ s.frames, f.key.part = 1 ∧ ∃ x ∈ f.vers, x.spill.isSome = true) ∧
    (let s := (sEv true true (some (1, 0)) 0).modVer (fk 0) 1 fun x => { x with spillIds := [4] }; s.invHeld 1 .all = true) ∧ (sEv true true none 0).invHeld 1 .all = false := by decide +kernel
/-- A version in pool slot 0, one that a deferred `fr.init` keeps in slot 1, and a refill in slot 2. -/
def sSl : State :=
  { sEv true true none 0 with
    regions := [{ rg0 with defer := [.init { key := fk 1, newest := some 1, gen := 6, vers := [{ v := 1, st := .resident, slot := some 1 }] }] }]
    tiles := [(0, { tile0 id id with rc := some { frame := fk 2, v := 1, part := 1, slot := some 2, data := [], cover := [] } })] }
theorem wit_PoolSlotsInUse :
    (∀ q ∈ [(SlotUse.ver (fk 0) 1, 0), (.kept (fk 1) 6 1, 4096), (.refill 0, 8192)], ∃ h ∈ sSl.slotsHeld, h.who = q.1 ∧ sSl.slotPa h.part h.slot = some q.2 ∧
      (sSl.slotAt (q.2 + 5)).map (fun z => (z.1.who, z.2)) = some (q.1, 5)) ∧ 4096 * 0 ≤ 8192 ∧ 8192 < 4096 * (0 + 3) := by decide +kernel
theorem wit_RemovalsTakeRegionsAndSlices_kept :
    ∃ r ∈ sSl.vregs, r.has (fk 1) = true ∧ ∃ x ∈ sSl.regions, ∃ d ∈ x.defer, ∃ f, d = Reclaim.init f ∧ r.has f.key = true := by
  refine ⟨_, .head _, by decide, _, .head _, _, .head _, _, rfl, by decide⟩
theorem wit_WildomPortsTrainAndRetry_long : ∀ n ∈ [256, 257], (List.replicate n ((7 : Byte), false)).length = n := by decide +kernel
theorem wit_PeerAccessesAreAuthorized_lost :
    (∀ b : Bool, let s : State := { sPe true .nak with badBlk := if b then [0x900] else [], share := if b then [] else (sH id).share }
      s.hbmBad (bfld (s.part 1).authIn 47 16 * 65536 + 8 * 31) 8 false = b ∧ s.inboundServed 1 = !b) ∧ ((sH id).part 2).live = false ∧
    (0x3_0008 : BitVec 48).toNat % 4096 + 256 ≤ 8192 ∧ ¬ (0x3_FFFC : BitVec 48).toNat % 65536 + 8 ≤ 65536 ∧ (0x3_FFFC : BitVec 48).toNat % 4096 + 8 ≤ 8192 ∧ 8192 < 0xFFC + 4101 := by decide +kernel
theorem wit_HostRequestsGoThroughTheirFunction_waits :
    let s : State := { sH id with vfmap := 0x100 }
    (s.part 1).bar2 = [] ∧ s.ipaServed 1 0x3_0008 8 = true ∧ ({ s with share := [] } : State).ipaServed 1 0x3_0008 8 = false := by decide +kernel
theorem wit_RegisterResultsTouchNothingElse_base :
    (∃ t, exec (.bAdd 3 1 1 false) sG = .next t) ∧ (∃ t, exec (.bGet 3 1) sG = .next t) := ⟨⟨_, rfl⟩, ⟨_, rfl⟩⟩

/-! ## Steps -/

/-- A word in hand: `add g1, g2, g3` at word 0, or a `few` of an empty register, or nothing decodable. -/
def sStep (w : Lane) (k : Task → Task := id) : State := { dev (fun t => k (gset [(5, 0, .empty)] t)) fun y => { y with istore := [(0, w)] } with live := true }
theorem wit_StepRunsTheDecodedInstruction :
    (sStep 0x08048600).runs ∧ (sStep 0x08048600).live = true ∧ (sStep 0x08048600).cur.ptraps = [] ∧ (sStep 0x08048600).nextIs (.add 1 2 1 true false) ∧
    (∃ u, exec (.add 1 2 1 true false) { sStep 0x08048600 with live := false } = .next u ∧ ∀ r, u.cur.st = .parked r → r = .matrix) ∧
    (∃ u, exec (.few 5) { sStep 0x50014000 with live := false } = .next u ∧ ∃ r, r ≠ .matrix ∧ u.cur.st = .parked r) ∧
    (let s : State := { dev with live := false, agenda := [⟨4, .event (.issueSlot 0)⟩] }; s.runs ∧ s.live = false ∧ s.agenda = ⟨4, .event (.issueSlot 0)⟩ :: []) := by
  refine ⟨⟨rfl, rfl⟩, rfl, rfl, ⟨by decide +kernel, by decide +kernel, by rfl⟩, ⟨_, rfl, ?_⟩, ⟨_, rfl, .emptyReg, by decide, by rfl⟩, ⟨rfl, rfl⟩, rfl, rfl⟩
  intro r h
  cases h
theorem wit_FetchTrapsNameTheirCause :
    (let s := sStep 0 fun k => { k with ptraps := [⟨9, none, 8⟩] }; s.cur.ptraps ≠ []) ∧
    (let s := sStep 0 fun k => { k with pc := 8192 }; s.cur.ptraps = [] ∧ s.limit ≤ s.cur.pc) ∧
    (let s := (sStep 0).modTile 0 fun y => { y with ipois := [0] }; s.cur.pc < s.limit ∧ s.wordsBad s.cur.pc 1 = true) ∧
    (let s := sStep 0; s.cur.pc < s.limit ∧ s.wordsBad s.cur.pc 1 = false ∧ major (s.word 0) ≠ 0x1F ∧ decode [(s.word 0).toNat] = .error ⟨0, 0⟩) ∧
    (let s := (sStep 0 fun k => { k with pc := 8189 }).modTile 0 fun y => { y with istore := [(8189, 0xF8000000)] }
     s.cur.pc < s.limit ∧ s.wordsBad s.cur.pc 1 = false ∧ major (s.word s.cur.pc) = 0x1F ∧ s.limit < s.cur.pc + 4) ∧
    (let s := (sStep 0).modTile 0 fun y => { y with istore := [(0, 0xF8000000)], ipois := [2] }
     s.cur.pc + 4 ≤ s.limit ∧ s.wordsBad s.cur.pc 1 = false ∧ major (s.word s.cur.pc) = 0x1F ∧
      (upFrom s.cur.pc 4).find? (s.wordBad s.ctx.tile s.ctx.slot s.cur.phase) = some 2) := by
  refine ⟨by decide +kernel, by decide +kernel, by decide +kernel, ⟨by decide +kernel, by decide +kernel, by decide +kernel, by rfl⟩, by decide +kernel, by decide +kernel⟩
theorem wit_DecodeInvertsEncode : (Instr.add 1 2 3 true false).isWord = true ∧ (Instr.add 1 2 3 true false).wellFormed = true := by decide
theorem wit_EncodeInvertsDecode : 0x08048600 < 2 ^ 32 ∧ [0x08048600].length = (Instr.add 1 2 1 true false).len ∧ decode [0x08048600] = .ok (.add 1 2 1 true false) := ⟨by decide, rfl, rfl⟩
theorem wit_EveryStepKeepsCanonicalMemory : (sStep 0x08048600).Canon ∧ ∃ t, step (sStep 0x08048600) = .next t :=
  ⟨⟨by decide +kernel, by decide +kernel, by simp only [Tile.Canon, Rising]; decide +kernel⟩, _, rfl⟩
theorem wit_FrozenStateStaysAsItIs :
    (∃ t, step { dev with shut := true, agenda := [⟨3, .tick⟩] } = .next t) ∧ (∃ t, step { dev with powered := false, agenda := [⟨3, .tick⟩] } = .next t) ∧
    (∀ d i r, ([⟨3, .tick⟩] : List Turn) ≠ ⟨d, .event (.deviceReset i)⟩ :: r) :=
  ⟨⟨_, rfl⟩, ⟨_, rfl⟩, by intro d i r h; cases h⟩
theorem wit_RegisterResultsTouchNothingElse :
    sG.ctx.unit = .task ∧ sG.full 1 5 ∧ sG.full 2 7 ∧ sG.takes 3 ∧ (∃ t, (sG.setG 3 1).done = .next t) ∧ (∃ t, (sG.setB 3 1).done = .next t) ∧
    (∃ t, (sG.setM 3 1).done = .next t) ∧ (∃ t, (sG.setW 3 (tok 1)).done = .next t) ∧ (∃ t, exec (.add 3 1 2 true true) sG = .next t) ∧
    (∃ t, exec (.liS60 1 true 9) sG = .next t) :=
  ⟨rfl, by unfold State.full; decide +kernel, by unfold State.full; decide +kernel, by unfold State.takes; decide +kernel, ⟨_, rfl⟩, ⟨_, rfl⟩, ⟨_, rfl⟩, ⟨_, rfl⟩, ⟨_, rfl⟩, ⟨_, rfl⟩⟩

end Sys2Proof.Tests
end

section
/-! PROOFS. Scalar and control words: integer arithmetic, branches, jumps, full/empty control, waits, traps (R66, R71 to R73, R77, R83,
R85). First the rules for an illegal word, which every family of words uses. -/
namespace Sys2Proof.Proofs.ScalarControl
open Sys2Proof Sys2Proof.Machine
open Sys2Proof.Laws.RoundTrip (inG01 inG07 inG08 inG0A inG0B fld_sub)

/-! ## Illegal words (R55 to R57) -/

/-- A field of n bits is below 2^n. -/
theorem fld_lt (w hi lo : Nat) : fld w hi lo < 2 ^ (hi + 1 - lo) := Nat.mod_lt _ (Nat.two_pow_pos _)

/-- Checks that hold pass on to the next, and the first that fails names its field. -/
theorem chk_pass {c : Bool} {f : Nat} {r : List (Bool × Nat)} {i : Instr} (h : c = true) : chk ((c, f) :: r) i = chk r i := by
  simp only [chk, h, if_true]
theorem chk_fail {c : Bool} {f : Nat} {r : List (Bool × Nat)} {i : Instr} (h : c = false) : chk ((c, f) :: r) i = .error f := by
  simp only [chk, h, Bool.false_eq_true, if_false]

/-- A one-word instruction that its group refuses is refused, in word 0. -/
theorem decode_refused {w f : Nat} (hw : w < 2 ^ 32) (hg : fld w 31 27 ≠ 31) (h : decWord w = .error f) :
    decode [w] = .error ⟨f, 0⟩ := by
  unfold decode
  simp only [List.getD_cons_zero, Nat.mod_eq_of_lt hw, hg, if_false, h]

/-! ## The checks of group 0x01 (R51, R56, R66) -/

/-- A two-source word of group 0x01: mod is zero. -/
theorem decG01_two_sources {w : Nat} (h : fld w 26 22 < 22) : ∃ i, decG01 w = chk [(fld w 7 0 = 0, 8)] i := by
  unfold decG01
  generalize fld w 26 22 = m at h
  interval_cases m <;> exact ⟨_, rfl⟩
/-- A one-source word: s2 and wait2 are zero, and mod is zero but for an extension, whose width it names. -/
theorem decG01_one_source {w : Nat} (l : 22 ≤ fld w 26 22) (h : fld w 26 22 < 28) :
    ∃ i, decG01 w = chk [(fld w 13 10 = 0, 5), (fld w 8 8 = 0, 7),
      (if fld w 26 22 < 26 then fld w 7 0 = 0 else fld w 7 0 < 3, 8)] i := by
  unfold decG01
  generalize fld w 26 22 = m at l h
  interval_cases m <;> exact ⟨_, rfl⟩
/-- The other minor codes stand for nothing. -/
theorem decG01_undefined {w : Nat} (l : 28 ≤ fld w 26 22) : decG01 w = .error 1 := by
  have h : fld w 26 22 < 32 := fld_lt w 26 22
  unfold decG01
  generalize fld w 26 22 = m at l h
  interval_cases m <;> rfl

/-- R66: the words of group 0x01 that are ILLEGAL. -/
theorem scalarWordsAreRefused : Claims.ScalarWordsAreRefused := by
  intro w hw hg
  have refuse : ∀ {f}, decG01 w = .error f → decode [w] = .error ⟨f, 0⟩ := fun h =>
    decode_refused hw (by omega) (by rw [inG01 hg, h])
  refine ⟨fun hm => refuse (decG01_undefined hm), fun hm h0 => refuse ?_,
    fun hl hm => ⟨fun h5 => refuse ?_, fun h5 h7 => refuse ?_, fun h5 h7 h8 => refuse ?_⟩⟩
  · obtain ⟨i, hi⟩ := decG01_two_sources hm
    rw [hi, chk_fail (decide_eq_false h0)]
  all_goals obtain ⟨i, hi⟩ := decG01_one_source hl hm
  · rw [hi, chk_fail (decide_eq_false h5)]
  · rw [hi, chk_pass (decide_eq_true h5), chk_fail (decide_eq_false h7)]
  · rw [hi, chk_pass (decide_eq_true h5), chk_pass (decide_eq_true h7), chk_fail]
    split at h8
    · next hk => rw [if_pos hk]; exact decide_eq_false h8
    · next hk => rw [if_neg hk]; exact decide_eq_false (by omega)

/-! ## Integer arithmetic (R66) -/

/-- What R66 says of a two-source word with operands x and y and result r. -/
def TwoSource (s : State) (d a b : BitVec 4) (w v : Bool) (x y : DWord) (i : Instr) (r : DWord) : Prop :=
  (s.full a x → s.full b y → s.takes d → exec i s = (s.setG d r).done) ∧
  ((s.g a).st ≠ .full → exec i s = s.blocked a w 4) ∧
  (s.full a x → (s.g b).st ≠ .full → exec i s = s.blocked b v 5) ∧
  (s.full a x → s.full b y → (s.g d).st = .pending → exec i s = s.parks .destPending)
/-- What R66 says of a one-source word. -/
def OneSource (s : State) (d a : BitVec 4) (w : Bool) (x : DWord) (i : Instr) (r : DWord) : Prop :=
  (s.full a x → s.takes d → exec i s = (s.setG d r).done) ∧
  ((s.g a).st ≠ .full → exec i s = s.blocked a w 4) ∧
  (s.full a x → (s.g d).st = .pending → exec i s = s.parks .destPending)

section Rules
variable {s : State} {d a b : BitVec 4} {w v : Bool} {x y r : DWord} {i : Instr}

/-- A word that runs `scalar2` does so with its function's value for result. -/
theorem twoSource_of_exec {f : DWord → DWord → DWord} (h : exec i s = .next (scalar2 s d a b w v f)) (hr : f x y = r) :
    TwoSource s d a b w v x y i r := by
  subst hr
  unfold TwoSource
  rw [h]
  unfold scalar2
  refine ⟨fun ha hb hd => ?_, fun ha => ?_, fun ha hb => ?_, fun ha hb hd => ?_⟩
  · rw [needG_full _ _ _ ha, needG_full _ _ _ hb, needD_takes _ hd]; rfl
  · rw [needG_not_full _ _ _ ha, blocked_eq]
  · rw [needG_full _ _ _ ha, needG_not_full _ _ _ hb, blocked_eq]
  · rw [needG_full _ _ _ ha, needG_full _ _ _ hb, needD_pending _ hd]; rfl
/-- The same of `scalar1`. -/
theorem oneSource_of_exec {f : DWord → DWord} (h : exec i s = .next (scalar1 s d a w f)) (hr : f x = r) :
    OneSource s d a w x i r := by
  subst hr
  unfold OneSource
  rw [h]
  unfold scalar1
  refine ⟨fun ha hd => ?_, fun ha => ?_, fun ha hd => ?_⟩
  · rw [needG_full _ _ _ ha, needD_takes _ hd]; rfl
  · rw [needG_not_full _ _ _ ha, blocked_eq]
  · rw [needG_full _ _ _ ha, needD_pending _ hd]; rfl

end Rules

/-! The model's results as the table writes them. -/

theorem sub_eq_ofInt (x y : DWord) : x - y = .ofInt 64 (x.toNat - y.toNat) := by
  apply BitVec.eq_of_toNat_eq
  rw [BitVec.toNat_sub, BitVec.toNat_ofInt]
  omega
theorem mul_eq_ofNat (x y : DWord) : x * y = .ofNat 64 (x.toNat * y.toNat) := by
  apply BitVec.eq_of_toNat_eq
  rw [BitVec.toNat_mul, BitVec.toNat_ofNat]
/-- The shift count is the second operand's low six bits. -/
theorem shiftCount (y : DWord) : y.toNat % 64 = (y.extractLsb' 0 6).toNat := by
  rw [BitVec.extractLsb'_toNat]; rfl
theorem flag_slt (x y : DWord) : flag (x.slt y) = if x.toInt < y.toInt then 1 else 0 := by
  rw [BitVec.slt_eq_decide]; unfold flag; simp only [decide_eq_true_eq]
theorem flag_ult (x y : DWord) : flag (x.ult y) = if x.toNat < y.toNat then 1 else 0 := by
  rw [BitVec.ult_eq_decide]; unfold flag; simp only [decide_eq_true_eq]
theorem ite_slt (x y u v : DWord) : (if x.slt y then u else v) = if x.toInt < y.toInt then u else v := by
  simp only [BitVec.slt_iff_toInt_lt]
theorem ite_ult (x y u v : DWord) : (if x.ult y then u else v) = if x.toNat < y.toNat then u else v := by
  simp only [BitVec.ult_iff_toNat_lt]

/-- R66: every row of the table. -/
theorem integerArithmeticFollowsTable : Claims.IntegerArithmeticFollowsTable := by
  intro s d a b w v x y
  have low : ∀ n, n ≤ 64 → x.setWidth n = x.extractLsb' 0 n := fun _ h => BitVec.setWidth_eq_extractLsb' h
  simp only [List.forall_mem_cons]
  refine ⟨⟨
    twoSource_of_exec rfl (BitVec.add_def x y), twoSource_of_exec rfl (sub_eq_ofInt x y), twoSource_of_exec rfl (mul_eq_ofNat x y),
    twoSource_of_exec rfl rfl, twoSource_of_exec rfl rfl, twoSource_of_exec rfl rfl, twoSource_of_exec rfl rfl,
    twoSource_of_exec rfl rfl, twoSource_of_exec rfl rfl,
    twoSource_of_exec rfl rfl, twoSource_of_exec rfl rfl, twoSource_of_exec rfl rfl, twoSource_of_exec rfl rfl,
    twoSource_of_exec rfl (congrArg (x <<< ·) (shiftCount y)), twoSource_of_exec rfl (congrArg (x >>> ·) (shiftCount y)),
    twoSource_of_exec rfl (congrArg x.sshiftRight (shiftCount y)),
    twoSource_of_exec rfl (flag_slt x y), twoSource_of_exec rfl (flag_ult x y),
    twoSource_of_exec rfl (ite_slt x y x y), twoSource_of_exec rfl (ite_slt x y y x),
    twoSource_of_exec rfl (ite_ult x y x y), twoSource_of_exec rfl (ite_ult x y y x), List.forall_mem_nil _⟩,
    oneSource_of_exec rfl rfl, oneSource_of_exec rfl rfl, oneSource_of_exec rfl rfl, oneSource_of_exec rfl rfl,
    oneSource_of_exec rfl (congrArg (BitVec.signExtend 64) (low 8 (by decide))),
    oneSource_of_exec rfl (congrArg (BitVec.signExtend 64) (low 16 (by decide))),
    oneSource_of_exec rfl (congrArg (BitVec.signExtend 64) (low 32 (by decide))),
    oneSource_of_exec rfl (congrArg (BitVec.setWidth 64) (low 8 (by decide))),
    oneSource_of_exec rfl (congrArg (BitVec.setWidth 64) (low 16 (by decide))),
    oneSource_of_exec rfl (congrArg (BitVec.setWidth 64) (low 32 (by decide))), List.forall_mem_nil _⟩

/-! ## Counts of bits (R66) -/

/-- All bits from `bitLen` up are zero. -/
theorem testBit_of_bitLen_le {n k : Nat} (h : bitLen n ≤ k) : n.testBit k = false := by
  unfold bitLen at h
  split at h
  · next h0 => rw [h0]; exact Nat.zero_testBit k
  · exact Nat.testBit_lt_two_pow (Nat.lt_of_lt_of_le Nat.lt_log2_self (Nat.pow_le_pow_right (by decide) h))
/-- Of a number that is not zero it is one above the highest one. -/
theorem bitLen_of_ne_zero {n : Nat} (h : n ≠ 0) : bitLen n = n.log2 + 1 := by unfold bitLen; rw [if_neg h]

theorem ctzN_zero (n : Nat) : ctzN n 0 = n := by
  induction n with
  | zero => rfl
  | succ n ih => simp [ctzN, ih]; omega
/-- All bits below `ctzN` are zero. -/
theorem testBit_of_lt_ctzN {n m k : Nat} (h : k < ctzN n m) : m.testBit k = false := by
  induction n generalizing m k with
  | zero => exact absurd h (Nat.not_lt_zero k)
  | succ n ih =>
    unfold ctzN at h
    split at h
    · exact absurd h (Nat.not_lt_zero k)
    · next odd =>
      cases k with
      | zero => rw [Nat.testBit_zero]; exact decide_eq_false odd
      | succ k => rw [Nat.testBit_succ]; exact ih (by omega)
/-- Its own is set, unless the number is zero in all the bits looked at. -/
theorem testBit_ctzN {n m : Nat} (h : m % 2 ^ n ≠ 0) : m.testBit (ctzN n m) = true := by
  induction n generalizing m with
  | zero => exact absurd (Nat.mod_one m) h
  | succ n ih =>
    unfold ctzN
    split
    · next odd => rw [Nat.testBit_zero]; exact decide_eq_true odd
    · next even =>
      rw [Nat.add_comm, Nat.testBit_succ]
      refine ih fun h0 => h ?_
      have := Nat.mod_mul (x := m) (a := 2) (b := 2 ^ n)
      rw [Nat.pow_succ', this, h0]; omega

/-- `popN` counts the positions whose bit is set. -/
theorem popN_eq_length (n m : Nat) : popN n m = ((List.range n).filter fun k => m.testBit k).length := by
  induction n generalizing m with
  | zero => rfl
  | succ n ih =>
    have shift : (fun k => m.testBit k) ∘ Nat.succ = fun k => (m / 2).testBit k := funext fun k => Nat.testBit_succ m k
    rw [popN, ih, List.range_succ_eq_map, List.filter_cons, List.filter_map, shift, Nat.testBit_zero]
    rcases Nat.mod_two_eq_zero_or_one m with e | e <;> simp [e, Nat.add_comm]

/-- R66: what the counts count. -/
theorem bitCountsCountBits : Claims.BitCountsCountBits := by
  intro x
  have nonzero : x ≠ 0 → x.toNat ≠ 0 := fun h e => h (BitVec.eq_of_toNat_eq e)
  refine ⟨fun h => ⟨?_, fun k hk => testBit_of_bitLen_le hk, ?_⟩, rfl, fun h => ⟨?_, fun k hk => testBit_of_lt_ctzN hk⟩,
    ctzN_zero 64, popN_eq_length 64 x.toNat⟩
  · rw [bitLen_of_ne_zero (nonzero h)]; exact Nat.testBit_log2 (nonzero h)
  · rw [bitLen_of_ne_zero (nonzero h)]; exact Nat.succ_pos _
  · exact testBit_ctzN (by rw [Nat.mod_eq_of_lt x.isLt]; exact nonzero h)

/-- Settles O1: each row is a `scalar2` or `scalar1` word, whose function's value is the table's. -/
theorem scalarArithmeticFollowsTheTables : Obligations.ScalarArithmeticFollowsTheTables :=
  ⟨integerArithmeticFollowsTable, bitCountsCountBits, scalarWordsAreRefused⟩

/-! ## Branches and jumps (R71, R72) -/

/-- What R71 says of a branch whose test is p. -/
def Goes (s : State) (o : BitVec 18) (i : Instr) (p : Prop) : Prop :=
  let t : Int := s.cur.pc + o.toInt
  (¬ p → exec i s = s.done) ∧
  (p → 0 ≤ t → t < s.limit → exec i s = .next (s.modCur fun k => { k with st := .ready, pc := t.toNat, mark := none })) ∧
  (p → (t < 0 ∨ s.limit ≤ t) → exec i s = s.traps 4 0 (.ofInt 64 t))

/-- A word that runs `branch` on a test goes as R71 says. -/
theorem goes_of_exec {s : State} {o : BitVec 18} {i : Instr} {c : Bool} {p : Prop}
    (h : exec i s = .next (branch s c o)) (hc : c = true ↔ p) : Goes s o i p := by
  unfold Goes
  rw [h, ← hc]
  unfold branch
  refine ⟨fun hf => ?_, fun ht low high => ?_, fun ht out => ?_⟩
  · rw [if_neg hf]; rfl
  · rw [if_pos ht, jump_in (t := s.target o) low high]; rfl
  · rw [if_pos ht, jump_out (t := s.target o) out]; rfl
/-- One that tests a g register, once that is full. -/
theorem goes_of_execG {s : State} {a : BitVec 4} {w : Bool} {o : BitVec 18} {x : DWord} {i : Instr} {f : Int → Bool} {p : Prop}
    (h : exec i s = .next (branchG s a w o f)) (hx : s.full a x) (hp : f x.toInt = true ↔ p) : Goes s o i p :=
  goes_of_exec (by rw [h]; unfold branchG; rw [needG_full _ _ _ hx]) hp
/-- Before that it parks or traps. -/
theorem blocked_of_execG {s : State} {a : BitVec 4} {w : Bool} {o : BitVec 18} {i : Instr} {f : Int → Bool}
    (h : exec i s = .next (branchG s a w o f)) (hx : (s.g a).st ≠ .full) : exec i s = s.blocked a w 4 := by
  rw [h, blocked_eq]; unfold branchG; rw [needG_not_full _ _ _ hx]

/-- R71: every branch. -/
theorem branchesTestAndGo : Claims.BranchesTestAndGo := by
  intro s a r w o x
  refine ⟨fun hx => ⟨goes_of_execG rfl hx beq_iff_eq, goes_of_execG rfl hx bne_iff_ne, goes_of_execG rfl hx decide_eq_true_iff,
      goes_of_execG rfl hx decide_eq_true_iff, goes_of_execG rfl hx decide_eq_true_iff, goes_of_execG rfl hx decide_eq_true_iff⟩,
    fun hx => ?_, goes_of_exec rfl beq_iff_eq, goes_of_exec rfl bne_iff_ne, fun hm => ⟨?_, ?_⟩⟩
  · simp only [List.forall_mem_cons]
    exact ⟨blocked_of_execG rfl hx, blocked_of_execG rfl hx, blocked_of_execG rfl hx, blocked_of_execG rfl hx,
      blocked_of_execG rfl hx, blocked_of_execG rfl hx, List.forall_mem_nil _⟩
  · exact goes_of_exec (c := s.m r != 0) (congrArg Host.Outcome.next (needM_free _ hm)) bne_iff_ne
  · exact goes_of_exec (c := s.m r == 0) (congrArg Host.Outcome.next (needM_free _ hm)) beq_iff_eq

/-- A target in the program passes; one outside it traps BAD_TARGET. -/
theorem needTarget_in {s : State} {t : Int} (k : State) (low : 0 ≤ t) (high : t < s.limit) : needTarget s t k = k := by
  unfold needTarget; rw [if_pos ⟨low, high⟩]
theorem needTarget_out {s : State} {t : Int} (k : State) (h : t < 0 ∨ s.limit ≤ t) : needTarget s t k = trap s 4 0 (.ofInt 64 t) := by
  unfold needTarget; rw [if_neg (by omega)]
/-- A register write leaves the program's length as it is. -/
@[simp] theorem limit_setG (s : State) (d : BitVec 4) (x : DWord) : (s.setG d x).limit = s.limit := by
  unfold State.limit State.rcTask State.setG
  rw [modCur_eq, setTask_ctx]
  unfold State.setTask
  rw [modTile_eq, tile_setTile, if_pos rfl]
/-- A linked jump, or a loop's, inside the program: the register is written and the task goes on at the target. -/
theorem link_in {s : State} {t : Int} (d : BitVec 4) (v : DWord) (low : 0 ≤ t) (high : t < s.limit) :
    needTarget s t (jump (s.setG d v) t) = (s.setG d v).modCur fun k => { k with st := .ready, pc := t.toNat, mark := none } := by
  rw [needTarget_in _ low high, jump_in low (by rwa [limit_setG])]
/-- The trap value of a register's target is the register's value. -/
theorem ofInt_toNat (x : DWord) : BitVec.ofInt 64 (x.toNat : Int) = x := by
  rw [BitVec.ofInt_natCast, BitVec.ofNat_toNat, BitVec.setWidth_eq]

/-- What the jumps with a register do once it is full, or can take the link. -/
theorem exec_loop {s : State} {a : BitVec 4} {x : DWord} (w : Bool) (o : BitVec 18) (h : s.full a x) : exec (.loop a w o) s = .next (
    if 1 < x.toNat then needTarget s (s.target o) (jump (s.setG a (x - 1)) (s.target o)) else advance (s.setG a 0) 1) :=
  congrArg Host.Outcome.next (needG_full _ _ _ h)
theorem exec_jr {s : State} {a : BitVec 4} {x : DWord} (w : Bool) (h : s.full a x) : exec (.jr a w) s = .next (jump s x.toNat) :=
  congrArg Host.Outcome.next (needG_full _ _ _ h)
theorem exec_callr {s : State} {a : BitVec 4} {x : DWord} (w : Bool) (l : BitVec 4) (h : s.full a x) : exec (.callr a w l) s = .next (
    needD s l (needTarget s x.toNat (jump (s.setG l (w64 (s.cur.pc + 1))) x.toNat))) :=
  congrArg Host.Outcome.next (needG_full _ _ _ h)
theorem exec_call {s : State} {l : BitVec 4} (o : BitVec 18) (h : s.takes l) : exec (.call l o) s = .next (
    needTarget s (s.target o) (jump (s.setG l (w64 (s.cur.pc + 1))) (s.target o))) :=
  congrArg Host.Outcome.next (needD_takes _ h)

/-- R72: the jumps and the loop. -/
theorem jumpsFollowPseudocode : Claims.JumpsFollowPseudocode := by
  intro s a l w o x
  refine ⟨fun low high => ⟨congrArg Host.Outcome.next (jump_in low high), fun hl => ?_, fun hx h1 => ?_⟩,
    fun out => ⟨congrArg Host.Outcome.next (jump_out out), fun hl => ?_, fun hx h1 => ?_⟩,
    fun hl => ⟨congrArg Host.Outcome.next (needD_pending _ hl), fun hx => ?_⟩, fun hx h1 => ?_, fun hx high => ⟨?_, fun hl => ?_⟩,
    fun hx out => ⟨?_, fun hl => ?_⟩, fun hx => ⟨?_, ?_, ?_⟩⟩
  · rw [exec_call o hl, link_in (t := s.target o) _ _ low high]; rfl
  · rw [exec_loop w o hx, if_pos h1, link_in (t := s.target o) _ _ low high]; rfl
  · rw [exec_call o hl, needTarget_out (t := s.target o) _ out]; rfl
  · rw [exec_loop w o hx, if_pos h1, needTarget_out (t := s.target o) _ out]; rfl
  · rw [exec_callr w l hx, needD_pending _ hl]; rfl
  · rw [exec_loop w o hx, if_neg (by omega)]; rfl
  · rw [exec_jr w hx, jump_in (by omega) (by omega), Int.toNat_natCast]
  · rw [exec_callr w l hx, needD_takes _ hl, link_in _ _ (by omega) (by omega), Int.toNat_natCast]
  · rw [exec_jr w hx, jump_out (by omega), ofInt_toNat]; rfl
  · rw [exec_callr w l hx, needD_takes _ hl, needTarget_out _ (by omega), ofInt_toNat]; rfl
  all_goals rw [blocked_eq]; exact congrArg Host.Outcome.next (needG_not_full _ _ _ hx)

/-- The branches with a field to check: `bfull` and `bempty` hold no wait bit, `bmany` and `bmnone` name one of four registers and hold
none either. -/
theorem decG07_fullness {w : Nat} (h : fld w 26 23 = 6 ∨ fld w 26 23 = 7) : ∃ i, decG07 w = chk [(fld w 18 18 = 0, 7)] i := by
  unfold decG07
  rcases h with h | h <;> rw [h] <;> exact ⟨_, rfl⟩
theorem decG07_mask {w : Nat} (h : fld w 26 23 = 8 ∨ fld w 26 23 = 9) :
    ∃ i, decG07 w = chk [(fld w 22 19 < 4, 4), (fld w 18 18 = 0, 7)] i := by
  unfold decG07
  rcases h with h | h <;> rw [h] <;> exact ⟨_, rfl⟩
/-- The jumps, by minor code. -/
theorem decG08_j {w : Nat} (h : fld w 26 23 = 0) :
    decG08 w = chk [(fld w 22 19 = 0, 4), (fld w 18 18 = 0, 7)] (.j (.ofNat 18 (fld w 17 0))) := by
  simp only [decG08, h]
theorem decG08_call {w : Nat} (h : fld w 26 23 = 1) :
    decG08 w = chk [(fld w 18 18 = 0, 7)] (.call (b4 (fld w 22 19)) (.ofNat 18 (fld w 17 0))) := by
  simp only [decG08, h]
theorem decG08_jr {w : Nat} (h : fld w 26 23 = 2) :
    decG08 w = chk [(fld w 17 0 = 0, 9)] (.jr (b4 (fld w 22 19)) (bit (fld w 18 18))) := by
  simp only [decG08, h]
theorem decG08_callr {w : Nat} (h : fld w 26 23 = 3) :
    decG08 w = chk [(fld w 17 0 < 16, 9)] (.callr (b4 (fld w 22 19)) (bit (fld w 18 18)) (b4 (fld w 3 0))) := by
  simp only [decG08, h]
theorem decG08_undefined {w : Nat} (l : 5 ≤ fld w 26 23) : decG08 w = .error 1 := by
  have h : fld w 26 23 < 16 := fld_lt w 26 23
  unfold decG08
  generalize fld w 26 23 = m at l h
  interval_cases m <;> rfl
/-- A field whose upper part is not zero is no small number. -/
theorem le_fld_of_upper_ne_zero {w : Nat} (h : fld w 17 4 ≠ 0) : 16 ≤ fld w 17 0 := by
  rw [fld_sub w 17 0 17 4 (by decide) (by decide) (by decide)] at h
  unfold fld at h ⊢
  omega

/-- R71, R72: the branch and jump words that are ILLEGAL. -/
theorem jumpWordsAreRefused : Claims.JumpWordsAreRefused := by
  intro w hw
  have refuse7 : ∀ {f}, fld w 31 27 = 7 → decG07 w = .error f → decode [w] = .error ⟨f, 0⟩ := fun hg h =>
    decode_refused hw (by omega) (by rw [inG07 hg, h])
  have refuse8 : ∀ {f}, fld w 31 27 = 8 → decG08 w = .error f → decode [w] = .error ⟨f, 0⟩ := fun hg h =>
    decode_refused hw (by omega) (by rw [inG08 hg, h])
  refine ⟨fun hg => ⟨fun hk h4 => refuse7 hg ?_, fun hk h7 => refuse7 hg ?_, fun hk h4 h7 => refuse7 hg ?_⟩,
    fun hg => ⟨fun hk => refuse8 hg ?_, fun hk h4 => refuse8 hg ?_, fun hk h4 h7 => refuse8 hg ?_, fun hk h7 => refuse8 hg ?_,
      fun hk h9 => refuse8 hg ?_, fun hk h9 => refuse8 hg ?_⟩⟩
  · obtain ⟨i, hi⟩ := decG07_mask hk
    rw [hi, chk_fail (by simpa using h4)]
  · obtain ⟨i, hi⟩ := decG07_fullness hk
    rw [hi, chk_fail (by simpa using h7)]
  · obtain ⟨i, hi⟩ := decG07_mask hk
    rw [hi, chk_pass (by simpa using h4), chk_fail (by simpa using h7)]
  · exact decG08_undefined hk
  · rw [decG08_j hk, chk_fail (by simpa using h4)]
  · rw [decG08_j hk, chk_pass (by simpa using h4), chk_fail (by simpa using h7)]
  · rw [decG08_call hk, chk_fail (by simpa using h7)]
  · rw [decG08_jr hk, chk_fail (by simpa using h9)]
  · rw [decG08_callr hk, chk_fail (by simpa using le_fld_of_upper_ne_zero h9)]

/-- Settles O5: branches, jumps and loops through `jump` and `needTarget`, and the refused words check by check. -/
theorem branchesAndJumpsGoOrTrap : Obligations.BranchesAndJumpsGoOrTrap :=
  ⟨branchesTestAndGo, jumpsFollowPseudocode, jumpWordsAreRefused⟩

/-! ## Full/empty control, waits and the end of a task (R73, R77) -/

/-- R73: `few` and `fec`. -/
theorem fullEmptyControl : Claims.FullEmptyControl := by
  intro s r
  refine ⟨fun h => ?_, fun h => ?_, fun h => ?_, fun h => ?_⟩
  · exact congrArg Host.Outcome.next (needG_full (x := (s.g r).val) true 4 _ (by unfold State.full; rw [← h]))
  · exact congrArg Host.Outcome.next (needG_not_full true 4 _ h)
  · exact congrArg Host.Outcome.next (needD_pending _ h)
  · exact congrArg Host.Outcome.next (needD_takes _ h)

/-- The firing rule of a word that names one input port, or one output port, that nothing binds (R92). -/
theorem needPorts_input {s : State} {p : BitVec 3} (k : State) (h : s.bound false p = false) :
    needPorts s [p] [] k = if (s.head p).isSome then k else park s .port := by
  simp only [needPorts, List.find?_cons, List.find?_nil, h, List.all_cons, List.all_nil, Bool.and_true]
theorem needPorts_output {s : State} {p : BitVec 3} (k : State) (h : s.bound true p = false) :
    needPorts s [] [p] k = if s.space p then k else park s .port := by
  simp only [needPorts, List.find?_cons, List.find?_nil, h, List.all_cons, List.all_nil, Bool.and_true, Bool.true_and]

/-- A task has a pending g register exactly if one of the sixteen reads as pending. -/
theorem pendingG_iff (s : State) : s.cur.pendingG = true ↔ ∃ r : BitVec 4, (s.g r).st = .pending := by
  have read : ∀ i (h : i < 16), vget s.cur.g i {} = s.cur.g[i] := fun i h => by
    unfold vget; rw [List.getD_eq_getElem _ _ (by simpa using h), Vector.getElem_toList]
  unfold Task.pendingG State.g
  simp only [List.any_eq_true, beq_iff_eq, Vector.mem_toList_iff, Vector.mem_iff_getElem]
  constructor
  · rintro ⟨_, ⟨i, hi, rfl⟩, h⟩
    exact ⟨.ofNatLT i hi, by rw [BitVec.toNat_ofNatLT, read i hi, h]⟩
  · rintro ⟨r, h⟩
    exact ⟨_, ⟨r.toNat, r.isLt, rfl⟩, by rw [← read _ r.isLt, h]⟩

/-- R77: `waitp`, `yield` and `end`. -/
theorem waitYieldEnd : Claims.WaitYieldEnd := by
  intro s p
  have waitIn : s.bound false p = false → exec (.waitp p false) s = .next (if (s.head p).isSome then advance s 1 else park s .port) :=
    fun hb => congrArg Host.Outcome.next (needPorts_input _ hb)
  have waitOut : s.bound true p = false → exec (.waitp p true) s = .next (if s.space p then advance s 1 else park s .port) :=
    fun hb => congrArg Host.Outcome.next (needPorts_output _ hb)
  have ends : exec .endTask s = .next (if s.cur.pendingG || (s.tile s.ctx.tile).runsOf s.ctx.slot .matrix ||
      (s.tile s.ctx.tile).runsOf s.ctx.slot .stream then park s .endWait
      else s.modCur fun k => { k with st := .retired, mark := none }) := rfl
  refine ⟨fun hb hh => ?_, fun hb hh => ?_, fun hb hs => ?_, fun hb hs => ?_, rfl, fun busy => ?_, fun free => ?_⟩
  · rw [waitIn hb, if_pos hh]; rfl
  · rw [waitIn hb, hh]; rfl
  · rw [waitOut hb, if_pos hs]; rfl
  · rw [waitOut hb, hs]; rfl
  all_goals rw [← pendingG_iff] at *; rw [ends]
  · rw [if_pos (by simpa [or_assoc] using busy)]; rfl
  · rw [if_neg (by simpa [or_assoc] using free)]

/-- The checks of `few` and `fec`. -/
theorem decG0A_few {w : Nat} (h : fld w 26 22 = 0) : decG0A w =
    chk [(fld w 21 18 = 0, 3), (fld w 13 10 = 0, 5), (fld w 9 9 = 0, 7), (fld w 8 8 = 0, 7), (fld w 7 0 = 0, 8)]
      (.few (b4 (fld w 17 14))) := by
  simp only [decG0A, h]
theorem decG0A_fec {w : Nat} (h : fld w 26 22 = 1) : decG0A w =
    chk [(fld w 17 14 = 0, 4), (fld w 13 10 = 0, 5), (fld w 9 9 = 0, 7), (fld w 8 8 = 0, 7), (fld w 7 0 = 0, 8)]
      (.fec (b4 (fld w 21 18))) := by
  simp only [decG0A, h]
/-- The two wait bits are zero exactly if the field of both is. -/
theorem waitBits_zero (w : Nat) : fld w 9 8 = 0 ↔ fld w 9 9 = 0 ∧ fld w 8 8 = 0 := by
  unfold fld; omega
/-- The checks that close both: a field of their own, then s2, the wait bits and mod, of which one is not zero. -/
theorem chk_unused {w c f : Nat} (i : Instr) (h : c ≠ 0 ∨ fld w 13 0 ≠ 0) :
    chk [(c = 0, f), (fld w 13 10 = 0, 5), (fld w 9 9 = 0, 7), (fld w 8 8 = 0, 7), (fld w 7 0 = 0, 8)] i =
      .error (if c ≠ 0 then f else if fld w 13 10 ≠ 0 then 5 else if fld w 9 8 ≠ 0 then 7 else 8) := by
  by_cases hc : c = 0
  · rw [chk_pass (decide_eq_true hc), if_neg (not_not_intro hc)]
    by_cases h5 : fld w 13 10 = 0
    · rw [chk_pass (decide_eq_true h5), if_neg (not_not_intro h5)]
      by_cases h7 : fld w 9 8 = 0
      · obtain ⟨h9, h8⟩ := (waitBits_zero w).1 h7
        have hm : fld w 7 0 ≠ 0 := by unfold fld at *; omega
        rw [chk_pass (decide_eq_true h9), chk_pass (decide_eq_true h8), chk_fail (decide_eq_false hm), if_neg (not_not_intro h7)]
      · rw [if_pos h7]
        by_cases h9 : fld w 9 9 = 0
        · have h8 : fld w 8 8 ≠ 0 := fun h8 => h7 ((waitBits_zero w).2 ⟨h9, h8⟩)
          rw [chk_pass (decide_eq_true h9), chk_fail (decide_eq_false h8)]
        · rw [chk_fail (decide_eq_false h9)]
    · rw [chk_fail (decide_eq_false h5), if_pos h5]
  · rw [chk_fail (decide_eq_false hc), if_pos hc]

/-- R73: the words of `few` and `fec` that are ILLEGAL. -/
theorem controlWordsAreRefused : Claims.ControlWordsAreRefused := by
  intro w hw hg
  have refuse : ∀ {f}, decG0A w = .error f → decode [w] = .error ⟨f, 0⟩ := fun h =>
    decode_refused hw (by omega) (by rw [inG0A hg, h])
  refine ⟨fun hk h => ⟨_, refuse ?_, rfl⟩, fun hk h => ⟨_, refuse ?_, rfl⟩⟩
  · rw [decG0A_few hk, chk_unused _ h]
  · have h' : fld w 17 14 ≠ 0 ∨ fld w 13 0 ≠ 0 := by unfold fld at *; omega
    rw [decG0A_fec hk, chk_unused _ h']

/-- Settles O6: each word through its own check of registers, ports, or what the task has outstanding. -/
theorem taskWordsWaitAndEnd : Obligations.TaskWordsWaitAndEnd :=
  ⟨fullEmptyControl, waitYieldEnd, controlWordsAreRefused⟩

/-! ## Traps (R83, R85, R304, R360) -/

/-- R83: `trap`, `bkpt` and `eret`. -/
theorem trapWordsAndEret : Claims.TrapWordsAndEret := by
  intro s c skip
  have code : c.setWidth 64 = BitVec.ofNat 64 c.toNat := (BitVec.ofNat_toNat 64 c).symm
  have eret : exec (.eret skip) s = .next (if bfld s.cur.tcause 7 0 = 0 then trap s 11 0 0 else s.modCur fun k => { k with
      st := .ready, mark := none, tcause := 0
      pc := bfld s.cur.tpc 12 0 + if skip then s.wordLen (bfld s.cur.tpc 12 0) else 0 }) := rfl
  refine ⟨congrArg (s.traps 12 0) code, rfl, fun free => ?_, fun held => ?_⟩
  · rw [eret, if_pos free]; rfl
  · rw [eret, if_neg held]
    cases skip <;> rfl

/-- The issuing task after a trap: what it had saved stays while a trap is held. -/
def trapped (s : State) (cause field : Nat) (tval : DWord) : Task :=
  if bfld s.cur.tcause 7 0 ≠ 0 then { s.cur with st := .trapped, mark := none } else
    { s.cur with st := .trapped, mark := none, tcause := .ofNat 64 (cause + 256 * field), tpc := .ofNat 64 (s.cur.pc % 8192), tval := tval }
/-- The record of a trap that leaves the issuing task so; where a trap was held, with the second cause. -/
def trapRec (s : State) (after : Task) (second : Nat) : FaultRec :=
  s.recAt s.ctx.tile s.cur.phase
    { kind := 0x80, gen := 15, sub := s.cur.img, va := after.tval, word := w32 (bfld after.tpc 12 0), c0 := 0, c1 := 0,
      aux := w32 (bfld after.tcause 12 0 + second) }

/-- A trap outside slot 15 sets the task and posts its record. -/
theorem trap_posts {s : State} (cause field : Nat) (tval : DWord) (hu : s.ctx.unit = .task) (hs : s.ctx.slot ≠ 15) :
    trap s cause field tval =
      ((s.setTask s.ctx.tile s.ctx.slot (trapped s cause field tval)).post (s.partAt s.ctx.tile s.cur.phase)
        (trapRec s (trapped s cause field tval) (if bfld s.cur.tcause 7 0 ≠ 0 then 65536 * cause else 0))).2 := by
  rw [trap_task _ _ _ hu]
  unfold State.trapTask
  rw [if_neg hs]
  simp only [bne_iff_ne]
  rfl

/-- Naming a logical tile in a record leaves what else it says. -/
theorem recAt_fields (s : State) (t : Nat) (ph : BitVec 2) (r : FaultRec) :
    (s.recAt t ph r).kind = r.kind ∧ (s.recAt t ph r).sub = r.sub ∧ (s.recAt t ph r).va = r.va ∧ (s.recAt t ph r).word = r.word ∧
      (s.recAt t ph r).aux = r.aux := by
  simp only [State.recAt]
  split <;> exact ⟨rfl, rfl, rfl, rfl, rfl⟩
/-- Where the logical tile is placed, the record names it and its region. -/
theorem recAt_placed {s : State} {t : Nat} {ph : BitVec 2} (r : FaultRec) (h : (s.lt t ph).placed = true) :
    (s.recAt t ph r).lx = (s.lt t ph).lx ∧ (s.recAt t ph r).ly = (s.lt t ph).ly ∧
      ∀ g, s.region (s.lt t ph).key = some g → (s.recAt t ph r).region = g.id := by
  unfold State.recAt
  rw [if_pos h]
  exact ⟨rfl, rfl, fun g hg => by rw [hg]; rfl⟩

/-- A small number keeps its value in a record's field. -/
theorem toNat_w32 {n : Nat} (h : n < 2 ^ 32) : (w32 n).toNat = n := by
  unfold w32; rw [BitVec.toNat_ofNat, Nat.mod_eq_of_lt h]
/-- TCAUSE holds cause and field. -/
theorem bfld_tcause {cause field : Nat} (hc : cause < 256) (hf : field < 32) :
    bfld (BitVec.ofNat 64 (cause + 256 * field)) 12 0 = cause + 256 * field := by
  unfold bfld fld; rw [BitVec.toNat_ofNat]; omega
/-- A field of a bit vector has no more than its bits. -/
theorem bfld_lt {n : Nat} (x : BitVec n) (hi lo : Nat) : bfld x hi lo < 2 ^ (hi + 1 - lo) := fld_lt x.toNat hi lo
/-- A trap that finds none held saves its cause and field. -/
theorem tcause_trapped {s : State} {cause field : Nat} (tval : DWord) (free : ¬ bfld s.cur.tcause 7 0 ≠ 0) :
    (trapped s cause field tval).tcause = .ofNat 64 (cause + 256 * field) := by
  unfold trapped; rw [if_neg free]

/-- R85, R304, R360: what a trap saves and reports. -/
theorem trapSavesAndReports : Claims.TrapSavesAndReports := by
  intro s cause field tval hu hc hf
  refine ⟨fun hs => ⟨_, trap_posts cause field tval hu hs, ?_⟩, fun hs => ?_, fun u q r h => by rw [post_room q r h]⟩
  · obtain ⟨hkind, hsub, hva, hword, haux⟩ := recAt_fields s s.ctx.tile s.cur.phase _
    have hcode := bfld_lt (trapped s cause field tval).tcause 12 0
    refine ⟨hkind, hsub, hva, ?_, ?_, fun free => ?_, recAt_placed _⟩
    · exact (congrArg _ hword).trans (toNat_w32 (Nat.lt_trans (bfld_lt _ 12 0) (by decide)))
    · exact (congrArg _ haux).trans (toNat_w32 (by split <;> omega))
    · refine (congrArg _ haux).trans ?_
      rw [tcause_trapped tval free, bfld_tcause hc hf, if_neg free, Nat.add_zero, toNat_w32 (by omega)]
  · rw [trap_task _ _ _ hu, hs]; rfl

/-- The checks of `trap`, `bkpt` and `eret`: the register field, the wait bit and the selector are zero, and the last two check imm7. -/
theorem decG0B_trap {w : Nat} (l : 2 ≤ fld w 26 22) (h : fld w 26 22 ≤ 4) :
    ∃ r i, decG0B w = chk ((fld w 21 18 = 0, 3) :: (fld w 17 17 = 0, 7) :: (fld w 16 7 = 0, 15) :: r) i := by
  unfold decG0B
  generalize fld w 26 22 = m at l h
  interval_cases m <;> exact ⟨_, _, rfl⟩
theorem decG0B_bkpt {w : Nat} (h : fld w 26 22 = 3) :
    decG0B w = chk [(fld w 21 18 = 0, 3), (fld w 17 17 = 0, 7), (fld w 16 7 = 0, 15), (fld w 6 0 = 0, 9)] .bkpt := by
  simp only [decG0B, h]
theorem decG0B_eret {w : Nat} (h : fld w 26 22 = 4) :
    decG0B w = chk [(fld w 21 18 = 0, 3), (fld w 17 17 = 0, 7), (fld w 16 7 = 0, 15), (fld w 6 0 < 2, 9)] (.eret (bit (fld w 0 0))) := by
  simp only [decG0B, h]

/-- R83: the words of `trap`, `bkpt` and `eret` that are ILLEGAL. -/
theorem trapWordsAreRefused : Claims.TrapWordsAreRefused := by
  intro w hw hg
  have refuse : ∀ {f}, decG0B w = .error f → decode [w] = .error ⟨f, 0⟩ := fun h =>
    decode_refused hw (by omega) (by rw [inG0B hg, h])
  refine ⟨fun l h => ?_, fun hz => ⟨fun hk h9 => refuse ?_, fun hk h9 => refuse ?_⟩⟩
  · obtain ⟨r, i, hi⟩ := decG0B_trap l h
    refine ⟨fun h3 => refuse ?_, fun h3 h7 => refuse ?_, fun h3 h7 h15 => refuse ?_⟩
    · rw [hi, chk_fail (decide_eq_false h3)]
    · rw [hi, chk_pass (decide_eq_true h3), chk_fail (decide_eq_false h7)]
    · rw [hi, chk_pass (decide_eq_true h3), chk_pass (decide_eq_true h7), chk_fail (decide_eq_false h15)]
  all_goals
    have h3 : fld w 21 18 = 0 := by unfold fld at *; omega
    have h7 : fld w 17 17 = 0 := by unfold fld at *; omega
    have h15 : fld w 16 7 = 0 := by unfold fld at *; omega
  · rw [decG0B_bkpt hk, chk_pass (decide_eq_true h3), chk_pass (decide_eq_true h7), chk_pass (decide_eq_true h15),
      chk_fail (decide_eq_false h9)]
  · have hbig : ¬ fld w 6 0 < 2 := by unfold fld at *; omega
    rw [decG0B_eret hk, chk_pass (decide_eq_true h3), chk_pass (decide_eq_true h7), chk_pass (decide_eq_true h15),
      chk_fail (decide_eq_false hbig)]

/-- Settles O11: the words through `trap` and TPC, and a trap itself through the task it sets and the record it posts. -/
theorem trapsSaveAndReturn : Obligations.TrapsSaveAndReturn :=
  ⟨trapWordsAndEret, trapSavesAndReports, trapWordsAreRefused⟩

end Sys2Proof.Proofs.ScalarControl
end

section
/-! PROOFS. The encoding: decoding inverts encoding for every well-formed word, and encoding inverts decoding (R36 to R45, R55, R56). -/
namespace Sys2Proof.Proofs.Encoding
open Sys2Proof Sys2Proof.Machine
open Sys2Proof.Laws
open Sys2Proof.Proofs.ScalarControl (fld_lt)
set_option Elab.async false

/-! ## Decoding inverts encoding -/

/-- Every instruction has its round trip. -/
theorem decode_encode : ∀ i : Instr, RoundTrip.Statement i
  | .add d a b w v => RoundTrip.add d a b w v
  | .sub d a b w v => RoundTrip.sub d a b w v
  | .mul d a b w v => RoundTrip.mul d a b w v
  | .mulh d a b w v => RoundTrip.mulh d a b w v
  | .mulhu d a b w v => RoundTrip.mulhu d a b w v
  | .div d a b w v => RoundTrip.div d a b w v
  | .divu d a b w v => RoundTrip.divu d a b w v
  | .rem d a b w v => RoundTrip.rem d a b w v
  | .remu d a b w v => RoundTrip.remu d a b w v
  | .and d a b w v => RoundTrip.and d a b w v
  | .or d a b w v => RoundTrip.or d a b w v
  | .xor d a b w v => RoundTrip.xor d a b w v
  | .andn d a b w v => RoundTrip.andn d a b w v
  | .sll d a b w v => RoundTrip.sll d a b w v
  | .srl d a b w v => RoundTrip.srl d a b w v
  | .sra d a b w v => RoundTrip.sra d a b w v
  | .slt d a b w v => RoundTrip.slt d a b w v
  | .sltu d a b w v => RoundTrip.sltu d a b w v
  | .min d a b w v => RoundTrip.min d a b w v
  | .max d a b w v => RoundTrip.max d a b w v
  | .minu d a b w v => RoundTrip.minu d a b w v
  | .maxu d a b w v => RoundTrip.maxu d a b w v
  | .clz d a w => RoundTrip.clz d a w
  | .ctz d a w => RoundTrip.ctz d a w
  | .popc d a w => RoundTrip.popc d a w
  | .mov d a w => RoundTrip.mov d a w
  | .sext d a w n => RoundTrip.sext d a w n
  | .zext d a w n => RoundTrip.zext d a w n
  | .addi d a w i => RoundTrip.addi d a w i
  | .andi d a w i => RoundTrip.andi d a w i
  | .ori d a w i => RoundTrip.ori d a w i
  | .xori d a w i => RoundTrip.xori d a w i
  | .slli d a w i => RoundTrip.slli d a w i
  | .srli d a w i => RoundTrip.srli d a w i
  | .srai d a w i => RoundTrip.srai d a w i
  | .slti d a w i => RoundTrip.slti d a w i
  | .li d i => RoundTrip.li d i
  | .liS15 d w i => RoundTrip.liS15 d w i
  | .liS30 d w i => RoundTrip.liS30 d w i
  | .liS45 d w i => RoundTrip.liS45 d w i
  | .liS60 d w i => RoundTrip.liS60 d w i
  | .bMov d a => RoundTrip.bMov d a
  | .bAdd d a b v => RoundTrip.bAdd d a b v
  | .bAddi d a n => RoundTrip.bAddi d a n
  | .bWin d a b w v => RoundTrip.bWin d a b w v
  | .bGet d a => RoundTrip.bGet d a
  | .bGwin d a => RoundTrip.bGwin d a
  | .bCpy d a b v => RoundTrip.bCpy d a b v
  | .ldB d a w i => RoundTrip.ldB d a w i
  | .ldH d a w i => RoundTrip.ldH d a w i
  | .ldW d a w i => RoundTrip.ldW d a w i
  | .ldD d a w i => RoundTrip.ldD d a w i
  | .ldBz d a w i => RoundTrip.ldBz d a w i
  | .ldHz d a w i => RoundTrip.ldHz d a w i
  | .ldWz d a w i => RoundTrip.ldWz d a w i
  | .ldT d a w i => RoundTrip.ldT d a w i
  | .stB d a w i => RoundTrip.stB d a w i
  | .stH d a w i => RoundTrip.stH d a w i
  | .stW d a w i => RoundTrip.stW d a w i
  | .stD d a w i => RoundTrip.stD d a w i
  | .stT d a w i => RoundTrip.stT d a w i
  | .beqz a w o => RoundTrip.beqz a w o
  | .bnez a w o => RoundTrip.bnez a w o
  | .bltz a w o => RoundTrip.bltz a w o
  | .bgez a w o => RoundTrip.bgez a w o
  | .bgtz a w o => RoundTrip.bgtz a w o
  | .blez a w o => RoundTrip.blez a w o
  | .bfull a o => RoundTrip.bfull a o
  | .bempty a o => RoundTrip.bempty a o
  | .bmany a o => RoundTrip.bmany a o
  | .bmnone a o => RoundTrip.bmnone a o
  | .j o => RoundTrip.j o
  | .call l o => RoundTrip.call l o
  | .jr a w => RoundTrip.jr a w
  | .callr a w l => RoundTrip.callr a w l
  | .loop a w o => RoundTrip.loop a w o
  | .getw d p x l => RoundTrip.getw d p x l
  | .putw p a w t => RoundTrip.putw p a w t
  | .waitp p o => RoundTrip.waitp p o
  | .yield => RoundTrip.yield
  | .endTask => RoundTrip.endTask
  | .fork u a w c => RoundTrip.fork u a w c
  | .rdv st mx => RoundTrip.rdv st mx
  | .trig a w p => RoundTrip.trig a w p
  | .putc p a w t => RoundTrip.putc p a w t
  | .few a => RoundTrip.few a
  | .fec d => RoundTrip.fec d
  | .pushm d a w f => RoundTrip.pushm d a w f
  | .popm d a f => RoundTrip.popm d a f
  | .sysr g s => RoundTrip.sysr g s
  | .sysw g w s => RoundTrip.sysw g w s
  | .trap c => RoundTrip.trap c
  | .bkpt => RoundTrip.bkpt
  | .eret k => RoundTrip.eret k
  | .fenceT k => RoundTrip.fenceT k
  | .fenceR k => RoundTrip.fenceR k
  | .fenceD k => RoundTrip.fenceD k
  | .fenceS k => RoundTrip.fenceS k
  | .frInit a n => RoundTrip.frInit a n
  | .frWait d a b v => RoundTrip.frWait d a b v
  | .frRecl a b v => RoundTrip.frRecl a b v
  | .frRecipe a b v => RoundTrip.frRecipe a b v
  | .frPin a b v => RoundTrip.frPin a b v
  | .frUnpin a b v => RoundTrip.frUnpin a b v
  | .frStat d a q => RoundTrip.frStat d a q
  | .atAdd d a b v o c => RoundTrip.atAdd d a b v o c
  | .atMin d a b v u o c => RoundTrip.atMin d a b v u o c
  | .atMax d a b v u o c => RoundTrip.atMax d a b v u o c
  | .atAnd d a b v o c => RoundTrip.atAnd d a b v o c
  | .atOr d a b v o c => RoundTrip.atOr d a b v o c
  | .atXchg d a b v o c => RoundTrip.atXchg d a b v o c
  | .atCas d a b v o c => RoundTrip.atCas d a b v o c
  | .cpJob a w => RoundTrip.cpJob a w
  | .cpWait d a w => RoundTrip.cpWait d a w
  | .clGather a w => RoundTrip.clGather a w
  | .clScatter a w => RoundTrip.clScatter a w
  | .clReduce a w => RoundTrip.clReduce a w
  | .clSend a w => RoundTrip.clSend a w
  | .clRecv a w => RoundTrip.clRecv a w
  | .vAdd d a b k e => RoundTrip.vAdd d a b k e
  | .vSub d a b k e => RoundTrip.vSub d a b k e
  | .vMul d a b k e => RoundTrip.vMul d a b k e
  | .vFma d a b c e => RoundTrip.vFma d a b c e
  | .vFms d a b c e => RoundTrip.vFms d a b c e
  | .vFnma d a b c e => RoundTrip.vFnma d a b c e
  | .vAbs d a k e => RoundTrip.vAbs d a k e
  | .vNeg d a k e => RoundTrip.vNeg d a k e
  | .vScl d a b k e => RoundTrip.vScl d a b k e
  | .vCeq d a b k e => RoundTrip.vCeq d a b k e
  | .vCne d a b k e => RoundTrip.vCne d a b k e
  | .vClt d a b k e => RoundTrip.vClt d a b k e
  | .vCle d a b k e => RoundTrip.vCle d a b k e
  | .vCun d a b k e => RoundTrip.vCun d a b k e
  | .vSel d a b c e => RoundTrip.vSel d a b c e
  | .vMin d a b k e => RoundTrip.vMin d a b k e
  | .vMax d a b k e => RoundTrip.vMax d a b k e
  | .vClamp d a b c e => RoundTrip.vClamp d a b c e
  | .vIadd d a b k e => RoundTrip.vIadd d a b k e
  | .vIsub d a b k e => RoundTrip.vIsub d a b k e
  | .vImul d a b k e => RoundTrip.vImul d a b k e
  | .vAnd d a b k e => RoundTrip.vAnd d a b k e
  | .vOr d a b k e => RoundTrip.vOr d a b k e
  | .vXor d a b k e => RoundTrip.vXor d a b k e
  | .vShl d a b k e => RoundTrip.vShl d a b k e
  | .vShr d a b k e => RoundTrip.vShr d a b k e
  | .vSra d a b k e => RoundTrip.vSra d a b k e
  | .vImin d a b k e => RoundTrip.vImin d a b k e
  | .vImax d a b k e => RoundTrip.vImax d a b k e
  | .vAdds d a b k e => RoundTrip.vAdds d a b k e
  | .vSubs d a b k e => RoundTrip.vSubs d a b k e
  | .vIeq d a b k e => RoundTrip.vIeq d a b k e
  | .vIlt d a b k e => RoundTrip.vIlt d a b k e
  | .vIltu d a b k e => RoundTrip.vIltu d a b k e
  | .vCvt d a f s m e => RoundTrip.vCvt d a f s m e
  | .vCvtSr d a b s f e => RoundTrip.vCvtSr d a b s f e
  | .vPack d a b k e => RoundTrip.vPack d a b k e
  | .vUnpkLo d a k e => RoundTrip.vUnpkLo d a k e
  | .vUnpkHi d a k e => RoundTrip.vUnpkHi d a k e
  | .vQblk d a b m e => RoundTrip.vQblk d a b m e
  | .vDqblk d a p q e => RoundTrip.vDqblk d a p q e
  | .vRcp d a k e => RoundTrip.vRcp d a k e
  | .vRsq d a k e => RoundTrip.vRsq d a k e
  | .vExp2 d a k e => RoundTrip.vExp2 d a k e
  | .vLog2 d a k e => RoundTrip.vLog2 d a k e
  | .vTanh d a k e => RoundTrip.vTanh d a k e
  | .vErf d a k e => RoundTrip.vErf d a k e
  | .vRsum d a k e => RoundTrip.vRsum d a k e
  | .vRmax d a k e => RoundTrip.vRmax d a k e
  | .vRmin d a k e => RoundTrip.vRmin d a k e
  | .vRsumG d a k e => RoundTrip.vRsumG d a k e
  | .vPerm d a b k => RoundTrip.vPerm d a b k
  | .vBcast d a l => RoundTrip.vBcast d a l
  | .vRot d a n => RoundTrip.vRot d a n
  | .vScan d a k e => RoundTrip.vScan d a k e
  | .vPeek d a => RoundTrip.vPeek d a
  | .vMov d a k => RoundTrip.vMov d a k
  | .vSetv d a b m => RoundTrip.vSetv d a b m
  | .vGetv d a n => RoundTrip.vGetv d a n
  | .vSetp d a b m => RoundTrip.vSetp d a b m
  | .vGetp d a => RoundTrip.vGetp d a
  | .vSettag d a b => RoundTrip.vSettag d a b
  | .vGettag d a => RoundTrip.vGettag d a
  | .vIns d a b l => RoundTrip.vIns d a b l
  | .vExt d a l => RoundTrip.vExt d a l
  | .vSplat d a => RoundTrip.vSplat d a
  | .vMkc d a k => RoundTrip.vMkc d a k
  | .vDeq d a b c p => RoundTrip.vDeq d a b c p
  | .vWarp d a b s => RoundTrip.vWarp d a b s
  | .vErracc d a b f => RoundTrip.vErracc d a b f
  | .vRefr d a => RoundTrip.vRefr d a
  | .vBfx d a f => RoundTrip.vBfx d a f
  | .mMma c r f k => RoundTrip.mMma c r f k
  | .mMmaz c r f k => RoundTrip.mMmaz c r f k
  | .mRun c r f k x w z => RoundTrip.mRun c r f k x w z
  | .mGrp c r f k x w t p => RoundTrip.mGrp c r f k x w t p
  | .mDrain c x l f => RoundTrip.mDrain c x l f
  | .mCopy c x => RoundTrip.mCopy c x
  | .mCopySt c x w => RoundTrip.mCopySt c x w
  | .mCopyLd c x w => RoundTrip.mCopyLd c x w
  | .mLd f x => RoundTrip.mLd f x
  | .mSwap => RoundTrip.mSwap
  | .mClr c => RoundTrip.mClr c
  | .rlDecl c k => RoundTrip.rlDecl c k
  | .rlIns c x f i => RoundTrip.rlIns c x f i
  | .rlMerge c x => RoundTrip.rlMerge c x
  | .rlThr c x => RoundTrip.rlThr c x
  | .rlOut c x n u i => RoundTrip.rlOut c x n u i
  | .rlClr c x => RoundTrip.rlClr c x
  | .ringSet r x => RoundTrip.ringSet r x
  | .ringHead r x => RoundTrip.ringHead r x
  | .ringTail r x => RoundTrip.ringTail r x
  | .ringPop r x w => RoundTrip.ringPop r x w
  | .sRead e ep pcb b v pr xf disp tag eos => RoundTrip.sRead e ep pcb b v pr xf disp tag eos
  | .sWrite e p pcb b v pr xf disp => RoundTrip.sWrite e p pcb b v pr xf disp
  | .sInd e ep pcb b ix v pr xf disp tag eos => RoundTrip.sInd e ep pcb b ix v pr xf disp tag eos
  | .sPrism e b pid disp => RoundTrip.sPrism e b pid disp
  | .sSyntax e p pcb b v disp tag eos => RoundTrip.sSyntax e p pcb b v disp tag eos
  | .sBar => RoundTrip.sBar
  | .sStop e => RoundTrip.sStop e
  | .sStat e gv => RoundTrip.sStat e gv
  | .issueSlot t => RoundTrip.issueSlot t
  | .parkClear t k => RoundTrip.parkClear t k
  | .tokenOpComplete t => RoundTrip.tokenOpComplete t
  | .longLatencyDeliver t n => RoundTrip.longLatencyDeliver t n
  | .getwDeliver t ph p => RoundTrip.getwDeliver t ph p
  | .tokenHop rg c n => RoundTrip.tokenHop rg c n
  | .tokenArrive rg c => RoundTrip.tokenArrive rg c
  | .lateTokenBurstEnd t ph p => RoundTrip.lateTokenBurstEnd t ph p
  | .lateTokenLongBurst t ph p => RoundTrip.lateTokenLongBurst t ph p
  | .junctionPass t ph j => RoundTrip.junctionPass t ph j
  | .junctionFork t ph j => RoundTrip.junctionFork t ph j
  | .junctionJoin t ph j => RoundTrip.junctionJoin t ph j
  | .junctionSteer t ph j => RoundTrip.junctionSteer t ph j
  | .junctionMerge t ph j => RoundTrip.junctionMerge t ph j
  | .junctionLoopgen t ph j => RoundTrip.junctionLoopgen t ph j
  | .junctionRandom t ph j => RoundTrip.junctionRandom t ph j
  | .junctionConvert t ph j => RoundTrip.junctionConvert t ph j
  | .junctionGate t ph j => RoundTrip.junctionGate t ph j
  | .junctionTagchk t ph j => RoundTrip.junctionTagchk t ph j
  | .ringFeed t ph r => RoundTrip.ringFeed t ph r
  | .streamCmdStart t e => RoundTrip.streamCmdStart t e
  | .streamElementAccess t e => RoundTrip.streamElementAccess t e
  | .streamReadPush t e => RoundTrip.streamReadPush t e
  | .streamWriteTake t e => RoundTrip.streamWriteTake t e
  | .streamCmdComplete t e => RoundTrip.streamCmdComplete t e
  | .syntaxTokenPush y => RoundTrip.syntaxTokenPush y
  | .syntaxJobEnd y => RoundTrip.syntaxJobEnd y
  | .memopForward t => RoundTrip.memopForward t
  | .versionedWriteArrive id => RoundTrip.versionedWriteArrive id
  | .versionedWriteResume id => RoundTrip.versionedWriteResume id
  | .versionedReadArrive id => RoundTrip.versionedReadArrive id
  | .versionWaitSatisfied id => RoundTrip.versionWaitSatisfied id
  | .directoryFrameOp id => RoundTrip.directoryFrameOp id
  | .atomicPerform id => RoundTrip.atomicPerform id
  | .mitBlockAccess id => RoundTrip.mitBlockAccess id
  | .cardRelease id => RoundTrip.cardRelease id
  | .cardComplete id => RoundTrip.cardComplete id
  | .cpWaitDeliver id => RoundTrip.cpWaitDeliver id
  | .collectiveExchange id ranks => RoundTrip.collectiveExchange id ranks
  | .collectiveComplete id => RoundTrip.collectiveComplete id
  | .prismLoadComplete t e => RoundTrip.prismLoadComplete t e
  | .evictDrop f v => RoundTrip.evictDrop f v
  | .evictSpill f v => RoundTrip.evictSpill f v
  | .spillAck f v => RoundTrip.spillAck f v
  | .recomputeStart id => RoundTrip.recomputeStart id
  | .recomputeEnd t => RoundTrip.recomputeEnd t
  | .progressTimeout rg => RoundTrip.progressTimeout rg
  | .graphComplete rg => RoundTrip.graphComplete rg
  | .commitRequest p ipa => RoundTrip.commitRequest p ipa
  | .fetchPhase2 rg => RoundTrip.fetchPhase2 rg
  | .preemptRequest rg => RoundTrip.preemptRequest rg
  | .quantumExpire rg => RoundTrip.quantumExpire rg
  | .markerArrive rg c => RoundTrip.markerArrive rg c
  | .checkpoint rg => RoundTrip.checkpoint rg
  | .checkpointInterval rg => RoundTrip.checkpointInterval rg
  | .rollback rg => RoundTrip.rollback rg
  | .fqRingWrite p => RoundTrip.fqRingWrite p
  | .mcstatClear => RoundTrip.mcstatClear
  | .fqresRetry p seq => RoundTrip.fqresRetry p seq
  | .fqresCancel p seq => RoundTrip.fqresCancel p seq
  | .fqresAlt p seq => RoundTrip.fqresAlt p seq
  | .fqresEnd p seq => RoundTrip.fqresEnd p seq
  | .taskcmdResumeTpc p c => RoundTrip.taskcmdResumeTpc p c
  | .taskcmdResumePc p c pc => RoundTrip.taskcmdResumePc p c pc
  | .taskcmdEnd p c => RoundTrip.taskcmdEnd p c
  | .ckcmdCheckpoint p rg => RoundTrip.ckcmdCheckpoint p rg
  | .ckcmdRollback p rg => RoundTrip.ckcmdRollback p rg
  | .tlbinvPartition p => RoundTrip.tlbinvPartition p
  | .tlbinvWindow p w => RoundTrip.tlbinvWindow p w
  | .tlbinvPage p w pg => RoundTrip.tlbinvPage p w pg
  | .tlbinvComplete p => RoundTrip.tlbinvComplete p
  | .s2invPartition p => RoundTrip.s2invPartition p
  | .s2invPage p pg => RoundTrip.s2invPage p pg
  | .s2invComplete => RoundTrip.s2invComplete
  | .scrub g n => RoundTrip.scrub g n
  | .scrubComplete => RoundTrip.scrubComplete
  | .owncmd c => RoundTrip.owncmd c
  | .owncmdComplete => RoundTrip.owncmdComplete
  | .regdel p w b => RoundTrip.regdel p w b
  | .slicedel p n => RoundTrip.slicedel p n
  | .partitionLive p h => RoundTrip.partitionLive p h
  | .partitionNotLive p => RoundTrip.partitionNotLive p
  | .synassignChange y p => RoundTrip.synassignChange y p
  | .synassignTakeEffect y => RoundTrip.synassignTakeEffect y
  | .prismmapChange n x => RoundTrip.prismmapChange n x
  | .vfmapChange x => RoundTrip.vfmapChange x
  | .devidWrite x => RoundTrip.devidWrite x
  | .wportEnable q => RoundTrip.wportEnable q
  | .wportDisable q => RoundTrip.wportDisable q
  | .shutctlFire => RoundTrip.shutctlFire
  | .shutterPin => RoundTrip.shutterPin
  | .shutterJtag => RoundTrip.shutterJtag
  | .shutterReadout ra acc => RoundTrip.shutterReadout ra acc
  | .pwrcapWrite x => RoundTrip.pwrcapWrite x
  | .thermalThrottle x => RoundTrip.thermalThrottle x
  | .thermtrip x => RoundTrip.thermtrip x
  | .lqpush p who pr => RoundTrip.lqpush p who pr
  | .registerWrite pg off x => RoundTrip.registerWrite pg off x
  | .hostRequest h => RoundTrip.hostRequest h
  | .functionLevelReset vf => RoundTrip.functionLevelReset vf
  | .hartMemoryAccess h => RoundTrip.hartMemoryAccess h
  | .deviceReset i => RoundTrip.deviceReset i
  | .recoveryImageWrite n => RoundTrip.recoveryImageWrite n
  | .flitReceive q fl => RoundTrip.flitReceive q fl
  | .portRetrain q lanes => RoundTrip.portRetrain q lanes
  | .peerAccessInbound fl => RoundTrip.peerAccessInbound fl
  | .softError x => RoundTrip.softError x
  | .regdelDone p => RoundTrip.regdelDone p
  | .portTrainingDone q lanes => RoundTrip.portTrainingDone q lanes
  | .hostReadCompletion id d ep => RoundTrip.hostReadCompletion id d ep

/-- Settles O54: one round trip for each constructor. -/
theorem decodeInvertsEncode : Obligations.DecodeInvertsEncode := decode_encode

/-! ## Encoding inverts decoding -/

/-- What a group decodes a word to is encoded by that word, and is well formed. -/
def Inverts (w : Nat) (r : Except Nat Instr) : Prop := ∀ i, r = .ok i → encode i = [w] ∧ i.wellFormed = true

theorem inverts_error (w f : Nat) : Inverts w (.error f) ↔ True := by simp [Inverts]
theorem inverts_ok (w : Nat) (i : Instr) : Inverts w (.ok i) ↔ encode i = [w] ∧ i.wellFormed = true := by simp [Inverts]
/-- A check that a word passes holds of it. -/
theorem inverts_chk (w f : Nat) (c : Bool) (r : List (Bool × Nat)) (i : Instr) :
    Inverts w (chk ((c, f) :: r) i) ↔ (c = true → Inverts w (chk r i)) := by
  cases c <;> simp [Inverts, chk]
theorem inverts_nil (w : Nat) (i : Instr) : Inverts w (chk [] i) ↔ encode i = [w] ∧ i.wellFormed = true := inverts_ok w i

/-! A word is made of its fields. -/

section
variable {w g c : Nat} (hw : w < 2 ^ 32) (hg : fld w 31 27 = g)
include hw hg

theorem wordA_fields {d a b x y m : Nat} (hc : fld w 26 22 = c) (hd : d = fld w 21 18)
    (ha : a = fld w 17 14) (hb : b = fld w 13 10) (hx : x = fld w 9 9) (hy : y = fld w 8 8) (hm : m = fld w 7 0) :
    [wordA g c d a b x y m] = [w] := by
  subst hg hc hd ha hb hx hy hm
  simp only [wordA, fld, List.cons.injEq, and_true]
  omega
theorem wordI_fields {d s x i : Nat} (hc : fld w 26 24 = c) (hd : d = fld w 23 20)
    (hs : s = fld w 19 16) (hx : x = fld w 15 15) (hi : i = fld w 14 0) : [wordI g c d s x i] = [w] := by
  subst hg hc hd hs hx hi
  simp only [wordI, fld, List.cons.injEq, and_true]
  omega
theorem wordB_fields {s x i : Nat} (hc : fld w 26 23 = c) (hs : s = fld w 22 19) (hx : x = fld w 18 18) (hi : i = fld w 17 0) :
    [wordB g c s x i] = [w] := by
  subst hg hc hs hx hi
  simp only [wordB, fld, List.cons.injEq, and_true]
  omega
theorem wordX_fields {r x s i : Nat} (hc : fld w 26 22 = c) (hr : r = fld w 21 18) (hx : x = fld w 17 17) (hs : s = fld w 16 7)
    (hi : i = fld w 6 0) : [wordX g c r x s i] = [w] := by
  subst hg hc hr hx hs hi
  simp only [wordX, fld, List.cons.injEq, and_true]
  omega
theorem wordT_fields {d a b k e : Nat} (hc : fld w 26 20 = c) (hd : d = fld w 19 16) (ha : a = fld w 15 12) (hb : b = fld w 11 8)
    (hk : k = fld w 7 4) (he : e = fld w 3 0) : [wordT g c d a b k e] = [w] := by
  subst hg hc hd ha hb hk he
  simp only [wordT, fld, List.cons.injEq, and_true]
  omega
theorem wordM_fields {a r f k x y m : Nat} (hc : fld w 26 23 = c) (ha : a = fld w 22 19) (hr : r = fld w 18 17) (hf : f = fld w 16 14)
    (hk : k = fld w 13 13 * 4 + fld w 12 11) (hx : x * 2 ^ 7 + y * 2 ^ 6 + m = fld w 10 0) : [wordM g c a r f k x y m] = [w] := by
  subst hg hc ha hr hf hk
  simp only [wordM, fld, List.cons.injEq, and_true] at *
  omega
end

/-! A field of n bits is kept by n bits, and a code by its table. -/

theorem fld_lt_of_le {w hi lo k : Nat} (h : 2 ^ (hi + 1 - lo) ≤ k) : fld w hi lo < k := Nat.lt_of_lt_of_le (fld_lt w hi lo) h
theorem bit_toNat (w k : Nat) : (bit (fld w k k)).toNat = fld w k k := by
  have : fld w k k < 2 := fld_lt_of_le (by simp)
  generalize fld w k k = n at *
  interval_cases n <;> rfl
theorem port_toNat {n : Nat} (h : 8 ≤ n) (l : n < 16) : (BitVec.ofNat 3 (n - 8)).toNat + 8 = n := by
  rw [BitVec.toNat_ofNat]; omega
theorem ExtWidth_code_dec {n : Nat} (h : n < 3) : (ExtWidth.dec n).code = n := by interval_cases n <;> rfl
theorem ForkUnit_code_dec {n : Nat} (h : n < 2) : (ForkUnit.dec n).code = n := by interval_cases n <;> rfl
theorem RFile_code_dec {n : Nat} (h : n < 4) : (RFile.dec n).code = n := by interval_cases n <;> rfl
theorem FenceKind_code_dec {n : Nat} (h : n < 3) : (FenceKind.dec n).code = n := by interval_cases n <;> rfl
theorem AtOrder_code_dec {n : Nat} (h : n < 4) : (AtOrder.dec n).code = n := by interval_cases n <;> rfl
theorem Scope_code_dec {n : Nat} (h : n < 4) : (Scope.dec n).code = n := by interval_cases n <;> rfl
theorem BitMode_code_dec {n : Nat} (h : n < 3) : (BitMode.dec n).code = n := by interval_cases n <;> rfl
theorem TokKind_code_dec {n : Nat} (h : n < 4) : (TokKind.dec n).code = n := by interval_cases n <;> rfl
theorem Plane_code_dec {n : Nat} (h : n < 3) : (Plane.dec n).code = n := by interval_cases n <;> rfl
theorem RecField_code_dec {n : Nat} (h : n < 16) : (RecField.dec n).code = n := by interval_cases n <;> rfl
theorem MatFmt_code_dec {n : Nat} (h : n < 7) : (MatFmt.dec n).code = n := by interval_cases n <;> rfl
theorem Xform_code_dec {n : Nat} (h : n < 5) : (Xform.dec n).code = n := by interval_cases n <;> rfl
theorem EType_code_dec {n : Nat} (h : n < 10) : (EType.dec n).code = n := by interval_cases n <;> rfl
theorem SReg_code_dec {n : Nat} (h : SReg.known n = true) : (SReg.dec n).code = n := by
  have : n < 0x17 := by simp only [SReg.known, Bool.or_eq_true, Bool.and_eq_true, decide_eq_true_eq] at h; omega
  interval_cases n <;> first | rfl | exact absurd h (by decide)
theorem known_of_writable {n : Nat} (h : SReg.writable n = true) : SReg.known n = true := by
  simp only [SReg.writable, SReg.known, Bool.or_eq_true, Bool.and_eq_true, decide_eq_true_eq] at *; omega
/-- The code of an element type is among those that a word may hold. -/
theorem EType_any {l : List EType} {n : Nat} :
    l.any (fun e => decide (e.code = n)) = true ↔ (EType.dec n).code = n ∧ l.contains (EType.dec n) = true := by
  simp only [List.any_eq_true, decide_eq_true_eq, List.contains_iff_mem]
  constructor
  · rintro ⟨e, m, rfl⟩
    rw [RoundTrip.EType_dec_code]
    exact ⟨rfl, m⟩
  · exact fun ⟨c, m⟩ => ⟨_, m, c⟩
theorem maskCode_maskDec {n : Nat} (h : maskOk n = true) (l : n < 16) : maskCode (maskDec n) = n := by
  interval_cases n <;> first | rfl | exact absurd h (by decide)

theorem bit_eq_true {w k : Nat} : bit (fld w k k) = true ↔ fld w k k = 1 := by
  have : fld w k k < 2 := fld_lt_of_le (by simp)
  simp only [bit, beq_iff_eq]; omega
theorem bit_eq_false {w k : Nat} : bit (fld w k k) = false ↔ fld w k k = 0 := by
  have : fld w k k < 2 := fld_lt_of_le (by simp)
  simp only [bit, beq_eq_false_iff_ne, ne_eq]; omega

theorem decG01_inverts {w : Nat} (hw : w < 2 ^ 32) (hg : fld w 31 27 = 0x01) : Inverts w (decG01 w) := by
  unfold decG01
  split <;> simp only [inverts_chk, inverts_nil, inverts_error, inverts_ok, decide_eq_true_eq, encode, Instr.wellFormed, and_true, b4, b3]
  all_goals
    intros
    apply wordA_fields hw hg ‹_› <;> simp [bit_toNat, Nat.mod_eq_of_lt, fld_lt_of_le, ExtWidth_code_dec, *]

theorem decG02_inverts {w : Nat} (hw : w < 2 ^ 32) (hg : fld w 31 27 = 0x02) : Inverts w (decG02 w) := by
  unfold decG02
  split <;> simp only [inverts_chk, inverts_nil, inverts_error, inverts_ok, decide_eq_true_eq, encode, Instr.wellFormed, and_true, b4, b3]
  all_goals
    intros
    apply wordI_fields hw hg ‹_› <;> simp [bit_toNat, Nat.mod_eq_of_lt, fld_lt_of_le, *]

theorem decG03_inverts {w : Nat} (hw : w < 2 ^ 32) (hg : fld w 31 27 = 0x03) : Inverts w (decG03 w) := by
  unfold decG03
  split <;> simp only [inverts_chk, inverts_nil, inverts_error, inverts_ok, decide_eq_true_eq, encode, Instr.wellFormed, and_true, b4, b3]
  all_goals
    intros
    apply wordI_fields hw hg ‹_› <;> simp [bit_toNat, Nat.mod_eq_of_lt, fld_lt_of_le, *]

theorem decG04_inverts {w : Nat} (hw : w < 2 ^ 32) (hg : fld w 31 27 = 0x04) : Inverts w (decG04 w) := by
  unfold decG04
  split <;> simp only [inverts_chk, inverts_nil, inverts_error, inverts_ok, decide_eq_true_eq, encode, Instr.wellFormed, and_true, b4, b3]
  all_goals
    intros
    apply wordA_fields hw hg ‹_› <;> simp [bit_toNat, Nat.mod_eq_of_lt, fld_lt_of_le, *]

theorem decG05_inverts {w : Nat} (hw : w < 2 ^ 32) (hg : fld w 31 27 = 0x05) : Inverts w (decG05 w) := by
  unfold decG05
  split <;> simp only [inverts_chk, inverts_nil, inverts_error, inverts_ok, decide_eq_true_eq, encode, Instr.wellFormed, and_true, b4, b3]
  all_goals
    intros
    apply wordI_fields hw hg ‹_› <;> simp [bit_toNat, Nat.mod_eq_of_lt, fld_lt_of_le, *]

theorem decG06_inverts {w : Nat} (hw : w < 2 ^ 32) (hg : fld w 31 27 = 0x06) : Inverts w (decG06 w) := by
  unfold decG06
  split <;> simp only [inverts_chk, inverts_nil, inverts_error, inverts_ok, decide_eq_true_eq, encode, Instr.wellFormed, and_true, b4, b3]
  all_goals
    intros
    apply wordI_fields hw hg ‹_› <;> simp [bit_toNat, Nat.mod_eq_of_lt, fld_lt_of_le, *]

theorem decG07_inverts {w : Nat} (hw : w < 2 ^ 32) (hg : fld w 31 27 = 0x07) : Inverts w (decG07 w) := by
  unfold decG07
  split <;> simp only [inverts_chk, inverts_nil, inverts_error, inverts_ok, decide_eq_true_eq, encode, Instr.wellFormed, and_true, b4, b3]
  all_goals
    intros
    apply wordB_fields hw hg ‹_› <;> simp [bit_toNat, Nat.mod_eq_of_lt, fld_lt_of_le, *]

theorem decG08_inverts {w : Nat} (hw : w < 2 ^ 32) (hg : fld w 31 27 = 0x08) : Inverts w (decG08 w) := by
  unfold decG08
  split <;> simp only [inverts_chk, inverts_nil, inverts_error, inverts_ok, decide_eq_true_eq, encode, Instr.wellFormed, and_true, b4, b3]
  case h_4 =>
    intro low
    apply wordB_fields hw hg ‹_› <;> simp [bit_toNat]
    all_goals unfold fld at *; omega
  all_goals
    intros
    apply wordB_fields hw hg ‹_› <;> simp [bit_toNat, Nat.mod_eq_of_lt, fld_lt_of_le, *]

theorem decG09_inverts {w : Nat} (hw : w < 2 ^ 32) (hg : fld w 31 27 = 0x09) : Inverts w (decG09 w) := by
  unfold decG09
  split <;> simp only [inverts_chk, inverts_nil, inverts_error, inverts_ok, decide_eq_true_eq, encode, Instr.wellFormed, and_true, b4, b3]
  case h_1 =>
    intro port _ _ _ even
    simp only [Bool.and_eq_true, Bool.or_eq_true, decide_eq_true_eq] at even
    refine ⟨?_, ?_⟩
    · apply wordA_fields hw hg ‹_› <;> simp [bit_toNat, *]
      all_goals unfold fld at *; omega
    · simp [bit_eq_false]
      unfold fld at *; omega
  case h_6 =>
    intro unit _ _ some
    refine ⟨?_, ?_⟩
    · apply wordA_fields hw hg ‹_› <;> simp [bit_toNat, Nat.mod_eq_of_lt, fld_lt_of_le, ForkUnit_code_dec, *]
    · simp [← BitVec.toNat_inj, Nat.mod_eq_of_lt, fld_lt_of_le, some]
  case h_7 =>
    intro _ _ _ _ _ some
    simp only [Bool.and_eq_true, decide_eq_true_eq] at some
    refine ⟨?_, ?_⟩
    · apply wordA_fields hw hg ‹_› <;> simp [bit_toNat, *]
      unfold fld at *; omega
    · simp [bit_eq_true]
      unfold fld at *; omega
  all_goals
    intros
    apply wordA_fields hw hg ‹_› <;> simp [bit_toNat, *]
    all_goals unfold fld at *; omega

theorem decG0A_inverts {w : Nat} (hw : w < 2 ^ 32) (hg : fld w 31 27 = 0x0A) : Inverts w (decG0A w) := by
  unfold decG0A
  split <;> simp only [inverts_chk, inverts_nil, inverts_error, inverts_ok, decide_eq_true_eq, encode, Instr.wellFormed, and_true, b4, b3]
  case h_3 =>
    intro hd ha _ g _ file
    simp only [Bool.and_eq_true, Bool.or_eq_true, decide_eq_true_eq] at ha g
    refine ⟨?_, ?_⟩
    · apply wordA_fields hw hg ‹_› <;> simp [bit_toNat, Nat.mod_eq_of_lt, fld_lt_of_le, RFile_code_dec, *]
      unfold fld at *; omega
    · simp [bit_eq_false, Nat.mod_eq_of_lt, fld_lt_of_le, RFile_code_dec, hd, ha]
      exact g.imp_right fun h => by rw [h]; rfl
  case h_4 =>
    intro hd ha _ _ _ file
    simp only [Bool.and_eq_true, Bool.or_eq_true, decide_eq_true_eq] at ha
    refine ⟨?_, ?_⟩
    · apply wordA_fields hw hg ‹_› <;> simp [Nat.mod_eq_of_lt, fld_lt_of_le, RFile_code_dec, *]
      unfold fld at *; omega
    · simp [Nat.mod_eq_of_lt, fld_lt_of_le, RFile_code_dec, hd, ha]
  all_goals
    intros
    apply wordA_fields hw hg ‹_› <;> simp [bit_toNat, Nat.mod_eq_of_lt, fld_lt_of_le, *]

theorem decG0B_inverts {w : Nat} (hw : w < 2 ^ 32) (hg : fld w 31 27 = 0x0B) : Inverts w (decG0B w) := by
  unfold decG0B
  split <;> simp only [inverts_chk, inverts_nil, inverts_error, inverts_ok, decide_eq_true_eq, encode, Instr.wellFormed, and_true, b4, b3]
  case h_2 =>
    intro sw _
    have k := SReg_code_dec (known_of_writable sw)
    refine ⟨?_, by rw [k]; exact sw⟩
    apply wordX_fields hw hg ‹_› <;> simp [bit_toNat, Nat.mod_eq_of_lt, fld_lt_of_le, *]
  case h_5 =>
    intros
    apply wordX_fields hw hg ‹_› <;> simp [bit_toNat, *]
    unfold fld at *; omega
  case h_6 =>
    have l : fld w 1 0 < 4 := fld_lt_of_le (by simp)
    have l' : fld w 3 2 < 4 := fld_lt_of_le (by simp)
    intro r0 w0 s0 kind
    simp only [Bool.and_eq_true, decide_eq_true_eq] at kind
    generalize scope : fld w 1 0 = m at l ⊢
    interval_cases m <;> simp only [encode, Instr.wellFormed, and_true] <;>
      apply wordX_fields hw hg ‹_› <;> simp [FenceKind_code_dec (show fld w 3 2 < 3 by omega), r0, w0, s0]
    all_goals unfold fld at *; omega
  all_goals
    intros
    apply wordX_fields hw hg ‹_› <;> simp [bit_toNat, Nat.mod_eq_of_lt, fld_lt_of_le, SReg_code_dec, *]

theorem decG0C_inverts {w : Nat} (hw : w < 2 ^ 32) (hg : fld w 31 27 = 0x0C) : Inverts w (decG0C w) := by
  unfold decG0C
  split <;> simp only [inverts_chk, inverts_nil, inverts_error, inverts_ok, decide_eq_true_eq, encode, Instr.wellFormed, and_true, b4, b3]
  case h_7 =>
    intro base b0 w0 v0 q
    simp only [Bool.or_eq_true, decide_eq_true_eq] at b0 v0
    split <;> simp [wordA, statCode, bit_toNat] <;> unfold fld at * <;> omega
  all_goals
    intros
    apply wordA_fields hw hg ‹_› <;> simp [bit_toNat, Nat.mod_eq_of_lt, fld_lt_of_le, *]

theorem decG0D_inverts {w : Nat} (hw : w < 2 ^ 32) (hg : fld w 31 27 = 0x0D) : Inverts w (decG0D w) := by
  unfold decG0D
  split <;> simp only [inverts_chk, inverts_nil, inverts_error, inverts_ok, decide_eq_true_eq, encode, Instr.wellFormed, and_true, b4, b3]
  all_goals
    intros
    apply wordA_fields hw hg ‹_› <;> simp [bit_toNat, AtOrder_code_dec, Scope_code_dec, fld_lt_of_le, *]
    all_goals unfold fld at *; omega

theorem decG0E_inverts {w : Nat} (hw : w < 2 ^ 32) (hg : fld w 31 27 = 0x0E) : Inverts w (decG0E w) := by
  unfold decG0E
  split <;> simp only [inverts_chk, inverts_nil, inverts_error, inverts_ok, decide_eq_true_eq, encode, Instr.wellFormed, and_true, b4, b3]
  all_goals
    intros
    apply wordA_fields hw hg ‹_› <;> simp [bit_toNat, Nat.mod_eq_of_lt, fld_lt_of_le, *]

theorem decG10_inverts {w : Nat} (hw : w < 2 ^ 32) (hg : fld w 31 27 = 0x10) : Inverts w (decG10 w) := by
  unfold decG10
  split <;> simp only [inverts_chk, inverts_nil, inverts_error, decide_eq_true_eq, encode, Instr.wellFormed, and_true, EType_any, and_imp, b4, b3]
  all_goals
    intros
    refine ⟨?_, ‹_›⟩
    apply wordT_fields hw hg ‹_› <;> simp [Nat.mod_eq_of_lt, fld_lt_of_le, maskCode_maskDec, *]

theorem decG11_inverts {w : Nat} (hw : w < 2 ^ 32) (hg : fld w 31 27 = 0x11) : Inverts w (decG11 w) := by
  unfold decG11
  split <;> simp only [inverts_chk, inverts_nil, inverts_error, decide_eq_true_eq, encode, Instr.wellFormed, and_true, EType_any, and_imp, b4, b3]
  all_goals
    intros
    refine ⟨?_, ‹_›⟩
    apply wordT_fields hw hg ‹_› <;> simp [Nat.mod_eq_of_lt, fld_lt_of_le, maskCode_maskDec, *]

theorem decG12_inverts {w : Nat} (hw : w < 2 ^ 32) (hg : fld w 31 27 = 0x12) : Inverts w (decG12 w) := by
  unfold decG12
  split <;> simp only [inverts_chk, inverts_nil, inverts_error, decide_eq_true_eq, encode, Instr.wellFormed, and_true, EType_any, and_imp, b4, b3]
  all_goals
    intros
    refine ⟨?_, ‹_›⟩
    apply wordT_fields hw hg ‹_› <;> simp [Nat.mod_eq_of_lt, fld_lt_of_le, maskCode_maskDec, *]

theorem decG14_inverts {w : Nat} (hw : w < 2 ^ 32) (hg : fld w 31 27 = 0x14) : Inverts w (decG14 w) := by
  unfold decG14
  split <;> simp only [inverts_chk, inverts_nil, inverts_error, decide_eq_true_eq, encode, Instr.wellFormed, and_true, EType_any, and_imp, b4, b3]
  all_goals
    intros
    refine ⟨?_, ‹_›⟩
    apply wordT_fields hw hg ‹_› <;> simp [Nat.mod_eq_of_lt, fld_lt_of_le, maskCode_maskDec, *]

theorem decG13_inverts {w : Nat} (hw : w < 2 ^ 32) (hg : fld w 31 27 = 0x13) : Inverts w (decG13 w) := by
  unfold decG13
  split <;> simp only [inverts_chk, inverts_nil, inverts_error, decide_eq_true_eq, encode, Instr.wellFormed, and_true, EType_any, and_imp, b4, b3]
  case h_1 =>
    intro src mode dst
    simp only [Bool.and_eq_true, EType.cvtOk, decide_eq_true_eq] at src dst
    obtain ⟨dst, pair⟩ := dst
    refine ⟨?_, ?_⟩
    · simp [wordT, bit_toNat, EType_code_dec, src, dst]
      unfold fld at *; omega
    · simp [Nat.mod_eq_of_lt, fld_lt_of_le, bit_toNat, EType_code_dec, EType.cvtOk, src, dst, pair, mode]
  case h_2 =>
    intro src dst
    have l : fld w 3 0 < 10 := by
      simp only [cvtSrOk, Bool.or_eq_true, Bool.and_eq_true, decide_eq_true_eq] at dst
      omega
    have l' : fld w 6 4 < 10 := by omega
    refine ⟨?_, ?_⟩
    · simp [wordT, bit_toNat, EType_code_dec, l, l']
      unfold fld at *; omega
    · simp [EType_code_dec, l, l', src, dst]
  case h_6 =>
    intro tb mode code mem
    simp only [Bool.or_eq_true, decide_eq_true_eq] at tb
    refine ⟨?_, ?_⟩
    · split <;> simp [wordT, qblkCode, code] <;> unfold fld at * <;> omega
    · simp [Nat.mod_eq_of_lt, fld_lt_of_le, mode]
      simpa using mem
  case h_7 =>
    intro _ m code mem
    simp only [Bool.and_eq_true, Bool.or_eq_true, decide_eq_true_eq] at m
    obtain ⟨⟨low, high⟩, exact32⟩ := m
    have l : fld w 6 4 < 10 := by omega
    refine ⟨?_, ?_⟩
    · simp [wordT, bit_toNat, EType_code_dec, l, code]
      unfold fld at *; omega
    · simp [EType_code_dec, l, low, high, bit_eq_false]
      simp at mem
      refine ⟨mem, exact32.imp_right fun h => mem.resolve_right fun e => h ?_⟩
      rw [← code, e]; rfl
  all_goals
    intros
    refine ⟨?_, ‹_›⟩
    apply wordT_fields hw hg ‹_› <;> simp [Nat.mod_eq_of_lt, fld_lt_of_le, maskCode_maskDec, *]

theorem decG15_inverts {w : Nat} (hw : w < 2 ^ 32) (hg : fld w 31 27 = 0x15) : Inverts w (decG15 w) := by
  unfold decG15
  split <;> simp only [inverts_chk, inverts_nil, inverts_error, decide_eq_true_eq, encode, Instr.wellFormed, and_true, EType_any, and_imp, b4, b3]
  case h_8 =>
    intros
    refine ⟨?_, ‹_›⟩
    apply wordT_fields hw hg ‹_› <;> simp [Nat.mod_eq_of_lt, fld_lt_of_le, maskCode_maskDec, *]
  case h_5 | h_6 | h_7 =>
    intros
    apply wordT_fields hw hg ‹_› <;> simp [Nat.mod_eq_of_lt, fld_lt_of_le, maskCode_maskDec, *]
  all_goals
    intros
    refine ⟨?_, ‹_›⟩
    apply wordT_fields hw hg ‹_› <;> simp [Nat.mod_eq_of_lt, fld_lt_of_le, maskCode_maskDec, *]

theorem decG16_inverts {w : Nat} (hw : w < 2 ^ 32) (hg : fld w 31 27 = 0x16) : Inverts w (decG16 w) := by
  unfold decG16
  split <;> simp only [inverts_chk, inverts_nil, inverts_error, decide_eq_true_eq, encode, Instr.wellFormed, and_true, EType_any, and_imp, b4, b3]
  case h_1 | h_4 =>
    intros
    apply wordT_fields hw hg ‹_› <;> simp [Nat.mod_eq_of_lt, fld_lt_of_le, bit_toNat, *]
    all_goals unfold fld at *; omega
  case h_3 | h_5 =>
    intros
    apply wordT_fields hw hg ‹_› <;> simp [Nat.mod_eq_of_lt, fld_lt_of_le, BitMode_code_dec, *]
  case h_12 =>
    intro _ kind code
    simp only [Bool.and_eq_true, decide_eq_true_eq] at kind
    obtain ⟨low, proper⟩ := kind
    have c := TokKind_code_dec low
    refine ⟨?_, ?_⟩
    · apply wordT_fields hw hg ‹_› <;> simp [Nat.mod_eq_of_lt, fld_lt_of_le, *]
    · simp only [bne_iff_ne, ne_eq]
      exact fun e => proper (by rw [← c, e]; rfl)
  all_goals
    intros
    apply wordT_fields hw hg ‹_› <;> simp [Nat.mod_eq_of_lt, fld_lt_of_le, maskCode_maskDec, *]

theorem decG17_inverts {w : Nat} (hw : w < 2 ^ 32) (hg : fld w 31 27 = 0x17) : Inverts w (decG17 w) := by
  unfold decG17
  split <;> simp only [inverts_chk, inverts_nil, inverts_error, decide_eq_true_eq, encode, Instr.wellFormed, and_true, EType_any, and_imp, b4, b3]
  case h_1 =>
    intro c code
    simp only [Bool.and_eq_true, decide_eq_true_eq] at c
    have l : fld w 5 4 < 3 := by have : fld w 5 4 < 4 := fld_lt_of_le (by simp); omega
    simp [wordT, bit_toNat, Plane_code_dec l]
    unfold fld at *; omega
  case h_2 | h_3 =>
    intros
    apply wordT_fields hw hg ‹_› <;> simp [Nat.mod_eq_of_lt, fld_lt_of_le, bit_toNat, *]
    unfold fld at *; omega
  case h_5 =>
    intros
    apply wordT_fields hw hg ‹_› <;> simp [Nat.mod_eq_of_lt, fld_lt_of_le, RecField_code_dec, *]
  all_goals
    intros
    apply wordT_fields hw hg ‹_› <;> simp [Nat.mod_eq_of_lt, fld_lt_of_le, maskCode_maskDec, *]

theorem skipCode_kskip {w : Nat} (h : (decide (fld w 13 13 = 1) || decide (fld w 12 11 = 0)) = true) :
    skipCode (if fld w 13 13 = 1 then some (BitVec.ofNat 2 (fld w 12 11)) else none) = fld w 13 13 * 4 + fld w 12 11 := by
  simp only [Bool.or_eq_true, decide_eq_true_eq] at h
  split <;> simp [skipCode] <;> unfold fld at * <;> omega

theorem decG18_inverts {w : Nat} (hw : w < 2 ^ 32) (hg : fld w 31 27 = 0x18) : Inverts w (decG18 w) := by
  unfold decG18
  split <;> simp only [inverts_chk, inverts_nil, inverts_error, decide_eq_true_eq, encode, Instr.wellFormed, and_true, b4, b3]
  all_goals
    intro fmt skip
    have f : fld w 16 14 < 7 := by have : fld w 16 14 < 8 := fld_lt_of_le (by simp); omega
    intros
    apply wordM_fields hw hg ‹_› <;> simp [Nat.mod_eq_of_lt, fld_lt_of_le, skipCode_kskip skip, MatFmt_code_dec f, bit_toNat]
    unfold fld at *; omega

theorem mDrain_src {w : Nat} (h : fld w 0 0 = 0 ∨ 8 ≤ fld w 10 7) (h' : fld w 0 0 = 0 ∨ fld w 6 6 = 0) :
    gOrPortCode (if fld w 0 0 = 1 then .port (BitVec.ofNat 3 (fld w 10 7 - 8)) else .g (BitVec.ofNat 4 (fld w 10 7)) (bit (fld w 6 6))) =
      fld w 10 6 * 2 ^ 6 + fld w 0 0 := by
  split <;> simp [gOrPortCode, bit_toNat] <;> unfold fld at * <;> omega
theorem mLd_src {w : Nat} (h : fld w 0 0 = 1 ∨ 8 ≤ fld w 10 7) (h' : fld w 0 0 = 1 ∨ fld w 6 6 = 0) :
    ldSrcCode (if fld w 0 0 = 1 then .g (BitVec.ofNat 4 (fld w 10 7)) (bit (fld w 6 6)) else .port (BitVec.ofNat 3 (fld w 10 7 - 8))) =
      fld w 10 6 * 2 ^ 6 + fld w 0 0 := by
  split <;> simp [ldSrcCode, bit_toNat] <;> unfold fld at * <;> omega
theorem StatFmt_code_dec {n : Nat} (h : n = 0 ∨ n = 3 ∨ n = 4 ∨ n = 5) : (StatFmt.dec n).code = n := by
  rcases h with rfl | rfl | rfl | rfl <;> rfl
theorem optG_operand {w : Nat} (h : fld w 0 0 = 1 ∨ fld w 10 7 = 0) (h' : fld w 0 0 = 1 ∨ fld w 6 6 = 0) :
    optGCode (if fld w 0 0 = 1 then some (BitVec.ofNat 4 (fld w 10 7), bit (fld w 6 6)) else none) = fld w 10 6 * 2 ^ 6 + fld w 0 0 := by
  split <;> simp [optGCode, bit_toNat] <;> unfold fld at * <;> omega
theorem fld_low_eq_zero {w : Nat} (h : fld w 10 7 = 0) (h' : fld w 6 6 = 0) (h'' : fld w 5 0 = 0) : fld w 10 0 = 0 := by
  unfold fld at *; omega
/-- The four words of minor code 1, by mod. -/
theorem copies_invert {w : Nat} (hw : w < 2 ^ 32) (hg : fld w 31 27 = 0x19) (hc : fld w 26 23 = 1) : Inverts w (decG19 w) := by
  simp only [decG19, hc]
  split <;> simp only [inverts_chk, inverts_nil, decide_eq_true_eq, encode, Instr.wellFormed, and_true, b4, Bool.false_eq_true, false_implies,
    implies_true]
  all_goals
    intros
    apply wordM_fields hw hg ‹_› <;> simp [bit_toNat, Nat.mod_eq_of_lt, fld_lt_of_le, *]
    all_goals unfold fld at *; omega

theorem decG19_inverts {w : Nat} (hw : w < 2 ^ 32) (hg : fld w 31 27 = 0x19) : Inverts w (decG19 w) := by
  by_cases hc : fld w 26 23 = 1
  · exact copies_invert hw hg hc
  unfold decG19
  split <;> simp only [inverts_chk, inverts_nil, inverts_error, decide_eq_true_eq, encode, Instr.wellFormed, and_true, b4, b3]
  case h_2 => exact absurd ‹_› hc
  case h_1 =>
    intro r f k m aux wait mode
    simp only [Bool.and_eq_true, Bool.or_eq_true, decide_eq_true_eq] at aux wait mode
    apply wordM_fields hw hg ‹_› <;> simp [bit_toNat, Nat.mod_eq_of_lt, fld_lt_of_le, mDrain_src aux wait, *]
    clear aux wait
    unfold fld at *; omega
  case h_3 =>
    intro c r fmt k m aux wait low
    simp only [Bool.or_eq_true, decide_eq_true_eq, or_assoc] at fmt aux wait
    apply wordM_fields hw hg ‹_› <;> simp [mLd_src aux wait, StatFmt_code_dec fmt, *]
    clear fmt aux wait
    unfold fld at *; omega
  all_goals
    intros
    apply wordM_fields hw hg ‹_› <;> simp [Nat.mod_eq_of_lt, fld_lt_of_le, fld_low_eq_zero, *]

theorem decG1A_inverts {w : Nat} (hw : w < 2 ^ 32) (hg : fld w 31 27 = 0x1A) : Inverts w (decG1A w) := by
  unfold decG1A
  split <;> simp only [inverts_chk, inverts_nil, inverts_error, decide_eq_true_eq, encode, Instr.wellFormed, and_true, b4, b3]
  case h_3 =>
    intro r f k m other wait zero
    refine ⟨?_, ?_⟩
    · apply wordM_fields hw hg ‹_› <;> simp [Nat.mod_eq_of_lt, fld_lt_of_le, *]
      all_goals unfold fld at *; omega
    · simpa [← BitVec.toNat_inj, Nat.mod_eq_of_lt, fld_lt_of_le] using other
  case h_4 =>
    intro r f k m wait flags
    simp only [Bool.or_eq_true, decide_eq_true_eq] at flags
    apply wordM_fields hw hg ‹_› <;> simp [Nat.mod_eq_of_lt, fld_lt_of_le, *]
    split
    · simp [thrCode]; unfold fld at *; omega
    · split <;> simp [thrCode] <;> unfold fld at * <;> omega
  case h_5 =>
    intro r f k m port wait mode
    simp only [Bool.and_eq_true, Bool.or_eq_true, decide_eq_true_eq] at mode
    refine ⟨?_, ?_⟩
    · apply wordM_fields hw hg ‹_› <;> simp [bit_toNat, Nat.mod_eq_of_lt, fld_lt_of_le, *]
      split <;> simp [optOutCode] <;> unfold fld at * <;> omega
    · simp [bit_eq_false, bit_eq_true, mode]
  case h_6 =>
    intro r f k m aux wait low
    simp only [Bool.or_eq_true, decide_eq_true_eq] at aux wait
    apply wordM_fields hw hg ‹_› <;> simp [optG_operand aux wait, Nat.mod_eq_of_lt, fld_lt_of_le, *]
    all_goals unfold fld at *; omega
  all_goals
    intros
    apply wordM_fields hw hg ‹_› <;> simp [bit_toNat, Nat.mod_eq_of_lt, fld_lt_of_le, *]
    all_goals unfold fld at *; omega

theorem decG1B_inverts {w : Nat} (hw : w < 2 ^ 32) (hg : fld w 31 27 = 0x1B) : Inverts w (decG1B w) := by
  unfold decG1B
  split <;> simp only [inverts_chk, inverts_nil, inverts_error, decide_eq_true_eq, encode, Instr.wellFormed, and_true, b4, b3]
  case h_1 =>
    intro a f k m aux wait low
    simp only [Bool.or_eq_true, decide_eq_true_eq] at aux wait
    apply wordM_fields hw hg ‹_› <;> simp [optG_operand aux wait, Nat.mod_eq_of_lt, fld_lt_of_le, *]
    all_goals unfold fld at *; omega
  all_goals
    intros
    apply wordM_fields hw hg ‹_› <;> simp [bit_toNat, Nat.mod_eq_of_lt, fld_lt_of_le, *]
    all_goals unfold fld at *; omega

/-! A stream command, over its four words. -/

/-- What four words decode to is encoded by them, and is well formed. -/
def InvertsS (x y z v : Nat) (r : Except DecErr Instr) : Prop := ∀ i, r = .ok i → encode i = [x, y, z, v] ∧ i.wellFormed = true

theorem invertsS_chk (x y z v f k : Nat) (c : Bool) (r : List (Bool × Nat × Nat)) (i : Instr) :
    InvertsS x y z v (chkL ((c, f, k) :: r) i) ↔ (c = true → InvertsS x y z v (chkL r i)) := by
  cases c <;> simp [InvertsS, chkL]
theorem invertsS_nil (x y z v : Nat) (i : Instr) :
    InvertsS x y z v (chkL [] i) ↔ encode i = [x, y, z, v] ∧ i.wellFormed = true := by simp [InvertsS, chkL]
theorem invertsS_error (x y z v : Nat) (e : DecErr) : InvertsS x y z v (.error e) ↔ True := by simp [InvertsS]

theorem destCode_fields {x : Nat} (h : fld x 19 18 = 0 ∨ fld x 19 18 = 1 ∧ fld x 17 15 < 4) :
    destCode (if fld x 19 18 = 0 then .port (BitVec.ofNat 3 (fld x 17 15)) else .ring (BitVec.ofNat 2 (fld x 17 15))) = fld x 19 15 := by
  split <;> simp [destCode] <;> unfold fld at * <;> omega
theorem verCode_fields {y : Nat} (h : fld y 23 23 = 1 ∨ fld y 28 25 = 0) (h' : fld y 23 23 = 1 ∨ fld y 24 24 = 0) :
    verCode (if fld y 23 23 = 1 then some (BitVec.ofNat 4 (fld y 28 25), bit (fld y 24 24)) else none) = fld y 28 23 := by
  split <;> simp [verCode, bit_toNat] <;> unfold fld at * <;> omega
theorem prCode_fields {y : Nat} (h : fld y 22 22 = 1 ∨ fld y 21 19 = 0) :
    prCode (if fld y 22 22 = 1 then some (BitVec.ofNat 3 (fld y 21 19)) else none) = fld y 22 19 := by
  split <;> simp [prCode] <;> unfold fld at * <;> omega
theorem tag_fields {v : Nat} (hv : v < 2 ^ 32) (h : fld v 24 0 = 0) : fld v 31 26 * 67108864 + fld v 25 25 * 33554432 = v := by
  unfold fld at *; omega
theorem tag_zero {v : Nat} (hv : v < 2 ^ 32) (h : fld v 31 26 = 0) (h' : fld v 25 25 = 0) (h'' : fld v 24 0 = 0) : v = 0 := by
  unfold fld at *; omega
/-- A ring takes no tag and no end of stream. -/
theorem ring_untagged {x v : Nat} (h : fld x 19 18 = 0 ∨ fld v 31 26 = 0) (h' : fld x 19 18 = 0 ∨ fld v 25 25 = 0) :
    (match (if fld x 19 18 = 0 then StreamDest.port (BitVec.ofNat 3 (fld x 17 15)) else .ring (BitVec.ofNat 2 (fld x 17 15))) with
      | .port _ => true
      | .ring _ => BitVec.ofNat 6 (fld v 31 26) == 0 && !bit (fld v 25 25)) = true := by
  split
  · rfl
  · next e =>
    have c : fld x 19 18 ≠ 0 := fun c => by simp [c] at e
    simp [bit_eq_false.2 (h'.resolve_left c), h.resolve_left c]

/-- The words W0 and W1 are made of their fields. -/
theorem w0_fields {x : Nat} (hx : x < 2 ^ 32) (hg : fld x 31 27 = 0x1F) : x = 0xF8000000 + fld x 26 23 * 8388608 + fld x 22 20 * 1048576 +
    fld x 19 15 * 32768 + fld x 14 2 * 4 + fld x 1 0 ∧ fld x 19 15 = fld x 19 18 * 8 + fld x 17 15 ∧ fld x 22 20 < 8 := by
  unfold fld at *; omega
theorem w1_fields {y : Nat} (hy : y < 2 ^ 32) : y = fld y 31 29 * 536870912 + fld y 28 23 * 8388608 + fld y 22 19 * 524288 + fld y 18 15 * 32768 +
    fld y 14 11 * 2048 + fld y 10 0 ∧ fld y 28 23 = fld y 28 25 * 4 + fld y 24 24 * 2 + fld y 23 23 ∧
    fld y 22 19 = fld y 22 22 * 8 + fld y 21 19 ∧ fld y 14 11 < 16 := by
  unfold fld; omega

section
variable {x y z v : Nat} (hx : x < 2 ^ 32) (hy : y < 2 ^ 32) (hz : z < 2 ^ 32) (hv : v < 2 ^ 32) (hg : fld x 31 27 = 0x1F)
include hx hy hz hv hg

theorem sRead_inverts (cmd : fld x 26 23 = 0) : InvertsS x y z v (decStream x y z v) := by
  simp only [decStream, cmd, ck, List.cons_append, List.nil_append, invertsS_chk, invertsS_nil, decide_eq_true_eq, encode, Instr.wellFormed,
    and_true, b4, b3, Bool.or_eq_true, Bool.and_eq_true]
  intro eng ep tl v1 v2 pr xf ix r1 t1 t2 r3
  obtain ⟨e0, e1, e2⟩ := w0_fields hx hg
  obtain ⟨f0, f1, f2, f3⟩ := w1_fields hy
  refine ⟨?_, ring_untagged t1 t2⟩
  simp [destCode_fields ep, verCode_fields v1 v2, prCode_fields pr, Xform_code_dec xf, bit_toNat, Nat.mod_eq_of_lt, fld_lt_of_le,
      tag_fields hv r3, hz]
  clear ep v1 v2 t1 t2 pr
  omega
theorem sWrite_inverts (cmd : fld x 26 23 = 1) : InvertsS x y z v (decStream x y z v) := by
  simp only [decStream, cmd, ck, List.cons_append, List.nil_append, invertsS_chk, invertsS_nil, decide_eq_true_eq, encode, Instr.wellFormed,
    and_true, b4, b3, Bool.or_eq_true, Bool.and_eq_true]
  intro eng cls tl v1 v2 pr xf ix r1 t1 t2 r3
  obtain ⟨e0, e1, e2⟩ := w0_fields hx hg
  obtain ⟨f0, f1, f2, f3⟩ := w1_fields hy
  simp [verCode_fields v1 v2, prCode_fields pr, Xform_code_dec xf, Nat.mod_eq_of_lt, fld_lt_of_le, tag_zero hv t1 t2 r3, hz]
  clear v1 v2 t1 t2 pr
  omega
theorem sInd_inverts (cmd : fld x 26 23 = 2) : InvertsS x y z v (decStream x y z v) := by
  simp only [decStream, cmd, ck, List.cons_append, List.nil_append, invertsS_chk, invertsS_nil, decide_eq_true_eq, encode, Instr.wellFormed,
    and_true, b4, b3, Bool.or_eq_true, Bool.and_eq_true]
  intro eng ep tl v1 v2 pr xf ix r1 t1 t2 r3
  obtain ⟨e0, e1, e2⟩ := w0_fields hx hg
  obtain ⟨f0, f1, f2, f3⟩ := w1_fields hy
  refine ⟨?_, ring_untagged t1 t2⟩
  simp [destCode_fields ep, verCode_fields v1 v2, prCode_fields pr, Xform_code_dec xf, bit_toNat, Nat.mod_eq_of_lt, fld_lt_of_le,
      tag_fields hv r3, hz]
  clear ep v1 v2 t1 t2 pr
  omega
theorem sPrism_inverts (cmd : fld x 26 23 = 3) : InvertsS x y z v (decStream x y z v) := by
  simp only [decStream, cmd, ck, List.cons_append, List.nil_append, invertsS_chk, invertsS_nil, decide_eq_true_eq, encode, Instr.wellFormed,
    and_true, b4, b3, Bool.or_eq_true, Bool.and_eq_true]
  intro eng ep pcb tl gv wait ver pe xf ix r1 t1 t2 r3
  obtain ⟨e0, e1, e2⟩ := w0_fields hx hg
  obtain ⟨f0, f1, f2, f3⟩ := w1_fields hy
  simp [Nat.mod_eq_of_lt, fld_lt_of_le, tag_zero hv t1 t2 r3, hz]
  clear t1 t2
  omega
theorem sSyntax_inverts (cmd : fld x 26 23 = 4) : InvertsS x y z v (decStream x y z v) := by
  simp only [decStream, cmd, ck, List.cons_append, List.nil_append, invertsS_chk, invertsS_nil, decide_eq_true_eq, encode, Instr.wellFormed,
    and_true, b4, b3, Bool.or_eq_true, Bool.and_eq_true]
  intro eng cls tl v1 v2 pe pid xf ix r1 r3
  obtain ⟨e0, e1, e2⟩ := w0_fields hx hg
  obtain ⟨f0, f1, f2, f3⟩ := w1_fields hy
  simp [verCode_fields v1 v2, bit_toNat, Nat.mod_eq_of_lt, fld_lt_of_le, tag_fields hv r3, hz]
  clear v1 v2
  omega
theorem sBar_inverts (cmd : fld x 26 23 = 5) : InvertsS x y z v (decStream x y z v) := by
  simp only [decStream, cmd, ck, List.cons_append, List.nil_append, invertsS_chk, invertsS_nil, decide_eq_true_eq, encode, Instr.wellFormed,
    and_true, b4, b3, Bool.or_eq_true, Bool.and_eq_true]
  intro eng ep pcb tl b gv wait ver pe pid xf ix r1 disp t1 t2 r3
  obtain ⟨e0, e1, e2⟩ := w0_fields hx hg
  obtain ⟨f0, f1, f2, f3⟩ := w1_fields hy
  simp [disp, tag_zero hv t1 t2 r3]
  clear t1 t2
  omega
theorem sStop_inverts (cmd : fld x 26 23 = 6) : InvertsS x y z v (decStream x y z v) := by
  simp only [decStream, cmd, ck, List.cons_append, List.nil_append, invertsS_chk, invertsS_nil, decide_eq_true_eq, encode, Instr.wellFormed,
    and_true, b4, b3, Bool.or_eq_true, Bool.and_eq_true]
  intro ep pcb tl b gv wait ver pe pid xf ix r1 disp t1 t2 r3
  obtain ⟨e0, e1, e2⟩ := w0_fields hx hg
  obtain ⟨f0, f1, f2, f3⟩ := w1_fields hy
  simp [Nat.mod_eq_of_lt, fld_lt_of_le, disp, tag_zero hv t1 t2 r3]
  clear t1 t2
  omega
theorem sStat_inverts (cmd : fld x 26 23 = 7) : InvertsS x y z v (decStream x y z v) := by
  simp only [decStream, cmd, ck, List.cons_append, List.nil_append, invertsS_chk, invertsS_nil, decide_eq_true_eq, encode, Instr.wellFormed,
    and_true, b4, b3, Bool.or_eq_true, Bool.and_eq_true]
  intro ep pcb tl b wait ver pe pid xf ix r1 disp t1 t2 r3
  obtain ⟨e0, e1, e2⟩ := w0_fields hx hg
  obtain ⟨f0, f1, f2, f3⟩ := w1_fields hy
  simp [Nat.mod_eq_of_lt, fld_lt_of_le, disp, tag_zero hv t1 t2 r3]
  clear t1 t2
  omega

theorem decStream_inverts : InvertsS x y z v (decStream x y z v) := by
  by_cases h : fld x 26 23 < 8
  · have : fld x 26 23 = 0 ∨ fld x 26 23 = 1 ∨ fld x 26 23 = 2 ∨ fld x 26 23 = 3 ∨ fld x 26 23 = 4 ∨ fld x 26 23 = 5 ∨ fld x 26 23 = 6 ∨
      fld x 26 23 = 7 := by omega
    rcases this with c | c | c | c | c | c | c | c
    · exact sRead_inverts hx hy hz hv hg c
    · exact sWrite_inverts hx hy hz hv hg c
    · exact sInd_inverts hx hy hz hv hg c
    · exact sPrism_inverts hx hy hz hv hg c
    · exact sSyntax_inverts hx hy hz hv hg c
    · exact sBar_inverts hx hy hz hv hg c
    · exact sStop_inverts hx hy hz hv hg c
    · exact sStat_inverts hx hy hz hv hg c
  · unfold decStream
    split <;> first | omega | exact (invertsS_error ..).2 trivial
end

/-! Either kind of word. -/

theorem decWord_inverts {w : Nat} (hw : w < 2 ^ 32) : Inverts w (decWord w) := by
  unfold decWord
  split
  · exact decG01_inverts hw ‹_›
  · exact decG02_inverts hw ‹_›
  · exact decG03_inverts hw ‹_›
  · exact decG04_inverts hw ‹_›
  · exact decG05_inverts hw ‹_›
  · exact decG06_inverts hw ‹_›
  · exact decG07_inverts hw ‹_›
  · exact decG08_inverts hw ‹_›
  · exact decG09_inverts hw ‹_›
  · exact decG0A_inverts hw ‹_›
  · exact decG0B_inverts hw ‹_›
  · exact decG0C_inverts hw ‹_›
  · exact decG0D_inverts hw ‹_›
  · exact decG0E_inverts hw ‹_›
  · exact decG10_inverts hw ‹_›
  · exact decG11_inverts hw ‹_›
  · exact decG12_inverts hw ‹_›
  · exact decG13_inverts hw ‹_›
  · exact decG14_inverts hw ‹_›
  · exact decG15_inverts hw ‹_›
  · exact decG16_inverts hw ‹_›
  · exact decG17_inverts hw ‹_›
  · exact decG18_inverts hw ‹_›
  · exact decG19_inverts hw ‹_›
  · exact decG1A_inverts hw ‹_›
  · exact decG1B_inverts hw ‹_›
  · exact (inverts_error w _).2 trivial

theorem encode_length (i : Instr) (h : encode i ≠ []) : (encode i).length = i.len := by
  cases i <;> first | rfl | exact absurd rfl h

/-- Settles O55: a word, or the four of a stream command, is encoded from the fields that its decoder has checked. -/
theorem encodeInvertsDecode : Obligations.EncodeInvertsDecode := by
  intro ws i hws hlen h
  have low : ∀ k, ws.getD k 0 % 2 ^ 32 < 2 ^ 32 := fun k => Nat.mod_lt _ (by decide)
  simp only [decode] at h
  split at h
  · next hg =>
    obtain ⟨e, wf⟩ := decStream_inverts (low 0) (low 1) (low 2) (low 3) hg i h
    have n := encode_length i (by simp [e])
    rw [e] at n
    obtain ⟨a, b, c, d, rfl⟩ := List.length_eq_four.1 (hlen.trans n.symm)
    simp only [List.mem_cons, List.not_mem_nil, or_false, forall_eq_or_imp, forall_eq] at hws
    obtain ⟨ha, hb, hc, hd⟩ := hws
    refine ⟨?_, wf⟩
    simpa only [List.getD_cons_zero, List.getD_cons_succ, Nat.mod_eq_of_lt, ha, hb, hc, hd] using e
  · split at h
    · next j hj =>
      cases h
      obtain ⟨e, wf⟩ := decWord_inverts (low 0) i hj
      have n := encode_length i (by simp [e])
      rw [e] at n
      obtain ⟨a, rfl⟩ := List.length_eq_one_iff.1 (hlen.trans n.symm)
      refine ⟨?_, wf⟩
      simpa only [List.getD_cons_zero, Nat.mod_eq_of_lt (hws a (List.mem_singleton_self a))] using e
    · cases h
end Sys2Proof.Proofs.Encoding
end

section
/-! PROOFS. Register words and scratchpad accesses: immediates, constants, base registers, loads and stores, and the frame of the words
whose effect is one register (R48, R63 to R70). -/
namespace Sys2Proof.Proofs.Registers
open Sys2Proof Sys2Proof.Machine
open Sys2Proof.Proofs.ScalarControl
set_option Elab.async false

/-! ## Immediates (R67) -/

theorem add_signExtend (x : DWord) (i : BitVec 15) : x + i.signExtend 64 = .ofInt 64 (x.toNat + i.toInt) := by
  rw [BitVec.ofInt_add, BitVec.ofInt_natCast, BitVec.ofNat_toNat, BitVec.setWidth_eq]; rfl

/-- R67: every immediate operation is a one-source word. -/
theorem immediateArithmeticFollowsTable : Claims.ImmediateArithmeticFollowsTable := by
  intro s d a w i k x
  have less : flag (x.slt (i.signExtend 64)) = if x.toInt < i.toInt then 1 else 0 := by
    rw [flag_slt, BitVec.toInt_signExtend_of_le (by decide)]
  simp only [List.forall_mem_cons]
  exact ⟨oneSource_of_exec rfl (add_signExtend x i), oneSource_of_exec rfl rfl, oneSource_of_exec rfl rfl, oneSource_of_exec rfl rfl,
    oneSource_of_exec rfl rfl, oneSource_of_exec rfl rfl, oneSource_of_exec rfl rfl, oneSource_of_exec rfl less, List.forall_mem_nil _⟩

/-! ## Constants (R68) -/

/-- A replaced field holds the constant, and every other bit is as before. -/
theorem getLsbD_opLis (n width i k : Nat) (x : DWord) (hk : k < 64) (hi : i < 2 ^ width) :
    (opLis n width x i).getLsbD k = if n ≤ k ∧ k < n + width then i.testBit (k - n) else x.getLsbD k := by
  have ones : (2 ^ width - 1).testBit (k - n) = decide (k - n < width) := Nat.testBit_two_pow_sub_one ..
  simp only [opLis, BitVec.getLsbD_or, BitVec.getLsbD_and, BitVec.getLsbD_not, BitVec.getLsbD_ofNat, Nat.testBit_shiftLeft, hk, decide_true,
    Bool.true_and, ones]
  by_cases low : n ≤ k
  · by_cases high : k < n + width
    · have : k - n < width := by omega
      simp [low, high, this]
    · have : ¬ k - n < width := by omega
      have zero : i.testBit (k - n) = false :=
        Nat.testBit_lt_two_pow (Nat.lt_of_lt_of_le hi (Nat.pow_le_pow_right (by decide) (by omega)))
      simp [low, high, this, zero]
  · simp [low]

/-- A word that replaces a field of its full destination. -/
theorem replaces_of_exec {s : State} {d : BitVec 4} {w : Bool} {i : Instr} {n width v : Nat} {x : DWord} (hx : s.full d x) (hv : v < 2 ^ width)
    (h : exec i s = .next (needG s d w 3 fun x => advance (s.setG d (opLis n width x v)) 1)) :
    ∃ y : DWord, exec i s = (s.setG d y).done ∧
      ∀ k < 64, y.getLsbD k = if n ≤ k ∧ k < n + width then v.testBit (k - n) else x.getLsbD k :=
  ⟨opLis n width x v, by rw [h, needG_full _ _ _ hx]; rfl, fun k hk => getLsbD_opLis n width v k x hk hv⟩
/-- One whose destination is not full parks or traps. -/
theorem blocked_of_needG {s : State} {d : BitVec 4} {w : Bool} {f : Nat} {i : Instr} {k : DWord → State} (hx : (s.g d).st ≠ .full)
    (h : exec i s = .next (needG s d w f k)) : exec i s = s.blocked d w f := by
  rw [h, needG_not_full _ _ _ hx, blocked_eq]

/-- R68: constants. -/
theorem constantsReplaceTheirField : Claims.ConstantsReplaceTheirField := by
  intro s d w i j x
  refine ⟨fun h => ?_, fun h => ?_, fun h => ?_, fun h => ?_⟩
  · exact congrArg Host.Outcome.next (needD_takes _ h)
  · exact congrArg Host.Outcome.next (needD_pending _ h)
  · simp only [List.forall_mem_cons]
    exact ⟨replaces_of_exec h i.isLt rfl, replaces_of_exec h i.isLt rfl, replaces_of_exec h i.isLt rfl, replaces_of_exec h j.isLt rfl,
      List.forall_mem_nil _⟩
  · simp only [List.forall_mem_cons]
    exact ⟨blocked_of_needG h rfl, blocked_of_needG h rfl, blocked_of_needG h rfl, blocked_of_needG h rfl, List.forall_mem_nil _⟩

/-! ## Base registers (R69) -/

/-- An offset moves by a number modulo 2^48, given as an exact one. -/
theorem offsetBy_ofNat (x : VAddr) (y : DWord) :
    offsetBy x y = x.extractLsb' 48 32 ++ BitVec.ofNat 48 ((x.extractLsb' 0 48).toNat + y.toNat) := by
  rw [offsetBy, BitVec.ofNat_add, BitVec.ofNat_toNat, BitVec.ofNat_toNat, BitVec.setWidth_eq]
theorem offsetBy_ofInt (x : VAddr) (n : BitVec 8) :
    offsetBy x (n.signExtend 64 * 64) = x.extractLsb' 48 32 ++ BitVec.ofInt 48 ((x.extractLsb' 0 48).toNat + n.toInt * 64) := by
  have e : (n.signExtend 64 * 64).setWidth 48 = BitVec.ofInt 48 (n.toInt * 64) := by
    apply BitVec.eq_of_toNat_eq
    have c : BitVec.toNat (64 : DWord) = 64 := rfl
    simp only [BitVec.signExtend, BitVec.toNat_setWidth, BitVec.toNat_mul, BitVec.toNat_ofInt, c]
    omega
  rw [offsetBy, e, BitVec.ofInt_add, BitVec.ofInt_natCast, BitVec.ofNat_toNat, BitVec.setWidth_eq]
theorem inWindow_eq (x y : DWord) : inWindow x y = x.extractLsb' 0 16 ++ y := by
  rw [inWindow, BitVec.setWidth_eq_extractLsb' (by decide)]

/-- R69: the base-register words. -/
theorem baseRegisterOpsFollowTable : Claims.BaseRegisterOpsFollowTable := by
  intro s d a g h w v n x y
  have low : (s.b a).setWidth 64 = (s.b a).extractLsb' 0 64 := BitVec.setWidth_eq_extractLsb' (by decide)
  refine ⟨rfl, fun hy => ?_, ?_, fun hx hy => ?_, fun hg => ⟨?_, ?_⟩, fun hy => ?_, fun hy => ⟨?_, ?_, fun hx => ?_⟩, fun hx => ?_, fun hg => ⟨?_, ?_⟩⟩
  · rw [← offsetBy_ofNat]; exact congrArg Host.Outcome.next (needG_full _ _ _ hy)
  · rw [← offsetBy_ofInt]; rfl
  · rw [← inWindow_eq]; exact congrArg Host.Outcome.next ((needG_full _ _ _ hx).trans (needG_full _ _ _ hy))
  · rw [← low]; exact congrArg Host.Outcome.next (needD_takes _ hg)
  · exact congrArg Host.Outcome.next (needD_takes _ hg)
  · rw [← low, ← inWindow_eq]; exact congrArg Host.Outcome.next (needG_full _ _ _ hy)
  · exact blocked_of_needG hy rfl
  · exact blocked_of_needG hy rfl
  · exact blocked_of_needG hy (congrArg Host.Outcome.next (needG_full _ _ _ hx))
  · exact blocked_of_needG hx rfl
  · exact congrArg Host.Outcome.next (needD_pending _ hg)
  · exact congrArg Host.Outcome.next (needD_pending _ hg)

/-- Settles O2: the words of groups 0x02 to 0x04 through the checks that they share. -/
theorem constantsAndBasesFollowTheTables : Obligations.ConstantsAndBasesFollowTheTables :=
  ⟨immediateArithmeticFollowsTable, constantsReplaceTheirField, baseRegisterOpsFollowTable⟩

/-! ## The frame of a register result (R48, R66 to R72) -/

theorem alSet_alSet {α : Type} (l : List (Nat × α)) (a : Nat) (x y : α) : alSet (alSet l a x) a y = alSet l a y := by
  induction l with
  | nil => simp [alSet]
  | cons p r ih =>
    obtain ⟨c, z⟩ := p
    by_cases h : a = c <;> simp [alSet, h, ih]
theorem vset_vset {α : Type} {n : Nat} (v : Vector α n) (i : Nat) (x y : α) : vset (vset v i x) i y = vset v i y := by
  unfold vset
  ext j hj
  simp only [Vector.getElem_setIfInBounds]
  split <;> rfl
/-- Two changes of the issuing task are one. -/
theorem modCur_modCur (s : State) (f g : Task → Task) : (s.modCur f).modCur g = s.modCur fun k => g (f k) := by
  rw [modCur_eq (s.modCur f), cur_modCur, modCur_eq s f, modCur_eq s]
  simp only [State.setTask, modTile_eq, setTile_ctx, tile_setTile, if_pos, vset_vset]
  simp only [State.setTile, alSet_alSet]
/-- A register result that completes in a task changes its task alone. -/
theorem done_modCur {s t : State} {f : Task → Task} (hu : s.ctx.unit = .task) (h : (s.modCur f).done = .next t) :
    t = s.modCur fun k => { f k with st := .ready, pc := (f k).pc + 1, mark := none } := by
  injection h with h
  rw [← h]
  exact (advance_task (s := s.modCur f) 1 hu).trans (modCur_modCur s f fun k => { k with st := .ready, pc := k.pc + 1, mark := none })

/-- The frame of the words whose effect is one register. -/
def Frame (s t : State) : Prop :=
  OnlyTask s t ∧ t.cur.pc = s.cur.pc + 1 ∧ t.hbm = s.hbm ∧ (∀ n a, t.spByte n a = s.spByte n a) ∧
    t.cur.tcause = s.cur.tcause ∧ t.cur.tpc = s.cur.tpc ∧ t.cur.tval = s.cur.tval ∧ t.cur.ssp = s.cur.ssp ∧ t.cur.ptraps = s.cur.ptraps

/-- A change of the issuing task leaves every byte of scratchpad. -/
theorem spByte_modCur (s : State) (f : Task → Task) (n a : Nat) : (s.modCur f).spByte n a = s.spByte n a := by
  unfold State.spByte
  rw [modCur_eq, State.setTask, modTile_eq, tile_setTile]
  by_cases h : n = s.ctx.tile <;> simp [h]
/-- A completed change of registers alone has that frame. -/
theorem frame_of_done {s t : State} {f : Task → Task} (hu : s.ctx.unit = .task) (h : (s.modCur f).done = .next t)
    (hf : ∀ k, (f k).pc = k.pc ∧ (f k).tcause = k.tcause ∧ (f k).tpc = k.tpc ∧ (f k).tval = k.tval ∧ (f k).ssp = k.ssp ∧ (f k).ptraps = k.ptraps) :
    Frame s t := by
  obtain rfl := done_modCur hu h
  obtain ⟨h1, h2, h3, h4, h5, h6⟩ := hf s.cur
  refine ⟨onlyTask_modCur s _, ?_, rfl, fun n a => spByte_modCur s _ n a, ?_⟩ <;> rw [cur_modCur]
  · exact congrArg (· + 1) h1
  · exact ⟨h2, h3, h4, h5, h6⟩

section
variable {s t : State} (hu : s.ctx.unit = .task)
include hu

/-- The registers of a task that has completed a change of them. -/
theorem regs_of_done {f : Task → Task} (h : (s.modCur f).done = .next t) :
    (∀ r, t.g r = (s.modCur f).g r) ∧ (∀ r, t.b r = (s.modCur f).b r) ∧ (∀ r, t.m r = (s.modCur f).m r) ∧ ∀ r, t.w r = (s.modCur f).w r := by
  obtain rfl := done_modCur hu h
  simp only [State.g, State.b, State.m, State.w, cur_modCur, implies_true, and_self]

theorem done_setG {d : BitVec 4} {x : DWord} (h : (s.setG d x).done = .next t) :
    Frame s t ∧ (∀ r, r ≠ d → t.g r = s.g r) ∧ t.g d = { val := x, st := .full } ∧ (∀ r, t.b r = s.b r) ∧ (∀ r, t.m r = s.m r) ∧
      ∀ r, t.w r = s.w r := by
  obtain ⟨g, b, m, w⟩ := regs_of_done hu h
  refine ⟨frame_of_done hu h fun k => ⟨rfl, rfl, rfl, rfl, rfl, rfl⟩, fun r hr => ?_, ?_, fun r => ?_, fun r => ?_, fun r => ?_⟩
  · exact (g r).trans ((g_setG s d r x).trans (if_neg hr))
  · exact (g d).trans ((g_setG s d d x).trans (if_pos rfl))
  · rw [b, State.b, cur_modCur]; rfl
  · rw [m, State.m, cur_modCur]; rfl
  · rw [w, State.w, cur_modCur]; rfl
theorem done_setB {d : BitVec 3} {x : VAddr} (h : (s.setB d x).done = .next t) :
    Frame s t ∧ (∀ r, t.g r = s.g r) ∧ t.b d = x ∧ (∀ r, r ≠ d → t.b r = s.b r) ∧ (∀ r, t.m r = s.m r) ∧ ∀ r, t.w r = s.w r := by
  obtain ⟨g, b, m, w⟩ := regs_of_done hu h
  refine ⟨frame_of_done hu h fun k => ⟨rfl, rfl, rfl, rfl, rfl, rfl⟩, fun r => ?_, ?_, fun r hr => ?_, fun r => ?_, fun r => ?_⟩
  · rw [g, State.g, cur_modCur]; rfl
  · exact (b d).trans ((b_setB s d d x).trans (if_pos rfl))
  · exact (b r).trans ((b_setB s d r x).trans (if_neg hr))
  · rw [m, State.m, cur_modCur]; rfl
  · rw [w, State.w, cur_modCur]; rfl
theorem done_setM {d : BitVec 2} {x : BitVec 16} (h : (s.setM d x).done = .next t) :
    Frame s t ∧ (∀ r, t.g r = s.g r) ∧ (∀ r, t.b r = s.b r) ∧ t.m d = x ∧ (∀ r, r ≠ d → t.m r = s.m r) ∧ ∀ r, t.w r = s.w r := by
  obtain ⟨g, b, m, w⟩ := regs_of_done hu h
  refine ⟨frame_of_done hu h fun k => ⟨rfl, rfl, rfl, rfl, rfl, rfl⟩, fun r => ?_, fun r => ?_, ?_, fun r hr => ?_, fun r => ?_⟩
  · rw [g, State.g, cur_modCur]; rfl
  · rw [b, State.b, cur_modCur]; rfl
  · exact (m d).trans ((m_setM s d d x).trans (if_pos rfl))
  · exact (m r).trans ((m_setM s d r x).trans (if_neg hr))
  · rw [w, State.w, cur_modCur]; rfl
theorem done_setW {d : BitVec 3} {x : Token} (h : (s.setW d x).done = .next t) :
    Frame s t ∧ (∀ r, t.g r = s.g r) ∧ (∀ r, t.b r = s.b r) ∧ (∀ r, t.m r = s.m r) ∧ t.w d = x ∧ ∀ r, r ≠ d → t.w r = s.w r := by
  obtain ⟨g, b, m, w⟩ := regs_of_done hu h
  refine ⟨frame_of_done hu h fun k => ⟨rfl, rfl, rfl, rfl, rfl, rfl⟩, fun r => ?_, fun r => ?_, fun r => ?_, ?_, fun r hr => ?_⟩
  · rw [g, State.g, cur_modCur]; rfl
  · rw [b, State.b, cur_modCur]; rfl
  · rw [m, State.m, cur_modCur]; rfl
  · exact (w d).trans ((w_setW s d d x).trans (if_pos rfl))
  · exact (w r).trans ((w_setW s d r x).trans (if_neg hr))

/-- A word whose effect is one g register, or one b register, has the frame. -/
theorem frame_of_setG {i : Instr} {d : BitVec 4} (h : ∃ x, exec i s = (s.setG d x).done) (ht : exec i s = .next t) :
    Frame s t ∧ (∀ r, r ≠ d → t.g r = s.g r) ∧ (∀ r, t.b r = s.b r) ∧ (∀ r, t.m r = s.m r) ∧ ∀ r, t.w r = s.w r := by
  obtain ⟨x, hx⟩ := h
  obtain ⟨f, g, _, b, m, w⟩ := done_setG hu (hx.symm.trans ht)
  exact ⟨f, g, b, m, w⟩
theorem frame_of_setB {i : Instr} {d : BitVec 3} (h : ∃ x, exec i s = (s.setB d x).done) (ht : exec i s = .next t) :
    Frame s t ∧ (∀ r, t.g r = s.g r) ∧ (∀ r, r ≠ d → t.b r = s.b r) ∧ (∀ r, t.m r = s.m r) ∧ ∀ r, t.w r = s.w r := by
  obtain ⟨x, hx⟩ := h
  obtain ⟨f, g, _, b, m, w⟩ := done_setB hu (hx.symm.trans ht)
  exact ⟨f, g, b, m, w⟩
end

/-- The words of two sources, of one, and those that replace a field write one g register. -/
theorem writes_of_two {s : State} {d a b : BitVec 4} {w v : Bool} {x y : DWord} {i : Instr} {f : DWord → DWord → DWord}
    (hx : s.full a x) (hy : s.full b y) (hd : s.takes d) (h : exec i s = .next (scalar2 s d a b w v f)) : ∃ z, exec i s = (s.setG d z).done := by
  obtain ⟨e, -⟩ := twoSource_of_exec (x := x) (y := y) h rfl
  exact ⟨_, e hx hy hd⟩
theorem writes_of_one {s : State} {d a : BitVec 4} {w : Bool} {x : DWord} {i : Instr} {f : DWord → DWord}
    (hx : s.full a x) (hd : s.takes d) (h : exec i s = .next (scalar1 s d a w f)) : ∃ z, exec i s = (s.setG d z).done := by
  obtain ⟨e, -⟩ := oneSource_of_exec (x := x) h rfl
  exact ⟨_, e hx hd⟩
theorem writes_of_replace {s : State} {d : BitVec 4} {w : Bool} {x : DWord} {i : Instr} {f : DWord → DWord} (hx : s.full d x)
    (h : exec i s = .next (needG s d w 3 fun x => advance (s.setG d (f x)) 1)) : ∃ z, exec i s = (s.setG d z).done :=
  ⟨f x, by rw [h, needG_full _ _ _ hx]; rfl⟩

/-- Settles O59: a word that completes with one register written changes its task by a function of it. -/
theorem registerResultsTouchNothingElse : Obligations.RegisterResultsTouchNothingElse := by
  intro s t hu
  refine ⟨fun d x h => done_setG hu h, fun d x h => done_setB hu h, fun d x h => done_setM hu h, fun d x h => done_setW hu h,
    fun d a b e c m w v i k n x y z hx hy => ⟨fun hd => ?_, ?_, fun hd => ?_, fun hz => ?_⟩⟩
  · have get : ∀ j ∈ [Instr.bGet d c, .bGwin d c], ∃ z, exec j s = (s.setG d z).done := by
      simp only [List.forall_mem_cons]
      exact ⟨⟨_, congrArg Host.Outcome.next (needD_takes _ hd)⟩, ⟨_, congrArg Host.Outcome.next (needD_takes _ hd)⟩, List.forall_mem_nil _⟩
    exact fun j hj => frame_of_setG hu (get j hj)
  · have base : ∀ j ∈ [Instr.bMov e c, .bAdd e c a w, .bAddi e c m, .bWin e a b w v, .bCpy e c a w], ∃ z, exec j s = (s.setB e z).done := by
      simp only [List.forall_mem_cons]
      exact ⟨⟨_, rfl⟩, ⟨_, congrArg Host.Outcome.next (needG_full _ _ _ hx)⟩, ⟨_, rfl⟩,
        ⟨_, congrArg Host.Outcome.next ((needG_full _ _ _ hx).trans (needG_full _ _ _ hy))⟩,
        ⟨_, congrArg Host.Outcome.next (needG_full _ _ _ hx)⟩, List.forall_mem_nil _⟩
    exact fun j hj => frame_of_setB hu (base j hj)
  · refine fun j hj => frame_of_setG hu ?_
    revert j
    simp only [List.forall_mem_cons]
    refine ⟨writes_of_two hx hy hd rfl, writes_of_two hx hy hd rfl, writes_of_two hx hy hd rfl, writes_of_two hx hy hd rfl, writes_of_two hx hy hd rfl, writes_of_two hx hy hd rfl, writes_of_two hx hy hd rfl, writes_of_two hx hy hd rfl, writes_of_two hx hy hd rfl, writes_of_two hx hy hd rfl, writes_of_two hx hy hd rfl, writes_of_two hx hy hd rfl, writes_of_two hx hy hd rfl, writes_of_two hx hy hd rfl, writes_of_two hx hy hd rfl, writes_of_two hx hy hd rfl, writes_of_two hx hy hd rfl, writes_of_two hx hy hd rfl, writes_of_two hx hy hd rfl, writes_of_two hx hy hd rfl, writes_of_two hx hy hd rfl, writes_of_two hx hy hd rfl,
      writes_of_one hx hd rfl, writes_of_one hx hd rfl, writes_of_one hx hd rfl, writes_of_one hx hd rfl, writes_of_one hx hd rfl, writes_of_one hx hd rfl, writes_of_one hx hd rfl, writes_of_one hx hd rfl, writes_of_one hx hd rfl, writes_of_one hx hd rfl, writes_of_one hx hd rfl, writes_of_one hx hd rfl, writes_of_one hx hd rfl, writes_of_one hx hd rfl,
      ⟨_, congrArg Host.Outcome.next (needD_takes _ hd)⟩, List.forall_mem_nil _⟩
  · refine fun j hj => frame_of_setG hu ?_
    revert j
    simp only [List.forall_mem_cons]
    exact ⟨writes_of_replace hz rfl, writes_of_replace hz rfl, writes_of_replace hz rfl, writes_of_replace hz rfl, List.forall_mem_nil _⟩

end Sys2Proof.Proofs.Registers
end

section
/-! PROOFS. Bytes, chunks and flags as numbers: what is read from a number that was put together, and the parts of one taken apart. -/
namespace Sys2Proof.Proofs.Bits
open Sys2Proof Sys2Proof.Machine
set_option Elab.async false

/-! ## Lists of numbers -/

theorem upFrom_eq_range' (a n : Nat) : upFrom a n = List.range' a n := by
  induction n generalizing a with
  | zero => rfl
  | succ n ih => rw [upFrom, ih, List.range'_succ]
@[simp] theorem upTo_eq_range (n : Nat) : upTo n = List.range n := by rw [upTo, upFrom_eq_range', List.range_eq_range']
theorem getD_map_range {α : Type} (f : Nat → α) (d : α) {n k : Nat} (h : k < n) : ((List.range n).map f).getD k d = f k := by
  simp [List.getD_eq_getElem?_getD, h]

/-! ## Chunks -/

@[simp] theorem chunks_length (w n x : Nat) : (chunks w n x).length = n := by
  induction n generalizing x with
  | zero => rfl
  | succ n ih => simp [chunks, ih]
theorem chunks_getD (w : Nat) {n k : Nat} (x d : Nat) (h : k < n) : (chunks w n x).getD k d = x / 2 ^ (w * k) % 2 ^ w := by
  induction n generalizing x k with
  | zero => omega
  | succ n ih =>
    cases k with
    | zero => simp [chunks]
    | succ k =>
      rw [chunks, List.getD_cons_succ, ih _ (by omega), Nat.div_div_eq_div_mul, ← Nat.pow_add, Nat.mul_succ, Nat.add_comm]
theorem chunks_eq_map (w n x : Nat) : chunks w n x = (List.range n).map fun k => x / 2 ^ (w * k) % 2 ^ w := by
  apply List.ext_getElem (by simp)
  intro k h _
  have := chunks_getD w x 0 (show k < n by simpa using h)
  rw [List.getD_eq_getElem _ _ h] at this
  simpa using this

theorem unchunk_lt (w : Nat) (l : List Nat) : unchunk w l < 2 ^ (w * l.length) := by
  induction l with
  | nil => simp [unchunk]
  | cons x r ih =>
    have h : x % 2 ^ w < 2 ^ w := Nat.mod_lt _ (Nat.two_pow_pos w)
    rw [unchunk, List.length_cons, Nat.mul_succ, Nat.pow_add, Nat.mul_comm (2 ^ (w * r.length))]
    calc x % 2 ^ w + 2 ^ w * unchunk w r < 2 ^ w + 2 ^ w * unchunk w r := by omega
      _ = 2 ^ w * (unchunk w r + 1) := by ring
      _ ≤ 2 ^ w * 2 ^ (w * r.length) := Nat.mul_le_mul_left _ ih
/-- The chunk at a place of joined chunks. -/
theorem unchunk_div_mod (w : Nat) (l : List Nat) (k : Nat) : unchunk w l / 2 ^ (w * k) % 2 ^ w = l.getD k 0 % 2 ^ w := by
  induction l generalizing k with
  | nil => simp [unchunk]
  | cons x r ih =>
    have h : x % 2 ^ w < 2 ^ w := Nat.mod_lt _ (Nat.two_pow_pos w)
    cases k with
    | zero => simp [unchunk, Nat.add_mul_mod_self_left]
    | succ k =>
      rw [unchunk, Nat.mul_succ, Nat.add_comm (w * k), Nat.pow_add, ← Nat.div_div_eq_div_mul, Nat.add_mul_div_left _ _ (Nat.two_pow_pos w),
        Nat.div_eq_of_lt h, Nat.zero_add, ih, List.getD_cons_succ]

/-! ## Flags -/

/-- A bit of packed flags. -/
theorem testBit_packBits {n k : Nat} (l : List Bool) (h : k < n) : (packBits n l).toNat.testBit k = l.getD k false := by
  have u := unchunk_div_mod 1 (l.map Bool.toNat) k
  rw [packBits, BitVec.toNat_ofNat, Nat.testBit_mod_two_pow, decide_eq_true h, Bool.true_and, Nat.testBit_eq_decide_div_mod_eq]
  rw [Nat.one_mul, Nat.pow_one] at u
  rw [u, List.getD_eq_getElem?_getD, List.getD_eq_getElem?_getD, List.getElem?_map]
  cases l[k]? with
  | none => rfl
  | some b => cases b <;> rfl
@[simp] theorem testBit_bits16 (f : Nat → Bool) {k : Nat} (h : k < 16) : (bits16 f).toNat.testBit k = f k := by
  rw [bits16, upTo_eq_range, testBit_packBits _ h, getD_map_range f _ h]

/-! ## Lanes -/

theorem lane_eq (x : Token) (k : Nat) : x.lane k = x.data.toNat / 2 ^ (32 * k) % 2 ^ 32 := by
  rw [Token.lane, fld, show 32 * k + 31 + 1 - 32 * k = 32 by omega]
theorem ofNat_div_mod {n w : Nat} (x k : Nat) (h : w * (k + 1) ≤ n) :
    (BitVec.ofNat n x).toNat / 2 ^ (w * k) % 2 ^ w = x / 2 ^ (w * k) % 2 ^ w := by
  apply Nat.eq_of_testBit_eq
  intro i
  simp only [BitVec.toNat_ofNat, Nat.testBit_mod_two_pow, Nat.testBit_div_two_pow]
  by_cases c : i < w
  · have : w * k + i < n := by rw [Nat.mul_succ] at h; omega
    rw [Nat.add_comm] at this
    simp [c, this]
  · simp [c]
theorem laneData_div_mod (l : List Nat) {k : Nat} (h : k < 16) : (laneData l).toNat / 2 ^ (32 * k) % 2 ^ 32 = l.getD k 0 % 2 ^ 32 := by
  rw [laneData, ofNat_div_mod _ _ (by omega), unchunk_div_mod]
theorem laneFn_div_mod (f : Nat → Nat) {k : Nat} (h : k < 16) : (laneFn f).toNat / 2 ^ (32 * k) % 2 ^ 32 = f k % 2 ^ 32 := by
  rw [laneFn, laneData_div_mod _ h, upTo_eq_range, getD_map_range f _ h]

/-! ## Bytes -/

@[simp] theorem leBytes_length (n x : Nat) : (leBytes n x).length = n := by
  induction n generalizing x with
  | zero => rfl
  | succ n ih => simp [leBytes, ih]
theorem leBytes_getD {n k : Nat} (x : Nat) (d : Byte) (h : k < n) : (leBytes n x).getD k d = .ofNat 8 (x / 256 ^ k) := by
  induction n generalizing x k with
  | zero => omega
  | succ n ih =>
    cases k with
    | zero => simp [leBytes]
    | succ k => rw [leBytes, List.getD_cons_succ, ih _ (by omega), Nat.div_div_eq_div_mul, ← Nat.pow_succ']
theorem leNat_lt (l : List Byte) : leNat l < 256 ^ l.length := by
  induction l with
  | nil => simp [leNat]
  | cons b r ih => rw [leNat, List.length_cons, Nat.pow_succ]; have := b.isLt; omega
theorem leNat_append (l r : List Byte) : leNat (l ++ r) = leNat l + 256 ^ l.length * leNat r := by
  induction l with
  | nil => simp [leNat]
  | cons b t ih => rw [List.cons_append, leNat, leNat, ih, List.length_cons, Nat.pow_succ]; ring
theorem leNat_leBytes (n x : Nat) : leNat (leBytes n x) = x % 256 ^ n := by
  induction n generalizing x with
  | zero => simp [leBytes, leNat, Nat.mod_one]
  | succ n ih =>
    rw [leBytes, leNat, ih, BitVec.toNat_ofNat, show 256 ^ (n + 1) = 2 ^ 8 * 256 ^ n from Nat.pow_succ', Nat.mod_mul]
    rfl
/-- A run of bytes of a little-endian number. -/
theorem leNat_div_mod (l : List Byte) (k c : Nat) : leNat l / 256 ^ k % 256 ^ c = leNat ((l.drop k).take c) := by
  induction l generalizing k c with
  | nil => simp [leNat]
  | cons b r ih =>
    have hb := b.isLt
    cases k with
    | zero =>
      cases c with
      | zero => simp [leNat, Nat.mod_one]
      | succ c =>
        have := ih 0 c
        rw [Nat.pow_zero, Nat.div_one, List.drop_zero] at this
        have q : (b.toNat + 256 * leNat r) / 256 = leNat r := by omega
        rw [Nat.pow_zero, Nat.div_one, List.drop_zero, List.take_succ_cons, leNat, leNat, ← this, Nat.pow_succ', Nat.mod_mul, q]
        omega
    | succ k =>
      rw [List.drop_succ_cons, ← ih, leNat, Nat.pow_succ', ← Nat.div_div_eq_div_mul]
      congr 2; omega
theorem memRead_drop (m : Mem) (a n k : Nat) : (memRead m a n).drop k = memRead m (a + k) (n - k) := by
  induction k generalizing a n with
  | zero => simp
  | succ k ih =>
    cases n with
    | zero => simp [memRead]
    | succ n => rw [memRead, List.drop_succ_cons, ih, Nat.succ_sub_succ, Nat.add_assoc, Nat.add_comm 1]
theorem memRead_take (m : Mem) (a n k : Nat) : (memRead m a n).take k = memRead m a (min k n) := by
  induction k generalizing a n with
  | zero => simp [memRead]
  | succ k ih =>
    cases n with
    | zero => simp [memRead]
    | succ n => rw [memRead, List.take_succ_cons, ih, Nat.succ_min_succ, memRead]
/-- Bytes within a range that is read as a number. -/
theorem leNat_memRead (m : Mem) (a n k c : Nat) (h : k + c ≤ n) : leNat (memRead m a n) / 256 ^ k % 256 ^ c = leNat (memRead m (a + k) c) := by
  rw [leNat_div_mod, memRead_drop, memRead_take, Nat.min_eq_left (by omega)]

end Sys2Proof.Proofs.Bits
end

section
/-! PROOFS. Loads and stores of scratchpad (R63, R65, R70, R303, R321). -/
namespace Sys2Proof.Proofs.Scratchpad
open Sys2Proof Sys2Proof.Machine
open Sys2Proof.Proofs.ScalarControl Sys2Proof.Proofs.Registers Sys2Proof.Proofs.Bits
set_option Elab.async false

/-! ## The share of a fold phase (R63, R303, R321) -/

theorem shareBytes_le (fold : BitVec 2) : shareBytes fold ≤ 0x7_8000 := Nat.div_le_self _ _

/-- R63, R303, R321: the ranges and the place of a share. -/
theorem scratchpadRangeIsTheShare : Claims.ScratchpadRangeIsTheShare := by
  intro fold ph a n hn
  have le := shareBytes_le fold
  have share : shareBytes fold = 0x7_8000 / 2 ^ fold.toNat := rfl
  have at_ : spOk fold false a n = true → spAddr fold ph a = ph.toNat * shareBytes fold + a := by
    intro h
    simp only [spOk, Bool.false_and, Bool.or_false, decide_eq_true_eq] at h
    rw [spAddr, if_neg (by omega)]
  rw [← share]
  refine ⟨?_, ?_, ?_, at_⟩
  · simp [spOk]
  · simp [spOk]
  · simp [spStOk]

/-! ## Scalar loads (R70) -/

/-- A pattern of n bits read as two's complement is the bit vector's value. -/
theorem sgn_eq_toInt (n x : Nat) (hn : 0 < n) : sgn n x = (BitVec.ofNat n x).toInt := by
  have two : 2 ^ n = 2 * 2 ^ (n - 1) := by rw [← Nat.pow_succ', Nat.succ_eq_add_one, Nat.sub_add_cancel hn]
  rw [sgn, BitVec.toInt_eq_toNat_cond, BitVec.toNat_ofNat]
  by_cases h : x % 2 ^ n < 2 ^ (n - 1)
  · rw [if_pos h, if_pos (by omega)]
  · rw [if_neg h, if_neg (by omega)]
theorem sext64_eq (n x : Nat) (hn : 0 < n) : sext64 n x = (BitVec.ofNat n x).signExtend 64 := by
  rw [sext64, sgn_eq_toInt n x hn]; rfl
theorem w64_toNat {ea : Int} (h : 0 ≤ ea) : w64 ea.toNat = .ofInt 64 ea := by
  obtain ⟨n, rfl⟩ := Int.eq_ofNat_of_zero_le h
  rw [Int.toNat_natCast, BitVec.ofInt_natCast]; rfl

theorem w64_signExtend (v : Nat) : w64 v = (BitVec.ofNat (8 * 8) v).signExtend 64 :=
  by
  rw [BitVec.signExtend_eq (BitVec.ofNat (8 * 8) v)]
  rfl

/-- What R70 says of a load of n bytes with value f of them. -/
def Loads (s : State) (d a : BitVec 4) (w : Bool) (i : BitVec 15) (x : DWord) (j : Instr) (n : Nat) (f : Nat → DWord) : Prop :=
  let ea : Int := x.toInt + i.toInt * n
  ((s.g a).st ≠ .full → exec j s = s.blocked a w 4) ∧
  (s.full a x → (s.g d).st = .pending → exec j s = s.parks .destPending) ∧
  (s.full a x → s.takes d → s.clearOfAcq →
    ((ea < 0 ∨ s.spLd ea.toNat n = false) → exec j s = s.traps 5 0 (.ofInt 64 ea)) ∧
    (0 ≤ ea → s.spLd ea.toNat n = true →
      (ea % n ≠ 0 → exec j s = s.traps 6 0 (.ofInt 64 ea)) ∧
      (ea % n = 0 → s.spMarked ea.toNat n = true → exec j s = s.traps 7 0 (.ofInt 64 ea)) ∧
      (ea % n = 0 → s.spMarked ea.toNat n = false → exec j s = (s.setG d (f (s.spN ea.toNat n))).done)))

/-- A word that runs `loadG` loads so. -/
theorem loads_of_exec {s : State} {d a : BitVec 4} {w : Bool} {i : BitVec 15} {x : DWord} {j : Instr} {n : Nat} {f g : Nat → DWord}
    (h : exec j s = .next (loadG s d a w i n f)) (e : ∀ v, f v = g v) : Loads s d a w i x j n g := by
  obtain rfl : f = g := funext e
  unfold Loads
  rw [h]
  unfold loadG
  refine ⟨fun ha => ?_, fun ha hd => ?_, fun ha hd hq => ?_⟩
  · rw [needG_not_full _ _ _ ha, blocked_eq]
  · rw [needG_full _ _ _ ha, needD_pending _ hd]; rfl
  · rw [needG_full _ _ _ ha, needD_takes _ hd, gate_clear _ hq]
    refine ⟨fun out => ?_, fun low ok => ⟨fun odd => ?_, fun even mark => ?_, fun even clean => ?_⟩⟩
    · exact congrArg Host.Outcome.next (needLd_range _ out)
    · exact congrArg Host.Outcome.next (needLd_align _ low ok odd)
    · refine congrArg Host.Outcome.next ((needLd_ok _ low ok even).trans ?_)
      exact (if_pos mark).trans (congrArg (trap s 7 0) (w64_toNat low))
    · refine congrArg Host.Outcome.next ((needLd_ok _ low ok even).trans (if_neg ?_))
      simpa using clean

/-- R70: the scalar loads. -/
theorem scalarLoadsFollowPseudocode : Claims.ScalarLoadsFollowPseudocode := by
  intro s d a w i x p hp
  have loads : Loads s d a w i x p.1 p.2.1
      fun v => if p.2.2 then (BitVec.ofNat (8 * p.2.1) v).signExtend 64 else BitVec.ofNat 64 v := by
    simp only [List.mem_cons, List.not_mem_nil, or_false] at hp
    rcases hp with rfl | rfl | rfl | rfl | rfl | rfl | rfl
    · exact loads_of_exec rfl fun v => sext64_eq 8 v (by decide)
    · exact loads_of_exec rfl fun v => sext64_eq 16 v (by decide)
    · exact loads_of_exec rfl fun v => sext64_eq 32 v (by decide)
    · exact loads_of_exec rfl w64_signExtend
    · exact loads_of_exec rfl fun _ => rfl
    · exact loads_of_exec rfl fun _ => rfl
    · exact loads_of_exec rfl fun _ => rfl
  exact loads

/-! ## A token from sixteen words (R65, R70) -/

/-- The bytes of an aligned block lie in one share. -/
theorem spa_add {s : State} {a k n : Nat} (hd : n ∣ 0x7_8000) (ha : a % n = 0) (hk : k < n) : s.spa (a + k) = s.spa a + k := by
  obtain ⟨c, hc⟩ := hd
  obtain ⟨q, rfl⟩ := Nat.dvd_of_mod_eq_zero ha
  have same : 0x7_8000 ≤ n * q + k ↔ 0x7_8000 ≤ n * q := by
    rw [hc]
    constructor
    · intro h
      have : n * c < n * (q + 1) := by rw [Nat.mul_succ]; omega
      exact Nat.mul_le_mul_left n (Nat.le_of_lt_succ (Nat.lt_of_mul_lt_mul_left this))
    · exact fun h => Nat.le_add_right_of_le h
  unfold State.spa spAddr
  by_cases h : 0x7_8000 ≤ n * q
  · rw [if_pos h, if_pos (same.2 h)]
  · rw [if_neg h, if_neg (fun e => h (same.1 e)), Nat.add_assoc]
/-- The words of a token that was loaded. -/
theorem loadTok_lane {s : State} {a k : Nat} (ha : a % 64 = 0) (hk : k < 16) : (s.loadTok a).lane k = s.spN (a + 4 * k) 4 := by
  have p4 : (2 : Nat) ^ (32 * k) = 256 ^ (4 * k) := by rw [show 32 * k = 8 * (4 * k) by omega, Nat.pow_mul]
  rw [lane_eq, State.loadTok, ofNat_div_mod _ _ (by omega), p4]
  unfold State.spN State.sp
  rw [spa_add (by decide) ha (by omega)]
  exact leNat_memRead _ _ 64 (4 * k) 4 (by omega)

/-- R70: the token load. -/
theorem tokenLoadTakesSixteenWords : Claims.TokenLoadTakesSixteenWords := by
  intro s d a w i x ea ha hw hq low ok even
  refine ⟨s.loadTok ea.toNat, ?_, rfl, rfl, fun j hj => ⟨loadTok_lane (by omega) hj, ?_, ?_⟩⟩
  · refine congrArg Host.Outcome.next ((needG_full _ _ _ ha).trans ((needW_free _ hw).trans ((gate_clear _ hq).trans ?_)))
    exact needLd_ok _ low ok even
  · show (0xFFFF : BitVec 16).toNat.testBit j = true
    interval_cases j <;> decide
  · exact testBit_bits16 _ hj

/-- Settles O3: the ranges, and the loads through their checks. -/
theorem scratchpadLoadsReadTheirBytes : Obligations.ScratchpadLoadsReadTheirBytes :=
  ⟨scratchpadRangeIsTheShare, scalarLoadsFollowPseudocode, tokenLoadTakesSixteenWords⟩

/-! ## Marks (R65) -/

theorem setHas_setDel {l : List Nat} (h : Rising l) (a q : Nat) : setHas (setDel l a) q = (setHas l q && !decide (q = a)) := by
  induction l with
  | nil => rfl
  | cons c r ih =>
    obtain ⟨low, rise⟩ := List.pairwise_cons.1 h
    have gone : setHas r c = false := by
      rw [← Bool.not_eq_true, setHas_mem]
      exact fun e => Nat.lt_irrefl _ (low c e)
    unfold setDel
    by_cases e : a = c
    · subst e
      rw [if_pos rfl, setHas]
      by_cases e : q = a
      · subst e; simp [gone]
      · simp [e]
    · rw [if_neg e, setHas, setHas, ih rise]
      by_cases g : q = c
      · subst g; simp [Ne.symm e]
      · rw [beq_false_of_ne g, Bool.false_or, Bool.false_or]
/-- The mark that was put, and every other. -/
theorem setHas_setPut {l : List Nat} (h : Rising l) (a q : Nat) (on : Bool) :
    setHas (setPut l a on) q = if q = a then on else setHas l q := by
  cases on with
  | false =>
    refine (setHas_setDel h a q).trans ?_
    by_cases e : q = a
    · rw [decide_eq_true e, if_pos e]; exact Bool.and_false _
    · rw [decide_eq_false e, if_neg e]; exact Bool.and_true _
  | true =>
    show setHas (setIns l a) q = _
    by_cases e : q = a
    · rw [if_pos e, setHas_mem, mem_setIns]; exact .inl e
    · rw [if_neg e, Bool.eq_iff_iff, setHas_mem, setHas_mem, mem_setIns]
      exact or_iff_right e

/-! ## Stores (R65, R70) -/

/-- The issuer's tile with other bytes and marks in its scratchpad. -/
def withSpad (s : State) (m : Mem) (l : List Nat) : State := s.modTile s.ctx.tile fun z => { z with spad := m, marks := l }
theorem tile_withSpad (s : State) (m : Mem) (l : List Nat) :
    (withSpad s m l).tile s.ctx.tile = { s.tile s.ctx.tile with spad := m, marks := l } := by
  rw [withSpad, modTile_eq, tile_setTile, if_pos rfl]
theorem spa_withSpad (s : State) (m : Mem) (l : List Nat) (a : Nat) : (withSpad s m l).spa a = s.spa a := by
  unfold State.spa State.cur State.task
  rw [show (withSpad s m l).ctx = s.ctx from rfl, tile_withSpad]
theorem modTile_withSpad (s : State) (m : Mem) (l : List Nat) (f : Tile → Tile) :
    (withSpad s m l).modTile s.ctx.tile f = s.modTile s.ctx.tile fun z => f { z with spad := m, marks := l } := by
  unfold State.modTile
  rw [tile_withSpad]
  unfold withSpad State.modTile State.setTile
  simp only [alSet_alSet]
theorem spPut_withSpad (s : State) (m : Mem) (l : List Nat) (a : Nat) (d : List Byte) :
    (withSpad s m l).spPut a d = withSpad s (memWrite m (s.spa a) d) l := by
  rw [State.spPut, spa_withSpad]
  exact modTile_withSpad ..
theorem spSetMark_withSpad (s : State) (m : Mem) (l : List Nat) (a : Nat) (on : Bool) :
    (withSpad s m l).spSetMark a on = withSpad s m (setPut l (s.spa a / 4 * 4) on) := by
  rw [State.spSetMark, spa_withSpad]
  exact modTile_withSpad ..
/-- A store of bytes changes the bytes alone. -/
theorem spPut_eq (s : State) (a : Nat) (d : List Byte) :
    s.spPut a d = withSpad s (memWrite (s.tile s.ctx.tile).spad (s.spa a) d) (s.tile s.ctx.tile).marks := rfl

/-- A word's place is a word's place in scratchpad. -/
theorem spa_aligned (s : State) {a : Nat} (ha : a % 4 = 0) : s.spa a % 4 = 0 := by
  have share : ∀ fold : BitVec 2, shareBytes fold % 4 = 0 := by decide
  unfold State.spa spAddr
  split
  · exact ha
  · rw [Nat.add_mod, Nat.mul_mod, share, Nat.mul_zero, ha]

/-- R65: what a scalar store of n bytes leaves. -/
theorem spStore_marks {s : State} {a n : Nat} (v : Nat) (hn : n ∈ [1, 2, 4, 8]) (ha : a % n = 0) (hc : Tile.Canon (s.tile s.ctx.tile)) :
    ∃ l, s.spStore a n v = withSpad s (memWrite (s.tile s.ctx.tile).spad (s.spa a) (leBytes n v)) l ∧
      ∀ q, setHas l q = (setHas (s.tile s.ctx.tile).marks q &&
        !(decide (4 ≤ n ∧ s.spa a ≤ q ∧ q < s.spa a + n ∧ q % 4 = 0))) := by
  obtain ⟨-, rise⟩ := hc
  have even : 4 ∣ n → s.spa a % 4 = 0 := fun h =>
    spa_aligned s (Nat.mod_eq_zero_of_dvd (h.trans (Nat.dvd_of_mod_eq_zero ha)))
  simp only [List.mem_cons, List.not_mem_nil, or_false] at hn
  unfold State.spStore
  rw [spPut_eq]
  rcases hn with rfl | rfl | rfl | rfl
  · exact ⟨_, rfl, fun q => by simp⟩
  · exact ⟨_, rfl, fun q => by simp⟩
  · refine ⟨_, spSetMark_withSpad .., fun q => ?_⟩
    have e := even (by decide)
    rw [setHas_setPut rise]
    grind
  · have second : s.spa (a + 4) = s.spa a + 4 := spa_add (by decide) ha (by decide)
    refine ⟨_, (congrArg (fun u : State => u.spSetMark (a + 4) false) (spSetMark_withSpad ..)).trans (spSetMark_withSpad ..), fun q => ?_⟩
    have e := even (by decide)
    rw [setHas_setPut (setPut_rising rise _ _), setHas_setPut rise, second]
    grind

/-- A byte of the low n bytes of a doubleword. -/
theorem storedByte (y : DWord) {n k : Nat} (h : k < n) : BitVec.ofNat 8 (y.toNat % 256 ^ n / 256 ^ k) = (y >>> (8 * k)).setWidth 8 := by
  have cut := ofNat_div_mod (n := 8 * n) (w := 8) y.toNat k (by omega)
  apply BitVec.eq_of_toNat_eq
  rw [BitVec.toNat_ofNat, BitVec.toNat_setWidth, BitVec.toNat_ushiftRight, Nat.shiftRight_eq_div_pow, ← cut, BitVec.toNat_ofNat,
    Nat.pow_mul, Nat.pow_mul]

/-- R65, R70: the scalar stores. -/
theorem store_of_exec {s : State} {d a : BitVec 4} {w : Bool} {i : BitVec 15} {x y : DWord} {j : Instr} {n : Nat}
    (h : exec j s = .next (storeG s d a w i n)) (hn : n ∈ [1, 2, 4, 8]) (hc : Tile.Canon (s.tile s.ctx.tile)) (ha : s.full a x)
    (hd : s.full d y) (hq : s.clearOfAcq) (hr : s.clearOfRel) :
    let ea : Int := x.toInt + i.toInt * n
    let at_ := s.spa ea.toNat
    ((ea < 0 ∨ s.spLd ea.toNat n = false ∨ s.spSt ea.toNat n = false) → exec j s = s.traps 5 0 (.ofInt 64 ea)) ∧
    (0 ≤ ea → s.spLd ea.toNat n = true → s.spSt ea.toNat n = true → ea % n ≠ 0 → exec j s = s.traps 6 0 (.ofInt 64 ea)) ∧
    (0 ≤ ea → s.spLd ea.toNat n = true → s.spSt ea.toNat n = true → ea % n = 0 →
      ∃ m l, exec j s = (withSpad s m l).done ∧ memWf m = true ∧
        (∀ q, memGet m q = if at_ ≤ q ∧ q < at_ + n then (y >>> (8 * (q - at_))).setWidth 8 else s.spByte s.ctx.tile q) ∧
        ∀ q, setHas l q = (setHas (s.tile s.ctx.tile).marks q && !(decide (4 ≤ n ∧ at_ ≤ q ∧ q < at_ + n ∧ q % 4 = 0)))) := by
  intro ea at_
  have reach : storeG s d a w i n = needSt s ea n fun ea => advance (s.spStore ea n (y.toNat % 256 ^ n)) 1 := by
    unfold storeG
    rw [needG_full _ _ _ ha, needG_full _ _ _ hd, gateW_clear _ hq hr]
    rfl
  rw [h, reach]
  refine ⟨fun out => congrArg Host.Outcome.next (needSt_range _ out), fun low ld st odd => congrArg Host.Outcome.next (needSt_align _ low ld st odd),
    fun low ld st even => ?_⟩
  obtain ⟨l, eq, marks⟩ := spStore_marks (s := s) (a := ea.toNat) (y.toNat % 256 ^ n) hn (by rw [← Int.toNat_of_nonneg low] at even; exact_mod_cast even) hc
  refine ⟨memWrite (s.tile s.ctx.tile).spad at_ (leBytes n (y.toNat % 256 ^ n)), l, ?_, memWrite_wf hc.1 _ _, fun q => ?_, marks⟩
  · exact congrArg Host.Outcome.next ((needSt_ok _ low ld st even).trans (congrArg (advance · 1) eq))
  · rw [memGet_write hc.1, leBytes_length]
    by_cases inn : at_ ≤ q ∧ q < at_ + n
    · rw [if_pos inn, if_pos inn, leBytes_getD _ _ (by omega)]
      exact storedByte _ (by omega)
    · rw [if_neg inn, if_neg inn]; rfl
theorem scalarStoresWriteExactlyTheirBytes : Claims.ScalarStoresWriteExactlyTheirBytes := by
  intro s d a w i x y hc ha hd hq hr p hp
  simp only [List.mem_cons, List.not_mem_nil, or_false] at hp
  rcases hp with rfl | rfl | rfl | rfl
  · exact store_of_exec (n := 1) rfl (by decide) hc ha hd hq hr
  · exact store_of_exec (n := 2) rfl (by decide) hc ha hd hq hr
  · exact store_of_exec (n := 4) rfl (by decide) hc ha hd hq hr
  · exact store_of_exec (n := 8) rfl (by decide) hc ha hd hq hr

/-- R70: the byte at q once the lanes of a token from lane k on are stored at p; m is the memory before. -/
def storedLanes (x : Token) (p k : Nat) (m : Mem) (q : Nat) : Byte :=
  if p + 4 * k ≤ q ∧ q < p + 64 ∧ x.val ((q - p) / 4) = true then .ofNat 8 (x.lane ((q - p) / 4) / 256 ^ ((q - p) % 4)) else memGet m q
/-- The mark at q likewise. -/
def storedMarks (x : Token) (p k : Nat) (l : List Nat) (q : Nat) : Bool :=
  if p + 4 * k ≤ q ∧ q < p + 64 ∧ q % 4 = 0 ∧ x.val ((q - p) / 4) = true then x.pois ((q - p) / 4) else setHas l q

/-- A valid lane's bytes, and then those of the later lanes. -/
theorem storedLanes_valid {x : Token} {p k : Nat} {m : Mem} (wf : memWf m = true) (hk : k < 16) (v : x.val k = true) (q : Nat) :
    storedLanes x p (k + 1) (memWrite m (p + 4 * k) (leBytes 4 (x.lane k))) q = storedLanes x p k m q := by
  unfold storedLanes
  rw [memGet_write wf, leBytes_length]
  by_cases here : p + 4 * k ≤ q ∧ q < p + 4 * k + 4
  · have lane : (q - p) / 4 = k := by omega
    have byte : q - (p + 4 * k) = (q - p) % 4 := by omega
    rw [if_neg (by omega), if_pos here, if_pos ⟨here.1, by omega, by rwa [lane]⟩, lane, leBytes_getD _ _ (by omega), byte]
  · rw [if_neg here]
    exact if_congr (and_congr_left fun h => by omega) rfl rfl
theorem storedLanes_invalid {x : Token} {p k : Nat} (m : Mem) (v : x.val k ≠ true) (q : Nat) :
    storedLanes x p (k + 1) m q = storedLanes x p k m q := by
  refine if_congr ⟨fun ⟨low, high, ok⟩ => ⟨by omega, high, ok⟩, fun ⟨low, high, ok⟩ => ⟨?_, high, ok⟩⟩ rfl rfl
  by_contra h
  exact v (by rwa [show (q - p) / 4 = k by omega] at ok)
/-- A valid lane's mark, and then those of the later lanes. -/
theorem storedMarks_valid {x : Token} {p k : Nat} {l : List Nat} (rise : Rising l) (hp : p % 4 = 0) (hk : k < 16) (v : x.val k = true) (q : Nat) :
    storedMarks x p (k + 1) (setPut l ((p + 4 * k) / 4 * 4) (x.pois k)) q = storedMarks x p k l q := by
  unfold storedMarks
  rw [setHas_setPut rise, show (p + 4 * k) / 4 * 4 = p + 4 * k by omega]
  by_cases here : q = p + 4 * k
  · have lane : (q - p) / 4 = k := by omega
    rw [if_neg (by omega), if_pos here, if_pos ⟨by omega, by omega, by omega, by rwa [lane]⟩, lane]
  · rw [if_neg here]
    exact if_congr ⟨fun ⟨low, high, even, ok⟩ => ⟨by omega, high, even, ok⟩, fun ⟨low, high, even, ok⟩ => ⟨by omega, high, even, ok⟩⟩ rfl rfl
theorem storedMarks_invalid {x : Token} {p k : Nat} (l : List Nat) (v : x.val k ≠ true) (q : Nat) :
    storedMarks x p (k + 1) l q = storedMarks x p k l q := by
  refine if_congr ⟨fun ⟨low, high, even, ok⟩ => ⟨by omega, high, even, ok⟩, fun ⟨low, high, even, ok⟩ => ⟨?_, high, even, ok⟩⟩ rfl rfl
  by_contra h
  exact v (by rwa [show (q - p) / 4 = k by omega] at ok)

/-- R70: storing lanes k to 15 of a token at an aligned address, by induction from the last lane down. -/
theorem storeLanes_from (s : State) (x : Token) {ea : Nat} (ha : ea % 64 = 0) (n : Nat) :
    ∀ (k : Nat) (m : Mem) (l : List Nat), k + n = 16 → memWf m = true → Rising l →
      ∃ m' l', (withSpad s m l).storeLanes x ea (upFrom k n) = withSpad s m' l' ∧
        (∀ q, memGet m' q = storedLanes x (s.spa ea) k m q) ∧ ∀ q, setHas l' q = storedMarks x (s.spa ea) k l q := by
  have even : s.spa ea % 4 = 0 := spa_aligned s (by omega)
  induction n with
  | zero =>
    intro k m l hk _ _
    refine ⟨m, l, rfl, fun q => (if_neg ?_).symm, fun q => (if_neg ?_).symm⟩ <;> omega
  | succ n ih =>
    intro k m l hk wf rise
    have place : s.spa (ea + 4 * k) = s.spa ea + 4 * k := spa_add (by decide) ha (by omega)
    rw [upFrom, State.storeLanes]
    by_cases v : x.val k = true
    · rw [if_pos v, spPut_withSpad, spSetMark_withSpad, place]
      obtain ⟨m', l', eq, bytes, marks⟩ := ih (k + 1) _ _ (by omega) (memWrite_wf wf _ _) (setPut_rising rise _ _)
      exact ⟨m', l', eq, fun q => (bytes q).trans (storedLanes_valid wf (by omega) v q),
        fun q => (marks q).trans (storedMarks_valid rise even (by omega) v q)⟩
    · rw [if_neg v]
      obtain ⟨m', l', eq, bytes, marks⟩ := ih (k + 1) _ _ (by omega) wf rise
      exact ⟨m', l', eq, fun q => (bytes q).trans (storedLanes_invalid m v q), fun q => (marks q).trans (storedMarks_invalid l v q)⟩

/-- The issuer's tile with its own bytes and marks: the same state, but for the tile's being listed. -/
def relisted (s : State) : State := withSpad s (s.tile s.ctx.tile).spad (s.tile s.ctx.tile).marks
theorem advance_relisted (s : State) : advance (relisted s) 1 = advance s 1 := by
  have mod : ∀ f, (relisted s).modTile s.ctx.tile f = s.modTile s.ctx.tile f := modTile_withSpad s _ _
  have task : (relisted s).cur = s.cur := congrArg (fun x : Tile => vget x.tasks s.ctx.slot.toNat {}) (tile_withSpad ..)
  unfold advance
  rw [show (relisted s).ctx = s.ctx from rfl]
  cases s.ctx.unit with
  | task =>
    show (relisted s).setTask s.ctx.tile s.ctx.slot { (relisted s).cur with st := .ready, pc := (relisted s).cur.pc + 1, mark := none } = _
    rw [task]
    exact mod _
  | minl => exact congrArg (fun u : State => u.modCur _) (mod _)
  | mrun => exact mod _
  | srun => exact mod _
/-- A store of lanes in it is one in the state, unless no lane is valid. -/
theorem storeLanes_relisted (s : State) (x : Token) (ea : Nat) (l : List Nat) :
    (relisted s).storeLanes x ea l = s.storeLanes x ea l ∨ ((relisted s).storeLanes x ea l = relisted s ∧ s.storeLanes x ea l = s) := by
  induction l with
  | nil => exact .inr ⟨rfl, rfl⟩
  | cons k r ih =>
    unfold State.storeLanes
    by_cases v : x.val k = true
    · rw [if_pos v, if_pos v]
      exact .inl (congrArg (fun u : State => (u.spSetMark (ea + 4 * k) (x.pois k)).storeLanes x ea r) (spPut_withSpad ..))
    · rw [if_neg v, if_neg v]
      exact ih
theorem advance_storeLanes (s : State) (x : Token) (ea : Nat) (l : List Nat) :
    advance ((relisted s).storeLanes x ea l) 1 = advance (s.storeLanes x ea l) 1 := by
  obtain same | ⟨left, right⟩ := storeLanes_relisted s x ea l
  · rw [same]
  · rw [left, right, advance_relisted]

/-- R70: the token store. -/
theorem tokenStoreIsMasked : Claims.TokenStoreIsMasked := by
  intro s d a w i x ea at_ hc ha hw hq hr low ld st even
  obtain ⟨m, l, eq, bytes, marks⟩ := storeLanes_from s (s.w d) (ea := ea.toNat) (by omega) 16 0 _ _ rfl hc.1 hc.2
  refine ⟨m, l, ?_, fun q => ?_, fun q => ?_⟩
  · refine congrArg Host.Outcome.next ((needG_full _ _ _ ha).trans ((needW_free _ hw).trans ((gateW_clear _ hq hr).trans ?_)))
    exact (needSt_ok _ low ld st even).trans ((advance_storeLanes ..).symm.trans (congrArg (advance · 1) eq))
  · exact bytes q
  · exact marks q

/-- Settles O4: a store's bytes and marks, and no others. -/
theorem scratchpadStoresWriteTheirBytes : Obligations.ScratchpadStoresWriteTheirBytes :=
  ⟨scalarStoresWriteExactlyTheirBytes, tokenStoreIsMasked⟩

end Sys2Proof.Proofs.Scratchpad
end

section
/-! PROOFS. Reset, the step, a fetch, and what stands still behind the Shutter (R35, R55, R281, R312 to R316, R364, R368, R381). -/
namespace Sys2Proof.Proofs.Steps
open Sys2Proof Sys2Proof.Machine Sys2Proof.Proofs.Bits
set_option Elab.async false

/-! ## Words written out -/

/-- Settles O53: the decoder evaluated on each word. -/
theorem wordsDecodeAsTheTablesSay : Obligations.WordsDecodeAsTheTablesSay :=
  ⟨rfl, rfl, rfl, rfl, rfl, rfl, rfl, rfl⟩

/-! ## Reset -/

theorem task_reset (t : Nat) (k : SlotId) : (State.reset.task t k).st = .absent := by
  revert k
  show ∀ k : SlotId, (vget ({} : Tile).tasks k.toNat {}).st = .absent
  decide
theorem port_reset (q : Nat) : (State.reset.port q).st = .down := by
  show (vget (Vector.replicate 18 ({} : WPort)) q {}).st = .down
  unfold vget
  rw [Vector.toList_replicate, List.getD_eq_getElem?_getD, List.getElem?_replicate]
  split <;> rfl
theorem part_reset (p : PartId) : (State.reset.part p).live = false ∧ (State.reset.part p).fq = [] ∧ (State.reset.part p).fqprod = 0 :=
  ⟨rfl, rfl, rfl⟩
theorem hbm_reset (a : Nat) : memGet State.reset.hbm a = 0 ∧ State.reset.hbmPois a = false := by
  refine ⟨rfl, ?_⟩
  show (0 : BitVec 4).toNat.testBit (a / 64 % 4) = false
  exact Nat.zero_testBit _

/-- Settles O56: the fields of the reset state. -/
theorem resetLeavesAnEmptyDevice : Obligations.ResetLeavesAnEmptyDevice :=
  ⟨task_reset, rfl, part_reset, hbm_reset, rfl, rfl, port_reset, rfl, reset_memory_wf.1, reset_memory_wf.2,
    fun x hx => absurd hx (List.not_mem_nil)⟩

/-! ## The step (R35, R312, R314, R316) -/

/-- A step with a word in hand. -/
theorem step_live {s : State} (hr : s.runs) (hl : s.live = true) : step s = issueWord s := by
  obtain ⟨on, up⟩ := hr
  unfold step stepNext
  rw [on, up, hl]
  rfl
/-- A step of a running device with no word in hand takes the next turn. -/
theorem step_turn {s : State} {t : Turn} {r : List Turn} (hr : s.runs) (hl : s.live = false) (ha : s.agenda = t :: r) :
    step s = act { s with cycle := s.cycle + t.dt, agenda := r } t.act := by
  obtain ⟨on, up⟩ := hr
  have ok : t.act.allowed s = true := by
    unfold Act.allowed
    split <;> simp [on, up]
  unfold step stepNext
  rw [on, up, hl, ha]
  exact if_pos ok
/-- A device that does not run takes no word and only what is allowed of the agenda. -/
theorem step_stopped {s t : State} (hs : (s.powered && !s.shut) = false) (h : step s = .next t) :
    ∃ x r, s.agenda = x :: r ∧ (if x.act.allowed s then act { s with cycle := s.cycle + x.dt, agenda := r } x.act
      else .next { s with cycle := s.cycle + x.dt, agenda := r }) = .next t := by
  unfold step stepNext at h
  rw [hs, Bool.false_and, if_neg (by decide)] at h
  split at h
  case h_1 x r e => exact ⟨x, r, e, h⟩
  case h_2 =>
    by_cases on : s.powered = true
    · rw [on, Bool.true_and, Bool.not_eq_false'] at hs
      simp [on, hs] at h
    · simp [on] at h

/-! ## What stands still (R368, R369, R381) -/

/-- What a device that has no power, or stands behind the Shutter, still takes part in. -/
theorem allowed_stopped {s : State} {a : Act} (hs : (s.powered && !s.shut) = false) (h : a.allowed s = true) :
    (∃ i, a = .event (.deviceReset i)) ∨ (s.powered = true ∧ ∃ ra acc, a = .event (.shutterReadout ra acc)) := by
  unfold Act.allowed at h
  split at h
  · exact .inl ⟨_, rfl⟩
  · exact .inr ⟨h, _, _, rfl⟩
  · rw [hs] at h; exact absurd h (by decide)
/-- A readout changes the readout, and the free values where the address names none. -/
theorem readout_frame {s t : State} {ra : BitVec 48} {acc : ReadoutAgent} (h : execShutterReadout ra acc s = .next t) :
    t = { s with freeCtr := t.freeCtr, readout := t.readout } := by
  unfold execShutterReadout at h
  split at h
  · injection h with h; subst h; rfl
  · split at h
    all_goals injection h with h; subst h; rfl

/-- Settles O58: a turn that is allowed is a reset or a readout. -/
theorem frozenStateStaysAsItIs : Obligations.FrozenStateStaysAsItIs := by
  intro s t h noReset
  constructor
  · intro up on
    have stopped : (s.powered && !s.shut) = false := by rw [on, up]; rfl
    obtain ⟨⟨dt, a⟩, r, ha, h⟩ := step_stopped stopped h
    split at h
    next ok =>
      obtain ⟨i, rfl⟩ | ⟨-, ra, acc, rfl⟩ := allowed_stopped stopped ok
      · exact absurd ha (noReset _ _ _)
      · have := readout_frame (acc := acc) h
        rw [this]
    next => injection h with h; subst h; rfl
  · intro off
    have stopped : (s.powered && !s.shut) = false := by rw [off]; rfl
    obtain ⟨⟨dt, a⟩, r, ha, h⟩ := step_stopped stopped h
    split at h
    next ok =>
      obtain ⟨i, rfl⟩ | ⟨on, -⟩ := allowed_stopped stopped ok
      · exact absurd ha (noReset _ _ _)
      · rw [off] at on; exact absurd on (by decide)
    next => injection h with h; subst h; rfl

/-! ## A fetch (R35, R55, R364) -/

theorem issueWord_pending {s : State} {p : PTrap} {l : List PTrap} (h : s.cur.ptraps = p :: l) :
    issueWord s = .next (takePending { s with live := false } p l) := by
  have e : ({ s with live := false } : State).cur.ptraps = p :: l := h
  unfold issueWord
  simp only [e]
theorem issueWord_fetch {s : State} (h : s.cur.ptraps = []) :
    issueWord s = match ({ s with live := false } : State).fetchAt s.cur.pc with
      | .bad c f v => .next (trap { s with live := false } c f v)
      | .instr i => runWord { s with live := false } i := by
  have e : ({ s with live := false } : State).cur.ptraps = [] := h
  unfold issueWord
  simp only [e]
  rfl
/-- A fetch that gives no instruction traps. -/
theorem issueWord_bad {s : State} {c f : Nat} {v : DWord} (h : s.cur.ptraps = []) (hf : ({ s with live := false } : State).fetchAt s.cur.pc = .bad c f v) :
    issueWord s = ({ s with live := false } : State).traps c f v := by
  rw [issueWord_fetch h, hf]; rfl

section
variable {s : State} {pc : Nat}
theorem fetchAt_past (h : s.limit ≤ pc) : s.fetchAt pc = .bad 3 0 (w64 s.limit) := if_pos h
theorem fetchAt_poisoned (h : pc < s.limit) (hb : s.wordsBad pc 1 = true) : s.fetchAt pc = .bad 30 0 (w64 pc) :=
  (if_neg (Nat.not_le.2 h)).trans (if_pos hb)
theorem fetchAt_word (h : pc < s.limit) (hb : s.wordsBad pc 1 = false) (hm : major (s.word pc) ≠ 0x1F) :
    s.fetchAt pc = match decode [(s.word pc).toNat] with
      | .ok i => .instr i
      | .error e => .bad 1 e.field (w64 (s.word pc).toNat) :=
  (if_neg (Nat.not_le.2 h)).trans ((if_neg (by rw [hb]; decide)).trans (if_neg hm))
theorem fetchAt_command (h : pc < s.limit) (hb : s.wordsBad pc 1 = false) (hm : major (s.word pc) = 0x1F) :
    s.fetchAt pc = if s.limit ≤ pc + 3 then .bad 1 18 (w64 (s.word pc).toNat)
      else match (upFrom pc 4).find? (s.wordBad s.ctx.tile s.ctx.slot s.cur.phase) with
        | some i => .bad 30 0 (w64 i)
        | none => match decode ((upFrom pc 4).map fun i => (s.word i).toNat) with
          | .ok i => .instr i
          | .error e => .bad 1 e.field (w64 (((upFrom pc 4).map fun i => (s.word i).toNat).getD e.word 0)) :=
  (if_neg (Nat.not_le.2 h)).trans ((if_neg (by rw [hb]; decide)).trans (if_pos hm))
/-- A fetch at the issuer's next instruction gives it. -/
theorem fetchAt_next {i : Instr} (h : s.nextIs i) : s.fetchAt s.cur.pc = .instr i := by
  unfold State.nextIs at h
  by_cases hm : major (s.word s.cur.pc) = 0x1F
  · simp only [hm, if_true] at h
    obtain ⟨low, good, dec⟩ := h
    have one : s.wordsBad s.cur.pc 1 = false := by
      simp only [State.wordsBad, upFrom, List.any_cons, List.any_nil, Bool.or_eq_false_iff] at good ⊢
      exact ⟨good.1, trivial⟩
    have none : (upFrom s.cur.pc 4).find? (s.wordBad s.ctx.tile s.ctx.slot s.cur.phase) = none := by
      rw [List.find?_eq_none]
      simpa [State.wordsBad] using good
    have words : (upFrom s.cur.pc 4).map (fun i => (s.word i).toNat) = (List.range 4).map fun k => (s.word (s.cur.pc + k)).toNat := rfl
    rw [fetchAt_command (by omega) one hm, if_neg (by omega), none, words]
    simp only [dec]
  · simp only [hm, if_false] at h
    obtain ⟨low, good, dec⟩ := h
    rw [fetchAt_word (by omega) good hm]
    have words : [(s.word s.cur.pc).toNat] = (List.range 1).map fun k => (s.word (s.cur.pc + k)).toNat := rfl
    simp only [words, dec]
end

/-- R35, R312, R314, R316: a step with a word in hand, and one without. -/
theorem stepRunsTheDecodedInstruction : Claims.StepRunsTheDecodedInstruction := by
  intro s i hr
  refine ⟨fun hl hp hn u hu => ?_, fun dt r hl ha => step_turn hr hl ha⟩
  have run : step s = .next (afterWord { s with live := false } u) := by
    have fetched : ({ s with live := false } : State).fetchAt s.cur.pc = .instr i := fetchAt_next (s := { s with live := false }) hn
    rw [step_live hr hl, issueWord_fetch hp, fetched]
    exact congrArg (thenDo · (afterWord { s with live := false })) hu
  rw [run]
  refine ⟨fun ⟨r, hm, hst⟩ => ?_, fun hst => ?_⟩
  · have not : issued u.cur.st = false := by
      rw [hst]
      exact beq_false_of_ne hm
    unfold afterWord
    rw [not]
    rfl
  · have yes : issued u.cur.st = true := by
      unfold issued
      split
      · exact beq_iff_eq.2 (hst _ ‹_›)
      · rfl
    unfold afterWord
    rw [yes]
    rfl

/-- R35, R55, R160, R364: the traps of a fetch. -/
theorem fetchTrapsNameTheirCause : Claims.FetchTrapsNameTheirCause := by
  intro s hr hl u pc
  rw [step_live hr hl]
  refine ⟨fun p l h => issueWord_pending h, fun hp => ⟨fun h => ?_, fun h hb => ?_, fun h hb hm e he => ?_, fun h hb hm hs => ?_, fun h hb hm i hi => ?_⟩⟩
  · exact issueWord_bad hp (fetchAt_past (s := u) h)
  · exact issueWord_bad hp (fetchAt_poisoned (s := u) h hb)
  · refine issueWord_bad hp ((fetchAt_word (s := u) h hb hm).trans ?_)
    rw [show decode [(u.word pc).toNat] = .error e from he]
    rfl
  · exact issueWord_bad hp ((fetchAt_command (s := u) h hb hm).trans (if_pos (Nat.le_of_lt_succ hs)))
  · refine issueWord_bad hp ((fetchAt_command (s := u) (by show pc < s.limit; omega) hb hm).trans ((if_neg ?_).trans ?_))
    · show ¬ s.limit ≤ pc + 3; omega
    · rw [show (upFrom pc 4).find? (u.wordBad u.ctx.tile u.ctx.slot u.cur.phase) = some i from hi]
      rfl

/-- Settles O52: the step with a word in hand, and the traps of its fetch. -/
theorem stepsFetchDecodeAndRun : Obligations.StepsFetchDecodeAndRun :=
  ⟨stepRunsTheDecodedInstruction, fetchTrapsNameTheirCause⟩

end Sys2Proof.Proofs.Steps
end

section
/-! PROOFS. Issue slots, parked tasks and fences (R86, R253, R312 to R314). -/
namespace Sys2Proof.Proofs.Issue
open Sys2Proof Sys2Proof.Machine
set_option Elab.async false

/-! ## Fences -/

theorem fencesAwaitEarlierOperations : Claims.FencesAwaitEarlierOperations := by
  intro s k
  have fenceSays : (s.opsOut (k == .acq) = true → Host.Outcome.next (fence s k) = s.parks .fence) ∧
      (s.opsOut (k == .acq) = false → (Host.Outcome.next (fence s k) : Out) = s.done) :=
    ⟨fun h => congrArg Host.Outcome.next (if_pos h), fun h => congrArg Host.Outcome.next (if_neg (by rw [h]; decide))⟩
  simp only [List.forall_mem_cons]
  exact ⟨fenceSays, fenceSays, fenceSays, fenceSays, List.forall_mem_nil _⟩

/-! ## The issue slot (R314) -/

/-- The lowest number from a on that has a property. -/
theorem find?_upFrom {p : Nat → Bool} {a m n : Nat} (low : a ≤ n) (high : n < a + m) (hn : p n = true) (least : ∀ i, a ≤ i → i < n → p i = false) :
    (upFrom a m).find? p = some n := by
  induction m generalizing a with
  | zero => omega
  | succ m ih =>
    rw [upFrom, List.find?_cons]
    by_cases e : a = n
    · rw [e, hn]
    · rw [least a (Nat.le_refl a) (by omega)]
      exact ih (by omega) (by omega) fun i h => least i (by omega)
/-- A task of a class that can issue. -/
def can (s : State) (t : Nat) (high : Bool) (k : SlotId) : Prop := (s.task t k).high = high ∧ s.canIssue t k = true
theorem can_iff (s : State) (t : Nat) (high : Bool) (k : SlotId) : ((s.task t k).high == high && s.canIssue t k) = true ↔ can s t high k := by
  rw [Bool.and_eq_true, beq_iff_eq]; rfl
theorem after_eq (last : SlotId) (n : Nat) : (.ofNat 4 (last.toNat + n) : SlotId) = last + .ofNat 4 n := by
  rw [BitVec.ofNat_add, BitVec.ofNat_toNat, BitVec.setWidth_eq]
/-- The round robin finds the next task of its class. -/
theorem roundRobin_some {s : State} {t n : Nat} {high : Bool} {last : SlotId} (low : 1 ≤ n) (up : n ≤ 16) (hk : can s t high (last + .ofNat 4 n))
    (least : ∀ i, 1 ≤ i → i < n → ¬ can s t high (last + .ofNat 4 i)) : s.roundRobin t high last = some (last + .ofNat 4 n) := by
  unfold State.roundRobin
  rw [List.find?_map, find?_upFrom (n := n) low (by omega)]
  · rw [Option.map_some, after_eq]
  · rw [Function.comp_apply, after_eq]; exact (can_iff ..).2 hk
  · intro i hi hn
    rw [Function.comp_apply, after_eq, ← Bool.not_eq_true, can_iff]
    exact least i hi hn
theorem roundRobin_none {s : State} {t : Nat} {high : Bool} (last : SlotId) (h : ∀ k, ¬ can s t high k) : s.roundRobin t high last = none := by
  unfold State.roundRobin
  rw [List.find?_eq_none]
  exact fun k _ => mt (can_iff ..).1 (h k)
theorem issueSlot_chosen {s : State} {t : Nat} {k : SlotId} (h : s.chosen t = some k) :
    exec (.issueSlot t) s = .next { s.modTask t k (fun y => { y with st := .running }) with ctx := { tile := t, slot := k, unit := .task }, live := true } := by
  show execIssueSlot t s = _
  unfold execIssueSlot
  rw [h]

theorem issueSlotsRotateByClass : Claims.IssueSlotsRotateByClass := by
  intro s t
  refine ⟨fun turn => issueSlot_chosen (if_pos turn), fun out => ?_⟩
  have rest : s.chosen t = match s.roundRobin t true (s.tile t).lastHi with
      | some k => some k
      | none => s.roundRobin t false (s.tile t).lastNo := if_neg (by rw [out]; decide)
  refine ⟨?_, fun none => ?_, fun none => ?_⟩
  · rintro k ⟨n, low, up, rfl, hk, least⟩
    exact issueSlot_chosen (by rw [rest, roundRobin_some low up hk least])
  · rintro k ⟨n, low, up, rfl, hk, least⟩
    exact issueSlot_chosen (by rw [rest, roundRobin_none _ none, roundRobin_some low up hk least])
  · have no : ∀ high k, ¬ can s t high k := fun high k ⟨_, h⟩ => by rw [none] at h; exact absurd h (by decide)
    have e : s.chosen t = .none := by rw [rest, roundRobin_none _ (no true), roundRobin_none _ (no false)]
    show execIssueSlot t s = _
    unfold execIssueSlot
    rw [e]

/-! ## Parked tasks (R312, R313) -/

/-- A word is tried by its own meaning. -/
theorem wordMeaning_eq_exec (i : Instr) (s : State) (h : i.isWord = true) : wordMeaning i s = exec i s := by
  cases i <;> first | exact absurd h Bool.false_ne_true | rfl

/-- The state in which a task's word is tried again. -/
def trying (s : State) (t : Nat) (k : SlotId) : State := { s with ctx := { tile := t, slot := k, unit := .task } }
/-- A word tried again clears its reason unless it parks for it. -/
theorem parkOver_word {s u : State} {t : Nat} {k : SlotId} {r : Park} {i : Instr} (hm : r ≠ .matrix) (hp : (trying s t k).cur.ptraps = [])
    (hf : (trying s t k).fetchAt (trying s t k).cur.pc = .instr i) (hw : i.isWord = true) (hu : exec i (trying s t k) = .next u) :
    s.parkOver t k r = ((u.task t k).st != .parked r) := by
  have ran : wordMeaning i (trying s t k) = .next u := (wordMeaning_eq_exec i _ hw).trans hu
  unfold State.parkOver
  rw [if_neg hm]
  unfold trying at hp hf ran
  simp only [hp, hf, ran]
  rfl

theorem parkedTasksAreReadied : Claims.ParkedTasksAreReadied := by
  intro s t k ready s1
  have runs : s.taskRuns t k = true → exec (.parkClear t k) s = .next (match (s.task t k).st with
      | .parked r => if s.parkOver t k r then ready else s
      | .idle => if s.triggered t k then ready else s
      | _ => s) := fun h => congrArg Host.Outcome.next (if_neg (by rw [h]; decide))
  refine ⟨fun hr => ⟨fun r hst hm => ⟨fun hp => ?_, fun i u hp hf hw hu => ?_⟩, fun hst => ?_, fun hst => ?_⟩, fun h => ?_⟩
  · have clears : s.parkOver t k r = true := by
      have stands : (!s1.cur.ptraps.isEmpty) = true := by
        rw [Bool.not_eq_true', List.isEmpty_eq_false_iff]; exact hp
      exact (if_neg hm).trans (if_pos stands)
    rw [runs hr, hst]
    exact congrArg Host.Outcome.next (if_pos clears)
  · have clears : s.parkOver t k r = ((u.task t k).st != .parked r) := parkOver_word hm hp hf hw hu
    rw [runs hr, hst]
    show Host.Outcome.next (if s.parkOver t k r then ready else s) = _
    rw [clears]
    by_cases same : (u.task t k).st = .parked r
    · simp [same]
    · simp [same]
  · rw [runs hr, hst]
    rfl
  · rw [runs hr, hst]
    unfold State.triggered
    cases (vget (s.lt t (s.task t k).phase).inP (s.task t k).trigP.toNat {}).fifo with
    | nil => rfl
    | cons x r => rfl
  · exact congrArg Host.Outcome.next (if_pos (by rw [h]; rfl))

/-- Settles O35: fences, the issue slot's choice, and the park reasons tried again. -/
theorem issueSlotsAndParkedTasks : Obligations.IssueSlotsAndParkedTasks :=
  ⟨fencesAwaitEarlierOperations, issueSlotsRotateByClass, parkedTasksAreReadied⟩

end Sys2Proof.Proofs.Issue
end

section
/-! PROOFS. Ports, runs and launches of tasks, and the spill stack (R73 to R80). -/
namespace Sys2Proof.Proofs.Tasks
open Sys2Proof Sys2Proof.Machine
open Sys2Proof.Proofs.Bits
set_option Elab.async false

/-! ## getw (R75) -/

theorem pop_ctx (s : State) (p : BitVec 3) : (s.pop p).ctx = s.ctx := by
  unfold State.pop State.popOf
  split <;> rfl
theorem w64_portCode (p : BitVec 3) : w64 (portCode p) = w64 (8 + p.toNat) := congrArg w64 (Nat.add_comm _ _)
/-- The value that a getw of a head delivers, and whether a lane of it is poisoned. -/
theorem getwVal_eq (x : Token) (l : BitVec 4) (wide : Bool) :
    getwVal x l wide = ((if wide then .ofNat 64 (x.lane l.toNat + 2 ^ 32 * x.lane (l.toNat + 1)) else .ofNat 64 (x.lane l.toNat)),
      x.pois l.toNat || (wide && x.pois (l.toNat + 1))) := by
  cases wide with
  | false => simp [getwVal, w64]
  | true => rfl
theorem getwGive_clean {s : State} {t : Nat} {k : SlotId} {p : BitVec 3} {q : Getw} {x : Token} {v : DWord}
    (h : getwVal x q.lane q.wide = (v, false)) : s.getwGive t k p q x = s.deliver t k q.d v := by
  unfold State.getwGive
  rw [h]; rfl
theorem getwGive_bad {s : State} {t : Nat} {k : SlotId} {p : BitVec 3} {q : Getw} {x : Token} {v : DWord}
    (h : getwVal x q.lane q.wide = (v, true)) :
    s.getwGive t k p q x = (s.deliver t k q.d 0).modTask t k fun y => { y with ptraps := y.ptraps ++ [⟨9, some q.pc, w64 (portCode p)⟩] } := by
  unfold State.getwGive
  rw [h]; rfl
/-- A delivery to the issuer is a write of its register. -/
theorem deliver_pop (s : State) (p : BitVec 3) (d : BitVec 4) (v : DWord) : (s.pop p).deliver s.ctx.tile s.ctx.slot d v = (s.pop p).setG d v := by
  unfold State.deliver State.setG State.modCur
  rw [pop_ctx]

theorem getwDelivers : Claims.GetwDelivers := by
  intro s d p wide l hd hq
  have checked : ∀ k, needD s d (gate s k) = k := fun k => (needD_takes _ hd).trans (gate_clear _ hq)
  refine ⟨fun hb => ?_, fun hb => ⟨fun t ht => ?_, fun hn => ?_⟩⟩
  · refine congrArg Host.Outcome.next ((checked _).trans ((if_pos hb).trans ?_))
    rw [w64_portCode]
  · have taken : exec (.getw d p wide l) s =
        ((s.pop p).getwGive s.ctx.tile s.ctx.slot p ⟨s.ctx.slot, d, l, wide, s.cur.pc, s.newId⟩ t).done := by
      refine congrArg Host.Outcome.next ((checked _).trans ((if_neg (by rw [hb]; decide)).trans ?_))
      simp only [ht]
    have val := getwVal_eq t l wide
    intro v bad
    refine ⟨fun clean => ?_, fun poisoned => ?_⟩
    · rw [taken, getwGive_clean (v := v) (val.trans (congrArg (Prod.mk v) clean)), deliver_pop]
    · rw [taken, getwGive_bad (v := v) (val.trans (congrArg (Prod.mk v) poisoned)), deliver_pop, w64_portCode]
      unfold State.modCur
      rw [show ((s.pop p).setG d 0).ctx = s.ctx from pop_ctx s p]
  · refine congrArg Host.Outcome.next ((checked _).trans ((if_neg (by rw [hb]; decide)).trans ?_))
    simp only [hn]

/-! ## putw and putc (R76) -/

/-- The lanes of a token that holds a doubleword. -/
theorem lane_putTok (x : DWord) (t : BitVec 6) (k : TokKind) (j : Nat) : (putTok x t k).lane j = x.toNat / 2 ^ (32 * j) % 2 ^ 32 := by
  rw [lane_eq, putTok, BitVec.toNat_setWidth_of_le (by decide)]
theorem needPorts_busy {s : State} {p : BitVec 3} (k : State) (h : s.bound true p = true) :
    needPorts s [] [p] k = trap s 16 0 (w64 (portCode p)) := by
  simp [needPorts, h]
theorem needPorts_full {s : State} {p : BitVec 3} (k : State) (h : s.bound true p = false) (hs : s.space p = false) :
    needPorts s [] [p] k = park s .port := by
  simp [needPorts, h, hs]
theorem needPorts_room {s : State} {p : BitVec 3} (k : State) (h : s.bound true p = false) (hs : s.space p = true) :
    needPorts s [] [p] k = k := by
  simp [needPorts, h, hs]

theorem putPushesOneToken : Claims.PutPushesOneToken := by
  intro s p a w t x ha hq hr
  have puts : ∀ (i : Instr) (kind : TokKind), exec i s = .next (putWord s p a w t kind) →
      (s.bound true p = true → exec i s = s.traps 16 0 (w64 (8 + p.toNat))) ∧
      (s.bound true p = false → s.space p = false → exec i s = s.parks .port) ∧
      (s.bound true p = false → s.space p = true → ∃ k : Token, exec i s = (s.push p k).done ∧
        k.lane 0 = x.toNat % 2 ^ 32 ∧ k.lane 1 = x.toNat / 2 ^ 32 ∧ (∀ j, 2 ≤ j → j < 16 → k.lane j = 0) ∧
        k.valid = 0xFFFF ∧ k.poison = 0 ∧ k.tag = t ∧ k.kind = kind) := by
    intro i kind h
    have checked : putWord s p a w t kind = needPorts s [] [p] (advance (s.push p (putTok x t kind)) 1) :=
      (needG_full _ _ _ ha).trans (gateW_clear _ hq hr)
    rw [h, checked]
    refine ⟨fun hb => ?_, fun hb hs => ?_, fun hb hs => ⟨putTok x t kind, ?_, ?_, ?_, fun j low _ => ?_, rfl, rfl, rfl, rfl⟩⟩
    · rw [needPorts_busy _ hb, w64_portCode]; rfl
    · rw [needPorts_full _ hb hs]; rfl
    · rw [needPorts_room _ hb hs]; rfl
    · rw [lane_putTok, Nat.mul_zero, Nat.pow_zero, Nat.div_one]
    · rw [lane_putTok]; have := x.isLt; omega
    · rw [lane_putTok, Nat.div_eq_of_lt, Nat.zero_mod]
      exact Nat.lt_of_lt_of_le x.isLt (Nat.pow_le_pow_right (by decide) (by omega))
  simp only [List.forall_mem_cons]
  exact ⟨puts _ _ rfl, puts _ _ rfl, List.forall_mem_nil _⟩

/-! ## A getw that waits (R75, R303) -/

theorem waitingGetwTakesTheHead : Claims.WaitingGetwTakesTheHead := by
  intro s t ph p i
  refine ⟨fun q l x r hg hf => ?_, fun none q l x r => ?_⟩
  · have meets : exec (.getwDeliver t ph p) s = .next (if !s.regionRuns (s.lt t ph).key then s
        else ((s.modIn t ph p fun i => { i with getws := l, fifo := r }).getwGive t q.slot p q x).progressAt t ph) := by
      refine congrArg Host.Outcome.next ?_
      simp only [show (vget (s.lt t ph).inP p.toNat {}).getws = q :: l from hg, show (vget (s.lt t ph).inP p.toNat {}).fifo = x :: r from hf]
    exact ⟨fun h => by rw [meets, h]; rfl, fun h => by rw [meets, h]; rfl⟩
  · have rest : exec (.getwDeliver t ph p) s = .next (
        match if p = 6 then (s.tile t).rcGetw6 else if p = 7 then (s.tile t).rcGetw7 else [], if p = 6 then (s.tile t).rc6 else (s.tile t).rc7 with
        | q :: l, .tok x :: r =>
          (s.modTile t fun y => if p = 6 then { y with rcGetw6 := l, rc6 := r } else { y with rcGetw7 := l, rc7 := r }).getwGive t 15 p q x
        | _, _ => s) := by
      show execGetwDeliver t ph p s = _
      unfold execGetwDeliver
      obtain none | none := none
      · simp only [show (vget (s.lt t ph).inP p.toNat {}).getws = [] from none] <;> rfl
      · simp only [show (vget (s.lt t ph).inP p.toNat {}).fifo = [] from none]
        cases (vget (s.lt t ph).inP p.toNat {}).getws <;> rfl
    refine ⟨?_, ?_⟩
    · rintro rfl hg hf
      rw [rest]
      simp [hg, hf]
    · rintro rfl hg hf
      rw [rest]
      simp [hg, hf]

/-- Settles O7: a head that stands, a token that is pushed, and a head that comes later. -/
theorem portWordsMoveTokens : Obligations.PortWordsMoveTokens :=
  ⟨getwDelivers, putPushesOneToken, waitingGetwTakesTheHead⟩

/-! ## fork (R78) -/

theorem forkQueuesARun : Claims.ForkQueuesARun := by
  intro s a w c x ha hq t y
  have checked : ∀ k : DWord → State, needG s a w 4 (fun x => gate s (k x)) = k x := fun k =>
    (needG_full _ _ _ ha).trans (gate_clear _ hq)
  have matrix : exec (.fork .matrix a w c) s = .next (if s.limit < x.toNat + c.toNat * 1 then trap s 4 0 x
      else if 4 ≤ (y.mq.filter (·.run)).length then park s .queue
      else advance (s.setTile t { y with seq := y.seq + 1, mq := y.mq ++
        [{ slot := s.ctx.slot, seq := y.seq, run := true, pc := x.toNat, count := c.toNat, pos := 0, instr := none }] }) 1) :=
    congrArg Host.Outcome.next (checked _)
  have stream : exec (.fork .stream a w c) s = .next (if s.limit < x.toNat + c.toNat * 4 then trap s 4 0 x
      else if 4 ≤ y.sq.length then park s .queue
      else advance (s.setTile t { y with seq := y.seq + 1, sq := y.sq ++
        [{ slot := s.ctx.slot, seq := y.seq, pc := x.toNat, count := c.toNat, pos := 0 }] }) 1) :=
    congrArg Host.Outcome.next (checked _)
  rw [matrix, stream, Nat.mul_one, Nat.mul_comm c.toNat 4]
  refine ⟨fun past => ?_, fun past => ?_, fun fits full => ?_, fun fits full => ?_, fun fits room => ?_, fun fits room => ?_⟩
  · rw [if_pos past]; rfl
  · rw [if_pos past]; rfl
  · rw [if_neg (Nat.not_lt.2 fits), if_pos full]; rfl
  · rw [if_neg (Nat.not_lt.2 fits), if_pos full]; rfl
  · rw [if_neg (Nat.not_lt.2 fits), if_neg (Nat.not_le.2 room)]; rfl
  · rw [if_neg (Nat.not_lt.2 fits), if_neg (Nat.not_le.2 room)]; rfl

/-! ## rdv (R79) -/

theorem lowAband_none {l : List Aband} : lowAband l = none ↔ l = [] := by
  cases l with
  | nil => simp [lowAband]
  | cons a r => simp only [lowAband]; split <;> simp
theorem lowAband_some {l : List Aband} {a : Aband} (h : lowAband l = some a) : a ∈ l ∧ ∀ b ∈ l, a.word ≤ b.word := by
  induction l generalizing a with
  | nil => cases h
  | cons c r ih =>
    rw [lowAband] at h
    split at h
    next e =>
      cases h
      rw [lowAband_none] at e
      subst e
      simp
    next b e =>
      obtain ⟨mem, least⟩ := ih e
      injection h with h
      subst h
      by_cases lower : b.word < c.word
      · rw [if_pos lower]
        exact ⟨.tail _ mem, List.forall_mem_cons.2 ⟨lower.le, least⟩⟩
      · rw [if_neg lower]
        exact ⟨.head _, List.forall_mem_cons.2 ⟨le_rfl, fun d hd => (Nat.not_lt.1 lower).trans (least d hd)⟩⟩
theorem named_iff (st mx : Bool) (u : ForkUnit) : named st mx u = true ↔ (u = .matrix ∧ mx = true) ∨ (u = .stream ∧ st = true) := by
  cases u <;> simp [named]

theorem rdvAwaitsAndReports : Claims.RdvAwaitsAndReports := by
  intro s st mx x k waits mine
  have wait_iff : ((mx && x.mq.any fun i => i.slot == k) || (st && ((x.sq.any fun r => r.slot == k) || x.cmds.any fun c => c.slot == k))) = true ↔
      waits := by
    simp only [Bool.or_eq_true, Bool.and_eq_true, List.any_eq_true, beq_iff_eq]; rfl
  have meaning : exec (.rdv st mx) s = .next (
      if (mx && x.mq.any fun i => i.slot == k) || (st && ((x.sq.any fun r => r.slot == k) || x.cmds.any fun c => c.slot == k)) then
        park s .rdv
      else match lowAband (s.cur.aband.filter fun a => named st mx a.unit) with
        | none => advance s 1
        | some a => trapC (s.modCur fun y => { y with aband := y.aband.filter fun b => !named st mx b.unit })
            10 0 (w64 a.word) (w32 (a.cause + 256 * a.field)) (w32 a.word)) := rfl
  rw [meaning]
  refine ⟨fun hw => ?_, fun hw none => ?_, fun hw some => ?_⟩
  · rw [if_pos (wait_iff.2 hw)]; rfl
  · have low : lowAband (s.cur.aband.filter fun a => named st mx a.unit) = .none :=
      lowAband_none.2 (List.filter_eq_nil_iff.2 fun a ha h => none a ha ((named_iff ..).1 h))
    rw [if_neg (mt wait_iff.1 hw), low]; rfl
  · obtain ⟨c, hc, mc⟩ := some
    cases low : lowAband (s.cur.aband.filter fun a => named st mx a.unit) with
    | none =>
      have := List.filter_eq_nil_iff.1 (lowAband_none.1 low) c hc
      exact absurd ((named_iff ..).2 mc) this
    | some a =>
      obtain ⟨mem, least⟩ := lowAband_some low
      rw [List.mem_filter] at mem
      refine ⟨a, mem.1, s.cur.aband.filter fun b => !named st mx b.unit, (named_iff ..).1 mem.2,
        fun b hb mb => least b (List.mem_filter.2 ⟨hb, (named_iff ..).2 mb⟩), fun b => ?_, ?_⟩
      · rw [List.mem_filter, Bool.not_eq_true', ← Bool.not_eq_true, named_iff]
      · rw [if_neg (mt wait_iff.1 hw)]; rfl

/-! ## trig (R80) -/

theorem trigLaunches : Claims.TrigLaunches := by
  intro s a w p x ha hq y q
  have checked : ∀ k : Nat → State, needG s a w 4 (fun x => gate s (needLd s (x.toNat : Int) 64 k)) = needLd s (x.toNat : Int) 64 k := fun k =>
    (needG_full _ _ _ ha).trans (gate_clear _ hq)
  have trap_at : (BitVec.ofInt 64 (x.toNat : Int)) = x := by rw [BitVec.ofInt_natCast, BitVec.ofNat_toNat, BitVec.setWidth_eq]
  have odd_iff : ((x.toNat : Int) % (64 : Nat) = 0) ↔ x.toNat % 64 = 0 := by omega
  refine ⟨fun out => ?_, fun inn odd => ?_, fun inn even rc => ?_, fun inn even rc => ?_⟩
  · exact congrArg Host.Outcome.next ((checked _).trans ((needLd_range _ (.inr out)).trans (congrArg (trap s 5 0) trap_at)))
  · exact congrArg Host.Outcome.next ((checked _).trans ((needLd_align _ (Int.natCast_nonneg _) inn (mt odd_iff.1 odd)).trans (congrArg (trap s 6 0) trap_at)))
  · exact congrArg Host.Outcome.next ((checked _).trans ((needLd_ok _ (Int.natCast_nonneg _) inn (odd_iff.2 even)).trans (if_pos rc)))
  · have main : exec (.trig a w p) s = .next (if s.opsOut false then park s .fence else if 256 ≤ q.length then park s .queue
        else advance ((s.setPart s.curPart { y with lq := vset y.lq p.toNat (q ++ [.ofNat 512 (leNat (s.sp x.toNat 64))]) }).extAct s.curLt.key) 1) :=
      congrArg Host.Outcome.next ((checked _).trans ((needLd_ok _ (Int.natCast_nonneg _) inn (odd_iff.2 even)).trans (if_neg (by rw [rc]; decide))))
    rw [main]
    refine ⟨fun out => ?_, fun clear full => ?_, fun clear room => ?_⟩
    · rw [if_pos out]; rfl
    · rw [clear, if_neg (by decide), if_pos full]; rfl
    · rw [clear, if_neg (by decide), if_neg (Nat.not_le.2 room)]; rfl

/-- Settles O8: fork, rdv and trig. -/
theorem runsAndLaunchesAreQueued : Obligations.RunsAndLaunchesAreQueued :=
  ⟨forkQueuesARun, rdvAwaitsAndReports, trigLaunches⟩

end Sys2Proof.Proofs.Tasks
end

section
/-! PROOFS. The spill stack: `pushm` and `popm` (R74, R303). -/
namespace Sys2Proof.Proofs.Spill
open Sys2Proof Sys2Proof.Machine
open Sys2Proof.Proofs.Bits Sys2Proof.Proofs.Scratchpad
set_option Elab.async false

/-! ## Ranges of registers -/

theorem mem_upFrom {a n r : Nat} : r ∈ upFrom a n ↔ a ≤ r ∧ r < a + n := by
  rw [upFrom_eq_range', List.mem_range'_1]
/-- The registers that a word names, and the bound of their file. -/
theorem range_of_wf {d a : BitVec 4} {f : RFile} {w : Bool} (h : (Instr.pushm d a w f).wellFormed = true ∨ (Instr.popm d a f).wellFormed = true) :
    d.toNat ≤ a.toNat ∧ a.toNat < rfLim f.code := by
  obtain h | h := h <;> simp only [Instr.wellFormed, Bool.and_eq_true, decide_eq_true_eq] at h <;> omega
theorem mem_range {d a : BitVec 4} (h : d.toNat ≤ a.toNat) (r : Nat) :
    r ∈ upFrom d.toNat (a.toNat - d.toNat + 1) ↔ d.toNat ≤ r ∧ r ≤ a.toNat := by
  rw [mem_upFrom]; omega

/-! ## Checks of a range -/

theorem full_of_st {s : State} {r : BitVec 4} (h : (s.g r).st = .full) : s.full r (s.g r).val := by
  unfold State.full
  rw [← h]
/-- The first register that is not full stops its word. -/
theorem needGs_stops {s : State} {w : Bool} {k : State} {r : Nat} (hr : (s.g (.ofNat 4 r)).st ≠ .full) :
    ∀ (n a field : Nat), a ≤ r → r < a + n → (∀ q, a ≤ q → q < r → (s.g (.ofNat 4 q)).st = .full) →
      needGs s w field k (upFrom a n) =
        if w then park s .emptyReg else trap s 2 (if r = a then field else 4) (w64 (BitVec.ofNat 4 r).toNat) := by
  intro n
  induction n with
  | zero => intro a field low high; omega
  | succ n ih =>
    intro a field low high before
    rw [upFrom, needGs]
    by_cases e : r = a
    · subst e
      rw [needG_not_full _ _ _ hr, if_pos rfl]
    · rw [needG_full _ _ _ (full_of_st (before a le_rfl (by omega))), ih (a + 1) 4 (by omega) (by omega) fun q h => before q (by omega),
        ite_self, if_neg e]
theorem needGs_full {s : State} {w : Bool} {k : State} {l : List Nat} (field : Nat) (h : ∀ r ∈ l, (s.g (.ofNat 4 r)).st = .full) :
    needGs s w field k l = k := by
  induction l generalizing field with
  | nil => rfl
  | cons r l ih =>
    rw [needGs, needG_full _ _ _ (full_of_st (h r (.head _)))]
    exact ih 4 fun q hq => h q (.tail _ hq)
/-- A w or m register of a range that is read or written parks the word; otherwise the word goes on. -/
def busyReg (s : State) (f : RFile) (r : Nat) : Bool :=
  match f with | .w => s.wBusy (.ofNat 3 r) | .m => s.mBusy (.ofNat 2 r) | _ => false
theorem needFile_eq (s : State) (f : RFile) (l : List Nat) (k : State) : needFile s f l k = if l.any (busyReg s f) then park s .wreg else k := by
  cases f <;> rfl
theorem needFile_busy {s : State} {f : RFile} {l : List Nat} {r : Nat} (k : State) (hr : r ∈ l) (h : busyReg s f r = true) :
    needFile s f l k = park s .wreg := by
  rw [needFile_eq, if_pos (List.any_eq_true.2 ⟨r, hr, h⟩)]
theorem needFile_free {s : State} {f : RFile} {l : List Nat} (k : State) (h : ∀ r ∈ l, busyReg s f r = false) : needFile s f l k = k := by
  rw [needFile_eq, if_neg]
  rw [List.any_eq_true]
  rintro ⟨r, hr, e⟩
  rw [h r hr] at e
  exact absurd e (by decide)
theorem ofNat_toNat_self {n : Nat} (r : BitVec n) : BitVec.ofNat n r.toNat = r := by rw [BitVec.ofNat_toNat, BitVec.setWidth_eq]
/-- No register of the range is busy. -/
theorem free_range {s : State} {f : RFile} {d a : BitVec 4} (hd : d.toNat ≤ a.toNat) (ha : a.toNat < rfLim f.code)
    (hw : ∀ r : BitVec 3, f = .w → d.toNat ≤ r.toNat ∧ r.toNat ≤ a.toNat → s.wBusy r = false)
    (hm : ∀ r : BitVec 2, f = .m → d.toNat ≤ r.toNat ∧ r.toNat ≤ a.toNat → s.mBusy r = false) :
    ∀ r ∈ upFrom d.toNat (a.toNat - d.toNat + 1), busyReg s f r = false := by
  intro r hr
  rw [mem_range hd] at hr
  cases f with
  | g => rfl
  | b => rfl
  | m =>
    have : (BitVec.ofNat 2 r).toNat = r := by
      rw [BitVec.toNat_ofNat]; exact Nat.mod_eq_of_lt (by have : a.toNat < 4 := ha; omega)
    exact hm (.ofNat 2 r) rfl (by rwa [this])
  | w =>
    have : (BitVec.ofNat 3 r).toNat = r := by
      rw [BitVec.toNat_ofNat]; exact Nat.mod_eq_of_lt (by have : a.toNat < 8 := ha; omega)
    exact hw (.ofNat 3 r) rfl (by rwa [this])

/-! ## SSP.PTR -/

/-- The pointer that was put into SSP. -/
theorem ptr_sspWith (x : DWord) (p : Nat) : bfld (sspWith x p) 18 3 = p / 8 % 65536 := by
  have mask : ∀ i < 16, (~~~(0x7_FFF8 : DWord)).getLsbD (3 + i) = false := by decide
  apply Nat.eq_of_testBit_eq
  intro i
  show ((sspWith x p).toNat / 2 ^ 3 % 2 ^ 16).testBit i = (p / 8 % 2 ^ 16).testBit i
  rw [Nat.testBit_mod_two_pow, Nat.testBit_mod_two_pow, Nat.testBit_div_two_pow, Nat.add_comm]
  by_cases h : i < 16
  · have low : (p / 8 % 65536 * 8) < 2 ^ 64 := by omega
    have place : (p / 8 % 65536 * 8).testBit (3 + i) = (p / 8 % 2 ^ 16).testBit i := by
      rw [show p / 8 % 65536 * 8 = 2 ^ 3 * (p / 8 % 2 ^ 16) by omega, Nat.testBit_two_pow_mul]
      simp
    have bit : (sspWith x p).toNat.testBit (3 + i) = (p / 8 % 2 ^ 16).testBit i := by
      rw [BitVec.testBit_toNat, sspWith, BitVec.getLsbD_or, BitVec.getLsbD_and, mask i h, Bool.and_false, Bool.false_or,
        BitVec.getLsbD_ofNat, decide_eq_true (by omega), Bool.true_and, place]
    rw [bit, Nat.testBit_mod_two_pow, decide_eq_true h, Bool.true_and, Bool.true_and]
  · rw [decide_eq_false h, Bool.false_and, Bool.false_and]
theorem ptr_lt (x : DWord) : bfld x 18 3 < 65536 := Nat.mod_lt _ (by decide)

/-! ## pushm -/

theorem slotOf_length (s : State) (f : RFile) (r : Nat) : (s.slotOf f r).length = slotBytes f := by
  cases f <;> simp [State.slotOf, slotBytes]
/-- A place in lists of one length, joined. -/
theorem getD_flatten {α : Type} {l : List (List α)} {c : Nat} (h : ∀ x ∈ l, x.length = c) {j q : Nat} (hj : j < l.length) (hq : q < c) (d : α) :
    l.flatten.getD (j * c + q) d = (l.getD j []).getD q d := by
  induction l generalizing j with
  | nil => simp at hj
  | cons x r ih =>
    have len : x.length = c := h x (.head _)
    rw [List.flatten_cons]
    cases j with
    | zero => rw [Nat.zero_mul, Nat.zero_add, List.getD_append _ _ _ _ (by omega), List.getD_cons_zero]
    | succ j =>
      rw [List.getD_append_right _ _ _ _ (by rw [Nat.succ_mul]; omega), List.getD_cons_succ, len,
        show (j + 1) * c + q - c = j * c + q by rw [Nat.succ_mul]; omega]
      exact ih (fun y hy => h y (.tail _ hy)) (by simpa using hj)
theorem length_flatten {α : Type} {l : List (List α)} {c : Nat} (h : ∀ x ∈ l, x.length = c) : l.flatten.length = l.length * c := by
  induction l with
  | nil => simp
  | cons x r ih =>
    rw [List.flatten_cons, List.length_append, h x (.head _), ih fun y hy => h y (.tail _ hy), List.length_cons, Nat.succ_mul, Nat.add_comm]
theorem unmark_withSpad (s : State) (m : Mem) (l : List Nat) (a n : Nat) :
    (withSpad s m l).unmark a n = withSpad s m (l.filter fun b => !decide (s.spa a / 4 * 4 ≤ b ∧ b < s.spa a / 4 * 4 + 4 * n)) := by
  rw [State.unmark, spa_withSpad]
  exact modTile_withSpad ..
theorem setHas_filter (l : List Nat) (p : Nat → Bool) (q : Nat) : setHas (l.filter p) q = (setHas l q && p q) := by
  rw [Bool.eq_iff_iff, Bool.and_eq_true, setHas_mem, setHas_mem, List.mem_filter]

/-- The slots of a range of registers, joined. -/
def slots (s : State) (f : RFile) (d n : Nat) : List Byte := ((upFrom d n).map (s.slotOf f)).flatten
theorem slots_length (s : State) (f : RFile) (d n : Nat) : (slots s f d n).length = n * slotBytes f := by
  rw [slots, length_flatten (c := slotBytes f) (by simp [slotOf_length]), List.length_map, upFrom_eq_range', List.length_range']
theorem slots_getD (s : State) (f : RFile) (d : Nat) {n j q : Nat} (hj : j < n) (hq : q < slotBytes f) :
    (slots s f d n).getD (j * slotBytes f + q) 0 = (s.slotOf f (d + j)).getD q 0 := by
  have place : ((upFrom d n).map (s.slotOf f)).getD j [] = s.slotOf f (d + j) := by
    simp [upFrom_eq_range', List.getD_eq_getElem?_getD, hj]
  rw [slots, getD_flatten (by simp [slotOf_length]) (by simpa [upFrom_eq_range'] using hj) hq, place]

/-- What a `pushm` goes on to once its registers are checked. -/
def pushes (s : State) (d a : BitVec 4) (f : RFile) : State :=
  let size := (a.toNat - d.toNat + 1) * slotBytes f
  let new : Int := (sspPtr s.cur.ssp : Int) - size
  if new < sspLimit s.cur.ssp then trap s 8 0 (.ofInt 64 new)
  else if !s.spLd new.toNat size || !s.spSt new.toNat size then trap s 5 0 (.ofInt 64 new)
  else if f = .w ∧ new.toNat % 64 ≠ 0 then trap s 6 0 (.ofInt 64 new)
  else
    advance (((s.spPut new.toNat (slots s f d.toNat (a.toNat - d.toNat + 1))).unmark new.toNat (size / 4)).modCur
      fun x => { x with ssp := sspWith x.ssp new.toNat }) 1
theorem exec_pushm (s : State) (d a : BitVec 4) (w : Bool) (f : RFile) :
    exec (.pushm d a w f) s = .next (if f = .g then
        needGs s w 3 (needFile s f (upFrom d.toNat (a.toNat - d.toNat + 1)) (gateW s (pushes s d a f))) (upFrom d.toNat (a.toNat - d.toNat + 1))
      else needFile s f (upFrom d.toNat (a.toNat - d.toNat + 1)) (gateW s (pushes s d a f))) := by
  cases f <;> rfl

/-- A `pushm` whose registers are ready goes on. -/
theorem pushm_ready {s : State} {d a : BitVec 4} {w : Bool} {f : RFile} (hwf : (Instr.pushm d a w f).wellFormed = true)
    (hg : ∀ r : BitVec 4, f = .g → d.toNat ≤ r.toNat ∧ r.toNat ≤ a.toNat → (s.g r).st = .full)
    (hw : ∀ r : BitVec 3, f = .w → d.toNat ≤ r.toNat ∧ r.toNat ≤ a.toNat → s.wBusy r = false)
    (hm : ∀ r : BitVec 2, f = .m → d.toNat ≤ r.toNat ∧ r.toNat ≤ a.toNat → s.mBusy r = false) (hq : s.clearOfAcq) (hrel : s.clearOfRel) :
    exec (.pushm d a w f) s = .next (pushes s d a f) := by
  obtain ⟨hd, ha⟩ := range_of_wf (.inl hwf)
  have rest : needFile s f (upFrom d.toNat (a.toNat - d.toNat + 1)) (gateW s (pushes s d a f)) = pushes s d a f :=
    (needFile_free _ (free_range hd ha hw hm)).trans (gateW_clear _ hq hrel)
  rw [exec_pushm, rest]
  by_cases hf : f = .g
  · rw [if_pos hf, needGs_full 3]
    intro r hr
    rw [mem_range hd] at hr
    have back : (BitVec.ofNat 4 r).toNat = r := by
      rw [BitVec.toNat_ofNat]; exact Nat.mod_eq_of_lt (by have := a.isLt; omega)
    exact hg (.ofNat 4 r) hf (by rw [back]; exact hr)
  · rw [if_neg hf]

theorem pushmSpillsRegisters : Claims.PushmSpillsRegisters := by
  intro s d a w f hwf n size limit new within
  obtain ⟨hd, ha⟩ := range_of_wf (.inl hwf)
  rw [exec_pushm]
  refine ⟨fun r hf hr hst before => ?_, ?_, ?_, fun hg hw hm hq hrel => ?_⟩
  · subst hf
    rw [if_pos rfl, needGs_stops (r := r.toNat) (by rwa [ofNat_toNat_self]) _ _ _ hr.1 (by have := hr.2; omega), blocked_eq]
    · rw [ofNat_toNat_self]
      simp only [BitVec.toNat_inj]
    · intro q low high
      have back : (BitVec.ofNat 4 q).toNat = q := by
        rw [BitVec.toNat_ofNat]; exact Nat.mod_eq_of_lt (by have := r.isLt; omega)
      exact before (.ofNat 4 q) ⟨by omega, by have := hr.2; omega⟩ (BitVec.lt_def.2 (by omega))
  · rintro ⟨r, rfl, hr, busy⟩
    rw [if_neg (by decide), needFile_busy _ ((mem_range hd _).2 hr)]
    · rfl
    · rwa [busyReg, ofNat_toNat_self]
  · rintro ⟨r, rfl, hr, busy⟩
    rw [if_neg (by decide), needFile_busy _ ((mem_range hd _).2 hr)]
    · rfl
    · rwa [busyReg, ofNat_toNat_self]
  · rw [← exec_pushm, pushm_ready hwf hg hw hm hq hrel]
    refine ⟨fun low => congrArg Host.Outcome.next (if_pos low), fun inn out => ?_, fun inn ld st => ⟨fun hf odd => ?_, fun even hc => ?_⟩⟩
    · refine congrArg Host.Outcome.next ((if_neg (not_lt.2 inn)).trans (if_pos ?_))
      show (!s.spLd new.toNat size || !s.spSt new.toNat size) = true
      obtain out | out := out <;> simp [out]
    all_goals have ok : ¬ (!s.spLd new.toNat size || !s.spSt new.toNat size) = true := by rw [ld, st]; decide
    · exact congrArg Host.Outcome.next ((if_neg (not_lt.2 inn)).trans ((if_neg ok).trans (if_pos ⟨hf, odd⟩)))
    · have low : 0 ≤ new := le_trans (Int.natCast_nonneg _) inn
      have top := ptr_lt s.cur.ssp
      have eight : 8 ∣ slotBytes f := by cases f <;> decide
      have size8 : size % 8 = 0 := Nat.mod_eq_zero_of_dvd (eight.mul_left n)
      have val : new = ((bfld s.cur.ssp 18 3 * 8 : Nat) : Int) - (size : Int) := rfl
      have new8 : new.toNat % 8 = 0 := by omega
      have place := spa_aligned s (a := new.toNat) (by omega)
      refine ⟨memWrite (s.tile s.ctx.tile).spad (s.spa new.toNat) (slots s f d.toNat n),
        (s.tile s.ctx.tile).marks.filter fun b => !decide (s.spa new.toNat / 4 * 4 ≤ b ∧ b < s.spa new.toNat / 4 * 4 + 4 * (size / 4)),
        ?_, ?_, fun j hj q hq => ?_, fun q out => ?_, fun q => ?_⟩
      · refine congrArg Host.Outcome.next ((if_neg (not_lt.2 inn)).trans ((if_neg ok).trans ((if_neg ?_).trans ?_)))
        · exact fun h => h.2 (even h.1)
        · exact congrArg (fun u : State => advance (u.modCur fun x => { x with ssp := sspWith x.ssp new.toNat }) 1) (unmark_withSpad ..)
      · exact (ptr_sspWith ..).trans (Nat.mod_eq_of_lt (by omega))
      · have inside : j * slotBytes f + q < size :=
          calc j * slotBytes f + q < (j + 1) * slotBytes f := by rw [Nat.succ_mul]; omega
            _ ≤ size := Nat.mul_le_mul_right _ hj
        rw [memGet_write hc.1, slots_length, if_pos (by omega), Nat.add_assoc, Nat.add_sub_cancel_left, slots_getD _ _ _ hj hq]
      · rw [memGet_write hc.1, slots_length, if_neg out]; rfl
      · rw [setHas_filter, show s.spa new.toNat / 4 * 4 = s.spa new.toNat by omega, show 4 * (size / 4) = size by omega]

/-! ## popm -/

/-- The lowest marked slot. -/
theorem badSlot_lowest {s : State} {f : RFile} {j : Nat} : ∀ (n ea : Nat), j < n →
    s.spMarked (ea + j * slotBytes f) (slotBytes f) = true → (∀ i < j, s.spMarked (ea + i * slotBytes f) (slotBytes f) ≠ true) →
      s.badSlot f ea n = some (ea + j * slotBytes f) := by
  induction j with
  | zero =>
    intro n ea hj hm _
    obtain ⟨m, rfl⟩ := Nat.exists_eq_succ_of_ne_zero (Nat.ne_of_gt hj)
    rw [Nat.zero_mul, Nat.add_zero] at hm ⊢
    exact if_pos hm
  | succ j ih =>
    intro n ea hj hm low
    obtain ⟨m, rfl⟩ := Nat.exists_eq_succ_of_ne_zero (Nat.ne_of_gt (Nat.zero_lt_of_lt hj))
    have here := low 0 (Nat.succ_pos j)
    rw [Nat.zero_mul, Nat.add_zero] at here
    have step : ∀ i, ea + (i + 1) * slotBytes f = ea + slotBytes f + i * slotBytes f := fun i => by rw [Nat.succ_mul]; omega
    rw [step] at hm ⊢
    refine (if_neg here).trans (ih m _ (by omega) hm fun i hi => ?_)
    rw [← step]
    exact low (i + 1) (by omega)
theorem badSlot_none {s : State} {f : RFile} : ∀ (n ea : Nat), (∀ j < n, s.spMarked (ea + j * slotBytes f) (slotBytes f) ≠ true) →
    s.badSlot f ea n = none := by
  intro n
  induction n with
  | zero => intros; rfl
  | succ n ih =>
    intro ea clean
    have here := clean 0 (Nat.succ_pos n)
    rw [Nat.zero_mul, Nat.add_zero] at here
    refine (if_neg here).trans (ih _ fun j hj => ?_)
    have := clean (j + 1) (by omega)
    rwa [show ea + (j + 1) * slotBytes f = ea + slotBytes f + j * slotBytes f by rw [Nat.succ_mul]; omega] at this

/-- Only the issuing task differs, and its scratchpad reads alike. -/
def Pops (s u : State) : Prop := OnlyTask s u ∧ u.ctx = s.ctx ∧ (∀ a n, u.spN a n = s.spN a n) ∧ ∀ a, u.spMark a = s.spMark a
theorem Pops.refl (s : State) : Pops s s := ⟨⟨rfl, fun _ _ => rfl, rfl, fun _ _ => rfl⟩, rfl, fun _ _ => rfl, fun _ => rfl⟩
theorem Pops.trans {s u v : State} (h : Pops s u) (g : Pops u v) : Pops s v := by
  obtain ⟨⟨same, tiles, tile, tasks⟩, ctx, bytes, marks⟩ := h
  obtain ⟨⟨same', tiles', tile', tasks'⟩, ctx', bytes', marks'⟩ := g
  rw [ctx] at tiles' tile' tasks'
  refine ⟨⟨?_, fun n h => (tiles' n h).trans (tiles n h), ?_, fun k h => (tasks' k h).trans (tasks k h)⟩, ctx'.trans ctx,
    fun a n => (bytes' a n).trans (bytes a n), fun a => (marks' a).trans (marks a)⟩
  · rw [same', same]
  · rw [tile', tile]
/-- A change of the issuer's registers is such a step. -/
theorem pops_modCur (s : State) {f : Task → Task} (hf : ∀ k, (f k).phase = k.phase) : Pops s (s.modCur f) := by
  have only := onlyTask_modCur s f
  obtain ⟨-, -, tile, -⟩ := id only
  have place : ∀ a, (s.modCur f).spa a = s.spa a := fun a => by
    unfold State.spa
    rw [cur_modCur, hf, show (s.modCur f).ctx = s.ctx from rfl, tile]
  refine ⟨only, rfl, fun a n => ?_, fun a => ?_⟩
  · unfold State.spN State.sp
    rw [place, show (s.modCur f).ctx = s.ctx from rfl, tile]
  · unfold State.spMark
    rw [place, show (s.modCur f).ctx = s.ctx from rfl, tile]
/-- The token that a w slot holds. -/
def poppedTok (s : State) (ea : Nat) : Token :=
  ⟨.ofNat 512 (s.spN ea 64), .ofNat 16 (s.spN (ea + 64) 2), .ofNat 16 (s.spN (ea + 66) 2) ||| bits16 fun k => s.spMark (ea + 4 * k),
    .ofNat 6 (s.spN (ea + 68) 1), slotKind (.ofNat 8 (s.spN (ea + 69) 1))⟩
/-- The issuer's task with a register loaded from its slot. -/
def slotTask (s : State) (f : RFile) (r ea : Nat) (k : Task) : Task :=
  match f with
  | .g => { k with g := vset k.g (BitVec.ofNat 4 r).toNat { val := w64 (s.spN ea 8), st := .full } }
  | .b => { k with b := vset k.b (BitVec.ofNat 3 r).toNat (.ofNat 80 (s.spN ea 16)) }
  | .m => { k with m := vset k.m (BitVec.ofNat 2 r).toNat (.ofNat 16 (s.spN ea 8)) }
  | .w => { k with w := vset k.w (BitVec.ofNat 3 r).toNat (poppedTok s ea) }
theorem unslot_eq (s : State) (f : RFile) (r ea : Nat) : s.unslot f r ea = s.modCur (slotTask s f r ea) := by
  cases f <;> rfl
theorem cur_unslot (s : State) (f : RFile) (r ea : Nat) : (s.unslot f r ea).cur = slotTask s f r ea s.cur := by
  rw [unslot_eq, cur_modCur]
theorem pops_unslot (s : State) (f : RFile) (r ea : Nat) : Pops s (s.unslot f r ea) := by
  rw [unslot_eq]
  exact pops_modCur s fun k => by cases f <;> rfl
theorem pops_popRegs (f : RFile) (l : List Nat) : ∀ (s : State) (ea : Nat), Pops s (s.popRegs f ea l) := by
  induction l with
  | nil => exact fun s _ => .refl s
  | cons r l ih => exact fun s ea => (pops_unslot s f r ea).trans (ih _ _)
/-- What a file reads as once a range of it is loaded, from what it reads as once one register is. -/
theorem read_popRegs {α : Type} {s : State} {f : RFile} {N : Nat} (rd : State → Nat → α) (val : Nat → α)
    (one : ∀ u r ea q, Pops s u → r < N → q < N → rd (u.unslot f r ea) q = if q = r then val ea else rd u q) :
    ∀ (n d ea : Nat) (u : State), Pops s u → d + n ≤ N → ∀ q < N,
      rd (u.popRegs f ea (upFrom d n)) q = if d ≤ q ∧ q < d + n then val (ea + (q - d) * slotBytes f) else rd u q := by
  intro n
  induction n with
  | zero => intro d ea u _ _ q _; rw [if_neg (by omega)]; rfl
  | succ n ih =>
    intro d ea u hu hn q hq
    rw [upFrom, State.popRegs, ih (d + 1) _ _ (hu.trans (pops_unslot u f d ea)) (by omega) q hq, one u d ea q hu (by omega) hq]
    by_cases here : q = d
    · rw [if_neg (by omega), if_pos here, if_pos (by omega), here, Nat.sub_self, Nat.zero_mul, Nat.add_zero]
    · by_cases later : d + 1 ≤ q ∧ q < d + 1 + n
      · rw [if_pos later, if_pos (by omega), show q - d = q - (d + 1) + 1 by omega, Nat.succ_mul]
        congr 1; omega
      · rw [if_neg later, if_neg here, if_neg (by omega)]
/-- A file that is not popped reads as before. -/
theorem read_popRegs_other {α : Type} {f : RFile} (rd : State → α) (same : ∀ u r ea, rd (u.unslot f r ea) = rd u) (l : List Nat) :
    ∀ (u : State) (ea : Nat), rd (u.popRegs f ea l) = rd u := by
  induction l with
  | nil => exact fun _ _ => rfl
  | cons r l ih => exact fun u ea => (ih _ _).trans (same u r ea)

theorem ofNat_inj_of_lt {w r q : Nat} (hr : r < 2 ^ w) (hq : q < 2 ^ w) : (BitVec.ofNat w q = BitVec.ofNat w r) ↔ q = r := by
  rw [← BitVec.toNat_inj, BitVec.toNat_ofNat, BitVec.toNat_ofNat, Nat.mod_eq_of_lt hr, Nat.mod_eq_of_lt hq]

theorem poppedTok_congr {s u : State} (h : Pops s u) (ea : Nat) : poppedTok u ea = poppedTok s ea := by
  obtain ⟨-, -, bytes, marks⟩ := h
  simp only [poppedTok, bytes, marks]
theorem pois_poppedTok (s : State) (ea : Nat) {j : Nat} (hj : j < 16) :
    (poppedTok s ea).pois j = ((s.spN (ea + 66) 2).testBit j || s.spMark (ea + 4 * j)) := by
  rw [Token.pois, poppedTok, BitVec.toNat_or, Nat.testBit_or, testBit_bits16 _ hj, BitVec.toNat_ofNat, Nat.testBit_mod_two_pow,
    decide_eq_true hj, Bool.true_and]
/-- A popped kind is never a marker, and is the one its byte names. -/
theorem slotKind_ne_marker (b : BitVec 8) : slotKind b ≠ .marker := by
  unfold slotKind
  split
  · decide
  · split
    · decide
    · split
      · decide
      · split <;> decide
theorem kindCode_slotKind {n : Nat} (h : n ∈ [0, 1, 3]) : kindCode (slotKind (.ofNat 8 n)) = n := by
  simp only [List.mem_cons, List.not_mem_nil, or_false] at h
  obtain rfl | rfl | rfl := h <;> rfl

section
variable {s : State} {f : RFile} {d a : BitVec 4} (p : Nat) (hd : d.toNat ≤ a.toNat) (ha : a.toNat < rfLim f.code)
include hd ha
theorem popped_g (r : BitVec 4) : (s.popRegs f p (upFrom d.toNat (a.toNat - d.toNat + 1))).g r =
    if f = .g ∧ d.toNat ≤ r.toNat ∧ r.toNat ≤ a.toNat then { val := .ofNat 64 (s.spN (p + (r.toNat - d.toNat) * 8) 8), st := .full }
    else s.g r := by
  by_cases hf : f = .g
  · subst hf
    have read := read_popRegs (s := s) (f := .g) (N := 16) (fun u q => u.g (.ofNat 4 q)) (fun ea => { val := .ofNat 64 (s.spN ea 8), st := .full })
      (fun u r ea q hu hr hq => by
        rw [← hu.2.2.1 ea 8]
        refine (g_setG u (.ofNat 4 r) (.ofNat 4 q) _).trans ?_
        simp only [ofNat_inj_of_lt (w := 4) hr hq]
        rfl)
      (a.toNat - d.toNat + 1) d.toNat p s (.refl s) (by have : a.toNat < 16 := ha; omega) r.toNat r.isLt
    simp only [ofNat_toNat_self] at read
    rw [read]
    exact if_congr (by rw [eq_self_iff_true, true_and]; omega) rfl rfl
  · rw [if_neg fun h => hf h.1]
    refine read_popRegs_other (fun u => u.g r) (fun u q ea => ?_) _ _ _
    cases f with
    | g => exact absurd rfl hf
    | b | m | w => exact (congrArg (fun k : Task => vget k.g r.toNat {}) (cur_unslot ..)).trans rfl
theorem popped_b (r : BitVec 3) : (s.popRegs f p (upFrom d.toNat (a.toNat - d.toNat + 1))).b r =
    if f = .b ∧ d.toNat ≤ r.toNat ∧ r.toNat ≤ a.toNat then .ofNat 80 (s.spN (p + (r.toNat - d.toNat) * 16) 16) else s.b r := by
  by_cases hf : f = .b
  · subst hf
    have read := read_popRegs (s := s) (f := .b) (N := 8) (fun u q => u.b (.ofNat 3 q)) (fun ea => .ofNat 80 (s.spN ea 16))
      (fun u r ea q hu hr hq => by
        rw [← hu.2.2.1 ea 16]
        refine (b_setB u (.ofNat 3 r) (.ofNat 3 q) _).trans ?_
        simp only [ofNat_inj_of_lt (w := 3) hr hq])
      (a.toNat - d.toNat + 1) d.toNat p s (.refl s) (by have : a.toNat < 8 := ha; omega) r.toNat r.isLt
    simp only [ofNat_toNat_self] at read
    rw [read]
    exact if_congr (by rw [eq_self_iff_true, true_and]; omega) rfl rfl
  · rw [if_neg fun h => hf h.1]
    refine read_popRegs_other (fun u => u.b r) (fun u q ea => ?_) _ _ _
    cases f with
    | b => exact absurd rfl hf
    | g | m | w => exact (congrArg (fun k : Task => vget k.b r.toNat 0) (cur_unslot ..)).trans rfl
theorem popped_m (r : BitVec 2) : (s.popRegs f p (upFrom d.toNat (a.toNat - d.toNat + 1))).m r =
    if f = .m ∧ d.toNat ≤ r.toNat ∧ r.toNat ≤ a.toNat then .ofNat 16 (s.spN (p + (r.toNat - d.toNat) * 8) 8) else s.m r := by
  by_cases hf : f = .m
  · subst hf
    have read := read_popRegs (s := s) (f := .m) (N := 4) (fun u q => u.m (.ofNat 2 q)) (fun ea => .ofNat 16 (s.spN ea 8))
      (fun u r ea q hu hr hq => by
        rw [← hu.2.2.1 ea 8]
        refine (m_setM u (.ofNat 2 r) (.ofNat 2 q) _).trans ?_
        simp only [ofNat_inj_of_lt (w := 2) hr hq])
      (a.toNat - d.toNat + 1) d.toNat p s (.refl s) (by have : a.toNat < 4 := ha; omega) r.toNat r.isLt
    simp only [ofNat_toNat_self] at read
    rw [read]
    exact if_congr (by rw [eq_self_iff_true, true_and]; omega) rfl rfl
  · rw [if_neg fun h => hf h.1]
    refine read_popRegs_other (fun u => u.m r) (fun u q ea => ?_) _ _ _
    cases f with
    | m => exact absurd rfl hf
    | g | b | w => exact (congrArg (fun k : Task => vget k.m r.toNat 0) (cur_unslot ..)).trans rfl
theorem popped_w (r : BitVec 3) : (s.popRegs f p (upFrom d.toNat (a.toNat - d.toNat + 1))).w r =
    if f = .w ∧ d.toNat ≤ r.toNat ∧ r.toNat ≤ a.toNat then poppedTok s (p + (r.toNat - d.toNat) * 128) else s.w r := by
  by_cases hf : f = .w
  · subst hf
    have read := read_popRegs (s := s) (f := .w) (N := 8) (fun u q => u.w (.ofNat 3 q)) (poppedTok s)
      (fun u r ea q hu hr hq => by
        rw [← poppedTok_congr hu]
        refine (w_setW u (.ofNat 3 r) (.ofNat 3 q) _).trans ?_
        simp only [ofNat_inj_of_lt (w := 3) hr hq]
        rfl)
      (a.toNat - d.toNat + 1) d.toNat p s (.refl s) (by have : a.toNat < 8 := ha; omega) r.toNat r.isLt
    simp only [ofNat_toNat_self] at read
    rw [read]
    exact if_congr (by rw [eq_self_iff_true, true_and]; omega) rfl rfl
  · rw [if_neg fun h => hf h.1]
    refine read_popRegs_other (fun u => u.w r) (fun u q ea => ?_) _ _ _
    cases f with
    | w => exact absurd rfl hf
    | g | b | m => exact (congrArg (fun k : Task => vget k.w r.toNat {}) (cur_unslot ..)).trans rfl
end

/-- What a `popm` goes on to once its registers are checked. -/
def pops (s : State) (d a : BitVec 4) (f : RFile) : State :=
  let n := a.toNat - d.toNat + 1
  let size := n * slotBytes f
  let p := sspPtr s.cur.ssp
  if !s.spLd p size then trap s 8 0 (w64 p)
  else if f = .w ∧ p % 64 ≠ 0 then trap s 6 0 (w64 p)
  else
    match if f = .w then none else s.badSlot f p n with
    | some ea => trap s 7 0 (w64 ea)
    | none => advance ((s.popRegs f p (upFrom d.toNat n)).modCur fun x => { x with ssp := sspWith x.ssp (p + size) }) 1
/-- Some register of a range is pending. -/
def pendingReg (s : State) (l : List Nat) : Bool := l.any fun r => (s.g (.ofNat 4 r)).st == .pending
theorem exec_popm (s : State) (d a : BitVec 4) (f : RFile) :
    exec (.popm d a f) s = .next (if f = .g ∧ pendingReg s (upFrom d.toNat (a.toNat - d.toNat + 1)) = true then park s .destPending
      else needFile s f (upFrom d.toNat (a.toNat - d.toNat + 1)) (gate s (pops s d a f))) := rfl

/-- A `popm` whose registers are ready goes on. -/
theorem popm_ready {s : State} {d a : BitVec 4} {f : RFile} (hwf : (Instr.popm d a f).wellFormed = true)
    (hg : ∀ r : BitVec 4, f = .g → d.toNat ≤ r.toNat ∧ r.toNat ≤ a.toNat → s.takes r)
    (hw : ∀ r : BitVec 3, f = .w → d.toNat ≤ r.toNat ∧ r.toNat ≤ a.toNat → s.wBusy r = false)
    (hm : ∀ r : BitVec 2, f = .m → d.toNat ≤ r.toNat ∧ r.toNat ≤ a.toNat → s.mBusy r = false) (hq : s.clearOfAcq) :
    exec (.popm d a f) s = .next (pops s d a f) := by
  obtain ⟨hd, ha⟩ := range_of_wf (w := false) (.inr hwf)
  have clear : ¬ (f = .g ∧ pendingReg s (upFrom d.toNat (a.toNat - d.toNat + 1)) = true) := by
    rintro ⟨hf, pend⟩
    obtain ⟨r, hr, hst⟩ := List.any_eq_true.1 pend
    rw [mem_range hd] at hr
    have back : (BitVec.ofNat 4 r).toNat = r := by
      rw [BitVec.toNat_ofNat]; exact Nat.mod_eq_of_lt (by have := a.isLt; omega)
    exact hg (.ofNat 4 r) hf (by rw [back]; exact hr) (beq_iff_eq.1 hst)
  rw [exec_popm, if_neg clear, needFile_free _ (free_range hd ha hw hm), gate_clear _ hq]

theorem popmRestoresRegisters : Claims.PopmRestoresRegisters := by
  intro s d a f hwf n size p within marked
  obtain ⟨hd, ha⟩ := range_of_wf (w := false) (.inr hwf)
  have notG : ∀ {g : RFile} {k : State}, g ≠ .g → (if g = .g ∧ pendingReg s (upFrom d.toNat n) = true then park s .destPending else k) = k :=
    fun h => if_neg fun e => h e.1
  rw [exec_popm]
  refine ⟨?_, ?_, ?_, fun hg hw hm hq => ?_⟩
  · rintro ⟨r, rfl, hr, hst⟩
    refine congrArg Host.Outcome.next (if_pos ⟨rfl, List.any_eq_true.2 ⟨r.toNat, (mem_range hd _).2 hr, ?_⟩⟩)
    rw [ofNat_toNat_self, hst]; rfl
  · rintro ⟨r, rfl, hr, busy⟩
    rw [notG (by decide), needFile_busy _ ((mem_range hd _).2 hr)]
    · rfl
    · rwa [busyReg, ofNat_toNat_self]
  · rintro ⟨r, rfl, hr, busy⟩
    rw [notG (by decide), needFile_busy _ ((mem_range hd _).2 hr)]
    · rfl
    · rwa [busyReg, ofNat_toNat_self]
  · have inside : s.spLd p size = true → ¬ (!s.spLd p size) = true := fun h => by rw [h]; decide
    rw [← exec_popm, popm_ready hwf hg hw hm hq]
    refine ⟨fun out => congrArg Host.Outcome.next (if_pos (by rw [show sspPtr s.cur.ssp = p from rfl, out]; rfl)), fun ld hf odd => ?_,
      fun j hj ld hf hm low => ?_, fun ld even clean => ⟨s.popRegs f p (upFrom d.toNat n), ?_, (pops_popRegs f _ s p).1, fun top => ?_,
      popped_g p hd ha, popped_b p hd ha, popped_m p hd ha, fun r => ?_⟩⟩
    · exact congrArg Host.Outcome.next ((if_neg (inside ld)).trans (if_pos ⟨hf, odd⟩))
    · refine congrArg Host.Outcome.next ((if_neg (inside ld)).trans ((if_neg fun h => hf h.1).trans ?_))
      have lowest : s.badSlot f (sspPtr s.cur.ssp) (a.toNat - d.toNat + 1) = some (p + j * slotBytes f) := badSlot_lowest n p hj hm low
      rw [if_neg hf, lowest]
    · refine congrArg Host.Outcome.next ((if_neg (inside ld)).trans ((if_neg fun h => h.2 (even h.1)).trans ?_))
      have none : (if f = .w then none else s.badSlot f (sspPtr s.cur.ssp) (a.toNat - d.toNat + 1)) = none := by
        by_cases hf : f = .w
        · exact if_pos hf
        · exact (if_neg hf).trans (badSlot_none n p (clean hf))
      rw [none]
      rfl
    · exact (ptr_sspWith ..).trans (Nat.mod_eq_of_lt (by omega))
    · rw [popped_w p hd ha r]
      by_cases here : f = .w ∧ within r.toNat
      · rw [if_pos here, if_pos here]
        exact ⟨rfl, rfl, fun j hj => pois_poppedTok s _ hj, rfl, slotKind_ne_marker _, fun h => kindCode_slotKind h⟩
      · rw [if_neg here, if_neg here]

/-- Settles O9: the slots that `pushm` writes and those that `popm` reads. -/
theorem spillStackKeepsRegisters : Obligations.SpillStackKeepsRegisters :=
  ⟨pushmSpillsRegisters, popmRestoresRegisters⟩

end Sys2Proof.Proofs.Spill
end

section
/-! PROOFS. Memory operations at issue, and descriptors read from scratchpad (R119, R125 to R142, R295). -/
namespace Sys2Proof.Proofs.MemIssue
open Sys2Proof Sys2Proof.Machine
set_option Elab.async false

/-! ## The port (R119) -/

/-- An operation handed to the port, with its destination pending. -/
def handed (s : State) (va : VAddr) (d : Option (BitVec 4)) (acq rel : Bool) (kind : OpKind) : State :=
  match d with
  | some r => (s.issueOp va d acq rel kind).markG r .pending
  | none => s.issueOp va d acq rel kind
theorem memIssue_full {s : State} {va : VAddr} {d : Option (BitVec 4)} {acq rel : Bool} {kind : OpKind} (h : s.memqFull = true) :
    memIssue s va d acq rel kind = park s .queue := if_pos h
theorem memIssue_room {s : State} {va : VAddr} {d : Option (BitVec 4)} {acq rel : Bool} {kind : OpKind} (h : s.memqFull = false) :
    memIssue s va d acq rel kind = advance (handed s va d acq rel kind) 1 := if_neg (by rw [h]; decide)
/-- The operation that is handed over. -/
def newOp (s : State) (va : VAddr) (d : Option (BitVec 4)) (acq rel : Bool) (kind : OpKind) : Op :=
  { id := s.newId, tile := s.ctx.tile, slot := s.ctx.slot, phase := s.cur.phase, part := s.curPart, rkey := if s.rcTask then 0 else s.curLt.key,
    va := va, d := d, word := s.cur.pc, mark := (s.tile s.ctx.tile).seq, acq := acq, rel := rel, kind := kind }
/-- The register that a handed operation leaves pending, and every other. -/
theorem g_markG (s : State) (d r : BitVec 4) (st : FE) :
    (s.markG d st).g r = if r = d then { val := (s.g d).val, st := st } else s.g r := by
  unfold State.markG State.g
  rw [cur_modCur, vget_vset _ _ _ _ _ d.isLt]
  simp only [BitVec.toNat_inj]
theorem g_issueOp (s : State) (va : VAddr) (d : Option (BitVec 4)) (acq rel : Bool) (kind : OpKind) (r : BitVec 4) :
    (s.issueOp va d acq rel kind).g r = s.g r := by
  have tasks : ((s.issueOp va d acq rel kind).tile s.ctx.tile).tasks = (s.tile s.ctx.tile).tasks := by
    unfold State.issueOp State.modTile
    rw [tile_setTile, if_pos rfl]
    rfl
  show vget (vget ((s.issueOp va d acq rel kind).tile s.ctx.tile).tasks s.ctx.slot.toNat {}).g r.toNat {} = _
  rw [tasks]
  rfl

theorem memoryOperationsEnterThePort : Claims.MemoryOperationsEnterThePort := by
  intro s va d acq rel kind t
  refine ⟨memIssue_full, fun room => ?_⟩
  have tile : ∀ n, (s.issueOp va d acq rel kind).tile n =
      if n = t then { s.tile t with memq := (s.tile t).memq ++ [s.newId] } else s.tile n := by
    intro n
    unfold State.issueOp State.modTile
    rw [tile_setTile]
    rfl
  refine ⟨newOp s va d acq rel kind, _, memIssue_room room, rfl, rfl, rfl, rfl, rfl, rfl, rfl, rfl, rfl, rfl, rfl, ?_⟩
  cases d with
  | none =>
    refine ⟨rfl, rfl, ?_, nofun, fun r _ => g_issueOp .., rfl, rfl, ?_, fun n h => ?_⟩
    · rw [handed, tile, if_pos rfl]
    · rw [handed, tile, if_pos rfl]
    · rw [handed, tile, if_neg h]
  | some q =>
    obtain ⟨-, tiles, here, -⟩ := onlyTask_modCur (s.issueOp va (some q) acq rel kind) fun k => { k with g := vset k.g q.toNat { val := (vget k.g q.toNat {}).val, st := .pending } }
    refine ⟨rfl, rfl, ?_, fun r h => ?_, fun r h => ?_, rfl, rfl, ?_, fun n h => ?_⟩
    · exact (congrArg Tile.memq here).trans (by rw [show (s.issueOp va (some q) acq rel kind).ctx = s.ctx from rfl, tile, if_pos rfl])
    · cases h
      rw [handed, g_markG, if_pos rfl]
    · rw [handed, g_markG, if_neg (fun e => h (congrArg some e.symm)), g_issueOp]
    · exact (congrArg Tile.spad here).trans (by rw [show (s.issueOp va (some q) acq rel kind).ctx = s.ctx from rfl, tile, if_pos rfl])
    · exact (tiles n h).trans (by rw [tile, if_neg h])

/-! ## Frame operations, atomics and `cp.wait` (R126 to R131, R137, R303) -/

/-- What a word does that hands an operation to the port. -/
def Waits (s : State) (i : Instr) (va : VAddr) (r : Option (BitVec 4)) (acq rel : Bool) (kind : OpKind) : Prop :=
  (s.memqFull = true → exec i s = s.parks .queue) ∧
  (s.memqFull = false →
    exec i s = (match r with | some q => (s.issueOp va r acq rel kind).markG q .pending | none => s.issueOp va r acq rel kind).done)
/-- The same of a word that slot 15 may not issue. -/
def Puts (s : State) (i : Instr) (va : VAddr) (r : Option (BitVec 4)) (acq rel : Bool) (kind : OpKind) : Prop :=
  (s.rcTask = false → Waits s i va r acq rel kind) ∧ (s.rcTask = true → exec i s = .next (s.rcFault s.ctx.tile 0x1F 0 0))
theorem needNoRc_rc {s : State} (k : State) (h : s.rcTask = true) : needNoRc s k = s.rcFault s.ctx.tile 0x1F 0 0 := if_pos h
theorem needNoRc_no {s : State} (k : State) (h : s.rcTask = false) : needNoRc s k = k := if_neg (by rw [h]; decide)
theorem waits_of_exec {s : State} {i : Instr} {va : VAddr} {r : Option (BitVec 4)} {acq rel : Bool} {kind : OpKind}
    (h : exec i s = .next (memIssue s va r acq rel kind)) : Waits s i va r acq rel kind :=
  ⟨fun full => h.trans (congrArg Host.Outcome.next (memIssue_full full)),
    fun room => h.trans (congrArg Host.Outcome.next (memIssue_room room))⟩
theorem puts_of_exec {s : State} {i : Instr} {va : VAddr} {r : Option (BitVec 4)} {acq rel : Bool} {kind : OpKind}
    (h : exec i s = .next (needNoRc s (memIssue s va r acq rel kind))) : Puts s i va r acq rel kind :=
  ⟨fun no => waits_of_exec (h.trans (congrArg Host.Outcome.next (needNoRc_no _ no))),
    fun rc => h.trans (congrArg Host.Outcome.next (needNoRc_rc _ rc))⟩
theorem atAcq_eq (o : AtOrder) : atAcq o = decide (o = .acq ∨ o = .acqrel) := by cases o <;> rfl
theorem atRel_eq (o : AtOrder) : atRel o = decide (o = .rel ∨ o = .acqrel) := by cases o <;> rfl
/-- An atomic puts its operation. -/
theorem puts_of_atIssue {s : State} {d b : BitVec 4} {a : BitVec 3} {v : Bool} {o : AtOrder} {x : DWord} {i : Instr} {op : AtOp}
    (hb : s.full b x) (hd : s.takes d) (hq : s.clearOfAcq) (hr : s.clearOfRel) (h : exec i s = .next (atIssue s d a b v o op)) :
    Puts s i (s.b a) (some d) (decide (o = .acq ∨ o = .acqrel)) (decide (o = .rel ∨ o = .acqrel)) (.atomic op x 0) := by
  rw [← atAcq_eq, ← atRel_eq]
  exact puts_of_exec (h.trans (congrArg Host.Outcome.next ((needG_full _ _ _ hb).trans ((needD_takes _ hd).trans (gateW_clear _ hq hr)))))
/-- The operations that a `cp.wait` awaits: the task's with its identifier. -/
def awaited (s : State) (id : BitVec 16) : List Nat :=
  (s.ops.filter fun o => o.tile == s.ctx.tile && o.slot == s.ctx.slot && o.kind.cpId == some id).map (·.id)
theorem mem_awaited (s : State) (id : BitVec 16) (q : Nat) :
    q ∈ awaited s id ↔ ∃ p ∈ s.ops, p.id = q ∧ p.tile = s.ctx.tile ∧ p.slot = s.ctx.slot ∧ p.kind.cpId = some id := by
  simp only [awaited, List.mem_map, List.mem_filter, Bool.and_eq_true, beq_iff_eq]
  constructor
  · rintro ⟨p, ⟨hp, ⟨tile, slot⟩, cp⟩, e⟩
    exact ⟨p, hp, e, tile, slot, cp⟩
  · rintro ⟨p, hp, e, tile, slot, cp⟩
    exact ⟨p, ⟨hp, ⟨tile, slot⟩, cp⟩, e⟩

theorem frameAndAtomicWordsEnterThePort : Claims.FrameAndAtomicWordsEnterThePort := by
  intro s d b a n v u o c x y hq hb acq rel ver id waits puts
  have version : ∀ (i : Instr) (k : Nat → FrOp), s.clearOfRel → exec i s = .next (frVersion s a b v k) →
      Puts s i (s.b a) none false false (.frame (k ver) false) := fun i k hr h =>
    puts_of_exec (h.trans (congrArg Host.Outcome.next ((needG_full _ _ _ hb).trans (gateW_clear _ hq hr))))
  have init : s.clearOfRel → Puts s (.frInit a n) (s.b a) none false false (.frame (.init (n.toNat + 1)) false) := fun hr =>
    puts_of_exec (congrArg Host.Outcome.next (gateW_clear _ hq hr))
  have atomics : s.clearOfRel → s.takes d →
      ∀ i ∈ ([(.atAdd d a b v o c, .add), (.atMin d a b v u o c, .min u), (.atMax d a b v u o c, .max u), (.atAnd d a b v o c, .and),
        (.atOr d a b v o c, .or), (.atXchg d a b v o c, .xchg)] : List (Instr × AtOp)),
        Puts s i.1 (s.b a) (some d) (decide (o = .acq ∨ o = .acqrel)) (decide (o = .rel ∨ o = .acqrel)) (.atomic i.2 x 0) := fun hr hd => by
    simp only [List.forall_mem_cons]
    exact ⟨puts_of_atIssue hb hd hq hr rfl, puts_of_atIssue hb hd hq hr rfl, puts_of_atIssue hb hd hq hr rfl,
      puts_of_atIssue hb hd hq hr rfl, puts_of_atIssue hb hd hq hr rfl, puts_of_atIssue hb hd hq hr rfl, List.forall_mem_nil _⟩
  have cas : s.clearOfRel → s.full d y →
      Puts s (.atCas d a b v o c) (s.b a) (some d) (decide (o = .acq ∨ o = .acqrel)) (decide (o = .rel ∨ o = .acqrel)) (.atomic .cas x y) :=
    fun hr hy => by
    have st : (s.g d).st = .full := congrArg GReg.st hy
    have val : (s.g d).val = y := congrArg GReg.val hy
    rw [← atAcq_eq, ← atRel_eq]
    refine puts_of_exec (congrArg Host.Outcome.next ((needG_full _ _ _ hb).trans ?_))
    rw [st, val]
    exact gateW_clear _ hq hr
  refine ⟨fun hr => ⟨init hr, version _ .recl hr rfl, version _ .pin hr rfl, version _ .unpin hr rfl, atomics hr, cas hr⟩, fun hd => ?_⟩
  have delivers : ∀ k, needD s d (gate s k) = k := fun k => (needD_takes _ hd).trans (gate_clear _ hq)
  have wait : Waits s (.frWait d a b v) (s.b a) (some d) true false (.frame (.wait ver) false) :=
    waits_of_exec (congrArg Host.Outcome.next ((needG_full _ _ _ hb).trans (delivers _)))
  have statNew : Puts s (.frStat d a none) (s.b a) (some d) false false (.frame (.stat none) false) :=
    puts_of_exec (congrArg Host.Outcome.next (delivers _))
  have statOf : Puts s (.frStat d a (some (b, v))) (s.b a) (some d) false false (.frame (.stat (some ver)) false) :=
    puts_of_exec (congrArg Host.Outcome.next ((needG_full _ _ _ hb).trans (delivers _)))
  have cpWait : Waits s (.cpWait d b v) 0 (some d) true false (.cpWait id (awaited s id) ((alGet s.cur.cps id.toNat).getD 0)) :=
    waits_of_exec (congrArg Host.Outcome.next ((needG_full _ _ _ hb).trans (delivers _)))
  exact ⟨wait, statNew, statOf, awaited s id, cpWait, mem_awaited s id⟩

/-- Settles O26: the port, and the words that use it. -/
theorem memoryWordsEnterThePort : Obligations.MemoryWordsEnterThePort :=
  ⟨memoryOperationsEnterThePort, frameAndAtomicWordsEnterThePort⟩

/-! ## Descriptors (R127, R135, R139 to R142, R295) -/

section
variable {s : State} {x : DWord} {n : Nat} {k : Nat → State}
theorem needBlock_range (h : s.spLd x.toNat n = false) : needBlock s x n k = trap s 5 0 x := if_pos (by rw [h]; rfl)
theorem needBlock_align (h : s.spLd x.toNat n = true) (odd : x.toNat % 64 ≠ 0) : needBlock s x n k = trap s 6 0 x :=
  (if_neg (by rw [h]; decide)).trans (if_pos odd)
theorem needBlock_ok (h : s.spLd x.toNat n = true) (even : x.toNat % 64 = 0) : needBlock s x n k = k x.toNat :=
  (if_neg (by rw [h]; decide)).trans (if_neg (not_not_intro even))
end
theorem w64_self (x : DWord) : w64 x.toNat = x := by rw [w64, BitVec.ofNat_toNat, BitVec.setWidth_eq]
theorem memqFull_countCp (s : State) (id : BitVec 16) : (s.countCp id).memqFull = s.memqFull := by
  obtain ⟨-, -, tile, -⟩ := onlyTask_modCur s fun k => { k with cps := alSet k.cps id.toNat ((alGet k.cps id.toNat).getD 0 + 1) }
  have full := congrArg (fun z : Tile => decide (16 ≤ z.memq.length)) tile
  exact full
/-- A card or collective enters the port, or parks. -/
theorem cpIssue_full {s : State} {va : VAddr} {rel : Bool} {id : BitVec 16} {kind : OpKind}
    (h : 16 ≤ s.cardsOut s.ctx.tile ∨ s.memqFull = true) : cpIssue s va rel id kind = park s .queue := if_pos h
theorem cpIssue_room {s : State} {va : VAddr} {rel : Bool} {id : BitVec 16} {kind : OpKind}
    (h : ¬ (16 ≤ s.cardsOut s.ctx.tile ∨ s.memqFull = true)) :
    cpIssue s va rel id kind = advance ((s.countCp id).issueOp va none false rel kind) 1 := by
  refine (if_neg h).trans (memIssue_room ?_)
  rw [memqFull_countCp, ← Bool.not_eq_true]
  exact fun full => h (.inr full)

/-- What a word does that reads a block of n bytes at x and goes on with it: its checks, and then `k`. -/
def ReadsBlock (s : State) (x : DWord) (n : Nat) (i : Instr) (k : State) : Prop :=
  (s.spLd x.toNat n = false → exec i s = s.traps 5 0 x) ∧
  (s.spLd x.toNat n = true → x.toNat % 64 ≠ 0 → exec i s = s.traps 6 0 x) ∧
  (s.spLd x.toNat n = true → x.toNat % 64 = 0 → exec i s = .next k)
theorem readsBlock_of_exec {s : State} {x : DWord} {n : Nat} {i : Instr} {k : Nat → State} (h : exec i s = .next (needBlock s x n k)) :
    ReadsBlock s x n i (k x.toNat) :=
  ⟨fun out => h.trans (congrArg Host.Outcome.next (needBlock_range out)),
    fun inn odd => h.trans (congrArg Host.Outcome.next (needBlock_align inn odd)),
    fun inn even => h.trans (congrArg Host.Outcome.next (needBlock_ok inn even))⟩

/-- What a word does with a block that must pass a check: a trap, the end of the recompute, or its entry into the port. -/
def Checks (s : State) (i : Instr) (ok : Bool) (cause : Nat) (x : DWord) (full : Prop) (entered : State) : Prop :=
  (ok = false → exec i s = s.traps cause 0 x) ∧
  (ok = true → s.rcTask = true → exec i s = .next (s.rcFault s.ctx.tile 0x1F 0 0)) ∧
  (ok = true → s.rcTask = false → (full → exec i s = s.parks .queue) ∧ (¬ full → exec i s = entered.done))
theorem checks_of_exec {s : State} {i : Instr} {ok : Bool} {cause : Nat} {x : DWord} {full : Prop} {entered k : State}
    (h : exec i s = .next (if !ok then trap s cause 0 (w64 x.toNat) else needNoRc s k)) (hf : full → k = park s .queue)
    (he : ¬ full → k = advance entered 1) : Checks s i ok cause x full entered := by
  rw [w64_self] at h
  refine ⟨fun bad => ?_, fun good rc => ?_, fun good no => ?_⟩
  · rw [h, bad]; rfl
  · rw [h, good]
    exact congrArg Host.Outcome.next (needNoRc_rc _ rc)
  · have enters : exec i s = .next k := by
      rw [h, good]
      exact congrArg Host.Outcome.next (needNoRc_no _ no)
    exact ⟨fun f => by rw [enters, hf f]; rfl, fun f => by rw [enters, he f]; rfl⟩

/-- What a recipe, a card and a collective go on with once their block may be read. -/
def recipeWord (s : State) (a : BitVec 3) (ea : Nat) : State :=
  if !recipeOk (s.spWords ea 16) then trap s 21 0 (w64 ea)
  else needNoRc s (memIssue s (s.b a) none false false (.frame (.recipe (recipeOf s.curPart (s.spWords ea 16))) false))
def cardWord (s : State) (ea : Nat) : State :=
  if !cardOk (s.spWords ea 8) then trap s 19 0 (w64 ea)
  else needNoRc s (cpIssue s (vaOf (cardOf (s.spWords ea 8)).dwin (cardOf (s.spWords ea 8)).doff) false (cardOf (s.spWords ea 8)).id
    (.card (cardOf (s.spWords ea 8)) false 0 [] []))
def collWord (s : State) (op : ClOp) (ea : Nat) : State :=
  if !collOk op (s.spWords ea 8) then trap s 20 0 (w64 ea)
  else needNoRc s (cpIssue s (vaOf (collOf op (s.spWords ea 8)).dwin (collOf op (s.spWords ea 8)).doff) true
    (collOf op (s.spWords ea 8)).id (.coll (collOf op (s.spWords ea 8)) [] none 0))

/-- Settles O27: the block is read, checked, and handed over. -/
theorem descriptorsAreCheckedAtIssue : Obligations.DescriptorsAreCheckedAtIssue := by
  intro s a b v x hq hr hb rc
  have reads : ∀ (n : Nat) (k : Nat → State), needG s b v 5 (fun x => gateW s (needBlock s x n k)) = needBlock s x n k ∧
      needG s b v 4 (fun x => gateW s (needBlock s x n k)) = needBlock s x n k := fun n k =>
    ⟨(needG_full _ _ _ hb).trans (gateW_clear _ hq hr), (needG_full _ _ _ hb).trans (gateW_clear _ hq hr)⟩
  have recipe : ReadsBlock s x 128 (.frRecipe a b v) (recipeWord s a x.toNat) := readsBlock_of_exec (k := recipeWord s a) (congrArg Host.Outcome.next (reads _ _).1)
  have card : ReadsBlock s x 64 (.cpJob b v) (cardWord s x.toNat) := readsBlock_of_exec (k := cardWord s) (congrArg Host.Outcome.next (reads _ _).2)
  have colls : ∀ i ∈ ([(.clGather b v, .gather), (.clScatter b v, .scatter), (.clReduce b v, .reduce), (.clSend b v, .send),
      (.clRecv b v, .recv)] : List (Instr × ClOp)), ReadsBlock s x 64 i.1 (collWord s i.2 x.toNat) := by
    simp only [List.forall_mem_cons]
    have reads_coll : ∀ (i : Instr) (op : ClOp), exec i s = .next (clIssue s b v op) → ReadsBlock s x 64 i (collWord s op x.toNat) := fun i op h =>
      readsBlock_of_exec (k := collWord s op) (h.trans (congrArg Host.Outcome.next (reads _ _).2))
    exact ⟨reads_coll _ _ rfl, reads_coll _ _ rfl, reads_coll _ _ rfl, reads_coll _ _ rfl, reads_coll _ _ rfl, List.forall_mem_nil _⟩
  have enters : ∀ {i : Instr} {ok : Bool} {cause : Nat} {va : VAddr} {rel : Bool} {id : BitVec 16} {kind : OpKind},
      exec i s = .next (if !ok then trap s cause 0 (w64 x.toNat) else needNoRc s (cpIssue s va rel id kind)) →
      Checks s i ok cause x (16 ≤ s.cardsOut s.ctx.tile ∨ s.memqFull = true) ((s.countCp id).issueOp va none false rel kind) := fun h =>
    checks_of_exec h cpIssue_full cpIssue_room
  refine ⟨?_, fun inn even => ?_, fun inn even => ?_⟩
  · have bounds : ∀ {n : Nat} {i : Instr} {k : State}, ReadsBlock s x n i k → (s.spLd x.toNat n = false → exec i s = s.traps 5 0 x) ∧
        (s.spLd x.toNat n = true → x.toNat % 64 ≠ 0 → exec i s = s.traps 6 0 x) := fun h => ⟨h.1, h.2.1⟩
    simp only [List.forall_mem_cons] at colls ⊢
    obtain ⟨gather, scatter, reduce, send, recv, -⟩ := colls
    exact ⟨bounds recipe, bounds card, bounds gather, bounds scatter, bounds reduce, bounds send, bounds recv, List.forall_mem_nil _⟩
  · obtain ⟨bad, rec, good⟩ := checks_of_exec (full := s.memqFull = true) (recipe.2.2 inn even) memIssue_full
      (entered := s.issueOp (s.b a) none false false (.frame (.recipe (recipeOf s.curPart (s.spWords x.toNat 16))) false))
      fun room => memIssue_room (by simpa using room)
    exact ⟨bad, rec, fun ok no => ⟨(good ok no).1, fun room => (good ok no).2 (by rw [room]; decide)⟩⟩
  · obtain ⟨bad, rec, good⟩ := enters (card.2.2 inn even)
    exact ⟨bad, rec, good, fun i hi => enters ((colls i hi).2.2 inn even)⟩

end Sys2Proof.Proofs.MemIssue
end

section
/-! PROOFS. Stream command words at issue (R95, R101, R104, R109 to R113, R229, R290). -/
namespace Sys2Proof.Proofs.StreamIssue
open Sys2Proof Sys2Proof.Machine
open Sys2Proof.Proofs.Spill
set_option Elab.async false

/-! ## Commands of data (R104) -/

/-- A word that no run queued before it holds back goes on. -/
theorem needRuns_free {s : State} (k : State) (h : s.ctx.unit ≠ .task ∨ (s.tile s.ctx.tile).sq = []) : needRuns s k = k := by
  unfold needRuns
  split
  next e =>
    obtain h | h := h
    · exact absurd e h
    · rw [h]; rfl
  next => rfl
/-- The version that a command's register names. -/
def VersionIs (s : State) (v : Option (BitVec 4 × Bool)) (ver : Option (BitVec 32)) : Prop :=
  match v with
  | none => ver = none
  | some (r, _) => ∃ x : DWord, s.full r x ∧ ver = some (x.extractLsb' 0 32)
/-- A data command with its version register read. -/
def dataGo (s : State) (e : EngineId) (pcb : Option (BitVec 13)) (bad : Option (Nat × DWord)) (c : Cmd) : State :=
  gateW s (
    let a := (pcb.map fun p => p.toNat * 64).getD 0
    if pcb.isSome && !s.spLd a 64 then trap s 5 0 (w64 a)
    else match bad with
      | some (c, x) => trap s c 0 x
      | none => needRuns s (
          let g := s.engine s.ctx.tile e
          if 2 ≤ g.cmds.length then park s.setMark .queue
          else advance ((s.setEngine s.ctx.tile e { g with wait := g.wait ++ [c] }).modTile s.ctx.tile fun x => { x with seq := x.seq + 1 }) 4))
section
variable {s : State} {e : EngineId} {pcb : Option (BitVec 13)} {bad : Option (Nat × DWord)} {mk : Option (BitVec 32) → Cmd}
theorem dataCmd_some (r : BitVec 4) (w : Bool) :
    dataCmd s e (some (r, w)) pcb bad mk = needG s r w 5 fun x => dataGo s e pcb bad (mk (some (x.setWidth 32))) := rfl
theorem dataCmd_blocked {i : Instr} {r : BitVec 4} {w : Bool} (h : exec i s = .next (dataCmd s e (some (r, w)) pcb bad mk))
    (hr : (s.g r).st ≠ .full) : exec i s = s.blocked r w 5 := by
  rw [h, blocked_eq, dataCmd_some, needG_not_full _ _ _ hr]
theorem dataCmd_ready {v : Option (BitVec 4 × Bool)} {ver : Option (BitVec 32)}
    (hv : VersionIs s v ver) :
    dataCmd s e v pcb bad mk = dataGo s e pcb bad (mk ver) := by
  match v with
  | none => rw [show ver = none from hv]; rfl
  | some (r, w) =>
    obtain ⟨x, hx, rfl⟩ := hv
    rw [← BitVec.setWidth_eq_extractLsb' (by decide), dataCmd_some, needG_full _ _ _ hx]
end

/-- What a data command does whose operands are ready: the checks of its PCB and endpoints, and its place in the engine's queue. -/
def Joins (s : State) (i : Instr) (e : BitVec 3) (pcb : BitVec 13) (ends : List (Option (Nat × DWord))) (c : Cmd) : Prop :=
  let t := s.ctx.tile
  let g := s.engine t (s.engId e)
  (s.spLd (pcb.toNat * 64) 64 = false → exec i s = s.traps 5 0 (w64 (pcb.toNat * 64))) ∧
  (s.spLd (pcb.toNat * 64) 64 = true →
    (∀ c x, ends.find? (·.isSome) = some (some (c, x)) → exec i s = s.traps c 0 x) ∧
    ((∀ q ∈ ends, q = none) →
      (g.cmds.length < 2 → exec i s = .next (advance ((s.setEngine t (s.engId e) { g with wait := g.wait ++ [c] }).modTile t
        fun x => { x with seq := x.seq + 1 }) 4)) ∧
      (2 ≤ g.cmds.length → exec i s = (s.setMark).parks .queue)))
section
variable {s : State} (hq : s.clearOfAcq) (hr : s.clearOfRel) (hu : s.ctx.unit ≠ .task ∨ (s.tile s.ctx.tile).sq = [])
include hq hr hu
theorem dataGo_bound {e : EngineId} {pcb : BitVec 13} (bad : Option (Nat × DWord)) (c : Cmd) (h : s.spLd (pcb.toNat * 64) 64 = false) :
    dataGo s e (some pcb) bad c = trap s 5 0 (w64 (pcb.toNat * 64)) :=
  (gateW_clear _ hq hr).trans (if_pos (by show (true && !s.spLd (pcb.toNat * 64) 64) = true; rw [h]; rfl))
theorem dataGo_bad {e : EngineId} {pcb : BitVec 13} {n : Nat} {x : DWord} (c : Cmd) (h : s.spLd (pcb.toNat * 64) 64 = true) :
    dataGo s e (some pcb) (some (n, x)) c = trap s n 0 x :=
  (gateW_clear _ hq hr).trans (if_neg (by show ¬ (true && !s.spLd (pcb.toNat * 64) 64) = true; rw [h]; decide))
theorem dataGo_queue {e : EngineId} {pcb : Option (BitVec 13)} (c : Cmd) (h : ∀ p ∈ pcb, s.spLd (p.toNat * 64) 64 = true) :
    dataGo s e pcb none c = if 2 ≤ (s.engine s.ctx.tile e).cmds.length then park s.setMark .queue
      else advance ((s.setEngine s.ctx.tile e { s.engine s.ctx.tile e with wait := (s.engine s.ctx.tile e).wait ++ [c] }).modTile s.ctx.tile
        fun x => { x with seq := x.seq + 1 }) 4 := by
  refine (gateW_clear _ hq hr).trans ((if_neg ?_).trans (needRuns_free _ hu))
  cases pcb with
  | none => exact Bool.false_ne_true
  | some p =>
    show ¬ (true && !s.spLd (p.toNat * 64) 64) = true
    rw [h p rfl]; decide
/-- The first endpoint that is refused is the trap. -/
theorem joins_of_exec {i : Instr} {e : BitVec 3} {v : Option (BitVec 4 × Bool)} {ver : Option (BitVec 32)} {pcb : BitVec 13}
    {bad : Option (Nat × DWord)} {ends : List (Option (Nat × DWord))} {mk : Option (BitVec 32) → Cmd}
    (h : exec i s = .next (dataCmd s (s.engId e) v (some pcb) bad mk)) (first : ends.find? (·.isSome) = bad.map some)
    (hv : VersionIs s v ver) :
    Joins s i e pcb ends (mk ver) := by
  rw [dataCmd_ready hv] at h
  refine ⟨fun out => ?_, fun inn => ⟨fun n x hb => ?_, fun none => ?_⟩⟩
  · rw [h, dataGo_bound hq hr hu _ _ out]; rfl
  · rw [first, Option.map_eq_some_iff] at hb
    obtain ⟨_, hb, e⟩ := hb
    cases e
    rw [h, hb, dataGo_bad hq hr hu _ inn]; rfl
  · have clear : bad = .none := by
      rw [List.find?_eq_none.2 fun q hq => by rw [none q hq]; decide] at first
      exact Option.map_eq_none_iff.1 first.symm
    rw [h, clear, dataGo_queue hq hr hu _ (fun p hp => by cases hp; exact inn)]
    exact ⟨fun room => congrArg Host.Outcome.next (if_neg (Nat.not_le.2 room)), fun full => congrArg Host.Outcome.next (if_pos full)⟩
end
theorem find?_one {α : Type} (b : Option α) : [b].find? (·.isSome) = b.map some := by cases b <;> rfl
theorem find?_two {α : Type} (b c : Option α) : [b, c].find? (·.isSome) = (b.or c).map some := by cases b <;> cases c <;> rfl

theorem streamCommandsJoinTheirQueue : Claims.StreamCommandsJoinTheirQueue := by
  intro s e ep p ix b pid pcb v ver pr xf disp tag eos t cmd first
  refine ⟨?_, fun hq hr hu => ⟨?_, ?_⟩⟩
  · rintro r w rfl hr
    simp only [List.forall_mem_cons]
    exact ⟨dataCmd_blocked rfl hr, dataCmd_blocked rfl hr, dataCmd_blocked rfl hr, dataCmd_blocked rfl hr, List.forall_mem_nil _⟩
  · intro i hi
    simp only [List.mem_cons, List.not_mem_nil, or_false] at hi
    obtain rfl | rfl | rfl | rfl := hi
    · exact fun hv => joins_of_exec (mk := fun ver => { s.mkCmd .read ep pcb b ver disp with pid := pr, xf := xf, tag := tag, eos := eos })
        hq hr hu rfl (find?_one _) hv
    · exact fun hv => joins_of_exec (mk := fun ver => { s.mkCmd .write (.port p) pcb b ver disp with pid := pr, xf := xf })
        hq hr hu rfl (find?_one _) hv
    · exact fun hv => joins_of_exec (mk := fun ver => { s.mkCmd .ind ep pcb b ver disp with ix := some ix, pid := pr, xf := xf, tag := tag, eos := eos })
        hq hr hu rfl (find?_two _ _) hv
    · exact fun hv => joins_of_exec (mk := fun ver => { s.mkCmd .syn (.port p) pcb b ver disp with tag := tag, eos := eos })
        hq hr hu rfl (find?_one _) hv
  · have go : exec (.sPrism e b pid disp) s =
        .next (dataGo s (s.engId (e.setWidth 3)) none none { s.mkCmd .prism (.ring 0) 0 b none disp with pid := some pid }) := rfl
    rw [go, dataGo_queue hq hr hu _ (fun p hp => by cases hp)]
    exact ⟨fun room => congrArg Host.Outcome.next (if_neg (Nat.not_le.2 room)), fun full => congrArg Host.Outcome.next (if_pos full)⟩

/-! ## `s.bar`, `s.stop`, `s.stat` (R109 to R111) -/

/-- A status word put together from its parts. -/
def statSum (head win m : Nat) (stop run : Bool) : Nat := head % 2 ^ 32 * 2 ^ 32 + win * 2 ^ 24 + stop.toNat * 256 + m * 16 + run.toNat
theorem stat_fields (head win m : Nat) (stop run : Bool) (hm : m ≤ 2) :
    let v := w64 (statSum head win m stop run)
    v.getLsbD 0 = run ∧ bfld v 3 1 = 0 ∧ bfld v 7 4 = m ∧ v.getLsbD 8 = stop ∧ bfld v 23 9 = 0 ∧
      (win < 256 → bfld v 31 24 = win ∧ bfld v 63 32 = head % 2 ^ 32) := by
  have h1 := stop.toNat_lt
  have h2 := run.toNat_lt
  intro v
  have val : v.toNat = (head % 2 ^ 32 * 2 ^ 32 + win * 2 ^ 24 + stop.toNat * 256 + m * 16 + run.toNat) % 2 ^ 64 := BitVec.toNat_ofNat ..
  unfold bfld fld BitVec.getLsbD
  rw [val, Nat.testBit_eq_decide_div_mod_eq, Nat.testBit_eq_decide_div_mod_eq]
  refine ⟨?_, by omega, by omega, ?_, by omega, fun h => ⟨by omega, by omega⟩⟩
  · cases run <;> simp <;> omega
  · cases stop <;> simp <;> omega

theorem statWord_idle {x : Engine} (h : x.cur = none) : statWord x = statSum 0 0 (min 2 x.cmds.length) x.stop.isSome false := by
  simp [statWord, statSum, h]
/-- The tokens of a running read command that its window holds. -/
def windowOf (r : CmdRun) : Nat := if r.cmd.kind = .write ∨ r.next = 0 then 0 else (r.next - 1) / r.perTok + 1 - r.out
theorem statWord_runs {x : Engine} {r : CmdRun} (h : x.cur = some r) :
    statWord x = statSum r.head (windowOf r) (min 2 x.cmds.length) x.stop.isSome true := by
  simp [statWord, statSum, windowOf, h]

theorem streamControlWords : Claims.StreamControlWords := by
  intro s e g t x
  refine ⟨⟨fun h => congrArg Host.Outcome.next (if_pos h), fun h => congrArg Host.Outcome.next (if_neg (by rw [h]; decide))⟩,
    fun hu => congrArg Host.Outcome.next (needRuns_free _ hu), fun hu hs hg => ?_, fun hu => congrArg Host.Outcome.next (if_pos hu)⟩
  refine ⟨w64 (statWord x), ?_, ?_⟩
  · refine congrArg Host.Outcome.next ((if_neg (by rw [hu]; decide)).trans ((needD_takes _ hg).trans (needRuns_free _ (.inr hs))))
  · cases hc : x.cur with
    | none =>
      rw [statWord_idle hc]
      obtain ⟨run, z1, cmds, stop, z2, rest⟩ := stat_fields 0 0 (min 2 x.cmds.length) x.stop.isSome false (Nat.min_le_left ..)
      obtain ⟨win, head⟩ := rest (by decide)
      refine ⟨run, z1, cmds, stop, z2, fun _ => ?_, fun r hr => absurd hr.symm (Option.some_ne_none r)⟩
      unfold bfld fld at *
      omega
    | some r =>
      rw [statWord_runs hc]
      obtain ⟨run, z1, cmds, stop, z2, rest⟩ := stat_fields r.head (windowOf r) (min 2 x.cmds.length) x.stop.isSome true (Nat.min_le_left ..)
      refine ⟨run, z1, cmds, stop, z2, fun h => absurd h (Option.some_ne_none r), fun q hq => ?_⟩
      obtain rfl := Option.some.inj hq
      exact rest

/-- Settles O25: the queue of a command, and the words that wait on or read it. -/
theorem streamWordsJoinTheirQueue : Obligations.StreamWordsJoinTheirQueue :=
  ⟨streamCommandsJoinTheirQueue, streamControlWords⟩

end Sys2Proof.Proofs.StreamIssue
end

section
/-! PROOFS. System registers (R29, R54, R74, R81, R82). -/
namespace Sys2Proof.Proofs.SystemRegs
open Sys2Proof Sys2Proof.Machine
open Sys2Proof.Proofs.Bits
set_option Elab.async false

/-! ## sysr (R81, R82) -/

theorem getLsbD_w64 {n k : Nat} (h : k < 64) : (w64 n).getLsbD k = n.testBit k := by
  rw [w64, BitVec.getLsbD_ofNat, decide_eq_true h, Bool.true_and]
theorem fltq_lt (x : Tile) : x.fltq < 256 := by
  have := unchunk_lt 1 (x.eng.toList.map fun e => (e.stop.isSome || e.flt).toNat)
  simpa [Tile.fltq] using this
/-- Bit e of FLTQ is that of engine e. -/
theorem testBit_fltq (x : Tile) (e : BitVec 3) :
    x.fltq.testBit e.toNat = ((x.engine (.eng e)).stop.isSome || (x.engine (.eng e)).flt) := by
  have bit := unchunk_div_mod 1 (x.eng.toList.map fun e => (e.stop.isSome || e.flt).toNat) e.toNat
  rw [Nat.one_mul, Nat.pow_one] at bit
  have len : e.toNat < x.eng.toList.length := by rw [Vector.length_toList]; exact e.isLt
  rw [Nat.testBit_eq_decide_div_mod_eq, Tile.fltq, bit]
  show decide ((_ : List Nat).getD e.toNat 0 % 2 = 1) = ((vget x.eng e.toNat {}).stop.isSome || (vget x.eng e.toNat {}).flt)
  rw [vget, List.getD_eq_getElem _ _ len, List.getD_eq_getElem _ _ (by simpa using len), List.getElem_map]
  cases (x.eng.toList[e.toNat].stop.isSome || x.eng.toList[e.toNat].flt) <;> rfl

theorem sysrReadsTheRegister : Claims.SysrReadsTheRegister := by
  intro s g hg x r
  refine ⟨s.sysReg r, congrArg Host.Outcome.next (needD_takes _ hg), ?_⟩
  cases r with
  | tileid =>
    have h1 := s.curLt.lx.isLt
    have h2 := s.curLt.ly.isLt
    have low : ((s.region s.curLt.key).map (·.graph.toNat)).getD 0 < 2 ^ 32 := by
      cases s.region s.curLt.key with
      | none => decide
      | some q => exact q.graph.isLt
    have val : (s.sysReg .tileid).toNat = (s.curLt.lx.toNat + 256 * s.curLt.ly.toNat + 65536 * (((s.region s.curLt.key).map (·.graph.toNat)).getD 0)) % 2 ^ 64 :=
      BitVec.toNat_ofNat ..
    show bfld (s.sysReg .tileid) 7 0 = s.curLt.lx.toNat ∧ bfld (s.sysReg .tileid) 15 8 = s.curLt.ly.toNat ∧ _
    unfold bfld fld
    rw [val]
    refine ⟨by omega, by omega, by omega, fun q hq => ?_⟩
    have graph : ((s.region s.curLt.key).map (·.graph.toNat)).getD 0 = q.graph.toNat := by
      rw [show s.region s.curLt.key = some q from hq]; rfl
    omega
  | taskid =>
    have h1 := s.cur.img.isLt
    have h2 := s.cur.high.toNat_lt
    have val : (s.sysReg .taskid).toNat = (s.cur.img.toNat + 16 * s.cur.high.toNat) % 2 ^ 64 := BitVec.toNat_ofNat ..
    show bfld (s.sysReg .taskid) 3 0 = s.cur.img.toNat ∧ _
    unfold bfld fld
    rw [val]
    exact ⟨by omega, by omega, by omega⟩
  | acr => exact BitVec.toNat_setWidth_of_le (by decide)
  | fltq =>
    have low := fltq_lt (s.tile s.ctx.tile)
    refine ⟨fun e => (getLsbD_w64 (by have := e.isLt; omega)).trans (testBit_fltq _ e), ?_⟩
    have val : (s.sysReg .fltq).toNat = (s.tile s.ctx.tile).fltq % 2 ^ 64 := BitVec.toNat_ofNat ..
    show (s.sysReg .fltq).toNat / 2 ^ 8 % 2 ^ 56 = 0
    rw [val]
    omega
  | ssp | cyc | ntile | nlane | nfmt | npc | tcause | tpc | tval => rfl

/-! ## sysw (R29, R74, R81, R82) -/

/-- A write to ACR: NANHIT is cleared by a one, the rest is written. -/
theorem acr_written (acr : BitVec 4) (x : DWord) : ((acr &&& 8) &&& ~~~(x.setWidth 4 &&& 8)) ||| (x.setWidth 4 &&& 7) =
    BitVec.ofBool (acr.getLsbD 3 && !x.getLsbD 3) ++ x.extractLsb' 0 3 := by
  apply BitVec.eq_of_getLsbD_eq
  intro i hi
  have bits : ∀ i < 4, (8 : BitVec 4).getLsbD i = decide (i = 3) ∧ (7 : BitVec 4).getLsbD i = decide (i < 3) := by decide
  obtain ⟨eight, seven⟩ := bits i hi
  simp only [BitVec.getLsbD_or, BitVec.getLsbD_and, BitVec.getLsbD_not, BitVec.getLsbD_setWidth, eight, seven, BitVec.getLsbD_append,
    BitVec.getLsbD_extractLsb', BitVec.getLsbD_ofBool, hi, decide_true, Bool.true_and, Nat.zero_add]
  by_cases top : i = 3
  · subst top; simp
  · simp [top, show i < 3 by omega]
/-- A write to SSP: its two fields, and zeros. -/
theorem ssp_written (x : DWord) (n : Nat) (hn : n < 64) :
    (x &&& 0x0007_FFF8_0007_FFF8).getLsbD n = (x.getLsbD n && decide (3 ≤ n ∧ n ≤ 18 ∨ 35 ≤ n ∧ n ≤ 50)) := by
  have mask : ∀ n < 64, (0x0007_FFF8_0007_FFF8 : DWord).getLsbD n = decide (3 ≤ n ∧ n ≤ 18 ∨ 35 ≤ n ∧ n ≤ 50) := by decide
  rw [BitVec.getLsbD_and, mask n hn]
theorem tpc_written (x : DWord) : x &&& 0x1FFF = .ofNat 64 (x.toNat % 8192) := by
  apply BitVec.eq_of_toNat_eq
  rw [BitVec.toNat_and, BitVec.toNat_ofNat]
  have low := Nat.and_two_pow_sub_one_eq_mod x.toNat 13
  exact low.trans (Nat.mod_eq_of_lt (by omega)).symm

theorem syswWritesWritableFields : Claims.SyswWritesWritableFields := by
  intro s g w x
  refine ⟨fun hg r => ?_, fun hg => ?_⟩
  · rw [blocked_eq]
    exact congrArg Host.Outcome.next (needG_not_full _ _ _ hg)
  · have writes : ∀ r, exec (.sysw g w r) s = (s.sysWrite r x).done := fun r => congrArg Host.Outcome.next (needG_full _ _ _ hg)
    refine ⟨?_, ⟨x &&& 0x0007_FFF8_0007_FFF8, writes .ssp, ssp_written x⟩, ?_, fun r h1 h2 h3 => ?_⟩
    · intro acr
      rw [writes]
      have new : (s.sysWrite .acr x) = s.modCurLt fun y => { y with acr := acr } :=
        congrArg (fun a => s.modCurLt fun y => { y with acr := a }) (acr_written s.curLt.acr x)
      rw [new]
    · rw [writes, ← tpc_written]; rfl
    · rw [writes]
      cases r <;> first | contradiction | rfl

/-- Settles O10: the layouts that are read, and the fields that are written. -/
theorem systemRegistersReadAndWrite : Obligations.SystemRegistersReadAndWrite :=
  ⟨sysrReadsTheRegister, syswWritesWritableFields⟩

end Sys2Proof.Proofs.SystemRegs
end

section
/-! PROOFS. The matrix unit: its items, progress and state; how a word reaches the unit; products (R160, R164, R198 to R212). -/
namespace Sys2Proof.Proofs.MatUnit
open Sys2Proof Sys2Proof.Machine
open Sys2Proof.Proofs.Bits
set_option Elab.async false

/-! ## Progress of the item in hand -/

/-- The unit has an item in hand. -/
def HasItem (s : State) : Prop := (s.tile s.ctx.tile).mq ≠ []
theorem tile_setProg (s : State) (p : MProg) (n : Nat) : (s.setProg p).tile n =
    if n = s.ctx.tile then { s.tile s.ctx.tile with mq := match (s.tile s.ctx.tile).mq with | [] => [] | i :: r => { i with prog := p } :: r }
    else s.tile n := by
  unfold State.setProg
  exact tile_setTile ..
theorem mprog_setProg {s : State} (h : HasItem s) (p : MProg) : (s.setProg p).mprog = p := by
  unfold HasItem at h
  unfold State.mprog State.mitem
  rw [show (s.setProg p).ctx = s.ctx from rfl, tile_setProg, if_pos rfl]
  cases e : (s.tile s.ctx.tile).mq with
  | nil => exact absurd e h
  | cons i r => rfl
theorem hasItem_setProg {s : State} (h : HasItem s) (p : MProg) : HasItem (s.setProg p) := by
  unfold HasItem at h ⊢
  rw [show (s.setProg p).ctx = s.ctx from rfl, tile_setProg, if_pos rfl]
  cases e : (s.tile s.ctx.tile).mq with
  | nil => exact absurd e h
  | cons i r => exact List.cons_ne_nil _ _
theorem cur_setProg (s : State) (p : MProg) : (s.setProg p).cur = s.cur := by
  unfold State.cur State.task
  rw [show (s.setProg p).ctx = s.ctx from rfl, tile_setProg, if_pos rfl]
theorem curLt_setProg (s : State) (p : MProg) : (s.setProg p).curLt = s.curLt := by
  unfold State.curLt State.lt
  rw [cur_setProg, show (s.setProg p).ctx = s.ctx from rfl, tile_setProg, if_pos rfl]
theorem mat_setProg (s : State) (p : MProg) : (s.setProg p).mat = s.mat := by
  unfold State.mat State.rcTask
  rw [curLt_setProg, show (s.setProg p).ctx = s.ctx from rfl, tile_setProg, if_pos rfl]
theorem ring_setProg (s : State) (p : MProg) (r : BitVec 2) : (s.setProg p).ring r = s.ring r := by
  unfold State.ring
  rw [mat_setProg]
theorem hasEntry_setProg (s : State) (p : MProg) (r : BitVec 2) : (s.setProg p).hasEntry r ↔ s.hasEntry r := by
  unfold State.hasEntry
  rw [ring_setProg]
theorem m_setProg (s : State) (p : MProg) (r : BitVec 2) : (s.setProg p).m r = s.m r := by
  unfold State.m
  rw [cur_setProg]

/-! ## Changes of matrix state -/

theorem modMat_ctx (s : State) (f : MatState → MatState) : (s.modMat f).ctx = s.ctx := by
  unfold State.modMat
  split <;> rfl
/-- A change of matrix state leaves the tile's tasks, its scratchpad and the unit's queue. -/
theorem tile_modMat (s : State) (f : MatState → MatState) :
    ((s.modMat f).tile s.ctx.tile).tasks = (s.tile s.ctx.tile).tasks ∧ ((s.modMat f).tile s.ctx.tile).mq = (s.tile s.ctx.tile).mq := by
  unfold State.modMat
  split
  · rw [modTile_eq, tile_setTile, if_pos rfl]
    exact ⟨rfl, rfl⟩
  · unfold State.modCurLt State.modLt State.setLt
    rw [modTile_eq, tile_setTile, if_pos rfl]
    exact ⟨rfl, rfl⟩
theorem cur_modMat (s : State) (f : MatState → MatState) : (s.modMat f).cur = s.cur := by
  unfold State.cur State.task
  rw [modMat_ctx, (tile_modMat s f).1]
theorem m_modMat (s : State) (f : MatState → MatState) (r : BitVec 2) : (s.modMat f).m r = s.m r := by
  unfold State.m
  rw [cur_modMat]
theorem mprog_modMat (s : State) (f : MatState → MatState) : (s.modMat f).mprog = s.mprog := by
  unfold State.mprog State.mitem
  rw [modMat_ctx, (tile_modMat s f).2]
theorem hasItem_modMat {s : State} (h : HasItem s) (f : MatState → MatState) : HasItem (s.modMat f) := by
  unfold HasItem
  rw [modMat_ctx, (tile_modMat s f).2]
  exact h
theorem mprog_noteNan {s : State} (h : HasItem s) (o : Option Nat) :
    (s.noteNan o).mprog.n = s.mprog.n ∧ (s.noteNan o).mprog.count = s.mprog.count := by
  cases o with
  | none => exact ⟨rfl, rfl⟩
  | some l =>
    unfold State.noteNan
    rw [mprog_setProg h]
    exact ⟨rfl, rfl⟩
theorem tellNan_none {s : State} (h : s.mprog.nan = none) (n : Nat) : s.tellNan n = s := by
  unfold State.tellNan
  rw [h]

/-! ## How a word reaches the unit (R199) -/

theorem unit_ne_task {s : State} (h : s.ctx.unit = .minl ∨ s.ctx.unit = .mrun) : s.ctx.unit ≠ .task := by
  obtain h | h := h <;> rw [h] <;> decide
/-- On the unit an item that has not begun is checked, and one that has goes on. -/
theorem matOp_unit {s : State} (i : Instr) (pre : State → State → State) (body : State → State) (h : s.ctx.unit = .minl ∨ s.ctx.unit = .mrun) :
    matOp s i pre body = if s.mprog = {} then pre s (body s) else body s := by
  unfold matOp
  split
  · exact absurd ‹_› (unit_ne_task h)
  · rfl
theorem matOp_starts {s : State} (i : Instr) (pre : State → State → State) (body : State → State) (h : s.unitStarts) :
    matOp s i pre body = pre s (body s) := (matOp_unit i pre body h.1).trans (if_pos h.2.2)
theorem matOp_goesOn {s : State} {p : MProg} (i : Instr) (pre : State → State → State) (body : State → State) (h : s.unitGoesOn p) :
    matOp s i pre body = body s := by
  obtain ⟨unit, -, prog, ne⟩ := h
  exact (matOp_unit i pre body unit).trans (if_neg (by rw [prog]; exact ne))
theorem hasItem_of_starts {s : State} (h : s.unitStarts) : HasItem s := h.2.1
theorem hasItem_of_goesOn {s : State} {p : MProg} (h : s.unitGoesOn p) : HasItem s := h.2.1
theorem needAcc_owns {s : State} {c : BitVec 4} (k : State) (h : s.ownsAcc c) : needAcc s c k = k := by
  refine if_neg fun e => ?_
  rw [Bool.and_eq_true, bne_iff_ne] at e
  exact e.2 (h e.1)
theorem needRing_owns {s : State} {r : BitVec 2} (k : State) (h : s.ownsRing r) : needRing s r k = k := by
  obtain ⟨own, size⟩ := h
  refine if_neg fun e => ?_
  rw [Bool.or_eq_true, Bool.and_eq_true, bne_iff_ne, beq_iff_eq] at e
  obtain ⟨rc, ne⟩ | zero := e
  · exact ne (own rc)
  · exact size zero
theorem preM_free {s : State} {k : Option (BitVec 2)} (t : State) (h : ∀ m ∈ k, s.mBusy m = false) : preM k s t = t := by
  cases k with
  | none => rfl
  | some m => exact needM_free _ (h m rfl)
theorem withEntry_none {s : State} {r : BitVec 2} (k : State → State) (h : ¬ s.hasEntry r) : withEntry s r k = park s .matrix :=
  if_pos (Nat.not_le.1 h)
theorem withEntry_entry {s : State} {r : BitVec 2} (k : State → State) (h : s.hasEntry r) : withEntry s r k = k (s.modMat (·.marks r)) :=
  if_neg (Nat.not_lt.2 h)

/-- Registers of the issuer that every check of a matrix word passes. -/
def Ready (s : State) (x d : BitVec 4) : Prop :=
  (s.g x).st = .full ∧ s.takes d ∧ (∀ q, s.mBusy q = false) ∧ ∀ q, s.wBusy q = false
/-- A check that passes where the registers are ready. -/
def Passes (x d : BitVec 4) (pre : State → State → State) : Prop := ∀ s k, Ready s x d → pre s k = k
theorem passes_noPre (x d : BitVec 4) : Passes x d noPre := fun _ _ _ => rfl
theorem passes_preG (x d : BitVec 4) : Passes x d (preG x) := fun s k ⟨hx, _⟩ => needGT_full _ (Spill.full_of_st hx)
theorem passes_preD (x d : BitVec 4) : Passes x d (preD d) := fun s k ⟨_, hd, _⟩ => needD_takes _ hd
theorem passes_preM (x d : BitVec 4) (k : Option (BitVec 2)) : Passes x d (preM k) := fun s t ⟨_, _, hm, _⟩ => preM_free t fun m _ => hm m
theorem passes_preGM (x d : BitVec 4) (k : Option (BitVec 2)) : Passes x d fun s t => preG x s (preM k s t) := fun s t h =>
  (passes_preG x d s _ h).trans (passes_preM x d k s t h)
theorem passes_preW (x d : BitVec 4) (l : List (BitVec 4)) : Passes x d (preW l) := fun s k ⟨_, _, _, hw⟩ =>
  if_neg (by rw [List.any_eq_true]; rintro ⟨q, _, e⟩; rw [hw q] at e; exact absurd e (by decide))

/-- What the sequencer makes of an inline word whose registers are ready. -/
def Queues (s : State) (i : Instr) : Prop :=
  let y := s.tile s.ctx.tile
  let item : MItem := { slot := s.ctx.slot, seq := y.seq, run := false, pc := s.cur.pc, count := 1, pos := 0, instr := some i, acr := some s.curLt.acr }
  (y.mq ≠ [] → exec i s = .next (park (s.setTile s.ctx.tile { y with seq := y.seq + 1, mq := y.mq ++ [item] }) .matrix)) ∧
  (y.mq = [] → ∃ u : State, exec i { park (s.setTile s.ctx.tile
        { y with seq := y.seq + 1, mq := [item], matPh := s.cur.phase }) .matrix with ctx := { s.ctx with unit := .minl } } = .next u ∧
      exec i s = .next { u with ctx := s.ctx })
/-- The state in which an idle unit takes an inline word up. -/
def takenUp (s : State) (item : MItem) : State :=
  { park (s.setTile s.ctx.tile { s.tile s.ctx.tile with seq := (s.tile s.ctx.tile).seq + 1, mq := [item], matPh := s.cur.phase }) .matrix with
    ctx := { s.ctx with unit := .minl } }
theorem tile_takenUp {s : State} (item : MItem) (hu : s.ctx.unit = .task) : (takenUp s item).tile s.ctx.tile = { s.tile s.ctx.tile with
      seq := (s.tile s.ctx.tile).seq + 1, mq := [item], matPh := s.cur.phase
      tasks := vset (s.tile s.ctx.tile).tasks s.ctx.slot.toNat { s.cur with st := .parked .matrix } } := by
  have parked := park_task (s := s.setTile s.ctx.tile { s.tile s.ctx.tile with seq := (s.tile s.ctx.tile).seq + 1, mq := [item], matPh := s.cur.phase })
    .matrix hu
  show (park _ .matrix).tile s.ctx.tile = _
  rw [parked]
  unfold State.setTask State.modTile State.cur State.task
  simp only [setTile_ctx, tile_setTile, if_pos]
theorem cur_takenUp {s : State} (item : MItem) (hu : s.ctx.unit = .task) : (takenUp s item).cur = { s.cur with st := .parked .matrix } := by
  unfold State.cur State.task
  show vget ((takenUp s item).tile s.ctx.tile).tasks s.ctx.slot.toNat {} = _
  rw [tile_takenUp item hu, vget_vset _ _ _ _ _ s.ctx.slot.isLt, if_pos rfl]
  rfl
/-- The item is in hand then, its progress empty, and the registers are ready still. -/
theorem starts_takenUp {s : State} {item : MItem} (hu : s.ctx.unit = .task) (new : item.prog = {}) : (takenUp s item).unitStarts := by
  have mq : ((takenUp s item).tile s.ctx.tile).mq = [item] := by rw [tile_takenUp item hu]
  refine ⟨.inl rfl, ?_, ?_⟩
  · show ((takenUp s item).tile s.ctx.tile).mq ≠ []
    rw [mq]
    exact List.cons_ne_nil _ _
  · show (((takenUp s item).tile s.ctx.tile).mq.headD _).prog = {}
    rw [mq]
    exact new
theorem ready_takenUp {s : State} {x d : BitVec 4} {item : MItem} (hu : s.ctx.unit = .task) (ready : Ready s x d) : Ready (takenUp s item) x d := by
  obtain ⟨hx, hd, hm, hw⟩ := ready
  have g : ∀ r, (takenUp s item).g r = s.g r := fun r => by
    unfold State.g
    rw [cur_takenUp item hu]
  have pipe : ((takenUp s item).tile s.ctx.tile).vpipe = (s.tile s.ctx.tile).vpipe := by rw [tile_takenUp item hu]
  refine ⟨by rw [g]; exact hx, by unfold State.takes; rw [g]; exact hd, fun q => ?_, fun q => ?_⟩
  · refine (?_ : (takenUp s item).mBusy q = s.mBusy q).trans (hm q)
    unfold State.mBusy
    rw [show (takenUp s item).ctx.tile = s.ctx.tile from rfl, pipe]
    rfl
  · refine (?_ : (takenUp s item).wBusy q = s.wBusy q).trans (hw q)
    unfold State.wBusy
    rw [show (takenUp s item).ctx.tile = s.ctx.tile from rfl, pipe]
    rfl

/-- The item of an inline word. -/
def inlineItem (s : State) (i : Instr) : MItem :=
  { slot := s.ctx.slot, seq := (s.tile s.ctx.tile).seq, run := false, pc := s.cur.pc, count := 1, pos := 0, instr := some i, acr := some s.curLt.acr }
/-- A word of a task joins the unit's queue, and is taken up where that is empty. -/
theorem matOp_task {s : State} (i : Instr) (pre : State → State → State) (body : State → State) (hu : s.ctx.unit = .task) :
    matOp s i pre body = gate s (pre s (
      let y := s.tile s.ctx.tile
      let s1 := park (s.modTile s.ctx.tile fun y => { y with seq := y.seq + 1, mq := y.mq ++ [inlineItem s i]
                                                             matPh := if y.mq.isEmpty then s.cur.phase else y.matPh }) .matrix
      if y.mq.isEmpty then { body { s1 with ctx := { s.ctx with unit := .minl } } with ctx := s.ctx } else s1)) := by
  unfold matOp
  rw [hu]
  rfl
/-- The issuer's tile with another queue of its unit, and the order number moved on. -/
def joined (s : State) (q : List MItem) (ph : BitVec 2) : State :=
  s.setTile s.ctx.tile { s.tile s.ctx.tile with seq := (s.tile s.ctx.tile).seq + 1, mq := q, matPh := ph }
theorem queues_of_exec {s : State} {x d : BitVec 4} {i : Instr} {pre : State → State → State} {body : State → State} (hu : s.ctx.unit = .task)
    (hq : s.clearOfAcq) (ready : Ready s x d) (h : ∀ s, exec i s = .next (matOp s i pre body)) (pass : Passes x d pre) : Queues s i := by
  have entered := (matOp_task i pre body hu).trans ((gate_clear _ hq).trans (pass _ _ ready))
  refine ⟨fun busy => ?_, fun idle => ⟨body (takenUp s (inlineItem s i)), ?_, ?_⟩⟩
  · have some : (s.tile s.ctx.tile).mq.isEmpty = false := by rw [List.isEmpty_eq_false_iff]; exact busy
    rw [h, entered]
    have phase : (if (s.tile s.ctx.tile).mq.isEmpty = true then s.cur.phase else (s.tile s.ctx.tile).matPh) = (s.tile s.ctx.tile).matPh :=
      if_neg (by rw [some]; decide)
    exact congrArg Host.Outcome.next ((if_neg (by rw [some]; decide)).trans
      (congrArg (fun ph => park (joined s ((s.tile s.ctx.tile).mq ++ [inlineItem s i]) ph) .matrix) phase))
  · show exec i (takenUp s (inlineItem s i)) = _
    rw [h, matOp_starts _ _ _ (starts_takenUp hu rfl), pass _ _ (ready_takenUp hu ready)]
  · have none : (s.tile s.ctx.tile).mq.isEmpty = true := by rw [idle]; rfl
    rw [h, entered]
    have phase : (if (s.tile s.ctx.tile).mq.isEmpty = true then s.cur.phase else (s.tile s.ctx.tile).matPh) = s.cur.phase := if_pos none
    have queue : (s.tile s.ctx.tile).mq ++ [inlineItem s i] = [inlineItem s i] := by rw [idle]; rfl
    exact congrArg Host.Outcome.next ((if_pos none).trans (congrArg₂
      (fun q ph => { body { park (joined s q ph) .matrix with ctx := { s.ctx with unit := .minl } } with ctx := s.ctx }) queue phase))

theorem inlineMatrixWordsGoThroughTheUnit : Claims.InlineMatrixWordsGoThroughTheUnit := by
  intro s c x r f sf k w z l b t p n ip d hu hq hx hd hm hw y
  have queue : ∀ (i : Instr) (pre : State → State → State) (body : State → State), (∀ s, exec i s = .next (matOp s i pre body)) → Passes x d pre →
      Queues s i := fun i pre body h pass => queues_of_exec hu hq ⟨hx, hd, hm, hw⟩ h pass
  have free := passes_noPre x d
  have src := passes_preG x d
  have dst := passes_preD x d
  simp only [List.forall_mem_cons]
  exact ⟨queue _ _ _ (fun _ => rfl) (passes_preM x d k), queue _ _ _ (fun _ => rfl) (passes_preM x d k),
    queue _ _ _ (fun _ => rfl) (passes_preGM x d k), queue _ _ _ (fun _ => rfl) (passes_preGM x d k),
    queue _ _ _ (fun _ => rfl) src, queue _ _ _ (fun _ => rfl) free,
    queue _ _ _ (fun _ => rfl) free, queue _ _ _ (fun _ => rfl) src, queue _ _ _ (fun _ => rfl) src,
    queue _ _ _ (fun _ => rfl) src, queue _ _ _ (fun _ => rfl) free, queue _ _ _ (fun _ => rfl) free, queue _ _ _ (fun _ => rfl) free,
    queue _ _ _ (fun _ => rfl) free, queue _ _ _ (fun _ => rfl) (passes_preW x d _), queue _ _ _ (fun _ => rfl) free,
    queue _ _ _ (fun _ => rfl) (passes_preW x d _), queue _ _ _ (fun _ => rfl) dst, queue _ _ _ (fun _ => rfl) dst,
    queue _ _ _ (fun _ => rfl) free, queue _ _ _ (fun _ => rfl) free, queue _ _ _ (fun _ => rfl) src,
    queue _ _ _ (fun _ => rfl) free, queue _ _ _ (fun _ => rfl) src, queue _ _ _ (fun _ => rfl) dst, queue _ _ _ (fun _ => rfl) dst,
    queue _ _ _ (fun _ => rfl) src, List.forall_mem_nil _⟩

/-! ## Products of entries (R205, R211, R212) -/

/-- The blocks that a product skips. -/
def skipOf (s : State) (k : Option (BitVec 2)) : Nat := match k with | none => 0 | some m => (s.m m).toNat
theorem skipOf_modMat (s : State) (f : MatState → MatState) (k : Option (BitVec 2)) : skipOf (s.modMat f) k = skipOf s k := by
  cases k with
  | none => rfl
  | some m => exact congrArg BitVec.toNat (m_modMat s f m)
theorem skipOf_setProg (s : State) (p : MProg) (k : Option (BitVec 2)) : skipOf (s.setProg p) k = skipOf s k := by
  cases k with
  | none => rfl
  | some m => exact congrArg BitVec.toNat (m_setProg s p m)
/-- The state with an entry multiplied into a tile and popped, its marks being performed before. -/
def multiplied (u : State) (c : BitVec 4) (r : BitVec 2) (f : MatFmt) (skip : Nat) (zero : Bool) : State :=
  let l := product u f skip zero (u.acc c) (u.ring r) u.mat.act
  ((u.setAcc c (accOf l)).modRing r Ring.popEntry).noteNan ((l.zipIdx.find? fun (y, _) => y.nan && !y.pz).map (·.2))
section
variable {s : State} {c : BitVec 4} {r : BitVec 2} {f : MatFmt} {m : Option (BitVec 2)} {zero : Bool} {k : State → State}
theorem mmaEntry_none (h : ¬ s.hasEntry r) : mmaEntry s c r f m zero k = park s .matrix := withEntry_none _ h
theorem mmaEntry_entry (h : s.hasEntry r) : mmaEntry s c r f m zero k =
    let u := s.modMat (·.marks r)
    if !zero && !(u.acc c).isSum then accKind (u.tellNan (mmaFmt f)) c
    else if u.mat.act.ty ≠ bType f then trap (u.tellNan (mmaFmt f)) 24 0 (w64 (Machine.statCode u.mat.act.ty))
    else k (multiplied u c r f (skipOf s m) zero) := by
  rw [← skipOf_modMat s (·.marks r) m]
  exact withEntry_entry _ h
theorem mmaEntry_kind (h : s.hasEntry r) (hz : zero = false) (ha : ((s.modMat (·.marks r)).acc c).isSum = false) :
    mmaEntry s c r f m zero k = trap ((s.modMat (·.marks r)).tellNan (256 + f.code)) 23 0 (w64 c.toNat) :=
  (mmaEntry_entry h).trans (if_pos (by rw [hz, ha]; rfl))
theorem mmaEntry_type (h : s.hasEntry r) (ha : zero = true ∨ ((s.modMat (·.marks r)).acc c).isSum = true)
    (hb : (s.modMat (·.marks r)).mat.act.ty ≠ bType f) : mmaEntry s c r f m zero k =
      trap ((s.modMat (·.marks r)).tellNan (256 + f.code)) 24 0 (w64 (Machine.statCode (s.modMat (·.marks r)).mat.act.ty)) :=
  (mmaEntry_entry h).trans ((if_neg (by obtain ha | ha := ha <;> simp [ha])).trans (if_pos hb))
theorem mmaEntry_product (h : s.hasEntry r) (ha : zero = true ∨ ((s.modMat (·.marks r)).acc c).isSum = true)
    (hb : (s.modMat (·.marks r)).mat.act.ty = bType f) :
    mmaEntry s c r f m zero k = k (multiplied (s.modMat (·.marks r)) c r f (skipOf s m) zero) :=
  (mmaEntry_entry h).trans ((if_neg (by obtain ha | ha := ha <;> simp [ha])).trans (if_neg (not_not_intro hb)))
end
theorem hasItem_multiplied_base {s : State} (h : HasItem s) (c : BitVec 4) (r : BitVec 2) (a : Acc) :
    HasItem ((s.setAcc c a).modRing r Ring.popEntry) := hasItem_modMat (hasItem_modMat h _) _
/-- A product keeps the counts of the item's progress. -/
theorem mprog_multiplied {u : State} (h : HasItem u) (c : BitVec 4) (r : BitVec 2) (f : MatFmt) (skip : Nat) (zero : Bool) :
    (multiplied u c r f skip zero).mprog.n = u.mprog.n ∧ (multiplied u c r f skip zero).mprog.count = u.mprog.count := by
  have base : ∀ a, ((u.setAcc c a).modRing r Ring.popEntry).mprog = u.mprog := fun a => (mprog_modMat ..).trans (mprog_modMat ..)
  obtain ⟨n, count⟩ := mprog_noteNan (hasItem_multiplied_base h c r (accOf (product u f skip zero (u.acc c) (u.ring r) u.mat.act)))
    (((product u f skip zero (u.acc c) (u.ring r) u.mat.act).zipIdx.find? fun (y, _) => y.nan && !y.pz).map (·.2))
  rw [base] at n count
  exact ⟨n, count⟩

theorem matrixProductsTakeAnEntry : Claims.MatrixProductsTakeAnEntry := by
  intro s e c x r f k w z q hc hr hk skip after ends
  refine ⟨fun hs => ?_, fun start => ?_⟩
  · have mma : ∀ (i : Instr) (zero : Bool), exec i s = .next (mmaOp s i c r f k zero) →
        exec i s = .next (mmaEntry s c r f k zero fun s => advance (s.tellNan (mmaFmt f)) 1) := fun i zero h =>
      h.trans (congrArg Host.Outcome.next ((matOp_starts _ _ _ hs).trans ((preM_free _ hk).trans
        ((needAcc_owns _ hc).trans (needRing_owns _ hr)))))
    have quiet : ∀ n, (s.modMat (·.marks r)).tellNan n = s.modMat (·.marks r) := fun n => by
      refine tellNan_none ?_ n
      rw [mprog_modMat, hs.2.2]
    have one := mma (.mMma c r f k) false rfl
    have zero := mma (.mMmaz c r f k) true rfl
    refine ⟨fun none => ⟨?_, ?_⟩, fun some => ⟨fun sum ty => ?_, fun ty => ?_, fun list => ?_, fun sum ty => ?_, fun ty => ?_⟩, fun hx => ?_⟩
    · rw [one, mmaEntry_none none]; rfl
    · rw [zero, mmaEntry_none none]; rfl
    · rw [one, mmaEntry_product some (.inr sum) ty]; rfl
    · rw [zero, mmaEntry_product some (.inl rfl) ty]; rfl
    · rw [one, mmaEntry_kind some rfl list, quiet]; rfl
    · rw [one, mmaEntry_type some (.inr sum) ty, quiet]; rfl
    · rw [zero, mmaEntry_type some (.inl rfl) ty, quiet]; rfl
    · have val : (s.g x).val = 0 := congrArg GReg.val hx
      exact congrArg Host.Outcome.next ((matOp_starts _ _ _ hs).trans ((needGT_full _ hx).trans ((preM_free _ hk).trans
        ((needAcc_owns _ hc).trans ((needRing_owns _ hr).trans ((if_pos hs.2.2).trans (if_pos val)))))))
  · have turn : exec (.mRun c r f k x w z) s = .next (runTurn e c r f k z) ∧ HasItem e ∧ e.mprog = q ∧ (e.hasEntry r ↔ s.hasEntry r) ∧
        skipOf e k = skipOf s k := by
      obtain ⟨hs, ⟨n, hn, hx, rfl⟩, rfl⟩ | ⟨hs, rfl⟩ := start
      · have val : (s.g x).val = n := congrArg GReg.val hx
        refine ⟨congrArg Host.Outcome.next ((matOp_starts _ _ _ hs).trans ((needGT_full _ hx).trans ((preM_free _ hk).trans
          ((needAcc_owns _ hc).trans ((needRing_owns _ hr).trans ((if_pos hs.2.2).trans ((if_neg (by rw [val]; exact hn)).trans ?_))))))),
          hasItem_setProg hs.2.1 _, mprog_setProg hs.2.1 _, hasEntry_setProg .., skipOf_setProg ..⟩
        rw [val]
      · exact ⟨congrArg Host.Outcome.next ((matOp_goesOn _ _ _ hs).trans ((needAcc_owns _ hc).trans ((needRing_owns _ hr).trans
          (if_neg (by rw [hs.2.2.1]; exact hs.2.2.2))))), hs.2.1, hs.2.2.1, .rfl, rfl⟩
    obtain ⟨turn, item, prog, entry, sk⟩ := turn
    have first : (z && e.mprog.n == 0) = (z && q.n == 0) := by rw [prog]
    have meaning : exec (.mRun c r f k x w z) s = .next (mmaEntry e c r f k (z && q.n == 0) fun s =>
        if s.mprog.n + 1 = s.mprog.count then advance (s.tellNan (mmaFmt f)) 1 else s.setProg { s.mprog with n := s.mprog.n + 1 }) := by
      rw [turn, ← first]
      rfl
    rw [meaning]
    refine ⟨fun none => ?_, fun some => ⟨fun hz list => ?_, fun ok => ⟨fun ty => ?_, fun ty last => ?_, fun ty more => ?_⟩⟩⟩
    · rw [mmaEntry_none (mt entry.1 none)]; rfl
    · rw [mmaEntry_kind (entry.2 some) hz list]; rfl
    · rw [mmaEntry_type (entry.2 some) ok ty]; rfl
    all_goals
      obtain ⟨n, count⟩ := mprog_multiplied (hasItem_modMat item (·.marks r)) c r f (skipOf s k) (z && q.n == 0)
      rw [mprog_modMat, prog] at n count
      rw [mmaEntry_product (entry.2 some) ok ty, sk, n, count]
    · rw [if_pos last]; rfl
    · rw [if_neg more]; rfl

/-! ## The elements of a product (R160, R210, R211) -/

theorem length_flatten_map_range {α : Type} (g : Nat → List α) {k : Nat} (hg : ∀ r, (g r).length = k) (n : Nat) :
    ((List.range n).map g).flatten.length = k * n := by
  induction n with
  | zero => rfl
  | succ n ih => simp [List.range_succ, ih, hg, Nat.mul_add]
/-- Element c of row r in rows of k elements put one behind the other. -/
theorem getElem?_flatten_map_range {α : Type} (g : Nat → List α) {k n r c : Nat} (hg : ∀ r, (g r).length = k) (hr : r < n) (hc : c < k) :
    ((List.range n).map g).flatten[k * r + c]? = (g r)[c]? := by
  induction n with
  | zero => omega
  | succ n ih =>
    rw [List.range_succ, List.map_append, List.flatten_append]
    have len := length_flatten_map_range g hg n
    obtain rfl | hr := Nat.eq_or_lt_of_le (Nat.le_of_lt_succ hr)
    · rw [List.getElem?_append_right (by omega), len, Nat.add_sub_cancel_left]
      simp
    · have : k * r + k ≤ k * n := by
        rw [← Nat.mul_succ]
        exact Nat.mul_le_mul_left k hr
      rw [List.getElem?_append_left (by omega), ih hr]
/-- Positions along K of the blocks that are not skipped. -/
def ksOf (f : MatFmt) (skip : Nat) : List Nat := (blocksOf skip).flatMap fun j => (List.range (kBlk f)).map fun i => kBlk f * j + i
/-- Element (r, c) of a product. -/
def productEl (s : State) (f : MatFmt) (skip : Nat) (zero : Bool) (acc : Acc) (q : Ring) (b : Stat) (r c : Nat) : PEl :=
  let fi := acrFi s.macr
  let ea := q.addr q.head.toNat + 96 * r
  let live := q.rowv r && !(blocksOf skip).isEmpty
  mmaEl f s.macr (if live then (ksOf f skip).map (aVal f fi (s.spN ea 96)) else [])
    (if live then (ksOf f skip).map fun k => bVal f fi b k c else []) (if zero then 0 else acc.el (16 * r + c))
    (!zero && acc.pz (16 * r + c))
    (live && ((live && (blocksOf skip).any fun j => s.spMarked (ea + 8 * j) 8) || (blocksOf skip).any fun j => bMark f b j c))
theorem product_getElem? (s : State) (f : MatFmt) (skip : Nat) (zero : Bool) (acc : Acc) (q : Ring) (b : Stat) {r c : Nat}
    (hr : r < 16) (hc : c < 16) :
    (product s f skip zero acc q b)[16 * r + c]? = some (productEl s f skip zero acc q b r c) := by
  have ks : ((blocksOf skip).map fun j => upFrom (kBlk f * j) (kBlk f)).flatten = ksOf f skip := by
    simp only [ksOf, List.flatMap, upFrom_eq_range', List.range'_eq_map_range]
  unfold product
  simp only [ks, upTo_eq_range]
  rw [getElem?_flatten_map_range _ (fun r => by simp) hr hc]
  simp [productEl, hc]
theorem zipWith_map_self {α β γ δ : Type} (g : β → γ → δ) (a : α → β) (b : α → γ) (l : List α) :
    List.zipWith g (l.map a) (l.map b) = l.map fun k => g (a k) (b k) := by
  induction l with
  | nil => rfl
  | cons k l ih => simp [ih]
theorem mmaEl_nan (f : MatFmt) (acr : BitVec 4) (a b : List FVal) (inc : Nat) (incPz mark : Bool) :
    (mmaEl f acr a b inc incPz mark).nan = true ↔ fF32.isNan (mmaEl f acr a b inc incPz mark).bits = true ∧
      (fF32.val (fF32.flush (acrFi acr) inc)).isNan = false ∧ (∀ v ∈ a, v.isNan = false) ∧
      (bType f = .cb2 ∨ ∀ v ∈ b, v.isNan = false) := by
  simp [mmaEl, and_assoc]

theorem productElementsRoundOneSum : Claims.ProductElementsRoundOneSum := by
  intro s f skip zero acc q b r c hr hc acr ea blocks ks live inc x
  have hb : blocksOf skip = blocks := by
    simp only [blocksOf, upTo_eq_range]
    rfl
  have hk : ksOf f skip = ks := congrArg (List.flatMap _) hb
  have on : (q.rowv r && !(blocksOf skip).isEmpty) = true ↔ live := by
    rw [hb]
    cases hbs : blocks with
    | nil => simp [live, hbs]
    | cons j l => simp [live, hbs]
  refine ⟨_, product_getElem? s f skip zero acc q b hr hc, ?_⟩
  unfold productEl
  by_cases h : live
  · rw [on.2 h, hk, hb]
    refine ⟨fun _ => ?_, fun no => absurd h no, ?_, ?_⟩
    · simp only [mmaEl, if_true, zipWith_map_self]
      rfl
    · rw [mmaEl_nan]
      by_cases hcb : bType f = .cb2
      · simp [hcb, h, x, inc, acr, ea]
      · simp [hcb, h, forall_and, x, inc, acr, ea]
    · simp only [mmaEl, Bool.true_and, Bool.or_eq_true, Bool.and_eq_true, Bool.not_eq_true', List.any_eq_true, h, true_and,
        ← exists_or, ← and_or_left]
      rfl
  · rw [Bool.eq_false_iff.2 (mt on.1 h)]
    refine ⟨fun yes => absurd yes h, fun _ => rfl, ?_, ?_⟩
    · simp [mmaEl_nan, h, x, inc, acr]
    · simp [mmaEl, h]

/-! ## The sum of a K group (R164) -/

/-- Folding a maximum over a list finds its greatest element. -/
theorem foldl_max {g : Option Int → Int → Option Int} (h0 : ∀ t, g none t = some t) (h1 : ∀ b t, g (some b) t = some (max b t))
    {top : Int} (l : List Int) (hl : ∀ t ∈ l, t ≤ top) (a : Option Int) (ha : ∀ b ∈ a, b ≤ top) (found : top ∈ l ∨ a = some top) :
    l.foldl g a = some top := by
  induction l generalizing a with
  | nil => simpa using found
  | cons t l ih =>
    have le := hl t (by simp)
    refine ih (fun t h => hl t (by simp [h])) _ ?_ ?_
    · cases a with
      | none => simp [h0, le]
      | some b => simp [h1, le, ha b rfl]
    · obtain found | rfl := found
      · obtain rfl | found := List.mem_cons.1 found
        · cases a with
          | none => exact .inr (h0 _)
          | some b => exact .inr (by rw [h1, max_eq_right (ha b rfl)])
        · exact .inl found
      · exact .inr (by rw [h1, max_eq_left le])
/-- Finite values given by sign, magnitude and exponent. -/
abbrev fins (terms : List (Bool × Nat × Int)) : List FVal := terms.map fun t => .fin t.1 t.2.1 t.2.2
theorem roundUnits_zero (neg : Bool) (e q : Int) : roundUnits 1 0 neg 0 e q = 0 := by simp [roundUnits]
theorem sumUnits_fins (q : Int) (terms : List (Bool × Nat × Int)) (h : ∀ t ∈ terms, t.2.1 ≠ 0 → q ≤ t.2.2) :
    sumUnits q (fins terms) =
      (terms.map fun t => (if t.1 then (-1 : Int) else 1) * ((t.2.1 * 2 ^ (t.2.2 - q).toNat : Nat) : Int)).sum := by
  induction terms with
  | nil => rfl
  | cons t l ih =>
    have one : roundUnits 1 0 t.1 t.2.1 t.2.2 q = t.2.1 * 2 ^ (t.2.2 - q).toNat := by
      by_cases h0 : t.2.1 = 0
      · rw [h0, roundUnits_zero, Nat.zero_mul]
      · exact if_pos (h t (by simp) h0)
    have rest := ih fun t ht => h t (by simp [ht])
    simp only [fins, List.map_cons, sumUnits, List.sum_cons] at rest ⊢
    rw [one, rest]
theorem fins_no_inf (terms : List (Bool × Nat × Int)) (g : FVal → Option Bool) (hg : ∀ b n e, g (.fin b n e) = none) :
    (fins terms).filterMap g = [] := by
  simp [fins, hg]
theorem fins_no_nan (terms : List (Bool × Nat × Int)) : (fins terms).any (·.isNan) = false := by
  simp [fins, FVal.isNan]
theorem mem_tops (terms : List (Bool × Nat × Int)) (x : Int) :
    x ∈ (fins terms).filterMap (·.top) ↔ ∃ t ∈ terms, t.2.1 ≠ 0 ∧ (bitLen t.2.1 : Int) - 1 + t.2.2 = x := by
  simp [fins, FVal.top]

theorem groupSumIsExactOnItsGrid : Claims.GroupSumIsExactOnItsGrid := by
  constructor
  · intro terms top found grid v
    have top_le : ∀ x ∈ (fins terms).filterMap (·.top), x ≤ top := fun x hx => by
      obtain ⟨t, ht, h0, rfl⟩ := (mem_tops terms x).1 hx
      exact (grid t ht h0).1
    have v_eq : sumUnits (top - 40) (fins terms) = v := sumUnits_fins _ _ fun t ht h0 => (grid t ht h0).2
    unfold groupSum
    rw [fins_no_nan, fins_no_inf]
    · simp only [List.any_nil, Bool.and_self, Bool.or_self, Bool.false_eq_true, if_false]
      rw [foldl_max (fun _ => rfl) (fun _ _ => rfl) _ top_le none (by simp) (.inl ((mem_tops terms top).2 found))]
      simp only [v_eq]
    · exact fun _ _ _ => rfl
  · intro terms bad
    refine if_pos ?_
    obtain nan | ⟨neg, pos⟩ := bad
    · exact Bool.or_eq_true_iff.2 (.inl (List.any_eq_true.2 ⟨_, nan, rfl⟩))
    · refine Bool.or_eq_true_iff.2 (.inr (Bool.and_eq_true_iff.2 ⟨List.any_eq_true.2 ⟨true, ?_, rfl⟩, List.any_eq_true.2 ⟨false, ?_, rfl⟩⟩))
      · exact List.mem_filterMap.2 ⟨_, neg, rfl⟩
      · exact List.mem_filterMap.2 ⟨_, pos, rfl⟩

/-- Settles O21: an inline word goes through the unit's queue, a product takes the entry at HEAD, each of its elements is one rounded
sum, and the sum of a K group is exact on its grid. -/
theorem matrixProductsRoundOneSum : Obligations.MatrixProductsRoundOneSum :=
  ⟨inlineMatrixWordsGoThroughTheUnit, matrixProductsTakeAnEntry, productElementsRoundOneSum, groupSumIsExactOnItsGrid⟩

end Sys2Proof.Proofs.MatUnit
end

section
/-! PROOFS. Loads, copies, drains and grouped products of the matrix unit (R95, R208, R209, R213, R215, R216). -/
namespace Sys2Proof.Proofs.MatMoves
open Sys2Proof Sys2Proof.Machine Sys2Proof.Proofs.Bits Sys2Proof.Proofs.Scratchpad Sys2Proof.Proofs.MatUnit
set_option Elab.async false

/-! ## Numbers with some of their bytes or bits replaced -/

theorem testBit_putBits (x pos n v i : Nat) :
    (putBits x pos n v).testBit i = if i < pos then x.testBit i else if i < pos + n then v.testBit (i - pos) else x.testBit i := by
  have low : bitsAt x 0 pos < 2 ^ pos := Nat.mod_lt _ (Nat.two_pow_pos _)
  have mid : v % 2 ^ n < 2 ^ n := Nat.mod_lt _ (Nat.two_pow_pos _)
  have shape : putBits x pos n v = 2 ^ pos * (2 ^ n * (x / 2 ^ (pos + n)) + v % 2 ^ n) + bitsAt x 0 pos := by
    unfold putBits
    rw [Nat.pow_add]
    ring
  rw [shape, Nat.testBit_two_pow_mul_add _ low, Nat.testBit_two_pow_mul_add _ mid]
  split
  · next h => simp [bitsAt, Nat.testBit_mod_two_pow, h]
  · next h =>
    by_cases c : i < pos + n
    · rw [if_pos (by omega), if_pos c, Nat.testBit_mod_two_pow]
      simp [show i - pos < n by omega]
    · rw [if_neg (by omega), if_neg c, Nat.testBit_div_two_pow]
      congr 1
      omega
theorem putBytes_eq (x pos n v : Nat) : putBytes x pos n v = putBits x (8 * pos) (8 * n) v := by
  unfold putBytes putBits
  rw [Nat.mul_add]
/-- Bit j of byte i. -/
theorem testBit_byte (x i j : Nat) : (x / 256 ^ i % 256).testBit j = (decide (j < 8) && x.testBit (8 * i + j)) := by
  rw [show (256 : Nat) ^ i = 2 ^ (8 * i) from (Nat.pow_mul 2 8 i).symm, show 256 = 2 ^ 8 from rfl, Nat.testBit_mod_two_pow,
    Nat.testBit_div_two_pow, Nat.add_comm]
theorem byte_putBytes (x pos n v i : Nat) :
    putBytes x pos n v / 256 ^ i % 256 = if pos ≤ i ∧ i < pos + n then v / 256 ^ (i - pos) % 256 else x / 256 ^ i % 256 := by
  apply Nat.eq_of_testBit_eq
  intro j
  rw [testBit_byte, putBytes_eq, testBit_putBits]
  by_cases hj : j < 8
  · by_cases c : pos ≤ i ∧ i < pos + n
    · rw [if_neg (by omega), if_pos (by omega), if_pos c, testBit_byte]
      congr 2
      omega
    · rw [if_neg c, testBit_byte]
      obtain c | c := Nat.lt_or_ge i pos
      · rw [if_pos (by omega)]
      · rw [if_neg (by omega), if_neg (by omega)]
  · split_ifs <;> simp [testBit_byte, hj]
theorem byte_ofNat {n : Nat} (x i : Nat) (h : 8 * (i + 1) ≤ n) : (BitVec.ofNat n x).toNat / 256 ^ i % 256 = x / 256 ^ i % 256 := by
  rw [show (256 : Nat) ^ i = 2 ^ (8 * i) from (Nat.pow_mul 2 8 i).symm]
  exact ofNat_div_mod x i h
/-- A mark among those put together from flags. -/
theorem testBit_marks (f : Nat → Bool) (n k : Nat) : (unchunk 1 ((upTo n).map fun k => (f k).toNat)).testBit k = (decide (k < n) && f k) := by
  have bit := testBit_packBits (n := k + 1) ((upTo n).map f) (k := k) (by omega)
  rw [packBits, List.map_map, BitVec.toNat_ofNat, Nat.testBit_mod_two_pow] at bit
  simp only [show k < k + 1 by omega, decide_true, Bool.true_and] at bit
  refine Eq.trans bit ?_
  rw [upTo_eq_range]
  by_cases h : k < n
  · rw [getD_map_range f _ h]
    simp [h]
  · simp [h]
/-- Byte i of lanes put together. -/
theorem byte_lanes (f : Nat → Nat) {i : Nat} (h : i < 64) :
    unchunk 32 ((upTo 16).map f) / 256 ^ i % 256 = f (i / 4) / 256 ^ (i % 4) % 256 := by
  have lane := unchunk_div_mod 32 ((upTo 16).map f) (i / 4)
  rw [upTo_eq_range, getD_map_range f _ (by omega)] at lane
  apply Nat.eq_of_testBit_eq
  intro j
  rw [testBit_byte, testBit_byte]
  by_cases hj : j < 8
  · have bit := congrArg (fun x => Nat.testBit x (8 * (i % 4) + j)) lane
    simp only [Nat.testBit_mod_two_pow, Nat.testBit_div_two_pow] at bit
    rw [show 8 * (i % 4) + j + 32 * (i / 4) = 8 * i + j by omega] at bit
    simpa [show 8 * (i % 4) + j < 32 by omega, hj] using bit
  · simp [hj]
theorem getLsbD_ofNat_putBits {w : Nat} (b : BitVec w) (pos n v j : Nat) (h : j < w) :
    (BitVec.ofNat w (putBits b.toNat pos n v)).getLsbD j = if pos ≤ j ∧ j < pos + n then v.testBit (j - pos) else b.getLsbD j := by
  rw [BitVec.getLsbD_ofNat, testBit_putBits]
  by_cases c : pos ≤ j ∧ j < pos + n
  · rw [if_neg (by omega), if_pos (by omega), if_pos c]
    simp [h]
  · rw [if_neg c]
    obtain c | c := Nat.lt_or_ge j pos
    · rw [if_pos c]
      simp [h, BitVec.getLsbD]
    · rw [if_neg (by omega), if_neg (by omega)]
      simp [h, BitVec.getLsbD]

/-! ## Words of one turn (R208, R209, R216) -/

section
variable {s : State} {ea n : Nat} {k : State}
theorem need64_range (h : s.spLd ea n = false) : need64 s ea n k = trap s 5 0 (w64 ea) := if_pos (by rw [h]; rfl)
theorem need64_uneven (h : s.spLd ea n = true) (u : ea % 64 ≠ 0) : need64 s ea n k = trap s 6 0 (w64 ea) :=
  (if_neg (by rw [h]; decide)).trans (if_pos u)
theorem need64_ok (h : s.spLd ea n = true) (e : ea % 64 = 0) : need64 s ea n k = k :=
  (if_neg (by rw [h]; decide)).trans (if_neg (not_not_intro e))
end
/-- A word that starts on the unit with its g source ready. -/
theorem matOp_starts_g {s : State} {x : BitVec 4} {a : DWord} (i : Instr) (body : State → State) (h : s.unitStarts) (hx : s.full x a) :
    matOp s i (preG x) body = body s := (matOp_starts _ _ _ h).trans (needGT_full _ hx)
theorem leNat_lt_pow (s : State) (a n : Nat) : s.spN a n < 256 ^ n := by
  have h := leNat_lt (s.sp a n)
  rwa [State.sp, memRead_length] at h
theorem toNat_ofNat_spN (s : State) (a n w : Nat) (h : w = 8 * n) : (BitVec.ofNat w (s.spN a n)).toNat = s.spN a n := by
  rw [BitVec.toNat_ofNat, Nat.mod_eq_of_lt]
  rw [h, Nat.pow_mul]
  exact leNat_lt_pow s a n
/-- The places of a range that a store may touch follow one another. -/
theorem spa_add_of_store {s : State} {a n k : Nat} (h : s.spSt a n = true) (hk : k < n) : s.spa (a + k) = s.spa a + k := by
  unfold State.spSt spStOk at h
  unfold State.spa spAddr
  split at h
  · rw [decide_eq_true_eq] at h
    rw [if_pos (by omega), if_pos (by omega)]
  · next rc =>
    rw [Bool.not_eq_true] at rc
    have le := shareBytes_le (s.tile s.ctx.tile).fold
    rw [rc, spOk, Bool.false_and, Bool.or_false, decide_eq_true_eq] at h
    rw [if_neg (by omega), if_neg (by omega), Nat.add_assoc]
/-- Setting the marks of n words from word k on of a range that a store may touch. -/
theorem setMarks_from (s : State) (f : Nat → Bool) (m : Mem) {ea b : Nat} (even : ea % 4 = 0) (ok : s.spSt ea (4 * b) = true) (n : Nat) :
    ∀ (k : Nat) (l : List Nat), k + n ≤ b → Rising l → ∃ l', Rising l' ∧
      (upFrom k n).foldl (fun s i => s.spSetMark (ea + 4 * i) (f i)) (withSpad s m l) = withSpad s m l' ∧
      ∀ q, setHas l' q = if s.spa ea + 4 * k ≤ q ∧ q < s.spa ea + 4 * (k + n) ∧ q % 4 = 0 then f ((q - s.spa ea) / 4) else setHas l q := by
  have place : s.spa ea % 4 = 0 := spa_aligned s even
  induction n with
  | zero => exact fun k l _ hl => ⟨l, hl, rfl, fun q => (if_neg (by omega)).symm⟩
  | succ n ih =>
    intro k l hk hl
    have at_ : s.spa (ea + 4 * k) / 4 * 4 = s.spa ea + 4 * k := by rw [spa_add_of_store ok (by omega)]; omega
    obtain ⟨l', hl', eq, marks⟩ := ih (k + 1) _ (by omega) (setPut_rising hl (s.spa ea + 4 * k) (f k))
    refine ⟨l', hl', ?_, fun q => ?_⟩
    · rw [upFrom, List.foldl_cons, spSetMark_withSpad, at_]
      exact eq
    · rw [marks, setHas_setPut hl]
      by_cases c : q = s.spa ea + 4 * k
      · rw [if_neg (by omega), if_pos c, if_pos (by omega), show (q - s.spa ea) / 4 = k by omega]
      · rw [if_neg c]
        exact if_congr (by omega) rfl rfl

/-- Marks of n words from an address, put together. -/
theorem testBit_wordMarks (s : State) (a n k : Nat) :
    (unchunk 1 ((upTo n).map fun k => (s.spMark (a + 4 * k)).toNat)).testBit k = (decide (k < n) && s.spMark (a + 4 * k)) :=
  testBit_marks (fun k => s.spMark (a + 4 * k)) n k
theorem mod_putBytes_low (x n v : Nat) : putBytes x 0 n v % 256 ^ n = v % 256 ^ n := by
  rw [show (256 : Nat) ^ n = 2 ^ (8 * n) from (Nat.pow_mul 2 8 n).symm]
  apply Nat.eq_of_testBit_eq
  intro j
  rw [putBytes_eq, Nat.testBit_mod_two_pow, Nat.testBit_mod_two_pow, testBit_putBits]
  by_cases h : j < 8 * n
  · simp [h]
  · simp [h]

/-- An `m.ld` of scratchpad gives the operand the bytes, scale bytes and marks that lie there. -/
theorem ldSpad_plain (s : State) (ty : StatTy) (ea : Nat) (b : Stat) (h : ty ≠ .cb2) :
    (s.ldSpad ty ea b).bytes.toNat = s.spN ea 1536 ∧ (s.ldSpad ty ea b).scale = b.scale ∧
      ∀ j < 384, (s.ldSpad ty ea b).marks.getLsbD j = s.spMark (ea + 4 * j) := by
  unfold State.ldSpad
  rw [if_neg h]
  refine ⟨toNat_ofNat_spN _ _ _ _ rfl, rfl, fun j hj => ?_⟩
  rw [getLsbD_ofNat_putBits _ _ _ _ _ (by omega), if_pos (by omega), testBit_wordMarks]
  simp [hj]
theorem ldSpad_cb2 (s : State) (ea : Nat) (b : Stat) :
    (s.ldSpad .cb2 ea b).bytes.toNat % 256 ^ 384 = s.spN ea 384 ∧ (s.ldSpad .cb2 ea b).scale.toNat % 256 ^ 48 = s.spN (ea + 384) 48 ∧
      (∀ j < 96, (s.ldSpad .cb2 ea b).marks.getLsbD j = s.spMark (ea + 4 * j)) ∧
      ∀ j < 12, (s.ldSpad .cb2 ea b).marks.getLsbD (384 + j) = s.spMark (ea + 384 + 4 * j) := by
  have low : ∀ (w n x v : Nat), 8 * n ≤ w → v < 256 ^ n → (BitVec.ofNat w (putBytes x 0 n v)).toNat % 256 ^ n = v := by
    intro w n x v hw hv
    rw [BitVec.toNat_ofNat, Nat.mod_mod_of_dvd, mod_putBytes_low, Nat.mod_eq_of_lt hv]
    rw [show (256 : Nat) ^ n = 2 ^ (8 * n) from (Nat.pow_mul 2 8 n).symm]
    exact Nat.pow_dvd_pow 2 hw
  refine ⟨low _ _ _ _ (by decide) (leNat_lt_pow _ _ _), low _ _ _ _ (by decide) (leNat_lt_pow _ _ _), fun j hj => ?_, fun j hj => ?_⟩
  · show (BitVec.ofNat 400 (putBits (putBits b.marks.toNat 0 96 _) 384 12 _)).getLsbD j = _
    rw [BitVec.getLsbD_ofNat, testBit_putBits, if_pos (by omega), testBit_putBits, if_neg (by omega), if_pos (by omega), testBit_wordMarks]
    simp [hj, show j < 400 by omega]
  · show (BitVec.ofNat 400 (putBits (putBits b.marks.toNat 0 96 _) 384 12 _)).getLsbD (384 + j) = _
    rw [BitVec.getLsbD_ofNat, testBit_putBits, if_neg (by omega), if_pos (by omega), Nat.testBit_div_two_pow, testBit_wordMarks]
    simp only [show 384 + j < 400 by omega, show 384 + j - 384 + 96 < 108 by omega, decide_true, Bool.true_and]
    congr 1
    omega
/-- Changing the matrix state by what it holds. -/
theorem modMat_self (s : State) (f : MatState → MatState → MatState) : s.modMat (fun y => f y y) = s.modMat (f s.mat) := by
  unfold State.modMat State.mat
  cases s.rcTask <;> rfl
theorem load_const (s : State) (g : Stat → Stat) :
    s.modMat (fun y => { y with load := g y.load }) = s.modMat fun y => { y with load := g s.mat.load } :=
  modMat_self s fun x y => { y with load := g x.load }
/-- A copied tile's bytes and marks in scratchpad. -/
theorem storeTile (s : State) (e : BitVec 8192) (p : BitVec 256) {ea : Nat} (even : ea % 4 = 0) (ok : s.spSt ea 1024 = true)
    (hc : Tile.Canon (s.tile s.ctx.tile)) : ∃ m l,
      (upTo 256).foldl (fun s i => s.spSetMark (ea + 4 * i) (p.toNat.testBit i)) (s.spPut ea (leBytes 1024 e.toNat)) = withSpad s m l ∧
      (∀ q, memGet m q = if s.spa ea ≤ q ∧ q < s.spa ea + 1024 then .ofNat 8 (e.toNat / 256 ^ (q - s.spa ea)) else s.spByte s.ctx.tile q) ∧
      ∀ q, setHas l q = if s.spa ea ≤ q ∧ q < s.spa ea + 1024 ∧ q % 4 = 0 then p.getLsbD ((q - s.spa ea) / 4)
        else setHas (s.tile s.ctx.tile).marks q := by
  obtain ⟨l, -, eq, marks⟩ := setMarks_from s p.toNat.testBit (memWrite (s.tile s.ctx.tile).spad (s.spa ea) (leBytes 1024 e.toNat))
    even (b := 256) ok 256 0 _ (by omega) hc.2
  refine ⟨_, l, by rw [upTo, spPut_eq]; exact eq, fun q => ?_, marks⟩
  rw [memGet_write hc.1, leBytes_length]
  split
  · exact leBytes_getD _ _ (by omega)
  · rfl
theorem ldType_eq_cb2 {f : StatFmt} : ldType f = .cb2 ↔ f = .cb2 := by cases f <;> decide
theorem sum_of_isSum {a : Acc} (h : a.isSum = true) : ∃ e p, a = .sum e p := by
  cases a with
  | sum e p => exact ⟨e, p, rfl⟩
  | ranked n l => exact absurd h (by simp [Acc.isSum])
theorem ranked_of_not_isSum {a : Acc} (h : a.isSum = false) : ∃ n l, a = .ranked n l := by
  cases a with
  | sum e p => exact absurd h (by simp [Acc.isSum])
  | ranked n l => exact ⟨n, l, rfl⟩

theorem matrixMovesInOneTurn : Claims.MatrixMovesInOneTurn := by
  intro s c x y f w a hs hc n
  refine ⟨congrArg Host.Outcome.next (matOp_starts _ _ _ hs), congrArg Host.Outcome.next ((matOp_starts _ _ _ hs).trans (needAcc_owns _ hc)),
    fun hy => congrArg Host.Outcome.next ((matOp_starts _ _ _ hs).trans ((needAcc_owns _ hc).trans (needAcc_owns _ hy))), fun hx => ?_⟩
  have val : (s.g x).val = a := congrArg GReg.val hx
  have ld : exec (.mLd f (.g x w)) s = .next (need64 s a.toNat n (advance (s.modMat fun y => { y with load := s.ldSpad (ldType f) a.toNat y.load }) 1)) := by
    refine congrArg Host.Outcome.next ((matOp_starts_g _ _ hs hx).trans ?_)
    rw [val]
    cases f <;> rfl
  have copyLd : exec (.mCopyLd c x w) s = .next (need64 s a.toNat 1024 (advance (s.setAcc c (.sum (.ofNat 8192 (s.spN a.toNat 1024))
      (packBits 256 ((upTo 256).map fun i => s.spMark (a.toNat + 4 * i))))) 1)) := by
    refine congrArg Host.Outcome.next ((matOp_starts_g _ _ hs hx).trans ((needAcc_owns _ hc).trans ?_))
    rw [val]
  have copySt : ∀ e p, s.acc c = .sum e p → exec (.mCopySt c x w) s = .next (need64 s a.toNat 1024 (
      if !s.spSt a.toNat 1024 then trap s 5 0 (w64 a.toNat)
      else advance ((upTo 256).foldl (fun s i => s.spSetMark (a.toNat + 4 * i) (p.toNat.testBit i)) (s.spPut a.toNat (leBytes 1024 e.toNat))) 1)) := by
    intro e p acc
    refine congrArg Host.Outcome.next ((matOp_starts_g _ _ hs hx).trans ((needAcc_owns _ hc).trans ?_))
    rw [val, acc]
  have self : w64 a.toNat = a := MemIssue.w64_self a
  refine ⟨fun out => ?_, fun inn odd => ?_, fun inn even => ?_, fun out => ⟨?_, fun sum => ?_⟩, fun inn odd => ⟨?_, fun sum => ?_⟩,
    fun inn even out sum => ?_, fun inn even => ⟨?_, fun e p acc st canon => ?_, fun list => ?_⟩⟩
  · rw [ld, need64_range out, self]
    rfl
  · rw [ld, need64_uneven inn odd, self]
    rfl
  · refine ⟨s.ldSpad (ldType f) a.toNat s.mat.load, ?_, ?_, fun plain => ?_, fun cb2 => ?_⟩
    · rw [ld, need64_ok inn even, load_const]
      rfl
    · unfold State.ldSpad
      split
      · rfl
      · rfl
    · exact ldSpad_plain _ _ _ _ (mt ldType_eq_cb2.1 plain)
    · rw [cb2]
      exact ldSpad_cb2 _ _ _
  · rw [copyLd, need64_range out, self]
    rfl
  · obtain ⟨e, p, acc⟩ := sum_of_isSum sum
    rw [copySt e p acc, need64_range out, self]
    rfl
  · rw [copyLd, need64_uneven inn odd, self]
    rfl
  · obtain ⟨e, p, acc⟩ := sum_of_isSum sum
    rw [copySt e p acc, need64_uneven inn odd, self]
    rfl
  · obtain ⟨e, p, acc⟩ := sum_of_isSum sum
    rw [copySt e p acc, need64_ok inn even, if_pos (by rw [out]; rfl), self]
    rfl
  · rw [copyLd, need64_ok inn even]
    refine ⟨_, _, rfl, toNat_ofNat_spN _ _ _ _ rfl, fun i hi => ?_⟩
    refine (testBit_packBits _ hi).trans ?_
    rw [upTo_eq_range, getD_map_range _ _ hi]
  · obtain ⟨m, l, eq, bytes, marks⟩ := storeTile s e p (by omega) st canon
    refine ⟨m, l, ?_, bytes, marks⟩
    rw [copySt e p acc, need64_ok inn even, if_neg (by rw [st]; decide), eq]
    rfl
  · obtain ⟨n, l, acc⟩ := ranked_of_not_isSum list
    refine congrArg Host.Outcome.next ((matOp_starts_g _ _ hs hx).trans ((needAcc_owns _ hc).trans ?_))
    rw [acc]
    rfl

/-! ## The tokens of loads and drains (R158, R208, R215) -/

theorem ldToken_plain (b : Stat) (ty : StatTy) (n : Nat) (x : Token) (hn : n < 24) (h : ¬ (ty = .cb2 ∧ n = 6)) :
    (b.ldToken ty n x).scale = b.scale ∧
      (∀ i < 1536, (b.ldToken ty n x).bytes.toNat / 256 ^ i % 256 = if 64 * n ≤ i ∧ i < 64 * n + 64
        then (if x.val ((i - 64 * n) / 4) then x.lane ((i - 64 * n) / 4) / 256 ^ ((i - 64 * n) % 4) % 256 else 0)
        else b.bytes.toNat / 256 ^ i % 256) ∧
      ∀ j < 400, (b.ldToken ty n x).marks.getLsbD j = if 16 * n ≤ j ∧ j < 16 * n + 16 then x.pois (j - 16 * n) else b.marks.getLsbD j := by
  have last : (ty == .cb2 && n == 6) = false := by
    rw [Bool.eq_false_iff]
    simpa using h
  unfold Stat.ldToken
  simp only [last, Bool.false_eq_true, if_false]
  refine ⟨trivial, fun i hi => ?_, fun j hj => ?_⟩
  · rw [byte_ofNat _ _ (by omega), byte_putBytes]
    split
    · next c =>
      rw [byte_lanes _ (by omega)]
      split <;> simp
    · rfl
  · rw [getLsbD_ofNat_putBits _ _ _ _ _ hj, testBit_marks]
    split
    · next c => simp [show j - 16 * n < 16 by omega]
    · rfl
theorem ldToken_scale (b : Stat) (x : Token) :
    (b.ldToken .cb2 6 x).bytes = b.bytes ∧
      (∀ i < 48, (b.ldToken .cb2 6 x).scale.toNat / 256 ^ i % 256 =
        if x.val (i / 4) then x.lane (i / 4) / 256 ^ (i % 4) % 256 else 0) ∧
      ∀ j < 400, (b.ldToken .cb2 6 x).marks.getLsbD j = if 384 ≤ j ∧ j < 396 then x.pois (j - 384) else b.marks.getLsbD j := by
  refine ⟨rfl, fun i hi => ?_, fun j hj => ?_⟩
  · show (BitVec.ofNat 512 (putBytes b.scale.toNat 0 48 _)).toNat / 256 ^ i % 256 = _
    rw [byte_ofNat _ _ (by omega), byte_putBytes, if_pos (by omega), Nat.sub_zero, byte_lanes _ (by omega)]
    split <;> simp
  · show (BitVec.ofNat 400 (putBits b.marks.toNat 384 12 _)).getLsbD j = _
    rw [getLsbD_ofNat_putBits _ _ _ _ _ hj, testBit_marks]
    split
    · next c => simp [show j - 384 < 16 by omega]
    · rfl
/-- BF16 from FP32, rounding to the nearest. -/
theorem convert_f32_bf16 (fi fo : Bool) (x : Nat) :
    convert .f32 .bf16 0 0 false fi fo x = fBF16.flush fo (fBF16.round 0 0 false (fF32.val (fF32.flush fi x))) := rfl
theorem el_lt (a : Acc) (i : Nat) : a.el i < 2 ^ 32 := by
  cases a with
  | sum e p =>
    show fld e.toNat (32 * i + 31) (32 * i) < 2 ^ 32
    rw [fld, show 32 * i + 31 + 1 - 32 * i = 32 by omega]
    exact Nat.mod_lt _ (by decide)
  | ranked n l => exact Nat.two_pow_pos 32
theorem lane_laneFn (f : Nat → Nat) (v p : BitVec 16) (t : BitVec 6) (k : TokKind) {c : Nat} (h : c < 16) :
    (Token.mk (laneFn f) v p t k).lane c = f c % 2 ^ 32 := by
  rw [lane_eq]
  exact laneFn_div_mod f h
theorem pois_bits16 (f : Nat → Bool) (d : BitVec 512) (v : BitVec 16) (t : BitVec 6) (k : TokKind) {c : Nat} (h : c < 16) :
    (Token.mk d v (bits16 f) t k).pois c = f c := testBit_bits16 f h

theorem loadedAndDrainedTokens : Claims.LoadedAndDrainedTokens := by
  refine ⟨fun b ty n x hn => ⟨fun plain => ldToken_plain b ty n x ?_ plain, ?_⟩, fun a acr n => ⟨⟨rfl, rfl, rfl, rfl, rfl, rfl⟩, fun c hc => ⟨?_, ?_, ?_, ?_⟩⟩⟩
  · split at hn <;> omega
  · rintro rfl rfl
    exact ldToken_scale b x
  · exact (lane_laneFn _ _ _ _ _ hc).trans (Nat.mod_eq_of_lt (el_lt a _))
  · exact pois_bits16 _ _ _ _ _ hc
  · exact lane_laneFn _ _ _ _ _ hc
  · exact pois_bits16 _ _ _ _ _ hc

/-! ## Ports and the progress of the item in hand -/

/-- A tile with another queue of its unit. -/
def withMq (x : Tile) (q : List MItem) : Tile := { x with mq := q }
/-- The queue with another progress of the item in hand. -/
def progressed (q : List MItem) (p : MProg) : List MItem := match q with | [] => [] | i :: r => { i with prog := p } :: r
theorem setProg_eq (s : State) (p : MProg) : s.setProg p = s.modTile s.ctx.tile fun x => withMq x (progressed x.mq p) := rfl
theorem progressed_progressed (q : List MItem) (a b : MProg) : progressed (progressed q a) b = progressed q b := by cases q <;> rfl
/-- A change of a tile that neither reads nor changes the unit's queue, and keeps the tasks. -/
def OffUnit (g : Tile → Tile) : Prop := ∀ x : Tile, (∀ q, g (withMq x q) = withMq (g x) q) ∧ (g x).tasks = x.tasks
theorem mq_offUnit {g : Tile → Tile} (h : OffUnit g) (x : Tile) : (g x).mq = x.mq := by
  have e := congrArg Tile.mq ((h x).1 x.mq)
  exact e
theorem modTile_modTile (s : State) (t : Nat) (f g : Tile → Tile) : (s.modTile t f).modTile t g = s.modTile t fun x => g (f x) := by
  unfold State.modTile
  rw [tile_setTile, if_pos rfl]
  exact congrArg (fun l => { s with tiles := l }) (Registers.alSet_alSet ..)
/-- A pop is a change of the issuer's tile off the unit, and the same one whatever the progress. -/
theorem pop_eq (s : State) (p : BitVec 3) : ∃ g, OffUnit g ∧ s.pop p = s.modTile s.ctx.tile g ∧
    ∀ a, (s.setProg a).pop p = (s.setProg a).modTile s.ctx.tile g := by
  unfold State.pop State.popOf
  by_cases rc : s.ctx.slot = 15
  · refine ⟨fun x => if p = 6 then { x with rc6 := x.rc6.tail } else { x with rc7 := x.rc7.tail }, fun x => ?_, if_pos rc, fun a => if_pos rc⟩
    split
    · exact ⟨fun _ => rfl, rfl⟩
    · exact ⟨fun _ => rfl, rfl⟩
  · refine ⟨fun y => { y with ph := vset y.ph s.cur.phase.toNat { s.curLt with
        inP := vset s.curLt.inP p.toNat { vget s.curLt.inP p.toNat {} with fifo := (vget s.curLt.inP p.toNat {}).fifo.tail } } },
      fun x => ⟨fun _ => rfl, rfl⟩, if_neg rc, fun a => ?_⟩
    refine (if_neg rc).trans ?_
    rw [cur_setProg, modLt_eq, show (s.setProg a).lt (s.setProg a).ctx.tile s.cur.phase = s.curLt by
      rw [← cur_setProg s a]; exact curLt_setProg s a]
    rfl
/-- A push is such a change too. -/
theorem push_eq (s : State) (p : BitVec 3) (x : Token) : ∃ g, OffUnit g ∧ s.push p x = s.modTile s.ctx.tile g := by
  by_cases rc : s.ctx.slot = 15
  · refine ⟨fun y => if p = 6 then { y with rc6 := y.rc6 ++ [.tok x] } else { y with rc7 := y.rc7 ++ [.tok x] }, fun y => ?_, if_pos rc⟩
    split
    · exact ⟨fun _ => rfl, rfl⟩
    · exact ⟨fun _ => rfl, rfl⟩
  · exact ⟨fun y => { y with ph := vset y.ph s.cur.phase.toNat { s.curLt with
        outP := vset s.curLt.outP p.toNat { vget s.curLt.outP p.toNat {} with fifo := (vget s.curLt.outP p.toNat {}).fifo ++ [.tok x] } } },
      fun x => ⟨fun _ => rfl, rfl⟩, if_neg rc⟩
theorem mq_modTile {s : State} {g : Tile → Tile} (h : OffUnit g) : ((s.modTile s.ctx.tile g).tile s.ctx.tile).mq = (s.tile s.ctx.tile).mq := by
  rw [modTile_eq, tile_setTile, if_pos rfl, mq_offUnit h]
theorem push_ctx (s : State) (p : BitVec 3) (x : Token) : (s.push p x).ctx = s.ctx := by
  obtain ⟨g, -, e⟩ := push_eq s p x
  rw [e]
  rfl
theorem mprog_push (s : State) (p : BitVec 3) (x : Token) : (s.push p x).mprog = s.mprog := by
  obtain ⟨g, h, e⟩ := push_eq s p x
  unfold State.mprog State.mitem
  rw [push_ctx, e, mq_modTile h]
theorem hasItem_pop {s : State} (h : HasItem s) (p : BitVec 3) : HasItem (s.pop p) := by
  obtain ⟨g, off, e, -⟩ := pop_eq s p
  unfold HasItem
  rw [Tasks.pop_ctx, e, mq_modTile off]
  exact h
/-- The progress that an item had before a pop and another progress does not matter. -/
theorem setProg_pop_setProg (s : State) (p : BitVec 3) (a b : MProg) : ((s.setProg a).pop p).setProg b = (s.pop p).setProg b := by
  obtain ⟨g, off, e, ea⟩ := pop_eq s p
  rw [ea, e]
  rw [setProg_eq, setProg_eq, setProg_eq]
  show ((s.modTile s.ctx.tile _).modTile s.ctx.tile g).modTile s.ctx.tile _ = (s.modTile s.ctx.tile g).modTile s.ctx.tile _
  rw [modTile_modTile, modTile_modTile, modTile_modTile]
  refine congrArg (s.setTile s.ctx.tile) ?_
  show withMq (g (withMq _ _)) (progressed (g (withMq _ _)).mq b) = withMq (g _) (progressed (g _).mq b)
  rw [(off _).1, mq_offUnit off, show ∀ x q, (withMq x q).mq = q from fun _ _ => rfl, progressed_progressed]
  rfl
theorem head_setProg (s : State) (a : MProg) (p : BitVec 3) : (s.setProg a).head p = s.head p := by
  unfold State.head State.headOf
  rw [cur_setProg, show (s.setProg a).ctx = s.ctx from rfl, tile_setProg, if_pos rfl]
  unfold State.lt
  rw [tile_setProg, if_pos rfl]
theorem inP_modMat (s : State) (f : MatState → MatState) :
    ((s.modMat f).curLt).inP = s.curLt.inP ∧ ((s.modMat f).tile s.ctx.tile).rc6 = (s.tile s.ctx.tile).rc6 ∧
      ((s.modMat f).tile s.ctx.tile).rc7 = (s.tile s.ctx.tile).rc7 ∧ ((s.modMat f).tile s.ctx.tile).rcGetw6 = (s.tile s.ctx.tile).rcGetw6 ∧
      ((s.modMat f).tile s.ctx.tile).rcGetw7 = (s.tile s.ctx.tile).rcGetw7 := by
  have lt : (s.modMat f).curLt = (s.modMat f).lt s.ctx.tile s.cur.phase := by
    unfold State.curLt
    rw [cur_modMat, modMat_ctx]
  rw [lt]
  unfold State.modMat
  split
  · unfold State.lt
    rw [modTile_eq, tile_setTile, if_pos rfl]
    exact ⟨rfl, rfl, rfl, rfl, rfl⟩
  · unfold State.modCurLt
    rw [modLt_eq, lt_setLt, if_pos ⟨rfl, rfl⟩, State.setLt, modTile_eq, tile_setTile, if_pos rfl]
    exact ⟨rfl, rfl, rfl, rfl, rfl⟩
theorem head_modMat (s : State) (f : MatState → MatState) (p : BitVec 3) : (s.modMat f).head p = s.head p := by
  obtain ⟨inP, rc6, rc7, g6, g7⟩ := inP_modMat s f
  unfold State.curLt at inP
  rw [cur_modMat, modMat_ctx] at inP
  unfold State.head State.headOf
  rw [cur_modMat, modMat_ctx, rc6, rc7, g6, g7, inP]

/-! ## The turns of a load from a port (R95, R208) -/

/-- An instruction that holds a port may go on: it has begun, or finds the port free. -/
def MayHold (s : State) (p : BitVec 3) : Prop := s.mprog = {} → s.bound false p = false
section
variable {s : State} {p : BitVec 3}
theorem needFree_busy (k : State → State) (h : s.mprog = {}) (b : s.bound false p = true) :
    needFree s [p] [] k = trap s 16 0 (w64 (8 + p.toNat)) := by
  unfold needFree
  rw [if_pos h, List.find?_cons, b, ← Tasks.w64_portCode]
theorem needFree_in (k : State → State) (h : MayHold s p) : needFree s [p] [] k = k s.begun := by
  unfold needFree State.begun
  by_cases new : s.mprog = {}
  · rw [if_pos new, if_pos new, List.find?_cons, h new]
    rfl
  · rw [if_neg new, if_neg new]
theorem head_begun (s : State) (p : BitVec 3) : s.begun.head p = s.head p := by
  unfold State.begun
  split
  · exact head_setProg s _ p
  · rfl
theorem held_begun (s : State) (h : HasItem s) : s.begun.mprog.held = s.mprog.held := by
  unfold State.begun
  split
  · next new => rw [mprog_setProg h, new]
  · rfl
theorem ldTurn_none (ty : StatTy) (h : MayHold s p) (none : s.head p = none) : ldTurn s p ty = park s.begun .port := by
  unfold ldTurn
  rw [needFree_in _ h]
  simp only [head_begun, none]
theorem ldTurn_token (ty : StatTy) (item : HasItem s) (h : MayHold s p) {y : Token} (head : s.head p = some y) :
    ldTurn s p ty =
      if y.kind ≠ .data then
        needData (if s.mprog.held.isEmpty then s.begun else s.begun.modMat fun m => { m with load := m.load.ldTokens ty s.mprog.held }) [p] s.begun
      else if (s.mprog.held ++ [y]).length = Machine.ldTokens ty then
        advance ((s.begun.pop p).modMat fun m => { m with load := m.load.ldTokens ty (s.mprog.held ++ [y]) }) 1
      else (s.begun.pop p).setProg { stage := 1, n := (s.mprog.held ++ [y]).length, held := s.mprog.held ++ [y] } := by
  unfold ldTurn
  rw [needFree_in _ h]
  simp only [head_begun, head, held_begun s item]
theorem needData_bad {u : State} {y : Token} (k : State) (head : u.head p = some y) (h : y.kind ≠ .data) :
    needData u [p] k = trap u 15 0 (w64 (8 + p.toNat)) := by
  unfold needData
  simp only [List.filter_cons, head, Option.getD_some, bne_iff_ne, ne_eq, h, not_false_eq_true, if_true, List.filter_nil]
  rw [← Tasks.w64_portCode]
  rfl
end
/-- Operands built token by token: one more token (R208). -/
theorem ldTokens_append (v : Stat) (ty : StatTy) (l : List Token) (y : Token) :
    v.ldTokens ty (l ++ [y]) = { (v.ldTokens ty l).ldToken ty l.length y with
      ty := if l.length + 1 = (if ty = .cb2 then 7 else 24) then ty else .none } := by
  unfold Stat.ldTokens
  rw [List.zipIdx_append, List.foldl_append, List.length_append, Nat.zero_add]
  rfl

/-! ## The turns of a drain (R215) -/

section
variable {s : State} {c : BitVec 4} {k : BitVec 3 → State} {r : Nat}
theorem needRoute_list (h : (s.acc c).isSum = false) : needRoute s c r k = accKind s c := if_pos (by rw [h]; rfl)
theorem needRoute_none (h : (s.acc c).isSum = true) (none : vget s.curLt.route r none = none) : needRoute s c r k = trap s 25 0 (w64 r) := by
  unfold needRoute
  rw [if_neg (by rw [h]; decide)]
  simp only [none]
theorem needRoute_some (h : (s.acc c).isSum = true) {o : BitVec 3} (some : vget s.curLt.route r none = some o) :
    needRoute s c r k = if s.bound true o then trap s 16 0 (w64 (8 + o.toNat)) else k o := by
  unfold needRoute
  rw [if_neg (by rw [h]; decide)]
  simp only [some, ← Tasks.w64_portCode]
end
/-- A turn of an `m.drain` that has begun. -/
def drains (s : State) (c : BitVec 4) (l bf : Bool) : State :=
  drainTurn s c bf (fun s => s.setProg { s.mprog with n := s.mprog.n + 1 }) fun s => advance (if l then s.setAcc c (.sum 0 0) else s) 1
theorem drains_eq {s : State} {q : MProg} {o : BitVec 3} (prog : s.mprog = q) (total : q.total = o.toNat) (c : BitVec 4) (l bf : Bool) :
    drains s c l bf = if !s.space o then park s .port
      else if q.n + 1 = (if bf then 8 else 16) then
        advance (if l then (s.push o (drainTok (s.acc c) s.macr bf q.n)).setAcc c (.sum 0 0) else s.push o (drainTok (s.acc c) s.macr bf q.n)) 1
      else (s.push o (drainTok (s.acc c) s.macr bf q.n)).setProg { q with n := q.n + 1 } := by
  have port : BitVec.ofNat 3 q.total = o := by rw [total, BitVec.ofNat_toNat, BitVec.setWidth_eq]
  have pushed : ∀ y, (s.push o y).mprog = q := fun y => (mprog_push s o y).trans prog
  unfold drains drainTurn
  simp only [prog, port, pushed]
/-- An `m.drain` that has begun goes on, whatever supplied its route. -/
theorem drain_goesOn {s : State} {q : MProg} {c : BitVec 4} (l bf : Bool) (hs : s.unitGoesOn q) (hc : s.ownsAcc c) (d : GOrPort) :
    exec (.mDrain c d l bf) s = .next (drains s c l bf) := by
  have ne : s.mprog ≠ {} := by rw [hs.2.2.1]; exact hs.2.2.2
  cases d with
  | g x w => exact congrArg Host.Outcome.next ((matOp_goesOn _ _ _ hs).trans ((needAcc_owns _ hc).trans (if_neg ne)))
  | port p => exact congrArg Host.Outcome.next ((matOp_goesOn _ _ _ hs).trans ((needAcc_owns _ hc).trans (if_neg ne)))
/-- The state in which a drain has found its route. -/
def drainBegun (s : State) (o : BitVec 3) : State := s.setProg { stage := 1, total := o.toNat }
theorem drainBegun_goesOn {s : State} (unit : s.ctx.unit = .minl ∨ s.ctx.unit = .mrun) (item : HasItem s) (o : BitVec 3) :
    (drainBegun s o).unitGoesOn { stage := 1, total := o.toNat } :=
  ⟨unit, hasItem_setProg item _, mprog_setProg item _, fun e => absurd (congrArg MProg.stage e) (by decide : ¬ (1 : Nat) = 0)⟩
theorem drain_starts_g {s : State} {c x : BitVec 4} {a : DWord} (w l bf : Bool) (hs : s.unitStarts) (hc : s.ownsAcc c) (hx : s.full x a) :
    exec (.mDrain c (.g x w) l bf) s = .next (needRoute s c (a.toNat % 8) fun o => drains (drainBegun s o) c l bf) := by
  refine congrArg Host.Outcome.next ((matOp_starts_g _ _ hs hx).trans ((needAcc_owns _ hc).trans ((if_pos hs.2.2).trans ?_)))
  rw [show (s.g x).val = a from congrArg GReg.val hx]
  rfl
theorem drain_starts_port {s : State} {c : BitVec 4} (p : BitVec 3) (l bf : Bool) (hs : s.unitStarts) (hc : s.ownsAcc c)
    (sum : (s.acc c).isSum = true) :
    exec (.mDrain c (.port p) l bf) s = .next (needPorts s [p] [] (needData s [p] (needRoute s c (((s.head p).getD {}).lane 0 % 8)
      fun o => drains (drainBegun (s.pop p) o) c l bf))) := by
  refine congrArg Host.Outcome.next ((matOp_starts _ _ _ hs).trans ((needAcc_owns _ hc).trans ((if_pos hs.2.2).trans (if_neg ?_))))
  rw [sum]
  decide
theorem needPorts_input_bound {s : State} {p : BitVec 3} (k : State) (h : s.bound false p = true) :
    needPorts s [p] [] k = trap s 16 0 (w64 (8 + p.toNat)) := by
  unfold needPorts
  rw [List.find?_cons, h, ← Tasks.w64_portCode]
/-- A drain with a route of its own, wherever it comes from. -/
theorem drain_routes {s u : State} {c : BitVec 4} {l bf : Bool} {r : Nat} {d : GOrPort} (unit : u.ctx.unit = .minl ∨ u.ctx.unit = .mrun)
    (item : HasItem u) (hc : u.ownsAcc c) (sum : (s.acc c).isSum = true)
    (meaning : exec (.mDrain c d l bf) s = .next (needRoute s c r fun o => drains (drainBegun u o) c l bf)) :
    (vget s.curLt.route r none = none → exec (.mDrain c d l bf) s = s.traps 25 0 (w64 r)) ∧
    ∀ o, vget s.curLt.route r none = some o →
      (s.bound true o = true → exec (.mDrain c d l bf) s = s.traps 16 0 (w64 (8 + o.toNat))) ∧
      (s.bound true o = false → exec (.mDrain c d l bf) s = exec (.mDrain c d l bf) (drainBegun u o)) := by
  refine ⟨fun none => ?_, fun o some => ⟨fun busy => ?_, fun free => ?_⟩⟩
  · rw [meaning, needRoute_none sum none]
    rfl
  · rw [meaning, needRoute_some sum some, if_pos busy]
    rfl
  · rw [meaning, needRoute_some sum some, if_neg (by rw [free]; decide), drain_goesOn l bf (drainBegun_goesOn unit item o) hc]

theorem matrixTokensTurnByTurn : Claims.MatrixTokensTurnByTurn := by
  intro s c x p f w l b y q a n
  have tokens : Machine.ldTokens (ldType f) = n := by
    unfold Machine.ldTokens
    exact if_congr ldType_eq_cb2 rfl rfl
  have more : n ≠ 1 := by
    show (if f = .cb2 then 7 else 24) ≠ 1
    split <;> decide
  have loads : ∀ s : State, s.unitStarts ∨ (∃ q, s.unitGoesOn q) → exec (.mLd f (.port p)) s = .next (ldTurn s p (ldType f)) := by
    rintro s (hs | ⟨q, hs⟩)
    · exact congrArg Host.Outcome.next (matOp_starts _ _ _ hs)
    · exact congrArg Host.Outcome.next (matOp_goesOn _ _ _ hs)
  refine ⟨fun hs busy => ?_, fun on => ?_, fun v ty l => ⟨ldTokens_append v ty l y, ?_⟩, fun hs hc => ⟨fun list => ⟨?_, fun hx => ?_⟩, fun sum => ?_⟩,
    fun o hs total hc d hd => ?_⟩
  · rw [loads s (.inl hs)]
    exact congrArg Host.Outcome.next (needFree_busy _ hs.2.2 busy)
  · have go : s.unitStarts ∨ (∃ q, s.unitGoesOn q) := by
      obtain ⟨hs, -⟩ | hs := on
      · exact .inl hs
      · exact .inr ⟨q, hs⟩
    have item : HasItem s := by
      obtain ⟨hs, -⟩ | hs := on
      · exact hasItem_of_starts hs
      · exact hasItem_of_goesOn hs
    have prog : s.mprog = q := by
      obtain ⟨hs, rfl, -⟩ | hs := on
      · exact hs.2.2
      · exact hs.2.2.1
    have hold : MayHold s p := by
      obtain ⟨-, -, free⟩ | hs := on
      · exact fun _ => free
      · exact fun new => absurd (hs.2.2.1.symm.trans new) hs.2.2.2
    have begun : q ≠ {} → s.begun = s := fun ne => if_neg (by rw [prog]; exact ne)
    rw [loads s go]
    refine ⟨fun none => congrArg Host.Outcome.next (ldTurn_none _ hold none), fun head kind => ?_, fun head kind => ?_⟩
    · have turn := ldTurn_token (ldType f) item hold head
      rw [if_pos kind, prog] at turn
      refine ⟨fun none => ?_, fun some => ?_⟩
      · rw [turn, none]
        exact congrArg Host.Outcome.next (needData_bad _ ((head_begun s p).trans head) kind)
      · have ne : q ≠ {} := fun e => some (by rw [e])
        rw [turn, begun ne, if_neg (by rw [List.isEmpty_iff]; exact some)]
        exact congrArg Host.Outcome.next (needData_bad _ ((head_modMat s _ p).trans head) kind)
    · have turn := ldTurn_token (ldType f) item hold head
      rw [if_neg (not_not_intro kind), prog, tokens] at turn
      intro l
      refine ⟨fun len => ?_, fun len => ?_⟩
      · rw [turn, if_neg len]
        unfold State.begun
        split
        · rw [setProg_pop_setProg]
        · rfl
      · have ne : q ≠ {} := by
          rintro rfl
          exact more len.symm
        rw [turn, if_pos len, begun ne]
        rfl
  · show Stat.ldTokens ty v [] = _
    unfold Stat.ldTokens Machine.ldTokens
    rw [if_neg]
    · rfl
    · split <;> decide
  · refine congrArg Host.Outcome.next ((matOp_starts _ _ _ hs).trans ((needAcc_owns _ hc).trans ((if_pos hs.2.2).trans (if_pos ?_))))
    rw [list]
    rfl
  · exact congrArg Host.Outcome.next ((matOp_starts_g _ _ hs hx).trans ((needAcc_owns _ hc).trans ((if_pos hs.2.2).trans (needRoute_list list))))
  · refine ⟨fun busy => ?_, fun free none => ?_, fun free head kind => ?_, fun d hd ready => ?_⟩
    · rw [drain_starts_port p l b hs hc sum, needPorts_input_bound _ busy]
      rfl
    · rw [drain_starts_port p l b hs hc sum, ScalarControl.needPorts_input _ free, none]
      rfl
    · rw [drain_starts_port p l b hs hc sum, ScalarControl.needPorts_input _ free, head, Option.isSome_some, if_pos rfl, needData_bad _ head kind]
      rfl
    · simp only [List.mem_cons, List.not_mem_nil, or_false] at hd
      obtain rfl | rfl := hd
      · exact drain_routes hs.1 hs.2.1 hc sum (drain_starts_g w l b hs hc ready)
      · obtain ⟨free, head, kind⟩ := ready
        refine drain_routes (u := s.pop p) (by rw [Tasks.pop_ctx]; exact hs.1) (hasItem_pop hs.2.1 p)
          (by unfold State.ownsAcc State.rcTask; rw [Tasks.pop_ctx]; exact hc) sum ?_
        rw [drain_starts_port p l b hs hc sum, ScalarControl.needPorts_input _ free, head, Option.isSome_some, if_pos rfl,
          needData_ok _ (fun r hr => ⟨y, by rwa [List.mem_singleton.1 hr], kind⟩)]
        rfl
  · have meaning : exec (.mDrain c d l b) s = .next (drains s c l b) := drain_goesOn l b hs hc d
    rw [meaning, drains_eq hs.2.2.1 total]
    refine ⟨fun full => ?_, fun room => ⟨fun more => ?_, fun last => ?_⟩⟩
    · rw [if_pos (by rw [full]; rfl)]
      rfl
    · rw [if_neg (by rw [room]; decide), if_neg more]
    · rw [if_neg (by rw [room]; decide), if_pos last]
      rfl

/-! ## Grouped products (R213) -/

theorem setProg_setProg (s : State) (a b : MProg) : (s.setProg a).setProg b = s.setProg b := by
  rw [setProg_eq, setProg_eq, setProg_eq]
  show (s.modTile s.ctx.tile _).modTile s.ctx.tile _ = _
  rw [modTile_modTile]
  refine congrArg (s.setTile s.ctx.tile) ?_
  show withMq _ (progressed (withMq _ _).mq b) = _
  rw [show ∀ x q, (withMq x q).mq = q from fun _ _ => rfl, progressed_progressed]
  rfl
section
variable {s : State} {c x : BitVec 4} {r : BitVec 2} {f : MatFmt} {k : Option (BitVec 2)} {w : Bool} {t p : BitVec 3} {a : DWord} {q : MProg}
/-- The start of an `m.grp`. -/
theorem grp_starts (hs : s.unitStarts) (hx : s.full x a) (hc : s.ownsAcc c) (hr : s.ownsRing r) (hk : ∀ m ∈ k, s.mBusy m = false) :
    exec (.mGrp c r f k x w t p) s = .next (need64 s a.toNat 8 (
      if 255 < s.spN a.toNat 4 then trap s 27 0 (w64 (s.spN a.toNat 4))
      else need64 s a.toNat (4 * (s.spN a.toNat 4 + 2)) (
        if s.spN a.toNat 4 ≠ 0 ∧ s.bound false p = true then trap s 16 0 (w64 (portCode p))
        else s.setProg { stage := 1, total := s.spN a.toNat 4, ea := a.toNat, top := s.offset a.toNat 1
                         busy := ((vget s.curLt.route t.toNat none).map (s.bound true)).getD false }))) := by
  refine congrArg Host.Outcome.next ((matOp_starts _ _ _ hs).trans ((needGT_full _ hx).trans ((preM_free _ hk).trans
    ((needAcc_owns _ hc).trans ((needRing_owns _ hr).trans ((if_pos hs.2.2).trans ?_))))))
  rw [show (s.g x).val = a from congrArg GReg.val hx]
theorem grp_goesOn (hs : s.unitGoesOn q) (hc : s.ownsAcc c) (hr : s.ownsRing r) :
    exec (.mGrp c r f k x w t p) s = .next (grpTurn s c r f k t p) :=
  congrArg Host.Outcome.next ((matOp_goesOn _ _ _ hs).trans ((needAcc_owns _ hc).trans ((needRing_owns _ hr).trans
    (if_neg (by rw [hs.2.2.1]; exact hs.2.2.2)))))
/-- A trap of an `m.grp` gives back the tokens of its group. -/
theorem grpTrap_eq (prog : s.mprog = q) (n : Nat) (v : DWord) :
    grpTrap s f p n v = trap ((s.unpopAll p q.held).tellNan (256 + f.code)) n 0 v := by
  unfold grpTrap
  rw [prog]
  rfl

/-- The route of a group's drains, which one without entries does not need. -/
theorem grpRoute_some (prog : s.mprog = q) {u : BitVec 3} (h : vget s.curLt.route t.toNat none = some u) :
    s.grpRoute t = if q.busy then .error (16, w64 (8 + u.toNat)) else .ok u := by
  unfold State.grpRoute
  simp only [h, prog, Tasks.w64_portCode]
theorem grpRoute_none (h : vget s.curLt.route t.toNat none = none) : s.grpRoute t = .error (25, w64 t.toNat) := by
  unfold State.grpRoute
  simp only [h]
/-- A group whose offset is in order is loaded next where its route serves, and traps where it does not. -/
theorem grpCheck_badRoute (prog : s.mprog = q) (more : q.grp ≠ q.total) (low : (q.off : Int) ≤ s.offset q.ea (2 + q.grp))
    (high : s.offset q.ea (2 + q.grp) ≤ q.top) {n : Nat} {v : DWord}
    (route : (if (s.offset q.ea (2 + q.grp)).toNat = q.off then .ok 0 else s.grpRoute t) = .error (n, v)) :
    grpCheck s f t p = trap ((s.unpopAll p q.held).tellNan (256 + f.code)) n 0 v := by
  rw [← grpTrap_eq prog]
  unfold grpCheck
  simp only [prog]
  rw [if_neg more, if_neg (by omega), if_neg (by omega)]
  simp only [route]
theorem grpCheck_goodRoute (prog : s.mprog = q) (more : q.grp ≠ q.total) (low : (q.off : Int) ≤ s.offset q.ea (2 + q.grp))
    (high : s.offset q.ea (2 + q.grp) ≤ q.top) {u : BitVec 3}
    (route : (if (s.offset q.ea (2 + q.grp)).toNat = q.off then .ok 0 else s.grpRoute t) = .ok u) :
    grpCheck s f t p = s.setProg { q with stage := 2, n := 0, count := (s.offset q.ea (2 + q.grp)).toNat - q.off } := by
  unfold grpCheck
  simp only [prog]
  rw [if_neg more, if_neg (by omega), if_neg (by omega)]
  simp only [route]
theorem grpCheck_stage (prog : s.mprog = q) :
    (q.grp = q.total → grpCheck s f t p = s.setProg { q with stage := 5, n := 0 }) ∧
    (q.grp ≠ q.total →
      (s.offset q.ea (2 + q.grp) < q.off → grpCheck s f t p = trap ((s.unpopAll p q.held).tellNan (256 + f.code)) 26 0 (w64 q.grp)) ∧
      ((q.off : Int) ≤ s.offset q.ea (2 + q.grp) → q.top < s.offset q.ea (2 + q.grp) →
        grpCheck s f t p = trap ((s.unpopAll p q.held).tellNan (256 + f.code)) 27 0 (w64 q.grp))) := by
  unfold grpCheck
  simp only [prog, grpTrap_eq prog]
  refine ⟨fun e => if_pos e, fun ne => ⟨fun low => ?_, fun low high => ?_⟩⟩
  · rw [if_neg ne, if_pos low]
  · rw [if_neg ne, if_neg (by omega), if_pos high]

/-! ### The load of a group's operand, and the swap marks of its entries (R205, R208, R209) -/

theorem grpLoad_waits (prog : s.mprog = q) (short : q.held.length < Machine.ldTokens (bType f)) (none : s.head p = none) :
    grpLoad s r f p = park s .port := by
  unfold grpLoad
  simp only [prog]
  rw [if_pos short]
  simp only [none]
theorem grpLoad_takes (prog : s.mprog = q) (short : q.held.length < Machine.ldTokens (bType f)) {y : Token} (head : s.head p = some y) :
    grpLoad s r f p = if y.kind ≠ .data then trap ((s.unpopAll p q.held).tellNan (256 + f.code)) 15 0 (w64 (8 + p.toNat))
      else (s.pop p).setProg { q with held := q.held ++ [y], n := q.n + 1 } := by
  rw [← grpTrap_eq prog, ← Tasks.w64_portCode]
  unfold grpLoad
  simp only [prog]
  rw [if_pos short]
  simp only [head]
/-- The operand of a group, loaded and exchanged. -/
def grpLoaded (s : State) (f : MatFmt) (l : List Token) : State :=
  s.modMat fun m => { m with act := m.load.ldTokens (bType f) l, load := m.act }
theorem grpLoad_marks (prog : s.mprog = q) (full : Machine.ldTokens (bType f) ≤ q.held.length) :
    (s.grpMarks r f q.count = .wait → grpLoad s r f p = park s .matrix) ∧
    (s.grpMarks r f q.count = .bad → grpLoad s r f p =
      trap ((s.unpopAll p q.held).tellNan (256 + f.code)) 24 0 (w64 (Machine.statCode s.mat.act.ty))) ∧
    (s.grpMarks r f q.count = .ok → q.count ≠ 0 →
      grpLoad s r f p = (grpLoaded s f q.held).setProg { q with stage := 3, n := 0, held := [] }) ∧
    (s.grpMarks r f q.count = .ok → q.count = 0 →
      grpLoad s r f p = (grpLoaded s f q.held).setProg { q with stage := 1, grp := q.grp + 1, n := 0, held := [] }) := by
  have kept : (grpLoaded s f q.held).mprog = q := (mprog_modMat s _).trans prog
  rw [← grpTrap_eq prog]
  unfold grpLoad
  simp only [prog, if_neg (Nat.not_lt.2 full)]
  refine ⟨fun m => ?_, fun m => ?_, fun m some => ?_, fun m none => ?_⟩
  · simp only [m]
  · simp only [m]
  · simp only [m, if_neg some]
    rfl
  · simp only [m, if_pos none]
    show (grpLoaded s f q.held).setProg { (grpLoaded s f q.held).mprog with
      stage := 1, grp := (grpLoaded s f q.held).mprog.grp + 1, n := 0, held := [] } = _
    rw [kept]
/-- A swap mark of the ring leaves the other register active at entry j from HEAD. -/
def SwappedAt (g : Ring) (j : Nat) : Prop := (g.marks.filter fun m => atMost m (g.head + .ofNat 32 (24 * j))).length % 2 = 1
theorem grpMarks_ok (n : Nat) (h : s.mat.act.ty = bType f ∨ n = 0 ∨ ((s.ring r).feed = none ∧ (s.ring r).marks = [])) :
    s.grpMarks r f n = .ok := by
  refine if_pos ?_
  obtain h | h | ⟨hf, hm⟩ := h
  · exact .inr (.inl h)
  · exact .inl h
  · exact .inr (.inr ⟨by rw [hf]; rfl, hm⟩)
theorem any_swapped (g : Ring) (k : Nat) :
    ((upTo k).any fun j => (g.marks.filter fun m => atMost m (g.head + .ofNat 32 (24 * j))).length % 2 == 1) = true ↔
      ∃ j < k, SwappedAt g j := by
  simp only [upTo_eq_range, List.any_eq_true, List.mem_range, beq_iff_eq]
  rfl
theorem swapped_of_bad {n : Nat} (h : s.grpMarks r f n = .bad) : ∃ j < n, SwappedAt (s.ring r) j := by
  unfold State.grpMarks at h
  simp only at h
  split_ifs at h with _ _ swapped
  obtain ⟨j, hj, sw⟩ := (any_swapped _ _).1 swapped
  exact ⟨j, by omega, sw⟩
theorem bad_of_swapped {n : Nat} (ty : s.mat.act.ty ≠ bType f) (size : n ≤ (s.ring r).size)
    (come : 24 * n ≤ ((s.ring r).tail - (s.ring r).head).toNat) (swapped : ∃ j < n, SwappedAt (s.ring r) j) : s.grpMarks r f n = .bad := by
  have here : min n (s.ring r).size = n := Nat.min_eq_left size
  obtain ⟨j, hj, sw⟩ := swapped
  have marked : (s.ring r).marks ≠ [] := by
    intro e
    rw [SwappedAt, e] at sw
    exact absurd sw (by simp)
  unfold State.grpMarks
  simp only [here]
  rw [if_neg, if_neg, if_pos ((any_swapped _ _).2 ⟨j, hj, sw⟩)]
  · omega
  · rintro (none | same | ⟨-, none⟩)
    · omega
    · exact ty same
    · exact marked none

/-! ### The drain of an entry's product, and the entries past the last group -/

theorem grpDrain_route (prog : s.mprog = q) (item : HasItem s) {o : BitVec 3} (route : vget s.curLt.route t.toNat none = some o) :
    (s.space o = false → grpDrain s c t = park s .port) ∧
    (s.space o = true →
      let u := s.push o (drainTok (s.acc c) s.macr false q.n)
      let next := { q with n := 0, off := q.off + 1, count := q.count - 1 }
      (q.n + 1 < 16 → grpDrain s c t = u.setProg { q with n := q.n + 1 }) ∧
      (16 ≤ q.n + 1 → 1 < q.count → grpDrain s c t = u.setProg { next with stage := 3 }) ∧
      (16 ≤ q.n + 1 → q.count ≤ 1 → grpDrain s c t = u.setProg { next with stage := 1, grp := q.grp + 1, held := [] })) := by
  unfold grpDrain
  simp only [prog, route]
  refine ⟨fun full => if_pos (by rw [full]; rfl), fun room => ?_⟩
  rw [if_neg (by rw [room]; decide)]
  refine ⟨fun more => if_pos more, fun last many => ?_, fun last one => ?_⟩
  · rw [if_neg (Nat.not_lt.2 last), if_neg (Nat.not_le.2 many)]
  · rw [if_neg (Nat.not_lt.2 last), if_pos one]
    have item' : HasItem (s.push o (drainTok (s.acc c) s.macr false q.n)) := by
      obtain ⟨g, off, e⟩ := push_eq s o (drainTok (s.acc c) s.macr false q.n)
      unfold HasItem
      rw [push_ctx, e, mq_modTile off]
      exact item
    unfold grpNext
    rw [mprog_setProg item', setProg_setProg]
theorem grpTail_eq (prog : s.mprog = q) : grpTail s r f = if q.top ≤ q.off then advance (s.tellNan (256 + f.code)) 1
    else withEntry s r fun s => (s.modRing r Ring.popEntry).setProg { q with off := q.off + 1 } := by
  unfold grpTail
  rw [prog]
  rfl
end

theorem groupedProductChecksAndEnds : Claims.GroupedProductChecksAndEnds := by
  intro s c x r f k w t p a q i word route busy hc hr hk
  have taken : Machine.ldTokens (bType f) = if bType f = .cb2 then 7 else 24 := rfl
  refine ⟨fun hs hx => ?_, fun hs => ?_⟩
  · have meaning : exec i s = _ := grp_starts (w := w) (t := t) (p := p) hs hx hc hr hk
    have self : w64 a.toNat = a := MemIssue.w64_self a
    rw [meaning]
    refine ⟨fun out => ?_, fun inn odd => ?_, fun inn even => ⟨fun many => ?_, fun few out => ?_, fun few inn' => ⟨fun some bound => ?_, fun ok => ?_⟩⟩⟩
    · rw [need64_range out, self]
      rfl
    · rw [need64_uneven inn odd, self]
      rfl
    all_goals rw [need64_ok inn even]
    · exact congrArg Host.Outcome.next (if_pos many)
    · exact congrArg Host.Outcome.next ((if_neg (Nat.not_lt.2 few)).trans ((need64_range out).trans (by rw [self])))
    · refine congrArg Host.Outcome.next ((if_neg (Nat.not_lt.2 few)).trans ((need64_ok inn' even).trans ((if_pos ⟨some, bound⟩).trans ?_)))
      rw [Tasks.w64_portCode]
    · refine ⟨((vget s.curLt.route t.toNat none).map (s.bound true)).getD false, ?_, ?_⟩
      rotate_left
      · refine congrArg Host.Outcome.next ((if_neg (Nat.not_lt.2 few)).trans ((need64_ok inn' even).trans (if_neg ?_)))
        rintro ⟨some, bound⟩
        obtain none | free := ok
        · exact some none
        · rw [free] at bound
          exact absurd bound (by decide)
      · show _ ↔ ∃ o, route = some o ∧ s.bound true o = true
        rw [show (vget s.curLt.route t.toNat none) = route from rfl]
        cases route with
        | none => simp
        | some o => simp
  · have prog : s.mprog = q := hs.2.2.1
    have meaning : exec i s = .next (grpTurn s c r f k t p) := grp_goesOn hs hc hr
    have turn : ∀ {u : State}, grpTurn s c r f k t p = u → exec i s = .next u := fun e => meaning.trans (congrArg Host.Outcome.next e)
    intro back
    refine ⟨fun st last => ?_, fun st more => ?_, fun st short => ?_, fun st full => ?_, fun st => ?_, fun st o some => ?_, fun st => ?_⟩
    all_goals
      replace turn := @turn
      unfold grpTurn at turn
      simp only [prog, st] at turn
    · exact turn ((grpCheck_stage prog).1 last)
    · intro o
      have off : s.offset q.ea (2 + q.grp) = o := rfl
      refine ⟨fun low => turn (((grpCheck_stage prog).2 more).1 low), fun low high => turn (((grpCheck_stage prog).2 more).2 low high),
        fun low high => ⟨fun none => ?_, fun u some held => ?_⟩, fun low high ok => ?_⟩
      · refine turn (grpCheck_badRoute prog more (Int.le_of_lt low) high ((if_neg ?_).trans (grpRoute_none none)))
        omega
      · refine turn (grpCheck_badRoute prog more (Int.le_of_lt low) high ((if_neg ?_).trans ((grpRoute_some prog some).trans (if_pos held))))
        omega
      · obtain same | ⟨some, free⟩ := ok
        · exact turn (grpCheck_goodRoute prog more low high (if_pos (by omega)))
        · obtain ⟨u, some⟩ := Option.ne_none_iff_exists'.1 some
          by_cases same : o = q.off
          · exact turn (grpCheck_goodRoute prog more low high (if_pos (by omega)))
          · refine turn (grpCheck_goodRoute prog more low high ((if_neg ?_).trans ((grpRoute_some prog some).trans (if_neg ?_))))
            · omega
            · rw [free]
              decide
    · rw [← taken] at short
      refine ⟨fun none => turn (grpLoad_waits prog short none), fun y head => ⟨fun kind => ?_, fun kind => ?_⟩⟩
      · exact turn ((grpLoad_takes prog short head).trans (if_pos kind))
      · exact turn ((grpLoad_takes prog short head).trans (if_neg (not_not_intro kind)))
    · rw [← taken] at full
      obtain ⟨waits, bad, next, empty⟩ := grpLoad_marks (s := s) (r := r) (f := f) (p := p) prog full
      intro u g swapped
      exact ⟨fun m => turn (waits m), fun m => turn (bad m), fun m some => turn (next m some), fun m none => turn (empty m none),
        grpMarks_ok q.count, swapped_of_bad, bad_of_swapped⟩
    · refine ⟨fun none => turn (mmaEntry_none none), fun entry => ?_⟩
      intro u l v
      refine ⟨fun ty => ?_, fun ty => ?_⟩
      · exact turn (mmaEntry_product entry (.inl rfl) ty)
      · exact turn (mmaEntry_type entry (.inl rfl) ty)
    · obtain ⟨full, room⟩ := grpDrain_route (c := c) prog (hasItem_of_goesOn hs) some
      refine ⟨fun h => turn (full h), fun h => ?_⟩
      obtain ⟨more, many, one⟩ := room h
      exact ⟨fun a => turn (more a), fun a b => turn (many a b), fun a b => turn (one a b)⟩
    · have tail : grpTail s r f = _ := grpTail_eq prog
      refine ⟨fun all => turn (tail.trans (if_pos all)), fun left entry => ?_, fun left none => ?_⟩
      · exact turn (tail.trans ((if_neg (by omega)).trans (withEntry_entry _ entry)))
      · exact turn (tail.trans ((if_neg (by omega)).trans (withEntry_none _ none)))

/-- Settles O22: the words of one turn, those that move a token a turn, grouped products, and what the tokens hold. -/
theorem matrixUnitMovesTurnByTurn : Obligations.MatrixUnitMovesTurnByTurn :=
  ⟨matrixMovesInOneTurn, matrixTokensTurnByTurn, groupedProductChecksAndEnds, loadedAndDrainedTokens⟩

end Sys2Proof.Proofs.MatMoves
end

section
/-! PROOFS. Ring control and the feeds of rings (R202 to R206, R303). -/
namespace Sys2Proof.Proofs.Rings
open Sys2Proof Sys2Proof.Machine Sys2Proof.Proofs.MatUnit Sys2Proof.Proofs.MatMoves
set_option Elab.async false

/-! ## Ring control (R206) -/

section
variable {s : State} {r : BitVec 2}
theorem needRing_bad (k : State) (h : (s.rcTask = true ∧ r ≠ 3) ∨ (s.ring r).size = 0) : needRing s r k = trap s 29 0 (w64 r.toNat) := by
  refine if_pos ?_
  simpa [State.ring] using h
/-- A count is delivered inline, after the destination's check. -/
theorem ringCount_inline {x : BitVec 4} (i : Instr) (f : Ring → BitVec 32) (hs : s.unitStarts) (hx : s.takes x) (hu : s.ctx.unit = .minl) :
    ringCount s i r x f = needRing s r (advance (s.setG x (w64 (f (s.ring r)).toNat)) 1) := by
  refine (matOp_starts _ _ _ hs).trans ((needD_takes _ hx).trans ?_)
  simp only [hu]
theorem ringCount_run {x : BitVec 4} (i : Instr) (f : Ring → BitVec 32) (hs : s.unitStarts) (hx : s.takes x) (hu : s.ctx.unit = .mrun) :
    ringCount s i r x f = trap s 28 0 (w64 s.matPc) := by
  refine (matOp_starts _ _ _ hs).trans ((needD_takes _ hx).trans ?_)
  simp only [hu]
theorem popTurn_eq {q : MProg} (h : s.mprog = q) : popTurn s r = withEntry s r fun s =>
    if q.n + 1 = q.count then advance (s.modRing r Ring.popEntry) 1 else (s.modRing r Ring.popEntry).setProg { q with n := q.n + 1 } := by
  unfold popTurn
  rw [h]
/-- Placing a ring by a g operand, on a unit that starts. -/
theorem ringSet_g {x : BitVec 4} {a : DWord} (w : Bool) (hs : s.unitStarts) (hx : s.full x a) (own : s.rcTask = true → r = 3) :
    exec (.ringSet r (some (x, w))) s = .next (if s.ringUsed r then park s .matrix
      else
        let base := bfld a 12 0
        let size := bfld a 23 16
        let lo := if s.rcTask then 0x7_A000 else 0
        let hi := if s.rcTask then 0x8_0000 else shareBytes (s.tile s.ctx.tile).fold
        if size = 0 ∨ base * 64 < lo ∨ hi < base * 64 + 1536 * size then trap s 5 0 (w64 (base * 64))
        else advance (s.modRing r fun q => { q.clear with base := base, size := size }) 1) := by
  refine congrArg Host.Outcome.next ((matOp_starts_g _ _ hs hx).trans ((if_neg ?_).trans ?_))
  · rw [Bool.and_eq_true, bne_iff_ne]
    exact fun ⟨rc, ne⟩ => ne (own rc)
  · rw [show (s.g x).val = a from congrArg GReg.val hx]
theorem ringSet_none (hs : s.unitStarts) : exec (.ringSet r none) s = .next (needRing s r (
    if s.ringUsed r then park s .matrix else advance (s.modRing r Ring.clear) 1)) :=
  congrArg Host.Outcome.next (matOp_starts _ _ _ hs)
theorem ringPop_starts {x : BitVec 4} {a : DWord} (w : Bool) (hs : s.unitStarts) (hx : s.full x a) : exec (.ringPop r x w) s =
    .next (needRing s r (if a = 0 then advance s 1 else popTurn (s.setProg { stage := 1, count := a.toNat }) r)) := by
  refine congrArg Host.Outcome.next ((matOp_starts_g _ _ hs hx).trans ?_)
  rw [if_pos hs.2.2, show (s.g x).val = a from congrArg GReg.val hx]
end

theorem ringControlWords : Claims.RingControlWords := by
  intro s e r x w a q
  constructor
  · intro hs bad none_
    refine ⟨fun hb => ⟨?_, fun hx => ?_, fun hx hu => ⟨?_, ?_⟩⟩, fun rc ne hx => ?_, fun used => ⟨fun own => ?_, fun own hx => ?_⟩,
      fun free => ⟨fun own => ?_, fun hx own => ?_⟩, fun hx hu => ⟨?_, ?_⟩, fun own hx hu => ⟨?_, ?_⟩, fun own hx => ?_⟩
    · exact (ringSet_none hs).trans (congrArg Host.Outcome.next (needRing_bad _ hb))
    · exact (ringPop_starts w hs hx).trans (congrArg Host.Outcome.next (needRing_bad _ hb))
    · exact congrArg Host.Outcome.next ((ringCount_inline _ _ hs hx hu).trans (needRing_bad _ hb))
    · exact congrArg Host.Outcome.next ((ringCount_inline _ _ hs hx hu).trans (needRing_bad _ hb))
    · exact congrArg Host.Outcome.next ((matOp_starts_g _ _ hs hx).trans (if_pos (by rw [rc]; exact bne_iff_ne.2 ne)))
    · exact (ringSet_none hs).trans (congrArg Host.Outcome.next ((needRing_owns _ own).trans (if_pos used)))
    · exact (ringSet_g w hs hx own).trans (congrArg Host.Outcome.next (if_pos used))
    · exact (ringSet_none hs).trans (congrArg Host.Outcome.next ((needRing_owns _ own).trans (if_neg (by rw [free]; decide))))
    · have place := (ringSet_g w hs hx own).trans (congrArg Host.Outcome.next (if_neg (by rw [free]; decide)))
      intro base size lo hi fits
      refine ⟨fun h => place.trans (congrArg Host.Outcome.next (if_neg ?_)), fun h => place.trans (congrArg Host.Outcome.next (if_pos ?_))⟩
      · obtain ⟨some, low, high⟩ := h
        rintro (none | low' | high')
        · exact some none
        · exact Nat.not_lt.2 low low'
        · exact Nat.not_lt.2 high high'
      · by_contra no
        obtain ⟨some, ok⟩ := not_or.1 no
        obtain ⟨low, high⟩ := not_or.1 ok
        exact h ⟨some, Nat.not_lt.1 low, Nat.not_lt.1 high⟩
    · exact congrArg Host.Outcome.next (ringCount_run _ _ hs hx hu)
    · exact congrArg Host.Outcome.next (ringCount_run _ _ hs hx hu)
    · exact congrArg Host.Outcome.next ((ringCount_inline _ _ hs hx hu).trans (needRing_owns _ own))
    · exact congrArg Host.Outcome.next ((ringCount_inline _ _ hs hx hu).trans (needRing_owns _ own))
    · exact (ringPop_starts w hs hx).trans (congrArg Host.Outcome.next ((needRing_owns _ own).trans (if_pos rfl)))
  · intro own start u
    have turn : exec (.ringPop r x w) s = .next (popTurn e r) ∧ e.mprog = q ∧ (e.hasEntry r ↔ s.hasEntry r) := by
      obtain ⟨hs, ⟨n, hn, hx, rfl⟩, rfl⟩ | ⟨hs, rfl⟩ := start
      · exact ⟨(ringPop_starts w hs hx).trans (congrArg Host.Outcome.next ((needRing_owns _ own).trans (if_neg hn))),
          mprog_setProg hs.2.1 _, hasEntry_setProg ..⟩
      · exact ⟨congrArg Host.Outcome.next ((matOp_goesOn _ _ _ hs).trans ((needRing_owns _ own).trans
          (if_neg (by rw [hs.2.2.1]; exact hs.2.2.2)))), hs.2.2.1, .rfl⟩
    obtain ⟨turn, prog, entry⟩ := turn
    rw [popTurn_eq prog] at turn
    refine ⟨fun none => ?_, fun some last => ?_, fun some more => ?_⟩
    · exact turn.trans (congrArg Host.Outcome.next (withEntry_none _ (mt entry.1 none)))
    · exact turn.trans (congrArg Host.Outcome.next ((withEntry_entry _ (entry.2 some)).trans (if_pos last)))
    · exact turn.trans (congrArg Host.Outcome.next ((withEntry_entry _ (entry.2 some)).trans (if_neg more)))

/-! ## Feeds (R204) -/

theorem ringFeedTakesTheHead : Claims.RingFeedTakesTheHead := by
  intro s t ph r p x q feed head runs size marks taken code swaps
  have open_ : (!s.regionRuns (s.lt t ph).key || q.size == 0 || decide (4 ≤ q.marks.length)) = false := by
    simp [runs, size, marks]
  have turn : ∀ o, execRingFeed t ph r s = o → exec (.ringFeed t ph r) s = o := fun _ h => h
  refine ⟨fun kind room => turn _ ?_, fun kind full => turn _ ?_, fun kind => turn _ ?_, fun kind sw => turn _ ?_, fun kind no => turn _ ?_⟩
  all_goals
    unfold execRingFeed
    simp only [q] at feed open_
    simp only [feed, head, open_, kind, Bool.false_eq_true, if_false]
  · exact congrArg Host.Outcome.next (if_pos (decide_eq_true room))
  · refine congrArg Host.Outcome.next (if_neg ?_)
    rw [Ring.room, decide_eq_true_eq]
    exact Nat.not_lt.2 full
  · rfl
  · exact congrArg Host.Outcome.next (if_pos ⟨trivial, sw⟩)
  · exact congrArg Host.Outcome.next (if_neg fun h => no h.2)

/-- Settles O24: ring control word by word, and what a feed makes of its head. -/
theorem ringsAreFedAndControlled : Obligations.RingsAreFedAndControlled := ⟨ringControlWords, ringFeedTakesTheHead⟩

end Sys2Proof.Proofs.Rings
end

section
/-! PROOFS. Ranked lists and their instructions (R217 to R223). -/
namespace Sys2Proof.Proofs.Ranked
open Sys2Proof Sys2Proof.Machine Sys2Proof.Proofs.Bits Sys2Proof.Proofs.MatUnit Sys2Proof.Proofs.MatMoves
set_option Elab.async false

/-! ## The order of a row (R217) -/

theorem above_iff (a b : REnt) : above a b = true ↔ fkey b.v.toNat < fkey a.v.toNat ∨ (a.v = b.v ∧ a.i.toNat < b.i.toNat) := by
  rw [above, decide_eq_true_eq]
theorem above_trans {a b c : REnt} (h : above a b = true) (g : above b c = true) : above a c = true := by
  rw [above_iff] at *
  obtain h | ⟨e, h⟩ := h
  · obtain g | ⟨f, g⟩ := g
    · exact .inl (Nat.lt_trans g h)
    · exact .inl (by rwa [← f])
  · obtain g | ⟨f, g⟩ := g
    · exact .inl (by rwa [e])
    · exact .inr ⟨e.trans f, Nat.lt_trans h g⟩
theorem above_asymm {a b : REnt} (h : above a b = true) : above b a = false := by
  rw [Bool.eq_false_iff]
  intro g
  have := (above_iff a a).1 (above_trans h g)
  omega
/-- Entries in order: none ranks above an earlier one. -/
def Ordered (l : List REnt) : Prop := l.Pairwise (fun a b => above b a = false)
theorem insertRank_perm (x : REnt) (l : List REnt) : (insertRank x l).Perm (x :: l) := by
  induction l with
  | nil => exact .refl _
  | cons y r ih =>
    unfold insertRank
    split
    · exact .refl _
    · exact (ih.cons y).trans (.swap x y r)
theorem insertRank_ordered (x : REnt) {l : List REnt} (h : Ordered l) : Ordered (insertRank x l) := by
  induction l with
  | nil => exact List.pairwise_singleton _ _
  | cons y r ih =>
    obtain ⟨hy, hr⟩ := List.pairwise_cons.1 h
    unfold insertRank
    split
    · next up =>
      refine List.pairwise_cons.2 ⟨fun z hz => ?_, h⟩
      obtain rfl | hz := List.mem_cons.1 hz
      · exact above_asymm up
      · rw [Bool.eq_false_iff]
        intro g
        exact absurd (above_trans g up) (by rw [hy z hz]; decide)
    · next up =>
      refine List.pairwise_cons.2 ⟨fun z hz => ?_, ih hr⟩
      obtain rfl | hz := List.mem_cons.1 ((insertRank_perm x r).mem_iff.1 hz)
      · exact Bool.not_eq_true _ ▸ up
      · exact hy z hz

theorem rankedInsertKeepsTheBest : Claims.RankedInsertKeepsTheBest := by
  intro x l k h
  refine ⟨insertRank_perm x l, insertRank_ordered x h, fun r e => ⟨?_, rfl, rfl⟩⟩
  rw [← e]
  rfl

theorem thresholdIsTheLastKeptValue : Claims.ThresholdIsTheLastKeptValue := by
  intro k r _
  refine ⟨fun e len last => ?_, fun short => if_neg short⟩
  rw [RRow.thr, if_pos len, last]
  rfl

/-! ## What a row takes and gives (R165, R219, R220, R222) -/

theorem vget_vset_self {α : Type} {n : Nat} (v : Vector α n) {i : Nat} (h : i < n) (x d : α) : vget (vset v i x) i d = x := by
  rw [vget_vset _ _ _ _ _ h, if_pos rfl]
theorem vget_vset_ne {α : Type} {n : Nat} (v : Vector α n) {i j : Nat} (h : i < n) (ne : j ≠ i) (x d : α) :
    vget (vset v i x) j d = vget v j d := by
  rw [vget_vset _ _ _ _ _ h, if_neg ne]
/-- A candidate in lane j of both tokens: what its row becomes. -/
theorem insLane_row (k : Nat) (fi row : Bool) (v i : Token) (rows : Vector RRow 16) {j : Nat} (hj : j < 16) :
    let r := if row then v.tag.toNat % 16 else j
    let x := vget rows r {}
    let b := fF32.flush fi (v.lane j)
    let after := insLane k fi row v i rows j
    ((v.val j = false ∨ i.val j = false) → after = rows) ∧
    (v.val j = true → i.val j = true → (∀ q < 16, q ≠ r → vget after q {} = vget rows q {}) ∧
      ((v.pois j = true ∨ i.pois j = true) → vget after r {} = { x with pois := true }) ∧
      (v.pois j = false → i.pois j = false → fF32.isNan b = true → vget after r {} = { x with nan := true }) ∧
      (v.pois j = false → i.pois j = false → fF32.isNan b = false →
        vget after r {} = { x with ents := (insertRank ⟨.ofNat 32 b, .ofNat 32 (i.lane j), false⟩ x.ents).take k })) := by
  intro r x b after
  have hr : r < 16 := by
    show (if row then v.tag.toNat % 16 else j) < 16
    split <;> omega
  refine ⟨fun h => if_pos ?_, fun hv hi => ?_⟩
  · obtain h | h := h <;> simp [h]
  · have put : after = vset rows r (if v.pois j || i.pois j then { x with pois := true } else if fF32.isNan b then { x with nan := true }
        else x.insert k ⟨.ofNat 32 b, .ofNat 32 (i.lane j), false⟩) := if_neg (by simp [hv, hi])
    rw [put]
    refine ⟨fun q _ ne => vget_vset_ne _ hr ne _ _, fun bad => ?_, fun h g nan => ?_, fun h g num => ?_⟩
    all_goals rw [vget_vset_self _ hr]
    · exact if_pos (by simpa using bad)
    · rw [h, g]
      exact if_pos nan
    · rw [h, g, num]
      rfl
theorem foldl_insert (k : Nat) (l : List REnt) (r : RRow) :
    (l.foldl (fun r e => RRow.insert k { e with drop := false } r) r).ents =
      l.foldl (fun l e => (insertRank { e with drop := false } l).take k) r.ents := by
  induction l generalizing r with
  | nil => rfl
  | cons e l ih => exact ih _
/-- Entry i of a row is kept: present and, under WGT, not dropped. -/
def Kept (wgt : Bool) (r : RRow) (i : Nat) (e : REnt) : Prop := r.ents[i]? = some e ∧ ¬ (wgt = true ∧ e.drop = true)
theorem keptOf_eq_some (wgt : Bool) (r : RRow) (i : Nat) (e : REnt) : keptOf wgt r i = some e ↔ Kept wgt r i e := by
  unfold keptOf Kept
  rw [Option.filter_eq_some_iff]
  cases wgt <;> simp
theorem keptOf_eq_none (wgt : Bool) (r : RRow) (i : Nat) : keptOf wgt r i = none ↔ ∀ e, ¬ Kept wgt r i e := by
  simp only [← keptOf_eq_some, Option.eq_none_iff_forall_not_mem, Option.mem_def]
theorem fit_length {α : Type} (d : α) (n : Nat) (l : List α) : (fit d n l).length = n := by
  induction n generalizing l with
  | zero => rfl
  | succ n ih => cases l <;> simp [fit, ih]
theorem fit_getElem? {α : Type} (d : α) {n i : Nat} (l : List α) (h : i < n) : (fit d n l)[i]? = some (l.getD i d) := by
  induction n generalizing l i with
  | zero => omega
  | succ n ih => cases l <;> cases i <;> simp [fit, ih, show ∀ j, j + 1 < n + 1 → j < n by omega, h]
/-- The leaves of the tree sum of a row: its kept entries among the first k. -/
def leavesOf (wgt : Bool) (k : Nat) (r : RRow) : List (Option Nat) := fit none 32 ((upTo k).map fun i => (keptOf wgt r i).map (·.v.toNat))
theorem leavesOf_in (wgt : Bool) {k : Nat} (r : RRow) {i : Nat} (hi : i < 32) {d : REnt} (hk : i < k) (h : Kept wgt r i d) :
    (leavesOf wgt k r)[i]? = some (some d.v.toNat) := by
  rw [leavesOf, fit_getElem? _ _ hi, upTo_eq_range, getD_map_range _ _ hk, (keptOf_eq_some ..).2 h]
  rfl
theorem leavesOf_out (wgt : Bool) {k : Nat} (r : RRow) {i : Nat} (hi : i < 32) (h : k ≤ i ∨ ∀ d, ¬ Kept wgt r i d) :
    (leavesOf wgt k r)[i]? = some none := by
  rw [leavesOf, fit_getElem? _ _ hi, upTo_eq_range]
  by_cases hk : i < k
  · rw [getD_map_range _ _ hk, (keptOf_eq_none ..).2 (h.resolve_left (Nat.not_le.2 hk))]
    rfl
  · rw [List.getD_eq_getElem?_getD, List.getElem?_eq_none (by simpa using hk)]
    rfl
theorem outTok_fields (r : RRow) (row h : Nat) (f : Nat → Nat) (ok : Nat → Bool) {c : Nat} (hc : c < 16) :
    (outTok r row h f ok).val c = ok (16 * h + c) ∧ (outTok r row h f ok).pois c = (ok (16 * h + c) && r.pois) ∧
      (outTok r row h f ok).lane c = if ok (16 * h + c) then f (16 * h + c) % 2 ^ 32 else 0 := by
  refine ⟨testBit_bits16 _ hc, ?_, (lane_laneFn _ _ _ _ _ hc).trans ?_⟩
  · show (if r.pois then bits16 (fun k => ok (16 * h + k)) else 0).toNat.testBit c = _
    cases r.pois with
    | false => simp
    | true => simpa using testBit_bits16 (fun k => ok (16 * h + k)) hc
  · split <;> simp

theorem rankedRowsTakeAndGive : Claims.RankedRowsTakeAndGive := by
  refine ⟨fun k fi row v i rows j hj => insLane_row k fi row v i rows hj, fun k dst src => ⟨rfl, rfl, foldl_insert k src.ents dst⟩, ?_⟩
  intro wgt norm acr k r j _ kept
  refine ⟨fun none => ?_, fun e here => ?_, fun _ _ _ => rfl, fun row h val ok => ⟨rfl, rfl, fun c hc => ?_⟩⟩
  · have out := (keptOf_eq_none wgt r j).2 none
    refine ⟨out, ?_⟩
    unfold outVal
    simp only [out]
  · have out := (keptOf_eq_some wgt r j e).2 here
    have val : outVal wgt norm acr k r j = if norm then
        op32 acr FVal.div e.v.toNat ((tree (op32 acr FVal.add) 5 (leavesOf wgt k r)).getD 0) else e.v.toNat := by
      unfold outVal
      simp only [out]
      rfl
    refine ⟨out, fun own => by rw [val, own]; rfl, fun quot => ⟨leavesOf wgt k r, fit_length .., fun i hi => ⟨fun d hk h => ?_, fun h => ?_⟩, ?_⟩⟩
    · exact leavesOf_in wgt r hi hk h
    · exact leavesOf_out wgt r hi h
    · rw [val, quot]
      rfl
  · obtain ⟨valid, pois, lane⟩ := outTok_fields r row h val ok hc
    exact ⟨valid, pois, lane⟩

/-! ## The item's progress beside other changes of its tile -/

/-- A change of a tile that neither reads nor changes the unit's queue. -/
def Aside (g : Tile → Tile) : Prop := ∀ x q, g (withMq x q) = withMq (g x) q
theorem mq_aside {g : Tile → Tile} (h : Aside g) (x : Tile) : (g x).mq = x.mq := by
  have e := congrArg Tile.mq (h x x.mq)
  exact e
theorem modTile_setProg {g : Tile → Tile} (h : Aside g) (s : State) (p : MProg) :
    (s.setProg p).modTile s.ctx.tile g = (s.modTile s.ctx.tile g).setProg p := by
  rw [setProg_eq, setProg_eq]
  show (s.modTile s.ctx.tile _).modTile s.ctx.tile g = (s.modTile s.ctx.tile g).modTile s.ctx.tile _
  rw [modTile_modTile, modTile_modTile]
  refine congrArg (s.setTile s.ctx.tile) ?_
  show g (withMq _ _) = withMq (g _) (progressed (g _).mq p)
  rw [h, mq_aside h]
theorem tile_setProg_withMq (s : State) (a : MProg) (n : Nat) : ∃ q, (s.setProg a).tile n = withMq (s.tile n) q := by
  rw [tile_setProg]
  split
  · next h => exact ⟨_, by rw [h]; rfl⟩
  · exact ⟨(s.tile n).mq, rfl⟩
theorem lt_setProg (s : State) (a : MProg) (t : Nat) (ph : BitVec 2) : (s.setProg a).lt t ph = s.lt t ph := by
  obtain ⟨q, e⟩ := tile_setProg_withMq s a t
  unfold State.lt
  rw [e]
  rfl
theorem modLt_setProg (s : State) (ph : BitVec 2) (f : LTile → LTile) (a : MProg) :
    (s.setProg a).modLt s.ctx.tile ph f = (s.modLt s.ctx.tile ph f).setProg a := by
  rw [modLt_eq, modLt_eq, lt_setProg]
  exact modTile_setProg (fun _ _ => rfl) s a
theorem pop_setProg (s : State) (p : BitVec 3) (a : MProg) : (s.setProg a).pop p = (s.pop p).setProg a := by
  obtain ⟨g, off, e, ea⟩ := pop_eq s p
  rw [ea, e]
  exact modTile_setProg (fun x => (off x).1) s a
theorem popAll_setProg (l : List (BitVec 3)) (s : State) (a : MProg) : (s.setProg a).popAll l = (s.popAll l).setProg a := by
  induction l generalizing s with
  | nil => rfl
  | cons p l ih =>
    show ((s.setProg a).pop p).popAll l = _
    rw [pop_setProg]
    exact ih _
theorem push_setProg (s : State) (p : BitVec 3) (x : Token) (a : MProg) : (s.setProg a).push p x = (s.push p x).setProg a := by
  unfold State.push State.pushOf
  rw [cur_setProg]
  by_cases rc : s.ctx.slot = 15
  · refine (if_pos rc).trans (Eq.trans ?_ (congrArg (fun u : State => u.setProg a) (if_pos rc)).symm)
    refine modTile_setProg (fun y q => ?_) s a
    split <;> rfl
  · refine (if_neg rc).trans (Eq.trans ?_ (congrArg (fun u : State => u.setProg a) (if_neg rc)).symm)
    exact modLt_setProg ..
theorem modMat_setProg (s : State) (f : MatState → MatState) (a : MProg) : (s.setProg a).modMat f = (s.modMat f).setProg a := by
  unfold State.modMat
  by_cases rc : s.rcTask = true
  · refine (if_pos rc).trans (Eq.trans ?_ (congrArg (fun u : State => u.setProg a) (if_pos rc)).symm)
    exact modTile_setProg (fun _ _ => rfl) s a
  · refine (if_neg rc).trans (Eq.trans ?_ (congrArg (fun u : State => u.setProg a) (if_neg rc)).symm)
    unfold State.modCurLt
    rw [cur_setProg]
    exact modLt_setProg ..
theorem setAcc_setProg (s : State) (c : BitVec 4) (x : Acc) (a : MProg) : (s.setProg a).setAcc c x = (s.setAcc c x).setProg a :=
  modMat_setProg ..
theorem popAll_ctx (l : List (BitVec 3)) (s : State) : (s.popAll l).ctx = s.ctx := by
  induction l generalizing s with
  | nil => rfl
  | cons p l ih => exact (ih _).trans (Tasks.pop_ctx s p)
theorem setW_setProg (s : State) (d : BitVec 3) (x : Token) (a : MProg) : (s.setProg a).setW d x = (s.setW d x).setProg a := by
  unfold State.setW
  rw [modCur_eq, modCur_eq, cur_setProg]
  exact modTile_setProg (fun _ _ => rfl) s a
theorem advance_setProg {s : State} (h : s.ctx.unit = .minl ∨ s.ctx.unit = .mrun) (a : MProg) : advance (s.setProg a) 1 = advance s 1 := by
  unfold advance
  rw [show (s.setProg a).ctx = s.ctx from rfl]
  obtain h | h := h
  · simp only [h]
    refine congrArg (fun u : State => u.modCur _) ?_
    rw [setProg_eq, modTile_modTile]
    refine congrArg (s.setTile s.ctx.tile) ?_
    show withMq _ (progressed _ a).tail = withMq _ _
    cases (s.tile s.ctx.tile).mq <;> rfl
  · simp only [h]
    rw [setProg_eq, modTile_modTile]
    refine congrArg (s.setTile s.ctx.tile) ?_
    show withMq _ (match progressed (s.tile s.ctx.tile).mq a with | [] => [] | i :: r => (MItem.past i).toList ++ r) = withMq _ _
    cases (s.tile s.ctx.tile).mq <;> rfl
theorem macr_setProg (s : State) (a : MProg) : (s.setProg a).macr = s.macr := by
  unfold State.macr State.mitem
  rw [curLt_setProg, show (s.setProg a).ctx = s.ctx from rfl, tile_setProg, if_pos rfl]
  cases (s.tile s.ctx.tile).mq <;> rfl
theorem tok_setProg (s : State) (a : MProg) (c : BitVec 4) : (s.setProg a).tok c = s.tok c := by
  unfold State.tok State.w
  rw [head_setProg, cur_setProg]
theorem outLen_setProg (s : State) (a : MProg) (t : Nat) (k : SlotId) (ph : BitVec 2) (p : BitVec 3) :
    (s.setProg a).outLen t k ph p = s.outLen t k ph p := by
  obtain ⟨q, e⟩ := tile_setProg_withMq s a t
  unfold State.outLen
  rw [lt_setProg, e]
  rfl
theorem space_setProg (s : State) (a : MProg) (p : BitVec 3) : (s.setProg a).space p = s.space p := by
  unfold State.space State.spaceOf
  rw [outLen_setProg, cur_setProg]
  rfl

/-! ## Words on a declared list (R218 to R221, R223) -/

section
variable {s : State} {c : BitVec 4}
theorem needList_sum (k : Nat → Vector RRow 16 → State) (h : (s.acc c).isSum = true) : needList s c k = trap s 23 0 (w64 c.toNat) := by
  obtain ⟨e, p, acc⟩ := sum_of_isSum h
  unfold needList
  simp only [acc]
  rfl
theorem needList_ranked (k : Nat → Vector RRow 16 → State) {n : Nat} {rows : Vector RRow 16} (h : s.acc c = .ranked n rows) :
    needList s c k = k n rows := by
  unfold needList
  simp only [h]
theorem preW_free {l : List (BitVec 4)} (k : State) (h : ∀ r ∈ wregsOf l, s.wBusy r = false) : preW l s k = k :=
  if_neg (by rw [List.any_eq_true]; rintro ⟨r, hr, e⟩; rw [h r hr] at e; exact absurd e (by decide))
theorem begun_of_new (h : s.mprog = {}) : s.begun = s.setProg { stage := 1 } := if_pos h
/-- An instruction that starts with its ports free holds them from then on. -/
theorem needFree_starts {ins outs : List (BitVec 3)} (k : State → State) (h : s.mprog = {}) (hi : ∀ p ∈ ins, s.bound false p = false)
    (ho : ∀ p ∈ outs, s.bound true p = false) : needFree s ins outs k = k s.begun := by
  have f1 : ins.find? (s.bound false) = none := List.find?_eq_none.2 fun p m => by simp [hi p m]
  have f2 : outs.find? (s.bound true) = none := List.find?_eq_none.2 fun p m => by simp [ho p m]
  unfold needFree
  rw [if_pos h, f1, f2]
theorem needHeads_ok {ins outs : List (BitVec 3)} (k : State) (hi : ∀ p ∈ ins, ∃ t, s.head p = some t ∧ t.kind = .data)
    (ho : ∀ p ∈ outs, s.space p = true) : needHeads s ins outs k = k := by
  refine (if_pos ?_).trans (needData_ok k hi)
  rw [Bool.and_eq_true, List.all_eq_true, List.all_eq_true]
  refine ⟨fun p m => ?_, ho⟩
  obtain ⟨t, h, -⟩ := hi p m
  rw [h]
  rfl
/-- `rl.ins` with its operands there (R219). -/
theorem rlIns_fires {x d : BitVec 4} (f : Bool) {k : Nat} {rows : Vector RRow 16} (hs : s.unitStarts) (hc : s.ownsAcc c)
    (acc : s.acc c = .ranked k rows) (fires : s.fires [x, d] none [] true) :
    exec (.rlIns c x f d) s = ((s.popAll (portsOf [x, d])).setAcc c (.ranked k
      ((List.range 16).foldl (insLane k (acrFi s.macr) f (s.tok x) (s.tok d)) rows))).done := by
  obtain ⟨-, -, free, heads, -⟩ := fires
  have begun := begun_of_new hs.2.2
  have here : ∀ p ∈ portsOf [x, d], s.bound false p = false ∧ ∃ t, s.head p = some t ∧ t.kind = .data := fun p m => by
    obtain ⟨c, mem, port, rfl⟩ := mem_portsOf m
    obtain ⟨unbound, t, head, data⟩ := heads c mem port
    exact ⟨unbound, t, head, data rfl⟩
  refine congrArg Host.Outcome.next ((matOp_starts _ _ _ hs).trans ((preW_free _ fun r m => ?_).trans ((needAcc_owns _ hc).trans
    ((needList_ranked _ acc).trans ((needFree_starts _ hs.2.2 (fun p m => (here p m).1) (by simp)).trans ((needHeads_ok _ (fun p m => ?_) (by simp)).trans ?_))))))
  · obtain ⟨c, mem, reg, rfl⟩ := mem_wregsOf m
    exact free c (by simpa using mem) reg
  · rw [begun, head_setProg]
    exact (here p m).2
  · rw [begun, popAll_setProg, macr_setProg, tok_setProg, tok_setProg, upTo_eq_range]
    refine (congrArg (advance · 1) (setAcc_setProg ..)).trans (advance_setProg ?_ _)
    rw [show ∀ u : State, ∀ a, (u.setAcc c a).ctx = u.ctx from fun u a => modMat_ctx u _, popAll_ctx]
    exact hs.1
/-- The threshold token (R221). -/
def thrTok (k : Nat) (rows : Vector RRow 16) : Token :=
  ⟨laneFn fun r => (vget rows r {}).thr k, 0xFFFF, rowFlags rows (·.pois), 0, .data⟩
/-- `rl.thr` to a token destination that has room. -/
theorem rlThr_fires {d row : BitVec 4} {k : Nat} {rows : Vector RRow 16} (hs : s.unitStarts) (hc : s.ownsAcc c)
    (acc : s.acc c = .ranked k rows) (fires : s.fires [] (some d) [] false) :
    exec (.rlThr c (.tok d row)) s = (if isPort d then s.push (codeNo d) (thrTok k rows) else s.setW (codeNo d) (thrTok k rows)).done := by
  obtain ⟨-, -, free, -, outs⟩ := fires
  have begun := begun_of_new hs.2.2
  have here : ∀ p ∈ portsOf [d], s.bound true p = false ∧ s.space p = true := fun p m => by
    obtain ⟨c, mem, port, rfl⟩ := mem_portsOf m
    obtain ⟨-, unbound, room⟩ := outs c (by simpa using mem) port
    exact ⟨unbound, room⟩
  refine congrArg Host.Outcome.next ((matOp_starts _ _ _ hs).trans ((preW_free _ fun r m => ?_).trans ((needAcc_owns _ hc).trans
    ((needList_ranked _ acc).trans ((needFree_starts _ hs.2.2 (by simp) (fun p m => (here p m).1)).trans ((needHeads_ok _ (by simp) (fun p m => ?_)).trans ?_))))))
  · obtain ⟨c, mem, reg, rfl⟩ := mem_wregsOf m
    exact free c (by simpa using mem) reg
  · rw [begun, space_setProg]
    exact (here p m).2
  · rw [begun]
    show advance (if isPort d then (s.setProg _).push (codeNo d) (thrTok k rows) else (s.setProg _).setW (codeNo d) (thrTok k rows)) 1 = _
    rw [push_setProg, setW_setProg]
    split
    · refine advance_setProg ?_ _
      rw [push_ctx]
      exact hs.1
    · exact advance_setProg (s := s.setW (codeNo d) (thrTok k rows)) hs.1 _
theorem thrG_inline {d : BitVec 4} {k : Nat} {rows : Vector RRow 16} (f : Nat → Vector RRow 16 → DWord) (hu : s.ctx.unit = .minl) (hc : s.ownsAcc c)
    (acc : s.acc c = .ranked k rows) : thrG s c d f = advance (s.setG d (f k rows)) 1 := by
  unfold thrG
  simp only [hu]
  exact (needAcc_owns _ hc).trans (needList_ranked _ acc)
theorem thrG_sum {d : BitVec 4} (f : Nat → Vector RRow 16 → DWord) (hu : s.ctx.unit = .minl) (hc : s.ownsAcc c)
    (sum : (s.acc c).isSum = true) : thrG s c d f = trap s 23 0 (w64 c.toNat) := by
  unfold thrG
  simp only [hu]
  exact (needAcc_owns _ hc).trans (needList_sum _ sum)
theorem thrG_run {d : BitVec 4} (f : Nat → Vector RRow 16 → DWord) (hu : s.ctx.unit = .mrun) : thrG s c d f = trap s 28 0 (w64 s.matPc) := by
  unfold thrG
  simp only [hu]
/-- A word with a g destination, on a unit that starts. -/
theorem matOp_starts_d {d : BitVec 4} (i : Instr) (body : State → State) (h : s.unitStarts) (hd : s.takes d) :
    matOp s i (preD d) body = body s := (matOp_starts _ _ _ h).trans (needD_takes _ hd)
end
theorem rowFlags_bit (rows : Vector RRow 16) (f : RRow → Bool) {j : Nat} (h : j < 16) :
    (rowFlags rows f).toNat.testBit j = f (vget rows j {}) := testBit_bits16 (fun r => f (vget rows r {})) h
/-- The two halves of the flags (R221). -/
theorem flags_bits (x y : BitVec 16) {j : Nat} (h : j < 16) :
    (w64 (x.toNat + 2 ^ 16 * y.toNat)).getLsbD j = x.toNat.testBit j ∧ (w64 (x.toNat + 2 ^ 16 * y.toNat)).getLsbD (16 + j) = y.toNat.testBit j := by
  have low : ∀ k, (w64 (x.toNat + 2 ^ 16 * y.toNat)).getLsbD k = (decide (k < 64) &&
      if k < 16 then x.toNat.testBit k else y.toNat.testBit (k - 16)) := fun k => by
    rw [w64, BitVec.getLsbD_ofNat, Nat.add_comm, Nat.testBit_two_pow_mul_add _ x.isLt]
  rw [low, low, if_pos h, if_neg (by omega)]
  simp [show j < 64 by omega, show 16 + j < 64 by omega]
/-- A row with entry n dropped. -/
theorem dropped_getElem? (l : List REnt) (n i : Nat) :
    (l.zipIdx.map fun (e, j) => if j = n then { e with drop := true } else e)[i]? =
      (l[i]?).map fun e => if i = n then { e with drop := true } else e := by
  rw [List.getElem?_map, List.getElem?_zipIdx]
  cases l[i]? <;> simp
/-- The rows with an entry dropped, row and entry as a g operand names them (R223). -/
def dropped (rows : Vector RRow 16) (v : DWord) : Vector RRow 16 :=
  let y := vget rows (bfld v 8 5) {}
  vset rows (bfld v 8 5) { y with ents := y.ents.zipIdx.map fun (e, j) => if j = bfld v 4 0 then { e with drop := true } else e }

theorem rankedListWords : Claims.RankedListWords := by
  intro s c x d row n f w a hs hc
  refine ⟨congrArg Host.Outcome.next ((matOp_starts _ _ _ hs).trans (needAcc_owns _ hc)), ?_, ?_⟩
  · intro sum kind
    have list : ∀ k, needAcc s c (needList s c k) = trap s 23 0 (w64 c.toNat) := fun k => (needAcc_owns _ hc).trans (needList_sum _ sum)
    refine ⟨?_, fun hx => ?_, fun hx => ?_, fun hw => ⟨?_, ?_⟩, fun hd hu => ⟨?_, ?_⟩, fun p o => ?_⟩
    · exact congrArg Host.Outcome.next ((matOp_starts _ _ _ hs).trans (list _))
    · exact congrArg Host.Outcome.next ((matOp_starts_g _ _ hs hx).trans (list _))
    · exact congrArg Host.Outcome.next ((matOp_starts _ _ _ hs).trans ((needAcc_owns _ hc).trans ((needAcc_owns _ hx).trans (needList_sum _ sum))))
    · exact congrArg Host.Outcome.next ((matOp_starts _ _ _ hs).trans ((preW_free _ fun r _ => hw r).trans (list _)))
    · exact congrArg Host.Outcome.next ((matOp_starts _ _ _ hs).trans ((preW_free _ fun r _ => hw r).trans (list _)))
    · exact congrArg Host.Outcome.next ((matOp_starts_d _ _ hs hd).trans (thrG_sum _ hu hc sum))
    · exact congrArg Host.Outcome.next ((matOp_starts_d _ _ hs hd).trans (thrG_sum _ hu hc sum))
    · exact congrArg Host.Outcome.next ((matOp_starts _ _ _ hs).trans (list _))
  · intro k rows acc
    have list : ∀ k', needAcc s c (needList s c k') = k' k rows := fun k => (needAcc_owns _ hc).trans (needList_ranked _ acc)
    refine ⟨fun hx sum => ?_, ?_, fun hx => ?_, fun hx k' src acc' => ?_, fun fires => rlIns_fires f hs hc acc fires,
      fun fires => ⟨thrTok k rows, rlThr_fires hs hc acc fires, rfl, rfl, rfl, fun j hj => ⟨lane_laneFn _ _ _ _ _ hj, rowFlags_bit rows _ hj⟩⟩,
      fun hd hu => ⟨?_, _, congrArg Host.Outcome.next ((matOp_starts_d _ _ hs hd).trans (thrG_inline _ hu hc acc)), fun j hj => ?_⟩,
      fun hd hu => ⟨?_, ?_⟩⟩
    · exact congrArg Host.Outcome.next ((matOp_starts _ _ _ hs).trans ((needAcc_owns _ hc).trans ((needAcc_owns _ hx).trans
        ((needList_ranked _ acc).trans (needList_sum _ sum)))))
    · exact congrArg Host.Outcome.next ((matOp_starts _ _ _ hs).trans (list _))
    · have index : bfld a 8 5 < 16 := Nat.mod_lt _ (by decide)
      refine ⟨dropped rows a, (congrArg Host.Outcome.next ((matOp_starts_g _ _ hs hx).trans (list _))).trans ?_, fun j hj => ?_⟩
      · rw [show (s.g x).val = a from congrArg GReg.val hx]
        rfl
      · intro y y'
        split
        · next e =>
          subst e
          have here : y' = { y with ents := y.ents.zipIdx.map fun (e, j) => if j = bfld a 4 0 then { e with drop := true } else e } :=
            vget_vset_self rows index _ _
          rw [here]
          exact ⟨rfl, rfl, by simp, fun i => dropped_getElem? _ _ i⟩
        · next ne => exact vget_vset_ne rows index ne _ _
    · exact congrArg Host.Outcome.next ((matOp_starts _ _ _ hs).trans ((needAcc_owns _ hc).trans ((needAcc_owns _ hx).trans
        ((needList_ranked _ acc).trans (needList_ranked _ acc')))))
    · exact congrArg Host.Outcome.next ((matOp_starts_d _ _ hs hd).trans (thrG_inline _ hu hc acc))
    · obtain ⟨low, high⟩ := flags_bits (rowFlags rows (·.nan)) (rowFlags rows (·.pois)) hj
      exact ⟨low.trans (rowFlags_bit rows _ hj), high.trans (rowFlags_bit rows _ hj)⟩
    · exact congrArg Host.Outcome.next ((matOp_starts_d _ _ hs hd).trans (thrG_run _ hu))
    · exact congrArg Host.Outcome.next ((matOp_starts_d _ _ hs hd).trans (thrG_run _ hu))

/-! ## rl.out (R95, R222) -/

section
variable {s : State} {c : BitVec 4} {x : BitVec 3} {o : Option (BitVec 3)} {n u : Bool} {k : Nat} {rows : Vector RRow 16}
/-- The halves of a row of k entries. -/
def halvesOf (k : Nat) : List Nat := upTo (if 16 < k then 2 else 1)
theorem halvesOf_eq (k : Nat) : halvesOf k = if 16 < k then [0, 1] else [0] := by
  unfold halvesOf
  split <;> rfl
/-- The tokens of row `row` pushed, values to one port and indices to another. -/
def pushValues (x : BitVec 3) (n u : Bool) (k : Nat) (acr : BitVec 4) (r : RRow) (row : Nat) (s : State) : State :=
  (halvesOf k).foldl (fun s h => s.push x (outTok r row h (outVal u n acr (16 * (halvesOf k).length) r) fun j => (keptOf u r j).isSome)) s
def pushIndices (y : BitVec 3) (k : Nat) (r : RRow) (row : Nat) (s : State) : State :=
  (halvesOf k).foldl (fun s h => s.push y (outTok r row h (fun j => ((r.ents[j]?).map fun (e : REnt) => e.i.toNat).getD 0)
    fun j => decide (j < r.ents.length))) s
/-- The entry whose NaN a row originates. -/
def badEntry (n u : Bool) (k : Nat) (acr : BitVec 4) (r : RRow) : Option Nat :=
  if n && !r.pois then (upTo (16 * (halvesOf k).length)).find? fun j =>
    (keptOf u r j).isSome && fF32.isNan (outVal u n acr (16 * (halvesOf k).length) r j) else none
/-- The end of a turn: the next row, or the instruction's end. -/
def rowDone (row : Nat) (bad : Option Nat) (s : State) : State :=
  let v := s.noteNan (bad.map (16 * row + ·))
  if row + 1 = 16 then advance (v.tellNan 256) 1 else v.setProg { v.mprog with n := row + 1 }
/-- Every port has room for the tokens that it is named for. -/
def roomFor (s : State) (k : Nat) (ports : List (BitVec 3)) : Bool := ports.all fun p =>
  decide (s.outLen s.ctx.tile s.ctx.slot s.cur.phase p + (halvesOf k).length * (ports.filter (· == p)).length ≤ 4)
/-- One turn of `rl.out`. -/
def rlOutTurn (x : BitVec 3) (o : Option (BitVec 3)) (n u : Bool) (k : Nat) (rows : Vector RRow 16) (s : State) : State :=
  if !roomFor s k (x :: o.toList) then park s .port
  else
    let r := vget rows s.mprog.n {}
    let s1 := pushValues x n u k s.macr r s.mprog.n s
    rowDone s.mprog.n (badEntry n u k s.macr r) (match o with | none => s1 | some p => pushIndices p k r s.mprog.n s1)
theorem rlOut_turn (hs : s.unitStarts ∨ ∃ q, s.unitGoesOn q) (hc : s.ownsAcc c) (acc : s.acc c = .ranked k rows) :
    exec (.rlOut c x n u o) s = .next (needFree s [] (x :: o.toList) (rlOutTurn x o n u k rows)) := by
  have list : ∀ k', needAcc s c (needList s c k') = k' k rows := fun k => (needAcc_owns _ hc).trans (needList_ranked _ acc)
  have start : exec (.rlOut c x n u o) s = .next (needAcc s c (needList s c fun k rows => needFree s [] (x :: o.toList) (rlOutTurn x o n u k rows))) := by
    obtain hs | ⟨q, hs⟩ := hs
    · exact congrArg Host.Outcome.next (matOp_starts _ _ _ hs)
    · exact congrArg Host.Outcome.next (matOp_goesOn _ _ _ hs)
  rw [start, list]
theorem needFree_outBusy {y : BitVec 3} (l : List (BitVec 3)) (k : State → State) (h : s.mprog = {})
    (found : l.find? (s.bound true) = some y) : needFree s [] l k = trap s 16 0 (w64 (8 + y.toNat)) := by
  unfold needFree
  rw [if_pos h, found, ← Tasks.w64_portCode]
  rfl
theorem needFree_goesOn {ins outs : List (BitVec 3)} (k : State → State) (h : s.mprog ≠ {}) : needFree s ins outs k = k s.begun := by
  unfold needFree State.begun
  rw [if_neg h, if_neg h]
theorem badEntry_eq (acr : BitVec 4) (r : RRow) : badEntry n u k acr r = if n = true ∧ r.pois = false then
    (List.range (16 * (halvesOf k).length)).find? fun j => (keptOf u r j).isSome && fF32.isNan (outVal u n acr (16 * (halvesOf k).length) r j)
    else none := by
  unfold badEntry
  rw [upTo_eq_range]
  refine if_congr ?_ rfl rfl
  simp
theorem next_rowDone (row : Nat) (bad : Option Nat) (s : State) :
    (Host.Outcome.next (rowDone row bad s) : Out) = let v := s.noteNan (bad.map (16 * row + ·))
      if row + 1 = 16 then (v.tellNan 256).done else .next (v.setProg { v.mprog with n := row + 1 }) := apply_ite ..
/-- A port has room for so many tokens. -/
def Room (s : State) (p : BitVec 3) (tokens : Nat) : Prop := s.outLen s.ctx.tile s.ctx.slot s.cur.phase p + tokens ≤ 4
theorem roomFor_one (s : State) (k : Nat) (x : BitVec 3) : roomFor s k [x] = true ↔ Room s x (halvesOf k).length := by
  simp [roomFor, Room]
theorem roomFor_two (s : State) (k : Nat) (x y : BitVec 3) : roomFor s k [x, y] = true ↔
    if x = y then Room s x (2 * (halvesOf k).length) else Room s x (halvesOf k).length ∧ Room s y (halvesOf k).length := by
  by_cases h : x = y
  · subst h
    simp [roomFor, Room, Nat.mul_comm]
  · have g : y ≠ x := fun e => h e.symm
    simp [roomFor, Room, h, g, List.filter_cons]
theorem begun_facts (item : HasItem s) : s.begun.macr = s.macr ∧ s.begun.mprog.n = s.mprog.n ∧ ∀ l, roomFor s.begun k l = roomFor s k l := by
  unfold State.begun
  split
  · next new =>
    refine ⟨macr_setProg _ _, ?_, fun l => ?_⟩
    · rw [mprog_setProg item, new]
    · unfold roomFor
      rw [cur_setProg]
      simp only [outLen_setProg]
      rfl
  · exact ⟨rfl, rfl, fun _ => rfl⟩
/-- A turn of `rl.out` that holds its ports. -/
theorem rlOutTurn_begun {q : MProg} (item : HasItem s) (prog : s.mprog.n = q.n) :
    let r := vget rows q.n {}
    let s1 := pushValues x n u k s.macr r q.n s.begun
    (roomFor s k (x :: o.toList) = false → rlOutTurn x o n u k rows s.begun = park s.begun .port) ∧
    (roomFor s k (x :: o.toList) = true → rlOutTurn x o n u k rows s.begun =
      rowDone q.n (badEntry n u k s.macr r) (match o with | none => s1 | some p => pushIndices p k r q.n s1)) := by
  obtain ⟨macr, row, room⟩ := begun_facts (k := k) item
  unfold rlOutTurn
  rw [room, macr, row, prog]
  refine ⟨fun full => if_pos (by rw [full]; rfl), fun room => if_neg (by rw [room]; decide)⟩
end

theorem rankedOutPushesARow : Claims.RankedOutPushesARow := by
  intro s c x y n u k rows q hc acc
  constructor
  · intro hs
    refine ⟨fun busy o => ?_, fun free busy => ?_⟩
    · refine (rlOut_turn (.inl hs) hc acc).trans (congrArg Host.Outcome.next (needFree_outBusy _ _ hs.2.2 ?_))
      rw [List.find?_cons, busy]
    · refine (rlOut_turn (.inl hs) hc acc).trans (congrArg Host.Outcome.next (needFree_outBusy _ _ hs.2.2 ?_))
      rw [List.find?_cons, free]
      show [y].find? _ = _
      rw [List.find?_cons, busy]
  · intro start
    have on : HasItem s ∧ s.mprog.n = q.n ∧ ∀ o ∈ [none, some y], exec (.rlOut c x n u o) s = .next (rlOutTurn x o n u k rows s.begun) := by
      obtain ⟨hs, rfl, hx, hy⟩ | hs := start
      · refine ⟨hs.2.1, by rw [hs.2.2], fun o ho => (rlOut_turn (.inl hs) hc acc).trans (congrArg Host.Outcome.next
          (needFree_starts _ hs.2.2 (by simp) fun p hp => ?_))⟩
        simp only [List.mem_cons, List.not_mem_nil, or_false] at ho
        obtain rfl | rfl := ho
        · simp only [Option.toList_none, List.mem_cons, List.not_mem_nil, or_false] at hp
          rwa [hp]
        · simp only [Option.toList_some, List.mem_cons, List.not_mem_nil, or_false] at hp
          obtain rfl | rfl := hp
          · exact hx
          · exact hy
      · exact ⟨hs.2.1, by rw [hs.2.2.1], fun o _ => (rlOut_turn (.inr ⟨q, hs⟩) hc acc).trans (congrArg Host.Outcome.next
          (needFree_goesOn _ (by rw [hs.2.2.1]; exact hs.2.2.2)))⟩
    obtain ⟨item, prog, turn⟩ := on
    have one := turn none (by simp)
    have two := turn (some y) (by simp)
    obtain ⟨full1, room1⟩ := rlOutTurn_begun (x := x) (o := none) (n := n) (u := u) (k := k) (rows := rows) item prog
    obtain ⟨full2, room2⟩ := rlOutTurn_begun (x := x) (o := some y) (n := n) (u := u) (k := k) (rows := rows) item prog
    intro r halves m val values indices room bad ends waits
    have halves_eq : halves = halvesOf k := (halvesOf_eq k).symm
    have bad_eq : bad = badEntry n u k s.macr r := by
      rw [badEntry_eq, ← halves_eq]
    have values_eq : ∀ t, values t = pushValues x n u k s.macr r q.n t := fun t => by
      unfold pushValues
      rw [← halves_eq]
    have indices_eq : ∀ t, indices t = pushIndices y k r q.n t := fun t => by
      unfold pushIndices
      rw [← halves_eq]
    have ends_eq : ∀ t, ends t = .next (rowDone q.n (badEntry n u k s.macr r) t) := fun t => by
      rw [next_rowDone, ← bad_eq]
    have r1 := roomFor_one s k x
    have r2 := roomFor_two s k x y
    rw [← halves_eq] at r1 r2
    have waits1 : ¬ room x halves.length → exec (.rlOut c x n u none) s = waits := fun no =>
      one.trans (congrArg Host.Outcome.next (full1 (Bool.eq_false_iff.2 (mt r1.1 no))))
    have waits2 : ¬ (if x = y then room x (2 * halves.length) else room x halves.length ∧ room y halves.length) →
        exec (.rlOut c x n u (some y)) s = waits := fun no =>
      two.trans (congrArg Host.Outcome.next (full2 (Bool.eq_false_iff.2 (mt r2.1 no))))
    refine ⟨fun no => ⟨waits1 no, waits2 ?_⟩, fun yes => ?_, fun ne no => waits2 ?_, fun eq no => waits2 ?_, fun yes => ?_⟩
    · split
      · intro yes
        exact no (Nat.le_trans (Nat.add_le_add_left (by omega) _) yes)
      · exact fun yes => no yes.1
    · rw [one, room1 (r1.2 yes), ends_eq, values_eq]
    · rw [if_neg ne]
      exact fun yes => no yes.2
    · rw [if_pos eq]
      exact no
    · rw [two, room2 (r2.2 yes), ends_eq, indices_eq, values_eq]

/-- Settles O23: the order of a row, the words on declared lists, thresholds, `rl.out`, and what a row takes and gives. -/
theorem rankedListsKeepTheBest : Obligations.RankedListsKeepTheBest :=
  ⟨rankedInsertKeepsTheBest, rankedListWords, thresholdIsTheLastKeptValue, rankedOutPushesARow, rankedRowsTakeAndGive⟩

end Sys2Proof.Proofs.Ranked
end

section
/-! PROOFS. Elements of tokens, results put together from elements, and their origins (R42, R160, R170, R171). -/
namespace Sys2Proof.Proofs.Elements
open Sys2Proof Sys2Proof.Machine Sys2Proof.Proofs.Bits
set_option Elab.async false

/-! ## Elements of a token -/

/-- The widths of elements. -/
def Width (w : Nat) : Prop := w = 8 ∨ w = 16 ∨ w = 32 ∨ w = 64
theorem width_etWidth (e : EType) : Width (etWidth e) := by cases e <;> simp [Width, etWidth]
theorem fits_of_lt {w j : Nat} (hw : Width w) (h : j < 512 / w) : w * (j + 1) ≤ 512 := by
  obtain rfl | rfl | rfl | rfl := hw <;> omega
theorem elem_lt (x : Token) (w j : Nat) : x.elem w j < 2 ^ w := Nat.mod_lt _ (Nat.two_pow_pos w)
theorem lane_eq_elem (x : Token) (k : Nat) : x.lane k = x.elem 32 k := lane_eq x k
theorem elem_ofElems {w : Nat} (hw : Width w) (l : List Nat) (v p : BitVec 16) (t : BitVec 6) (k : TokKind) {j : Nat} (h : j < 512 / w) :
    (Token.mk (ofElems w l) v p t k).elem w j = l.getD j 0 % 2 ^ w := by
  show (BitVec.ofNat 512 (unchunk w l)).toNat / 2 ^ (w * j) % 2 ^ w = _
  rw [ofNat_div_mod _ _ (fits_of_lt hw h), unchunk_div_mod]
/-- Element j of a token under a mask. -/
def elIn (w : Nat) (m : BitVec 16) (x : Token) (j : Nat) : El :=
  { bits := x.elem w j, live := (elemLanes w j).all (liveAt [x] m), pois := (elemLanes w j).any x.pois }
theorem elsOf_eq (w : Nat) (m : BitVec 16) (x : Token) : elsOf w m x = (List.range (512 / w)).map (elIn w m x) := by
  unfold elsOf elems
  apply List.ext_getElem?
  intro j
  rw [chunks_eq_map, List.getElem?_map, List.getElem?_zipIdx, List.getElem?_map, List.getElem?_map]
  by_cases h : j < 512 / w
  · rw [List.getElem?_range h]
    simp [elIn, Token.elem]
  · rw [List.getElem?_eq_none (by simpa using h)]
    rfl
theorem elAt_elsOf (w : Nat) (m : BitVec 16) (x : Token) {j : Nat} (h : j < 512 / w) : elAt (elsOf w m x) j = elIn w m x j := by
  rw [elsOf_eq, elAt, getD_map_range _ _ h]
theorem liveIn_one (w : Nat) (m : BitVec 16) (x : Token) (j : Nat) : (elIn w m x j).live = true ↔ LiveIn w [x] m j := by
  simp [elIn, LiveIn, liveAt, BitVec.getLsbD]
theorem poisIn_one (w : Nat) (m : BitVec 16) (x : Token) (j : Nat) : (elIn w m x j).pois = true ↔ PoisIn w [x] j := by
  simp [elIn, PoisIn]

/-! ## Results put together from elements (R170) -/

/-- The elements that `assemble` puts together. -/
theorem fit_getD (d : El) {n j : Nat} (l : List El) (h : j < n) : (fit d n l).getD j d = l.getD j d := by
  rw [List.getD_eq_getElem?_getD, Ranked.fit_getElem? d l h]
  rfl
/-- Some element of group k of n has a property, in a list of sixteen groups. -/
theorem any_group {n : Nat} (p : El → Bool) (l : List El) (d : El) (hn : 0 < n) (hl : l.length = 16 * n) {k : Nat} (hk : k < 16) :
    ((l.drop (k * n)).take n).any p = true ↔ ∃ j < 16 * n, j / n = k ∧ p (l.getD j d) = true := by
  have fits : k * n + n ≤ 16 * n := by
    rw [← Nat.succ_mul]
    exact Nat.mul_le_mul_right n hk
  rw [List.any_eq_true]
  constructor
  · rintro ⟨x, mem, px⟩
    obtain ⟨i, hi, e⟩ := List.mem_iff_getElem.1 mem
    rw [List.length_take, List.length_drop] at hi
    rw [List.getElem_take, List.getElem_drop] at e
    refine ⟨k * n + i, by omega, ?_, ?_⟩
    · rw [Nat.mul_comm, Nat.mul_add_div hn, Nat.div_eq_of_lt (by omega), Nat.add_zero]
    · rw [List.getD_eq_getElem _ _ (by omega), e]
      exact px
  · rintro ⟨j, hj, rfl, px⟩
    have place : j / n * n + j % n = j := by rw [Nat.mul_comm]; exact Nat.div_add_mod j n
    refine ⟨l.getD j d, ?_, px⟩
    rw [List.getD_eq_getElem _ _ (by omega)]
    have small : j % n < n := Nat.mod_lt _ hn
    refine List.mem_iff_getElem.2 ⟨j % n, by rw [List.length_take, List.length_drop]; omega, ?_⟩
    rw [List.getElem_take, List.getElem_drop]
    simp only [place]
/-- The elements whose lanes contain lane k. -/
theorem any_lane {w : Nat} (hw : Width w) (p : El → Bool) (l : List El) (hl : l.length = 512 / w) {k : Nat} (hk : k < 16) :
    (if w = 64 then [elAt l (k / 2)] else (l.drop (k * (32 / w))).take (32 / w)).any p = true ↔
      ∃ j < 512 / w, k ∈ elemLanes w j ∧ p (elAt l j) = true := by
  have narrow : ∀ n, 0 < n → 512 / w = 16 * n → 32 / w = n → w ≠ 64 → (∀ j, j * w / 32 = j / n) →
      ((if w = 64 then [elAt l (k / 2)] else (l.drop (k * (32 / w))).take (32 / w)).any p = true ↔
        ∃ j < 512 / w, k ∈ elemLanes w j ∧ p (elAt l j) = true) := by
    intro n hn hs h32 ne lane
    rw [if_neg ne, h32, any_group p l {} hn (hl.trans hs) hk, hs]
    unfold elemLanes
    simp only [if_neg ne, lane, List.mem_singleton]
    refine exists_congr fun j => and_congr_right fun _ => and_congr_left fun _ => eq_comm
  obtain rfl | rfl | rfl | rfl := hw
  · exact narrow 4 (by decide) rfl rfl (by decide) fun j => by omega
  · exact narrow 2 (by decide) rfl rfl (by decide) fun j => by omega
  · exact narrow 1 (by decide) rfl rfl (by decide) fun j => by omega
  · rw [if_pos rfl, List.any_cons, List.any_nil, Bool.or_false]
    unfold elemLanes
    constructor
    · intro h
      refine ⟨k / 2, by omega, ?_, h⟩
      rw [if_pos rfl, List.mem_cons, List.mem_singleton]
      omega
    · rintro ⟨j, _, mem, h⟩
      rw [if_pos rfl, List.mem_cons, List.mem_singleton] at mem
      rwa [show k / 2 = j by omega]
theorem elAt_fit {n j : Nat} (l : List El) (h : j < n) : elAt (fit {} n l) j = elAt l j := fit_getD {} l h
/-- The token that `assemble` gives. -/
theorem assembled_of {w : Nat} (hw : Width w) (els : List El) (tag : BitVec 6) {live pois : Nat → Prop} {bits : Nat → Nat}
    (h : ∀ j < 512 / w, ((elAt els j).live = true ↔ live j) ∧
      (live j → ((elAt els j).pois = true ↔ pois j) ∧ (elAt els j).bits % 2 ^ w = bits j % 2 ^ w)) :
    Assembled w live pois bits tag (assemble w els tag).1 := by
  have len : (fit ({} : El) (512 / w) els).length = 512 / w := Ranked.fit_length _ _ _
  refine ⟨fun j hj => ?_, fun k hk => ⟨?_, ?_⟩, rfl, rfl⟩
  · obtain ⟨hl, hr⟩ := h j hj
    have bits : (assemble w els tag).1.elem w j = (if (elAt els j).live then (elAt els j).bits else 0) % 2 ^ w := by
      refine (elem_ofElems hw _ _ _ _ _ hj).trans ?_
      rw [← elAt_fit els hj, List.getD_eq_getElem _ _ (by rw [List.length_map, len]; exact hj), List.getElem_map, elAt,
        List.getD_eq_getElem _ _ (by rw [len]; exact hj)]
    refine ⟨fun yes => ?_, fun no => ?_⟩
    · rw [bits, if_pos (hl.2 yes)]
      exact (hr yes).2
    · rw [bits, if_neg (mt hl.1 no), Nat.zero_mod]
  · refine (Eq.congr_left (testBit_bits16 _ hk)).trans ((any_lane hw _ _ len hk).trans ?_)
    refine exists_congr fun j => and_congr_right fun hj => and_congr_right fun _ => ?_
    rw [elAt_fit els hj]
    exact (h j hj).1
  · refine (Eq.congr_left (testBit_bits16 _ hk)).trans ((any_lane hw _ _ len hk).trans ?_)
    refine exists_congr fun j => and_congr_right fun hj => and_congr_right fun _ => ?_
    rw [elAt_fit els hj, Bool.and_eq_true, (h j hj).1]
    exact and_congr_right fun yes => ((h j hj).2 yes).1

/-! ## Origins (R82, R160) -/

/-- The first place of a list that has a property. -/
theorem findSome_zipIdx {α : Type} (p : α → Nat → Bool) (g : Nat → Nat) (d : α) (l : List α) (n : Nat) :
    match (l.zipIdx n).findSome? fun x => if p x.1 x.2 then some (g x.2) else none with
    | none => ∀ j < l.length, p (l.getD j d) (n + j) = false
    | some v => ∃ j < l.length, p (l.getD j d) (n + j) = true ∧ (∀ i < j, p (l.getD i d) (n + i) = false) ∧ v = g (n + j) := by
  induction l generalizing n with
  | nil => simp
  | cons x l ih =>
    rw [List.zipIdx_cons, List.findSome?_cons]
    by_cases h : p x n = true
    · simp only [h, if_true]
      exact ⟨0, by simp, h, by simp, rfl⟩
    · simp only [h, if_false, Bool.false_eq_true]
      have rest := ih (n + 1)
      cases e : (l.zipIdx (n + 1)).findSome? fun x => if p x.1 x.2 then some (g x.2) else none with
      | none =>
        simp only [e] at rest ⊢
        intro j hj
        cases j with
        | zero => exact Bool.eq_false_iff.2 h
        | succ j =>
          have := rest j (by simpa using hj)
          rwa [show n + 1 + j = n + (j + 1) by omega] at this
      | some v =>
        simp only [e] at rest ⊢
        obtain ⟨j, hj, pj, before, rfl⟩ := rest
        refine ⟨j + 1, by simpa using hj, ?_, fun i hi => ?_, by rw [show n + 1 + j = n + (j + 1) by omega]⟩
        · rwa [show n + (j + 1) = n + 1 + j by omega]
        · cases i with
          | zero => exact Bool.eq_false_iff.2 h
          | succ i =>
            have := before i (by omega)
            rwa [show n + 1 + i = n + (i + 1) by omega] at this
theorem origin_index {w : Nat} (hw : Width w) (h : w ≠ 64) (j : Nat) : 4 * (j * w / 32) + (j - j * w / 32 * 32 / w) = 4 * (j * w / 32) + j % (32 / w) := by
  obtain rfl | rfl | rfl | rfl := hw
  · omega
  · omega
  · omega
  · exact absurd rfl h
/-- The origin that `assemble` finds. -/
theorem origin_of {w : Nat} (hw : Width w) (narrow : w ≠ 64) (els : List El) (tag : BitVec 6) {live nan : Nat → Prop}
    (h : ∀ j < 512 / w, ((elAt els j).live = true ↔ live j) ∧ (live j → ((elAt els j).nan = true ↔ nan j))) :
    OriginIs w live nan (assemble w els tag).1 (assemble w els tag).2 := by
  have len : (fit ({} : El) (512 / w) els).length = 512 / w := Ranked.fit_length _ _ _
  have shape := assembled_of hw els tag (live := fun j => (elAt els j).live = true) (pois := fun j => (elAt els j).pois = true)
    (bits := fun j => (elAt els j).bits) fun j _ => ⟨.rfl, fun _ => ⟨.rfl, rfl⟩⟩
  have lane : ∀ j < 512 / w, j * w / 32 < 16 ∧ j * w / 32 ∈ elemLanes w j := fun j hj => by
    unfold elemLanes
    rw [if_neg narrow, List.mem_singleton]
    obtain rfl | rfl | rfl | rfl := hw <;> omega
  have here : ∀ j < 512 / w, ((elAt (fit {} (512 / w) els) j).nan && (elAt (fit {} (512 / w) els) j).live &&
      (assemble w els tag).1.val (j * w / 32) && !(assemble w els tag).1.pois (j * w / 32)) = true ↔
      live j ∧ nan j ∧ (assemble w els tag).1.pois (j * w / 32) = false := fun j hj => by
    obtain ⟨hl, hn⟩ := h j hj
    obtain ⟨small, mem⟩ := lane j hj
    rw [elAt_fit els hj, Bool.and_eq_true, Bool.and_eq_true, Bool.and_eq_true, hl, Bool.not_eq_true']
    constructor
    · rintro ⟨⟨⟨n, l⟩, -⟩, p⟩
      exact ⟨l, (hn l).1 n, p⟩
    · rintro ⟨l, n, p⟩
      exact ⟨⟨⟨(hn l).2 n, l⟩, (shape.2.1 _ small).1.2 ⟨j, hj, mem, hl.2 l⟩⟩, p⟩
  have found := findSome_zipIdx (fun (e : El) j => e.nan && e.live && (assemble w els tag).1.val (j * w / 32) &&
    !(assemble w els tag).1.pois (j * w / 32)) (fun j => 4 * (j * w / 32) + (j - j * w / 32 * 32 / w)) {} (fit {} (512 / w) els) 0
  unfold OriginIs
  rw [len] at found
  rw [show (assemble w els tag).2 = ((fit {} (512 / w) els).zipIdx 0).findSome? fun x =>
    if x.1.nan && x.1.live && (assemble w els tag).1.val (x.2 * w / 32) && !(assemble w els tag).1.pois (x.2 * w / 32)
      then some (4 * (x.2 * w / 32) + (x.2 - x.2 * w / 32 * 32 / w)) else none from rfl]
  revert found
  cases ((fit {} (512 / w) els).zipIdx 0).findSome? fun x =>
    if x.1.nan && x.1.live && (assemble w els tag).1.val (x.2 * w / 32) && !(assemble w els tag).1.pois (x.2 * w / 32)
      then some (4 * (x.2 * w / 32) + (x.2 - x.2 * w / 32 * 32 / w)) else none with
  | none =>
    intro found own j hj yes
    have := found j hj
    rw [Nat.zero_add] at this
    exact absurd ((here j hj).2 yes) (Bool.eq_false_iff.1 this)
  | some v =>
    rintro ⟨j, hj, pj, before, rfl⟩
    rw [Nat.zero_add] at *
    refine ⟨j, hj, (here j hj).1 pj, fun i hi yes => ?_, origin_index hw narrow j⟩
    have := before i hi
    rw [Nat.zero_add] at this
    exact absurd ((here i (by omega)).2 yes) (Bool.eq_false_iff.1 this)

end Sys2Proof.Proofs.Elements
end

section
/-! PROOFS. Token instructions: firing, element-by-element results, and where every form completes (R41, R92, R170 to R180, R188, R189). -/
namespace Sys2Proof.Proofs.Tokens
open Sys2Proof Sys2Proof.Machine Sys2Proof.Proofs.Bits Sys2Proof.Proofs.Elements
set_option Elab.async false

/-! ## Firing (R41, R171) -/

/-- A token instruction that may fire puts its result on its way. -/
theorem emits_of_exec {s : State} {i : Instr} {srcs : List (BitVec 4)} {d : BitVec 4} {k : Option (BitVec 2)} {n : Nat}
    {f : List Token → BitVec 16 → Token × Option Nat} (h : exec i s = .next (tokenOp s srcs d k n f))
    (fires : s.fires srcs (some d) k.toList true) :
    exec i s = s.emits srcs d (f (srcs.map s.tok) (s.maskOf k)).1 (f (srcs.map s.tok) (s.maskOf k)).2 n :=
  h.trans (congrArg Host.Outcome.next (needT_fires _ fires))

/-! ## Where the forms complete -/

section
variable {s : State} {i : Instr} {srcs : List (BitVec 4)} {d : BitVec 4}
theorem issued_of_tokenOp {k : Option (BitVec 2)} {n : Nat} {f : List Token → BitVec 16 → Token × Option Nat}
    (h : exec i s = .next (tokenOp s srcs d k n f)) :
    TokenForm.fires ⟨i, srcs, .tok d, k.toList, none, true, false⟩ s → TokenForm.issued ⟨i, srcs, .tok d, k.toList, none, true, false⟩ s (exec i s) :=
  fun ⟨_, fires⟩ => ⟨_, _, _, emits_of_exec h fires⟩
theorem issued_of_fpOp {k : Option (BitVec 2)} {e : EType} {g : List FVal → FVal} (h : exec i s = .next (fpOp s srcs d k e g)) :
    TokenForm.fires ⟨i, srcs, .tok d, k.toList, none, true, false⟩ s → TokenForm.issued ⟨i, srcs, .tok d, k.toList, none, true, false⟩ s (exec i s) :=
  issued_of_tokenOp (f := fun ts m => elementwise (etWidth e) ts m fun _ xs => fpEl (fpOf e) s.curLt.acr g xs) h
theorem issued_of_bitOp {k : Option (BitVec 2)} {e : EType} {g : List Nat → Nat} (h : exec i s = .next (bitOp s srcs d k e g)) :
    TokenForm.fires ⟨i, srcs, .tok d, k.toList, none, true, false⟩ s → TokenForm.issued ⟨i, srcs, .tok d, k.toList, none, true, false⟩ s (exec i s) :=
  issued_of_tokenOp (f := fun ts m => elementwise (etWidth e) ts m fun _ xs => (g xs, false)) h
theorem issued_of_specOp {a : BitVec 4} {k : Option (BitVec 2)} {e : EType} {o : SpecFn} (h : exec i s = .next (specOp s d a k e o)) :
    TokenForm.fires ⟨i, [a], .tok d, k.toList, none, true, false⟩ s → TokenForm.issued ⟨i, [a], .tok d, k.toList, none, true, false⟩ s (exec i s) :=
  fun ⟨_, fires⟩ => ⟨_, _, _, h.trans (congrArg Host.Outcome.next (needT_fires _ fires))⟩
theorem issued_of_unpack {a : BitVec 4} {k : Option (BitVec 2)} {e : EType} {hi : Bool} (h : exec i s = .next (unpack s d a k e hi)) :
    TokenForm.fires ⟨i, [a], .tok d, k.toList, none, true, false⟩ s → TokenForm.issued ⟨i, [a], .tok d, k.toList, none, true, false⟩ s (exec i s) :=
  fun ⟨_, fires⟩ => ⟨_, _, _, h.trans (congrArg Host.Outcome.next (needT_fires _ fires))⟩
theorem issued_of_redOp {a : BitVec 4} {k : Option (BitVec 2)} {e : EType} {o : RedFn} (h : exec i s = .next (redOp s d a k e o)) :
    TokenForm.fires ⟨i, [a], .tok d, k.toList, none, true, false⟩ s → TokenForm.issued ⟨i, [a], .tok d, k.toList, none, true, false⟩ s (exec i s) :=
  fun ⟨_, fires⟩ => ⟨_, _, _, h.trans (congrArg Host.Outcome.next (needT_fires _ fires))⟩
theorem issued_of_ctlOp {a : BitVec 4} {ms : List (BitVec 2)} {f : Token → Token} (h : exec i s = .next (ctlOp s a d ms f)) :
    TokenForm.fires ⟨i, [a], .tok d, ms, none, false, false⟩ s → TokenForm.issued ⟨i, [a], .tok d, ms, none, false, false⟩ s (exec i s) :=
  fun ⟨_, fires⟩ => ⟨_, none, 0, h.trans (congrArg Host.Outcome.next (needT_fires _ fires))⟩
theorem issued_of_ctlG {a g : BitVec 4} {ms : List (BitVec 2)} {f : DWord → Token → Token}
    (h : exec i s = .next (needGT s g fun y => ctlOp s a d ms (f y))) :
    TokenForm.fires ⟨i, [a], .tok d, ms, some g, false, false⟩ s → TokenForm.issued ⟨i, [a], .tok d, ms, some g, false, false⟩ s (exec i s) :=
  fun ⟨ready, fires⟩ => ⟨_, none, 0, h.trans (congrArg Host.Outcome.next ((needGT_full _ (Spill.full_of_st (ready.1 g rfl))).trans (needT_fires _ fires)))⟩
theorem issued_of_ctlM {a : BitVec 4} {m : BitVec 2} {f : Token → BitVec 16} (h : exec i s = .next (ctlM s a m f)) :
    TokenForm.fires ⟨i, [a], .m m, [m], none, false, false⟩ s → TokenForm.issued ⟨i, [a], .m m, [m], none, false, false⟩ s (exec i s) :=
  fun ⟨_, fires⟩ => ⟨_, h.trans (congrArg Host.Outcome.next (needT_fires _ fires))⟩
theorem issued_of_emitG {a : BitVec 4} {ms : List (BitVec 2)} {data : Bool} {v : DWord} {p : Option (BitVec 4)} {o : Option Nat} {n : Nat}
    (h : exec i s = .next (needD s d (needT s [a] none ms data (advance (((s.popAll (portsOf [a])).emitG d v p).nanOpt o n s.cur.pc) 1)))) :
    TokenForm.fires ⟨i, [a], .g d, ms, none, data, false⟩ s → TokenForm.issued ⟨i, [a], .g d, ms, none, data, false⟩ s (exec i s) :=
  fun ⟨ready, fires⟩ => ⟨v, p, o, n, h.trans (congrArg Host.Outcome.next ((needD_takes _ (ready.2 d rfl)).trans (needT_fires _ fires)))⟩
/-- A delivery to a g register that no NaN comes with. -/
theorem issued_of_emitG_plain {a : BitVec 4} {ms : List (BitVec 2)} {data : Bool} {v : DWord} {p : Option (BitVec 4)}
    (h : exec i s = .next (needD s d (needT s [a] none ms data (advance ((s.popAll (portsOf [a])).emitG d v p) 1)))) :
    TokenForm.fires ⟨i, [a], .g d, ms, none, data, false⟩ s → TokenForm.issued ⟨i, [a], .g d, ms, none, data, false⟩ s (exec i s) :=
  issued_of_emitG (o := none) (n := 0) h
end

section
variable (s : State) (d a b c g : BitVec 4) (k : Option (BitVec 2)) (e f : EType) (m : BitVec 2) (n : BitVec 3) (l : BitVec 4) (x : Bool)
  (q : BitVec 3) (mode : BitMode) (kind : TokKind) (pl : Plane) (fd : RecField)

/-- Two token operands. -/
theorem binaryForms : ∀ p ∈ ((([.vAdd, .vSub, .vMul, .vScl, .vCeq, .vCne, .vClt, .vCle, .vCun, .vMin, .vMax, .vIadd, .vIsub, .vImul, .vAnd, .vOr, .vXor, .vShl, .vShr, .vSra,
      .vImin, .vImax, .vAdds, .vSubs, .vIeq, .vIlt, .vIltu, .vPack] :
    List (BitVec 4 → BitVec 4 → BitVec 4 → Option (BitVec 2) → EType → Instr)).map fun i => ⟨i d a b k e, [a, b], .tok d, k.toList, none, true, false⟩) : List TokenForm), p.fires s → p.issued s (exec p.instr s) := by
  simp only [List.map_cons, List.map_nil, List.forall_mem_cons, List.not_mem_nil, false_implies, implies_true, and_true]
  refine ⟨issued_of_fpOp rfl, issued_of_fpOp rfl, issued_of_fpOp rfl, issued_of_tokenOp rfl, ?_, ?_, ?_, ?_, ?_, issued_of_fpOp rfl,
    issued_of_fpOp rfl, ?_, ?_, ?_, ?_, ?_, ?_, ?_, ?_, ?_, ?_, ?_, ?_, ?_, ?_, ?_, ?_, issued_of_tokenOp rfl⟩
  all_goals exact issued_of_bitOp rfl

/-- Three token operands. -/
theorem ternaryForms : ∀ p ∈ ((([.vFma, .vFms, .vFnma, .vSel, .vClamp] : List (BitVec 4 → BitVec 4 → BitVec 4 → BitVec 4 → EType → Instr)).map fun i =>
    ⟨i d a b c e, [a, b, c], .tok d, [], none, true, false⟩) : List TokenForm), p.fires s → p.issued s (exec p.instr s) := by
  simp only [List.map_cons, List.map_nil, List.forall_mem_cons, List.not_mem_nil, false_implies, implies_true, and_true]
  refine ⟨issued_of_fpOp (k := none) rfl, issued_of_fpOp (k := none) rfl, issued_of_fpOp (k := none) rfl, issued_of_bitOp (k := none) rfl,
    issued_of_fpOp (k := none) rfl⟩

/-- One token operand. -/
theorem unaryForms : ∀ p ∈ ((([.vAbs, .vNeg, .vUnpkLo, .vUnpkHi, .vRcp, .vRsq, .vExp2, .vLog2, .vTanh, .vErf, .vRsum, .vRmax, .vRmin, .vScan] :
    List (BitVec 4 → BitVec 4 → Option (BitVec 2) → EType → Instr)).map fun i => ⟨i d a k e, [a], .tok d, k.toList, none, true, false⟩) : List TokenForm), p.fires s → p.issued s (exec p.instr s) := by
  simp only [List.map_cons, List.map_nil, List.forall_mem_cons, List.not_mem_nil, false_implies, implies_true, and_true]
  refine ⟨issued_of_bitOp rfl, issued_of_bitOp rfl, issued_of_unpack rfl, issued_of_unpack rfl, issued_of_specOp rfl, issued_of_specOp rfl,
    issued_of_specOp rfl, issued_of_specOp rfl, issued_of_specOp rfl, issued_of_specOp rfl, issued_of_redOp rfl, issued_of_redOp rfl,
    issued_of_redOp rfl, issued_of_tokenOp rfl⟩

/-- The conversions and quantised blocks, one by one: each is one token operation with a result of its own. -/
theorem convert_issued : TokenForm.fires ⟨.vCvt d a f x n e, [a], .tok d, [], none, true, false⟩ s →
    TokenForm.issued ⟨.vCvt d a f x n e, [a], .tok d, [], none, true, false⟩ s (exec (.vCvt d a f x n e) s) :=
  issued_of_tokenOp (k := none) rfl
theorem convertSr_issued : TokenForm.fires ⟨.vCvtSr d a b x f e, [a, b], .tok d, [], none, true, false⟩ s →
    TokenForm.issued ⟨.vCvtSr d a b x f e, [a, b], .tok d, [], none, true, false⟩ s (exec (.vCvtSr d a b x f e) s) :=
  issued_of_tokenOp (k := none) rfl
theorem quantise_issued (o : Option (BitVec 4)) : TokenForm.fires ⟨.vQblk d a o n e, a :: o.toList, .tok d, [], none, true, false⟩ s →
    TokenForm.issued ⟨.vQblk d a o n e, a :: o.toList, .tok d, [], none, true, false⟩ s (exec (.vQblk d a o n e) s) :=
  issued_of_tokenOp (k := none) rfl
theorem dequantise_issued : TokenForm.fires ⟨.vDqblk d a x f e, [a], .tok d, [], none, true, false⟩ s →
    TokenForm.issued ⟨.vDqblk d a x f e, [a], .tok d, [], none, true, false⟩ s (exec (.vDqblk d a x f e) s) :=
  issued_of_tokenOp (k := none) rfl
/-- Conversions, quantised blocks, permutes and the sum to a g register. -/
theorem convertForms : ∀ p ∈ ([⟨.vCvt d a f x n e, [a], .tok d, [], none, true, false⟩, ⟨.vCvtSr d a b x f e, [a, b], .tok d, [], none, true, false⟩,
   ⟨.vQblk d a none n e, [a], .tok d, [], none, true, false⟩, ⟨.vQblk d a (some b) n e, [a, b], .tok d, [], none, true, false⟩,
   ⟨.vDqblk d a x f e, [a], .tok d, [], none, true, false⟩, ⟨.vRsumG d a k e, [a], .g d, k.toList, none, true, false⟩,
   ⟨.vPerm d a b k, [a, b], .tok d, k.toList, none, true, false⟩, ⟨.vBcast d a l, [a], .tok d, [], none, true, false⟩,
   ⟨.vRot d a l, [a], .tok d, [], none, true, false⟩] : List TokenForm), p.fires s → p.issued s (exec p.instr s) := by
  simp only [List.map_cons, List.map_nil, List.forall_mem_cons, List.not_mem_nil, false_implies, implies_true, and_true]
  exact ⟨convert_issued s d a e f n x, convertSr_issued s d a b e f x, quantise_issued s d a e n none, quantise_issued s d a e n (some b),
    dequantise_issued s d a e f x,
    issued_of_emitG rfl, issued_of_tokenOp rfl, issued_of_tokenOp (k := none) rfl, issued_of_tokenOp (k := none) rfl⟩

/-- Lane, tag and valid control. -/
theorem controlForms : ∀ p ∈ ([⟨.vPeek q n, [8 + n.setWidth 4], .tok (q.setWidth 4), [], none, false, true⟩, ⟨.vMov d a k, [a], .tok d, k.toList, none, false, false⟩,
   ⟨.vSetv d a m mode, [a], .tok d, [m], none, false, false⟩, ⟨.vSetp d a m mode, [a], .tok d, [m], none, false, false⟩,
   ⟨.vGetv m a x, [a], .m m, [m], none, false, false⟩, ⟨.vGetp m a, [a], .m m, [m], none, false, false⟩,
   ⟨.vSettag d a g, [a], .tok d, [], some g, false, false⟩, ⟨.vIns d a g l, [a], .tok d, [], some g, false, false⟩,
   ⟨.vSplat d g, [], .tok d, [], some g, false, false⟩, ⟨.vMkc d a kind, [a], .tok d, [], none, false, false⟩,
   ⟨.vGettag d a, [a], .g d, [], none, false, false⟩, ⟨.vExt d a l, [a], .g d, [], none, false, false⟩] : List TokenForm), p.fires s → p.issued s (exec p.instr s) := by
  simp only [List.map_cons, List.map_nil, List.forall_mem_cons, List.not_mem_nil, false_implies, implies_true, and_true]
  refine ⟨fun ⟨_, fires⟩ => ?_, issued_of_ctlOp rfl, issued_of_ctlOp rfl, issued_of_ctlOp rfl, issued_of_ctlM rfl, issued_of_ctlM rfl,
    issued_of_ctlG rfl, issued_of_ctlG rfl, fun ⟨ready, fires⟩ => ?_, issued_of_ctlOp rfl, issued_of_emitG_plain rfl, issued_of_emitG_plain rfl⟩
  · rw [BitVec.add_comm] at fires
    exact ⟨_, none, 0, congrArg Host.Outcome.next (needT_fires _ fires)⟩
  · exact ⟨_, none, 0, congrArg Host.Outcome.next ((needGT_full _ (Spill.full_of_st (ready.1 g rfl))).trans (needT_fires _ fires))⟩

/-- The compressed-domain video instructions. -/
theorem videoForms : ∀ p ∈ ([⟨.vDeq d a b x pl, [a, b], .tok d, [], none, true, false⟩, ⟨.vWarp d a g x, [a], .tok d, [], some g, true, false⟩,
   ⟨.vErracc d a b x, [a, b], .tok d, [], none, true, false⟩, ⟨.vRefr d a, [a], .tok d, [], none, true, false⟩,
   ⟨.vBfx d a fd, [a], .tok d, [], none, true, false⟩] : List TokenForm), p.fires s → p.issued s (exec p.instr s) := by
  simp only [List.map_cons, List.map_nil, List.forall_mem_cons, List.not_mem_nil, false_implies, implies_true, and_true]
  refine ⟨issued_of_tokenOp (k := none) rfl, fun ⟨ready, fires⟩ => ?_, issued_of_tokenOp (k := none) rfl,
    issued_of_tokenOp (k := none) rfl, issued_of_tokenOp (k := none) rfl⟩
  exact ⟨_, _, _, congrArg Host.Outcome.next ((needGT_full _ (Spill.full_of_st (ready.1 g rfl))).trans (needT_fires _ fires))⟩

theorem tokenFormsComplete :
    ∀ p ∈ tokenForms d a b c g k e f m n l x q mode kind pl fd, p.fires s → p.issued s (exec p.instr s) := by
  unfold tokenForms
  simp only [List.forall_mem_append]
  exact ⟨⟨⟨⟨⟨binaryForms s d a b k e, ternaryForms s d a b c e⟩, unaryForms s d a k e⟩, convertForms s d a b k e f n l x⟩,
    controlForms s d a g k m n l x q mode kind⟩, videoForms s d a b g x pl fd⟩
end

/-! ## Where the spill stack's words complete (R74) -/

theorem onlyTile_modTile (s : State) (n : Nat) (f : Tile → Tile) : OnlyTile n s (s.modTile n f) :=
  ⟨rfl, fun u h => by unfold State.modTile; rw [tile_setTile, if_neg h]⟩

theorem pushm_completes (s : State) (d a : BitVec 4) (w : Bool) (f : RFile) (hwf : (Instr.pushm d a w f).wellFormed = true) :
    let size := (a.toNat - d.toNat + 1) * slotBytes f
    let new := bfld s.cur.ssp 18 3 * 8 - size
    (∀ r : BitVec 4, f = .g → d.toNat ≤ r.toNat → r.toNat ≤ a.toNat → (s.g r).st = .full) → (∀ r : BitVec 3, f = .w → s.wBusy r = false) →
    (∀ r : BitVec 2, f = .m → s.mBusy r = false) → s.clearOfAcq → s.clearOfRel → bfld s.cur.ssp 50 35 * 8 + size ≤ bfld s.cur.ssp 18 3 * 8 →
    s.spLd new size = true → s.spSt new size = true → (f = .w → new % 64 = 0) →
    ∃ u, exec (.pushm d a w f) s = (u.modCur fun z => { z with ssp := sspWith z.ssp new }).done ∧ OnlyTile s.ctx.tile s u := by
  intro size new hg hw hm hq hr room ld st even
  have back : (((bfld s.cur.ssp 18 3 * 8 : Nat) : Int) - (((a.toNat - d.toNat + 1) * slotBytes f : Nat) : Int)).toNat = new :=
    Int.toNat_sub ..
  have low : ¬ ((bfld s.cur.ssp 18 3 * 8 : Nat) : Int) - (size : Nat) < ((bfld s.cur.ssp 50 35 * 8 : Nat) : Int) := by omega
  have ok : ¬ (!s.spLd new size || !s.spSt new size) = true := by rw [ld, st]; decide
  refine ⟨Scratchpad.withSpad s (memWrite (s.tile s.ctx.tile).spad (s.spa new) (Spill.slots s f d.toNat (a.toNat - d.toNat + 1)))
    ((s.tile s.ctx.tile).marks.filter fun b => !decide (s.spa new / 4 * 4 ≤ b ∧ b < s.spa new / 4 * 4 + 4 * (size / 4))), ?_, onlyTile_modTile ..⟩
  rw [Spill.pushm_ready hwf (fun r h e => hg r h e.1 e.2) (fun r h _ => hw r h) (fun r h _ => hm r h) hq hr]
  refine congrArg Host.Outcome.next ?_
  refine (if_neg low).trans ?_
  simp only [sspPtr, back]
  refine (if_neg ok).trans ((if_neg fun h : f = .w ∧ new % 64 ≠ 0 => h.2 (even h.1)).trans ?_)
  exact congrArg (fun u : State => advance (u.modCur fun x => { x with ssp := sspWith x.ssp new }) 1) (Spill.unmark_withSpad ..)

theorem popm_completes (s : State) (d a : BitVec 4) (f : RFile) (hwf : (Instr.popm d a f).wellFormed = true) :
    let size := (a.toNat - d.toNat + 1) * slotBytes f
    let p := bfld s.cur.ssp 18 3 * 8
    (∀ r : BitVec 4, f = .g → d.toNat ≤ r.toNat → r.toNat ≤ a.toNat → s.takes r) → (∀ r : BitVec 3, f = .w → s.wBusy r = false) →
    (∀ r : BitVec 2, f = .m → s.mBusy r = false) → s.clearOfAcq → s.spLd p size = true → (f = .w → p % 64 = 0) →
    (f ≠ .w → ∀ j < a.toNat - d.toNat + 1, s.spMarked (p + j * slotBytes f) (slotBytes f) = false) →
    ∃ u, exec (.popm d a f) s = (u.modCur fun z => { z with ssp := sspWith z.ssp (p + size) }).done ∧ OnlyTask s u := by
  intro size p hg hw hm hq ld even clean
  refine ⟨s.popRegs f p (upFrom d.toNat (a.toNat - d.toNat + 1)), ?_, (Spill.pops_popRegs f _ s p).1⟩
  rw [Spill.popm_ready hwf (fun r h e => hg r h e.1 e.2) (fun r h _ => hw r h) (fun r h _ => hm r h) hq]
  have inside : ¬ (!s.spLd p size) = true := by rw [ld]; decide
  have unmarked : (if f = .w then none else s.badSlot f p (a.toNat - d.toNat + 1)) = none := by
    by_cases hf : f = .w
    · exact if_pos hf
    · exact (if_neg hf).trans (Spill.badSlot_none _ p fun j hj => by rw [clean hf j hj]; decide)
  refine congrArg Host.Outcome.next ((if_neg inside).trans ((if_neg fun h => h.2 (even h.1)).trans ?_))
  simp only [sspPtr, show bfld s.cur.ssp 18 3 * 8 = p from rfl, unmarked]
  rfl

/-- Settles O60: where the token instructions, the spill stack's words and the trap words complete. -/
theorem tokenStackAndTrapWordsComplete : Obligations.TokenStackAndTrapWordsComplete := by
  intro s
  refine ⟨fun d a b c g k e f m n l x q mode kind pl fd p hp _ fires =>
      tokenFormsComplete s d a b c g k e f m n l x q mode kind pl fd p hp fires,
    pushm_completes s, popm_completes s, fun c => (ScalarControl.trapWordsAndEret s c false).1, (ScalarControl.trapWordsAndEret s 0 false).2.1,
    fun skip held => ⟨_, (ScalarControl.trapWordsAndEret s 0 skip).2.2.2 held⟩⟩

end Sys2Proof.Proofs.Tokens
end

section
/-! PROOFS. Token instructions that work element by element on bits (R170, R178 to R180). -/
namespace Sys2Proof.Proofs.ElementOps
open Sys2Proof Sys2Proof.Machine Sys2Proof.Proofs.Bits Sys2Proof.Proofs.Elements Sys2Proof.Proofs.Tokens
set_option Elab.async false

/-! ## Results that draw element j of every source (R170) -/

theorem elementwise_eq (w : Nat) (srcs : List Token) (m : BitVec 16) (f : Nat → List Nat → Nat × Bool) :
    elementwise w srcs m f = assemble w ((List.range (512 / w)).map fun j =>
      { bits := (f j (srcs.map fun x => (elAt (elsOf w m x) j).bits)).1, live := srcs.all fun x => (elAt (elsOf w m x) j).live,
        pois := srcs.any fun x => (elAt (elsOf w m x) j).pois, nan := (f j (srcs.map fun x => (elAt (elsOf w m x) j).bits)).2 })
      (srcs.headD {}).tag := by
  unfold elementwise
  simp only [upTo_eq_range, List.map_map, List.all_map, List.any_map, Function.comp_def]
/-- Element j of an element-by-element result. -/
def elOf (w : Nat) (srcs : List Token) (m : BitVec 16) (f : Nat → List Nat → Nat × Bool) (j : Nat) : El :=
  { bits := (f j (srcs.map fun x => x.elem w j)).1, live := srcs.all fun x => (elIn w m x j).live, pois := srcs.any fun x => (elIn w m x j).pois,
    nan := (f j (srcs.map fun x => x.elem w j)).2 }
theorem elementwise_els (w : Nat) (srcs : List Token) (m : BitVec 16) (f : Nat → List Nat → Nat × Bool) :
    elementwise w srcs m f = assemble w ((List.range (512 / w)).map (elOf w srcs m f)) (srcs.headD {}).tag := by
  rw [elementwise_eq]
  refine congrArg (assemble w · _) (List.map_congr_left fun j hj => ?_)
  simp only [elAt_elsOf w m _ (List.mem_range.1 hj)]
  rfl
theorem elAt_map_range (g : Nat → El) {n j : Nat} (h : j < n) : elAt ((List.range n).map g) j = g j := getD_map_range _ _ h
/-- An element of the result is live where it is in every source. -/
theorem elOf_live {w : Nat} {srcs : List Token} {m : BitVec 16} {f : Nat → List Nat → Nat × Bool} (some : srcs ≠ []) (j : Nat) :
    (elOf w srcs m f j).live = true ↔ LiveIn w srcs m j := by
  obtain ⟨x, hx⟩ := List.exists_mem_of_ne_nil srcs some
  simp only [elOf, List.all_eq_true, liveIn_one, LiveIn, List.mem_singleton, forall_eq]
  exact ⟨fun h k hk => ⟨fun y hy => (h y hy k hk).1, (h x hx k hk).2⟩, fun h y hy k hk => ⟨(h k hk).1 y hy, (h k hk).2⟩⟩
theorem elOf_pois {w : Nat} {srcs : List Token} {m : BitVec 16} {f : Nat → List Nat → Nat × Bool} (j : Nat) :
    (elOf w srcs m f j).pois = true ↔ PoisIn w srcs j := by
  simp only [elOf, List.any_eq_true, poisIn_one, PoisIn, List.mem_singleton, exists_eq_left]

section
variable {w : Nat} (hw : Width w) {srcs : List Token} (nonempty : srcs ≠ []) (m : BitVec 16)
include hw nonempty
/-- The result of an element function, which counts only on operands of the width and up to the width. -/
theorem elementwise_result {f : Nat → List Nat → Nat × Bool} {g : Nat → List Nat → Nat}
    (h : ∀ j, (f j (srcs.map fun x => x.elem w j)).1 % 2 ^ w = g j (srcs.map fun x => x.elem w j) % 2 ^ w) :
    Elementwise w srcs m g (elementwise w srcs m f).1 := by
  rw [elementwise_els]
  refine assembled_of hw _ _ fun j hj => ?_
  rw [elAt_map_range _ hj]
  exact ⟨elOf_live nonempty j, fun _ => ⟨elOf_pois j, h j⟩⟩
theorem elementwise_origin (narrow : w ≠ 64) {f : Nat → List Nat → Nat × Bool} {nan : Nat → Prop}
    (h : ∀ j, (f j (srcs.map fun x => x.elem w j)).2 = true ↔ nan j) :
    OriginIs w (LiveIn w srcs m) nan (elementwise w srcs m f).1 (elementwise w srcs m f).2 := by
  rw [elementwise_els]
  refine origin_of hw narrow _ _ fun j hj => ?_
  rw [elAt_map_range _ hj]
  exact ⟨elOf_live nonempty j, fun _ => h j⟩
end
theorem originOf_none {w : Nat} {els : List El} {v p : BitVec 16} (h : ∀ x ∈ els, x.nan = false) : originOf w els v p = none := by
  refine List.findSome?_eq_none_iff.2 fun ⟨x, j⟩ hx => ?_
  obtain ⟨_, _, e⟩ := List.mem_zipIdx hx
  have : x.nan = false := h x (by rw [e]; exact List.getElem_mem _)
  simp only [this, Bool.false_and, Bool.false_eq_true, if_false]
/-- Elements that originate no NaN give no origin. -/
theorem assemble_no_origin {w : Nat} {els : List El} (tag : BitVec 6) (h : ∀ x ∈ els, x.nan = false) : (assemble w els tag).2 = none := by
  refine originOf_none fun x hx => ?_
  obtain ⟨i, hi, e⟩ := List.mem_iff_getElem.1 hx
  have fitted := Ranked.fit_getElem? ({} : El) els (i := i) (n := 512 / w)
  by_cases inside : i < 512 / w
  · have read := fitted inside
    rw [List.getElem?_eq_getElem (by rw [Ranked.fit_length]; exact inside), Option.some_inj] at read
    rw [← e, read]
    by_cases own : i < els.length
    · rw [List.getD_eq_getElem _ _ own]
      exact h _ (List.getElem_mem own)
    · rw [List.getD_eq_default _ _ (by omega)]
  · have len := Ranked.fit_length ({} : El) (512 / w) els
    omega
theorem elementwise_no_origin {w : Nat} {srcs : List Token} {m : BitVec 16} (f : Nat → List Nat → Nat) :
    (elementwise w srcs m fun j xs => (f j xs, false)).2 = none := by
  rw [elementwise_els]
  refine assemble_no_origin _ fun x hx => ?_
  obtain ⟨j, -, rfl⟩ := List.mem_map.1 hx
  rfl

/-! ## Instructions on bits (R178 to R180) -/

section
variable {s : State} {i : Instr} {srcs : List (BitVec 4)} {d : BitVec 4} {k : Option (BitVec 2)} {e : EType}
/-- An instruction on bits gives the element of its table, and originates no NaN. -/
theorem bitOp_result {g g' : List Nat → Nat} (h : exec i s = .next (bitOp s srcs d k e g)) (nonempty : srcs ≠ [])
    (agree : ∀ xs : List Nat, xs.length = srcs.length → (∀ x ∈ xs, x < 2 ^ etWidth e) → g xs % 2 ^ etWidth e = g' xs % 2 ^ etWidth e)
    (fires : s.fires srcs (some d) k.toList true) :
    ∃ r, exec i s = s.emits srcs d r none 0 ∧ Elementwise (etWidth e) (srcs.map s.tok) (s.maskOf k) (fun _ xs => g' xs) r := by
  have emitted := emits_of_exec (f := fun ts m => elementwise (etWidth e) ts m fun _ xs => (g xs, false)) h fires
  rw [elementwise_no_origin fun _ => g] at emitted
  refine ⟨_, emitted, elementwise_result (width_etWidth e) (by simpa using nonempty) _ fun j => agree _ (by simp) fun x hx => ?_⟩
  rw [List.mem_map] at hx
  obtain ⟨t, -, rfl⟩ := hx
  exact elem_lt t _ j
/-- One on two integers. -/
theorem intOp_result {a b : BitVec 4} {g : Nat → Nat → Nat → Nat} {g' : Nat → Nat → Nat} (h : exec i s = .next (intOp s d a b k e g))
    (agree : ∀ x y : Nat, x < 2 ^ etWidth e → y < 2 ^ etWidth e → g (etWidth e) x y % 2 ^ etWidth e = g' x y % 2 ^ etWidth e)
    (fires : s.fires [a, b] (some d) k.toList true) :
    ∃ r, exec i s = s.emits [a, b] d r none 0 ∧
      Elementwise (etWidth e) ([a, b].map s.tok) (s.maskOf k) (fun _ xs => g' (xs.getD 0 0) (xs.getD 1 0)) r := by
  refine bitOp_result (g := fun xs => g (etWidth e) (xs.getD 0 0) (xs.getD 1 0)) (g' := fun xs => g' (xs.getD 0 0) (xs.getD 1 0))
    h (by simp) (fun xs len small => ?_) fires
  obtain ⟨x, y, rfl⟩ := List.length_eq_two.1 len
  exact agree x y (small x (by simp)) (small y (by simp))
/-- A compare gives all ones or zeros. -/
theorem cmpOp_result {a b : BitVec 4} {g : FVal → FVal → Bool} (h : exec i s = .next (cmpOp s a b d k e g))
    (fires : s.fires [a, b] (some d) k.toList true) :
    ∃ r, exec i s = s.emits [a, b] d r none 0 ∧ Elementwise (etWidth e) ([a, b].map s.tok) (s.maskOf k)
      (fun _ xs => if g ((fpOf e).val ((fpOf e).flush (acrFi s.curLt.acr) (xs.getD 0 0)))
        ((fpOf e).val ((fpOf e).flush (acrFi s.curLt.acr) (xs.getD 1 0))) then 2 ^ etWidth e - 1 else 0) r :=
  bitOp_result (g := fun xs => if g ((fpOf e).val ((fpOf e).flush (acrFi s.curLt.acr) (xs.getD 0 0)))
    ((fpOf e).val ((fpOf e).flush (acrFi s.curLt.acr) (xs.getD 1 0))) then 2 ^ etWidth e - 1 else 0) h (by simp) (fun _ _ _ => rfl) fires
end

theorem unsgn_mod (w : Nat) (x : Int) : unsgn w x % 2 ^ w = unsgn w x := by
  have pos : (0 : Int) < ((2 ^ w : Nat) : Int) := by exact_mod_cast Nat.two_pow_pos w
  have := Int.emod_lt_of_pos x pos
  have := Int.emod_nonneg x (ne_of_gt pos)
  exact Nat.mod_eq_of_lt (by unfold unsgn; omega)
theorem sub_mod (w : Nat) {x y : Nat} (hx : x < 2 ^ w) (hy : y < 2 ^ w) : (x + 2 ^ w - y) % 2 ^ w % 2 ^ w = unsgn w ((x : Int) - y) % 2 ^ w := by
  rw [unsgn_mod, Nat.mod_mod, unsgn]
  have : ((x + 2 ^ w - y : Nat) : Int) = (x : Int) - y + ((2 ^ w : Nat) : Int) := by omega
  rw [← Int.toNat_natCast ((x + 2 ^ w - y) % 2 ^ w), Int.natCast_mod, this, Int.add_emod_right]
theorem clampW_eq {w : Nat} (hw : Width w) (x : Int) : clampW w x = unsgn w (max (-(2 ^ (w - 1) : Int)) (min x (2 ^ (w - 1) - 1))) := by
  unfold clampW
  have cast : (((2 ^ (w - 1) : Nat)) : Int) = 2 ^ (w - 1) := by push_cast; rfl
  have pos : (0 : Int) < 2 ^ (w - 1) := by positivity
  rw [cast]
  generalize (2 : Int) ^ (w - 1) = p at pos
  congr 1
  split
  · omega
  · split <;> omega
theorem onesIf_eq (w : Nat) (q : Bool) : onesIf w q = if q then 2 ^ w - 1 else 0 := rfl

/-- Settles O15: the compares, selects and integer operations, element by element. -/
theorem bitTokenWordsAreElementwise : Obligations.BitTokenWordsAreElementwise := by
  intro s d a b c k e w f v ones sat two
  have width : Width w := width_etWidth e
  simp only [List.forall_mem_cons, List.not_mem_nil, false_implies, implies_true, and_true]
  refine ⟨fun _ => bitOp_result rfl (by simp) fun xs len _ => ?_, fun _ => bitOp_result rfl (by simp) fun xs len _ => ?_,
    fun _ => cmpOp_result (g := fun x y => x.eq y) rfl, fun _ => cmpOp_result (g := fun x y => !x.eq y) rfl,
    fun _ => cmpOp_result (g := fun x y => x.lt y) rfl, fun _ => cmpOp_result (g := fun x y => x.lt y || x.eq y) rfl,
    fun _ => cmpOp_result (g := fun x y => x.isNan || y.isNan) rfl,
    fun _ => bitOp_result (k := none) rfl (by simp) fun xs _ _ => rfl,
    fun _ => intOp_result (g' := fun x y => x + y) rfl fun x y _ _ => Nat.mod_mod ..,
    fun _ => intOp_result (g' := fun x y => unsgn w ((x : Int) - y)) rfl fun x y hx hy => sub_mod w hx hy,
    fun _ => intOp_result (g' := fun x y => x * y) rfl fun x y _ _ => Nat.mod_mod ..,
    fun _ => intOp_result (g' := fun x y => x &&& y) rfl fun x y _ _ => rfl,
    fun _ => intOp_result (g' := fun x y => x ||| y) rfl fun x y _ _ => rfl,
    fun _ => intOp_result (g' := fun x y => x ^^^ y) rfl fun x y _ _ => rfl,
    fun _ => intOp_result (g' := fun x y => x <<< (y % w)) rfl fun x y _ _ => ?_,
    fun _ => intOp_result (g' := fun x y => x >>> (y % w)) rfl fun x y _ _ => ?_,
    fun _ => intOp_result (g' := fun x y => unsgn w (sgn w x / 2 ^ (y % w))) rfl fun x y _ _ => ?_,
    fun _ => intOp_result (g' := fun x y => if sgn w x ≤ sgn w y then x else y) rfl fun x y _ _ => rfl,
    fun _ => intOp_result (g' := fun x y => if sgn w x ≤ sgn w y then y else x) rfl fun x y _ _ => rfl,
    fun _ => intOp_result (g' := fun x y => sat (sgn w x + sgn w y)) rfl fun x y _ _ => ?_,
    fun _ => intOp_result (g' := fun x y => sat (sgn w x - sgn w y)) rfl fun x y _ _ => ?_,
    fun _ => intOp_result (g' := fun x y => ones (x == y)) rfl fun x y _ _ => rfl,
    fun _ => intOp_result (g' := fun x y => ones (sgn w x < sgn w y)) rfl fun x y _ _ => rfl,
    fun _ => intOp_result (g' := fun x y => ones (x < y)) rfl fun x y _ _ => rfl⟩
  · obtain ⟨x, rfl⟩ := List.length_eq_one_iff.1 len
    rfl
  · obtain ⟨x, rfl⟩ := List.length_eq_one_iff.1 len
    rfl
  · rw [Nat.mod_mod, Nat.shiftLeft_eq]
  · rw [Nat.shiftRight_eq_div_pow]
  · simp only [Nat.cast_pow, Nat.cast_ofNat]; rfl
  · exact congrArg (· % 2 ^ w) (clampW_eq width _)
  · exact congrArg (· % 2 ^ w) (clampW_eq width _)

end Sys2Proof.Proofs.ElementOps
end

section
/-! PROOFS. The floating-point token instructions, scale and special functions (R163, R176 to R179, R188, R189). -/
namespace Sys2Proof.Proofs.FloatTokens
open Sys2Proof Sys2Proof.Machine Sys2Proof.Proofs.Elements Sys2Proof.Proofs.Tokens Sys2Proof.Proofs.ElementOps
set_option Elab.async false

/-- The element types of the floating-point instructions fit a lane. -/
theorem etWidth_ne_of_fp {e : EType} (h : ([.f32, .bf16, .f16] : List EType).contains e = true) : etWidth e ≠ 64 := by
  cases e <;> simp_all [etWidth]

section
variable {s : State} {i : Instr} {srcs : List (BitVec 4)} {d : BitVec 4} {k : Option (BitVec 2)} {e : EType}
/-- A floating-point instruction rounds one exact value per element, and notes the NaN that it originates. -/
theorem fpOp_result {g : List FVal → FVal} (h : exec i s = .next (fpOp s srcs d k e g)) (nonempty : srcs ≠ [])
    (narrow : ([.f32, .bf16, .f16] : List EType).contains e = true) (fires : s.fires srcs (some d) k.toList true) :
    ∃ r o, exec i s = s.emits srcs d r o (16 * e.code + e.code) ∧
      let vals := fun (xs : List Nat) => xs.map fun x => (fpOf e).val ((fpOf e).flush (acrFi s.curLt.acr) x)
      let res := fun (xs : List Nat) => (fpOf e).flush (acrFo s.curLt.acr) ((fpOf e).round 0 0 false (g (vals xs)))
      Elementwise (etWidth e) (srcs.map s.tok) (s.maskOf k) (fun _ xs => res xs) r ∧
      OriginIs (etWidth e) (LiveIn (etWidth e) (srcs.map s.tok) (s.maskOf k))
        (fun j => let xs := srcs.map fun q => (s.tok q).elem (etWidth e) j
          (fpOf e).isNan (res xs) = true ∧ ∀ v ∈ vals xs, v.isNan = false) r o := by
  have emitted := emits_of_exec (f := fun ts m => elementwise (etWidth e) ts m fun _ xs => fpEl (fpOf e) s.curLt.acr g xs) h fires
  refine ⟨_, _, emitted, elementwise_result (width_etWidth e) (by simpa using nonempty) _ fun j => rfl,
    elementwise_origin (width_etWidth e) (by simpa using nonempty) _ (etWidth_ne_of_fp narrow) fun j => ?_⟩
  simp [fpEl, Function.comp_def]
/-- One element of a special function. -/
def specEl (f : Fmt) (acr : BitVec 4) (o : SpecFn) (xs : List Nat) : Nat × Bool :=
  let v := f.val (f.flush (acrFi acr) (xs.getD 0 0))
  let r := f.flush (acrFo acr) (o.result f v)
  (r, f.isNan r && !v.isNan)
theorem specOp_eq (s : State) (d a : BitVec 4) (k : Option (BitVec 2)) (e : EType) (o : SpecFn) :
    specOp s d a k e o = tokenOp s [a] d k (nfmtOf e e) fun ts m => elementwise (etWidth e) ts m fun _ xs => specEl (fpOf e) s.curLt.acr o xs := rfl
/-- A special function takes one operand's value to its result. -/
theorem specOp_result {a : BitVec 4} {o : SpecFn} (h : exec i s = .next (specOp s d a k e o))
    (narrow : ([.f32, .bf16, .f16] : List EType).contains e = true) (fires : s.fires [a] (some d) k.toList true) :
    ∃ r q, exec i s = s.emits [a] d r q (16 * e.code + e.code) ∧
      let val := fun (j : Nat) => (fpOf e).val ((fpOf e).flush (acrFi s.curLt.acr) ((s.tok a).elem (etWidth e) j))
      let res := fun (j : Nat) => (fpOf e).flush (acrFo s.curLt.acr) (o.result (fpOf e) (val j))
      Elementwise (etWidth e) [s.tok a] (s.maskOf k) (fun j _ => res j) r ∧
      OriginIs (etWidth e) (LiveIn (etWidth e) [s.tok a] (s.maskOf k)) (fun j => (fpOf e).isNan (res j) = true ∧ (val j).isNan = false) r q := by
  have emitted := emits_of_exec (f := fun ts m => elementwise (etWidth e) ts m fun _ xs => specEl (fpOf e) s.curLt.acr o xs)
    (h.trans (congrArg Host.Outcome.next (specOp_eq s d a k e o))) fires
  have el : ∀ j, specEl (fpOf e) s.curLt.acr o ([s.tok a].map fun x => x.elem (etWidth e) j) =
      specEl (fpOf e) s.curLt.acr o [(s.tok a).elem (etWidth e) j] := fun j => rfl
  refine ⟨_, _, emitted, elementwise_result (width_etWidth e) (List.cons_ne_nil _ _) _ fun j => ?_,
    elementwise_origin (width_etWidth e) (List.cons_ne_nil _ _) _ (etWidth_ne_of_fp narrow) fun j => ?_⟩
  · rw [el]
    rfl
  · rw [el]
    simp only [specEl, List.getD_cons_zero, Bool.and_eq_true, Bool.not_eq_true']
end

theorem floatTokenWordsAreElementwise : Claims.FloatTokenWordsAreElementwise := by
  intro s d a b c k e acr f
  simp only [List.forall_mem_cons, List.not_mem_nil, false_implies, implies_true, and_true]
  exact ⟨fpOp_result (g := fun v => (v0 v).add (v1 v)) rfl (List.cons_ne_nil _ _),
    fpOp_result (g := fun v => (v0 v).add (v1 v).flip) rfl (List.cons_ne_nil _ _),
    fpOp_result (g := fun v => (v0 v).mul (v1 v)) rfl (List.cons_ne_nil _ _),
    fpOp_result (k := none) (g := fun v => ((v0 v).mul (v1 v)).add (v2 v)) rfl (List.cons_ne_nil _ _),
    fpOp_result (k := none) (g := fun v => ((v0 v).mul (v1 v)).add (v2 v).flip) rfl (List.cons_ne_nil _ _),
    fpOp_result (k := none) (g := fun v => ((v0 v).mul (v1 v)).flip.add (v2 v)) rfl (List.cons_ne_nil _ _),
    fpOp_result (g := fun v => (v0 v).minv (v1 v)) rfl (List.cons_ne_nil _ _),
    fpOp_result (g := fun v => (v0 v).maxv (v1 v)) rfl (List.cons_ne_nil _ _),
    fpOp_result (k := none) (g := fun v => ((v0 v).maxv (v1 v)).minv (v2 v)) rfl (List.cons_ne_nil _ _)⟩

theorem scaleAndSpecialFunctionWords : Claims.ScaleAndSpecialFunctionWords := by
  intro s d a b k e acr f w val
  refine ⟨fun narrow fires => ?_, ?_⟩
  · have emitted := emits_of_exec (i := .vScl d a b k e) (f := fun ts m => elementwise w ts m fun j xs =>
      fpEl f acr (fun l => (v0 l).scale (sgn 32 ((ts.getD 1 {}).lane (j * w / 32)))) (xs.take 1)) rfl fires
    refine ⟨_, _, emitted, elementwise_result (width_etWidth e) (by simp) _ fun j => rfl,
      elementwise_origin (width_etWidth e) (by simp) _ (etWidth_ne_of_fp narrow) fun j => ?_⟩
    simp [fpEl, v0, val]
    rfl
  · simp only [List.forall_mem_cons, List.not_mem_nil, false_implies, implies_true, and_true]
    exact ⟨specOp_result rfl, specOp_result rfl, specOp_result rfl, specOp_result rfl, specOp_result rfl, specOp_result rfl⟩

/-! ## Special inputs (R188, R189) -/

theorem bitLen_one : bitLen 1 = 1 := by decide
/-- The logarithm of one is zero. -/
theorem log2Fin_one : log2Fin 1 0 = .fin false 0 (-400) := by
  simp [log2Fin, bitLen_one, fxOne]
/-- A whole number in fixed point has no fraction. -/
theorem exp2Fin_whole (neg : Bool) {k : Nat} (h : k < 12) : exp2Fin neg k 0 = .fin false 1 (if neg then -(k : Int) else k) := by
  have small : atLeast 12 k 0 = false := by
    interval_cases k <;> decide
  have one : ((fxOne : Nat) : Int) ≠ 0 := by unfold fxOne; exact_mod_cast (Nat.two_pow_pos 400).ne'
  have fx : toFx k 0 = k * fxOne := rfl
  unfold exp2Fin
  simp only [small, Bool.false_eq_true, if_false, fx, Nat.cast_mul]
  cases neg
  · simp only [Bool.false_eq_true, if_false, Int.mul_emod_left, Int.mul_ediv_cancel _ one, Int.toNat_zero, if_true]
  · simp only [if_true, ← Int.neg_mul, Int.mul_emod_left, Int.mul_ediv_cancel _ one, Int.toNat_zero]
/-- The reciprocals of the powers of two that every format holds, format by format and exponent by exponent. -/
theorem rcp_of_pow2 (f : Fmt) (hf : f ∈ [fF32, fBF16, fF16]) (neg : Bool) {k : Int} (lo : -14 ≤ k) (hi : k ≤ 14) :
    SpecFn.rcp.result f (.fin neg 1 k) = f.round 0 0 false (.fin neg 1 (-k)) := by
  fin_cases hf <;> cases neg <;> interval_cases k <;> decide

theorem specialInputsFollowTheTable : Claims.SpecialInputsFollowTheTable := by
  intro f hf neg n e zero one inf nan
  have isNan : f.isNan nan = true := by
    fin_cases hf <;> decide
  refine ⟨fun o => by cases o <;> rfl, isNan, rfl, rfl, rfl, rfl, rfl, rfl, rfl, rfl, rfl, rfl, rfl, rfl, rfl, rfl, rfl, rfl, rfl, rfl,
    fun hn => ⟨?_, ?_⟩, ?_, fun k lo hi => rcp_of_pow2 f hf neg lo hi, fun k _ hk => ⟨?_, ?_⟩⟩
  · simp [SpecFn.result, SpecFn.eval, hn, nan]
  · simp [SpecFn.result, SpecFn.eval, hn, nan]
  · simp only [SpecFn.result, SpecFn.eval, log2Fin_one, one_ne_zero, if_false, Bool.false_eq_true]
    rfl
  · simp only [SpecFn.result, SpecFn.eval]
    rw [if_neg (by omega), exp2Fin_whole false hk]
    rfl
  · simp only [SpecFn.result, SpecFn.eval]
    rw [if_neg (by omega), exp2Fin_whole true hk]
    rfl

/-- Settles O14: one exact value, one rounding per element; scale; the special functions and their special inputs. -/
theorem floatTokenWordsFollowTheTables : Obligations.FloatTokenWordsFollowTheTables :=
  ⟨floatTokenWordsAreElementwise, scaleAndSpecialFunctionWords, specialInputsFollowTheTable⟩

end Sys2Proof.Proofs.FloatTokens
end

section
/-! PROOFS. Conversions: rounding keeps representable values, and `v.cvt` and `v.cvt.sr` convert element by element (R154, R156, R181 to R183). -/
namespace Sys2Proof.Proofs.Conversions
open Sys2Proof Sys2Proof.Machine Sys2Proof.Proofs.Bits Sys2Proof.Proofs.Elements Sys2Proof.Proofs.Tokens Sys2Proof.Proofs.ElementOps
set_option Elab.async false

/-! ## Rounding a value that the format holds (R154) -/

theorem bitLen_of_bounds {n k : Nat} (lo : 2 ^ k ≤ n) (hi : n < 2 ^ (k + 1)) : bitLen n = k + 1 := by
  have pos : n ≠ 0 := fun h => absurd lo (by rw [h]; exact Nat.not_le.2 (Nat.two_pow_pos k))
  have up : n.log2 < k + 1 := (Nat.log2_lt pos).2 hi
  have low : k ≤ n.log2 := (Nat.le_log2 pos).2 lo
  rw [bitLen, if_neg pos]
  omega
theorem bitLen_le_of_lt {n k : Nat} (h : n < 2 ^ k) : bitLen n ≤ k := by
  unfold bitLen
  split
  · exact Nat.zero_le _
  · next pos => exact (Nat.log2_lt pos).2 h
/-- A subnormal magnitude rounds to itself. -/
theorem roundFin_subnormal (f : Fmt) (mode rnd : Nat) (sat neg : Bool) {n : Nat} (pos : n ≠ 0) (hn : n < 2 ^ f.mb) (fits : n ≤ f.maxMag) :
    f.roundFin f.mb mode rnd sat neg n (f.emin - f.mb) = f.sign neg + n := by
  have len := bitLen_le_of_lt hn
  have low : ¬ f.emin ≤ (bitLen n : Int) - 1 + (f.emin - f.mb) := by omega
  have units : roundUnits mode rnd neg n (f.emin - f.mb) (f.emin - f.mb) = n := by
    rw [roundUnits, if_pos le_rfl, sub_self]
    exact Nat.mul_one n
  have two : ¬ 2 ^ (f.mb + 1) ≤ n := by rw [pow_succ]; omega
  unfold Fmt.roundFin
  rw [if_neg pos]
  simp only [if_neg low, units, Nat.sub_self, pow_zero, Nat.mul_one, if_neg two, if_pos hn, if_neg (Nat.not_lt.2 fits)]
/-- A normal magnitude rounds to itself. -/
theorem roundFin_normal (f : Fmt) (mode rnd : Nat) (sat neg : Bool) {man exp : Nat} (hm : man < 2 ^ f.mb) (he : exp ≠ 0)
    (fits : exp * 2 ^ f.mb + man ≤ f.maxMag) :
    f.roundFin f.mb mode rnd sat neg (man + 2 ^ f.mb) ((exp : Int) - f.bias - f.mb) = f.sign neg + (exp * 2 ^ f.mb + man) := by
  have two : 2 ^ (f.mb + 1) = 2 * 2 ^ f.mb := by rw [pow_succ, Nat.mul_comm]
  have len : bitLen (man + 2 ^ f.mb) = f.mb + 1 := bitLen_of_bounds (by omega) (by omega)
  have pos : man + 2 ^ f.mb ≠ 0 := by have := Nat.two_pow_pos f.mb; omega
  have high : f.emin ≤ ((f.mb + 1 : Nat) : Int) - 1 + ((exp : Int) - f.bias - f.mb) := by unfold Fmt.emin; omega
  have q : ((f.mb + 1 : Nat) : Int) - 1 + ((exp : Int) - f.bias - f.mb) - f.mb = (exp : Int) - f.bias - f.mb := by omega
  have units : roundUnits mode rnd neg (man + 2 ^ f.mb) ((exp : Int) - f.bias - f.mb) ((exp : Int) - f.bias - f.mb) = man + 2 ^ f.mb := by
    rw [roundUnits, if_pos le_rfl, sub_self]
    exact Nat.mul_one _
  have field : ((exp : Int) - f.bias - f.mb + f.mb + f.bias).toNat = exp := by omega
  unfold Fmt.roundFin
  rw [if_neg pos, len]
  simp only [if_pos high, q, units, Nat.sub_self, pow_zero, Nat.mul_one, if_neg (show ¬ 2 ^ (f.mb + 1) ≤ man + 2 ^ f.mb by omega),
    if_neg (show ¬ man + 2 ^ f.mb < 2 ^ f.mb by omega), field, Nat.add_sub_cancel, if_neg (Nat.not_lt.2 fits)]

/-- A format's pattern is its sign, its exponent field and its mantissa field, and every finite one is in range. -/
structure Packed (f : Fmt) : Prop where
  width : f.w = f.eb + f.mb + 1
  top : ∀ x, f.isNan x = false → (!f.e4m3 && f.exp x == 2 ^ f.eb - 1) = false → f.exp x * 2 ^ f.mb + f.man x ≤ f.maxMag
  inf : ∀ x, f.isNan x = false → (!f.e4m3 && f.exp x == 2 ^ f.eb - 1) = true → f.exp x * 2 ^ f.mb + f.man x = f.infMag
theorem packed_ieee {f : Fmt} (h : f.e4m3 = false) (hw : f.w = f.eb + f.mb + 1) : Packed f where
  width := hw
  top x nan inf := by
    have exp : f.exp x < 2 ^ f.eb := Nat.mod_lt _ (Nat.two_pow_pos _)
    have man : f.man x < 2 ^ f.mb := Nat.mod_lt _ (Nat.two_pow_pos _)
    rw [h, Bool.not_false, Bool.true_and, beq_eq_false_iff_ne] at inf
    unfold Fmt.maxMag
    rw [if_neg (by rw [h]; decide)]
    have := Nat.mul_le_mul_right (2 ^ f.mb) (show f.exp x ≤ 2 ^ f.eb - 2 by omega)
    omega
  inf x nan inf := by
    rw [h, Bool.not_false, Bool.true_and, beq_iff_eq] at inf
    unfold Fmt.isNan at nan
    rw [if_neg (by rw [h]; decide), inf, beq_self_eq_true, Bool.true_and, bne_eq_false_iff_eq] at nan
    unfold Fmt.infMag
    rw [if_neg (by rw [h]; decide), inf, nan, Nat.add_zero]
theorem packed_of_mem {f : Fmt} (hf : f ∈ [fF32, fBF16, fF16, fE4M3, fE5M2]) : Packed f := by
  fin_cases hf
  · exact packed_ieee rfl rfl
  · exact packed_ieee rfl rfl
  · exact packed_ieee rfl rfl
  · refine ⟨rfl, fun x nan _ => ?_, fun x _ h => absurd h (by simp [fE4M3])⟩
    simp only [Fmt.isNan, fE4M3, if_true, beq_eq_false_iff_ne] at nan
    simp only [Fmt.exp, Fmt.man, Fmt.maxMag, fE4M3, if_true]
    omega
  · exact packed_ieee rfl rfl
/-- A pattern from its fields. -/
theorem pattern_eq {f : Fmt} (hw : f.w = f.eb + f.mb + 1) {x : Nat} (hx : x < 2 ^ f.w) :
    f.sign (f.neg x) + (f.exp x * 2 ^ f.mb + f.man x) = x := by
  have low : f.exp x * 2 ^ f.mb + f.man x = x % 2 ^ (f.w - 1) := by
    rw [hw, Nat.add_sub_cancel, Nat.add_comm f.eb, pow_add, Nat.mod_mul, Fmt.exp, Fmt.man, Nat.mul_comm, Nat.add_comm]
  have high : f.sign (f.neg x) = 2 ^ (f.w - 1) * (x / 2 ^ (f.w - 1)) := by
    have two : x / 2 ^ (f.w - 1) < 2 := by
      rw [Nat.div_lt_iff_lt_mul (Nat.two_pow_pos _)]
      calc x < 2 ^ f.w := hx
        _ = 2 * 2 ^ (f.w - 1) := by rw [← pow_succ', Nat.sub_add_cancel (by omega)]
    unfold Fmt.sign Fmt.neg
    rw [Nat.testBit_eq_decide_div_mod_eq]
    interval_cases x / 2 ^ (f.w - 1) <;> simp
  rw [low, high, Nat.div_add_mod]

theorem roundingKeepsRepresentableValues : Claims.RoundingKeepsRepresentableValues := by
  intro f hf x mode rnd sat hx nan _ _ noInf
  obtain ⟨width, top, inf⟩ := packed_of_mem hf
  have back := pattern_eq width hx
  by_cases isInf : (!f.e4m3 && f.exp x == 2 ^ f.eb - 1) = true
  · have val : f.val x = .inf (f.neg x) := by rw [Fmt.val, nan, if_neg (by decide), if_pos isInf]
    have unsat : sat = false := by
      by_contra h
      obtain ⟨t, u⟩ := noInf (Bool.eq_true_of_not_eq_false h)
      cases q : f.neg x
      · exact u (q ▸ val)
      · exact t (q ▸ val)
    rw [val, Fmt.round, unsat, if_neg (by decide), ← inf x nan isInf, back]
  · have fits := top x nan (Bool.eq_false_iff.2 isInf)
    by_cases sub : f.exp x = 0
    · have val : f.val x = .fin (f.neg x) (f.man x) (f.emin - f.mb) := by rw [Fmt.val, nan, if_neg (by decide), if_neg isInf, if_pos sub]
      rw [sub, Nat.zero_mul, Nat.zero_add] at fits back
      rw [val, Fmt.round]
      by_cases zero : f.man x = 0
      · rw [zero, Nat.add_zero] at back
        rw [zero, Fmt.roundFin, if_pos rfl, back]
      · rw [roundFin_subnormal f mode rnd sat _ zero (Nat.mod_lt _ (Nat.two_pow_pos _)) fits, back]
    · have val : f.val x = .fin (f.neg x) (f.man x + 2 ^ f.mb) ((f.exp x : Int) - f.bias - f.mb) := by
        rw [Fmt.val, nan, if_neg (by decide), if_neg isInf, if_neg sub]
      rw [val, Fmt.round, roundFin_normal f mode rnd sat _ (man := f.man x) (Nat.mod_lt _ (Nat.two_pow_pos _)) sub fits, back]

/-! ## Convert words (R156, R181 to R183) -/

/-- An element past a token's count is dead. -/
theorem elAt_elsOf_past (w : Nat) (m : BitVec 16) (x : Token) {j : Nat} (h : 512 / w ≤ j) : elAt (elsOf w m x) j = {} := by
  rw [elsOf_eq]
  exact List.getD_eq_default _ _ (by simpa using h)
theorem not_liveIn_past {w : Nat} (hw : Width w) (m : BitVec 16) (x : Token) {j : Nat} (h : 512 / w ≤ j) : ¬ LiveIn w [x] m j := by
  have bit : ∀ k, 16 ≤ k → x.val k ≠ true := fun k hk => by
    rw [Token.val, BitVec.testBit_toNat, BitVec.getLsbD_of_ge _ _ hk]; decide
  intro live
  unfold LiveIn elemLanes at live
  split at live
  · next e => subst e; exact bit (2 * j) (by omega) ((live _ (.head _)).1 x (.head _))
  · refine bit (j * w / 32) ?_ ((live _ (.head _)).1 x (.head _))
    obtain rfl | rfl | rfl | rfl := hw <;> omega
/-- What element j of a token, wherever it lies, says of its lanes. -/
theorem elAt_elsOf_live {w : Nat} (hw : Width w) (m : BitVec 16) (x : Token) (j : Nat) : (elAt (elsOf w m x) j).live = true ↔ LiveIn w [x] m j := by
  by_cases h : j < 512 / w
  · rw [elAt_elsOf w m x h, liveIn_one]
  · rw [elAt_elsOf_past w m x (Nat.le_of_not_lt h)]
    exact ⟨fun e => absurd e (by decide), fun e => absurd e (not_liveIn_past hw m x (Nat.le_of_not_lt h))⟩
theorem elAt_elsOf_of_live {w : Nat} (hw : Width w) {m : BitVec 16} {x : Token} {j : Nat} (live : LiveIn w [x] m j) :
    elAt (elsOf w m x) j = elIn w m x j :=
  elAt_elsOf w m x (Nat.lt_of_not_le fun h => not_liveIn_past hw m x h live)

/-- What a conversion of elements makes of a token (R182). -/
theorem cvtToken_result (f e : EType) (mode : Nat) (sat : Bool) (acr : BitVec 4) (first count : Nat) (rnd : Nat → Nat) (x : Token) :
    let live := fun j => j < count ∧ LiveIn (etWidth f) [x] 0xFFFF (first + j)
    let res := fun j => convert f e mode (rnd j) sat (acrFi acr) (acrFo acr) (x.elem (etWidth f) (first + j))
    Assembled (etWidth e) live (fun j => PoisIn (etWidth f) [x] (first + j)) res x.tag (cvtToken f e mode sat acr first count rnd x).1 ∧
    OriginIs (etWidth e) live (fun j => convertNan f e (x.elem (etWidth f) (first + j)) (res j) = true)
      (cvtToken f e mode sat acr first count rnd x).1 (cvtToken f e mode sat acr first count rnd x).2 := by
  intro live res
  let els := (List.range count).map fun j =>
    let y := elAt (elsOf (etWidth f) 0xFFFF x) (first + j)
    let r := convert f e mode (rnd j) sat (acrFi acr) (acrFo acr) y.bits
    { y with bits := r, nan := convertNan f e y.bits r }
  have eq : cvtToken f e mode sat acr first count rnd x = assemble (etWidth e) els x.tag := by
    rw [cvtToken, upTo_eq_range]
  have past : ∀ j, ¬ j < count → elAt els j = {} := fun j h => List.getD_eq_default _ _ (by simpa [els] using h)
  have inside : ∀ j, j < count → elAt els j = (let y := elAt (elsOf (etWidth f) 0xFFFF x) (first + j)
      let r := convert f e mode (rnd j) sat (acrFi acr) (acrFo acr) y.bits
      { y with bits := r, nan := convertNan f e y.bits r }) := fun j h => elAt_map_range _ h
  have alive : ∀ j, (elAt els j).live = true ↔ live j := fun j => by
    by_cases h : j < count
    · rw [inside j h]
      exact (elAt_elsOf_live (width_etWidth f) _ x _).trans (iff_and_self.2 fun _ => h)
    · rw [past j h]
      exact ⟨fun e => absurd e (by decide), fun e => absurd e.1 h⟩
  have value : ∀ j, live j → elAt els j = { elIn (etWidth f) 0xFFFF x (first + j) with
      bits := res j, nan := convertNan f e (x.elem (etWidth f) (first + j)) (res j) } := fun j ⟨h, l⟩ => by
    rw [inside j h, elAt_elsOf_of_live (width_etWidth f) l]
    rfl
  rw [eq]
  refine ⟨assembled_of (width_etWidth e) els _ fun j _ => ⟨alive j, fun l => ?_⟩, ?_⟩
  · rw [value j l]
    exact ⟨poisIn_one _ 0xFFFF _ _, rfl⟩
  · by_cases narrow : etWidth e = 64
    · have noNan : ∀ y r, convertNan f e y r = false := fun y r => by
        cases e <;> simp_all [convertNan, etInt, etWidth]
      have none := assemble_no_origin (w := etWidth e) x.tag (els := els) fun y hy => by
        obtain ⟨j, -, rfl⟩ := List.mem_map.1 hy
        exact noNan _ _
      rw [none]
      rintro j - ⟨-, n, -⟩
      rw [noNan] at n
      exact absurd n (by decide)
    · refine origin_of (width_etWidth e) narrow els _ fun j _ => ⟨alive j, fun l => ?_⟩
      rw [value j l]
/-- The random word of an element is a rotation of its lane. -/
theorem rndWord_eq (x : Token) (j : Nat) :
    rndWord x j = ((BitVec.ofNat 32 (x.lane (j % 16))).rotateLeft (8 * (j / 16))).toNat := by
  have small : x.lane (j % 16) < 2 ^ 32 := by rw [lane_eq_elem]; exact elem_lt ..
  generalize hl : x.lane (j % 16) = l at small
  have rot : ∀ r, r < 32 → (l * 2 ^ r + l / 2 ^ (32 - r)) % 2 ^ 32 = l <<< r % 2 ^ 32 ||| l >>> (32 - r) := fun r hr => by
    have low : l / 2 ^ (32 - r) < 2 ^ r := by
      rw [Nat.div_lt_iff_lt_mul (Nat.two_pow_pos _), ← pow_add, Nat.add_sub_cancel' (Nat.le_of_lt hr)]
      exact small
    have split : (2 : Nat) ^ 32 = 2 ^ r * 2 ^ (32 - r) := by rw [← pow_add, Nat.add_sub_cancel' (Nat.le_of_lt hr)]
    have high : l <<< r % 2 ^ 32 = (l % 2 ^ (32 - r)) <<< r := by
      rw [Nat.shiftLeft_eq, Nat.shiftLeft_eq, split, Nat.mul_comm l, Nat.mul_mod_mul_left, Nat.mul_comm]
    rw [high, Nat.shiftRight_eq_div_pow, ← Nat.shiftLeft_add_eq_or_of_lt low, ← high, Nat.shiftLeft_eq, Nat.add_mod]
    have rest : l * 2 ^ r % 2 ^ 32 + l / 2 ^ (32 - r) < 2 ^ 32 := by
      rw [← Nat.shiftLeft_eq, high, Nat.shiftLeft_eq, split]
      have := Nat.mod_lt l (Nat.two_pow_pos (32 - r))
      have top : (l % 2 ^ (32 - r) + 1) * 2 ^ r ≤ 2 ^ (32 - r) * 2 ^ r := Nat.mul_le_mul_right _ this
      rw [Nat.mul_comm (2 ^ r)]
      rw [Nat.add_mul] at top
      omega
    rw [Nat.mod_eq_of_lt (a := l / 2 ^ (32 - r)) (by have := Nat.pow_le_pow_right (n := 2) (by decide) (Nat.le_of_lt hr); omega),
      Nat.mod_eq_of_lt rest]
  rw [BitVec.toNat_rotateLeft, BitVec.toNat_ofNat, Nat.mod_eq_of_lt small, ← rot _ (Nat.mod_lt _ (by decide)), rndWord, hl]

theorem convertWords : Claims.ConvertWords := by
  intro s d a b f e sat m acr x result
  refine ⟨fun _ fires => ?_, fun _ fires => ?_⟩
  · have emitted := emits_of_exec (i := .vCvt d a f sat m e) (k := none) (f := fun ts _ =>
      if perTok f ≤ perTok e then cvtToken f e m.toNat sat acr 0 (perTok f) (fun _ => 0) (ts.headD {})
      else cvtToken f e 0 false acr (m.toNat * perTok e) (perTok e) (fun _ => 0) (ts.headD {})) rfl fires
    by_cases few : perTok f ≤ perTok e
    · rw [if_pos few] at emitted
      exact ⟨_, _, emitted, fun _ => cvtToken_result .., fun many => absurd few (Nat.not_le.2 many)⟩
    · rw [if_neg few] at emitted
      exact ⟨_, _, emitted, fun fits => absurd fits few, fun _ => cvtToken_result ..⟩
  · have emitted := emits_of_exec (i := .vCvtSr d a b sat f e) (k := none) (f := fun ts _ =>
      cvtToken f e 4 sat acr 0 (perTok f) (rndWord (ts.getD 1 {})) (ts.headD {})) rfl fires
    have words : rndWord (s.tok b) = fun j => ((BitVec.ofNat 32 ((s.tok b).lane (j % 16))).rotateLeft (8 * (j / 16))).toNat :=
      funext (rndWord_eq (s.tok b))
    refine ⟨_, _, emitted, ?_⟩
    rw [← words]
    exact cvtToken_result ..

/-- Settles O16: rounding keeps representable values, and the conversions convert element by element. -/
theorem convertWordsRoundOnce : Obligations.ConvertWordsRoundOnce :=
  ⟨roundingKeepsRepresentableValues, convertWords⟩

end Sys2Proof.Proofs.Conversions
end

section
/-! PROOFS. Pack, unpack and quantised blocks (R161, R162, R184 to R186). -/
namespace Sys2Proof.Proofs.PackedTokens
open Sys2Proof Sys2Proof.Machine Sys2Proof.Proofs.Bits Sys2Proof.Proofs.Elements Sys2Proof.Proofs.Tokens Sys2Proof.Proofs.ElementOps
  Sys2Proof.Proofs.Conversions
set_option Elab.async false

/-! ## Elements within a lane (R42) -/

/-- Bits of a field within a field. -/
theorem div_mod_div_mod (x a n b w : Nat) (h : b + w ≤ n) : x / 2 ^ a % 2 ^ n / 2 ^ b % 2 ^ w = x / 2 ^ (a + b) % 2 ^ w := by
  apply Nat.eq_of_testBit_eq
  intro i
  simp only [Nat.testBit_mod_two_pow, Nat.testBit_div_two_pow]
  by_cases hi : i < w
  · rw [decide_eq_true hi, decide_eq_true (show i + b < n by omega), Bool.true_and, Bool.true_and, Bool.true_and]
    congr 1; omega
  · rw [decide_eq_false hi, Bool.false_and, Bool.false_and]
/-- The lane that holds a narrow element, and its place there. -/
theorem elem_of_lane (x : Token) {w : Nat} (hw : w = 8 ∨ w = 16 ∨ w = 32) (j : Nat) :
    x.elem w j = x.lane (j * w / 32) / 2 ^ (w * j - 32 * (j * w / 32)) % 2 ^ w := by
  rw [lane_eq, div_mod_div_mod _ _ _ _ _ (by obtain rfl | rfl | rfl := hw <;> omega), Token.elem]
  congr 3
  obtain rfl | rfl | rfl := hw <;> omega
theorem elemLanes_narrow {w : Nat} (hw : w = 8 ∨ w = 16 ∨ w = 32) (j : Nat) : elemLanes w j = [j * w / 32] :=
  if_neg (by obtain rfl | rfl | rfl := hw <;> decide)
theorem lane_of_elem {w : Nat} (hw : w = 8 ∨ w = 16 ∨ w = 32) {j : Nat} (hj : j < 512 / w) : j * w / 32 < 16 := by
  obtain rfl | rfl | rfl := hw <;> omega
theorem lane_lt (x : Token) (k : Nat) : x.lane k < 2 ^ 32 := by rw [lane_eq_elem]; exact elem_lt ..

/-! ## Masked results -/

theorem val_maskLanes (m : BitVec 16) (x : Token) (k : Nat) : (maskLanes m x).val k = (x.val k && m.getLsbD k) := by
  show (x.valid &&& m).toNat.testBit k = _
  rw [BitVec.testBit_toNat, BitVec.getLsbD_and, ← BitVec.testBit_toNat]
  rfl
theorem pois_maskLanes (m : BitVec 16) (x : Token) (k : Nat) : (maskLanes m x).pois k = (x.pois k && m.getLsbD k) := by
  show (x.poison &&& m).toNat.testBit k = _
  rw [BitVec.testBit_toNat, BitVec.getLsbD_and, ← BitVec.testBit_toNat]
  rfl
theorem lane_maskLanes (m : BitVec 16) (x : Token) {k : Nat} (h : k < 16) :
    (maskLanes m x).lane k = if m.getLsbD k = true ∧ x.val k = true then x.lane k else 0 := by
  refine (MatMoves.lane_laneFn _ _ _ _ _ h).trans ?_
  rw [BitVec.testBit_toNat]
  by_cases kept : m.getLsbD k = true ∧ x.val k = true
  · rw [if_pos (by rw [kept.1, kept.2]; rfl), if_pos kept, Nat.mod_eq_of_lt (lane_lt x k)]
  · rw [if_neg (by rwa [Bool.and_eq_true]), if_neg kept, Nat.zero_mod]
theorem tag_maskLanes (m : BitVec 16) (x : Token) : (maskLanes m x).tag = x.tag := by simp only [maskLanes]
theorem kind_maskLanes (m : BitVec 16) (x : Token) : (maskLanes m x).kind = x.kind := by simp only [maskLanes]
/-- A mask keeps the elements of its lanes. -/
theorem assembled_maskLanes {w : Nat} (hw : w = 8 ∨ w = 16 ∨ w = 32) {live pois : Nat → Prop} {bits : Nat → Nat} {tag : BitVec 6} {r : Token}
    (h : Assembled w live pois bits tag r) (m : BitVec 16) :
    Assembled w (fun j => live j ∧ m.getLsbD (j * w / 32) = true) pois bits tag (maskLanes m r) := by
  obtain ⟨els, lanes, htag, hkind⟩ := h
  have same : ∀ j < 512 / w, (maskLanes m r).elem w j =
      if m.getLsbD (j * w / 32) = true ∧ r.val (j * w / 32) = true then r.elem w j else 0 := fun j hj => by
    rw [elem_of_lane _ hw, lane_maskLanes m r (lane_of_elem hw hj), elem_of_lane r hw]
    split
    · rfl
    · rw [Nat.zero_div, Nat.zero_mod]
  refine ⟨fun j hj => ⟨fun ⟨l, k⟩ => ?_, fun dead => ?_⟩, fun k hk => ⟨?_, ?_⟩, (tag_maskLanes m r).trans htag, (kind_maskLanes m r).trans hkind⟩
  · have valid : r.val (j * w / 32) = true :=
      (lanes _ (lane_of_elem hw hj)).1.2 ⟨j, hj, by rw [elemLanes_narrow hw]; exact .head _, l⟩
    rw [same j hj, if_pos ⟨k, valid⟩, (els j hj).1 l]
  · rw [same j hj]
    split
    · next kept => exact (els j hj).2 fun l => dead ⟨l, kept.1⟩
    · rfl
  · rw [val_maskLanes, Bool.and_eq_true, (lanes k hk).1]
    constructor
    · rintro ⟨⟨j, hj, mem, l⟩, kept⟩
      rw [elemLanes_narrow hw, List.mem_singleton] at mem
      exact ⟨j, hj, by rw [elemLanes_narrow hw, mem]; exact .head _, l, mem ▸ kept⟩
    · rintro ⟨j, hj, mem, l, kept⟩
      refine ⟨⟨j, hj, mem, l⟩, ?_⟩
      rw [elemLanes_narrow hw, List.mem_singleton] at mem
      exact mem ▸ kept
  · rw [pois_maskLanes, Bool.and_eq_true, (lanes k hk).2]
    constructor
    · rintro ⟨⟨j, hj, mem, l, p⟩, kept⟩
      rw [elemLanes_narrow hw, List.mem_singleton] at mem
      exact ⟨j, hj, by rw [elemLanes_narrow hw, mem]; exact .head _, ⟨l, mem ▸ kept⟩, p⟩
    · rintro ⟨j, hj, mem, ⟨l, kept⟩, p⟩
      refine ⟨⟨j, hj, mem, l, p⟩, ?_⟩
      rw [elemLanes_narrow hw, List.mem_singleton] at mem
      exact mem ▸ kept

/-! ## Pack and unpack (R184) -/

theorem highHalf_iff (e : EType) : highHalf e = true ↔ e = .bf16 ∨ e = .e5m2 := by
  cases e <;> simp [highHalf]
theorem elAt_append_left {l r : List El} {j : Nat} (h : j < l.length) : elAt (l ++ r) j = elAt l j := List.getD_append _ _ _ _ h
theorem elAt_append_right {l r : List El} {j : Nat} (h : l.length ≤ j) : elAt (l ++ r) j = elAt r (j - l.length) :=
  List.getD_append_right _ _ _ _ h
/-- A change of elements that keeps their flags, element by element. -/
theorem elAt_map (g : El → El) (l : List El) {j : Nat} (h : j < l.length) : elAt (l.map g) j = g (elAt l j) := by
  rw [elAt, elAt, List.getD_eq_getElem _ _ (by simpa using h), List.getD_eq_getElem _ _ h, List.getElem_map]
theorem elsOf_length (w : Nat) (m : BitVec 16) (x : Token) : (elsOf w m x).length = 512 / w := by
  rw [elsOf_eq, List.length_map, List.length_range]

/-- The half of an element that a pack keeps. -/
def halfOf (e : EType) (x : El) : El := { x with bits := if highHalf e then x.bits / 2 ^ etWidth e else x.bits % 2 ^ etWidth e }
/-- An element widened. -/
def widened (e : EType) (x : El) : El :=
  { x with bits := if highHalf e then x.bits * 2 ^ etWidth e else unsgn (2 * etWidth e) (sgn (etWidth e) x.bits) }
/-- The source elements of a pack. -/
def packSrc (e : EType) (x y : Token) : List El := elsOf (2 * etWidth e) 0xFFFF x ++ elsOf (2 * etWidth e) 0xFFFF y
theorem packSrc_at (e : EType) (x y : Token) {j : Nat} (hw : etWidth e = 8 ∨ etWidth e = 16) (hj : j < 512 / etWidth e) :
    elAt (packSrc e x y) j = if j < 256 / etWidth e then elIn (2 * etWidth e) 0xFFFF x j else elIn (2 * etWidth e) 0xFFFF y (j - 256 / etWidth e) := by
  have half : 512 / (2 * etWidth e) = 256 / etWidth e := by obtain h | h := hw <;> rw [h]
  have size : 512 / etWidth e - 256 / etWidth e = 256 / etWidth e := by obtain h | h := hw <;> rw [h]
  split
  · next h => rw [packSrc, elAt_append_left (by rwa [elsOf_length, half]), elAt_elsOf _ _ _ (by rwa [half])]
  · next h => rw [packSrc, elAt_append_right (by rw [elsOf_length, half]; omega), elsOf_length, half, elAt_elsOf _ _ _ (by omega)]
theorem etWidth_packed {e : EType} (h : ([.i8, .i16, .bf16, .e5m2] : List EType).contains e = true) : etWidth e = 8 ∨ etWidth e = 16 := by
  cases e <;> simp_all [etWidth]

/-- The source elements of an unpack. -/
def unpackSrc (e : EType) (hi : Bool) (x : Token) : List El :=
  ((elsOf (etWidth e) 0xFFFF x).drop (if hi then 256 / etWidth e else 0)).take (256 / etWidth e)
theorem elAt_drop_take (l : List El) (a n : Nat) {j : Nat} (h : j < n) : elAt ((l.drop a).take n) j = elAt l (a + j) := by
  simp only [elAt, List.getD_eq_getElem?_getD, List.getElem?_take, if_pos h, List.getElem?_drop]
theorem unpackSrc_at (e : EType) (hi : Bool) (x : Token) {j : Nat} (hw : etWidth e = 8 ∨ etWidth e = 16) (hj : j < 256 / etWidth e) :
    elAt (unpackSrc e hi x) j = elIn (etWidth e) 0xFFFF x ((if hi then 256 / etWidth e else 0) + j) := by
  rw [unpackSrc, elAt_drop_take _ _ _ hj, elAt_elsOf]
  obtain h | h := hw <;> rw [h] at hj ⊢ <;> split <;> omega
theorem unpack_result {s : State} {i : Instr} {d a : BitVec 4} {k : Option (BitVec 2)} {e : EType} (hi : Bool)
    (h : exec i s = .next (unpack s d a k e hi)) (wf : ([.i8, .i16, .bf16, .e5m2] : List EType).contains e = true)
    (fires : s.fires [a] (some d) k.toList true) :
    let w := etWidth e
    let off := if hi then 256 / w else 0
    ∃ r, exec i s = s.emits [a] d r none 0 ∧
      Assembled (2 * w) (fun j => LiveIn w [s.tok a] 0xFFFF (off + j) ∧ (s.maskOf k).getLsbD (j * (2 * w) / 32) = true)
        (fun j => PoisIn w [s.tok a] (off + j))
        (fun j => if e = .bf16 ∨ e = .e5m2 then (s.tok a).elem w (off + j) * 2 ^ w else unsgn (2 * w) (sgn w ((s.tok a).elem w (off + j))))
        (s.tok a).tag r := by
  intro w off
  have hw := etWidth_packed wf
  have wide : 2 * w = 16 ∨ 2 * w = 32 := hw.imp (congrArg (2 * ·)) (congrArg (2 * ·))
  have emitted := emits_of_exec (f := fun ts m =>
    (maskLanes m (assemble (2 * w) ((unpackSrc e hi (ts.headD {})).map (widened e)) (ts.headD {}).tag).1, none)) h fires
  refine ⟨_, emitted, assembled_maskLanes (.inr wide) (assembled_of (.inr (wide.imp_right .inl)) _ _ fun j hj => ?_) _⟩
  have half : 512 / (2 * w) = 256 / w := by obtain h | h := hw <;> simp only [w, h]
  rw [half] at hj
  have len : (unpackSrc e hi (s.tok a)).length = 256 / w := by
    rw [unpackSrc, List.length_take, List.length_drop, elsOf_length]
    show min (256 / etWidth e) (512 / etWidth e - _) = 256 / etWidth e
    obtain h | h := hw <;> rw [h] <;> cases hi <;> rfl
  have el : elAt ((unpackSrc e hi (s.tok a)).map (widened e)) j = widened e (elIn w 0xFFFF (s.tok a) (off + j)) := by
    rw [elAt_map _ _ (by rw [len]; exact hj), unpackSrc_at e hi _ hw hj]
  refine ⟨?_, fun _ => ⟨?_, ?_⟩⟩
  · exact (congrArg (El.live · = true) el).to_iff.trans (liveIn_one ..)
  · exact (congrArg (El.pois · = true) el).to_iff.trans (poisIn_one w 0xFFFF _ _)
  · refine (congrArg (fun x => El.bits x % 2 ^ (2 * w)) el).trans ?_
    simp only [widened, highHalf_iff]
    rfl

theorem packAndUnpackWords : Claims.PackAndUnpackWords := by
  intro s d a b k e w kept src
  refine ⟨fun wf fires => ?_, ?_⟩
  · have hw := etWidth_packed wf
    have emitted := emits_of_exec (i := .vPack d a b k e) (k := k) (f := fun ts m =>
      (maskLanes m (assemble w ((packSrc e (ts.getD 0 {}) (ts.getD 1 {})).map (halfOf e)) (ts.headD {}).tag).1, none)) rfl fires
    refine ⟨_, emitted, assembled_maskLanes (hw.imp_right .inl) (assembled_of (width_etWidth e) _ _ fun j hj => ?_) _⟩
    have len : (packSrc e (s.tok a) (s.tok b)).length = 512 / w := by
      rw [packSrc, List.length_append, elsOf_length, elsOf_length]
      show 512 / (2 * etWidth e) + 512 / (2 * etWidth e) = 512 / etWidth e
      obtain h | h := hw <;> rw [h]
    have el : elAt ((packSrc e (s.tok a) (s.tok b)).map (halfOf e)) j = halfOf e (elIn (2 * w) 0xFFFF (src j).1 (src j).2) := by
      rw [elAt_map _ _ (by rw [len]; exact hj), packSrc_at e _ _ hw hj]
      simp only [src]
      split <;> rfl
    refine ⟨?_, fun _ => ⟨?_, ?_⟩⟩
    · exact (congrArg (El.live · = true) el).to_iff.trans (liveIn_one ..)
    · exact (congrArg (El.pois · = true) el).to_iff.trans (poisIn_one (2 * w) 0xFFFF _ _)
    · refine (congrArg (fun x => El.bits x % 2 ^ w) el).trans ?_
      simp only [halfOf, highHalf_iff]
      split
      · rfl
      · exact Nat.mod_mod ..
  · simp only [List.forall_mem_cons, List.not_mem_nil, false_implies, implies_true, and_true]
    exact ⟨unpack_result false rfl, unpack_result true rfl⟩

/-! ## Quantised blocks (R161, R162, R185, R186) -/

/-- A scale code is a byte. -/
theorem quantBlock_code_lt (q : EType) (mode : Nat) (fo : Bool) (vs : List FVal) : (quantBlock q mode fo vs).1 < 256 := by
  unfold quantBlock
  split
  · exact (by decide : 255 < 256)
  · simp only
    split
    · exact (by decide : 0 < 256)
    · simp only
      split
      · decide
      · split
        · decide
        · omega

/-- An element of a dequantised block, which draws on its own lane and on lane 8 (R186). -/
def dequantEl (q e : EType) (acr : BitVec 4) (x : Token) (y : El) : El :=
  { y with bits := if y.live then dequant q e (acrFi acr) (acrFo acr) (x.lane 8 % 256) y.bits else 0,
           live := true, pois := (y.live && y.pois) || x.pois 8 }
/-- The elements of a dequantised block. -/
def dequantEls (q e : EType) (acr : BitVec 4) (p : Bool) (x : Token) : List El :=
  ((((elsOf 8 0xFFFF x).take 32).drop (if p then 16 else 0)).take (512 / etWidth e)).map (dequantEl q e acr x)
theorem elAt_take (l : List El) {n j : Nat} (h : j < n) : elAt (l.take n) j = elAt l j := by
  simp only [elAt, List.getD_eq_getElem?_getD, List.getElem?_take, if_pos h]
theorem liveIn_byte (x : Token) (j : Nat) : (elIn 8 0xFFFF x j).live = true ↔ x.val (j / 4) = true := by
  have mask : ∀ k, x.val k = true → (0xFFFF : BitVec 16).getLsbD k = true := fun k hk => by
    have small : k < 16 := by
      by_contra big
      rw [Token.val, BitVec.testBit_toNat, BitVec.getLsbD_of_ge _ _ (Nat.le_of_not_lt big)] at hk
      exact absurd hk (by decide)
    interval_cases k <;> rfl
  have lane : j * 8 / 32 = j / 4 := by omega
  rw [liveIn_one, LiveIn, elemLanes_narrow (.inl rfl), lane]
  simp only [List.mem_singleton, forall_eq]
  exact ⟨And.left, fun h => ⟨h, mask _ h⟩⟩
theorem poisIn_byte (x : Token) (j : Nat) : (elIn 8 0xFFFF x j).pois = x.pois (j / 4) := by
  have lane : j * 8 / 32 = j / 4 := by omega
  rw [elIn, elemLanes_narrow (.inl rfl), lane]
  simp
theorem dequantEls_at (q e : EType) (acr : BitVec 4) (p : Bool) (x : Token) {j : Nat} (hj : j < 512 / etWidth e)
    (fits : (if p then 16 else 0) + 512 / etWidth e ≤ 32) :
    elAt (dequantEls q e acr p x) j = dequantEl q e acr x (elIn 8 0xFFFF x ((if p then 16 else 0) + j)) := by
  rw [dequantEls, elAt_map, elAt_drop_take _ _ _ hj, elAt_take _ (by omega), elAt_elsOf _ _ _ (by omega)]
  rw [List.length_take, List.length_drop, List.length_take, elsOf_length]
  omega
theorem dqblk_result (s : State) (d a : BitVec 4) (p : Bool) (q e : EType) (wf : (Instr.vDqblk d a p q e).wellFormed = true)
    (fires : s.fires [a] (some d) [] true) :
    let acr := s.curLt.acr
    let x := s.tok a
    let w := etWidth e
    let at_ := fun (j : Nat) => (if p then 16 else 0) + j
    ∃ r, exec (.vDqblk d a p q e) s = s.emits [a] d r none (16 * e.code + q.code) ∧
      (x.val 8 = false → r = { data := 0, valid := 0, poison := 0, tag := x.tag, kind := .data }) ∧
      (x.val 8 = true → Assembled w (fun _ => True) (fun j => (x.val (at_ j / 4) = true ∧ x.pois (at_ j / 4) = true) ∨ x.pois 8 = true)
        (fun j => if x.val (at_ j / 4) = true then dequant q e (acrFi acr) (acrFo acr) (x.lane 8 % 256) (x.elem 8 (at_ j)) else 0) x.tag r) := by
  intro acr x w at_
  have fits : (if p then 16 else 0) + 512 / etWidth e ≤ 32 := by
    have wide : e = .f32 ∨ (e = .bf16 ∧ p = false) := by
      cases e <;> cases p <;> simp_all [Instr.wellFormed]
    obtain rfl | ⟨rfl, rfl⟩ := wide
    · cases p <;> decide
    · decide
  have emitted := emits_of_exec (i := .vDqblk d a p q e) (k := none) (f := fun ts _ =>
    if !(ts.headD {}).val 8 then (⟨0, 0, 0, (ts.headD {}).tag, .data⟩, none)
    else ((assemble (etWidth e) (dequantEls q e acr p (ts.headD {})) (ts.headD {}).tag).1, none)) rfl fires
  change exec _ s = s.emits [a] d
    (if !x.val 8 then (⟨0, 0, 0, x.tag, .data⟩, none) else ((assemble w (dequantEls q e acr p x) x.tag).1, none) : Token × Option Nat).1
    (if !x.val 8 then (⟨0, 0, 0, x.tag, .data⟩, none) else ((assemble w (dequantEls q e acr p x) x.tag).1, none) : Token × Option Nat).2 _ at emitted
  cases scale : x.val 8
  · rw [scale] at emitted
    exact ⟨_, emitted, fun _ => rfl, fun h => absurd h (by decide)⟩
  · rw [scale] at emitted
    refine ⟨_, emitted, fun h => absurd h (by decide), fun _ => assembled_of (width_etWidth e) _ _ fun j hj => ?_⟩
    rw [dequantEls_at q e acr p x hj fits]
    refine ⟨⟨fun _ => trivial, fun _ => rfl⟩, fun _ => ⟨?_, congrArg (· % 2 ^ w) ?_⟩⟩
    · simp only [dequantEl, Bool.or_eq_true, Bool.and_eq_true, liveIn_byte, poisIn_byte, at_]
    · simp only [dequantEl, liveIn_byte, at_]
      rfl

/-- The value of a block's element. -/
def blockVal (st : EType) (acr : BitVec 4) (x : El) : FVal := etVal st (acrFi acr) x.bits
/-- The values present in a block. -/
def presentVals (st : EType) (acr : BitVec 4) (src : List El) : List FVal := (src.filter El.live).map (blockVal st acr)
/-- What an element of a block becomes under a code. -/
def quantEl (st : EType) (acr : BitVec 4) (f : FVal → Nat × Bool) (x : El) : Nat × Bool := if x.live then f (blockVal st acr x) else (0, false)
/-- A token of quantised elements and their code, with the origin among them (R185). -/
def quantTok (code : Nat) (pois : Bool) (tag : BitVec 6) (els : List (Nat × Bool)) : Token × Option Nat :=
  (⟨ofElems 8 (els.map (·.1) ++ [code]), 0x1FF, if pois then 0x1FF else 0, tag, .data⟩,
    if pois then none else els.zipIdx.findSome? fun x => if x.1.2 then some x.2 else none)
/-- A quantised block (R185). -/
def quantised (st e : EType) (mode : Nat) (acr : BitVec 4) (src : List El) (tag : BitVec 6) : Token × Option Nat :=
  let present := (src.zip (src.map (blockVal st acr))).filter fun p => p.1.live
  if present.isEmpty then (⟨0, 0, 0, tag, .data⟩, none)
  else
    let f := quantBlock e mode (acrFo acr) (present.map (·.2))
    quantTok f.1 (present.any fun p => p.1.pois) tag ((src.zip (src.map (blockVal st acr))).map fun p => if p.1.live then f.2 p.2 else (0, false))
theorem zip_map_right {α β : Type} (l : List α) (g : α → β) : l.zip (l.map g) = l.map fun x => (x, g x) := by
  induction l with
  | nil => rfl
  | cons x l ih => rw [List.map_cons, List.zip_cons_cons, ih, List.map_cons]
/-- A block with no element present. -/
theorem quantised_empty {st e : EType} {mode : Nat} {acr : BitVec 4} {src : List El} {tag : BitVec 6} (h : ∀ x ∈ src, x.live = false) :
    quantised st e mode acr src tag = (⟨0, 0, 0, tag, .data⟩, none) := by
  have none : (src.zip (src.map (blockVal st acr))).filter (fun p => p.1.live) = [] := by
    rw [zip_map_right, List.filter_map]
    simpa using h
  rw [quantised, none]
  rfl
/-- A block with an element present. -/
theorem quantised_present {st e : EType} {mode : Nat} {acr : BitVec 4} {src : List El} {tag : BitVec 6} (h : ∃ x ∈ src, x.live = true) :
    let f := quantBlock e mode (acrFo acr) (presentVals st acr src)
    let els := src.map (quantEl st acr f.2)
    let pois := src.any fun x => x.live && x.pois
    quantised st e mode acr src tag = quantTok f.1 pois tag els := by
  intro f els pois
  have present : (src.zip (src.map (blockVal st acr))).filter (fun p => p.1.live) = (src.filter El.live).map fun x => (x, blockVal st acr x) := by
    rw [zip_map_right, List.filter_map]
    rfl
  have some : ((src.filter El.live).map fun x => (x, blockVal st acr x)).isEmpty = false := by
    obtain ⟨x, hx, live⟩ := h
    rw [List.isEmpty_eq_false_iff]
    exact List.ne_nil_of_mem (List.mem_map_of_mem (List.mem_filter.2 ⟨hx, live⟩))
  have poisoned : (((src.filter El.live).map fun x => (x, blockVal st acr x)).any fun p => p.1.pois) = pois := by
    rw [List.any_map, List.any_filter]
    rfl
  have vals : ((src.filter El.live).map fun x => (x, blockVal st acr x)).map (·.2) = presentVals st acr src := by
    rw [List.map_map]
    rfl
  have body : (src.zip (src.map (blockVal st acr))).map (fun p => if p.1.live then f.2 p.2 else (0, false)) = els := by
    rw [zip_map_right, List.map_map]
    rfl
  rw [quantised, present, some, if_neg (by decide), vals, poisoned]
  exact congrArg (quantTok f.1 pois tag) body

/-- The bytes of a quantised block: 32 elements, then their code. -/
theorem elem_quantTok {code : Nat} (hc : code < 256) (pois : Bool) (tag : BitVec 6) {els : List (Nat × Bool)} (len : els.length = 32) {j : Nat} (hj : j < 64) :
    (quantTok code pois tag els).1.elem 8 j = if j < 32 then (els.getD j (0, false)).1 % 256 else if j = 32 then code else 0 := by
  refine (elem_ofElems (.inl rfl) _ _ _ _ _ hj).trans ?_
  by_cases low : j < 32
  · rw [if_pos low, List.getD_append _ _ _ _ (by rw [List.length_map]; omega), List.getD_eq_getElem _ _ (by rw [List.length_map]; omega),
      List.getElem_map, List.getD_eq_getElem _ _ (by omega)]
    rfl
  · rw [if_neg low, List.getD_append_right _ _ _ _ (by rw [List.length_map]; omega), List.length_map, len]
    by_cases top : j = 32
    · rw [if_pos top, top]
      exact Nat.mod_eq_of_lt hc
    · rw [if_neg top, List.getD_eq_default _ _ (by rw [List.length_singleton]; omega)]
      rfl
/-- Its origin. -/
theorem origin_quantTok (code : Nat) (tag : BitVec 6) {els : List (Nat × Bool)} (len : els.length = 32) :
    match (quantTok code false tag els).2 with
    | none => ∀ j < 32, ¬ (els.getD j (0, false)).2 = true
    | some n => n < 32 ∧ (els.getD n (0, false)).2 = true ∧ ∀ j < n, ¬ (els.getD j (0, false)).2 = true := by
  have found := findSome_zipIdx (fun (x : Nat × Bool) _ => x.2) (fun n => n) (0, false) els 0
  rw [show (quantTok code false tag els).2 = (els.zipIdx 0).findSome? fun x => if x.1.2 then some x.2 else none from rfl]
  revert found
  cases (els.zipIdx 0).findSome? fun x => if x.1.2 then some x.2 else none with
  | none => exact fun found j hj => Bool.eq_false_iff.1 (found j (by omega))
  | some n =>
    rintro ⟨j, hj, own, before, rfl⟩
    rw [Nat.zero_add]
    exact ⟨by omega, own, fun i hi => Bool.eq_false_iff.1 (before i hi)⟩
theorem quantEl_getD (st : EType) (acr : BitVec 4) (f : FVal → Nat × Bool) (src : List El) (j : Nat) :
    (src.map (quantEl st acr f)).getD j (0, false) = quantEl st acr f (elAt src j) :=
  (List.getD_map (f := quantEl st acr f) (d := {}) ..)

/-- The block's elements, from one token or two. -/
def blockSrc (st : EType) (ts : List Token) : List El := (ts.map (elsOf (etWidth st) 0xFFFF)).flatten
theorem exec_vQblk (s : State) (d a : BitVec 4) (b : Option (BitVec 4)) (m : BitVec 3) (e : EType) :
    let st : EType := if b.isSome then .f32 else .bf16
    exec (.vQblk d a b m e) s = .next (tokenOp s (a :: b.toList) d none (nfmtOf e st) fun ts _ =>
      quantised st e m.toNat s.curLt.acr (blockSrc st ts) (ts.headD {}).tag) := by
  cases b <;> rfl
theorem blockQuantisationWords : Claims.BlockQuantisationWords := by
  intro s d a b m p q e acr
  refine ⟨fun wf fires => ?_, dqblk_result s d a p q e⟩
  intro st w src here v
  have hw : w = 16 ∨ w = 32 := by cases b <;> simp [w, st, etWidth]
  let ts := (a :: b.toList).map s.tok
  let els := blockSrc st ts
  have len : els.length = 32 := by
    cases b <;> simp [els, ts, blockSrc, elsOf_length, st, etWidth]
  have el : ∀ j, j < 32 → elAt els j = elIn w 0xFFFF (src j).1 (src j).2 := fun j hj => by
    cases b with
    | none =>
      have whole : els = elsOf 16 0xFFFF (s.tok a) := by simp [els, ts, blockSrc, st, etWidth]
      have one : src j = (s.tok a, j) := if_neg (by show ¬ 512 / 16 ≤ j; omega)
      rw [whole, one]
      exact elAt_elsOf _ _ _ hj
    | some b =>
      have whole : els = elsOf 32 0xFFFF (s.tok a) ++ elsOf 32 0xFFFF (s.tok b) := by simp [els, ts, blockSrc, st, etWidth]
      rw [whole]
      by_cases low : j < 16
      · have one : src j = (s.tok a, j) := if_neg (by show ¬ 512 / 32 ≤ j; omega)
        rw [one, elAt_append_left (by rw [elsOf_length]; omega)]
        exact elAt_elsOf _ _ _ low
      · have two : src j = (s.tok b, j - 16) := by simp [src, w, st, etWidth, Nat.le_of_not_lt low]
        rw [two, elAt_append_right (by rw [elsOf_length]; omega), elsOf_length]
        exact elAt_elsOf _ _ _ (by omega)
  have live : ∀ j, j < 32 → ((elAt els j).live = true ↔ here j) := fun j hj => by rw [el j hj]; exact liveIn_one ..
  have pois : ∀ j, j < 32 → ((elAt els j).pois = true ↔ PoisIn w [(src j).1] (src j).2) := fun j hj => by
    rw [el j hj]; exact poisIn_one w 0xFFFF _ _
  have val : ∀ j, j < 32 → blockVal st acr (elAt els j) = v j := fun j hj => by rw [el j hj]; rfl
  have mem : ∀ x, x ∈ els ↔ ∃ j < 32, elAt els j = x := fun x => by
    rw [List.mem_iff_getElem]
    constructor
    · rintro ⟨j, hj, e⟩
      exact ⟨j, by omega, (List.getD_eq_getElem _ _ hj).trans e⟩
    · rintro ⟨j, hj, e⟩
      exact ⟨j, by omega, (List.getD_eq_getElem _ _ (by omega)).symm.trans e⟩
  have emitted := emits_of_exec (k := none) (exec_vQblk s d a b m e) fires
  have some_live : (∃ j < 32, here j) ↔ ∃ x ∈ els, x.live = true := by
    constructor
    · rintro ⟨j, hj, h⟩
      exact ⟨_, (mem _).2 ⟨j, hj, rfl⟩, (live j hj).2 h⟩
    · rintro ⟨x, hx, l⟩
      obtain ⟨j, hj, rfl⟩ := (mem x).1 hx
      exact ⟨j, hj, (live j hj).1 l⟩
  change exec _ s = s.emits _ d (quantised st e m.toNat acr els (s.tok a).tag).1 (quantised st e m.toNat acr els (s.tok a).tag).2 _ at emitted
  by_cases present : ∃ j < 32, here j
  · have whole := quantised_present (st := st) (e := e) (mode := m.toNat) (acr := acr) (tag := (s.tok a).tag) (some_live.1 present)
    let f := quantBlock e m.toNat (acrFo acr) (presentVals st acr els)
    have size : (els.map (quantEl st acr f.2)).length = 32 := by rw [List.length_map, len]
    have code : f.1 < 256 := quantBlock_code_lt ..
    have poisoned : (els.any fun x => x.live && x.pois) = true ↔ ∃ j < 32, here j ∧ PoisIn w [(src j).1] (src j).2 := by
      simp only [List.any_eq_true, Bool.and_eq_true, mem]
      constructor
      · rintro ⟨y, ⟨j, hj, rfl⟩, l, p⟩
        exact ⟨j, hj, (live j hj).1 l, (pois j hj).1 p⟩
      · rintro ⟨j, hj, h, p⟩
        exact ⟨_, ⟨j, hj, rfl⟩, (live j hj).2 h, (pois j hj).2 p⟩
    have nan : ∀ j < 32, ((els.map (quantEl st acr f.2)).getD j (0, false)).2 = true ↔ here j ∧ (f.2 (v j)).2 = true := fun j hj => by
      rw [quantEl_getD, quantEl, val j hj, ← live j hj]
      cases (elAt els j).live <;> simp
    rw [whole] at emitted
    refine ⟨_, _, emitted, rfl, rfl, fun none => ?_, fun _ => ⟨presentVals st acr els, fun x => ?_, rfl, ?_, fun j hj low => ?_, fun j hj => ⟨fun h => ?_, fun h => ?_⟩,
      fun p => ?_, fun p => ?_⟩⟩
    · obtain ⟨j, hj, h⟩ := present
      exact absurd h (none j hj)
    · simp only [presentVals, List.mem_map, List.mem_filter, mem]
      constructor
      · rintro ⟨y, ⟨⟨j, hj, rfl⟩, l⟩, rfl⟩
        exact ⟨j, hj, (live j hj).1 l, (val j hj).symm⟩
      · rintro ⟨j, hj, h, rfl⟩
        exact ⟨_, ⟨⟨j, hj, rfl⟩, (live j hj).2 h⟩, val j hj⟩
    · rw [elem_quantTok code _ _ size (by decide), if_neg (by decide), if_pos rfl]
    · rw [elem_quantTok code _ _ size hj, if_neg (by omega), if_neg (by omega)]
    · rw [elem_quantTok code _ _ size (by omega), if_pos hj, quantEl_getD, quantEl, if_pos ((live j hj).2 h), val j hj]
    · rw [elem_quantTok code _ _ size (by omega), if_pos hj, quantEl_getD, quantEl, if_neg (h ∘ (live j hj).1)]
      rfl
    · have yes := poisoned.2 p
      rw [yes]
      exact ⟨rfl, rfl⟩
    · have no : (els.any fun x => x.live && x.pois) = false := Bool.eq_false_iff.2 (p ∘ poisoned.1)
      rw [no]
      refine ⟨rfl, ?_⟩
      have found := origin_quantTok f.1 (s.tok a).tag size
      revert found
      cases (quantTok f.1 false (s.tok a).tag (els.map (quantEl st acr f.2))).2 with
      | none => exact fun found j hj h => found j hj ((nan j hj).2 h)
      | some n => exact fun ⟨small, own, before⟩ => ⟨small, (nan n small).1 own, fun j hj h => before j hj ((nan j (by omega)).2 h)⟩
  · have whole := quantised_empty (st := st) (e := e) (mode := m.toNat) (acr := acr) (src := els) (tag := (s.tok a).tag) fun x hx =>
      Bool.eq_false_iff.2 fun l => present (some_live.2 ⟨x, hx, l⟩)
    rw [whole] at emitted
    exact ⟨_, _, emitted, rfl, rfl, fun _ => ⟨rfl, rfl, rfl, rfl⟩, fun h => absurd h present⟩

/-- Settles O17: pack, unpack and the quantised blocks. -/
theorem packedAndBlockFormatsFollowTheTables : Obligations.PackedAndBlockFormatsFollowTheTables :=
  ⟨packAndUnpackWords, blockQuantisationWords⟩

end Sys2Proof.Proofs.PackedTokens
end

section
/-! PROOFS. Reductions and their tree (R165, R190). -/
namespace Sys2Proof.Proofs.Reductions
open Sys2Proof Sys2Proof.Machine Sys2Proof.Proofs.Bits Sys2Proof.Proofs.Elements Sys2Proof.Proofs.Tokens Sys2Proof.Proofs.ElementOps
  Sys2Proof.Proofs.Conversions
set_option Elab.async false

/-! ## The tree (R165) -/

/-- What two neighbours of a level make: an absent one passes the other on. -/
def joinPair (f : Nat → Nat → Nat) (a b : Option Nat) : Option Nat :=
  match a, b with
  | none, y => y
  | x, none => x
  | some x, some y => some (f x y)
theorem treeLevel_cons (f : Nat → Nat → Nat) (a b : Option Nat) (l : List (Option Nat)) :
    treeLevel f (a :: b :: l) = joinPair f a b :: treeLevel f l := by
  cases a <;> cases b <;> rfl
/-- A list of even length is empty or begins with two. -/
theorem even_cases {α : Type} {l : List α} (h : l.length % 2 = 0) : l = [] ∨ ∃ a b r, l = a :: b :: r ∧ r.length % 2 = 0 := by
  match l with
  | [] => exact .inl rfl
  | [_] => exact absurd h (by simp)
  | a :: b :: r => exact .inr ⟨a, b, r, rfl, by simp only [List.length_cons] at h; omega⟩
theorem treeLevel_length (f : Nat → Nat → Nat) (n : Nat) : ∀ l : List (Option Nat), l.length = 2 * n → (treeLevel f l).length = n := by
  induction n with
  | zero =>
    intro l h
    rw [List.eq_nil_of_length_eq_zero h]
    rfl
  | succ n ih =>
    intro l h
    obtain rfl | ⟨a, b, r, rfl, -⟩ := even_cases (l := l) (by omega)
    · simp at h
    · rw [treeLevel_cons, List.length_cons, ih r (by simp at h; omega)]
theorem treeLevel_getElem? (f : Nat → Nat → Nat) (j : Nat) : ∀ l : List (Option Nat), l.length % 2 = 0 → 2 * j + 1 < l.length →
    (treeLevel f l)[j]? = some (joinPair f l[2 * j]?.join l[2 * j + 1]?.join) := by
  induction j with
  | zero =>
    intro l even h
    obtain rfl | ⟨a, b, r, rfl, -⟩ := even_cases even
    · simp at h
    · rw [treeLevel_cons]
      rfl
  | succ j ih =>
    intro l even h
    obtain rfl | ⟨a, b, r, rfl, even'⟩ := even_cases even
    · simp at h
    · rw [treeLevel_cons, List.getElem?_cons_succ, ih r even' (by simp at h; omega)]
      rfl

/-- The INT32 sum node. -/
theorem sumNode_eq (x y : Nat) : RedFn.sum.node false 0 x y = (x + y) % 2 ^ 32 := rfl
/-- The total of the leaves that count. -/
def total (l : List (Option Nat)) : Nat := (l.map fun z => z.getD 0).sum
section
variable {l : List (Option Nat)} (even : l.length % 2 = 0)
include even
/-- A level of sums modulo 2^32 is the level of sums, modulo 2^32. -/
theorem treeLevel_mod : treeLevel (RedFn.sum.node false 0) (l.map fun z => z.map (· % 2 ^ 32)) =
    (treeLevel (· + ·) l).map fun z => z.map (· % 2 ^ 32) := by
  obtain ⟨n, hn⟩ : ∃ n, l.length = 2 * n := ⟨l.length / 2, by omega⟩
  clear even
  induction n generalizing l with
  | zero => rw [List.eq_nil_of_length_eq_zero hn]; rfl
  | succ n ih =>
    obtain rfl | ⟨a, b, r, rfl, -⟩ := even_cases (l := l) (by omega)
    · simp at hn
    · rw [List.map_cons, List.map_cons, treeLevel_cons, treeLevel_cons, ih (by simp at hn; omega), List.map_cons]
      refine congrArg (· :: _) ?_
      cases a with
      | none => cases b <;> rfl
      | some x =>
        cases b with
        | none => rfl
        | some y => exact congrArg some ((sumNode_eq ..).trans (Nat.add_mod ..).symm)
theorem total_treeLevel : total (treeLevel (· + ·) l) = total l := by
  obtain ⟨n, hn⟩ : ∃ n, l.length = 2 * n := ⟨l.length / 2, by omega⟩
  clear even
  induction n generalizing l with
  | zero => rw [List.eq_nil_of_length_eq_zero hn]; rfl
  | succ n ih =>
    obtain rfl | ⟨a, b, r, rfl, -⟩ := even_cases (l := l) (by omega)
    · simp at hn
    · have rest := ih (l := r) (by simp at hn; omega)
      unfold total at rest ⊢
      rw [treeLevel_cons, List.map_cons, List.map_cons, List.map_cons, List.sum_cons, List.sum_cons, List.sum_cons, rest]
      cases a <;> cases b <;> simp [joinPair, Nat.add_assoc]
theorem none_treeLevel : (treeLevel (· + ·) l).all (·.isNone) = l.all (·.isNone) := by
  obtain ⟨n, hn⟩ : ∃ n, l.length = 2 * n := ⟨l.length / 2, by omega⟩
  clear even
  induction n generalizing l with
  | zero => rw [List.eq_nil_of_length_eq_zero hn]; rfl
  | succ n ih =>
    obtain rfl | ⟨a, b, r, rfl, -⟩ := even_cases (l := l) (by omega)
    · simp at hn
    · rw [treeLevel_cons, List.all_cons, List.all_cons, List.all_cons, ih (by simp at hn; omega)]
      cases a <;> cases b <;> simp [joinPair]
end
theorem tree_sum (k : Nat) : ∀ l : List (Option Nat), l.length = 2 ^ k →
    tree (RedFn.sum.node false 0) k (l.map fun z => z.map (· % 2 ^ 32)) = if l.all (·.isNone) then none else some (total l % 2 ^ 32) := by
  induction k with
  | zero =>
    intro l h
    obtain ⟨a, rfl⟩ := List.length_eq_one_iff.1 h
    cases a <;> simp [tree, total]
  | succ k ih =>
    intro l h
    have even : l.length % 2 = 0 := by rw [h, pow_succ]; omega
    rw [tree, treeLevel_mod even, ih _ (treeLevel_length _ _ _ (by rw [h, pow_succ, Nat.mul_comm])), none_treeLevel even, total_treeLevel even]
theorem reductionTreePairsNeighbours : Claims.ReductionTreePairsNeighbours := by
  refine ⟨fun f l j even h => ⟨treeLevel_length _ _ _ (by omega), (treeLevel_getElem? f j l even h).trans ?_⟩,
    fun x y l k h => ⟨sumNode_eq x y, tree_sum k l h⟩⟩
  cases l[2 * j]?.join <;> cases l[2 * j + 1]?.join <;> rfl

/-! ## Leaves (R190) -/

/-- The leaves of a reduction. -/
def leaves (e : EType) (acr : BitVec 4) (m : BitVec 16) (x : Token) : List (Option Nat) :=
  (elsOf (etWidth e) m x).map fun y => if y.live then some (leafOf e acr y.bits) else none
theorem leaves_length (e : EType) (acr : BitVec 4) (m : BitVec 16) (x : Token) : (leaves e acr m x).length = 512 / etWidth e := by
  rw [leaves, List.length_map, elsOf_eq, List.length_map, List.length_range]
theorem leaves_getD (e : EType) (acr : BitVec 4) (m : BitVec 16) (x : Token) (j : Nat) :
    (LiveIn (etWidth e) [x] m j → (leaves e acr m x).getD j none = some (leafOf e acr (x.elem (etWidth e) j))) ∧
    (¬ LiveIn (etWidth e) [x] m j → (leaves e acr m x).getD j none = none) := by
  have read : (leaves e acr m x).getD j none = (if (elAt (elsOf (etWidth e) m x) j).live then
      some (leafOf e acr (elAt (elsOf (etWidth e) m x) j).bits) else none) :=
    List.getD_map (l := elsOf (etWidth e) m x) (d := ({} : El)) (n := j) fun y : El => if y.live then some (leafOf e acr y.bits) else none
  rw [read]
  constructor
  · intro live
    rw [elAt_elsOf_of_live (width_etWidth e) live, if_pos ((liveIn_one ..).2 live)]
    rfl
  · intro dead
    rw [if_neg (dead ∘ (elAt_elsOf_live (width_etWidth e) m x j).1)]
theorem flush_lt {f : Fmt} (hw : f.w = f.eb + f.mb + 1) (on : Bool) {y : Nat} (hy : y < 2 ^ f.w) : f.flush on y < 2 ^ f.w := by
  unfold Fmt.flush Fmt.sign
  split
  · split
    · exact Nat.pow_lt_pow_right (by decide) (by omega)
    · exact Nat.two_pow_pos _
  · exact hy
/-- A leaf of floating-point elements is its value, flushed and rounded to FP32. -/
theorem leafOf_fp {e : EType} {f : Fmt} (acr : BitVec 4) {y : Nat} (he : etFmt e = some f) (hy : y < 2 ^ f.w) :
    leafOf e acr y = fF32.round 0 0 false (f.val (f.flush (acrFi acr) y)) := by
  have fp : (etFmt e).isSome = true := by rw [he]; rfl
  rw [leafOf, if_pos fp]
  by_cases same : e = .f32
  · subst same
    obtain rfl : fF32 = f := Option.some.inj he
    have small := flush_lt (f := fF32) rfl (acrFi acr) hy
    show (if fF32.isNan (fF32.flush (acrFi acr) y) then fF32.nan else fF32.flush (acrFi acr) y) = _
    cases nan : fF32.isNan (fF32.flush (acrFi acr) y)
    · rw [roundingKeepsRepresentableValues fF32 (.head _) _ 0 0 false small nan (by decide) (by decide) fun h => absurd h (by decide)]
      rfl
    · rw [Fmt.val, nan]
      rfl
  · have val : etVal e (acrFi acr) y = f.val (f.flush (acrFi acr) y) := by rw [etVal, he]
    rw [← val]
    show (if e = .f32 then _ else fF32.round 0 0 (false && !noSat e .f32) (etVal e (acrFi acr) y)) = _
    rw [if_neg same, Bool.false_and]
theorem reductionsAreTheTreeOfTheirLeaves : Claims.ReductionsAreTheTreeOfTheirLeaves := by
  intro op e acr m x
  refine ⟨⟨fit none 64 (leaves e acr m x), Ranked.fit_length .., rfl, fun j hj => ⟨fun _ live => ?_, fun dead => ?_⟩⟩,
    fun f y he hy => leafOf_fp acr he hy, fun y he => ?_, fun y z => ⟨rfl, rfl, rfl, rfl, rfl⟩⟩
  · rw [Ranked.fit_getElem? _ _ hj, (leaves_getD e acr m x j).1 live]
  · rw [Ranked.fit_getElem? _ _ hj, (leaves_getD e acr m x j).2]
    exact dead.elim (fun past => not_liveIn_past (width_etWidth e) m x past) id
  · rw [leafOf, he]
    rfl

/-! ## Poison and origins (R160, R190) -/

section
variable (o : RedFn) (e : EType) (acr : BitVec 4) (m : BitVec 16) (x : Token)
/-- A live lane is poisoned. -/
def Poisoned (x : Token) (m : BitVec 16) (j : Nat) : Prop := x.val j = true ∧ m.getLsbD j = true ∧ x.pois j = true
/-- The lowest live poisoned lane. -/
theorem lowest_poisoned : match (reduce o e acr m x).2.1 with
    | none => ∀ j < 16, ¬ Poisoned x m j
    | some l => l < 16 ∧ Poisoned x m l ∧ ∀ j < l, ¬ Poisoned x m j := by
  have bit : ∀ k, (liveAt [x] m k && x.pois k) = true ↔ Poisoned x m k := fun k => by
    simp [liveAt, Poisoned, BitVec.testBit_toNat, and_assoc]
  have found : (reduce o e acr m x).2.1 = (List.range 16).find? fun k => liveAt [x] m k && x.pois k := by
    rw [reduce, upTo_eq_range]
  rw [found]
  cases h : (List.range 16).find? fun k => liveAt [x] m k && x.pois k with
  | none =>
    intro j hj p
    exact List.find?_eq_none.1 h j (List.mem_range.2 hj) ((bit j).2 p)
  | some l =>
    rw [List.find?_range_eq_some] at h
    obtain ⟨own, mem, before⟩ := h
    exact ⟨List.mem_range.1 mem, (bit l).1 own, fun j hj p => by
      have := before j hj
      rw [(bit j).2 p] at this
      exact absurd this (by decide)⟩
theorem poisoned_isSome : (reduce o e acr m x).2.1.isSome = true ↔ ∃ j < 16, Poisoned x m j := by
  have low := lowest_poisoned o e acr m x
  revert low
  cases (reduce o e acr m x).2.1 with
  | none => exact fun none => ⟨fun h => absurd h (by decide), fun ⟨j, hj, p⟩ => absurd p (none j hj)⟩
  | some l => exact fun ⟨small, own, _⟩ => ⟨fun _ => ⟨l, small, own⟩, fun _ => rfl⟩
/-- The root is a NaN that no leaf is. -/
theorem fresh_root : (reduce o e acr m x).2.2 = true ↔ (etFmt e).isSome = true ∧ (∃ v, (reduce o e acr m x).1 = some v ∧ fF32.isNan v = true) ∧
    ∀ j < 512 / etWidth e, LiveIn (etWidth e) [x] m j → fF32.isNan (leafOf e acr (x.elem (etWidth e) j)) = false := by
  have eq : (reduce o e acr m x).2.2 = ((etFmt e).isSome && (match (reduce o e acr m x).1 with | some r => fF32.isNan r | none => false) &&
      !(leaves e acr m x).any fun l => fF32.isNan (l.getD 0)) := rfl
  have zero : fF32.isNan ((none : Option Nat).getD 0) = false := by decide
  have clean : (leaves e acr m x).any (fun l => fF32.isNan (l.getD 0)) = false ↔
      ∀ j < 512 / etWidth e, LiveIn (etWidth e) [x] m j → fF32.isNan (leafOf e acr (x.elem (etWidth e) j)) = false := by
    rw [List.any_eq_false]
    constructor
    · intro h j hj live
      have mem : (leaves e acr m x).getD j none ∈ leaves e acr m x := by
        rw [List.getD_eq_getElem _ _ (by rw [leaves_length]; exact hj)]
        exact List.getElem_mem _
      have := h _ mem
      rw [(leaves_getD e acr m x j).1 live] at this
      exact Bool.eq_false_iff.2 this
    · intro h l hl
      obtain ⟨j, hj, rfl⟩ := List.mem_iff_getElem.1 hl
      rw [← List.getD_eq_getElem (d := none)]
      by_cases live : LiveIn (etWidth e) [x] m j
      · rw [(leaves_getD e acr m x j).1 live]
        exact Bool.eq_false_iff.1 (h j (by rwa [leaves_length] at hj) live)
      · rw [(leaves_getD e acr m x j).2 live, zero]
        decide
  rw [eq, Bool.and_eq_true, Bool.and_eq_true, Bool.not_eq_true', clean, and_assoc]
  refine and_congr_right fun _ => and_congr_left fun _ => ?_
  cases (reduce o e acr m x).1 with
  | none => simp
  | some v => simp
end

/-! ## Reduction words (R190) -/

/-- The token of a reduction. -/
def redTok (o : RedFn) (e : EType) (acr : BitVec 4) (m : BitVec 16) (x : Token) : Token × Option Nat :=
  match (reduce o e acr m x).1 with
  | none => (⟨0, 0, 0, x.tag, .data⟩, none)
  | some r => (⟨.ofNat 512 r, 1, if (reduce o e acr m x).2.1.isSome then 1 else 0, x.tag, .data⟩,
      if (reduce o e acr m x).2.2 && (reduce o e acr m x).2.1.isNone then some 0 else none)
theorem redOp_eq (s : State) (d a : BitVec 4) (k : Option (BitVec 2)) (e : EType) (o : RedFn) :
    redOp s d a k e o = tokenOp s [a] d k (nfmtOf (redType e) e) fun ts m => redTok o e s.curLt.acr m (ts.headD {}) := rfl
/-- A fresh NaN over no poison: the origin of a reduction. -/
def Fresh (o : RedFn) (e : EType) (acr : BitVec 4) (m : BitVec 16) (x : Token) : Prop :=
  (etFmt e).isSome = true ∧ (∃ v, (reduce o e acr m x).1 = some v ∧ fF32.isNan v = true) ∧ ¬ (∃ j < 16, Poisoned x m j) ∧
    ∀ j < 512 / etWidth e, LiveIn (etWidth e) [x] m j → fF32.isNan (leafOf e acr (x.elem (etWidth e) j)) = false
theorem fresh_iff (o : RedFn) (e : EType) (acr : BitVec 4) (m : BitVec 16) (x : Token) :
    ((reduce o e acr m x).2.2 && (reduce o e acr m x).2.1.isNone) = true ↔ Fresh o e acr m x := by
  rw [Bool.and_eq_true, fresh_root, ← Option.not_isSome, Bool.not_eq_true', ← Bool.not_eq_true, poisoned_isSome, Fresh]
  tauto
theorem redType_eq (e : EType) : redType e = if (etFmt e).isSome then .f32 else .i32 := rfl
theorem redOp_result {s : State} {i : Instr} {d a : BitVec 4} {k : Option (BitVec 2)} {e : EType} {o : RedFn}
    (h : exec i s = .next (redOp s d a k e o)) (fires : s.fires [a] (some d) k.toList true) :
    ∃ r q, exec i s = s.emits [a] d r q (16 * (redType e).code + e.code) ∧ r.tag = (s.tok a).tag ∧ r.kind = .data ∧
      (Fresh o e s.curLt.acr (s.maskOf k) (s.tok a) → q = some 0) ∧ (¬ Fresh o e s.curLt.acr (s.maskOf k) (s.tok a) → q = none) ∧
      match (reduce o e s.curLt.acr (s.maskOf k) (s.tok a)).1 with
      | none => r.valid = 0 ∧ r.poison = 0 ∧ r.data = 0
      | some v => r.valid = 1 ∧ r.data.toNat = v % 2 ^ 512 ∧ ((∃ j < 16, Poisoned (s.tok a) (s.maskOf k) j) → r.poison = 1) ∧
          (¬ (∃ j < 16, Poisoned (s.tok a) (s.maskOf k) j) → r.poison = 0) := by
  have emitted := emits_of_exec (h.trans (congrArg Host.Outcome.next (redOp_eq s d a k e o))) fires
  change exec i s = s.emits [a] d (redTok o e s.curLt.acr (s.maskOf k) (s.tok a)).1 (redTok o e s.curLt.acr (s.maskOf k) (s.tok a)).2 _ at emitted
  cases root : (reduce o e s.curLt.acr (s.maskOf k) (s.tok a)).1 with
  | none =>
    rw [redTok, root] at emitted
    exact ⟨_, _, emitted, rfl, rfl, fun ⟨_, ⟨v, has, _⟩, _⟩ => absurd (root.symm.trans has) (by simp), fun _ => rfl, rfl, rfl, rfl⟩
  | some v =>
    rw [redTok, root] at emitted
    refine ⟨_, _, emitted, rfl, rfl, fun f => if_pos ((fresh_iff ..).2 f), fun f => if_neg (f ∘ (fresh_iff ..).1), rfl,
      BitVec.toNat_ofNat .., fun p => if_pos ((poisoned_isSome ..).2 p), fun p => if_neg (p ∘ (poisoned_isSome ..).1)⟩
/-- The word that `v.rsum.g` delivers. -/
def redWord (e : EType) : Option Nat → DWord
  | none => 0
  | some r => if (etFmt e).isSome then w64 r else .ofInt 64 (sgn 32 r)
theorem exec_vRsumG (s : State) (d a : BitVec 4) (k : Option (BitVec 2)) (e : EType) :
    let t := reduce .sum e s.curLt.acr (s.maskOf k) (s.tok a)
    exec (.vRsumG d a k e) s = .next (needD s d (needT s [a] none (maskRegs k) true
      (advance (((s.popAll (portsOf [a])).emitG d (redWord e t.1) (t.2.1.map (BitVec.ofNat 4))).nanOpt
        (if t.2.2 && t.2.1.isNone then some 0 else none) (nfmtOf (redType e) e) s.cur.pc) 1))) := rfl
theorem reductionWords : Claims.ReductionWords := by
  intro s d a k e x pz rt fp fresh
  refine ⟨?_, fun _ takes fires => ?_⟩
  · simp only [List.forall_mem_cons, List.not_mem_nil, false_implies, implies_true, and_true]
    exact ⟨fun _ => redOp_result rfl, fun _ => redOp_result rfl, fun _ => redOp_result rfl⟩
  · refine ⟨_, _, _, (exec_vRsumG s d a k e).trans (congrArg Host.Outcome.next ((needD_takes _ takes).trans (needT_fires _ fires))),
      fun f => if_pos ((fresh_iff ..).2 f), fun f => if_neg (f ∘ (fresh_iff ..).1), ?_, fun l hl => ?_, ?_⟩
    · rw [Option.isSome_map]
      exact poisoned_isSome ..
    · obtain ⟨n, hn, rfl⟩ := Option.map_eq_some_iff.1 hl
      have low := lowest_poisoned .sum e s.curLt.acr (s.maskOf k) x
      rw [hn] at low
      obtain ⟨small, ⟨valid, kept, bad⟩, before⟩ := low
      rw [BitVec.toNat_ofNat, Nat.mod_eq_of_lt small]
      exact ⟨bad, valid, kept, before⟩
    · cases (reduce .sum e s.curLt.acr (s.maskOf k) x).1 <;> rfl

/-- Settles O18: the reductions and the tree that orders their sums. -/
theorem reductionsFollowTheTree : Obligations.ReductionsFollowTheTree :=
  ⟨reductionWords, reductionTreePairsNeighbours, reductionsAreTheTreeOfTheirLeaves⟩

end Sys2Proof.Proofs.Reductions
end

section
/-! PROOFS. Scan, permutes, and the control of lanes, tags and valid bits (R93, R166, R191, R192, R194). -/
namespace Sys2Proof.Proofs.LaneMoves
open Sys2Proof Sys2Proof.Machine Sys2Proof.Proofs.Bits Sys2Proof.Proofs.Elements Sys2Proof.Proofs.Tokens Sys2Proof.Proofs.ElementOps
  Sys2Proof.Proofs.PackedTokens
set_option Elab.async false

/-! ## Scan (R166, R191) -/

/-- One step of a scan: the running value with an element, and whether it originates a NaN. -/
def scanStep (fp : Bool) (acr : BitVec 4) (run : Option Nat) (b : Nat) : Nat × Bool :=
  match run with
  | none => if fp then (convert .f32 .f32 0 0 false (acrFi acr) (acrFo acr) b, false) else (b, false)
  | some y => if fp then fpEl fF32 acr (fun l => (v0 l).add (v1 l)) [y, b] else ((y + b) % 2 ^ 32, false)
/-- The running value after a list of values. -/
def scanRun (fp : Bool) (acr : BitVec 4) (run : Option Nat) (l : List Nat) : Option Nat :=
  l.foldl (fun r b => some (scanStep fp acr r b).1) run
theorem scanGo_dead {fp : Bool} {acr : BitVec 4} {x : El} (h : x.live = false) (r : List El) (run : Option Nat) (pz : Bool) :
    scanGo fp acr (x :: r) run pz = {} :: scanGo fp acr r run pz := by
  conv_lhs => unfold scanGo
  rw [h]
  rfl
theorem scanGo_live {fp : Bool} {acr : BitVec 4} {x : El} (h : x.live = true) (r : List El) (run : Option Nat) (pz : Bool) :
    scanGo fp acr (x :: r) run pz = { bits := (scanStep fp acr run x.bits).1, live := true, pois := pz || x.pois, nan := (scanStep fp acr run x.bits).2 } ::
      scanGo fp acr r (some (scanStep fp acr run x.bits).1) (pz || x.pois) := by
  conv_lhs => unfold scanGo
  rw [h]
  cases run <;> rfl
/-- The values of the live elements of a list. -/
def liveBits (l : List El) : List Nat := (l.filter El.live).map El.bits
/-- Element j of a scan: the running value of the live elements before it with its own, poisoned by any live one up to it. -/
theorem scanGo_at (fp : Bool) (acr : BitVec 4) (j : Nat) : ∀ (l : List El) (run : Option Nat) (pz : Bool), j < l.length →
    elAt (scanGo fp acr l run pz) j = if (elAt l j).live then
      { bits := (scanStep fp acr (scanRun fp acr run (liveBits (l.take j))) (elAt l j).bits).1, live := true,
        pois := pz || (l.take (j + 1)).any fun y => y.live && y.pois,
        nan := (scanStep fp acr (scanRun fp acr run (liveBits (l.take j))) (elAt l j).bits).2 } else {} := by
  induction j with
  | zero =>
    intro l run pz h
    obtain ⟨x, r, rfl⟩ := List.exists_cons_of_length_pos h
    cases live : x.live
    · rw [scanGo_dead live]
      simp [elAt, live]
    · rw [scanGo_live live]
      simp [elAt, live, liveBits, scanRun]
  | succ j ih =>
    intro l run pz h
    obtain ⟨x, r, rfl⟩ := List.exists_cons_of_length_pos (Nat.zero_lt_of_lt h)
    have inner : j < r.length := by simpa using h
    have next : elAt (x :: r) (j + 1) = elAt r j := List.getD_cons_succ
    cases live : x.live
    · rw [scanGo_dead live, next]
      refine (List.getD_cons_succ).trans ((ih r run pz inner).trans ?_)
      simp [liveBits, live]
    · rw [scanGo_live live, next]
      refine (List.getD_cons_succ).trans ((ih r _ _ inner).trans ?_)
      simp [liveBits, live, scanRun, Bool.or_assoc]
theorem scanGo_int_no_nan (acr : BitVec 4) (l : List El) : ∀ (run : Option Nat) (pz : Bool), ∀ x ∈ scanGo false acr l run pz, x.nan = false := by
  induction l with
  | nil => intro run pz x hx; simp [scanGo] at hx
  | cons y r ih =>
    intro run pz x hx
    cases live : y.live
    · rw [scanGo_dead live, List.mem_cons] at hx
      exact hx.elim (fun e => e ▸ rfl) (ih _ _ x)
    · rw [scanGo_live live, List.mem_cons] at hx
      refine hx.elim (fun e => ?_) (ih _ _ x)
      rw [e]
      cases run <;> rfl
theorem scanGo_length (fp : Bool) (acr : BitVec 4) (l : List El) : ∀ (run : Option Nat) (pz : Bool), (scanGo fp acr l run pz).length = l.length := by
  induction l with
  | nil => intro run pz; rfl
  | cons y r ih =>
    intro run pz
    cases live : y.live
    · rw [scanGo_dead live, List.length_cons, ih, List.length_cons]
    · rw [scanGo_live live, List.length_cons, ih, List.length_cons]
/-- An INT32 scan runs the sum, modulo 2^32. -/
theorem scanRun_int (acr : BitVec 4) (l : List Nat) : ∀ (run : Option Nat), (scanRun false acr run l).getD 0 % 2 ^ 32 = (run.getD 0 + l.sum) % 2 ^ 32 := by
  induction l with
  | nil => intro run; rfl
  | cons b l ih =>
    intro run
    refine (ih _).trans ?_
    cases run with
    | none => simp [scanStep]
    | some y =>
      show ((y + b) % 2 ^ 32 + l.sum) % 2 ^ 32 = (y + (b :: l).sum) % 2 ^ 32
      rw [List.sum_cons, Nat.mod_add_mod, Nat.add_assoc]

/-- Lanes of a token under a mask, as words. -/
def liveLanes (x : Token) (m : BitVec 16) (n : Nat) : List Nat := ((List.range n).filter fun i => x.val i && m.getLsbD i).map x.lane
theorem liveIn_word (x : Token) (m : BitVec 16) (j : Nat) : (elIn 32 m x j).live = (x.val j && m.getLsbD j) := by
  have lane : j * 32 / 32 = j := by omega
  rw [elIn, elemLanes_narrow (.inr (.inr rfl)), lane]
  simp [liveAt, BitVec.testBit_toNat]
theorem poisIn_word (x : Token) (m : BitVec 16) (j : Nat) : (elIn 32 m x j).pois = x.pois j := by
  have lane : j * 32 / 32 = j := by omega
  rw [elIn, elemLanes_narrow (.inr (.inr rfl)), lane]
  simp
theorem elsOf_words (x : Token) (m : BitVec 16) {n : Nat} (h : n ≤ 16) : (elsOf 32 m x).take n = (List.range n).map (elIn 32 m x) := by
  rw [elsOf_eq, ← List.map_take, List.take_range, Nat.min_eq_left h]
theorem liveBits_words (x : Token) (m : BitVec 16) {n : Nat} (h : n ≤ 16) : liveBits ((elsOf 32 m x).take n) = liveLanes x m n := by
  rw [elsOf_words x m h, liveBits, List.filter_map, List.map_map, liveLanes]
  have live : El.live ∘ elIn 32 m x = fun i => x.val i && m.getLsbD i := funext fun i => liveIn_word x m i
  rw [live]
  exact List.map_congr_left fun i _ => (lane_eq_elem x i).symm
theorem liveLanes_succ (x : Token) (m : BitVec 16) {j : Nat} (h : (x.val j && m.getLsbD j) = true) :
    liveLanes x m (j + 1) = liveLanes x m j ++ [x.lane j] := by
  rw [liveLanes, List.range_succ, List.filter_append, List.map_append, List.filter_singleton, h]
  rfl
/-- The scan's running value before lane n. -/
def runAt (fp : Bool) (acr : BitVec 4) (x : Token) (m : BitVec 16) (n : Nat) : Option Nat := scanRun fp acr none (liveLanes x m n)
theorem runAt_succ (fp : Bool) (acr : BitVec 4) (x : Token) (m : BitVec 16) {j : Nat} (h : (x.val j && m.getLsbD j) = true) :
    runAt fp acr x m (j + 1) = some (scanStep fp acr (runAt fp acr x m j) (x.lane j)).1 := by
  rw [runAt, liveLanes_succ x m h, scanRun, List.foldl_append]
  rfl
/-- The scan of a token, lane by lane. -/
theorem scan_at (fp : Bool) (acr : BitVec 4) (x : Token) (m : BitVec 16) {j : Nat} (hj : j < 16) :
    ((elAt (scanGo fp acr (elsOf 32 m x) none false) j).live = true ↔ LiveIn 32 [x] m j) ∧
    (LiveIn 32 [x] m j → ((elAt (scanGo fp acr (elsOf 32 m x) none false) j).pois = true ↔ ∃ i ≤ j, LiveIn 32 [x] m i ∧ x.pois i = true) ∧
      (elAt (scanGo fp acr (elsOf 32 m x) none false) j).bits = (runAt fp acr x m (j + 1)).getD 0 ∧
      (elAt (scanGo fp acr (elsOf 32 m x) none false) j).nan = (scanStep fp acr (runAt fp acr x m j) (x.lane j)).2) := by
  have here : elAt (elsOf 32 m x) j = elIn 32 m x j := elAt_elsOf _ _ _ hj
  rw [scanGo_at fp acr j _ none false (by rw [elsOf_length]; exact hj), here]
  by_cases live : (elIn 32 m x j).live = true
  · have alive := (liveIn_one ..).1 live
    rw [if_pos live, liveBits_words x m (by omega), elsOf_words x m (by omega)]
    have kept : (x.val j && m.getLsbD j) = true := by rwa [liveIn_word] at live
    refine ⟨⟨fun _ => alive, fun _ => rfl⟩, fun _ => ⟨?_, ?_, ?_⟩⟩
    · simp only [Bool.false_or, List.any_map, List.any_eq_true, List.mem_range, Function.comp, Bool.and_eq_true, liveIn_one, poisIn_word]
      exact exists_congr fun i => and_congr Nat.lt_succ_iff Iff.rfl
    · rw [runAt_succ fp acr x m kept, lane_eq_elem]
      rfl
    · rw [lane_eq_elem]
      rfl
  · have dead : ¬ LiveIn 32 [x] m j := live ∘ (liveIn_one ..).2
    rw [if_neg live]
    exact ⟨⟨fun h => absurd h (by decide), fun h => absurd h dead⟩, fun h => absurd h dead⟩

theorem vScan_int (s : State) (d a : BitVec 4) (k : Option (BitVec 2)) (fires : s.fires [a] (some d) k.toList true) :
    let x := s.tok a
    ∃ r, exec (.vScan d a k .i32) s = s.emits [a] d r none (16 * EType.i32.code + EType.i32.code) ∧
      Assembled 32 (LiveIn 32 [x] (s.maskOf k)) (fun j => ∃ i ≤ j, LiveIn 32 [x] (s.maskOf k) i ∧ x.pois i = true)
        (fun j => (liveLanes x (s.maskOf k) (j + 1)).sum) x.tag r := by
  intro x
  have emitted := emits_of_exec (i := .vScan d a k .i32) (k := k) (f := fun ts m =>
    assemble 32 (scanGo false s.curLt.acr (elsOf 32 m (ts.headD {})) none false) (ts.headD {}).tag) rfl fires
  have none := assemble_no_origin (w := 32) x.tag (scanGo_int_no_nan s.curLt.acr (elsOf 32 (s.maskOf k) x) none false)
  change exec _ s = s.emits [a] d (assemble 32 (scanGo false s.curLt.acr (elsOf 32 (s.maskOf k) x) .none false) x.tag).1
    (assemble 32 (scanGo false s.curLt.acr (elsOf 32 (s.maskOf k) x) .none false) x.tag).2 _ at emitted
  rw [none] at emitted
  refine ⟨_, emitted, assembled_of (.inr (.inr (.inl rfl))) _ _ fun j hj => ?_⟩
  obtain ⟨live, rest⟩ := scan_at false s.curLt.acr x (s.maskOf k) (j := j) hj
  refine ⟨live, fun l => ?_⟩
  obtain ⟨pois, bits, -⟩ := rest l
  refine ⟨pois, ?_⟩
  rw [bits, runAt, scanRun_int]
  simp

/-- The running value as the claim writes it. -/
theorem runAt_fp (acr : BitVec 4) (x : Token) (m : BitVec 16) (n : Nat) : runAt true acr x m n =
    match liveLanes x m n with
    | [] => (none : Option Nat)
    | y :: ys => some (ys.foldl (fun p q => (fpEl fF32 acr (fun v => (v0 v).add (v1 v)) [p, q]).1)
        (convert .f32 .f32 0 0 false (acrFi acr) (acrFo acr) y)) := by
  have fold : ∀ (ys : List Nat) (p : Nat), scanRun true acr (some p) ys =
      some (ys.foldl (fun p q => (fpEl fF32 acr (fun v => (v0 v).add (v1 v)) [p, q]).1) p) := fun ys => by
    induction ys with
    | nil => exact fun p => rfl
    | cons y ys ih => exact fun p => ih _
  unfold runAt
  cases liveLanes x m n with
  | nil => rfl
  | cons y ys => exact fold ys _

theorem vScan_fp (s : State) (d a : BitVec 4) (k : Option (BitVec 2)) (fires : s.fires [a] (some d) k.toList true) :
    let x := s.tok a
    let acr := s.curLt.acr
    ∃ r o, exec (.vScan d a k .f32) s = s.emits [a] d r o (16 * EType.f32.code + EType.f32.code) ∧
      Assembled 32 (LiveIn 32 [x] (s.maskOf k)) (fun j => ∃ i ≤ j, LiveIn 32 [x] (s.maskOf k) i ∧ x.pois i = true)
        (fun j => (runAt true acr x (s.maskOf k) (j + 1)).getD 0) x.tag r ∧
      OriginIs 32 (LiveIn 32 [x] (s.maskOf k)) (fun j => ∃ y, runAt true acr x (s.maskOf k) j = some y ∧
        fF32.isNan ((runAt true acr x (s.maskOf k) (j + 1)).getD 0) = true ∧
        (fF32.val (fF32.flush (acrFi acr) y)).isNan = false ∧ (fF32.val (fF32.flush (acrFi acr) (x.lane j))).isNan = false) r o := by
  intro x acr
  have emitted := emits_of_exec (i := .vScan d a k .f32) (k := k) (f := fun ts m =>
    assemble 32 (scanGo true acr (elsOf 32 m (ts.headD {})) none false) (ts.headD {}).tag) rfl fires
  refine ⟨_, _, emitted, assembled_of (.inr (.inr (.inl rfl))) _ _ fun j hj => ?_,
    origin_of (.inr (.inr (.inl rfl))) (by decide) _ _ fun j hj => ?_⟩
  · obtain ⟨live, rest⟩ := scan_at true acr x (s.maskOf k) (j := j) hj
    refine ⟨live, fun l => ?_⟩
    obtain ⟨pois, bits, -⟩ := rest l
    exact ⟨pois, congrArg (· % 2 ^ 32) bits⟩
  · obtain ⟨live, rest⟩ := scan_at true acr x (s.maskOf k) (j := j) hj
    refine ⟨live, fun l => ?_⟩
    obtain ⟨-, -, nan⟩ := rest l
    have kept : (x.val j && (s.maskOf k).getLsbD j) = true := by
      rw [← liveIn_word]
      exact (liveIn_one ..).2 l
    change (elAt (scanGo true acr (elsOf 32 (s.maskOf k) x) none false) j).nan = true ↔ _
    rw [runAt_succ true acr x _ kept, nan]
    cases runAt true acr x (s.maskOf k) j with
    | none => simp [scanStep]
    | some y => simp [scanStep, fpEl]

/-! ## Permutes (R192) -/

/-- Lanes that come from others, with their validity and poison. -/
def Moved (x : Token) (from_ : Nat → Nat) (ok pz : Nat → Prop) (r : Token) : Prop :=
  r.tag = x.tag ∧ r.kind = .data ∧ ∀ j < 16,
    (r.val j = true ↔ x.val (from_ j) = true ∧ ok j) ∧ (r.val j = true → r.lane j = x.lane (from_ j)) ∧ (r.val j = false → r.lane j = 0) ∧
    (r.pois j = true ↔ r.val j = true ∧ (x.pois (from_ j) = true ∨ pz j))
theorem moveLanes_moved (x : Token) (f : Nat → Nat) {ok pz : Nat → Bool} {ok' pz' : Nat → Prop} (hok : ∀ j < 16, ok j = true ↔ ok' j)
    (hpz : ∀ j < 16, pz j = true ↔ pz' j) : Moved x f ok' pz' (moveLanes x f ok pz) := by
  refine ⟨by simp only [moveLanes], by simp only [moveLanes], fun j hj => ?_⟩
  have val : (moveLanes x f ok pz).val j = (x.val (f j) && ok j) := testBit_bits16 _ hj
  have pois : (moveLanes x f ok pz).pois j = ((x.val (f j) && ok j) && (x.pois (f j) || pz j)) := testBit_bits16 _ hj
  have lane : (moveLanes x f ok pz).lane j = (if (x.val (f j) && ok j) = true then x.lane (f j) else 0) % 2 ^ 32 := MatMoves.lane_laneFn _ _ _ _ _ hj
  rw [val, pois, lane]
  refine ⟨?_, fun v => ?_, fun v => ?_, ?_⟩
  · rw [Bool.and_eq_true, hok j hj]
  · rw [if_pos v]
    exact Nat.mod_eq_of_lt (lane_lt x _)
  · rw [if_neg (by rw [v]; decide)]
    rfl
  · rw [Bool.and_eq_true, Bool.or_eq_true, hpz j hj]
theorem scanAndPermuteWords : Claims.ScanAndPermuteWords := by
  intro s d a b l k x moved
  refine ⟨fun fires => ⟨vScan_int s d a k fires, ?_⟩, fun fires => ?_, fun fires => ⟨?_, ?_⟩⟩
  · intro acr run
    have same : ∀ n, run n = runAt true acr x (s.maskOf k) n := fun n => (runAt_fp acr x (s.maskOf k) n).symm
    simp only [same]
    exact vScan_fp s d a k fires
  · refine ⟨_, emits_of_exec (i := .vPerm d a b k) (k := k) (f := fun ts m =>
      (moveLanes (ts.getD 0 {}) (fun j => (ts.getD 1 {}).lane j % 16) (fun j => (ts.getD 1 {}).val j && m.toNat.testBit j) (ts.getD 1 {}).pois, none))
      rfl fires, moveLanes_moved x _ (fun j _ => ?_) fun j _ => Iff.rfl⟩
    rw [Bool.and_eq_true, BitVec.testBit_toNat]
    rfl
  · exact ⟨_, emits_of_exec (i := .vBcast d a l) (k := none) (f := fun ts _ =>
      (moveLanes (ts.headD {}) (fun _ => l.toNat) (fun _ => true) (fun _ => false), none)) rfl fires,
      moveLanes_moved x _ (fun j _ => by simp) fun j _ => by simp⟩
  · exact ⟨_, emits_of_exec (i := .vRot d a l) (k := none) (f := fun ts _ =>
      (moveLanes (ts.headD {}) (fun j => (j + l.toNat) % 16) (fun _ => true) (fun _ => false), none)) rfl fires,
      moveLanes_moved x _ (fun j _ => by simp) fun j _ => by simp⟩

/-! ## Lane, tag and valid control (R93, R194) -/

theorem ctlOp_result {s : State} {i : Instr} {a d : BitVec 4} {ms : List (BitVec 2)} {f : Token → Token} (h : exec i s = .next (ctlOp s a d ms f))
    (fires : s.fires [a] (some d) ms false) {good : Token → Prop} (hf : good (f (s.tok a))) : ∃ r, exec i s = s.emits [a] d r none 0 ∧ good r :=
  ⟨_, h.trans (congrArg Host.Outcome.next (needT_fires _ fires)), hf⟩
/-- The lanes that a mask keeps. -/
def maskedLanes (x : Token) (m : BitVec 16) : Token :=
  { x with data := laneFn fun j => if m.toNat.testBit j then x.lane j else 0, valid := x.valid &&& m, poison := x.poison &&& m }
theorem lane_maskedLanes (x : Token) (m : BitVec 16) {j : Nat} (hj : j < 16) :
    (maskedLanes x m).lane j = if m.getLsbD j then x.lane j else 0 := by
  refine (MatMoves.lane_laneFn _ _ _ _ _ hj).trans ?_
  rw [BitVec.testBit_toNat]
  split
  · exact Nat.mod_eq_of_lt (lane_lt x j)
  · rfl
theorem and_all (v : BitVec 16) : v &&& 0xFFFF = v := BitVec.and_allOnes
theorem all_lanes {j : Nat} (hj : j < 16) : (0xFFFF : BitVec 16).getLsbD j = true := by
  interval_cases j <;> rfl
/-- A token with a lane replaced by a word. -/
def insLane (x : Token) (l : BitVec 4) (y : DWord) : Token :=
  { x with data := laneFn fun k => if k = l.toNat then y.toNat % 2 ^ 32 else x.lane k, valid := x.valid ||| (1 <<< l.toNat : BitVec 16),
           poison := x.poison &&& ~~~(1 <<< l.toNat : BitVec 16) }
theorem one_shift_bit (l : BitVec 4) {j : Nat} (hj : j < 16) : (1 <<< l.toNat : BitVec 16).getLsbD j = decide (j = l.toNat) := by
  have one : (1 <<< l.toNat : BitVec 16) = 1#16 <<< l.toNat := rfl
  rw [one, BitVec.getLsbD_shiftLeft, decide_eq_true hj, Bool.true_and, BitVec.getLsbD_one]
  by_cases h : j = l.toNat
  · simp [h]
  · by_cases low : j < l.toNat
    · simp [h, low]
    · simp [h, low]
      omega
/-- The sideband word, field by field. -/
theorem side_fields (x : Token) : let v := w64 x.side
    bfld v 15 0 = x.valid.toNat ∧ bfld v 31 16 = x.poison.toNat ∧ bfld v 37 32 = x.tag.toNat ∧ bfld v 39 38 = kindCode x.kind ∧ bfld v 63 40 = 0 := by
  intro v
  have hv := x.valid.isLt
  have hp := x.poison.isLt
  have ht := x.tag.isLt
  have hk : kindCode x.kind < 4 := by cases x.kind <;> decide
  have nat : v.toNat = x.side := by
    show (BitVec.ofNat 64 x.side).toNat = _
    rw [BitVec.toNat_ofNat, Token.side]
    omega
  unfold bfld fld
  rw [nat, Token.side]
  refine ⟨?_, ?_, ?_, ?_, ?_⟩ <;> simp only [Nat.reduceSub, Nat.reduceAdd, Nat.reducePow] <;> omega

theorem laneTagAndValidControl : Claims.LaneTagAndValidControl := by
  intro s d a g l p q k m mode kind y x out toM
  refine ⟨fun fires => ?_, fun fires => ?_, fun fires => ⟨?_, ?_⟩, fun fires => ⟨?_, ?_, ?_⟩, fun full fires => ⟨?_, ?_⟩, fun fires => ?_,
    fun full fires => ?_, fun takes fires => ⟨?_, ?_⟩⟩
  · have port : (8 : BitVec 4) + p.setWidth 4 = p.setWidth 4 + 8 := BitVec.add_comm ..
    rw [port] at fires ⊢
    exact congrArg Host.Outcome.next (needT_fires _ fires)
  · cases k with
    | none =>
      refine ctlOp_result rfl fires ⟨rfl, rfl, (and_all _).symm, (and_all _).symm, fun j hj => ?_⟩
      exact (if_pos (all_lanes hj)).symm
    | some m =>
      exact ctlOp_result (i := .vMov d a (some m)) (f := fun x => maskedLanes x (s.m m)) rfl fires
        ⟨by simp only [maskedLanes, x], by simp only [maskedLanes, x], rfl, rfl, fun j hj => lane_maskedLanes x _ hj⟩
  · exact ctlOp_result rfl fires rfl
  · exact ctlOp_result rfl fires rfl
  · exact congrArg Host.Outcome.next (needT_fires _ fires)
  · exact congrArg Host.Outcome.next (needT_fires _ fires)
  · refine ⟨bits16 fun k => x.val k && x.lane k != 0, congrArg Host.Outcome.next (needT_fires _ fires), fun j hj => ?_⟩
    rw [← BitVec.testBit_toNat]
    exact testBit_bits16 _ hj
  · have six : y.setWidth 6 = y.extractLsb' 0 6 := (BitVec.setWidth_eq_extractLsb' (by decide)).trans rfl
    rw [← six]
    exact ⟨_, (congrArg Host.Outcome.next ((needGT_full _ full).trans (needT_fires _ fires))), rfl⟩
  · refine ⟨insLane x l y, (congrArg Host.Outcome.next ((needGT_full _ full).trans (needT_fires _ fires))),
      by simp only [insLane, x], by simp only [insLane, x], fun j hj => ⟨?_, ?_, ?_⟩⟩
    · refine (MatMoves.lane_laneFn _ _ _ _ _ hj).trans (Nat.mod_eq_of_lt ?_)
      split
      · exact Nat.mod_lt _ (by decide)
      · exact lane_lt x j
    · show (x.valid ||| _).toNat.testBit j = _
      rw [BitVec.testBit_toNat, BitVec.getLsbD_or, one_shift_bit l hj]
      rfl
    · show (x.poison &&& ~~~_).toNat.testBit j = _
      rw [BitVec.testBit_toNat, BitVec.getLsbD_and, BitVec.getLsbD_not, one_shift_bit l hj, decide_eq_true hj, Bool.true_and]
      rfl
  · exact ctlOp_result rfl fires rfl
  · refine ⟨_, congrArg Host.Outcome.next ((needGT_full _ full).trans (needT_fires _ fires)), rfl, rfl, rfl, rfl, fun j hj => ?_⟩
    refine (MatMoves.lane_laneFn _ _ _ _ _ hj).trans (Nat.mod_mod ..)
  · exact ⟨_, congrArg Host.Outcome.next ((needD_takes _ takes).trans (needT_fires _ fires)), side_fields x⟩
  · exact congrArg Host.Outcome.next ((needD_takes _ takes).trans (needT_fires _ fires))

/-- Settles O19: scan, permutes, and the control of lanes, tags and valid bits. -/
theorem lanesArePermutedAndTagged : Obligations.LanesArePermutedAndTagged :=
  ⟨scanAndPermuteWords, laneTagAndValidControl⟩

end Sys2Proof.Proofs.LaneMoves
end

section
/-! PROOFS. The compressed-domain video instructions (R233, R236 to R243). -/
namespace Sys2Proof.Proofs.VideoTokens
open Sys2Proof Sys2Proof.Machine Sys2Proof.Proofs.Bits Sys2Proof.Proofs.Elements Sys2Proof.Proofs.Tokens Sys2Proof.Proofs.PackedTokens
set_option Elab.async false

/-! ## The lane rule (R236) -/

/-- Every lane read is valid. -/
def AllValid (reads : List (Token × Nat)) : Prop := ∀ p ∈ reads, p.1.val p.2 = true
/-- The lane rule on a result. -/
def Ruled (reads : List (Token × Nat)) (r : Token) : Prop :=
  ((∃ p ∈ reads, p.1.val p.2 = false) → r.valid = 0 ∧ r.poison = 0) ∧
  ((∀ p ∈ reads, p.1.val p.2 = true) → (∃ p ∈ reads, p.1.pois p.2 = true) → r.poison = r.valid)
theorem all_val_iff (reads : List (Token × Nat)) : (reads.all fun p => p.1.val p.2) = true ↔ AllValid reads := List.all_eq_true
theorem readRule_invalid {reads : List (Token × Nat)} (h : ∃ p ∈ reads, p.1.val p.2 = false) (r : Token) :
    readRule reads r = { r with data := 0, valid := 0, poison := 0, kind := .data } := by
  have bad : (!reads.all fun p => p.1.val p.2) = true := by
    rw [Bool.not_eq_true', List.all_eq_false]
    obtain ⟨p, hp, e⟩ := h
    exact ⟨p, hp, by rw [e]; decide⟩
  unfold readRule
  simp only [if_pos bad]
theorem readRule_valid {reads : List (Token × Nat)} (h : AllValid reads) (r : Token) :
    readRule reads r = { r with poison := if reads.any (fun p => p.1.pois p.2) then r.valid else r.poison, kind := .data } := by
  have good : ¬ (!reads.all fun p => p.1.val p.2) = true := by rw [(all_val_iff reads).2 h]; decide
  unfold readRule
  simp only [if_neg good]
  split <;> simp only
theorem ruled (reads : List (Token × Nat)) (r : Token) : Ruled reads (readRule reads r) := by
  refine ⟨fun bad => ?_, fun good pois => ?_⟩
  · rw [readRule_invalid bad]
    exact ⟨rfl, rfl⟩
  · rw [readRule_valid good, if_pos (List.any_eq_true.2 pois)]
theorem data_readRule {reads : List (Token × Nat)} (h : AllValid reads) (r : Token) : (readRule reads r).data = r.data := by
  rw [readRule_valid h]
theorem valid_readRule {reads : List (Token × Nat)} (h : AllValid reads) (r : Token) : (readRule reads r).valid = r.valid := by
  rw [readRule_valid h]
theorem lane_readRule {reads : List (Token × Nat)} (h : AllValid reads) (r : Token) (j : Nat) : (readRule reads r).lane j = r.lane j := by
  rw [Token.lane, data_readRule h, Token.lane]
theorem val_readRule {reads : List (Token × Nat)} (h : AllValid reads) (r : Token) (j : Nat) : (readRule reads r).val j = r.val j := by
  rw [Token.val, valid_readRule h, Token.val]
theorem tag_readRule (reads : List (Token × Nat)) (r : Token) : (readRule reads r).tag = r.tag := by
  by_cases h : AllValid reads
  · rw [readRule_valid h]
  · unfold AllValid at h
    push_neg at h
    obtain ⟨p, hp, e⟩ := h
    rw [readRule_invalid ⟨p, hp, Bool.eq_false_iff.2 e⟩]

/-! ## Lanes replaced -/

theorem lane_putLanes (x : Token) (l : List (Nat × Nat)) {j : Nat} (hj : j < 16) :
    (x.putLanes l).lane j = match l.find? fun p => p.1 == j with | some p => p.2 % 2 ^ 32 | none => x.lane j := by
  refine (MatMoves.lane_laneFn _ _ _ _ _ hj).trans ?_
  change (match l.find? fun p => p.1 == j with | some p => p.2 | none => x.lane j) % 2 ^ 32 = _
  cases l.find? fun p => p.1 == j with
  | none => exact Nat.mod_eq_of_lt (lane_lt x j)
  | some p => rfl
theorem val_putLanes (x : Token) (l : List (Nat × Nat)) {j : Nat} (hj : j < 16) :
    (x.putLanes l).val j = ((l.find? fun p => p.1 == j).isSome || x.val j) := testBit_bits16 _ hj
theorem tag_putLanes (x : Token) (l : List (Nat × Nat)) : (x.putLanes l).tag = x.tag := by simp only [Token.putLanes]

/-! ## Instructions -/

/-- Lane k of a dequantised token (R238). -/
def deqLane (acr : BitVec 4) (c : Bool) (dc : Nat) (x y : Token) (k : Nat) : Nat :=
  let st := y.lane (if c && k == 0 then dc else dc + 1)
  let n : Int := sgn 16 (x.lane k) * (fld st 15 0 : Nat)
  fF32.flush (acrFo acr) (fF32.round 0 0 false (.fin (decide (n < 0)) n.natAbs ((fld st 21 16 : Int) - 32)))
theorem vDeq_result (s : State) (d a b : BitVec 4) (c : Bool) (pl : Plane) (fires : s.fires [a, b] (some d) [] true) :
    let x := s.tok a
    let acr := s.curLt.acr
    let z := s.tok b
    let dc := 2 + 2 * planeCode pl
    let reads := ((List.range 16).map fun j => (x, j)) ++ [(z, dc + 1)] ++ (if c then [(z, dc)] else [])
    ∃ r, exec (.vDeq d a b c pl) s = s.emits [a, b] d r none 0 ∧ Ruled reads r ∧ (AllValid reads → r.valid = 0xFFFF ∧ ∀ j < 16,
      let st := z.lane (if c = true ∧ j = 0 then dc else dc + 1)
      let n : Int := sgn 16 (x.lane j) * fld st 15 0
      r.lane j = fF32.flush (acrFo acr) (fF32.round 0 0 false (.fin (decide (n < 0)) n.natAbs (fld st 21 16 - 32))) % 2 ^ 32) := by
  intro x acr z dc reads
  have reads_eq : ((upTo 16).map fun j => (x, j)) ++ [(z, dc + 1)] ++ (if c then [(z, dc)] else []) = reads := by rw [upTo_eq_range]
  refine ⟨_, emits_of_exec (i := .vDeq d a b c pl) (k := none) (f := fun ts _ => (readRule (((upTo 16).map fun k => (ts.getD 0 {}, k)) ++
    [(ts.getD 1 {}, dc + 1)] ++ if c then [(ts.getD 1 {}, dc)] else [])
    (dataTok (laneFn (deqLane acr c dc (ts.getD 0 {}) (ts.getD 1 {}))) (ts.getD 0 {}).tag), none)) rfl fires, ?_, ?_⟩
  · rw [← reads_eq]
    exact ruled ..
  · intro ok
    rw [← reads_eq] at ok
    refine ⟨valid_readRule ok _, fun j hj => ?_⟩
    refine (lane_readRule ok _ j).trans ((MatMoves.lane_laneFn _ _ _ _ _ hj).trans ?_)
    simp only [deqLane, Bool.and_eq_true, beq_iff_eq]
    rfl

/-- What `v.erracc` makes of its tokens. -/
def errTok (acr : BitVec 4) (r : Option Region) (f : Bool) (x y : Token) : Token × Option Nat :=
  if recLog2w x = 0 then (readRule ((x, 1) :: if f then [(y, 0)] else []) x, none)
  else if f then (errFin acr ((r.map (·.alpha)).getD 0) ((r.map (·.beta)).getD 0) ((r.map (·.bound)).getD 0) x y, none)
  else errAdd acr x y
theorem exec_vErracc (s : State) (d a b : BitVec 4) (f : Bool) : exec (.vErracc d a b f) s =
    .next (tokenOp s [a, b] d none 0 fun ts _ => errTok s.curLt.acr (s.region s.curLt.key) f (ts.getD 0 {}) (ts.getD 1 {})) := rfl
theorem tag_errFin (acr : BitVec 4) (p q r : Lane) (x y : Token) : (errFin acr p q r x y).tag = x.tag := by
  simp only [errFin, apply_ite Token.tag, tag_readRule, tag_putLanes, ite_self]
theorem vErracc_result (s : State) (d a b : BitVec 4) (t : Bool) (fires : s.fires [a, b] (some d) [] true) :
    let x := s.tok a
    let acr := s.curLt.acr
    ∃ r o, exec (.vErracc d a b t) s = s.emits [a, b] d r o 0 ∧
      r.tag = x.tag ∧
      (recLog2w x = 0 → let reads := (x, 1) :: if t then [(s.tok b, 0)] else []
        Ruled reads r ∧ o = none ∧ (AllValid reads → r.data = x.data ∧ r.valid = x.valid)) ∧
      (recLog2w x ≠ 0 → t = false → let reads := [(x, 1), (x, 12)] ++ ((List.range 16).filter (s.tok b).val).map fun j => (s.tok b, j)
        let old := in32 acr (x.lane 12)
        let sum := fF32.val (magSum acr (s.tok b))
        let new := rnd32 acr (old.add sum)
        Ruled reads r ∧ (AllValid reads → r.lane 12 = new % 2 ^ 32 ∧ r.val 12 = true ∧ ∀ j < 16, j ≠ 12 → r.lane j = x.lane j ∧ r.val j = x.val j) ∧
        (o = some 48 ↔ fF32.isNan new = true ∧ old.isNan = false ∧ sum.isNan = false ∧ r.val 12 = true ∧ r.pois 12 = false) ∧
        (o = none ∨ o = some 48)) ∧
      (recLog2w x ≠ 0 → t = true → o = none ∧ ∀ q, s.region s.curLt.key = some q → r = errFin acr q.alpha q.beta q.bound x (s.tok b)) := by
  intro x acr
  have emitted := emits_of_exec (k := none) (exec_vErracc s d a b t) fires
  change exec _ s = s.emits [a, b] d (errTok acr (s.region s.curLt.key) t x (s.tok b)).1 (errTok acr (s.region s.curLt.key) t x (s.tok b)).2 0 at emitted
  by_cases pic : recLog2w x = 0
  · rw [errTok, if_pos pic] at emitted
    exact ⟨_, _, emitted, tag_readRule .., fun _ => ⟨ruled .., rfl, fun ok => ⟨data_readRule ok x, valid_readRule ok x⟩⟩,
      fun h => absurd pic h, fun h => absurd pic h⟩
  · rw [errTok, if_neg pic] at emitted
    cases t with
    | true =>
      exact ⟨_, _, emitted, tag_errFin .., fun h => absurd h pic, fun _ h => absurd h (by decide), fun _ _ => ⟨rfl, fun q hq => by rw [hq]; rfl⟩⟩
    | false =>
      refine ⟨_, _, emitted, (tag_readRule ..).trans (tag_putLanes ..), fun h => absurd h pic, fun _ _ => ?_, fun _ h => absurd h (by decide)⟩
      intro reads old sum new
      have reads_eq : [(x, 1), (x, 12)] ++ ((upTo 16).filter (s.tok b).val).map (fun j => (s.tok b, j)) = reads := by rw [upTo_eq_range]
      have res : (errAdd acr x (s.tok b)).1 = readRule reads (x.putLanes [(12, new)]) := by rw [← reads_eq]; rfl
      have ori : (errAdd acr x (s.tok b)).2 = if fF32.isNan new && !old.isNan && !sum.isNan && (errAdd acr x (s.tok b)).1.val 12 &&
        !(errAdd acr x (s.tok b)).1.pois 12 then some 48 else none := rfl
      change Ruled reads (errAdd acr x (s.tok b)).1 ∧ _
      refine ⟨?_, fun ok => ?_, ?_, ?_⟩
      · rw [res]
        exact ruled ..
      · change (errAdd acr x (s.tok b)).1.lane 12 = _ ∧ (errAdd acr x (s.tok b)).1.val 12 = true ∧
          ∀ j < 16, j ≠ 12 → (errAdd acr x (s.tok b)).1.lane j = x.lane j ∧ (errAdd acr x (s.tok b)).1.val j = x.val j
        rw [res]
        refine ⟨(lane_readRule ok _ 12).trans (lane_putLanes x _ (by decide)), (val_readRule ok _ 12).trans (val_putLanes x _ (by decide)), fun j hj ne => ?_⟩
        have absent : ([(12, new)] : List (Nat × Nat)).find? (fun p => p.1 == j) = none := by simp [Ne.symm ne]
        rw [lane_readRule ok, val_readRule ok, lane_putLanes x _ hj, val_putLanes x _ hj, absent]
        exact ⟨rfl, rfl⟩
      · change (errAdd acr x (s.tok b)).2 = some 48 ↔ _ ∧ _ ∧ _ ∧ (errAdd acr x (s.tok b)).1.val 12 = true ∧ (errAdd acr x (s.tok b)).1.pois 12 = false
        rw [ori]
        simp only [Option.ite_none_right_eq_some, Bool.and_eq_true, Bool.not_eq_true', and_true, and_assoc]
      · change (errAdd acr x (s.tok b)).2 = none ∨ (errAdd acr x (s.tok b)).2 = some 48
        rw [ori]
        split
        · exact .inr rfl
        · exact .inl rfl

/-- The lanes of a warp token (R240): a cell of the block, where the block has a vector. -/
def warpNone (x : Token) (t : Bool) : Bool :=
  recLog2w x == 0 || recMode x == 0 || recMode x == 3 || (t && !recBi x) || recFw x == 0 || recFh x == 0 || vecMiss x t.toNat
def warpTok (t : Bool) (part : Nat) (x : Token) : Token :=
  let live := fun j => !warpNone x t && decide (16 * part + j < cellsOf x)
  ⟨laneFn fun j => if live j then cellIndex x (cellAt x t.toNat (16 * part + j)) else 0, bits16 live, 0, x.tag, .data⟩
theorem exec_vWarp (s : State) (d a g : BitVec 4) (t : Bool) : exec (.vWarp d a g t) s = .next (needGT s g fun y => tokenOp s [a] d none 0 fun ts _ =>
    (readRule [(ts.headD {}, 0), (ts.headD {}, 1), (ts.headD {}, 8 + t.toNat), (ts.headD {}, 13)] (warpTok t (y.toNat % 64) (ts.headD {})), none)) := rfl
theorem warpNone_iff (x : Token) (t : Bool) : warpNone x t = true ↔ recLog2w x = 0 ∨ recMode x = 0 ∨ recMode x = 3 ∨ (t = true ∧ recBi x = false) ∨
    recFw x = 0 ∨ recFh x = 0 ∨ vecMiss x t.toNat = true := by
  simp only [warpNone, Bool.or_eq_true, Bool.and_eq_true, Bool.not_eq_true', beq_iff_eq, or_assoc]
theorem vWarp_result (s : State) (d a g : BitVec 4) (t : Bool) (y : DWord) (full : s.full g y) (fires : s.fires [a] (some d) [] true) :
    let x := s.tok a
    let slot := if t then 1 else 0
    let none_ := recLog2w x = 0 ∨ recMode x = 0 ∨ recMode x = 3 ∨ (t = true ∧ recBi x = false) ∨ recFw x = 0 ∨ recFh x = 0 ∨ vecMiss x slot = true
    let reads := [(x, 0), (x, 1), (x, 8 + slot), (x, 13)]
    ∃ r, exec (.vWarp d a g t) s = s.emits [a] d r none 0 ∧ Ruled reads r ∧ r.tag = x.tag ∧
      (AllValid reads → ∀ j < 16, let n := 16 * (y.toNat % 64) + j
        (r.val j = true ↔ ¬ none_ ∧ n < cellsOf x) ∧
        (r.val j = true → r.lane j = (let p := cellAt x slot n
          (max 0 (min p.2 (recFh x - 1))).toNat * recFw x + (max 0 (min p.1 (recFw x - 1))).toNat) % 2 ^ 32)) := by
  intro x slot none_ reads
  have slot_eq : t.toNat = slot := by cases t <;> rfl
  have none_iff : warpNone x t = true ↔ none_ := by
    rw [warpNone_iff, slot_eq]
  refine ⟨readRule reads (warpTok t (y.toNat % 64) x), ?_, ruled .., (tag_readRule ..).trans (by simp only [warpTok]), fun ok j hj => ?_⟩
  · rw [exec_vWarp, needGT_full _ full]
    refine (congrArg Host.Outcome.next (needT_fires _ fires)).trans ?_
    simp only [reads, ← slot_eq]
    rfl
  · intro n
    have val : (warpTok t (y.toNat % 64) x).val j = (!warpNone x t && decide (n < cellsOf x)) := testBit_bits16 _ hj
    rw [val_readRule ok, lane_readRule ok, val]
    refine ⟨?_, fun live => ?_⟩
    · rw [Bool.and_eq_true, Bool.not_eq_true', ← Bool.not_eq_true, none_iff, decide_eq_true_iff]
    · refine (MatMoves.lane_laneFn _ _ _ _ _ hj).trans ?_
      refine congrArg (· % 2 ^ 32) ((if_pos live).trans ?_)
      rw [slot_eq]
      rfl

/-- A field whose bits are all masked off is zero. -/
theorem masked_field (v m : BitVec 32) (lo n : Nat) (h : ∀ i < n, m.getLsbD (lo + i) = true) : (v &&& ~~~m).toNat / 2 ^ lo % 2 ^ n = 0 := by
  apply Nat.eq_of_testBit_eq
  intro i
  rw [Nat.testBit_mod_two_pow, Nat.testBit_div_two_pow, Nat.zero_testBit]
  by_cases hi : i < n
  · rw [Nat.add_comm, BitVec.testBit_toNat, BitVec.getLsbD_and, BitVec.getLsbD_not, h i hi]
    simp
  · rw [decide_eq_false hi, Bool.false_and]
/-- Lane 1 of a refreshed record: MODE 3 with its reason. -/
theorem refresh_fields (l : Nat) : fld (refreshLane l 7 % 2 ^ 32) 9 8 = 3 ∧ fld (refreshLane l 7 % 2 ^ 32) 21 19 = 7 := by
  have mode := masked_field (BitVec.ofNat 32 l) 0x38_0300 8 2 (by decide)
  have reason := masked_field (BitVec.ofNat 32 l) 0x38_0300 19 3 (by decide)
  unfold refreshLane fld
  generalize (BitVec.ofNat 32 l &&& ~~~(0x38_0300 : BitVec 32)).toNat = v at mode reason ⊢
  simp only [Nat.reduceSub, Nat.reduceAdd, Nat.reducePow] at mode reason ⊢
  omega
theorem vRefr_result (s : State) (d a : BitVec 4) (fires : s.fires [a] (some d) [] true) :
    let x := s.tok a
    ∃ r, exec (.vRefr d a) s = s.emits [a] d r none 0 ∧ Ruled [(x, 1)] r ∧ (AllValid [(x, 1)] →
      if recLog2w x ≠ 0 ∧ (recMode x = 1 ∨ recMode x = 2) then fld (r.lane 1) 9 8 = 3 ∧ fld (r.lane 1) 21 19 = 7 ∧ r.lane 11 = 0 ∧
          r.val 11 = true ∧ ∀ j < 16, j ≠ 1 → j ≠ 11 → r.lane j = x.lane j
        else r.data = x.data ∧ r.valid = x.valid) := by
  intro x
  have emitted := emits_of_exec (i := .vRefr d a) (k := none) (f := fun ts _ =>
    if recLog2w (ts.headD {}) ≠ 0 ∧ (recMode (ts.headD {}) = 1 ∨ recMode (ts.headD {}) = 2) then
      (readRule [(ts.headD {}, 1)] ((ts.headD {}).putLanes [(1, refreshLane ((ts.headD {}).lane 1) 7), (11, 0)]), none)
    else (readRule [(ts.headD {}, 1)] (ts.headD {}), none)) rfl fires
  change exec _ s = s.emits [a] d
    (if recLog2w x ≠ 0 ∧ (recMode x = 1 ∨ recMode x = 2) then (readRule [(x, 1)] (x.putLanes [(1, refreshLane (x.lane 1) 7), (11, 0)]), none)
      else (readRule [(x, 1)] x, none) : Token × Option Nat).1
    (if recLog2w x ≠ 0 ∧ (recMode x = 1 ∨ recMode x = 2) then (readRule [(x, 1)] (x.putLanes [(1, refreshLane (x.lane 1) 7), (11, 0)]), none)
      else (readRule [(x, 1)] x, none) : Token × Option Nat).2 0 at emitted
  by_cases inter : recLog2w x ≠ 0 ∧ (recMode x = 1 ∨ recMode x = 2)
  · rw [if_pos inter] at emitted
    refine ⟨_, emitted, ruled .., fun ok => ?_⟩
    rw [if_pos inter]
    simp only [lane_readRule ok, val_readRule ok]
    rw [lane_putLanes x _ (j := 1) (by decide), lane_putLanes x _ (j := 11) (by decide), val_putLanes x _ (j := 11) (by decide)]
    obtain ⟨mode, reason⟩ := refresh_fields (x.lane 1)
    refine ⟨mode, reason, rfl, rfl, fun j hj one eleven => ?_⟩
    have absent : ([(1, refreshLane (x.lane 1) 7), (11, 0)] : List (Nat × Nat)).find? (fun p => p.1 == j) = none := by
      simp [Ne.symm one, Ne.symm eleven]
    rw [lane_putLanes x _ hj, absent]
  · rw [if_neg inter] at emitted
    refine ⟨_, emitted, ruled .., fun ok => ?_⟩
    rw [if_neg inter]
    exact ⟨data_readRule ok x, valid_readRule ok x⟩

theorem vBfx_result (s : State) (d a : BitVec 4) (f : RecField) (fires : s.fires [a] (some d) [] true) :
    let x := s.tok a
    ∃ r, exec (.vBfx d a f) s = s.emits [a] d r none 0 ∧ Ruled [(x, (fieldAt f).1)] r ∧ (AllValid [(x, (fieldAt f).1)] →
      let v := fld (x.lane (fieldAt f).1) (fieldAt f).2.1 (fieldAt f).2.2
      r.valid = 0xFFFF ∧ ∀ j < 16, r.lane j = if fieldSigned f then unsgn 32 (sgn 16 v) else v) := by
  intro x
  have emitted := emits_of_exec (i := .vBfx d a f) (k := none) (f := fun ts _ =>
    (readRule [(ts.headD {}, (fieldAt f).1)] (dataTok (laneFn fun _ =>
      if fieldSigned f then unsgn 32 (sgn 16 ((ts.headD {}).rf (fieldAt f).1 (fieldAt f).2.1 (fieldAt f).2.2))
      else (ts.headD {}).rf (fieldAt f).1 (fieldAt f).2.1 (fieldAt f).2.2) (ts.headD {}).tag), none)) rfl fires
  refine ⟨_, emitted, ruled .., fun ok => ?_⟩
  intro v
  refine ⟨valid_readRule ok _, fun j hj => (lane_readRule ok _ j).trans ((MatMoves.lane_laneFn _ _ _ _ _ hj).trans ?_)⟩
  have small : v < 2 ^ 32 := by
    refine lt_of_lt_of_le (Nat.mod_lt _ (Nat.two_pow_pos _)) (Nat.pow_le_pow_right (by decide) ?_)
    cases f <;> decide
  change (if fieldSigned f then unsgn 32 (sgn 16 v) else v) % 2 ^ 32 = _
  split
  · exact ElementOps.unsgn_mod 32 _
  · exact Nat.mod_eq_of_lt small

/-- Settles O20: the compressed-domain video instructions. -/
theorem videoWords : Obligations.VideoWords := by
  intro s d a b g c t pl f y x acr rule ok
  exact ⟨fun fires => ⟨vDeq_result s d a b c pl fires, vErracc_result s d a b t fires⟩, fun full fires => vWarp_result s d a g t y full fires,
    fun fires => ⟨vRefr_result s d a fires, vBfx_result s d a f fires⟩⟩

end Sys2Proof.Proofs.VideoTokens
end

section
/-! PROOFS. Prism programs: what they make of a unit, and the tail of a stream (R286 to R289). -/
namespace Sys2Proof.Proofs.PrismUnits
open Sys2Proof Sys2Proof.Machine Sys2Proof.Proofs.Bits Sys2Proof.Proofs.ElementOps
set_option Elab.async false

/-! ## Cells (R286, R287) -/

/-- The word of one cell, from those done. -/
def cellValue (p : List Byte) (xs ss done : List Nat) (c : Nat) : Nat :=
  let w := cellWord p c
  cellOp (fld w 31 27) (fld w 12 5) (srcVal xs ss done (fld w 12 5) (fld w 26 20)) (srcVal xs ss done (fld w 12 5) (fld w 19 13))
theorem runCells_length (p : List Byte) (xs ss l : List Nat) : ∀ done, (runCells p xs ss l done).length = done.length + l.length := by
  induction l with
  | nil => intro done; rfl
  | cons c r ih =>
    intro done
    rw [runCells, ih, List.length_append, List.length_singleton, List.length_cons, Nat.add_assoc, Nat.add_comm 1]
/-- Cells done stay as they are. -/
theorem runCells_prefix (p : List Byte) (xs ss l : List Nat) : ∀ done, ∀ k < done.length, (runCells p xs ss l done).getD k 0 = done.getD k 0 := by
  induction l with
  | nil => intro done k _; rfl
  | cons c r ih =>
    intro done k hk
    rw [runCells, ih _ k (by rw [List.length_append]; omega), List.getD_append _ _ _ _ hk]
/-- A cell whose sources are earlier reads the same from all cells as from those done before it. -/
theorem runCells_cell (p : List Byte) (xs ss : List Nat) (n : Nat) (early : ∀ c < n, ∀ cells done : List Nat, (∀ k < c, cells.getD k 0 = done.getD k 0) →
    cellValue p xs ss cells c = cellValue p xs ss done c) (c : Nat) (hc : c < n) :
    (runCells p xs ss (List.range n) []).getD c 0 = cellValue p xs ss (runCells p xs ss (List.range n) []) c := by
  have go : ∀ (m b : Nat) (done : List Nat), done.length = b → b + m = n → ∀ k, b ≤ k → k < n →
      (runCells p xs ss (List.range' b m) done).getD k 0 = cellValue p xs ss (runCells p xs ss (List.range' b m) done) k := by
    intro m
    induction m with
    | zero => intro b done _ hn k low high; omega
    | succ m ih =>
      intro b done len hn k low high
      rw [List.range'_succ, runCells]
      have grown : (done ++ [cellValue p xs ss done b]).length = b + 1 := by rw [List.length_append, List.length_singleton, len]
      by_cases here : k = b
      · subst here
        have all : ∀ i < done.length + 1, (runCells p xs ss (List.range' (k + 1) m) (done ++ [cellValue p xs ss done k])).getD i 0 =
            (done ++ [cellValue p xs ss done k]).getD i 0 := fun i hi => runCells_prefix p xs ss _ _ i (by rw [grown, ← len]; exact hi)
        refine (all k (by omega)).trans ?_
        rw [List.getD_append_right _ _ _ _ (by omega), len, Nat.sub_self, List.getD_cons_zero]
        refine (early k high _ done fun i hi => ?_).symm
        exact (all i (by omega)).trans (List.getD_append _ _ _ _ (by omega))
      · exact ih (b + 1) _ grown (by omega) k (by omega) high
  rw [List.range_eq_range']
  exact go n 0 [] rfl (by omega) c (Nat.zero_le c) hc
theorem srcVal_congr {xs ss cells done : List Nat} {imm c k : Nat} (h : ∀ i < k, cells.getD i 0 = done.getD i 0) (early : c < 32 ∧ c ≤ 24 ∨ 32 ≤ c ∧ c - 32 < k) :
    srcVal xs ss cells imm c = srcVal xs ss done imm c := by
  unfold srcVal
  split
  · rfl
  · split
    · rfl
    · split
      · rfl
      · exact h _ (by omega)
/-- What a legal program says of its cells and selects (R290). -/
theorem prismOk_cells {p : List Byte} (h : prismOk p = true) : ∀ c < 64,
    cellSrcOk (c / 8) (fld (cellWord p c) 26 20) = true ∧ cellSrcOk (c / 8) (fld (cellWord p c) 19 13) = true := by
  intro c hc
  simp only [prismOk, upTo_eq_range, Bool.and_eq_true, List.all_eq_true, List.mem_range] at h
  obtain ⟨⟨⟨-, a⟩, b⟩, -⟩ := h.2 c hc
  exact ⟨a, b⟩
theorem prismOk_selects {p : List Byte} (h : prismOk p = true) : ∀ k < 16, pbyte p (48 + k) < 128 := by
  intro k hk
  simp only [prismOk, upTo_eq_range, Bool.and_eq_true, List.all_eq_true, List.mem_range, decide_eq_true_iff] at h
  exact (h.1.1.2 k hk).1
theorem early_of_cellSrcOk {c code : Nat} (h : cellSrcOk (c / 8) code = true) : code < 32 ∧ code ≤ 24 ∨ 32 ≤ code ∧ code - 32 < c := by
  simp only [cellSrcOk, srcOk, Bool.and_eq_true, Bool.or_eq_true, decide_eq_true_iff] at h
  omega


/-! ## Units (R286, R288, R289) -/

/-- The immediate, sign-extended. -/
theorem imm_eq (imm : Nat) : unsgn 32 (sgn 8 imm) = ((BitVec.ofNat 8 imm).signExtend 32).toNat := by
  rw [Scratchpad.sgn_eq_toInt 8 imm (by decide), BitVec.signExtend, BitVec.toNat_ofInt]
  rfl
/-- The words of a unit. -/
def unitWords (u : List Byte) : List Nat := (upTo 16).map fun k => leNat ((u.drop (4 * k)).take 4)
/-- The state words as numbers. -/
def stateWords (ss : Vector Lane 8) : List Nat := ss.toList.map (·.toNat)
/-- All cells of a unit. -/
def unitCells (p : List Byte) (ss : Vector Lane 8) (u : List Byte) : List Nat := runCells p (unitWords u) (stateWords ss) (upTo 64) []
/-- What a source code names. -/
theorem srcVal_names (ss : Vector Lane 8) (u : List Byte) (cells : List Nat) (imm code : Nat) :
    srcVal (unitWords u) (stateWords ss) cells imm code = if code < 16 then leNat ((u.drop (4 * code)).take 4)
      else if code < 24 then (vget ss (code - 16) 0).toNat
      else if code = 24 then ((BitVec.ofNat 8 imm).signExtend 32).toNat else cells.getD (code - 32) 0 := by
  unfold srcVal
  split
  · next h => rw [unitWords, upTo_eq_range, getD_map_range _ _ h]
  · split
    · exact List.getD_map (l := ss.toList) (d := (0 : Lane)) (n := code - 16) BitVec.toNat
    · rw [imm_eq]
theorem take_drop_flatten (f : Nat → List Byte) (hf : ∀ k, (f k).length = 4) {k : Nat} (hk : k < 16) :
    (((List.range 16).map f).flatten.drop (4 * k)).take 4 = f k := by
  apply List.ext_getElem?
  intro i
  rw [List.getElem?_take]
  split
  · next h => rw [List.getElem?_drop, MatUnit.getElem?_flatten_map_range f hf hk h]
  · next h => rw [List.getElem?_eq_none (by rw [hf]; omega)]
theorem vget_ofFn {α : Type} {n : Nat} (f : Fin n → α) (d : α) {j : Nat} (hj : j < n) : vget (Vector.ofFn f) j d = f ⟨j, hj⟩ := by
  rw [vget, List.getD_eq_getElem _ _ (by simpa using hj)]
  simp
theorem prismUnit_eq {p : List Byte} (ss : Vector Lane 8) (u : List Byte) : prismUnit p ss u =
    (((List.range 16).map fun k => leBytes 4 (srcVal (unitWords u) (stateWords ss) (unitCells p ss u) 0 (pbyte p (48 + k)))).flatten,
      Vector.ofFn fun j => if 128 ≤ pbyte p (64 + j.val) then
        .ofNat 32 (srcVal (unitWords u) (stateWords ss) (unitCells p ss u) 0 (pbyte p (64 + j.val) % 128)) else vget ss j.val 0) := by
  rw [prismUnit, ← upTo_eq_range]
  rfl
theorem prismProgramComputesUnit (p : List Byte) (ss : Vector Lane 8) (u : List Byte) (ok : prismOk p = true) :
    let byte := fun (i : Nat) => (p.getD i 0).toNat
    let word := fun (l : List Byte) (i : Nat) => leNat ((l.drop i).take 4)
    let out := prismUnit p ss u
    ∃ cell : Nat → Nat,
      let src := fun (imm code : Nat) => if code < 16 then word u (4 * code) else if code < 24 then (vget ss (code - 16) 0).toNat
        else if code = 24 then ((BitVec.ofNat 8 imm).signExtend 32).toNat else cell (code - 32)
      (∀ c < 64, let w := word p (128 + 4 * c)
        let imm := w / 2 ^ 5 % 2 ^ 8
        cell c = cellOp (w / 2 ^ 27 % 2 ^ 5) imm (src imm (w / 2 ^ 20 % 2 ^ 7)) (src imm (w / 2 ^ 13 % 2 ^ 7))) ∧
      (∀ k < 16, byte (48 + k) ≠ 24 → (out.1.drop (4 * k)).take 4 = leBytes 4 (src 0 (byte (48 + k)))) ∧
      (∀ j < 8, byte (64 + j) % 128 ≠ 24 →
        vget out.2 j 0 = if 128 ≤ byte (64 + j) then .ofNat 32 (src 0 (byte (64 + j) % 128)) else vget ss j 0) ∧
      (∀ j < 8, vget (prismInit p) j 0 = .ofNat 32 (word p (16 + 4 * j))) ∧
      ∀ (old : BitVec 8), ∀ j < 8, (prismPois p true old).getLsbD j = (decide (128 ≤ byte (64 + j)) || old.getLsbD j) := by
  intro byte word out
  refine ⟨fun c => (unitCells p ss u).getD c 0, ?_⟩
  intro src
  have names : ∀ imm code, srcVal (unitWords u) (stateWords ss) (unitCells p ss u) imm code = src imm code := fun imm code => srcVal_names ..
  refine ⟨fun c hc => ?_, fun k hk _ => ?_, fun j hj _ => ?_, fun j hj => vget_ofFn _ _ hj, fun old j hj => ?_⟩
  · intro w imm
    have early : ∀ c < 64, ∀ cells done : List Nat, (∀ k < c, cells.getD k 0 = done.getD k 0) →
        cellValue p (unitWords u) (stateWords ss) cells c = cellValue p (unitWords u) (stateWords ss) done c := fun c hc cells done same => by
      obtain ⟨a, b⟩ := prismOk_cells ok c hc
      unfold cellValue
      simp only [srcVal_congr same (early_of_cellSrcOk a), srcVal_congr same (early_of_cellSrcOk b)]
    have value := runCells_cell p (unitWords u) (stateWords ss) 64 early c hc
    rw [← upTo_eq_range] at value
    refine value.trans ?_
    show cellOp _ _ (srcVal _ _ (unitCells p ss u) _ _) (srcVal _ _ (unitCells p ss u) _ _) = _
    rw [names, names]
    rfl
  · show ((prismUnit p ss u).1.drop (4 * k)).take 4 = _
    rw [prismUnit_eq]
    refine (take_drop_flatten (fun k => leBytes 4 (srcVal (unitWords u) (stateWords ss) (unitCells p ss u) 0 (pbyte p (48 + k))))
      (fun k => leBytes_length 4 _) hk).trans ?_
    rw [names]
    rfl
  · show vget (prismUnit p ss u).2 j 0 = _
    rw [prismUnit_eq]
    refine (vget_ofFn _ _ hj).trans ?_
    rw [names]
    rfl
  · rw [← BitVec.testBit_toNat, prismPois, testBit_packBits _ hj, upTo_eq_range, getD_map_range _ _ hj]
    show (if 128 ≤ byte (64 + j) then true || old.toNat.testBit j else old.toNat.testBit j) = _
    rw [BitVec.testBit_toNat]
    by_cases h : 128 ≤ byte (64 + j) <;> simp [h]

/-! ## The tail (R289) -/

/-- The token of the state words. -/
def tailTok (r : CmdRun) : Token := ⟨.ofNat 512 (unchunk 32 (r.ps.toList.map (·.toNat))), 0x00FF, r.pspois.setWidth 16, r.cmd.tagAt r.head, .data⟩
theorem prismTail_pushed (s : State) (t : Nat) (e : EngineId) (r : CmdRun) (cur : (s.engine t e).cur = some r) (write : r.cmd.kind ≠ .write)
    (prism : r.cmd.kind ≠ .prism) (syn : r.cmd.kind ≠ .syn) (runs : s.engRuns t r.cmd = true) (all : r.total ≤ r.head * r.perTok)
    (room : s.destRoom t r.cmd = true) (via : r.cmd.viaPrism = true) (tail : (r.prog.getD 1 0).getLsbD 0 = true) (out : r.tailOut = false) :
    exec (.streamReadPush t e) s =
      .next (((s.destPush t r.cmd (tailTok r)).setRun t e { r with tailOut := true, head := r.head + 1 }).cmdProgress t r.cmd) := by
  have tail' : prismTail r.prog = true := by rw [prismTail, pbyte, BitVec.testBit_toNat]; exact tail
  have eq : exec (.streamReadPush t e) s = execStreamReadPush t e s := rfl
  rw [eq, execStreamReadPush, cur]
  simp only [write, prism, syn, runs, room, via, tail', out, Bool.not_true, Bool.not_false, Bool.false_eq_true, or_self, if_false, and_self, if_true,
    if_neg (Nat.not_lt.2 all)]
  rfl
theorem prismProgramsComputeUnits : Claims.PrismProgramsComputeUnits := by
  refine ⟨prismProgramComputesUnit, fun s t e r cur write prism syn runs all room via tail out =>
    ⟨tailTok r, prismTail_pushed s t e r cur write prism syn runs all room via tail out, rfl, rfl, rfl, rfl, fun j hj => ?_⟩⟩
  have word : (r.ps.toList.map (·.toNat)).getD j 0 = (vget r.ps j 0).toNat :=
    List.getD_map (l := r.ps.toList) (d := (0 : Lane)) (n := j) BitVec.toNat
  apply BitVec.eq_of_toNat_eq
  rw [BitVec.extractLsb'_toNat, Nat.shiftRight_eq_div_pow]
  refine (ofNat_div_mod _ _ (by omega)).trans ((unchunk_div_mod ..).trans ?_)
  rw [word]
  exact Nat.mod_eq_of_lt (vget r.ps j 0).isLt

end Sys2Proof.Proofs.PrismUnits
end

section
/-! PROOFS. The operations of a Prism cell (R287). -/
namespace Sys2Proof.Proofs.PrismCells
open Sys2Proof Sys2Proof.Machine Sys2Proof.Proofs.Bits
set_option Elab.async false

section
variable (imm : Nat) {a b : Nat} (ha : a < 2 ^ 32) (hb : b < 2 ^ 32)
include ha hb
theorem op_sub : BitVec.ofNat 32 (cellOp 2 imm a b) = BitVec.ofNat 32 a - BitVec.ofNat 32 b := by
  apply BitVec.eq_of_toNat_eq
  simp only [cellOp, unsgn, BitVec.toNat_ofNat, BitVec.toNat_sub]
  omega
theorem op_and : BitVec.ofNat 32 (cellOp 3 imm a b) = BitVec.ofNat 32 a &&& BitVec.ofNat 32 b := by
  apply BitVec.eq_of_toNat_eq
  simp only [cellOp, BitVec.toNat_ofNat, BitVec.toNat_and, Nat.mod_eq_of_lt ha, Nat.mod_eq_of_lt hb]
  exact Nat.mod_eq_of_lt (Nat.and_lt_two_pow _ hb)
theorem op_or : BitVec.ofNat 32 (cellOp 4 imm a b) = BitVec.ofNat 32 a ||| BitVec.ofNat 32 b := by
  apply BitVec.eq_of_toNat_eq
  simp only [cellOp, BitVec.toNat_ofNat, BitVec.toNat_or, Nat.mod_eq_of_lt ha, Nat.mod_eq_of_lt hb]
  exact Nat.mod_eq_of_lt (Nat.or_lt_two_pow ha hb)
theorem op_xor : BitVec.ofNat 32 (cellOp 5 imm a b) = BitVec.ofNat 32 a ^^^ BitVec.ofNat 32 b := by
  apply BitVec.eq_of_toNat_eq
  simp only [cellOp, BitVec.toNat_ofNat, BitVec.toNat_xor, Nat.mod_eq_of_lt ha, Nat.mod_eq_of_lt hb]
  exact Nat.mod_eq_of_lt (Nat.xor_lt_two_pow ha hb)
theorem op_shl : BitVec.ofNat 32 (cellOp 6 imm a b) = BitVec.ofNat 32 a <<< (b % 32) := by
  apply BitVec.eq_of_toNat_eq
  simp only [cellOp, BitVec.toNat_ofNat, BitVec.toNat_shiftLeft, Nat.mod_eq_of_lt ha, Nat.shiftLeft_eq, Nat.mod_mod]
theorem op_shr : BitVec.ofNat 32 (cellOp 7 imm a b) = BitVec.ofNat 32 a >>> (b % 32) := by
  apply BitVec.eq_of_toNat_eq
  simp only [cellOp, BitVec.toNat_ofNat, BitVec.toNat_ushiftRight, Nat.mod_eq_of_lt ha, Nat.shiftRight_eq_div_pow]
  exact Nat.mod_eq_of_lt (lt_of_le_of_lt (Nat.div_le_self ..) ha)
theorem op_sar : BitVec.ofNat 32 (cellOp 8 imm a b) = (BitVec.ofNat 32 a).sshiftRight (b % 32) := by
  have int : BitVec.ofNat 32 (unsgn 32 (sgn 32 a / ((2 ^ (b % 32) : Nat) : Int))) = BitVec.ofInt 32 (sgn 32 a / ((2 ^ (b % 32) : Nat) : Int)) := by
    apply BitVec.eq_of_toNat_eq
    rw [BitVec.toNat_ofNat, BitVec.toNat_ofInt]
    exact ElementOps.unsgn_mod 32 _
  rw [cellOp, int, Scratchpad.sgn_eq_toInt 32 a (by decide), BitVec.sshiftRight, Int.shiftRight_eq_div_pow]
theorem op_pair : BitVec.ofNat 32 (cellOp 16 imm a b) = (BitVec.ofNat 32 b).extractLsb' 0 16 ++ (BitVec.ofNat 32 a).extractLsb' 0 16 := by
  have low : a % 2 ^ 16 < 2 ^ 16 := Nat.mod_lt _ (by decide)
  apply BitVec.eq_of_toNat_eq
  rw [BitVec.toNat_append, ← Nat.shiftLeft_add_eq_or_of_lt (by simp only [BitVec.extractLsb'_toNat, BitVec.toNat_ofNat]; omega)]
  simp only [cellOp, BitVec.toNat_ofNat, BitVec.extractLsb'_toNat, Nat.mod_eq_of_lt ha, Nat.mod_eq_of_lt hb, Nat.shiftRight_zero, Nat.shiftLeft_eq]
  omega
theorem op_byte (k : Nat) (hk : k < 4) : cellOp 17 imm a b / 2 ^ (8 * k) % 256 = if k = imm % 4 then b % 256 else a / 2 ^ (8 * k) % 256 := by
  have hi : imm % 4 < 4 := Nat.mod_lt _ (by decide)
  simp only [cellOp]
  generalize imm % 4 = i at hi
  by_cases own : k = i
  · rw [if_pos own]
    subst own
    interval_cases k <;> simp only [Nat.reduceMul, Nat.reducePow] <;> omega
  · rw [if_neg own]
    interval_cases i <;> interval_cases k <;> simp only [Nat.reduceMul, Nat.reducePow] <;> omega
omit ha hb in
theorem op_crc : let crc := fun (r c : Nat) => (List.range 8).foldl (fun z _ => if z % 2 = 1 then z / 2 ^^^ 0x82F6_3B78 else z / 2) (r ^^^ c)
    cellOp 20 imm a b = crc (crc (crc (crc a (b % 256)) (b / 2 ^ 8 % 256)) (b / 2 ^ 16 % 256)) (b / 2 ^ 24 % 256) := by
  intro crc
  have byte : ∀ r c, crcByte r c = crc r c := fun r c => by
    rw [crcByte, upTo_eq_range]
    rfl
  simp only [← byte]
  show crcWord a b = _
  rw [crcWord, upTo_eq_range]
  simp only [List.range_succ, List.range_zero, List.nil_append, List.cons_append, List.foldl_cons, List.foldl_nil, Nat.mul_zero, Nat.pow_zero, Nat.div_one,
    Nat.mul_one, Nat.reduceMul]
end
theorem prismCellsComputeTheirOps : Claims.PrismCellsComputeTheirOps := by
  intro imm a b ha hb i byte x y op rne crc
  refine ⟨rfl, ?_, op_sub imm ha hb, op_and imm ha hb, op_or imm ha hb, op_xor imm ha hb, op_shl imm ha hb, op_shr imm ha hb, op_sar imm ha hb, ?_,
    rfl, op_pair imm ha hb, op_byte imm ha hb, rfl, rfl, op_crc imm, rfl, rfl, rfl, rfl, rfl, rfl, rfl⟩
  · apply BitVec.eq_of_toNat_eq
    simp [op, cellOp, x, y, Nat.add_mod]
  · apply BitVec.eq_of_toNat_eq
    simp [op, cellOp, x, y, Nat.mul_mod]

end Sys2Proof.Proofs.PrismCells
end

section
/-! PROOFS. The block compressor: the least mode that fits, and its decoding (R281 to R283). -/
namespace Sys2Proof.Proofs.Compressor
open Sys2Proof Sys2Proof.Machine Sys2Proof.Proofs.Bits
set_option Elab.async false

/-! ## Units and differences (R281) -/

/-- Unit i of n bytes of a block. -/
def unit (b : List Byte) (n i : Nat) : Nat := leNat ((b.drop (n * i)).take n)
theorem groupsOf_eq {α : Type} {n : Nat} (hn : 0 < n) (m : Nat) : ∀ (f : Nat) (l : List α), l.length = n * m → m ≤ f →
    groupsOf n f l = (List.range m).map fun i => (l.drop (n * i)).take n := by
  induction m with
  | zero =>
    intro f l h _
    obtain rfl : l = [] := List.eq_nil_of_length_eq_zero (by simpa using h)
    cases f <;> rfl
  | succ m ih =>
    intro f l h hf
    obtain ⟨f, rfl⟩ := Nat.exists_eq_succ_of_ne_zero (show f ≠ 0 by omega)
    have some : l.isEmpty = false := by
      rw [List.isEmpty_eq_false_iff, ← List.length_pos_iff, h, Nat.mul_succ]
      omega
    rw [groupsOf, some, if_neg (by decide), ih f (l.drop n) (by rw [List.length_drop, h, Nat.mul_succ]; omega) (by omega),
      List.range_succ_eq_map, List.map_cons, List.map_map, Nat.mul_zero, List.drop_zero]
    refine congrArg _ (List.map_congr_left fun i _ => ?_)
    rw [Function.comp, List.drop_drop, Nat.mul_succ, Nat.add_comm]
theorem flatten_groups {α : Type} {n : Nat} (m : Nat) : ∀ l : List α, l.length = n * m →
    ((List.range m).map fun i => (l.drop (n * i)).take n).flatten = l := by
  induction m with
  | zero =>
    intro l h
    exact (List.eq_nil_of_length_eq_zero (by simpa using h)).symm
  | succ m ih =>
    intro l h
    have rest := ih (l.drop n) (by rw [List.length_drop, h, Nat.mul_succ]; omega)
    have shift : (List.range m).map (fun i => ((l.drop n).drop (n * i)).take n) = (List.range m).map fun i => (l.drop (n * (i + 1))).take n :=
      List.map_congr_left fun i _ => by rw [List.drop_drop, Nat.mul_succ, Nat.add_comm]
    rw [List.range_succ_eq_map, List.map_cons, List.map_map, List.flatten_cons, Nat.mul_zero, List.drop_zero]
    refine (congrArg (l.take n ++ ·) (congrArg List.flatten shift).symm).trans ?_
    rw [rest, List.take_append_drop]
/-- The units of a block. -/
theorem groupNums_eq {b : List Byte} (hb : b.length = 256) {n m : Nat} (hn : 0 < n) (hm : n * m = 256) :
    groupNums n b = (List.range m).map (unit b n) := by
  have few : m ≤ 256 := by
    rw [← hm]
    exact Nat.le_mul_of_pos_left m hn
  rw [groupNums, groupsOf_eq hn m _ b (hb.trans hm.symm) (by rw [hb]; exact few), List.map_map]
  rfl
theorem deltas_eq (c : Nat) (l : List Nat) : deltas c l = (List.range (l.length - 1)).map fun i => sgn c (l.getD (i + 1) 0 + 2 ^ c - l.getD i 0) := by
  induction l with
  | nil => rfl
  | cons x r ih =>
    cases r with
    | nil => rfl
    | cons y r =>
      rw [deltas, ih]
      simp only [List.length_cons, Nat.add_sub_cancel]
      rw [List.range_succ_eq_map, List.map_cons, List.map_map]
      rfl
theorem blkDeltas_eq {b : List Byte} (hb : b.length = 256) {n m : Nat} (hn : 0 < n) (hm : n * m = 256) :
    blkDeltas n b = (List.range (m - 1)).map fun i => sgn (8 * n) (unit b n (i + 1) + 2 ^ (8 * n) - unit b n i) := by
  rw [blkDeltas, groupNums_eq hb hn hm, deltas_eq, List.length_map, List.length_range]
  refine List.map_congr_left fun i hi => ?_
  rw [List.mem_range] at hi
  rw [getD_map_range _ _ (by omega), getD_map_range _ _ (by omega)]

/-! ## The least width -/

/-- A width holds every difference. -/
def Holds (vs : List Int) (w : Nat) : Prop := ∀ v ∈ vs, -(2 ^ (w - 1) : Nat) ≤ v ∧ v < (2 ^ (w - 1) : Nat)
theorem all_iff_holds (vs : List Int) (w : Nat) :
    (vs.all fun v => decide (-(2 ^ (w - 1) : Nat) ≤ v ∧ v < (2 ^ (w - 1) : Nat))) = true ↔ Holds vs w := by
  simp only [List.all_eq_true, decide_eq_true_iff, Holds]
theorem leastWidth_some (vs : List Int) (v n : Nat) : ∀ w, leastWidth vs w n = some v ↔ w ≤ v ∧ v < w + n ∧ Holds vs v ∧ ∀ u, w ≤ u → u < v → ¬ Holds vs u := by
  induction n with
  | zero =>
    intro w
    constructor
    · intro h
      exact absurd h (by simp [leastWidth])
    · rintro ⟨a, b, -⟩
      omega
  | succ n ih =>
    intro w
    rw [leastWidth]
    by_cases h : Holds vs w
    · rw [if_pos ((all_iff_holds vs w).2 h), Option.some_inj]
      constructor
      · rintro rfl
        exact ⟨le_rfl, by omega, h, fun u a b => absurd a (by omega)⟩
      · rintro ⟨a, -, -, low⟩
        by_contra ne
        exact low w le_rfl (by omega) h
    · rw [if_neg (h ∘ (all_iff_holds vs w).1), ih]
      constructor
      · rintro ⟨a, b, c, low⟩
        refine ⟨by omega, by omega, c, fun u hu hv => ?_⟩
        by_cases e : u = w
        · exact e ▸ h
        · exact low u (by omega) hv
      · rintro ⟨a, b, c, low⟩
        have ne : w ≠ v := fun e => h (e ▸ c)
        exact ⟨by omega, by omega, c, fun u hu hv => low u (by omega) hv⟩
theorem leastWidth_none (vs : List Int) (n : Nat) : ∀ w, leastWidth vs w n = none ↔ ∀ u, w ≤ u → u < w + n → ¬ Holds vs u := by
  induction n with
  | zero => exact fun w => ⟨fun _ u a b => absurd b (by omega), fun _ => rfl⟩
  | succ n ih =>
    intro w
    rw [leastWidth]
    by_cases h : Holds vs w
    · rw [if_pos ((all_iff_holds vs w).2 h)]
      exact ⟨fun e => absurd e (by simp), fun low => absurd h (low w le_rfl (by omega))⟩
    · rw [if_neg (h ∘ (all_iff_holds vs w).1), ih]
      constructor
      · intro low u a b
        by_cases e : u = w
        · exact e ▸ h
        · exact low u (by omega) (by omega)
      · exact fun low u a b => low u (by omega) (by omega)

/-! ## The modes that fit (R282) -/

/-- The claim's reading of the differences. -/
def FitsWidth (b : List Byte) (n w : Nat) : Prop := ∀ i, 1 ≤ i → i < 256 / n →
  let d := (BitVec.ofNat (8 * n) (unit b n i + 2 ^ (8 * n) - unit b n (i - 1))).toInt
  d < (2 ^ (w - 1) : Nat) ∧ -(2 ^ (w - 1) : Nat) ≤ d
/-- The least width. -/
def Least (b : List Byte) (n w : Nat) : Prop := 1 ≤ w ∧ FitsWidth b n w ∧ ∀ v, 1 ≤ v → FitsWidth b n v → w ≤ v
theorem fitsWidth_iff {b : List Byte} (hb : b.length = 256) {n m : Nat} (hn : 0 < n) (hm : n * m = 256) (w : Nat) :
    FitsWidth b n w ↔ Holds (blkDeltas n b) w := by
  have size : 256 / n = m := Nat.div_eq_of_eq_mul_right hn hm.symm
  rw [blkDeltas_eq hb hn hm]
  simp only [Holds, FitsWidth, List.mem_map, List.mem_range, size, forall_exists_index, and_imp]
  constructor
  · rintro h _ i hi rfl
    rw [Scratchpad.sgn_eq_toInt _ _ (by omega)]
    exact (h (i + 1) (by omega) (by omega)).symm
  · intro h i low high
    have here := h _ (i - 1) (by omega) rfl
    rw [Scratchpad.sgn_eq_toInt _ _ (by omega), Nat.sub_add_cancel low] at here
    exact here.symm
theorem leastWidth_iff {b : List Byte} (hb : b.length = 256) {n m : Nat} (hn : 0 < n) (hm : n * m = 256) (most w : Nat) :
    leastWidth (blkDeltas n b) 1 most = some w ↔ w ≤ most ∧ Least b n w := by
  rw [leastWidth_some, Least, fitsWidth_iff hb hn hm]
  constructor
  · rintro ⟨one, top, holds, low⟩
    refine ⟨by omega, one, holds, fun v hv fits => ?_⟩
    by_contra less
    exact low v hv (by omega) ((fitsWidth_iff hb hn hm v).1 fits)
  · rintro ⟨top, one, holds, low⟩
    exact ⟨one, by omega, holds, fun u hu less fits => absurd (low u hu ((fitsWidth_iff hb hn hm u).2 fits)) (by omega)⟩
/-- The modes that fit a block, with their sizes. -/
def FitIs (b : List Byte) (m size : Nat) : Prop := (m = 0 ∧ nnz b = 0 ∧ size = 0) ∨ (m = 1 ∧ nnz b ≤ 128 ∧ size = 32 + nnz b) ∨
  (m = 2 ∧ ∃ w ≤ 19, Least b 4 w ∧ size = 5 + (63 * w + 7) / 8) ∨ (m = 3 ∧ ∃ w ≤ 9, Least b 2 w ∧ size = 3 + (127 * w + 7) / 8)
theorem mem_blkFits {b : List Byte} (hb : b.length = 256) (x : BlkMode × Nat) : x ∈ blkFits b ↔ FitIs b x.1.code x.2 := by
  have wide : ∀ (n most : Nat) (mode : BlkMode) (size : Nat → Nat), x ∈ (match leastWidth (blkDeltas n b) 1 most with
      | some w => [(mode, size w)] | none => []) ↔ x.1 = mode ∧ ∃ w, leastWidth (blkDeltas n b) 1 most = some w ∧ x.2 = size w := by
    intro n most mode size
    cases leastWidth (blkDeltas n b) 1 most with
    | none => simp
    | some w => simp [Prod.ext_iff]
  have four := wide 4 19 .delta32 fun w => 5 + (63 * w + 7) / 8
  have two := wide 2 9 .delta16 fun w => 3 + (127 * w + 7) / 8
  simp only [leastWidth_iff hb (n := 4) (m := 64) (by decide) (by decide)] at four
  simp only [leastWidth_iff hb (n := 2) (m := 128) (by decide) (by decide)] at two
  rw [blkFits, List.mem_append, List.mem_append, List.mem_append, or_assoc, or_assoc]
  refine or_congr ?_ (or_congr ?_ (or_congr ?_ ?_))
  · obtain ⟨mode, size⟩ := x
    by_cases h : nnz b = 0
    · rw [if_pos h]
      cases mode <;> simp [BlkMode.code, h]
    · rw [if_neg h]
      simp [h]
  · obtain ⟨mode, size⟩ := x
    by_cases h : nnz b ≤ 128
    · rw [if_pos h]
      cases mode <;> simp [BlkMode.code, h]
    · rw [if_neg h]
      simp [h]
  · refine four.trans (and_congr ?_ (exists_congr fun w => and_assoc))
    cases x.1 <;> simp [BlkMode.code]
  · refine two.trans (and_congr ?_ (exists_congr fun w => and_assoc))
    cases x.1 <;> simp [BlkMode.code]

/-! ## The mode chosen (R282) -/

/-- The mode kept of two, the first on a tie. -/
def pick (a : Option (BlkMode × Nat)) (x : BlkMode × Nat) : Option (BlkMode × Nat) :=
  match a with
  | none => some x
  | some y => if x.2 < y.2 then some x else some y
/-- A mode of less size, or of the same and no higher code. -/
def Beats (x y : BlkMode × Nat) : Prop := x.2 < y.2 ∨ (x.2 = y.2 ∧ x.1.code ≤ y.1.code)
theorem foldl_pick (l : List (BlkMode × Nat)) : ∀ a, (a :: l).Pairwise (fun x y => x.1.code < y.1.code) →
    ∃ x ∈ a :: l, l.foldl pick (some a) = some x ∧ ∀ y ∈ a :: l, Beats x y := by
  induction l with
  | nil =>
    intro a _
    exact ⟨a, .head _, rfl, fun y hy => by rw [List.mem_singleton.1 hy]; exact .inr ⟨rfl, le_rfl⟩⟩
  | cons b l ih =>
    intro a sorted
    obtain ⟨first, rest⟩ := List.pairwise_cons.1 sorted
    obtain ⟨second, rest'⟩ := List.pairwise_cons.1 rest
    have ab := first b (.head _)
    by_cases less : b.2 < a.2
    · obtain ⟨x, mem, eq, best⟩ := ih b rest
      refine ⟨x, .tail _ mem, (congrArg (l.foldl pick) (if_pos less)).trans eq, fun y hy => ?_⟩
      obtain rfl | hy := List.mem_cons.1 hy
      · obtain h | ⟨h, -⟩ := best b (.head _)
        · exact .inl (h.trans less)
        · exact .inl (h ▸ less)
      · exact best y hy
    · obtain ⟨x, mem, eq, best⟩ := ih a (List.pairwise_cons.2 ⟨fun y hy => first y (.tail _ hy), rest'⟩)
      refine ⟨x, ?_, (congrArg (l.foldl pick) (if_neg less)).trans eq, fun y hy => ?_⟩
      · obtain rfl | mem := List.mem_cons.1 mem
        · exact .head _
        · exact .tail _ (.tail _ mem)
      · obtain rfl | hy := List.mem_cons.1 hy
        · exact best y (.head _)
        · obtain rfl | hy := List.mem_cons.1 hy
          · obtain h | ⟨h, c⟩ := best a (.head _)
            · exact .inl (by omega)
            · by_cases same : a.2 = y.2
              · exact .inr ⟨h.trans same, c.trans (Nat.le_of_lt ab)⟩
              · exact .inl (by omega)
          · exact best y (.tail _ hy)
theorem blkFits_sorted (b : List Byte) : (blkFits b).Pairwise fun x y => x.1.code < y.1.code := by
  unfold blkFits
  cases leastWidth (blkDeltas 4 b) 1 19 <;> cases leastWidth (blkDeltas 2 b) 1 9 <;> by_cases zero : nnz b = 0 <;> by_cases few : nnz b ≤ 128 <;>
    simp [zero, few, BlkMode.code]
theorem chooseMode_eq (b : List Byte) : chooseMode b = ((blkFits b).foldl pick none).elim .escape (·.1) := rfl
/-- The mode chosen fits and is best, or none fits and it is ESCAPE. -/
theorem chooseMode_cases (b : List Byte) : (blkFits b = [] ∧ chooseMode b = .escape) ∨
    ∃ x ∈ blkFits b, chooseMode b = x.1 ∧ ∀ y ∈ blkFits b, Beats x y := by
  have sorted := blkFits_sorted b
  rw [chooseMode_eq]
  cases h : blkFits b with
  | nil => exact .inl ⟨rfl, rfl⟩
  | cons a l =>
    rw [h] at sorted
    obtain ⟨x, mem, eq, best⟩ := foldl_pick l a sorted
    refine .inr ⟨x, mem, ?_, best⟩
    show (l.foldl pick (some a)).elim BlkMode.escape (·.1) = x.1
    rw [eq]
    rfl
theorem encode_mode (b : List Byte) : (encodeBlock b).1 = chooseMode b := by
  unfold encodeBlock
  cases chooseMode b <;> rfl

/-! ## Slots -/

theorem fit_eq_append (n : Nat) : ∀ l : List Byte, l.length ≤ n → fit 0 n l = l ++ List.replicate (n - l.length) 0 := by
  induction n with
  | zero =>
    intro l h
    rw [List.eq_nil_of_length_eq_zero (Nat.le_zero.1 h)]
    rfl
  | succ n ih =>
    intro l h
    cases l with
    | nil =>
      refine (congrArg (List.cons (0 : Byte)) (ih [] (Nat.zero_le n))).trans ?_
      simp [List.replicate_succ]
    | cons x r =>
      refine (congrArg (List.cons x) (ih r (by simpa using h))).trans ?_
      simp
theorem rest_zero {l : List Byte} (h : l.length ≤ 160) : (((l ++ List.replicate (160 - l.length) (0 : Byte)).take 160).drop l.length).all (· = 0) = true := by
  rw [List.take_of_length_le (by rw [List.length_append, List.length_replicate]; omega), List.drop_left]
  simp
theorem getD_zero {l : List Byte} {n i : Nat} (h : l.length ≤ i) : (l ++ List.replicate n (0 : Byte)).getD i 0 = 0 := by
  rw [List.getD_append_right _ _ _ _ h, List.getD_eq_getElem?_getD, List.getElem?_replicate]
  split <;> rfl

/-! ## Sparse blocks -/

/-- The bitmap of a block. -/
def bitmap (b : List Byte) : List Nat := b.map fun x => if x = 0 then 0 else 1
theorem chunks_unchunk (w : Nat) (l : List Nat) : chunks w l.length (unchunk w l) = l.map (· % 2 ^ w) := by
  rw [chunks_eq_map]
  apply List.ext_getElem (by simp)
  intro k h _
  rw [List.length_map, List.length_range] at h
  rw [List.getElem_map, List.getElem_range, unchunk_div_mod, List.getD_eq_getElem _ _ h, List.getElem_map]
theorem bitmap_mod (b : List Byte) : (bitmap b).map (· % 2 ^ 1) = bitmap b := by
  rw [bitmap, List.map_map]
  refine List.map_congr_left fun x _ => ?_
  show (if x = 0 then 0 else 1) % 2 ^ 1 = if x = 0 then 0 else 1
  split <;> rfl
theorem popN_bitmap (b : List Byte) : popN b.length (unchunk 1 (bitmap b)) = nnz b := by
  induction b with
  | nil => rfl
  | cons x r ih =>
    have shift : unchunk 1 (bitmap (x :: r)) = (if x = 0 then 0 else 1) + 2 * unchunk 1 (bitmap r) := by
      show (if x = 0 then 0 else 1) % 2 ^ 1 + 2 ^ 1 * unchunk 1 (bitmap r) = _
      split <;> rfl
    rw [List.length_cons, popN, shift, nnz]
    by_cases h : x = 0
    · rw [if_pos h, show (0 + 2 * unchunk 1 (bitmap r)) / 2 = unchunk 1 (bitmap r) by omega, ih, List.filter_cons_of_neg (by rw [decide_eq_true_iff]; exact not_not.2 h), nnz]
      omega
    · rw [if_neg h, show (1 + 2 * unchunk 1 (bitmap r)) / 2 = unchunk 1 (bitmap r) by omega, ih, List.filter_cons_of_pos (by rwa [decide_eq_true_iff]), nnz,
        List.length_cons]
      omega
theorem scatter_bitmap (b : List Byte) : scatterBytes (bitmap b) (b.filter (· ≠ 0)) = b := by
  induction b with
  | nil => rfl
  | cons x r ih =>
    by_cases h : x = 0
    · subst h
      rw [List.filter_cons_of_neg (by simp)]
      exact congrArg (List.cons 0) ih
    · have one : bitmap (x :: r) = 1 :: bitmap r := congrArg (· :: bitmap r) (if_neg h)
      rw [List.filter_cons_of_pos (by rwa [decide_eq_true_iff]), one]
      exact congrArg (List.cons x) ih
theorem decode_sparse {b : List Byte} (hb : b.length = 256) (few : nnz b ≤ 128) :
    decodeBlock 1 (fit 0 160 (leBytes 32 (unchunk 1 (bitmap b)) ++ b.filter (· ≠ 0))) = some b := by
  have bits : (bitmap b).length = 256 := by rw [bitmap, List.length_map, hb]
  have small : unchunk 1 (bitmap b) < 256 ^ 32 := by
    have := unchunk_lt 1 (bitmap b)
    rwa [bits] at this
  have len : (leBytes 32 (unchunk 1 (bitmap b)) ++ b.filter (· ≠ 0)).length = 32 + nnz b := by rw [List.length_append, leBytes_length, nnz]
  have pop : popN 256 (unchunk 1 (bitmap b)) = nnz b := by rw [← hb]; exact popN_bitmap b
  have map : chunks 1 256 (unchunk 1 (bitmap b)) = bitmap b := by
    rw [← bits, chunks_unchunk, bitmap_mod]
  rw [fit_eq_append _ _ (by omega), decodeBlock]
  simp only [blkModeOf]
  have head : (leBytes 32 (unchunk 1 (bitmap b)) ++ b.filter (· ≠ 0) ++ List.replicate (160 - (leBytes 32 (unchunk 1 (bitmap b)) ++
      b.filter (· ≠ 0)).length) (0 : Byte)).take 32 = leBytes 32 (unchunk 1 (bitmap b)) := by
    rw [List.append_assoc, List.take_left' (leBytes_length ..)]
  have body : ((leBytes 32 (unchunk 1 (bitmap b)) ++ b.filter (· ≠ 0) ++ List.replicate (160 - (leBytes 32 (unchunk 1 (bitmap b)) ++
      b.filter (· ≠ 0)).length) (0 : Byte)).drop 32).take (nnz b) = b.filter (· ≠ 0) := by
    rw [List.append_assoc, List.drop_left' (leBytes_length ..), List.take_left' (by rw [nnz])]
  have zero := rest_zero (l := leBytes 32 (unchunk 1 (bitmap b)) ++ b.filter (· ≠ 0)) (by omega)
  rw [len] at zero
  rw [head, leNat_leBytes, Nat.mod_eq_of_lt small, pop, body, map, scatter_bitmap, len]
  exact if_pos (by rw [decide_eq_true few]; exact zero)

/-! ## Delta blocks -/

theorem leBytes_leNat (l : List Byte) : leBytes l.length (leNat l) = l := by
  induction l with
  | nil => rfl
  | cons b r ih =>
    have hb := b.isLt
    rw [List.length_cons, leBytes, leNat, show (b.toNat + 256 * leNat r) / 256 = leNat r by omega, ih]
    congr 1
    apply BitVec.eq_of_toNat_eq
    rw [BitVec.toNat_ofNat]
    omega
theorem unsgn_sgn (c z : Nat) : unsgn c (sgn c z) = z % 2 ^ c := by
  have pos := Nat.two_pow_pos c
  have low := Nat.mod_lt z pos
  have nat : ((z % 2 ^ c : Nat) : Int) % ((2 ^ c : Nat) : Int) = (z % 2 ^ c : Nat) := Int.emod_eq_of_lt (Int.natCast_nonneg _) (by exact_mod_cast low)
  unfold unsgn sgn
  split
  · rw [nat, Int.toNat_natCast]
  · rw [Int.sub_emod_right, nat, Int.toNat_natCast]
theorem sgn_unsgn {w : Nat} (hw : 1 ≤ w) {v : Int} (lo : -(2 ^ (w - 1) : Nat) ≤ v) (hi : v < (2 ^ (w - 1) : Nat)) : sgn w (unsgn w v) = v := by
  have two : 2 ^ w = 2 * 2 ^ (w - 1) := by rw [← pow_succ', Nat.sub_add_cancel hw]
  have mod : unsgn w v % 2 ^ w = unsgn w v := ElementOps.unsgn_mod w v
  unfold sgn
  rw [mod]
  by_cases neg : v < 0
  · have val : unsgn w v = (v + (2 ^ w : Nat)).toNat := by
      rw [unsgn, ← Int.add_emod_right, Int.emod_eq_of_lt (by omega) (by omega)]
    rw [if_neg (by omega)]
    omega
  · have val : unsgn w v = v.toNat := by rw [unsgn, Int.emod_eq_of_lt (by omega) (by omega)]
    rw [if_pos (by omega)]
    omega
theorem undelta_mod (c x : Nat) (l : List Nat) : undelta c (x % 2 ^ c) l = undelta c x l := by
  cases l <;> simp [undelta]
/-- Running sums of differences give the units back. -/
theorem undelta_deltas (c : Nat) (r : List Nat) : ∀ x, (∀ y ∈ x :: r, y < 2 ^ c) → undelta c x ((deltas c (x :: r)).map (unsgn c)) = x :: r := by
  induction r with
  | nil =>
    intro x h
    exact congrArg (· :: []) (Nat.mod_eq_of_lt (h x (.head _)))
  | cons y r ih =>
    intro x h
    have hx := h x (.head _)
    have hy := h y (.tail _ (.head _))
    have next : (x % 2 ^ c + unsgn c (sgn c (y + 2 ^ c - x))) % 2 ^ c = y := by
      rw [unsgn_sgn, Nat.mod_eq_of_lt hx, Nat.add_mod_mod, show x + (y + 2 ^ c - x) = y + 2 ^ c by omega, Nat.add_mod_right, Nat.mod_eq_of_lt hy]
    rw [deltas, List.map_cons, undelta, ← undelta_mod, next, ih y fun z hz => h z (.tail _ hz), Nat.mod_eq_of_lt hx]

/-- The image of a delta body decodes to the block. -/
theorem undeltaBody_deltaBody {b : List Byte} (hb : b.length = 256) {n m : Nat} (hn : 0 < n) (hm : n * (m + 1) = 256) {w : Nat} (hw : 1 ≤ w) (hw' : w ≤ 256)
    (holds : Holds (blkDeltas n b) w) (zeros : List Byte) (hz : leNat zeros = 0) : undeltaBody n m (deltaBody n w b ++ zeros) = b := by
  have count : (blkDeltas n b).length = m := by rw [blkDeltas_eq hb hn hm, List.length_map, List.length_range, Nat.add_sub_cancel]
  let value := unchunk w ((blkDeltas n b).map (unsgn w))
  let bytes := (m * w + 7) / 8
  have body : deltaBody n w b ++ zeros = leBytes 1 (w - 1) ++ (b.take n ++ (leBytes bytes value ++ zeros)) := by
    rw [deltaBody, count, List.append_assoc, List.append_assoc]
  have first : (b.take n).length = n := by
    rw [List.length_take, hb, Nat.min_eq_left]
    rw [← hm]
    exact Nat.le_mul_of_pos_right n (Nat.succ_pos m)
  have width : leNat ((deltaBody n w b ++ zeros).take 1) + 1 = w := by
    rw [body, List.take_left' (leBytes_length ..), leNat_leBytes, Nat.mod_eq_of_lt (by omega), Nat.sub_add_cancel hw]
  have head : ((deltaBody n w b ++ zeros).drop 1).take n = b.take n := by
    rw [body, List.drop_left' (leBytes_length ..), List.take_left' first]
  have small : value < 256 ^ bytes := by
    refine lt_of_lt_of_le (unchunk_lt ..) ?_
    rw [List.length_map, count, show (256 : Nat) = 2 ^ 8 from rfl, ← pow_mul]
    refine Nat.pow_le_pow_right (by decide) ?_
    rw [Nat.mul_comm w]
    show m * w ≤ 8 * ((m * w + 7) / 8)
    omega
  have rest : leNat ((deltaBody n w b ++ zeros).drop (1 + n)) = value := by
    rw [body, ← List.drop_drop, List.drop_left' (leBytes_length ..), List.drop_left' first, leNat_append, hz, Nat.mul_zero, Nat.add_zero, leNat_leBytes,
      Nat.mod_eq_of_lt small]
  have parts : chunks w m value = (blkDeltas n b).map (unsgn w) := by
    have := chunks_unchunk w ((blkDeltas n b).map (unsgn w))
    rw [List.length_map, count] at this
    refine this.trans ?_
    rw [List.map_map]
    exact List.map_congr_left fun v _ => ElementOps.unsgn_mod w v
  have signed : ((blkDeltas n b).map (unsgn w)).map (fun d => unsgn (8 * n) (sgn w d)) = (blkDeltas n b).map (unsgn (8 * n)) := by
    rw [List.map_map]
    exact List.map_congr_left fun v hv => congrArg (unsgn (8 * n)) (sgn_unsgn hw (holds v hv).1 (holds v hv).2)
  have units : groupNums n b = unit b n 0 :: ((List.range m).map fun i => unit b n (i + 1)) := by
    rw [groupNums_eq hb hn hm, List.range_succ_eq_map, List.map_cons, List.map_map]
    rfl
  have bound : ∀ y ∈ groupNums n b, y < 2 ^ (8 * n) := fun y hy => by
    rw [groupNums_eq hb hn hm, List.mem_map] at hy
    obtain ⟨i, -, rfl⟩ := hy
    refine lt_of_lt_of_le (leNat_lt _) ?_
    rw [pow_mul]
    exact Nat.pow_le_pow_right (by decide) (by rw [List.length_take]; omega)
  have sums : undelta (8 * n) (unit b n 0) ((blkDeltas n b).map (unsgn (8 * n))) = groupNums n b := by
    rw [units] at bound
    rw [blkDeltas, units]
    exact undelta_deltas (8 * n) _ _ bound
  have start : leNat (b.take n) = unit b n 0 := by rw [unit, Nat.mul_zero, List.drop_zero]
  unfold undeltaBody
  simp only [width, head, rest, parts, signed, start, sums]
  rw [groupNums_eq hb hn hm, List.map_map]
  refine Eq.trans (congrArg List.flatten (List.map_congr_left fun i hi => ?_)) (flatten_groups (m + 1) b (hb.trans hm.symm))
  rw [List.mem_range] at hi
  have len : ((b.drop (n * i)).take n).length = n := by
    rw [List.length_take, List.length_drop, hb, ← hm]
    have := Nat.mul_le_mul_left n (Nat.succ_le_of_lt hi)
    rw [Nat.mul_succ] at this
    omega
  have back := leBytes_leNat ((b.drop (n * i)).take n)
  rwa [len] at back
theorem leNat_replicate (n : Nat) : leNat (List.replicate n 0) = 0 := by
  induction n with
  | zero => rfl
  | succ n ih =>
    rw [List.replicate_succ, leNat, ih]
    rfl
theorem deltaBody_length {b : List Byte} (hb : b.length = 256) {n m : Nat} (hn : 0 < n) (hm : n * (m + 1) = 256) (w : Nat) :
    (deltaBody n w b).length = 1 + n + (m * w + 7) / 8 := by
  have count : (blkDeltas n b).length = m := by rw [blkDeltas_eq hb hn hm, List.length_map, List.length_range, Nat.add_sub_cancel]
  have first : n ≤ 256 := by
    rw [← hm]
    exact Nat.le_mul_of_pos_right n (Nat.succ_pos m)
  rw [deltaBody, List.length_append, List.length_append, leBytes_length, leBytes_length, List.length_take, hb, count, Nat.min_eq_left first]

theorem deltaBody_width {n w : Nat} (hw : 1 ≤ w) (hw' : w ≤ 256) (b zeros : List Byte) : leNat ((deltaBody n w b ++ zeros).take 1) + 1 = w := by
  rw [deltaBody, List.append_assoc, List.append_assoc, List.take_left' (leBytes_length ..), leNat_leBytes, Nat.mod_eq_of_lt (by omega),
    Nat.sub_add_cancel hw]
theorem decode_delta32 {b : List Byte} (hb : b.length = 256) {w : Nat} (hw : w ≤ 19) (least : Least b 4 w) :
    decodeBlock 2 (fit 0 160 (deltaBody 4 w b)) = some b := by
  obtain ⟨one, fits, -⟩ := least
  have len := deltaBody_length hb (n := 4) (m := 63) (by decide) (by decide) w
  have zero := rest_zero (l := deltaBody 4 w b) (by omega)
  rw [fit_eq_append _ _ (by omega), decodeBlock]
  simp only [blkModeOf, deltaBody_width one (show w ≤ 256 by omega)]
  refine (if_pos ?_).trans (congrArg some (undeltaBody_deltaBody hb (by decide) (by decide) one (by omega)
    ((fitsWidth_iff hb (by decide) (m := 64) (by decide) w).1 fits) _ (leNat_replicate _)))
  rw [decide_eq_true hw, Bool.true_and]
  rwa [len] at zero ⊢
theorem decode_delta16 {b : List Byte} (hb : b.length = 256) {w : Nat} (hw : w ≤ 9) (least : Least b 2 w) :
    decodeBlock 3 (fit 0 160 (deltaBody 2 w b)) = some b := by
  obtain ⟨one, fits, -⟩ := least
  have len := deltaBody_length hb (n := 2) (m := 127) (by decide) (by decide) w
  have zero := rest_zero (l := deltaBody 2 w b) (by omega)
  rw [fit_eq_append _ _ (by omega), decodeBlock]
  simp only [blkModeOf, deltaBody_width one (show w ≤ 256 by omega)]
  refine (if_pos ?_).trans (congrArg some (undeltaBody_deltaBody hb (by decide) (by decide) one (by omega)
    ((fitsWidth_iff hb (by decide) (m := 128) (by decide) w).1 fits) _ (leNat_replicate _)))
  rw [decide_eq_true hw, Bool.true_and]
  rwa [len] at zero ⊢

/-! ## The stored image (R282, R283) -/

theorem nnz_zero_block {b : List Byte} (hb : b.length = 256) (h : nnz b = 0) : b = List.replicate 256 0 := by
  have all : ∀ x ∈ b, x = 0 := fun x hx => by
    have none := List.eq_nil_of_length_eq_zero h
    rw [List.filter_eq_nil_iff] at none
    by_contra ne
    exact none x hx (by rwa [decide_eq_true_iff])
  rw [← hb]
  exact List.eq_replicate_of_mem all
/-- What an image of a mode is: its length, its size with zeros after it, and its decoding. -/
structure Stored (b : List Byte) (m size : Nat) (img : List Byte) : Prop where
  length : img.length = 160
  zeros : ∀ i, size ≤ i → i < 160 → img.getD i 0 = 0
  decodes : decodeBlock m img = some b
theorem stored_of {b l : List Byte} {m size : Nat} (len : l.length = size) (fits : size ≤ 160) (h : decodeBlock m (fit 0 160 l) = some b) :
    Stored b m size (fit 0 160 l) := by
  refine ⟨Ranked.fit_length .., fun i low _ => ?_, h⟩
  rw [fit_eq_append _ _ (by omega)]
  exact getD_zero (by omega)
/-- The image of a block in a mode. -/
def imageOf (b : List Byte) : BlkMode → BlkMode × List Byte
  | .zero => (.zero, fit 0 160 [])
  | .sparse => (.sparse, fit 0 160 (leBytes 32 (unchunk 1 (bitmap b)) ++ b.filter (· ≠ 0)))
  | .delta32 => (.delta32, fit 0 160 (deltaBody 4 ((leastWidth (blkDeltas 4 b) 1 19).getD 19) b))
  | .delta16 => (.delta16, fit 0 160 (deltaBody 2 ((leastWidth (blkDeltas 2 b) 1 9).getD 9) b))
  | .escape => (.escape, b)
theorem encodeBlock_eq (b : List Byte) : encodeBlock b = imageOf b (chooseMode b) := by
  rw [encodeBlock]
  cases chooseMode b <;> rfl
theorem encode_stored {b : List Byte} (hb : b.length = 256) {x : BlkMode × Nat} (mem : x ∈ blkFits b) (chosen : chooseMode b = x.1) :
    Stored b x.1.code x.2 (encodeBlock b).2 := by
  have is := (mem_blkFits hb x).1 mem
  rw [encodeBlock_eq, chosen]
  clear mem chosen
  obtain ⟨mode, size⟩ := x
  simp only at is ⊢
  obtain ⟨code, blank, rfl⟩ | ⟨code, few, rfl⟩ | ⟨code, w, hw, least, rfl⟩ | ⟨code, w, hw, least, rfl⟩ := is
  · cases mode with
    | zero =>
      refine stored_of rfl (Nat.zero_le _) ?_
      rw [fit_eq_append _ _ (Nat.zero_le _), nnz_zero_block hb blank]
      exact if_pos (e := none) (rest_zero (l := []) (Nat.zero_le _))
    | sparse | delta32 | delta16 | escape => exact absurd code (by decide)
  · cases mode with
    | sparse => exact stored_of (by rw [List.length_append, leBytes_length, nnz]) (by show 32 + nnz b ≤ 160; omega) (decode_sparse hb few)
    | zero | delta32 | delta16 | escape => exact absurd code (by decide)
  · cases mode with
    | delta32 =>
      rw [imageOf, (leastWidth_iff hb (n := 4) (m := 64) (by decide) (by decide) 19 w).2 ⟨hw, least⟩]
      exact stored_of (deltaBody_length hb (n := 4) (m := 63) (by decide) (by decide) w) (by show 5 + (63 * w + 7) / 8 ≤ 160; omega) (decode_delta32 hb hw least)
    | zero | sparse | delta16 | escape => exact absurd code (by decide)
  · cases mode with
    | delta16 =>
      rw [imageOf, (leastWidth_iff hb (n := 2) (m := 128) (by decide) (by decide) 9 w).2 ⟨hw, least⟩]
      exact stored_of (deltaBody_length hb (n := 2) (m := 127) (by decide) (by decide) w) (by show 3 + (127 * w + 7) / 8 ≤ 160; omega) (decode_delta16 hb hw least)
    | zero | sparse | delta32 | escape => exact absurd code (by decide)
/-- The size of a mode is determined. -/
theorem fitIs_unique {b : List Byte} {m n k : Nat} (h : FitIs b m n) (g : FitIs b m k) : n = k := by
  unfold FitIs at h g
  have same : ∀ {u v w : Nat}, Least b u v → Least b u w → v = w := fun a c => le_antisymm (a.2.2 _ c.1 c.2.1) (c.2.2 _ a.1 a.2.1)
  obtain ⟨rfl, -, rfl⟩ | ⟨rfl, -, rfl⟩ | ⟨rfl, v, -, lv, rfl⟩ | ⟨rfl, v, -, lv, rfl⟩ := h
  · obtain ⟨-, -, rfl⟩ | ⟨e, -⟩ | ⟨e, -⟩ | ⟨e, -⟩ := g
    · rfl
    all_goals exact absurd e (by decide)
  · obtain ⟨e, -⟩ | ⟨-, -, rfl⟩ | ⟨e, -⟩ | ⟨e, -⟩ := g
    · exact absurd e (by decide)
    · rfl
    all_goals exact absurd e (by decide)
  · obtain ⟨e, -⟩ | ⟨e, -⟩ | ⟨-, w, -, lw, rfl⟩ | ⟨e, -⟩ := g
    · exact absurd e (by decide)
    · exact absurd e (by decide)
    · rw [same lv lw]
    · exact absurd e (by decide)
  · obtain ⟨e, -⟩ | ⟨e, -⟩ | ⟨e, -⟩ | ⟨-, w, -, lw, rfl⟩ := g
    · exact absurd e (by decide)
    · exact absurd e (by decide)
    · exact absurd e (by decide)
    · rw [same lv lw]
/-- A mode that fits has a code below that of ESCAPE. -/
theorem fitIs_code {b : List Byte} {m n : Nat} (h : FitIs b m n) : m < 4 := by
  unfold FitIs at h
  omega
theorem fitIs_mem {b : List Byte} (hb : b.length = 256) {m n : Nat} (h : FitIs b m n) : ∃ x ∈ blkFits b, x.1.code = m ∧ x.2 = n := by
  have small := fitIs_code h
  have named : ∃ mode : BlkMode, mode.code = m := by
    interval_cases m
    · exact ⟨.zero, rfl⟩
    · exact ⟨.sparse, rfl⟩
    · exact ⟨.delta32, rfl⟩
    · exact ⟨.delta16, rfl⟩
  obtain ⟨mode, rfl⟩ := named
  exact ⟨(mode, n), (mem_blkFits hb _).2 h, rfl, rfl⟩
theorem compressorChoosesTheLeastMode : Claims.CompressorChoosesTheLeastMode := by
  intro b hb nz unit fits least fit_ m img
  have mode : m = (chooseMode b).code := congrArg BlkMode.code (encode_mode b)
  have is : ∀ k l, fit_ k l ↔ FitIs b k l := fun k l => Iff.rfl
  simp only [is]
  obtain ⟨none, escape⟩ | ⟨x, mem, chosen, best⟩ := chooseMode_cases b
  · have no : ∀ k l, ¬ FitIs b k l := fun k l h => by
      obtain ⟨y, hy, -⟩ := fitIs_mem hb h
      rw [none] at hy
      exact absurd hy (by simp)
    have four : m = 4 := by rw [mode, escape]; rfl
    have whole : img = b := by
      show (encodeBlock b).2 = b
      rw [encodeBlock, escape]
    refine ⟨.inl four, ⟨fun _ => no, fun _ => four⟩, fun n h => absurd h (no m n), ?_, fun n h => absurd h (no m n), ?_⟩
    · rw [whole, if_pos four, hb]
    · rw [whole, four]
      exact congrArg some (List.take_of_length_le (le_of_eq hb))
  · have own : FitIs b m x.2 := by
      rw [mode, chosen]
      exact (mem_blkFits hb x).1 mem
    have small := fitIs_code own
    obtain ⟨len, zeros, decodes⟩ := encode_stored hb mem chosen
    refine ⟨.inr ⟨x.2, own⟩, ⟨fun e => absurd e (by omega), fun none => absurd own (none _ _)⟩, fun n h k l g => ?_, ?_, fun n h i low high => ?_, ?_⟩
    · obtain ⟨y, hy, rfl, rfl⟩ := fitIs_mem hb g
      rw [fitIs_unique h own, mode, chosen]
      exact best y hy
    · rw [if_neg (by omega)]
      exact len
    · rw [fitIs_unique h own] at low
      exact zeros i low high
    · rw [mode, chosen]
      exact decodes

/-- Settles O12: Prism programs and their cells, and the compressor. -/
theorem prismAndCompressorFollowTheTables : Obligations.PrismAndCompressorFollowTheTables :=
  ⟨PrismUnits.prismProgramsComputeUnits, PrismCells.prismCellsComputeTheirOps, compressorChoosesTheLeastMode⟩

end Sys2Proof.Proofs.Compressor
end

section
/-! PROOFS. Fault rings: a record's layout and how rings take records (R359, R361). -/
namespace Sys2Proof.Proofs.FaultRings
open Sys2Proof Sys2Proof.Machine
open Sys2Proof.Proofs.Bits
set_option Elab.async false

/-! ## What a settle leaves unchanged -/

/-- Settling a region's own cycles changes the table of regions alone. -/
theorem settle_frame (s : State) (k : Nat) : ∃ rs, s.settle k = { s with regions := rs } := by
  unfold State.settle
  split
  · exact ⟨s.regions, rfl⟩
  · exact ⟨_, rfl⟩
/-- So does settling several. -/
theorem settles_frame (l : List Nat) (s : State) : ∃ rs, l.foldl (fun s k => s.settle k) s = { s with regions := rs } := by
  induction l generalizing s with
  | nil => exact ⟨s.regions, rfl⟩
  | cons k l ih =>
    obtain ⟨rs, h⟩ := settle_frame s k
    obtain ⟨qs, g⟩ := ih (s.settle k)
    exact ⟨qs, by rw [List.foldl_cons, g, h]⟩
theorem settleAll_frame (s : State) : ∃ rs, s.settleAll = { s with regions := rs } := settles_frame _ s

/-- A value changed at every key of an association list. -/
theorem alGet_map {α : Type} (f : α → α) (l : List (Nat × α)) (a : Nat) : alGet (l.map fun x => (x.1, f x.2)) a = (alGet l a).map f := by
  induction l with
  | nil => rfl
  | cons x l ih =>
    obtain ⟨k, x⟩ := x
    simp only [List.map_cons, alGet, ih]
    split <;> rfl

/-! ## Writing an entry -/

section
variable (s : State) (p : PartId) (pa : Nat) (r : FaultRec)
/-- An entry in HBM is written where its block passes its check, and faults otherwise. -/
theorem ringPut_hbm {a : Nat} (h : targetOf pa = .ok (.hbm a)) :
    s.ringPut p pa r = if s.hbmBad a 64 true then none else some (s.hbmPut 0 a (r.bytes.map fun b => some (b, false))) := by
  simp only [State.ringPut, h]
theorem ringPut_host {a : Nat} (h : targetOf pa = .ok (.host a)) :
    s.ringPut p pa r = some { s with hostOut := s.hostOut ++ [.write (s.hostFn p) a (r.bytes.map some) false] } := by
  simp only [State.ringPut, h]
theorem ringPut_error {f : Flt} (h : targetOf pa = .error f) : s.ringPut p pa r = none := by
  simp only [State.ringPut, h]
end

/-! ## A partition's ring -/

/-- The partition with its oldest entry written. -/
def popped (x : Part) (l : List FaultRec) : Part := { x with fq := l ++ x.fqHeld.take 1, fqHeld := x.fqHeld.drop 1, fqprod := x.fqprod + 1 }
/-- What stops the ring: the partition freezes, with machine-check reason 2. -/
def ringStop (s : State) (p : PartId) : State := (s.freezePart p).machineCheck p 2

section
variable {s : State} {p : PartId} {r : FaultRec} {l : List FaultRec}
theorem ringStep_empty (h : (s.part p).fq = []) : s.ringStep p = s := by simp only [State.ringStep, h]
theorem ringStep_frozen (h : (s.part p).frozen = true) : s.ringStep p = s := by
  cases e : (s.part p).fq <;> simp [State.ringStep, e, h]
variable (hq : (s.part p).fq = r :: l) (hf : (s.part p).frozen = false)
include hq hf
theorem ringStep_invalid (h : ringOk (s.part p).fqbase = false) : s.ringStep p = ringStop s p := by
  simp [State.ringStep, hq, hf, h, ringStop]
theorem ringStep_full (h : ringOk (s.part p).fqbase = true) (g : ringFull (s.part p).fqbase (s.part p).fqprod (s.part p).fqcons = true) :
    s.ringStep p = s := by
  simp [State.ringStep, hq, h, g]
variable (ho : ringOk (s.part p).fqbase = true) (hr : ringFull (s.part p).fqbase (s.part p).fqprod (s.part p).fqcons = false)
include ho hr
theorem ringStep_refused {f : Flt} (h : s.stage2 p (ringAt (s.part p).fqbase (s.part p).fqprod) = .error f) : s.ringStep p = ringStop s p := by
  simp [State.ringStep, hq, hf, ho, hr, h, ringStop]
theorem ringStep_readOnly {pa : Nat} (h : s.stage2 p (ringAt (s.part p).fqbase (s.part p).fqprod) = .ok (pa, false)) :
    s.ringStep p = ringStop s p := by
  simp [State.ringStep, hq, hf, ho, hr, h, ringStop]
variable {pa : Nat} (hs : s.stage2 p (ringAt (s.part p).fqbase (s.part p).fqprod) = .ok (pa, true))
include hs
theorem ringStep_waits (h : s.ringWaits p pa = true) : s.ringStep p = s := by
  simp [State.ringStep, hq, hf, ho, hr, hs, h]
theorem ringStep_fault (h : s.ringWaits p pa = false) (g : s.ringPut p pa r = none) : s.ringStep p = ringStop s p := by
  simp [State.ringStep, hq, hf, ho, hr, hs, h, g, ringStop]
theorem ringStep_put (h : s.ringWaits p pa = false) {u : State} (g : s.ringPut p pa r = some u) :
    s.ringStep p = (u.setPart p (popped (s.part p) l)).fqIrq p := by
  simp [State.ringStep, hq, hf, ho, hr, hs, h, g, fqPop, popped]
end

theorem exec_fqRingWrite {p : PartId} (s : State) (h : p ≠ 0) : exec (.fqRingWrite p) s = .next (s.ringStep p) := by
  change (.next (if p = 0 then s.monStep else s.ringStep p) : Out) = _
  rw [if_neg h]
theorem exec_fqRingWrite_monitor (s : State) : exec (.fqRingWrite 0) s = .next s.monStep := rfl

/-! ## The monitor's ring -/

section
variable {s : State} {r : FaultRec} {l : List FaultRec}
theorem monStep_idle (h : s.mfq = [] ∨ s.mfull = true) : s.monStep = s := by
  unfold State.monStep
  cases e : s.mfq with
  | nil => rfl
  | cons r l =>
    have hf : s.mfull = true := h.resolve_left (by simp [e])
    simp [hf]
variable (hq : s.mfq = r :: l) (hf : s.mfull = false)
include hq hf
theorem monStep_invalid (h : ringOk s.mfqbase = false) : s.monStep = State.machineCheck { s.settleAll with mfull := true } 0 2 := by
  simp [State.monStep, hq, hf, h]
theorem monStep_full (h : ringOk s.mfqbase = true) (g : ringFull s.mfqbase s.mfqprod s.mfqcons = true) : s.monStep = s := by
  simp [State.monStep, hq, h, g]
theorem monStep_put (ho : ringOk s.mfqbase = true) (hr : ringFull s.mfqbase s.mfqprod s.mfqcons = false) {a : Nat}
    (ht : targetOf (ringAt s.mfqbase s.mfqprod) = .ok (.hbm a)) (hb : s.hbmBad a 64 true = false) :
    s.monStep = { s.hbmPut 0 a (r.bytes.map fun b => some (b, false)) with
      mfq := l ++ s.mfqHeld.take 1, mfqHeld := s.mfqHeld.drop 1, mfqprod := s.mfqprod + 1 } := by
  have hp : s.ringPut 0 (ringAt s.mfqbase s.mfqprod) r = some (s.hbmPut 0 a (r.bytes.map fun b => some (b, false))) := by
    rw [ringPut_hbm s 0 _ r ht, hb]; rfl
  unfold State.monStep
  simp only [hq, hf, ho, hr, hp, fqPop, State.hbmPut, State.hbmWrite]
  rfl
end

/-! ## MCSTAT -/

/-- Clearing MCSTAT lets every partition run, and leaves tiles and HBM as they are. -/
theorem mcstatClear_thaws (s : State) (p : PartId) :
    ∃ u, exec .mcstatClear s = .next u ∧ u.mcValid = false ∧ u.mfull = false ∧ (u.part p).frozen = false ∧ u.tiles = s.tiles ∧ u.hbm = s.hbm := by
  obtain ⟨rs, h⟩ := settleAll_frame s
  refine ⟨_, rfl, rfl, rfl, ?_, by rw [h], by rw [h]⟩
  change ((alGet (s.settleAll.parts.map fun (x : Nat × Part) => (x.1, { x.2 with frozen := false })) p.toNat).getD {}).frozen = false
  rw [alGet_map fun x : Part => { x with frozen := false }]
  cases alGet s.settleAll.parts p.toNat <;> rfl

theorem faultRingsTakeRecords : Claims.FaultRingsTakeRecords := by
  intro s p r l x at_ mat bytes tells stops
  refine ⟨fun hp hq hf => ?_, fun hp h => ?_, fun h => ?_, fun hq hf ho => ⟨fun hr => ?_, fun hr a ht hb => ?_⟩, fun hq hf ho => ?_,
    mcstatClear_thaws s p⟩
  · have run : ∀ {u}, s.ringStep p = u → exec (.fqRingWrite p) s = .next u := fun e => by rw [exec_fqRingWrite s hp, e]
    refine ⟨fun ho => run (ringStep_invalid hq hf ho), fun ho hr => run (ringStep_full hq hf ho hr), fun ho hr =>
      ⟨fun f h => run (ringStep_refused hq hf ho hr h), fun pa h => run (ringStep_readOnly hq hf ho hr h), fun pa hs =>
        ⟨fun hw => run (ringStep_waits hq hf ho hr hs hw), fun hw => ⟨fun a ht hb => ?_, fun a ht hb => ?_, fun a ht => ?_, fun f ht => ?_⟩⟩⟩⟩
    · exact run (ringStep_put hq hf ho hr hs hw (by rw [ringPut_hbm s p pa r ht, hb]; rfl))
    · exact run (ringStep_fault hq hf ho hr hs hw (by rw [ringPut_hbm s p pa r ht, hb]; rfl))
    · exact run (ringStep_put hq hf ho hr hs hw (ringPut_host s p pa r ht))
    · exact run (ringStep_fault hq hf ho hr hs hw (ringPut_error s p pa r ht))
  · rw [exec_fqRingWrite s hp, h.elim ringStep_empty ringStep_frozen]
  · rw [exec_fqRingWrite_monitor, monStep_idle h]
  · rw [exec_fqRingWrite_monitor, monStep_full hq hf ho hr]
  · rw [exec_fqRingWrite_monitor, monStep_put hq hf ho hr ht hb]
  · rw [exec_fqRingWrite_monitor, monStep_invalid hq hf ho]

/-! ## The layout of a record -/

/-- A field below bit 64 lies in the low doubleword. -/
theorem fld_low (a b : Nat) {hi lo : Nat} (h : hi < 64) (l : lo ≤ hi) : fld (a + 2 ^ 64 * b) hi lo = fld a hi lo := by
  unfold fld
  have e : 2 ^ 64 = 2 ^ lo * (2 ^ (hi + 1 - lo) * 2 ^ (63 - hi)) := by rw [← pow_add, ← pow_add]; congr 1; omega
  rw [e, Nat.mul_assoc, Nat.mul_assoc, Nat.add_mul_div_left _ _ (Nat.two_pow_pos lo), Nat.add_mul_mod_self_left]
/-- A field above it lies in the others. -/
theorem fld_high {a : Nat} (b : Nat) {hi lo : Nat} (h : a < 2 ^ 64) : fld (a + 2 ^ 64 * b) (hi + 64) (lo + 64) = fld b hi lo := by
  unfold fld
  rw [Nat.pow_add, Nat.mul_comm (2 ^ lo), ← Nat.div_div_eq_div_mul, Nat.add_mul_div_left _ _ (by decide), Nat.div_eq_of_lt h, Nat.zero_add]
  congr 2
  omega

/-- The doublewords of a record as one number, low one first. -/
def joined (l : List Nat) : Nat := l.foldr (fun w n => w + 2 ^ 64 * n) 0
/-- The bytes of doublewords read as one number. -/
theorem leNat_doublewords {l : List Nat} (h : ∀ w ∈ l, w < 2 ^ 64) : leNat (l.map (leBytes 8)).flatten = joined l := by
  induction l with
  | nil => rfl
  | cons w l ih =>
    have hw : w % 256 ^ 8 = w := Nat.mod_eq_of_lt (h w (by simp))
    have hl := ih fun v m => h v (by simp [m])
    rw [List.map_cons, List.flatten_cons, leNat_append, leNat_leBytes, hw, leBytes_length, hl]
    rfl
theorem bytes_length (r : FaultRec) : r.bytes.length = 64 := by
  simp [FaultRec.bytes, FaultRec.words]
/-- A field of one doubleword of the record. -/
theorem fld_joined {l : List Nat} (h : ∀ w ∈ l, w < 2 ^ 64) (k hi lo : Nat) (hh : hi < 64) (hl : lo ≤ hi) :
    fld (joined l) (hi + 64 * k) (lo + 64 * k) = fld (l.getD k 0) hi lo := by
  induction l generalizing k with
  | nil => simp [joined, fld]
  | cons w l ih =>
    cases k with
    | zero => exact fld_low w (joined l) hh hl
    | succ k =>
      have e : fld (joined (w :: l)) (hi + 64 * k + 64) (lo + 64 * k + 64) = fld (joined l) (hi + 64 * k) (lo + 64 * k) :=
        fld_high (joined l) (h w (by simp))
      exact e.trans (ih (fun v m => h v (by simp [m])) k)

theorem doubleword_lt {a b : Nat} (ha : a < 2 ^ 32) (hb : b < 2 ^ 32) : a * 2 ^ 32 + b < 2 ^ 64 := by
  simp only [Nat.reducePow] at *
  omega
/-- The halves of a doubleword. -/
theorem fld_halves {a b : Nat} (ha : a < 2 ^ 32) (hb : b < 2 ^ 32) : fld (a * 2 ^ 32 + b) 63 32 = a ∧ fld (a * 2 ^ 32 + b) 31 0 = b := by
  unfold fld
  simp only [Nat.reduceSub, Nat.reduceAdd, Nat.reducePow] at *
  omega
/-- The version's doubleword: the version above, the window below, and no other bit. -/
theorem fld_version {a b : Nat} (ha : a < 2 ^ 32) (hb : b < 2 ^ 16) :
    fld (a * 2 ^ 32 + b) 63 32 = a ∧ fld (a * 2 ^ 32 + b) 15 0 = b ∧ fld (a * 2 ^ 32 + b) 31 16 = 0 := by
  unfold fld
  simp only [Nat.reduceSub, Nat.reduceAdd, Nat.reducePow] at *
  omega
/-- The first doubleword's fields, bits 41, 40 and 7 to 0 zero. -/
theorem fld_first {kind gen sub part ly lx region : Nat} (h1 : kind < 2 ^ 8) (h2 : gen < 2 ^ 4) (h3 : sub < 2 ^ 4) (h4 : part < 2 ^ 6)
    (h5 : ly < 2 ^ 8) (h6 : lx < 2 ^ 8) (h7 : region < 2 ^ 16) :
    let w := kind * 2 ^ 56 + gen * 2 ^ 52 + sub * 2 ^ 48 + part * 2 ^ 42 + ly * 2 ^ 32 + lx * 2 ^ 24 + region * 256
    w < 2 ^ 64 ∧ fld w 63 56 = kind ∧ fld w 55 52 = gen ∧ fld w 51 48 = sub ∧ fld w 47 42 = part ∧ fld w 39 32 = ly ∧ fld w 31 24 = lx ∧
      fld w 23 8 = region ∧ fld w 41 40 = 0 ∧ fld w 7 0 = 0 := by
  intro w
  unfold fld
  simp only [w, Nat.reduceSub, Nat.reduceAdd, Nat.reducePow] at *
  omega

/-- Every doubleword of a record fits. -/
theorem words_lt (r : FaultRec) : ∀ w ∈ r.words, w < 2 ^ 64 := by
  have halves : ∀ a b : BitVec 32, a.toNat * 2 ^ 32 + b.toNat < 2 ^ 64 := fun a b => doubleword_lt a.isLt b.isLt
  have first := (fld_first r.kind.isLt r.gen.isLt r.sub.isLt r.part.isLt r.ly.isLt r.lx.isLt r.region.isLt).1
  have version : r.ver.toNat * 2 ^ 32 + r.vwin.toNat < 2 ^ 64 := doubleword_lt r.ver.isLt (r.vwin.isLt.trans (by norm_num))
  have seq : r.seq.toNat * 2 ^ 32 < 2 ^ 64 := by simpa using doubleword_lt r.seq.isLt (Nat.two_pow_pos 32)
  simp only [FaultRec.words, List.mem_cons, List.not_mem_nil, or_false]
  rintro w (rfl | rfl | rfl | rfl | rfl | rfl | rfl | rfl)
  · exact first
  · exact r.va.isLt
  · exact version
  · exact halves ..
  · exact halves ..
  · exact halves ..
  · exact halves ..
  · exact seq

theorem recordLayoutIsTheTable : Claims.RecordLayoutIsTheTable := by
  intro r n
  have hn : n = joined r.words := leNat_doublewords (words_lt r)
  have at_ : ∀ k hi lo, hi < 64 → lo ≤ hi → fld n (hi + 64 * k) (lo + 64 * k) = fld (r.words.getD k 0) hi lo := fun k hi lo hh hl => by
    rw [hn]; exact fld_joined (words_lt r) k hi lo hh hl
  obtain ⟨-, kind, gen, sub, part, ly, lx, region, z1, z2⟩ :=
    fld_first r.kind.isLt r.gen.isLt r.sub.isLt r.part.isLt r.ly.isLt r.lx.isLt r.region.isLt
  obtain ⟨ver, vwin, z3⟩ := fld_version r.ver.isLt r.vwin.isLt
  obtain ⟨index, aux⟩ := fld_halves r.index.isLt r.aux.isLt
  obtain ⟨c1, c0⟩ := fld_halves r.c1.isLt r.c0.isLt
  obtain ⟨c3, c2⟩ := fld_halves r.c3.isLt r.c2.isLt
  obtain ⟨word, c4⟩ := fld_halves r.word.isLt r.c4.isLt
  obtain ⟨seq, z4⟩ := fld_halves r.seq.isLt (Nat.two_pow_pos 32)
  rw [Nat.add_zero] at seq z4
  have va : fld r.va.toNat 63 0 = r.va.toNat := by
    rw [fld, Nat.pow_zero, Nat.div_one, Nat.mod_eq_of_lt r.va.isLt]
  refine ⟨bytes_length r, ?_⟩
  exact ⟨(at_ 0 63 56 (by decide) (by decide)).trans kind, (at_ 0 55 52 (by decide) (by decide)).trans gen,
    (at_ 0 51 48 (by decide) (by decide)).trans sub, (at_ 0 47 42 (by decide) (by decide)).trans part,
    (at_ 0 39 32 (by decide) (by decide)).trans ly, (at_ 0 31 24 (by decide) (by decide)).trans lx,
    (at_ 0 23 8 (by decide) (by decide)).trans region, (at_ 1 63 0 (by decide) (by decide)).trans va,
    (at_ 2 63 32 (by decide) (by decide)).trans ver, (at_ 2 15 0 (by decide) (by decide)).trans vwin,
    (at_ 3 63 32 (by decide) (by decide)).trans index, (at_ 3 31 0 (by decide) (by decide)).trans aux,
    (at_ 4 31 0 (by decide) (by decide)).trans c0, (at_ 4 63 32 (by decide) (by decide)).trans c1,
    (at_ 5 31 0 (by decide) (by decide)).trans c2, (at_ 5 63 32 (by decide) (by decide)).trans c3,
    (at_ 6 31 0 (by decide) (by decide)).trans c4, (at_ 6 63 32 (by decide) (by decide)).trans word,
    (at_ 7 63 32 (by decide) (by decide)).trans seq, (at_ 0 41 40 (by decide) (by decide)).trans z1,
    (at_ 0 7 0 (by decide) (by decide)).trans z2, (at_ 2 31 16 (by decide) (by decide)).trans z3,
    (at_ 7 31 0 (by decide) (by decide)).trans z4⟩

/-- Settles O42: the two rings by the cases of their checks, and the record by its doublewords. -/
theorem faultRecordsReachTheirRing : Obligations.FaultRecordsReachTheirRing := ⟨faultRingsTakeRecords, recordLayoutIsTheTable⟩

end Sys2Proof.Proofs.FaultRings
end

section
/-! PROOFS. The controller's commands on trapped tasks and committed regions (R363, R366, R367). -/
namespace Sys2Proof.Proofs.Commands
open Sys2Proof Sys2Proof.Machine
set_option Elab.async false

/-- A partition's REFUSED bit as the last command leaves it. -/
theorem refusedBit_part (s : State) {p : PartId} (h : p ≠ 0) (on : Bool) :
    s.refusedBit p on = s.modPart p fun x => { x with refused := on } := by rw [State.refusedBit, if_neg h]

section
variable {s : State} {p : PartId} {c : TaskRef} (ok : BitVec 2 → Bool) (f : Nat → SlotId → State → State)
/-- A command on a region that is not committed is refused. -/
theorem taskCmd_noRegion (h : s.regionById p c.region = none) : s.taskCmd p c ok f = s.refusedBit p true := by
  simp only [State.taskCmd, h]
variable {r : Region} (hr : s.regionById p c.region = some r)
include hr
/-- So is one on a place that the region does not bind. -/
theorem taskCmd_noPlace (h : r.binds.find? (fun b => b.lx == c.lx && b.ly == c.ly) = none) : s.taskCmd p c ok f = s.refusedBit p true := by
  simp only [State.taskCmd, hr, h]
variable {b : Machine.Bind} (hb : r.binds.find? (fun b => b.lx == c.lx && b.ly == c.ly) = some b)
include hb
/-- So is one on a slot without a trapped task. -/
theorem taskCmd_noTask (h : c.slot = 15 ∨ physSlot b.tmask c.slot.toNat = 15 ∨ (s.task b.tile (physSlot b.tmask c.slot.toNat)).st ≠ .trapped) :
    s.taskCmd p c ok f = s.refusedBit p true := by
  simp only [State.taskCmd, hr, hb]
  exact if_pos (h.imp_right fun h => h.imp_right Or.inl)
/-- So is one that the region does not allow. -/
theorem taskCmd_bad (h : ok r.fold = false) : s.taskCmd p c ok f = s.refusedBit p true := by
  simp only [State.taskCmd, hr, hb, h]
  exact if_pos (by simp)
/-- Any other acts on the task. -/
theorem taskCmd_acts (h15 : c.slot ≠ 15) (hk : physSlot b.tmask c.slot.toNat ≠ 15) (ht : (s.task b.tile (physSlot b.tmask c.slot.toNat)).st = .trapped)
    (h : ok r.fold = true) : s.taskCmd p c ok f = f b.tile (physSlot b.tmask c.slot.toNat) (s.refusedBit p false) := by
  simp only [State.taskCmd, hr, hb, h]
  exact if_neg fun e => e.elim h15 fun e => e.elim hk fun e => e.elim (fun e => e ht) (by simp)
end

section
variable (s : State) (p : PartId) (c : TaskRef) (pc : BitVec 13)
theorem exec_taskcmdResumeTpc : exec (.taskcmdResumeTpc p c) s = .next (s.taskCmd p c (fun _ => true) fun t k s =>
    s.modTask t k fun y => { y with st := .ready, pc := bfld y.tpc 12 0, tcause := 0 }) := rfl
theorem exec_taskcmdResumePc : exec (.taskcmdResumePc p c pc) s = .next (s.taskCmd p c (fun fold => decide (pc.toNat < instrLimit fold false))
    fun t k s => s.modTask t k fun y => { y with st := .ready, pc := pc.toNat }) := rfl
theorem exec_taskcmdEnd : exec (.taskcmdEnd p c) s = .next (s.taskCmd p c (fun _ => true) fun t k s => s.endTask t k) := rfl
end

/-- A task that the controller ended is retired. -/
theorem endTask_retired (s : State) (t : Nat) (k : SlotId) : ((s.endTask t k).task t k).st = .retired := by
  simp only [State.endTask, modLt_eq, modTask_eq, task_setLt, task_setTask_same]

/-- What refuses every TASKCMD alike refuses each. -/
theorem taskcmds_refused {s : State} {p : PartId} {c : TaskRef} {pc : BitVec 13} (hp : p ≠ 0)
    (h : ∀ ok f, s.taskCmd p c ok f = s.refusedBit p true) : ∀ i ∈ [Instr.taskcmdResumeTpc p c, .taskcmdResumePc p c pc, .taskcmdEnd p c],
      exec i s = .next (s.modPart p fun x => { x with refused := true }) := by
  simp only [List.mem_cons, List.not_mem_nil, or_false]
  rintro i (rfl | rfl | rfl)
  · rw [exec_taskcmdResumeTpc, h, refusedBit_part s hp]
  · rw [exec_taskcmdResumePc, h, refusedBit_part s hp]
  · rw [exec_taskcmdEnd, h, refusedBit_part s hp]

theorem taskCommandsActOnTrappedTasks : Claims.TaskCommandsActOnTrappedTasks := by
  intro s p c pc hp u refused all
  refine ⟨fun h => taskcmds_refused hp fun ok f => taskCmd_noRegion ok f h, fun r hr =>
    ⟨fun h => taskcmds_refused hp fun ok f => taskCmd_noPlace ok f hr h, fun b hb => ?_⟩⟩
  intro k
  refine ⟨fun h => taskcmds_refused hp fun ok f => taskCmd_noTask ok f hr hb h, fun h15 hk ht => ⟨?_, fun hl => ?_, fun hl => ?_, ?_, ?_⟩⟩
  · rw [exec_taskcmdResumeTpc, taskCmd_acts _ _ hr hb h15 hk ht rfl, refusedBit_part s hp]
  · rw [exec_taskcmdResumePc, taskCmd_acts _ _ hr hb h15 hk ht (decide_eq_true hl), refusedBit_part s hp]
  · change exec _ s = _
    rw [exec_taskcmdResumePc, taskCmd_bad _ _ hr hb (decide_eq_false (Nat.not_lt.mpr hl)), refusedBit_part s hp]
  · rw [exec_taskcmdEnd, taskCmd_acts _ _ hr hb h15 hk ht rfl, refusedBit_part s hp]
  · exact endTask_retired u b.tile k

/-- A command on a committed region changes it; on none it is refused. -/
theorem ckCmd_region {s : State} {p : PartId} {id : BitVec 16} {r : Region} (hp : p ≠ 0) (f : Region → Region) (h : s.regionById p id = some r) :
    s.ckCmd p id f = (s.modRegion r.key f).modPart p fun x => { x with refused := false } := by
  simp only [State.ckCmd, h, refusedBit_part _ hp]
theorem ckCmd_none {s : State} {p : PartId} {id : BitVec 16} (hp : p ≠ 0) (f : Region → Region) (h : s.regionById p id = none) :
    s.ckCmd p id f = s.modPart p fun x => { x with refused := true } := by
  simp only [State.ckCmd, h, refusedBit_part _ hp]
theorem exec_ckcmdCheckpoint (s : State) (p : PartId) (rg : BitVec 16) :
    exec (.ckcmdCheckpoint p rg) s = .next (s.ckCmd p rg fun r => { r with ckReq := true }) := rfl
theorem exec_ckcmdRollback (s : State) (p : PartId) (rg : BitVec 16) :
    exec (.ckcmdRollback p rg) s = .next (s.ckCmd p rg fun r => { r with rbReq := true }) := rfl

theorem checkpointCommandsMarkTheRegion : Claims.CheckpointCommandsMarkTheRegion := by
  intro s p rg hp
  refine ⟨fun r h => ⟨?_, ?_⟩, fun h => ?_⟩
  · rw [exec_ckcmdCheckpoint, ckCmd_region hp _ h]
  · rw [exec_ckcmdRollback, ckCmd_region hp _ h]
  · simp only [List.mem_cons, List.not_mem_nil, or_false]
    rintro i (rfl | rfl)
    · rw [exec_ckcmdCheckpoint, ckCmd_none hp _ h]
    · rw [exec_ckcmdRollback, ckCmd_none hp _ h]

/-- Settles O44, by the cases of the region, the place and the task. -/
theorem controllerCommandsActOnTasks : Obligations.ControllerCommandsActOnTasks := ⟨taskCommandsActOnTrappedTasks, checkpointCommandsMarkTheRegion⟩

end Sys2Proof.Proofs.Commands
end

section
/-! PROOFS. FQRES: RETRY, CANCEL, ALT and END on a standing record (R107, R110, R231, R362). -/
namespace Sys2Proof.Proofs.FaultRes
open Sys2Proof Sys2Proof.Machine
set_option Elab.async false

/-- A command on a standing record acts with the record struck out. -/
theorem resolve_standing {s : State} {p : PartId} {seq : BitVec 32} {r : StopRec} (h : s.standing p seq = some r) (f : StopRec → State → State) :
    s.resolve p seq f = f r ((s.unstop r.what).refusedBit p false) := by simp only [State.resolve, h]
/-- A command on none is refused. -/
theorem resolve_none {s : State} {p : PartId} {seq : BitVec 32} (h : s.standing p seq = none) (f : StopRec → State → State) :
    s.resolve p seq f = s.refusedBit p true := by simp only [State.resolve, h]

section
variable (s : State) (p : PartId) (seq : BitVec 32)
theorem exec_fqresRetry : exec (.fqresRetry p seq) s = .next (s.resolve p seq retryStop) := rfl
theorem exec_fqresCancel : exec (.fqresCancel p seq) s = .next (s.resolve p seq cancelStop) := rfl
theorem exec_fqresAlt : exec (.fqresAlt p seq) s = .next (s.resolve p seq altStop) := rfl
theorem exec_fqresEnd : exec (.fqresEnd p seq) s = .next (s.resolve p seq endStop) := rfl
end

/-! ## What each of the four does to each kind of unit -/

/-- Units whose alternative action is the cancelling one: all but junctions and Syntax engines. -/
theorem altStop_eq_cancelStop {r : StopRec} (hj : ∀ t ph j, r.what ≠ .junction t ph j) (hy : ∀ y, r.what ≠ .syn y) (s : State) :
    altStop r s = cancelStop r s := by
  unfold altStop
  split
  · exact absurd ‹_› (hj _ _ _)
  · exact absurd ‹_› (hy _)
  · rfl

section
variable {r : StopRec} (u : State)
theorem retryStop_engine {t : Nat} {e : EngineId} (h : r.what = .engine t e) : retryStop r u = u.setEngine t e { u.engine t e with stop := none } := by
  simp only [retryStop, h]
theorem cancelStop_engine {t : Nat} {e : EngineId} (h : r.what = .engine t e) : cancelStop r u = u.cancelEngine t e := by
  simp only [cancelStop, h]
theorem retryStop_memop {t id : Nat} (h : r.what = .memop t id) :
    retryStop r u = (u.modOp id fun o => { o with stop := none, lost := none }).portGo t := by simp only [retryStop, h]
theorem cancelStop_memop {t id : Nat} {o : Op} (h : r.what = .memop t id) (ho : u.op id = some o) :
    cancelStop r u = (((u.abandonAll o.opened).endOp o).portGo t).endTask t o.slot := by simp only [cancelStop, h, ho]
theorem retryStop_junction {t : Nat} {ph : BitVec 2} {j : BitVec 3} (h : r.what = .junction t ph j) :
    retryStop r u = u.modJunc t ph j fun y => { y with held := none } := by simp only [retryStop, h]
theorem cancelStop_junction {t : Nat} {ph : BitVec 2} {j : BitVec 3} (h : r.what = .junction t ph j) :
    cancelStop r u = u.modJunc t ph j fun y =>
      let b := vset y.buf 0 (vget y.buf 0 []).tail
      { y with held := none, buf := if r.kind = 0x21 then vset b 3 (vget b 3 []).tail else b } := by simp only [cancelStop, h]
theorem altStop_junction {t : Nat} {ph : BitVec 2} {j : BitVec 3} (h : r.what = .junction t ph j) :
    altStop r u = if r.kind = 0x20 then u.modJunc t ph j fun y => { y with held := none, pass := true } else cancelStop r u := by
  simp only [altStop, h]
theorem retryStop_syn {y : BitVec 3} (h : r.what = .syn y) : retryStop r u = u.setSyn y { vget u.syn y.toNat {} with stop := none } := by
  simp only [retryStop, h]
theorem cancelStop_syn {y : BitVec 3} {j : SynJob} (h : r.what = .syn y) (hj : (vget u.syn y.toNat {}).job = some j) :
    cancelStop r u = u.cancelEngine j.tile j.e := by simp only [cancelStop, h, hj]
theorem altStop_syn {y : BitVec 3} {j : SynJob} (h : r.what = .syn y) (hj : (vget u.syn y.toNat {}).job = some j) :
    altStop r u = u.setSyn y ((vget u.syn y.toNat {}).resume j) := by simp only [altStop, h, hj]
theorem retryStop_copy {id : Nat} (h : r.what = .copy id) : retryStop r u = u.modOp id fun o => { o with stop := none, lost := none } := by
  simp only [retryStop, h]
theorem cancelStop_copy {id : Nat} {o : Op} (h : r.what = .copy id) (ho : u.op id = some o) :
    cancelStop r u = (u.abandonAll o.opened).endOp o := by simp only [cancelStop, h, ho]
theorem retryStop_recompute {id : Nat} (h : r.what = .recompute id) :
    retryStop r u = { u with rcReqs := u.rcReqs.map fun (q : RcReq) => if q.id = id then { q with held := none } else q } := by
  simp only [retryStop, h]
theorem cancelStop_recompute {id : Nat} {q : RcReq} (h : r.what = .recompute id) (hq : u.rcReqs.find? (fun q => q.id == id) = some q) :
    cancelStop r u = State.cancelReq chainFuel u q := by simp only [cancelStop, h, hq]
theorem cancelStop_recompute_none {id : Nat} (h : r.what = .recompute id) (hq : u.rcReqs.find? (fun q => q.id == id) = none) :
    cancelStop r u = u := by simp only [cancelStop, h, hq]
theorem stop_spill {k : PartId} (h : r.what = .spill k) : retryStop r u = u ∧ cancelStop r u = u := by
  simp only [retryStop, cancelStop, h, and_self]
theorem altStop_cancels (h : (∃ t e, r.what = .engine t e) ∨ (∃ t id, r.what = .memop t id) ∨ (∃ id, r.what = .copy id) ∨
    (∃ id, r.what = .recompute id) ∨ ∃ k, r.what = .spill k) : altStop r u = cancelStop r u := by
  rcases h with ⟨_, _, h⟩ | ⟨_, _, h⟩ | ⟨_, h⟩ | ⟨_, h⟩ | ⟨_, h⟩ <;>
    exact altStop_eq_cancelStop (fun _ _ _ e => by rw [h] at e; cases e) (fun _ e => by rw [h] at e; cases e) u

/-- END on a recompute ends the region of the tile that ran it last, its requests given up. -/
theorem endStop_recompute {id : Nat} {q : RcReq} {g : Region} (h : r.what = .recompute id) (hq : u.rcReqs.find? (fun q => q.id == id) = some q)
    (hg : (State.cancelReq chainFuel u q).region (u.rcKey q) = some g) : endStop r u = (State.cancelReq chainFuel u q).endRegion g := by
  simp only [endStop, h, hq, hg]
theorem endStop_recompute_none {id : Nat} {q : RcReq} (h : r.what = .recompute id) (hq : u.rcReqs.find? (fun q => q.id == id) = some q)
    (hg : (State.cancelReq chainFuel u q).region (u.rcKey q) = none) : endStop r u = cancelStop r (State.cancelReq chainFuel u q) := by
  simp only [endStop, h, hq, hg]
/-- END on any other unit ends the region of its record, or cancels where that is gone. -/
theorem endStop_region {g : Region} (h : ∀ id, r.what ≠ .recompute id) (hg : u.region r.rkey = some g) : endStop r u = u.endRegion g := by
  cases e : r.what with
  | recompute id => exact absurd e (h id)
  | _ => simp only [endStop, e, hg]
theorem endStop_gone (h : ∀ id, r.what ≠ .recompute id) (hg : u.region r.rkey = none) : endStop r u = cancelStop r u := by
  cases e : r.what with
  | recompute id => exact absurd e (h id)
  | _ => simp only [endStop, e, hg]
end

/-- A job of a Syntax engine resumes at the next random-access picture after the place of its fault. -/
theorem resume_eq (g : SynEng) (j : SynJob) :
    g.resume j = (let c := vget g.ctx j.ctx.toNat {}
      if c.used = true then match (j.outs c)[j.sent]? with
        | some (.err _ _ ix _) => { g with stop := none, job := some { j with passed := ix :: j.passed } }
        | _ => { g with stop := none }
      else { g with stop := none, job := some { j with seek := true }, ctx := vset g.ctx j.ctx.toNat { used := true, av1 := j.av1 } }) := by
  unfold SynEng.resume
  cases h : (g.ctxOf j).used with
  | true => exact (if_neg (c := (!(g.ctxOf j).used) = true) (by simp [h])).trans (if_pos h).symm
  | false => exact (if_pos (c := (!(g.ctxOf j).used) = true) (by simp [h])).trans (if_neg (c := (g.ctxOf j).used = true) (by simp [h])).symm

/-- Settles O43, by the unit that the record names. -/
theorem faultResolutionActsOnTheRecord : Obligations.FaultResolutionActsOnTheRecord := by
  intro s p seq
  refine ⟨fun r hr => ?_, fun h i hi => ?_⟩
  · intro u retries cancels passes
    have doRetry : ∀ {v}, retryStop r u = v → retries v := fun e => by rw [← e]; exact congrArg _ (resolve_standing hr _)
    have doCancel : ∀ {v}, cancelStop r u = v → cancels v := fun e => by rw [← e]; exact congrArg _ (resolve_standing hr _)
    have doAlt : ∀ {v}, altStop r u = v → passes v := fun e => by rw [← e]; exact congrArg _ (resolve_standing hr _)
    have doEnd : ∀ {v}, endStop r u = v → exec (.fqresEnd p seq) s = .next v := fun e => by
      rw [← e]; exact congrArg _ (resolve_standing hr _)
    refine ⟨fun t e h => ⟨doRetry (retryStop_engine u h), doCancel (cancelStop_engine u h), doAlt ?_⟩, fun t id h => ⟨doRetry (retryStop_memop u h),
      fun o ho => ⟨doCancel (cancelStop_memop u h ho), doAlt ?_⟩⟩, fun t ph j h => ?_, fun y h => ?_, fun id h => ⟨doRetry (retryStop_copy u h),
      fun o ho => ⟨doCancel (cancelStop_copy u h ho), doAlt ?_⟩⟩, fun id h => ⟨doRetry (retryStop_recompute u h), fun q hq => ?_⟩,
      fun k h => ⟨doRetry (stop_spill u h).1, doCancel (stop_spill u h).2, doAlt ?_⟩, fun h => ⟨fun g hg => doEnd ?_, fun hg => ?_⟩⟩
    · rw [altStop_cancels u (.inl ⟨t, e, h⟩), cancelStop_engine u h]
    · rw [altStop_cancels u (.inr (.inl ⟨t, id, h⟩)), cancelStop_memop u h ho]
    · refine ⟨doRetry (retryStop_junction u h), doCancel (cancelStop_junction u h), fun hk => doAlt ?_, fun hk => doAlt ?_⟩
      · rw [altStop_junction u h, if_pos hk]
      · rw [altStop_junction u h, if_neg hk, cancelStop_junction u h]
    · exact ⟨doRetry (retryStop_syn u h), fun j hj => ⟨doCancel (cancelStop_syn u h hj), doAlt (altStop_syn u h hj), resume_eq _ j⟩⟩
    · rw [altStop_cancels u (.inr (.inr (.inl ⟨id, h⟩))), cancelStop_copy u h ho]
    · have hc := cancelStop_recompute u h hq
      refine ⟨doCancel hc, doAlt ((altStop_cancels u (.inr (.inr (.inr (.inl ⟨id, h⟩))))).trans hc), fun g hg => doEnd ?_, fun hg hn => doEnd ?_⟩
      · exact endStop_recompute u h hq hg
      · rw [endStop_recompute_none u h hq hg]
        exact cancelStop_recompute_none _ h hn
    · rw [altStop_cancels u (.inr (.inr (.inr (.inr ⟨k, h⟩)))), (stop_spill u h).2]
    · exact endStop_region u h hg
    · rw [exec_fqresCancel, resolve_standing hr]
      exact doEnd (endStop_gone u h hg)
  · simp only [List.mem_cons, List.not_mem_nil, or_false] at hi
    rcases hi with rfl | rfl | rfl | rfl
    · rw [exec_fqresRetry, resolve_none h]
    · rw [exec_fqresCancel, resolve_none h]
    · rw [exec_fqresAlt, resolve_none h]
    · rw [exec_fqresEnd, resolve_none h]

end Sys2Proof.Proofs.FaultRes
end

section
/-! PROOFS. Partitions and the control registers (R337, R338, R348, R351, R372 to R374, R379, R381). -/
namespace Sys2Proof.Proofs.ControlRegs
open Sys2Proof Sys2Proof.Machine
open Sys2Proof.Proofs.Bits
set_option Elab.async false

/-! ## Messages to the host -/

/-- A fold that adds an output for some members adds those in order. -/
theorem foldl_hostOut {α : Type} (c : α → Prop) [DecidablePred c] (f : α → HostOut) (l : List α) (s : State) :
    l.foldl (fun (u : State) k => if c k then { u with hostOut := u.hostOut ++ [f k] } else u) s =
      { s with hostOut := s.hostOut ++ (l.filter fun k => c k).map f } := by
  induction l generalizing s with
  | nil => simp
  | cons k l ih =>
    rw [List.foldl_cons, ih]
    by_cases h : c k <;> simp [h]
/-- An MSI-X vector is an output to the host and nothing else. -/
theorem msix_frame (s : State) (p : PartId) (v : BitVec 2) : ∃ l, s.msix p v = { s with hostOut := l } := by
  have fold : ∀ (ks : List Nat) (s : State), ∃ l, ks.foldl (fun (s : State) k =>
      if fld s.vfmap.toNat (8 * k + 5) (8 * k) = p.toNat ∧ p ≠ 0 then { s with hostOut := s.hostOut ++ [.msix (.vf (.ofNat 3 k)) v] } else s) s =
        { s with hostOut := l } := by
    intro ks
    induction ks with
    | nil => exact fun s => ⟨s.hostOut, rfl⟩
    | cons k ks ih =>
      intro s
      rw [List.foldl_cons]
      split
      · obtain ⟨l, h⟩ := ih { s with hostOut := s.hostOut ++ [.msix (.vf (.ofNat 3 k)) v] }
        exact ⟨l, h⟩
      · exact ih s
  exact fold (upTo 8) s

/-! ## Partitions -/

section
variable {s : State} {p : PartId} (h : BitVec 3)
theorem exec_partitionLive_new (hp : p ≠ 0) (hl : (s.part p).live = false) : exec (.partitionLive p h) s =
    .next ((State.tlbDrop (s.setPart p
      { live := true, hart := h, s2root := (s.part p).s2root, authOut := (s.part p).authOut, authIn := (s.part p).authIn })
        fun e => e.part == p).msix p 2) := by
  change execPartitionLive p h s = _
  simp only [execPartitionLive, if_neg hp, hl, Bool.false_eq_true, if_false]
theorem exec_partitionLive_same (hl : (s.part p).live = true) (hh : (s.part p).hart = h) : exec (.partitionLive p h) s = .next s := by
  change execPartitionLive p h s = _
  simp only [execPartitionLive, hl, hh, if_true, ite_self]
theorem exec_partitionLive_moves (hp : p ≠ 0) (hl : (s.part p).live = true) (hh : (s.part p).hart ≠ h) : exec (.partitionLive p h) s =
    .next ((((s.vseiOff (s.part p).hart).modPart p fun x => { x with hart := h }).vsei p).msix p 2) := by
  change execPartitionLive p h s = _
  simp only [execPartitionLive, if_neg hp, hl, if_true, if_neg hh]
end

/-- A state without anything of a partition, whose page is then made not live. -/
theorem ended_clear {s : State} {p : PartId} (hv : ∀ r ∈ s.vregs, r.part ≠ p) (hs : ∀ c ∈ s.slices, c.part ≠ p) (hn : ∀ q ∈ s.snaps, q.1 ≠ p)
    (ho : ∀ o ∈ s.ops, o.part ≠ p) (hf : ∀ f ∈ s.frames, f.key.part ≠ p) (f : Part → Part) (live : ∀ x, (f x).live = false) :
    let u := (s.modPart p f).msix p 2
    (u.part p).live = false ∧ (∀ r ∈ u.vregs, r.part ≠ p) ∧ (∀ c ∈ u.slices, c.part ≠ p) ∧ (∀ q ∈ u.snaps, q.1 ≠ p) ∧
      (∀ o ∈ u.ops, o.part ≠ p) ∧ ∀ f ∈ u.frames, f.key.part ≠ p := by
  intro u
  obtain ⟨l, h⟩ := msix_frame (s.modPart p f) p 2
  have hl : (u.part p).live = false := by
    change (((s.modPart p f).msix p 2).part p).live = false
    rw [h]
    change ((s.setPart p (f (s.part p))).part p).live = false
    rw [part_setPart, if_pos rfl, live]
  have hu : u = { s.modPart p f with hostOut := l } := h
  refine ⟨hl, ?_⟩
  rw [hu]
  exact ⟨hv, hs, hn, ho, hf⟩
/-- A partition that ends leaves nothing of its own in the device's tables. -/
theorem partitionNotLive_clears {s : State} {p : PartId} (hp : p ≠ 0) (hl : (s.part p).live = true) :
    ∃ u, exec (.partitionNotLive p) s = .next u ∧ (u.part p).live = false ∧
      (∀ r ∈ u.vregs, r.part ≠ p) ∧ (∀ c ∈ u.slices, c.part ≠ p) ∧ (∀ q ∈ u.snaps, q.1 ≠ p) ∧
      (∀ o ∈ u.ops, o.part ≠ p) ∧ (∀ f ∈ u.frames, f.key.part ≠ p) := by
  refine ⟨_, congrArg Host.Outcome.next (if_neg fun e => e.elim hp (by simp [hl])), ?_⟩
  refine ended_clear ?_ ?_ ?_ ?_ ?_ _ fun _ => rfl <;>
    exact fun x hx => by simpa using (List.mem_filter.mp hx).2
theorem exec_partitionNotLive_dead {s : State} {p : PartId} (hl : (s.part p).live = false) : exec (.partitionNotLive p) s = .next s :=
  congrArg Host.Outcome.next (if_pos (.inr (by simp [hl])))

theorem partitionsComeAndGo : Claims.PartitionsComeAndGo := by
  intro s p h hp x
  exact ⟨exec_partitionLive_new h hp, exec_partitionLive_same h, exec_partitionLive_moves h hp, partitionNotLive_clears hp,
    exec_partitionNotLive_dead, congrArg Host.Outcome.next (if_pos rfl), congrArg Host.Outcome.next (if_pos (.inl rfl))⟩

/-! ## The monitor's registers -/

theorem vfmap_field (v : BitVec 64) (k : Nat) : fld v.toNat (8 * k + 5) (8 * k) = v.toNat / 2 ^ (8 * k) % 64 := by
  rw [fld, show 8 * k + 5 + 1 - 8 * k = 6 by omega]
  rfl
theorem vfmap_high (v : BitVec 64) (k : Nat) : fld v.toNat (8 * k + 7) (8 * k + 6) = v.toNat / 2 ^ (8 * k + 6) % 4 := by
  rw [fld, show 8 * k + 7 + 1 - (8 * k + 6) = 2 by omega]
  rfl

section
variable (s : State)
/-- A word of VFMAP with bits 7 and 6 of every byte zero is taken. -/
theorem vfmap_taken {v : BitVec 64} (h : ∀ k < 8, v.toNat / 2 ^ (8 * k + 6) % 4 = 0) :
    let of := fun (m : BitVec 64) (k : Nat) => m.toNat / 2 ^ (8 * k) % 64
    exec (.vfmapChange v) s = .next { s with vfmap := v, hostOut := s.hostOut ++ ((List.range 8).filter fun k =>
      of v k ≠ of s.vfmap k && s.fqOn (.ofNat 6 (of v k))).map fun k => .msix (.vf (.ofNat 3 k)) 0 } := by
  intro of
  change execVfmapChange v s = _
  have hany : ((upTo 8).any fun k => fld v.toNat (8 * k + 7) (8 * k + 6) != 0) = false := by
    rw [upTo_eq_range, List.any_eq_false]
    intro k hk
    simp [vfmap_high, h k (List.mem_range.mp hk)]
  unfold execVfmapChange
  rw [hany]
  simp only [Bool.false_eq_true, if_false, vfmap_field]
  rw [foldl_hostOut (fun k => v.toNat / 2 ^ (8 * k) % 64 ≠ s.vfmap.toNat / 2 ^ (8 * k) % 64 ∧ s.fqOn (.ofNat 6 (v.toNat / 2 ^ (8 * k) % 64)) = true),
    upTo_eq_range]
  simp only [of, Bool.decide_and, Bool.decide_eq_true]
/-- Any other is not. -/
theorem vfmap_refused {v : BitVec 64} (h : ∃ k < 8, v.toNat / 2 ^ (8 * k + 6) % 4 ≠ 0) : exec (.vfmapChange v) s = .next s := by
  change execVfmapChange v s = _
  obtain ⟨k, hk, hv⟩ := h
  have hany : ((upTo 8).any fun k => fld v.toNat (8 * k + 7) (8 * k + 6) != 0) = true := by
    rw [upTo_eq_range, List.any_eq_true]
    exact ⟨k, List.mem_range.mpr hk, by simpa [vfmap_high] using hv⟩
  unfold execVfmapChange
  rw [hany]
  rfl

/-- Every Wildom port is down. -/
theorem allDown_iff : (s.wport.toList.all fun w => w.st == .down) = true ↔ ∀ q < 18, (s.port q).st = .down := by
  simp only [List.all_eq_true, beq_iff_eq, State.port, vget]
  constructor
  · intro h q hq
    rw [List.getD_eq_getElem _ _ (by simpa using hq)]
    exact h _ (List.getElem_mem _)
  · intro h w hw
    obtain ⟨q, hq, rfl⟩ := List.mem_iff_getElem.mp hw
    have := h q (by simpa using hq)
    rwa [List.getD_eq_getElem _ _ hq] at this
theorem devid_write (d : BitVec 18) : exec (.devidWrite d) s = .next (if s.wport.toList.all fun w => w.st == .down then { s with devid := d } else s) := rfl

/-- The power cap in force after a write. -/
theorem clamp_toNat (w : BitVec 16) : (BitVec.ofNat 16 (max 1200 (min w.toNat Config.ratedPower))).toNat =
    if w.toNat < 1200 then 1200 else if Config.ratedPower < w.toNat then Config.ratedPower else w.toNat := by
  have hr : 1200 ≤ Config.ratedPower ∧ Config.ratedPower < 65536 := by
    unfold Config.ratedPower
    split <;> decide
  have hw := w.isLt
  rw [BitVec.toNat_ofNat, Nat.mod_eq_of_lt (by omega)]
  split
  · omega
  · split <;> omega
end

/-- The entry of a Prism slot. -/
def prismSet (s : State) (n : BitVec 3) (x : BitVec 16) : State :=
  { s with prismMap := vset s.prismMap n.toNat x, prismPend := vset s.prismPend n.toNat none }
section
variable {s : State} (n : BitVec 3) (x : BitVec 16)
theorem prismPut_kept (h : bfld x 13 8 = bfld (vget s.prismMap n.toNat 0) 13 8) : s.prismPut n.toNat x = prismSet s n x := by
  rw [State.prismPut, if_pos h]; rfl
theorem prismPut_clears (h : bfld x 13 8 ≠ bfld (vget s.prismMap n.toNat 0) 13 8) :
    s.prismPut n.toNat x = { prismSet s n x with prism := vset s.prism n.toNat none } := by
  rw [State.prismPut, if_neg h]; rfl
theorem prismAssign_now (h : ¬ (bfld (x &&& 0xBF07) 13 8 ≠ bfld (vget s.prismMap n.toNat 0) 13 8 ∧ s.prismRuns n.toNat = true)) :
    s.prismAssign n x = s.prismPut n.toNat (x &&& 0xBF07) := if_neg h
theorem prismAssign_waits (h : bfld (x &&& 0xBF07) 13 8 ≠ bfld (vget s.prismMap n.toNat 0) 13 8 ∧ s.prismRuns n.toNat = true) :
    s.prismAssign n x = { s with prismPend := vset s.prismPend n.toNat (some (x &&& 0xBF07)), prism := vset s.prism n.toNat none } := if_pos h
theorem exec_prismmapChange : exec (.prismmapChange n x) s = .next (s.prismAssign n x) := rfl
end

theorem monitorRegistersTakeTheirValues : Claims.MonitorRegistersTakeTheirValues := by
  intro s n x v d w
  refine ⟨?_, fun h => vfmap_taken s h, fun h => vfmap_refused s h, fun h => ?_, fun h => ?_, _, rfl, clamp_toNat w⟩
  · intro new kept u
    refine ⟨fun hk => ?_, fun hk hr => ?_, fun hk hr => ?_⟩
    · rw [exec_prismmapChange, prismAssign_now n x fun h => h.1 hk, prismPut_kept n _ hk]; rfl
    · rw [exec_prismmapChange, prismAssign_now n x fun h => by simp [hr] at h, prismPut_clears n _ hk]; rfl
    · rw [exec_prismmapChange, prismAssign_waits n x ⟨hk, hr⟩]
  · rw [devid_write, if_pos ((allDown_iff s).mpr h)]
  · rw [devid_write, if_neg fun e => ?_]
    obtain ⟨q, hq, hd⟩ := h
    exact hd ((allDown_iff s).mp e q hq)

/-! ## The registers of a page -/

section
variable {s : State} {p : PartId} (x : DWord)
theorem exec_registerWrite (hp : p ≠ 0) (off : BitVec 16) : exec (.registerWrite (.part p) off x) s = .next (s.partReg p off.toNat x) := by
  change execRegisterWrite (.part p) off x s = _
  simp only [execRegisterWrite, if_neg hp]
/-- The pool of a partition with versioned regions keeps what it holds. -/
theorem partReg_pool_held (h : ∃ r ∈ s.vregs, r.part = p) : s.partReg p 0x028 x = s ∧ s.partReg p 0x030 x = s := by
  have e : (!s.vregs.any fun r => r.part == p) = false := by simpa using h
  simp only [State.partReg, e, Bool.false_eq_true, if_false, and_self]
theorem partReg_pool_free (h : ∀ r ∈ s.vregs, r.part ≠ p) : s.partReg p 0x028 x = (s.modPart p fun y => { y with pool := x &&& msk 47 16 }) ∧
    s.partReg p 0x030 x = s.modPart p fun y => { y with pooln := x &&& msk 23 0 } := by
  have e : (!s.vregs.any fun r => r.part == p) = true := by simpa using h
  simp only [State.partReg, e, if_true, and_self]
/-- An offset past the staging areas is reserved. -/
theorem partReg_reserved {off : Nat} (h : 0x180 ≤ off) : s.partReg p off x = s := by
  unfold State.partReg
  split <;> try omega
  rw [if_neg (by omega)]
end

theorem pageRegistersStoreTheirFields : Claims.PageRegistersStoreTheirFields := by
  intro s p x off who pr hp put
  have write := fun off => exec_registerWrite (s := s) x hp off
  refine ⟨write _, write _, write _, write _, write _, write _, write _, write _, fun h => ?_, fun h => ?_, fun h => ?_, ?_⟩
  · exact ⟨(write _).trans (congrArg _ (partReg_pool_held x h).1), (write _).trans (congrArg _ (partReg_pool_held x h).2)⟩
  · exact ⟨(write _).trans (congrArg _ (partReg_pool_free x h).1), (write _).trans (congrArg _ (partReg_pool_free x h).2)⟩
  · exact (write _).trans (congrArg _ (partReg_reserved x h))
  · intro d q
    refine ⟨fun h => ?_, fun h => ?_⟩
    · exact congrArg (fun y => Host.Outcome.next (s.setPart p y)) (if_pos h)
    · exact congrArg (fun y => Host.Outcome.next (s.setPart p y)) (if_neg (Nat.not_lt.mpr h))

/-- Settles O47, register by register. -/
theorem controlRegistersActAsTheTablesSay : Obligations.ControlRegistersActAsTheTablesSay :=
  ⟨partitionsComeAndGo, monitorRegistersTakeTheirValues, pageRegistersStoreTheirFields⟩

end Sys2Proof.Proofs.ControlRegs
end

section
/-! PROOFS. Ownership of tiles, and the removal of versioned regions and slices (R345, R351, R383). -/
namespace Sys2Proof.Proofs.Ownership
open Sys2Proof Sys2Proof.Machine
open Sys2Proof.Proofs.Bits
set_option Elab.async false

/-! ## Ownership -/

theorem alGet_alDel {α : Type} (l : List (Nat × α)) (a b : Nat) : alGet (alDel l a) b = if b = a then none else alGet l b := by
  induction l with
  | nil => simp [alDel, alGet]
  | cons x l ih =>
    obtain ⟨k, v⟩ := x
    simp only [alDel, alGet]
    by_cases ha : a = k
    · subst ha
      rw [if_pos rfl, ih]
      split <;> rfl
    · rw [if_neg ha, alGet, ih]
      by_cases hb : b = k
      · rw [if_pos hb, if_pos hb, if_neg (by omega)]
      · rw [if_neg hb, if_neg hb]

/-- A tile that is given has its owner; any other keeps its own. -/
theorem owner_giveTile (s : State) (p : PartId) (t u : Nat) : (s.giveTile p t).owner u = if u = t then p else s.owner u := by
  unfold State.giveTile
  by_cases h : s.owner t = p
  · rw [if_pos h]
    split
    · next e => rw [e, h]
    · rfl
  · rw [if_neg h]
    change (alGet (if p = 0 then alDel s.ownTab t else alSet s.ownTab t p) u).getD 0 = _
    by_cases hp : p = 0
    · rw [if_pos hp, alGet_alDel]
      split
      · exact hp.symm
      · rfl
    · rw [if_neg hp, alGet_alSet]
      split <;> rfl
/-- A tile that changed owner is reset, and no other is touched. -/
theorem tile_giveTile (s : State) (p : PartId) (t u : Nat) :
    (s.giveTile p t).tile u = if u = t ∧ s.owner t ≠ p then (s.tile t).reset else s.tile u := by
  unfold State.giveTile
  by_cases h : s.owner t = p
  · rw [if_pos h, if_neg fun e => e.2 h]
  · rw [if_neg h]
    change (s.setTile t (s.tile t).reset).tile u = _
    rw [tile_setTile]
    by_cases e : u = t <;> simp [e, h]
/-- What giving several tiles leaves. -/
theorem giveTiles (p : PartId) (l : List Nat) (s : State) (t : Nat) :
    let u := l.foldl (fun s t => s.giveTile p t) s
    (u.owner t = if t ∈ l then p else s.owner t) ∧ u.tile t = if t ∈ l ∧ s.owner t ≠ p then (s.tile t).reset else s.tile t := by
  induction l generalizing s with
  | nil => simp
  | cons k l ih =>
    obtain ⟨ho, ht⟩ := ih (s.giveTile p k)
    rw [owner_giveTile] at ho ht
    rw [tile_giveTile] at ht
    refine ⟨ho.trans ?_, ht.trans ?_⟩
    · by_cases e : t = k <;> simp [e]
    · by_cases e : t = k
      · subst e
        by_cases h : s.owner t = p <;> simp [h]
      · simp [e]
/-- Giving tiles leaves the command's registers as they are. -/
theorem giveTile_command (s : State) (p : PartId) (t : Nat) : (s.giveTile p t).ownCmd = s.ownCmd ∧ (s.giveTile p t).ownStat = s.ownStat := by
  unfold State.giveTile
  split <;> exact ⟨rfl, rfl⟩
theorem giveTiles_command (p : PartId) (l : List Nat) (s : State) :
    let u := l.foldl (fun s t => s.giveTile p t) s
    u.ownCmd = s.ownCmd ∧ u.ownStat = s.ownStat := by
  induction l generalizing s with
  | nil => exact ⟨rfl, rfl⟩
  | cons k l ih =>
    obtain ⟨h1, h2⟩ := ih (s.giveTile p k)
    obtain ⟨g1, g2⟩ := giveTile_command s p k
    exact ⟨h1.trans g1, h2.trans g2⟩

theorem mem_upFrom (a n i : Nat) : i ∈ upFrom a n ↔ a ≤ i ∧ i < a + n := by
  rw [upFrom_eq_range', List.mem_range'_1]
/-- A tile lies in a rectangle by its column and row. -/
theorem mem_rectTiles (c : OwnRect) (h : c.px1.toNat < 48) (t : Nat) :
    t ∈ rectTiles c ↔ c.px0.toNat ≤ t % 48 ∧ t % 48 ≤ c.px1.toNat ∧ c.py0.toNat ≤ t / 48 ∧ t / 48 ≤ c.py1.toNat := by
  simp only [rectTiles, List.mem_flatten, List.mem_map, mem_upFrom, tileNo]
  constructor
  · rintro ⟨_, ⟨y, hy, rfl⟩, ht⟩
    obtain ⟨x, hx, rfl⟩ := List.mem_map.mp ht
    rw [mem_upFrom] at hx
    omega
  · intro ht
    refine ⟨_, ⟨t / 48, by omega, rfl⟩, List.mem_map.mpr ⟨t % 48, (mem_upFrom ..).mpr (by omega), by omega⟩⟩

section
variable {s : State} {c : OwnRect}
theorem owncmd_taken (h : s.ownCmd = none) (g : s.ownBad c = false) : exec (.owncmd c) s = .next { s with ownStat := 1, ownCmd := some c } := by
  change execOwncmd c s = _
  simp [execOwncmd, h, g]
theorem owncmd_refused (h : s.ownCmd = none) (g : s.ownBad c = true) : exec (.owncmd c) s = .next { s with ownStat := 3 } := by
  change execOwncmd c s = _
  simp [execOwncmd, h, g]
theorem owncmd_busy (h : s.ownCmd ≠ none) : exec (.owncmd c) s = .next s := by
  change execOwncmd c s = _
  simp [execOwncmd, Option.isSome_iff_ne_none.mpr h]
theorem owncmdComplete_idle (h : s.ownCmd = none) : exec .owncmdComplete s = .next s := by
  change execOwncmdComplete s = _
  simp only [execOwncmdComplete, h]
theorem owncmdComplete_gives (h : s.ownCmd = some c) : exec .owncmdComplete s =
    .next ((rectTiles c).foldl (fun s t => s.giveTile c.owner t) { s with ownCmd := none, ownStat := 2 }) := by
  change execOwncmdComplete s = _
  simp only [execOwncmdComplete, h]
end

theorem ownershipMovesWholeRectangles : Claims.OwnershipMovesWholeRectangles := by
  intro s c inRect
  refine ⟨owncmd_taken, owncmd_refused, owncmd_busy, owncmdComplete_idle, fun h hx => ⟨_, owncmdComplete_gives h, ?_, ?_, fun t => ?_⟩⟩
  · exact (giveTiles_command _ _ _).1
  · exact (giveTiles_command _ _ _).2
  · obtain ⟨ho, ht⟩ := giveTiles c.owner (rectTiles c) { s with ownCmd := none, ownStat := 2 } t
    refine ⟨fun hi => ⟨ho.trans (if_pos ((mem_rectTiles c hx t).mpr hi)), fun ne => ht.trans (if_pos ⟨(mem_rectTiles c hx t).mpr hi, ne⟩)⟩,
      fun hi => ⟨ho.trans (if_neg fun m => hi ((mem_rectTiles c hx t).mp m)), ht.trans (if_neg fun m => hi ((mem_rectTiles c hx t).mp m.1))⟩⟩

/-! ## Removals: frames of a removed region do not come back -/

/-- The tables when a region has been removed: a frame that it would have belongs to another region that stands, and no history of its
frames is kept. -/
structure Removed (r : VRegion) (vregs : List VRegion) (s : State) : Prop where
  stand : s.vregs = vregs
  frames : ∀ f ∈ s.frames, r.has f.key = true → ∃ x ∈ vregs, x.has f.key = true
  kept : ∀ x ∈ s.regions, ∀ f, Reclaim.init f ∈ x.defer → r.has f.key = false

/-- A registered region holds a frame's first byte exactly if it has the frame. -/
theorem has_of_vregOf {s : State} {k : FrameKey} {x : VRegion} (h : s.vregOf k.part k.win (k.fr.toNat * 4096) = some x) :
    x ∈ s.vregs ∧ x.has k = true := by
  have p := List.find?_some h
  refine ⟨List.mem_of_find?_eq_some h, ?_⟩
  simp only [Bool.and_eq_true, beq_iff_eq, decide_eq_true_eq] at p
  obtain ⟨⟨hp, hw⟩, lo, hi⟩ := p
  simp only [VRegion.has, hp, hw, beq_self_eq_true, Bool.true_and, decide_eq_true_eq]
  omega
theorem frame_key (s : State) (k : FrameKey) : (s.frame k).key = k := by
  unfold State.frame
  cases h : s.frames.find? fun f => f.key == k with
  | none =>
    unfold State.newFrame
    simp only [Option.getD_none]
    split <;> rfl
  | some f => simpa using List.find?_some h
theorem mem_setFrame {s : State} {f g : Frame} (h : g ∈ (s.setFrame f).frames) : g = f ∨ g ∈ s.frames := by
  unfold State.setFrame at h
  split at h
  · obtain ⟨x, hx, e⟩ := List.mem_map.mp h
    split at e
    · exact .inl e.symm
    · exact .inr (e ▸ hx)
  · exact (List.mem_append.mp h).symm.imp_left List.mem_singleton.mp
theorem setFrame_tables (s : State) (f : Frame) : (s.setFrame f).vregs = s.vregs ∧ (s.setFrame f).regions = s.regions := by
  unfold State.setFrame
  split <;> exact ⟨rfl, rfl⟩

section
variable {r : VRegion} {vregs : List VRegion} {s : State}
/-- A frame that knows a version is listed, or INIT of a region that stands gave it the version. -/
theorem Removed.known (h : Removed r vregs s) {k : FrameKey} (hv : (s.frame k).vers ≠ []) (hk : r.has k = true) : ∃ x ∈ vregs, x.has k = true := by
  unfold State.frame at hv
  cases e : s.frames.find? fun f => f.key == k with
  | some f =>
    have hf : f.key = k := by simpa using List.find?_some e
    exact hf ▸ h.frames f (List.mem_of_find?_eq_some e) (hf ▸ hk)
  | none =>
    rw [e, Option.getD_none] at hv
    unfold State.newFrame at hv
    cases g : s.vregOf k.part k.win (k.fr.toNat * 4096) with
    | none => simp [g] at hv
    | some x =>
      obtain ⟨hx, hh⟩ := has_of_vregOf g
      exact ⟨x, h.stand ▸ hx, hh⟩
/-- Changing a frame that knows a version keeps the tables so. -/
theorem Removed.setFrame (h : Removed r vregs s) {k : FrameKey} (hv : (s.frame k).vers ≠ []) {f : Frame} (hf : f.key = k) :
    Removed r vregs (s.setFrame f) := by
  obtain ⟨h1, h2⟩ := setFrame_tables s f
  refine ⟨h1.trans h.stand, fun g hg hr => ?_, fun x hx => h.kept x (h2 ▸ hx)⟩
  rcases mem_setFrame hg with rfl | hg
  · rw [hf] at hr ⊢
    exact h.known hv hr
  · exact h.frames g hg hr
/-- So does changing a history that is kept. -/
theorem Removed.modKept (h : Removed r vregs s) (k : FrameKey) (gen : Nat) {g : Frame → Frame} (hg : ∀ f, (g f).key = f.key) :
    Removed r vregs (s.modKept k gen g) := by
  refine ⟨h.stand, h.frames, fun x hx f hf => ?_⟩
  obtain ⟨y, hy, rfl⟩ := List.mem_map.mp hx
  obtain ⟨d, hd, e⟩ := List.mem_map.mp hf
  cases d with
  | init f' =>
    simp only at e
    split at e
    · cases e
      exact (hg f').symm ▸ h.kept y hy f' hd
    · cases e
      exact h.kept y hy f hd
  | recl | unpin | pin => cases e
theorem vers_ne_nil {f : Frame} {v : Nat} {x : Ver} (h : f.ver v = some x) : f.vers ≠ [] :=
  List.ne_nil_of_mem (List.mem_of_find?_eq_some h)
theorem modVer_key (f : Frame) (v : Nat) (g : Ver → Ver) : (f.modVer v g).key = f.key := rfl

/-- Retirements keep them so: by the three functions' common fuel. -/
theorem retirements_keep (n : Nat) :
    (∀ s, Removed r vregs s → ∀ k v, Removed r vregs (State.tryRetire n s k v)) ∧
    (∀ s, Removed r vregs s → ∀ k x, (s.frame k).vers ≠ [] → Removed r vregs (State.retire n s k x)) ∧
    ∀ s, Removed r vregs s → ∀ l, Removed r vregs (State.releaseSrcs n s l) := by
  induction n with
  | zero => exact ⟨fun s h _ _ => h, fun s h _ _ _ => h, fun s h _ => h⟩
  | succ n ih =>
    obtain ⟨tries, retires, releases⟩ := ih
    have tries' : ∀ s, Removed r vregs s → ∀ k v, Removed r vregs (State.tryRetire (n + 1) s k v) := by
      intro s h k v
      rw [State.tryRetire]
      cases e : (s.frame k).ver v with
      | none => exact h
      | some x =>
        simp only
        split
        · exact retires s h k x (vers_ne_nil e)
        · exact h
    refine ⟨tries', fun s h k x hv => ?_, fun s h l => ?_⟩
    · rw [State.retire]
      have h1 := h.setFrame hv (f := { s.frame k with vers := (s.frame k).vers.filter fun y => y.v != x.v }) (frame_key s k)
      cases x.recipe with
      | none => exact h1
      | some c => exact releases _ h1 _
    · match l with
      | [] => exact h
      | ((k, v), gen) :: l =>
        rw [State.releaseSrcs]
        split
        · have h1 : Removed r vregs (s.lowerKept k v gen) := h.modKept k gen fun _ => rfl
          exact releases _ h1 l
        · split
          · exact releases s h l
          · next e =>
            obtain ⟨x, hx⟩ := Option.ne_none_iff_exists'.mp (by simpa using e)
            have h1 : Removed r vregs (s.modVer k v fun y => { y with rref := y.rref - 1 }) := h.setFrame (vers_ne_nil hx) (frame_key s k)
            exact releases _ (tries _ h1 k v) l
theorem Removed.releaseRecipe (h : Removed r vregs s) (c : Option Recipe) : Removed r vregs (s.releaseRecipe c) := by
  cases c with
  | none => exact h
  | some c => exact (retirements_keep retireFuel).2.2 s h c.refs
end

/-- An invariant that every step of a fold keeps holds after it. -/
theorem foldl_keeps {α β : Type} {P : α → Prop} {f : α → β → α} (l : List β) (h : ∀ a, P a → ∀ b ∈ l, P (f a b)) {a : α} (ha : P a) :
    P (l.foldl f a) := by
  induction l generalizing a with
  | nil => exact ha
  | cons b l ih => exact ih (fun a ha c hc => h a ha c (List.mem_cons_of_mem _ hc)) (h a ha b List.mem_cons_self)

/-- Removing a region leaves it, its frames and the histories of them out of the tables. -/
theorem removed_dropVRegion (s : State) (r : VRegion) : Removed r (s.vregs.filter (· ≠ r)) (s.dropVRegion r) := by
  refine foldl_keeps _ (fun a ha f _ => foldl_keeps _ (fun a ha x _ => ha.releaseRecipe _) ha) ⟨rfl, fun f hf hr => ?_, fun x hx f hf => ?_⟩
  · obtain ⟨g, hg, rfl⟩ := List.mem_map.mp hf
    have hk : r.has g.key = false := by simpa using (List.mem_filter.mp hg).2
    rw [show (g.unlink r s.newId).key = g.key from rfl, hk] at hr
    cases hr
  · obtain ⟨q, hq, rfl⟩ := List.mem_map.mp hx
    obtain ⟨d, hd, e⟩ := List.mem_map.mp hf
    have hk : r.has d.key = false := by simpa using (List.mem_filter.mp hd).2
    cases d with
    | init g => cases e; exact hk
    | recl | unpin | pin => cases e

section
variable {s : State} {p : PartId} {w : BitVec 16} {b : BitVec 36} {id : BitVec 16}
theorem regdel_busy (h : (s.part p).del ≠ none) : exec (.regdel p w b) s = .next s ∧ exec (.slicedel p id) s = .next s := by
  have e := Option.isSome_iff_ne_none.mpr h
  exact ⟨congrArg Host.Outcome.next (if_pos e), congrArg Host.Outcome.next (if_pos e)⟩
theorem regdelDone_idle (h : (s.part p).del = none) : exec (.regdelDone p) s = .next s := by
  change execRegdelDone p s = _
  simp only [execRegdelDone, h]
theorem regdel_refused (h : (s.part p).del = none) (g : s.delRegion p w b.toNat (bfld (s.part p).regcnt 23 0) = none) :
    exec (.regdel p w b) s = .next (s.delRefused p) := by
  change execRegdel p w b s = _
  simp [execRegdel, h, g]
theorem regdel_taken {r : VRegion} (h : (s.part p).del = none) (g : s.delRegion p w b.toNat (bfld (s.part p).regcnt 23 0) = some r) :
    exec (.regdel p w b) s = .next (s.delBusy p (.region w b.toNat (bfld (s.part p).regcnt 23 0))) := by
  change execRegdel p w b s = _
  simp [execRegdel, h, g]
theorem slicedel_eq (h : (s.part p).del = none) :
    exec (.slicedel p id) s = .next (if s.delSlice p id then s.delBusy p (.slice id) else s.delRefused p) := by
  change execSlicedel p id s = _
  simp [execSlicedel, h]
theorem regdelDone_refused {m : Nat} (h : (s.part p).del = some (.region w b.toNat m)) (g : s.delRegion p w b.toNat m = none) :
    exec (.regdelDone p) s = .next (s.delRefused p) := by
  change execRegdelDone p s = _
  simp only [execRegdelDone, h, g]
theorem regdelDone_region {m : Nat} {r : VRegion} (h : (s.part p).del = some (.region w b.toNat m)) (g : s.delRegion p w b.toNat m = some r) :
    exec (.regdelDone p) s = .next ((s.dropVRegion r).modPart p fun x => { x with delstat := 2, del := none }) := by
  change execRegdelDone p s = _
  simp only [execRegdelDone, h, g]
theorem regdelDone_slice (h : (s.part p).del = some (.slice id)) : exec (.regdelDone p) s =
    .next (if s.delSlice p id then State.modPart { s with slices := s.slices.filter fun c => !(c.part == p && c.id == id) } p
      fun x => { x with delstat := 2, del := none } else s.delRefused p) := by
  change execRegdelDone p s = _
  simp only [execRegdelDone, h]
end

theorem removalsTakeRegionsAndSlices : Claims.RemovalsTakeRegionsAndSlices := by
  intro s p w b id n refused
  refine ⟨fun h => ⟨fun r g => regdel_taken h g, fun g => regdel_refused h g, fun g => ?_, fun g => ?_, regdelDone_idle h⟩, regdel_busy,
    fun m h => ⟨fun g => ?_, fun r g => ?_⟩, fun h => ⟨fun g => ?_, fun g => ?_⟩⟩
  · rw [slicedel_eq h, if_pos g]; rfl
  · change exec _ s = _
    rw [slicedel_eq h, if_neg (by simp [g])]; rfl
  · change exec _ s = _
    rw [regdelDone_refused h g]; rfl
  · obtain ⟨hv, hf, hk⟩ := removed_dropVRegion s r
    refine ⟨_, regdelDone_region h g, ?_, ?_, hv, fun f m hr => ?_, hk⟩
    · rw [modPart_eq, part_setPart, if_pos rfl]
    · rw [modPart_eq, part_setPart, if_pos rfl]
    · obtain ⟨x, hx, hh⟩ := hf f m hr
      exact ⟨x, hv.symm ▸ hx, hh⟩
  · change exec _ s = _
    rw [regdelDone_slice h, if_neg (by simp [g])]; rfl
  · refine ⟨_, by rw [regdelDone_slice h, if_pos g], ?_, ?_, rfl⟩
    · rw [modPart_eq, part_setPart, if_pos rfl]
    · rw [modPart_eq, part_setPart, if_pos rfl]

/-- Settles O46, by what each tile of the rectangle gets and by what the retirements of a removal keep. -/
theorem ownershipAndRemovalsComplete : Obligations.OwnershipAndRemovalsComplete := ⟨ownershipMovesWholeRectangles, removalsTakeRegionsAndSlices⟩

end Sys2Proof.Proofs.Ownership
end

section
/-! PROOFS. Walks of the translation tables, and the translation of an access that meets no TLB entry (R339 to R341, R350). -/
namespace Sys2Proof.Proofs.Translation
open Sys2Proof Sys2Proof.Machine
set_option Elab.async false

/-! ## One level of a walk -/

/-- A descriptor that the spec calls malformed at a level. -/
def Malformed (lvl d : Nat) : Prop := d / 2 ^ 48 % 2 ^ 16 ≠ 0 ∨ d / 2 ^ 3 % 2 ^ 13 ≠ 0 ∨ (lvl = 3 ∧ d.testBit 1 = false) ∨
  (lvl = 1 ∧ d.testBit 1 = false ∧ d / 2 ^ 16 % 2 ^ 21 ≠ 0) ∨ (lvl = 2 ∧ d.testBit 1 = false ∧ d / 2 ^ 16 % 2 ^ 10 ≠ 0)
theorem descBad_iff (lvl d : Nat) : descBad lvl d = true ↔ Malformed lvl d := by
  simp only [descBad, Malformed, fld, Bool.or_eq_true, Bool.and_eq_true, bne_iff_ne, beq_iff_eq, Bool.not_eq_true', Nat.reduceSub, Nat.reduceAdd]
  tauto

section
variable {rd : Nat → Except Flt Nat} {inv bad : Nat → Flt} {n lvl table x d : Nat} {w : Bool}
theorem walk_fault {f : Flt} (h : rd (descAt lvl table x) = .error f) : walk rd inv bad (n + 1) lvl table x w = .error f := by
  simp only [walk, h]
variable (h : rd (descAt lvl table x) = .ok d)
include h
theorem walk_invalid (hv : d.testBit 0 = false) : walk rd inv bad (n + 1) lvl table x w = .error (inv lvl) := by
  simp only [walk, h, hv, Bool.not_false, if_true]
variable (hv : d.testBit 0 = true)
include hv
theorem walk_malformed (hb : Malformed lvl d) : walk rd inv bad (n + 1) lvl table x w = .error (bad lvl) := by
  simp only [walk, h, hv, (descBad_iff lvl d).mpr hb, Bool.not_true, Bool.false_eq_true, if_false, if_true]
variable (hb : ¬ Malformed lvl d)
include hb
/-- A block or page ends the walk. -/
theorem walk_leaf (hl : lvl = 3 ∨ d.testBit 1 = false) : walk rd inv bad (n + 1) lvl table x w =
    .ok (d / 2 ^ 16 % 2 ^ 32 * 2 ^ 16 + x % 2 ^ lvlLo lvl, w && d.testBit 2) := by
  have hd : descBad lvl d = false := Bool.eq_false_iff.mpr fun e => hb ((descBad_iff lvl d).mp e)
  have hn : (lvl != 3 && d.testBit 1) = false := by rcases hl with rfl | hl <;> simp [*]
  simp only [walk, h, hv, hd, hn, Bool.not_true, Bool.false_eq_true, if_false]
  rfl
/-- A table leads on. -/
theorem walk_table (hl : lvl ≠ 3) (ht : d.testBit 1 = true) : walk rd inv bad (n + 1) lvl table x w =
    walk rd inv bad n (lvl + 1) (d / 2 ^ 16 % 2 ^ 32 * 2 ^ 16) x (w && d.testBit 2) := by
  have hd : descBad lvl d = false := Bool.eq_false_iff.mpr fun e => hb ((descBad_iff lvl d).mp e)
  have hn : (lvl != 3 && d.testBit 1) = true := by simp [hl, ht]
  rw [walk, h]
  simp only [hv, hd, hn, Bool.not_true, Bool.false_eq_true, if_false, if_true]
  rfl
end

theorem walksReadThreeLevels : Claims.WalksReadThreeLevels := by
  refine ⟨?_, fun s p x w root => ⟨rfl, rfl, fun hx => ⟨fun f h => ipaNum_fault h, fun pa b h ht hb => ipaNum_page h hx ht hb⟩⟩⟩
  intro rd inv bad root x at_ addr malformed gives level
  refine ⟨fun f h => walk_fault h, fun d h => ⟨walk_invalid h, walk_malformed h, fun hv hb => ⟨walk_leaf h hv hb, fun hl ht => ?_⟩⟩⟩
  have one := walk_table (n := 2) (inv := inv) (bad := bad) (w := true) h hv hb hl ht
  refine ⟨fun f h => one.trans (walk_fault h), fun d h => ⟨fun hv => one.trans (walk_invalid h hv), fun hv hb => one.trans (walk_malformed h hv hb),
    fun hv hb => ⟨fun hl => one.trans (walk_leaf h hv hb hl), fun hl ht => ?_⟩⟩⟩
  have two := one.trans (walk_table h hv hb hl ht)
  exact ⟨fun f h => two.trans (walk_fault h), fun d h => ⟨fun hv => two.trans (walk_invalid h hv), fun hv hb => two.trans (walk_malformed h hv hb),
    fun hv hb => ⟨fun hl => two.trans (walk_leaf h hv hb hl), fun hl _ => absurd rfl hl⟩⟩⟩

/-! ## An access that meets no TLB entry of its partition -/

section
variable {s : State} {t : Nat} {p : PartId} (va : VAddr) (wr : Bool) (r : Right)
theorem tlbFresh_of_none (h : ∀ x ∈ s.tlbOf t, x.part ≠ p) : s.tlbFresh t p = true :=
  List.all_eq_true.mpr fun x hx => by simp [h x hx]
theorem cached_of_none (h : ∀ x ∈ s.tlbOf t, x.part ≠ p) (win : BitVec 16) (off : Nat) : s.cached t p win off = [] := by
  rw [State.cached, List.filterMap_eq_nil_iff]
  intro x hx
  cases x with
  | done e => exact if_neg fun g => h _ hx g.1
  | win | tab => rfl
/-- A reserved bit of the address faults at once. -/
theorem translate_reserved (z : bfld va 63 48 ≠ 0) : s.translate t p va wr r = (.error ⟨0x03, 0⟩, s) := by
  unfold State.translate
  dsimp only
  rw [if_pos z]
theorem look_reserved (z : bfld va 63 48 ≠ 0) : s.lookVA none p va wr r = .error ⟨0x03, 0⟩ := by
  unfold State.lookVA
  dsimp only
  rw [if_pos z]
/-- Otherwise it is translated by the walk over the tables in memory, and one that faults loads no entry. -/
theorem translate_walk (h : ∀ x ∈ s.tlbOf t, x.part ≠ p) (z : bfld va 63 48 = 0) {g : Except Flt (Target × TlbEnt)}
    (hw : s.walkVA none p (.ofNat 16 (bfld va 79 64)) (bfld va 47 0) wr r = g) : (s.translate t p va wr r).1 = g.map Prod.fst ∧
      ∀ f, g = .error f → (s.translate t p va wr r).2 = { s with freeCtr := s.freeCtr + 1 } := by
  unfold State.translate
  dsimp only
  rw [if_neg (not_not_intro z), cached_of_none h, pickOf_nil, walkVA_fresh (tlbFresh_of_none h), hw]
  cases g with
  | error f => exact ⟨rfl, fun _ _ => rfl⟩
  | ok x => obtain ⟨g, e⟩ := x; exact ⟨rfl, fun _ h => by cases h⟩
theorem look_walk (z : bfld va 63 48 = 0) {g : Except Flt (Target × TlbEnt)}
    (hw : s.walkVA none p (.ofNat 16 (bfld va 79 64)) (bfld va 47 0) wr r = g) : s.lookVA none p va wr r = g.map Prod.fst := by
  unfold State.lookVA
  dsimp only
  rw [if_neg (not_not_intro z), Option.bind_none, hw]
  cases g with
  | error f => rfl
  | ok x => obtain ⟨g, e⟩ := x; rfl
theorem translate_eq_look (h : ∀ x ∈ s.tlbOf t, x.part ≠ p) : (s.translate t p va wr r).1 = s.lookVA none p va wr r := by
  by_cases z : bfld va 63 48 = 0
  · rw [(translate_walk va wr r h z rfl).1, look_walk va wr r z rfl]
  · rw [translate_reserved va wr r z, look_reserved va wr r z]
theorem translate_fault_keeps (h : ∀ x ∈ s.tlbOf t, x.part ≠ p) {f : Flt} (e : (s.translate t p va wr r).1 = .error f) :
    (s.translate t p va wr r).2.tlb = s.tlb ∧ (s.translate t p va wr r).2.tiles = s.tiles := by
  by_cases z : bfld va 63 48 = 0
  · obtain ⟨h1, h2⟩ := translate_walk va wr r h z rfl
    rw [h1] at e
    cases g : s.walkVA none p (.ofNat 16 (bfld va 79 64)) (bfld va 47 0) wr r with
    | error f => rw [h2 f g]; exact ⟨rfl, rfl⟩
    | ok x => rw [g] at e; cases e
  · rw [translate_reserved va wr r z]
    exact ⟨rfl, rfl⟩
end

/-- A window entry that the spec calls malformed. -/
def BadWindow (e : Nat) : Prop := e % 4 = 0 ∨ e % 4 = 3 ∨ e.testBit 2 = true ∨ e / 2 ^ 4 % 2 ^ 12 ≠ 0 ∨ e / 2 ^ 48 % 2 ^ 16 ≠ 0 ∨ e / 2 ^ 96 % 2 ^ 8 ≠ 0 ∨
  (e % 4 = 2 ∧ e / 2 ^ 16 % 2 ^ 32 ≠ 0)
theorem windowBad_iff (e : Nat) : windowBad e = true ↔ BadWindow e := by
  simp only [windowBad, BadWindow, fld, Bool.or_eq_true, Bool.and_eq_true, bne_iff_ne, beq_iff_eq, Nat.reduceSub, Nat.reduceAdd, or_assoc]

/-! ## The checks of a window's entry, in their order -/

section
variable {s : State} {p : PartId} {win : BitVec 16} {off : Nat} {wr : Bool} {r : Right} {ent : Except Flt Nat} {rd1 rd2 : Nat → Except Flt Nat}
theorem walkBy_entry_fault {f : Flt} (h : ent = .error f) : s.walkBy p win off wr r ent rd1 rd2 = .error f := by
  rw [h, State.walkBy]
variable {e : Nat} (h : ent = .ok e)
include h
theorem walkBy_malformed (hb : BadWindow e) : s.walkBy p win off wr r ent rd1 rd2 = .error ⟨0x04, 0⟩ := by
  rw [h, State.walkBy, if_pos ((windowBad_iff e).mpr hb)]
variable (hb : ¬ BadWindow e)
include hb
theorem walkBy_beyond (hl : fld e 95 64 * 65536 ≤ off) : s.walkBy p win off wr r ent rd1 rd2 = .error ⟨0x05, 0⟩ := by
  rw [h, State.walkBy, if_neg (mt (windowBad_iff e).mp hb), if_pos hl]
variable (hl : ¬ fld e 95 64 * 65536 ≤ off)
include hl
/-- A peer window goes to its peer. -/
theorem walkBy_peer (hk : e % 4 = 2) : (s.walkBy p win off wr r ent rd1 rd2).map Prod.fst =
    s.toPeer p r (.ofNat 8 (fld e 111 104)) (.ofNat 16 (fld e 127 112)) off := by
  rw [h, State.walkBy, if_neg (mt (windowBad_iff e).mp hb), if_neg hl, if_pos hk]
  cases s.toPeer p r (.ofNat 8 (fld e 111 104)) (.ofNat 16 (fld e 127 112)) off <;> rfl
variable (hk : ¬ e % 4 = 2)
include hk
theorem walkBy_stage1_fault {f : Flt} (h1 : walk1 rd1 (fld e 47 16 * 65536) off = .error f) :
    s.walkBy p win off wr r ent rd1 rd2 = .error f := by
  rw [h, State.walkBy, if_neg (mt (windowBad_iff e).mp hb), if_neg hl, if_neg hk, h1]
variable {ipa : Nat} {w1 : Bool} (h1 : walk1 rd1 (fld e 47 16 * 65536) off = .ok (ipa, w1))
include h1
theorem walkBy_stage2_fault {f : Flt} (h2 : walk2 rd2 (s.s2top p) ipa = .error f) : s.walkBy p win off wr r ent rd1 rd2 = .error f := by
  rw [h, State.walkBy, if_neg (mt (windowBad_iff e).mp hb), if_neg hl, if_neg hk, h1]
  dsimp only
  rw [h2]
variable {pa : Nat} {w2 : Bool} (h2 : walk2 rd2 (s.s2top p) ipa = .ok (pa, w2))
include h2
/-- A memory window's access goes where both stages lead, if a write may. -/
theorem walkBy_memory : (s.walkBy p win off wr r ent rd1 rd2).map Prod.fst =
    if (wr && !(e.testBit 3 && w1 && w2)) = true then .error ⟨0x08, 0⟩ else targetOf pa := by
  rw [h, State.walkBy, if_neg (mt (windowBad_iff e).mp hb), if_neg hl, if_neg hk, h1]
  dsimp only
  rw [h2]
  dsimp only
  split
  · rfl
  · cases targetOf pa <;> rfl
end

/-- Where a PA leads. -/
theorem targetOf_hbm {pa : Nat} (h : pa < 0xC0_0000_0000) : targetOf pa = .ok (.hbm pa) := if_pos h
theorem targetOf_host {pa : Nat} (h : 0x8000_0000_0000 ≤ pa) (g : pa ≤ 0xFFFF_FFFF_FFFF) : targetOf pa = .ok (.host (pa - 2 ^ 47)) := by
  rw [targetOf, hbmTop, if_neg (by omega), if_pos ⟨h, g⟩]
theorem targetOf_none {pa : Nat} (h : 0xC0_0000_0000 ≤ pa) (g : pa < 0x8000_0000_0000 ∨ 0xFFFF_FFFF_FFFF < pa) : targetOf pa = .error ⟨0x09, 4⟩ := by
  rw [targetOf, hbmTop, if_neg (by omega), if_neg (by omega)]

theorem ofNat_field (n e hi lo : Nat) (h : hi + 1 - lo = n) : BitVec.ofNat n (fld e hi lo) = BitVec.ofNat n (e / 2 ^ lo) := by
  apply BitVec.eq_of_toNat_eq
  rw [BitVec.toNat_ofNat, BitVec.toNat_ofNat, fld, h, Nat.mod_mod]

theorem accessesAreTranslated : Claims.AccessesAreTranslated := by
  intro s t p va wr r hnone win off gives stops
  have both : ∀ {y}, s.lookVA none p va wr r = y → gives y := fun e => ⟨(translate_eq_look va wr r hnone).trans e, e⟩
  refine ⟨fun f => translate_fault_keeps va wr r hnone, fun z => both (look_reserved va wr r z), fun z => ?_⟩
  intro entry
  have walks : ∀ {g y}, s.walkBy p (.ofNat 16 win) off wr r entry (s.rd1 none p (.ofNat 16 win)) (s.rd2 none p) = g → g.map Prod.fst = y → gives y := by
    intro g y hg hy
    refine both ((look_walk va wr r z ?_).trans hy)
    have hwin : (BitVec.ofNat 16 (bfld va 79 64)).toNat = win := by
      rw [BitVec.toNat_ofNat]
      exact Nat.mod_mod _ _
    have hent : s.windowV none p (.ofNat 16 (bfld va 79 64)) = entry := by
      change s.ipaNum p (fld (s.part p).wtbase.toNat 47 20 * 2 ^ 20 + 16 * (BitVec.ofNat 16 (bfld va 79 64)).toNat) 16 = entry
      rw [hwin]
      rfl
    have hoff : bfld va 47 0 = off := by rw [bfld, fld, Nat.pow_zero, Nat.div_one]
    rw [State.walkVA, hent, hoff]
    exact hg
  refine ⟨fun f h => walks (walkBy_entry_fault h) rfl, fun e h => ?_⟩
  intro malformed beyond
  refine ⟨fun hb => walks (walkBy_malformed h hb) rfl, fun hb hl => walks (walkBy_beyond h hb hl) rfl, fun hb hl hk => ?_, fun hb hl hk => ?_⟩
  · intro auth
    have hp := walkBy_peer (s := s) (p := p) (win := .ofNat 16 win) (wr := wr) (r := r) (rd1 := s.rd1 none p (.ofNat 16 win)) (rd2 := s.rd2 none p) h hb hl hk
    rw [ofNat_field 8 e 111 104 rfl, ofNat_field 16 e 127 112 rfl] at hp
    refine ⟨fun hok => ⟨fun ha => walks rfl (hp.trans ?_), fun ha => walks rfl (hp.trans ?_)⟩, fun hbad => walks rfl (hp.trans ?_)⟩
    · rw [State.toPeer, if_neg (by rw [hok]; decide), if_pos ha]
    · rw [State.toPeer, if_neg (by rw [hok]; decide), if_neg (by rw [ha]; decide)]
      rfl
    · rw [State.toPeer, if_pos hbad]
      rfl
  · intro one
    have hk' : ¬ e % 4 = 2 := by omega
    refine ⟨fun f h1 => walks (walkBy_stage1_fault h hb hl hk' h1) rfl, fun ipa w1 h1 =>
      ⟨fun f h2 => walks (walkBy_stage2_fault h hb hl hk' h1 h2) rfl, fun pa w2 h2 => ?_⟩⟩
    intro writes
    have hm := walkBy_memory (s := s) (p := p) (win := .ofNat 16 win) (wr := wr) (r := r) (rd2 := s.rd2 none p) h hb hl hk' h1 h2
    have hwr : (wr && !(e.testBit 3 && w1 && w2)) = true ↔ wr = true ∧ ¬ writes := by
      simp only [writes, Bool.and_eq_true, Bool.not_eq_true', Bool.eq_false_iff, ne_eq, and_assoc]
    refine ⟨fun h1 h2 => walks rfl (hm.trans (if_pos (hwr.mpr ⟨h1, h2⟩))), fun hok => ?_⟩
    have ht : ∀ {y}, targetOf pa = y → gives y := fun hy =>
      walks rfl (hm.trans ((if_neg fun e => (hwr.mp e).elim fun a b => hok.elim (fun c => by rw [c] at a; cases a) b).trans hy))
    exact ⟨fun h => ht (targetOf_hbm h), fun h g => ht (targetOf_host h g), fun h g => ht (targetOf_none h g)⟩

end Sys2Proof.Proofs.Translation
end

section
/-! PROOFS. Invalidations of TLB entries, and scrubbing (R338, R341, R342, R357). -/
namespace Sys2Proof.Proofs.Invalidation
open Sys2Proof Sys2Proof.Machine
open Sys2Proof.Proofs.FaultRings Sys2Proof.Proofs.Ownership
set_option Elab.async false

/-! ## What leaves the TLBs -/

/-- The entries of a die and of a tile after a drop. -/
theorem vget_tlbDrop (s : State) (hit : TlbItem → Bool) (d : Nat) : vget (s.tlbDrop hit).tlb d [] = (vget s.tlb d []).filter fun x => !hit x := by
  change (s.tlb.map fun l => l.filter fun x => !hit x).toList.getD d [] = _
  rw [Vector.toList_map]
  exact List.getD_map (l := s.tlb.toList) (d := ([] : List TlbItem)) (n := d) fun l => l.filter fun x => !hit x
theorem tile_tlbDrop (s : State) (hit : TlbItem → Bool) (t : Nat) : ((s.tlbDrop hit).tile t).tlb = (s.tile t).tlb.filter fun x => !hit x := by
  change ((alGet (s.tiles.map fun (x : Nat × Tile) => (x.1, { x.2 with tlb := x.2.tlb.filter fun y => !hit y })) t).getD {}).tlb = _
  rw [alGet_map fun x : Tile => { x with tlb := x.tlb.filter fun y => !hit y }]
  change _ = ((alGet s.tiles t).getD {}).tlb.filter _
  cases alGet s.tiles t <;> rfl

/-- The state has lost from its TLBs the entries of a partition that a property names, and no other. -/
def Drops (s u : State) (p : PartId) (hit : TlbItem → Prop) : Prop :=
  (∀ (d : Nat) (x : TlbItem), x ∈ vget u.tlb d [] ↔ x ∈ vget s.tlb d [] ∧ ¬ (x.part = p ∧ hit x)) ∧
    ∀ (t : Nat) (x : TlbItem), x ∈ (u.tile t).tlb ↔ x ∈ (s.tile t).tlb ∧ ¬ (x.part = p ∧ hit x)
theorem drops_tlbDrop (s : State) (p : PartId) {f : TlbItem → Bool} {hit : TlbItem → Prop} (h : ∀ x, x.part = p → (f x = true ↔ hit x)) :
    Drops s (s.tlbDrop fun x => x.part == p && f x) p hit := by
  have e : ∀ x : TlbItem, (!(x.part == p && f x)) = true ↔ ¬ (x.part = p ∧ hit x) := fun x => by
    simp only [Bool.not_eq_true', Bool.eq_false_iff, ne_eq, Bool.and_eq_true, beq_iff_eq]
    exact not_congr ⟨fun g => ⟨g.1, (h x g.1).mp g.2⟩, fun g => ⟨g.1, (h x g.1).mpr g.2⟩⟩
  refine ⟨fun d x => ?_, fun t x => ?_⟩
  · rw [vget_tlbDrop, List.mem_filter, e]
  · rw [tile_tlbDrop, List.mem_filter, e]

/-! ## Requests -/

/-- The entries that a request names. -/
def Named (q : InvReq) (x : TlbItem) : Prop :=
  match q, x with
  | .all, .tab e => e.win ≠ none
  | .all, _ => True
  | .window w, .done e => e.win = w
  | .window w, .win e => e.win = w
  | .window w, .tab e => e.win = some w
  | .page w pg, .done e => e.win = w ∧ (e.peer ≠ none ∨ pg.toNat / 2 ^ e.vlog = e.vpn / 2 ^ e.vlog)
  | .page w _, .win e => e.win = w
  | .page w pg, .tab e => e.win = some w ∧ pg.toNat / 2 ^ e.log = e.page / 2 ^ e.log
theorem hits_iff (q : InvReq) (x : TlbItem) : q.hits x = true ↔ Named q x := by
  cases q <;> cases x <;> simp [InvReq.hits, Named, samePage, Option.isSome_iff_ne_none]
/-- The entries that a stage-2 request names. -/
def Named2 (s : State) (q : S2Inv) (x : TlbItem) : Prop :=
  match q.page, x with
  | none, _ => True
  | some pg, .done e => e.peer = none ∧ pg.toNat / 2 ^ e.ilog = e.ipn / 2 ^ e.ilog
  | some pg, .win e => pg.toNat = s.winAt e.part e.win / 65536
  | some pg, .tab e => if e.win ≠ none then pg.toNat = e.addr / 65536 else pg.toNat / 2 ^ e.log = e.page / 2 ^ e.log
theorem s2hits_iff (s : State) (q : S2Inv) (x : TlbItem) : s.s2hits q x = true ↔ Named2 s q x := by
  obtain ⟨p, pg⟩ := q
  cases pg with
  | none => simp [State.s2hits, Named2]
  | some pg =>
    cases x with
    | done e => simp [State.s2hits, Named2, samePage]
    | win e => simp [State.s2hits, Named2, samePage]
    | tab e => cases h : e.win <;> simp [State.s2hits, Named2, samePage, h]

section
variable {s : State} {p : PartId} {q : InvReq} {l : List InvReq}
theorem tlbinv_room (h : (s.part p).invq.length < 16) : s.tlbinv p q = s.modPart p fun x => { x with invq := x.invq ++ [q], tlbErr := false } := by
  rw [State.tlbinv, modPart_eq, if_neg (Nat.not_le.mpr h)]; rfl
theorem tlbinv_full (h : 16 ≤ (s.part p).invq.length) : s.tlbinv p q = s.modPart p id := by
  rw [State.tlbinv, modPart_eq, if_pos h]; rfl
theorem tlbinvComplete_idle (h : (s.part p).invq = []) : exec (.tlbinvComplete p) s = .next s := by
  change execTlbinvComplete p s = _
  simp only [execTlbinvComplete, h]
theorem tlbinvComplete_waits (h : (s.part p).invq = q :: l) (w : s.invHeld p q = true) : exec (.tlbinvComplete p) s = .next s := by
  change execTlbinvComplete p s = _
  simp only [execTlbinvComplete, h, w, if_true]
theorem tlbinvComplete_drops (h : (s.part p).invq = q :: l) (w : s.invHeld p q = false) : exec (.tlbinvComplete p) s =
    .next ((s.tlbDrop fun x => x.part == p && q.hits x).modPart p fun x => { x with invq := l }) := by
  change execTlbinvComplete p s = _
  simp only [execTlbinvComplete, h, w, Bool.false_eq_true, if_false]
end
section
variable {s : State} {q : S2Inv} {l : List S2Inv}
theorem s2inv_room (h : s.s2q.length < 16) : s.s2inv q = { s with s2q := s.s2q ++ [q] } := if_neg (Nat.not_le.mpr h)
theorem s2inv_full (h : 16 ≤ s.s2q.length) : s.s2inv q = s := if_pos h
theorem s2invComplete_idle (h : s.s2q = []) : exec .s2invComplete s = .next s := by
  change execS2invComplete s = _
  simp only [execS2invComplete, h]
theorem s2invComplete_waits (h : s.s2q = q :: l) (w : s.invHeld q.part .all = true) : exec .s2invComplete s = .next s := by
  change execS2invComplete s = _
  simp only [execS2invComplete, h, w, if_true]
theorem s2invComplete_drops (h : s.s2q = q :: l) (w : s.invHeld q.part .all = false) : exec .s2invComplete s =
    .next { s.tlbDrop (fun x => x.part == q.part && s.s2hits q x) with s2q := l } := by
  change execS2invComplete s = _
  simp only [execS2invComplete, h, w, Bool.false_eq_true, if_false]
end

/-- A request that waits for every access of its partition waits exactly for these. -/
theorem invHeld_all_iff (s : State) (p : PartId) : s.invHeld p .all = true ↔
    (∃ o ∈ s.ops, o.part = p ∧ (o.out = true ∨ ∃ a, o.kind = .elem a ∧ a.fixed.isSome = true)) ∨
      ∃ f ∈ s.frames, f.key.part = p ∧ ∃ x ∈ f.vers, x.spillIds ≠ [] ∧ x.spill.isSome = true := by
  have way : ∀ o : Op, o.onWay = true ↔ o.out = true ∨ ∃ a, o.kind = .elem a ∧ a.fixed.isSome = true := by
    intro o
    unfold Op.onWay
    rw [Bool.or_eq_true]
    refine or_congr_right ?_
    cases o.kind <;> simp
  have wins : s.spillWins p ≠ [] ↔ ∃ f ∈ s.frames, f.key.part = p ∧ ∃ x ∈ f.vers, x.spillIds ≠ [] ∧ x.spill.isSome = true := by
    rw [State.spillWins, Ne, List.flatten_eq_nil_iff]
    simp only [List.forall_mem_map, List.mem_filter, beq_iff_eq, and_imp, List.filterMap_eq_nil_iff]
    push Not
    refine exists_congr fun f => and_congr_right fun _ => and_congr_right fun _ => exists_congr fun x => and_congr_right fun _ => ?_
    cases hi : x.spillIds <;> cases hs : x.spill <;> simp
  unfold State.invHeld
  rw [Bool.or_eq_true, List.any_eq_true]
  refine or_congr ?_ ?_
  · simp only [Bool.and_eq_true, beq_iff_eq, way]
  · rw [← wins]
    cases s.spillWins p <;> simp

/-- A TLBINV request is accepted into its queue, and drops its entries once no access that they translated is on its way. -/
theorem tlbinv_request (s : State) {p : PartId} {i : Instr} {q : InvReq} (run : exec i s = .next (s.tlbinv p q)) {hit : TlbItem → Prop}
    (hq : ∀ x, Named q x ↔ hit x) :
    ((s.part p).invq.length < 16 → exec i s = .next (s.modPart p fun x => { x with invq := x.invq ++ [q], tlbErr := false })) ∧
    (16 ≤ (s.part p).invq.length → exec i s = .next (s.modPart p id)) ∧
    ∀ l, (s.part p).invq = q :: l →
      (s.invHeld p q = true → exec (.tlbinvComplete p) s = .next s) ∧
      (s.invHeld p q = false → ∃ u, exec (.tlbinvComplete p) s = .next u ∧ (u.part p).invq = l ∧ Drops s u p hit) := by
  refine ⟨fun h => by rw [run, tlbinv_room h], fun h => by rw [run, tlbinv_full h], fun l h => ⟨tlbinvComplete_waits h, fun w =>
    ⟨_, tlbinvComplete_drops h w, ?_, ?_⟩⟩⟩
  · rw [modPart_eq, part_setPart, if_pos rfl]
  · exact drops_tlbDrop s p fun x _ => (hits_iff q x).trans (hq x)
/-- So is a stage-2 request. -/
theorem s2inv_request (s : State) {i : Instr} {q : S2Inv} (run : exec i s = .next (s.s2inv q)) {hit : TlbItem → Prop}
    (hq : ∀ x, Named2 s q x ↔ hit x) :
    (s.s2q.length < 16 → exec i s = .next { s with s2q := s.s2q ++ [q] }) ∧ (16 ≤ s.s2q.length → exec i s = .next s) ∧
    ∀ l, s.s2q = q :: l →
      (s.invHeld q.part .all = true → exec .s2invComplete s = .next s) ∧
      (s.invHeld q.part .all = false → ∃ u, exec .s2invComplete s = .next u ∧ u.s2q = l ∧ Drops s u q.part hit) :=
  ⟨fun h => by rw [run, s2inv_room h], fun h => by rw [run, s2inv_full h], fun l h => ⟨s2invComplete_waits h, fun w =>
    ⟨_, s2invComplete_drops h w, rfl, drops_tlbDrop s q.part fun x _ => (s2hits_iff s q x).trans (hq x)⟩⟩⟩

theorem invalidationsDropTheirEntries : Claims.InvalidationsDropTheirEntries := by
  intro s p w pg drops same
  refine ⟨?_, tlbinvComplete_idle, ?_, s2invComplete_idle, invHeld_all_iff s p⟩
  · intro q hq
    simp only [List.mem_cons, List.not_mem_nil, or_false] at hq
    rcases hq with rfl | rfl | rfl
    · exact tlbinv_request s rfl fun x => by cases x <;> exact Iff.rfl
    · exact tlbinv_request s rfl fun x => by cases x <;> exact Iff.rfl
    · exact tlbinv_request s rfl fun x => by cases x <;> exact Iff.rfl
  · intro q hq
    simp only [List.mem_cons, List.not_mem_nil, or_false] at hq
    rcases hq with rfl | rfl
    · exact s2inv_request s rfl fun x => by cases x <;> exact Iff.rfl
    · exact s2inv_request s rfl fun x => by cases x <;> exact Iff.rfl

/-! ## What a slot holds after it is written -/

/-- A frame that was set reads so; any other as before. -/
theorem frame_setFrame (s : State) (f : Frame) (k : FrameKey) : (s.setFrame f).frame k = if k = f.key then f else s.frame k := by
  unfold State.setFrame
  by_cases hany : s.frames.any (fun g => g.key == f.key) = true
  · rw [if_pos hany]
    change ((s.frames.map fun g => if g.key = f.key then f else g).find? fun g => g.key == k).getD (s.newFrame k) = _
    by_cases hk : k = f.key
    · subst hk
      rw [if_pos rfl]
      have hset : (s.frames.map fun g => if g.key = f.key then f else g).find? (fun g => g.key == f.key) = some f := by
        obtain ⟨g, hg, e⟩ := List.any_eq_true.mp hany
        rw [List.find?_map]
        cases h : s.frames.find? ((fun g => g.key == f.key) ∘ fun g => if g.key = f.key then f else g) with
        | none =>
          have := List.find?_eq_none.mp h g hg
          simp [beq_iff_eq.mp e] at this
        | some g =>
          have := List.find?_some h
          simp only [Function.comp, beq_iff_eq] at this
          simp only [Option.map_some]
          split
          · rfl
          · next ne => rw [if_neg ne] at this; exact absurd this ne
      rw [hset, Option.getD_some]
    · rw [if_neg hk, List.find?_map, State.frame]
      have e : ((fun g => g.key == k) ∘ fun g => if g.key = f.key then f else g) = fun g : Frame => g.key == k := by
        funext g
        simp only [Function.comp]
        split
        · next h => rw [h]
        · rfl
      rw [e]
      cases h : s.frames.find? fun g => g.key == k with
      | none => rfl
      | some g =>
        have hg : g.key = k := by simpa using List.find?_some h
        simp [hg, hk]
  · rw [if_neg hany]
    change ((s.frames ++ [f]).find? fun g => g.key == k).getD (s.newFrame k) = _
    rw [List.find?_append]
    by_cases hk : k = f.key
    · subst hk
      have : s.frames.find? (fun g => g.key == f.key) = none := List.find?_eq_none.mpr fun g hg e => hany (List.any_eq_true.mpr ⟨g, hg, e⟩)
      simp [this]
    · have : ¬ f.key = k := fun e => hk e.symm
      rw [if_neg hk, State.frame]
      cases h : s.frames.find? fun g => g.key == k <;> simp [this]
/-- A version that was put is the one that its number finds; others are as before. -/
theorem find_putVer (l : List Ver) (x : Ver) (v : Nat) :
    (putVer l x).find? (fun y => y.v == v) = if v = x.v then some x else l.find? fun y => y.v == v := by
  induction l with
  | nil =>
    by_cases h : v = x.v
    · simp [putVer, h]
    · simpa [putVer, h] using fun e => h e.symm
  | cons y l ih =>
    unfold putVer
    by_cases hlt : x.v < y.v
    · rw [if_pos hlt]
      by_cases h : v = x.v
      · simp [h]
      · rw [List.find?_cons_of_neg (by simpa using fun e => h e.symm), if_neg h]
    · rw [if_neg hlt]
      by_cases he : x.v = y.v
      · rw [if_pos he]
        by_cases h : v = x.v
        · simp [h]
        · rw [List.find?_cons_of_neg (by simpa using fun e => h e.symm), if_neg h, List.find?_cons_of_neg (by simpa using fun e => h (by omega))]
      · rw [if_neg he]
        by_cases h : y.v = v
        · rw [List.find?_cons_of_pos (by simpa using h), if_neg (by omega), List.find?_cons_of_pos (by simpa using h)]
        · rw [List.find?_cons_of_neg (by simpa using h), List.find?_cons_of_neg (by simpa using h), ih]
/-- A version that was changed, its number kept. -/
theorem ver_modVer (f : Frame) (v w : Nat) (g : Ver → Ver) (hg : ∀ x, (g x).v = x.v) :
    (f.modVer v g).ver w = if w = v then some (g ((f.ver v).getD { v := v, st := .absent })) else f.ver w := by
  have hv : (g ((f.ver v).getD { v := v, st := .absent })).v = v := by
    rw [hg]
    cases h : f.ver v with
    | none => rfl
    | some x => simpa using List.find?_some h
  change (putVer f.vers _).find? (fun y => y.v == w) = _
  rw [find_putVer, hv]
  rfl

/-- Zeros without poison. -/
def blank (y : Ver) : Ver := { y with data := [], pois := [] }
/-- What an occupant of a pool slot holds is zeros without poison. -/
def Emptied (w : SlotUse) (u : State) : Prop :=
  (∀ k v y, w = .ver k v → (u.frame k).ver v = some y → y.data = [] ∧ y.pois = []) ∧
  (∀ t c, w = .refill t → (u.tile t).rc = some c → c.data = [] ∧ c.pois = []) ∧
  ∀ k gen v, w = .kept k gen v → ∀ r ∈ u.regions, ∀ f, Reclaim.init f ∈ r.defer → f.key = k → f.gen = gen →
    ∀ y, f.ver v = some y → y.data = [] ∧ y.pois = []

/-- A version of a history after one of its versions was emptied. -/
theorem ver_emptied {f : Frame} {v w : Nat} {y : Ver} (h : (f.modVer v blank).ver w = some y) :
    (y.data = [] ∧ y.pois = []) ∨ (w ≠ v ∧ f.ver w = some y) := by
  rw [ver_modVer f v w blank fun _ => rfl] at h
  split at h
  · cases h; exact .inl ⟨rfl, rfl⟩
  · next ne => exact .inr ⟨ne, h⟩
/-- A history that is kept after a change of some history that is. -/
theorem mem_modKept {s : State} {k : FrameKey} {gen : Nat} {g : Frame → Frame} {r : Region} {f : Frame} (hr : r ∈ (s.modKept k gen g).regions)
    (hf : Reclaim.init f ∈ r.defer) : ∃ q ∈ s.regions, ∃ f', Reclaim.init f' ∈ q.defer ∧ f = if f'.key = k ∧ f'.gen = gen then g f' else f' := by
  obtain ⟨q, hq, rfl⟩ := List.mem_map.mp hr
  obtain ⟨d, hd, e⟩ := List.mem_map.mp hf
  refine ⟨q, hq, ?_⟩
  cases d with
  | init f' =>
    refine ⟨f', hd, ?_⟩
    simp only at e
    split at e <;> next c => cases e; simp [c]
  | recl | unpin | pin => cases e

/-- Emptying a slot empties its occupant, and keeps every other empty. -/
theorem emptied_putSlot (s : State) (w x : SlotUse) (h : w = x ∨ Emptied w s) : Emptied w (s.putSlot x [] []) := by
  cases x with
  | ver k v =>
    change Emptied w (s.setFrame ((s.frame k).modVer v blank))
    have hk : ((s.frame k).modVer v blank).key = k := frame_key s k
    obtain ⟨-, hr⟩ := setFrame_tables s ((s.frame k).modVer v blank)
    refine ⟨fun k' v' y hw hy => ?_, fun t c hw => (h.resolve_left (by rw [hw]; exact nofun)).2.1 t c hw ∘ fun e => ?_,
      fun k' gen v' hw r m => (h.resolve_left (by rw [hw]; exact nofun)).2.2 k' gen v' hw r (hr ▸ m)⟩
    · rw [frame_setFrame, hk] at hy
      have old : w ≠ .ver k v → (s.frame k').ver v' = some y → y.data = [] ∧ y.pois = [] := fun ne => (h.resolve_left ne).1 k' v' y hw
      split at hy
      · next e =>
        rcases ver_emptied hy with he | ⟨ne, hy⟩
        · exact he
        · exact old (fun g => by rw [hw] at g; cases g; exact ne rfl) (e ▸ hy)
      · next ne => exact old (fun g => by rw [hw] at g; cases g; exact ne rfl) hy
    · unfold State.setFrame at e
      split at e <;> exact e
  | kept k gen v =>
    change Emptied w (s.modKept k gen fun f => f.modVer v blank)
    refine ⟨fun k' v' y hw => (h.resolve_left (by rw [hw]; exact nofun)).1 k' v' y hw,
      fun t c hw => (h.resolve_left (by rw [hw]; exact nofun)).2.1 t c hw, fun k' gen' v' hw r hr f hf hk hg y hy => ?_⟩
    obtain ⟨q, hq, f', hf', e⟩ := mem_modKept hr hf
    have old : w ≠ .kept k gen v → f'.key = k' → f'.gen = gen' → f'.ver v' = some y → y.data = [] ∧ y.pois = [] :=
      fun ne a b c => (h.resolve_left ne).2.2 k' gen' v' hw q hq f' hf' a b y c
    split at e
    · next c =>
      subst e
      rcases ver_emptied hy with he | ⟨ne, hy⟩
      · exact he
      · exact old (fun g => by rw [hw] at g; cases g; exact ne rfl) hk hg hy
    · next c =>
      subst e
      exact old (fun g => by rw [hw] at g; cases g; exact c ⟨hk, hg⟩) hk hg hy
  | refill t =>
    refine ⟨fun k' v' y hw => (h.resolve_left (by rw [hw]; exact nofun)).1 k' v' y hw, fun t' c hw hc => ?_,
      fun k' gen v' hw => (h.resolve_left (by rw [hw]; exact nofun)).2.2 k' gen v' hw⟩
    change ((s.setTile t _).tile t').rc = some c at hc
    rw [tile_setTile] at hc
    split at hc
    · obtain ⟨c', -, rfl⟩ := Option.map_eq_some_iff.mp hc
      exact ⟨rfl, rfl⟩
    · next ne => exact (h.resolve_left (by rw [hw]; intro g; cases g; exact ne rfl)).2.1 t' c hw hc

/-! ## A scrub -/

/-- Emptying a slot changes frames, regions and tiles alone. -/
theorem putSlot_frame (s : State) (w : SlotUse) (d : Mem) (l : List Nat) :
    ∃ fr rg ti, s.putSlot w d l = { s with frames := fr, regions := rg, tiles := ti } := by
  cases w with
  | ver k v =>
    change ∃ fr rg ti, s.setFrame _ = _
    unfold State.setFrame
    split
    · exact ⟨_, s.regions, s.tiles, rfl⟩
    · exact ⟨_, s.regions, s.tiles, rfl⟩
  | kept => exact ⟨s.frames, _, s.tiles, rfl⟩
  | refill => exact ⟨s.frames, s.regions, _, rfl⟩
/-- Where a slot lies does not depend on what it holds. -/
theorem slotPa_frame (s : State) (fr : List Frame) (rg : List Region) (ti : List (Nat × Tile)) (p : PartId) (i : Nat) :
    State.slotPa { s with frames := fr, regions := rg, tiles := ti } p i = s.slotPa p i := rfl
/-- A slot lies among the granules. -/
def inGranules (s : State) (g n : Nat) (h : SlotHolds) : Bool :=
  (s.slotPa h.part h.slot).any fun q => decide (4096 * g ≤ q ∧ q < 4096 * (g + n))
theorem scrubs_frame (g n : Nat) (l : List SlotHolds) (s : State) :
    ∃ fr rg ti, l.foldl (fun s h => if inGranules s g n h then s.putSlot h.who [] [] else s) s = { s with frames := fr, regions := rg, tiles := ti } := by
  induction l generalizing s with
  | nil => exact ⟨s.frames, s.regions, s.tiles, rfl⟩
  | cons h l ih =>
    rw [List.foldl_cons]
    split
    · obtain ⟨fr, rg, ti, e⟩ := putSlot_frame s h.who [] []
      obtain ⟨fr', rg', ti', e'⟩ := ih (s.putSlot h.who [] [])
      exact ⟨fr', rg', ti', by rw [e', e]⟩
    · exact ih s
/-- What the slots of a list hold among the granules is emptied. -/
theorem scrubs_empty (g n : Nat) (l : List SlotHolds) (s : State) (w : SlotUse) (hw : Emptied w s ∨ ∃ h ∈ l, h.who = w ∧ inGranules s g n h = true) :
    Emptied w (l.foldl (fun s h => if inGranules s g n h then s.putSlot h.who [] [] else s) s) := by
  induction l generalizing s with
  | nil => exact hw.resolve_right nofun
  | cons h l ih =>
    rw [List.foldl_cons]
    obtain ⟨fr, rg, ti, e⟩ := putSlot_frame s h.who [] []
    have same : ∀ x, inGranules (s.putSlot h.who [] []) g n x = inGranules s g n x := fun x => by rw [e]; rfl
    rcases hw with hw | ⟨x, hx, rfl, hg⟩
    · split
      · exact ih _ (.inl (emptied_putSlot s w h.who (.inr hw)))
      · exact ih _ (.inl hw)
    · rcases List.mem_cons.mp hx with rfl | hx
      · rw [if_pos hg]
        exact ih _ (.inl (emptied_putSlot s _ _ (.inl rfl)))
      · split
        · exact ih _ (.inr ⟨x, hx, rfl, (same x).trans hg⟩)
        · exact ih _ (.inr ⟨x, hx, rfl, hg⟩)
theorem scrubSlots_eq (s : State) (g n : Nat) : s.scrubSlots g n =
    s.slotsHeld.foldl (fun s h => if inGranules s g n h then s.putSlot h.who [] [] else s) s := rfl

/-- A scrub that is done. -/
def scrubbed (s : State) (g n : Nat) : State :=
  { s.scrubSlots g n with
    scrub := none, regions := (s.scrubSlots g n).regions.map fun r => r.outside [(4096 * g, 4096 * n)]
    hbm := memClear (s.scrubSlots g n).hbm (4096 * g) (4096 * (g + n))
    pq := (s.scrubSlots g n).pq.filter fun x => !decide (16 * g ≤ x.1 ∧ x.1 < 16 * (g + n))
    badBlk := (s.scrubSlots g n).badBlk.filter fun b => !decide (16 * g ≤ b ∧ b < 16 * (g + n)) }
theorem scrubComplete_idle {s : State} (h : s.scrub = none) : exec .scrubComplete s = .next s := by
  change execScrubComplete s = _
  simp only [execScrubComplete, h]
theorem scrubComplete_done {s : State} {g n : Nat} (h : s.scrub = some (g, n)) : exec .scrubComplete s = .next (scrubbed s g n) := by
  change execScrubComplete s = _
  simp only [execScrubComplete, h]
  rfl
theorem emptied_scrubbed {s : State} {w : SlotUse} {g n : Nat} (h : Emptied w (s.scrubSlots g n)) : Emptied w (scrubbed s g n) := by
  obtain ⟨h1, h2, h3⟩ := h
  refine ⟨h1, h2, fun k gen v hw r hr => ?_⟩
  obtain ⟨q, hq, rfl⟩ := List.mem_map.mp hr
  exact h3 k gen v hw q hq

theorem scrubbingZeroesGranules : Claims.ScrubbingZeroesGranules := by
  intro s g n
  refine ⟨fun h => ⟨?_, scrubComplete_idle h⟩, fun h => ?_, fun hwf h => ⟨_, scrubComplete_done h, rfl, ?_⟩, fun h hh q hq lo hi hs =>
    ⟨_, scrubComplete_done hs, ?_⟩⟩
  · change execScrub g n s = _
    simp [execScrub, h]
  · change execScrub g n s = _
    simp [execScrub, Option.isSome_iff_ne_none.mpr h]
  · obtain ⟨fr, rg, ti, e⟩ := scrubs_frame g.toNat n.toNat s.slotsHeld s
    rw [← scrubSlots_eq] at e
    unfold scrubbed
    rw [e]
    refine ⟨memClear_wf hwf _ _, fun a => memGet_clear _ _ _ a, fun x => ?_, fun b => ?_⟩
    · simp only [List.mem_filter, Bool.not_eq_true', decide_eq_false_iff_not]
    · simp only [List.mem_filter, Bool.not_eq_true', decide_eq_false_iff_not]
  · refine emptied_scrubbed ?_
    rw [scrubSlots_eq]
    exact scrubs_empty _ _ _ _ _ (.inr ⟨h, hh, rfl, by simp [inGranules, hq, lo, hi]⟩)

/-- Settles O45: walks level by level, accesses check by check, invalidations by the entries they name, and a scrub slot by slot. -/
theorem addressesAreTranslatedAndInvalidated : Obligations.AddressesAreTranslatedAndInvalidated :=
  ⟨Translation.walksReadThreeLevels, Translation.accessesAreTranslated, invalidationsDropTheirEntries, scrubbingZeroesGranules⟩

end Sys2Proof.Proofs.Invalidation
end

section
/-! PROOFS. Reset, boot and recovery (R376 to R378). -/
namespace Sys2Proof.Proofs.Boot
open Sys2Proof Sys2Proof.Machine
set_option Elab.async false

/-- A change of STAGE changes what has been sent to the host besides, and nothing else. -/
theorem setStage_frame (s : State) (n : BitVec 4) : ∃ l, s.setStage n = { s with stage := n, hostOut := l } := by
  unfold State.setStage
  split
  · next h => exact ⟨s.hostOut, by rw [← h]⟩
  · exact ⟨_, rfl⟩

section
variable (s : State)
/-- The device at STAGE 1, as its reset leaves it. -/
theorem stage1_frame : ∃ l, s.fresh0.setStage 1 = { s.fresh0 with stage := 1, hostOut := l } := setStage_frame _ _
/-- HBM that does not train leaves STAGE 6 with cause 5. -/
theorem boot_hbm_fails (f : Bool) : ∃ l, s.boot ⟨false, f⟩ = { s.fresh0 with stage := 6, cause := 5, hostOut := l } := by
  obtain ⟨l, h⟩ := stage1_frame s
  obtain ⟨m, g⟩ := setStage_frame (s.fresh0.setStage 1) 6
  refine ⟨m, ?_⟩
  change { (s.fresh0.setStage 1).setStage 6 with cause := 5 } = _
  rw [g, h]
/-- The device at STAGE 2. -/
theorem stage2_frame : ∃ l, (s.fresh0.setStage 1).setStage 2 = { s.fresh0 with stage := 2, hostOut := l } := by
  obtain ⟨l, h⟩ := stage1_frame s
  obtain ⟨m, g⟩ := setStage_frame (s.fresh0.setStage 1) 2
  exact ⟨m, by rw [g, h]⟩
/-- A device at STAGE 2 that fails with a cause. -/
theorem stage2_fails (c : Byte) : ∃ l, { ((s.fresh0.setStage 1).setStage 2).setStage 6 with cause := c } =
    { s.fresh0 with stage := 6, cause := c, hostOut := l } := by
  obtain ⟨l, h⟩ := stage2_frame s
  obtain ⟨m, g⟩ := setStage_frame ((s.fresh0.setStage 1).setStage 2) 6
  exact ⟨m, by rw [g, h]⟩
/-- A flash that cannot be read gives cause 6. -/
theorem boot_flash_fails : ∃ l, s.boot ⟨true, false⟩ = { s.fresh0 with stage := 6, cause := 6, hostOut := l } := stage2_fails s 6
theorem stage2_flash : ((s.fresh0.setStage 1).setStage 2).flash = s.flash := by
  obtain ⟨l, h⟩ := stage2_frame s
  rw [h]; rfl
/-- An image that fails its checks gives its cause. -/
theorem boot_image_fails {c : Byte} (h : imageCause s.flash = some c) :
    ∃ l, s.boot ⟨true, true⟩ = { s.fresh0 with stage := 6, cause := c, hostOut := l } := by
  have e : s.boot ⟨true, true⟩ = { ((s.fresh0.setStage 1).setStage 2).setStage 6 with cause := c } := by
    unfold State.boot
    simp only [Bool.not_true, Bool.false_eq_true, if_false, stage2_flash, h]
  rw [e]
  exact stage2_fails s c
/-- Where an image lies in HBM. -/
def imageIn (m : Mem) : Mem :=
  memWrite [] (leNat (memRead m 16 8)) ((memRead m 0 (leNat (memRead m 8 8))).take (hbmTop - leNat (memRead m 16 8)))
/-- Any other image starts. -/
theorem boot_starts (h : imageCause s.flash = none) :
    ∃ l, s.boot ⟨true, true⟩ = { s.fresh0 with
      stage := 3, hostOut := l, hbm := imageIn s.flash
      harts := vset s.fresh0.harts 0 { runs := true, entry := .ofNat 64 (leNat (memRead s.flash 24 8)) }
      hartOut := s.hartOut ++ [.resetHart0 (.ofNat 64 (leNat (memRead s.flash 24 8)))] } := by
  obtain ⟨l, e⟩ := stage2_frame s
  obtain ⟨m, g⟩ := setStage_frame { (s.fresh0.setStage 1).setStage 2 with hbm := imageIn s.flash } 3
  refine ⟨m, ?_⟩
  have b : s.boot ⟨true, true⟩ =
      (State.setStage { (s.fresh0.setStage 1).setStage 2 with hbm := imageIn s.flash } 3).startHart0 (.ofNat 64 (leNat (memRead s.flash 24 8))) := by
    have hb : ((s.fresh0.setStage 1).setStage 2).hbm = [] := by rw [e]; rfl
    unfold State.boot
    simp only [Bool.not_true, Bool.false_eq_true, if_false, stage2_flash, h, hb, imageIn, w64]
  have out : s.fresh0.hartOut = s.hartOut := rfl
  rw [b, g, e]
  simp only [State.startHart0, State.toHart, out]
end

/-- The image's bytes lie from its address on, as far as HBM reaches. -/
theorem memGet_imageIn (m : Mem) {i : Nat} (hi : i < leNat (memRead m 8 8)) (ht : leNat (memRead m 16 8) + i < hbmTop) :
    memGet (imageIn m) (leNat (memRead m 16 8) + i) = memGet m i := by
  rw [imageIn, memGet_write rfl, List.length_take, memRead_length, if_pos (by omega), Nat.add_sub_cancel_left]
  rw [List.getD_eq_getElem?_getD, List.getElem?_take, if_pos (by omega), ← List.getD_eq_getElem?_getD, memRead_getD _ _ _ _ hi, Nat.zero_add]

/-- An image without the mark of one. -/
theorem imageCause_unmarked {m : Mem} (h : leNat (memRead m 0 4) ≠ 0x4B58_4246) : imageCause m = some 1 := if_pos (.inl h)

section
variable {s : State} {n : BitVec 64}
theorem recovery_elsewhere (h6 : s.stage ≠ 6) (h7 : s.stage ≠ 7) : exec (.recoveryImageWrite n) s = .next s := by
  change execRecoveryImageWrite n s = _
  rw [execRecoveryImageWrite, if_neg h7, State.recover, if_pos h6]
variable (h6 : s.stage = 6)
include h6
theorem exec_recovery : exec (.recoveryImageWrite n) s = .next (s.recover n.toNat) := by
  change execRecoveryImageWrite n s = _
  rw [execRecoveryImageWrite, if_neg (by rw [h6]; decide)]
theorem recover_length (h : leNat (memRead (memSlice s.hbm 0 0x200_0000) 8 8) ≠ n.toNat) : s.recover n.toNat = { s with cause := 1 } := by
  rw [State.recover, if_neg (not_not_intro h6)]
  simp only [h, ne_eq, not_false_eq_true, if_true]
theorem recover_cause (h : leNat (memRead (memSlice s.hbm 0 0x200_0000) 8 8) = n.toNat) {c : Byte}
    (hc : imageCause (memSlice s.hbm 0 0x200_0000) = some c) : s.recover n.toNat = { s with cause := c } := by
  rw [State.recover, if_neg (not_not_intro h6)]
  simp only [h, ne_eq, not_true_eq_false, if_false, hc]
theorem recover_begins (h : leNat (memRead (memSlice s.hbm 0 0x200_0000) 8 8) = n.toNat)
    (hc : imageCause (memSlice s.hbm 0 0x200_0000) = none) :
    s.recover n.toNat = State.setStage { s with flash := [], recov := some (memSlice s.hbm 0 n.toNat) } 7 := by
  rw [State.recover, if_neg (not_not_intro h6)]
  simp only [h, ne_eq, not_true_eq_false, if_false, hc]
end

/-- Settles O50, by the outcome of each check of the boot ROM. -/
theorem resetBootsOrWaits : Obligations.ResetBootsOrWaits := by
  intro s n
  have reset : ∀ i u, s.boot i = u → exec (.deviceReset i) s = .next u := fun i u h => by rw [← h]; rfl
  refine ⟨fun f => ?_, ?_, ?_, imageCause_unmarked, imageCause_unmarked (by decide), recovery_elsewhere, fun h6 => ⟨fun h => ?_, fun h => ?_⟩,
    fun m h7 hm => ?_⟩
  · obtain ⟨l, h⟩ := boot_hbm_fails s f
    exact ⟨_, reset _ _ h, rfl, rfl, rfl, rfl, rfl⟩
  · obtain ⟨l, h⟩ := boot_flash_fails s
    exact ⟨_, reset _ _ h, rfl, rfl, rfl, rfl⟩
  · cases hc : imageCause s.flash with
    | some c =>
      obtain ⟨l, h⟩ := boot_image_fails s hc
      exact ⟨_, reset _ _ h, rfl, rfl, rfl, rfl⟩
    | none =>
      obtain ⟨l, h⟩ := boot_starts s hc
      refine ⟨_, reset _ _ h, rfl, rfl, ?_⟩
      dsimp only
      exact ⟨rfl, rfl, rfl, fun i => memGet_imageIn s.flash⟩
  · rw [exec_recovery h6, recover_length h6 h]
  · cases hc : imageCause (memSlice s.hbm 0 0x200_0000) with
    | some c =>
      change exec (.recoveryImageWrite n) s = _
      rw [exec_recovery h6, recover_cause h6 h hc]
    | none =>
      obtain ⟨l, e⟩ := setStage_frame { s with flash := [], recov := some (memSlice s.hbm 0 n.toNat) } 7
      refine ⟨_, (exec_recovery h6).trans (congrArg _ ((recover_begins h6 h hc).trans e)), rfl, rfl, rfl, rfl⟩
  · refine ⟨_, Config.freeBit s.freeCtr, Config.freeBit (s.freeCtr + 1), ?_, rfl⟩
    change execRecoveryImageWrite n s = _
    rw [execRecoveryImageWrite, if_pos h7, State.recovered]
    simp only [hm, State.drawBit]
    rfl

end Sys2Proof.Proofs.Boot
end

section
/-! PROOFS. Soft errors, the Shutter and power (R284, R364, R368, R369, R380, R381). -/
namespace Sys2Proof.Proofs.Errors
open Sys2Proof Sys2Proof.Machine
set_option Elab.async false

/-! ## Soft errors -/

/-- Where no place is the one that changes, nothing does. -/
theorem chg_elsewhere {α : Type} (l : List α) (k n : Nat) (f : α → α) (h : n < k ∨ k + l.length ≤ n) :
    (l.zipIdx k).map (fun x => if x.2 = n then f x.1 else x.1) = l := by
  induction l generalizing k with
  | nil => rfl
  | cons y l ih =>
    rw [List.length_cons] at h
    have ne : ¬ k = n := by omega
    rw [List.zipIdx_cons, List.map_cons, ih (k + 1) (by omega), if_neg ne]
/-- Changing the element at a place of a list. -/
theorem chg_at {α : Type} (l r : List α) (x : α) (f : α → α) : chg (l ++ x :: r) l.length f = l ++ f x :: r := by
  change ((l ++ x :: r).zipIdx.map fun x => if x.2 = l.length then f x.1 else x.1) = _
  rw [List.zipIdx_append, List.map_append, chg_elsewhere l 0 _ f (by omega), List.zipIdx_cons, List.map_cons,
    chg_elsewhere r _ _ f (by omega), if_pos (Nat.zero_add _)]

/-- A change of a region that keeps its key is what its key finds. -/
theorem region_modRegion (s : State) (k : Nat) (f : Region → Region) (hf : ∀ r, (f r).key = r.key) :
    (s.modRegion k f).region k = (s.region k).map f := by
  unfold State.region State.modRegion
  induction s.regions with
  | nil => rfl
  | cons r l ih =>
    rw [List.map_cons]
    by_cases h : r.key = k
    · rw [if_pos h, List.find?_cons_of_pos (by simp [hf, h]), List.find?_cons_of_pos (by simp [h])]
      rfl
    · rw [if_neg h, List.find?_cons_of_neg (by simpa using h), List.find?_cons_of_neg (by simpa using h), ih]

/-- A region with a token marked in flight on a circuit. -/
def hopMark (c : BitVec 16) (n : Nat) (k : BitVec 4) (r : Region) : Region := { r with circs := r.circs.map fun q =>
  if q.id = c then { q with flight := chg q.flight n fun (i, z) => (i, z.poisonAt k) } else q }
section
variable (s : State) (t : Nat) (ph : BitVec 2) (q : BitVec 3) (k : BitVec 4) (x : Token)
theorem soft_inFifo {l r : List Token} (h : (vget (s.lt t ph).inP q.toNat {}).fifo = l ++ x :: r) :
    exec (.softError (.inFifo t ph q l.length k)) s = .next (s.modIn t ph q fun i => { i with fifo := l ++ x.poisonAt k :: r }) := by
  change (.next (s.setLt t ph _) : Out) = .next (s.setLt t ph _)
  dsimp only
  rw [h, chg_at]
theorem soft_outFifo {l r : List OSlot} (h : (vget (s.lt t ph).outP q.toNat {}).fifo = l ++ .tok x :: r) :
    exec (.softError (.outFifo t ph q l.length k)) s = .next (s.modLt t ph fun y => { y with
      outP := vset y.outP q.toNat { vget (s.lt t ph).outP q.toNat {} with fifo := l ++ .tok (x.poisonAt k) :: r } }) := by
  change (.next (s.setLt t ph _) : Out) = .next (s.setLt t ph _)
  dsimp only
  rw [h, chg_at]
theorem soft_junction {side : Nat} {l r : List Token} (h : vget (vget (s.lt t ph).junc q.toNat {}).buf side [] = l ++ x :: r) :
    exec (.softError (.junction t ph q side l.length k)) s =
      .next (s.modJunc t ph q fun y => { y with buf := vset y.buf side (l ++ x.poisonAt k :: r) }) := by
  change (.next (s.setLt t ph _) : Out) = .next (s.setLt t ph _)
  dsimp only
  rw [h, chg_at]
theorem soft_rcFifo6 {l r : List OSlot} (h : (s.tile t).rc6 = l ++ .tok x :: r) :
    exec (.softError (.rcFifo t 6 l.length k)) s = .next (s.modTile t fun y => { y with rc6 := l ++ .tok (x.poisonAt k) :: r }) := by
  change (.next (s.setTile t _) : Out) = .next (s.setTile t _)
  dsimp only
  rw [if_pos rfl, h, chg_at]
theorem soft_rcFifo7 {l r : List OSlot} (h : (s.tile t).rc7 = l ++ .tok x :: r) :
    exec (.softError (.rcFifo t 7 l.length k)) s = .next (s.modTile t fun y => { y with rc7 := l ++ .tok (x.poisonAt k) :: r }) := by
  change (.next (s.setTile t _) : Out) = .next (s.setTile t _)
  dsimp only
  rw [if_neg (by decide), if_pos rfl, h, chg_at]
/-- A token on a hop is marked where it is, and no tile changes. -/
theorem soft_hop (rg n : Nat) (c : BitVec 16) : ∃ u, exec (.softError (.hop rg c n k)) s = .next u ∧ u.tiles = s.tiles ∧
    ∀ i z, s.circ rg i = some z → z.id = c → ∀ l pos r, l.length = n → z.flight = l ++ (pos, x) :: r →
      u.circ rg i = some { z with flight := l ++ (pos, x.poisonAt k) :: r } := by
  refine ⟨s.modRegion rg (hopMark c n k), rfl, rfl, fun i z hz hc l pos r hl hf => ?_⟩
  subst hl
  have e := chg_at l r (pos, x) fun y => (y.1, y.2.poisonAt k)
  rw [← hf] at e
  unfold State.circ at hz ⊢
  rw [region_modRegion _ _ (hopMark c l.length k) fun _ => rfl]
  obtain ⟨g, hg, hi⟩ := Option.bind_eq_some_iff.mp hz
  rw [hg, Option.map_some, Option.bind_some, hopMark, List.getElem?_map, hi, Option.map_some, if_pos hc]
  exact congrArg (fun f => some { z with flight := f }) e
theorem soft_hbm_free {a : Nat} (ha : a < hbmTop) (h : s.slotAt a = none) :
    exec (.softError (.hbm a)) s = .next { s with pq := pqSet s.pq (a / 256) 0xF } := by
  change execSoftError (.hbm a) s = _
  simp only [execSoftError, if_neg (Nat.not_le.mpr ha), h]
theorem soft_hbm_slot {a i : Nat} {h : SlotHolds} (ha : a < hbmTop) (g : s.slotAt a = some (h, i)) :
    exec (.softError (.hbm a)) s = .next (s.putSlot h.who h.data ((upFrom (i / 256 * 4) 4).foldl setIns h.pois)) := by
  change execSoftError (.hbm a) s = _
  simp only [execSoftError, if_neg (Nat.not_le.mpr ha), g]
end

theorem softErrorsPoisonWhatTheyHit : Claims.SoftErrorsPoisonWhatTheyHit := by
  intro s t a n rg p ph q k x marked does
  refine ⟨fun ht ha => ?_, fun ht hn => ?_, fun l r h => soft_inFifo s t ph q k x h, fun l r => ?_, fun side l r h => soft_junction s t ph q k x h,
    fun c e => rfl, rfl, rfl, fun l r h => soft_rcFifo6 s t k x h, fun l r h => soft_rcFifo7 s t k x h, fun e => rfl, rfl, rfl,
    fun c => soft_hop s k x rg n c, fun ha => ⟨soft_hbm_free s ha, fun h i g => ?_⟩, fun ht => ?_, fun ht => ?_, rfl, rfl, rfl, rfl⟩
  · exact congrArg Host.Outcome.next (if_pos ⟨ht, ha⟩)
  · exact congrArg Host.Outcome.next (if_pos ⟨ht, hn⟩)
  · intro o h
    exact soft_outFifo s t ph q k x h
  · intro pois
    have e := soft_hbm_slot s ha g
    refine ⟨fun k v w => ?_, fun k gen v w => ?_, fun t w => ?_⟩
    · exact e.trans (by rw [w]; rfl)
    · exact e.trans (by rw [w]; rfl)
    · exact e.trans (by rw [w]; rfl)
  · exact congrArg Host.Outcome.next (if_pos ht)
  · change exec _ s = _
    refine (congrArg Host.Outcome.next (if_neg (by omega))).trans ?_
    rw [Nat.add_sub_cancel_left]

/-! ## The Shutter -/

theorem readout_gives {s : State} {g : ReadoutAgent} {ra : Nat} {w : BitVec 32} {b : Bool} (hs : s.shut = true) (hr : ra < 2 ^ 48)
    (h : s.roWord ra = some (w, b)) : exec (.shutterReadout (.ofNat 48 ra) g) s = .next { s with readout := some (w, b) } := by
  change execShutterReadout (.ofNat 48 ra) g s = _
  have e : (BitVec.ofNat 48 ra).toNat = ra := by rw [BitVec.toNat_ofNat, Nat.mod_eq_of_lt hr]
  simp only [execShutterReadout, hs, e, h, Bool.not_true, Bool.false_eq_true, if_false]

/-- The fields of a readout address in a tile. -/
theorem tile_fields {px py unit a : Nat} {pois : Bool} (hx : px < 48) (hy : py < 32) (hu : unit < 16) (ha : a < 2 ^ 27) :
    let ra := px * 2 ^ 38 + py * 2 ^ 33 + unit * 2 ^ 28 + (pois.toNat * 2 ^ 27 + a)
    ra < 2 ^ 48 ∧ fld ra 47 44 = 0 ∧ fld ra 43 38 = px ∧ fld ra 37 33 = py ∧ fld ra 32 28 = unit ∧ fld ra 26 0 = a ∧ ra.testBit 27 = pois := by
  intro ra
  have hb : pois.toNat = if pois = true then 1 else 0 := by cases pois <;> rfl
  simp only [Nat.testBit_eq_decide_div_mod_eq, fld, ra, Nat.reduceSub, Nat.reduceAdd, Nat.reducePow] at *
  cases pois <;> simp only [Bool.false_eq_true, if_false, if_true] at hb <;> rw [hb] <;> simp only [decide_eq_true_eq, decide_eq_false_iff_not] <;> omega

/-- A word with its poison, or its poison bit alone. -/
def shown (pois : Bool) (x : BitVec 32 × Bool) : BitVec 32 × Bool := if pois then (.ofNat 32 x.2.toNat, false) else x
section
variable (s : State) {px py a : Nat} (pois : Bool) (hx : px < 48) (hy : py < 32)
include hx hy
/-- A word of a tile's scratchpad. -/
theorem roWord_spad (ha : a < 0x8_0000) : s.roWord (px * 2 ^ 38 + py * 2 ^ 33 + 0 * 2 ^ 28 + (pois.toNat * 2 ^ 27 + a)) =
    some (shown pois (.ofNat 32 (leNat (memRead (s.tile (48 * py + px)).spad (a / 4 * 4) 4)), setHas (s.tile (48 * py + px)).marks (a / 4 * 4))) := by
  obtain ⟨-, h1, h2, h3, h4, h5, h6⟩ := tile_fields (unit := 0) (pois := pois) hx hy (by decide) (show a < 2 ^ 27 by omega)
  unfold State.roWord
  simp only [h1, h2, h3, h4, h5, h6, if_neg (Nat.not_le.mpr hx), if_pos ha]
  rfl
/-- A word of its instruction store. -/
theorem roWord_istore (ha : a < 0x8000) : s.roWord (px * 2 ^ 38 + py * 2 ^ 33 + 2 * 2 ^ 28 + (pois.toNat * 2 ^ 27 + a)) =
    some (shown pois (istGet (s.tile (48 * py + px)).istore (a / 4), setHas (s.tile (48 * py + px)).ipois (a / 4))) := by
  obtain ⟨-, h1, h2, h3, h4, h5, h6⟩ := tile_fields (unit := 2) (pois := pois) hx hy (by decide) (show a < 2 ^ 27 by omega)
  unfold State.roWord
  simp only [h1, h2, h3, h4, h5, h6, if_neg (Nat.not_le.mpr hx), if_pos ha]
  rfl
end
/-- A word of HBM. -/
theorem roWord_hbm (s : State) {a : Nat} (ha : a < hbmTop) : s.roWord (2 ^ 46 + a) =
    some (.ofNat 32 (leNat (((upFrom (a / 4 * 4) 4).map s.hbmByte).map (·.1))), ((upFrom (a / 4 * 4) 4).map s.hbmByte).any (·.2)) := by
  have h1 : fld (2 ^ 46 + a) 47 44 = 4 := by unfold fld; unfold hbmTop at ha; omega
  have h2 : fld (2 ^ 46 + a) 40 0 = a := by unfold fld; unfold hbmTop at ha; omega
  unfold State.roWord
  simp only [h1, h2, if_pos ha]
/-- Its poison bit. -/
theorem roWord_hbmPois (s : State) {a : Nat} (ha : a < hbmTop) (h : hbmTop ≤ 2 ^ 39 + a) : s.roWord (2 ^ 46 + 2 ^ 39 + a) =
    some (.ofNat 32 (((upFrom (a / 4 * 4) 4).map s.hbmByte).any (·.2)).toNat, false) := by
  have h1 : fld (2 ^ 46 + 2 ^ 39 + a) 47 44 = 4 := by unfold fld; unfold hbmTop at ha; omega
  have h2 : fld (2 ^ 46 + 2 ^ 39 + a) 40 0 = 2 ^ 39 + a := by unfold fld; unfold hbmTop at ha; omega
  unfold State.roWord
  simp only [h1, h2, if_neg (Nat.not_lt.mpr h), Nat.add_sub_cancel_left, if_pos ha]
  rfl

theorem shutterFreezesAndReadsOut : Claims.ShutterFreezesAndReadsOut := by
  intro s g px py a at_ tile x
  have hy : py.toNat < 32 := py.isLt
  refine ⟨fun i hi => ?_, fun ra hs => ?_, fun hs hx ha => ⟨?_, ?_⟩, fun hs hx ha => ?_, fun hs ha => ?_⟩
  · simp only [List.mem_cons, List.not_mem_nil, or_false] at hi
    rcases hi with rfl | rfl | rfl <;> rfl
  · change execShutterReadout ra g s = _
    simp only [execShutterReadout, hs, Bool.not_false, if_true]
  · have h := roWord_spad s false hx hy ha
    rw [show px.toNat * 2 ^ 38 + py.toNat * 2 ^ 33 + 0 * 2 ^ 28 + (false.toNat * 2 ^ 27 + a) = tile + a by simp [tile]] at h
    exact readout_gives hs (by simp only [tile]; omega) h
  · have h := roWord_spad s true hx hy ha
    rw [show px.toNat * 2 ^ 38 + py.toNat * 2 ^ 33 + 0 * 2 ^ 28 + (true.toNat * 2 ^ 27 + a) = tile + 2 ^ 27 + a by simp [tile]; omega] at h
    exact readout_gives hs (by simp only [tile]; omega) h
  · have h := roWord_istore s false hx hy ha
    rw [show px.toNat * 2 ^ 38 + py.toNat * 2 ^ 33 + 2 * 2 ^ 28 + (false.toNat * 2 ^ 27 + a) = tile + 2 * 2 ^ 28 + a by simp [tile]] at h
    exact readout_gives hs (by simp only [tile]; omega) h
  · intro word
    exact ⟨readout_gives hs (by unfold hbmTop at ha; omega) (roWord_hbm s ha),
      fun h => readout_gives hs (by unfold hbmTop at ha; omega) (roWord_hbmPois s ha h)⟩

/-! ## Power -/

theorem heatThrottlesAndTrips : Claims.HeatThrottlesAndTrips := by
  intro s x
  refine ⟨rfl, fun i hi => ?_⟩
  have run : exec i s = .next (s.thermal x) := by
    simp only [List.mem_cons, List.not_mem_nil, or_false] at hi
    rcases hi with rfl | rfl <;> rfl
  rw [run]
  refine ⟨fun h => ?_, fun h => ⟨s.trip, ?_, rfl, rfl, rfl, rfl, rfl, rfl⟩⟩
  · rw [State.thermal, if_neg (by omega), Bool.decide_or]
  · rw [State.thermal, if_pos (by omega)]

/-- Settles O51, by where an error falls, by the fields of a readout address, and by the two temperatures. -/
theorem errorsHeatAndShutterAct : Obligations.ErrorsHeatAndShutterAct :=
  ⟨softErrorsPoisonWhatTheyHit, shutterFreezesAndReadsOut, heatThrottlesAndTrips⟩

end Sys2Proof.Proofs.Errors
end

section
/-! PROOFS. What harts and the host reach (R266, R283, R338, R368, R372, R373, R378). -/
namespace Sys2Proof.Proofs.HostAccess
open Sys2Proof Sys2Proof.Machine
open Sys2Proof.Proofs.Bits
set_option Elab.async false

/-! ## Harts -/

section
variable {s : State} {h : HartReq}
theorem hart_size (hz : h.size ∉ [1, 2, 4, 8]) : exec (.hartMemoryAccess h) s = .next (s.toHart (.accessFault h.hart)) := by
  change execHartMemoryAccess h s = _
  have e : ([1, 2, 4, 8].contains h.size) = false := by simpa [List.contains_iff_mem] using hz
  rw [execHartMemoryAccess, e]; rfl
variable (hz : h.size ∈ [1, 2, 4, 8])
include hz
/-- An access in the control space goes to its pages. -/
theorem hart_control (lo : ctlBase ≤ h.addr) (hi : h.addr < ctlBase + 0x40_0000) : exec (.hartMemoryAccess h) s = .next (s.hartCtl h) := by
  change execHartMemoryAccess h s = _
  have e : ([1, 2, 4, 8].contains h.size) = true := List.contains_iff_mem.mpr hz
  rw [execHartMemoryAccess, e, if_neg (by decide), if_pos ⟨lo, hi⟩]
variable (hm : h.addr < ctlBase ∨ ctlBase + 0x40_0000 ≤ h.addr)
include hm
/-- Any other goes to memory. -/
theorem hart_memory : exec (.hartMemoryAccess h) s = .next (
    if hbmTop < h.addr + h.size then s.toHart (.accessFault h.hart)
    else if s.hbmBad h.addr h.size h.wr.isSome then s.toHart (.accessFault h.hart)
    else match h.wr with
      | none => s.toHart (.data h.hart (w64 (leNat ((upFrom h.addr h.size).map fun a => (s.hbmByte a).1))))
      | some x => s.hbmPut 0 h.addr ((leBytes h.size x.toNat).map fun b => some (b, false))) := by
  change execHartMemoryAccess h s = _
  have e : ([1, 2, 4, 8].contains h.size) = true := List.contains_iff_mem.mpr hz
  rw [execHartMemoryAccess, e, if_neg (by decide), if_neg (by omega)] <;> rfl
end

section
variable {s : State} {h : HartReq} 
theorem hartCtl_misaligned (ha : h.addr % h.size ≠ 0) : s.hartCtl h = s.toHart (.accessFault h.hart) := if_pos ha
variable (ha : h.addr % h.size = 0)
include ha
theorem hartCtl_nowhere (hp : s.hartPage h = none) : s.hartCtl h = s.toHart (.accessFault h.hart) := by
  rw [State.hartCtl, if_neg (not_not_intro ha), hp]
variable {pg : RegPage} {off : Nat} (hp : s.hartPage h = some (pg, off))
include hp
theorem hartCtl_load (hw : h.wr = none) :
    s.hartCtl h = s.toHart (.data h.hart (.ofNat 64 (leNat ((upFrom off h.size).map (s.regByte pg))))) := by
  simp only [State.hartCtl, ne_eq, ha, not_true_eq_false, if_false, hp, hw, w64]
theorem hartCtl_store {x : DWord} (hw : h.wr = some x) : s.hartCtl h =
    if s.hartStalls pg off (s.regVal pg off (leBytes h.size x.toNat)) then (s.regPut pg .hart off (leBytes h.size x.toNat)).toHart (.stall h)
    else s.regPut pg .hart off (leBytes h.size x.toNat) := by
  simp only [State.hartCtl, ne_eq, ha, not_true_eq_false, if_false, hp, hw]
end

/-- The monitor's page answers to the monitor, and but for SHUTCTL to its supervisor. -/
theorem hartPage_monitor (s : State) (h : HartReq) (ho : h.addr - ctlBase < 0x1_0000) : s.hartPage h =
    if h.mode = .m ∨ (h.mode = .hs ∧ (h.addr - ctlBase) / 8 * 8 ≠ 0x058) then some (.monitor, h.addr - ctlBase) else none := by
  unfold State.hartPage
  dsimp only
  rw [if_pos ho]
  refine if_congr ?_ (Eq.refl _) (Eq.refl _)
  simp only [Bool.and_eq_true, Bool.or_eq_true, beq_iff_eq, bne_iff_ne]
  clear ho
  tauto
/-- A partition's page answers to them, and to its own hart while it is live. -/
theorem hartPage_part (s : State) (h : HartReq) (ho : 0x1_0000 ≤ h.addr - ctlBase) : s.hartPage h =
    if h.mode = .m ∨ h.mode = .hs ∨ (h.mode = .vs ∧ (s.part (.ofNat 6 ((h.addr - ctlBase) / 0x1_0000))).live = true ∧
        (s.part (.ofNat 6 ((h.addr - ctlBase) / 0x1_0000))).hart = h.hart)
      then some (.part (.ofNat 6 ((h.addr - ctlBase) / 0x1_0000)), (h.addr - ctlBase) % 0x1_0000) else none := by
  unfold State.hartPage
  dsimp only
  rw [if_neg (Nat.not_lt.mpr ho)]
  refine if_congr ?_ rfl rfl
  simp only [Bool.and_eq_true, Bool.or_eq_true, beq_iff_eq]
  clear ho
  tauto

theorem hartsReachMemoryAndPages : Claims.HartsReachMemoryAndPages := by
  intro s h gives fault
  refine ⟨hart_size, fun hz hm => ⟨fun ht => ?_, fun ht hb => ?_, fun ht hb => ⟨fun hw => ?_, fun x hw => ?_⟩⟩, fun hz lo hi => ?_⟩
  · exact (hart_memory hz hm).trans (congrArg _ (if_pos ht))
  · exact (hart_memory hz hm).trans (congrArg _ ((if_neg (Nat.not_lt.mpr ht)).trans (if_pos hb)))
  · change exec _ s = _
    rw [hart_memory hz hm, if_neg (Nat.not_lt.mpr ht), if_neg (by rw [hb]; decide), hw]; rfl
  · rw [hart_memory hz hm, if_neg (Nat.not_lt.mpr ht), if_neg (by rw [hb]; decide), hw]
  · intro o p reaches
    have run := hart_control (s := s) hz lo hi
    have faults : s.hartCtl h = s.toHart (.accessFault h.hart) → fault := fun e => run.trans (congrArg _ e)
    have reach : ∀ {pg off}, h.addr % h.size = 0 → s.hartPage h = some (pg, off) → reaches pg off := fun ha hp =>
      ⟨fun hw => run.trans (congrArg _ (hartCtl_load ha hp hw)), fun x hw => run.trans (congrArg _ (hartCtl_store ha hp hw))⟩
    refine ⟨fun ha => faults (hartCtl_misaligned ha), fun ha ho => ⟨fun hm => reach ha ?_, fun hm => faults (hartCtl_nowhere ha ?_)⟩,
      fun ha ho => ⟨fun hm => reach ha ?_, fun hm => faults (hartCtl_nowhere ha ?_)⟩⟩
    · exact (hartPage_monitor s h ho).trans (if_pos hm)
    · exact (hartPage_monitor s h ho).trans (if_neg hm)
    · exact (hartPage_part s h ho).trans (if_pos hm)
    · exact (hartPage_part s h ho).trans (if_neg hm)

/-! ## The host's requests -/

/-- Bytes that a request may reach in one piece: refused at a block that fails its check, else read or written. -/
theorem hostMem_piece (s : State) (h : HostReq) (pa : Nat) :
    (s.hbmBad pa (reqBytes h) h.wr.isSome = true → s.hostMem h [(pa, reqBytes h)] = s.toHost (.unsupported h)) ∧
    (s.hbmBad pa (reqBytes h) h.wr.isSome = false →
      (h.wr = none → s.hostMem h [(pa, reqBytes h)] = s.toHost (.reply h ((upFrom pa (reqBytes h)).map fun a => (s.hbmByte a).1))) ∧
      ∀ d, h.wr = some d → s.hostMem h [(pa, reqBytes h)] = s.hbmPut 0 pa (d.map fun b => some (b, false))) := by
  refine ⟨fun hb => ?_, fun hb => ⟨fun hw => ?_, fun d hw => ?_⟩⟩
  · simp only [State.hostMem, List.any_cons, List.any_nil, hb, Bool.or_false, if_true]
  · rw [hw] at hb
    simp only [State.hostMem, List.any_cons, List.any_nil, hb, Bool.or_false, Bool.false_eq_true, if_false, hw, List.map_cons, List.map_nil,
      List.flatten_cons, List.flatten_nil, List.append_nil]
  · have hn : reqBytes h = d.length := by rw [reqBytes, hw]
    rw [hn, hw] at hb
    simp only [State.hostMem, List.any_cons, List.any_nil, hb, Bool.or_false, Bool.false_eq_true, if_false, hw, List.foldl_cons, List.foldl_nil, hn,
      List.take_length]

/-- An access within one page of a partition's memory is one piece. -/
theorem ipaSpan_page {s : State} {p : PartId} {wr : Bool} {ipa n f pa : Nat} {w : Bool} (hn : 0 < n) (hp : ipa % 65536 + n ≤ 65536)
    (h : s.stage2 p ipa = .ok (pa, w)) :
    s.ipaSpan p wr ipa (f + 1) n = if ((wr && !w) || decide (hbmTop < pa + n)) = true then none else some [(pa, n)] := by
  have hk : min n (65536 - ipa % 65536) = n := by omega
  have h0 : ∀ f x, State.ipaSpan s p wr x f 0 = some [] := fun f x => by cases f <;> rfl
  simp only [State.ipaSpan, if_neg (Nat.pos_iff_ne_zero.mp hn), hk, h, Nat.sub_self, h0, Option.map_some]
theorem ipaSpan_fault {s : State} {p : PartId} {wr : Bool} {ipa n f : Nat} {e : Flt} (hn : 0 < n) (h : s.stage2 p ipa = .error e) :
    s.ipaSpan p wr ipa (f + 1) n = none := by
  simp only [State.ipaSpan, if_neg (Nat.pos_iff_ne_zero.mp hn), h]

section
variable {s : State} {h : HostReq} {k : BitVec 3} (hf : h.fn = .vf k)
include hf
/-- The first function reaches the recovery buffer at STAGE 6. -/
theorem host_recovery (h0 : k = 0) (h6 : s.stage = 6) (hb : h.bar = 2) (hn : h.off + reqBytes h ≤ 0x200_0000) :
    exec (.hostRequest h) s = .next (s.hostMem h [(h.off, reqBytes h)]) := by
  change execHostRequest h s = _
  simp only [execHostRequest, hf]
  rw [if_pos ⟨hb, h0, h6, hn⟩]
variable (hr : ¬ (k = 0 ∧ s.stage = 6))
include hr
theorem host_unserved (hp : s.vfPart k = none) : exec (.hostRequest h) s = .next (s.toHost (.unsupported h)) := by
  change execHostRequest h s = _
  simp only [execHostRequest, hf]
  rw [if_neg fun e => hr ⟨e.2.1, e.2.2.1⟩, hp]
/-- A function that serves a partition reaches its page, its memory, and nothing else. -/
theorem host_served {p : PartId} (hp : s.vfPart k = some p) : exec (.hostRequest h) s = .next (
    if h.bar = 0 ∧ h.off + reqBytes h ≤ 0x1000 then
      match h.wr with
      | none => s.toHost (.reply h ((upFrom h.off (reqBytes h)).map (s.regByte (.part p))))
      | some d => s.pagePut (.part p) .host h.off (d.length + 1) d
    else if h.bar = 2 ∧ h.off + reqBytes h ≤ 2 ^ 36 then s.bar2Take p h
    else s.toHost (.unsupported h)) := by
  change execHostRequest h s = _
  simp only [execHostRequest, hf]
  rw [if_neg fun e => hr ⟨e.2.1, e.2.2.1⟩, hp] <;> rfl
end

section
variable {s : State} {h : HostReq} {p : PartId}
theorem bar2_waits (hw : (s.part p).bar2 ≠ [] ∨ s.ipaServed p h.off (reqBytes h) = false) :
    s.bar2Take p h = s.modPart p fun y => { y with bar2 := y.bar2 ++ [h] } := by
  refine if_pos ?_
  rcases hw with hw | hw
  · cases e : (s.part p).bar2 with
    | nil => exact absurd e hw
    | cons => rfl
  · rw [hw]; simp
variable (hb : (s.part p).bar2 = []) (hs : s.ipaServed p h.off (reqBytes h) = true)
include hb hs
theorem bar2_now : s.bar2Take p h = s.bar2Do p h := if_neg (by rw [hb, hs]; decide)
variable (hn : 0 < reqBytes h)
include hn
theorem bar2_fault {e : Flt} (h2 : s.stage2 p h.off = .error e) : s.bar2Take p h = s.toHost (.unsupported h) := by
  rw [bar2_now hb hs, State.bar2Do, ipaSpan_fault hn h2]
theorem bar2_page (hp : h.off % 65536 + reqBytes h ≤ 65536) {pa : Nat} {w : Bool} (h2 : s.stage2 p h.off = .ok (pa, w)) : s.bar2Take p h =
    if ((h.wr.isSome && !w) || decide (hbmTop < pa + reqBytes h)) = true then s.toHost (.unsupported h) else s.hostMem h [(pa, reqBytes h)] := by
  rw [bar2_now hb hs, State.bar2Do, ipaSpan_page hn hp h2]
  by_cases c : ((h.wr.isSome && !w) || decide (hbmTop < pa + reqBytes h)) = true
  · rw [if_pos c, if_pos c]
  · rw [if_neg c, if_neg c]
end

/-! ## BOOTSTAT, and what comes back -/

theorem drawBytes_frame (s : State) (n : Nat) : (s.drawBytes n).1.length = n ∧ ∃ c, (s.drawBytes n).2 = { s with freeCtr := c } := by
  induction n generalizing s with
  | zero => exact ⟨rfl, s.freeCtr, rfl⟩
  | succ n ih =>
    obtain ⟨h1, c, h2⟩ := ih s.draw.2
    exact ⟨congrArg Nat.succ h1, c, h2⟩

/-- A map over pairs that takes the first of each where it may. -/
theorem map_zip_left {α β γ : Type} (l : List α) (r : List β) (f : α → γ) (g : α → β → γ) (c : α → Prop) [DecidablePred c]
    (hl : l.length = r.length) (hc : ∀ a ∈ l, c a) : ((l.zip r).map fun x => if c x.1 then f x.1 else g x.1 x.2) = l.map f := by
  calc ((l.zip r).map fun x => if c x.1 then f x.1 else g x.1 x.2)
      = (l.zip r).map (f ∘ Prod.fst) := List.map_congr_left fun x hx => if_pos (hc _ (List.of_mem_zip hx).1)
    _ = l.map f := by rw [← List.map_map, List.map_fst_zip hl.le]
/-- The bytes of a doubleword, taken one by one. -/
theorem bytes_eq_leBytes (x : Nat) : ((upFrom 0 8).map fun a => BitVec.ofNat 8 (x / 2 ^ (8 * a))) = leBytes 8 x := by
  simp [upFrom, leBytes, Nat.div_div_eq_div_mul]
/-- PF0 reads BOOTSTAT. -/
theorem host_bootstat {s : State} {h : HostReq} (hf : h.fn = .pf0) (hb : h.bar = 0) (hw : h.wr = none) (ho : h.off = 0) (hl : h.len = 8) :
    ∃ u d, exec (.hostRequest h) s = .next u ∧ u.hostOut = s.hostOut ++ [.reply h d] ∧ d.length = 8 ∧ leNat d = s.bootstat.toNat := by
  obtain ⟨hn, c, hc⟩ := drawBytes_frame s 8
  have hd : ((upFrom 0 8).zip (s.drawBytes 8).1).map (fun (a, x) =>
      if a < 8 then BitVec.ofNat 8 (s.bootstat.toNat / 2 ^ (8 * a)) else if s.stage = 6 ∧ 0x100 ≤ a ∧ a < 0x200 then x else 0) =
        leBytes 8 s.bootstat.toNat := by
    rw [← bytes_eq_leBytes]
    exact map_zip_left (upFrom 0 8) (s.drawBytes 8).1 (fun a => BitVec.ofNat 8 (s.bootstat.toNat / 2 ^ (8 * a)))
      (fun a x => if s.stage = 6 ∧ 0x100 ≤ a ∧ a < 0x200 then x else 0) (· < 8) (by rw [hn]; rfl)
      fun a ha => lt_of_mem_upTo ha
  refine ⟨(s.drawBytes 8).2.toHost (.reply h (leBytes 8 s.bootstat.toNat)), leBytes 8 s.bootstat.toNat, ?_, ?_, leBytes_length _ _, ?_⟩
  · change execHostRequest h s = _
    have hm : pf0Maps h.off (reqBytes h) = true := by rw [pf0Maps, reqBytes, hw, ho, hl]; rfl
    simp only [execHostRequest, hf]
    rw [if_pos ⟨hb, hm⟩, State.pf0, hw]
    dsimp only
    rw [ho, hl, hd]
  · rw [hc]; rfl
  · rw [leNat_leBytes]
    exact Nat.mod_eq_of_lt s.bootstat.isLt

theorem host_pf0_refused {s : State} {h : HostReq} (hf : h.fn = .pf0) (hb : h.bar ≠ 0 ∨ pf0Maps h.off (reqBytes h) = false) :
    exec (.hostRequest h) s = .next (s.toHost (.unsupported h)) := by
  change execHostRequest h s = _
  simp only [execHostRequest, hf]
  rw [if_neg fun e => hb.elim (fun a => a e.1) fun a => by rw [e.2] at a; cases a]

theorem hostRequestsGoThroughTheirFunction : Claims.HostRequestsGoThroughTheirFunction := by
  intro s h k n gives refuses reaches
  have piece : ∀ pa, exec (.hostRequest h) s = .next (s.hostMem h [(pa, reqBytes h)]) → reaches pa := fun pa e => by
    obtain ⟨h1, h2⟩ := hostMem_piece s h pa
    exact ⟨fun hb => e.trans (congrArg _ (h1 hb)), fun hb => ⟨fun hw => e.trans (congrArg _ ((h2 hb).1 hw)), fun d hw => e.trans (congrArg _ ((h2 hb).2 d hw))⟩⟩
  refine ⟨fun hf h6 hb hn => piece _ (host_recovery hf rfl h6 hb hn), fun p hf hp hr => ?_, fun hf hp hr => host_unserved hf hr hp,
    fun hf hb => host_pf0_refused hf hb, host_bootstat, rfl, fun id d ep => ⟨fun o ho => ?_, fun ho => ?_⟩⟩
  · have run := host_served (s := s) hf hr hp
    have bar2 : h.bar = 2 → h.off + reqBytes h ≤ 2 ^ 36 → exec (.hostRequest h) s = .next (s.bar2Take p h) := fun hb hn =>
      run.trans (congrArg _ ((if_neg (by omega)).trans (if_pos ⟨hb, hn⟩)))
    have refuse : ¬ (h.bar = 0 ∧ h.off + reqBytes h ≤ 0x1000) → ¬ (h.bar = 2 ∧ h.off + reqBytes h ≤ 2 ^ 36) → refuses := fun h0 h2 =>
      run.trans (congrArg _ ((if_neg h0).trans (if_neg h2)))
    refine ⟨fun hb hn => ⟨fun hw => ?_, fun d hw => ?_⟩, fun hb hn => refuse (fun e => absurd e.2 (Nat.not_le.mpr hn)) (by omega),
      fun hb hn => refuse (by omega) (fun e => absurd e.2 (Nat.not_le.mpr hn)), fun hb hn hw => (bar2 hb hn).trans (congrArg _ (bar2_waits hw)),
      fun hb hn hp' ht hq hs => ⟨fun f h2 => ?_, fun pa b h2 => ⟨fun hp hw => ?_, fun hp => ?_, fun hw hw2 => ?_⟩⟩, fun h0 h2 => refuse (by omega) (by omega)⟩
    · refine run.trans (congrArg _ ((if_pos ⟨hb, hn⟩).trans ?_))
      rw [hw]; rfl
    · refine run.trans (congrArg _ ((if_pos ⟨hb, hn⟩).trans ?_))
      rw [hw]
    · exact (bar2 hb ht).trans (congrArg _ (bar2_fault hq hs hn h2))
    · refine piece pa ((bar2 hb ht).trans (congrArg _ ((bar2_page hq hs hn hp' h2).trans (if_neg ?_))))
      have hp : pa + reqBytes h ≤ hbmTop := hp
      rcases hw with hw | rfl
      · rw [hw]; simpa using hp
      · simpa using hp
    · refine (bar2 hb ht).trans (congrArg _ ((bar2_page hq hs hn hp' h2).trans (if_pos ?_)))
      have hp : hbmTop < pa + reqBytes h := hp
      rw [decide_eq_true hp, Bool.or_true]
    · refine (bar2 hb ht).trans (congrArg _ ((bar2_page hq hs hn hp' h2).trans (if_pos ?_)))
      rw [Option.isSome_iff_ne_none.mpr hw, hw2]; rfl
  · change execHostReadCompletion id d ep s = _
    simp only [execHostReadCompletion, ho]
  · change execHostReadCompletion id d ep s = _
    simp only [execHostReadCompletion, ho]

/-- Settles O49, by the page or memory that each request reaches. -/
theorem hartsAndHostReachTheDevice : Obligations.HartsAndHostReachTheDevice := ⟨hartsReachMemoryAndPages, hostRequestsGoThroughTheirFunction⟩

end Sys2Proof.Proofs.HostAccess
end

section
/-! PROOFS. Wildom ports, and the accesses of peers (R283, R292, R350, R365, R379). -/
namespace Sys2Proof.Proofs.Links
open Sys2Proof Sys2Proof.Machine
open Sys2Proof.Proofs.FaultRings Sys2Proof.Proofs.Ownership Sys2Proof.Proofs.Ranked Sys2Proof.Proofs.Bits
set_option Elab.async false

/-! ## What posting a record leaves unchanged -/

/-- The ports and the operations are as before. -/
def SameLinks (s u : State) : Prop := u.wport = s.wport ∧ u.ops = s.ops
theorem SameLinks.trans {s t u : State} (h : SameLinks s t) (g : SameLinks t u) : SameLinks s u := ⟨g.1.trans h.1, g.2.trans h.2⟩

section
variable (s : State) (p : PartId)
theorem settleAll_links : SameLinks s s.settleAll := by
  obtain ⟨rs, h⟩ := settleAll_frame s
  rw [h]; exact ⟨rfl, rfl⟩
theorem post_links (r : FaultRec) : SameLinks s (s.post p r).2 := by
  unfold State.post
  dsimp only
  split
  · exact (settleAll_links (s.setPart p _)).trans ⟨rfl, rfl⟩
  · exact ⟨rfl, rfl⟩
theorem postMon_links (r : FaultRec) : SameLinks s (s.postMon p r).2 := by
  unfold State.postMon
  dsimp only
  split
  · obtain ⟨rs, h⟩ := settleAll_frame { s with
      mfq := (fqPush (s.mfq, s.mfqHeld) { r with part := p, seq := s.mseq + 1 }).1
      mfqHeld := (fqPush (s.mfq, s.mfqHeld) { r with part := p, seq := s.mseq + 1 }).2, mseq := s.mseq + 1 }
    rw [h]
    exact ⟨rfl, rfl⟩
  · exact ⟨rfl, rfl⟩
theorem postAny_links (r : FaultRec) : SameLinks s (s.postAny p r).2 := by
  unfold State.postAny
  split
  · exact postMon_links s p r
  · exact post_links s p r
theorem addStop_links (r : StopRec) : SameLinks s (s.addStop p r) := by
  unfold State.addStop
  split <;> exact ⟨rfl, rfl⟩
theorem spillFault_links (k : FrameKey) (v : Nat) (f : Flt) : SameLinks s (s.spillFault k v f) :=
  (postAny_links s k.part _).trans (addStop_links _ k.part _)
theorem modVer_links (k : FrameKey) (v : Nat) (g : Ver → Ver) : SameLinks s (s.modVer k v g) := by
  unfold State.modVer State.setFrame
  split <;> exact ⟨rfl, rfl⟩
end

/-! ## Ports -/

/-- A port that was changed reads so. -/
theorem port_modPort (s : State) {q : Nat} (h : q < 18) (f : WPort → WPort) : (s.modPort q f).port q = f (s.port q) := by
  unfold State.port State.modPort
  exact vget_vset_self s.wport h _ _
/-- Two changes of a port are one. -/
theorem modPort_modPort (s : State) {q : Nat} (h : q < 18) (f g : WPort → WPort) : (s.modPort q f).modPort q g = s.modPort q fun w => g (f w) := by
  have e := port_modPort s h f
  unfold State.modPort at e ⊢
  rw [e]
  dsimp only
  rw [vset, vset, Vector.setIfInBounds_setIfInBounds]
  rfl

/-- What was under way through a port is lost, and no operation is under way through it. -/
theorem linkLost_ops (s : State) (q : Nat) : (s.linkLost q).wport = s.wport ∧
    (s.linkLost q).ops = s.ops.map fun o => if o.out && o.via == some q then { o with out := false, via := none, lost := some 0x0B } else o := by
  have h : ∀ (l : List (FrameKey × Nat)) (u : State), SameLinks u (l.foldl (fun s (k, v) =>
      (s.modVer k v fun x => { x with spill := none, spillIds := [] }).spillFault k v ⟨0x0B, 0⟩) u) := fun l u =>
    foldl_keeps (P := SameLinks u) l (fun a ha b _ => (ha.trans (modVer_links a b.1 b.2 _)).trans (spillFault_links _ b.1 b.2 _)) ⟨rfl, rfl⟩
  exact h _ _
theorem portDown_port (s : State) {q : Nat} (h : q < 18) :
    (s.portDown q).port q = { s.port q with st := .down, lanes := 0, fails := 0, replay := [] } := by
  have e := (linkLost_ops (s.modPort q fun w => { w with st := .down, lanes := 0, fails := 0, replay := [] }) q).1
  unfold State.portDown
  rw [State.port, e]
  exact port_modPort s h _
theorem portDown_ops (s : State) (q : Nat) : ∀ o ∈ (s.portDown q).ops, ¬ (o.out = true ∧ o.via = some q) := by
  unfold State.portDown
  rw [(linkLost_ops _ q).2]
  intro o ho
  obtain ⟨x, -, rfl⟩ := List.mem_map.mp ho
  split
  · simp
  · next h => simpa using h

section
variable {s : State} {q : Nat} (hq : q < 18)
include hq
theorem training_none (h : (s.port q).st ≠ .training) (lanes : BitVec 4) : exec (.portTrainingDone q lanes) s = .next s :=
  congrArg Host.Outcome.next (if_pos (.inr h))
variable (lanes : BitVec 4)
theorem training_done (h : (s.port q).st = .training) : exec (.portTrainingDone q lanes) s = .next (
    if lanes = 8 then s.modPort q fun w => { w with st := .up, lanes := 8 }
    else if lanes = 4 then s.modPort q fun w => { w with st := .degraded, lanes := 4 }
    else s.portDown q) :=
  congrArg Host.Outcome.next (if_neg (by rw [h]; simp; omega))
theorem retrain_none (h : (s.port q).fails < 8) : exec (.portRetrain q lanes) s = .next s := congrArg Host.Outcome.next (if_pos (.inr h))
theorem retrain_done (h : 8 ≤ (s.port q).fails) : exec (.portRetrain q lanes) s = .next (
    if lanes = 8 then s.modPort q fun w => { w with fails := 0, retrain := w.retrain + 1, st := .up, lanes := 8 }
    else if lanes = 4 then s.modPort q fun w => { w with fails := 0, retrain := w.retrain + 1, st := .degraded, lanes := 4 }
    else (s.modPort q fun w => { w with fails := 0, retrain := w.retrain + 1 }).portDown q) := by
  refine (congrArg Host.Outcome.next (if_neg (by omega))).trans ?_
  dsimp only
  rw [modPort_modPort s hq, modPort_modPort s hq]

/-! ## Flits -/

theorem flit_dropped (fl : Flit) (h : ¬ ((s.port q).runs = true ∧ bodyData fl.body ≤ 256)) : exec (.flitReceive q fl) s = .next s := by
  refine congrArg Host.Outcome.next (if_pos ?_)
  by_cases hr : (s.port q).runs = true
  · exact .inr (.inr (Nat.lt_of_not_le fun e => h ⟨hr, e⟩))
  · exact .inr (.inl (by simpa using hr))
variable {fl : Flit} (hu : (s.port q).runs = true ∧ bodyData fl.body ≤ 256)
include hu
theorem flit_bad (hc : fl.crcOk = false) : exec (.flitReceive q fl) s = .next (s.modPort q fun w => { w with fails := w.fails + 1 }) := by
  refine congrArg Host.Outcome.next ((if_neg ?_).trans (if_pos ?_))
  · rw [hu.1]; simp; omega
  · rw [hc]; rfl
theorem flit_whole (hc : fl.crcOk = true) {u : State} (h : (match fl.body with
      | .reply id ok d => (s.modPort q fun w => { w with fails := 0 }).answer id ok d
      | .ack n => (s.modPort q fun w => { w with fails := 0 }).modPort q fun w => { w with replay := w.replay.drop n }
      | .nak => if (s.port q).replay.isEmpty then s else s.modPort q fun w => { w with fails := w.fails + 1, retry := w.retry + 1 }
      | _ => { s.modPort q fun w => { w with fails := 0 } with peerIn := s.peerIn ++ [fl] }) = u) :
    exec (.flitReceive q fl) s = .next u := by
  subst h
  refine congrArg Host.Outcome.next ((if_neg ?_).trans ((if_neg ?_).trans ?_))
  · rw [hu.1]; simp; omega
  · rw [hc]; decide
  · cases fl.body <;> rfl
end

theorem runs_iff (w : WPort) : w.runs = true ↔ (w.st = .up ∨ w.st = .degraded) ∧ w.fails < 8 := by
  simp [WPort.runs]

theorem wildomPortsTrainAndRetry : Claims.WildomPortsTrainAndRetry := by
  intro s q fl lanes hq w data up nothing
  have hup : up ↔ (s.port q).runs = true ∧ bodyData fl.body ≤ 256 := by
    rw [runs_iff, and_assoc]
    exact Iff.rfl
  have h18 : ¬ 18 ≤ q := by omega
  refine ⟨fun he => ?_, fun he => ?_, fun he => ?_, fun he => ⟨_, congrArg Host.Outcome.next (if_neg ?_), ?_, portDown_ops _ q⟩,
    fun ht => training_none hq ht lanes, fun ht => ⟨?_, ?_, fun h8 h4 => ⟨_, training_done hq lanes ht, ?_⟩⟩, fun h => flit_dropped hq fl (mt hup.mpr h),
    fun h => ⟨flit_bad hq (hup.mp h), fun hc => ?_⟩, fun hf => retrain_none hq lanes hf, fun hf => ⟨?_, ?_, fun h8 h4 => ⟨_, retrain_done hq lanes hf, ?_⟩⟩⟩
  · exact congrArg Host.Outcome.next (if_neg fun e => e.elim h18 fun e => by rw [show (s.port q).en = false from he] at e; cases e)
  · exact congrArg Host.Outcome.next (if_pos (.inr he))
  · exact congrArg Host.Outcome.next (if_pos (.inr (by rw [show (s.port q).en = false from he]; rfl)))
  · exact fun e => e.elim h18 fun e => by rw [show (s.port q).en = true from he] at e; cases e
  · rw [portDown_port _ hq, port_modPort s hq]
  · exact (training_done hq 8 ht).trans (congrArg _ (if_pos rfl))
  · exact (training_done hq 4 ht).trans (congrArg _ ((if_neg (by decide)).trans (if_pos rfl)))
  · rw [if_neg h8, if_neg h4, portDown_port s hq]
  · intro u
    refine ⟨fun n hb => flit_whole hq (hup.mp h) hc ?_, fun hb hr => flit_whole hq (hup.mp h) hc ?_, fun id ok d hb => flit_whole hq (hup.mp h) hc ?_,
      fun a hb => flit_whole hq (hup.mp h) hc ?_⟩
    · simp only [hb]
      exact modPort_modPort s hq _ _
    · simp only [hb]
      exact if_neg fun e => hr (List.isEmpty_iff.mp e)
    · simp only [hb]
      rfl
    · cases hbody : fl.body with
      | reply | ack | nak => rw [hbody] at hb; cases hb
      | _ => rfl
  · exact (retrain_done hq 8 hf).trans (congrArg _ (if_pos rfl))
  · exact (retrain_done hq 4 hf).trans (congrArg _ ((if_neg (by decide)).trans (if_pos rfl)))
  · rw [if_neg h8, if_neg h4, portDown_port _ hq, port_modPort s hq]
    exact ⟨rfl, rfl, portDown_ops _ q⟩

/-! ## Peers' accesses -/

/-- The window and offset of an address that is made of them. -/
theorem vaOf_fields (w : BitVec 16) (off : BitVec 48) : bfld (vaOf w off) 79 64 = w.toNat ∧ bfld (vaOf w off) 47 0 = off.toNat := by
  have hw := w.isLt
  have ho := off.isLt
  unfold bfld vaOf fld
  rw [BitVec.toNat_ofNat]
  simp only [Nat.reduceSub, Nat.reduceAdd, Nat.reducePow] at *
  omega

/-- The bit of an authorization entry that allows a right. -/
def rightBit (r : Right) : Nat := match r with | .rd => 62 | .wr => 61 | .atv => 60 | .col => 59
theorem authAllows_eq (e : Nat) (r : Right) : authAllows e r = (e.testBit 63 && e.testBit (rightBit r)) := by cases r <;> rfl
/-- The entry of an inbound table. -/
def inAt (s : State) (p : PartId) (i : Nat) : Nat := bfld (s.part p).authIn 47 16 * 65536 + 8 * i
/-- An entry of a live partition's inbound table, one that reads well, allows a right to a device's partition. -/
def Allowed (s : State) (p : PartId) (dev : BitVec 18) (part : PartId) (r : Right) : Prop :=
  (s.part p).live = true ∧ ∃ i < 256, ¬ s.hbmBad (inAt s p i) 8 false = true ∧
    (s.hbmNum (inAt s p i) 8).testBit 63 = true ∧ (s.hbmNum (inAt s p i) 8).testBit (rightBit r) = true ∧
    fld (s.hbmNum (inAt s p i) 8) 41 24 = dev.toNat ∧ fld (s.hbmNum (inAt s p i) 8) 21 16 = part.toNat
section
variable {s : State} {p : PartId} {dev : BitVec 18} {part : PartId} {r : Right}
/-- What the inbound table says, by its entries. -/
theorem any_allows : ((upTo 256).any fun i => !s.hbmBad (inAt s p i) 8 false && authAllows (s.hbmNum (inAt s p i) 8) r &&
    fld (s.hbmNum (inAt s p i) 8) 41 24 == dev.toNat && fld (s.hbmNum (inAt s p i) 8) 21 16 == part.toNat) = true ↔
      ∃ i < 256, ¬ s.hbmBad (inAt s p i) 8 false = true ∧
        (s.hbmNum (inAt s p i) 8).testBit 63 = true ∧ (s.hbmNum (inAt s p i) 8).testBit (rightBit r) = true ∧
        fld (s.hbmNum (inAt s p i) 8) 41 24 = dev.toNat ∧ fld (s.hbmNum (inAt s p i) 8) 21 16 = part.toNat := by
  simp only [upTo_eq_range, List.any_eq_true, List.mem_range, Bool.and_eq_true, Bool.not_eq_true', beq_iff_eq, Bool.not_eq_true, and_assoc, authAllows_eq]
theorem inbound_allows (h : Allowed s p dev part r) : s.inbound p dev part r = none := by
  unfold State.inbound
  dsimp only
  exact (if_neg (by rw [h.1]; decide)).trans (if_pos (any_allows.mpr h.2))
theorem inbound_refuses (h : ¬ Allowed s p dev part r) (g : ¬ (s.part p).live = true ∨ ∀ i < 256, ¬ s.hbmBad (inAt s p i) 8 false = true) :
    s.inbound p dev part r = some ⟨0x0A, 0⟩ := by
  unfold State.inbound
  dsimp only
  by_cases hl : (s.part p).live = true
  · have hb : ¬ ((upTo 256).any fun i => s.hbmBad (inAt s p i) 8 false) = true := by
      rw [upTo_eq_range, List.any_eq_true]
      rintro ⟨i, hi, e⟩
      exact g.resolve_left (not_not_intro hl) i (List.mem_range.mp hi) e
    exact (if_neg (by rw [hl]; decide)).trans ((if_neg fun e => h ⟨hl, any_allows.mp e⟩).trans (if_neg hb))
  · rw [if_pos (by simpa using hl)]
theorem inbound_unread (h : ¬ Allowed s p dev part r) (hl : (s.part p).live = true) (g : ∃ i < 256, s.hbmBad (inAt s p i) 8 false = true) :
    s.inbound p dev part r = some ⟨0x0E, 0⟩ := by
  unfold State.inbound
  dsimp only
  have hb : ((upTo 256).any fun i => s.hbmBad (inAt s p i) 8 false) = true := by
    obtain ⟨i, hi, e⟩ := g
    rw [upTo_eq_range, List.any_eq_true]
    exact ⟨i, List.mem_range.mpr hi, e⟩
  exact (if_neg (by rw [hl]; decide)).trans ((if_neg fun e => h ⟨hl, any_allows.mp e⟩).trans (if_pos hb))
end

/-- A request that has come, taken off the list of those that wait. -/
def taken (s : State) (fl : Flit) : State := { s with peerIn := s.peerIn.erase fl }
/-- The operation that a peer's request becomes. -/
def peerOp (s : State) (fl : Flit) (w : BitVec 16) (off : BitVec 48) : Op :=
  { id := s.newId, tile := dispatchTile, slot := 0, phase := 0, part := fl.dstPart, rkey := 0, va := vaOf w off, d := none
    word := 0, mark := 0, kind := .peer fl, sent := true }
section
variable {s : State} {fl : Flit}
theorem peer_stays (h : fl ∉ s.peerIn ∨ ((s.part fl.dstPart).live = true ∧ s.inboundServed fl.dstPart = false)) :
    exec (.peerAccessInbound fl) s = .next s := by
  refine congrArg Host.Outcome.next (if_pos ?_)
  rcases h with h | ⟨h1, h2⟩
  · simp [h]
  · simp [h1, h2]
variable (hm : fl ∈ s.peerIn) (hs : ¬ (s.part fl.dstPart).live = true ∨ s.inboundServed fl.dstPart = true)
include hm hs
theorem peer_takes {u : State} (h : (match bodyAccess fl.body with
      | none => taken s fl
      | some (w, off, n, r) =>
        match s.inbound fl.dstPart fl.srcDev fl.srcPart r with
        | some f => (taken s fl).reply fl false [(f.kind, false)]
        | none =>
          if !peerSpan fl.body off.toNat n then (taken s fl).reply fl false [(0x02, false)]
          else { taken s fl with ops := s.ops ++ [peerOp s fl w off], newId := s.newId + 1 }.peerStep (peerOp s fl w off) fl) = u) :
    exec (.peerAccessInbound fl) s = .next u := by
  subst h
  refine congrArg Host.Outcome.next ((if_neg ?_).trans ?_)
  · rcases hs with hs | hs <;> simp [hm, hs]
  · rfl
end

/-- What a peer may ask for at once. -/
theorem peerSpan_iff (b : FlitBody) (off n : Nat) : peerSpan b off n = true ↔ off % 4096 + n ≤ 8192 ∨
    ((match b with | .read .. => True | .write .. => True | _ => False) ∧ off % 65536 + n ≤ 65536) := by
  unfold peerSpan
  rw [Bool.or_eq_true, decide_eq_true_eq]
  refine or_congr_right ?_
  cases b <;> simp

theorem peerAccessesAreAuthorized : Claims.PeerAccessesAreAuthorized := by
  intro s fl live stays
  refine ⟨fun h => peer_stays (.inl h), fun hl hs => peer_stays (.inr ⟨hl, hs⟩), fun hm hs => ?_⟩
  intro u
  refine ⟨fun hb => peer_takes hm hs (by rw [hb]; rfl), fun w off n r hb => ?_⟩
  intro place lost allowed answers plain fits
  have refused : ∀ {f : Flt}, s.inbound fl.dstPart fl.srcDev fl.srcPart r = some f → answers f.kind := fun hf =>
    peer_takes hm hs (by simp only [hb, hf]; rfl)
  refine ⟨fun ha hg => refused (inbound_refuses ha hg), fun ha hl hg => refused (inbound_unread ha hl hg), fun ha hf => ?_, fun ha hf => ?_⟩
  · refine peer_takes hm hs ?_
    simp only [hb, inbound_allows ha]
    exact if_pos (by simpa using mt (peerSpan_iff fl.body off.toNat n).mp hf)
  · obtain ⟨h1, h2⟩ := vaOf_fields w off
    refine ⟨peerOp s fl w off, rfl, rfl, rfl, h1, h2, peer_takes hm hs ?_⟩
    simp only [hb, inbound_allows ha]
    refine (if_neg ?_).trans rfl
    rw [(peerSpan_iff fl.body off.toNat n).mpr hf]
    decide

/-- Settles O48, by a port's state and by the entries of the inbound table. -/
theorem wildomPortsCarryAuthorizedAccesses : Obligations.WildomPortsCarryAuthorizedAccesses := ⟨wildomPortsTrainAndRetry, peerAccessesAreAuthorized⟩

end Sys2Proof.Proofs.Links
end

section
/-! PROOFS. The completion of a graph, and the progress event (R316, R318, R360, R367, R382). -/
namespace Sys2Proof.Proofs.Graphs
open Sys2Proof Sys2Proof.Machine
set_option Elab.async false

/-! ## When a graph completes -/

/-- The states of a region's tasks. -/
def taskStates (s : State) (r : Region) : List TaskSt := (r.binds.map fun b => (s.slotsOn b).map fun k => (s.task b.tile k).st).flatten
theorem mem_taskStates {s : State} {r : Region} {x : TaskSt} :
    x ∈ taskStates s r ↔ ∃ b ∈ r.binds, ∃ k ∈ s.slotsOn b, (s.task b.tile k).st = x := by
  simp [taskStates]
theorem taskStates_all (s : State) (r : Region) :
    ((taskStates s r).all fun k => k == .idle || k == .retired) = true ↔
      ∀ b ∈ r.binds, ∀ k ∈ s.slotsOn b, (s.task b.tile k).st = .idle ∨ (s.task b.tile k).st = .retired := by
  simp only [List.all_eq_true, mem_taskStates, Bool.or_eq_true, beq_iff_eq]
  exact ⟨fun h b hb k hk => h _ ⟨b, hb, k, hk, rfl⟩, fun h x ⟨b, hb, k, hk, e⟩ => e ▸ h b hb k hk⟩
theorem taskStates_any (s : State) (r : Region) :
    ((taskStates s r).any (· == .retired)) = true ↔ ∃ b ∈ r.binds, ∃ k ∈ s.slotsOn b, (s.task b.tile k).st = .retired := by
  simp only [List.any_eq_true, mem_taskStates, beq_iff_eq]
  exact ⟨fun ⟨x, ⟨b, hb, k, hk, e⟩, h⟩ => ⟨b, hb, k, hk, e.trans h⟩, fun ⟨b, hb, k, hk, e⟩ => ⟨_, ⟨b, hb, k, hk, rfl⟩, e⟩⟩
theorem circuits_empty (r : Region) : (r.circs.all fun c => !c.holds) = true ↔ ∀ c ∈ r.circs, c.entry = [] ∧ c.flight = [] := by
  simp [Circuit.holds]
theorem operations_gone (s : State) (r : Region) :
    (!(s.ops.any fun o => o.rkey == r.key && o.slot != 15)) = true ↔ ∀ o ∈ s.ops, o.rkey = r.key → o.slot = 15 := by
  simp
theorem completes_iff (s : State) (r : Region) :
    s.completes r = true ↔ r.rbReq = false ∧
      (∀ b ∈ r.binds, ∀ k ∈ s.slotsOn b, (s.task b.tile k).st = .idle ∨ (s.task b.tile k).st = .retired) ∧
      (∃ b ∈ r.binds, ∃ k ∈ s.slotsOn b, (s.task b.tile k).st = .retired) ∧
      (∀ b ∈ r.binds, (s.lt b.tile b.ph).holds = false ∧ s.workOn b = false) ∧
      (∀ c ∈ r.circs, c.entry = [] ∧ c.flight = []) ∧ ∀ o ∈ s.ops, o.rkey = r.key → o.slot = 15 := by
  rw [← taskStates_all, ← taskStates_any, ← circuits_empty, ← operations_gone]
  have hb : (∀ b ∈ r.binds, (s.lt b.tile b.ph).holds = false ∧ s.workOn b = false) ↔
      (r.binds.all fun b => !(s.lt b.tile b.ph).holds && !s.workOn b) = true := by simp
  rw [hb]
  unfold State.completes
  simp only [Bool.and_eq_true, Bool.not_eq_true', taskStates, and_assoc]

theorem graphComplete_completes {s : State} {rg : Nat} {r : Region} (hr : s.region rg = some r) (hl : r.st = .live) (h : s.completes r = true) :
    execGraphComplete rg s =
      .next ((((s.closeInterval r).lateEnd r).release r).completion r.part r.desc r.graph (2 ^ r.fold.toNat) 0) := by
  simp only [execGraphComplete, hr]
  exact congrArg Host.Outcome.next (if_neg (by simp [hl, h]))
theorem graphComplete_stays {s : State} {rg : Nat} {r : Region} (hr : s.region rg = some r) (h : r.st ≠ .live ∨ s.completes r = false) :
    execGraphComplete rg s = .next s := by
  simp only [execGraphComplete, hr]
  exact congrArg Host.Outcome.next (if_pos (by simpa using h))

theorem claim_graphsComplete : Claims.GraphsComplete := fun s rg r hr =>
  ⟨fun hl hc => graphComplete_completes hr hl hc, fun h => graphComplete_stays hr h, completes_iff s r⟩

/-! ## The progress event -/

/-- Operations of a region that wait for a version. -/
def waitingOps (s : State) (r : Region) : Nat :=
  (s.ops.filter fun o => o.rkey == r.key && o.slot != 15 &&
    (match o.kind with
      | .elem a => a.waits && a.ver.isSome
      | .frame _ w => w
      | .card c .. => o.waits && !o.out && (c.sver || c.dver)
      | .coll c .. => o.waits && !o.out && (c.sver || c.dver)
      | _ => false)).length
/-- Collectives of a region that wait for their ranks. -/
def waitingColls (s : State) (r : Region) : Nat :=
  (s.ops.filter fun o => o.rkey == r.key && o.slot != 15 && o.sent && (match o.kind with | .coll _ _ none _ => true | _ => false)).length
/-- A region's PROGRESS event before the lowest parked task is named in it. -/
def progressBase (s : State) (r : Region) : FaultRec :=
  { kind := 0x81, region := r.id, va := w64 (r.graph.toNat + 2 ^ 32 * s.tokensOf r), index := w32 (s.parked r).length
    c0 := w32 (s.stoppedOf r), c1 := w32 (waitingOps s r), c2 := w32 (waitingColls s r), c3 := r.gen }
/-- The lowest parked task named in an event. -/
def nameParked (f : FaultRec) : Option (Bind × SlotId × Park) → FaultRec
  | some (b, k, q) => { f with ly := b.ly, lx := b.lx, sub := k, aux := w32 (parkCode q) }
  | none => f

theorem progressTimeout_reports {s : State} {rg : Nat} {r : Region} (hr : s.region rg = some r) (hg : s.regionRuns rg = true)
    (ht : r.told = false) (hn : r.prog0 + 2 ^ 20 ≤ s.ownNow r) (hp : s.pending r = true) :
    execProgressTimeout rg s =
      .next ((s.post r.part (nameParked (progressBase s r) (lowParked (s.parked r)))).2.modRegion rg fun x => { x with told := true }) := by
  simp only [execProgressTimeout, hr]
  refine congrArg Host.Outcome.next ((if_neg ?_).trans ?_)
  · simpa [hg, ht, hp] using hn
  · cases lowParked (s.parked r) <;> rfl
theorem progressTimeout_stays {s : State} {rg : Nat} {r : Region} (hr : s.region rg = some r)
    (h : s.regionRuns rg = false ∨ r.told = true ∨ s.ownNow r < r.prog0 + 2 ^ 20 ∨ s.pending r = false) :
    execProgressTimeout rg s = .next s := by
  simp only [execProgressTimeout, hr]
  exact congrArg Host.Outcome.next (if_pos (by simpa [or_assoc] using h))

theorem claim_stoppedRegionsAreReported : Claims.StoppedRegionsAreReported := by
  intro s rg r hr
  refine ⟨fun hg ht hn hp => ?_, fun h => progressTimeout_stays hr h⟩
  refine ⟨_, progressTimeout_reports hr hg ht hn hp, ?_⟩
  cases hl : lowParked (s.parked r) with
  | none => exact ⟨rfl, rfl, rfl, rfl, rfl, nofun⟩
  | some x =>
    refine ⟨rfl, rfl, rfl, rfl, rfl, ?_⟩
    rintro b k q ⟨⟩
    exact ⟨rfl, rfl, rfl, rfl⟩

/-- Settles O39: what completes is what R318 lists, and the PROGRESS event names the lowest parked task. -/
theorem graphsCompleteOrAreReported : Obligations.GraphsCompleteOrAreReported :=
  ⟨claim_graphsComplete, claim_stoppedRegionsAreReported⟩

end Sys2Proof.Proofs.Graphs
end

section
/-! PROOFS. Freezes: pre-emption, quantum and markers (R90, R196, R200, R317, R322, R325, R367). -/
namespace Sys2Proof.Proofs.Freezes
open Sys2Proof Sys2Proof.Machine
open Sys2Proof.Proofs.Errors Sys2Proof.Proofs.Ranked
set_option Elab.async false

/-! ## When a freeze ends -/

/-- What a freeze whose tiles can all be saved ends in. -/
def frozenEnd (s : State) (r : Region) : FreezeFor → State
  | .preempt => s.preempted r
  | .checkpoint => s.checkpointed r

section
variable {s : State} {rg : Nat} {r : Region} (hr : s.region rg = some r)
include hr
theorem finishFreeze_unfrozen (h : ∀ w, r.st ≠ .freezing w) : s.finishFreeze rg = s := by
  unfold State.finishFreeze
  rw [hr]
  dsimp only
  split
  · exact absurd ‹_› (h _)
  · rfl
theorem finishFreeze_rollback {w : FreezeFor} (hw : r.st = .freezing w) (hb : r.rbReq = true) : s.finishFreeze rg = s := by
  simp [State.finishFreeze, hr, hw, hb]
theorem finishFreeze_unquiet {w : FreezeFor} (hw : r.st = .freezing w) (hb : r.rbReq = false) (hm : r.marks = false) (hq : s.quiet r = false) :
    s.finishFreeze rg = s := by
  simp [State.finishFreeze, State.canSave, hr, hw, hb, hm, hq]
theorem finishFreeze_sends {w : FreezeFor} (hw : r.st = .freezing w) (hb : r.rbReq = false) (hm : r.marks = false) (hq : s.quiet r = true)
    {r' : Region} (hr' : (s.sendMarkers rg).region rg = some r') (hs : (s.sendMarkers rg).canSave r' = false) :
    s.finishFreeze rg = s.sendMarkers rg := by
  simp [State.finishFreeze, hr, hw, hb, hm, hq, hr', hs]
section
variable {w : FreezeFor} (hw : r.st = .freezing w) (hb : r.rbReq = false) (hm : r.marks = true)
include hw hb hm
theorem finishFreeze_waits (hs : s.canSave r = false) : s.finishFreeze rg = s := by
  simp [State.finishFreeze, hr, hw, hb, hm, hs]
theorem finishFreeze_saves (hs : s.canSave r = true) :
    s.finishFreeze rg = frozenEnd s r w := by
  cases w <;> simp [State.finishFreeze, frozenEnd, hr, hw, hb, hm, hs]
end

/-! ## Pre-emption -/

theorem preempt_fetched (h : r.st = .fetched) : s.preempt rg = { s with regions := s.regions.filter fun x => x.key != rg } := by
  simp [State.preempt, hr, h]
theorem preempt_complete (h : r.st = .live) (hc : s.completes r = true) : s.preempt rg = s := by
  simp [State.preempt, hr, h, hc]
theorem preempt_freezes (h : r.st = .live) (hc : s.completes r = false) (hb : r.rbReq = false) :
    s.preempt rg = s.beginFreeze rg .preempt := by
  simp [State.preempt, hr, h, hc, hb]
theorem preempt_waits (h : (r.st = .live ∧ r.rbReq = true) ∨ ∃ w, r.st = .freezing w) :
    s.preempt rg = s.modRegion rg fun x => { x with preReq := true } := by
  obtain ⟨hl, hb⟩ | ⟨w, hw⟩ := h
  · have hc : s.completes r = false := by simp [State.completes, hb]
    simp [State.preempt, hr, hl, hb, hc]
  · simp [State.preempt, hr, hw]

theorem quantumExpire_preempts (h : r.st = .live) (hq : dfld r.desc 2 63 32 ≠ 0) (ho : r.quant0 + 1024 * dfld r.desc 2 63 32 ≤ s.ownNow r) :
    execQuantumExpire rg s = execPreemptRequest rg s := by
  unfold execQuantumExpire execPreemptRequest
  rw [hr]
  exact congrArg Host.Outcome.next (if_neg (by simp [h, hq, Nat.not_lt.mpr ho]))
theorem quantumExpire_stays (h : r.st ≠ .live ∨ dfld r.desc 2 63 32 = 0 ∨ s.ownNow r < r.quant0 + 1024 * dfld r.desc 2 63 32) :
    execQuantumExpire rg s = .next s := by
  unfold execQuantumExpire
  rw [hr]
  exact congrArg Host.Outcome.next (if_pos (by tauto))
end

/-! ## A marker arrives -/

/-- A circuit's marker is taken off its end and counted. -/
def takeMarker (s : State) (rg c : Nat) (l : List (Nat × Token)) : State :=
  s.modCirc rg c fun q => { q with flight := l, marked := true }
/-- A pre-emption that waited begins, if the region is live. -/
def thenPreempt (v : State) (rg : Nat) : State :=
  match v.region rg with
  | some z => if z.st = .live ∧ z.preReq = true then (v.modRegion rg fun x => { x with preReq := false }).preempt rg else v
  | none => v
theorem thenPreempt_frozen {v : State} {rg : Nat} {r : Region} (hr : v.region rg = some r) {w : FreezeFor} (hw : r.st = .freezing w) :
    thenPreempt v rg = v := by
  simp [thenPreempt, hr, hw]
theorem markerArrive_takes {s : State} {rg c pos : Nat} {q : Circuit} {x : Token} {l : List (Nat × Token)} (hc : s.circ rg c = some q)
    (hf : q.flight = (pos, x) :: l) (hx : x.kind = .marker) (hp : q.stages ≤ pos + 1) :
    execMarkerArrive rg c s = .next (thenPreempt ((takeMarker s rg c l).finishFreeze rg) rg) := by
  simp only [execMarkerArrive, hc, hf, hx, hp, and_self, if_true]
  rfl
theorem region_takeMarker {s : State} {rg : Nat} {r : Region} (hr : s.region rg = some r) (c : Nat) (l : List (Nat × Token)) :
    (takeMarker s rg c l).region rg = some { r with circs := r.circs.zipIdx.map fun (q, k) =>
      if k = c then { q with flight := l, marked := true } else q } := by
  unfold takeMarker State.modCirc
  rw [region_modRegion _ _ _ (by exact fun _ => rfl), hr]
  rfl

theorem claim_preemptionFreezesARegion : Claims.PreemptionFreezesARegion := by
  intro s rg r hr quantum
  refine ⟨fun h => congrArg Host.Outcome.next (preempt_fetched hr h), fun h hc => congrArg Host.Outcome.next (preempt_complete hr h hc),
    fun h hc hb => congrArg Host.Outcome.next (preempt_freezes hr h hc hb), fun h => congrArg Host.Outcome.next (preempt_waits hr h),
    fun h hq ho => quantumExpire_preempts hr h hq ho, fun h => quantumExpire_stays hr h, ?_⟩
  intro w c q pos x l r' hw hb hm hc hf hx hp u hu
  have hu' := region_takeMarker hr c l
  have e : r' = _ := Option.some.inj (hu.symm.trans hu')
  have hw' : r'.st = .freezing w := by rw [e]; exact hw
  have hb' : r'.rbReq = false := by rw [e]; exact hb
  have hm' : r'.marks = true := by rw [e]; exact hm
  have hx' : exec (.markerArrive rg c) s = .next (thenPreempt (u.finishFreeze rg) rg) := markerArrive_takes hc hf hx hp
  constructor
  · intro hs
    rw [hx', finishFreeze_waits hu hw' hb' hm' hs, thenPreempt_frozen hu hw']
  · intro hs
    rw [hx', finishFreeze_saves hu hw' hb' hm' hs]
    cases w <;> rfl

/-! ## Tiles of a freeze -/

/-- The tiles' results on their way are as before. -/
def SamePipes (s u : State) : Prop := ∀ t, (u.tile t).vpipe = (s.tile t).vpipe ∧ (u.tile t).ll = (s.tile t).ll
theorem SamePipes.trans {s t u : State} (h : SamePipes s t) (g : SamePipes t u) : SamePipes s u :=
  fun x => ⟨(g x).1.trans (h x).1, (g x).2.trans (h x).2⟩
theorem modTile_pipes (s : State) (t : Nat) (f : Tile → Tile) (h : ∀ x, (f x).vpipe = x.vpipe ∧ (f x).ll = x.ll) :
    SamePipes s (s.modTile t f) := by
  intro u
  unfold State.modTile
  rw [tile_setTile]
  by_cases e : u = t
  · rw [if_pos e, e]; exact h _
  · rw [if_neg e]; exact ⟨rfl, rfl⟩
theorem unpopOf_pipes (s : State) (t : Nat) (k : SlotId) (ph : BitVec 2) (p : BitVec 3) (l : List Token) :
    SamePipes s (s.unpopOf t k ph p l) := by
  unfold State.unpopOf State.modLt State.setLt
  split <;> refine modTile_pipes _ _ _ fun x => ?_
  · split <;> exact ⟨rfl, rfl⟩
  · exact ⟨rfl, rfl⟩
theorem backOut_pipes (s : State) (t : Nat) : SamePipes s (s.backOut t) := by
  unfold State.backOut
  split
  · exact fun _ => ⟨rfl, rfl⟩
  · split
    · exact fun _ => ⟨rfl, rfl⟩
    · split
      · exact fun _ => ⟨rfl, rfl⟩
      · exact (unpopOf_pipes _ _ _ _ _ _).trans (modTile_pipes _ _ _ fun _ => ⟨rfl, rfl⟩)
theorem drain_empty {s : State} {t : Nat} (hv : (s.tile t).vpipe = []) (hl : (s.tile t).ll = []) : s.drain t = s := by
  simp [State.drain, hv, drainPipe, hl, drainLl]
/-- Where nothing is on its way, what a freeze does to its tiles is to put gathered tokens back. -/
theorem foldl_backOut (ts : List Nat) {s : State} (h : ∀ t ∈ ts, (s.tile t).vpipe = [] ∧ (s.tile t).ll = []) :
    ts.foldl (fun s t => (s.drain t).backOut t) s = ts.foldl State.backOut s := by
  induction ts generalizing s with
  | nil => rfl
  | cons t ts ih =>
    obtain ⟨hv, hl⟩ := h t List.mem_cons_self
    rw [List.foldl_cons, List.foldl_cons, drain_empty hv hl]
    refine ih fun u hu => ?_
    obtain ⟨hv, hl⟩ := h u (List.mem_cons_of_mem _ hu)
    exact ⟨(backOut_pipes s t u).1.trans hv, (backOut_pipes s t u).2.trans hl⟩
theorem mem_tiles {r : Region} {t : Nat} : t ∈ r.tiles ↔ ∃ b ∈ r.binds, b.tile = t := by simp [Region.tiles]

theorem settle_region {s : State} {rg : Nat} {r : Region} (hr : s.region rg = some r) :
    (s.settle rg).region rg = some { r with own := s.ownNow r, ownAt := s.cycle } := by
  unfold State.settle
  rw [hr]
  dsimp only
  rw [region_modRegion _ _ _ (by exact fun _ => rfl), hr]
  rfl
theorem tile_settle (s : State) (rg t : Nat) : (s.settle rg).tile t = s.tile t := by
  unfold State.settle
  split <;> rfl

/-! ## Where a frozen region stands -/

theorem freeze_eq {s : State} {rg : Nat} {r : Region} (hr : s.region rg = some r) (w : FreezeFor) :
    s.freeze rg w = (r.tiles.foldl (fun s t => (s.drain t).backOut t) (s.settle rg)).modRegion rg fun r =>
      { r with st := .freezing w, marks := false, circs := r.circs.map fun c => { c with caught := [], marked := false } } := by
  unfold State.freeze
  rw [settle_region hr]
  rfl
/-- A region that was put out of its live state does not run. -/
theorem regionRuns_modRegion (s : State) (k : Nat) (f : Region → Region) (hk : ∀ r, (f r).key = r.key) (hf : ∀ r, (f r).st ≠ .live) :
    (s.modRegion k f).regionRuns k = false := by
  unfold State.regionRuns
  rw [region_modRegion s k f hk]
  cases s.region k with
  | none => rfl
  | some r =>
    dsimp only [Option.map]
    split
    · exact absurd ‹_› (hf r)
    · rfl

theorem backOut_empty {s : State} {t : Nat} (h : (s.tile t).mq = []) : s.backOut t = s := by simp [State.backOut, h]
section
variable {s : State} {t : Nat} {i : MItem} {l : List MItem} (h : (s.tile t).mq = i :: l)
include h
theorem backOut_other (hi : (s.itemInstr t i).bind loadPort = none ∨ i.slot = 15 ∨ i.prog.held = []) : s.backOut t = s := by
  unfold State.backOut
  rw [h]
  dsimp only
  split
  · rfl
  · exact if_pos (hi.resolve_left (by simp [*]))
theorem backOut_unpops {p : BitVec 3} (hp : (s.itemInstr t i).bind loadPort = some p) (hs : i.slot ≠ 15) (hh : i.prog.held ≠ []) :
    ∃ q : MProg, s.backOut t = (s.unpopOf t i.slot (s.task t i.slot).phase p i.prog.held).modTile t fun x =>
      { x with mq := { i with prog := q } :: l } := by
  refine ⟨if { i.prog with held := [], n := 0 } = { stage := 1 } then {} else { i.prog with held := [], n := 0 }, ?_⟩
  unfold State.backOut
  rw [h]
  dsimp only
  rw [hp]
  exact if_neg fun h => h.elim hs hh
end

/-! ## The markers of a freeze -/

theorem sendMarkers_eq {s : State} {rg : Nat} {r : Region} (hr : s.region rg = some r) :
    s.sendMarkers rg = r.circs.zipIdx.foldl (fun s x => s.pushMarker rg x.2 x.1)
      ((r.tiles.foldl State.drain s).modRegion rg fun r => { r with marks := true }) := by
  unfold State.sendMarkers
  rw [hr]
theorem pushMarker_port (s : State) (rg i : Nat) (c : Circuit) (hl : 8 ≤ c.src.ep.toNat) (hh : c.src.ep.toNat < 16) :
    (vget ((s.pushMarker rg i c).lt c.src.tile c.src.ph).outP (c.src.ep.toNat % 8) {}).fifo =
      (vget (s.lt c.src.tile c.src.ph).outP (c.src.ep.toNat % 8) {}).fifo ++ [.tok markerTok] := by
  unfold State.pushMarker
  rw [if_pos ⟨hl, hh⟩, modLt_eq, lt_setLt, if_pos ⟨rfl, rfl⟩]
  dsimp only
  rw [vget_vset _ _ _ _ _ (Nat.mod_lt _ (by decide)), if_pos rfl]
theorem pushMarker_entry {s : State} {rg i : Nat} {r : Region} {c : Circuit} (hr : s.region rg = some r) (he : 16 ≤ c.src.ep.toNat)
    (hc : r.circs[i]? = some c) : (s.pushMarker rg i c).circ rg i = some { c with entry := c.entry ++ [markerTok] } := by
  unfold State.pushMarker State.modCirc State.circ
  rw [if_neg (by omega), region_modRegion _ _ _ (by exact fun _ => rfl), hr]
  simp [hc]

theorem claim_freezeSendsAMarkerOnEachCircuit : Claims.FreezeSendsAMarkerOnEachCircuit := by
  intro s rg r w hr
  refine ⟨fun h => ?_, fun t => ⟨backOut_empty, fun i l h => ⟨backOut_other h, fun p => backOut_unpops h⟩⟩, ?_,
    fun hw hb hm => ⟨finishFreeze_unquiet hr hw hb hm, fun hq r' => finishFreeze_sends hr hw hb hm hq⟩, sendMarkers_eq hr,
    fun i c => ⟨pushMarker_port s rg i c, pushMarker_entry hr⟩⟩
  · rw [freeze_eq hr, foldl_backOut]
    intro t ht
    obtain ⟨b, hb, rfl⟩ := mem_tiles.mp ht
    rw [tile_settle]
    exact h b hb
  · rw [freeze_eq hr]
    exact regionRuns_modRegion _ _ _ (fun _ => rfl) fun _ => nofun

/-- Settles O40: the cases of a pre-emption, and what a freeze does to tiles and circuits. -/
theorem freezesSendMarkers : Obligations.FreezesSendMarkers :=
  ⟨claim_preemptionFreezesARegion, claim_freezeSendsAMarkerOnEachCircuit⟩

end Sys2Proof.Proofs.Freezes
end

section
/-! PROOFS. Checkpoints and rollback (R357, R366, R367). -/
namespace Sys2Proof.Proofs.Rollbacks
open Sys2Proof Sys2Proof.Machine
open Sys2Proof.Proofs.Freezes Sys2Proof.Proofs.Bits
set_option Elab.async false

/-! ## Checkpoints -/

section
variable {s : State} {rg : Nat} {r : Region} (hr : s.region rg = some r)
include hr
theorem checkpoint_begins (h : r.st = .live) (hc : r.ckReq = true) (hb : r.rbReq = false) :
    execCheckpoint rg s = .next (s.beginFreeze rg .checkpoint) := by
  simp [execCheckpoint, hr, h, hc, hb]
theorem checkpoint_idle (h : r.st = .live) (hc : r.ckReq = false ∨ r.rbReq = true) : execCheckpoint rg s = .next s := by
  simp only [execCheckpoint, hr, h]
  exact congrArg Host.Outcome.next (if_neg (by obtain h | h := hc <;> simp [h]))
theorem checkpoint_freezing (h : r.st = .freezing .checkpoint) : execCheckpoint rg s = .next (s.finishFreeze rg) := by
  simp [execCheckpoint, hr, h]
theorem checkpoint_other (h : r.st = .fetched ∨ r.st = .freezing .preempt) : execCheckpoint rg s = .next s := by
  obtain h | h := h <;> simp [execCheckpoint, hr, h]
theorem checkpointInterval_begins (h : r.st = .live) (hb : r.rbReq = false) (hi : bfld (s.ckctl r) 31 8 ≠ 0)
    (ho : r.ck0 + bfld (s.ckctl r) 31 8 * 2 ^ 20 ≤ s.ownNow r) : execCheckpointInterval rg s = .next (s.beginFreeze rg .checkpoint) := by
  unfold execCheckpointInterval
  rw [hr]
  exact congrArg Host.Outcome.next (if_neg (by rw [h, hb]; simpa [hi] using ho))
theorem checkpointInterval_stays
    (h : r.st ≠ .live ∨ r.rbReq = true ∨ bfld (s.ckctl r) 31 8 = 0 ∨ s.ownNow r < r.ck0 + bfld (s.ckctl r) 31 8 * 2 ^ 20) :
    execCheckpointInterval rg s = .next s := by
  unfold execCheckpointInterval
  rw [hr]
  exact congrArg Host.Outcome.next (if_pos (by tauto))
end

theorem claim_checkpointsStandInPlace : Claims.CheckpointsStandInPlace := by
  intro s rg r hr interval
  refine ⟨checkpoint_begins hr, checkpoint_idle hr,
    fun h hb => (checkpoint_freezing hr h).trans (congrArg _ (finishFreeze_rollback hr h hb)),
    fun h hb hm => ⟨fun hs => (checkpoint_freezing hr h).trans (congrArg _ (finishFreeze_saves hr h hb hm hs)),
      fun hs => (checkpoint_freezing hr h).trans (congrArg _ (finishFreeze_waits hr h hb hm hs))⟩,
    fun h hb hm hq => (checkpoint_freezing hr h).trans (congrArg _ (finishFreeze_unquiet hr h hb hm hq)),
    checkpoint_other hr, checkpointInterval_begins hr, checkpointInterval_stays hr⟩

/-! ## Rollback -/

/-- A region is struck where another party wrote a byte that it wrote itself. -/
theorem struck_iff (r : Region) : r.struck = true ↔
    ∃ u ∈ r.undo, ∃ i < 256, u.mine.getLsbD i = true ∧ ∃ o ∈ r.outer, o.1 ≤ 256 * u.block + i ∧ 256 * u.block + i < o.1 + o.2 := by
  simp only [Region.struck, List.any_eq_true, upTo_eq_range, List.mem_range, Bool.and_eq_true, decide_eq_true_eq]

section
variable {s : State} {rg : Nat} {r : Region} (hr : s.region rg = some r)
include hr
theorem rollback_idle (h : r.rbReq = false ∨ r.st = .fetched) : execRollback rg s = .next s := by
  unfold execRollback
  rw [hr]
  exact congrArg Host.Outcome.next (if_pos (by simpa using h))
section
variable (hb : r.rbReq = true) (hf : r.st ≠ .fetched)
include hb hf
theorem rollback_none (h : r.ckpt = none) : execRollback rg s = .next (s.rollFail r 0x33) := by
  simp [execRollback, hr, hb, hf, h]
theorem rollback_again {q : Snapshot} (h : r.ckpt = some q) (hd : r.rolled = true) : execRollback rg s = .next (s.rollFail r 0x34) := by
  simp [execRollback, hr, hb, hf, h, hd]
theorem rollback_unserved {q : Snapshot} (h : r.ckpt = some q) (hd : r.rolled = false)
    (hn : ckEn (s.ckctl r) = false ∨ r.ext = true ∨ r.struck = true ∨ r.plain = true ∨ s.ctxLost r = true) :
    execRollback rg s = .next (s.rollFail r 0x33) := by
  simp only [execRollback, hr, hb, hf, h, hd]
  refine congrArg Host.Outcome.next ((if_neg nofun).trans ((if_neg nofun).trans ?_))
  exact if_pos (by simpa using hn)
theorem rollback_returns {q : Snapshot} (h : r.ckpt = some q) (hd : r.rolled = false)
    (hn : ckEn (s.ckctl r) = true ∧ r.ext = false ∧ r.struck = false ∧ r.plain = false ∧ s.ctxLost r = false) :
    execRollback rg s = .next (if r.preReq = true ∨ r.st = .freezing .preempt
      then ((s.rollTo r q).modRegion rg fun x => { x with preReq := false }).preempt rg else s.rollTo r q) := by
  obtain ⟨he, hx, hs, hp, hl⟩ := hn
  simp only [execRollback, hr, hb, hf, h, hd]
  refine congrArg Host.Outcome.next ((if_neg nofun).trans ((if_neg nofun).trans ?_))
  exact if_neg (by simp [he, hx, hs, hp, hl])
end
end

theorem claim_rollbackReturnsOrFails : Claims.RollbackReturnsOrFails := by
  intro s rg r hr struck serves
  have hs : struck ↔ r.struck = true := (struck_iff r).symm
  refine ⟨rollback_idle hr, fun hb hf => ⟨rollback_none hr hb hf, fun q hq => ⟨rollback_again hr hb hf hq, fun hd hn => ?_, fun hd hn => ?_⟩⟩⟩
  · refine rollback_unserved hr hb hf hq hd ?_
    simp only [serves, hs, not_and_or, not_not, Bool.not_eq_true, Bool.not_eq_false] at hn
    exact hn
  · obtain ⟨he, hx, hn, hp, hl⟩ := hn
    exact rollback_returns hr hb hf hq hd ⟨he, hx, by simpa [hs] using hn, hp, hl⟩

/-- Settles O41: the cases of a checkpoint, and of a rollback with a struck byte spelt out. -/
theorem checkpointsAndRollbacks : Obligations.CheckpointsAndRollbacks :=
  ⟨claim_checkpointsStandInPlace, claim_rollbackReturnsOrFails⟩

end Sys2Proof.Proofs.Rollbacks
end

section
/-! PROOFS. The forwarding of the memory-operation port, and atomics at their home (R119, R131, R249, R253, R280, R382). -/
namespace Sys2Proof.Proofs.Atomics
open Sys2Proof Sys2Proof.Machine
set_option Elab.async false

/-! ## The port forwards -/

/-- Whether the port may forward an operation of its queue. -/
def mayForward (s : State) (i : Nat) : Bool := match s.op i with | some o => o.slot == 15 || s.regionRuns o.rkey | none => true
theorem mayForward_op {s : State} {i : Nat} {o : Op} (h : s.op i = some o) : mayForward s i = (o.slot == 15 || s.regionRuns o.rkey) := by
  simp [mayForward, h]
theorem memopForward_found {s : State} {t i : Nat} (hm : (s.tile t).memStop = none) (hf : (s.tile t).memq.find? (mayForward s) = some i) :
    execMemopForward t s = .next ((s.modTile t fun x => { x with memq := setDel x.memq i }).modOp i fun o => { o with sent := true }) := by
  unfold execMemopForward
  dsimp only
  rw [hm]
  refine congrArg Host.Outcome.next ((if_neg nofun).trans ?_)
  change (match (s.tile t).memq.find? (mayForward s) with | none => s | some i => _) = _
  rw [hf]
theorem setDel_middle (a : List Nat) {i : Nat} (b : List Nat) (h : i ∉ a) : setDel (a ++ i :: b) i = a ++ b := by
  induction a with
  | nil => simp [setDel]
  | cons j a ih =>
    obtain ⟨hj, ha⟩ := not_or.mp (mt List.mem_cons.mpr h)
    rw [List.cons_append, setDel, if_neg hj, ih ha, List.cons_append]
theorem find?_middle {p : Nat → Bool} {a : List Nat} {i : Nat} (b : List Nat) (ha : ∀ j ∈ a, p j = false) (hi : p i = true) :
    (a ++ i :: b).find? p = some i := by
  rw [List.find?_append, List.find?_eq_none.mpr fun j hj => by simp [ha j hj], List.find?_cons_of_pos hi]
  rfl
theorem claim_portForwardsInOrder : Claims.PortForwardsInOrder := by
  intro s t i o a b hm hq hi ho hr ha
  change execMemopForward t s = _
  have ha' : ∀ j ∈ a, mayForward s j = false := by
    intro j hj
    obtain ⟨q, hq, hs, hr⟩ := ha j hj
    rw [mayForward_op hq, beq_false_of_ne hs, hr]
    rfl
  have hi' : mayForward s i = true := by simpa [mayForward_op ho] using hr
  rw [memopForward_found hm (hq ▸ find?_middle b ha' hi')]
  unfold State.modTile
  dsimp only
  rw [hq, setDel_middle a b hi]

/-! ## The values of atomics -/

theorem claim_atomicValues : Claims.AtomicValues := by
  intro old x c
  refine ⟨BitVec.eq_of_toNat_eq (by simp [atNew]), ?_, ?_, ?_, ?_, rfl, rfl, rfl, fun h => if_pos h, fun h => if_neg h⟩
  · change (if decide (x.toInt < old.toInt) = true then x else old).toInt = _
    split <;> simp_all <;> omega
  · change (if decide (old.toInt < x.toInt) = true then x else old).toInt = _
    split <;> simp_all <;> omega
  · change (if decide (x.toNat < old.toNat) = true then x else old).toNat = _
    split <;> simp_all <;> omega
  · change (if decide (old.toNat < x.toNat) = true then x else old).toNat = _
    split <;> simp_all <;> omega

/-! ## An atomic at its home -/

section
variable {s : State} {o : Op} {op : AtOp} {x c : DWord}

theorem atomicPerform_at {id : Nat} (ho : s.op id = some o) (hk : o.kind = .atomic op x c) (hs : o.sent = true) (hp : o.stop = none)
    (hu : o.out = false) (hb : s.atBefore o = false) (hr : o.rel = true → s.earlierOut o = false) :
    execAtomicPerform id s = .next (s.atomicAt o op x c) := by
  simp only [execAtomicPerform, ho, hk]
  refine congrArg Host.Outcome.next (if_neg ?_)
  cases h : o.rel <;> simp_all
theorem atomicPerform_waits {id : Nat} (ho : s.op id = some o) (hk : o.kind = .atomic op x c)
    (h : s.atBefore o = true ∨ (o.rel = true ∧ s.earlierOut o = true)) : execAtomicPerform id s = .next s := by
  simp only [execAtomicPerform, ho, hk]
  exact congrArg Host.Outcome.next (if_pos (by obtain h | ⟨h, g⟩ := h <;> simp [*]))

/-- The bytes of an atomic lie in a versioned region. -/
def Versioned (s : State) (o : Op) : Prop := bfld o.va 63 48 = 0 ∧ (s.vregOf o.part (winOf o.va) (offOf o.va)).isSome = true
section
variable (hl : o.lost = none)
include hl
theorem atomicAt_misaligned (h : offOf o.va % 8 ≠ 0) : s.atomicAt o op x c = s.faultOp o ⟨0x02, 0⟩ false o.va 0 0 0 := by
  unfold State.atomicAt
  rw [hl]
  exact (if_neg nofun).trans (if_pos h)
theorem atomicAt_versioned (ha : offOf o.va % 8 = 0) (h : Versioned s o) : s.atomicAt o op x c = s.faultOp o ⟨0x10, 0⟩ false o.va 0 0 0 := by
  unfold State.atomicAt
  rw [hl]
  exact (if_neg nofun).trans ((if_neg (not_not.mpr ha)).trans (if_pos h))
variable (ha : offOf o.va % 8 = 0) (hv : ¬ Versioned s o)
include ha hv
theorem atomicAt_unserved (h : s.walkServed o.tile o.part o.va = false) : s.atomicAt o op x c = s := by
  unfold State.atomicAt
  rw [hl]
  exact (if_neg nofun).trans ((if_neg (not_not.mpr ha)).trans ((if_neg hv).trans (if_pos (by rw [h]; rfl))))
/-- What an atomic does with the target that its address is translated to. -/
def atomicTo (s1 : State) (o : Op) (op : AtOp) (x c : DWord) : Except Flt Target → State
  | .error f => s1.faultOp o f false o.va 0 0 0
  | .ok (.host _) => s1.faultOp o ⟨0x0C, 0⟩ false o.va 0 0 0
  | .ok (.peer a w off) =>
    match s1.ask o a (.atomic w (off48 off) (atCode op) x c) with
    | .error f => s1.faultOp o f false o.va 0 0 0
    | .ok s2 => s2.extAct o.rkey
  | .ok (.hbm pa) =>
    if !s1.served o.part pa then s1
    else if s1.hbmBad pa 8 true then s1.faultOp o ⟨0x0E, 0⟩ false o.va 0 0 0
    else if s1.hbmPois pa then s1.faultOp o ⟨0x0D, 0⟩ false o.va 0 0 0
    else if s1.undoFull o.rkey pa 8 then s1.ckDue o.rkey
    else
      (s1.plainWrite o.rkey pa ((leBytes 8 (atNew op (w64 (s1.hbmNum pa 8)) x c).toNat).map fun b => some (b, false))).opGive o (w64 (s1.hbmNum pa 8))
theorem atomicAt_goes (h : s.walkServed o.tile o.part o.va = true) {t : Except Flt Target} {u : State}
    (ht : s.translate o.tile o.part o.va true .atv = (t, u)) : s.atomicAt o op x c = atomicTo u o op x c t := by
  unfold State.atomicAt
  rw [hl]
  refine (if_neg nofun).trans ((if_neg (not_not.mpr ha)).trans ((if_neg hv).trans ((if_neg (by rw [h]; nofun)).trans ?_)))
  rw [ht]
  cases t with
  | error => rfl
  | ok t => cases t <;> rfl
end

variable {u : State} {pa : Nat}
theorem atomicTo_peer {a : Byte} {w : BitVec 16} {off : Nat} {v : State} (h : u.ask o a (.atomic w (off48 off) (atCode op) x c) = .ok v) :
    atomicTo u o op x c (.ok (.peer a w off)) = v.extAct o.rkey := by
  simp only [atomicTo, h]
theorem atomicTo_refused {a : Byte} {w : BitVec 16} {off : Nat} {f : Flt} (h : u.ask o a (.atomic w (off48 off) (atCode op) x c) = .error f) :
    atomicTo u o op x c (.ok (.peer a w off)) = u.faultOp o f false o.va 0 0 0 := by
  simp only [atomicTo, h]
theorem atomicTo_held (h : u.served o.part pa = false) : atomicTo u o op x c (.ok (.hbm pa)) = u := by
  simp [atomicTo, h]
section
variable (hs : u.served o.part pa = true)
include hs
theorem atomicTo_bad (h : u.hbmBad pa 8 true = true) : atomicTo u o op x c (.ok (.hbm pa)) = u.faultOp o ⟨0x0E, 0⟩ false o.va 0 0 0 := by
  simp [atomicTo, hs, h]
variable (hb : u.hbmBad pa 8 true = false)
include hb
theorem atomicTo_poisoned (h : u.hbmPois pa = true) : atomicTo u o op x c (.ok (.hbm pa)) = u.faultOp o ⟨0x0D, 0⟩ false o.va 0 0 0 := by
  simp [atomicTo, hs, hb, h]
variable (hp : u.hbmPois pa = false)
include hp
theorem atomicTo_full (h : u.undoFull o.rkey pa 8 = true) : atomicTo u o op x c (.ok (.hbm pa)) = u.ckDue o.rkey := by
  simp [atomicTo, hs, hb, hp, h]
theorem atomicTo_acts (h : u.undoFull o.rkey pa 8 = false) : atomicTo u o op x c (.ok (.hbm pa)) =
    (u.plainWrite o.rkey pa ((leBytes 8 (atNew op (w64 (u.hbmNum pa 8)) x c).toNat).map fun b => some (b, false))).opGive o (w64 (u.hbmNum pa 8)) := by
  simp [atomicTo, hs, hb, hp, h]
end
end

theorem claim_atomicsAreOneStep : Claims.AtomicsAreOneStep := by
  intro s id o op x c pa u ho hk hs hp hu hl faults versioned
  refine ⟨fun h => atomicPerform_waits ho hk (.inl h), fun h g => atomicPerform_waits ho hk (.inr ⟨h, g⟩), fun hb hr => ?_⟩
  have act {v : State} (h : s.atomicAt o op x c = v) : exec (.atomicPerform id) s = .next v :=
    (atomicPerform_at ho hk hs hp hu hb hr).trans (congrArg _ h)
  refine ⟨fun h => act (atomicAt_misaligned hl h), fun ha h => act (atomicAt_versioned hl ha h), fun ha hv =>
    ⟨fun h => act (atomicAt_unserved hl ha hv h), fun hw => ?_⟩⟩
  have goes {t : Except Flt Target} {v w : State} (ht : s.translate o.tile o.part o.va true .atv = (t, v)) (h : atomicTo v o op x c t = w) :
      exec (.atomicPerform id) s = .next w := act ((atomicAt_goes hl ha hv hw ht).trans h)
  exact ⟨fun f ht => goes ht rfl, fun ht => goes ht rfl,
    fun a w off ht => ⟨fun f h => goes ht (atomicTo_refused h), fun v h => goes ht (atomicTo_peer h)⟩,
    fun ht => ⟨fun h => goes ht (atomicTo_held h), fun h => ⟨fun hb => goes ht (atomicTo_bad h hb),
      fun hb hp => goes ht (atomicTo_poisoned h hb hp), fun hb hp hf => goes ht (atomicTo_full h hb hp hf),
      fun hb hp hf => goes ht (atomicTo_acts h hb hp hf)⟩⟩⟩

/-- Settles O29: the port's order, the values of atomics, and an atomic's one step by what its address is translated to. -/
theorem atomicsAreForwardedAndPerformed : Obligations.AtomicsAreForwardedAndPerformed :=
  ⟨claim_portForwardsInOrder, claim_atomicValues, claim_atomicsAreOneStep⟩

end Sys2Proof.Proofs.Atomics
end

section
/-! PROOFS. Tokens on circuits, at their endpoints, and too late (R11, R12, R91, R114, R312, R322, R326, R360). -/
namespace Sys2Proof.Proofs.Fabric
open Sys2Proof Sys2Proof.Machine
set_option Elab.async false

/-! ## A hop on a circuit -/

section
variable {stages n pos : Nat} {l : List (Nat × Token)} {x : Token} (hn : l[n]? = some (pos, x))
include hn
/-- Whether no token stands before the n-th at its stage. -/
def noneAhead (l : List (Nat × Token)) (pos : Nat) : Nat → Bool
  | 0 => true
  | j + 1 => (l[j]?.map Prod.fst).all fun q => decide (pos < q)
theorem hopAt_eq : hopAt stages l n =
    if pos + 1 < stages ∧ (l.filter fun y => y.1 == pos + 1).length < 2 ∧ noneAhead l pos n = true then l.set n (pos + 1, x) else l := by
  unfold hopAt
  rw [hn]
  cases n with
  | zero => simp [noneAhead]
  | succ j => cases h : l[j]? <;> simp [noneAhead, h]
theorem hopAt_moves (hs : pos + 1 < stages) (hr : (l.filter fun y => y.1 == pos + 1).length < 2)
    (ha : ∀ p y, n ≠ 0 → l[n - 1]? = some (p, y) → pos < p) : hopAt stages l n = l.set n (pos + 1, x) := by
  rw [hopAt_eq hn]
  refine if_pos ⟨hs, hr, ?_⟩
  cases n with
  | zero => rfl
  | succ j =>
    cases h : l[j]? with
    | none => simp [noneAhead, h]
    | some y => simpa [noneAhead, h] using ha y.1 y.2 nofun h
theorem hopAt_stays (h : stages ≤ pos + 1 ∨ 2 ≤ (l.filter fun y => y.1 == pos + 1).length) : hopAt stages l n = l := by
  rw [hopAt_eq hn]
  exact if_neg fun ⟨hs, hr, _⟩ => by omega
end

/-! ## A token enters its circuit -/

section
variable {s : State} {rg c : Nat} {r : Region} {q : Circuit} (hr : s.region rg = some r) (hc : s.circ rg c = some q)
include hr hc
theorem tokenHop_fetched (n : Nat) (h : r.st = .fetched) : execTokenHop rg c n s = .next s := by
  simp only [execTokenHop, hr, hc]
  exact congrArg Host.Outcome.next (if_pos h)
variable (hf : r.st ≠ .fetched)
include hf
theorem tokenHop_enters (h : q.at_ 0 < 2) {x : Token} {u : State} (ht : s.srcTake rg c q = some (x, u)) :
    execTokenHop rg c 0 s = .next ((u.modCirc rg c fun q => { q with flight := q.flight ++ [(0, x)] }).progress rg) := by
  simp only [execTokenHop, hr, hc]
  refine congrArg Host.Outcome.next ((if_neg hf).trans ((if_neg (Nat.not_le.mpr h)).trans ?_))
  rw [ht]
theorem tokenHop_full (h : 2 ≤ q.at_ 0) : execTokenHop rg c 0 s = .next s := by
  simp only [execTokenHop, hr, hc]
  exact congrArg Host.Outcome.next ((if_neg hf).trans (if_pos h))
theorem tokenHop_moves (n : Nat) :
    execTokenHop rg c (n + 1) s = .next (s.modCirc rg c fun q => { q with flight := hopAt q.stages q.flight n }) := by
  simp only [execTokenHop, hr, hc]
  exact congrArg Host.Outcome.next (if_neg hf)
end
theorem srcTake_entry (s : State) (rg c : Nat) {q : Circuit} {x : Token} {l : List Token} (h : q.entry = x :: l) :
    s.srcTake rg c q = some (x, s.modCirc rg c fun q => { q with entry := l }) := by
  simp only [State.srcTake, h]
/-- The output port at a circuit's source. -/
def srcPort (q : Circuit) : BitVec 3 := .ofNat 3 q.src.ep.toNat
theorem srcTake_port (s : State) (rg c : Nat) {q : Circuit} {x : Token} {l : List OSlot} (he : q.entry = []) (hl : 8 ≤ q.src.ep.toNat)
    (hh : q.src.ep.toNat < 16) (h : (vget (s.lt q.src.tile q.src.ph).outP (srcPort q).toNat {}).fifo = .tok x :: l) :
    s.srcTake rg c q = some (x, s.modLt q.src.tile q.src.ph fun y =>
      let out : OutPort := vget (s.lt q.src.tile q.src.ph).outP (srcPort q).toNat {}
      { y with outP := vset y.outP (srcPort q).toNat { out with fifo := l } }) := by
  simp only [State.srcTake, he]
  refine (if_pos ⟨hl, hh⟩).trans ?_
  unfold srcPort at h
  rw [h]
  rfl

theorem claim_tokensHopAlongTheirCircuit : Claims.TokensHopAlongTheirCircuit := by
  intro s rg c n r q hr hc port out enters
  exact ⟨tokenHop_fetched hr hc n, fun hf => ⟨fun x l h he => tokenHop_enters hr hc hf h (srcTake_entry s rg c he),
      fun x l h he hl hh ho => tokenHop_enters hr hc hf h (srcTake_port s rg c he hl hh ho),
      tokenHop_full hr hc hf, tokenHop_moves hr hc hf n⟩,
    fun pos x hn => hopAt_moves hn, fun pos x hn => hopAt_stays hn⟩

/-! ## A token comes to its endpoint -/

/-- What becomes of a token at the end of its circuit, the circuit's region being live. -/
def endpointTakes (s u : State) (rg : Nat) (d : CEnd) (x : Token) : State :=
  if d.ep.toNat < 8 then
    if s.isLate d.tile d.ph (.ofNat 3 d.ep.toNat) then
      (u.modIn d.tile d.ph (.ofNat 3 d.ep.toNat) fun i => { i with late := some (burstAdd s.cycle x i.late) }).progress rg
    else if 4 ≤ (vget (s.lt d.tile d.ph).inP (BitVec.ofNat 3 d.ep.toNat).toNat {}).fifo.length then s
    else ((u.modIn d.tile d.ph (.ofNat 3 d.ep.toNat) fun i => { i with fifo := i.fifo ++ [x] }).wake d.tile d.ph (.ofNat 3 d.ep.toNat)).progress rg
  else if 2 ≤ (vget (vget (s.lt d.tile d.ph).junc (BitVec.ofNat 3 d.ep.toNat).toNat {}).buf d.side.toNat []).length then s
  else (u.modJunc d.tile d.ph (.ofNat 3 d.ep.toNat) fun y =>
    { y with buf := vset y.buf d.side.toNat (vget y.buf d.side.toNat [] ++ [x]) }).progress rg
section
variable {s : State} {rg c pos : Nat} {r : Region} {q : Circuit} {x : Token} {l : List (Nat × Token)} (hr : s.region rg = some r)
  (hc : s.circ rg c = some q) (hf : q.flight = (pos, x) :: l) (hp : q.stages ≤ pos + 1) (hx : x.kind ≠ .marker)
include hr hc hf hp hx
theorem tokenArrive_caught {why : FreezeFor} (h : r.st = .freezing why) : execTokenArrive rg c s =
    .next ((s.modCirc rg c fun q => { q with flight := l }).modCirc rg c fun q => { q with caught := q.caught ++ [x] }) := by
  simp only [execTokenArrive, hr, hc, hf, h]
  exact congrArg Host.Outcome.next (if_neg fun h => h.elim (Nat.not_lt.mpr hp) hx)
theorem tokenArrive_live (h : ∀ why, r.st ≠ .freezing why) :
    execTokenArrive rg c s = .next (endpointTakes s (s.modCirc rg c fun q => { q with flight := l }) rg q.dst x) := by
  simp only [execTokenArrive, hr, hc, hf]
  refine congrArg Host.Outcome.next ((if_neg fun h => h.elim (Nat.not_lt.mpr hp) hx).trans ?_)
  cases hs : r.st with
  | freezing why => exact absurd hs (h why)
  | fetched => rfl
  | live => rfl
end

theorem claim_tokensArriveAtTheirEndpoint : Claims.TokensArriveAtTheirEndpoint := by
  intro s rg c pos r q x l hr hc hf hp hx u p fifo side
  refine ⟨fun why => tokenArrive_caught hr hc hf hp hx, fun h => ?_⟩
  have goes {v : State} (hv : endpointTakes s u rg q.dst x = v) : exec (.tokenArrive rg c) s = .next v :=
    (tokenArrive_live hr hc hf hp hx h).trans (congrArg _ hv)
  refine ⟨fun he hl => ⟨fun hn => goes ?_, fun hn => goes ?_⟩, fun he hl => goes ?_, fun he => ⟨fun hn => goes ?_, fun hn => goes ?_⟩⟩
  · exact (if_pos he).trans ((if_neg (by rw [hl]; nofun)).trans (if_neg (Nat.not_le.mpr hn)))
  · exact (if_pos he).trans ((if_neg (by rw [hl]; nofun)).trans (if_pos hn))
  · exact (if_pos he).trans (if_pos hl)
  · exact (if_neg (Nat.not_lt.mpr he)).trans (if_neg (Nat.not_le.mpr hn))
  · exact (if_neg (Nat.not_lt.mpr he)).trans (if_pos hn)

/-! ## Bursts of late tokens -/

section
variable {s : State} {t : Nat} {ph : BitVec 2} {p : BitVec 3} {b : Burst} (hb : (vget (s.lt t ph).inP p.toNat {}).late = some b)
include hb
theorem burstEnd_reports (h : b.last + 1024 ≤ s.cycle) :
    execLateTokenBurstEnd t ph p s = .next ((s.latePost t ph p b).modIn t ph p fun i => { i with late := none }) := by
  simp only [execLateTokenBurstEnd, hb]
  exact congrArg Host.Outcome.next (if_neg (Nat.not_lt.mpr h))
theorem burstEnd_waits (h : s.cycle < b.last + 1024) : execLateTokenBurstEnd t ph p s = .next s := by
  simp only [execLateTokenBurstEnd, hb]
  exact congrArg Host.Outcome.next (if_pos h)
theorem longBurst_reports (hf : b.first + 2 ^ 20 ≤ s.cycle) (h : s.cycle < b.last + 1024) : execLateTokenLongBurst t ph p s =
    .next ((s.latePost t ph p b).modIn t ph p fun i => { i with late := some { b with count := 0, first := s.cycle } }) := by
  simp only [execLateTokenLongBurst, hb]
  exact congrArg Host.Outcome.next (if_neg fun e => e.elim (Nat.not_lt.mpr hf) (Nat.not_le.mpr h))
end
theorem latePost_record (s : State) (t : Nat) (ph : BitVec 2) (p : BitVec 3) (b : Burst) : ∃ r : FaultRec,
    s.latePost t ph p b = (s.post (s.partAt t ph) r).2 ∧ r.kind = 0x82 ∧ r.va = .ofNat 64 b.count := by
  refine ⟨_, rfl, ?_⟩
  unfold State.recAt
  dsimp only
  split <;> exact ⟨rfl, rfl⟩

theorem claim_lateTokenBurstsReport : Claims.LateTokenBurstsReport := by
  intro s t ph p b hb
  refine ⟨burstEnd_reports hb, burstEnd_waits hb, longBurst_reports hb, fun hq => ?_⟩
  obtain ⟨r, hr, hk, hv⟩ := latePost_record s t ph p b
  exact ⟨_, hr.trans (congrArg Prod.snd (post_room _ r hq)), hk, hv⟩

/-- Settles O33: hops, arrivals by endpoint, and bursts of discards. -/
theorem tokensTravelAndArrive : Obligations.TokensTravelAndArrive :=
  ⟨claim_tokensHopAlongTheirCircuit, claim_tokensArriveAtTheirEndpoint, claim_lateTokenBurstsReport⟩

end Sys2Proof.Proofs.Fabric
end

section
/-! PROOFS. Frame operations, initialisations and recipes at a directory of this device (R119, R126 to R128, R295, R305, R367). -/
namespace Sys2Proof.Proofs.DirectoryOps
open Sys2Proof Sys2Proof.Machine
open Sys2Proof.Proofs.Ownership Sys2Proof.Proofs.Invalidation
set_option Elab.async false

/-! ## An operation arrives -/

section
variable {s : State} {id : Nat} {o : Op} {op : FrOp} (ho : s.op id = some o)
include ho
theorem directoryFrameOp_arrives (hk : o.kind = .frame op false) : execDirectoryFrameOp id s = .next (s.frameArrive o op) := by
  simp only [execDirectoryFrameOp, ho, hk]
theorem versionWait_arrives {v : Nat} (hk : o.kind = .frame (.wait v) true) :
    execVersionWaitSatisfied id s = .next (s.frameArrive o (.wait v)) := by
  simp only [execVersionWaitSatisfied, State.versioned, ho, hk]
  rfl
end
/-- A `fr.wait` arrives, for the first time or again. -/
theorem wait_arrives {s : State} {id v : Nat} {o : Op} {w : Bool} {i : Instr} (ho : s.op id = some o) (hk : o.kind = .frame (.wait v) w)
    (hi : (w = false ∧ i = .directoryFrameOp id) ∨ (w = true ∧ i = .versionWaitSatisfied id)) :
    exec i s = .next (s.frameArrive o (.wait v)) := by
  obtain ⟨rfl, rfl⟩ | ⟨rfl, rfl⟩ := hi
  · exact directoryFrameOp_arrives ho hk
  · exact versionWait_arrives ho hk

/-- Nothing keeps a frame operation from its directory, which is this device's. -/
structure AtDirectory (s : State) (o : Op) : Prop where
  sent : o.sent = true
  stop : o.stop = none
  out : o.out = false
  met : o.met = false
  lost : o.lost = none
  alone : ∀ n < (frameSpan o).2, s.placeBefore o (vaWith o.va (((frameSpan o).1 + n) * 4096 : Nat)) 4096 true = false
  window : s.winServed o.part o.va = true
  home : s.frameTarget o.part o.va = .ok none
  served : s.frameServed (frameOf o.part o.va) = true
  aligned : offOf o.va % 4096 = 0
  registered : (s.vregOf o.part (winOf o.va) (offOf o.va)).isSome = true
  prompt : s.defers o.rkey = false

section
variable {s : State} {o : Op} {op : FrOp}
theorem frameArrive_met (hs : o.sent = true) (hp : o.stop = none) (hu : o.out = false) (hm : o.met = true) :
    s.frameArrive o op = s.opGive o (w64 op.ver) := by
  simp [State.frameArrive, hs, hp, hu, hm]
theorem frameArrive_performs (h : AtDirectory s o) : s.frameArrive o op = s.framePerform o op := by
  obtain ⟨hs, hp, hu, hm, hl, ha, hw, hh, hf, -⟩ := h
  have hb : ((upFrom (frameSpan o).1 (frameSpan o).2).any fun f => s.placeBefore o (vaWith o.va (f * 4096 : Nat)) 4096 true) = false := by
    refine List.any_eq_false.mpr fun f hm => ?_
    obtain ⟨hlo, hhi⟩ := (mem_upFrom _ _ _).mp hm
    rw [show f = (frameSpan o).1 + (f - (frameSpan o).1) by omega, ha _ (by omega)]
    nofun
  unfold State.frameArrive
  refine (if_neg (by simp [hs, hp, hu])).trans ((if_neg (by simp [hm])).trans ((if_neg (by exact ne_true_of_eq_false hb)).trans
    ((if_neg (by simp [hl])).trans ((if_neg (by simp [hw])).trans ?_))))
  rw [hh]
  exact if_pos hf

/-! ## An operation is performed -/

variable (h : AtDirectory s o)
include h
theorem framePerform_legal : ¬ (offOf o.va % 4096 ≠ 0 ∨ (s.vregOf o.part (winOf o.va) (offOf o.va)).isNone = true) := by
  have hr := h.registered
  rintro (h' | h')
  · exact h' h.aligned
  · simp [Option.isNone_iff_eq_none.mp h'] at hr
section
variable (v : Nat)
theorem perform_wait_gives (hl : 2 ≤ (s.frame (frameOf o.part o.va)).code v) (hh : (s.frame (frameOf o.part o.va)).code v ≤ 5) :
    s.framePerform o (.wait v) = s.opGive o (w64 v) := by
  unfold State.framePerform
  exact (if_neg (framePerform_legal h)).trans (if_pos ⟨hl, hh⟩)
theorem perform_wait_gone (hc : (s.frame (frameOf o.part o.va)).code v = 6) :
    s.framePerform o (.wait v) = s.faultOp o ⟨0x14, 0⟩ false o.va v 0 v := by
  unfold State.framePerform
  exact (if_neg (framePerform_legal h)).trans ((if_neg (by omega)).trans (if_pos hc))
theorem perform_wait_waits (hc : (s.frame (frameOf o.part o.va)).code v ≤ 1) :
    s.framePerform o (.wait v) = s.modOp o.id fun p => match p.kind with | .frame _ _ => { p with kind := .frame (.wait v) true } | _ => p := by
  unfold State.framePerform
  exact (if_neg (framePerform_legal h)).trans ((if_neg (by omega)).trans (if_neg (by omega)))
theorem perform_pin_gone (hc : (s.frame (frameOf o.part o.va)).code v = 6) :
    s.framePerform o (.pin v) = s.faultOp o ⟨0x14, 0⟩ false o.va v 0 v := by
  unfold State.framePerform
  exact (if_neg (framePerform_legal h)).trans (if_pos hc)
theorem perform_pin_full (hc : (s.frame (frameOf o.part o.va)).code v ≠ 6)
    (hp : ((s.frame (frameOf o.part o.va)).ver v).elim 0 (·.pins) = 65535) :
    s.framePerform o (.pin v) = s.faultOp o ⟨0x17, 0⟩ false o.va v 0 v := by
  unfold State.framePerform
  exact (if_neg (framePerform_legal h)).trans ((if_neg hc).trans (if_pos hp))
theorem perform_pin (hc : (s.frame (frameOf o.part o.va)).code v ≠ 6)
    (hp : ((s.frame (frameOf o.part o.va)).ver v).elim 0 (·.pins) ≠ 65535) :
    s.framePerform o (.pin v) = (s.modVer (frameOf o.part o.va) v fun x => { x with pins := x.pins + 1 }).opDone o := by
  unfold State.framePerform
  refine (if_neg (framePerform_legal h)).trans ((if_neg hc).trans ((if_neg hp).trans ?_))
  dsimp only
  rw [h.prompt]
  rfl
theorem perform_unpin_none (hp : ((s.frame (frameOf o.part o.va)).ver v).elim 0 (·.pins) = 0) :
    s.framePerform o (.unpin v) = s.faultOp o ⟨0x18, 0⟩ false o.va v 0 v := by
  unfold State.framePerform
  exact (if_neg (framePerform_legal h)).trans (if_pos hp)
theorem perform_unpin (hp : ((s.frame (frameOf o.part o.va)).ver v).elim 0 (·.pins) ≠ 0) :
    s.framePerform o (.unpin v) =
      (State.tryRetire retireFuel (s.modVer (frameOf o.part o.va) v fun x => { x with pins := x.pins - 1 }) (frameOf o.part o.va) v).opDone o := by
  unfold State.framePerform
  refine (if_neg (framePerform_legal h)).trans ((if_neg hp).trans ?_)
  dsimp only
  rw [h.prompt]
  rfl
theorem perform_recl_above (hv : (s.frame (frameOf o.part o.va)).next < v) :
    s.framePerform o (.recl v) = s.faultOp o ⟨0x15, 0⟩ false o.va v 0 v := by
  unfold State.framePerform
  exact (if_neg (framePerform_legal h)).trans (if_pos hv)
theorem perform_recl (hv : v ≤ (s.frame (frameOf o.part o.va)).next) (hn : v ≠ 0) :
    s.framePerform o (.recl v) = ((s.setFrame { s.frame (frameOf o.part o.va) with
      recl := max (s.frame (frameOf o.part o.va)).recl v }).retireBelow (frameOf o.part o.va)).opDone o := by
  unfold State.framePerform
  refine (if_neg (framePerform_legal h)).trans ((if_neg (Nat.not_lt.mpr hv)).trans ((if_neg hn).trans ?_))
  rw [h.prompt]
  rfl
theorem perform_stat_version : s.framePerform o (.stat (some v)) = s.opGive o (w64 ((s.frame (frameOf o.part o.va)).verWord v)) := by
  unfold State.framePerform
  exact if_neg (framePerform_legal h)
end
theorem perform_recl_zero : s.framePerform o (.recl 0) = s.opDone o := by
  unfold State.framePerform
  exact (if_neg (framePerform_legal h)).trans ((if_neg (Nat.not_lt_zero _)).trans (if_pos rfl))
theorem perform_stat_frame : s.framePerform o (.stat none) = s.opGive o (w64 (s.frameWord (frameOf o.part o.va))) := by
  unfold State.framePerform
  exact if_neg (framePerform_legal h)
end

theorem claim_frameOperationsArePerformed : Claims.FrameOperationsArePerformed := by
  intro s id o op w ho hk hs hp hu k f pins tries
  refine ⟨fun v i e hi hm => ?_, fun hm hl ha hw hh hf ho4 hr hd => ?_⟩
  · subst e
    exact (wait_arrives ho hk hi).trans (congrArg _ (frameArrive_met hs hp hu hm))
  have at_ : AtDirectory s o := ⟨hs, hp, hu, hm, hl, ha, hw, hh, hf, ho4, hr, hd⟩
  refine ⟨fun v i e hi => ?_, fun hw0 => ?_⟩
  · subst e
    have goes {u : State} (h : s.framePerform o (.wait v) = u) : exec i s = .next u :=
      (wait_arrives ho hk hi).trans (congrArg _ ((frameArrive_performs at_).trans h))
    exact ⟨fun hl hh => goes (perform_wait_gives at_ v hl hh), fun hc => goes (perform_wait_gone at_ v hc),
      fun hc => goes (perform_wait_waits at_ v hc)⟩
  · intro does bad
    subst hw0
    have goes {u : State} (h : s.framePerform o op = u) : does u :=
      (directoryFrameOp_arrives ho hk).trans (congrArg _ ((frameArrive_performs at_).trans h))
    refine ⟨fun v e => ?_, fun v e => ?_, fun v e => ?_, fun e => ?_, fun v e => ?_⟩ <;> subst e
    · exact ⟨fun hc => goes (perform_pin_gone at_ v hc), fun hc hp => goes (perform_pin_full at_ v hc hp),
        fun hc hp => goes (perform_pin at_ v hc hp)⟩
    · exact ⟨fun hp => goes (perform_unpin_none at_ v hp), fun hp => goes (perform_unpin at_ v hp)⟩
    · exact ⟨fun hv => goes (perform_recl_above at_ v hv), fun e => goes (e ▸ perform_recl_zero at_),
        fun hv hn => goes (perform_recl at_ v hv hn)⟩
    · exact goes (perform_stat_frame at_)
    · exact goes (perform_stat_version at_ v)

end Sys2Proof.Proofs.DirectoryOps
end

section
/-! PROOFS. `fr.init` and `fr.recipe` at a directory of this device (R126, R127, R294, R295, R305, R367). -/
namespace Sys2Proof.Proofs.Recipes
open Sys2Proof Sys2Proof.Machine
open Sys2Proof.Proofs.Ownership Sys2Proof.Proofs.Invalidation Sys2Proof.Proofs.DirectoryOps
set_option Elab.async false

/-! ## Initialisation -/

theorem frameBusy_iff (s : State) (k : FrameKey) : s.frameBusy (s.frame k) = true ↔ ∃ x ∈ (s.frame k).vers,
    x.st = .opened ∨ x.pins ≠ 0 ∨ x.reads ≠ 0 ∨ x.refill ≠ 0 ∨ ∃ q ∈ s.rcReqs, q.frame = k ∧ q.v = x.v := by
  simp only [State.frameBusy, frame_key, List.any_eq_true, Bool.or_eq_true, Bool.and_eq_true, beq_iff_eq, bne_iff_ne, or_assoc]

section
variable (s : State) (o : Op) (i n : Nat)
/-- The address of the i-th frame of an initialisation. -/
def initVa (o : Op) (i : Nat) : VAddr := vaWith o.va ((offOf o.va : Int) + 4096 * i)
/-- It is a frame of a registered region. -/
def Registered (s : State) (o : Op) (i : Nat) : Prop :=
  (s.vregOf o.part (winOf (initVa o i)) (offOf (initVa o i))).isSome = true ∧ offOf o.va + 4096 * i < 2 ^ 48
theorem registered_iff : ¬ Registered s o i ↔
    (s.vregOf o.part (winOf (initVa o i)) (offOf (initVa o i))).isNone = true ∨ 2 ^ 48 ≤ offOf o.va + 4096 * i := by
  unfold Registered
  rw [not_and_or, Nat.not_lt]
  cases s.vregOf o.part (winOf (initVa o i)) (offOf (initVa o i)) <;> simp
theorem initFrames_unregistered (h : ¬ Registered s o i) : s.initFrames o i (n + 1) = s.faultOp o ⟨0x11, 0⟩ false (initVa o i) 0 i 0 :=
  if_pos ((registered_iff s o i).mp h)
theorem initFrames_busy (h : Registered s o i) (hb : s.frameBusy (s.frame (frameOf o.part (initVa o i))) = true) :
    s.initFrames o i (n + 1) = s.faultOp o ⟨0x12, 0⟩ false (initVa o i) 0 i 0 :=
  (if_neg (mt (registered_iff s o i).mpr (not_not.mpr h))).trans (if_pos hb)
theorem initFrames_goes (h : Registered s o i) (hb : s.frameBusy (s.frame (frameOf o.part (initVa o i))) = false) :
    s.initFrames o i (n + 1) = (s.initFrame o.rkey (frameOf o.part (initVa o i))).initFrames o (i + 1) n :=
  (if_neg (mt (registered_iff s o i).mpr (not_not.mpr h))).trans (if_neg (ne_true_of_eq_false hb))
end

/-- A frame has started anew, and its history's holds are still to be released. -/
def restarted (s : State) (k : FrameKey) : State :=
  (State.setFrame { s with newId := s.newId + 1 } { key := k, newest := some 0, gen := s.newId, recl := 0, vers := [zeroVer] }).meetWaits k 0
theorem restarted_frame (s : State) (k g : FrameKey) : (restarted s k).frame g =
    if g = k then { key := k, newest := some 0, gen := s.newId, recl := 0, vers := [zeroVer] } else s.frame g :=
  frame_setFrame { s with newId := s.newId + 1 } { key := k, newest := some 0, gen := s.newId, recl := 0, vers := [zeroVer] } g
theorem restarted_regions (s : State) (k : FrameKey) : (restarted s k).regions = s.regions :=
  (setFrame_tables { s with newId := s.newId + 1 } { key := k, newest := some 0, gen := s.newId, recl := 0, vers := [zeroVer] }).2
theorem initFrame_deferred {s : State} {rkey : Nat} (k : FrameKey) (h : s.defers rkey = true) :
    s.initFrame rkey k = (restarted s k).deferRecl rkey (.init (s.frame k)) := if_pos h
theorem initFrame_prompt {s : State} {rkey : Nat} (k : FrameKey) (h : s.defers rkey = false) :
    s.initFrame rkey k = (s.frame k).vers.foldl (fun s x => s.releaseRecipe x.recipe) (restarted s k) :=
  if_neg (ne_true_of_eq_false h)

/-! ## The first source that may not be one -/

theorem find_first {α : Type} {l : List α} {p : α × Nat → Bool} {j : Nat} {a : α} (hj : l[j]? = some a) (hp : p (a, j) = true)
    (hi : ∀ i < j, ∀ a, l[i]? = some a → p (a, i) = false) : (l.zipIdx.find? p).map Prod.snd = some j := by
  obtain ⟨hlt, rfl⟩ := List.getElem?_eq_some_iff.mp hj
  have h : l.zipIdx.find? p = some (l[j], j) := by
    refine List.find?_eq_some_iff_getElem.mpr ⟨hp, j, by simpa using hlt, by simp, fun i hij => ?_⟩
    simp [hi i hij _ (List.getElem?_eq_getElem (by omega))]
  rw [h]
  rfl
theorem find_none {α : Type} {l : List α} {p : α × Nat → Bool} (h : ∀ j a, l[j]? = some a → p (a, j) = false) :
    (l.zipIdx.find? p).map Prod.snd = none := by
  rw [List.find?_eq_none.mpr]
  · rfl
  · rintro ⟨a, j⟩ hx
    simp [h j a (by simpa [List.mem_zipIdx_iff_getElem?] using hx)]

/-- A source of a recipe may not be one. -/
def oddSource (s : State) (k : FrameKey) (r : Recipe) (x : (FrameKey × Nat) × Nat) : Bool :=
  (s.vregFor x.1.1).isNone || !s.homed x.1.1 || !decide (2 ≤ (s.frame x.1.1).code x.1.2 ∧ (s.frame x.1.1).code x.1.2 ≤ 5) ||
    (x.1.1 == k && decide (r.v ≤ x.1.2))
/-- A source's references would pass 65,535. -/
def brimSource (s : State) (r : Recipe) (x : (FrameKey × Nat) × Nat) : Bool :=
  decide (65535 ≤ (((s.frame x.1.1).ver x.1.2).elim 0 (·.rref)) + ((r.srcs.take x.2).filter (· == (x.1.1, x.1.2))).length)
theorem badSource_eq (s : State) (k : FrameKey) (r : Recipe) : s.badSource k r = (r.srcs.zipIdx.find? (oddSource s k r)).map Prod.snd := rfl
theorem fullSource_eq (s : State) (r : Recipe) : s.fullSource r = (r.srcs.zipIdx.find? (brimSource s r)).map Prod.snd := rfl
theorem oddSource_iff (s : State) (k g : FrameKey) (r : Recipe) (v j : Nat) : oddSource s k r ((g, v), j) = true ↔
    s.vregOf g.part g.win (g.fr.toNat * 4096) = none ∨ s.homed g = false ∨ (s.frame g).code v < 2 ∨ 5 < (s.frame g).code v ∨ (g = k ∧ r.v ≤ v) := by
  simp only [oddSource, State.vregFor, Bool.or_eq_true, Option.isNone_iff_eq_none, Bool.not_eq_true', Bool.and_eq_true, beq_iff_eq,
    decide_eq_true_eq, decide_eq_false_iff_not, not_and_or, Nat.not_le, or_assoc]
theorem brimSource_iff (s : State) (g : FrameKey) (r : Recipe) (v j : Nat) : brimSource s r ((g, v), j) = true ↔
    65535 ≤ (((s.frame g).ver v).elim 0 (·.rref)) + ((r.srcs.take j).filter (· == (g, v))).length := decide_eq_true_iff

/-! ## References -/

theorem frame_modVer (s : State) (k g : FrameKey) (v : Nat) (f : Ver → Ver) :
    (s.modVer k v f).frame g = if g = k then (s.frame k).modVer v f else s.frame g := by
  unfold State.modVer
  rw [frame_setFrame, show ((s.frame k).modVer v f).key = k from frame_key s k]
/-- References to a version that the directory counts. -/
def refsTo (s : State) (g : FrameKey) (v : Nat) : Nat := ((s.frame g).ver v).elim 0 (·.rref)
/-- A change of a version that adds to its references. -/
theorem refsTo_modVer (s : State) (k g : FrameKey) (v w n : Nat) (f : Ver → Ver) (hv : ∀ x, (f x).v = x.v) (hf : ∀ x, (f x).rref = x.rref + n) :
    refsTo (s.modVer k v f) g w = refsTo s g w + if (k, v) = (g, w) then n else 0 := by
  unfold refsTo
  rw [frame_modVer]
  by_cases hk : g = k
  · subst hk
    rw [if_pos rfl, ver_modVer _ _ _ _ hv]
    by_cases hw : w = v
    · subst hw
      rw [if_pos rfl, if_pos rfl]
      cases (s.frame g).ver w <;> simp [hf]
    · rw [if_neg hw, if_neg fun e => hw (Prod.mk.inj e).2.symm]
      rfl
  · rw [if_neg hk, if_neg fun e => hk (Prod.mk.inj e).1.symm]
    rfl
/-- Each source gains a reference. -/
def refer (s : State) (l : List (FrameKey × Nat)) : State :=
  l.foldl (fun s x => s.modVer x.1 x.2 fun y => { y with rref := y.rref + 1 }) s
theorem refsTo_refer (l : List (FrameKey × Nat)) (s : State) (g : FrameKey) (v : Nat) :
    refsTo (refer s l) g v = refsTo s g v + (l.filter (· == (g, v))).length := by
  induction l generalizing s with
  | nil => rfl
  | cons x l ih =>
    change refsTo (refer (s.modVer x.1 x.2 fun y => { y with rref := y.rref + 1 }) l) g v = _
    rw [ih, refsTo_modVer s x.1 g x.2 v 1 (fun y => { y with rref := y.rref + 1 }) (fun _ => rfl) fun _ => rfl, List.filter_cons]
    by_cases hx : x = (g, v)
    · subst hx
      simp
      omega
    · rw [if_neg hx, if_neg (by simpa using hx)]
      rfl

/-! ## Attaching a recipe -/

/-- A recipe stands with its version, each of its sources referred to. -/
def attached (s : State) (k : FrameKey) (r : Recipe) : State :=
  (refer s r.srcs).modVer k r.v fun x => { x with recipe := some { r with gens := r.srcs.map fun p => (s.frame p.1).gen } }
theorem attached_recipe (s : State) (k : FrameKey) (r : Recipe) :
    (((attached s k r).frame k).ver r.v).bind (·.recipe) = some { r with gens := r.srcs.map fun p => (s.frame p.1).gen } := by
  unfold attached
  rw [frame_modVer, if_pos rfl, ver_modVer _ _ _ _ (by exact fun _ => rfl), if_pos rfl]
  rfl
theorem refsTo_attached (s : State) (k : FrameKey) (r : Recipe) (g : FrameKey) (v : Nat) :
    refsTo (attached s k r) g v = refsTo s g v + (r.srcs.filter (· == (g, v))).length := by
  unfold attached
  rw [refsTo_modVer _ k g r.v v 0 (fun x => { x with recipe := some { r with gens := r.srcs.map fun p => (s.frame p.1).gen } }) (fun _ => rfl)
    fun _ => rfl, refsTo_refer, ite_self, Nat.add_zero]

section
variable {s : State} {o : Op} {k : FrameKey} {r : Recipe}
theorem attach_illegal (h : ¬ ((s.frame k).code r.v = 1 ∨ ((s.frame k).code r.v = 0 ∧ r.v = (s.frame k).next))) :
    s.attach o k r = s.faultOp o ⟨0x19, 0⟩ false o.va r.v 0 r.v :=
  if_pos (by simpa only [Bool.not_eq_true', decide_eq_false_iff_not] using h)
section
variable (hl : (s.frame k).code r.v = 1 ∨ ((s.frame k).code r.v = 0 ∧ r.v = (s.frame k).next))
include hl
theorem attach_other (h : (s.vregFor k).map (·.recomp) ≠ some true) : s.attach o k r = s.faultOp o ⟨0x1A, 0⟩ false o.va r.v 0 r.v := by
  refine (if_neg (by simpa only [Bool.not_eq_true', decide_eq_false_iff_not, not_not] using hl)).trans (if_pos ?_)
  cases hv : s.vregFor k with
  | none => rfl
  | some x => simpa [hv] using h
variable (hc : (s.vregFor k).map (·.recomp) = some true)
include hc
theorem attach_noSlice (h : ¬ ∃ x ∈ s.slices, x.part = o.part ∧ x.id = r.slice) :
    s.attach o k r = s.faultOp o ⟨0x1B, 0⟩ false o.va r.v 0 r.v :=
  (if_neg (by simpa only [Bool.not_eq_true', decide_eq_false_iff_not, not_not] using hl)).trans ((if_neg (by rw [hc]; nofun)).trans (if_pos (by simpa using h)))
variable (hs : ∃ x ∈ s.slices, x.part = o.part ∧ x.id = r.slice)
include hs
/-- What a recipe that is in order, but for its sources, comes to. -/
def attachTo (s : State) (o : Op) (k : FrameKey) (r : Recipe) : Option Nat → Option Nat → State
  | some j, _ => s.faultOp o ⟨0x1C, 0⟩ false o.va r.v j r.v
  | none, some j => s.faultOp o ⟨0x17, 0⟩ false o.va r.v j r.v
  | none, none => ((attached s k r).releaseRecipe (((s.frame k).ver r.v).bind (·.recipe))).opDone o
theorem attach_goes : s.attach o k r = attachTo s o k r (s.badSource k r) (s.fullSource r) := by
  refine (if_neg (by simpa only [Bool.not_eq_true', decide_eq_false_iff_not, not_not] using hl)).trans ((if_neg (by rw [hc]; nofun)).trans ((if_neg (by simpa using hs)).trans ?_))
  cases s.badSource k r with
  | some j => rfl
  | none => cases s.fullSource r <;> rfl
end
end

theorem claim_initsAndRecipesAtTheDirectory : Claims.InitsAndRecipesAtTheDirectory := by
  refine ⟨fun s o i n => ?_, fun s rkey k => ?_, fun s o k r => ?_⟩
  · intro va k registered busy hk
    refine ⟨rfl, initFrames_unregistered s o i n, fun hr hb => initFrames_busy s o i n hr ((frameBusy_iff s k).mpr hb),
      fun hr hb => initFrames_goes s o i n hr (Bool.not_eq_true _ ▸ mt (frameBusy_iff s k).mp hb)⟩
  · exact ⟨restarted s k, (restarted_frame s k k).trans (if_pos rfl), fun g hg => (restarted_frame s k g).trans (if_neg hg),
      restarted_regions s k, initFrame_deferred k, initFrame_prompt k⟩
  · intro f faults region odd rref brims first none_ legal recomp slice
    refine ⟨attach_illegal, attach_other, fun hl => attach_noSlice hl, fun hl hc hs => ⟨?_, ?_, ?_⟩⟩
    · rintro j ⟨⟨g, v, hj, ho⟩, hi⟩
      have hb : s.badSource k r = some j := find_first hj ((oddSource_iff s k g r v j).mpr ho) fun i hij x hx =>
        Bool.not_eq_true _ ▸ mt (oddSource_iff s k x.1 r x.2 i).mp (hi i hij x.1 x.2 hx)
      exact (attach_goes hl hc hs).trans (by rw [hb]; rfl)
    · rintro hn j ⟨⟨g, v, hj, ho⟩, hi⟩
      have hb : s.badSource k r = none := find_none fun i x hx =>
        Bool.not_eq_true _ ▸ mt (oddSource_iff s k x.1 r x.2 i).mp (hn i x.1 x.2 hx)
      have hf : s.fullSource r = some j := find_first hj ((brimSource_iff s g r v j).mpr ho) fun i hij x hx =>
        Bool.not_eq_true _ ▸ mt (brimSource_iff s x.1 r x.2 i).mp (hi i hij x.1 x.2 hx)
      exact (attach_goes hl hc hs).trans (by rw [hb, hf]; rfl)
    · intro hn hm
      have hb : s.badSource k r = none := find_none fun i x hx =>
        Bool.not_eq_true _ ▸ mt (oddSource_iff s k x.1 r x.2 i).mp (hn i x.1 x.2 hx)
      have hf : s.fullSource r = none := find_none fun i x hx =>
        Bool.not_eq_true _ ▸ mt (brimSource_iff s x.1 r x.2 i).mp (hm i x.1 x.2 hx)
      exact ⟨attached s k r, (attach_goes hl hc hs).trans (by rw [hb, hf]; rfl), attached_recipe s k r, fun g v _ => refsTo_attached s k r g v⟩

/-- Settles O31: each frame operation's cases, `fr.init` frame by frame, and `fr.recipe` with its first odd source. -/
theorem directoryPerformsFrameOperations : Obligations.DirectoryPerformsFrameOperations :=
  ⟨claim_frameOperationsArePerformed, claim_initsAndRecipesAtTheDirectory⟩

end Sys2Proof.Proofs.Recipes
end

section
/-! PROOFS. What a directory decides on versioned reads and writes, and accesses at their homes (R107, R123, R124, R262, R280, R283, R292). -/
namespace Sys2Proof.Proofs.Versions
open Sys2Proof Sys2Proof.Machine
set_option Elab.async false

/-! ## A versioned write -/

/-- The decision on a write that waits for no open version below its own. -/
def decideNew (s : State) (k : FrameKey) (v : Nat) : OpenRes :=
  if (s.frame k).newest = some 0xFFFF_FFFF then .fault 0x13
  else match (s.frame k).open_ with
    | some o => if v = o.v + 1 then .wait else .fault 0x13
    | none =>
      if v ≠ (s.frame k).next then .fault 0x13
      else if 8 ≤ ((s.frame k).vers.filter Ver.live).length then .wait
      else if s.poolFree k.part = 0 then .stall
      else match (s.frame k).newest with
        | none => .opens
        | some n => if s.dropped k n then .miss else .opens
section
variable {s : State} {again : Bool} {k : FrameKey} {v : Nat}
theorem openRes_again (h : again = true) (hv : v = (s.frame k).next + 1) : s.openRes false again k v = .wait := by
  unfold State.openRes
  dsimp only
  rw [if_neg Bool.false_ne_true]
  exact if_pos ⟨h, hv⟩
theorem openRes_fresh (h : again = false ∨ v ≠ (s.frame k).next + 1) : s.openRes false again k v = decideNew s k v := by
  unfold State.openRes
  dsimp only
  rw [if_neg Bool.false_ne_true]
  refine if_neg ?_
  rintro ⟨ha, hv⟩
  obtain h | h := h
  · exact Bool.noConfusion (ha.symm.trans h)
  · exact h hv
theorem decideNew_last (hn : (s.frame k).newest = some 0xFFFF_FFFF) : decideNew s k v = .fault 0x13 := if_pos hn
section
variable (hn : (s.frame k).newest ≠ some 0xFFFF_FFFF)
include hn
theorem decideNew_open {o : Ver} (ho : (s.frame k).open_ = some o) : decideNew s k v = if v = o.v + 1 then .wait else .fault 0x13 := by
  refine (if_neg hn).trans ?_
  rw [ho]
variable (ho : (s.frame k).open_ = none)
include ho
theorem decideNew_other (hv : v ≠ (s.frame k).next) : decideNew s k v = .fault 0x13 := by
  refine (if_neg hn).trans ?_
  rw [ho]
  exact if_pos hv
variable (hv : v = (s.frame k).next)
include hv
theorem decideNew_many (hl : 8 ≤ ((s.frame k).vers.filter Ver.live).length) : decideNew s k v = .wait := by
  refine (if_neg hn).trans ?_
  rw [ho]
  exact (if_neg (not_not.mpr hv)).trans (if_pos hl)
variable (hl : ((s.frame k).vers.filter Ver.live).length < 8)
include hl
theorem decideNew_stalls (hp : s.poolFree k.part = 0) : decideNew s k v = .stall := by
  refine (if_neg hn).trans ?_
  rw [ho]
  exact (if_neg (not_not.mpr hv)).trans ((if_neg (Nat.not_le.mpr hl)).trans (if_pos hp))
theorem decideNew_opens (hp : 0 < s.poolFree k.part) : decideNew s k v =
    if ∃ n, (s.frame k).newest = some n ∧ s.dropped k n = true then .miss else .opens := by
  refine (if_neg hn).trans ?_
  rw [ho]
  refine (if_neg (not_not.mpr hv)).trans ((if_neg (Nat.not_le.mpr hl)).trans ((if_neg hp.ne').trans ?_))
  cases hnew : (s.frame k).newest with
  | none => simp
  | some n => cases hd : s.dropped k n <;> simp [hd]
end
end

theorem claim_versionedWriteDecision : Claims.VersionedWriteDecision := by
  intro s again k v f res
  refine ⟨rfl, openRes_again, fun h => ?_⟩
  have goes {x : OpenRes} (hx : decideNew s k v = x) : res = x := (openRes_fresh h).trans hx
  exact ⟨fun hn => goes (decideNew_last hn), fun hn => ⟨fun o ho => goes (decideNew_open hn ho), fun ho =>
    ⟨fun hv => goes (decideNew_other hn ho hv), fun hv hl => goes (decideNew_many hn ho hv hl),
      fun hv hl hp => goes (decideNew_stalls hn ho hv hl hp), fun hv hl hp => goes (decideNew_opens hn ho hv hl hp)⟩⟩⟩

/-! ## A versioned read -/

section
variable {s : State} {k : FrameKey} {v : Nat} (off len : Nat)
theorem readVer_waits (h : (s.frame k).code v ≤ 1) : s.readVer k v off len = .wait := by
  unfold State.readVer
  dsimp only
  obtain h | h : (s.frame k).code v = 0 ∨ (s.frame k).code v = 1 := by omega
  · rw [h]; rfl
  · rw [h]; rfl
theorem readVer_gone (h : (s.frame k).code v = 6) : s.readVer k v off len = .fault 0x14 := by
  unfold State.readVer
  dsimp only
  rw [h]
  rfl
/-- The code of a version that is visible. -/
theorem code_visible {f : Frame} {x : Ver} (hx : f.ver v = some x) (h : x.st = .resident ∨ x.st = .spilled ∨ x.st = .dropped) :
    2 ≤ f.code v ∧ f.code v ≤ 5 := by
  unfold Frame.code
  rw [hx]
  obtain h | h | h := h <;> simp only [Option.map_some, h] <;> split <;> omega
theorem readVer_visible {x : Ver} (hx : (s.frame k).ver v = some x) (h : x.st = .resident ∨ x.st = .spilled ∨ x.st = .dropped) :
    s.readVer k v off len = if x.st == .dropped then .miss
      else .data ((memRead x.data off len).zipIdx.map fun (b, i) => (b, setHas x.pois ((off + i) / 64))) := by
  obtain ⟨hl, hh⟩ := code_visible hx h
  unfold State.readVer
  dsimp only
  rw [hx]
  split
  · omega
  · omega
  · omega
  · rfl
end
theorem memRead_get (m : Mem) (a : Nat) {n i : Nat} (hi : i < n) : (memRead m a n)[i]? = some (memGet m (a + i)) := by
  rw [List.getElem?_eq_getElem (by simpa using hi), ← memRead_getD m a n i hi, List.getD_eq_getElem _ _ (by simpa using hi)]

theorem claim_versionedReadDecision : Claims.VersionedReadDecision := by
  intro s k v off len
  refine ⟨readVer_waits off len, readVer_gone off len, fun x hx h => ?_, fun x hx h => ?_⟩
  · refine ⟨_, (readVer_visible off len hx (by tauto)).trans (if_neg (by obtain h | h := h <;> simp [h])), by simp, fun i hi => ?_⟩
    simp [List.getElem?_zipIdx, memRead_get x.data off hi]
  · exact (readVer_visible off len hx (by tauto)).trans (if_pos (by simp [h]))

/-! ## An element's access -/

section
variable {s : State} {id : Nat} {o : Op} {a : ElemAcc} (ho : s.op id = some o) (hk : o.kind = .elem a)
include ho hk
theorem mitBlockAccess_elem (hv : a.ver = none) : execMitBlockAccess id s = .next (s.elemAccess o a) := by
  simp [execMitBlockAccess, ho, hk, hv]
theorem versioned_elem (hv : a.ver.isSome = true) : s.versioned id a.wr.isSome a.waits = s.elemAccess o a := by
  simp [State.versioned, ho, hk, hv]
end

/-- Nothing is to be performed before an element's access. -/
structure Due (s : State) (o : Op) (a : ElemAcc) : Prop where
  elem : s.elemBefore o a = false
  frame : s.frameBefore o o.va = false
/-- Versions that the command of an element's engine has opened. -/
def openedBy (s : State) (o : Op) (a : ElemAcc) : List (FrameKey × Nat) :=
  match (s.engine o.tile a.e).cur with | some r => r.opened | none => []
/-- Where an element's bytes are written: at the place that is fixed, or where translation puts them. -/
def elemPut (s : State) (o : Op) (a : ElemAcc) (d : List (Option (Byte × Bool))) : Put :=
  match a.fixed with | some q => s.writeHbm o q d | none => writeAt s o o.va d a.ver (openedBy s o a)

section
variable {s : State} {o : Op} {a : ElemAcc} (hd : Due s o a)
include hd
section
variable (hw : a.wr = none)
include hw
theorem elemRead_ok {d : List (Byte × Bool)} {u : State} (h : readAt s o o.va a.len a.ver = .ok d u) : s.elemAccess o a = u.elemDone o a d := by
  simp [State.elemAccess, hd.elem, hd.frame, hw, h]
theorem elemRead_wait {u : State} (h : readAt s o o.va a.len a.ver = .wait u) : s.elemAccess o a = u := by
  simp [State.elemAccess, hd.elem, hd.frame, hw, h]
theorem elemRead_bad {f : Flt} {u : State} (h : readAt s o o.va a.len a.ver = .bad f u) : s.elemAccess o a = u.elemFault o a f := by
  simp [State.elemAccess, hd.elem, hd.frame, hw, h]
end
section
variable {d : List (Option (Byte × Bool))} (hw : a.wr = some d)
include hw
/-- What an element's write comes to. -/
def elemWritten (o : Op) (a : ElemAcc) : Put → State
  | .ok none u => (u.fixEarlier o a).elemDone o a []
  | .ok (some k) u => ((u.modOp o.id fun p => { p with opened := [k] }).fixEarlier o a).elemDone o a []
  | .wait u => if u.asked o then u.fixEarlier o a else u
  | .bad f u => u.elemFault o a f
theorem elemWrite_eq : s.elemAccess o a = elemWritten o a (elemPut s o a d) := by
  have hp : (if a.fixed.isSome then s.writeHbm o (a.fixed.getD 0) d else writeAt s o o.va d a.ver (openedBy s o a)) = elemPut s o a d := by
    unfold elemPut
    cases a.fixed <;> rfl
  rw [← hp]
  unfold State.elemAccess
  rw [hd.elem, hd.frame, hw]
  change (match if a.fixed.isSome then s.writeHbm o (a.fixed.getD 0) d else writeAt s o o.va d a.ver (openedBy s o a) with
    | .ok new s1 => ((match new with | some k => s1.modOp o.id fun p => { p with opened := [k] } | none => s1).fixEarlier o a).elemDone o a []
    | .wait s1 => if s1.asked o then s1.fixEarlier o a else s1
    | .bad f s1 => s1.elemFault o a f) = _
  cases (if a.fixed.isSome then s.writeHbm o (a.fixed.getD 0) d else writeAt s o o.va d a.ver (openedBy s o a)) with
  | ok new u => cases new <;> rfl
  | wait u => rfl
  | bad f u => rfl
end
end

/-! ## A plain access in this device's memory -/

/-- A plain access that translation is to place. -/
structure PlainAccess (s : State) (o : Op) (a : ElemAcc) : Prop where
  ver : a.ver = none
  out : o.out = false
  lost : o.lost = none
  other : ¬ (bfld o.va 63 48 = 0 ∧ (s.vregOf o.part (winOf o.va) (offOf o.va)).isSome = true)
  walk : s.walkServed o.tile o.part o.va = true
section
variable {s u : State} {o : Op} {a : ElemAcc} {pa : Nat} (hp : PlainAccess s o a)
include hp
theorem readAt_hbm (ht : s.translate o.tile o.part o.va false .rd = (.ok (.hbm pa), u)) : readAt s o o.va a.len a.ver =
    if !u.served o.part pa then .wait u else if u.hbmBad pa a.len false then .bad ⟨0x0E, 0⟩ u else .ok (u.hbmRead pa a.len) u := by
  unfold readAt
  rw [hp.out, hp.lost, hp.ver]
  refine (if_neg nofun).trans ((if_neg nofun).trans ((if_neg hp.other).trans ((if_neg (by rw [hp.walk]; nofun)).trans ?_)))
  rw [ht]
theorem writeAt_hbm (hs : o.slot ≠ 15) (d : List (Option (Byte × Bool))) (mine : List (FrameKey × Nat))
    (ht : s.translate o.tile o.part o.va true .wr = (.ok (.hbm pa), u)) : writeAt s o o.va d a.ver mine = u.writeHbm o pa d := by
  unfold writeAt
  rw [hp.out, hp.lost, hp.ver]
  refine (if_neg hs).trans ((if_neg nofun).trans ((if_neg nofun).trans ((if_neg hp.other).trans ((if_neg (by rw [hp.walk]; nofun)).trans ?_))))
  rw [ht]
end
theorem writeHbm_room {u : State} {o : Op} {pa : Nat} {d : List (Option (Byte × Bool))} (hs : u.served o.part pa = true)
    (hb : u.hbmBad pa d.length true = false) (hf : u.undoFull o.rkey pa d.length = false) : u.writeHbm o pa d = .ok none (u.plainWrite o.rkey pa d) := by
  simp [State.writeHbm, hs, hb, hf]

theorem claim_elementAccessesHappenAtHome : Claims.ElementAccessesHappenAtHome := by
  intro s u id pa o a ho hk hb hfr waits mine rd wr plain
  have hd : Due s o a := ⟨hb, hfr⟩
  have reads {i : Instr} (hw : a.wr = none) (hi : exec i s = .next (s.elemAccess o a)) : rd i :=
    ⟨fun d u h => hi.trans (congrArg _ (elemRead_ok hd hw h)), fun u h => hi.trans (congrArg _ (elemRead_wait hd hw h)),
      fun f u h => hi.trans (congrArg _ (elemRead_bad hd hw h))⟩
  have writes {i : Instr} (hi : exec i s = .next (s.elemAccess o a)) : wr i := by
    intro d hw put
    have goes {p : Put} {v : State} (hq : put = p) (h : elemWritten o a p = v) : exec i s = .next v :=
      hi.trans (congrArg _ ((elemWrite_eq hd hw).trans (by rw [show elemPut s o a d = p from hq, h])))
    exact ⟨fun u h => goes h rfl, fun k u h => goes h rfl, fun u h hn => goes h (if_neg (by rw [hn]; nofun)), fun u h hn => goes h (if_pos hn),
      fun f u h => goes h rfl⟩
  have first {b : Bool} (hv : a.ver.isSome = true) (hw : a.wr.isSome = b) (w : Bool) (ha : a.waits = w) :
      s.versioned id b w = s.elemAccess o a := by
    rw [← hw, ← ha]
    exact versioned_elem ho hk hv
  have isOne {d : List (Option (Byte × Bool))} (h : a.wr = some d) : a.wr.isSome = true := by rw [h]; rfl
  have isNone_ (h : a.wr = none) : a.wr.isSome = false := by rw [h]; rfl
  refine ⟨fun hv hw ha => reads hw (congrArg _ (first hv (isNone_ hw) _ ha)), fun hv hw ha => reads hw (congrArg _ (first hv (isNone_ hw) _ ha)),
    fun hv hw => reads hw (mitBlockAccess_elem ho hk hv), fun hv ha d hw => writes (congrArg _ (first hv (isOne hw) _ ha)) d hw,
    fun hv ha d hw => writes (congrArg _ (first hv (isOne hw) _ ha)) d hw, fun hv => writes (mitBlockAccess_elem ho hk hv), ?_, ?_⟩
  · rintro ⟨hv, hu, hl, hn, hk'⟩ hw ht
    have hp : PlainAccess s o a := ⟨hv, hu, hl, hn, hk'⟩
    obtain ⟨hok, hwait, hbad⟩ := reads (i := .mitBlockAccess id) hw (mitBlockAccess_elem ho hk hv)
    exact ⟨fun h => hwait _ ((readAt_hbm hp ht).trans (if_pos (by rw [h]; rfl))),
      fun h hb => hbad _ _ ((readAt_hbm hp ht).trans ((if_neg (by rw [h]; nofun)).trans (if_pos hb))),
      fun h hb => hok _ _ ((readAt_hbm hp ht).trans ((if_neg (by rw [h]; nofun)).trans (if_neg (ne_true_of_eq_false hb))))⟩
  · rintro ⟨hv, hu, hl, hn, hk'⟩ hs hf d hw ht h1 h2 h3
    have hp : PlainAccess s o a := ⟨hv, hu, hl, hn, hk'⟩
    refine (writes (i := .mitBlockAccess id) (mitBlockAccess_elem ho hk hv) d hw).1 _ ?_
    rw [hf]
    exact (writeAt_hbm hp hs d _ ht).trans (writeHbm_room h1 h2 h3)

/-- Settles O30: the directory's decisions by cases, and an element's access by what its read or write comes to. -/
theorem versionsAreWrittenOnceAndAwaited : Obligations.VersionsAreWrittenOnceAndAwaited :=
  ⟨claim_versionedWriteDecision, claim_elementAccessesHappenAtHome, claim_versionedReadDecision⟩

end Sys2Proof.Proofs.Versions
end

section
/-! PROOFS. Cards, collectives, and the loads of Prism programs (R134 to R137, R140 to R142, R290, R350). -/
namespace Sys2Proof.Proofs.Collectives
open Sys2Proof Sys2Proof.Machine
open Sys2Proof.Proofs.Bits Sys2Proof.Proofs.Ranked Sys2Proof.Proofs.MatUnit
set_option Elab.async false

/-! ## Parts put one behind the other -/

theorem flatten_length {α : Type} (g : Nat → List α) (k n : Nat) (hg : ∀ i, (g i).length = k) : ((List.range n).map g).flatten.length = n * k := by
  rw [length_flatten_map_range g hg, Nat.mul_comm]
theorem flatten_get {α : Type} (g : Nat → List α) {k n q j : Nat} (hg : ∀ i, (g i).length = k) (hq : q < n) (hj : j < k) :
    ((List.range n).map g).flatten[q * k + j]? = (g q)[j]? := by
  rw [Nat.mul_comm, getElem?_flatten_map_range g hg hq hj]
theorem map_upFrom {α : Type} (g : Nat → α) (a n : Nat) : (upFrom a n).map g = (List.range n).map fun i => g (a + i) := by
  rw [upFrom_eq_range', List.range'_eq_map_range, List.map_map]
  rfl
theorem getD_drop {α : Type} (l : List α) (n i : Nat) (x : α) : (l.drop n).getD i x = l.getD (n + i) x := by
  simp [List.getD_eq_getElem?_getD]

/-! ## An element reduced over the ranks -/

theorem elemBytes_length (d : List (Byte × Bool)) (e i : Nat) : (elemBytes d e i).length = e := fit_length ..
theorem elemBytes_eq (d : List (Byte × Bool)) (e i : Nat) :
    elemBytes d e i = (List.range e).map fun j => d.getD (e * i + j) (0, false) := by
  refine List.ext_getElem? fun j => ?_
  by_cases hj : j < e
  · have ht : ((d.drop (e * i)).take e).getD j (0, false) = d.getD (e * i + j) (0, false) := by
      simp [List.getD_eq_getElem?_getD, List.getElem?_take, hj]
    rw [elemBytes, fit_getElem? _ _ hj, ht, List.getElem?_map, List.getElem?_range hj]
    rfl
  · rw [List.getElem?_eq_none (by rw [elemBytes_length]; omega), List.getElem?_eq_none (by simp; omega)]
/-- The number that an element's bytes stand for. -/
def elemNum (e i : Nat) (d : List (Byte × Bool)) : Nat := leNat ((List.range e).map fun j => (d.getD (e * i + j) (0, false)).1)
theorem elemBytes_num (d : List (Byte × Bool)) (e i : Nat) : leNat ((elemBytes d e i).map Prod.fst) = elemNum e i d := by
  rw [elemBytes_eq, List.map_map]
  rfl
theorem elemBytes_poisoned (d : List (Byte × Bool)) (e i : Nat) :
    (elemBytes d e i).any Prod.snd = true ↔ ∃ j < e, (d.getD (e * i + j) (0, false)).2 = true := by
  simp [elemBytes_eq]
theorem redElem_cons (op : Nat) (t : EType) (d : List (Byte × Bool)) (ds : List (List (Byte × Bool))) (i : Nat) :
    redElem op t (d :: ds) i = (leBytes (etWidth t / 8) (redOut t ((ds.map fun d => redIn t (elemNum (etWidth t / 8) i d)).foldl (redStep op t)
      (redIn t (elemNum (etWidth t / 8) i d))))).map fun b =>
        (b, decide (∃ d' ∈ d :: ds, ∃ j < etWidth t / 8, (d'.getD (etWidth t / 8 * i + j) (0, false)).2 = true)) := by
  have hp : ((d :: ds).map fun d => elemBytes d (etWidth t / 8) i).any (fun x => x.any Prod.snd) =
      decide (∃ d' ∈ d :: ds, ∃ j < etWidth t / 8, (d'.getD (etWidth t / 8 * i + j) (0, false)).2 = true) := by
    rw [Bool.eq_iff_iff, decide_eq_true_iff, List.any_map, List.any_eq_true]
    exact exists_congr fun d' => and_congr_right fun _ => elemBytes_poisoned d' _ i
  have hv : ((d :: ds).map fun d => elemBytes d (etWidth t / 8) i).map (fun x => redIn t (leNat (x.map Prod.fst))) =
      redIn t (elemNum (etWidth t / 8) i d) :: ds.map fun d => redIn t (elemNum (etWidth t / 8) i d) := by
    simp only [List.map_map, List.map_cons, Function.comp_def, elemBytes_num]
  unfold redElem
  dsimp only
  rw [hp, hv]
theorem redElem_length (op : Nat) (t : EType) (ranks : List (List (Byte × Bool))) (i : Nat) : (redElem op t ranks i).length = etWidth t / 8 := by
  simp [redElem]

/-! ## What a rank receives -/

section
variable {c : Coll} {t : EType} (ht : etypeOf c.ety.toNat = some t) (data : Nat → List (Byte × Bool))
include ht
theorem coll_esz : c.esz = etWidth t / 8 := by simp [Coll.esz, ht]
theorem coll_part : c.part = c.count.toNat * (etWidth t / 8) := by rw [Coll.part, coll_esz ht]
omit ht in
theorem coll_here : c.here = true ↔ c.peer = 0xFFFF_FFFF ∨ c.peer = c.rank := by
  unfold Coll.here Coll.root
  by_cases h : c.peer = 0xFFFF_FFFF
  · rw [if_pos h]; simp [h]
  · rw [if_neg h]; simpa [BitVec.toNat_inj] using fun e => absurd e h
omit ht in
theorem coll_root (h : c.peer ≠ 0xFFFF_FFFF) : c.root.getD 0 = c.peer.toNat := by
  unfold Coll.root
  rw [if_neg h]
  rfl
omit ht in
theorem result_gather (h : c.op = .gather) (hh : c.here = true) :
    c.result data = ((List.range c.size.toNat).map fun q => fit (0, false) c.part (data q)).flatten := by
  simp [Coll.result, h, hh, Function.comp_def]
omit ht in
theorem result_scatter (h : c.op = .scatter) (hp : c.peer ≠ 0xFFFF_FFFF) :
    c.result data = fit (0, false) c.part ((data c.peer.toNat).drop (c.rank.toNat * c.part)) := by
  simp only [Coll.result, h, coll_root hp]
omit ht in
theorem result_recv (h : c.op = .recv) (hp : c.peer ≠ 0xFFFF_FFFF) : c.result data = fit (0, false) c.part (data c.peer.toNat) := by
  simp only [Coll.result, h, coll_root hp]
omit ht in
theorem result_reduce_one (h : c.op = .reduce) (hs : c.size = 1) : c.result data = fit (0, false) c.part (data 0) := by
  simp only [Coll.result, h]
  exact if_pos hs
theorem result_reduce (h : c.op = .reduce) (hs : c.size ≠ 1) (hr : c.rs = true ∨ c.here = true) : c.result data =
    ((List.range c.count.toNat).map fun i =>
      redElem c.rop.toNat t ((List.range c.size.toNat).map data) ((if c.rs then c.rank.toNat * c.count.toNat else 0) + i)).flatten := by
  simp only [Coll.result, h, ht, Option.getD_some, upTo_eq_range]
  refine (if_neg hs).trans ?_
  cases hc : c.rs with
  | true => exact (if_pos rfl).trans (congrArg List.flatten (map_upFrom _ _ _))
  | false =>
    refine (if_neg nofun).trans ((if_pos (hr.resolve_left (by simp [hc]))).trans ?_)
    simp
omit ht in
theorem result_reduce_none (h : c.op = .reduce) (hs : c.size ≠ 1) (hr : c.rs = false) (hh : c.here = false) : c.result data = [] := by
  simp only [Coll.result, h]
  exact (if_neg hs).trans ((if_neg (by rw [hr]; nofun)).trans (if_neg (by rw [hh]; nofun)))
end

theorem redStep_fp {t : EType} {f : Fmt} (h : etFmt t = some f) (a b : Nat) :
    redIn t a = fF32.round 0 0 false (f.val a) ∧ redOut t a = f.round 0 0 false (fF32.val a) ∧
    redStep 0 t a b = fF32.round 0 0 false ((fF32.val a).add (fF32.val b)) ∧
    redStep 1 t a b = fF32.round 0 0 false ((fF32.val a).minv (fF32.val b)) ∧
    redStep 2 t a b = fF32.round 0 0 false ((fF32.val a).maxv (fF32.val b)) := by
  simp only [redIn, redOut, redStep, h]
  exact ⟨trivial, trivial, if_pos trivial, rfl, rfl⟩
theorem redStep_int {t : EType} (h : etFmt t = none) (a b : Nat) :
    redIn t a = a ∧ redOut t a = a ∧ redStep 0 t a b = (a + b) % 2 ^ etWidth t ∧
    (redStep 1 t a b = if sgn (etWidth t) b < sgn (etWidth t) a then b else a) ∧
    (redStep 2 t a b = if sgn (etWidth t) a < sgn (etWidth t) b then b else a) ∧ redStep 3 t a b = (a &&& b) ∧ redStep 4 t a b = (a ||| b) := by
  simp only [redIn, redOut, redStep, h]
  exact ⟨trivial, trivial, trivial, trivial, trivial, trivial, trivial⟩

theorem claim_collectiveResults : Claims.CollectiveResults := by
  intro c t data ht size count bytes part r here byte
  have hpart : c.part = part := coll_part ht
  have hhere : c.here = true ↔ here := coll_here
  refine ⟨fun h hh => ?_, fun h hp => ?_, fun h hp => ?_, fun h => by simp only [r, Coll.result, h], fun h hh => ?_, fun h hs hr hh => ?_,
    fun h hs => ?_, fun h hs hr => ?_, fun op i d ds => redElem_cons op t d ds i, fun f hf => redStep_fp hf, fun hf => redStep_int hf⟩
  · have hr : r = ((List.range size).map fun q => fit (0, false) part (data q)).flatten := by
      rw [← hpart]; exact result_gather data h (hhere.mpr hh)
    rw [hr]
    refine ⟨flatten_length _ _ _ fun _ => fit_length .., fun q hq j hj => ?_⟩
    rw [flatten_get _ (fun _ => fit_length ..) hq hj, fit_getElem? _ _ hj]
  · have hr : r = fit (0, false) part ((data c.peer.toNat).drop (c.rank.toNat * part)) := by
      rw [← hpart]; exact result_scatter data h hp
    rw [hr]
    refine ⟨fit_length .., fun j hj => ?_⟩
    rw [fit_getElem? _ _ hj, getD_drop]
  · have hr : r = fit (0, false) part (data c.peer.toNat) := by
      rw [← hpart]; exact result_recv data h hp
    rw [hr]
    exact ⟨fit_length .., fun j hj => fit_getElem? _ _ hj⟩
  · have hn : c.here = false := by simpa using mt hhere.mp hh
    simp only [r, Coll.result, h, hn]
    rfl
  · exact result_reduce_none data h (fun e => hs (by rw [show size = c.size.toNat from rfl, e]; rfl)) hr (by simpa using mt hhere.mp hh)
  · have hr : r = fit (0, false) part (data 0) := by
      rw [← hpart]; exact result_reduce_one data h hs
    rw [hr]
    exact ⟨fit_length .., fun j hj => fit_getElem? _ _ hj⟩
  · have he : r = _ := result_reduce ht data h hs (hr.imp_right hhere.mpr)
    rw [he]
    refine ⟨flatten_length _ _ _ fun _ => redElem_length .., fun i hi j hj => ?_⟩
    rw [flatten_get _ (fun _ => redElem_length ..) hi hj]
    dsimp only
    rw [Nat.mul_div_cancel _ (by omega)]

/-! ## Cards, waits and collectives complete -/

section
variable {s : State} {id : Nat} {o : Op}
theorem opened_served (h : ∀ k ∈ o.opened, s.winServed k.1.part (frameVa k.1) = true) : s.openedServed o.opened = true := by
  unfold State.openedServed
  exact List.all_eq_true.mpr h
variable (ho : s.op id = some o)
include ho
theorem cpWait_delivers {w : BitVec 16} {l : List Nat} {n : Nat} (hk : o.kind = .cpWait w l n) (hs : o.sent = true)
    (hn : ∀ q ∈ s.ops, q.id ∉ l) : execCpWaitDeliver id s = .next (s.opGive o (w64 n)) := by
  simp only [execCpWaitDeliver, ho, hk]
  refine congrArg Host.Outcome.next (if_neg ?_)
  have hl : (s.ops.any fun p => setHas l p.id) = false := List.any_eq_false.mpr fun q hq => mt (setHas_mem l q.id).mp (hn q hq)
  rw [hs, hl]
  nofun
variable (hp : o.stop = none)
include hp
theorem cardRelease_releases {c : Card} {n : Nat} {b : List (Byte × Bool)} {p : List Byte} (hk : o.kind = .card c false n b p) (hs : o.sent = true)
    (hn : ∀ q ∈ s.ops, q.rkey = o.rkey → q.id < o.id → ∀ d r n b p, q.kind = .card d r n b p → d.edge c = false) :
    execCardRelease id s = .next (s.modOp id fun o => { o with kind := .card c true n b p }) := by
  simp only [execCardRelease, ho, hk]
  refine congrArg Host.Outcome.next (if_neg ?_)
  have hl : (s.ops.any fun q => q.rkey == o.rkey && decide (q.id < o.id) && match q.kind with | .card d _ _ _ _ => d.edge c | _ => false) = false := by
    refine List.any_eq_false.mpr fun q hq => ?_
    simp only [Bool.and_eq_true, beq_iff_eq, decide_eq_true_eq]
    rintro ⟨⟨hr, hi⟩, he⟩
    split at he
    · next d r n b p hd => exact Bool.noConfusion (he.symm.trans (hn q hq hr hi d r n b p hd))
    · exact Bool.noConfusion he
  rw [hs, hp, Bool.or_eq_true]
  exact fun h => h.elim nofun (ne_true_of_eq_false hl)
variable (hu : o.out = false)
include hu
theorem cardComplete_completes {c : Card} {n : Nat} {b : List (Byte × Bool)} {p : List Byte} (hk : o.kind = .card c true n b p)
    (hn : c.total ≤ n) (h : s.openedServed o.opened = true) :
    execCardComplete id s = .next ((s.finishOpened o.part o.rkey o.opened o.id).opDone o) := by
  simp only [execCardComplete, ho, hk]
  exact congrArg Host.Outcome.next (if_neg (by rw [hp, hu, h, decide_eq_false (Nat.not_lt.mpr hn)]; nofun))
theorem collectiveComplete_completes {c : Coll} {n : Nat} {src r : List (Byte × Bool)} (hk : o.kind = .coll c src (some r) n)
    (hn : r.length ≤ n) (h : s.openedServed o.opened = true) :
    execCollectiveComplete id s = .next ((s.finishOpened o.part o.rkey o.opened o.id).opDone o) := by
  simp only [execCollectiveComplete, ho, hk]
  exact congrArg Host.Outcome.next (if_neg (by simp [hp, hu, h, hn]))
end

/-! ## A collective is exchanged -/

/-- The part of a rank among those given. -/
def partOf (s : State) (o : Op) (c : Coll) (ranks : List RankInput) (q : Nat) : Option RankInput :=
  ranks.find? fun x => x.rank == q && s.rankMatches o.part c x
/-- Whether the group table allows the exchange; it need not be asked about one of a single rank. -/
def allowed (s : State) (o : Op) (c : Coll) : Except Flt Unit := if c.others.isEmpty then .ok () else s.collAuth o.part c
/-- The data of a rank. -/
def dataOf (s : State) (o : Op) (c : Coll) (ranks : List RankInput) (src : List (Byte × Bool)) (q : Nat) : List (Byte × Bool) :=
  if q = c.rank.toNat then src else ((partOf s o c ranks q).map (·.data)).getD []
/-- What an exchange that the group table allows comes to. -/
def exchanged (s : State) (id : Nat) (o : Op) (c : Coll) (src : List (Byte × Bool)) (n : Nat) (ranks : List RankInput) : State :=
  if !c.others.isEmpty ∧ s.upPort.isNone then s.faultOp o ⟨0x0B, 0⟩ false o.va 0 0 0
  else if c.others.any fun q => ranks.any fun x => x.rank == q && x.group == c.group && x.refused then s.faultOp o ⟨0x0A, 0⟩ false o.va 0 0 0
  else if c.others.any fun q => (partOf s o c ranks q).isNone then s
  else if c.others.any fun q => (partOf s o c ranks q).any c.differs then s.faultOp o ⟨0x2D, 0⟩ false o.va 0 0 0
  else ((s.modOp id fun p => { p with kind := .coll c src (some (c.result (dataOf s o c ranks src))) n }).extAct o.rkey).progress o.rkey

/-- Nothing keeps a collective from its exchange. -/
structure Exchanges (s : State) (id : Nat) (o : Op) (c : Coll) (src : List (Byte × Bool)) (n : Nat) : Prop where
  op : s.op id = some o
  kind : o.kind = .coll c src none n
  sent : o.sent = true
  stop : o.stop = none
  out : o.out = false
  first : s.earlierOut o = false
  before : s.collBefore o c = false
  read : c.srcLen ≤ src.length
  served : c.others ≠ [] → s.collServed o.part c = true
section
variable {s : State} {id : Nat} {o : Op} {c : Coll} {src : List (Byte × Bool)} {n : Nat} (h : Exchanges s id o c src n) (ranks : List RankInput)
include h
theorem exchange_ready : (!o.sent || o.stop.isSome || o.out || s.earlierOut o || s.collBefore o c || decide (src.length < c.srcLen) ||
    (!c.others.isEmpty && !s.collServed o.part c)) = false := by
  obtain ⟨-, -, hs, hp, hu, hf, hb, hr, hd⟩ := h
  have hd' : (!c.others.isEmpty && !s.collServed o.part c) = false := by
    cases he : c.others with
    | nil => rfl
    | cons q l => rw [hd (by simp [he])]; rfl
  simp [hs, hp, hu, hf, hb, Nat.not_lt.mpr hr, hd']
theorem exchange_refused {f : Flt} (ha : allowed s o c = .error f) :
    execCollectiveExchange id ranks s = .next (s.faultOp o f false o.va 0 0 0) := by
  simp only [execCollectiveExchange, h.op, h.kind]
  refine congrArg Host.Outcome.next ((if_neg (ne_true_of_eq_false (exchange_ready h))).trans ?_)
  unfold allowed at ha
  rw [ha]
theorem exchange_allowed (ha : allowed s o c = .ok ()) : execCollectiveExchange id ranks s = .next (exchanged s id o c src n ranks) := by
  simp only [execCollectiveExchange, h.op, h.kind]
  refine congrArg Host.Outcome.next ((if_neg (ne_true_of_eq_false (exchange_ready h))).trans ?_)
  unfold allowed at ha
  rw [ha]
  have hd : (fun q => match partOf s o c ranks q with | some x => c.differs x | none => false) = fun q => (partOf s o c ranks q).any c.differs := by
    funext q; cases partOf s o c ranks q <;> rfl
  have hf : (fun q => if q = c.rank.toNat then src else match partOf s o c ranks q with | some x => x.data | none => []) = dataOf s o c ranks src := by
    funext q; unfold dataOf; cases partOf s o c ranks q <;> rfl
  unfold exchanged
  rw [← hd, ← hf]
  rfl
end
section
variable {s : State} {id : Nat} {o : Op} {c : Coll} {src : List (Byte × Bool)} {n : Nat} {ranks : List RankInput}
theorem exchanged_alone (h : c.others = []) : exchanged s id o c src n ranks =
    ((s.modOp id fun p => { p with kind := .coll c src (some (c.result (dataOf s o c ranks src))) n }).extAct o.rkey).progress o.rkey := by
  simp [exchanged, h]
variable (he : c.others ≠ [])
include he
theorem exchanged_linkDown (hp : s.upPort = none) : exchanged s id o c src n ranks = s.faultOp o ⟨0x0B, 0⟩ false o.va 0 0 0 :=
  if_pos ⟨by simpa using he, by rw [hp]; rfl⟩
variable (hp : s.upPort ≠ none)
include hp
omit he in
theorem link_up : ¬ ((!c.others.isEmpty) = true ∧ s.upPort.isNone = true) := fun h => hp (Option.isNone_iff_eq_none.mp h.2)
/-- A rank's inbound table refuses this device's part. -/
def Refused (c : Coll) (ranks : List RankInput) : Prop := ∃ q ∈ c.others, ∃ x ∈ ranks, x.rank = q ∧ x.group = c.group ∧ x.refused = true
omit he hp in
theorem refused_iff : (c.others.any fun q => ranks.any fun x => x.rank == q && x.group == c.group && x.refused) = true ↔ Refused c ranks := by
  simp only [Refused, List.any_eq_true, Bool.and_eq_true, beq_iff_eq, and_assoc]
theorem exchanged_refused (hr : Refused c ranks) : exchanged s id o c src n ranks = s.faultOp o ⟨0x0A, 0⟩ false o.va 0 0 0 :=
  (if_neg (link_up hp)).trans (if_pos (refused_iff.mpr hr))
variable (hr : ¬ Refused c ranks)
include hr
theorem exchanged_waits (hn : ∃ q ∈ c.others, partOf s o c ranks q = none) : exchanged s id o c src n ranks = s :=
  (if_neg (link_up hp)).trans ((if_neg (mt refused_iff.mp hr)).trans (if_pos (by simpa using hn)))
variable (hn : ∀ q ∈ c.others, (partOf s o c ranks q).isSome = true)
include hn
omit he hp hr in
theorem all_come : ¬ (c.others.any fun q => (partOf s o c ranks q).isNone) = true := by
  simpa [Option.isSome_iff_ne_none] using hn
theorem exchanged_differs (hd : ∃ q ∈ c.others, ∃ x, partOf s o c ranks q = some x ∧ c.differs x = true) :
    exchanged s id o c src n ranks = s.faultOp o ⟨0x2D, 0⟩ false o.va 0 0 0 :=
  (if_neg (link_up hp)).trans ((if_neg (mt refused_iff.mp hr)).trans ((if_neg (all_come hn)).trans (if_pos (by simpa [Option.any_eq_true] using hd))))
theorem exchanged_matches (hd : ∀ q ∈ c.others, ∀ x, partOf s o c ranks q = some x → c.differs x = false) : exchanged s id o c src n ranks =
    ((s.modOp id fun p => { p with kind := .coll c src (some (c.result (dataOf s o c ranks src))) n }).extAct o.rkey).progress o.rkey :=
  (if_neg (link_up hp)).trans ((if_neg (mt refused_iff.mp hr)).trans ((if_neg (all_come hn)).trans (if_neg (by simpa [Option.any_eq_true] using hd))))
end

theorem claim_cardsAndCollectivesComplete : Claims.CardsAndCollectivesComplete := by
  intro s id o ho hp hu
  refine ⟨fun c n b p => cardRelease_releases ho hp, fun c n b p hk hn h => cardComplete_completes ho hp hu hk hn (opened_served h),
    fun w l n => cpWait_delivers ho, fun c src n hk hs hf hb hr he => ?_, fun c src n ranks hk hs hf hb hr he hd => ?_,
    fun c src r n hk hn h => collectiveComplete_completes ho hp hu hk hn (opened_served h)⟩
  · have hx : Exchanges s id o c src n := ⟨ho, hk, hs, hp, hu, hf, hb, hr, fun h => absurd he h⟩
    exact (exchange_allowed hx [] (by simp [allowed, he])).trans (congrArg _ (exchanged_alone he))
  · intro given gives bad refused
    have hx : Exchanges s id o c src n := ⟨ho, hk, hs, hp, hu, hf, hb, hr, fun _ => hd⟩
    have auth : allowed s o c = s.collAuth o.part c := if_neg (by simpa using he)
    refine ⟨fun f ha => exchange_refused hx ranks (auth.trans ha), fun ha => ?_⟩
    have goes {u : State} (h : exchanged s id o c src n ranks = u) : gives u :=
      (exchange_allowed hx ranks (auth.trans ha)).trans (congrArg _ h)
    exact ⟨fun hp => goes (exchanged_linkDown he hp), fun hp hr => goes (exchanged_refused he hp hr), fun hp hr hn => goes (exchanged_waits he hp hr hn),
      fun hp hr hn => ⟨fun hd => goes (exchanged_differs he hp hr hn hd), fun hd => goes (exchanged_matches he hp hr hn hd)⟩⟩

/-! ## A Prism program is loaded -/

theorem cmdDone (s : State) (t : Nat) (e : EngineId) (k : Nat) (x : Option (List Byte)) (g : Engine) :
    ({ s with prism := vset s.prism k x } : State).setEngine t e g = { s.setEngine t e g with prism := vset s.prism k x } := by
  cases e <;> rfl

theorem claim_prismProgramIsReplacedWhole : Claims.PrismProgramIsReplacedWhole := by
  intro s t e r k g block hc hk hs hr hn hw hp
  have loads {u : State} (h : (if !prismOk block then s.stopElem t e { r with win := [], next := 0 } 0 { pad := false } ⟨0x23, 0⟩
      else (({ s with prism := vset s.prism k (some block) } : State).setEngine t e { g with cur := none }).cmdProgress t r.cmd) = u) :
      exec (.prismLoadComplete t e) s = .next u := by
    change execPrismLoadComplete t e s = _
    unfold execPrismLoadComplete
    dsimp only
    rw [show (s.engine t e).cur = some r from hc]
    refine congrArg Host.Outcome.next ((if_neg ?_).trans ?_)
    · rw [show (s.engine t e).stop = none from hs, hr]
      simpa [hk, Nat.not_lt.mpr hn] using hw
    · rw [hp]
      exact h
  exact ⟨fun h => loads ((if_neg (by rw [h]; nofun)).trans (by rw [cmdDone])), fun h => loads (if_pos (by rw [h]; rfl))⟩

/-- Settles O32: bytes of a result, cases of a card, a wait and an exchange, and the load of a program. -/
theorem cardsAndProgramsComplete : Obligations.CardsAndProgramsComplete :=
  ⟨claim_cardsAndCollectivesComplete, claim_collectiveResults, claim_prismProgramIsReplacedWhole⟩

end Sys2Proof.Proofs.Collectives
end

section
/-! PROOFS. Junctions that pass tokens on, and joins (R114, R117). -/
namespace Sys2Proof.Proofs.Junctions
open Sys2Proof Sys2Proof.Machine
set_option Elab.async false

/-! ## A junction fires -/

/-- A junction that may fire does what its kind does. -/
theorem junction_fires {s : State} {t : Nat} {ph : BitVec 2} {j : BitVec 3} {k : Nat} {kinds : List Nat} (f : JAt → State → State)
    (h : JAt.ready ⟨t, ph, j⟩ s k) (hk : setHas kinds k = true) :
    (.next (junction s t ph j kinds f) : Out) = JAt.fired ⟨t, ph, j⟩ s (f ⟨t, ph, j⟩ s) := by
  obtain ⟨hr, hh, hf⟩ := h
  unfold junction
  dsimp only at hr hh hf ⊢
  rw [hr, hh, hf, hk]
  rfl
theorem fired_same (a : JAt) (s : State) : a.fired s s = .next s := congrArg Host.Outcome.next (if_pos rfl)

section
variable (a : JAt) (s : State)
/-- A junction that was changed. -/
theorem get_mod (f : Junc → Junc) : a.get (a.mod s f) = f (a.get s) := by
  unfold JAt.get JAt.mod State.modJunc
  rw [modLt_eq, lt_setLt, if_pos ⟨rfl, rfl⟩]
  dsimp only
  rw [vget_vset _ _ _ _ _ a.j.isLt, if_pos rfl]
/-- Taking a head of one side leaves the others. -/
theorem head_pop_ne {k l : Nat} (h : l ≠ k) (hk : k < 4) : a.head (a.pop s k) l = a.head s l := by
  unfold JAt.head JAt.pop
  rw [get_mod]
  dsimp only
  rw [vget_vset _ _ _ _ _ hk, if_neg h]
end

/-! ## Pass, fork, merge and gate -/

section
variable {a : JAt} {s : State} {x q : Token}
theorem jPass_moves (hx : a.head s 0 = some x) (hr : a.room s 1 = true) : jPass a s = a.move s x 0 1 := by simp [jPass, hx, hr]

/-- The sides that a fork copies to. -/
def forkSides (a : JAt) (s : State) : List Nat := [1, 2, 3].filter fun k => (a.fld s 59 57).testBit (k - 1)
theorem jFork_copies (hx : a.head s 0 = some x) (hr : ∀ k ∈ forkSides a s, a.room s k = true) :
    jFork a s = (forkSides a s).foldl (fun s k => a.push s k x) (a.pop s 0) := by
  unfold jFork
  dsimp only
  rw [hx]
  exact if_pos (List.all_eq_true.mpr hr)
theorem jFork_waits (hx : a.head s 0 = some x) (hr : ∃ k ∈ forkSides a s, a.room s k = false) : jFork a s = s := by
  unfold jFork
  dsimp only
  rw [hx]
  obtain ⟨k, hk, hr⟩ := hr
  exact if_neg fun h => Bool.noConfusion (hr.symm.trans (List.all_eq_true.mp h k hk))

theorem ctlCode_iff (x : Token) (n : Nat) : ctlCode x = some n ↔ x.kind = .control ∧ x.lane 0 % 256 = n := by
  unfold ctlCode
  by_cases h : x.kind = .control
  · rw [if_pos h]; simp [h]
  · rw [if_neg h]; simp [h]
theorem jMerge_selects (hm : (a.get s).sel = none) (hx : a.head s 3 = some x) (hk : x.kind = .control) (hc : x.lane 0 % 256 = 5) :
    jMerge a s = a.mod (a.pop s 3) fun y => { y with sel := some { side := x.lane 1 % 2 == 1, left := x.lane 2, toEos := x.lane 2 == 0 } } := by
  simp only [jMerge, hm, hx]
  exact if_pos ((ctlCode_iff x 5).mpr ⟨hk, hc⟩)
theorem jMerge_forwards {m : MergeSel} (hm : (a.get s).sel = some m) (hx : a.head s m.side.toNat = some x) (hr : a.room s 2 = true) :
    jMerge a s = a.mod (a.move s x m.side.toNat 2) fun y => { y with sel :=
      if m.toEos then (if x.kind = .eos then none else some m) else if m.left ≤ 1 then none else some { m with left := m.left - 1 } } := by
  simp only [jMerge, hm, hx]
  exact if_neg (by rw [hr]; nofun)

/-- A gate after the release at its side 3, if one stands there. -/
def released (a : JAt) (s : State) : State := if (a.head s 3).isSome then a.mod (a.pop s 3) fun y => { y with occ := y.occ - 1 } else s
/-- What a gate does once a release has been taken. -/
def gateGoes (a : JAt) (u : State) : State :=
  match a.head u 2, a.head u 0 with
  | some x, _ => if a.room u 1 then a.move u x 2 1 else u
  | none, some x => if (a.get u).occ < a.fld u 59 52 ∧ a.room u 1 then a.mod (a.move u x 0 1) fun y => { y with occ := y.occ + 1 } else u
  | none, none => u
theorem jGate_eq (a : JAt) (s : State) : jGate a s = gateGoes a (released a s) := by
  unfold jGate released
  cases a.head s 3 <;> rfl
theorem gate_recirculates {u : State} (h : a.head u 2 = some x) : gateGoes a u = if a.room u 1 = true then a.move u x 2 1 else u := by
  simp only [gateGoes, h]
theorem gate_admits {u : State} (h2 : a.head u 2 = none) (h0 : a.head u 0 = some x) : gateGoes a u =
    if (a.get u).occ < a.fld u 59 52 ∧ a.room u 1 = true then a.mod (a.move u x 0 1) fun y => { y with occ := y.occ + 1 } else u := by
  simp only [gateGoes, h2, h0]
theorem gate_idle {u : State} (h2 : a.head u 2 = none) (h0 : a.head u 0 = none) : gateGoes a u = u := by simp only [gateGoes, h2, h0]

/-! ## Steer -/

/-- The side that a steer's token goes to. -/
def steerTo (a : JAt) (s : State) (q : Token) : Nat := if (q.lane (a.fld s 57 54) != 0) != (a.fld s 58 58 == 1) then 2 else 1
section
variable (hx : a.head s 0 = some x)
include hx
theorem jSteer_self (hd : x.kind = .data) (hs : a.fld s 59 59 = 1) (hr : a.room s (steerTo a s x) = true) :
    jSteer a s = a.move s x 0 (steerTo a s x) := by
  simp only [jSteer, hs, beq_self_eq_true, if_true, hx, hd, ne_eq, not_true_eq_false, if_false]
  exact if_neg fun h => Bool.noConfusion (h.symm.trans (congrArg not hr))
theorem jSteer_predicate (hd : x.kind = .data) (hs : a.fld s 59 59 ≠ 1) (hq : a.head s 3 = some q) (hk : q.kind = .data)
    (hr : a.room s (steerTo a s q) = true) : jSteer a s = a.move (a.pop s 3) x 0 (steerTo a s q) := by
  simp only [jSteer, beq_false_of_ne hs, Bool.false_eq_true, hq, hk, if_true, hx, hd, ne_eq, not_true_eq_false, if_false]
  exact if_neg fun h => Bool.noConfusion (h.symm.trans (congrArg not hr))
theorem jSteer_waits (hd : x.kind = .data) (hs : a.fld s 59 59 ≠ 1) (hq : a.head s 3 = none) : jSteer a s = s := by
  simp [jSteer, hx, hd, hs, hq]
theorem jSteer_both (hd : x.kind ≠ .data) (hs : a.fld s 59 59 = 1 ∨ a.head s 3 = none ∨ (a.head s 3 = some q ∧ q.kind = .data))
    (h1 : a.room s 1 = true) (h2 : a.room s 2 = true) : jSteer a s = a.push (a.move s x 0 1) 2 x := by
  by_cases h : a.fld s 59 59 = 1
  · simp [jSteer, hx, hd, h, h1, h2]
  · obtain hq | ⟨hq, hk⟩ := hs.resolve_left h
    · simp [jSteer, hx, hd, h, hq, h1, h2]
    · simp [jSteer, hx, hd, h, hq, hk, h1, h2]
end
theorem jSteer_drops (hs : a.fld s 59 59 ≠ 1) (hq : a.head s 3 = some q) (hk : q.kind ≠ .data) (hx : a.head s 0 = none) :
    jSteer a s = a.pop s 3 := by
  simp [jSteer, hs, hq, hk, head_pop_ne a s (show (0 : Nat) ≠ 3 by decide) (by decide), hx]
end

theorem claim_junctionsForwardTokens : Claims.JunctionsForwardTokens := by
  intro s t ph j x q a y is
  refine ⟨fun h hx hr => ?_, fun h hx => ?_, fun h => ?_, fun h => ?_, fun h => ?_⟩
  · obtain h | h := h
    · exact (junction_fires jPass h rfl).trans (congrArg _ (jPass_moves hx hr))
    · exact (junction_fires jPass h rfl).trans (congrArg _ (jPass_moves hx hr))
  · intro mask
    exact ⟨fun hr => (junction_fires jFork h rfl).trans (congrArg _ (jFork_copies hx hr)),
      fun hr => (junction_fires jFork h rfl).trans ((congrArg _ (jFork_waits hx hr)).trans (fired_same a s))⟩
  · intro self way
    have goes {u : State} (hu : jSteer a s = u) : exec (.junctionSteer t ph j) s = a.fired s u := (junction_fires jSteer h rfl).trans (congrArg _ hu)
    exact ⟨fun hx hd => ⟨fun hs hr => goes (jSteer_self hx hd hs hr), fun hs hq hk hr => goes (jSteer_predicate hx hd hs hq hk hr),
        fun hs hq => (goes (jSteer_waits hx hd hs hq)).trans (fired_same a s)⟩,
      fun hx hd hs h1 h2 => goes (jSteer_both hx hd hs h1 h2), fun hs hq hk hx => goes (jSteer_drops hs hq hk hx)⟩
  · have goes {u : State} (hu : jMerge a s = u) : exec (.junctionMerge t ph j) s = a.fired s u := (junction_fires jMerge h rfl).trans (congrArg _ hu)
    refine ⟨fun hm hx hk hc => goes (jMerge_selects hm hx hk hc), fun m hm hx hr => ⟨fun he => goes ?_, fun he => goes ?_⟩⟩
    · rw [jMerge_forwards hm hx hr, he]; rfl
    · rw [jMerge_forwards hm hx hr, he]; rfl
  · intro u
    have goes {v : State} (hv : gateGoes a u = v) : exec (.junctionGate t ph j) s = a.fired s v :=
      (junction_fires jGate h rfl).trans (congrArg _ ((jGate_eq a s).trans hv))
    exact ⟨fun hx => goes (gate_recirculates hx), fun h2 h0 => goes (gate_admits h2 h0), fun h2 h0 => goes (gate_idle h2 h0)⟩

/-! ## Joins -/

section
variable {a : JAt} {s : State} {x : Token} {k : Nat}
theorem jEos_closes (h : (a.get s).closed = none) : jEos a s k x = a.mod (a.pop s k) fun y => { y with closed := some (k == 1) } := by
  simp only [jEos, h]
theorem jEos_opens (h : (a.get s).closed ≠ none) (hr : a.room s 2 = true) : jEos a s k x =
    a.mod (a.move s x k 2) fun y => { y with closed := none, turn := 0, expect := .ofNat 6 (a.fld s 41 36) } := by
  obtain ⟨b, hb⟩ := Option.ne_none_iff_exists'.mp h
  simp only [jEos, hb]
  exact if_pos hr
theorem shut_iff (y : Junc) (k : Nat) : y.shut k = true ↔ y.closed = some (k == 1) := beq_iff_eq

/-- The side whose turn it is in a join. -/
def turnSide (a : JAt) (s : State) (n0 : Nat) : Nat :=
  if (a.get s).closed = some ((if (a.get s).turn < n0 then 0 else 1) == 1) then 1 - (if (a.get s).turn < n0 then 0 else 1)
  else if (a.get s).turn < n0 then 0 else 1
theorem jTurn_eq (a : JAt) (s : State) (n0 n1 : Nat) : jTurn a s n0 n1 = match a.head s (turnSide a s n0) with
    | none => s
    | some x =>
      if x.kind = .eos then jEos a s (turnSide a s n0) x
      else if a.room s 2 then a.mod (a.move s x (turnSide a s n0) 2) fun y => { y with turn := if y.closed.isSome then y.turn else (y.turn + 1) % (n0 + n1) }
      else s := by
  have hs : (if (a.get s).shut (if (a.get s).turn < n0 then 0 else 1) then 1 - (if (a.get s).turn < n0 then 0 else 1)
      else if (a.get s).turn < n0 then 0 else 1) = turnSide a s n0 := if_congr (shut_iff _ _) rfl rfl
  unfold jTurn
  dsimp only
  rw [hs] <;> rfl
section
variable {n0 n1 : Nat}
theorem jTurn_waits (hx : a.head s (turnSide a s n0) = none) : jTurn a s n0 n1 = s := by
  rw [jTurn_eq, hx]
theorem jTurn_ends (hx : a.head s (turnSide a s n0) = some x) (hk : x.kind = .eos) : jTurn a s n0 n1 = jEos a s (turnSide a s n0) x := by
  rw [jTurn_eq, hx]
  exact if_pos hk
theorem jTurn_forwards (hx : a.head s (turnSide a s n0) = some x) (hk : x.kind ≠ .eos) (hr : a.room s 2 = true) : jTurn a s n0 n1 =
    a.mod (a.move s x (turnSide a s n0) 2) fun y => { y with turn := if y.closed.isSome then y.turn else (y.turn + 1) % (n0 + n1) } := by
  rw [jTurn_eq, hx]
  exact (if_neg hk).trans (if_pos hr)
end

/-- The heads of a join by tag at the sides that are open. -/
def openHeads (a : JAt) (s : State) : List (Nat × Token) :=
  [0, 1].filterMap fun k => if (a.get s).shut k then none else (a.head s k).map fun x => (k, x)
/-- The head at an open side. -/
def openHead (a : JAt) (s : State) (k : Nat) : Option Token := if (a.get s).shut k then none else a.head s k
theorem openHeads_eq (a : JAt) (s : State) :
    openHeads a s = ((openHead a s 0).map fun x => (0, x)).toList ++ ((openHead a s 1).map fun x => (1, x)).toList := by
  have hf (k : Nat) : (if (a.get s).shut k then none else (a.head s k).map fun x => (k, x)) = (openHead a s k).map fun x => (k, x) := by
    unfold openHead
    split <;> rfl
  unfold openHeads
  simp only [hf]
  simp only [List.filterMap_cons, List.filterMap_nil]
  cases openHead a s 0 <;> cases openHead a s 1 <;> rfl
/-- The first open head with a property, where that of the lower side has it not. -/
theorem find_openHead (p : Token → Bool) (hk : k < 2) (hx : openHead a s k = some x) (hp : p x = true)
    (hl : k = 1 → ∀ z, openHead a s 0 = some z → p z = false) : (openHeads a s).find? (fun y => p y.2) = some (k, x) := by
  rw [openHeads_eq]
  obtain rfl | rfl : k = 0 ∨ k = 1 := by omega
  · rw [hx]
    simp [hp]
  · rw [hx]
    cases h0 : openHead a s 0 with
    | none => simp [hp]
    | some z => simp [hp, hl rfl z h0]
theorem find_noHead (p : Token → Bool) (h : ∀ k < 2, ∀ z, openHead a s k = some z → p z = false) :
    (openHeads a s).find? (fun y => p y.2) = none := by
  rw [openHeads_eq]
  cases h0 : openHead a s 0 with
  | none =>
    cases h1 : openHead a s 1 with
    | none => rfl
    | some z => simp [h 1 (by decide) z h1]
  | some w =>
    cases h1 : openHead a s 1 with
    | none => simp [h 0 (by decide) w h0]
    | some z => simp [h 0 (by decide) w h0, h 1 (by decide) z h1]
theorem jTag_ends (h : (openHeads a s).find? (fun y => y.2.kind == .eos) = some (k, x)) : jTag a s = jEos a s k x := by
  change (match (openHeads a s).find? (fun y => y.2.kind == .eos) with | some (k, x) => jEos a s k x | none => _) = _
  rw [h]
theorem jTag_forwards (hn : (openHeads a s).find? (fun y => y.2.kind == .eos) = none)
    (h : (openHeads a s).find? (fun y => y.2.tag == (a.get s).expect) = some (k, x)) (hr : a.room s 2 = true) :
    jTag a s = a.mod (a.move s x k 2) fun y => { y with expect := y.expect + 1 } := by
  change (match (openHeads a s).find? (fun y => y.2.kind == .eos) with
    | some (k, x) => jEos a s k x
    | none => match (openHeads a s).find? (fun (y : Nat × Token) => y.2.tag == (a.get s).expect) with
      | none => s
      | some (k, x) => if a.room s 2 then a.mod (a.move s x k 2) fun y => { y with expect := y.expect + 1 } else s) = _
  rw [hn]
  dsimp only
  rw [h]
  exact if_pos hr

theorem jJoin_alternate (h : a.fld s 59 58 = 0) : jJoin a s = jTurn a s 1 1 := by simp only [jJoin, h]
theorem jJoin_tag (h : a.fld s 59 58 = 1) : jJoin a s = jTag a s := by simp only [jJoin, h]
theorem jJoin_counts (h : a.fld s 59 58 = 2) : jJoin a s = jTurn a s (a.fld s 57 50) (a.fld s 49 42) := by simp only [jJoin, h]
theorem jJoin_first (h : a.fld s 59 58 = 3) (hr : a.room s 2 = true) (hx : a.head s 0 = some x) : jJoin a s = a.move s x 0 2 := by
  simp only [jJoin, h, hx]
  exact if_pos hr
theorem jJoin_second (h : a.fld s 59 58 = 3) (hr : a.room s 2 = true) (h0 : a.head s 0 = none) (hx : a.head s 1 = some x) :
    jJoin a s = a.move s x 1 2 := by
  simp only [jJoin, h, h0, hx]
  exact if_pos hr
end

theorem claim_joinsTakeTheirHeads : Claims.JoinsTakeTheirHeads := by
  intro s t ph j x a y gives mode shut ends h
  have goes {u : State} (hu : jJoin a s = u) : gives u := (junction_fires jJoin h rfl).trans (congrArg _ hu)
  have done {k : Nat} (hu : jJoin a s = jEos a s k x) : ends k :=
    ⟨fun hc => goes (hu.trans (jEos_closes hc)), fun hc hr => goes (hu.trans (jEos_opens hc hr))⟩
  refine ⟨fun hm => ?_, fun hm k hk hs hx => ?_, fun hm hr => ⟨fun hx => goes (jJoin_first hm hr hx), fun h0 hx => goes (jJoin_second hm hr h0 hx)⟩⟩
  · intro n0 n1 want k hk
    have he : jJoin a s = jTurn a s n0 n1 := by
      obtain hm | hm := hm
      · rw [show n0 = 1 from if_pos hm, show n1 = 1 from if_pos hm]; exact jJoin_alternate hm
      · have h2 : mode ≠ 0 := by omega
        rw [show n0 = a.fld s 57 50 from if_neg h2, show n1 = a.fld s 49 42 from if_neg h2]; exact jJoin_counts hm
    have hside : k = turnSide a s n0 := hk
    subst hside
    exact ⟨fun hx => (goes (he.trans (jTurn_waits hx))).trans (fired_same a s), fun hx hk => done (he.trans (jTurn_ends hx hk)),
      fun hx hk hr => goes (he.trans (jTurn_forwards hx hk hr))⟩
  · intro other
    have mine : openHead a s k = some x := (if_neg (by rwa [shut_iff])).trans hx
    have others {z : Token} (hz : openHead a s (1 - k) = some z) : other z := by
      unfold openHead at hz
      split at hz
      · exact absurd hz nofun
      · next hn => exact ⟨by rwa [shut_iff] at hn, hz⟩
    refine ⟨fun he hl => done ?_, fun he ho ht hl hr => goes ?_⟩
    · refine (jJoin_tag hm).trans (jTag_ends (find_openHead (fun z => z.kind == .eos) hk mine (by simp [he]) fun h1 z hz => ?_))
      subst h1
      simpa using hl rfl z (others hz)
    · have hn : (openHeads a s).find? (fun y => y.2.kind == .eos) = none := by
        refine find_noHead (fun z => z.kind == .eos) fun l hl' z hz => ?_
        obtain rfl | rfl : l = k ∨ l = 1 - k := by omega
        · obtain rfl := Option.some.inj (mine.symm.trans hz)
          simpa using he
        · simpa using ho z (others hz)
      refine (jJoin_tag hm).trans (jTag_forwards hn (find_openHead (fun z => z.tag == (a.get s).expect) hk mine (by simpa using ht) fun h1 z hz => ?_) hr)
      subst h1
      simpa using hl rfl z (others hz)

end Sys2Proof.Proofs.Junctions
end

section
/-! PROOFS. Junctions that make or check tokens (R89, R117, R156, R168). -/
namespace Sys2Proof.Proofs.TokenMakers
open Sys2Proof Sys2Proof.Machine
open Sys2Proof.Proofs.Bits Sys2Proof.Proofs.Junctions
set_option Elab.async false

section
variable {a : JAt} {s : State} {x m : Token}

/-! ## Loop generators -/

theorem jLoopgen_takes (hl : (a.get s).loop = none) (hx : a.head s 0 = some x) (hd : x.kind = .data) :
    jLoopgen a s = a.mod (a.pop s 0) fun y => { y with
      loop := some { start := .ofNat 32 (x.lane 0), step := .ofNat 32 (x.lane 2), count := x.lane 1, done := 0 }, endgrp := a.fld s 59 59 == 1 } := by
  simp only [jLoopgen, hl, hx]
  exact if_pos hd
theorem jLoopgen_passes (hl : (a.get s).loop = none) (hx : a.head s 0 = some x) (hd : x.kind ≠ .data) (hr : a.room s 1 = true) :
    jLoopgen a s = a.move s x 0 1 := by
  simp only [jLoopgen, hl, hx]
  exact (if_neg hd).trans (if_pos hr)
section
variable {l : LoopSt} (hl : (a.get s).loop = some l)
include hl
theorem jLoopgen_gives (hc : l.done < l.count) (hr : a.room s 1 = true) : jLoopgen a s =
    a.mod (a.push s 1 (loopTok l (a.get s).expect)) fun y => { y with expect := y.expect + 1, loop := some { l with done := l.done + 16 } } := by
  simp only [jLoopgen, hl]
  exact (if_pos hc).trans (if_neg (by rw [hr]; nofun))
variable (hc : l.count ≤ l.done)
include hc
theorem jLoopgen_ends (he : (a.get s).endgrp = true) (hr : a.room s 1 = true) : jLoopgen a s =
    a.mod (a.push s 1 (endGroup (a.get s).group (a.get s).expect)) fun y =>
      { y with expect := y.expect + 1, loop := none, endgrp := false, group := y.group + 1 } := by
  simp only [jLoopgen, hl]
  exact (if_neg (Nat.not_lt.mpr hc)).trans ((if_pos he).trans (if_neg (by rw [hr]; nofun)))
theorem jLoopgen_next (he : (a.get s).endgrp = false) : jLoopgen a s = a.mod s fun y => { y with loop := none, group := y.group + 1 } := by
  simp only [jLoopgen, hl]
  exact (if_neg (Nat.not_lt.mpr hc)).trans (if_neg (by rw [he]; nofun))
end
theorem loopTok_lanes (l : LoopSt) (tag : BitVec 6) {i : Nat} (hi : i < 16) : ((loopTok l tag).val i = true ↔ l.done + i < l.count) ∧
    ((loopTok l tag).val i = true → (loopTok l tag).lane i = (l.start.toNat + (l.done + i) * l.step.toNat) % 2 ^ 32) := by
  have hv : (loopTok l tag).val i = decide (l.done + i < l.count) := testBit_bits16 _ hi
  refine ⟨by rw [hv, decide_eq_true_iff], fun h => ?_⟩
  have hd : decide (l.done + i < l.count) = true := hv.symm.trans h
  rw [lane_eq]
  refine (laneFn_div_mod _ hi).trans ?_
  rw [if_pos hd, Nat.mod_mod]
theorem endGroup_lanes (g : Lane) (tag : BitVec 6) : (endGroup g tag).lane 0 = 2 ∧ (endGroup g tag).lane 1 = g.toNat := by
  constructor
  · rw [lane_eq]
    exact (laneData_div_mod [2, g.toNat] (show 0 < 16 by decide)).trans rfl
  · rw [lane_eq]
    exact (laneData_div_mod [2, g.toNat] (show 1 < 16 by decide)).trans (Nat.mod_eq_of_lt g.isLt)

/-! ## Random tokens -/

/-- The next token of a random junction of a region. -/
def randomTok (a : JAt) (s : State) (r : Region) : Token :=
  dataTok (laneData (randomLanes r.seed (a.fld s 59 28) (a.get s).rnd))
    (Config.junctionTag (a.get s).word (a.get s).rnd (laneData (randomLanes r.seed (a.fld s 59 28) (a.get s).rnd)))
theorem jRandom_gives {r : Region} (hr : a.room s 1 = true) (hg : s.region (s.lt a.t a.ph).key = some r) :
    jRandom a s = a.mod (a.push s 1 (randomTok a s r)) fun y => { y with rnd := y.rnd + 1 } := by
  refine (if_neg (by rw [hr]; nofun)).trans ?_
  rw [hg]
  rfl

/-! ## Tag checks -/

section
variable (hx : a.head s 0 = some x)
include hx
theorem jTagchk_passes (hp : (a.get s).pass = true) (hr : a.room s 1 = true) :
    jTagchk a s = a.mod (a.move s x 0 1) fun y => { y with pass := false, expect := x.tag + .ofNat 6 (a.fld s 53 48) } := by
  simp only [jTagchk, hx]
  exact (if_pos hp).trans (if_pos hr)
variable (hp : (a.get s).pass = false)
include hp
theorem jTagchk_control (hk : x.kind = .control) (hr : a.room s 1 = true) : jTagchk a s = a.move s x 0 1 := by
  simp only [jTagchk, hx]
  exact (if_neg (by rw [hp]; nofun)).trans ((if_pos hk).trans (if_pos hr))
variable (hk : x.kind ≠ .control)
include hk
theorem jTagchk_stops (ht : x.tag ≠ (a.get s).expect) : jTagchk a s = a.stop s 0x20 ((a.get s).expect.toNat + 256 * x.tag.toNat) := by
  simp only [jTagchk, hx]
  exact (if_neg (by rw [hp]; nofun)).trans ((if_neg hk).trans (if_pos ht))
theorem jTagchk_forwards (ht : x.tag = (a.get s).expect) (hr : a.room s 1 = true) : jTagchk a s =
    a.mod (a.move s x 0 1) fun y =>
      { y with expect := if x.kind = .eos then .ofNat 6 (a.fld s 59 54) else y.expect + .ofNat 6 (a.fld s 53 48) } := by
  simp only [jTagchk, hx]
  exact (if_neg (by rw [hp]; nofun)).trans ((if_neg hk).trans ((if_neg (not_not.mpr ht)).trans (if_pos hr)))
end

/-! ## Conversion -/

/-- The format that a convert junction takes. -/
def fromType (a : JAt) (s : State) : EType := EType.dec (a.fld s 59 56)
/-- The format that it gives. -/
def toType (a : JAt) (s : State) : EType := EType.dec (a.fld s 55 52)
/-- Elements of a full token. -/
def perTok (a : JAt) (s : State) : Nat := 512 / etWidth (toType a s)
/-- The next token of converted elements, with a tag. -/
def outTok (a : JAt) (s : State) (tag : BitVec 6) : Token := packElems (etWidth (toType a s)) ((a.get s).cbuf.take (perTok a s)) tag
/-- Its tag. -/
def outTag (a : JAt) (s : State) : BitVec 6 := Config.junctionTag (a.get s).word (a.get s).rnd (outTok a s 0).data
/-- A token of converted elements has gone out. -/
def emitted (a : JAt) (s : State) : State :=
  a.mod (a.push s 1 (outTok a s (outTag a s))) fun y => { y with cbuf := y.cbuf.drop (perTok a s), rnd := y.rnd + 1 }
theorem jConvert_full (hn : perTok a s ≤ (a.get s).cbuf.length) (hr : a.room s 1 = true) : jConvert a s = emitted a s :=
  (if_pos hn).trans (if_pos hr)
section
variable (hn : (a.get s).cbuf.length < perTok a s)
include hn
theorem jConvert_waits (hm : (a.get s).rmode = 4) (hr : a.head s 2 = none) : jConvert a s = s := by
  refine (if_neg (Nat.not_le.mpr hn)).trans ?_
  simp only [hm, hr]
  rfl

/-- A random token stands where the junction's mode needs one. -/
def Fed (a : JAt) (s : State) : Prop := (a.get s).rmode = 4 → (a.head s 2).isSome = true
/-- The element that a head's k-th one, of bits b, is converted to. -/
def elementOf (a : JAt) (s : State) (x r : Token) (b k : Nat) : CElem :=
  let sr := (a.get s).rmode == 4
  let v := if sr && srRefused (fromType a s) (toType a s) then (Config.srFree b (rndWord r k)).toNat % 2 ^ etWidth (toType a s)
    else convert (fromType a s) (toType a s) (a.get s).rmode.toNat (if sr then rndWord r k else 0) (a.get s).sat false false b
  ⟨v, (elemLanes (etWidth (fromType a s)) k).any x.pois⟩
/-- The elements that a head's valid ones are converted to, as the junction finds them. -/
def foundEls (a : JAt) (s : State) (x r : Token) : List CElem :=
  (elems (etWidth (fromType a s)) x.data).zipIdx.filterMap fun (b, k) =>
    if (elemLanes (etWidth (fromType a s)) k).all x.val then some (elementOf a s x r b k) else none
/-- What a convert junction with no full token makes of a head. -/
def convertHead (a : JAt) (s : State) (x : Token) : TokKind → State
  | .data =>
    match if (a.get s).rmode == 4 then a.head s 2 else some {} with
    | none => s
    | some r =>
      a.mod (if (a.get s).rmode == 4 then a.pop (a.pop s 0) 2 else a.pop s 0) fun y => { y with cbuf := y.cbuf ++ foundEls a s x r }
  | .eos => if !a.room s 1 then s else if (a.get s).cbuf.isEmpty then a.move s x 0 1 else emitted a s
  | _ =>
    if ctlCode x = some 3 then
      match a.head s 3 with
      | none => s
      | some m =>
        if ctlCode m ≠ some 4 then s
        else if 4 < m.lane 1 % 8 then a.stop s 0x21 (m.lane 1 % 8)
        else a.mod (a.pop (a.pop s 0) 3) fun y => { y with rmode := .ofNat 3 (m.lane 1), sat := (m.lane 1).testBit 3 }
    else if a.room s 1 then a.move s x 0 1 else s
variable (hf : Fed a s) (hx : a.head s 0 = some x)
include hf hx
theorem jConvert_head : jConvert a s = convertHead a s x x.kind := by
  have hw : ((a.get s).rmode == 4 && (a.head s 2).isNone) = false := by
    cases hm : (a.get s).rmode == 4 with
    | false => rfl
    | true =>
      have := hf (beq_iff_eq.mp hm)
      cases h : a.head s 2 with
      | none => rw [h] at this; exact absurd this nofun
      | some r => rfl
  refine (if_neg (Nat.not_le.mpr hn)).trans ?_
  dsimp only
  rw [hw, hx, if_neg Bool.false_ne_true]
  dsimp only
  cases x.kind <;> rfl
theorem jConvert_eos (hk : x.kind = .eos) (hr : a.room s 1 = true) :
    jConvert a s = if (a.get s).cbuf = [] then a.move s x 0 1 else emitted a s := by
  rw [jConvert_head hn hf hx, hk]
  exact (if_neg (by rw [hr]; nofun)).trans (if_congr List.isEmpty_iff rfl rfl)
theorem jConvert_passes (hk : x.kind = .control) (hc : x.lane 0 % 256 ≠ 3) (hr : a.room s 1 = true) : jConvert a s = a.move s x 0 1 := by
  rw [jConvert_head hn hf hx, hk]
  exact (if_neg fun h => hc ((ctlCode_iff x 3).mp h).2).trans (if_pos hr)
theorem jConvert_sync (hk : x.kind = .control) (hc : x.lane 0 % 256 = 3) (hm : a.head s 3 = some m) (hmk : m.kind = .control)
    (hmc : m.lane 0 % 256 = 4) : jConvert a s = if 4 < m.lane 1 % 8 then a.stop s 0x21 (m.lane 1 % 8)
      else a.mod (a.pop (a.pop s 0) 3) fun y => { y with rmode := .ofNat 3 (m.lane 1), sat := (m.lane 1).testBit 3 } := by
  rw [jConvert_head hn hf hx, hk]
  refine (if_pos ((ctlCode_iff x 3).mpr ⟨hk, hc⟩)).trans ?_
  rw [hm]
  exact if_neg (not_not.mpr ((ctlCode_iff m 4).mpr ⟨hmk, hmc⟩))
/-- A converted element, from a random token in stochastic mode. -/
def convertedEl (a : JAt) (s : State) (x r : Token) (i : Nat) : CElem :=
  { bits := convert (fromType a s) (toType a s) (a.get s).rmode.toNat (if (a.get s).rmode = 4 then rndWord r i else 0) (a.get s).sat false false
      (x.elem (etWidth (fromType a s)) i)
    poison := (elemLanes (etWidth (fromType a s)) i).any x.pois }
/-- The elements that a head's valid ones are converted to. -/
def convertedEls (a : JAt) (s : State) (x r : Token) : List CElem :=
  ((List.range (512 / etWidth (fromType a s))).filter fun i => (elemLanes (etWidth (fromType a s)) i).all x.val).map (convertedEl a s x r)
omit hn hf hx in
/-- A walk over a list with its places, as one over the places. -/
theorem zipIdx_filterMap {α : Type} (g : Nat → Nat) (n : Nat) (p : Nat → Bool) (h : Nat → Nat → α) :
    (((List.range n).map g).zipIdx.filterMap fun (b, k) => if p k then some (h b k) else none) =
      ((List.range n).filter p).map fun k => h (g k) k := by
  have hz : ((List.range n).map g).zipIdx = (List.range n).map fun k => (g k, k) := by
    refine List.ext_getElem (by simp) fun i hi _ => by simp
  rw [hz, List.filterMap_map, ← List.filterMap_eq_filter, List.map_filterMap]
  refine List.filterMap_congr fun k _ => ?_
  simp only [Function.comp, Option.guard]
  by_cases hp : p k = true <;> simp [hp]
omit hn hf hx in
theorem foundEls_eq {r q : Token} (hs : (a.get s).rmode = 4 → srRefused (fromType a s) (toType a s) = false)
    (hq : (a.get s).rmode = 4 → q = r) : foundEls a s x q = convertedEls a s x r := by
  unfold foundEls convertedEls elems
  rw [chunks_eq_map]
  refine (zipIdx_filterMap _ _ (fun i => (elemLanes (etWidth (fromType a s)) i).all x.val) (elementOf a s x q)).trans (List.map_congr_left fun i _ => ?_)
  unfold elementOf convertedEl
  dsimp only
  by_cases hm : (a.get s).rmode = 4
  · rw [hs hm, hq hm, hm]
    rfl
  · rw [beq_false_of_ne hm, if_neg hm]
    rfl
theorem jConvert_data {r : Token} (hk : x.kind = .data) (hr : (a.get s).rmode = 4 → a.head s 2 = some r)
    (hs : (a.get s).rmode = 4 → srRefused (fromType a s) (toType a s) = false) : jConvert a s =
      a.mod (if (a.get s).rmode = 4 then a.pop (a.pop s 0) 2 else a.pop s 0) fun y => { y with cbuf := y.cbuf ++ convertedEls a s x r } := by
  rw [jConvert_head hn hf hx, hk]
  unfold convertHead
  by_cases hm : (a.get s).rmode = 4
  · rw [if_pos (beq_iff_eq.mpr hm), if_pos (beq_iff_eq.mpr hm), if_pos hm, hr hm, ← foundEls_eq hs fun _ => rfl]
  · rw [if_neg (by simpa using hm), if_neg (by simpa using hm), if_neg hm, ← foundEls_eq (q := {}) hs fun h => absurd h hm]
end
end

theorem claim_junctionsMakeTokens : Claims.JunctionsMakeTokens := by
  intro s t ph j x a y
  refine ⟨fun h => ?_, fun r h hr hg => ?_, fun h => ?_, fun h hx => ?_⟩
  · intro gives
    have goes {u : State} (hu : jLoopgen a s = u) : gives u := (junction_fires jLoopgen h rfl).trans (congrArg _ hu)
    refine ⟨fun hl hx hd => goes (jLoopgen_takes hl hx hd), fun hl hx hd hr => goes (jLoopgen_passes hl hx hd hr), fun l hl =>
      ⟨fun hc hr => ⟨loopTok l y.expect, goes (jLoopgen_gives hl hc hr), rfl, rfl, fun i hi => loopTok_lanes l y.expect hi⟩,
        fun hc he hr => ⟨endGroup y.group y.expect, goes (jLoopgen_ends hl hc he hr), rfl, rfl, endGroup_lanes y.group y.expect⟩,
        fun hc he => goes (jLoopgen_next hl hc he)⟩⟩
  · refine ⟨randomTok a s r, (junction_fires jRandom h rfl).trans (congrArg _ (jRandom_gives hr hg)), rfl, rfl, rfl, rfl, fun i hi => ?_⟩
    rw [lane_eq]
    exact laneData_div_mod _ hi
  · intro gives f e n sr full
    have goes {u : State} (hu : jConvert a s = u) : gives u := (junction_fires jConvert h rfl).trans (congrArg _ hu)
    have emits (hu : jConvert a s = emitted a s) : full := ⟨outTag a s, goes hu, rfl⟩
    refine ⟨fun hn hr => emits (jConvert_full hn hr), fun hn => ⟨fun hm hr => (goes (jConvert_waits hn hm hr)).trans (fired_same a s),
      fun r hr hx => ?_⟩⟩
    have hf : Fed a s := fun hm => by rw [hr hm]; rfl
    refine ⟨fun hk hs => ⟨convertedEls a s x r, goes (jConvert_data hn hf hx hk hr hs), rfl⟩, fun hk hr => ⟨fun hc => goes ?_, fun hc => emits ?_⟩,
      fun hk hc hr => goes (jConvert_passes hn hf hx hk hc hr), fun m hk hc hm hmk hmc => ⟨fun hl => goes ?_, fun hl => goes ?_⟩⟩
    · exact (jConvert_eos hn hf hx hk hr).trans (if_pos hc)
    · exact (jConvert_eos hn hf hx hk hr).trans (if_neg hc)
    · exact (jConvert_sync hn hf hx hk hc hm hmk hmc).trans (if_neg (Nat.not_lt.mpr hl))
    · exact (jConvert_sync hn hf hx hk hc hm hmk hmc).trans (if_pos hl)
  · intro gives step
    have goes {u : State} (hu : jTagchk a s = u) : gives u := (junction_fires jTagchk h rfl).trans (congrArg _ hu)
    exact ⟨fun hp hk => ⟨fun ht hr => goes (jTagchk_forwards hx hp hk ht hr), fun ht => goes (jTagchk_stops hx hp hk ht)⟩,
      fun hp hk hr => goes (jTagchk_control hx hp hk hr), fun hp hr => goes (jTagchk_passes hx hp hr)⟩

/-- Settles O34: what each kind of junction does with its heads, and the tokens that it makes. -/
theorem junctionsFollowTheirKind : Obligations.JunctionsFollowTheirKind :=
  ⟨claim_junctionsForwardTokens, claim_joinsTakeTheirHeads, claim_junctionsMakeTokens⟩

end Sys2Proof.Proofs.TokenMakers
end

section
/-! PROOFS. The two phases of a commit (R317, R320, R344, R346, R347). -/
namespace Sys2Proof.Proofs.Commits
open Sys2Proof Sys2Proof.Machine
set_option Elab.async false

/-! ## The fields of a request -/

theorem toNat_fld (x lo n : Nat) : (BitVec.ofNat n (x / 2 ^ lo % 2 ^ n)).toNat = x / 2 ^ lo % 2 ^ n := by
  rw [BitVec.toNat_ofNat, Nat.mod_mod]
theorem fld_eq (x lo n : Nat) (hn : 0 < n) : fld x (lo + n - 1) lo = x / 2 ^ lo % 2 ^ n := by
  rw [fld, show lo + n - 1 + 1 - lo = n by omega]
theorem commitReq_fields (x : Nat) : (commitReq x).1.desc = .ofNat 512 x ∧ (commitReq x).1.rg.toNat = x / 2 ^ 512 % 2 ^ 16 ∧
    (commitReq x).1.gen.toNat = x / 2 ^ 544 % 2 ^ 32 ∧ (commitReq x).1.ctx.toNat = x / 2 ^ 576 % 2 ^ 64 ∧
    (commitReq x).1.route = x / 2 ^ 640 % 2 ^ 64 := by
  unfold commitReq
  dsimp only
  rw [fld_eq x 512 16 (by decide), fld_eq x 544 32 (by decide), fld_eq x 576 64 (by decide), fld_eq x 640 64 (by decide),
    toNat_fld, toNat_fld, toNat_fld]
  exact ⟨rfl, rfl, rfl, rfl, rfl⟩
theorem commitReq_form (x : Nat) : (commitReq x).2 = true ↔ x / 2 ^ 528 % 2 ^ 16 = 0 ∧ x / 2 ^ 704 % 2 ^ 320 = 0 := by
  unfold commitReq
  dsimp only
  rw [fld_eq x 528 16 (by decide), fld_eq x 704 320 (by decide), Bool.and_eq_true, beq_iff_eq, beq_iff_eq]

/-! ## The first phase -/

/-- A request waits with its partition. -/
def putOff (s : State) (p : PartId) (ipa : BitVec 64) : State := s.modPart p fun y => { y with commits := y.commits ++ [ipa] }
/-- Circuits of the graph that an image gives a descriptor, at a fold. -/
def circuitsIn (i : Img) (d : BitVec 512) (fold : BitVec 2) : Nat :=
  (i.graph d).elim 0 fun y => circCount ((y.2.filter fun z => z.1.applies fold).map (·.1))
/-- An image's reading was held by an MIT. -/
def held (i : Img) : Bool := match i.cut with | some .waits => true | _ => false
theorem held_iff (i : Img) : held i = true ↔ i.cut = some .waits := by
  unfold held
  split
  · simp [*]
  · next h => exact ⟨nofun, fun e => absurd e (h ·)⟩
/-- What a request comes to whose image has been read. -/
def planned (u : State) (p : PartId) (q : CommitReq) (fold : BitVec 2) (ents : List (Nat × BitVec 2 × Nat)) (i : Img) : State :=
  match u.planCommit p q fold ents i with
  | .error e => u.failCommit p q ((i.graph q.desc).elim 0 (·.1.id)) e
  | .ok r => { u with regions := u.regions ++ [r], newId := u.newId + 1 }

/-- What a request that has been read comes to. -/
def commitGoes (s : State) (p : PartId) (ipa : BitVec 64) (q : CommitReq) (form : Bool) : State :=
  if descBadForm q.desc then s.failCommit p q 0 (.refuse 1)
  else if !s.slotsServed p then putOff s p ipa
  else match s.bindEnts p q.rg q.gen with
    | .error f => s.failCommit p q 0 (.trans f 0)
    | .ok ents =>
      match if form then foldOf ents else none with
      | none => s.failCommit p q 0 (.bad 0)
      | some fold =>
        if !s.bindsOk p fold ents then s.failCommit p q 0 (.bad 0)
        else if held (s.readImage p q.desc).1 ||
            !(s.readImage p q.desc).2.routesServed p q.route (circuitsIn (s.readImage p q.desc).1 q.desc fold) then putOff s p ipa
        else planned (s.readImage p q.desc).2 p q fold ents (s.readImage p q.desc).1

section
variable {s : State} {p : PartId} {ipa : BitVec 64}
theorem commitRequest_dead (h : (s.part p).live = false) : execCommitRequest p ipa s = .next s :=
  congrArg Host.Outcome.next (if_pos (by rw [h]; rfl))
theorem commitRequest_live (h : (s.part p).live = true) : execCommitRequest p ipa s = .next (s.commitAt p ipa) :=
  congrArg Host.Outcome.next (if_neg (by rw [h]; nofun))
theorem commitAt_held (h : s.ipaServed p ipa.toNat 128 = false) : s.commitAt p ipa = putOff s p ipa := if_pos (by rw [h]; rfl)
section
variable (hs : s.ipaServed p ipa.toNat 128 = true)
include hs
theorem commitAt_unread {f : Flt} (h : s.ipaNum p ipa.toNat 128 = .error f) :
    s.commitAt p ipa = (s.postAny p { kind := f.kind, gen := 12, aux := f.aux, va := ipa }).2 := by
  refine (if_neg (by rw [hs]; nofun)).trans ?_
  rw [h]
end
variable {q : CommitReq} {form : Bool}
theorem commit_malformed (h : descBadForm q.desc = true) : commitGoes s p ipa q form = s.failCommit p q 0 (.refuse 1) := if_pos h
section
variable (hd : descBadForm q.desc = false)
include hd
theorem commit_slotsHeld (h : s.slotsServed p = false) : commitGoes s p ipa q form = putOff s p ipa :=
  (if_neg (ne_true_of_eq_false hd)).trans (if_pos (by rw [h]; rfl))
variable (ht : s.slotsServed p = true)
include ht
theorem commit_noBinds {f : Flt} (h : s.bindEnts p q.rg q.gen = .error f) : commitGoes s p ipa q form = s.failCommit p q 0 (.trans f 0) := by
  refine (if_neg (ne_true_of_eq_false hd)).trans ((if_neg (by rw [ht]; nofun)).trans ?_)
  rw [h]
variable {ents : List (Nat × BitVec 2 × Nat)} (he : s.bindEnts p q.rg q.gen = .ok ents)
include he
theorem commit_bad (h : form = false ∨ foldOf ents = none) : commitGoes s p ipa q form = s.failCommit p q 0 (.bad 0) := by
  have hf : (if form then foldOf ents else none) = none := by
    obtain h | h := h
    · rw [if_neg (ne_true_of_eq_false h)]
    · rw [h, ite_self]
  refine (if_neg (ne_true_of_eq_false hd)).trans ((if_neg (by rw [ht]; nofun)).trans ?_)
  rw [he]
  dsimp only
  rw [hf]
variable {fold : BitVec 2} (hr : form = true) (hf : foldOf ents = some fold)
include hr hf
/-- A request whose bind records have been read, and whose layout is right. -/
theorem commit_folds : commitGoes s p ipa q form = if !s.bindsOk p fold ents then s.failCommit p q 0 (.bad 0)
    else if held (s.readImage p q.desc).1 ||
        !(s.readImage p q.desc).2.routesServed p q.route (circuitsIn (s.readImage p q.desc).1 q.desc fold) then putOff s p ipa
    else planned (s.readImage p q.desc).2 p q fold ents (s.readImage p q.desc).1 := by
  refine (if_neg (ne_true_of_eq_false hd)).trans ((if_neg (by rw [ht]; nofun)).trans ?_)
  rw [he]
  dsimp only
  rw [if_pos hr, hf]
theorem commit_unfit (h : s.bindsOk p fold ents = false) : commitGoes s p ipa q form = s.failCommit p q 0 (.bad 0) :=
  (commit_folds hd ht he hr hf).trans (if_pos (by rw [h]; rfl))
variable (hb : s.bindsOk p fold ents = true) {i : Img} {u : State} (hi : s.readImage p q.desc = (i, u))
include hb hi
theorem commit_reads : commitGoes s p ipa q form =
    if held i || !u.routesServed p q.route (circuitsIn i q.desc fold) then putOff s p ipa else planned u p q fold ents i := by
  refine (commit_folds hd ht he hr hf).trans ((if_neg (by rw [hb]; nofun)).trans ?_)
  rw [hi]
theorem commit_waits (h : i.cut = some .waits ∨ u.routesServed p q.route (circuitsIn i q.desc fold) = false) :
    commitGoes s p ipa q form = putOff s p ipa :=
  (commit_reads hd ht he hr hf hb hi).trans (if_pos (by rw [← held_iff] at h; simpa using h))
theorem commit_plans (h : ¬ (i.cut = some .waits ∨ u.routesServed p q.route (circuitsIn i q.desc fold) = false)) :
    commitGoes s p ipa q form = planned u p q fold ents i :=
  (commit_reads hd ht he hr hf hb hi).trans (if_neg (by rw [← held_iff] at h; simpa using h))
end
end

theorem planned_error {u : State} {p : PartId} {q : CommitReq} {fold : BitVec 2} {ents : List (Nat × BitVec 2 × Nat)} {i : Img} {e : CommitErr}
    (h : u.planCommit p q fold ents i = .error e) : planned u p q fold ents i = u.failCommit p q ((i.graph q.desc).elim 0 (·.1.id)) e := by
  rw [planned, h]
theorem planned_ok {u : State} {p : PartId} {q : CommitReq} {fold : BitVec 2} {ents : List (Nat × BitVec 2 × Nat)} {i : Img} {r : Region}
    (h : u.planCommit p q fold ents i = .ok r) :
    planned u p q fold ents i = { u with regions := u.regions ++ [r], newId := u.newId + 1 } := by
  rw [planned, h]
theorem unfolded {form : Bool} {ents : List (Nat × BitVec 2 × Nat)} (h : (if form then foldOf ents else none) = none) :
    form = false ∨ foldOf ents = none := by
  cases form with
  | false => exact .inl rfl
  | true => exact .inr h
theorem folded {form : Bool} {ents : List (Nat × BitVec 2 × Nat)} {fold : BitVec 2} (h : (if form then foldOf ents else none) = some fold) :
    form = true ∧ foldOf ents = some fold := by
  cases form with
  | false => cases h
  | true => exact ⟨rfl, h⟩
theorem commitAt_read {s : State} {p : PartId} {ipa : BitVec 64} (hs : s.ipaServed p ipa.toNat 128 = true) {x : Nat} (hx : s.ipaNum p ipa.toNat 128 = .ok x) :
    s.commitAt p ipa = commitGoes s p ipa (commitReq x).1 (commitReq x).2 := by
  refine (if_neg (by rw [hs]; nofun)).trans ?_
  split
  · next f hf => rw [hx] at hf; cases hf
  next y hy =>
  obtain rfl : x = y := Except.ok.inj (hx.symm.trans hy)
  split
  next q form hq =>
  rw [hq]
  by_cases hd : descBadForm q.desc = true
  · exact (if_pos hd).trans (commit_malformed hd).symm
  refine (if_neg hd).trans ?_
  rw [Bool.not_eq_true] at hd
  cases ht : s.slotsServed p
  · exact (if_pos rfl).trans (commit_slotsHeld hd ht).symm
  refine (if_neg nofun).trans ?_
  split
  · next f he => exact (commit_noBinds hd ht he).symm
  next ents he =>
  split
  · next hf => exact (commit_bad hd ht he (unfolded hf)).symm
  next fold hf =>
  obtain ⟨hr, hf⟩ := folded hf
  cases hb : s.bindsOk p fold ents
  · exact (if_pos rfl).trans (commit_unfit hd ht he hr hf hb).symm
  refine (if_neg nofun).trans ?_
  split
  next i u hi =>
  refine Eq.trans ?_ (commit_reads hd ht he hr hf hb hi).symm
  refine if_congr Iff.rfl rfl ?_
  split
  · next hp => exact (planned_error hp).symm
  · next hp => exact (planned_ok hp).symm

/-- The fields of a region that a plan gives. -/
theorem planCommit_ok {u : State} {p : PartId} {q : CommitReq} {fold : BitVec 2} {ents : List (Nat × BitVec 2 × Nat)} {i : Img} {r : Region}
    (h : u.planCommit p q fold ents i = .ok r) : r.st = .fetched ∧ r.part = p ∧ r.id = q.rg ∧ r.gen = q.gen ∧ r.ctxIpa = q.ctx ∧
      r.key = u.newId + 1 ∧ r.fold = fold ∧ r.binds = ents.map bindOf := by
  unfold State.planCommit at h
  split at h
  · cases h
  · dsimp only at h
    split at h
    · cases h
    split at h
    · cases h
    split at h
    · cases h
    split at h
    · cases h
    split at h
    · cases h
    split at h
    · cases h
    split at h
    · cases h
    split at h
    · cases h
    cases h
    exact ⟨rfl, rfl, rfl, rfl, rfl, rfl, rfl, rfl⟩

theorem claim_commitRequestsAreFetched : Claims.CommitRequestsAreFetched := by
  intro s p ipa later
  refine ⟨commitRequest_dead, fun hl h => (commitRequest_live hl).trans (congrArg _ (commitAt_held h)), fun hl hs => ?_⟩
  have goes {v : State} (h : s.commitAt p ipa = v) : exec (.commitRequest p ipa) s = .next v := (commitRequest_live hl).trans (congrArg _ h)
  refine ⟨fun f h => goes (commitAt_unread hs h), fun x hx => ?_⟩
  obtain ⟨h1, h2, h3, h4, h5⟩ := commitReq_fields x
  refine ⟨h1, h2, h3, h4, h5, commitReq_form x, ?_⟩
  have read := commitAt_read hs hx
  generalize commitReq x = y at read ⊢
  obtain ⟨q, form⟩ := y
  replace goes {v : State} (h : commitGoes s p ipa q form = v) : exec (.commitRequest p ipa) s = .next v := goes (read.trans h)
  refine ⟨fun hd => goes (commit_malformed hd), fun hd ht => goes (commit_slotsHeld hd ht),
    fun hd ht => ⟨fun f h => goes (commit_noBinds hd ht h), fun ents he => ⟨fun h => goes (commit_bad hd ht he h), fun fold hr hf =>
      ⟨fun hb => goes (commit_unfit hd ht he hr hf hb), fun hb i u hi => ?_⟩⟩⟩⟩
  intro circs waits
  refine ⟨fun h => goes (commit_waits hd ht he hr hf hb hi h), fun h => ?_⟩
  have plan := goes (commit_plans hd ht he hr hf hb hi h)
  unfold planned at plan
  dsimp only
  cases hc : u.planCommit p q fold ents i with
  | ok r =>
    rw [hc] at plan
    exact ⟨plan, planCommit_ok hc⟩
  | error e =>
    rw [hc] at plan
    exact plan

/-! ## The second phase -/

section
variable {s : State} {rg : Nat} {r : Region} (hr : s.region rg = some r)
include hr
theorem fetchPhase2_stays (h : r.st ≠ .fetched ∨ s.tilesFree r = false) : execFetchPhase2 rg s = .next s := by
  unfold execFetchPhase2
  rw [hr]
  exact congrArg Host.Outcome.next (if_pos (by simpa using h))
variable (hf : r.st = .fetched) (ht : s.tilesFree r = true) {i : Img} {u : State} (hi : s.readImage r.part r.desc = (i, u))
include hf ht hi
/-- What a second phase whose image has been read comes to. -/
def placed (u : State) (rg : Nat) (r : Region) (i : Img) : Option CommitErr → State
  | some e => State.failCommit { u.zeroTiles r with regions := (u.zeroTiles r).regions.filter fun y => y.key != rg } r.part
      { desc := r.desc, rg := r.id, gen := r.gen, ctx := r.ctxIpa, route := 0 } r.graph e
  | none => (u.takeDesc r.part r.desc).2.placeOr { r with prio := (u.takeDesc r.part r.desc).1 }
      (((i.graph r.desc).elim [] fun y => y.2.map (·.1)).filter fun y => y.applies r.fold)
theorem fetchPhase2_reads : execFetchPhase2 rg s = .next (if held i then s else placed u rg r i (u.phase2Bad r i)) := by
  unfold execFetchPhase2
  rw [hr]
  refine congrArg Host.Outcome.next ((if_neg (by simp [hf, ht])).trans ?_)
  unfold placed
  generalize s.readImage r.part r.desc = y at hi ⊢
  subst hi
  dsimp only
  generalize u.takeDesc r.part r.desc = z
  by_cases h : held i = true
  · exact (if_pos h).trans (if_pos h).symm
  refine (if_neg h).trans (Eq.trans ?_ (if_neg h).symm)
  cases u.phase2Bad r i <;> rfl
theorem fetchPhase2_waits (h : i.cut = some .waits) : execFetchPhase2 rg s = .next s :=
  (fetchPhase2_reads hr hf ht hi).trans (congrArg _ (if_pos ((held_iff i).mpr h)))
theorem fetchPhase2_goes (h : i.cut ≠ some .waits) : execFetchPhase2 rg s = .next (placed u rg r i (u.phase2Bad r i)) :=
  (fetchPhase2_reads hr hf ht hi).trans (congrArg _ (if_neg (mt (held_iff i).mp h)))
end
theorem placeOr_place {s : State} {r : Region} (recs : List ImgRec) (h : ¬ ((s.snapFor r).isSome = true ∧ s.ctxLost r = true)) :
    s.placeOr r recs = s.place r recs := if_neg (by simpa using h)
theorem placeOr_lost {s : State} {r : Region} (recs : List ImgRec) (h : (s.snapFor r).isSome = true ∧ s.ctxLost r = true) :
    s.placeOr r recs = State.rollFail { s with snaps := s.snaps.filter fun x => !(x.1 == r.part && x.2.1 == r.ctxIpa) } r 0x33 :=
  if_pos (by simpa using h)

theorem claim_fetchedRegionsArePlaced : Claims.FetchedRegionsArePlaced := by
  intro s rg r hr q
  refine ⟨fetchPhase2_stays hr, fun hf ht i u hi => ⟨fetchPhase2_waits hr hf ht hi, fun hn => ⟨fun e he => ?_, fun he => ?_⟩⟩⟩
  · exact (fetchPhase2_goes hr hf ht hi hn).trans (by rw [he]; rfl)
  · intro v z lost
    have goes {w : State} (h : v.placeOr z (((i.graph r.desc).elim [] fun y => y.2.map (·.1)).filter fun y => y.applies r.fold) = w) :
        exec (.fetchPhase2 rg) s = .next w :=
      (fetchPhase2_goes hr hf ht hi hn).trans (by rw [he]; exact congrArg _ h)
    exact ⟨fun h => goes (placeOr_place _ h), fun h => goes (placeOr_lost _ h)⟩

/-- Settles O38: the checks of a request in their order, and the outcomes of the second phase. -/
theorem commitsTakeTwoPhases : Obligations.CommitsTakeTwoPhases := ⟨claim_commitRequestsAreFetched, claim_fetchedRegionsArePlaced⟩

end Sys2Proof.Proofs.Commits
end

section
/-! PROOFS. Eviction, spills and recomputes of the Penumbra (R298 to R305). -/
namespace Sys2Proof.Proofs.Penumbra
open Sys2Proof Sys2Proof.Machine Sys2Proof.Proofs.Bits Sys2Proof.Proofs.Ranked
set_option Elab.async false

/-! ## Eviction -/

/-- Eviction is due at a partition, with no spill in progress. -/
def Due (s : State) (p : PartId) : Prop := s.evictDue p = true ∧ s.spilling p = false
theorem not_due_iff (s : State) (p : PartId) : (!s.evictDue p || s.spilling p) = true ↔ ¬ Due s p := by
  unfold Due
  cases s.evictDue p <;> cases s.spilling p <;> simp
theorem evictDue_disabled {s : State} {p : PartId} (h : (s.part p).penctl.getLsbD 0 = false) : s.evictDue p = false := by
  unfold State.evictDue
  dsimp only
  rw [h, Bool.false_and]

section
variable {s : State} {f : FrameKey} {v : Nat} {x : Ver} (hx : (s.frame f).ver v = some x)
include hx
theorem evictDrop_eq : execEvictDrop f v s = .next (if !s.evictDue f.part || s.spilling f.part || !s.wouldDrop (s.frame f) x then s
    else s.modVer f v fun x => { x with st := .dropped, slot := none, data := [], pois := [] }) := by
  unfold execEvictDrop
  dsimp only
  rw [hx]
theorem evictDrop_drops (hd : Due s f.part) (hw : s.wouldDrop (s.frame f) x = true) :
    execEvictDrop f v s = .next (s.modVer f v fun x => { x with st := .dropped, slot := none, data := [], pois := [] }) :=
  (evictDrop_eq hx).trans (congrArg _ (if_neg (by rw [hd.1, hd.2, hw]; nofun)))
theorem evictDrop_stays (h : ¬ Due s f.part ∨ s.wouldDrop (s.frame f) x = false) : execEvictDrop f v s = .next s := by
  rw [← not_due_iff] at h
  exact (evictDrop_eq hx).trans (congrArg _ (if_pos (by simpa only [Bool.or_eq_true, Bool.not_eq_true'] using h)))

theorem spillAck_eq (hr : x.st = .resident) (hp : x.spill.isSome = true) : execSpillAck f v s = .next (if evictable (s.frame f) { x with spill := none }
    then s.modVer f v fun x => { x with st := .spilled, slot := none, spillIds := [] }
    else s.modVer f v fun x => { x with spill := none, spillIds := [] }) := by
  unfold execSpillAck State.spillDone
  dsimp only
  rw [hx]
  exact congrArg Host.Outcome.next (if_neg (by rw [hr, Option.isNone_eq_false_iff.mpr hp]; simp))
end

/-- What a spill comes to that nothing holds back. -/
def spillGoes (s : State) (f : FrameKey) (v : Nat) (x : Ver) (place : BitVec 16 × Nat) : State :=
  if !s.winServed f.part (vaOf place.1 (off48 place.2)) then s
  else match s.spillTarget f.part place .wr with
  | .error t => s.spillFault f v t
  | .ok (a, w, off) =>
    match s.sendCopy f.part a w off x.bytes 16 with
    | none => s.spillFault f v ⟨0x0B, 0⟩
    | some (ids, u) => u.modVer f v fun x => { x with spill := some place, spillIds := ids, spillVia := s.upPort.getD 0 }
section
variable {s : State} {f : FrameKey} {v : Nat} {x : Ver} {place : BitVec 16 × Nat}
theorem spill_unserved (h : s.winServed f.part (vaOf place.1 (off48 place.2)) = false) : spillGoes s f v x place = s := if_pos (by rw [h]; rfl)
variable (hs : s.winServed f.part (vaOf place.1 (off48 place.2)) = true)
include hs
theorem spill_refused {e : Flt} (h : s.spillTarget f.part place .wr = .error e) : spillGoes s f v x place = s.spillFault f v e := by
  refine (if_neg (by rw [hs]; nofun)).trans ?_
  rw [h]
variable {a : Byte} {w : BitVec 16} {off : Nat} (ht : s.spillTarget f.part place .wr = .ok (a, w, off))
include ht
theorem spill_unsent (h : s.sendCopy f.part a w off x.bytes 16 = none) : spillGoes s f v x place = s.spillFault f v ⟨0x0B, 0⟩ := by
  refine (if_neg (by rw [hs]; nofun)).trans ?_
  rw [ht]
  dsimp only
  rw [h]
theorem spill_sent {ids : List Nat} {u : State} (h : s.sendCopy f.part a w off x.bytes 16 = some (ids, u)) : spillGoes s f v x place =
    u.modVer f v fun x => { x with spill := some place, spillIds := ids, spillVia := s.upPort.getD 0 } := by
  refine (if_neg (by rw [hs]; nofun)).trans ?_
  rw [ht]
  dsimp only
  rw [h]
end
section
variable {s : State} {f : FrameKey} {v : Nat} {x : Ver} (hx : (s.frame f).ver v = some x)
include hx
theorem evictSpill_goes (hd : Due s f.part) (hh : s.spillHeld f.part = false) (hw : s.wouldSpill (s.frame f) x = true) :
    execEvictSpill f v s = .next (spillGoes s f v x (s.spillPlace f.part ((s.spillFree f.part).getD 0))) := by
  refine congrArg Host.Outcome.next ?_
  extract_lets fr
  split
  · next h => rw [hx] at h; cases h
  next y hy =>
  obtain rfl := Option.some.inj (hx.symm.trans hy)
  refine (if_neg (by rw [hd.1, hd.2, hh, hw]; nofun)).trans ?_
  cases hs : s.winServed f.part (vaOf (s.spillPlace f.part ((s.spillFree f.part).getD 0)).1
    (off48 (s.spillPlace f.part ((s.spillFree f.part).getD 0)).2))
  · exact (if_pos rfl).trans (spill_unserved hs).symm
  refine (if_neg nofun).trans ?_
  split
  · next ht => exact (spill_refused hs ht).symm
  next ht =>
  split
  · next h => exact (spill_unsent hs ht h).symm
  · next h => exact (spill_sent hs ht h).symm
theorem evictSpill_stays (h : ¬ Due s f.part ∨ s.spillHeld f.part = true ∨ s.wouldSpill (s.frame f) x = false) :
    execEvictSpill f v s = .next s := by
  rw [← not_due_iff, ← or_assoc] at h
  refine congrArg Host.Outcome.next ?_
  extract_lets fr
  split
  · rfl
  next y hy =>
  obtain rfl := Option.some.inj (hx.symm.trans hy)
  exact if_pos (by simpa only [Bool.or_eq_true, Bool.not_eq_true'] using h)
end
theorem sendCopy_length {p : PartId} {a : Byte} {w : BitVec 16} (n : Nat) {s : State} {off : Nat} {d : List (Byte × Bool)} {ids : List Nat}
    {u : State} (h : s.sendCopy p a w off d n = some (ids, u)) : ids.length = n := by
  induction n generalizing s off d ids u with
  | zero =>
    obtain ⟨rfl, -⟩ := Prod.mk.inj (Option.some.inj h)
    rfl
  | succ n ih =>
    rw [State.sendCopy] at h
    split at h
    split at h
    · cases h
    split at h
    · cases h
    next hl =>
    obtain ⟨rfl, -⟩ := Prod.mk.inj (Option.some.inj h)
    rw [List.length_cons, ih hl]

theorem claim_evictionDropsOrSpills : Claims.EvictionDropsOrSpills := by
  intro s f v x hx due
  refine ⟨evictDrop_drops hx, evictDrop_stays hx, fun hd hh hw => ?_, evictSpill_stays hx, evictDue_disabled, spillAck_eq hx⟩
  have goes {u : State} (h : spillGoes s f v x (s.spillPlace f.part ((s.spillFree f.part).getD 0)) = u) : exec (.evictSpill f v) s = .next u :=
    (evictSpill_goes hx hd hh hw).trans (congrArg _ h)
  intro n slot served
  exact ⟨fun h => goes (spill_unserved h), fun e hs h => goes (spill_refused hs h), fun a w off hs ht =>
    ⟨fun h => goes (spill_unsent hs ht h), fun ids u h => ⟨sendCopy_length 16 h, goes (spill_sent hs ht h)⟩⟩⟩

/-! ## Recomputes -/

/-- A request is the first of its tile that may start. -/
def First (s : State) (q : RcReq) : Prop :=
  ∀ z ∈ s.rcReqs.takeWhile (fun z => z.id != q.id), s.rcReady z = false ∨ s.rcTile z ≠ s.rcTile q
theorem first_iff (s : State) (q : RcReq) :
    ((s.rcReqs.takeWhile fun z => z.id != q.id).all fun z => !(s.rcReady z && s.rcTile z == s.rcTile q)) = true ↔ First s q := by
  simp only [First, List.all_eq_true, Bool.not_eq_true', Bool.and_eq_false_iff, beq_eq_false_iff_ne]
/-- A request may start. -/
def MayStart (s : State) (q : RcReq) : Prop :=
  s.rcReady q = true ∧ First s q ∧ (s.tile (s.rcTile q)).rc = none ∧ s.owning (s.rcTile q) = false
theorem mayStart_iff (s : State) (q : RcReq) :
    (!s.rcReady q || !(s.rcReqs.takeWhile fun z => z.id != q.id).all (fun z => !(s.rcReady z && s.rcTile z == s.rcTile q)) ||
      (s.tile (s.rcTile q)).rc.isSome || s.owning (s.rcTile q)) = true ↔ ¬ MayStart s q := by
  rw [MayStart, ← first_iff, ← Option.isNone_iff_eq_none, ← Option.not_isSome]
  generalize List.all _ _ = b
  cases s.rcReady q <;> cases b <;> cases (s.tile (s.rcTile q)).rc.isSome <;> cases s.owning (s.rcTile q) <;> simp

/-- Slot 15 of a tile takes a recompute with a slice's words. -/
def armed (q : RcReq) (r : Recipe) (c : Slice) (ph : BitVec 2) (x : Tile) : Tile :=
  { x.clearRc with
    tasks := vset x.tasks 15 (rcTask r q.frame q.v c.start ph)
    spad := memWrite x.spad 0x7_8000 ((fit (0 : Lane) 2048 c.words).map fun w => leBytes 4 w.toNat).flatten
    marks := x.marks.filter fun a => !decide (0x7_8000 ≤ a ∧ a < 0x7_A000)
    rc := some { frame := q.frame, v := q.v, part := q.frame.part, data := [], cover := [] } }
/-- The fold phase that a recompute runs in. -/
def rcPhase (s : State) (q : RcReq) : BitVec 2 := if (s.tile (s.rcTile q)).ph.toList.any (·.placed) then q.phase else 0
/-- A request's recompute runs. -/
def started (s : State) (q : RcReq) (r : Recipe) (c : Slice) : State :=
  { s.modTile (s.rcTile q) (armed q r c (rcPhase s q)) with
    rcReqs := s.rcReqs.map fun (z : RcReq) => if z.id = q.id then { z with running := true, on := some (s.rcTile q) } else z }

section
variable {s : State} {q : RcReq} (hq : s.rcReqs.find? (fun z => z.id == q.id) = some q)
include hq
theorem recomputeStart_waits (h : ¬ MayStart s q) : execRecomputeStart q.id s = .next s := by
  unfold execRecomputeStart
  rw [hq]
  exact congrArg Host.Outcome.next (if_pos ((mayStart_iff s q).mpr h))
variable (hm : MayStart s q)
include hm
theorem recomputeStart_refused (h : s.rcTileOk q.frame.part (s.rcTile q) = false) {n : BitVec 32 × State}
    (hn : s.post q.frame.part { kind := 0x22, gen := 13, va := .ofNat 64 (q.frame.fr.toNat * 4096), vwin := q.frame.win, ver := .ofNat 32 q.v } = n) :
    execRecomputeStart q.id s = .next (State.addStop { n.2 with
      rcReqs := n.2.rcReqs.map fun (z : RcReq) => if z.id = q.id then { z with held := some n.1 } else z } q.frame.part
        { seq := n.1, kind := 0x22, what := .recompute q.id, rkey := 0 }) := by
  unfold execRecomputeStart
  rw [hq]
  refine congrArg Host.Outcome.next ((if_neg (mt (mayStart_iff s q).mp (not_not.mpr hm))).trans ((if_pos (by rw [h]; rfl)).trans ?_))
  rw [← hn]
  rfl
variable (ho : s.rcTileOk q.frame.part (s.rcTile q) = true) {r : Recipe} {c : Slice}
  (hr : ((s.frame q.frame).ver q.v).bind (·.recipe) = some r) (hc : s.slices.find? (fun c => c.part == q.frame.part && c.id == r.slice) = some c)
include ho hr hc
theorem recomputeStart_starts : execRecomputeStart q.id s = .next (started s q r c) := by
  unfold execRecomputeStart
  rw [hq]
  refine congrArg Host.Outcome.next ((if_neg (mt (mayStart_iff s q).mp (not_not.mpr hm))).trans ((if_neg (by rw [ho]; nofun)).trans ?_))
  rw [hr]
  dsimp only
  rw [hc]
  rfl
end

section
variable (s : State) (q : RcReq) (r : Recipe) (c : Slice)
theorem tile_started : (started s q r c).tile (s.rcTile q) = armed q r c (rcPhase s q) (s.tile (s.rcTile q)) := by
  refine (tile_setTile s _ _ _).trans (if_pos rfl)
theorem task_started : (started s q r c).task (s.rcTile q) 15 = rcTask r q.frame q.v c.start (rcPhase s q) := by
  unfold State.task
  rw [tile_started]
  exact (vget_vset _ _ _ _ _ (by decide)).trans (if_pos rfl)
theorem vget_ofFn {α : Type} {n : Nat} (g : Fin n → α) (d : α) {i : Nat} (h : i < n) : vget (Vector.ofFn g) i d = g ⟨i, h⟩ := by
  simp [vget, h]
/-- Words laid out low byte first read back. -/
theorem word_of_words {m : Mem} (hm : memWf m = true) (a : Nat) {n i : Nat} (hi : i < n) (l : List Lane) :
    leNat (memRead (memWrite m a ((fit (0 : Lane) n l).map fun w => leBytes 4 w.toNat).flatten) (a + 4 * i) 4) = (l.getD i 0).toNat := by
  have len : ∀ y ∈ (fit (0 : Lane) n l).map (fun w => leBytes 4 w.toNat), y.length = 4 := by simp [leBytes_length]
  have place : ((fit (0 : Lane) n l).map fun w => leBytes 4 w.toNat).getD i [] = leBytes 4 (l.getD i 0).toNat := by
    rw [List.getD_eq_getElem?_getD, List.getElem?_map, fit_getElem? 0 l hi]
    rfl
  have read : memRead (memWrite m a ((fit (0 : Lane) n l).map fun w => leBytes 4 w.toNat).flatten) (a + 4 * i) 4 = leBytes 4 (l.getD i 0).toNat := by
    refine List.ext_getElem (by rw [memRead_length, leBytes_length]) fun k hk hk' => ?_
    rw [memRead_length] at hk
    rw [← List.getD_eq_getElem _ 0, ← List.getD_eq_getElem _ 0, memRead_getD _ _ _ _ hk, memGet_write hm,
      if_pos ⟨by omega, by rw [Spill.length_flatten len, List.length_map, fit_length]; omega⟩,
      show a + 4 * i + k - a = i * 4 + k by omega, Spill.getD_flatten len (by rw [List.length_map, fit_length]; exact hi) hk, place]
  rw [read, leNat_leBytes]
  exact Nat.mod_eq_of_lt (l.getD i 0).isLt
theorem wordAt_started (h : Tile.Canon (s.tile (s.rcTile q))) (ph : BitVec 2) {i : Nat} (hi : i < 2048) :
    (started s q r c).wordAt (s.rcTile q) 15 ph i = c.words.getD i 0 := by
  unfold State.wordAt
  dsimp only
  rw [if_pos rfl, tile_started]
  exact BitVec.eq_of_toNat_eq ((congrArg (fun z => (BitVec.ofNat 32 z).toNat) (word_of_words h.1 0x7_8000 hi c.words)).trans
    (by rw [BitVec.ofNat_toNat, BitVec.setWidth_eq]))
end

section
variable (r : Recipe) (f : FrameKey) (v start : Nat) (ph : BitVec 2)
theorem rcTask_g {i : Nat} (h : i < 16) : vget (rcTask r f v start ph).g i {} =
    { val := if i < 4 then vget r.params i 0
        else if i < 8 then (match r.srcs[i - 4]? with | some (_, u) => w64 u | none => 0)
        else if i = 8 then w64 v else if i = 9 then w64 r.srcs.length else 0 } := vget_ofFn _ _ h
theorem rcTask_b {i : Nat} (h : i < 8) : vget (rcTask r f v start ph).b i 0 =
    if i < 4 then (match r.srcs[i]? with | some (k, _) => .ofNat 80 (k.win.toNat * 2 ^ 64 + k.fr.toNat * 4096) | none => 0)
    else if i = 4 then .ofNat 80 (f.win.toNat * 2 ^ 64 + f.fr.toNat * 4096) else 0 := vget_ofFn _ _ h
theorem rcTask_params {j : Nat} (h : j < 4) : vget (rcTask r f v start ph).g j {} = { val := vget r.params j 0, st := .full } := by
  rw [rcTask_g r f v start ph (by omega), if_pos h]
theorem rcTask_versions {j : Nat} (h : j < 4) : (vget (rcTask r f v start ph).g (4 + j) {}).val =
    match r.srcs[j]? with | some (_, n) => .ofNat 64 n | none => 0 := by
  rw [rcTask_g r f v start ph (by omega), if_neg (by omega), if_pos (by omega), Nat.add_sub_cancel_left] <;> rfl
theorem rcTask_frames {j : Nat} (h : j < 4) : vget (rcTask r f v start ph).b j 0 =
    match r.srcs[j]? with | some (k, _) => .ofNat 80 (k.win.toNat * 2 ^ 64 + k.fr.toNat * 4096) | none => 0 := by
  rw [rcTask_b r f v start ph (by omega), if_pos h] <;> rfl
end

theorem claim_recomputeStartsInSlot15 : Claims.RecomputeStartsInSlot15 := by
  intro s q hq t first may
  refine ⟨recomputeStart_waits hq, fun hm h => ?_, fun r c hm ho hr hc hw => ⟨started s q r c, recomputeStart_starts hq hm ho hr hc, ?_⟩⟩
  · intro n
    exact recomputeStart_refused hq hm h rfl
  intro k
  have hk : k = rcTask r q.frame q.v c.start (rcPhase s q) := task_started s q r c
  rw [hk]
  refine ⟨rfl, rfl, rfl, fun j hj => rcTask_params _ _ _ _ _ hj, fun j hj => ?_, ?_, ?_, fun j hj => ?_, ?_,
    fun i hi => wordAt_started s q r c hw _ hi, congrArg Tile.rc (tile_started s q r c), rfl⟩
  · exact rcTask_versions _ _ _ _ _ hj
  · rw [rcTask_g _ _ _ _ _ (by decide)]
    rfl
  · rw [rcTask_g _ _ _ _ _ (by decide)]
    rfl
  · exact rcTask_frames _ _ _ _ _ hj
  · exact (rcTask_b _ _ _ _ _ (by decide)).trans rfl

section
variable {s : State} {t : Nat} {c : Recomp} (hc : (s.tile t).rc = some c)
include hc
theorem recomputeEnd_early (h : (s.task t 15).st ≠ .retired) : execRecomputeEnd t s = .next s := by
  unfold execRecomputeEnd
  rw [hc]
  exact congrArg Host.Outcome.next (if_pos h)
variable (hr : (s.task t 15).st = .retired)
include hr
theorem recomputeEnd_partial (h : c.cover.length ≠ 4096 ∨ (s.tile t).rcWrite.cmds ≠ []) : execRecomputeEnd t s = .next (s.rcFault t 0x1D 0 0) := by
  unfold execRecomputeEnd
  rw [hc]
  exact congrArg Host.Outcome.next ((if_neg (not_not.mpr hr)).trans (if_pos h))
/-- What a whole refill comes to. -/
def refilled (s : State) (t : Nat) (c : Recomp) : State :=
  let u := (s.endRc t).modVer c.frame c.v fun x => { x with st := .resident, slot := c.slot, data := c.data, pois := c.pois }
  State.tryRetire retireFuel (State.unholdAll { u with rcReqs := u.rcReqs.filter fun q => !(q.running && q.on == some t) }
    (((s.rcReqs.find? fun q => q.running && q.on == some t).map (·.holds)).getD [])) c.frame c.v
theorem recomputeEnd_whole (hl : c.cover.length = 4096) (hw : (s.tile t).rcWrite.cmds = []) : execRecomputeEnd t s = .next (refilled s t c) := by
  unfold execRecomputeEnd
  rw [hc]
  exact congrArg Host.Outcome.next ((if_neg (not_not.mpr hr)).trans (if_neg (by simp [hl, hw])))
end
theorem claim_recomputeEndsResident : Claims.RecomputeEndsResident :=
  fun _ _ _ hc => ⟨recomputeEnd_early hc, recomputeEnd_partial hc, recomputeEnd_whole hc⟩

/-- Settles O37: evictions, spills, and the start and end of a recompute. -/
theorem penumbraEvictsAndRecomputes : Obligations.PenumbraEvictsAndRecomputes :=
  ⟨claim_evictionDropsOrSpills, claim_recomputeStartsInSlot15, claim_recomputeEndsResident⟩

end Sys2Proof.Proofs.Penumbra
end

section
/-! PROOFS. Stream commands start, access their elements, push and take tokens, and complete (R97 to R108, R229, R290). -/
namespace Sys2Proof.Proofs.StreamRun
open Sys2Proof Sys2Proof.Machine Sys2Proof.Proofs.Bits Sys2Proof.Proofs.Ranked Sys2Proof.Proofs.MatMoves
set_option Elab.async false

/-! ## Engines and their commands after an update -/

section
variable (s : State) (t : Nat) (e : EngineId) (g h : Engine)
theorem tileEngine_setEngine (x : Tile) : (x.setEngine e g).engine e = g := by
  cases e with
  | eng i => exact vget_vset_self _ i.isLt _ _
  | rcRead => rfl
  | rcWrite => rfl
theorem tileSetEngine_setEngine (x : Tile) : (x.setEngine e g).setEngine e h = x.setEngine e h := by
  cases e with
  | eng i => exact congrArg (fun v => { x with eng := v }) (Registers.vset_vset _ _ _ _)
  | rcRead => rfl
  | rcWrite => rfl
theorem engine_setEngine : (s.setEngine t e g).engine t e = g := by
  unfold State.engine State.setEngine
  rw [modTile_eq, tile_setTile, if_pos rfl]
  exact tileEngine_setEngine e g _
theorem setEngine_setEngine : (s.setEngine t e g).setEngine t e h = s.setEngine t e h :=
  (modTile_modTile ..).trans (congrArg (s.modTile t) (funext fun x => tileSetEngine_setEngine e g h x))
/-- An engine's change leaves what its commands depend on: their partition, and the Prism slots. -/
theorem lt_setEngine (ph : BitVec 2) : (s.setEngine t e g).lt t ph = s.lt t ph := by
  unfold State.lt State.setEngine
  rw [modTile_eq, tile_setTile, if_pos rfl]
  cases e <;> rfl
theorem rc_setEngine : ((s.setEngine t e g).tile t).rc = (s.tile t).rc := by
  unfold State.setEngine
  rw [modTile_eq, tile_setTile, if_pos rfl]
  cases e <;> rfl
theorem cmdPart_setEngine (c : Cmd) : (s.setEngine t e g).cmdPart t c = s.cmdPart t c := by
  unfold State.cmdPart State.partAt
  rw [rc_setEngine, lt_setEngine]
  rfl
theorem cmdKey_setEngine (c : Cmd) : (s.setEngine t e g).cmdKey t c = s.cmdKey t c := by
  unfold State.cmdKey
  rw [lt_setEngine]
theorem setRun_setEngine (r : CmdRun) : (s.setEngine t e g).setRun t e r = s.setEngine t e { g with cur := some r } := by
  unfold State.setRun
  rw [engine_setEngine, setEngine_setEngine]
theorem setRun_setRun (q r : CmdRun) : (s.setRun t e q).setRun t e r = s.setRun t e r := setRun_setEngine s t e _ r
end

/-! ## Start -/

section
variable {s : State} {t : Nat} {e : EngineId} {c : Cmd} {l : List Cmd}
/-- The block that a command's PCB address holds. -/
def pcbAt (s : State) (t : Nat) (c : Cmd) : Vector DWord 8 :=
  Vector.ofFn fun (i : Fin 8) => w64 (leNat (memRead (s.tile t).spad (spAddr (s.tile t).fold c.phase (c.pcb * 64) + 8 * i.val) 8))
theorem pcbAt_word (s : State) (t : Nat) (c : Cmd) {i : Nat} (h : i < 8) : (vget (pcbAt s t c) i 0).toNat =
    leNat (memRead (s.tile t).spad (spAddr (s.tile t).fold c.phase (c.pcb * 64) + 8 * i) 8) := by
  rw [pcbAt, Penumbra.vget_ofFn _ _ h]
  refine (BitVec.toNat_ofNat _ _).trans (Nat.mod_eq_of_lt ?_)
  have lt := leNat_lt (memRead (s.tile t).spad (spAddr (s.tile t).fold c.phase (c.pcb * 64) + 8 * i) 8)
  rwa [memRead_length] at lt

variable (hc : (s.engine t e).cur = none) (hs : (s.engine t e).stop = none)
include hc hs
theorem start_back {r : CmdRun} {b : List CmdRun} (hb : (s.engine t e).back = r :: b) (hr : s.engRuns t r.cmd = true) :
    execStreamCmdStart t e s = .next (s.setEngine t e { s.engine t e with cur := some r, back := b }) := by
  unfold execStreamCmdStart
  dsimp only
  rw [hc, hb]
  exact congrArg Host.Outcome.next (if_neg (by rw [hs, hr]; nofun))
variable (hb : (s.engine t e).back = []) (hw : (s.engine t e).wait = c :: l) (hr : s.engRuns t c = true) (hg : s.startable t c = true)
include hb hw hr hg
/-- What a command comes to whose block has been read. -/
def begins (s : State) (t : Nat) (e : EngineId) (c : Cmd) (l : List Cmd) (pcb : Vector DWord 8) : State :=
  let s1 := s.setEngine t e { s.engine t e with wait := l }
  if c.kind ≠ .prism ∧ !pcbOk c pcb then s1.pcbBad t c
  else
    let r : CmdRun := { cmd := c, pcb := pcb }
    let s2 := s1.setRun t e r
    if c.viaPrism then s2.takeProg t e r else if s2.noSlot t r then s2.stopElem t e r 0 { pad := false } ⟨0x24, 0⟩ else s2
theorem start_begins : execStreamCmdStart t e s = .next (begins s t e c l (if c.kind = .prism then prismPcb else pcbAt s t c)) := by
  unfold execStreamCmdStart
  dsimp only
  rw [hc, hb, hw]
  refine congrArg Host.Outcome.next ((if_neg ?_).trans ?_)
  · rw [hs, hr, hg]; nofun
  · unfold begins
    dsimp only
    rw [hc, hb]
    rfl
end

section
variable (s : State) (t : Nat) (e : EngineId) {c : Cmd} (l : List Cmd) {pcb : Vector DWord 8}
/-- The state with a command in hand. -/
def inHand (s : State) (t : Nat) (e : EngineId) (c : Cmd) (l : List Cmd) (pcb : Vector DWord 8) : State :=
  s.setEngine t e { s.engine t e with wait := l, cur := some { cmd := c, pcb := pcb } }
theorem begins_bad (hk : c.kind ≠ .prism) (hp : pcbOk c pcb = false) :
    begins s t e c l pcb = (s.setEngine t e { s.engine t e with wait := l }).pcbBad t c := if_pos ⟨hk, by rw [hp]; rfl⟩
theorem begins_ok (h : c.kind = .prism ∨ pcbOk c pcb = true) : begins s t e c l pcb =
    if c.viaPrism then (inHand s t e c l pcb).takeProg t e { cmd := c, pcb := pcb }
    else if (inHand s t e c l pcb).noSlot t { cmd := c, pcb := pcb } then
      (inHand s t e c l pcb).stopElem t e { cmd := c, pcb := pcb } 0 { pad := false } ⟨0x24, 0⟩
    else inHand s t e c l pcb := by
  refine (if_neg ?_).trans ?_
  · rintro ⟨hk, hp⟩
    obtain h | h := h
    · exact hk h
    · rw [h] at hp; exact Bool.noConfusion hp
  dsimp only
  rw [setRun_setEngine]
  rfl
theorem noSlot_iff (r : CmdRun) : s.noSlot t r = true ↔ r.cmd.kind = .prism ∧ s.prismSlot (s.cmdPart t r.cmd) (r.cmd.pid.getD 0) = none := by
  rw [State.noSlot, Bool.and_eq_true, beq_iff_eq, Option.isNone_iff_eq_none]
theorem begins_free (hk : c.kind ≠ .prism) (hp : pcbOk c pcb = true) (hd : c.pid = none) : begins s t e c l pcb = inHand s t e c l pcb := by
  refine (begins_ok s t e l (.inr hp)).trans ((if_neg ?_).trans (if_neg ?_))
  · rw [Cmd.viaPrism, hd]; nofun
  · rw [noSlot_iff]; exact fun h => hk h.1
variable {d : BitVec 3} (hd : c.pid = some d)
include hd
section
variable (hk : c.kind ≠ .prism) (hp : pcbOk c pcb = true)
include hk hp
theorem begins_bound : begins s t e c l pcb = (inHand s t e c l pcb).takeProg t e { cmd := c, pcb := pcb } :=
  (begins_ok s t e l (.inr hp)).trans (if_pos (by rw [Cmd.viaPrism, hd]; simpa using hk))
theorem begins_program {p : List Byte} (h : s.prismProg (s.cmdPart t c) d (c.kind == .write) = .ok p) : begins s t e c l pcb =
    s.setEngine t e { s.engine t e with wait := l, cur := some { cmd := c, pcb := pcb, prog := p, ps := prismInit p } } := by
  refine (begins_bound s t e l hd hk hp).trans ?_
  unfold State.takeProg
  have read : (inHand s t e c l pcb).prismProg ((inHand s t e c l pcb).cmdPart t c) (c.pid.getD 0) (c.kind == .write) = .ok p := by
    rw [inHand, cmdPart_setEngine, hd]
    exact h
  rw [read]
  exact setRun_setEngine ..
theorem begins_noProgram {f : Flt} (h : s.prismProg (s.cmdPart t c) d (c.kind == .write) = .error f) :
    begins s t e c l pcb = (inHand s t e c l pcb).stopElem t e { cmd := c, pcb := pcb } 0 { pad := false } f := by
  refine (begins_bound s t e l hd hk hp).trans ?_
  unfold State.takeProg
  have read : (inHand s t e c l pcb).prismProg ((inHand s t e c l pcb).cmdPart t c) (c.pid.getD 0) (c.kind == .write) = .error f := by
    rw [inHand, cmdPart_setEngine, hd]
    exact h
  rw [read]
end
theorem begins_load (hk : c.kind = .prism) : begins s t e c l pcb = if (s.prismSlot (s.cmdPart t c) d).isSome then inHand s t e c l pcb
    else (inHand s t e c l pcb).stopElem t e { cmd := c, pcb := pcb } 0 { pad := false } ⟨0x24, 0⟩ := by
  refine (begins_ok s t e l (.inl hk)).trans ((if_neg (by rw [Cmd.viaPrism, hk]; simp)).trans ?_)
  have none : (inHand s t e c l pcb).noSlot t { cmd := c, pcb := pcb } = true ↔ s.prismSlot (s.cmdPart t c) d = none := by
    rw [noSlot_iff, inHand, cmdPart_setEngine]
    dsimp only
    rw [hd]
    exact and_iff_right hk
  cases h : s.prismSlot (s.cmdPart t c) d with
  | none => exact (if_pos (none.mpr h)).trans (if_neg (by simp)).symm
  | some => exact (if_neg (by rw [none, h]; nofun)).trans (if_pos rfl).symm
end

/-! ## Completion -/

theorem openedServed_iff (s : State) (l : List (FrameKey × Nat)) :
    s.openedServed l = true ↔ ∀ k ∈ l, s.winServed k.1.part (frameVa k.1) = true := by
  rw [State.openedServed, List.all_eq_true]
section
variable {s : State} {t : Nat} {e : EngineId} {r : CmdRun} (hc : (s.engine t e).cur = some r)
include hc
theorem complete_leaves (hs : (s.engine t e).stop = none) (hr : s.engRuns t r.cmd = true) (hf : r.finished = true)
    (h : ∀ k ∈ r.opened, s.winServed k.1.part (frameVa k.1) = true) : execStreamCmdComplete t e s =
    .next (((s.setEngine t e { s.engine t e with cur := none }).finishOpened (s.cmdPart t r.cmd) (s.cmdKey t r.cmd) r.opened s.newId).cmdProgress
      t r.cmd) := by
  unfold execStreamCmdComplete
  dsimp only
  rw [hc]
  exact congrArg Host.Outcome.next (if_neg (by rw [hs, hr, hf, (openedServed_iff ..).mpr h]; nofun))
theorem complete_waits (h : ∃ k ∈ r.opened, s.winServed k.1.part (frameVa k.1) = false) : execStreamCmdComplete t e s = .next s := by
  have unserved : s.openedServed r.opened = false := by
    rw [← Bool.not_eq_true, openedServed_iff]
    obtain ⟨k, hk, hn⟩ := h
    exact fun all => Bool.noConfusion (hn.symm.trans (all k hk))
  unfold execStreamCmdComplete
  dsimp only
  rw [hc]
  exact congrArg Host.Outcome.next (if_pos (by rw [unserved]; simp))
end

theorem claim_commandsStartAndComplete : Claims.CommandsStartAndComplete := by
  intro s t e g
  refine ⟨fun c l hc hb hw hs hr hg hk => ⟨pcbAt s t c, fun i hi => pcbAt_word s t c hi, ?_⟩, fun c l d hc hb hw hs hr hg hk hd => ?_,
    fun r b hc hb hs hr => start_back hc hs hb hr, fun r hc hs hr hf => ⟨complete_leaves hc hs hr hf, complete_waits hc⟩⟩
  · have goes {u : State} (h : begins s t e c l (pcbAt s t c) = u) : exec (.streamCmdStart t e) s = .next u :=
      (start_begins hc hs hb hw hr hg).trans (congrArg Host.Outcome.next ((congrArg (begins s t e c l) (if_neg hk)).trans h))
    exact ⟨fun hp hd => goes (begins_free s t e l hk hp hd), fun d hp hd => ⟨fun p h => goes (begins_program s t e l hd hk hp h),
      fun f h => goes (begins_noProgram s t e l hd hk hp h)⟩, fun hp => goes (begins_bad s t e l hk hp)⟩
  · exact (start_begins hc hs hb hw hr hg).trans (congrArg Host.Outcome.next
      ((congrArg (begins s t e c l) (if_pos hk)).trans (begins_load s t e l hd hk)))

/-! ## Element accesses -/

/-- The record of the next element. -/
def nextElem (r : CmdRun) : WElem := { pad := r.padded r.next, ix := r.ix, ixPois := r.ixPois, c4 := r.c4 }
/-- A command with its next element in the window. -/
def entered (r : CmdRun) (w : WElem) : CmdRun := { r with next := r.next + 1, win := r.win ++ [w] }

theorem foldl_four (g : Nat → Int) : ((upTo 4).map g).foldl (· + ·) 0 = ((List.range 4).map g).sum := by
  simp only [upTo_eq_range, List.range_succ, List.range_zero, List.nil_append, List.cons_append, List.map_cons, List.map_nil, List.foldl_cons,
    List.foldl_nil, List.sum_cons, List.sum_nil]
  omega
/-- The offset of an element of a command that reads no index. -/
theorem off_eq {r : CmdRun} (hk : r.cmd.kind = .read) (n : Nat) (ix : Lane) :
    r.off n ix = bfld r.cmd.base 47 0 + r.cmd.disp.toInt + ((List.range 4).map fun k => (r.ctr n k : Int) * r.stride k).sum := by
  unfold CmdRun.off
  rw [hk, Scratchpad.sgn_eq_toInt 32 _ (by decide), BitVec.ofNat_toNat, BitVec.setWidth_eq, ← foldl_four]
  refine congrArg (fun f => _ + ((upTo 4).map f).foldl (· + ·) 0) (funext fun k => ?_)
  rw [if_neg fun h => nomatch h.1]
theorem unsgn_of_lt {off : Int} (lo : 0 ≤ off) (hi : off < 2 ^ 48) : (unsgn 48 off : Int) = off := by
  unfold unsgn
  rw [Int.emod_eq_of_lt lo (by exact_mod_cast hi), Int.toNat_of_nonneg lo]
/-- An address that is made of a base's window and an offset. -/
theorem vaWith_fields (base : VAddr) {off : Int} (lo : 0 ≤ off) (hi : off < 2 ^ 48) :
    bfld (vaWith base off) 79 64 = bfld base 79 64 ∧ (bfld (vaWith base off) 47 0 : Int) = off := by
  have hu := unsgn_of_lt lo hi
  have hb := base.isLt
  have hw : unsgn 48 off < 2 ^ 48 := by omega
  unfold vaWith
  generalize unsgn 48 off = u at hu hw ⊢
  subst hu
  unfold bfld fld
  rw [BitVec.toNat_ofNat]
  simp only [Nat.reduceSub, Nat.reduceAdd, Nat.reducePow] at *
  omega

/-- A running read whose accesses are all issued, with an element to enter. -/
structure Enters (s : State) (t : Nat) (e : EngineId) (r : CmdRun) : Prop where
  cur : (s.engine t e).cur = some r
  stop : (s.engine t e).stop = none
  runs : s.engRuns t r.cmd = true
  read : r.cmd.kind = .read
  pid : r.cmd.pid = none
  issued : ∀ w ∈ r.win, w.done = true ∨ w.id.isSome = true
  more : r.next < r.total
  near : r.next / r.perTok < r.head + 64
  noIx : r.takesIx r.next = false

section
variable {s : State} {t : Nat} {e : EngineId} {r : CmdRun} (h : Enters s t e r)
include h
theorem nothing_unissued : (r.win.zipIdx.find? fun ((w : WElem), i) => !w.done && w.id.isNone && r.issuable (r.first + i)) = none := by
  refine List.find?_eq_none.mpr fun (w, i) hm => ?_
  obtain hd | hi := h.issued w (List.fst_mem_of_mem_zipIdx hm)
  · simp [hd]
  · simp [Option.isSome_iff_ne_none.mp hi]
theorem elementAccess_enters : execStreamElementAccess t e s = .next (s.enterElem t e r) := by
  have hk := h.read
  have synDenied : s.synDenied t r = false := by rw [State.synDenied, hk]; rfl
  have noSlot : s.noSlot t r = false := by rw [State.noSlot, hk]; rfl
  have out : r.out = r.head := if_neg (by rw [hk]; nofun)
  unfold execStreamElementAccess
  dsimp only
  rw [h.cur]
  refine congrArg Host.Outcome.next ((if_neg (by rw [h.stop, h.runs]; nofun)).trans ((if_neg (by rw [Cmd.viaPrism, h.pid]; nofun)).trans
    ((if_neg (by rw [synDenied]; nofun)).trans ((if_neg (by rw [noSlot]; nofun)).trans ?_))))
  rw [nothing_unissued h]
  refine (if_neg ?_).trans (if_neg (by rw [h.noIx]; nofun))
  rw [hk, out]
  rintro (hw | ht | hn)
  · cases hw
  · exact absurd h.more (Nat.not_lt.mpr ht)
  · exact absurd h.near (Nat.not_lt.mpr hn)
theorem enters_padded (hp : r.padded r.next = true) :
    s.enterElem t e r = s.setRun t e (entered r { nextElem r with done := true, data := r.padBytes }) := by
  unfold State.enterElem
  dsimp only
  rw [if_pos hp, h.read]
  rfl
theorem enters_issues (hp : r.padded r.next = false) :
    s.enterElem t e r = (s.setRun t e (entered r (nextElem r))).issueElem t e (entered r (nextElem r)) r.win.length := by
  unfold State.enterElem
  dsimp only
  rw [if_neg (ne_true_of_eq_false hp), if_neg (by rw [h.read]; nofun), List.length_append]
  rfl

omit h in
theorem entered_place (hl : r.first + r.win.length = r.next) : (entered r (nextElem r)).first + r.win.length = r.next := by
  unfold entered CmdRun.first at *
  rw [List.length_append]
  dsimp only [List.length_cons, List.length_nil]
  omega
/-- What the issue of the element comes to. -/
theorem issue_eq (hl : r.first + r.win.length = r.next) (u : State) : u.issueElem t e (entered r (nextElem r)) r.win.length =
    if r.off r.next r.ix < 0 ∨ 2 ^ 48 ≤ r.off r.next r.ix then u.stopElem t e (entered r (nextElem r)) r.next (nextElem r) ⟨0x01, 0⟩
    else if r.off r.next r.ix % r.esz ≠ 0 then u.stopElem t e (entered r (nextElem r)) r.next (nextElem r) ⟨0x02, 0⟩
    else
      let o : Op := {
        id := u.newId, tile := t, slot := r.cmd.slot, phase := r.cmd.phase, part := u.cmdPart t r.cmd, rkey := u.cmdKey t r.cmd
        va := vaWith r.cmd.base (r.off r.next r.ix), d := none, word := r.cmd.pc, mark := r.cmd.seq
        kind := .elem ⟨e, r.next, r.esz, r.cmd.ver.map (·.toNat), none, false, none⟩ }
      { u with ops := u.ops ++ [o], newId := u.newId + 1 }.setRun t e (entered r { nextElem r with id := some u.newId }) := by
  have elem : (entered r (nextElem r)).win[r.win.length]? = some (nextElem r) := List.getElem?_concat_length
  have set (w : WElem) : (entered r (nextElem r)).win.set r.win.length w = r.win ++ [w] := by
    refine (List.set_append_right _ _ (Nat.le_refl _)).trans ?_
    rw [Nat.sub_self]
    rfl
  unfold State.issueElem
  rw [elem]
  dsimp only
  rw [entered_place hl, set, show (entered r (nextElem r)).cmd.kind = .read from h.read]
  rfl
end
theorem issued_setRun (s : State) (t : Nat) (e : EngineId) (q r : CmdRun) (l : List Op) (n : Nat) :
    ({ s.setRun t e q with ops := l, newId := n } : State).setRun t e r = ({ s with ops := l, newId := n } : State).setRun t e r :=
  setRun_setRun ({ s with ops := l, newId := n } : State) t e q r

theorem claim_readsIssueTheirElements : Claims.ReadsIssueTheirElements := by
  intro s t e r g n off hc hs hr hk hd hi hm hn hx w
  have h : Enters s t e r := ⟨hc, hs, hr, hk, hd, hi, hm, hn, hx⟩
  have same : r.off r.next r.ix = off := off_eq hk _ _
  have goes {u : State} (he : s.enterElem t e r = u) : exec (.streamElementAccess t e) s = .next u := (elementAccess_enters h).trans (congrArg _ he)
  refine ⟨fun hp => goes (enters_padded h hp), fun hp hl => ?_, fun hp lo hi ha hl => ?_⟩
  · have issues := (enters_issues h hp).trans (issue_eq h hl _)
    rw [same] at issues
    exact ⟨fun hb => goes (issues.trans (if_pos hb)), fun lo hi ha => goes (issues.trans
      ((if_neg (by omega)).trans (if_pos ha)))⟩
  · have issues := (enters_issues h hp).trans (issue_eq h hl _)
    rw [same] at issues
    obtain ⟨hw, ho⟩ := vaWith_fields r.cmd.base lo hi
    exact ⟨_, goes (issues.trans ((if_neg (by omega)).trans ((if_neg (not_not.mpr ha)).trans (issued_setRun ..)))), rfl, rfl, hw, ho, rfl⟩

/-! ## Tokens out -/

/-- A command that no Prism program stands in the way of works at an engine. -/
structure Works (s : State) (t : Nat) (e : EngineId) (r : CmdRun) : Prop where
  cur : (s.engine t e).cur = some r
  runs : s.engRuns t r.cmd = true
  pid : r.cmd.pid = none

/-- What a read engine makes of its window. -/
def pushes (s : State) (t : Nat) (e : EngineId) (r : CmdRun) : State :=
  let lo := r.head * r.perTok
  let hi := min r.total (lo + r.perTok)
  if lo < r.total then
    if r.next < hi ∨ (r.win.take (hi - lo)).any (fun w => !w.done) ∨ s.destRoom t r.cmd = false then s.setRun t e r
    else ((s.destPush t r.cmd (r.token (r.win.take (hi - lo)) (r.cmd.tagAt r.head))).setRun t e
      { r with win := r.win.drop (hi - lo), head := r.head + 1 }).cmdProgress t r.cmd
  else if s.destRoom t r.cmd = false then s
  else if r.cmd.eos ∧ !r.eosOut then
    ((s.destPush t r.cmd (eosTok (r.cmd.tagAt r.head))).setRun t e { r with eosOut := true, head := r.head + 1 }).cmdProgress t r.cmd
  else s
section
variable {s : State} {t : Nat} {e : EngineId} {r : CmdRun}
theorem readPush_token (hr : s.destRoom t r.cmd = true) (hl : r.head * r.perTok < r.total)
    (hn : min r.total (r.head * r.perTok + r.perTok) ≤ r.next)
    (hd : ∀ w ∈ r.win.take (min r.total (r.head * r.perTok + r.perTok) - r.head * r.perTok), w.done = true) :
    pushes s t e r = ((s.destPush t r.cmd (r.token (r.win.take (min r.total (r.head * r.perTok + r.perTok) - r.head * r.perTok))
      (r.cmd.tagAt r.head))).setRun t e { r with win := r.win.drop (min r.total (r.head * r.perTok + r.perTok) - r.head * r.perTok),
                                                  head := r.head + 1 }).cmdProgress t r.cmd := by
  refine (if_pos hl).trans (if_neg ?_)
  rintro (hw | hw | hw)
  · exact absurd hn (Nat.not_le.mpr hw)
  · obtain ⟨w, hm, hw⟩ := List.any_eq_true.mp hw
    rw [hd w hm] at hw
    cases hw
  · exact Bool.noConfusion (hw.symm.trans hr)
theorem readPush_early (hl : r.head * r.perTok < r.total) (hw : r.next < min r.total (r.head * r.perTok + r.perTok) ∨
    ∃ w ∈ r.win.take (min r.total (r.head * r.perTok + r.perTok) - r.head * r.perTok), w.done = false) : pushes s t e r = s.setRun t e r := by
  refine (if_pos hl).trans (if_pos ?_)
  obtain hw | ⟨w, hm, hw⟩ := hw
  · exact .inl hw
  · exact .inr (.inl (List.any_eq_true.mpr ⟨w, hm, by rw [hw]; rfl⟩))
theorem readPush_end (hr : s.destRoom t r.cmd = true) (hl : r.total ≤ r.head * r.perTok) (he : r.cmd.eos = true) (ho : r.eosOut = false) :
    pushes s t e r = ((s.destPush t r.cmd (eosTok (r.cmd.tagAt r.head))).setRun t e { r with eosOut := true, head := r.head + 1 }).cmdProgress t r.cmd :=
  (if_neg (Nat.not_lt.mpr hl)).trans ((if_neg (by rw [hr]; nofun)).trans (if_pos ⟨he, by rw [ho]; rfl⟩))
theorem readPush_full (hr : s.destRoom t r.cmd = false) : pushes s t e r = if r.head * r.perTok < r.total then s.setRun t e r else s :=
  if_congr Iff.rfl (if_pos (.inr (.inr hr))) (if_pos hr)
end
section
variable {s : State} {t : Nat} {e : EngineId} {r : CmdRun} (h : Works s t e r)
include h
theorem not_viaPrism : r.cmd.viaPrism = false := by rw [Cmd.viaPrism, h.pid]; rfl
section
variable (hk : r.cmd.kind = .read ∨ r.cmd.kind = .ind)
include hk
theorem readPush_pushes : execStreamReadPush t e s = .next (pushes s t e r) := by
  have hv := not_viaPrism h
  have write : r.cmd.kind ≠ .write := by rintro hw; rw [hw] at hk; obtain hk | hk := hk <;> cases hk
  have prism : r.cmd.kind ≠ .prism := by rintro hw; rw [hw] at hk; obtain hk | hk := hk <;> cases hk
  have syn : r.cmd.kind ≠ .syn := by rintro hw; rw [hw] at hk; obtain hk | hk := hk <;> cases hk
  unfold execStreamReadPush
  rw [h.cur]
  refine congrArg Host.Outcome.next ((if_neg (by simp [write, prism, h.runs])).trans ((if_neg syn).trans ?_))
  dsimp only
  rw [if_neg (ne_true_of_eq_false hv)]
  unfold pushes
  refine if_congr Iff.rfl (if_congr ?_ rfl rfl) (if_congr ?_ rfl ((if_neg ?_).trans rfl))
  · rw [hv, Bool.not_eq_true']
    simp
  · rw [Bool.not_eq_true']
  · rw [hv]; nofun
end

/-! ## Syntax commands -/

section
variable (hk : r.cmd.kind = .syn)
include hk
theorem readPush_hands : execStreamReadPush t e s = .next (s.synHand t e r) := by
  unfold execStreamReadPush
  rw [h.cur]
  exact congrArg Host.Outcome.next ((if_neg (by simp [hk, h.runs])).trans (if_pos hk))
end
end
section
variable {s : State} {t : Nat} {e : EngineId} {r : CmdRun} (hs : (s.engine t e).stop = none) (ho : r.tailOut = false)
include hs ho
theorem synHand_denied (hd : s.synDenied t r = true) :
    s.synHand t e r = s.stopElem t e r r.first (r.win.headD { pad := false }) ⟨0x29, 0⟩ :=
  (if_neg (by rw [hs]; nofun)).trans (if_pos ⟨by rw [ho]; rfl, hd⟩)
/-- The job of a command whose bytes have all come. -/
def newJob (s : State) (t : Nat) (e : EngineId) (r : CmdRun) : SynJob :=
  { tile := t, e := e, phase := r.cmd.phase, port := match r.cmd.dest with | .port p => p | .ring _ => 0
    part := s.cmdPart t r.cmd, rkey := s.cmdKey t r.cmd
    av1 := (r.dw 7).testBit 60, chroma := (r.dw 7).testBit 59, newseq := (r.dw 7).testBit 58, ctx := .ofNat 2 (fld (r.dw 7) 57 56)
    pics := fld (r.dw 7) 55 40, bytes := r.prog ++ (r.win.map (·.data)).flatten, tag := r.cmd.tag, eos := r.cmd.eos
    seek := (r.dw 7).testBit 58 }
/-- The command once its job is handed on. -/
def handed (r : CmdRun) : CmdRun :=
  { r with prog := r.prog ++ (r.win.map (·.data)).flatten, win := r.win.drop r.win.length, units := (r.first + r.win.length) / r.perTok,
           tailOut := true }
theorem synHand_job (hd : s.synDenied t r = false) (hj : r.job = none) (hn : r.total ≤ r.next) (hw : ∀ w ∈ r.win, w.done = true) :
    s.synHand t e r = (s.setRun t e (handed r)).synQueue (fld (r.dw 7) 63 61) (newJob s t e r) := by
  have ready : (r.win.takeWhile fun w => w.done) = r.win := List.takeWhile_eq_self_iff.mpr hw
  refine (if_neg (by rw [hs]; nofun)).trans ((if_neg (by rw [hd]; nofun)).trans ((if_neg (by rw [hj]; nofun)).trans ?_))
  dsimp only
  have all : (decide (r.total ≤ r.next) && (r.win.drop r.win.length).isEmpty) = true := by simp [hn]
  rw [ready, all, if_neg (by rw [ho]; simp), if_pos rfl]
  rfl
end

/-! ## Tokens in -/

/-- A write command without a Prism program takes its next head. -/
structure Takes (s : State) (t : Nat) (e : EngineId) (r : CmdRun) (p : BitVec 3) (x : Token) : Prop extends Works s t e r where
  write : r.cmd.kind = .write
  dest : r.cmd.dest = .port p
  stop : (s.engine t e).stop = none
  more : r.next < r.total
  used : r.usedUp = true
  head : s.headOf t r.cmd.slot r.cmd.phase p = some x
/-- What a head makes of a command. -/
def taken (r : CmdRun) (x : Token) : CmdRun :=
  match x.kind with
  | .data => r.takeTok x
  | .eos => { r with ended := true, head := r.head + 1 }
  | _ => { r with head := r.head + 1 }
theorem taken_cmd (r : CmdRun) (x : Token) : (taken r x).cmd = r.cmd := by
  unfold taken
  split <;> rfl
theorem writeTake_takes {s : State} {t : Nat} {e : EngineId} {r : CmdRun} {p : BitVec 3} {x : Token} (h : Takes s t e r p x) :
    execStreamWriteTake t e s = .next (((s.popOf t r.cmd.slot r.cmd.phase p).setRun t e
      { taken r x with win := (taken r x).win.dropWhile fun w => w.done }).cmdProgress t r.cmd) := by
  have hv := not_viaPrism h.toWorks
  have via : (taken r x).cmd.viaPrism = false := by rw [taken_cmd, hv]
  unfold execStreamWriteTake
  dsimp only
  rw [h.cur]
  dsimp only
  rw [h.write, h.dest]
  refine congrArg Host.Outcome.next ((if_neg (by rw [h.stop, h.runs, h.used, hv]; simpa using h.more)).trans ?_)
  rw [h.head]
  refine congrArg (fun q : CmdRun => ((s.popOf t r.cmd.slot r.cmd.phase p).setRun t e
    { q with win := q.win.dropWhile fun w => w.done }).cmdProgress t r.cmd) ?_
  exact if_neg (ne_true_of_eq_false via)

theorem claim_tokensLeaveAndEnterEngines : Claims.TokensLeaveAndEnterEngines := by
  intro s t e r g hc hr hd
  have h : Works s t e r := ⟨hc, hr, hd⟩
  refine ⟨fun hk room => ?_, fun hk room => ?_, fun hk ho hs hy => ?_, fun hk ho hs hy hj hn hw => ?_, fun p x hk hp hs hn hu hx => ?_⟩
  · have goes {u : State} (he : pushes s t e r = u) : exec (.streamReadPush t e) s = .next u := (readPush_pushes h hk).trans (congrArg _ he)
    intro lo hi
    exact ⟨fun hl hn hw => goes (readPush_token room hl hn hw), fun hl hw => goes (readPush_early hl hw),
      fun hl he ho => goes (readPush_end room hl he ho)⟩
  · exact (readPush_pushes h hk).trans (congrArg _ (readPush_full room))
  · exact (readPush_hands h hk).trans (congrArg _ (synHand_denied hs ho hy))
  · exact ⟨newJob s t e r, handed r, (readPush_hands h hk).trans (congrArg _ (synHand_job hs ho hy hj hn hw)), rfl, rfl, rfl, rfl, rfl,
      fun p hp => by simp [newJob, hp], rfl, rfl, rfl, rfl, rfl, rfl, rfl, rfl, rfl⟩
  · have takes : Takes s t e r p x := ⟨h, hk, hp, hs, hn, hu, hx⟩
    have goes {q : CmdRun} (he : taken r x = q) : exec (.streamWriteTake t e) s = .next (((s.popOf t r.cmd.slot r.cmd.phase p).setRun t e
        { q with win := q.win.dropWhile fun w => w.done }).cmdProgress t r.cmd) := he ▸ writeTake_takes takes
    refine ⟨fun hx => goes ?_, fun hx => goes (q := { r with ended := true, head := r.head + 1 }) ?_,
      fun hx => goes (q := { r with head := r.head + 1 }) ?_⟩
    · unfold taken; rw [hx]
    · unfold taken; rw [hx]
    · unfold taken; rw [hx]

/-- Settles O28: the start and end of a command, its element accesses, and its tokens. -/
theorem streamEnginesMoveTheirElements : Obligations.StreamEnginesMoveTheirElements :=
  ⟨claim_commandsStartAndComplete, claim_readsIssueTheirElements, claim_tokensLeaveAndEnterEngines⟩

end Sys2Proof.Proofs.StreamRun
end

section
/-! PROOFS. The records and tokens of a picture (R227, R228, R232 to R235). -/
namespace Sys2Proof.Proofs.SyntaxRecords
open Sys2Proof Sys2Proof.Machine Sys2Proof.Proofs.Bits Sys2Proof.Proofs.Ranked
set_option Elab.async false

/-! ## Tokens of sixteen lanes -/

/-- A data token of sixteen valid, unpoisoned lanes. -/
def Whole (t : Token) : Prop := t.valid = 0xFFFF ∧ t.poison = 0 ∧ t.kind = .data
theorem whole_recTok (l : List Nat) : Whole (recTok l) := ⟨rfl, rfl, rfl⟩
theorem lane_recTok (l : List Nat) {i : Nat} (h : i < 16) : (recTok l).lane i = l.getD i 0 % 2 ^ 32 := by
  rw [lane_eq, recTok, ofNat_div_mod _ _ (by omega), unchunk_div_mod, List.getD_eq_getElem?_getD, fit_getElem? 0 l h]
  rfl
theorem unsgn_lt (w : Nat) (x : Int) : unsgn w x < 2 ^ w := by
  have pos : (0 : Int) < (2 ^ w : Nat) := by exact_mod_cast Nat.two_pow_pos w
  have lo := Int.emod_nonneg x (ne_of_gt pos)
  have hi := Int.emod_lt_of_pos x pos
  unfold unsgn
  omega
theorem cellCount_lt (n : Nat) : cellCount n < 65536 := Nat.mod_lt _ (by decide)

/-! ## Picture records -/

section
variable (p : Config.SynPic) (pic : Nat)
/-- The lanes of a picture record. -/
def picLanes (p : Config.SynPic) (pic : Nat) : List Nat :=
  [0, (!(p.blocks.all fun b => b.mode == .intra)).toNat * 256, 0, 0, 0, 0, 0, 0, 0, 0, 0, 0, 0, cellCount p.height * 65536 + cellCount p.width, pic, 0]
theorem picRec_lane {i : Nat} (h : i < 16) : (picRec p pic).lane i = (picLanes p pic).getD i 0 % 2 ^ 32 := lane_recTok _ h
theorem picRec_mode : (picRec p pic).lane 1 = if ∀ b ∈ p.blocks, b.mode = .intra then 0 else 256 := by
  refine (picRec_lane p pic (by decide)).trans ?_
  have all : (p.blocks.all fun b => b.mode == .intra) = true ↔ ∀ b ∈ p.blocks, b.mode = .intra := by simp
  show (!(p.blocks.all fun b => b.mode == .intra)).toNat * 256 % 2 ^ 32 = _
  rw [← if_congr all rfl rfl]
  cases p.blocks.all fun b => b.mode == .intra <;> rfl
theorem cells_fields {x h w : Nat} (hx : x = (h * 65536 + w) % 2 ^ 32) (hh : h < 65536) (hw : w < 65536) : fld x 31 16 = h ∧ fld x 15 0 = w := by
  unfold fld
  omega
theorem picRec_cells : fld ((picRec p pic).lane 13) 31 16 = cellCount p.height ∧ fld ((picRec p pic).lane 13) 15 0 = cellCount p.width :=
  cells_fields (picRec_lane p pic (by decide)) (cellCount_lt _) (cellCount_lt _)
theorem picRec_zero {i : Nat} (h : i < 16) (h1 : i ≠ 1) (h13 : i ≠ 13) (h14 : i ≠ 14) : (picRec p pic).lane i = 0 := by
  have lanes : (picLanes p pic).getD i 0 = if i = 1 then (!(p.blocks.all fun b => b.mode == .intra)).toNat * 256
      else if i = 13 then cellCount p.height * 65536 + cellCount p.width else if i = 14 then pic else 0 := by
    interval_cases i <;> rfl
  rw [picRec_lane p pic h, lanes, if_neg h1, if_neg h13, if_neg h14, Nat.zero_mod]
end

/-! ## The REASON of a block -/

theorem foldl_min_le (l : List Nat) : ∀ a, l.foldl min a ≤ a ∧ ∀ x ∈ l, l.foldl min a ≤ x := by
  induction l with
  | nil => exact fun a => ⟨Nat.le_refl a, nofun⟩
  | cons x r ih =>
    intro a
    obtain ⟨low, all⟩ := ih (min a x)
    rw [List.foldl_cons]
    exact ⟨by omega, List.forall_mem_cons.mpr ⟨by omega, all⟩⟩
theorem foldl_min_mem (l : List Nat) : ∀ a, l.foldl min a = a ∨ l.foldl min a ∈ l := by
  induction l with
  | nil => exact fun a => .inl rfl
  | cons x r ih =>
    intro a
    rw [List.foldl_cons, List.mem_cons]
    obtain h | h := ih (min a x)
    · rw [h]
      omega
    · exact .inr (.inr h)
section
variable (av1 : Bool) (b : Config.SynBlock)
/-- A component of a block's vectors is beyond sixteen bits. -/
def Out (av1 : Bool) (b : Config.SynBlock) (k : Nat) : Prop := scaledMv av1 b k < -32768 ∨ 32767 < scaledMv av1 b k
/-- A vector that a block has is. -/
def Far (av1 : Bool) (b : Config.SynBlock) : Prop :=
  b.mode ≠ .intra ∧ (Out av1 b 0 ∨ Out av1 b 1 ∨ (b.bi = true ∧ (Out av1 b 2 ∨ Out av1 b 3)))
theorem far_iff : ((mvsOf b).any fun k => decide (scaledMv av1 b k < -32768 ∨ 32767 < scaledMv av1 b k)) = true ↔ Far av1 b := by
  unfold Far mvsOf Out
  by_cases hm : b.mode = .intra
  · simp [hm]
  · cases b.bi <;> simp [hm]
/-- The causes of a refresh. -/
def causes (av1 : Bool) (b : Config.SynBlock) : List Nat :=
  b.tools.map toolReason ++ if (mvsOf b).any fun k => decide (scaledMv av1 b k < -32768 ∨ 32767 < scaledMv av1 b k) then [4] else []
theorem reasonOf_eq : reasonOf av1 b = (causes av1 b).foldl min 8 % 8 := rfl
theorem toolReason_range (t : Config.SynTool) : 1 ≤ toolReason t ∧ toolReason t ≤ 5 := by cases t <;> decide
theorem mem_causes (x : Nat) : x ∈ causes av1 b ↔ (∃ t ∈ b.tools, toolReason t = x) ∨ (Far av1 b ∧ x = 4) := by
  unfold causes
  rw [List.mem_append, List.mem_map, ← far_iff]
  generalize (mvsOf b).any _ = z
  cases z <;> simp
theorem causes_range {x : Nat} (h : x ∈ causes av1 b) : 1 ≤ x ∧ x ≤ 5 := by
  obtain ⟨t, -, rfl⟩ | ⟨-, rfl⟩ := (mem_causes av1 b x).mp h
  · exact toolReason_range t
  · decide
/-- A block's REASON is the least of its causes, and 0 where it has none. -/
theorem reasonOf_cases : (causes av1 b = [] ∧ reasonOf av1 b = 0) ∨ (reasonOf av1 b ∈ causes av1 b ∧ ∀ x ∈ causes av1 b, reasonOf av1 b ≤ x) := by
  obtain ⟨-, le⟩ := foldl_min_le (causes av1 b) 8
  rw [reasonOf_eq]
  obtain h | h := foldl_min_mem (causes av1 b) 8
  · refine .inl ⟨List.eq_nil_iff_forall_not_mem.mpr fun x hx => ?_, by rw [h]⟩
    have := le x hx
    have := causes_range av1 b hx
    omega
  · have range := causes_range av1 b h
    rw [Nat.mod_eq_of_lt (by omega)]
    exact .inr ⟨h, le⟩
theorem reasonOf_le : reasonOf av1 b ≤ 5 := by
  obtain ⟨-, h⟩ | ⟨h, -⟩ := reasonOf_cases av1 b
  · omega
  · exact (causes_range av1 b h).2
theorem reasonOf_le_cause {x : Nat} (hx : x ∈ causes av1 b) : reasonOf av1 b ≤ x := by
  obtain ⟨h, -⟩ | ⟨-, h⟩ := reasonOf_cases av1 b
  · rw [h] at hx; cases hx
  · exact h x hx
theorem reasonOf_zero : reasonOf av1 b = 0 ↔ b.tools = [] ∧ ¬ Far av1 b := by
  have none : causes av1 b = [] ↔ b.tools = [] ∧ ¬ Far av1 b := by
    unfold causes
    rw [List.append_eq_nil_iff, List.map_eq_nil_iff, ← far_iff]
    generalize (mvsOf b).any _ = z
    cases z <;> simp
  rw [← none]
  refine ⟨fun h => ?_, fun h => by rw [reasonOf_eq, h]; rfl⟩
  obtain ⟨hn, -⟩ | ⟨hm, -⟩ := reasonOf_cases av1 b
  · exact hn
  · have := causes_range av1 b hm
    omega
theorem reasonOf_far (h : Far av1 b) : reasonOf av1 b ≤ 4 := reasonOf_le_cause av1 b ((mem_causes av1 b 4).mpr (.inr ⟨h, rfl⟩))
theorem reasonOf_farAlone (ht : b.tools = []) (h : Far av1 b) : reasonOf av1 b = 4 := by
  obtain ⟨hn, -⟩ | ⟨hm, -⟩ := reasonOf_cases av1 b
  · have := (mem_causes av1 b 4).mpr (.inr ⟨h, rfl⟩)
    rw [hn] at this
    cases this
  · obtain ⟨t, hm, -⟩ | ⟨-, hm⟩ := (mem_causes av1 b _).mp hm
    · rw [ht] at hm; cases hm
    · exact hm
end

/-! ## Step codes -/

theorem stepCode_lt (x : Int) (m : Nat) : stepCode x m < 2 ^ 22 := by
  have := unsgn_lt 6 x
  unfold stepCode
  omega
theorem stepCode_fields (x : Int) (m : Nat) : fld (stepCode x m) 31 22 = 0 ∧ fld (stepCode x m) 21 16 = unsgn 6 x ∧ fld (stepCode x m) 15 0 = m % 65536 := by
  have := unsgn_lt 6 x
  unfold stepCode fld
  omega
theorem levelScale_eq (k : Nat) (h : k < 6) : levelScale k % 65536 = [40, 45, 51, 57, 64, 72].getD k 0 := by
  interval_cases k <;> rfl
theorem code_mod {x : Nat} (h : x < 2 ^ 22) : x % 2 ^ 32 = x := Nat.mod_eq_of_lt (Nat.lt_trans h (by decide))
/-- A plane has two step codes. -/
theorem stepsOf_two (depth : Nat) (q : Config.SynPlane) : ∃ v w, stepsOf depth q = [v, w] ∧ v < 2 ^ 22 ∧ w < 2 ^ 22 := by
  unfold stepsOf
  split
  · exact ⟨_, _, rfl, stepCode_lt _ _, stepCode_lt _ _⟩
  · exact ⟨_, _, rfl, stepCode_lt _ _, stepCode_lt _ _⟩
theorem stepsOf_hevc (depth : Nat) {q : Config.SynPlane} {qp : Nat} (h : q.quant = .hevc qp) : ∃ v, stepsOf depth q = [v, v] ∧ fld v 31 22 = 0 ∧
    fld v 21 16 = unsgn 6 (36 + (qp / 6 : Nat) - ((depth : Int) + q.tlw - 5)) ∧ fld v 15 0 = [40, 45, 51, 57, 64, 72].getD (qp % 6) 0 := by
  obtain ⟨zero, exp, man⟩ := stepCode_fields (36 + (qp / 6 : Nat) - ((depth : Int) + q.tlw - 5)) (levelScale (qp % 6))
  exact ⟨_, by unfold stepsOf; rw [h], zero, exp, man.trans (levelScale_eq _ (Nat.mod_lt _ (by decide)))⟩
theorem stepsOf_av1 (depth : Nat) {q : Config.SynPlane} {sh : Nat} {dc ac : BitVec 16} (h : q.quant = .av1 dc ac sh) : ∃ v w, stepsOf depth q = [v, w] ∧
    fld v 21 16 = unsgn 6 (32 - (sh : Int)) ∧ fld w 21 16 = unsgn 6 (32 - (sh : Int)) ∧ fld v 15 0 = dc.toNat ∧ fld w 15 0 = ac.toNat := by
  obtain ⟨-, expD, manD⟩ := stepCode_fields (32 - (sh : Int)) dc.toNat
  obtain ⟨-, expA, manA⟩ := stepCode_fields (32 - (sh : Int)) ac.toNat
  exact ⟨_, _, by unfold stepsOf; rw [h], expD, expA, manD.trans (Nat.mod_eq_of_lt dc.isLt), manA.trans (Nat.mod_eq_of_lt ac.isLt)⟩

/-! ## Block records -/

/-- Lane 1 of a block record, of its fields. -/
def flagsWord (qp why coded tlh tlw bi mode lh lw : Nat) : Nat :=
  qp * 2 ^ 24 + why * 2 ^ 19 + coded * 2 ^ 16 + tlh * 2 ^ 14 + tlw * 2 ^ 12 + bi * 2 ^ 10 + mode * 256 + lh * 16 + lw
theorem flagsWord_fields {x qp why coded tlh tlw bi mode lh lw : Nat} (hx : x = flagsWord qp why coded tlh tlw bi mode lh lw % 2 ^ 32)
    (hq : qp < 256) (hy : why < 8) (hc : coded < 8) (hh : tlh < 4) (hw : tlw < 4) (hb : bi < 2) (hm : mode < 4) (hlh : lh < 16) (hlw : lw < 16) :
    fld x 31 24 = qp ∧ fld x 23 22 = 0 ∧ fld x 21 19 = why ∧ fld x 18 18 = coded / 4 ∧ fld x 17 17 = coded / 2 % 2 ∧ fld x 16 16 = coded % 2 ∧
      fld x 15 14 = tlh ∧ fld x 13 12 = tlw ∧ fld x 11 11 = 0 ∧ fld x 10 10 = bi ∧ fld x 9 8 = mode ∧ fld x 7 4 = lh ∧ fld x 3 0 = lw := by
  unfold flagsWord at hx
  unfold fld
  omega

section
variable (av1 chroma : Bool) (p : Config.SynPic) (pic : Nat) (b : Config.SynBlock)
/-- Which planes of a block are coded, as bits. -/
def codedBits (b : Config.SynBlock) : Nat := (codedPlane b b.cr).toNat * 4 + (codedPlane b b.cb).toNat * 2 + (codedPlane b b.luma).toNat
/-- Lane 1 of a block's record. -/
def blockFlags (av1 : Bool) (b : Config.SynBlock) : Nat :=
  flagsWord (if av1 then b.qp.toNat else b.qp.toNat % 64) (reasonOf av1 b) (codedBits b) (codedLog b.luma.tlh - 2) (codedLog b.luma.tlw - 2)
    (twoMv b).toNat (modeOf av1 b) (blockLog b.log2h) (blockLog b.log2w)
/-- The lanes of a block record, of its step codes. -/
def blockLanes (av1 chroma : Bool) (p : Config.SynPic) (pic : Nat) (b : Config.SynBlock) (y0 y1 b0 b1 r0 r1 : Nat) : List Nat :=
  [b.y.toNat * 65536 + b.x.toNat, blockFlags av1 b, y0, y1, b0, b1, r0, r1, mvLane av1 b 0, mvLane av1 b 2,
    b.ref1.toNat * 2 ^ 19 + b.ref0.toNat * 2 ^ 16 + (synLevels chroma b).length % 65536, 0, 0,
    cellCount p.height * 65536 + cellCount p.width, pic, 0]
theorem blockRec_eq {y0 y1 b0 b1 r0 r1 : Nat} (hy : stepsOf p.depth b.luma = [y0, y1]) (hb : stepsOf p.depth b.cb = [b0, b1])
    (hr : stepsOf p.depth b.cr = [r0, r1]) : blockRec av1 chroma p pic b = recTok (blockLanes av1 chroma p pic b y0 y1 b0 b1 r0 r1) := by
  unfold blockRec
  rw [hy, hb, hr]
  rfl
theorem modeOf_lt : modeOf av1 b < 4 := by
  unfold modeOf
  split
  · decide
  · split <;> decide
theorem mvLane_none (k : Nat) (h : reasonOf av1 b ≠ 0 ∨ b.mode = .intra) : mvLane av1 b k = 0 := by
  refine if_pos (h.imp_right fun hm => ?_)
  rw [mvsOf, if_pos hm]
  rfl
theorem mvLane_two (k : Nat) (hr : reasonOf av1 b = 0) (hk : (mvsOf b).contains k = true) :
    mvLane av1 b k = unsgn 16 (scaledMv av1 b (k + 1)) * 65536 + unsgn 16 (scaledMv av1 b k) :=
  if_neg (by rw [hk]; simpa using hr)
theorem mvsOf_zero (hm : b.mode ≠ .intra) : (mvsOf b).contains 0 = true := by
  rw [mvsOf, if_neg hm]
  split <;> rfl
theorem mvsOf_two (hm : b.mode ≠ .intra) : (mvsOf b).contains 2 = b.bi := by
  rw [mvsOf, if_neg hm]
  cases b.bi <;> rfl
theorem mv_fields {x : Nat} {u v : Int} (hx : x = (unsgn 16 u * 65536 + unsgn 16 v) % 2 ^ 32) : fld x 15 0 = unsgn 16 v ∧ fld x 31 16 = unsgn 16 u :=
  (cells_fields hx (unsgn_lt 16 u) (unsgn_lt 16 v)).symm
theorem refs_fields {x m n l : Nat} (hx : x = (m * 2 ^ 19 + n * 2 ^ 16 + l) % 2 ^ 32) (hm : m < 8) (hn : n < 8) (hl : l < 65536) :
    fld x 31 22 = 0 ∧ fld x 21 19 = m ∧ fld x 18 16 = n ∧ fld x 15 0 = l := by
  unfold fld
  omega
theorem codedBits_fields : codedBits b < 8 ∧ (codedBits b / 4 = 1 ↔ codedPlane b b.cr = true) ∧ (codedBits b / 2 % 2 = 1 ↔ codedPlane b b.cb = true) ∧
    (codedBits b % 2 = 1 ↔ codedPlane b b.luma = true) := by
  unfold codedBits
  cases codedPlane b b.cr <;> cases codedPlane b b.cb <;> cases codedPlane b b.luma <;> decide
theorem twoMv_iff : (twoMv b).toNat = 1 ↔ b.bi = true ∧ ¬ b.mode = .intra := by
  unfold twoMv
  cases b.bi <;> cases b.mode <;> decide
end

/-! ## Coefficient tokens -/

theorem planeLevels_uncoded {b : Config.SynBlock} {q : Config.SynPlane} (n : Nat) (h : codedPlane b q = false) : planeLevels b q n = [] := if_pos (by rw [h]; rfl)
theorem synLevels_tokens {chroma : Bool} {b : Config.SynBlock} {x : Token} (h : x ∈ synLevels chroma b) :
    Whole x ∧ ∃ l : Vector (BitVec 16) 16, ∀ i < 16, x.lane i = unsgn 32 (vget l i 0).toInt := by
  obtain ⟨l, -, rfl⟩ := List.mem_map.mp h
  refine ⟨whole_recTok _, l, fun i hi => ?_⟩
  rw [lane_recTok _ hi, List.getD_eq_getElem?_getD, List.getElem?_map, vget, List.getD_eq_getElem?_getD,
    List.getElem?_eq_getElem (show i < l.toList.length by simpa using hi)]
  exact Nat.mod_eq_of_lt (unsgn_lt 32 _)

/-! ## The pictures of a job -/

section
variable {j : SynJob} {pic0 : Nat} {a : SynScan} {p : Config.SynPic} (l : List Config.SynPic)
/-- A picture gives nothing: it is passed over under a search, or is a skipped RASL picture. -/
def Mute (a : SynScan) (p : Config.SynPic) : Prop := (a.seek = true ∧ p.rap = false) ∨ (a.rasl = true ∧ p.rasl = true ∧ p.rap = false)
theorem mute_iff (a : SynScan) (p : Config.SynPic) : ((a.seek && !p.rap) || (a.rasl && p.rasl && !p.rap)) = true ↔ Mute a p := by
  unfold Mute
  cases a.seek <;> cases a.rasl <;> cases p.rap <;> cases p.rasl <;> decide
theorem synRuns_done (hn : j.pics ≠ 0) (h : j.pics ≤ a.n) : synRuns j pic0 a (p :: l) = [] := if_pos ⟨hn, h⟩
variable (hn : j.pics = 0 ∨ a.n < j.pics)
include hn
theorem not_done : ¬ (j.pics ≠ 0 ∧ j.pics ≤ a.n) := by
  rintro ⟨h, hl⟩
  omega
theorem synRuns_mute (hm : Mute a p) (hs : p.stop = none) : ((synRuns j pic0 a (p :: l)).head?).map (·.2.2) = some [] := by
  rw [synRuns, if_neg (not_done hn)]
  dsimp only
  rw [(mute_iff a p).mpr hm, hs]
  rfl
theorem synRuns_beyond (hp : setHas j.passed a.ix = false) (hm : ¬ Mute a p) (hb : beyond p = true) :
    (synRuns j pic0 a (p :: l)).map (·.2.2) = [[.err 0x28 p.start a.ix ((pic0 + a.n) % 2 ^ 32)]] := by
  rw [← mute_iff, Bool.not_eq_true] at hm
  rw [synRuns, if_neg (not_done hn)]
  dsimp only
  rw [hm, hb, hp]
  rfl
variable (hm : ¬ Mute a p) (hb : beyond p = false)
include hm hb
theorem synRuns_whole (hs : p.stop = none) :
    ((synRuns j pic0 a (p :: l)).head?).map (·.2.2) = some (picToks j.av1 j.chroma p ((pic0 + a.n) % 2 ^ 32)) := by
  rw [← mute_iff, Bool.not_eq_true] at hm
  rw [synRuns, if_neg (not_done hn)]
  dsimp only
  rw [hm, hb, hs]
  rfl
theorem synRuns_stops (hp : setHas j.passed a.ix = false) {cut : Bool} {i : Nat} (hs : p.stop = some (cut, i)) : (synRuns j pic0 a (p :: l)).map (·.2.2) =
    [picToks j.av1 j.chroma p ((pic0 + a.n) % 2 ^ 32) ++ [.err (if cut then 0x2B else 0x2C) i a.ix ((pic0 + a.n) % 2 ^ 32)]] := by
  rw [← mute_iff, Bool.not_eq_true] at hm
  rw [synRuns, if_neg (not_done hn)]
  dsimp only
  rw [hm, hb, hp, hs]
  rfl
end

theorem claim_syntaxTokensHoldTheRecords : Claims.SyntaxTokensHoldTheRecords := by
  intro av1 chroma p pic b cells whole
  refine ⟨?_, ?_, ?_, ?_, fun q n h => planeLevels_uncoded n h, fun x h => synLevels_tokens h, fun depth qp q h => stepsOf_hevc depth h,
    fun depth sh dc ac q h => stepsOf_av1 depth h, fun j pic0 a l => ?_⟩
  · rfl
  · intro r
    obtain ⟨high, low⟩ := picRec_cells p pic
    exact ⟨whole_recTok _, picRec_mode p pic, high, low, picRec_lane p pic (by decide), fun i hi => picRec_zero p pic hi⟩
  · intro r f why intra mv
    obtain ⟨y0, y1, hy, hy0, hy1⟩ := stepsOf_two p.depth b.luma
    obtain ⟨b0, b1, hb, hb0, hb1⟩ := stepsOf_two p.depth b.cb
    obtain ⟨r0, r1, hr, hr0, hr1⟩ := stepsOf_two p.depth b.cr
    have rec_ : r = recTok (blockLanes av1 chroma p pic b y0 y1 b0 b1 r0 r1) := blockRec_eq av1 chroma p pic b hy hb hr
    have lane {i : Nat} (h : i < 16) : r.lane i = (blockLanes av1 chroma p pic b y0 y1 b0 b1 r0 r1).getD i 0 % 2 ^ 32 := by rw [rec_, lane_recTok _ h]
    obtain ⟨place_y, place_x⟩ := cells_fields (lane (i := 0) (by decide)) b.y.isLt b.x.isLt
    obtain ⟨coded, cr, cb, luma⟩ := codedBits_fields b
    obtain ⟨w31, w23, w21, w18, w17, w16, w15, w13, w11, w10, w9, w7, w3⟩ := flagsWord_fields (lane (i := 1) (by decide))
      (by have := b.qp.isLt; split <;> omega) (Nat.lt_of_le_of_lt (reasonOf_le av1 b) (by decide)) coded (by unfold codedLog; omega)
      (by unfold codedLog; omega) (by cases twoMv b <;> decide) (modeOf_lt av1 b) (by unfold blockLog; omega) (by unfold blockLog; omega)
    obtain ⟨ref31, ref21, ref18, ref15⟩ := refs_fields (lane (i := 10) (by decide)) b.ref1.isLt b.ref0.isLt (Nat.mod_lt _ (by decide))
    obtain ⟨cells31, cells15⟩ := cells_fields (lane (i := 13) (by decide)) (cellCount_lt _) (cellCount_lt _)
    refine ⟨rec_ ▸ whole_recTok _, place_y, place_x, w31, w23, w21, ?_, ?_, ?_, w15, w13, w11, ?_, w9, w7, w3, ?_, ?_, ?_, ref31, ref21, ref18, ref15,
      lane (by decide), lane (by decide), cells31, cells15, lane (by decide), lane (by decide)⟩
    · exact (congrArg (· = 1) w18).to_iff.trans cr
    · exact (congrArg (· = 1) w17).to_iff.trans cb
    · exact (congrArg (· = 1) w16).to_iff.trans luma
    · exact (congrArg (· = 1) w10).to_iff.trans (twoMv_iff b)
    · intro i hi
      rw [hy, hb, hr]
      interval_cases i
      · exact ⟨(lane (i := 2) (by decide)).trans (code_mod hy0), (lane (i := 4) (by decide)).trans (code_mod hb0),
          (lane (i := 6) (by decide)).trans (code_mod hr0)⟩
      · exact ⟨(lane (i := 3) (by decide)).trans (code_mod hy1), (lane (i := 5) (by decide)).trans (code_mod hb1),
          (lane (i := 7) (by decide)).trans (code_mod hr1)⟩
    · intro h
      exact ⟨(lane (i := 8) (by decide)).trans (congrArg (· % 2 ^ 32) (mvLane_none av1 b 0 h)),
        (lane (i := 9) (by decide)).trans (congrArg (· % 2 ^ 32) (mvLane_none av1 b 2 h))⟩
    · intro hw hm
      obtain ⟨low, high⟩ := mv_fields ((lane (i := 8) (by decide)).trans (congrArg (· % 2 ^ 32) (mvLane_two av1 b 0 hw (mvsOf_zero b hm))))
      refine ⟨low, high, fun hi => ?_, fun hi => ?_⟩
      · exact mv_fields ((lane (i := 9) (by decide)).trans (congrArg (· % 2 ^ 32) (mvLane_two av1 b 2 hw ((mvsOf_two b hm).trans hi))))
      · refine (lane (i := 9) (by decide)).trans (congrArg (· % 2 ^ 32) (if_pos (.inr ?_)))
        rw [mvsOf_two b hm, hi]
        rfl
  · exact ⟨reasonOf_zero av1 b, reasonOf_le av1 b, fun t ht => reasonOf_le_cause av1 b ((mem_causes av1 b _).mpr (.inl ⟨t, ht, rfl⟩)),
      reasonOf_far av1 b, reasonOf_farAlone av1 b⟩
  · exact ⟨fun hn h => synRuns_done l hn h, fun hn hp => ⟨fun hm hs => synRuns_mute l hn hm hs, fun hm hb => synRuns_beyond l hn hp hm hb,
      fun hm hb hs => synRuns_whole l hn hm hb hs, fun hm hb cut i hs => synRuns_stops l hn hm hb hp hs⟩⟩

end Sys2Proof.Proofs.SyntaxRecords
end

section
/-! PROOFS. Syntax engines take their jobs, push their tokens, and change their owner (R230 to R232, R349). -/
namespace Sys2Proof.Proofs.SyntaxEngines
open Sys2Proof Sys2Proof.Machine
set_option Elab.async false

/-! ## Jobs and their tokens -/

/-- A Syntax engine. -/
def eng (s : State) (y : BitVec 3) : SynEng := vget s.syn y.toNat {}
/-- The engine's job gives a token. -/
def given (s : State) (y : BitVec 3) (j : SynJob) (x : Token) : State :=
  (State.modSynRun ((s.pushOf j.tile j.slot j.phase j.port (.tok { x with tag := .ofNat 6 (j.tag.toNat + j.sent) })).setSyn y
    { eng s y with job := some { j with sent := j.sent + 1 } }) j fun r => { r with head := r.head + 1 }).progress j.rkey
/-- The engine's job gives a token where the port has room. -/
def gives (s : State) (y : BitVec 3) (j : SynJob) (x : Token) : State :=
  if s.spaceOf j.tile j.slot j.phase j.port then given s y j x else s
/-- What comes next of a job. -/
def nextOut (s : State) (y : BitVec 3) (j : SynJob) (outs : List SynOut) : Option SynOut → State
  | some (.tok x _) => gives s y j x
  | some (.err k i _ pic) => s.synFault y j k i pic
  | none => if j.eos ∧ j.sent = outs.length then gives s y j (eosTok 0) else s

/-- What an engine with a job comes to. -/
def busy (s : State) (y : BitVec 3) (j : SynJob) : State :=
  if !s.jobRuns j ((eng s y).ctxOf j) then s
  else if !((eng s y).ctxOf j).used then s.synFault y j 0x2A 0 0
  else nextOut s y j (j.outs ((eng s y).ctxOf j)) (j.outs ((eng s y).ctxOf j))[j.sent]?

section
variable {s : State} {y : BitVec 3}
theorem tokenPush_stopped (h : (eng s y).stop ≠ none) : execSyntaxTokenPush y s = .next s :=
  congrArg Host.Outcome.next (if_pos (Option.isSome_iff_ne_none.mpr h))
variable (hs : (eng s y).stop = none)
include hs
theorem tokenPush_idle (hj : (eng s y).job = none) : execSyntaxTokenPush y s = .next (s.synTake y (eng s y)) := by
  refine congrArg Host.Outcome.next ((if_neg ?_).trans ?_)
  · rw [show (vget s.syn y.toNat {}).stop = none from hs]
    nofun
  · rw [show (vget s.syn y.toNat {}).job = none from hj]
    rfl
variable {j : SynJob} (hj : (eng s y).job = some j)
include hj
theorem tokenPush_busy : execSyntaxTokenPush y s = .next (busy s y j) := by
  refine congrArg Host.Outcome.next ((if_neg (Option.not_isSome_iff_eq_none.mpr hs)).trans ?_)
  split
  · next h => cases h.symm.trans hj
  next i h =>
  obtain rfl : i = j := Option.some.inj (h.symm.trans hj)
  refine if_congr Iff.rfl rfl (if_congr Iff.rfl rfl ?_)
  rw [show eng s y = vget s.syn y.toNat {} from rfl]
  generalize (i.outs (SynEng.ctxOf _ i))[i.sent]? = o
  cases o with
  | none => rfl
  | some x => cases x <;> rfl
theorem tokenPush_held (h : s.jobRuns j ((eng s y).ctxOf j) = false) : execSyntaxTokenPush y s = .next s :=
  (tokenPush_busy hs hj).trans (congrArg _ (if_pos (by rw [h]; rfl)))
variable (hr : s.jobRuns j ((eng s y).ctxOf j) = true)
include hr
theorem tokenPush_unused (hu : ((eng s y).ctxOf j).used = false) : execSyntaxTokenPush y s = .next (s.synFault y j 0x2A 0 0) :=
  (tokenPush_busy hs hj).trans (congrArg _ ((if_neg (by rw [hr]; nofun)).trans (if_pos (by rw [hu]; rfl))))
theorem tokenPush_out (hu : ((eng s y).ctxOf j).used = true) :
    execSyntaxTokenPush y s = .next (nextOut s y j (j.outs ((eng s y).ctxOf j)) (j.outs ((eng s y).ctxOf j))[j.sent]?) :=
  (tokenPush_busy hs hj).trans (congrArg _ ((if_neg (by rw [hr]; nofun)).trans (if_neg (by rw [hu]; nofun))))
end
section
variable {s : State} {y : BitVec 3} {j : SynJob} {l : List SynJob}
theorem synTake_none (h : (eng s y).queue = []) : s.synTake y (eng s y) = s := by rw [State.synTake, h]
section
variable (hq : (eng s y).queue = j :: l)
include hq
/-- The engine with its oldest job taken. -/
def tookJob (s : State) (y : BitVec 3) (j : SynJob) (l : List SynJob) : State :=
  s.setSyn y ({ eng s y with job := some { j with begun := true, saved := none }, queue := l }.modCtx j j.finds)
theorem synTake_eq : s.synTake y (eng s y) =
    if (eng s y).pend.isSome || j.part != (eng s y).owner || !s.jobRuns j ((eng s y).ctxOf j) then s else tookJob s y j l := by
  rw [State.synTake, hq]
  rfl
theorem synTake_waits (h : (eng s y).pend ≠ none ∨ j.part ≠ (eng s y).owner ∨ s.jobRuns j ((eng s y).ctxOf j) = false) :
    s.synTake y (eng s y) = s := by
  refine (synTake_eq hq).trans (if_pos ?_)
  rw [← Option.isSome_iff_ne_none, ← or_assoc] at h
  simpa using h
theorem synTake_takes (hp : (eng s y).pend = none) (ho : j.part = (eng s y).owner) (hr : s.jobRuns j ((eng s y).ctxOf j) = true) :
    s.synTake y (eng s y) = tookJob s y j l := (synTake_eq hq).trans (if_neg (by rw [hp, ho, hr]; simp))
end
/-- The context as a job finds it. -/
theorem finds_eq (j : SynJob) (c : SynCtx) : j.finds c =
    { (match j.saved with
      | some x => x
      | none => if j.newseq = true ∧ j.begun = false then { used := true, av1 := j.av1 } else c) with rkey := j.rkey } := by
  unfold SynJob.finds
  cases j.saved with
  | some => rfl
  | none => cases j.newseq <;> cases j.begun <;> rfl

section
variable (hs : (eng s y).stop = none) (hj : (eng s y).job = some j)
include hs hj
theorem jobEnd_ends (hu : ((eng s y).ctxOf j).used = true) (hn : (j.outs ((eng s y).ctxOf j)).length + j.eos.toNat = j.sent) :
    execSyntaxJobEnd y s = .next (State.modSynRun (s.setSyn y ({ eng s y with job := none }.modCtx j j.leaves)) j fun r => { r with eosOut := true }) := by
  refine congrArg Host.Outcome.next ?_
  extract_lets g
  split
  · next h => cases h.symm.trans hj
  next i h =>
  obtain rfl : i = j := Option.some.inj (h.symm.trans hj)
  exact if_neg (by rw [show g.stop = none from hs]; simp [show (g.ctxOf i).used = true from hu, show (i.outs (g.ctxOf i)).length + _ = _ from hn])
theorem jobEnd_stays (h : ((eng s y).ctxOf j).used = false ∨ (j.outs ((eng s y).ctxOf j)).length + j.eos.toNat ≠ j.sent) :
    execSyntaxJobEnd y s = .next s := by
  refine congrArg Host.Outcome.next ?_
  extract_lets g
  split
  · next h => cases h.symm.trans hj
  next i hi =>
  obtain rfl : i = j := Option.some.inj (hi.symm.trans hj)
  refine if_pos ?_
  rw [show g.stop = none from hs]
  obtain h | h := h
  · rw [show (g.ctxOf i).used = false from h]; rfl
  · exact Bool.or_eq_true_iff.mpr (.inr (bne_iff_ne.mpr h))
end
end
theorem leaves_hist {j : SynJob} (c : SynCtx) (h : j.pics = 0) : (j.leaves c).hist = c.hist ++ [j.bytes] :=
  congrArg (fun b => c.hist ++ [b]) (if_neg fun n => n.1 h)

theorem claim_syntaxJobsPushTheirTokens : Claims.SyntaxJobsPushTheirTokens := by
  intro s y j l g c pushes
  have pushing {x : Token} {u : State} (e : exec (.syntaxTokenPush y) s = .next u) (he : u = gives s y j x) : pushes x :=
    ⟨fun h => e.trans (congrArg _ (he.trans (if_pos h))), fun h => e.trans (congrArg _ (he.trans (if_neg (by rw [h]; nofun))))⟩
  refine ⟨tokenPush_stopped, fun hs hj => ⟨fun hq => ?_, fun hq h => ?_, fun hq hp ho hr => ?_⟩, fun hs hj =>
    ⟨tokenPush_held hs hj, fun hr => ⟨tokenPush_unused hs hj hr, fun hu => ?_⟩, jobEnd_ends hs hj, jobEnd_stays hs hj⟩, leaves_hist c, rfl⟩
  · exact (tokenPush_idle hs hj).trans (congrArg _ (synTake_none hq))
  · exact (tokenPush_idle hs hj).trans (congrArg _ (synTake_waits hq h))
  · intro found
    refine ((tokenPush_idle hs hj).trans (congrArg _ (synTake_takes hq hp ho hr))).trans ?_
    exact congrArg (fun x => Host.Outcome.next (s.setSyn y { g with
      job := some { j with begun := true, saved := none }, queue := l, ctx := vset g.ctx j.ctx.toNat x })) (finds_eq j c)
  · have out := tokenPush_out hs hj hr hu
    generalize hx : (j.outs ((eng s y).ctxOf j))[j.sent]? = x at out
    rw [show (j.outs c)[j.sent]? = x from hx]
    cases x with
    | some x =>
      cases x with
      | tok x b => exact pushing out rfl
      | err => exact out
    | none =>
      dsimp only
      split
      · next h => exact pushing out (if_pos h)
      · next h => exact out.trans (congrArg _ (if_neg h))

/-! ## Owners -/

section
variable {s : State} {y : BitVec 3} {p : PartId}
theorem assign_same (h : (eng s y).owner = p) : execSynassignChange y p s = .next s := congrArg Host.Outcome.next (if_pos h)
section
variable (ho : (eng s y).owner ≠ p)
include ho
theorem assign_now (hj : (eng s y).job = none) (hq : (eng s y).queue = []) (hf : s.synFed y = []) : execSynassignChange y p s =
    .next (s.setSyn y { eng s y with owner := p, pend := none, ctx := Vector.replicate 4 {} }) := by
  refine congrArg Host.Outcome.next ((if_neg ho).trans (if_neg ?_))
  rw [show (vget s.syn y.toNat {}).job = none from hj, show (vget s.syn y.toNat {}).queue = [] from hq, hf]
  nofun
theorem assign_waits (h : (eng s y).job ≠ none ∨ (eng s y).queue ≠ [] ∨ s.synFed y ≠ []) : execSynassignChange y p s =
    .next (s.setSyn y { eng s y with pend := some p }) := by
  refine congrArg Host.Outcome.next ((if_neg ho).trans (if_pos ?_))
  rw [← Option.isSome_iff_ne_none, ← or_assoc] at h
  unfold eng at h
  simpa only [Bool.or_eq_true, ne_eq, Bool.not_eq_true', ← Bool.not_eq_true, List.isEmpty_iff] using h
end
theorem takeEffect_now (hp : (eng s y).pend = some p) (hj : (eng s y).job = none) {u : State}
    (hu : (((eng s y).queue.map fun j => (j.tile, j.e)) ++ s.synFed y).foldl (fun s x => s.cancelEngine x.1 x.2) s = u) :
    execSynassignTakeEffect y s = .next (u.setSyn y { eng u y with owner := p, pend := none, ctx := Vector.replicate 4 {}, queue := [] }) := by
  unfold execSynassignTakeEffect
  dsimp only
  rw [show (vget s.syn y.toNat {}).pend = some p from hp, show (vget s.syn y.toNat {}).job = none from hj, ← hu]
  rfl
theorem takeEffect_stays (h : (eng s y).pend = none ∨ (eng s y).job ≠ none) : execSynassignTakeEffect y s = .next s := by
  refine congrArg Host.Outcome.next ?_
  extract_lets g
  split
  · next hp hj =>
    obtain h | h := h
    · cases h.symm.trans hp
    · exact absurd hj h
  · rfl
end

theorem claim_syntaxEnginesChangeOwner : Claims.SyntaxEnginesChangeOwner :=
  fun _ _ _ => ⟨assign_same, assign_now, assign_waits, fun hp hj => takeEffect_now hp hj rfl, takeEffect_stays⟩

/-- Settles O36: the records' fields, the cases of a push and of a job's end, and the changes of owner. -/
theorem syntaxEnginesServeTheirOwner : Obligations.SyntaxEnginesServeTheirOwner :=
  ⟨SyntaxRecords.claim_syntaxTokensHoldTheRecords, claim_syntaxJobsPushTheirTokens, claim_syntaxEnginesChangeOwner⟩

end Sys2Proof.Proofs.SyntaxEngines
end

section
/-! PROOFS. The canonical form of the memories is not kept by every step (logs 8 and 9): a recovery image that waits to be written to flash
(R378) is no part of it. -/
namespace Sys2Proof.Proofs.CanonicalMemory
open Sys2Proof Sys2Proof.Machine Sys2Proof.Proofs.Boot
set_option Elab.async false

/-- A boot keeps the flash, whatever comes of it (R376). -/
theorem boot_flash (s : State) (i : BootInput) : (s.boot i).flash = s.flash := by
  obtain ⟨hbm, flash⟩ := i
  cases hbm with
  | false =>
    obtain ⟨l, h⟩ := boot_hbm_fails s flash
    rw [h]
    rfl
  | true =>
    cases flash with
    | false =>
      obtain ⟨l, h⟩ := boot_flash_fails s
      rw [h]
      rfl
    | true =>
      cases hc : imageCause s.flash with
      | some c =>
        obtain ⟨l, h⟩ := boot_image_fails s hc
        rw [h]
        rfl
      | none =>
        obtain ⟨l, h⟩ := boot_starts s hc
        rw [h]
        rfl
/-- A recovery image that is written becomes the flash (R378). -/
theorem recovered_flash {s : State} {m : Mem} (h : s.recov = some m) : s.recovered.flash = m := by
  unfold State.recovered
  rw [h]
  exact boot_flash _ _

/-- A store that lists a byte that reads as zero. -/
def loose : Mem := [(0, 0)]
/-- A device as reset leaves it, but at STAGE 7 with that store to be written to its flash, and an agenda. -/
def writing (l : List Turn) : State := { State.reset with stage := 7, recov := some loose, live := false, powered := true, shut := false, agenda := l }
theorem writing_canon (l : List Turn) : (writing l).Canon := by
  obtain ⟨-, -, -, -, -, -, -, -, canon⟩ := Steps.resetLeavesAnEmptyDevice
  exact canon
theorem step_writing : step (writing [⟨0, .event (.recoveryImageWrite 0)⟩]) = .next (writing []).recovered := rfl

/-- Refutes O57: the bytes that wait for the flash at STAGE 7 need not be in canonical form, and the write that completes puts them there. -/
theorem not_everyStepKeepsCanonicalMemory : ¬ Obligations.EveryStepKeepsCanonicalMemory := by
  unfold Obligations.EveryStepKeepsCanonicalMemory
  intro h
  obtain ⟨-, flash, -⟩ := h _ _ (writing_canon _) step_writing
  rw [recovered_flash (m := loose) rfl] at flash
  exact absurd flash (by decide)

end Sys2Proof.Proofs.CanonicalMemory
end
